-- ==== Sys2Proof/Word.lean ====
section
/-! DEFINITION. The word types of the block: registers are 32 bits wide (R6), host and on-chip memory is addressed in
bytes. -/

namespace Sys2Proof

/-- A register word (R6). -/
abbrev Word := BitVec 32

/-- A byte of memory or of a frame. -/
abbrev Byte := BitVec 8

end Sys2Proof
end

