-- ==== Sys2Proof/Syntax.lean ====
section
/-! DEFINITION. The commands of the FX9840: one constructor per row of spec/opcode_table.json, with the facts of the
outside world the row needs (what a decoder, a sensor, a host read or a pin delivers) as operands. -/

namespace Sys2Proof

/-- A line side (R7). -/
inductive Side where
  | a
  | b
  deriving DecidableEq, Repr

/-- A requester of register accesses (R10, R36). -/
inductive Req where
  | host
  | team (t : Fin 16)
  | groom
  deriving DecidableEq, Repr

/-- How a read of host memory ends: with data, with an error, or without an answer in time (R333, event 13 of R339). -/
inductive HostRead where
  | data
  | error
  | timeout
  deriving DecidableEq, Repr

/-- What a header check by a 13-bit HEC answers: correct, corrected, or uncorrectable. The code itself is the line's
(the spec takes it from its G-mode standard), so its verdict on received bits is a fact of the line. -/
inductive Hec where
  | ok
  | corrected
  | bad
  deriving DecidableEq, Repr

/-- Start delimiter of what a client port receives (R301, IEEE 802.3br): an express frame, a verify request, a response, the start
of a preemptable frame with its frame count, or a continuation with frame count and fragment count. -/
inductive Smd where
  | express
  | verify
  | respond
  | start (count : Fin 4)
  | cont (count frag : Fin 4)
  deriving DecidableEq, Repr

/-- A hardware thread: team, Courser within the team, thread within the Courser (R207). -/
structure Tid where
  team : Fin 16
  courser : Fin 8
  thread : Fin 8
  deriving DecidableEq, Repr

/-- What memory and time deliver to one issued instruction: an uncorrectable error met by its access (R232 code 3), an
uncorrectable classifier entry met by a lookup (R196), an unanswered register access (R320), and the latency from
issue to completion in ticks (R230). -/
structure IsaFact where
  unc : Bool := false
  tabUnc : List (Nat × Bool) := []
  silent : Bool := false
  lat : Nat := 0
  deriving DecidableEq, Repr

/-- How the target of a register read answers (R320, R321). -/
inductive ReadFact where
  | answers
  | silent
  | uncorrectable
  deriving DecidableEq, Repr

/-- The level-0 cells of R15. -/
inductive CellKind where
  | courser
  | memMacro
  | lane
  | decoder
  | crossing
  deriving DecidableEq, Repr

/-- The causes of a host reset (R316). -/
inductive HostResetCause where
  | perst
  | flr
  | d0
  | glbRst (v : Word)
  deriving DecidableEq, Repr

/-- A 32-byte descriptor as read from host memory, word by word (R326 to R328). -/
structure Desc where
  w0 : Word := 0
  w1 : Word := 0
  w2 : Word := 0
  w3 : Word := 0
  w4 : Word := 0
  w5 : Word := 0
  w6 : Word := 0
  w7 : Word := 0
  deriving DecidableEq, Repr

/-- The ordering codes (R12): commercial, industrial, commercial with the Harness link fused off. -/
inductive Grade where
  | fb
  | fbi
  | fbx
  deriving DecidableEq, Repr


/-- A downstream frame as it reaches the framer (R67 to R73): the PSync window (in G-mode the bits that differ from the
recommendation's), the superframe counter structure, the information bytes from byte 16 on as the decoder gives them
(scrambled), the G-mode PON-ID structure, the eye SNR
averaged over the frame (R57) and the phase of the boundary in the tick (R281). Bytes past the end of `body` descramble to 0. -/
structure DsFrame where
  psync : BitVec 64 := 0x9D3A62F1C48E0B57
  gPsyncErr : Nat := 0
  sfc : BitVec 64 := 0
  body : List (BitVec 8) := []
  gPon : BitVec 64 := 0
  snrUpper : Nat := 0
  snrMiddle : Nat := 0
  snrLower : Nat := 0
  phase : Fin 16 := 0
  deriving DecidableEq, Repr

/-- The commands: every row of the opcode table. -/
inductive Instr where
  /-- REGISTER_WRITE (R9): A write to a register that has no row of its own, applied under its access code, owner field and lock; writes to unavailable targets are discarded and raise event 1. -/
  | registerWrite (q : Req) (addr : Nat) (v : Word) (silent : Bool)
  /-- COUNTER_LO_READ (R10): A read of the LO word of a 64-bit counter latches its upper half into the requester's HI shadow for that block. -/
  | counterLoRead (q : Req) (addr : Nat)
  /-- READ_CLEAR (R9): A read of an RC field, such as a RESULT field, returns its value and clears it. -/
  | readClear (q : Req) (addr : Nat)
  /-- CELL_FAULT (R15): A level-0 cell detects a fault and handles it by ECC write-back, lane retrain, decoder re-iteration or crossing recovery, or passes it up. -/
  | cellFault (cell : CellKind) (region : Fin 9) (block inst src : Nat) (info : Word) (resolved quarOk : Bool) (xngs : List (Fin 30))
  /-- BLOCK_RESET_TIMEOUT (R15): A block reset that has not completed within 1 ms, or the second reset of a block within 1 s, escalates the fault to chip level. -/
  | blockResetTimeout (region : Fin 9) (block inst : Nat) (info : Word)
  /-- FAULT_RECORD_CLEAR (R20): Writing 1 to GLB_FLT_CAUSE.VALID clears the fault record and releases FAULT_N. -/
  | faultRecordClear (q : Req) (v : Word)
  /-- GAIT_WINDOW_END (R22): At the end of each 10 µs window, each team's gait is computed from the number of ring trips. -/
  | gaitWindowEnd (trips : List Nat)
  /-- CROSSING_RESYNC (R30): A reset side that leaves reset takes over the surviving side's pointer in a handshake, and traffic resumes. -/
  | crossingResync (i : Fin 30)
  /-- CROSSING_TIMEOUT (R34): A crossing whose other clock has stopped times out, empties, counts the discards, raises event 8 and starts refusing. -/
  | crossingTimeout (i : Fin 30) (part : Nat)
  /-- CROSSING_REFUSAL_END (R34): After 1,024 cycles of the returned clock, a refusing crossing accepts traffic again. -/
  | crossingRefusalEnd (i : Fin 30)
  /-- RECEIVER_START (R49): Writing LIN_MODE.RX_EN = 1 starts the receiver with ADC calibration. -/
  | receiverStart (q : Req) (x : Side) (v : Word)
  /-- RECEIVER_STOP (R461): Writing RX_EN = 0 stops the receiver, discards the codeword, drops DS_VALID and declares dLOF with cause 3. -/
  | receiverStop (q : Req) (x : Side) (v : Word)
  /-- LINE_MODE_SET (R48): A write of LIN_MODE.MODE or US_RATE, discarded while RX_EN or TX_EN is 1 or where it breaks R3. -/
  | lineModeSet (q : Req) (x : Side) (v : Word)
  /-- TX_ENABLE (R445): Setting or clearing LIN_MODE.TX_EN makes the BEN pin drive its level or go high-impedance. -/
  | txEnable (q : Req) (x : Side) (on : Bool)
  /-- ADC_CALIBRATION_DONE (R49): The ADC calibration completes, ADC_CAL is set and CDR acquisition begins. -/
  | adcCalibrationDone (x : Side)
  /-- CDR_LOCK_GAINED (R49): The CDR acquires frequency and phase, sets CDR_LOCK and raises event offset 1. -/
  | cdrLockGained (x : Side)
  /-- CDR_LOCK_LOST (R52): More than 1,024 cycle slips in 10 µs drop CDR_LOCK, hold the frequency word and raise event offset 0. -/
  | cdrLockLost (x : Side)
  /-- ADAPTATION_CONVERGED (R49): The equaliser and thresholds converge, and CONV is set. -/
  | adaptationConverged (x : Side) (steps : List (List Int)) (thresholds : List Int)
  /-- SIGNAL_DETECT_CHANGE (R53): Signal detect is evaluated over 1 µs, and SD rises or falls. -/
  | signalDetectChange (x : Side) (pp : Nat)
  /-- CODEWORD_DECODE (R54): An LDPC codeword is decoded within MAX_ITER iterations and passed to the framer, marked when uncorrectable. -/
  | codewordDecode (x : Side) (idx : Fin 1440) (codes : List Int) (bits iters : Nat) (unc : Bool)
  /-- TXF_CHANGE (R47): A laser-fault level that holds for 8 cycles updates LIN_FE_STAT.TXF and Bridle. -/
  | txfChange (x : Side) (level : Bool)
  /-- PEQ_LOAD (R59): The owner's LOAD checks, clamps and stages the pending pre-equalisation set, superseding a waiting one. -/
  | peqLoad (q : Req) (x : Side) (v : Word)
  /-- PEQ_DECISION_POINT (R60): 256 cycles before a burst's BEN rise, a staged set is applied and an event is raised if it was clamped. -/
  | peqDecisionPoint (x : Side)
  /-- RXP_CAL_COMMIT (R63): A write of GRM_RXP_CAL_B commits the segment together with its CAL_A shadow. -/
  | rxpCalCommit (q : Req) (x : Side) (k : Fin 8) (v : Word)
  /-- I2C_TRANSACTION_START (R64): The owner's GO starts an optics I2C transaction; GO while busy sets OVERRUN, and BUS = 1 without BUS1_EN ends with NO_BUS. -/
  | i2cTransactionStart (q : Req) (x : Side) (v : Word)
  /-- I2C_TRANSACTION_DONE (R64): An I2C transaction ends with DONE and a result, raising event offset 5 if it failed. -/
  | i2cTransactionDone (x : Side) (result : Fin 4) (bytes : List Byte)
  /-- I2C_BUS1_ENABLE (R65): Setting LIN_I2C_CFG.BUS1_EN claims resource 12 or 13 for the second bus. -/
  | i2cBus1Enable (q : Req) (x : Side) (v : Word)
  /-- DOWNSTREAM_FRAME (R68): A downstream frame is processed at its boundary: header structures, control structure, map, messages, ODC and circuit partitions, and synchronisation state. -/
  | downstreamFrame (x : Side) (f : DsFrame)
  /-- PSYNC_MATCH (R81): A PSync match in HUNT or PRESYNC records a candidate. -/
  | psyncMatch (x : Side) (pos : Nat) (f : DsFrame)
  /-- ENCAP_FRAME_RECEIVE (R74): An encapsulated frame is checked by its HEC, filtered by port ID, decrypted, and joined into a client frame. -/
  | encapFrameReceive (x : Side) (ghec : Hec)
  /-- MGMT_MESSAGE_RECEIVE (R96): A management message for this terminal is passed to the Coursers and counted, or dropped. -/
  | mgmtMessageReceive (x : Side)
  /-- LOS_DECLARE (R86): SD held at 0 for 250 µs declares dLOS. -/
  | losDeclare (x : Side)
  /-- LOS_CLEAR (R86): SD held at 1 for 125 µs clears dLOS. -/
  | losClear (x : Side)
  /-- RANGING_HOLD_EXPIRE (R88): The ranging hold timer expires, raises event offset 15, and the activation state leaves intermittent loss. -/
  | rangingHoldExpire (x : Side)
  /-- PM_LATCH (R97): The one-second tick copies the live counters into a PM bank, evaluates dSD and dUNC, and increments DSF_PM_SEQ. -/
  | pmLatch (x : Side)
  /-- ODC_INSERT_MULTIFRAME (R95): A complete insertion multiframe enters its FIFO, dropping the oldest on overrun. -/
  | odcInsertMultiframe (x : Side) (second : Bool) (bytes : List Byte)
  /-- ODC2_INPUT_ENABLE (R92): Setting ODC2_IN_EN claims resource 12 or 13 for feature 0x09. -/
  | odc2InputEnable (q : Req) (x : Side) (v : Word)
  /-- BWMAP_ENTRY_RECEIVE (R105): A bandwidth-map entry for this terminal is validated and becomes a grant, or is refused and counted. -/
  | bwmapEntryReceive (x : Side) (ghec : Hec) (delay : Nat)
  /-- BURST_ASSEMBLY_START (R42): 4.0 µs before grant start, assembly begins: RDI and buffer status are sampled, and frames are taken for each allocation. -/
  | burstAssemblyStart (x : Side) (bad : List (Fin 6272 × Nat))
  /-- BURST_TRANSMIT (R116): At its granted instant the burst goes out with preamble, delimiter, header, message and allocations under BEN. -/
  | burstTransmit (x : Side)
  /-- BRIDLE_UNLOCK_STAGE (R123): A host write of an unlock value to UPB_BRIDLE_UNLOCK advances or resets UNLOCK_STAGE. -/
  | bridleUnlockStage (q : Req) (x : Side) (v : Word)
  /-- BRIDLE_UNLOCK_TIMEOUT (R123): A pause of more than 1 ms in the unlock sequence returns UNLOCK_STAGE to 0. -/
  | bridleUnlockTimeout (x : Side)
  /-- ROGUE_CLEAR (R123): Writing 1 to ROGUE at stage 2 clears the rogue latch and raises event offset 22. -/
  | rogueClear (q : Req) (x : Side) (v : Word)
  /-- UPSTREAM_MESSAGE_PUSH (R114): UPB_MSG_PUSH copies the message to the upstream queue, or sets OVF when it is full. -/
  | upstreamMessagePush (q : Req) (x : Side) (v : Word)
  /-- EQD_WRITE (R118): A write of UPB_EQD sets PENDING and applies from the next frame boundary. -/
  | eqdWrite (q : Req) (x : Side) (v : Word)
  /-- ASSIGN_TID (R126): In serial number, copies the TID, zeroes EqD, starts TO1 and enters ranging. -/
  | upbAssignTid (q : Req) (x : Side)
  /-- RANGED (R126): In ranging, stops TO1 and enters operation. -/
  | upbRanged (q : Req) (x : Side)
  /-- DEACTIVATE (R126): Clears TID and allocations, zeroes EqD, empties the grant store and enters serial number. -/
  | upbDeactivate (q : Req) (x : Side)
  /-- DISABLE (R126): Empties the grant store, stops BEN and enters emergency stop. -/
  | upbDisable (q : Req) (x : Side)
  /-- ENABLE (R126): Returns a side from emergency stop to initial. -/
  | upbEnable (q : Req) (x : Side)
  /-- SERIAL_NUMBER_ENTER (R125): From initial, once DS_VALID = 1 and a profile is valid, the side moves by itself to serial number. -/
  | upbSerialNumberEnter (x : Side)
  /-- TO1_EXPIRE (R128): TO1 expires in ranging, performs DEACTIVATE's effects and raises event offset 25. -/
  | to1Expire (x : Side)
  /-- PAIRING_CONFIG_WRITE (R136): A PRT_CFG write sets the pairing mode or is refused, and a mode change resets sequence counters and the reorder store. -/
  | pairingConfigWrite (q : Req) (v : Word)
  /-- MANUAL (R142): Protection command MANUAL switches to the other eligible side. -/
  | prtManual (q : Req)
  /-- LOCK (R142): Protection command LOCK stops automatic and revertive switching. -/
  | prtLock (q : Req)
  /-- UNLOCK (R142): Protection command UNLOCK resumes automatic switching and evaluates R139 at once. -/
  | prtUnlock (q : Req)
  /-- WTR_EXPIRE (R143): The wait to restore ends, and the device reverts to HOME with cause REVERT. -/
  | wtrExpire
  /-- REORDER_ARRIVAL (R151): A downstream frame with SEQ_EN is delivered, held or discarded by the reorder store. -/
  | reorderArrival (x : Side) (exp : Bool)
  /-- REORDER_WINDOW_EXPIRE (R152): The oldest held frame's window ends; the gap counts in RO_LOST and held frames are delivered. -/
  | reorderWindowExpire (port : Fin 1048576)
  /-- HARNESS_FRAME_BOUNDARY (R164): At each Harness frame boundary, frames are associated per side, slips are handled and the upstream copy is made. -/
  | harnessFrameBoundary
  /-- HARNESS_ALIGN (R163): At the first reference-side frame boundary with DS_VALID = 1, the Harness frame is placed 130 µs later. -/
  | harnessAlign
  /-- REALIGN (R163): CKT_CTRL.REALIGN requests a new Harness frame alignment. -/
  | harRealign (q : Req)
  /-- SWAP_DS (R168): Requests a downstream connection-memory page swap and sets PEND_DS. -/
  | swapDs (q : Req)
  /-- SWAP_US (R168): Requests an upstream connection-memory page swap and sets PEND_US. -/
  | swapUs (q : Req)
  /-- FORCE (R169): Makes pending swaps take effect at the next Harness frame boundary. -/
  | cktForce (q : Req)
  /-- PAGE_SWAP (R168): At a reference-side multiframe boundary, pending pages swap, PEND clears and event 224 is raised. -/
  | pageSwap
  /-- CM_STANDBY_WRITE (R170): A write to a standby connection-memory entry, refused with event 225 while a swap is pending. -/
  | cmStandbyWrite (q : Req) (us : Bool) (h : Fin 3776) (v : Word)
  /-- HARNESS_ENABLE (R174): HAR_CFG.EN = 1 claims resource 14 and starts training; on FX9840-FBX it completes with CONFLICT. -/
  | harnessEnable (q : Req) (v : Word)
  /-- HARNESS_RXCK_DETECT (R174): HAR_RXCK is detected, RXCK_OK is set and the lane samplers lock. -/
  | harnessRxckDetect
  /-- LANE_BLOCK_LOCK (R174): 64 consecutive valid blocks give a lane block lock. -/
  | laneBlockLock (n : Fin 8)
  /-- HARNESS_TX_TRAIN_END (R174): After 16,384 training blocks, the transmitter switches to lane frames. -/
  | harnessTxTrainEnd
  /-- LANE_ALIGN (R174): Four good overhead blocks align a lane; once all lanes are aligned they are deskewed and the link comes up. -/
  | laneAlign (n lane : Fin 8) (skew : Fin 256)
  /-- LANE_LOCK_LOSS (R177): A lane loses block lock or alignment, raises event 228 and retrains. -/
  | laneLockLoss (n : Fin 8) (alignment : Bool)
  /-- LANE_RETRAIN_TIMEOUT (R177): A retrain not aligned within 1 ms fails; after 3 failures the lane is quarantined. -/
  | laneRetrainTimeout (n : Fin 8)
  /-- RETRAIN (R177): HAR_CTRL.RETRAIN clears quarantines and restarts training from step 1. -/
  | harRetrain (q : Req)
  /-- HARNESS_RXCK_LOSS (R178): HAR_RXCK absent for 64 cycles raises event 230 and unaligns every receive lane. -/
  | harnessRxckLoss
  /-- ROW_SLIP (R176): A lane receive store repeats or drops a row and fills its slots. -/
  | rowSlip (n : Fin 8) (drop : Bool) (row : Fin 810)
  /-- EYE_SCAN_START (R179): HAR_EYE_CFG.START begins an eye scan of a lane. -/
  | eyeScanStart (q : Req) (v : Word)
  /-- EYE_SCAN_DONE (R179): An eye scan ends, or ends early, and raises event 236. -/
  | eyeScanDone (points : List Nat)
  /-- FRAME_CLASSIFY (R192): A frame entering the Core is parsed into a key and looked up in the ternary and exact tables. -/
  | frameClassify (x : Fin 4) (exp : Bool) (unc : List (Nat × Bool))
  /-- CLS_WRITE (R197): Classifier command WRITE invalidates the entry and writes it from the staging words. -/
  | clsWrite (q : Req) (exact copy : Bool) (prof : Fin 8) (index : Fin 262144)
  /-- CLS_SETVALID (R197): Classifier command SETVALID validates an entry. -/
  | clsSetvalid (q : Req) (exact copy : Bool) (index : Fin 262144)
  /-- CLS_CLEARVALID (R197): Classifier command CLEARVALID invalidates an entry. -/
  | clsClearvalid (q : Req) (exact copy : Bool) (index : Fin 262144)
  /-- CLS_READ (R197): Classifier command READ copies an entry into the staging words. -/
  | clsRead (q : Req) (exact copy : Bool) (index : Fin 262144)
  /-- CLS_HASH (R197): Classifier command HASH computes the two exact-match buckets of the staged key. -/
  | clsHash (q : Req) (prof : Fin 8)
  /-- CLS_MODE_CHANGE (R200): A change of TC_MODE or EM_MODE empties the table, and is discarded while the table is enabled. -/
  | clsModeChange (q : Req) (v : Word)
  /-- COMMIT (R202): CLS_VER_CMD.COMMIT makes the staging copies live as the next version, or is refused with BUSY or OWNER. -/
  | clsCommit (q : Req)
  /-- CLS_VERSION_DRAINED (R203): The last frame of the old version leaves; event 259 is raised and the staging copy begins. -/
  | clsVersionDrained
  /-- CLS_STAGE_COPY_DONE (R203): The copy into the staging copy ends and STAGE_READY is set. -/
  | clsStageCopyDone
  /-- CLS_DRAIN_TIMEOUT (R203): The old version is still live DRAIN_TMO ms after commit, and event 258 is raised. -/
  | clsDrainTimeout
  /-- FRAME_DISPATCH (R216): A classified frame is placed on a free thread of a candidate team, or dropped when no team is a candidate. -/
  | frameDispatch (exp : Bool)
  /-- ADD (R220): ALU ADD. -/
  | isaAdd (t : Tid) (e : IsaFact)
  /-- SUB (R220): ALU SUB. -/
  | isaSub (t : Tid) (e : IsaFact)
  /-- AND (R220): ALU AND. -/
  | isaAnd (t : Tid) (e : IsaFact)
  /-- OR (R220): ALU OR. -/
  | isaOr (t : Tid) (e : IsaFact)
  /-- XOR (R220): ALU XOR. -/
  | isaXor (t : Tid) (e : IsaFact)
  /-- SHL (R220): ALU shift left. -/
  | isaShl (t : Tid) (e : IsaFact)
  /-- SHR (R220): ALU logical shift right. -/
  | isaShr (t : Tid) (e : IsaFact)
  /-- SRA (R220): ALU arithmetic shift right. -/
  | isaSra (t : Tid) (e : IsaFact)
  /-- MUL (R220): ALU multiply, low bits. -/
  | isaMul (t : Tid) (e : IsaFact)
  /-- MULHU (R220): ALU unsigned multiply, high bits. -/
  | isaMulhu (t : Tid) (e : IsaFact)
  /-- SLT (R220): ALU signed set-less-than. -/
  | isaSlt (t : Tid) (e : IsaFact)
  /-- SLTU (R220): ALU unsigned set-less-than. -/
  | isaSltu (t : Tid) (e : IsaFact)
  /-- ROTR (R220): ALU rotate right. -/
  | isaRotr (t : Tid) (e : IsaFact)
  /-- CLZ (R220): ALU count leading zeros. -/
  | isaClz (t : Tid) (e : IsaFact)
  /-- POPC (R220): ALU population count. -/
  | isaPopc (t : Tid) (e : IsaFact)
  /-- BSWAP (R220): ALU byte swap. -/
  | isaBswap (t : Tid) (e : IsaFact)
  /-- ADDI (R220): Add sign-extended immediate. -/
  | isaAddi (t : Tid) (e : IsaFact)
  /-- ANDI (R220): AND with zero-extended immediate. -/
  | isaAndi (t : Tid) (e : IsaFact)
  /-- ORI (R220): OR with zero-extended immediate. -/
  | isaOri (t : Tid) (e : IsaFact)
  /-- XORI (R220): XOR with zero-extended immediate. -/
  | isaXori (t : Tid) (e : IsaFact)
  /-- SHIFT_IMMEDIATE (R220): Shift or rotate by an immediate amount. -/
  | isaShiftImmediate (t : Tid) (e : IsaFact)
  /-- LUI (R220): Load upper immediate. -/
  | isaLui (t : Tid) (e : IsaFact)
  /-- EXTU (R220): Extract a bit field, zero-extended. -/
  | isaExtu (t : Tid) (e : IsaFact)
  /-- EXTS (R220): Extract a bit field, sign-extended. -/
  | isaExts (t : Tid) (e : IsaFact)
  /-- INS (R220): Insert a bit field. -/
  | isaIns (t : Tid) (e : IsaFact)
  /-- LB (R220): Load byte, zero-extended. -/
  | isaLb (t : Tid) (e : IsaFact)
  /-- LH (R220): Load halfword, zero-extended. -/
  | isaLh (t : Tid) (e : IsaFact)
  /-- LW (R220): Load word, zero-extended; the only load allowed in the register window. -/
  | isaLw (t : Tid) (e : IsaFact)
  /-- LD (R220): Load doubleword. -/
  | isaLd (t : Tid) (e : IsaFact)
  /-- LBS (R220): Load byte, sign-extended. -/
  | isaLbs (t : Tid) (e : IsaFact)
  /-- LHS (R220): Load halfword, sign-extended. -/
  | isaLhs (t : Tid) (e : IsaFact)
  /-- LWS (R220): Load word, sign-extended. -/
  | isaLws (t : Tid) (e : IsaFact)
  /-- SB (R220): Store byte. -/
  | isaSb (t : Tid) (e : IsaFact)
  /-- SH (R220): Store halfword. -/
  | isaSh (t : Tid) (e : IsaFact)
  /-- SW (R220): Store word; the only store allowed in the register window, where it is posted. -/
  | isaSw (t : Tid) (e : IsaFact)
  /-- SD (R220): Store doubleword. -/
  | isaSd (t : Tid) (e : IsaFact)
  /-- LHBE (R220): Load halfword big-endian. -/
  | isaLhbe (t : Tid) (e : IsaFact)
  /-- LWBE (R220): Load word big-endian. -/
  | isaLwbe (t : Tid) (e : IsaFact)
  /-- LDBE (R220): Load doubleword big-endian. -/
  | isaLdbe (t : Tid) (e : IsaFact)
  /-- SHBE (R220): Store halfword big-endian. -/
  | isaShbe (t : Tid) (e : IsaFact)
  /-- SWBE (R220): Store word big-endian. -/
  | isaSwbe (t : Tid) (e : IsaFact)
  /-- SDBE (R220): Store doubleword big-endian. -/
  | isaSdbe (t : Tid) (e : IsaFact)
  /-- AMO_ADD (R220): Atomic add in team shared memory. -/
  | isaAmoAdd (t : Tid) (e : IsaFact)
  /-- AMO_SWAP (R220): Atomic swap in team shared memory. -/
  | isaAmoSwap (t : Tid) (e : IsaFact)
  /-- AMO_CAS (R220): Atomic compare-and-swap in team shared memory. -/
  | isaAmoCas (t : Tid) (e : IsaFact)
  /-- BEQ (R220): Branch if equal. -/
  | isaBeq (t : Tid) (e : IsaFact)
  /-- BNE (R220): Branch if not equal. -/
  | isaBne (t : Tid) (e : IsaFact)
  /-- BLT (R220): Branch if less, signed. -/
  | isaBlt (t : Tid) (e : IsaFact)
  /-- BGE (R220): Branch if greater or equal, signed. -/
  | isaBge (t : Tid) (e : IsaFact)
  /-- BLTU (R220): Branch if less, unsigned. -/
  | isaBltu (t : Tid) (e : IsaFact)
  /-- BGEU (R220): Branch if greater or equal, unsigned. -/
  | isaBgeu (t : Tid) (e : IsaFact)
  /-- JAL (R220): Jump and link to g31. -/
  | isaJal (t : Tid) (e : IsaFact)
  /-- JALR (R220): Jump to a register address and link. -/
  | isaJalr (t : Tid) (e : IsaFact)
  /-- SRD (R221): Read a special register. -/
  | isaSrd (t : Tid) (e : IsaFact)
  /-- YIELD (R208): Make the thread not ready for the next step. -/
  | isaYield (t : Tid) (e : IsaFact)
  /-- DONE (R221): End the thread's work; a frame still held is dropped and counted in UNDISPOSED. -/
  | isaDone (t : Tid) (e : IsaFact)
  /-- FENCE (R220): Hold the thread until its posted stores and calls have completed. -/
  | isaFence (t : Tid) (e : IsaFact)
  /-- TRAP (R232): Raise a TRAP thread fault with a code. -/
  | isaTrap (t : Tid) (e : IsaFact)
  /-- CALL_CLS_LOOKUP (R223): Classifier-lookup accelerator call on a thread-supplied key. -/
  | callClsLookup (t : Tid) (e : IsaFact)
  /-- CALL_HASH (R223): CRC-32C or CRC-32 over thread memory. -/
  | callHash (t : Tid) (e : IsaFact)
  /-- CALL_POLICE (R223): Meter n bytes through a policer and return the colour. -/
  | callPolice (t : Tid) (e : IsaFact)
  /-- CALL_COUNT (R223): Posted increment of a packet and byte counter pair. -/
  | callCount (t : Tid) (e : IsaFact)
  /-- CALL_ENQ (R224): Enqueue the frame or a copy into a scheduler queue, ending the pass unless it is a copy. -/
  | callEnq (t : Tid) (e : IsaFact)
  /-- CALL_TIME (R223): Read time of day or line ticks. -/
  | callTime (t : Tid) (e : IsaFact)
  /-- CALL_CSUM (R223): Ones'-complement sum over the composed frame. -/
  | callCsum (t : Tid) (e : IsaFact)
  /-- CALL_CMAC (R372): Queue an AES-CMAC over team shared memory and return its tag. -/
  | callCmac (t : Tid) (e : IsaFact)
  /-- CALL_RECIRC (R204): Pass the frame through parsing and classification again. -/
  | callRecirc (t : Tid) (e : IsaFact)
  /-- CALL_FRD (R223): Copy stored frame bytes into thread memory. -/
  | callFrd (t : Tid) (e : IsaFact)
  /-- CALL_FWR (R223): Copy thread memory over stored frame bytes. -/
  | callFwr (t : Tid) (e : IsaFact)
  /-- CALL_DROP (R224): Drop the frame and end the pass. -/
  | callDrop (t : Tid) (e : IsaFact)
  /-- WATCHDOG_EXPIRE (R232): A pass that issues more than WDOG × 64 steps faults with WDOG. -/
  | watchdogExpire (t : Tid)
  /-- EXPRESS_BUDGET_EXCEEDED (R228): An Express frame issues one step beyond its budget and loses Express priority. -/
  | expressBudgetExceeded (t : Tid)
  /-- COURSER_QUARANTINE (R233): A Courser that fails a dispatch handshake within 10 µs, or has 3 local MEM_UNC faults in 1 s, is quarantined. -/
  | courserQuarantine (t : Fin 16) (c : Fin 8) (handshake : Bool)
  /-- TEAM_RESET (R234): The Core region resets a team, drops its frames, checks its ICRC and restarts it or leaves it STOPPED. -/
  | teamReset (t : Fin 16)
  /-- SAMPLER_RESTART (R231): Writing 1 to CRS_SAMP_STAT.FULL resets WP and restarts sampling. -/
  | samplerRestart (q : Req) (t : Fin 16) (v : Word)
  /-- DRAIN (R238): CRS_LOAD_CMD.DRAIN stops dispatch to the team. -/
  | teamDrain (q : Req) (t : Fin 16)
  /-- TEAM_DRAIN_DONE (R238): The last pass of a draining team ends, and the team becomes STOPPED. -/
  | teamDrainDone (t : Fin 16)
  /-- LOAD (R238): CRS_LOAD_CMD.LOAD starts reading, checking and writing a Tack image. -/
  | teamLoad (q : Req) (t : Fin 16)
  /-- TEAM_LOAD_END (R238): An image load ends LOADED with event 337, or fails with event 338. -/
  | teamLoadEnd (t : Fin 16) (first second : Option (List Byte))
  /-- RUN (R238): CRS_LOAD_CMD.RUN runs the INIT program of a loaded team. -/
  | teamRun (q : Req) (t : Fin 16)
  /-- TEAM_INIT_DONE (R238): The INIT program reaches DONE and the team becomes RUNNING. -/
  | teamInitDone (t : Fin 16)
  /-- LOAD_CMD_MULTI (R238): A load command write setting more than one command bit is discarded with RESULT MULTI. -/
  | loadCmdMulti (q : Req) (t : Fin 16) (v : Word)
  /-- SCHEDULER_SELECT (R244): A node that can take a frame selects one by Express, aged tier, class group and virtual time, and charges its shapers. -/
  | schedulerSelect (node : Fin 521)
  /-- SPILL_READBACK_DONE (R243): A spilled frame's read-back completes and the frame becomes eligible, or is dropped on an uncorrectable error. -/
  | spillReadbackDone (queue : Fin 6272) (unc : Bool)
  /-- QUEUE_CONFIG_WRITE (R242): A write to SCH_Q_CFG, with CLASS, CG and NODE discarded while the queue is enabled or holds frames, and a ninth group queue refused. -/
  | queueConfigWrite (q : Req) (queue : Fin 6272) (word : Fin 4) (v : Word)
  /-- BUCKET_CONFIG_WRITE (R249): A write to a bucket's configuration refills its tokens to DEPTH. -/
  | bucketConfigWrite (q : Req) (addr : Nat) (v : Word)
  /-- GATE_COMMIT (R257): COMMIT checks a gate list, claims a comparator and schedules a take-over. -/
  | gateCommit (q : Req) (g : Fin 520) (v : Word)
  /-- GATE_ENTRY_ADVANCE (R256): A gate-list entry's interval ends and the next entry or cycle starts. -/
  | gateEntryAdvance (g : Fin 520)
  /-- QUEUE_SAMPLE_SWEEP (R262): Every PERIOD µs the sampler sweeps the chosen queues into the sample ring, or skips the period. -/
  | queueSampleSweep (overrun : Bool)
  /-- TOD_APPLY (R274): APPLY takes a Time_of_Day message, and computes, holds or refuses it. -/
  | todApply (q : Req) (x : Side) (v : Word)
  /-- TOD_HELD_COMPUTE (R275): At frame N's boundary a held message is computed and the error stepped or slewed. -/
  | todHeldCompute (x : Side)
  /-- SET (R276): TIM_CTRL.SET sets ToD from TIM_SET at the next tick as a step. -/
  | todSet (q : Req) (v : Word)
  /-- TIME_SOURCE_WRITE (R270): A write of TIM_CFG.SRC changes the reference, claiming or releasing an EVCAP input. -/
  | timeSourceWrite (q : Req) (v : Word)
  /-- TOD_MESSAGE_TIMEOUT (R272): No accepted message for TOD_TMO s puts the Time region into holdover with cause 2. -/
  | todMessageTimeout
  /-- EXT_PPS_MISSING (R272): No external PPS edge within 1.0001 s starts holdover with cause 4 and raises event 393. -/
  | extPpsMissing
  /-- SECOND_TICK (R279): The Time region sends the one-second tick to both Line regions. -/
  | secondTick
  /-- TOD_NS_READ (R269): A read of TIM_TOD_NS latches seconds, fraction and tick into the reader's shadows. -/
  | todNsRead (q : Req)
  /-- TSQ_POP (R286): A read of a time-stamp queue's word 0 pops the oldest entry into the reader's shadow. -/
  | tsqPop (q : Req) (k : Fin 8)
  /-- PPS_ENABLE (R289): TIM_PPS_n_CFG.EN claims the PPS ball, and the comparator for feature 0x03. -/
  | ppsEnable (q : Req) (n : Fin 2) (v : Word)
  /-- PPS_EDGE (R289): A PPS output pulse starts at its edge time. -/
  | ppsEdge (n : Fin 2)
  /-- EVENT_CAPTURE_ENABLE (R290): TIM_CAP_n.EN claims the EVCAP input for capture. -/
  | eventCaptureEnable (q : Req) (n : Fin 2) (v : Word)
  /-- EVENT_CAPTURE_EDGE (R290): A chosen EVCAP edge is stamped into its queue, or drives the loop as an external PPS. -/
  | eventCaptureEdge (n : Fin 2) (falling : Bool) (phase : Fin 16)
  /-- CAPTURE_QUEUE_POP (R290): A read of a capture queue's entry word 0 pops the oldest entry. -/
  | captureQueuePop (q : Req) (n : Fin 2)
  /-- COMPARATOR_ARM (R291): TIM_CMP_n.ARM claims a comparator for an alarm and arms it. -/
  | comparatorArm (q : Req) (n : Fin 8) (v : Word)
  /-- COMPARATOR_FIRE (R291): A comparator's target is reached or stepped past; it fires, disarms and releases its resource. -/
  | comparatorFire (n : Fin 8)
  /-- CLIENT_LAYOUT_WRITE (R294): A CLI_CFG write sets the port layout, or is refused with event 433. -/
  | clientLayoutWrite (q : Req) (v : Word)
  /-- PORT_ENABLE (R308): CLI_PORT_CFG.EN = 1 brings the lanes up and starts link bring-up. -/
  | portEnable (q : Req) (p : Fin 8) (v : Word)
  /-- PORT_DISABLE (R308): EN = 0 idles the lanes, drops LINK and aborts the frame in progress. -/
  | portDisable (q : Req) (p : Fin 8) (v : Word) (smd : Smd) (rx : List Byte) (first : Nat)
  /-- LINK_UP (R308): The PCS reports link OK without faults; LINK rises and event 416 + p is raised. -/
  | linkUp (p : Fin 8) (rxLat txLat : Nat)
  /-- LINK_DOWN (R308): LINK falls; transmit frames are aborted or discarded, and the partial receive frame is aborted. -/
  | linkDown (p : Fin 8) (lf rf pcs : Bool) (smd : Smd) (rx : List Byte) (first : Nat)
  /-- CLIENT_FRAME_RECEIVE (R296): A client frame is received, filtered, checked, policed for Express and passed to crossing 4. -/
  | clientFrameReceive (p : Fin 8) (bytes : List Byte) (first : Nat) (smd : Smd) (pcsErr abort : Bool) (corr unc : Nat)
  /-- UCAST_COMMIT (R297): A write of CLI_UCAST_n_HI commits the address filter entry with its LO shadow. -/
  | ucastCommit (q : Req) (p : Fin 8) (n : Fin 16) (v : Word)
  /-- CLIENT_FRAME_TRANSMIT (R302): The MAC sends a frame, Express first, with preemption and gate handling. -/
  | clientFrameTransmit (p : Fin 8) (ue : Bool)
  /-- PMP_ENABLE (R303): Enabling preemption starts verification, or activates it at once with VERIFY = 0. -/
  | pmpEnable (q : Req) (p : Fin 8) (v : Word)
  /-- VERIFY_TIMEOUT (R303): The verifyTime expires, a verify attempt is repeated or the state moves to FAILED. -/
  | verifyTimeout (p : Fin 8)
  /-- BUS_MASTER_CHANGE (R315): Bus Master Enable or D3hot changes, and host requests pause or resume. -/
  | busMasterChange (bme d3hot : Bool)
  /-- COLD_POWER_UP (R316): VDD_AON comes up; the Groom sequences the rails, locks PLL 0, releases cold reset and prepares the flash slots. -/
  | coldPowerUp
  /-- WARM_RESET (R318): A keyed host GLB_RST.WARM write resets every region except the Groom. -/
  | warmReset (q : Req) (v : Word)
  /-- HOST_RESET (R317): PERST_N, FLR, return to D0 or GLB_RST.HOST resets the host interface, disables rings and flushes crossings 6 and 7. -/
  | hostReset (q : Req) (cause : HostResetCause)
  /-- RESET_END (R317): A warm or host reset completes and BUSY clears. -/
  | resetEnd
  /-- RING_ENABLE (R323): HIF_RING_CFG.EN = 1 checks and enables a ring pair, or refuses with event 4. -/
  | ringEnable (q : Req) (r : Fin 64) (v : Word)
  /-- RING_DISABLE (R333): EN = 0 begins disabling a ring and discards further doorbells. -/
  | ringDisable (q : Req) (r : Fin 64) (v : Word)
  /-- RING_DISABLE_DONE (R333): Outstanding descriptors complete OK or FLUSHED and the ring is disabled. -/
  | ringDisableDone (r : Fin 64) (descs : List Desc)
  /-- DOORBELL (R325): A BAR2 doorbell write submits new descriptors, or is discarded with event 7. -/
  | doorbell (page : Fin 64) (offset width : Nat) (v : Word)
  /-- TX_DESCRIPTOR (R331): A TX descriptor's frame, or segmented send, is read and passed into crossing 6, and completed. -/
  | txDescriptor (r : Fin 64) (d : Desc) (bytes : List Byte) (rd : HostRead)
  /-- HOST_QUEUE_DELIVER (R332): A frame from a host queue fills an RX buffer and its completion is written. -/
  | hostQueueDeliver (hq : Fin 128) (d : Desc) (ue : Bool)
  /-- DESCRIPTOR_FETCH_ERROR (R333): A failed descriptor read stops the ring with CODE FETCH and event 4. -/
  | descriptorFetchError (r : Fin 64) (timeout : Bool)
  /-- JOB_NOP (R328): JOB OP 0x00 completes with no operation. -/
  | jobNop (r : Fin 64) (d : Desc)
  /-- SCRUB_JOB (R354): JOB OP 0x01 starts scrubbing a DRAM or Paddock range. -/
  | scrubJob (r : Fin 64) (d : Desc)
  /-- SCRUB_JOB_END (R355): A scrub job ends with its summary completion and event 458. -/
  | scrubJobEnd (fails : List (Nat × Bool)) (stopped : Bool)
  /-- CHECK_SCAN_JOB (R379): JOB OP 0x02 starts a check-value scan. -/
  | checkScanJob (r : Fin 64) (d : Desc)
  /-- CHECK_SCAN_END (R379): A check-value scan ends, or stops on an error, with its result. -/
  | checkScanEnd (u : Fin 4) (data : List Byte) (stop : Option Nat) (timeout : Bool)
  /-- CMAC_JOB (R375): JOB OP 0x03 queues an AES-CMAC over host memory. -/
  | cmacJob (r : Fin 64) (d : Desc)
  /-- CMAC_DONE (R372): A CMAC operation completes with its tag, or fails with event 476. -/
  | cmacDone (data : List Byte) (rd : HostRead)
  /-- UNWRAP_JOB (R375): JOB OP 0x04 starts an RFC 3394 key unwrap. -/
  | unwrapJob (r : Fin 64) (d : Desc)
  /-- UNWRAP_DONE (R374): A key unwrap writes the destination slot, or fails. -/
  | unwrapDone (q : Option Req) (data : List Byte) (rd : HostRead)
  /-- EVENT_RING_ENABLE (R334): EVT_RING_CFG.EN = 1 checks the ring, zeroes PI and CI, and starts the first pass. -/
  | eventRingEnable (q : Req) (v : Word)
  /-- EVENT_RING_DISABLE (R334): EN = 0 stops entry writes at once. -/
  | eventRingDisable (q : Req) (v : Word)
  /-- EVENT_RING_CI_WRITE (R334): A write of EVT_RING_CI returns entries to the device. -/
  | eventRingCiWrite (q : Req) (v : Word)
  /-- EVENT_RAISE (R336): An event source is raised, counted and written to the event ring or lost. -/
  | eventRaise (src : Fin 512) (level : Fin 4) (inst : Nat) (info : Word) (pulses : Nat)
  /-- MSIX_HOLDOFF_EXPIRE (R338): HOLDOFF µs pass since the oldest pending cause and the vector sends its message. -/
  | msixHoldoffExpire (v : Fin 64)
  /-- MSIX_UNMASK (R338): Unmasking a vector sends a message held by the mask. -/
  | msixUnmask (v : Fin 64)
  /-- PCIE_LINK_CHANGE (R340): The PCIe link goes up or down and event 6 is raised. -/
  | pcieLinkChange (up : Bool) (speed width : Nat)
  /-- DRAM_CHANNEL_ENABLE (R342): MEM_CH_CFG.EN starts training a DRAM channel. -/
  | dramChannelEnable (q : Req) (c : Fin 4) (v : Word)
  /-- DRAM_TRAINING_END (R342): Training ends with UP = 1, or fails with a cause and event 462. -/
  | dramTrainingEnd (c : Fin 4) (fail : Option (Fin 4))
  /-- DRAM_CHANNEL_DOWN (R342): A channel goes down and its contents are lost. -/
  | dramChannelDown (c : Fin 4)
  /-- SPILL_AREA_WRITE (R345): A write of the spill area, refused on overlap, overrun or while frames are held. -/
  | spillAreaWrite (q : Req) (k : Fin 3) (v : Word)
  /-- ECC_WRITE_BACK (R351): A queued write-back of a corrected word is written, then re-read, remapping a hard error. -/
  | eccWriteBack (chip : Bool) (group : Fin 128) (addr : Nat) (cls : Fin 8) (req synd : Nat) (cancelled hard : Bool)
  /-- REMAP_ENTRY_WRITE (R356): Setting or clearing VALID of MEM_RMP copies the line into its spare or returns it. -/
  | remapEntryWrite (q : Req) (c : Fin 4) (e : Fin 16) (v : Word)
  /-- SPARE_ENTRY_WRITE (R357): Setting or clearing VALID of MEM_SPR copies the word into its spare or returns it. -/
  | spareEntryWrite (q : Req) (g : Fin 128) (e : Fin 8) (v : Word)
  /-- MEM_MODE_WRITE (R358): A write of MEM_MODE moves between service modes, or is discarded. -/
  | memModeWrite (q : Req) (v : Word) (fails : List (Bool × Fin 128 × Fin 16))
  /-- FLIP_ARM (R360): MEM_FLIP_CFG.ARM arms corruption of the next write to a target, or is refused in NORMAL. -/
  | flipArm (q : Req) (v : Word)
  /-- KEY_LOAD (R363): Key command LOAD copies the staging words into a slot and computes its KCV. -/
  | keyLoad (q : Req) (slot : Fin 64) (size256 : Bool)
  /-- KEY_ERASE (R363): Key command ERASE zeroes a slot not in use. -/
  | keyErase (q : Req) (slot : Fin 64)
  /-- FORCE_ERASE (R365): Key command FORCE_ERASE zeroes a slot at once and ends everything that uses it. -/
  | forceErase (q : Req) (slot : Fin 64)
  /-- UNWRAP_START (R374): SEC_UNW_CMD.GO starts an unwrap from the requester's staging words. -/
  | unwrapStart (q : Req) (v : Word)
  /-- KEY_SWITCH_ARM (R370): SEC_LSW_x.ARM arms an upstream key-index switch at SFC N. -/
  | keySwitchArm (q : Req) (x : Side) (v : Word)
  /-- ENTROPY_HEALTH_FAIL (R376): A health test fails, the entropy source stops delivering and event 477 is raised. -/
  | entropyHealthFail (repetition adaptive : Bool)
  /-- ENTROPY_RESTART (R376): SEC_ENT_STAT.RESTART clears FAIL once 1,024 samples pass. -/
  | entropyRestart (q : Req) (passed : Bool)
  /-- CHECK_FEED (R378): A CHK_FEED write feeds bytes into a check-value unit, or sets BUSY_WR. -/
  | checkFeed (q : Req) (u : Fin 4) (v : Word)
  /-- CHECK_SCAN_START (R379): CHK_SCAN_CTRL.START begins a register scan. -/
  | checkScanStart (q : Req) (u : Fin 4) (v : Word)
  /-- RAIL_FAIL (R384): A rail without power good within 20 ms, or a PLL without lock within 5 ms, turns the attempt off for a retry. -/
  | railFail (pll : Bool) (index : Fin 9) (skew : Bool)
  /-- POWER_RETRY (R384): After 100 ms the attempt repeats once; a second failure enters SLEEP with GRM_WAKE_FAIL. -/
  | powerRetry (fails : List (Bool × Fin 128 × Fin 16))
  /-- POWER_GOOD_LOST (R385): A PG low for 160 ns while enabled raises event 40, and is a chip fault in RUN. -/
  | powerGoodLost (rail : Fin 9)
  /-- PLL_LOCK_LOST (R385): A checked PLL loses lock; event 40, and a chip fault for PLL 0 in RUN. -/
  | pllLockLost (i : Fin 4)
  /-- POWER_SLEEP (R387): Power state command to enter SLEEP. -/
  | powerSleep (q : Req) (energy : BitVec 8) (wakeN : Bool)
  /-- POWER_DOZE (R387): Power state command to enter DOZE. -/
  | powerDoze (q : Req) (energy : BitVec 8) (wakeN : Bool)
  /-- POWER_LISTEN (R387): Power state command to enter LISTEN. -/
  | powerListen (q : Req) (energy : BitVec 8) (wakeN : Bool)
  /-- POWER_RUN (R387): Power state command to enter RUN. -/
  | powerRun (q : Req) (energy : BitVec 8) (wakeN : Bool)
  /-- POWER_TRANSITION_END (R386): The rails settle, the state becomes the target and TRANS clears. -/
  | powerTransitionEnd (fails : List (Bool × Fin 128 × Fin 16))
  /-- RUN_MASK_WRITE (R386): A PWR_RUN_MASK write in RUN powers regions on or off. -/
  | runMaskWrite (q : Req) (v : Word) (fails : List (Bool × Fin 128 × Fin 16))
  /-- WAKE (R396): An enabled wake source is seen; the wake is recorded and the exit, or abort of the entry, begins. -/
  | pwrWake (energy : BitVec 8) (wakeN doorbell : Bool) (since : Option Nat)
  /-- DOZE_WINDOW_OPEN (R394): At each DOZE cycle start the chosen side's Line region powers up to listen. -/
  | dozeWindowOpen
  /-- DOZE_WINDOW_CLOSE (R394): N frames after opening, the listen window ends and the region is gated. -/
  | dozeWindowClose
  /-- WAKE_TIMER_EXPIRE (R396): The Groom timer expires GRM_WAKE_TIMER ms after entry and wakes the device. -/
  | wakeTimerExpire (committed : Bool)
  /-- VCORE_SET (R399): A GRM_VCORE.TARGET write sends the set point over PMBus and raises event 38. -/
  | vcoreSet (q : Req) (v : Word)
  /-- VCORE_VERIFY_TIMEOUT (R400): Channel 3 does not reach the set point within 2 ms, and event 38 is raised with bit 10. -/
  | vcoreVerifyTimeout
  /-- MONITOR_SAMPLE (R402): The monitor ADC converts a channel, filters it and updates its threshold condition. -/
  | monitorSample (k : Fin 8) (code : Fin 4096)
  /-- SUPPLY_LOSS_DECLARE (R403): PFAIL_N low or the channel 2 condition declares supply loss and starts the dying-gasp sequence. -/
  | supplyLossDeclare
  /-- DG_HOLD_EXPIRE (R403): DG_HOLD ends; the regions are isolated and the rails dropped except VDD_AON and VDDIO_18. -/
  | dgHoldExpire
  /-- ENERGY_CHECK (R405): 20 µs after DG_HOLD, the hold-up energy is computed and the save started or skipped. -/
  | energyCheck (code : Fin 4096)
  /-- STATE_SAVE_END (R406): The state record write ends or fails, VDDIO_18 drops and the device enters SLEEP. -/
  | stateSaveEnd (ok : Bool)
  /-- PFAIL_RELEASE (R403): PFAIL_N high for 10 ms after a save runs the cold power-up. -/
  | pfailRelease
  /-- GROOM_IMAGE_LOAD (R407): GRM_LOAD_CMD.LOAD starts checking and loading the Groom image. -/
  | groomImageLoad (q : Req) (v : Word)
  /-- GROOM_IMAGE_LOAD_END (R407): A Groom image load ends, restarting the controller and raising event 39. -/
  | groomImageLoadEnd (first second : Option (List Byte))
  /-- CAPTURE_ENABLE (R409): CAP_CFG.EN checks the capture area and starts capture, or is refused. -/
  | captureEnable (q : Req) (v : Word)
  /-- CAPTURE_RECORD_WRITE (R413): A buffered record is written to DRAM at CAP_WP, wrapping or stopping when full. -/
  | captureRecordWrite
  /-- CAPTURE_COPY_STALE (R412): A frame copy not read within 50 µs is dropped and its reference released. -/
  | captureCopyStale
  /-- CAPTURE_RESUME (R413): Writing 1 to CAP_STAT.FULL resets WP and OLDEST and resumes capture. -/
  | captureResume (q : Req) (v : Word)
  /-- CAPTURE_READOUT_START (R416): CAP_RD_CTRL.GO starts copying the store to host memory. -/
  | captureReadoutStart (q : Req) (v : Word)
  /-- CAPTURE_READOUT_END (R416): A read-out copy ends with OK, RANGE or MEM_UE. -/
  | captureReadoutEnd (ue : Option Nat)
  /-- NOW (R417): STB_CTRL.NOW requests a snapshot at the next tick. -/
  | stbNow (q : Req) (v : Word)
  /-- SNAPSHOT_PERIOD (R417): The snapshot period expires and a snapshot instant is taken. -/
  | snapshotPeriod
  /-- SNAPSHOT_WRITE_END (R418): A snapshot is written to a SNAP buffer and completes with event 490. -/
  | snapshotWriteEnd (r : Fin 64) (d : Desc)
  /-- STUDBOOK_COMPARATOR_ARM (R417): STB_CMP_ARM claims a comparator for feature 0x08 and arms a snapshot. -/
  | studbookComparatorArm (q : Req) (v : Word)
  /-- USER_PAGE_WRITE (R421): A host write of STB_UPAGE changes UEN or UBASE, raising event 492 on a UEN change. -/
  | userPageWrite (q : Req) (v : Word)
  /-- FARRIER_START (R424): FAR_CMD.START starts a test, or refuses it with a cause. -/
  | farrierStart (q : Req) (v : Word) (refOk clearOk : Bool)
  /-- FARRIER_TEAM_IDLE (R427): The team under test becomes idle and its state is saved to the Farrier area. -/
  | farrierTeamIdle (clearOk : Bool) (uncs : List (Nat × Nat))
  /-- LOGIC_BIST_DONE (R429): Logic BIST ends, comparing FAR_SIG with FAR_SIG_EXP. -/
  | logicBistDone (sig : BitVec 64)
  /-- MEMORY_BIST_DONE (R430): Memory BIST ends, having logged and repaired failing bits. -/
  | memoryBistDone (fails : List (Bool × Fin 128 × Fin 128 × Nat)) (xngs : List (Fin 30))
  /-- FARRIER_RESTORE_DONE (R427): The team's state is restored, its ICRC compared, and the result given. -/
  | farrierRestoreDone
  /-- FUSE_BURN (R432): A keyed FAR_FUSE_CMD.BURN fuses unfused automatic spare entries. -/
  | fuseBurn (q : Req) (v : Word)
  /-- FUSE_BURN_END (R432): A fuse burn ends with OK, MODE or FULL. -/
  | fuseBurnEnd
  /-- HARNESS_ROW_RECEIVE (R173): A lane row arrives from the far end; its overhead CRC, ROW and BIP-8 are checked, FAR_RDI and the link counters are updated, and the row enters the deskewed store, where a ROW of 0 out of sequence starts a new frame. -/
  | harnessRowReceive (n : Fin 8) (row : List (BitVec 66))
  /-- PLL_LOCK_RETURN (R385): A checked PLL that had lost lock in service locks again, so its clock returns; the DRAM channels train again for PLL 2 and the Client region resumes for PLL 1. -/
  | pllLockReturn (i : Fin 4)
  /-- VDD_AON_LOSS (R386): VDD_AON falls, so the Groom and every region lose power, the device enters OFF, the Groom image and remap entries are lost, and an unfinished state record is left with a bad CRC. -/
  | vddAonLoss
  /-- REGISTER_READ (R320): A register read aimed at a region that is off, in reset, refusing or silent for 10 µs returns 0xFFFF_FFFF and raises event 1, and a read that meets uncorrectable data completes with completer abort and raises event 2. -/
  | registerRead (q : Req) (addr : Nat) (fact : ReadFact)
  /-- TOD_SLEW_END (R276): The pending slew, applied at one fraction unit per tick, reaches 0 and TIM_STAT.SLEWING clears. -/
  | todSlewEnd
  deriving DecidableEq, Repr

end Sys2Proof
end

