-- ==== Sys2Proof/Decode.lean ====
section
/-! DEFINITION. The commands that the opcode table spells with bits: none, since no row of spec/opcode_table.json gives
any. (The instruction words of the Courser teams are decoded in Machine/Operands.lean.) -/

namespace Sys2Proof

/-- The command that `nbits` bits `w` spell by the opcode table. -/
def decodeTableWord (_nbits _w : Nat) : Option Instr := none

end Sys2Proof
end

