-- ==== Sys2Proof/Config.lean ====
section
/-! DEFINITION. What the spec leaves open: opaque constants with no body, so that no proof can see a value. -/

namespace Sys2Proof.Config

/-- The free values: the value of the n-th point at which the machine produces a value the spec does not state. -/
opaque freeValue : Nat → Nat

/-- The 13-bit HEC over 51 data bits, which the spec takes from ITU-T G.9804.2 without restating it (R71, R108). -/
opaque hec13 : Nat → Nat

/-- The information bytes of a G-mode frame from byte 16 on once descrambled under a superframe counter (R80): the rest of
the layout below is read from them. -/
opaque gDescramble : Nat → List Byte → List Byte

/-- Bandwidth-map entries of a G-mode frame: how many, the first information byte of the k-th, its bytes in the frame, and its
fields as those of R102 (R80, R102). -/
opaque gEntries : List Byte → Nat
opaque gEntryAt : List Byte → Nat → Nat
opaque gEntryBytes : Nat
opaque gEntry : List Byte → Nat → Nat

/-- PLOAM messages of a G-mode frame: how many, and the first information byte of the k-th (R80). -/
opaque gMessages : List Byte → Nat
opaque gMessageAt : List Byte → Nat → Nat

/-- G-mode encapsulation (R80): first byte of the payload partition, a header as the fields of R74 by its first byte, its
bytes, and the bytes of a whole encapsulated frame by its payload length. -/
opaque gPayload : List Byte → Nat
opaque gHeader : List Byte → Nat → Nat
opaque gHeaderBytes : Nat
opaque gEncapBytes : Nat → Nat

/-- The PCIe function's identity that the spec leaves to fuses or does not state (R313): subsystem vendor and ID, and revision. -/
opaque subsysVendor : Nat
opaque subsysId : Nat
opaque pcieRevision : Nat

/-- The 336 parity bytes of an upstream LDPC codeword, from its information bytes (R107): the spec does not give the code. -/
opaque ldpcParity : List Byte → List Byte

/-- Line words of a G-mode burst, by preamble words and information words (R107). -/
opaque gBurstWords : Nat → Nat → Nat

/-- T of a G-mode burst in bit periods, by EqD and START (R117). -/
opaque gBurstT : Nat → Nat → Nat

/-- The bytes of a G-mode burst on the line, from its information stream (R107). -/
opaque gBurst : List Byte → List Byte

/-- The ONU-ID field of a G-mode PLOAM message (R96), and the recommendation's broadcast value. -/
opaque gOnuId : List Byte → Nat
opaque gBroadcast : Nat

/-- The AES-GCM IV of a G-mode frame, by superframe counter, direction, port ID and position (R366). -/
opaque gIv : Nat → Nat → Nat → Nat → Nat

/-- The slot that upstream key index 3 names in an entry of the upstream key table: the spec gives the entry no third slot (R367,
R370, log 222). -/
opaque keySlot3 : Nat → Nat

/-- The expected logic BIST signature in ROM, and the longest scan chain of a target that is not a team, by kind, region,
index and PATTERNS (R429). -/
opaque bistSig : Nat → Nat → Nat → Nat → Nat
opaque bistChain : Nat → Nat → Nat → Nat

end Sys2Proof.Config
end

