-- ==== Sys2Proof/Machine/Fields.lean ====
section
/-! DEFINITION. The fields of the registers, named as the spec names them (REGISTER.FIELD): the BAR0 address of the
register (of its first element, at side A for a line register), the lowest bit and the width. -/

namespace Sys2Proof.Machine

/-- A field of a register. -/
structure Fld where
  addr : Nat
  lo : Nat
  w : Nat
  deriving DecidableEq, Repr

namespace F

def GLB_ID_FAMILY : Fld := ⟨0x0, 24, 8⟩
def GLB_ID_HAR_OFF : Fld := ⟨0x0, 22, 1⟩
def GLB_ID_GRADE : Fld := ⟨0x0, 20, 2⟩
def GLB_ID_STEP : Fld := ⟨0x0, 16, 4⟩
def GLB_ID_PART : Fld := ⟨0x0, 0, 16⟩
def GLB_PARAM_HARNESS_LANES : Fld := ⟨0x4, 23, 4⟩
def GLB_PARAM_CLIENT_LANES : Fld := ⟨0x4, 19, 4⟩
def GLB_PARAM_DDR_CH : Fld := ⟨0x4, 16, 3⟩
def GLB_PARAM_PADDOCK_MIB : Fld := ⟨0x4, 8, 8⟩
def GLB_PARAM_TEAMS : Fld := ⟨0x4, 3, 5⟩
def GLB_PARAM_DRIXIS : Fld := ⟨0x4, 2, 1⟩
def GLB_PARAM_SIDES : Fld := ⟨0x4, 0, 2⟩
def GLB_FLT_CAUSE_VALID : Fld := ⟨0x40, 31, 1⟩
def GLB_FLT_CAUSE_MORE : Fld := ⟨0x40, 30, 1⟩
def GLB_FLT_CAUSE_REGION : Fld := ⟨0x40, 24, 4⟩
def GLB_FLT_CAUSE_BLOCK : Fld := ⟨0x40, 16, 8⟩
def GLB_FLT_CAUSE_CAUSE : Fld := ⟨0x40, 0, 16⟩
def GLB_FLT_INFO_INFO : Fld := ⟨0x44, 0, 32⟩
def GLB_FLT_TIME_LO_TICKS : Fld := ⟨0x48, 0, 32⟩
def GLB_FLT_TIME_HI_TICKS : Fld := ⟨0x4C, 0, 32⟩
def GLB_RES_OWNER_REQUESTER : Fld := ⟨0x100, 16, 8⟩
def GLB_RES_OWNER_FEATURE : Fld := ⟨0x100, 0, 8⟩
def GLB_RES_RESULT_RESOURCE : Fld := ⟨0x180, 8, 8⟩
def GLB_RES_RESULT_RESULT : Fld := ⟨0x180, 0, 2⟩
def XNG_CFG_RESYNC : Fld := ⟨0x1600000, 0, 1⟩
def XNG_STAT_OCC : Fld := ⟨0x1600004, 16, 16⟩
def XNG_STAT_REFUSING : Fld := ⟨0x1600004, 3, 1⟩
def XNG_STAT_RESYNC_BUSY : Fld := ⟨0x1600004, 2, 1⟩
def XNG_STAT_READER_RESET : Fld := ⟨0x1600004, 1, 1⟩
def XNG_STAT_WRITER_RESET : Fld := ⟨0x1600004, 0, 1⟩
def XNG_DISC_COUNT : Fld := ⟨0x1600008, 0, 32⟩
def XNG_TMO_COUNT : Fld := ⟨0x160000C, 0, 32⟩
def XNG_POVF_OVF : Fld := ⟨0x1601000, 0, 32⟩
def LIN_MODE_US_RATE : Fld := ⟨0x400000, 3, 2⟩
def LIN_MODE_MODE : Fld := ⟨0x400000, 2, 1⟩
def LIN_MODE_TX_EN : Fld := ⟨0x400000, 1, 1⟩
def LIN_MODE_RX_EN : Fld := ⟨0x400000, 0, 1⟩
def LIN_FE_CFG_LAG : Fld := ⟨0x400004, 7, 4⟩
def LIN_FE_CFG_LEAD : Fld := ⟨0x400004, 2, 5⟩
def LIN_FE_CFG_TXF_POL : Fld := ⟨0x400004, 1, 1⟩
def LIN_FE_CFG_BEN_POL : Fld := ⟨0x400004, 0, 1⟩
def LIN_FE_STAT_BEN : Fld := ⟨0x400008, 1, 1⟩
def LIN_FE_STAT_TXF : Fld := ⟨0x400008, 0, 1⟩
def LIN_DSP_CFG_SD_THR : Fld := ⟨0x400010, 8, 12⟩
def LIN_DSP_CFG_CDR_BW : Fld := ⟨0x400010, 6, 2⟩
def LIN_DSP_CFG_MU : Fld := ⟨0x400010, 2, 4⟩
def LIN_DSP_CFG_DFE_EN : Fld := ⟨0x400010, 1, 1⟩
def LIN_DSP_CFG_ADAPT : Fld := ⟨0x400010, 0, 1⟩
def LIN_DSP_STAT_SD : Fld := ⟨0x400014, 3, 1⟩
def LIN_DSP_STAT_CONV : Fld := ⟨0x400014, 2, 1⟩
def LIN_DSP_STAT_CDR_LOCK : Fld := ⟨0x400014, 1, 1⟩
def LIN_DSP_STAT_ADC_CAL : Fld := ⟨0x400014, 0, 1⟩
def LIN_FFE_TAP_TAP : Fld := ⟨0x400020, 0, 12⟩
def LIN_DFE_TAP_TAP : Fld := ⟨0x400040, 0, 12⟩
def LIN_LDPC_CFG_LLR_SCALE : Fld := ⟨0x400050, 4, 8⟩
def LIN_LDPC_CFG_MAX_ITER : Fld := ⟨0x400050, 0, 4⟩
def LIN_SNR_0_UPPER : Fld := ⟨0x400078, 16, 16⟩
def LIN_SNR_0_MIDDLE : Fld := ⟨0x400078, 0, 16⟩
def LIN_SNR_1_FLOOR : Fld := ⟨0x40007C, 16, 16⟩
def LIN_SNR_1_LOWER : Fld := ⟨0x40007C, 0, 16⟩
def LIN_TX_CFG_SWING : Fld := ⟨0x400080, 0, 8⟩
def LIN_PEQ_CTRL_OWNER : Fld := ⟨0x400084, 16, 8⟩
def LIN_PEQ_CTRL_LOAD : Fld := ⟨0x400084, 8, 1⟩
def LIN_PEQ_CTRL_SET_ID : Fld := ⟨0x400084, 0, 8⟩
def LIN_PEQ_STAT_SUPERSEDED : Fld := ⟨0x400088, 24, 8⟩
def LIN_PEQ_STAT_PENDING : Fld := ⟨0x400088, 23, 1⟩
def LIN_PEQ_STAT_SUM_CLAMP : Fld := ⟨0x400088, 15, 1⟩
def LIN_PEQ_STAT_CLAMP_TAP : Fld := ⟨0x400088, 8, 7⟩
def LIN_PEQ_STAT_SET_ID : Fld := ⟨0x400088, 0, 8⟩
def LIN_PEQ_PEND_RAW : Fld := ⟨0x400090, 0, 16⟩
def LIN_PEQ_ACT_TAP : Fld := ⟨0x4000B0, 0, 11⟩
def LIN_I2C_CFG_OWNER : Fld := ⟨0x4000D0, 8, 8⟩
def LIN_I2C_CFG_BUS1_EN : Fld := ⟨0x4000D0, 2, 1⟩
def LIN_I2C_CFG_SPEED : Fld := ⟨0x4000D0, 0, 2⟩
def LIN_I2C_CMD_GO : Fld := ⟨0x4000D4, 31, 1⟩
def LIN_I2C_CMD_BUS : Fld := ⟨0x4000D4, 30, 1⟩
def LIN_I2C_CMD_READ : Fld := ⟨0x4000D4, 29, 1⟩
def LIN_I2C_CMD_LEN : Fld := ⟨0x4000D4, 24, 3⟩
def LIN_I2C_CMD_DEV : Fld := ⟨0x4000D4, 16, 7⟩
def LIN_I2C_CMD_REG : Fld := ⟨0x4000D4, 0, 8⟩
def LIN_I2C_DATA0_BYTES : Fld := ⟨0x4000D8, 0, 32⟩
def LIN_I2C_DATA1_BYTES : Fld := ⟨0x4000DC, 0, 32⟩
def LIN_I2C_STAT_BUSY : Fld := ⟨0x4000E0, 6, 1⟩
def LIN_I2C_STAT_OVERRUN : Fld := ⟨0x4000E0, 5, 1⟩
def LIN_I2C_STAT_DONE : Fld := ⟨0x4000E0, 4, 1⟩
def LIN_I2C_STAT_RESULT : Fld := ⟨0x4000E0, 0, 4⟩
def GRM_RXP_CAL_A_OFFSET : Fld := ⟨0x200400, 16, 16⟩
def GRM_RXP_CAL_A_BREAK : Fld := ⟨0x200400, 0, 12⟩
def GRM_RXP_CAL_B_SLOPE : Fld := ⟨0x200404, 0, 16⟩
def GRM_RXP_VALID : Fld := ⟨0x200480, 31, 1⟩
def GRM_RXP_SEG : Fld := ⟨0x200480, 28, 3⟩
def GRM_RXP_CODE : Fld := ⟨0x200480, 16, 12⟩
def GRM_RXP_POWER : Fld := ⟨0x200480, 0, 16⟩
def DSF_CFG_PSYNC_TOL : Fld := ⟨0x401000, 0, 3⟩
def DSF_TID_VALID : Fld := ⟨0x401004, 31, 1⟩
def DSF_TID_TID : Fld := ⟨0x401004, 0, 16⟩
def DSF_STAT_PID_DUP : Fld := ⟨0x401008, 15, 1⟩
def DSF_STAT_CAND : Fld := ⟨0x401008, 12, 3⟩
def DSF_STAT_MFI : Fld := ⟨0x401008, 9, 3⟩
def DSF_STAT_UNC : Fld := ⟨0x401008, 8, 1⟩
def DSF_STAT_SD : Fld := ⟨0x401008, 7, 1⟩
def DSF_STAT_LOM : Fld := ⟨0x401008, 6, 1⟩
def DSF_STAT_LOF : Fld := ⟨0x401008, 5, 1⟩
def DSF_STAT_LOS : Fld := ⟨0x401008, 4, 1⟩
def DSF_STAT_DS_VALID : Fld := ⟨0x401008, 3, 1⟩
def DSF_STAT_MF_ALIGN : Fld := ⟨0x401008, 2, 1⟩
def DSF_STAT_STATE : Fld := ⟨0x401008, 0, 2⟩
def DSF_SFC_LO_SFC : Fld := ⟨0x401010, 0, 32⟩
def DSF_SFC_HI_SFC : Fld := ⟨0x401014, 0, 19⟩
def DSF_PONID_LO_PON_ID : Fld := ⟨0x401018, 0, 32⟩
def DSF_PONID_HI_PON_ID : Fld := ⟨0x40101C, 0, 19⟩
def DSF_HOLD_REMAIN : Fld := ⟨0x401020, 16, 16⟩
def DSF_HOLD_HOLD : Fld := ⟨0x401020, 0, 16⟩
def DSF_DEF_CFG_OTHER_RDI : Fld := ⟨0x401024, 19, 1⟩
def DSF_DEF_CFG_UNC_RDI : Fld := ⟨0x401024, 18, 1⟩
def DSF_DEF_CFG_SD_RDI : Fld := ⟨0x401024, 17, 1⟩
def DSF_DEF_CFG_LOM_RDI : Fld := ⟨0x401024, 16, 1⟩
def DSF_DEF_CFG_UNC_THR : Fld := ⟨0x401024, 0, 16⟩
def DSF_SD_SET_THR : Fld := ⟨0x401028, 0, 32⟩
def DSF_SD_CLR_THR : Fld := ⟨0x40102C, 0, 32⟩
def DSF_ODC_CFG_ODC2_IN_EN : Fld := ⟨0x401030, 2, 1⟩
def DSF_ODC_CFG_ODC1_IN_EN : Fld := ⟨0x401030, 1, 1⟩
def DSF_ODC_CFG_ODC_OUT_EN : Fld := ⟨0x401030, 0, 1⟩
def DSF_ODC_STAT_ODC2_OVER : Fld := ⟨0x401034, 3, 1⟩
def DSF_ODC_STAT_ODC2_UNDER : Fld := ⟨0x401034, 2, 1⟩
def DSF_ODC_STAT_ODC1_OVER : Fld := ⟨0x401034, 1, 1⟩
def DSF_ODC_STAT_ODC1_UNDER : Fld := ⟨0x401034, 0, 1⟩
def DSF_PM_SEQ_SEQ : Fld := ⟨0x401040, 0, 32⟩
def DSF_PID_VALID : Fld := ⟨0x402000, 31, 1⟩
def DSF_PID_SEQ_EN : Fld := ⟨0x402000, 30, 1⟩
def DSF_PID_PORT_ID : Fld := ⟨0x402000, 0, 20⟩
def UPB_CFG_MSG_OWNER : Fld := ⟨0x406000, 24, 8⟩
def UPB_CFG_DEF_GROUP : Fld := ⟨0x406000, 12, 9⟩
def UPB_CFG_MIN_FRAG : Fld := ⟨0x406000, 4, 8⟩
def UPB_CFG_DEF_FRAG : Fld := ⟨0x406000, 0, 1⟩
def UPB_ACT_CMD : Fld := ⟨0x406004, 24, 3⟩
def UPB_ACT_RETURN : Fld := ⟨0x406004, 16, 3⟩
def UPB_ACT_STATE : Fld := ⟨0x406004, 0, 3⟩
def UPB_TID_TID : Fld := ⟨0x406008, 0, 16⟩
def UPB_SN_LO_SN : Fld := ⟨0x406010, 0, 32⟩
def UPB_SN_HI_SN : Fld := ⟨0x406014, 0, 32⟩
def UPB_SN_CFG_LOCK : Fld := ⟨0x406018, 31, 1⟩
def UPB_SN_CFG_RDLY_MAX : Fld := ⟨0x406018, 0, 13⟩
def UPB_TMR_REMAIN : Fld := ⟨0x40601C, 16, 16⟩
def UPB_TMR_TO1 : Fld := ⟨0x40601C, 0, 16⟩
def UPB_EQD_PENDING : Fld := ⟨0x406020, 31, 1⟩
def UPB_EQD_EQD : Fld := ⟨0x406020, 0, 28⟩
def UPB_EQD_STAT_RESID : Fld := ⟨0x406024, 31, 1⟩
def UPB_EQD_STAT_FINE : Fld := ⟨0x406024, 24, 7⟩
def UPB_EQD_STAT_COARSE : Fld := ⟨0x406024, 0, 24⟩
def UPB_PROF_VALID : Fld := ⟨0x406040, 31, 1⟩
def UPB_PROF_PRE_LEN : Fld := ⟨0x406040, 0, 11⟩
def UPB_PROF_PRE_LO_PRE : Fld := ⟨0x406044, 0, 32⟩
def UPB_PROF_PRE_HI_PRE : Fld := ⟨0x406048, 0, 32⟩
def UPB_PROF_DEL_LO_DEL : Fld := ⟨0x40604C, 0, 32⟩
def UPB_PROF_DEL_HI_DEL : Fld := ⟨0x406050, 0, 32⟩
def UPB_MSG_DATA_BYTES : Fld := ⟨0x406100, 0, 32⟩
def UPB_MSG_PUSH_PUSH : Fld := ⟨0x406140, 0, 1⟩
def UPB_MSG_STAT_OVF : Fld := ⟨0x406144, 5, 1⟩
def UPB_MSG_STAT_COUNT : Fld := ⟨0x406144, 0, 5⟩
def UPB_BRIDLE_CFG_LOCK : Fld := ⟨0x406180, 31, 1⟩
def UPB_BRIDLE_CFG_MAX_BURST : Fld := ⟨0x406180, 0, 17⟩
def UPB_BRIDLE_STAT_ROGUE : Fld := ⟨0x406184, 31, 1⟩
def UPB_BRIDLE_STAT_FAULT_HOLD : Fld := ⟨0x406184, 7, 1⟩
def UPB_BRIDLE_STAT_DG_ACTIVE : Fld := ⟨0x406184, 6, 1⟩
def UPB_BRIDLE_STAT_UNLOCK_STAGE : Fld := ⟨0x406184, 4, 2⟩
def UPB_BRIDLE_STAT_CAUSE : Fld := ⟨0x406184, 0, 2⟩
def UPB_BRIDLE_UNLOCK_KEY : Fld := ⟨0x406188, 0, 32⟩
def UPB_ALLOC_VALID : Fld := ⟨0x407000, 31, 1⟩
def UPB_ALLOC_EXPRESS : Fld := ⟨0x407000, 30, 1⟩
def UPB_ALLOC_FRAG : Fld := ⟨0x407000, 29, 1⟩
def UPB_ALLOC_ALLOC_ID : Fld := ⟨0x407000, 0, 16⟩
def PRT_CFG_WTR : Fld := ⟨0x800000, 8, 12⟩
def PRT_CFG_HOME : Fld := ⟨0x800000, 3, 1⟩
def PRT_CFG_REVERT : Fld := ⟨0x800000, 2, 1⟩
def PRT_CFG_MODE : Fld := ⟨0x800000, 0, 2⟩
def PRT_CMD_CMD : Fld := ⟨0x800004, 0, 3⟩
def PRT_STAT_WTR_REMAIN : Fld := ⟨0x800008, 16, 16⟩
def PRT_STAT_CFG_REFUSED : Fld := ⟨0x800008, 6, 1⟩
def PRT_STAT_WTR_RUN : Fld := ⟨0x800008, 5, 1⟩
def PRT_STAT_NO_PATH : Fld := ⟨0x800008, 4, 1⟩
def PRT_STAT_LOCKED : Fld := ⟨0x800008, 3, 1⟩
def PRT_STAT_ELIG_B : Fld := ⟨0x800008, 2, 1⟩
def PRT_STAT_ELIG_A : Fld := ⟨0x800008, 1, 1⟩
def PRT_STAT_ACTIVE : Fld := ⟨0x800008, 0, 1⟩
def PRT_SW_COUNT_COUNT : Fld := ⟨0x80000C, 0, 32⟩
def PRT_LAST_SW_LO_TICKS : Fld := ⟨0x800010, 0, 32⟩
def PRT_LAST_SW_HI_TICKS : Fld := ⟨0x800014, 0, 32⟩
def PRT_LAST_SW_INFO_RESUME : Fld := ⟨0x800018, 8, 24⟩
def PRT_LAST_SW_INFO_TO : Fld := ⟨0x800018, 4, 1⟩
def PRT_LAST_SW_INFO_CAUSE : Fld := ⟨0x800018, 1, 3⟩
def PRT_RO_OCC_HELD : Fld := ⟨0x800020, 0, 15⟩
def PRT_UPID_CTR : Fld := ⟨0x801000, 20, 12⟩
def PRT_UPID_PORT_ID : Fld := ⟨0x801000, 0, 20⟩
def CKT_CFG_FILL : Fld := ⟨0x900000, 8, 8⟩
def CKT_CFG_REF : Fld := ⟨0x900000, 0, 2⟩
def CKT_CTRL_REALIGN : Fld := ⟨0x900004, 4, 1⟩
def CKT_CTRL_FORCE : Fld := ⟨0x900004, 3, 1⟩
def CKT_CTRL_SWAP_US : Fld := ⟨0x900004, 1, 1⟩
def CKT_CTRL_SWAP_DS : Fld := ⟨0x900004, 0, 1⟩
def CKT_STAT_DUP : Fld := ⟨0x900008, 4, 1⟩
def CKT_STAT_BUSY_WR : Fld := ⟨0x900008, 3, 1⟩
def CKT_STAT_ALIGNED : Fld := ⟨0x900008, 2, 1⟩
def CKT_STAT_PEND_US : Fld := ⟨0x900008, 1, 1⟩
def CKT_STAT_PEND_DS : Fld := ⟨0x900008, 0, 1⟩
def CKT_LAT_VALID : Fld := ⟨0x900010, 31, 1⟩
def CKT_LAT_LAT : Fld := ⟨0x900010, 0, 18⟩
def CKT_CM_DS_ENTRY : Fld := ⟨0x910000, 0, 32⟩
def CKT_CM_US_ENTRY : Fld := ⟨0x920000, 0, 32⟩
def CKT_CM_DS_ACT_ENTRY : Fld := ⟨0x930000, 0, 32⟩
def CKT_CM_US_ACT_ENTRY : Fld := ⟨0x940000, 0, 32⟩
def HAR_CFG_RX_POL : Fld := ⟨0x980000, 8, 8⟩
def HAR_CFG_EN : Fld := ⟨0x980000, 0, 1⟩
def HAR_CTRL_RETRAIN : Fld := ⟨0x980004, 0, 1⟩
def HAR_STAT_BLK_LOCK : Fld := ⟨0x980008, 24, 8⟩
def HAR_STAT_LANE_LOCK : Fld := ⟨0x980008, 16, 8⟩
def HAR_STAT_QUAR : Fld := ⟨0x980008, 8, 8⟩
def HAR_STAT_FAR_RDI : Fld := ⟨0x980008, 5, 1⟩
def HAR_STAT_TX_TRAIN : Fld := ⟨0x980008, 4, 1⟩
def HAR_STAT_RX_ALIGNED : Fld := ⟨0x980008, 3, 1⟩
def HAR_STAT_RXCK_OK : Fld := ⟨0x980008, 2, 1⟩
def HAR_STAT_LINK_UP : Fld := ⟨0x980008, 0, 1⟩
def HAR_LANE_FAILS : Fld := ⟨0x980010, 16, 2⟩
def HAR_LANE_SKEW : Fld := ⟨0x980010, 8, 8⟩
def HAR_LANE_VALID : Fld := ⟨0x980010, 3, 1⟩
def HAR_LANE_LANE : Fld := ⟨0x980010, 0, 3⟩
def HAR_RX_PHASE_PHASE : Fld := ⟨0x980030, 0, 17⟩
def HAR_EYE_CFG_DWELL : Fld := ⟨0x980040, 8, 5⟩
def HAR_EYE_CFG_LANE : Fld := ⟨0x980040, 4, 3⟩
def HAR_EYE_CFG_DONE : Fld := ⟨0x980040, 2, 1⟩
def HAR_EYE_CFG_BUSY : Fld := ⟨0x980040, 1, 1⟩
def HAR_EYE_CFG_START : Fld := ⟨0x980040, 0, 1⟩
def HAR_EYE_MAP_VALID : Fld := ⟨0x981000, 31, 1⟩
def HAR_EYE_MAP_ERR : Fld := ⟨0x981000, 0, 16⟩
def CLS_CFG_VER_OWNER : Fld := ⟨0xA00000, 24, 8⟩
def CLS_CFG_MAX_RECIRC : Fld := ⟨0xA00000, 8, 3⟩
def CLS_CFG_EM_MODE : Fld := ⟨0xA00000, 3, 1⟩
def CLS_CFG_TC_MODE : Fld := ⟨0xA00000, 2, 1⟩
def CLS_CFG_EM_EN : Fld := ⟨0xA00000, 1, 1⟩
def CLS_CFG_TC_EN : Fld := ⟨0xA00000, 0, 1⟩
def CLS_PROF_MPLS_INNER : Fld := ⟨0xA00010, 12, 1⟩
def CLS_PROF_MPLS_BODY : Fld := ⟨0xA00010, 8, 4⟩
def CLS_PROF_IP6_BODY : Fld := ⟨0xA00010, 4, 4⟩
def CLS_PROF_IP4_BODY : Fld := ⟨0xA00010, 0, 4⟩
def CLS_TUN_PORT_EN : Fld := ⟨0xA00020, 31, 1⟩
def CLS_TUN_PORT_PORT : Fld := ⟨0xA00020, 0, 16⟩
def CLS_MISS_ACT_LO_ACT : Fld := ⟨0xA00040, 0, 32⟩
def CLS_MISS_ACT_HI_ACT : Fld := ⟨0xA00044, 0, 32⟩
def CLS_EM_MASK_MASK : Fld := ⟨0xA00100, 0, 32⟩
def CLS_STG_KEY_KEY : Fld := ⟨0xA00200, 0, 32⟩
def CLS_STG_MASK_MASK : Fld := ⟨0xA00240, 0, 32⟩
def CLS_STG_ACT_LO_ACT : Fld := ⟨0xA00280, 0, 32⟩
def CLS_STG_ACT_HI_ACT : Fld := ⟨0xA00284, 0, 32⟩
def CLS_STG_HIT_LO_HITS : Fld := ⟨0xA00288, 0, 32⟩
def CLS_STG_HIT_HI_HITS : Fld := ⟨0xA0028C, 0, 32⟩
def CLS_STG_CMD_OP : Fld := ⟨0xA00290, 28, 4⟩
def CLS_STG_CMD_TABLE : Fld := ⟨0xA00290, 27, 1⟩
def CLS_STG_CMD_COPY : Fld := ⟨0xA00290, 26, 1⟩
def CLS_STG_CMD_PROF : Fld := ⟨0xA00290, 18, 3⟩
def CLS_STG_CMD_INDEX : Fld := ⟨0xA00290, 0, 18⟩
def CLS_STG_STAT_BUSY : Fld := ⟨0xA00294, 31, 1⟩
def CLS_STG_STAT_DONE : Fld := ⟨0xA00294, 30, 1⟩
def CLS_STG_STAT_OVERRUN : Fld := ⟨0xA00294, 29, 1⟩
def CLS_STG_STAT_PROF : Fld := ⟨0xA00294, 9, 3⟩
def CLS_STG_STAT_VALID : Fld := ⟨0xA00294, 8, 1⟩
def CLS_STG_STAT_RESULT : Fld := ⟨0xA00294, 0, 4⟩
def CLS_HASH_RES_BUCKET1 : Fld := ⟨0xA00298, 16, 15⟩
def CLS_HASH_RES_BUCKET0 : Fld := ⟨0xA00298, 0, 15⟩
def CLS_VER_CMD_COMMIT : Fld := ⟨0xA00300, 0, 1⟩
def CLS_VER_STAT_CUR : Fld := ⟨0xA00304, 24, 8⟩
def CLS_VER_STAT_OLD : Fld := ⟨0xA00304, 16, 8⟩
def CLS_VER_STAT_OLD_LIVE : Fld := ⟨0xA00304, 15, 1⟩
def CLS_VER_STAT_STAGE_READY : Fld := ⟨0xA00304, 14, 1⟩
def CLS_VER_STAT_SYNC_BUSY : Fld := ⟨0xA00304, 13, 1⟩
def CLS_VER_STAT_RESULT : Fld := ⟨0xA00304, 0, 2⟩
def CLS_VER_CFG_DRAIN_TMO : Fld := ⟨0xA00308, 0, 16⟩
def CLS_INFL_CUR_COUNT : Fld := ⟨0xA0030C, 0, 24⟩
def CLS_INFL_OLD_COUNT : Fld := ⟨0xA00310, 0, 24⟩
def CRS_TEAM_CFG_WDOG : Fld := ⟨0xC00000, 16, 12⟩
def CRS_TEAM_CFG_EXPRESS : Fld := ⟨0xC00000, 1, 1⟩
def CRS_TEAM_STAT_QUAR : Fld := ⟨0xC00004, 24, 8⟩
def CRS_TEAM_STAT_BUSY : Fld := ⟨0xC00004, 8, 7⟩
def CRS_TEAM_STAT_STATE : Fld := ⟨0xC00004, 0, 3⟩
def CRS_GAIT_GAIT : Fld := ⟨0xC00008, 0, 32⟩
def CRS_GAIT_FLOOR_FLOOR : Fld := ⟨0xC0000C, 0, 32⟩
def CRS_LOAD_ADDR_LO_ADDR : Fld := ⟨0xC00010, 0, 32⟩
def CRS_LOAD_ADDR_HI_ADDR : Fld := ⟨0xC00014, 0, 32⟩
def CRS_LOAD_LEN_LEN : Fld := ⟨0xC00018, 0, 21⟩
def CRS_LOAD_CFG_LOCK : Fld := ⟨0xC0001C, 31, 1⟩
def CRS_LOAD_CFG_AUTH : Fld := ⟨0xC0001C, 8, 1⟩
def CRS_LOAD_CFG_KEY_SLOT : Fld := ⟨0xC0001C, 0, 6⟩
def CRS_LOAD_CMD_RUN : Fld := ⟨0xC00020, 2, 1⟩
def CRS_LOAD_CMD_LOAD : Fld := ⟨0xC00020, 1, 1⟩
def CRS_LOAD_CMD_DRAIN : Fld := ⟨0xC00020, 0, 1⟩
def CRS_LOAD_STAT_DONE : Fld := ⟨0xC00024, 31, 1⟩
def CRS_LOAD_STAT_RESULT : Fld := ⟨0xC00024, 0, 8⟩
def CRS_IMG_ID_ID : Fld := ⟨0xC00028, 0, 32⟩
def CRS_IMG_CRC_CRC : Fld := ⟨0xC0002C, 0, 32⟩
def CRS_IMG_ICRC_CRC : Fld := ⟨0xC00030, 0, 32⟩
def CRS_SAMP_CFG_EN : Fld := ⟨0xC00040, 31, 1⟩
def CRS_SAMP_CFG_STOP_FULL : Fld := ⟨0xC00040, 30, 1⟩
def CRS_SAMP_CFG_MODE : Fld := ⟨0xC00040, 29, 1⟩
def CRS_SAMP_CFG_TRIG : Fld := ⟨0xC00040, 26, 3⟩
def CRS_SAMP_CFG_PERIOD : Fld := ⟨0xC00040, 0, 20⟩
def CRS_SAMP_STAT_FULL : Fld := ⟨0xC00044, 31, 1⟩
def CRS_SAMP_STAT_WRAPPED : Fld := ⟨0xC00044, 30, 1⟩
def CRS_SAMP_STAT_CODE : Fld := ⟨0xC00044, 12, 8⟩
def CRS_SAMP_STAT_WP : Fld := ⟨0xC00044, 0, 12⟩
def CRS_SAMP_LOST_COUNT : Fld := ⟨0xC00048, 0, 32⟩
def CRS_SAMP_LO_RECORD : Fld := ⟨0xC08000, 0, 32⟩
def CRS_SAMP_HI_RECORD : Fld := ⟨0xC08004, 0, 32⟩
def CRS_TFLT_INFO_VALID : Fld := ⟨0xC00060, 31, 1⟩
def CRS_TFLT_INFO_MORE : Fld := ⟨0xC00060, 30, 1⟩
def CRS_TFLT_INFO_CAUSE : Fld := ⟨0xC00060, 27, 3⟩
def CRS_TFLT_INFO_COURSER : Fld := ⟨0xC00060, 24, 3⟩
def CRS_TFLT_INFO_THREAD : Fld := ⟨0xC00060, 21, 3⟩
def CRS_TFLT_INFO_TRAP : Fld := ⟨0xC00060, 16, 5⟩
def CRS_TFLT_INFO_INDEX : Fld := ⟨0xC00060, 0, 15⟩
def CRS_TFLT_ADDR_ADDR : Fld := ⟨0xC00064, 0, 32⟩
def CRS_TFLT_TIME_LO_TICKS : Fld := ⟨0xC00068, 0, 32⟩
def CRS_TFLT_TIME_HI_TICKS : Fld := ⟨0xC0006C, 0, 32⟩
def CRS_ENTRY_EXP_BUDGET : Fld := ⟨0xC00400, 16, 16⟩
def CRS_ENTRY_VALID : Fld := ⟨0xC00400, 15, 1⟩
def CRS_ENTRY_ENTRY : Fld := ⟨0xC00400, 0, 15⟩
def CRS_DISP_VALID : Fld := ⟨0xD00000, 31, 1⟩
def CRS_DISP_TEAMS : Fld := ⟨0xD00000, 0, 16⟩
def SCH_CFG_SPILL_AT : Fld := ⟨0xE00000, 16, 16⟩
def SCH_CFG_AGE_EN : Fld := ⟨0xE00000, 0, 1⟩
def SCH_LPROF_OH : Fld := ⟨0xE00010, 0, 8⟩
def SCH_SAMP_CFG_EN : Fld := ⟨0xE00040, 31, 1⟩
def SCH_SAMP_CFG_CAP : Fld := ⟨0xE00040, 30, 1⟩
def SCH_SAMP_CFG_PERIOD : Fld := ⟨0xE00040, 0, 24⟩
def SCH_SAMP_STAT_WRAPPED : Fld := ⟨0xE00044, 31, 1⟩
def SCH_SAMP_STAT_WP : Fld := ⟨0xE00044, 0, 12⟩
def SCH_SAMP_SKIP_COUNT : Fld := ⟨0xE00048, 0, 32⟩
def SCH_SAMP_RECORD : Fld := ⟨0xE10000, 0, 32⟩
def SCH_Q_CFG_EN : Fld := ⟨0xE20000, 31, 1⟩
def SCH_Q_CFG_SAMP : Fld := ⟨0xE20000, 30, 1⟩
def SCH_Q_CFG_CLASS : Fld := ⟨0xE20000, 27, 3⟩
def SCH_Q_CFG_LPROF : Fld := ⟨0xE20000, 24, 3⟩
def SCH_Q_CFG_CG : Fld := ⟨0xE20000, 21, 3⟩
def SCH_Q_CFG_SPILL : Fld := ⟨0xE20000, 20, 1⟩
def SCH_Q_CFG_SH_EN : Fld := ⟨0xE20000, 19, 1⟩
def SCH_Q_CFG_NODE : Fld := ⟨0xE20000, 10, 9⟩
def SCH_Q_CFG_SHAPER : Fld := ⟨0xE20000, 0, 10⟩
def SCH_Q_CFG1_WEIGHT : Fld := ⟨0xE20004, 16, 16⟩
def SCH_Q_CFG1_HELD : Fld := ⟨0xE20004, 15, 1⟩
def SCH_Q_CFG1_LATE_DROP : Fld := ⟨0xE20004, 12, 1⟩
def SCH_Q_CFG1_DEMOTE : Fld := ⟨0xE20004, 0, 12⟩
def SCH_Q_CFG2_YELLOW_THR : Fld := ⟨0xE20008, 16, 16⟩
def SCH_Q_CFG2_MAX : Fld := ⟨0xE20008, 0, 16⟩
def SCH_Q_CFG3_RED_THR : Fld := ⟨0xE2000C, 16, 16⟩
def SCH_Q_CFG3_AGE_THR : Fld := ⟨0xE2000C, 0, 16⟩
def SCH_CG_CFG_EN : Fld := ⟨0xE40000, 31, 1⟩
def SCH_CG_CFG_STRICT : Fld := ⟨0xE40000, 30, 1⟩
def SCH_CG_CFG_PRI : Fld := ⟨0xE40000, 27, 3⟩
def SCH_CG_CFG_SH_EN : Fld := ⟨0xE40000, 26, 1⟩
def SCH_CG_CFG_SHAPER : Fld := ⟨0xE40000, 16, 10⟩
def SCH_CG_CFG_WEIGHT : Fld := ⟨0xE40000, 0, 16⟩
def SCH_NODE_CFG_TX_ADV : Fld := ⟨0xE48000, 16, 11⟩
def SCH_NODE_CFG_SH_EN : Fld := ⟨0xE48000, 10, 1⟩
def SCH_NODE_CFG_SHAPER : Fld := ⟨0xE48000, 0, 10⟩
def SCH_SHP_CIR_RATE : Fld := ⟨0xE50000, 0, 32⟩
def SCH_SHP_CBS_DEPTH : Fld := ⟨0xE50004, 0, 24⟩
def SCH_SHP_PIR_RATE : Fld := ⟨0xE50008, 0, 32⟩
def SCH_SHP_PBS_DEPTH : Fld := ⟨0xE5000C, 0, 24⟩
def SCH_SHP_TC_TOKENS : Fld := ⟨0xE50010, 0, 32⟩
def SCH_SHP_TP_TOKENS : Fld := ⟨0xE50014, 0, 32⟩
def SCH_POL_CFG_LPROF : Fld := ⟨0xE60000, 4, 3⟩
def SCH_POL_CFG_RED_DROP : Fld := ⟨0xE60000, 3, 1⟩
def SCH_POL_CFG_AWARE : Fld := ⟨0xE60000, 2, 1⟩
def SCH_POL_CFG_MODE : Fld := ⟨0xE60000, 0, 2⟩
def SCH_POL_CIR_RATE : Fld := ⟨0xE60004, 0, 32⟩
def SCH_POL_PIR_RATE : Fld := ⟨0xE6000C, 0, 32⟩
def SCH_POL_CBS_DEPTH : Fld := ⟨0xE60008, 0, 24⟩
def SCH_POL_XBS_DEPTH : Fld := ⟨0xE60010, 0, 24⟩
def SCH_POL_TC_TOKENS : Fld := ⟨0xE60014, 0, 32⟩
def SCH_POL_TX_TOKENS : Fld := ⟨0xE60018, 0, 32⟩
def SCH_XPOL_CFG_EN : Fld := ⟨0xE80000, 31, 1⟩
def SCH_XPOL_CFG_LPROF : Fld := ⟨0xE80000, 1, 3⟩
def SCH_XPOL_CFG_MODE : Fld := ⟨0xE80000, 0, 1⟩
def SCH_XPOL_CIR_RATE : Fld := ⟨0xE80004, 0, 32⟩
def SCH_XPOL_BURST_DEPTH : Fld := ⟨0xE80008, 0, 24⟩
def SCH_XPOL_TOK_TOKENS : Fld := ⟨0xE8000C, 0, 32⟩
def SCH_GCL_BASE_NS_NS : Fld := ⟨0xE90000, 0, 30⟩
def SCH_GCL_BASE_S_LO_S : Fld := ⟨0xE90004, 0, 32⟩
def SCH_GCL_BASE_S_HI_S : Fld := ⟨0xE90008, 0, 16⟩
def SCH_GCL_CYCLE_NS : Fld := ⟨0xE9000C, 0, 30⟩
def SCH_GCL_LEN_LEN : Fld := ⟨0xE90010, 0, 11⟩
def SCH_GCL_CTRL_COMMIT : Fld := ⟨0xE90014, 31, 1⟩
def SCH_GCL_CTRL_COMP : Fld := ⟨0xE90014, 16, 3⟩
def SCH_GCL_CTRL_PENDING : Fld := ⟨0xE90014, 15, 1⟩
def SCH_GCL_CTRL_RUN : Fld := ⟨0xE90014, 14, 1⟩
def SCH_GCL_CTRL_LATE : Fld := ⟨0xE90014, 13, 1⟩
def SCH_GCL_CTRL_RESULT : Fld := ⟨0xE90014, 0, 3⟩
def SCH_GCL_WSEL_LIST : Fld := ⟨0xE98000, 0, 10⟩
def SCH_GCL_ADM_INTERVAL : Fld := ⟨0xEA0000, 0, 30⟩
def SCH_GCL_ADM_G_GATES : Fld := ⟨0xEA0004, 0, 8⟩
def SCH_GCL_OPR_ENTRY : Fld := ⟨0xEA2000, 0, 32⟩
def TIM_CFG_OWNER : Fld := ⟨0x1000000, 24, 8⟩
def TIM_CFG_LOCK_NS : Fld := ⟨0x1000000, 16, 8⟩
def TIM_CFG_BW : Fld := ⟨0x1000000, 12, 2⟩
def TIM_CFG_GAIN : Fld := ⟨0x1000000, 8, 4⟩
def TIM_CFG_SRC : Fld := ⟨0x1000000, 0, 3⟩
def TIM_THR_TOD_TMO : Fld := ⟨0x1000004, 16, 16⟩
def TIM_THR_STEP_NS : Fld := ⟨0x1000004, 0, 16⟩
def TIM_STAT_TICK_ALIGNED : Fld := ⟨0x1000008, 7, 1⟩
def TIM_STAT_SLEWING : Fld := ⟨0x1000008, 6, 1⟩
def TIM_STAT_REF_SIDE : Fld := ⟨0x1000008, 5, 1⟩
def TIM_STAT_HOLD_CAUSE : Fld := ⟨0x1000008, 2, 3⟩
def TIM_STAT_STATE : Fld := ⟨0x1000008, 0, 2⟩
def TIM_CTRL_SET : Fld := ⟨0x100000C, 0, 1⟩
def TIM_TICK_LO_TICK : Fld := ⟨0x1000010, 0, 32⟩
def TIM_TICK_HI_TICK : Fld := ⟨0x1000014, 0, 32⟩
def TIM_TOD_NS_NS : Fld := ⟨0x1000018, 0, 30⟩
def TIM_TOD_S_LO_SEC : Fld := ⟨0x100001C, 0, 32⟩
def TIM_TOD_S_HI_FRAC : Fld := ⟨0x1000020, 16, 16⟩
def TIM_TOD_S_HI_SEC : Fld := ⟨0x1000020, 0, 16⟩
def TIM_TOD_TICK_LO_TICK : Fld := ⟨0x1000070, 0, 32⟩
def TIM_TOD_TICK_HI_TICK : Fld := ⟨0x1000074, 0, 32⟩
def TIM_FREQ_FREQ : Fld := ⟨0x1000028, 0, 32⟩
def TIM_FREQ_SET_FREQ : Fld := ⟨0x100002C, 0, 32⟩
def TIM_SET_S_LO_SEC : Fld := ⟨0x1000030, 0, 32⟩
def TIM_SET_S_HI_SEC : Fld := ⟨0x1000034, 0, 16⟩
def TIM_SET_NS_NS : Fld := ⟨0x1000038, 0, 30⟩
def TIM_ASYM_ASYM : Fld := ⟨0x1000040, 0, 32⟩
def TIM_DLY_DTX : Fld := ⟨0x1000048, 16, 16⟩
def TIM_DLY_DRX : Fld := ⟨0x1000048, 0, 16⟩
def TIM_EXT_OFS_NS : Fld := ⟨0x1000050, 0, 32⟩
def TIM_ERR_LO_ERR : Fld := ⟨0x1000060, 0, 32⟩
def TIM_ERR_HI_ERR : Fld := ⟨0x1000064, 0, 32⟩
def TIM_TODM_0_SFC : Fld := ⟨0x1000100, 0, 32⟩
def TIM_TODM_1_SFC : Fld := ⟨0x1000104, 0, 19⟩
def TIM_TODM_2_SEC : Fld := ⟨0x1000108, 0, 32⟩
def TIM_TODM_3_FRAC : Fld := ⟨0x100010C, 16, 16⟩
def TIM_TODM_3_SEC : Fld := ⟨0x100010C, 0, 16⟩
def TIM_TODM_4_NSEC : Fld := ⟨0x1000110, 0, 32⟩
def TIM_TODM_5_TEQD : Fld := ⟨0x1000114, 0, 32⟩
def TIM_TODM_6_TEQD : Fld := ⟨0x1000118, 0, 16⟩
def TIM_TODM_CTRL_APPLY : Fld := ⟨0x100011C, 31, 1⟩
def TIM_TODM_CTRL_PEND : Fld := ⟨0x100011C, 30, 1⟩
def TIM_TODM_CTRL_RESULT : Fld := ⟨0x100011C, 28, 2⟩
def TIM_PPS_CFG_EN : Fld := ⟨0x1000200, 31, 1⟩
def TIM_PPS_CFG_POL : Fld := ⟨0x1000200, 30, 1⟩
def TIM_PPS_CFG_FEATURE : Fld := ⟨0x1000200, 24, 2⟩
def TIM_PPS_CFG_COMP : Fld := ⟨0x1000200, 20, 3⟩
def TIM_PPS_CFG_WIDTH : Fld := ⟨0x1000200, 0, 20⟩
def TIM_PPS_OFS_OFFSET : Fld := ⟨0x1000204, 0, 32⟩
def TIM_PPS_PER_PERIOD : Fld := ⟨0x1000208, 0, 30⟩
def TIM_CAP_CFG_EN : Fld := ⟨0x1000240, 31, 1⟩
def TIM_CAP_CFG_EDGE : Fld := ⟨0x1000240, 29, 2⟩
def TIM_CAP_ENTRY_ENTRY : Fld := ⟨0x1000244, 0, 32⟩
def TIM_CAP_OVF_OVF : Fld := ⟨0x1000254, 0, 32⟩
def TIM_CMP_S_LO_SEC : Fld := ⟨0x1000300, 0, 32⟩
def TIM_CMP_S_HI_SEC : Fld := ⟨0x1000304, 0, 16⟩
def TIM_CMP_NS_NS : Fld := ⟨0x1000308, 0, 30⟩
def TIM_CMP_CTRL_ARM : Fld := ⟨0x100030C, 31, 1⟩
def TIM_CMP_CTRL_FIRED : Fld := ⟨0x100030C, 30, 1⟩
def TIM_CMP_CTRL_LATE : Fld := ⟨0x100030C, 29, 1⟩
def TIM_CMP_CTRL_STEPPED : Fld := ⟨0x100030C, 28, 1⟩
def TIM_CMP_CTRL_FEATURE : Fld := ⟨0x100030C, 0, 8⟩
def TIM_TSQ_ENTRY_ENTRY : Fld := ⟨0x1000400, 0, 32⟩
def TIM_TSQ_LEVEL_LEVEL : Fld := ⟨0x1000410, 0, 10⟩
def TIM_TSQ_OVF_OVF : Fld := ⟨0x1000414, 0, 32⟩
def TIM_TSQ_CFG_EN : Fld := ⟨0x1000418, 0, 1⟩
def TIM_PTP_CFG_TC_EN : Fld := ⟨0x1000500, 0, 10⟩
def TIM_CLI_DLY_TX : Fld := ⟨0x1000520, 16, 16⟩
def TIM_CLI_DLY_RX : Fld := ⟨0x1000520, 0, 16⟩
def CLI_CFG_CFG_REFUSED : Fld := ⟨0x1100000, 4, 1⟩
def CLI_CFG_LANE_RATE : Fld := ⟨0x1100000, 3, 1⟩
def CLI_CFG_MODE : Fld := ⟨0x1100000, 0, 3⟩
def CLI_LANE_RX_POL : Fld := ⟨0x1100010, 1, 1⟩
def CLI_LANE_TX_POL : Fld := ⟨0x1100010, 0, 1⟩
def CLI_PORT_CFG_EN : Fld := ⟨0x1110000, 31, 1⟩
def CLI_PORT_CFG_RX_EXP : Fld := ⟨0x1110000, 29, 2⟩
def CLI_PORT_CFG_PROMISC : Fld := ⟨0x1110000, 28, 1⟩
def CLI_PORT_CFG_BCAST : Fld := ⟨0x1110000, 27, 1⟩
def CLI_PORT_CFG_ALLMC : Fld := ⟨0x1110000, 26, 1⟩
def CLI_PORT_CFG_FEC : Fld := ⟨0x1110000, 25, 1⟩
def CLI_PORT_CFG_EXP_PCP : Fld := ⟨0x1110000, 16, 8⟩
def CLI_PORT_CFG_MAX_LEN : Fld := ⟨0x1110000, 0, 15⟩
def CLI_PORT_STAT_FEC_LOCK : Fld := ⟨0x1110004, 4, 1⟩
def CLI_PORT_STAT_PCS_LOCK : Fld := ⟨0x1110004, 3, 1⟩
def CLI_PORT_STAT_REMOTE_FAULT : Fld := ⟨0x1110004, 2, 1⟩
def CLI_PORT_STAT_LOCAL_FAULT : Fld := ⟨0x1110004, 1, 1⟩
def CLI_PORT_STAT_LINK : Fld := ⟨0x1110004, 0, 1⟩
def CLI_PORT_LAT_TX : Fld := ⟨0x1110008, 16, 16⟩
def CLI_PORT_LAT_RX : Fld := ⟨0x1110008, 0, 16⟩
def CLI_PMP_CFG_PMP_EN : Fld := ⟨0x1110010, 31, 1⟩
def CLI_PMP_CFG_VERIFY : Fld := ⟨0x1110010, 30, 1⟩
def CLI_PMP_CFG_ADD_FRAG : Fld := ⟨0x1110010, 16, 2⟩
def CLI_PMP_CFG_VERIFY_MS : Fld := ⟨0x1110010, 8, 8⟩
def CLI_PMP_CFG_EMAC_CLASSES : Fld := ⟨0x1110010, 0, 8⟩
def CLI_PMP_STAT_ACTIVE : Fld := ⟨0x1110014, 3, 1⟩
def CLI_PMP_STAT_VSTATE : Fld := ⟨0x1110014, 0, 3⟩
def CLI_UCAST_LO_ADDR : Fld := ⟨0x1110040, 0, 32⟩
def CLI_UCAST_HI_VALID : Fld := ⟨0x1110044, 31, 1⟩
def CLI_UCAST_HI_ADDR : Fld := ⟨0x1110044, 0, 16⟩
def GLB_RST_KEY : Fld := ⟨0x10, 16, 16⟩
def GLB_RST_WARM : Fld := ⟨0x10, 1, 1⟩
def GLB_RST_HOST : Fld := ⟨0x10, 0, 1⟩
def GLB_RST_STAT_BUSY : Fld := ⟨0x14, 31, 1⟩
def GLB_RST_STAT_WARM_COUNT : Fld := ⟨0x14, 8, 8⟩
def GLB_RST_STAT_LAST : Fld := ⟨0x14, 0, 3⟩
def HIF_CFG_LOCK : Fld := ⟨0x8000, 31, 1⟩
def HIF_CFG_RO_EN : Fld := ⟨0x8000, 0, 1⟩
def HIF_STAT_BME : Fld := ⟨0x8004, 10, 1⟩
def HIF_STAT_LINK_UP : Fld := ⟨0x8004, 9, 1⟩
def HIF_STAT_WIDTH : Fld := ⟨0x8004, 4, 5⟩
def HIF_STAT_SPEED : Fld := ⟨0x8004, 0, 4⟩
def HIF_RING_CFG_EN : Fld := ⟨0x9000, 31, 1⟩
def HIF_RING_CFG_TYPE : Fld := ⟨0x9000, 29, 2⟩
def HIF_RING_CFG_VEC : Fld := ⟨0x9000, 22, 6⟩
def HIF_RING_CFG_WEIGHT : Fld := ⟨0x9000, 8, 8⟩
def HIF_RING_SIZE_SIZE : Fld := ⟨0x9004, 0, 17⟩
def HIF_RING_SUB_LO_ADDR : Fld := ⟨0x9008, 0, 32⟩
def HIF_RING_SUB_HI_ADDR : Fld := ⟨0x900C, 0, 32⟩
def HIF_RING_CMP_LO_ADDR : Fld := ⟨0x9010, 0, 32⟩
def HIF_RING_CMP_HI_ADDR : Fld := ⟨0x9014, 0, 32⟩
def HIF_RING_IDX_CI : Fld := ⟨0x9018, 16, 16⟩
def HIF_RING_IDX_PI : Fld := ⟨0x9018, 0, 16⟩
def HIF_RING_ERR_STOPPED : Fld := ⟨0x901C, 31, 1⟩
def HIF_RING_ERR_DISABLING : Fld := ⟨0x901C, 30, 1⟩
def HIF_RING_ERR_CODE : Fld := ⟨0x901C, 0, 8⟩
def HIF_HQ_EN : Fld := ⟨0xA000, 31, 1⟩
def HIF_HQ_RING : Fld := ⟨0xA000, 0, 6⟩
def HIF_VEC_COUNT : Fld := ⟨0xA400, 24, 8⟩
def HIF_VEC_HOLDOFF : Fld := ⟨0xA400, 0, 16⟩
def EVT_RING_BASE_LO_ADDR : Fld := ⟨0x100000, 0, 32⟩
def EVT_RING_BASE_HI_ADDR : Fld := ⟨0x100004, 0, 32⟩
def EVT_RING_SIZE_SIZE : Fld := ⟨0x100008, 0, 17⟩
def EVT_RING_CFG_EN : Fld := ⟨0x10000C, 31, 1⟩
def EVT_RING_CFG_FULL : Fld := ⟨0x10000C, 30, 1⟩
def EVT_RING_PI_PI : Fld := ⟨0x100010, 0, 16⟩
def EVT_RING_CI_CI : Fld := ⟨0x100014, 0, 16⟩
def EVT_LOST_COUNT : Fld := ⟨0x100018, 0, 32⟩
def EVT_SRC_EN : Fld := ⟨0x101000, 31, 1⟩
def EVT_SRC_VEC : Fld := ⟨0x101000, 16, 6⟩
def EVT_SRC_SEV : Fld := ⟨0x101000, 12, 4⟩
def EVT_CNT_COUNT : Fld := ⟨0x102000, 0, 32⟩
def MEM_MODE_AREA_REFUSED : Fld := ⟨0x1200000, 3, 1⟩
def MEM_MODE_FLIP_REFUSED : Fld := ⟨0x1200000, 2, 1⟩
def MEM_MODE_MODE : Fld := ⟨0x1200000, 0, 2⟩
def MEM_CH_CFG_EN : Fld := ⟨0x1200010, 31, 1⟩
def MEM_CH_CFG_SPEED : Fld := ⟨0x1200010, 22, 2⟩
def MEM_CH_CFG_WIDTH : Fld := ⟨0x1200010, 21, 1⟩
def MEM_CH_CFG_DENSITY : Fld := ⟨0x1200010, 19, 2⟩
def MEM_CH_CFG_RANKS : Fld := ⟨0x1200010, 18, 1⟩
def MEM_CH_STAT_UP : Fld := ⟨0x1200020, 31, 1⟩
def MEM_CH_STAT_STEST_FAIL : Fld := ⟨0x1200020, 30, 1⟩
def MEM_CH_STAT_SIZE_GB : Fld := ⟨0x1200020, 8, 6⟩
def MEM_CH_STAT_CAUSE : Fld := ⟨0x1200020, 0, 4⟩
def MEM_ARB_CFG_CAP_RATE : Fld := ⟨0x1200030, 16, 9⟩
def MEM_ARB_CFG_BG_RESERVE : Fld := ⟨0x1200030, 0, 5⟩
def MEM_SPILL_BASE_LO_ADDR : Fld := ⟨0x1200040, 0, 32⟩
def MEM_SPILL_BASE_HI_ADDR : Fld := ⟨0x1200044, 0, 32⟩
def MEM_SPILL_SIZE_MIB : Fld := ⟨0x1200048, 0, 18⟩
def MEM_PAD_CFG_EXP_RESERVE : Fld := ⟨0x1200050, 0, 19⟩
def MEM_PAD_FREE_CELLS : Fld := ⟨0x1200054, 0, 19⟩
def MEM_LOG_ADDR_LO_ADDR : Fld := ⟨0x1200060, 0, 32⟩
def MEM_LOG_ADDR_HI_ADDR : Fld := ⟨0x1200064, 0, 32⟩
def MEM_LOG_INFO_VALID : Fld := ⟨0x1200068, 31, 1⟩
def MEM_LOG_INFO_MORE : Fld := ⟨0x1200068, 30, 1⟩
def MEM_LOG_INFO_CLASS : Fld := ⟨0x1200068, 27, 3⟩
def MEM_LOG_INFO_KIND : Fld := ⟨0x1200068, 26, 1⟩
def MEM_LOG_INFO_REQUESTER : Fld := ⟨0x1200068, 16, 8⟩
def MEM_LOG_INFO_SYNDROME : Fld := ⟨0x1200068, 0, 16⟩
def MEM_STEST_RUNNING : Fld := ⟨0x1200080, 31, 1⟩
def MEM_STEST_FAIL : Fld := ⟨0x1200080, 30, 1⟩
def MEM_STEST_GROUPS_FAILED : Fld := ⟨0x1200080, 16, 8⟩
def MEM_STEST_CH_FAIL : Fld := ⟨0x1200080, 0, 4⟩
def MEM_FLIP_CFG_ARM : Fld := ⟨0x1200090, 31, 1⟩
def MEM_FLIP_CFG_KIND : Fld := ⟨0x1200090, 7, 1⟩
def MEM_FLIP_CFG_TARGET : Fld := ⟨0x1200090, 0, 7⟩
def MEM_FLIP_D_LO_MASK : Fld := ⟨0x1200094, 0, 32⟩
def MEM_FLIP_D_HI_MASK : Fld := ⟨0x1200098, 0, 32⟩
def MEM_FLIP_C_MASK : Fld := ⟨0x120009C, 0, 16⟩
def MEM_RMP_CFG_AUTO : Fld := ⟨0x12000A0, 0, 1⟩
def MEM_RMP_VALID : Fld := ⟨0x1201000, 31, 1⟩
def MEM_RMP_AUTO : Fld := ⟨0x1201000, 30, 1⟩
def MEM_RMP_LINE : Fld := ⟨0x1201000, 0, 29⟩
def MEM_SPR_VALID : Fld := ⟨0x1202000, 31, 1⟩
def MEM_SPR_AUTO : Fld := ⟨0x1202000, 30, 1⟩
def MEM_SPR_WORD : Fld := ⟨0x1202000, 0, 20⟩
def SEC_CFG_OWNER : Fld := ⟨0x1300000, 24, 8⟩
def SEC_ENT_STAT_FAIL : Fld := ⟨0x1300004, 31, 1⟩
def SEC_ENT_STAT_RESTART : Fld := ⟨0x1300004, 30, 1⟩
def SEC_KEY_DATA_KEY : Fld := ⟨0x1300010, 0, 32⟩
def SEC_KEY_CMD_OP : Fld := ⟨0x1300030, 28, 4⟩
def SEC_KEY_CMD_SIZE : Fld := ⟨0x1300030, 8, 1⟩
def SEC_KEY_CMD_SLOT : Fld := ⟨0x1300030, 0, 6⟩
def SEC_KEY_STAT_BUSY : Fld := ⟨0x1300034, 31, 1⟩
def SEC_KEY_STAT_DONE : Fld := ⟨0x1300034, 30, 1⟩
def SEC_KEY_STAT_RESULT : Fld := ⟨0x1300034, 0, 2⟩
def SEC_UNW_DATA_DATA : Fld := ⟨0x1300040, 0, 32⟩
def SEC_UNW_CMD_GO : Fld := ⟨0x1300068, 31, 1⟩
def SEC_UNW_CMD_SIZE : Fld := ⟨0x1300068, 16, 1⟩
def SEC_UNW_CMD_DEST : Fld := ⟨0x1300068, 8, 6⟩
def SEC_UNW_CMD_KEK : Fld := ⟨0x1300068, 0, 6⟩
def SEC_UNW_STAT_BUSY : Fld := ⟨0x130006C, 31, 1⟩
def SEC_UNW_STAT_DONE : Fld := ⟨0x130006C, 30, 1⟩
def SEC_UNW_STAT_STATUS : Fld := ⟨0x130006C, 0, 8⟩
def SEC_SLOT_IN_USE : Fld := ⟨0x1300100, 31, 1⟩
def SEC_SLOT_STATE : Fld := ⟨0x1300100, 24, 2⟩
def SEC_SLOT_KCV : Fld := ⟨0x1300100, 0, 24⟩
def SEC_LSW_ARM : Fld := ⟨0x1300200, 31, 1⟩
def SEC_LSW_PENDING : Fld := ⟨0x1300200, 30, 1⟩
def SEC_LSW_LATE : Fld := ⟨0x1300200, 29, 1⟩
def SEC_LSW_NEXT : Fld := ⟨0x1300200, 16, 2⟩
def SEC_LSW_CUR : Fld := ⟨0x1300200, 0, 2⟩
def SEC_LSW_SFC_LO_SFC : Fld := ⟨0x1300204, 0, 32⟩
def SEC_LSW_SFC_HI_SFC : Fld := ⟨0x1300208, 0, 19⟩
def SEC_DKEY_VALID : Fld := ⟨0x1310000, 31, 1⟩
def SEC_DKEY_CLEAR_OK : Fld := ⟨0x1310000, 30, 1⟩
def SEC_DKEY_SLOT2 : Fld := ⟨0x1310000, 8, 6⟩
def SEC_DKEY_SLOT1 : Fld := ⟨0x1310000, 0, 6⟩
def SEC_UKEY_VALID : Fld := ⟨0x1318000, 31, 1⟩
def SEC_UKEY_CLEAR_OK : Fld := ⟨0x1318000, 30, 1⟩
def SEC_UKEY_SLOT2 : Fld := ⟨0x1318000, 8, 6⟩
def SEC_UKEY_SLOT1 : Fld := ⟨0x1318000, 0, 6⟩
def CHK_CFG_NBYTES : Fld := ⟨0x1308000, 10, 3⟩
def CHK_CFG_INV : Fld := ⟨0x1308000, 9, 1⟩
def CHK_CFG_REFOUT : Fld := ⟨0x1308000, 8, 1⟩
def CHK_CFG_REFIN : Fld := ⟨0x1308000, 7, 1⟩
def CHK_CFG_WIDTH : Fld := ⟨0x1308000, 0, 7⟩
def CHK_POLY_LO_POLY : Fld := ⟨0x1308008, 0, 32⟩
def CHK_POLY_HI_POLY : Fld := ⟨0x130800C, 0, 32⟩
def CHK_INIT_LO_INIT : Fld := ⟨0x1308010, 0, 32⟩
def CHK_INIT_HI_INIT : Fld := ⟨0x1308014, 0, 32⟩
def CHK_RUN_LO_R : Fld := ⟨0x1308018, 0, 32⟩
def CHK_RUN_HI_R : Fld := ⟨0x130801C, 0, 32⟩
def CHK_OUT_LO_OUT : Fld := ⟨0x1308020, 0, 32⟩
def CHK_OUT_HI_OUT : Fld := ⟨0x1308024, 0, 32⟩
def CHK_FEED_DATA : Fld := ⟨0x1308028, 0, 32⟩
def CHK_SCAN_ADDR_LO_ADDR : Fld := ⟨0x1308030, 0, 32⟩
def CHK_SCAN_ADDR_HI_ADDR : Fld := ⟨0x1308034, 0, 32⟩
def CHK_SCAN_LEN_LEN : Fld := ⟨0x1308038, 0, 32⟩
def CHK_SCAN_CTRL_START : Fld := ⟨0x130803C, 31, 1⟩
def CHK_SCAN_CTRL_BUSY : Fld := ⟨0x130803C, 30, 1⟩
def CHK_SCAN_CTRL_BUSY_WR : Fld := ⟨0x130803C, 29, 1⟩
def CHK_SCAN_CTRL_DONE : Fld := ⟨0x130803C, 28, 1⟩
def CHK_SCAN_CTRL_RESULT : Fld := ⟨0x130803C, 4, 2⟩
def CHK_SCAN_CTRL_CONTINUE : Fld := ⟨0x130803C, 1, 1⟩
def CHK_SCAN_CTRL_SRC : Fld := ⟨0x130803C, 0, 1⟩
def PWR_STATE_CMD : Fld := ⟨0x200000, 24, 3⟩
def PWR_STATE_RESULT : Fld := ⟨0x200000, 16, 4⟩
def PWR_STATE_TRANS : Fld := ⟨0x200000, 8, 1⟩
def PWR_STATE_STATE : Fld := ⟨0x200000, 0, 3⟩
def PWR_CFG_OWNER : Fld := ⟨0x200004, 24, 8⟩
def PWR_CFG_WAKE_STATE : Fld := ⟨0x200004, 0, 3⟩
def PWR_RUN_MASK_REGIONS : Fld := ⟨0x200008, 0, 9⟩
def PWR_LISTEN_TEAMS_TEAMS : Fld := ⟨0x20000C, 0, 16⟩
def PWR_DOZE_CFG_M : Fld := ⟨0x200010, 16, 12⟩
def PWR_DOZE_CFG_N : Fld := ⟨0x200010, 8, 8⟩
def PWR_DOZE_CFG_SIDE : Fld := ⟨0x200010, 0, 1⟩
def PWR_STAT_ON : Fld := ⟨0x200014, 0, 9⟩
def PWR_EPOCH_COUNT : Fld := ⟨0x200018, 0, 32⟩
def GRM_RAIL_PG : Fld := ⟨0x200020, 16, 9⟩
def GRM_RAIL_EN : Fld := ⟨0x200020, 0, 9⟩
def GRM_WAKE_FAIL_VALID : Fld := ⟨0x200024, 31, 1⟩
def GRM_WAKE_FAIL_RETRY : Fld := ⟨0x200024, 16, 1⟩
def GRM_WAKE_FAIL_CODE : Fld := ⟨0x200024, 0, 16⟩
def GRM_WAKE_CFG_WN_EDGE : Fld := ⟨0x200030, 16, 1⟩
def GRM_WAKE_CFG_EN : Fld := ⟨0x200030, 8, 6⟩
def GRM_WAKE_CFG_LANES : Fld := ⟨0x200030, 0, 8⟩
def GRM_WAKE_TIMER_MS : Fld := ⟨0x200034, 0, 32⟩
def GRM_WAKE_REC_COUNT : Fld := ⟨0x200038, 16, 16⟩
def GRM_WAKE_REC_PENDING : Fld := ⟨0x200038, 8, 6⟩
def GRM_WAKE_REC_SOURCE : Fld := ⟨0x200038, 0, 3⟩
def GRM_WAKE_TICK_LO_CYCLES : Fld := ⟨0x20003C, 0, 32⟩
def GRM_WAKE_TICK_HI_CYCLES : Fld := ⟨0x200040, 0, 32⟩
def GRM_VCORE_ADDR : Fld := ⟨0x200048, 24, 7⟩
def GRM_VCORE_EXP : Fld := ⟨0x200048, 19, 5⟩
def GRM_VCORE_VERIFIED : Fld := ⟨0x200048, 18, 1⟩
def GRM_VCORE_TARGET : Fld := ⟨0x200048, 0, 10⟩
def GRM_HU_CAL0_C : Fld := ⟨0x200050, 16, 16⟩
def GRM_HU_CAL0_VMIN : Fld := ⟨0x200050, 0, 16⟩
def GRM_HU_CAL1_SCALE : Fld := ⟨0x200054, 0, 20⟩
def GRM_HU_REQ_MARGIN : Fld := ⟨0x200058, 24, 8⟩
def GRM_HU_REQ_EREQ : Fld := ⟨0x200058, 0, 24⟩
def GRM_HU_CFG_DG_HOLD : Fld := ⟨0x20005C, 0, 12⟩
def GRM_HU_RES_VALID : Fld := ⟨0x200060, 31, 1⟩
def GRM_HU_RES_SUFF : Fld := ⟨0x200060, 30, 1⟩
def GRM_HU_RES_V : Fld := ⟨0x200060, 0, 21⟩
def GRM_HU_E_LO_E : Fld := ⟨0x200064, 0, 32⟩
def GRM_HU_E_HI_E : Fld := ⟨0x200068, 0, 32⟩
def GRM_SAVE_CFG_BASE : Fld := ⟨0x200070, 12, 12⟩
def GRM_SAVE_STAT_READY : Fld := ⟨0x200074, 31, 1⟩
def GRM_SAVE_STAT_RESULT : Fld := ⟨0x200074, 24, 3⟩
def GRM_SAVE_STAT_SLOT : Fld := ⟨0x200074, 0, 1⟩
def GRM_SAVE_USER_DATA : Fld := ⟨0x201000, 0, 32⟩
def GRM_LAST_REC_DATA : Fld := ⟨0x202000, 0, 32⟩
def GRM_MON_CFG_EN : Fld := ⟨0x200100, 31, 1⟩
def GRM_MON_CFG_POL : Fld := ⟨0x200100, 30, 1⟩
def GRM_MON_CFG_WAKE : Fld := ⟨0x200100, 29, 1⟩
def GRM_MON_CFG_SUPPLY : Fld := ⟨0x200100, 28, 1⟩
def GRM_MON_CFG_K : Fld := ⟨0x200100, 24, 4⟩
def GRM_MON_CFG_HI : Fld := ⟨0x200100, 12, 12⟩
def GRM_MON_CFG_LO : Fld := ⟨0x200100, 0, 12⟩
def GRM_MON_ABOVE : Fld := ⟨0x200104, 31, 1⟩
def GRM_MON_RAW : Fld := ⟨0x200104, 16, 12⟩
def GRM_MON_FILT : Fld := ⟨0x200104, 0, 12⟩
def GRM_DARK_THR_B : Fld := ⟨0x200180, 16, 12⟩
def GRM_DARK_THR_A : Fld := ⟨0x200180, 0, 12⟩
def GRM_LOAD_ADDR_LO_ADDR : Fld := ⟨0x200200, 0, 32⟩
def GRM_LOAD_ADDR_HI_ADDR : Fld := ⟨0x200204, 0, 32⟩
def GRM_LOAD_LEN_LEN : Fld := ⟨0x200208, 0, 17⟩
def GRM_LOAD_CFG_LOCK : Fld := ⟨0x20020C, 31, 1⟩
def GRM_LOAD_CFG_AUTH : Fld := ⟨0x20020C, 8, 1⟩
def GRM_LOAD_CFG_KEY_SLOT : Fld := ⟨0x20020C, 0, 6⟩
def GRM_LOAD_CMD_LOAD : Fld := ⟨0x200210, 0, 1⟩
def GRM_LOAD_STAT_DONE : Fld := ⟨0x200214, 31, 1⟩
def GRM_LOAD_STAT_RESULT : Fld := ⟨0x200214, 0, 8⟩
def CAP_CFG_EN : Fld := ⟨0x1400000, 31, 1⟩
def CAP_CFG_WRAP : Fld := ⟨0x1400000, 30, 1⟩
def CAP_CFG_SRC_EN : Fld := ⟨0x1400000, 0, 5⟩
def CAP_BASE_LO_ADDR : Fld := ⟨0x1400004, 0, 32⟩
def CAP_BASE_HI_ADDR : Fld := ⟨0x1400008, 0, 32⟩
def CAP_SIZE_MIB : Fld := ⟨0x140000C, 0, 17⟩
def CAP_STAT_REFUSED : Fld := ⟨0x1400010, 3, 1⟩
def CAP_STAT_MEM_LOST : Fld := ⟨0x1400010, 2, 1⟩
def CAP_STAT_WRAPPED : Fld := ⟨0x1400010, 1, 1⟩
def CAP_STAT_FULL : Fld := ⟨0x1400010, 0, 1⟩
def CAP_WP_LO_OFS : Fld := ⟨0x1400018, 0, 32⟩
def CAP_WP_HI_OFS : Fld := ⟨0x140001C, 0, 32⟩
def CAP_OLDEST_LO_OFS : Fld := ⟨0x1400020, 0, 32⟩
def CAP_OLDEST_HI_OFS : Fld := ⟨0x1400024, 0, 32⟩
def CAP_RULE_EN : Fld := ⟨0x1400040, 31, 1⟩
def CAP_RULE_ONE_IN : Fld := ⟨0x1400040, 8, 16⟩
def CAP_RULE_SNAPLEN : Fld := ⟨0x1400040, 0, 8⟩
def CAP_RD_OFS_LO_OFS : Fld := ⟨0x1400080, 0, 32⟩
def CAP_RD_OFS_HI_OFS : Fld := ⟨0x1400084, 0, 32⟩
def CAP_RD_DST_LO_ADDR : Fld := ⟨0x1400088, 0, 32⟩
def CAP_RD_DST_HI_ADDR : Fld := ⟨0x140008C, 0, 32⟩
def CAP_RD_LEN_LEN : Fld := ⟨0x1400090, 0, 32⟩
def CAP_RD_CTRL_GO : Fld := ⟨0x1400094, 31, 1⟩
def CAP_RD_CTRL_BUSY : Fld := ⟨0x1400094, 30, 1⟩
def CAP_RD_CTRL_DONE : Fld := ⟨0x1400094, 29, 1⟩
def CAP_RD_CTRL_RESULT : Fld := ⟨0x1400094, 0, 2⟩
def CAP_RD_DONE_LEN_LEN : Fld := ⟨0x1400098, 0, 32⟩
def STB_CFG_EN : Fld := ⟨0x1401000, 31, 1⟩
def STB_CFG_PERIOD : Fld := ⟨0x1401000, 0, 10⟩
def STB_CTRL_NOW : Fld := ⟨0x1401004, 0, 1⟩
def STB_CMP_ARM_ARM : Fld := ⟨0x1401008, 31, 1⟩
def STB_CMP_ARM_COMP : Fld := ⟨0x1401008, 0, 3⟩
def STB_QFIRST_Q : Fld := ⟨0x140100C, 0, 13⟩
def STB_STAT_SEQ : Fld := ⟨0x1401010, 0, 32⟩
def STB_UPAGE_UEN : Fld := ⟨0x1401014, 31, 1⟩
def STB_UPAGE_UBASE : Fld := ⟨0x1401014, 0, 2⟩
def STB_PC_MODE : Fld := ⟨0x1401020, 31, 1⟩
def STB_PC_SEL : Fld := ⟨0x1401020, 0, 10⟩
def FAR_CFG_AUTO_REMAP : Fld := ⟨0x1500000, 31, 1⟩
def FAR_CFG_ALLOW_ERASE : Fld := ⟨0x1500000, 30, 1⟩
def FAR_CFG_PATTERNS : Fld := ⟨0x1500000, 0, 2⟩
def FAR_CMD_START : Fld := ⟨0x1500004, 31, 1⟩
def FAR_CMD_KIND : Fld := ⟨0x1500004, 24, 2⟩
def FAR_CMD_REGION : Fld := ⟨0x1500004, 20, 4⟩
def FAR_CMD_INDEX : Fld := ⟨0x1500004, 8, 8⟩
def FAR_STAT_BUSY : Fld := ⟨0x1500008, 31, 1⟩
def FAR_STAT_DONE : Fld := ⟨0x1500008, 30, 1⟩
def FAR_STAT_CLEAR_LOCK : Fld := ⟨0x1500008, 29, 1⟩
def FAR_STAT_PHASE : Fld := ⟨0x1500008, 16, 3⟩
def FAR_STAT_CAUSE : Fld := ⟨0x1500008, 8, 8⟩
def FAR_STAT_RESULT : Fld := ⟨0x1500008, 0, 8⟩
def FAR_SIG_LO_SIG : Fld := ⟨0x1500010, 0, 32⟩
def FAR_SIG_HI_SIG : Fld := ⟨0x1500014, 0, 32⟩
def FAR_SIG_EXP_LO_SIG : Fld := ⟨0x1500018, 0, 32⟩
def FAR_SIG_EXP_HI_SIG : Fld := ⟨0x150001C, 0, 32⟩
def FAR_INFO_CHAIN : Fld := ⟨0x1500020, 0, 16⟩
def FAR_MBIST_LOG_VALID : Fld := ⟨0x1500100, 31, 1⟩
def FAR_MBIST_LOG_REPAIRED : Fld := ⟨0x1500100, 30, 1⟩
def FAR_MBIST_LOG_DRAM : Fld := ⟨0x1500100, 29, 1⟩
def FAR_MBIST_LOG_GROUP : Fld := ⟨0x1500100, 22, 7⟩
def FAR_MBIST_LOG_BIT : Fld := ⟨0x1500100, 15, 7⟩
def FAR_MBIST_ADDR_ADDR : Fld := ⟨0x1500104, 0, 32⟩
def FAR_FUSE_CMD_KEY : Fld := ⟨0x1500200, 16, 16⟩
def FAR_FUSE_CMD_BURN : Fld := ⟨0x1500200, 0, 1⟩
def FAR_FUSE_STAT_BUSY : Fld := ⟨0x1500204, 31, 1⟩
def FAR_FUSE_STAT_DONE : Fld := ⟨0x1500204, 30, 1⟩
def FAR_FUSE_STAT_RESULT : Fld := ⟨0x1500204, 28, 2⟩
def FAR_FUSE_STAT_USED : Fld := ⟨0x1500204, 0, 9⟩

end F

end Sys2Proof.Machine
end

