-- ==== Sys2Proof/Machine/RegTable.lean ====
section
/-! DEFINITION. The register tables of the spec as data: one row per register (or register array) with its BAR0
address, its dimensions, its reset value (R9 tables) and the masks of its access codes. Line registers are listed once,
at side A's base (R7). -/

namespace Sys2Proof.Machine

/-- One register (or array of registers) of a register table. `n1`/`s1` is the outer dimension and its stride, `n2`/`s2` the
inner one; the masks say which bits carry which access code of R9; `host` marks a register only the host writes, `hostF` the
fields only the host writes, `bank` a register with one copy per requester. -/
structure RegRow where
  base : Nat
  n1 : Nat := 1
  s1 : Nat := 4
  n2 : Nat := 1
  s2 : Nat := 4
  reset : Nat := 0
  rw : Nat := 0
  rwl : Nat := 0
  w1c : Nat := 0
  w1s : Nat := 0
  rc : Nat := 0
  wo : Nat := 0
  hostF : Nat := 0
  host : Bool := false
  bank : Bool := false
  deriving DecidableEq, Repr

/-- Does the row hold the address? -/
def RegRow.has (r : RegRow) (a : Nat) : Bool :=
  decide (r.base ≤ a) && decide ((a - r.base) / r.s1 < r.n1) &&
    decide ((a - r.base) % r.s1 / r.s2 < r.n2) && decide ((a - r.base) % r.s1 % r.s2 = 0)

/-- Registers of spec/00_scope.md, spec/01_architecture.md, spec/12_host_interface.md. -/
def rowsGlb : List RegRow := [
  /- GLB_ID -/ { base := 0x0, reset := 0x46019840 },
  /- GLB_PARAM -/ { base := 0x4, reset := 0x4446086 },
  /- GLB_FLT_CAUSE -/ { base := 0x40, w1c := 0x80000000 },
  /- GLB_FLT_INFO -/ { base := 0x44 },
  /- GLB_FLT_TIME_LO -/ { base := 0x48 },
  /- GLB_FLT_TIME_HI -/ { base := 0x4C },
  /- GLB_RES_OWNER -/ { base := 0x100, n1 := 15, s1 := 0x4 },
  /- GLB_RES_RESULT -/ { base := 0x180, rc := 0x3, bank := true },
  /- GLB_RST -/ { base := 0x10, wo := 0xFFFF0003, host := true },
  /- GLB_RST_STAT -/ { base := 0x14, reset := 0x1 } ]

/-- Registers of spec/12_host_interface.md. -/
def rowsHif : List RegRow := [
  /- HIF_CFG -/ { base := 0x8000, rw := 0x1, w1s := 0x80000000, host := true },
  /- HIF_STAT -/ { base := 0x8004 },
  /- HIF_RING_CFG -/ { base := 0x9000, n1 := 64, s1 := 0x40, reset := 0x100, rw := 0xEFC00000, rwl := 0xFF00, host := true },
  /- HIF_RING_SIZE -/ { base := 0x9004, n1 := 64, s1 := 0x40, reset := 0x40, rw := 0x1FFFF, host := true },
  /- HIF_RING_SUB_LO -/ { base := 0x9008, n1 := 64, s1 := 0x40, rw := 0xFFFFFFFF, host := true },
  /- HIF_RING_SUB_HI -/ { base := 0x900C, n1 := 64, s1 := 0x40, rw := 0xFFFFFFFF, host := true },
  /- HIF_RING_CMP_LO -/ { base := 0x9010, n1 := 64, s1 := 0x40, rw := 0xFFFFFFFF, host := true },
  /- HIF_RING_CMP_HI -/ { base := 0x9014, n1 := 64, s1 := 0x40, rw := 0xFFFFFFFF, host := true },
  /- HIF_RING_IDX -/ { base := 0x9018, n1 := 64, s1 := 0x40 },
  /- HIF_RING_ERR -/ { base := 0x901C, n1 := 64, s1 := 0x40 },
  /- HIF_HQ -/ { base := 0xA000, n1 := 128, s1 := 0x4, rw := 0x8000003F, host := true },
  /- HIF_VEC -/ { base := 0xA400, n1 := 64, s1 := 0x4, reset := 0x1000000, rw := 0xFF00FFFF, host := true },
  /- MSI-X table: address, data and vector control (R314; the layout is the PCIe Base specification's) -/ { base := 0xF0000, n1 := 64, s1 := 0x10, n2 := 3, s2 := 4, rw := 0xFFFFFFFF, host := true },
  /- MSI-X vector control -/ { base := 0xF000C, n1 := 64, s1 := 0x10, reset := 1, rw := 1, host := true },
  /- MSI-X pending-bit array -/ { base := 0xF8000, n1 := 2, s1 := 4 } ]

/-- Registers of spec/12_host_interface.md. -/
def rowsEvt : List RegRow := [
  /- EVT_RING_BASE_LO -/ { base := 0x100000, rw := 0xFFFFFFFF, host := true },
  /- EVT_RING_BASE_HI -/ { base := 0x100004, rw := 0xFFFFFFFF, host := true },
  /- EVT_RING_SIZE -/ { base := 0x100008, reset := 0x400, rw := 0x1FFFF, host := true },
  /- EVT_RING_CFG -/ { base := 0x10000C, rw := 0x80000000, host := true },
  /- EVT_RING_PI -/ { base := 0x100010 },
  /- EVT_RING_CI -/ { base := 0x100014, rw := 0xFFFF, host := true },
  /- EVT_LOST -/ { base := 0x100018 },
  /- EVT_SRC -/ { base := 0x101000, n1 := 512, s1 := 0x4, reset := 0x80000000, rw := 0x803FF000, host := true },
  /- EVT_CNT -/ { base := 0x102000, n1 := 512, s1 := 0x4 } ]

/-- Registers of spec/02_line_physical.md, spec/15_power_groom.md. -/
def rowsGrm : List RegRow := [
  /- GRM_RXP_CAL_A -/ { base := 0x200400, n1 := 2, s1 := 0x40, n2 := 8, s2 := 0x8, reset := 0xFFF, rw := 0xFFFF0FFF },
  /- GRM_RXP_CAL_B -/ { base := 0x200404, n1 := 2, s1 := 0x40, n2 := 8, s2 := 0x8, rw := 0xFFFF },
  /- GRM_RXP -/ { base := 0x200480, n1 := 2, s1 := 0x4 },
  /- PWR_STATE -/ { base := 0x200000, reset := 0x4, rc := 0xF0000, wo := 0x7000000 },
  /- PWR_CFG -/ { base := 0x200004, reset := 0x1000004, rw := 0xFF000007, hostF := 0xFF000000 },
  /- PWR_RUN_MASK -/ { base := 0x200008, reset := 0x1C0, rw := 0x3F },
  /- PWR_LISTEN_TEAMS -/ { base := 0x20000C, reset := 0x1, rw := 0xFFFF },
  /- PWR_DOZE_CFG -/ { base := 0x200010, reset := 0x400800, rw := 0xFFFFF01 },
  /- PWR_STAT -/ { base := 0x200014, reset := 0x1C0 },
  /- PWR_EPOCH -/ { base := 0x200018 },
  /- GRM_RAIL -/ { base := 0x200020 },
  /- GRM_WAKE_FAIL -/ { base := 0x200024, w1c := 0x80000000 },
  /- GRM_WAKE_CFG -/ { base := 0x200030, reset := 0x4FF, rw := 0x13FFF },
  /- GRM_WAKE_TIMER -/ { base := 0x200034, rw := 0xFFFFFFFF },
  /- GRM_WAKE_REC -/ { base := 0x200038 },
  /- GRM_WAKE_TICK_LO -/ { base := 0x20003C },
  /- GRM_WAKE_TICK_HI -/ { base := 0x200040 },
  /- GRM_VCORE -/ { base := 0x200048, reset := 0x40A002EE, rw := 0x7FF803FF, hostF := 0x3FF },
  /- GRM_HU_CAL0 -/ { base := 0x200050, rw := 0xFFFFFFFF },
  /- GRM_HU_CAL1 -/ { base := 0x200054, rw := 0xFFFFF },
  /- GRM_HU_REQ -/ { base := 0x200058, reset := 0x20FFFFFF, rw := 0xFFFFFFFF },
  /- GRM_HU_CFG -/ { base := 0x20005C, reset := 0x1F4, rw := 0xFFF },
  /- GRM_HU_RES -/ { base := 0x200060 },
  /- GRM_HU_E_LO -/ { base := 0x200064 },
  /- GRM_HU_E_HI -/ { base := 0x200068 },
  /- GRM_SAVE_CFG -/ { base := 0x200070, rw := 0xFFF000 },
  /- GRM_SAVE_STAT -/ { base := 0x200074 },
  /- GRM_SAVE_USER -/ { base := 0x201000, n1 := 223, s1 := 0x4, rw := 0xFFFFFFFF, hostF := 0xFFFFFFFF },
  /- GRM_LAST_REC -/ { base := 0x202000, n1 := 512, s1 := 0x4 },
  /- GRM_MON_CFG -/ { base := 0x200100, n1 := 8, s1 := 0x8, reset := 0x4FFF000, rw := 0xFFFFFFFF },
  /- GRM_MON -/ { base := 0x200104, n1 := 8, s1 := 0x8 },
  /- GRM_DARK_THR -/ { base := 0x200180, reset := 0xFFF0FFF, rw := 0xFFF0FFF },
  /- GRM_LOAD_ADDR_LO -/ { base := 0x200200, rw := 0xFFFFFFFF, hostF := 0xFFFFFFFF, host := true },
  /- GRM_LOAD_ADDR_HI -/ { base := 0x200204, rw := 0xFFFFFFFF, hostF := 0xFFFFFFFF, host := true },
  /- GRM_LOAD_LEN -/ { base := 0x200208, rw := 0x1FFFF },
  /- GRM_LOAD_CFG -/ { base := 0x20020C, rwl := 0x13F, w1s := 0x80000000 },
  /- GRM_LOAD_CMD -/ { base := 0x200210, wo := 0x1 },
  /- GRM_LOAD_STAT -/ { base := 0x200214, w1c := 0x80000000 } ]

/-- Registers of spec/02_line_physical.md. -/
def rowsLin : List RegRow := [
  /- LIN_MODE -/ { base := 0x400000, reset := 0x10, rw := 0x1F },
  /- LIN_FE_CFG -/ { base := 0x400004, reset := 0x240, rw := 0x7FF },
  /- LIN_FE_STAT -/ { base := 0x400008 },
  /- LIN_DSP_CFG -/ { base := 0x400010, reset := 0x100B3, rw := 0xFFFFF },
  /- LIN_DSP_STAT -/ { base := 0x400014 },
  /- LIN_FFE_TAP -/ { base := 0x400020, n1 := 7, s1 := 0x4, reset := 0, rw := 0xFFF },
  /- LIN_DFE_TAP -/ { base := 0x400040, n1 := 2, s1 := 0x4, reset := 0, rw := 0xFFF },
  /- LIN_LDPC_CFG -/ { base := 0x400050, reset := 0x206, rw := 0xFFF },
  /- LIN_SNR_0 -/ { base := 0x400078 },
  /- LIN_SNR_1 -/ { base := 0x40007C, reset := 0xE000000, rw := 0xFFFF0000 },
  /- LIN_TX_CFG -/ { base := 0x400080, reset := 0xC0, rw := 0xFF },
  /- LIN_PEQ_CTRL -/ { base := 0x400084, reset := 0x10000, rw := 0xFF00FF, wo := 0x100, hostF := 0xFF0000 },
  /- LIN_PEQ_STAT -/ { base := 0x400088 },
  /- LIN_PEQ_PEND -/ { base := 0x400090, n1 := 7, s1 := 0x4, rw := 0xFFFF },
  /- LIN_PEQ_ACT -/ { base := 0x4000B0, n1 := 7, s1 := 0x4, reset := 0 },
  /- LIN_I2C_CFG -/ { base := 0x4000D0, reset := 0x101, rw := 0xFF07, hostF := 0xFF00 },
  /- LIN_I2C_CMD -/ { base := 0x4000D4, rw := 0x677F00FF, wo := 0x80000000 },
  /- LIN_I2C_DATA0 -/ { base := 0x4000D8, rw := 0xFFFFFFFF },
  /- LIN_I2C_DATA1 -/ { base := 0x4000DC, rw := 0xFFFFFFFF },
  /- LIN_I2C_STAT -/ { base := 0x4000E0, w1c := 0x30 } ]

/-- Registers of spec/03_downstream.md. -/
def rowsDsf : List RegRow := [
  /- DSF_CFG -/ { base := 0x401000, reset := 0x2, rw := 0x7 },
  /- DSF_TID -/ { base := 0x401004, rw := 0x8000FFFF },
  /- DSF_STAT -/ { base := 0x401008, reset := 0x20, w1c := 0x8000 },
  /- DSF_SFC_LO -/ { base := 0x401010 },
  /- DSF_SFC_HI -/ { base := 0x401014 },
  /- DSF_PONID_LO -/ { base := 0x401018 },
  /- DSF_PONID_HI -/ { base := 0x40101C },
  /- DSF_HOLD -/ { base := 0x401020, reset := 0x2710, rw := 0xFFFF },
  /- DSF_DEF_CFG -/ { base := 0x401024, reset := 0x80001, rw := 0xFFFFF },
  /- DSF_SD_SET -/ { base := 0x401028, reset := 0xFFFFFFFF, rw := 0xFFFFFFFF },
  /- DSF_SD_CLR -/ { base := 0x40102C, rw := 0xFFFFFFFF },
  /- DSF_ODC_CFG -/ { base := 0x401030, rw := 0x7 },
  /- DSF_ODC_STAT -/ { base := 0x401034, w1c := 0xF },
  /- DSF_PM_SEQ -/ { base := 0x401040 },
  /- DSF_PID -/ { base := 0x402000, n1 := 4096, s1 := 0x4, rw := 0xC00FFFFF } ]

/-- Registers of spec/04_upstream.md. -/
def rowsUpb : List RegRow := [
  /- UPB_CFG -/ { base := 0x406000, reset := 0x1000101, rw := 0xFF1FFFF1, hostF := 0xFF000000 },
  /- UPB_ACT -/ { base := 0x406004, wo := 0x7000000 },
  /- UPB_TID -/ { base := 0x406008, rw := 0xFFFF },
  /- UPB_SN_LO -/ { base := 0x406010, rwl := 0xFFFFFFFF },
  /- UPB_SN_HI -/ { base := 0x406014, rwl := 0xFFFFFFFF },
  /- UPB_SN_CFG -/ { base := 0x406018, reset := 0x1239, rw := 0x1FFF, w1s := 0x80000000 },
  /- UPB_TMR -/ { base := 0x40601C, reset := 0x2710, rw := 0xFFFF },
  /- UPB_EQD -/ { base := 0x406020, rw := 0xFFFFFFF },
  /- UPB_EQD_STAT -/ { base := 0x406024 },
  /- UPB_PROF -/ { base := 0x406040, n1 := 8, s1 := 0x20, rw := 0x800007FF },
  /- UPB_PROF_PRE_LO -/ { base := 0x406044, n1 := 8, s1 := 0x20, rw := 0xFFFFFFFF },
  /- UPB_PROF_PRE_HI -/ { base := 0x406048, n1 := 8, s1 := 0x20, rw := 0xFFFFFFFF },
  /- UPB_PROF_DEL_LO -/ { base := 0x40604C, n1 := 8, s1 := 0x20, rw := 0xFFFFFFFF },
  /- UPB_PROF_DEL_HI -/ { base := 0x406050, n1 := 8, s1 := 0x20, rw := 0xFFFFFFFF },
  /- UPB_MSG_DATA -/ { base := 0x406100, n1 := 16, s1 := 0x4, rw := 0xFFFFFFFF },
  /- UPB_MSG_PUSH -/ { base := 0x406140, wo := 0x1 },
  /- UPB_MSG_STAT -/ { base := 0x406144, w1c := 0x20 },
  /- UPB_BRIDLE_CFG -/ { base := 0x406180, reset := 0x17BB0, rwl := 0x1FFFF, w1s := 0x80000000 },
  /- UPB_BRIDLE_STAT -/ { base := 0x406184, w1c := 0x80000000 },
  /- UPB_BRIDLE_UNLOCK -/ { base := 0x406188, wo := 0xFFFFFFFF, hostF := 0xFFFFFFFF, host := true },
  /- UPB_ALLOC -/ { base := 0x407000, n1 := 512, s1 := 0x4, reset := 0x20000000, rw := 0xE000FFFF } ]

/-- Registers of spec/05_protection_bonding.md. -/
def rowsPrt : List RegRow := [
  /- PRT_CFG -/ { base := 0x800000, reset := 0x12C00, rw := 0xFFF0F },
  /- PRT_CMD -/ { base := 0x800004, wo := 0x7 },
  /- PRT_STAT -/ { base := 0x800008, w1c := 0x40 },
  /- PRT_SW_COUNT -/ { base := 0x80000C },
  /- PRT_LAST_SW_LO -/ { base := 0x800010 },
  /- PRT_LAST_SW_HI -/ { base := 0x800014 },
  /- PRT_LAST_SW_INFO -/ { base := 0x800018 },
  /- PRT_RO_OCC -/ { base := 0x800020 },
  /- PRT_UPID -/ { base := 0x801000, n1 := 4096, s1 := 0x4, rw := 0xFFFFFFFF } ]

/-- Registers of spec/06_circuits_harness.md. -/
def rowsCkt : List RegRow := [
  /- CKT_CFG -/ { base := 0x900000, reset := 0xFF00, rw := 0xFF03 },
  /- CKT_CTRL -/ { base := 0x900004, wo := 0x1B },
  /- CKT_STAT -/ { base := 0x900008, w1c := 0x18 },
  /- CKT_LAT -/ { base := 0x900010, n1 := 2, s1 := 0x4 },
  /- CKT_CM_DS -/ { base := 0x910000, n1 := 3776, s1 := 0x4, rw := 0xFFFFFFFF },
  /- CKT_CM_US -/ { base := 0x920000, n1 := 3776, s1 := 0x4, rw := 0xFFFFFFFF },
  /- CKT_CM_DS_ACT -/ { base := 0x930000, n1 := 3776, s1 := 0x4 },
  /- CKT_CM_US_ACT -/ { base := 0x940000, n1 := 3776, s1 := 0x4 } ]

/-- Registers of spec/06_circuits_harness.md. -/
def rowsHar : List RegRow := [
  /- HAR_CFG -/ { base := 0x980000, rw := 0xFF01 },
  /- HAR_CTRL -/ { base := 0x980004, wo := 0x1 },
  /- HAR_STAT -/ { base := 0x980008 },
  /- HAR_LANE -/ { base := 0x980010, n1 := 8, s1 := 0x4 },
  /- HAR_RX_PHASE -/ { base := 0x980030 },
  /- HAR_EYE_CFG -/ { base := 0x980040, reset := 0xA00, rw := 0x1F70, w1c := 0x4, wo := 0x1 },
  /- HAR_EYE_MAP -/ { base := 0x981000, n1 := 4096, s1 := 0x4 } ]

/-- Registers of spec/07_classification.md. -/
def rowsCls : List RegRow := [
  /- CLS_CFG -/ { base := 0xA00000, reset := 0x1000200, rw := 0xFF00070F, hostF := 0xFF000000 },
  /- CLS_PROF -/ { base := 0xA00010, n1 := 4, s1 := 0x4, reset := 0x431, rw := 0x1FFF },
  /- CLS_TUN_PORT -/ { base := 0xA00020, n1 := 4, s1 := 0x4, rw := 0x8000FFFF },
  /- CLS_MISS_ACT_LO -/ { base := 0xA00040, n1 := 4, s1 := 0x8, rw := 0xFFFFFFFF },
  /- CLS_MISS_ACT_HI -/ { base := 0xA00044, n1 := 4, s1 := 0x8, rw := 0xFFFFFFFF },
  /- CLS_EM_MASK -/ { base := 0xA00100, n1 := 4, s1 := 0x40, n2 := 10, s2 := 0x4, rw := 0xFFFFFFFF },
  /- CLS_STG_KEY -/ { base := 0xA00200, n1 := 10, s1 := 0x4, rw := 0xFFFFFFFF, bank := true },
  /- CLS_STG_MASK -/ { base := 0xA00240, n1 := 10, s1 := 0x4, rw := 0xFFFFFFFF, bank := true },
  /- CLS_STG_ACT_LO -/ { base := 0xA00280, rw := 0xFFFFFFFF, bank := true },
  /- CLS_STG_ACT_HI -/ { base := 0xA00284, rw := 0xFFFFFFFF, bank := true },
  /- CLS_STG_HIT_LO -/ { base := 0xA00288, bank := true },
  /- CLS_STG_HIT_HI -/ { base := 0xA0028C, bank := true },
  /- CLS_STG_CMD -/ { base := 0xA00290, wo := 0xFC1FFFFF, bank := true },
  /- CLS_STG_STAT -/ { base := 0xA00294, w1c := 0x60000000, bank := true },
  /- CLS_HASH_RES -/ { base := 0xA00298, bank := true },
  /- CLS_VER_CMD -/ { base := 0xA00300, wo := 0x1 },
  /- CLS_VER_STAT -/ { base := 0xA00304, reset := 0x4000, rc := 0x3 },
  /- CLS_VER_CFG -/ { base := 0xA00308, reset := 0x64, rw := 0xFFFF },
  /- CLS_INFL_CUR -/ { base := 0xA0030C },
  /- CLS_INFL_OLD -/ { base := 0xA00310 } ]

/-- Registers of spec/08_coursers.md. -/
def rowsCrs : List RegRow := [
  /- CRS_TEAM_CFG -/ { base := 0xC00000, n1 := 16, s1 := 0x10000, reset := 0x1000000, rw := 0xFFF0002, host := true },
  /- CRS_TEAM_STAT -/ { base := 0xC00004, n1 := 16, s1 := 0x10000, host := true },
  /- CRS_GAIT -/ { base := 0xC00008, n1 := 16, s1 := 0x10000, host := true },
  /- CRS_GAIT_FLOOR -/ { base := 0xC0000C, n1 := 16, s1 := 0x10000, rw := 0xFFFFFFFF, host := true },
  /- CRS_LOAD_ADDR_LO -/ { base := 0xC00010, n1 := 16, s1 := 0x10000, rw := 0xFFFFFFFF, host := true },
  /- CRS_LOAD_ADDR_HI -/ { base := 0xC00014, n1 := 16, s1 := 0x10000, rw := 0xFFFFFFFF, host := true },
  /- CRS_LOAD_LEN -/ { base := 0xC00018, n1 := 16, s1 := 0x10000, rw := 0x1FFFFF, host := true },
  /- CRS_LOAD_CFG -/ { base := 0xC0001C, n1 := 16, s1 := 0x10000, rwl := 0x13F, w1s := 0x80000000, host := true },
  /- CRS_LOAD_CMD -/ { base := 0xC00020, n1 := 16, s1 := 0x10000, wo := 0x7, host := true },
  /- CRS_LOAD_STAT -/ { base := 0xC00024, n1 := 16, s1 := 0x10000, w1c := 0x80000000, host := true },
  /- CRS_IMG_ID -/ { base := 0xC00028, n1 := 16, s1 := 0x10000, host := true },
  /- CRS_IMG_CRC -/ { base := 0xC0002C, n1 := 16, s1 := 0x10000, host := true },
  /- CRS_IMG_ICRC -/ { base := 0xC00030, n1 := 16, s1 := 0x10000, host := true },
  /- CRS_SAMP_CFG -/ { base := 0xC00040, n1 := 16, s1 := 0x10000, reset := 0x40001000, rw := 0xFC0FFFFF, host := true },
  /- CRS_SAMP_STAT -/ { base := 0xC00044, n1 := 16, s1 := 0x10000, rw := 0xFF000, w1c := 0xC0000000, host := true },
  /- CRS_SAMP_LOST -/ { base := 0xC00048, n1 := 16, s1 := 0x10000, host := true },
  /- CRS_SAMP_LO -/ { base := 0xC08000, n1 := 16, s1 := 0x10000, n2 := 4096, s2 := 0x8, host := true },
  /- CRS_SAMP_HI -/ { base := 0xC08004, n1 := 16, s1 := 0x10000, n2 := 4096, s2 := 0x8, host := true },
  /- CRS_TFLT_INFO -/ { base := 0xC00060, n1 := 16, s1 := 0x10000, w1c := 0x80000000, host := true },
  /- CRS_TFLT_ADDR -/ { base := 0xC00064, n1 := 16, s1 := 0x10000, host := true },
  /- CRS_TFLT_TIME_LO -/ { base := 0xC00068, n1 := 16, s1 := 0x10000, host := true },
  /- CRS_TFLT_TIME_HI -/ { base := 0xC0006C, n1 := 16, s1 := 0x10000, host := true },
  /- CRS_ENTRY -/ { base := 0xC00400, n1 := 16, s1 := 0x10000, n2 := 256, s2 := 0x4, host := true } ]

/-- Registers of spec/08_coursers.md. -/
def rowsDisp : List RegRow := [
  /- CRS_DISP -/ { base := 0xD00000, n1 := 256, s1 := 0x4, rw := 0x8000FFFF, host := true } ]

/-- Registers of spec/09_scheduling.md. -/
def rowsSch : List RegRow := [
  /- SCH_CFG -/ { base := 0xE00000, reset := 0x1000001, rw := 0xFFFF0001 },
  /- SCH_LPROF -/ { base := 0xE00010, n1 := 8, s1 := 0x4, rw := 0xFF },
  /- SCH_SAMP_CFG -/ { base := 0xE00040, reset := 0x3E8, rw := 0xC0FFFFFF },
  /- SCH_SAMP_STAT -/ { base := 0xE00044, w1c := 0x80000000 },
  /- SCH_SAMP_SKIP -/ { base := 0xE00048 },
  /- SCH_SAMP -/ { base := 0xE10000, n1 := 16384, s1 := 0x4 },
  /- SCH_Q_CFG -/ { base := 0xE20000, n1 := 6272, s1 := 0x10, rw := 0xFFFFFFFF },
  /- SCH_Q_CFG1 -/ { base := 0xE20004, n1 := 6272, s1 := 0x10, reset := 0x1000000, rw := 0xFFFF1FFF },
  /- SCH_Q_CFG2 -/ { base := 0xE20008, n1 := 6272, s1 := 0x10, reset := 0xFFFF0100, rw := 0xFFFFFFFF },
  /- SCH_Q_CFG3 -/ { base := 0xE2000C, n1 := 6272, s1 := 0x10, rw := 0xFFFFFFFF },
  /- SCH_CG_CFG -/ { base := 0xE40000, n1 := 4168, s1 := 0x4, reset := 0x100, rw := 0xFFFFFFFF },
  /- SCH_NODE_CFG -/ { base := 0xE48000, n1 := 521, s1 := 0x4, reset := 0xC80000, rw := 0x7FF07FF },
  /- SCH_SHP_CIR -/ { base := 0xE50000, n1 := 1024, s1 := 0x20, rw := 0xFFFFFFFF },
  /- SCH_SHP_CBS -/ { base := 0xE50004, n1 := 1024, s1 := 0x20, rw := 0xFFFFFF },
  /- SCH_SHP_PIR -/ { base := 0xE50008, n1 := 1024, s1 := 0x20, rw := 0xFFFFFFFF },
  /- SCH_SHP_PBS -/ { base := 0xE5000C, n1 := 1024, s1 := 0x20, rw := 0xFFFFFF },
  /- SCH_SHP_TC -/ { base := 0xE50010, n1 := 1024, s1 := 0x20 },
  /- SCH_SHP_TP -/ { base := 0xE50014, n1 := 1024, s1 := 0x20 },
  /- SCH_POL_CFG -/ { base := 0xE60000, n1 := 4096, s1 := 0x20, reset := 0x8, rw := 0x7F },
  /- SCH_POL_CIR -/ { base := 0xE60004, n1 := 4096, s1 := 0x20, rw := 0xFFFFFFFF },
  /- SCH_POL_PIR -/ { base := 0xE6000C, n1 := 4096, s1 := 0x20, rw := 0xFFFFFFFF },
  /- SCH_POL_CBS -/ { base := 0xE60008, n1 := 4096, s1 := 0x20, rw := 0xFFFFFF },
  /- SCH_POL_XBS -/ { base := 0xE60010, n1 := 4096, s1 := 0x20, rw := 0xFFFFFF },
  /- SCH_POL_TC -/ { base := 0xE60014, n1 := 4096, s1 := 0x20 },
  /- SCH_POL_TX -/ { base := 0xE60018, n1 := 4096, s1 := 0x20 },
  /- SCH_XPOL_CFG -/ { base := 0xE80000, n1 := 529, s1 := 0x10, rw := 0x8000000F },
  /- SCH_XPOL_CIR -/ { base := 0xE80004, n1 := 529, s1 := 0x10, rw := 0xFFFFFFFF },
  /- SCH_XPOL_BURST -/ { base := 0xE80008, n1 := 529, s1 := 0x10, reset := 0x7D0, rw := 0xFFFFFF },
  /- SCH_XPOL_TOK -/ { base := 0xE8000C, n1 := 529, s1 := 0x10 },
  /- SCH_GCL_BASE_NS -/ { base := 0xE90000, n1 := 520, s1 := 0x20, rw := 0x3FFFFFFF },
  /- SCH_GCL_BASE_S_LO -/ { base := 0xE90004, n1 := 520, s1 := 0x20, rw := 0xFFFFFFFF },
  /- SCH_GCL_BASE_S_HI -/ { base := 0xE90008, n1 := 520, s1 := 0x20, rw := 0xFFFF },
  /- SCH_GCL_CYCLE -/ { base := 0xE9000C, n1 := 520, s1 := 0x20, rw := 0x3FFFFFFF },
  /- SCH_GCL_LEN -/ { base := 0xE90010, n1 := 520, s1 := 0x20, rw := 0x7FF },
  /- SCH_GCL_CTRL -/ { base := 0xE90014, n1 := 520, s1 := 0x20, rw := 0x70000, w1c := 0x2000, rc := 0x7, wo := 0x80000000 },
  /- SCH_GCL_WSEL -/ { base := 0xE98000, rw := 0x3FF },
  /- SCH_GCL_ADM -/ { base := 0xEA0000, n1 := 1024, s1 := 0x8, rw := 0x3FFFFFFF },
  /- SCH_GCL_ADM_G -/ { base := 0xEA0004, n1 := 1024, s1 := 0x8, reset := 0xFF, rw := 0xFF },
  /- SCH_GCL_OPR -/ { base := 0xEA2000, n1 := 2048, s1 := 0x4 } ]

/-- Registers of spec/10_time.md. -/
def rowsTim : List RegRow := [
  /- TIM_CFG -/ { base := 0x1000000, reset := 0x10A1005, rw := 0xFFFF3F07, hostF := 0xFF000000 },
  /- TIM_THR -/ { base := 0x1000004, reset := 0x503E8, rw := 0xFFFFFFFF },
  /- TIM_STAT -/ { base := 0x1000008 },
  /- TIM_CTRL -/ { base := 0x100000C, wo := 0x1 },
  /- TIM_TICK_LO -/ { base := 0x1000010 },
  /- TIM_TICK_HI -/ { base := 0x1000014 },
  /- TIM_TOD_NS -/ { base := 0x1000018 },
  /- TIM_TOD_S_LO -/ { base := 0x100001C },
  /- TIM_TOD_S_HI -/ { base := 0x1000020 },
  /- TIM_TOD_TICK_LO -/ { base := 0x1000070 },
  /- TIM_TOD_TICK_HI -/ { base := 0x1000074 },
  /- TIM_FREQ -/ { base := 0x1000028 },
  /- TIM_FREQ_SET -/ { base := 0x100002C, rw := 0xFFFFFFFF },
  /- TIM_SET_S_LO -/ { base := 0x1000030, rw := 0xFFFFFFFF },
  /- TIM_SET_S_HI -/ { base := 0x1000034, rw := 0xFFFF },
  /- TIM_SET_NS -/ { base := 0x1000038, rw := 0x3FFFFFFF },
  /- TIM_ASYM -/ { base := 0x1000040, n1 := 2, s1 := 0x4, reset := 0x40000000, rw := 0xFFFFFFFF },
  /- TIM_DLY -/ { base := 0x1000048, n1 := 2, s1 := 0x4, rw := 0xFFFFFFFF },
  /- TIM_EXT_OFS -/ { base := 0x1000050, rw := 0xFFFFFFFF },
  /- TIM_ERR_LO -/ { base := 0x1000060, n1 := 2, s1 := 0x8 },
  /- TIM_ERR_HI -/ { base := 0x1000064, n1 := 2, s1 := 0x8 },
  /- TIM_TODM_0 -/ { base := 0x1000100, n1 := 2, s1 := 0x20, rw := 0xFFFFFFFF },
  /- TIM_TODM_1 -/ { base := 0x1000104, n1 := 2, s1 := 0x20, rw := 0x7FFFF },
  /- TIM_TODM_2 -/ { base := 0x1000108, n1 := 2, s1 := 0x20, rw := 0xFFFFFFFF },
  /- TIM_TODM_3 -/ { base := 0x100010C, n1 := 2, s1 := 0x20, rw := 0xFFFFFFFF },
  /- TIM_TODM_4 -/ { base := 0x1000110, n1 := 2, s1 := 0x20, rw := 0xFFFFFFFF },
  /- TIM_TODM_5 -/ { base := 0x1000114, n1 := 2, s1 := 0x20, rw := 0xFFFFFFFF },
  /- TIM_TODM_6 -/ { base := 0x1000118, n1 := 2, s1 := 0x20, rw := 0xFFFF },
  /- TIM_TODM_CTRL -/ { base := 0x100011C, n1 := 2, s1 := 0x20, rc := 0x30000000, wo := 0x80000000 },
  /- TIM_PPS_CFG -/ { base := 0x1000200, n1 := 2, s1 := 0x10, reset := 0x10186A0, rw := 0xC37FFFFF },
  /- TIM_PPS_OFS -/ { base := 0x1000204, n1 := 2, s1 := 0x10, rw := 0xFFFFFFFF },
  /- TIM_PPS_PER -/ { base := 0x1000208, n1 := 2, s1 := 0x10, rw := 0x3FFFFFFF },
  /- TIM_CAP_CFG -/ { base := 0x1000240, n1 := 2, s1 := 0x20, reset := 0x20000000, rw := 0xE0000000 },
  /- TIM_CAP_ENTRY -/ { base := 0x1000244, n1 := 2, s1 := 0x20, n2 := 4, s2 := 0x4 },
  /- TIM_CAP_OVF -/ { base := 0x1000254, n1 := 2, s1 := 0x20 },
  /- TIM_CMP_S_LO -/ { base := 0x1000300, n1 := 8, s1 := 0x10, rw := 0xFFFFFFFF },
  /- TIM_CMP_S_HI -/ { base := 0x1000304, n1 := 8, s1 := 0x10, rw := 0xFFFF },
  /- TIM_CMP_NS -/ { base := 0x1000308, n1 := 8, s1 := 0x10, rw := 0x3FFFFFFF },
  /- TIM_CMP_CTRL -/ { base := 0x100030C, n1 := 8, s1 := 0x10, rw := 0x80000000, w1c := 0x70000000 },
  /- TIM_TSQ_ENTRY -/ { base := 0x1000400, n1 := 8, s1 := 0x20, n2 := 4, s2 := 0x4 },
  /- TIM_TSQ_LEVEL -/ { base := 0x1000410, n1 := 8, s1 := 0x20 },
  /- TIM_TSQ_OVF -/ { base := 0x1000414, n1 := 8, s1 := 0x20 },
  /- TIM_TSQ_CFG -/ { base := 0x1000418, n1 := 8, s1 := 0x20, rw := 0x1 },
  /- TIM_PTP_CFG -/ { base := 0x1000500, rw := 0x3FF },
  /- TIM_CLI_DLY -/ { base := 0x1000520, n1 := 8, s1 := 0x4, rw := 0xFFFFFFFF } ]

/-- Registers of spec/11_client_ports.md. -/
def rowsCli : List RegRow := [
  /- CLI_CFG -/ { base := 0x1100000, reset := 0x2, rw := 0xF, w1c := 0x10 },
  /- CLI_LANE -/ { base := 0x1100010, n1 := 8, s1 := 0x4, rw := 0x3 },
  /- CLI_PORT_CFG -/ { base := 0x1110000, n1 := 8, s1 := 0x1000, reset := 0x88005F2, rw := 0xFEFF7FFF },
  /- CLI_PORT_STAT -/ { base := 0x1110004, n1 := 8, s1 := 0x1000 },
  /- CLI_PORT_LAT -/ { base := 0x1110008, n1 := 8, s1 := 0x1000 },
  /- CLI_PMP_CFG -/ { base := 0x1110010, n1 := 8, s1 := 0x1000, reset := 0x40000A80, rw := 0xC003FF7F },
  /- CLI_PMP_STAT -/ { base := 0x1110014, n1 := 8, s1 := 0x1000 },
  /- CLI_UCAST_LO -/ { base := 0x1110040, n1 := 8, s1 := 0x1000, n2 := 16, s2 := 0x8, rw := 0xFFFFFFFF },
  /- CLI_UCAST_HI -/ { base := 0x1110044, n1 := 8, s1 := 0x1000, n2 := 16, s2 := 0x8, rw := 0x8000FFFF } ]

/-- Registers of spec/13_memory.md. -/
def rowsMem : List RegRow := [
  /- MEM_MODE -/ { base := 0x1200000, rw := 0x3, w1c := 0xC },
  /- MEM_CH_CFG -/ { base := 0x1200010, n1 := 4, s1 := 0x4, reset := 0xA00000, rw := 0x80FC0000 },
  /- MEM_CH_STAT -/ { base := 0x1200020, n1 := 4, s1 := 0x4 },
  /- MEM_ARB_CFG -/ { base := 0x1200030, reset := 0x1900004, rw := 0x1FF001F },
  /- MEM_SPILL_BASE_LO -/ { base := 0x1200040, rw := 0xFFFFFFFF },
  /- MEM_SPILL_BASE_HI -/ { base := 0x1200044, rw := 0xFFFFFFFF },
  /- MEM_SPILL_SIZE -/ { base := 0x1200048, rw := 0x3FFFF },
  /- MEM_PAD_CFG -/ { base := 0x1200050, reset := 0x800, rw := 0x7FFFF },
  /- MEM_PAD_FREE -/ { base := 0x1200054, reset := 0x5B000 },
  /- MEM_LOG_ADDR_LO -/ { base := 0x1200060, n1 := 2, s1 := 0x10 },
  /- MEM_LOG_ADDR_HI -/ { base := 0x1200064, n1 := 2, s1 := 0x10 },
  /- MEM_LOG_INFO -/ { base := 0x1200068, n1 := 2, s1 := 0x10, w1c := 0x80000000 },
  /- MEM_STEST -/ { base := 0x1200080 },
  /- MEM_FLIP_CFG -/ { base := 0x1200090, rw := 0x800000FF },
  /- MEM_FLIP_D_LO -/ { base := 0x1200094, rw := 0xFFFFFFFF },
  /- MEM_FLIP_D_HI -/ { base := 0x1200098, rw := 0xFFFFFFFF },
  /- MEM_FLIP_C -/ { base := 0x120009C, rw := 0xFFFF },
  /- MEM_RMP_CFG -/ { base := 0x12000A0, reset := 0x1, rw := 0x1 },
  /- MEM_RMP -/ { base := 0x1201000, n1 := 4, s1 := 0x40, n2 := 16, s2 := 0x4, rw := 0x9FFFFFFF },
  /- MEM_SPR -/ { base := 0x1202000, n1 := 128, s1 := 0x20, n2 := 8, s2 := 0x4, rw := 0x800FFFFF } ]

/-- Registers of spec/14_keys_checks.md. -/
def rowsSec : List RegRow := [
  /- SEC_CFG -/ { base := 0x1300000, reset := 0x1000000, rw := 0xFF000000, hostF := 0xFF000000 },
  /- SEC_ENT_STAT -/ { base := 0x1300004, w1s := 0x40000000 },
  /- SEC_KEY_DATA -/ { base := 0x1300010, n1 := 8, s1 := 0x4, wo := 0xFFFFFFFF, bank := true },
  /- SEC_KEY_CMD -/ { base := 0x1300030, wo := 0xF000013F, bank := true },
  /- SEC_KEY_STAT -/ { base := 0x1300034, w1c := 0x40000000, bank := true },
  /- SEC_UNW_DATA -/ { base := 0x1300040, n1 := 10, s1 := 0x4, wo := 0xFFFFFFFF, bank := true },
  /- SEC_UNW_CMD -/ { base := 0x1300068, wo := 0x80013F3F, bank := true },
  /- SEC_UNW_STAT -/ { base := 0x130006C, w1c := 0x40000000, bank := true },
  /- SEC_SLOT -/ { base := 0x1300100, n1 := 64, s1 := 0x4 },
  /- SEC_LSW -/ { base := 0x1300200, n1 := 2, s1 := 0x10, reset := 0x10000, rw := 0x30000, w1c := 0x20000000, wo := 0x80000000 },
  /- SEC_LSW_SFC_LO -/ { base := 0x1300204, n1 := 2, s1 := 0x10, rw := 0xFFFFFFFF },
  /- SEC_LSW_SFC_HI -/ { base := 0x1300208, n1 := 2, s1 := 0x10, rw := 0x7FFFF },
  /- SEC_DKEY -/ { base := 0x1310000, n1 := 2, s1 := 0x4000, n2 := 4096, s2 := 0x4, reset := 0x40000000, rw := 0xC0003F3F },
  /- SEC_UKEY -/ { base := 0x1318000, n1 := 2, s1 := 0x4000, n2 := 4096, s2 := 0x4, reset := 0x40000000, rw := 0xC0003F3F },
  /- CHK_CFG -/ { base := 0x1308000, n1 := 4, s1 := 0x100, reset := 0x1020, rw := 0x1FFF },
  /- CHK_POLY_LO -/ { base := 0x1308008, n1 := 4, s1 := 0x100, rw := 0xFFFFFFFF },
  /- CHK_POLY_HI -/ { base := 0x130800C, n1 := 4, s1 := 0x100, rw := 0xFFFFFFFF },
  /- CHK_INIT_LO -/ { base := 0x1308010, n1 := 4, s1 := 0x100, rw := 0xFFFFFFFF },
  /- CHK_INIT_HI -/ { base := 0x1308014, n1 := 4, s1 := 0x100, rw := 0xFFFFFFFF },
  /- CHK_RUN_LO -/ { base := 0x1308018, n1 := 4, s1 := 0x100, rw := 0xFFFFFFFF },
  /- CHK_RUN_HI -/ { base := 0x130801C, n1 := 4, s1 := 0x100, rw := 0xFFFFFFFF },
  /- CHK_OUT_LO -/ { base := 0x1308020, n1 := 4, s1 := 0x100 },
  /- CHK_OUT_HI -/ { base := 0x1308024, n1 := 4, s1 := 0x100 },
  /- CHK_FEED -/ { base := 0x1308028, n1 := 4, s1 := 0x100, wo := 0xFFFFFFFF },
  /- CHK_SCAN_ADDR_LO -/ { base := 0x1308030, n1 := 4, s1 := 0x100, rw := 0xFFFFFFFF },
  /- CHK_SCAN_ADDR_HI -/ { base := 0x1308034, n1 := 4, s1 := 0x100, rw := 0xFFFFFFFF },
  /- CHK_SCAN_LEN -/ { base := 0x1308038, n1 := 4, s1 := 0x100, rw := 0xFFFFFFFF },
  /- CHK_SCAN_CTRL -/ { base := 0x130803C, n1 := 4, s1 := 0x100, rw := 0x3, w1c := 0x30000000, wo := 0x80000000 } ]

/-- Registers of spec/16_observability.md. -/
def rowsCap : List RegRow := [
  /- CAP_CFG -/ { base := 0x1400000, reset := 0x40000000, rw := 0xC000001F },
  /- CAP_BASE_LO -/ { base := 0x1400004, rw := 0xFFFFFFFF },
  /- CAP_BASE_HI -/ { base := 0x1400008, rw := 0xFFFFFFFF },
  /- CAP_SIZE -/ { base := 0x140000C, rw := 0x1FFFF },
  /- CAP_STAT -/ { base := 0x1400010, w1c := 0xF },
  /- CAP_WP_LO -/ { base := 0x1400018 },
  /- CAP_WP_HI -/ { base := 0x140001C },
  /- CAP_OLDEST_LO -/ { base := 0x1400020 },
  /- CAP_OLDEST_HI -/ { base := 0x1400024 },
  /- CAP_RULE -/ { base := 0x1400044, n1 := 15, s1 := 0x4, reset := 0x102, rw := 0x80FFFFFF },
  /- CAP_RD_OFS_LO -/ { base := 0x1400080, rw := 0xFFFFFFFF },
  /- CAP_RD_OFS_HI -/ { base := 0x1400084, rw := 0xFFFFFFFF },
  /- CAP_RD_DST_LO -/ { base := 0x1400088, rw := 0xFFFFFFFF },
  /- CAP_RD_DST_HI -/ { base := 0x140008C, rw := 0xFFFFFFFF },
  /- CAP_RD_LEN -/ { base := 0x1400090, rw := 0xFFFFFFFF },
  /- CAP_RD_CTRL -/ { base := 0x1400094, w1c := 0x20000000, wo := 0x80000000 },
  /- CAP_RD_DONE_LEN -/ { base := 0x1400098 },
  /- STB_CFG -/ { base := 0x1401000, reset := 0x3E8, rw := 0x800003FF },
  /- STB_CTRL -/ { base := 0x1401004, wo := 0x1 },
  /- STB_CMP_ARM -/ { base := 0x1401008, rw := 0x80000007 },
  /- STB_QFIRST -/ { base := 0x140100C, rw := 0x1FFF },
  /- STB_STAT -/ { base := 0x1401010 },
  /- STB_UPAGE -/ { base := 0x1401014, rw := 0x80000003, hostF := 0x80000003 },
  /- STB_PC -/ { base := 0x1401020, n1 := 8, s1 := 0x4, reset := 0x3FF, rw := 0x800003FF } ]

/-- Registers of spec/17_farrier.md. -/
def rowsFar : List RegRow := [
  /- FAR_CFG -/ { base := 0x1500000, reset := 0x80000001, rw := 0xC0000003, host := true },
  /- FAR_CMD -/ { base := 0x1500004, rw := 0x3F0FF00, wo := 0x80000000, host := true },
  /- FAR_STAT -/ { base := 0x1500008, w1c := 0x40000000, host := true },
  /- FAR_SIG_LO -/ { base := 0x1500010 },
  /- FAR_SIG_HI -/ { base := 0x1500014 },
  /- FAR_SIG_EXP_LO -/ { base := 0x1500018 },
  /- FAR_SIG_EXP_HI -/ { base := 0x150001C },
  /- FAR_INFO -/ { base := 0x1500020 },
  /- FAR_MBIST_LOG -/ { base := 0x1500100, n1 := 16, s1 := 0x8, w1c := 0x80000000, host := true },
  /- FAR_MBIST_ADDR -/ { base := 0x1500104, n1 := 16, s1 := 0x8, host := true },
  /- FAR_FUSE_CMD -/ { base := 0x1500200, wo := 0xFFFF0001, host := true },
  /- FAR_FUSE_STAT -/ { base := 0x1500204, w1c := 0x40000000, host := true } ]

/-- Registers of spec/01_architecture.md. -/
def rowsXng : List RegRow := [
  /- XNG_CFG -/ { base := 0x1600000, n1 := 30, s1 := 0x20, rw := 0x1 },
  /- XNG_STAT -/ { base := 0x1600004, n1 := 30, s1 := 0x20 },
  /- XNG_DISC -/ { base := 0x1600008, n1 := 30, s1 := 0x20 },
  /- XNG_TMO -/ { base := 0x160000C, n1 := 30, s1 := 0x20 },
  /- XNG_POVF -/ { base := 0x1601000, n1 := 16, s1 := 0x4, w1c := 0xFFFFFFFF } ]

/-- The table of the block that holds an address (R314). -/
def rowsAt (a : Nat) : List RegRow :=
  if a < 0x8000 then rowsGlb
  else if a < 0x100000 then rowsHif
  else if a < 0x200000 then rowsEvt
  else if a < 0x400000 then rowsGrm
  else if a < 0x401000 then rowsLin
  else if a < 0x406000 then rowsDsf
  else if a < 0x600000 then rowsUpb
  else if a < 0x800000 then []
  else if a < 0x900000 then rowsPrt
  else if a < 0x980000 then rowsCkt
  else if a < 0xA00000 then rowsHar
  else if a < 0xC00000 then rowsCls
  else if a < 0xD00000 then rowsCrs
  else if a < 0xE00000 then rowsDisp
  else if a < 0x1000000 then rowsSch
  else if a < 0x1100000 then rowsTim
  else if a < 0x1200000 then rowsCli
  else if a < 0x1300000 then rowsMem
  else if a < 0x1400000 then rowsSec
  else if a < 0x1500000 then rowsCap
  else if a < 0x1600000 then rowsFar
  else if a < 0x2000000 then rowsXng
  else []

/-- Line B's registers are Line A's at the Line B base (R7). -/
def canonAddr (a : Nat) : Nat := if 0x600000 ≤ a ∧ a < 0x800000 then a - 0x200000 else a

/-- The row that holds a BAR0 address, if any register is there. -/
def regRow (a : Nat) : Option RegRow := (rowsAt (canonAddr a)).find? (·.has (canonAddr a))

/-- Reset severity of an event source: the SEV column of R339 (0 for the numbers not used). -/
def evtSevDefault (n : Nat) : Nat :=
  if n = 0 then 12
  else if n = 1 ∨ n = 2 ∨ n = 4 ∨ n = 5 ∨ n = 8 ∨ n = 9 ∨ n = 13 then 8
  else if n = 3 ∨ n = 6 ∨ n = 7 ∨ n = 10 ∨ n = 11 then 4
  else if n = 34 ∨ n = 35 ∨ n = 40 then 12
  else if 32 ≤ n ∧ n < 40 then 4
  else if (64 ≤ n ∧ n < 71) ∨ (128 ≤ n ∧ n < 135) then 4
  else if (72 ≤ n ∧ n < 77) ∨ (136 ≤ n ∧ n < 141) then 8
  else if n = 85 ∨ n = 149 then 12
  else if (84 ≤ n ∧ n < 93) ∨ (148 ≤ n ∧ n < 157) then 4
  else if (192 ≤ n ∧ n < 198) ∨ (224 ≤ n ∧ n < 237) ∨ (256 ≤ n ∧ n < 263) then 4
  else if 304 ≤ n ∧ n < 336 then 8
  else if (288 ≤ n ∧ n < 342) ∨ (352 ≤ n ∧ n < 362) ∨ (384 ≤ n ∧ n < 394) ∨ (416 ≤ n ∧ n < 435) then 4
  else if (452 ≤ n ∧ n < 456) ∨ (457 ≤ n ∧ n < 463) then 8
  else if n = 477 then 12
  else if (472 ≤ n ∧ n < 483) ∨ n = 488 ∨ n = 489 ∨ n = 491 ∨ n = 492 then 4
  else if n = 509 then 12
  else if 505 ≤ n ∧ n < 509 then 8
  else 0

/-- Reset values the tables give per index: LIN_FFE_TAP_3, LIN_PEQ_ACT_3, PRT_UPID_q, GRM_RAIL (all rails are up in RUN, R386)
and the severity of EVT_SRC_n. -/
def resetOverride (a : Nat) : Option Nat :=
  if canonAddr a = 0x40002C then some 0x400
  else if canonAddr a = 0x4000BC then some 0x3FF
  else if a = 0x200020 then some 0x1FF01FF
  else if 0x801000 ≤ a ∧ a < 0x805000 ∧ a % 4 = 0 then some ((a - 0x801000) / 4 * 2 ^ 20)
  else if 0x101000 ≤ a ∧ a < 0x101800 ∧ a % 4 = 0 then some (0x80000000 + evtSevDefault ((a - 0x101000) / 4) * 0x1000)
  else none

/-- What a register reads as after a cold reset (the Reset column of its table). -/
def regReset (a : Nat) : Word :=
  BitVec.ofNat 32 ((resetOverride a).getD (match regRow a with | some r => r.reset | none => 0))

end Sys2Proof.Machine
end

