-- ==== Sys2Proof/Machine/Sparse.lean ====
section
/-! DEFINITION. Sparse tables: a list of (key, value) pairs in one canonical form (keys strictly rising, no value equal
to what an unlisted key reads as). Registers, memories, queues and per-unit records of the block are held this way. -/

namespace Sys2Proof

/-- A sparse table. -/
abbrev SMap (V : Type) := List (Nat × V)

/-- The value at a key; an unlisted key reads as `d k`. -/
def sget {V : Type} (d : Nat → V) : SMap V → Nat → V
  | [], k => d k
  | (k', v) :: m, k => if k' = k then v else sget d m k

/-- Remove a key. -/
def serase {V : Type} (m : SMap V) (k : Nat) : SMap V := m.filter (fun kv => kv.1 != k)

/-- Put a value at a key, keeping the keys rising. -/
def sinsert {V : Type} : SMap V → Nat → V → SMap V
  | [], k, v => [(k, v)]
  | (k', v') :: m, k, v =>
    if k < k' then (k, v) :: (k', v') :: m
    else if k = k' then (k, v) :: m
    else (k', v') :: sinsert m k v

/-- Write a value: the default value removes the entry, so that equal tables are equal data. -/
def sset {V : Type} [DecidableEq V] (d : Nat → V) (m : SMap V) (k : Nat) (v : V) : SMap V :=
  if v = d k then serase m k else sinsert m k v

/-- Every key of the table is at least `lo`, keys rise strictly, and no value is the default. -/
def swfFrom {V : Type} [DecidableEq V] (d : Nat → V) : Nat → SMap V → Bool
  | _, [] => true
  | lo, (k, v) :: m => decide (lo ≤ k) && !decide (v = d k) && swfFrom d (k + 1) m

/-- The canonical form. -/
def swf {V : Type} [DecidableEq V] (d : Nat → V) (m : SMap V) : Bool := swfFrom d 0 m

/-- Drop every key for which `p` holds. -/
def sdrop {V : Type} (p : Nat → Bool) (m : SMap V) : SMap V := m.filter (fun kv => !p kv.1)

end Sys2Proof
end

