-- ==== Sys2Proof/Machine/State.lean ====
section
/-! DEFINITION. The state of the FX9840 as plain data: every register (one sparse table), the live counters, and the
state the spec's prose gives each block (stores, queues, engines, timers), with the queue of waiting commands. -/

namespace Sys2Proof.Machine

/-- Why a step stops. No command of the model stops with a fault: every row of the opcode table has an effect the
spec gives. The constructor stands for a machine check the model never makes. -/
inductive Fault where
  /-- Raised by no meaning (safe: a stop claims nothing). -/
  | none
  deriving DecidableEq, Repr

/-- Why a command is turned away. -/
inductive Refusal where
  /-- The command has no meaning yet (safe: a stop claims nothing). Raised by the arms of `exec` that wait for one. -/
  | notModelled (mnemonic : String)
  deriving DecidableEq, Repr

/-- Power and reset state of a region (R13, R316, R386). -/
structure Region where
  on : Bool := false
  /-- The region's clock runs (R34). -/
  clock : Bool := true
  /-- The region is held in reset. -/
  inReset : Bool := false
  deriving DecidableEq, Repr

/-- A TX descriptor the device has read with its frame, and how that read ended (R331, R333). -/
structure TxWait where
  desc : Desc := {}
  bytes : List Byte := []
  rd : HostRead := .data
  deriving DecidableEq, Repr

/-- One ring pair beyond its registers (R323 to R333): descriptors taken by doorbells and completions written since
enable; TX descriptors read that wait for crossing 6, oldest first, and those served in the present round of WEIGHT (R331). -/
structure Ring where
  taken : Nat := 0
  done : Nat := 0
  fetched : List TxWait := []
  served : Nat := 0
  deriving DecidableEq, Repr

/-- A job of a JOB ring (R328): the descriptor's place, its fields, and its result once the engine has ended (status,
length, RESULT0, RESULT1, INFO). -/
structure Job where
  ring : Nat := 0
  op : Nat := 0
  unit : Nat := 0
  tag : Nat := 0
  addr : Nat := 0
  len : Nat := 0
  arg0 : Nat := 0
  arg1 : Nat := 0
  res : Option (Nat × Nat × Nat × Nat × Nat) := none
  /-- Number of the descriptor in its ring, counted from the ring's enable. -/
  idx : Nat := 0
  /-- The job waits for its engine: a free check-value unit (R378) or a place of the CMAC engine's queue (R372). -/
  waiting : Bool := false
  /-- Its place in the CMAC engine's queue: it was taken after every request of a lower number. -/
  seq : Nat := 0
  deriving DecidableEq, Repr

/-- Causes gathered by an MSI-X vector (R338). -/
structure Vec where
  causes : Nat := 0
  /-- Tick of the oldest pending cause. -/
  since : Nat := 0
  /-- A message is held by the vector's mask or a bus-master pause. -/
  held : Bool := false
  deriving DecidableEq, Repr

/-- A frame held by the device, with what travels with it. -/
structure Frame where
  /-- The frame as stored, without FCS, first byte of the destination address first. -/
  data : List Byte := []
  /-- Source 0 line A, 1 line B, 2 client, 3 host, and its port (R187). -/
  src : Nat := 0
  port : Nat := 0
  /-- The frame holds Express priority (R214 EXP). -/
  exp : Bool := false
  /-- Tick of the last bit (R214 ARRIVAL). -/
  arrival : Nat := 0
  /-- First-bit stamp in sixteenths of a tick (R280) and the time of day of that stamp in 2^-16 ns. -/
  stamp : Nat := 0
  stampTod : Nat := 0
  /-- SEQ of the encapsulation header (R214). -/
  seq : Nat := 0
  pass : Nat := 0
  /-- The classifier version the frame holds, until it is released (R201). -/
  ver : Option Nat := none
  /-- The classifier result of R194, 18 words. -/
  res : List Word := []
  /-- Colour of the policer before dispatch (R252). -/
  colour : Option Nat := none
  user : List Byte := []
  /-- Requests of the TX descriptor (R326). -/
  tag : Nat := 0
  tsReq : Bool := false
  oneStep : Bool := false
  /-- Launch tick (R287), and whether the frame left late (R288). -/
  launch : Option Nat := none
  late : Bool := false
  /-- Tick of the enqueue (R255). -/
  enq : Nat := 0
  /-- The body is in DRAM; it is back on chip; its read-back was uncorrectable (R243). -/
  spilled : Bool := false
  back : Bool := false
  lost : Bool := false
  /-- Paddock handle of the stored cells, and head cells of its own (R459). -/
  handle : Nat := 0
  heads : Nat := 0
  /-- Bytes of its composed head (R459); its body is still to be written to DRAM (R32, R243); its launch time has been judged at
  the head of its queue (R288). -/
  headLen : Nat := 0
  unsent : Bool := false
  judged : Bool := false
  /-- The sides, bit 0 A and bit 1 B, whose key for the frame was erased by force while it waited (R365). -/
  erased : Nat := 0
  /-- A client frame cut short by the overflow of its ingress store, until crossing 4 takes it (R299). -/
  ovf : Bool := false
  /-- A flip mask corrupted a stored word of the frame: 1 it decodes as correctable, 2 as uncorrectable (R360). -/
  flip : Nat := 0
  /-- Scheduler queue the frame left (R244). -/
  outQ : Nat := 0
  /-- The frame ended with an error mark (R299). -/
  err : Bool := false
  /-- A management message or a map copy, not a client frame (R96). -/
  msg : Bool := false
  deriving DecidableEq, Repr

/-- The two dual-clock queues of a crossing (R28, R458). -/
structure Xing where
  exp : List Frame := []
  other : List Frame := []
  /-- The writer, the reader has left reset and takes over the surviving side's pointer (R30). -/
  wSync : Bool := false
  rSync : Bool := false
  /-- Ticks of the timeouts of the last second (R15). -/
  tmos : List Nat := []
  deriving DecidableEq, Repr

/-- A ternary entry of the classifier (R190). -/
structure TcEntry where
  valid : Bool := false
  key : BitVec 320 := 0
  mask : BitVec 320 := 0
  act : BitVec 64 := 0
  hits : Nat := 0
  deriving DecidableEq, Repr

/-- An exact-match entry of the classifier (R191). -/
structure EmEntry where
  valid : Bool := false
  prof : Nat := 0
  key : BitVec 320 := 0
  act : BitVec 64 := 0
  deriving DecidableEq, Repr

/-- One hardware thread of a Courser (R207 to R209). -/
structure Thread where
  /-- The thread runs a program (it is not idle). -/
  busy : Bool := false
  /-- It runs the INIT program (R238 step 4). -/
  init : Bool := false
  frame : Option Frame := none
  /-- General registers g1 to g31 (g0 reads as 0). -/
  g : SMap (BitVec 64) := []
  /-- Address of the next instruction in the thread's address map (R210). -/
  pc : Nat := 0
  /-- Instructions issued in this pass. -/
  steps : Nat := 0
  prog : Nat := 0
  copies : Nat := 0
  /-- The step of its Courser from which the thread is ready again (R208). -/
  wait : Nat := 0
  /-- The CMAC call it waits for (R223), by its number in the engine's queue. -/
  call : Option Nat := none
  deriving DecidableEq, Repr

/-- The issue of a Courser (R208): its present step less the ticks so far, and the thread the round robin looks at first, among
those that hold an Express frame and among all. -/
structure Turn where
  step : Nat := 0
  expNext : Nat := 0
  next : Nat := 0
  deriving DecidableEq, Repr

/-- State of a team beyond its registers (R207, R229, R233 to R238). -/
structure Team where
  /-- Instructions issued since the last periodic sample. -/
  sampCount : Nat := 0
  /-- The previous gait window ended below the floor (R226). -/
  belowFloor : Bool := false
  /-- DRAIN was written while INIT ran (R235). -/
  drainAfterInit : Bool := false
  /-- The command a DRAIN in progress ends (a LOAD_STAT is due). -/
  draining : Bool := false
  /-- RUN was commanded: INIT ends with RESULT 1 (not the INIT of a team reset). -/
  runCmd : Bool := false
  /-- Tick of the last team reset (R234). -/
  lastReset : Option Nat := none
  /-- INIT_ENTRY of the loaded image (R236). -/
  initEntry : Nat := 0
  /-- Ticks of the local-memory MEM_UNC faults of each Courser within the last second (R233). -/
  unc : List (Nat × Nat) := []
  deriving DecidableEq, Repr

/-- A scheduler queue (R240 to R247). -/
structure Que where
  frames : List Frame := []
  /-- Start tag and remainder of R245; `live` is false after the queue emptied (R246). -/
  tag : Nat := 0
  rem : Nat := 0
  live : Bool := false
  /-- Order of promotion to the aged tier (R255). -/
  aged : Option Nat := none
  deriving DecidableEq, Repr

/-- Start tag of a class group at its node (R245, R246). -/
structure Child where
  tag : Nat := 0
  rem : Nat := 0
  live : Bool := false
  deriving DecidableEq, Repr

/-- A token bucket (R249): tokens in 2^-16 bytes, an 8-bit carry and the tick of the last refresh. -/
structure Bucket where
  tokens : Int := 0
  carry : Nat := 0
  last : Nat := 0
  deriving DecidableEq, Repr

/-- A gate list beyond its registers and entries (R256, R257): the pending take-over and the operating copy. -/
structure Gate where
  /-- Time of the pending take-over, in ns of ToD, and the comparator it holds. -/
  pending : Option (Nat × Nat) := none
  /-- The pending take-over was put off past its base time (R257, R266). -/
  late : Bool := false
  /-- Start of the current cycle of the operating list in ns of ToD, its cycle and length. -/
  start : Nat := 0
  cycle : Nat := 0
  len : Nat := 0
  /-- Entry in force. -/
  pos : Nat := 0
  deriving DecidableEq, Repr

/-- Stored cells of a frame shared by its copies (R459). -/
structure PadObj where
  cells : Nat := 0
  refs : Nat := 0
  deriving DecidableEq, Repr

/-- A frame boundary kept by a side (R274): superframe counter, stamp in sixteenths of a tick, EqD and residue that
applied to the frame's map. -/
structure Bound where
  sfc : Nat := 0
  stamp : Nat := 0
  eqd : Nat := 0
  resid : Nat := 0
  deriving DecidableEq, Repr

/-- A Time_of_Day message (R273). -/
structure TodMsg where
  sfc : Nat := 0
  sec : Nat := 0
  nsec : Nat := 0
  frac : Nat := 0
  teqd : Nat := 0
  deriving DecidableEq, Repr

/-- A time-stamp queue (R285, R286, R290): entries of four words, oldest first, and whether an entry was dropped since
the last one written. -/
structure TsQueue where
  entries : List (List Word) := []
  gap : Bool := false
  deriving DecidableEq, Repr

/-- A PPS output (R289): pulses given, the ToD up to which its edges are served (ns), the edge a fired comparator owes
(ns), and the length of the last pulse in ns. -/
structure Pps where
  pulses : Nat := 0
  edge : Nat := 0
  due : Option Nat := none
  pulseNs : Nat := 0
  /-- The comparator this output claimed has fired, and is no longer its own; its edge, with a negative OFFSET, came before
  (R289). -/
  spent : Bool := false
  early : Bool := false
  /-- Where the last edge was placed, in sixteenths of a tick (R289). -/
  place : Nat := 0
  deriving DecidableEq, Repr

/-- A capture record (R410, R411). -/
structure CapRec where
  typ : Nat := 0
  seq : Nat := 0
  tick : Nat := 0
  info : Nat := 0
  olen : Nat := 0
  aux : Nat := 0
  payload : List Byte := []
  /-- Tick of the offer (R412) and the handle of the cells a TYPE 3 copy refers to. -/
  offered : Nat := 0
  handle : Nat := 0
  deriving DecidableEq, Repr

/-- A Studbook snapshot (R418, R419); slots that hold 0 are not listed. -/
structure Snap where
  seq : Nat := 0
  tick : Nat := 0
  tod : Nat := 0
  tstate : Nat := 0
  cause : Nat := 0
  epoch : Nat := 0
  qfirst : Nat := 0
  skipped : Nat := 0
  slots : SMap Nat := []
  deriving DecidableEq, Repr

/-- A pre-equalisation set (R59, R60): taps in s1.10, identifier, taps clamped, sum clamped. -/
structure PeqSet where
  taps : List Nat := []
  setId : Nat := 0
  clampTap : Nat := 0
  sumClamp : Bool := false
  deriving DecidableEq, Repr

/-- A framer candidate (R81): bit position, superframe counter and its HEC verdict, the MFI of a valid control structure
(R84), and the head-end identity its structure gave (R73). -/
structure Cand where
  pos : Nat := 0
  sfc : Nat := 0
  hecOk : Bool := false
  mfi : Option Nat := none
  pon : Option Nat := none
  deriving DecidableEq, Repr

/-- An open reassembly of a port ID (R77). -/
structure Reasm where
  live : Bool := false
  data : List Byte := []
  stamp : Nat := 0
  seq : Nat := 0
  /-- Fragments of this client frame are discarded until one with LF = 1. -/
  bad : Bool := false
  deriving DecidableEq, Repr

/-- A frame taken for an allocation (R112): payload bytes already sent, and the port ID and SEQ it got when its first fragment
was placed in a burst (R149). -/
structure Partial where
  frame : Frame := {}
  off : Nat := 0
  portId : Nat := 0
  seq : Option Nat := none
  /-- FORCE_ERASE took the key the frame needs (R365). -/
  erased : Bool := false
  deriving DecidableEq, Repr

/-- A frame or fragment placed in a burst: the line words it fills, the first and the one after the last, counted from the first
preamble word, whether it begins and whether it ends its frame, and the frame as it was before (R112, R140). -/
structure Span where
  start : Nat := 0
  stop : Nat := 0
  first : Bool := true
  last : Bool := true
  part : Partial := {}
  deriving DecidableEq, Repr

/-- A key unwrap started by a register write (R374). -/
structure Unw where
  req : Nat := 0
  kek : Nat := 0
  dest : Nat := 0
  data : List Byte := []
  deriving DecidableEq, Repr

/-- A CMAC call of a Courser thread in the engine's queue (R223, R372): the thread, its CALL word, the slot, whether the last
block is padded, the data, whether the thread holds an Express frame, and the place in the queue. -/
structure CmacCall where
  thread : Nat := 0
  word : Nat := 0
  slot : Nat := 0
  padded : Bool := false
  data : List Byte := []
  exp : Bool := false
  seq : Nat := 0
  deriving DecidableEq, Repr

/-- An accepted allocation (R105, R106): the index of its UPB_ALLOC entry, 512 for the default allocation. -/
structure Alloc where
  key : Nat := 0
  id : Nat := 0
  typ : Nat := 0
  bsr : Bool := false
  odc : Bool := false
  ckt : Bool := false
  size : Nat := 0
  /-- Slots of earlier CKT allocations of the frame (R157). -/
  slot0 : Nat := 0
  /-- Content once assembled, in bytes; the partly sent frame the assembly found, the frames it took, and the line words of
  the burst each frame or fragment fills. -/
  data : List Byte := []
  before : Option Partial := none
  taken : List Partial := []
  spans : List Span := []
  /-- Insertion data of an allocation with ODC = 1 (R111). -/
  odcData : List Byte := []
  deriving DecidableEq, Repr

/-- What the departure of a frame's header gives, of a frame a burst carries: its line word and egress stamp, whether it gives a
time-stamp entry with a tag and LATE (R285), and what its time-stamping counts (R283, R284). -/
structure TxStamp where
  word : Nat := 0
  es : Nat := 0
  entry : Bool := false
  tag : Nat := 0
  late : Bool := false
  ptp : List Nat := []
  deriving DecidableEq, Repr

/-- A burst of the grant store (R106): first preamble instant in 1/128 tick, length and START in words, and what its
content needs. -/
structure Burst where
  t0 : Nat := 0
  w : Nat := 0
  start : Nat := 0
  sfc : Nat := 0
  mfi : Nat := 0
  prof : Nat := 0
  msgu : Bool := false
  sn : Option Nat := none
  eqd : Nat := 0
  frameEnd : Nat := 0
  allocs : List Alloc := []
  /-- Assembly has begun (R42): RDI sampled, message taken, counts of the bytes carried. -/
  asm : Bool := false
  rdi : Bool := false
  msg : List Byte := []
  usBytes : Nat := 0
  idleBytes : Nat := 0
  shortBytes : Nat := 0
  frags : Nat := 0
  encs : Nat := 0
  hasData : Bool := false
  stamps : List TxStamp := []
  deriving DecidableEq, Repr

/-- A frame held by the reorder store (R150 to R152) and its arrival tick. -/
structure HeldFrame where
  frame : Frame := {}
  tick : Nat := 0
  deriving DecidableEq, Repr

/-- Circuit content of a downstream frame (R156): boundary tick, expected MFI (8 without alignment), slots, partition
bytes, whether it may be used, the information byte the partition starts at, and the frame's uncorrectable codewords (R55). -/
structure DsCkt where
  tick : Nat := 0
  sfc : Nat := 0
  mfi : Nat := 8
  slots : Nat := 0
  bytes : List Byte := []
  ok : Bool := false
  start : Nat := 0
  marks : List Nat := []
  lostFrom : Option Nat := none
  deriving DecidableEq, Repr

/-- A Harness receive frame or its copy in the upstream store (R166): rows keyed row * 8 + lane, the copy tick, and whether
the copy repeats an earlier frame. -/
structure UsCopy where
  tick : Nat := 0
  rows : SMap (List Byte) := []
  again : Bool := false
  deriving DecidableEq, Repr

/-- An event held in the Groom while the Host region is off (R398). -/
structure HeldEvt where
  src : Nat := 0
  level : Nat := 0
  inst : Nat := 0
  info : Nat := 0
  tick : Nat := 0
  deriving DecidableEq, Repr

/-- The state of a team saved to the Farrier area (R427). -/
structure TeamSave where
  istore : SMap Word := []
  smem : SMap Byte := []
  lmem : SMap Byte := []
  threads : SMap Thread := []
  deriving DecidableEq, Repr

-- STATE
/-- ToD work that waits for the next tick (R276): an accepted message of a side, with the ToD at its frame's boundary in 2^-16 ns
and the stamp of that boundary, or an external PPS edge with its stamp. -/
inductive TodJob where
  | message (x : Side) (todN : Int) (stamp : Nat)
  | edge (stamp : Nat)
  deriving DecidableEq, Repr

/-- A run of ticks over which ToD advances evenly: its first tick, the ToD there, and the sign of the slew (R269, R276). -/
structure TodSeg where
  tick : Nat := 0
  tod : Nat := 0
  sign : Int := 0
  deriving DecidableEq, Repr

/-- State of the Time region beyond its registers (spec/10_time.md). -/
structure TimeSt where
  /-- Tick at which the gait measurement window in progress opened (R21). -/
  gaitTick : Nat := 0
  /-- Time of day in units of 1/243 of 2^-16 ns, so that a tick adds 20,480,000 exactly (R267, R269), and the pending
  slew in 2^-16 ns (R276). -/
  tod : Nat := 0
  slew : Int := 0
  /-- The ToD a SET gives at the next tick, the messages and edges handled there after it (R276), and the latest runs of ToD,
  newest first (R269). -/
  todSet : Option Nat := none
  jobs : List TodJob := []
  segs : List TodSeg := []
  /-- Consecutive accepted messages within, and beyond, LOCK_NS (R272). -/
  lockGood : Nat := 0
  lockBad : Nat := 0
  /-- Tick of the last accepted reference message (R272 cause 2), whether the next one follows a head-end change (R278),
  and whether the loop is frozen (R271). -/
  lastTod : Nat := 0
  headNew : Bool := false
  frozen : Bool := false
  /-- Tick of the last second tick and the ToD second it fell on; a forward step owes a tick; a backward step holds ticks
  until ToD passes that second (R279). -/
  lastSec : Nat := 0
  lastSecTod : Nat := 0
  secDue : Bool := false
  secWait : Bool := false
  /-- A second tick has reached side A, side B and waits for the PM latch, and whether it was aligned (R97, R279). -/
  secA : Bool := false
  secB : Bool := false
  /-- Per comparator: 1 armed with its target past, 2 a step passed the target (R291). -/
  cmpFlag : SMap Nat := []
  /-- The last 64 frame boundaries of each side, latest first, and the held Time_of_Day message (R274). -/
  boundsA : List Bound := []
  boundsB : List Bound := []
  heldTodA : Option TodMsg := none
  heldTodB : Option TodMsg := none
  /-- Shadows of TIM_TOD_NS reads, keyed requester code * 4 + word (R269). -/
  todShadow : SMap Nat := []
  /-- Time-stamp queues 0 to 7 and capture queues 8 and 9, with each requester's pop shadow (R285, R286, R290). -/
  tsq : SMap TsQueue := []
  popShadow : SMap Word := []
  /-- Edges captured per input (R290), tick + 1 of the last external PPS edge per input (R272). -/
  capCount : SMap Nat := []
  extEdge : SMap Nat := []
  /-- The PPS outputs (R289). -/
  pps : SMap Pps := []
  deriving DecidableEq, Repr

/-- State of capture and the Studbook beyond their registers (spec/16_observability.md). -/
structure CapSt where
  /-- Capture: write buffer, next SEQ, drops since the last marker and since the last event 488 (with the first one's
  type and staleness), passes per rule (R410 to R414). -/
  capBuf : List CapRec := []
  capSeq : Nat := 0
  /-- CAP_WP has come round to 0 (R413). -/
  capLap : Bool := false
  /-- Until when the capture class has used up its rate, in 1/10,000 of a tick (R344). -/
  capNext : Nat := 0
  /-- Base of the area, offset, length and host address of the read-out that runs (R416). -/
  capRd : Nat × Nat × Nat × Nat := (0, 0, 0, 0)
  capLost : Nat := 0
  capDropsMs : Nat := 0
  capFirst : Nat := 0
  capRules : SMap Nat := []
  /-- Studbook: snapshots being written to the host, the one the user page shows, tick of the write of EN, skips since the
  last one written, and the sampled signal levels of the programmable counters (R417 to R421). -/
  snaps : List Snap := []
  userPage : Option Snap := none
  stbStart : Nat := 0
  /-- A snapshot is asked for at the next tick (R417). -/
  snapNow : Bool := false
  stbSkipped : Nat := 0
  pcPrev : SMap Bool := []
  deriving DecidableEq, Repr

/-- State of a line side beyond its registers (spec/02, 03, 04). -/
structure Line where
  /-- Filtered level of TXF_x (R47), level of BEN_x (R45), and tick + 1 of the last fall of BEN (R121). -/
  txfPin : Bool := false
  benPin : Bool := false
  benFell : Nat := 0
  /-- Slicer thresholds of the upper, middle and lower eye in ADC codes, LLRs of the last codeword (R51), and what each tap,
  FFE first, holds below its register's resolution, in units of 2^-15 (R50). -/
  slicer : List Int := [0, 0, 0]
  llr : List Int := []
  tapFrac : SMap Nat := []
  /-- Uncorrectable codewords of the frame being decoded (R55), and whether none of the frame in progress has been decoded
  yet. -/
  marks : List Nat := []
  cwOld : Bool := false
  /-- Key slots erased by force, and the tick, since the frame in progress began (R365). -/
  keyLost : List (Nat × Nat) := []
  /-- Staged pre-equalisation set; sets fixed for a later burst, with its first preamble instant, oldest first; and that instant,
  plus one, of the last burst whose decision point has passed (R60). -/
  peq : Option PeqSet := none
  peqFix : List (Nat × PeqSet) := []
  peqMark : Nat := 0
  /-- Framer: candidates, predicted SFC, runs of missing PSync and SFC failures (R81, R82). -/
  cands : List Cand := []
  sfcPred : Nat := 0
  psyncMiss : Nat := 0
  sfcFail : Nat := 0
  /-- Multiframe: last MFI and length of the run of rising values; run of wrong values (R84). -/
  mfLast : Option Nat := none
  mfRun : Nat := 0
  mfWrong : Nat := 0
  /-- The frame in progress: its boundary tick and phase in sixteenths of a tick, superframe counter, whether its content may
  be used, delineation lost, and its descrambled information bytes from byte 16 on (R68, R69). -/
  curTick : Nat := 0
  curPhase : Nat := 0
  curSfc : Nat := 0
  curOk : Bool := false
  delinLost : Bool := false
  info : List Byte := []
  /-- Where its parts lie (R68): map entries in all and those that have come, the bytes of the unmarked ones, first message
  byte, messages in all and those that have come, overhead-channel block and the MFI it goes under, first byte of the next
  encapsulated frame and the byte the payload ends before. -/
  mapN : Nat := 0
  mapAt : Nat := 0
  mapBytes : List Byte := []
  msgStart : Nat := 0
  msgN : Nat := 0
  msgAt : Nat := 0
  odcAt : Option Nat := none
  odcMfi : Option Nat := none
  encPos : Nat := 0
  payEnd : Nat := 0
  /-- Open reassemblies, keyed by port ID (R77). -/
  reasm : SMap Reasm := []
  /-- Tick + 1 of the start of the ranging hold timer and its length in ms (R88). -/
  holdStart : Nat := 0
  holdMs : Nat := 0
  /-- PM: defects seen in the interval, exit count of dSD, banks keyed 32 * bank + index (R97). -/
  pmFlags : Nat := 0
  sdExit : Nat := 0
  pm : SMap Nat := []
  /-- Overhead data channels (R92 to R95, R111): input FIFOs of channels 1 and 2, insertion data of the multiframe, bytes
  received in this multiframe and bytes on the output, and the ODC allocation taken in the frame. -/
  odcIn1 : List (List Byte) := []
  odcIn2 : List (List Byte) := []
  odcIns1 : List Byte := []
  odcIns2 : List Byte := []
  odcAcc1 : List Byte := []
  odcAcc2 : List Byte := []
  odcOut1 : List Byte := []
  odcOut2 : List Byte := []
  odcTaken : Bool := false
  odcMap : Bool := false
  /-- Values table entries keep until the next frame boundary after a write, keyed by their address (R99, R118, R367). -/
  effOld : SMap (Option Word) := []
  /-- Upstream: grant store, burst being read from the map, a refused first entry, refusals of the frame (R105, R134). -/
  store : List Burst := []
  mapBurst : Option Burst := none
  mapRefused : Bool := false
  mapBits : Nat := 0
  mapCount : Nat := 0
  mapSlots : Nat := 0
  /-- The burst builder takes no grant of the present map (R386 step 2, R391). -/
  mapHeld : Bool := false
  mapSn : Bool := false
  /-- The burst on the line and the tick its BEN request began, and the last one sent: its preamble and delimiter, its
  information stream and first preamble instant. -/
  sending : Option Burst := none
  reqTick : Nat := 0
  lastPre : List Byte := []
  lastBurst : List Byte := []
  lastStart : Nat := 0
  /-- Partly sent frames by allocation (R112), frames in the burst buffer whose burst was discarded, message queue and
  SEQNO (R114, R130). -/
  partials : SMap (Option Partial) := []
  buffered : SMap (List Partial) := []
  msgs : List (List Byte) := []
  seqno : Nat := 0
  /-- Tick + 1 of the start of TO1 (R128), EqD in effect (R118), a map whose circuit slots count (R162). -/
  to1 : Nat := 0
  eqdEff : Nat := 0
  mapLive : Bool := false
  /-- The upstream key index of maps of frames before the last switch, and the first frame of the new one + 1 (R370). -/
  keyPrev : Nat := 0
  keyFrom : Nat := 0
  /-- The first dying gasp went out (R132); a chip fault waits for the next burst's end (R124). -/
  dgSent : Bool := false
  faultPend : Bool := false
  /-- A burst that was on the line at the chip fault, its header out, does not count as the first one after it (R124). -/
  faultOld : Bool := false
  deriving DecidableEq, Repr

/-- State of the protection switch and the reorder store (spec/05). -/
structure PrtSt where
  /-- Tick + 1 of the start of the wait to restore (R143), and of the declaration whose RESUME is being measured (R141). -/
  wtr : Nat := 0
  resume : Nat := 0
  /-- Tick + 1 of the last automatic switch (R144), and the causes present on each side in the order they arrived (R139). -/
  autoTick : Nat := 0
  /-- A side's conditions have changed since the protection control last decided (R137: it does in every tick). -/
  due : Bool := false
  causesA : List Nat := []
  causesB : List Nat := []
  /-- Tick + 1 at which each side became ineligible, 0 while it is eligible (R277). -/
  lostA : Nat := 0
  lostB : Nat := 0
  /-- Upstream sequence counters (R148), expected value + 1 per port ID, held frames oldest first, and frames delivered by
  the store and not yet classified (R150 to R153). -/
  seqCtr : SMap Nat := []
  expect : SMap Nat := []
  held : List HeldFrame := []
  out : List Frame := []
  deriving DecidableEq, Repr

/-- State of the interchange and the Harness link (spec/06). -/
structure HarSt where
  /-- Circuit content of the latest frames of each side, latest first (R164). -/
  dsA : List DsCkt := []
  dsB : List DsCkt := []
  /-- Frame associated with the current Harness frame, per side, and its phase in ticks (R164, R165). -/
  assocA : Option DsCkt := none
  assocB : Option DsCkt := none
  /-- A repeated association carries fill (R165). -/
  againA : Bool := false
  againB : Bool := false
  /-- Tick of the next Harness boundary, 0 before the first; alignment wanted at the next reference boundary, and whether at
  enable or later (R163). -/
  boundary : Nat := 0
  wantAlign : Bool := false
  laterAlign : Bool := false
  /-- Tick + 1 of the swap request of each direction, whether it was deferred, and a FORCE of each
  direction that waits (R168, R169). -/
  reqDs : Nat := 0
  reqUs : Nat := 0
  deferDs : Bool := false
  deferUs : Bool := false
  forceDs : Bool := false
  forceUs : Bool := false
  /-- Rows of the receive frame in progress and of the last complete ones, oldest first, and the 8 copies of the upstream
  store, latest first (R166). -/
  rx : UsCopy := {}
  rxDone : List UsCopy := []
  copies : List UsCopy := []
  /-- Per physical lane: next expected ROW + 1 (0 none), run of bad overhead blocks, tick + 1 of the retrain in progress,
  BIP of the previous row + 1 (R173 to R177); the receive clock was lost (R178). -/
  rowNext : SMap Nat := []
  bad : SMap Nat := []
  retrain : SMap Nat := []
  bip : SMap Nat := []
  rxLost : Bool := false
  /-- Per physical lane: the descrambler's register and the latest sync headers, 1 for an invalid one, the newest in bit 0
  (R172, R177). -/
  desc : SMap Nat := []
  hdrs : SMap Nat := []
  /-- Tick of the boundary placed by an alignment that is yet to come, 0 none (R163). -/
  alignAt : Nat := 0
  /-- Tick of the transmit frame in progress, 0 while training blocks are sent; per logical lane the BIP-8 of the last row sent
  and the scrambler's register, the newest bit in bit 0 (R172, R173). -/
  txStart : Nat := 0
  txBip : SMap Nat := []
  txSt : SMap Nat := []
  /-- The lane, the tick and the DWELL with which the eye scan that runs was started (R179). -/
  eyeLane : Nat := 0
  eyeTick : Nat := 0
  eyeDwell : Nat := 0
  /-- Active side before the last protection switch and the tick of the switch, and whether it came from a
  loss (R167). -/
  swTick : Nat := 0
  swOld : Nat := 0
  swLoss : Bool := false
  /-- Pages in force before the last swap of each direction, by slot, and the boundary from which the new one applies
  (R168). -/
  dsOld : SMap Word := []
  dsSwap : Nat := 0
  usOld : SMap Word := []
  usSwap : Nat := 0
  deriving DecidableEq, Repr

/-- An armed upstream key index switch (R370): the index, the superframe N, and whether N had passed. -/
structure KeyArm where
  next : Nat := 0
  sfc : Nat := 0
  late : Bool := false
  deriving DecidableEq, Repr

/-- State of the key block beyond its registers (spec/14). -/
structure SecSt where
  /-- Key material by slot (empty when EMPTY), key and unwrap staging words keyed requester code * 16 + word. -/
  keys : SMap (List Byte) := []
  stage : SMap Word := []
  unwStage : SMap Word := []
  /-- Register unwraps running (R374). -/
  unw : List Unw := []
  /-- CMAC calls in the engine's queue, the oldest first (R372). -/
  calls : List CmacCall := []
  /-- The armed switch of each side (R370). -/
  arms : SMap KeyArm := []
  deriving DecidableEq, Repr

/-- State of the Groom and the supplies beyond their registers (spec/15). -/
structure PwrSt where
  /-- Transition running: its target and the state it left (R386, R391); a wake seen after the isolation commit. -/
  target : Option Nat := none
  prev : Nat := 4
  wakeAfter : Bool := false
  /-- Power-up attempt (R384): 0 the first, 1 waiting for the repeat, 2 the second; the regions a run-mask write turned on in
  it; the last one failed, so that only WAKE_N starts another. -/
  tries : Nat := 0
  tryMask : Nat := 0
  failed : Bool := false
  /-- Locked PLLs, as a mask (R383), the Groom cycle at which the regions of `tryMask` were powered, and the rails whose power
  good fell in service, whose PG bit may have come back since (R385). -/
  pll : Nat := 9
  tryCycle : Nat := 0
  pgOut : Nat := 0
  /-- Groom cycles at which the present state was entered (R396), and at which the present DOZE cycle began, plus one (R394). -/
  entered : Nat := 0
  winStart : Nat := 0
  /-- Groom cycles since its reset, what is left of the last tick in 1/3888 cycles, and the count when the Time region went
  off (R393, R397). -/
  cycle : Nat := 0
  frac : Nat := 0
  offCycle : Nat := 0
  /-- VDD_CORE set point: waiting to be sent, sent and not verified, and the last write on the PMBus: address, command and
  mantissa (R399, R400). -/
  vPend : Bool := false
  vWait : Bool := false
  vSent : Option (Nat × Nat × Nat) := none
  /-- Monitor filters, y + 1 by channel, conditions as a mask, and runs of dark samples by side (R121, R402). -/
  mon : SMap Nat := []
  cond : Nat := 0
  dark : SMap Nat := []
  /-- The downstream wake indication is latched (R395). -/
  wakeInd : Bool := false
  /-- The side's receiver has run in a listen window since DOZE was entered, and has reached SYNC in this one (R394). -/
  dozeRan : Bool := false
  dozeSync : Bool := false
  /-- Supply loss (R403): 0 none, 1 DG hold, 2 isolated, 3 record being written, 4 ended; Groom cycle of the declaration. -/
  loss : Nat := 0
  lossCycle : Nat := 0
  /-- The flash: what each 4 KiB sector that is not erased holds (R406); and the fused repairs, macro group and word address
  (R432). -/
  flash : SMap (List Byte) := []
  fuses : List (Nat × Nat) := []
  /-- The last 64 events raised, oldest first (R406); events held while the Host region is off, and how many more there were
  (R398). -/
  mirror : List (List Byte) := []
  held : List HeldEvt := []
  heldLost : Nat := 0
  /-- Teams switched off for LISTEN that restart at the return, as a mask (R388). -/
  listenOff : Nat := 0
  /-- Groom image: program area, INIT_ENTRY, and a load that runs (R407). -/
  prog : SMap Byte := []
  entry : Nat := 0
  imgLoad : Bool := false
  deriving DecidableEq, Repr

/-- State of Farrier beyond its registers (spec/17): the target of the test, the team's STATE before it and its saved state
(R427), secrets confirmed cleared, logic failed, a failure without a repair, and an abort (R428). -/
structure FarSt where
  kind : Nat := 0
  region : Nat := 0
  index : Nat := 0
  before : Nat := 0
  save : Option TeamSave := none
  cleared : Bool := false
  logicBad : Bool := false
  memBad : Bool := false
  ended : Bool := false
  deriving DecidableEq, Repr

/-- A place of a remapped DRAM line with what it holds while another place serves the line (R356): 64 bytes and the corruption of
its eight words. -/
structure Spare where
  /-- `none` the line's own location, `some e` spare line e. -/
  entry : Option Nat := none
  chan : Nat := 0
  line : Nat := 0
  bytes : List Byte := []
  flips : List Nat := []
  tag : Nat := 0
  deriving DecidableEq, Repr

/-- State of the memories beyond their registers (spec/13). -/
structure MemSt where
  /-- Channels in training, as a mask (R342). -/
  training : Nat := 0
  /-- Macro groups whose failed checker holds their block in reset until the next cold reset (R359). -/
  held : List Nat := []
  /-- Errors of stored DRAM words, keyed by the word's place (`physKey`): data mask + 2^64 * check mask (R360). -/
  flips : SMap Nat := []
  /-- Line address + 1 under which a DRAM line was written, keyed by the line's place (R343, R347). -/
  tags : SMap Nat := []
  /-- Paddock cells withdrawn with their group while in use: they do not become free again (R359). -/
  owed : Nat := 0
  /-- Places of remapped lines that do not serve them at present (R356). -/
  spares : List Spare := []
  deriving DecidableEq, Repr

/-- A frame, or fragment of one, on a client port's lanes (R302 to R306): the frame as sent without FCS, bytes of it sent in
earlier fragments, bytes of this fragment and whether it ends the frame, its first preamble byte in 1/31250 tick, and the ToD
of its egress stamp. -/
structure MacTx where
  frame : Frame := {}
  off : Nat := 0
  n : Nat := 0
  whole : Bool := true
  start : Nat := 0
  pre : Bool := false
  /-- Egress stamp of its first fragment (R283), and what its time-stamping counts when it has left. -/
  es : Nat := 0
  ptp : List Nat := []
  /-- Of a preemptable frame: when its gate closes, in 1/16384 of those units, none while it never does; and the end of the
  fragment is settled, because its gate has closed or an express frame interrupts it (R304, R306). -/
  due : Option Nat := none
  fixed : Bool := false
  deriving DecidableEq, Repr

/-- A preempted frame a port still receives (R301): its bytes so far, the frame count of its start, the fragment count due next,
its first bit in sixteenths of a tick, the address filter's verdict, and whether a PCS or FEC error has been met in it. -/
structure RxOpen where
  bytes : List Byte := []
  count : Nat := 0
  next : Nat := 0
  start : Nat := 0
  accepted : Bool := false
  pcsErr : Bool := false
  deriving DecidableEq, Repr

/-- An address filter entry replaced by a commit: the commit's tick, port * 16 + n, and the words it replaced (R297). -/
structure UcastOld where
  tick : Nat := 0
  key : Nat := 0
  lo : Word := 0
  hi : Word := 0
  deriving DecidableEq, Repr

/-- State of the client ports beyond their registers (spec/11). -/
structure CliSt where
  /-- CLI_UCAST_n_LO shadows, keyed port * 16 + n (R297). -/
  lo : SMap Word := []
  /-- Entries replaced within the last 8,192 ticks, longer than any frame lasts, newest first (R297). -/
  ucast : List UcastOld := []
  /-- Preempted frames not yet whole, by port (R301). -/
  part : SMap (Option RxOpen) := []
  /-- Ingress stores of all ports: frames waiting for crossing 4, oldest first (R299). -/
  rx : List Frame := []
  /-- Frames at the MAC: Express, and the others in the transmit store (R302). -/
  txExp : SMap (List Frame) := []
  tx : SMap (List Frame) := []
  /-- The frame on the lanes, an interrupted preemptable frame, and the end of the last gap in 1/31250 tick. -/
  mac : SMap (Option MacTx) := []
  cut : SMap (Option MacTx) := []
  free : SMap Nat := []
  /-- Verify attempts made (R303), and the last frame or fragment sent with its FCS or mCRC (R302, R304), cut short with an
  inverted FCS when it was aborted (R308). -/
  tries : SMap Nat := []
  sent : SMap (List Byte) := []
  deriving DecidableEq, Repr

/-- The whole machine. -/
structure State where
  /-- The ordering code's fuses (R2, R12). -/
  grade : Grade := .fb
  /-- Commands that wait, first in, first out. -/
  pending : List Instr := []
  /-- Tick counter of the Time region (R268). -/
  tick : Nat := 0
  /-- Uses of the free values so far: the index of the next one (the model's own field). -/
  freeIdx : Nat := 0
  /-- Every register, keyed requester code * 2^25 + BAR0 offset (code 0 for a register all requesters share). -/
  regs : SMap Word := []
  /-- Live counters, keyed by the BAR0 offset of the LO word (R11). -/
  counters : SMap Nat := []
  /-- HI shadows, keyed requester code * 64 + block (R10). -/
  shadows : SMap Nat := []
  /-- Tick + 1 of the last raise of a rate-limited event, keyed source * 2^20 + key (R336). -/
  lastRaise : SMap Nat := []
  /-- Word of the last register read that completed; none before the first and after a completer abort (R321). -/
  rd : Option Word := none
  /-- Bytes the device has written to host memory. -/
  hostMem : SMap Byte := []
  /-- The function is in D3hot (R315). -/
  d3hot : Bool := false
  /-- The AER correctable error status (R313, R340); no row of the table clears it but a reset of configuration space (log
  251). -/
  aer : Nat := 0
  /-- The event ring's pass writes PHASE = 1, and records lost since the last event 5 (R335, R337). -/
  evPhase : Bool := true
  evLost : Nat := 0
  /-- MSI-X vectors (R338) and ring pairs (R323). -/
  vecs : SMap Vec := []
  rings : SMap Ring := []
  /-- Jobs started on JOB rings and not yet completed, oldest first, and the segmented send in progress (ring, next
  segment) (R310, R331). -/
  jobs : List Job := []
  /-- Requests the CMAC engine's queue has taken so far (R372). -/
  cmacSeq : Nat := 0
  txSend : Option (Nat × Nat) := none
  /-- Dual-clock queues of crossings 0 to 9 (R458). -/
  xings : SMap Xing := []
  /-- The nine regions (R13). -/
  regions : SMap Region := []
  /-- Tick + 1 of the last reset of a block, keyed region * 256 + block (R15), and cells quarantined per block. -/
  blockResets : SMap Nat := []
  quarantined : SMap Nat := []
  /-- FAULT_N is driven low (R19). -/
  faultN : Bool := false
  /-- Classifier tables, keyed copy * 2^18 + index (R190, R191, R200). -/
  tc : SMap TcEntry := []
  em : SMap EmEntry := []
  /-- Pairs of duplicate exact entries already reported (R191). -/
  emDup : List (Nat × Nat) := []
  /-- Tick of the last commit (R203), and whether its slow drain was reported. -/
  commitTick : Nat := 0
  drainTold : Bool := false
  /-- Copy that holds the current version of the versioned tables (R201). -/
  verCopy : Nat := 0
  /-- Stored cells of frames, keyed by handle, and the next handle (R346, R459). -/
  pad : SMap PadObj := []
  nextHandle : Nat := 1
  /-- COUNT pairs: packets at 2 * i, bytes at 2 * i + 1 (R223). -/
  countPairs : SMap Nat := []
  /-- Dispatch queues: Express and all others (R218), and the round-robin pointer over teams (R216). -/
  dispExp : List Frame := []
  dispOther : List Frame := []
  dispNext : Nat := 0
  /-- Teams, threads (keyed team * 64 + Courser * 8 + thread), instruction stores (keyed team * 2^15 + index), local
  memories (keyed (team * 8 + Courser) * 2^15 + offset) and shared memories (keyed team * 2^19 + offset) (R207). -/
  teams : SMap Team := []
  threads : SMap Thread := []
  /-- The issue of each Courser, keyed team * 8 + Courser (R208). -/
  turns : SMap Turn := []
  istore : SMap Word := []
  lmem : SMap Byte := []
  smem : SMap Byte := []
  /-- Scheduler queues, class groups, virtual times (keyed node, 1024 + node, 2048 + class group), buckets and gate lists
  (R240 to R257). -/
  queues : SMap Que := []
  groups : SMap Child := []
  vtimes : SMap Nat := []
  buckets : SMap Bucket := []
  gates : SMap Gate := []
  /-- Gate entries, keyed list * 2048 + 2 * entry + word, administrative and operating (R256). -/
  gateAdm : SMap Nat := []
  gateOpr : SMap Nat := []
  /-- Promotions to the aged tier so far (R255), and the sweep number of the queue sampler (R262). -/
  promotions : Nat := 0
  sweep : Nat := 0
  /-- DRAM bytes, keyed by address (R343). -/
  dram : SMap Byte := []
  /-- Time, capture and Studbook. -/
  tm : TimeSt := {}
  cp : CapSt := {}
  /-- The two line sides, pairing, circuits, keys, supplies, memories, Farrier, client ports. -/
  lineA : Line := {}
  lineB : Line := {}
  prt : PrtSt := {}
  har : HarSt := {}
  sec : SecSt := {}
  pwr : PwrSt := {}
  mem : MemSt := {}
  far : FarSt := {}
  cli : CliSt := {}
  deriving DecidableEq, Repr

/-- The machine right after cold reset: every register at the Reset column of its table, the Host, Time and Groom
regions on and the others off (R319 step 1), no frame, no command, memory with nothing listed. -/
def State.reset : State := {}

end Sys2Proof.Machine
end

