-- ==== Sys2Proof/Machine/Ops.lean ====
section
/-! DEFINITION. The named operations the commands are built from: registers and fields, counters, tables, host
memory, events and MSI-X, crossings, resources and the chip fault. -/

namespace Sys2Proof.Machine

/-! ### Bits, bytes, check codes -/

/-- Bits `[lo + w - 1 : lo]` of a number. -/
def bitsOf (n lo w : Nat) : Nat := n / 2 ^ lo % 2 ^ w

/-- Bit `i` of a number. -/
def bitOf (n i : Nat) : Bool := n / 2 ^ i % 2 = 1

/-- Ceiling of a quotient. -/
def ceilDiv (a b : Nat) : Nat := (a + b - 1) / b

/-- A quotient rounded to the nearest integer, halves up. -/
def roundDiv (a b : Nat) : Nat := (2 * a + b) / (2 * b)

/-- The value of a `w`-bit two's complement field. -/
def signedOf (n w : Nat) : Int := if n % 2 ^ w < 2 ^ (w - 1) then (n % 2 ^ w : Nat) else (n % 2 ^ w : Nat) - (2 ^ w : Nat)

/-- The `w`-bit two's complement of an integer. -/
def toBits (x : Int) (w : Nat) : Nat := (x % (2 ^ w : Nat)).toNat

/-- Little-endian bytes of a number. -/
def leBytes : Nat → Nat → List Byte
  | 0, _ => []
  | k + 1, n => BitVec.ofNat 8 n :: leBytes k (n / 256)

/-- Big-endian bytes of a number. -/
def beBytes (k n : Nat) : List Byte := (leBytes k n).reverse

/-- The number little-endian bytes spell. -/
def leNat : List Byte → Nat
  | [] => 0
  | b :: bs => b.toNat + 256 * leNat bs

/-- The number big-endian bytes spell. -/
def beNat (bs : List Byte) : Nat := leNat bs.reverse

/-- Byte `i` of a frame, 0 past its end. -/
def byteAt (bs : List Byte) (i : Nat) : Byte := bs.getD i 0

/-- `k` bytes from offset `i`, 0 past the end. -/
def bytesAt (bs : List Byte) : Nat → Nat → List Byte
  | _, 0 => []
  | i, k + 1 => byteAt bs i :: bytesAt bs (i + 1) k

/-- Big-endian number of `k` bytes at offset `i`. -/
def beAt (bs : List Byte) (i k : Nat) : Nat := beNat (bytesAt bs i k)

/-- Overwrite bytes from offset `i` (within the list). -/
def patch (bs : List Byte) (i : Nat) (new : List Byte) : List Byte :=
  bs.take i ++ new ++ bs.drop (i + new.length)

/-- One bit into the plain shift register of R457: width `w`, generator `g` without its top term. -/
def crcBit (w g : Nat) (r : Nat) (b : Bool) : Nat :=
  if (bitOf r (w - 1)) != b then (r * 2 % 2 ^ w) ^^^ g else r * 2 % 2 ^ w

/-- The `k` low bits of `n`, most significant first, into the register. -/
def crcBits (w g : Nat) : Nat → Nat → Nat → Nat
  | 0, _, r => r
  | k + 1, n, r => crcBits w g k n (crcBit w g r (bitOf n k))

/-- Bytes into the register, none reflected (R457). -/
def crcBytes (w g : Nat) : List Byte → Nat → Nat
  | [], r => r
  | b :: bs, r => crcBytes w g bs (crcBits w g 8 b.toNat r)

/-- The `w` low bits of `n` in reverse order. -/
def reflect (w n : Nat) : Nat := (List.range w).foldl (fun a i => a * 2 + (if bitOf n i then 1 else 0)) 0

/-- A 32-bit CRC with reflected input and output and final inversion, generator `g`, from register content `reg0` (R191, R223). -/
def crcReflected32 (g : Nat) (reg0 : Nat) (bs : List Byte) : Nat :=
  (reflect 32 (crcBytes 32 g (bs.map fun b => BitVec.ofNat 8 (reflect 8 b.toNat)) reg0)) ^^^ 0xFFFFFFFF

/-- CRC-32C of R191: generator 0x1EDC_6F41, preset 0xFFFF_FFFF, reflected, inverted. -/
def crc32c (bs : List Byte) : Nat := crcReflected32 0x1EDC6F41 0xFFFFFFFF bs

/-- CRC-32 of IEEE 802.3 (the FCS). -/
def crc32 (bs : List Byte) : Nat := crcReflected32 0x04C11DB7 0xFFFFFFFF bs

/-! ### Requesters, sides, regions -/

/-- Requester codes of GLB_RES_OWNER_n. -/
def reqCode : Req → Nat
  | .host => 0x01
  | .team t => 0x10 + t.val
  | .groom => 0x20

/-- Offset of a side's registers from Line A's (R7). -/
def sideOff : Side → Nat
  | .a => 0
  | .b => 0x200000

/-- A side as a number: 0 A, 1 B. -/
def sideNo : Side → Nat
  | .a => 0
  | .b => 1

/-- The other side. -/
def sideOther : Side → Side
  | .a => .b
  | .b => .a

/-- First event number of a side's line events (R339). -/
def sideEvt : Side → Nat
  | .a => 64
  | .b => 128

/-- Region codes of GLB_FLT_CAUSE.REGION for a BAR0 offset (R314). -/
def regionOf (a : Nat) : Nat :=
  if a < 0x200000 then 6
  else if a < 0x400000 then 8
  else if a < 0x600000 then 0
  else if a < 0x800000 then 1
  else if a < 0x900000 then 7
  else if a < 0xA00000 then 4
  else if a < 0x1000000 then 2
  else if a < 0x1100000 then 7
  else if a < 0x1200000 then 3
  else if a < 0x1300000 then 5
  else 6

/-- The register block of a BAR0 offset: a row of the BAR0 table of R314 (for the HI shadows of R10). -/
def blockOf (a : Nat) : Nat :=
  if a < 0x100000 then 0
  else if a < 0x200000 then 1
  else if a < 0x400000 then 2
  else if a < 0x600000 then 3
  else if a < 0x800000 then 4
  else if a < 0x900000 then 5
  else if a < 0xA00000 then 6
  else if a < 0xC00000 then 7
  else if a < 0xE00000 then 8
  else if a < 0x1000000 then 9
  else if a < 0x1100000 then 10
  else if a < 0x1200000 then 11
  else if a < 0x1300000 then 12
  else if a < 0x1400000 then 13
  else if a < 0x1500000 then 14
  else if a < 0x1600000 then 15
  else 16

/-- Host, Time and Groom are on after a cold reset, the others off (R319). -/
def regionDefault (r : Nat) : Region := { on := r = 6 || r = 7 || r = 8 }

namespace State

/-- Change the Time part; change the capture part. -/
def modTm (s : State) (g : TimeSt → TimeSt) : State := { s with tm := g s.tm }
def modCp (s : State) (g : CapSt → CapSt) : State := { s with cp := g s.cp }

/-- Change the pairing, circuit and key parts. -/
def modPrt (s : State) (g : PrtSt → PrtSt) : State := { s with prt := g s.prt }
def modHar (s : State) (g : HarSt → HarSt) : State := { s with har := g s.har }
def modSec (s : State) (g : SecSt → SecSt) : State := { s with sec := g s.sec }

/-- Change the memory part; change the power part. -/
def modMem (s : State) (g : MemSt → MemSt) : State := { s with mem := g s.mem }
def modPwr (s : State) (g : PwrSt → PwrSt) : State := { s with pwr := g s.pwr }

/-- Change the Farrier part; change the client part. -/
def modFar (s : State) (g : FarSt → FarSt) : State := { s with far := g s.far }
def modCli (s : State) (g : CliSt → CliSt) : State := { s with cli := g s.cli }

/-- A line side beyond its registers, and a change of it. -/
def line (s : State) : Side → Line
  | .a => s.lineA
  | .b => s.lineB
def modLine (s : State) (x : Side) (g : Line → Line) : State :=
  match x with
  | .a => { s with lineA := g s.lineA }
  | .b => { s with lineB := g s.lineB }

/-- The record of a region. -/
def region (s : State) (r : Nat) : Region := sget regionDefault s.regions r

def setRegion (s : State) (r : Nat) (v : Region) : State := { s with regions := sset regionDefault s.regions r v }

/-- A region runs: powered, clocked and out of reset. -/
def regionUp (s : State) (r : Nat) : Bool := (s.region r).on && (s.region r).clock && !(s.region r).inReset

/-! ### Registers -/

end State

/-- What an unlisted register key reads as. -/
def regDefault (k : Nat) : Word := regReset (k % 2 ^ 25)

namespace State

/-- The word a register holds. -/
def reg (s : State) (k : Nat) : Word := sget regDefault s.regs k

/-- Store a register word. -/
def setReg (s : State) (k : Nat) (v : Word) : State := { s with regs := sset regDefault s.regs k v }

end State

/-- Key of a requester's own copy of a register (R37, R197, R202). -/
def bankKey (q : Req) (a : Nat) : Nat := reqCode q * 2 ^ 25 + a

/-- The mask of a field in its register. -/
def Fld.mask (F : Fld) : Word := BitVec.ofNat 32 ((2 ^ F.w - 1) * 2 ^ F.lo)

/-- The value of a field of a word. -/
def Fld.of (F : Fld) (w : Word) : Nat := bitsOf w.toNat F.lo F.w

/-- A word with a field replaced. -/
def Fld.put (F : Fld) (w : Word) (v : Nat) : Word :=
  (w &&& ~~~ F.mask) ||| (BitVec.ofNat 32 (v % 2 ^ F.w * 2 ^ F.lo))

namespace State

/-- The value of a field; `i` is the byte offset of the array element or side. -/
def f (s : State) (F : Fld) (i : Nat := 0) : Nat := F.of (s.reg (F.addr + i))

/-- A one-bit field. -/
def flag (s : State) (F : Fld) (i : Nat := 0) : Bool := s.f F i != 0

/-- Write a field of a register (the hardware's own write). -/
def setF (s : State) (F : Fld) (i : Nat) (v : Nat) : State :=
  s.setReg (F.addr + i) (F.put (s.reg (F.addr + i)) v)

/-- Set a one-bit field. -/
def setFlag (s : State) (F : Fld) (i : Nat) (b : Bool) : State := s.setF F i (if b then 1 else 0)

/-- Add to a register that counts and wraps at 2^32. -/
def addReg (s : State) (a n : Nat) : State := s.setReg a (s.reg a + BitVec.ofNat 32 n)

/-- Add to a field that saturates at its largest value. -/
def satF (s : State) (F : Fld) (i : Nat) (n : Nat) : State :=
  s.setF F i (min (s.f F i + n) (2 ^ F.w - 1))

/-! ### Counters and shadows (R10, R11) -/

/-- A live counter. -/
def counter (s : State) (a : Nat) : Nat := sget (fun _ => 0) s.counters a

/-- Count (counters are 64 bits in all; a read shows the counter's own width). -/
def bump (s : State) (a : Nat) (n : Nat := 1) : State :=
  { s with counters := sset (fun _ => 0) s.counters a ((s.counter a + n) % 2 ^ 64) }

/-- Count when a condition holds. -/
def bumpIf (s : State) (b : Bool) (a : Nat) (n : Nat := 1) : State := if b then s.bump a n else s

def shadow (s : State) (q : Req) (blk : Nat) : Nat := sget (fun _ => 0) s.shadows (reqCode q * 64 + blk)

def setShadow (s : State) (q : Req) (blk v : Nat) : State :=
  { s with shadows := sset (fun _ => 0) s.shadows (reqCode q * 64 + blk) v }

/-- The next free value of width `w` (a value the spec leaves open): an opaque constant of Config at the state's
counter, which advances. -/
def takeFree (s : State) (w : Nat) : Nat × State :=
  (Config.freeValue s.freeIdx % 2 ^ w, { s with freeIdx := s.freeIdx + 1 })

/-! ### Host memory -/

/-- Write bytes to host memory (R313: the device's only target); addresses are 64 bits. -/
def hostWrite (s : State) (addr : Nat) : List Byte → State
  | [] => s
  | b :: bs =>
    hostWrite { s with hostMem := sset (fun _ => 0) s.hostMem (addr % 2 ^ 64) b } (addr + 1) bs

/-- Write little-endian words to host memory. -/
def hostWriteWords (s : State) (addr : Nat) : List Word → State
  | [] => s
  | w :: ws => hostWriteWords (s.hostWrite addr (leBytes 4 w.toNat)) (addr + 4) ws

/-- The device may issue requests to host memory and send MSI-X messages (R315): Bus Master Enable, and not in D3hot. -/
def hostOk (s : State) : Bool := s.flag F.HIF_STAT_BME && !s.d3hot

/-! ### MSI-X (R338) -/

def vec (s : State) (v : Nat) : Vec := sget (fun _ => {}) s.vecs v

def setVec (s : State) (v : Nat) (x : Vec) : State := { s with vecs := sset (fun _ => {}) s.vecs v x }

end State

/-- BAR0 offset of the MSI-X table and of the pending-bit array (R314). -/
def msixTable : Nat := 0xF0000
def msixPba : Nat := 0xF8000

namespace State

/-- A vector is masked by its table entry (PCIe Base: bit 0 of the vector control word). -/
def vecMasked (s : State) (v : Nat) : Bool := bitOf (s.reg (msixTable + 16 * v + 12)).toNat 0

/-- Set or clear a bit of the pending-bit array. -/
def setPba (s : State) (v : Nat) (b : Bool) : State :=
  s.setF ⟨msixPba + 4 * (v / 32), v % 32, 1⟩ 0 (if b then 1 else 0)

/-- Send the vector's message, or hold it by its mask or a pause of bus mastering (R315, R338). -/
def msixSend (s : State) (v : Nat) : State :=
  if s.vecMasked v || !s.hostOk then
    (s.setPba v true).setVec v { s.vec v with causes := 0, held := true }
  else
    (((s.hostWrite ((s.reg (msixTable + 16 * v)).toNat + 2 ^ 32 * (s.reg (msixTable + 16 * v + 4)).toNat)
        (leBytes 4 (s.reg (msixTable + 16 * v + 8)).toNat)).setPba v false).setVec v {}).bump 0xB058

/-- A cause for vector `v` (R338): the message goes out once COUNT causes have gathered, and at once with a HOLDOFF of 0 µs. -/
def msixCause (s : State) (v : Nat) : State :=
  if (s.vec v).causes + 1 ≥ max 1 (s.f F.HIF_VEC_COUNT (4 * v)) || s.f F.HIF_VEC_HOLDOFF (4 * v) == 0 then s.msixSend v
  else s.setVec v { s.vec v with causes := (s.vec v).causes + 1,
                                 since := if (s.vec v).causes = 0 then s.tick else (s.vec v).since }

/-! ### Events (R334 to R337) -/

/-- Entries of the event ring (R334). -/
def evtN (s : State) : Nat := s.f F.EVT_RING_SIZE_SIZE

/-- The ring is full: (PI - CI) mod N = N - 1. -/
def evtFull (s : State) : Bool :=
  (s.f F.EVT_RING_PI_PI + s.evtN - s.f F.EVT_RING_CI_CI) % s.evtN == s.evtN - 1

/-- Word 0 of an event entry (R335). -/
def evtWord0 (s : State) (src level inst : Nat) : Nat :=
  src % 512 + 512 * (level % 4) + (if s.evPhase then 2048 else 0) + 4096 * s.f F.EVT_SRC_SEV (4 * src)
    + 65536 * (inst % 65536)

/-- Write one entry at PI (R335), raised at tick `at`, and gather the source's vector's cause. -/
def evtWrite (s : State) (src level inst : Nat) (info : Word) (at' : Nat) : State :=
  let pi := s.f F.EVT_RING_PI_PI
  let base := (s.reg 0x100000).toNat + 2 ^ 32 * (s.reg 0x100004).toNat
  let s1 := s.hostWriteWords (base + 16 * pi)
    [BitVec.ofNat 32 (s.evtWord0 src level inst), info, BitVec.ofNat 32 at', BitVec.ofNat 32 (at' / 2 ^ 32)]
  let s2 := s1.setF F.EVT_RING_PI_PI 0 ((pi + 1) % s.evtN)
  let s3 := if pi + 1 = s.evtN then { s2 with evPhase := !s2.evPhase } else s2
  let s4 := s3.setFlag F.EVT_RING_CFG_FULL 0 s3.evtFull
  s4.msixCause (s4.f F.EVT_SRC_VEC (4 * src))

/-- Room for an entry: the ring is not full and the device may write to host memory (R315, R337). -/
def evtRoom (s : State) : Bool := !s.evtFull && s.hostOk

/-- When room appears after losses, event 5 goes first with the number lost (R337). -/
def evtReportLost (s : State) : State :=
  if s.evLost ≠ 0 && s.evtRoom then
    (({ s with evLost := 0 }.addReg (0x102000 + 20) 1)).evtWrite 5 1 0 (BitVec.ofNat 32 (min s.evLost 0xFFFFFFFF)) s.tick
  else s

/-- The programmable counters that name event source `src` count a raise of it (R420). -/
def pcRaise (s : State) (src : Nat) : State :=
  (List.range 8).foldl (fun s n => s.bumpIf (s.f F.STB_PC_SEL (4 * n) == src) (0x1400800 + 8 * n)) s

/-- An event goes to the ring when its source and the ring are enabled, or is lost (R336, R337). -/
def evtRing (s : State) (src level inst info at' : Nat) : State :=
  if s.flag F.EVT_SRC_EN (4 * src) && s.flag F.EVT_RING_CFG_EN then
    let s1 := s.evtReportLost
    if s1.evtRoom then s1.evtWrite src level inst (BitVec.ofNat 32 info) at'
    else { s1.addReg 0x100018 1 with evLost := s1.evLost + 1 }
  else s

/-- The Groom's mirror takes every event, and holds up to 8 while the Host region is off (R398, R406). -/
def evtMirror (s : State) (src level inst info : Nat) : State :=
  let e := leBytes 4 (s.evtWord0 src level inst) ++ leBytes 4 info ++ leBytes 8 s.tick
  let off := !(s.region 6).on
  let h : HeldEvt := { src := src, level := level, inst := inst, info := info, tick := s.tick }
  s.modPwr fun p => { p with
    mirror := (p.mirror ++ [e]).drop (p.mirror.length - 63),
    held := if off && decide (p.held.length < 8) then p.held ++ [h] else p.held,
    heldLost := if off && decide (8 ≤ p.held.length) then p.heldLost + 1 else p.heldLost }

/-- One raise of source `src` (R336, R337): counted and mirrored, and written, held or lost. -/
def raise (s : State) (src : Nat) (level : Nat := 1) (inst : Nat := 0) (info : Nat := 0) : State :=
  let s1 := ((s.evtMirror src level inst info).addReg (0x102000 + 4 * src) 1).pcRaise src
  if (s1.region 6).on then s1.evtRing src level inst info s1.tick else s1

/-- Events held in the Groom go first when the ring starts after the Host region is back; those beyond 8 count in EVT_LOST
(R398). -/
def evtRelease (s : State) : State :=
  let s1 := s.pwr.held.foldl (fun s h => s.evtRing h.src h.level h.inst h.info h.tick)
    (s.modPwr fun p => { p with held := [], heldLost := 0 })
  if s.pwr.heldLost = 0 then s1
  else { s1.addReg 0x100018 s.pwr.heldLost with evLost := s1.evLost + s.pwr.heldLost }

/-- Raise when a condition holds. -/
def raiseIf (s : State) (b : Bool) (src : Nat) (level : Nat := 1) (inst : Nat := 0) (info : Nat := 0) : State :=
  if b then s.raise src level inst info else s

end State

/-- Ticks of one millisecond and of one second of the 777.6 MHz Time clock (R267). -/
def ticksPerMs : Nat := 777600
def ticksPerS : Nat := 777600000

namespace State

/-- A raise limited to once per `gap` ticks and key (R336): an occurrence inside the interval is no raise. -/
def raiseLim (s : State) (gap key src : Nat) (level : Nat := 1) (inst : Nat := 0) (info : Nat := 0) : State :=
  let last := sget (fun _ => 0) s.lastRaise (src * 2 ^ 20 + key)
  if last ≠ 0 && s.tick + 1 < last + gap then s
  else { s with lastRaise := sset (fun _ => 0) s.lastRaise (src * 2 ^ 20 + key) (s.tick + 1) }.raise src level inst info

/-- A correctable PCIe error is logged: the status gathers it, and event 12 tells the whole status at most once per ms (R339,
R340). -/
def aerLog (s : State) (bits : Nat) : State :=
  { s with aer := (s.aer ||| bits) % 2 ^ 32 }.raiseLim ticksPerMs 0 12 1 0 ((s.aer ||| bits) % 2 ^ 32)

/-! ### Threads (R207) -/

def thread (s : State) (k : Nat) : Thread := sget (fun _ => {}) s.threads k

/-- Threads of a team that hold a frame. -/
def threadsHolding (s : State) (t : Nat) : Nat :=
  (s.threads.filter fun e => decide (e.1 / 64 = t) && e.2.frame.isSome).length

/-- Store a thread; BUSY of its team shows how many hold a frame. -/
def setThread (s : State) (k : Nat) (x : Thread) : State :=
  let s1 : State := { s with threads := sset (fun _ => {}) s.threads k x }
  s1.setF F.CRS_TEAM_STAT_BUSY (0x10000 * (k / 64)) (s1.threadsHolding (k / 64))

/-! ### Resources (R36 to R38) -/

/-- A resource is free: its owner's feature code is 0. Resource 14 is never free on an FBX part (R38). -/
def resFree (s : State) (i : Nat) : Bool :=
  s.f F.GLB_RES_OWNER_FEATURE (4 * i) == 0 && !(i == 14 && s.grade == .fbx)

/-- A claim that succeeds: the owner is recorded and the requester's result reads OK. -/
def resTake (s : State) (q : Req) (i feature : Nat) : State :=
  (s.setReg (0x100 + 4 * i) (BitVec.ofNat 32 (reqCode q * 65536 + feature))).setReg (bankKey q 0x180)
    (BitVec.ofNat 32 (i * 256 + 1))

/-- A claim that fails: CONFLICT for the requester, and event 11 (R37, R39). -/
def resConflict (s : State) (q : Req) (i : Nat) : State :=
  (s.setReg (bankKey q 0x180) (BitVec.ofNat 32 (i * 256 + 2))).raise 11 1 0 (i + 256 * reqCode q)

/-- Release a resource. -/
def resRelease (s : State) (i : Nat) : State := s.setReg (0x100 + 4 * i) 0

/-- The feature that owns a resource. -/
def resFeature (s : State) (i : Nat) : Nat := s.f F.GLB_RES_OWNER_FEATURE (4 * i)

/-! ### Paddock cells (R346, R459) -/

def padObj (s : State) (h : Nat) : PadObj := sget (fun _ => {}) s.pad h
def setPad (s : State) (h : Nat) (o : PadObj) : State := { s with pad := sset (fun _ => {}) s.pad h o }

/-- Free frame cells (MEM_PAD_FREE). -/
def padFree (s : State) : Nat := s.f F.MEM_PAD_FREE_CELLS

/-- A frame may take `n` cells: an Express frame any free cell, another only cells above EXP_RESERVE (R346). -/
def padMay (s : State) (exp : Bool) (n : Nat) : Bool :=
  if exp then decide (n ≤ s.padFree) else n == 0 || decide (s.f F.MEM_PAD_CFG_EXP_RESERVE + n ≤ s.padFree)

def padTake (s : State) (n : Nat) : State := s.setF F.MEM_PAD_FREE_CELLS 0 (s.padFree - n)

/-- Cells come free, but for those that their group's failed checker withdraws (R359). -/
def padGive (s : State) (n : Nat) : State :=
  if s.mem.owed = 0 then s.setF F.MEM_PAD_FREE_CELLS 0 (s.padFree + n)
  else (s.setF F.MEM_PAD_FREE_CELLS 0 (s.padFree + (n - s.mem.owed))).modMem fun m => { m with owed := m.owed - n }

/-- One more reference to stored cells. -/
def padRef (s : State) (h : Nat) : State := s.setPad h { s.padObj h with refs := (s.padObj h).refs + 1 }

/-- One reference fewer: the cells are released when none is left (R459). -/
def padUnref (s : State) (h : Nat) : State :=
  if (s.padObj h).refs ≤ 1 then (s.padGive (s.padObj h).cells).setPad h {}
  else s.setPad h { s.padObj h with refs := (s.padObj h).refs - 1 }

/-- A frame is gone: its head cells are released, and its reference to the stored cells. Cells that a reset of the Core has
already freed are not released again. -/
def padDrop (s : State) (x : Frame) : State :=
  if (s.padObj x.handle).refs = 0 then s else (s.padGive x.heads).padUnref x.handle

/-- Store an arriving frame: 256-byte cells, the first one its head cell (R346). -/
def padStore (s : State) (x : Frame) : Frame × State :=
  let n := max 1 (ceilDiv x.data.length 256)
  ({ x with handle := s.nextHandle, heads := 1 },
   ({ s with nextHandle := s.nextHandle + 1 }.padTake n).setPad s.nextHandle { cells := n - 1, refs := 1 })

end State

/-! ### Stored-data integrity (R351 to R353) -/

/-- Memory counter i (0x120_0800 + 8 * i). -/
def memCnt (i : Nat) : Nat := 0x1200800 + 8 * i

/-- The macro group that a free value picks among Paddock's and those of the Core's memories (R350). -/
def chipGroup (n : Nat) : Nat := if n % 84 < 48 then n % 84 else n % 84 + 16

namespace State

/-- Whole 64-byte lines moved by `n` bytes read from, or written to, DRAM (R344). -/
def ddrRd (s : State) (n : Nat) : State := s.bump (memCnt 15) (64 * ceilDiv n 64)
def ddrWr (s : State) (n : Nat) : State := s.bump (memCnt 16) (64 * ceilDiv n 64)

/-- The record of an error log (offset 0 uncorrectable, 0x10 correctable): byte address, on-chip, class, requester and
syndrome. -/
def memLog (s : State) (i addr : Nat) (chip : Bool) (cls req synd : Nat) : State :=
  ((s.setReg (0x1200060 + i) (BitVec.ofNat 32 addr)).setReg (0x1200064 + i) (BitVec.ofNat 32 (addr / 2 ^ 32))).setReg
    (0x1200068 + i) (BitVec.ofNat 32 (2 ^ 31 + cls % 8 * 2 ^ 27 + (if chip then 2 ^ 26 else 0) + req % 256 * 65536
      + synd % 65536))

/-- An uncorrectable read (R352, R353): counted, event 452 + channel or 457, and the first one logged. `unit` is the channel
or the macro group, `word` the channel line address or the word address in the group, `addr` the logged byte address. -/
def memUe (s : State) (chip : Bool) (unit word addr cls req synd : Nat) : State :=
  let s1 := if chip then (s.bump (memCnt 9)).raise 457 1 unit (word % 2 ^ 20 + cls % 8 * 2 ^ 28)
    else (s.bump (memCnt (4 + unit % 4))).raise (452 + unit % 4) 1 (unit % 4 * 2 + word % 2)
      (word % 2 ^ 29 + cls % 8 * 2 ^ 29)
  if s1.flag F.MEM_LOG_INFO_VALID then s1.setFlag F.MEM_LOG_INFO_MORE 0 true else s1.memLog 0 addr chip cls req synd

/-- A correctable word is corrected (R351, R353): counted, logged, and event 448 + channel or 456 once per ms. -/
def memCe (s : State) (chip : Bool) (unit word addr cls req synd : Nat) : State :=
  let s1 := s.bump (if chip then memCnt 8 else memCnt unit)
  let s2 := s1.memLog 0x10 addr chip cls req synd
  if chip then s2.raiseLim ticksPerMs 0 456 1 unit (word % 2 ^ 20 + cls % 8 * 2 ^ 28)
  else s2.raiseLim ticksPerMs 0 (448 + unit) 1 (2 * unit + word % 2) (word % 2 ^ 29 + cls % 8 * 2 ^ 29)

/-- An uncorrectable word of macro group `unit` whose address in the group the spec does not give: address and syndrome are
free. -/
def memUeChip (s : State) (unit cls req : Nat) : State :=
  let w := s.takeFree 20
  let y := w.2.takeFree 8
  y.2.memUe true unit w.1 (unit * 2 ^ 24 + 8 * w.1) cls req y.1

/-- A correctable word of macro group `unit` whose place the spec does not give. -/
def memCeChip (s : State) (unit cls req : Nat) : State :=
  let w := s.takeFree 20
  let y := w.2.takeFree 8
  y.2.memCe true unit w.1 (unit * 2 ^ 24 + 8 * w.1) cls req y.1
/-- The egress read of a frame from Paddock (R351, R352): true where its data is uncorrectable, because the read says so or a
flip mask corrupted it; the frame is then discarded and counted in PAD_UE_DISC. Which macro group holds it is free. -/
def padRead (s : State) (f : Frame) (ue : Bool) : Bool × State :=
  let g := s.takeFree 32
  if ue || f.flip == 2 then (true, (g.2.memUeChip (g.1 % 46) 0 0).bump (memCnt 14))
  else (false, if f.flip = 1 then g.2.memCeChip (g.1 % 46) 0 0 else s)

/-- The block of a macro group is held in reset, because its checker failed (R359). -/
def groupHeld (s : State) (g : Nat) : Bool := s.mem.held.contains g

/-- The flip mask waits for a write to this channel, or to this macro group (R360). -/
def flipArmed (s : State) (chip : Bool) (unit : Nat) : Bool :=
  s.flag F.MEM_FLIP_CFG_ARM && s.flag F.MEM_FLIP_CFG_KIND == chip && s.f F.MEM_FLIP_CFG_TARGET == unit

/-- The mask has corrupted a write. -/
def flipUsed (s : State) : State := s.setFlag F.MEM_FLIP_CFG_ARM 0 false

/-- A write to macro group `g`, which the mask corrupts when it waits for one: what the word then reads as is with the fact that a
later read finds it so (log 99). -/
def flipChip (s : State) (g : Nat) : State := if s.flipArmed true g then s.flipUsed else s

end State

namespace State

/-! ### Crossings (R25 to R35, R458) -/

def xing (s : State) (i : Nat) : Xing := sget (fun _ => {}) s.xings i

/-- Entries of 64 bytes of a list of frames (R458). -/
def xEntries (fs : List Frame) : Nat := (fs.map fun x => max 1 (ceilDiv x.data.length 64)).sum

end State

/-- Depth in entries of a crossing's queue (R458). -/
def xDepth (i : Nat) (exp : Bool) : Nat := if i < 6 then (if exp then 256 else 1024) else if i < 8 then 512 else 1024

namespace State

/-- Store the contents of a crossing and its occupancy: the entries of the last frame beyond the queue's depth are still with
the writer, which writes entry by entry (R458). -/
def setXing (s : State) (i : Nat) (x : Xing) : State :=
  { s with xings := sset (fun _ => {}) s.xings i x }.setF F.XNG_STAT_OCC (0x20 * i)
    (min (xEntries x.exp) (xDepth i true) + min (xEntries x.other) (xDepth i false))

end State

/-- The regions a crossing joins, writer and reader (R27). -/
def xEnds : Nat → Nat × Nat
  | 0 => (0, 2) | 1 => (2, 0) | 2 => (1, 2) | 3 => (2, 1) | 4 => (3, 2) | 5 => (2, 3) | 6 => (6, 2) | 7 => (2, 6)
  | 8 => (5, 2) | 9 => (2, 5) | 10 => (0, 4) | 11 => (4, 0) | 12 => (1, 4) | 13 => (4, 1) | 14 => (2, 0)
  | 15 => (2, 1) | 16 => (2, 3) | 17 => (2, 7) | 18 => (2, 5) | 19 => (2, 8) | 20 => (7, 2) | 21 => (7, 0)
  | 22 => (7, 1) | 23 => (7, 3) | 24 => (7, 6) | 25 => (7, 5) | 26 => (7, 8) | 27 => (0, 7) | 28 => (1, 7)
  | _ => (8, 2)

/-- Region `r` is on the reading side of crossing `i`: crossing 17 goes to Time and to Harness (R27). -/
def xReads (i r : Nat) : Bool := (xEnds i).2 == r || (i == 17 && r == 4)

namespace State

/-- The writer of a crossing may write (R30, R34): both regions have power, it is not refusing, the writer is out of reset and
has the pointer, and the reader is out of reset where the crossing flushes. -/
def xOpen (s : State) (i : Nat) : Bool :=
  let resync := s.flag F.XNG_CFG_RESYNC (0x20 * i)
  (s.region (xEnds i).1).on && ((s.region (xEnds i).2).on || resync) && !s.flag F.XNG_STAT_REFUSING (0x20 * i)
    && !s.flag F.XNG_STAT_WRITER_RESET (0x20 * i) && !(s.xing i).wSync
    && (resync || !s.flag F.XNG_STAT_READER_RESET (0x20 * i))

/-- The reader of a crossing may take entries: it is out of reset and has the pointer (R30). -/
def xReadable (s : State) (i : Nat) : Bool :=
  (s.region (xEnds i).2).on && !s.flag F.XNG_STAT_REFUSING (0x20 * i) && !s.flag F.XNG_STAT_READER_RESET (0x20 * i)
    && !(s.xing i).rSync

/-- Entries in a crossing's queue for Express frames, or for the others (R28). -/
def xHeld (s : State) (i : Nat) (exp : Bool) : Nat :=
  xEntries (if exp && decide (i < 6) then (s.xing i).exp else (s.xing i).other)

/-- The writer of a crossing's queue may start a frame of `n` bytes (R458): the Line writers of crossings 0 and 2 when the whole
frame has room, every other when an entry has. -/
def xRoom (s : State) (i : Nat) (exp : Bool) (n : Nat) : Bool :=
  s.xOpen i && decide (s.xHeld i exp + (if i = 0 ∨ i = 2 then max 1 (ceilDiv n 64) else 1) ≤ xDepth i exp)

/-- Put a frame into a crossing (Express frames into its Express queue, R28). -/
def xPush (s : State) (i : Nat) (x : Frame) : State :=
  if x.exp && decide (i < 6) then s.setXing i { s.xing i with exp := (s.xing i).exp ++ [x] }
  else s.setXing i { s.xing i with other := (s.xing i).other ++ [x] }

/-- Empty a crossing and count what it held (R30, R34); the number discarded. -/
def xDiscard (s : State) (i : Nat) : Nat × State :=
  let n := s.f F.XNG_STAT_OCC (0x20 * i)
  let x := s.xing i
  let s1 := (x.exp ++ x.other).foldl (fun s f => s.padDrop f) s
  (n, ((s1.setXing i { x with exp := [], other := [] }).addReg (0x1600008 + 0x20 * i) n))

/-- Information word of events 8 and 10 (R39). -/
def xInfo (i n : Nat) : Nat := i + 32 * min n 0x7FF

end State

/-- A frame of a side is cut short at tick `t`, the bytes of its information stream from here on are lost: 256 bits arrive in a
tick, 1,824 information bytes in a codeword of 17,280 bits. -/
def DsCkt.cutAt (c : DsCkt) (t : Nat) : DsCkt :=
  let b := (t - c.tick) * 256
  if t < c.tick + 97200 && c.lostFrom.isNone then { c with lostFrom := some (b / 17280 * 1824 + min 1824 (b % 17280 / 8)) }
  else c

namespace State

/-- A circuit crossing (10 or 12) closes while a frame of its side arrives: the bytes of the frame's information stream from here
on are lost (R32, R162). -/
def xCut (s : State) (i : Nat) : State :=
  let cut (c : DsCkt) : DsCkt := c.cutAt s.tick
  if i = 10 then { s with har := { s.har with dsA := (s.har.dsA.take 1).map cut ++ s.har.dsA.drop 1 } }
  else if i = 12 then { s with har := { s.har with dsB := (s.har.dsB.take 1).map cut ++ s.har.dsB.drop 1 } }
  else s

/-- The reset of one side of a crossing (R30, R31): in flush mode its contents are discarded and counted, with event 10
when there were any; in resynchronisation mode the surviving side keeps them. -/
def xReset (s : State) (i : Nat) (writer : Bool) : State :=
  let s := s.xCut i
  let s1 := s.setFlag (if writer then F.XNG_STAT_WRITER_RESET else F.XNG_STAT_READER_RESET) (0x20 * i) true
  if s1.flag F.XNG_CFG_RESYNC (0x20 * i) then s1
  else (s1.xDiscard i).2.raiseIf ((s1.xDiscard i).1 != 0) 10 1 0 (xInfo i (s1.xDiscard i).1)

/-- A side of a crossing leaves reset (R30): where the crossing resynchronises it takes over the surviving side's pointer in a
handshake; a flushing crossing resumes once both sides are out of reset. -/
def xLeave (s : State) (i : Nat) (writer : Bool) : State :=
  let fl := if writer then F.XNG_STAT_WRITER_RESET else F.XNG_STAT_READER_RESET
  let was := s.flag fl (0x20 * i)
  let s1 := s.setFlag fl (0x20 * i) false
  let x := s1.xing i
  if was && s1.flag F.XNG_CFG_RESYNC (0x20 * i) then
    (s1.setXing i (if writer then { x with wSync := true } else { x with rSync := true })).setFlag F.XNG_STAT_RESYNC_BUSY
      (0x20 * i) true
  else s1

/-- The pointer handshake of a crossing ends and traffic resumes (R30). -/
def xSynced (s : State) (i : Nat) : State :=
  (s.setXing i { s.xing i with wSync := false, rSync := false }).setFlag F.XNG_STAT_RESYNC_BUSY (0x20 * i) false

/-- Every crossing with region `r` on a side: that side goes into reset (R18, R30). -/
def xRegionReset (s : State) (r : Nat) : State :=
  (List.range 30).foldl (fun s i =>
    let s1 := if (xEnds i).1 = r then s.xReset i true else s
    if xReads i r then s1.xReset i false else s1) s

/-- Every crossing with region `r` on a side: that side leaves reset. -/
def xRegionLeave (s : State) (r : Nat) : State :=
  (List.range 30).foldl (fun s i =>
    let s1 := if (xEnds i).1 = r then s.xLeave i true else s
    if xReads i r then s1.xLeave i false else s1) s

/-! ### Access to unavailable targets (R318, R320) -/

end State

/-- The configuration crossing of a region (R27): 14 to 19; the Core is reached through crossing 6; the Host region has
none. -/
def cfgCrossing : Nat → Option Nat
  | 0 => some 14 | 1 => some 15 | 2 => some 6 | 3 => some 16 | 4 => some 17 | 5 => some 18 | 7 => some 17
  | 8 => some 19 | _ => none

namespace State

/-- Why a region cannot be reached (R320, R340 cause): 0 power off, 1 clock stopped or crossing refusing, 2 in
reset. -/
def unavailable (s : State) (a : Nat) : Option Nat :=
  let r := regionOf a
  if !(s.region r).on then some 0
  else if !(s.region r).clock || ((cfgCrossing r).map fun i => s.flag F.XNG_STAT_REFUSING (0x20 * i)).getD false then
    some 1
  else if (s.region r).inReset then some 2
  else none

/-- A warm reset is running (R318). -/
def warmBusy (s : State) : Bool := s.flag F.GLB_RST_STAT_BUSY && s.f F.GLB_RST_STAT_LAST == 2

/-- The report of an access to an unavailable target: event 1, and UNAVAIL counts it (R320, R340). -/
def reportUnavailable (s : State) (q : Req) (a : Nat) (write : Bool) (cause : Nat) : State :=
  (s.bump 0xB050).raise 1 1 (reqCode q)
    (a % 2 ^ 25 + (if write then 2 ^ 25 else 0) + cause * 2 ^ 26 + regionOf a * 2 ^ 28)

/-- A requester can reach the registers: its own region has power (R387). -/
def reqUp (s : State) : Req → Bool
  | .host => (s.region 6).on
  | .team _ => (s.region 2).on
  | .groom => true

/-- A register write that reaches its target, or is discarded (R318, R320). -/
def guardW (s : State) (q : Req) (a : Nat) (k : State → State) : State :=
  if !s.reqUp q || (s.warmBusy && decide (0x8000 ≤ a)) then s
  else match s.unavailable a with
    | some c => s.reportUnavailable q a true c
    | none => k s

/-- As `guardW`, for a register only the host writes: another requester's write is discarded. -/
def guardHostW (s : State) (q : Req) (a : Nat) (k : State → State) : State :=
  s.guardW q a fun s => if q = Req.host then k s else s

end State

end Sys2Proof.Machine
end

