-- ==== Sys2Proof/Machine/Crypto.lean ====
section
/-! DEFINITION. The published algorithms the key block names (spec/14_keys_checks.md): AES (FIPS 197), AES-GCM
(SP 800-38D), AES-CMAC (SP 800-38B) and AES key unwrap (RFC 3394). The spec names them and does not restate them, so
their steps are PRESUMED from those standards. Blocks are 128-bit numbers, byte 0 most significant. -/

namespace Sys2Proof.Machine

/-! ### AES -/

/-- The S-box of FIPS 197, sixteen values a row. -/
def sboxRow0 : List Nat := [0x63, 0x7C, 0x77, 0x7B, 0xF2, 0x6B, 0x6F, 0xC5, 0x30, 0x01, 0x67, 0x2B, 0xFE, 0xD7, 0xAB, 0x76]
def sboxRow1 : List Nat := [0xCA, 0x82, 0xC9, 0x7D, 0xFA, 0x59, 0x47, 0xF0, 0xAD, 0xD4, 0xA2, 0xAF, 0x9C, 0xA4, 0x72, 0xC0]
def sboxRow2 : List Nat := [0xB7, 0xFD, 0x93, 0x26, 0x36, 0x3F, 0xF7, 0xCC, 0x34, 0xA5, 0xE5, 0xF1, 0x71, 0xD8, 0x31, 0x15]
def sboxRow3 : List Nat := [0x04, 0xC7, 0x23, 0xC3, 0x18, 0x96, 0x05, 0x9A, 0x07, 0x12, 0x80, 0xE2, 0xEB, 0x27, 0xB2, 0x75]
def sboxRow4 : List Nat := [0x09, 0x83, 0x2C, 0x1A, 0x1B, 0x6E, 0x5A, 0xA0, 0x52, 0x3B, 0xD6, 0xB3, 0x29, 0xE3, 0x2F, 0x84]
def sboxRow5 : List Nat := [0x53, 0xD1, 0x00, 0xED, 0x20, 0xFC, 0xB1, 0x5B, 0x6A, 0xCB, 0xBE, 0x39, 0x4A, 0x4C, 0x58, 0xCF]
def sboxRow6 : List Nat := [0xD0, 0xEF, 0xAA, 0xFB, 0x43, 0x4D, 0x33, 0x85, 0x45, 0xF9, 0x02, 0x7F, 0x50, 0x3C, 0x9F, 0xA8]
def sboxRow7 : List Nat := [0x51, 0xA3, 0x40, 0x8F, 0x92, 0x9D, 0x38, 0xF5, 0xBC, 0xB6, 0xDA, 0x21, 0x10, 0xFF, 0xF3, 0xD2]
def sboxRow8 : List Nat := [0xCD, 0x0C, 0x13, 0xEC, 0x5F, 0x97, 0x44, 0x17, 0xC4, 0xA7, 0x7E, 0x3D, 0x64, 0x5D, 0x19, 0x73]
def sboxRow9 : List Nat := [0x60, 0x81, 0x4F, 0xDC, 0x22, 0x2A, 0x90, 0x88, 0x46, 0xEE, 0xB8, 0x14, 0xDE, 0x5E, 0x0B, 0xDB]
def sboxRow10 : List Nat := [0xE0, 0x32, 0x3A, 0x0A, 0x49, 0x06, 0x24, 0x5C, 0xC2, 0xD3, 0xAC, 0x62, 0x91, 0x95, 0xE4, 0x79]
def sboxRow11 : List Nat := [0xE7, 0xC8, 0x37, 0x6D, 0x8D, 0xD5, 0x4E, 0xA9, 0x6C, 0x56, 0xF4, 0xEA, 0x65, 0x7A, 0xAE, 0x08]
def sboxRow12 : List Nat := [0xBA, 0x78, 0x25, 0x2E, 0x1C, 0xA6, 0xB4, 0xC6, 0xE8, 0xDD, 0x74, 0x1F, 0x4B, 0xBD, 0x8B, 0x8A]
def sboxRow13 : List Nat := [0x70, 0x3E, 0xB5, 0x66, 0x48, 0x03, 0xF6, 0x0E, 0x61, 0x35, 0x57, 0xB9, 0x86, 0xC1, 0x1D, 0x9E]
def sboxRow14 : List Nat := [0xE1, 0xF8, 0x98, 0x11, 0x69, 0xD9, 0x8E, 0x94, 0x9B, 0x1E, 0x87, 0xE9, 0xCE, 0x55, 0x28, 0xDF]
def sboxRow15 : List Nat := [0x8C, 0xA1, 0x89, 0x0D, 0xBF, 0xE6, 0x42, 0x68, 0x41, 0x99, 0x2D, 0x0F, 0xB0, 0x54, 0xBB, 0x16]

def sboxRows : List (List Nat) := [sboxRow0, sboxRow1, sboxRow2, sboxRow3, sboxRow4, sboxRow5, sboxRow6, sboxRow7, sboxRow8, sboxRow9, sboxRow10, sboxRow11, sboxRow12, sboxRow13, sboxRow14, sboxRow15]

def sbox (b : Nat) : Nat := (sboxRows.getD (b / 16) []).getD (b % 16) 0

/-- The inverse S-box, by search. -/
def invSbox (b : Nat) : Nat := ((List.range 256).find? fun x => sbox x == b).getD 0

/-- Multiplication by x in GF(2^8). -/
def xtime (b : Nat) : Nat := if b < 128 then 2 * b else (2 * b - 256) ^^^ 0x1B

/-- Multiplication in GF(2^8) by a constant below 16. -/
def gmul (k b : Nat) : Nat :=
  (if k % 2 = 1 then b else 0) ^^^ (if k / 2 % 2 = 1 then xtime b else 0) ^^^
    (if k / 4 % 2 = 1 then xtime (xtime b) else 0) ^^^ (if k / 8 % 2 = 1 then xtime (xtime (xtime b)) else 0)

/-- The 16 bytes of a block, byte 0 first. -/
def blockBytes (n : Nat) : List Nat := (List.range 16).map fun i => n / 256 ^ (15 - i) % 256

/-- The block of 16 bytes. -/
def bytesBlock (bs : List Nat) : Nat := bs.foldl (fun a b => a * 256 + b) 0

def subWord (w : Nat) : Nat :=
  sbox (w / 2 ^ 24 % 256) * 2 ^ 24 + sbox (w / 2 ^ 16 % 256) * 2 ^ 16 + sbox (w / 2 ^ 8 % 256) * 2 ^ 8 + sbox (w % 256)

def rotWord (w : Nat) : Nat := w % 2 ^ 24 * 256 + w / 2 ^ 24

/-- Key expansion: `k` more words after those of `ws` (latest first), `i` words so far, `nk` key words. -/
def expandFrom (nk : Nat) : Nat → Nat → Nat → List Nat → List Nat
  | 0, _, _, ws => ws
  | k + 1, i, rcon, ws =>
    let t := ws.headD 0
    let t' := if i % nk = 0 then subWord (rotWord t) ^^^ (rcon * 2 ^ 24)
      else if nk = 8 ∧ i % nk = 4 then subWord t else t
    expandFrom nk k (i + 1) (if i % nk = 0 then xtime rcon else rcon) ((ws.getD (nk - 1) 0 ^^^ t') :: ws)

/-- Big-endian 32-bit words of a key. -/
def keyWords (key : List Byte) : List Nat := (List.range (key.length / 4)).map fun i => beAt key (4 * i) 4

/-- The round keys as 128-bit blocks, round 0 first: 11 for AES-128, 15 for AES-256. -/
def roundKeys (key : List Byte) : List Nat :=
  let nk := key.length / 4
  let nr := nk + 6
  let ws := (expandFrom nk (4 * (nr + 1) - nk) nk 1 (keyWords key).reverse).reverse
  (List.range (nr + 1)).map fun r =>
    ws.getD (4 * r) 0 * 2 ^ 96 + ws.getD (4 * r + 1) 0 * 2 ^ 64 + ws.getD (4 * r + 2) 0 * 2 ^ 32 + ws.getD (4 * r + 3) 0

/-- ShiftRows on the 16 bytes (column by column). -/
def shiftRows (b : List Nat) : List Nat := (List.range 16).map fun i => b.getD ((i + 4 * (i % 4)) % 16) 0

def invShiftRows (b : List Nat) : List Nat := (List.range 16).map fun i => b.getD ((i + 16 - 4 * (i % 4)) % 16) 0

/-- A column mix by the circulant of four constants. -/
def mixWith (k0 k1 k2 k3 : Nat) (b : List Nat) : List Nat :=
  (List.range 16).map fun i =>
    let c := 4 * (i / 4)
    let g (j : Nat) := b.getD (c + (i + j) % 4) 0
    gmul k0 (g 0) ^^^ gmul k1 (g 1) ^^^ gmul k2 (g 2) ^^^ gmul k3 (g 3)

def mixColumns (b : List Nat) : List Nat := mixWith 2 3 1 1 b
def invMixColumns (b : List Nat) : List Nat := mixWith 14 11 13 9 b

/-- Encryption rounds after the initial key addition. -/
def encRounds : List Nat → Nat → Nat
  | [], st => st
  | [k], st => bytesBlock (shiftRows ((blockBytes st).map sbox)) ^^^ k
  | k :: ks, st => encRounds ks (bytesBlock (mixColumns (shiftRows ((blockBytes st).map sbox))) ^^^ k)

/-- AES encryption of a block under round keys. -/
def aesEnc (rk : List Nat) (x : Nat) : Nat := encRounds rk.tail (x ^^^ rk.headD 0)

/-- Decryption rounds, round keys in reverse order. -/
def decRounds : List Nat → Nat → Nat
  | [], st => st
  | [k], st => bytesBlock ((invShiftRows (blockBytes st)).map invSbox) ^^^ k
  | k :: ks, st => decRounds ks (bytesBlock (invMixColumns (blockBytes (bytesBlock ((invShiftRows (blockBytes st)).map
      invSbox) ^^^ k))))

/-- AES decryption of a block. -/
def aesDec (rk : List Nat) (x : Nat) : Nat := decRounds rk.reverse.tail (x ^^^ rk.reverse.headD 0)

/-! ### GCM -/

/-- Multiplication in GF(2^128) of SP 800-38D, bit 0 of a block most significant. -/
def ghashMul : Nat → Nat → Nat → Nat → Nat
  | 0, _, _, z => z
  | k + 1, x, v, z =>
    ghashMul k x (if v % 2 = 1 then v / 2 ^^^ 0xE1000000000000000000000000000000 else v / 2)
      (if x / 2 ^ k % 2 = 1 then z ^^^ v else z)

/-- The blocks of a byte string, the last one padded with zeros. -/
def padBlocks (bs : List Byte) : List Nat := (List.range (ceilDiv bs.length 16)).map fun i => beAt bs (16 * i) 16

def ghash (h : Nat) (blocks : List Nat) : Nat := blocks.foldl (fun y b => ghashMul 128 (y ^^^ b) h 0) 0

/-- Counter mode from block `ctr` on. -/
def gctr (rk : List Nat) (ctr : Nat) (bs : List Byte) : List Byte :=
  let ks := (List.range (ceilDiv bs.length 16)).flatMap fun i =>
    beBytes 16 (aesEnc rk (ctr / 2 ^ 32 * 2 ^ 32 + (ctr % 2 ^ 32 + i) % 2 ^ 32))
  (bs.zip ks).map fun x => x.1 ^^^ x.2

/-- The tag of a ciphertext under a 96-bit IV. -/
def gcmTag (rk : List Nat) (iv : Nat) (aad ct : List Byte) : List Byte :=
  let h := aesEnc rk 0
  let s := ghash h (padBlocks aad ++ padBlocks ct ++ [aad.length * 8 * 2 ^ 64 + ct.length * 8])
  gctr rk (iv * 2 ^ 32 + 1) (beBytes 16 s)

/-- AES-GCM encryption: ciphertext and 16-byte tag. -/
def gcmSeal (key : List Byte) (iv : Nat) (aad pt : List Byte) : List Byte :=
  let rk := roundKeys key
  let ct := gctr rk (iv * 2 ^ 32 + 2) pt
  ct ++ gcmTag rk iv aad ct

/-- AES-GCM decryption: none on a tag mismatch. -/
def gcmOpen (key : List Byte) (iv : Nat) (aad x : List Byte) : Option (List Byte) :=
  if x.length < 16 then none
  else
    let rk := roundKeys key
    let ct := x.take (x.length - 16)
    if gcmTag rk iv aad ct = x.drop (x.length - 16) then some (gctr rk (iv * 2 ^ 32 + 2) ct) else none

/-! ### CMAC and key unwrap -/

/-- Doubling in GF(2^128) for the CMAC subkeys. -/
def dbl (x : Nat) : Nat := if x < 2 ^ 127 then 2 * x else (2 * x - 2 ^ 128) ^^^ 0x87

/-- AES-CMAC over whole 16-byte blocks: the last block takes K2 when it was padded, else K1 (R372). -/
def cmacBlocks (rk : List Nat) (padded : Bool) : List Nat → Nat → Nat
  | [], y => y
  | [m], y =>
    let k1 := dbl (aesEnc rk 0)
    aesEnc rk (y ^^^ m ^^^ (if padded then dbl k1 else k1))
  | m :: ms, y => cmacBlocks rk padded ms (aesEnc rk (y ^^^ m))

/-- The tag of R372, R373: 0 for a length of 0. -/
def cmacTag (key : List Byte) (padded : Bool) (data : List Byte) : Nat :=
  cmacBlocks (roundKeys key) padded (padBlocks data) 0

/-- KCV of R362: the first three bytes of AES_K(0). -/
def kcvOf (key : List Byte) : Nat := aesEnc (roundKeys key) 0 / 2 ^ 104

/-- Steps of the RFC 3394 unwrap: step `t` down to 1 over `n` semiblocks. -/
def unwrapSteps (rk : List Nat) (n : Nat) : Nat → Nat → List Nat → Nat × List Nat
  | 0, a, r => (a, r)
  | t + 1, a, r =>
    let i := t % n
    let b := aesDec rk ((a ^^^ (t + 1)) * 2 ^ 64 + r.getD i 0)
    unwrapSteps rk n t (b / 2 ^ 64) (r.set i (b % 2 ^ 64))

/-- RFC 3394 unwrap with the default IV: the key, or none when the integrity check fails. -/
def keyUnwrap (kek wrapped : List Byte) : Option (List Byte) :=
  let n := wrapped.length / 8 - 1
  let r := (List.range n).map fun i => beAt wrapped (8 * (i + 1)) 8
  let (a, r') := unwrapSteps (roundKeys kek) n (6 * n) (beAt wrapped 0 8) r
  if a = 0xA6A6A6A6A6A6A6A6 then some (r'.flatMap (beBytes 8)) else none

end Sys2Proof.Machine
end

