-- ==== Sys2Proof/Machine/Parser.lean ====
section
/-! DEFINITION. The parser of spec/07_classification.md: from a frame's first 64 bytes to the 320-bit key (R182 to
R189). -/

namespace Sys2Proof.Machine

/-- What the parser has found (R183 to R186). Numbers of absent fields are 0. -/
structure Parsed where
  outer : Option (Nat × Nat) := none
  inner : Option (Nat × Nat) := none
  /-- MPLS entries read, first to last, and the nibble after the stack. -/
  mpls : List Nat := []
  nibble : Nat := 0
  etype : Nat := 0
  isMpls : Bool := false
  /-- An IPv4 or IPv6 header is announced; its fields are present (it is whole and legal). -/
  v4 : Bool := false
  v6 : Bool := false
  l3 : Bool := false
  sip : Nat := 0
  dip : Nat := 0
  proto : Nat := 0
  /-- IPv4: DSCP and ECN, TTL, total length. IPv6: traffic class, hop limit, flow label. -/
  tos : Nat := 0
  ttl : Nat := 0
  totlen : Nat := 0
  flow : Nat := 0
  sport : Option Nat := none
  dport : Option Nat := none
  tflags : Option Nat := none
  frag : Bool := false
  nonfirst : Bool := false
  v6ext : Bool := false
  unkEt : Bool := false
  tunnel : Bool := false
  trunc : Bool := false
  ipv4opt : Bool := false
  err : Bool := false
  deriving DecidableEq, Repr

/-- The window holds bytes `[o, o + k)`: inside the first 64 bytes and the frame (R182). -/
def inWin (len o k : Nat) : Bool := decide (o + k ≤ min 64 len)

/-- One L4 field of `k` bytes at `o`: present, or absent with TRUNC (R184). -/
def l4Field (d : List Byte) (o k : Nat) : Option Nat × Bool :=
  if inWin d.length o k then (some (beAt d o k), false) else (none, true)

/-- The L4 header at `o` of protocol `pr` (R183, R184): ports, and for TCP the flag byte. -/
def parseL4 (d : List Byte) (o pr : Nat) (x : Parsed) : Parsed :=
  if pr = 6 ∨ pr = 17 ∨ pr = 132 then
    let sp := l4Field d o 2
    let dp := l4Field d (o + 2) 2
    let fl := if pr = 6 then l4Field d (o + 13) 1 else (none, false)
    { x with sport := sp.1, dport := dp.1, tflags := fl.1, trunc := x.trunc || sp.2 || dp.2 || fl.2 }
  else x

/-- An IPv4 header at `o` (R183 to R186). -/
def parseV4 (d : List Byte) (o : Nat) (x : Parsed) : Parsed :=
  let x := { x with v4 := true }
  if !inWin d.length o 20 then { x with trunc := true }
  else
    let b0 := beAt d o 1
    let ihl := b0 % 16
    let tl := beAt d (o + 2) 2
    let fr := beAt d (o + 6) 2
    let pr := beAt d (o + 9) 1
    if b0 / 16 ≠ 4 ∨ ihl < 5 ∨ tl < 4 * ihl then { x with err := true }
    else
      let off := fr % 8192
      let isFrag := bitOf fr 13 || decide (off ≠ 0)
      let x := { x with l3 := true, sip := beAt d (o + 12) 4, dip := beAt d (o + 16) 4, proto := pr,
                        tos := beAt d (o + 1) 1, ttl := beAt d (o + 8) 1, totlen := tl, ipv4opt := decide (ihl > 5),
                        frag := isFrag, nonfirst := decide (off ≠ 0),
                        tunnel := decide (pr = 4 ∨ pr = 41 ∨ pr = 47) }
      if isFrag then x else parseL4 d (o + 4 * ihl) pr x

/-- Next-header values that leave the L4 fields absent (R185). -/
def v6ExtHeaders : List Nat := [0, 43, 44, 50, 51, 60, 135, 139, 140, 253, 254]

/-- An IPv6 header at `o` (R183 to R186). -/
def parseV6 (d : List Byte) (o : Nat) (x : Parsed) : Parsed :=
  let x := { x with v6 := true }
  if !inWin d.length o 40 then { x with trunc := true }
  else
    let w := beAt d o 4
    let nh := beAt d (o + 6) 1
    if w / 2 ^ 28 ≠ 6 then { x with err := true }
    else
      let x := { x with l3 := true, sip := beAt d (o + 8) 16, dip := beAt d (o + 24) 16, proto := nh,
                        tos := bitsOf w 20 8, ttl := beAt d (o + 7) 1, flow := w % 2 ^ 20,
                        v6ext := v6ExtHeaders.contains nh, tunnel := decide (nh = 4 ∨ nh = 41 ∨ nh = 47) }
      if x.v6ext then x else parseL4 d (o + 40) nh x

/-- What follows an MPLS entry with S = 1 at `o` (R183): the nibble after the stack. -/
def parseBelow (d : List Byte) (o : Nat) (x : Parsed) : Parsed :=
  if !inWin d.length o 1 then { x with trunc := true }
  else
    let nb := beAt d o 1 / 16
    let x := { x with nibble := nb }
    if nb = 4 then parseV4 d o x else if nb = 6 then parseV6 d o x else x

/-- The MPLS stack at `o`, `k` entries still allowed (R183: at most 3). -/
def parseMpls (d : List Byte) : Nat → Nat → Parsed → Parsed
  | 0, _, x => x
  | k + 1, o, x =>
    if !inWin d.length o 4 then { x with trunc := true }
    else
      let e := beAt d o 4
      let x := { x with mpls := x.mpls ++ [e] }
      if bitOf e 8 then parseBelow d (o + 4) x else parseMpls d k (o + 4) x

/-- The EtherType at `o`, after the tags (R183, R185). -/
def parseType (d : List Byte) (o : Nat) (x : Parsed) : Parsed :=
  if !inWin d.length o 2 then { x with trunc := true }
  else
    let et := beAt d o 2
    let x := { x with etype := et }
    if et = 0x0800 then parseV4 d (o + 2) x
    else if et = 0x86DD then parseV6 d (o + 2) x
    else if et = 0x8847 ∨ et = 0x8848 then parseMpls d 3 (o + 2) { x with isMpls := true }
    else { x with unkEt := true }

/-- The whole parse of a frame (R182 to R186), before the tunnel ports. -/
def parse (d : List Byte) : Parsed :=
  if d.length < 14 then { err := true, trunc := true }
  else
    let t0 := beAt d 12 2
    if t0 = 0x88A8 ∨ t0 = 0x8100 ∨ t0 = 0x9100 then
      if !inWin d.length 12 4 then { trunc := true }
      else
        let x : Parsed := { outer := some (t0, beAt d 14 2) }
        if inWin d.length 16 2 && beAt d 16 2 == 0x8100 then
          if !inWin d.length 16 4 then { x with trunc := true }
          else parseType d 20 { x with inner := some (0x8100, beAt d 18 2) }
        else parseType d 16 x
    else parseType d 12 {}

/-- The tunnel flag by UDP destination port (R185): an enabled CLS_TUN_PORT_n equals the port. -/
def tunnelPort (s : State) (x : Parsed) : Bool :=
  match x.dport with
  | none => false
  | some p => x.l3 && x.proto == 17 && (List.range 4).any fun n =>
      s.flag F.CLS_TUN_PORT_EN (4 * n) && s.f F.CLS_TUN_PORT_PORT (4 * n) == p

/-- FLAGS of the key head (R187). -/
def keyFlags (s : State) (x : Parsed) : Nat :=
  let b (c : Bool) (i : Nat) := if c then 2 ^ i else 0
  b x.frag 0 + b x.nonfirst 1 + b x.v6ext 2 + b x.unkEt 3 + b (x.tunnel || tunnelPort s x) 4 + b x.trunc 5
    + b x.ipv4opt 6 + b x.err 7

/-- ABSENT of the key head (R187). -/
def keyAbsent (short : Bool) (x : Parsed) : Nat :=
  let b (c : Bool) (i : Nat) := if c then 2 ^ i else 0
  if short then 0x7FF
  else b x.outer.isNone 0 + b x.inner.isNone 1 + b (decide (x.mpls.length < 1)) 2 + b (decide (x.mpls.length < 2)) 3
    + b (decide (x.mpls.length < 3)) 4 + b (!x.l3) 5 + b (!x.l3) 6 + b (!x.l3) 7 + b x.sport.isNone 8
    + b x.dport.isNone 9 + b x.tflags.isNone 10

/-- The body a frame takes (R189). -/
def keyBody (s : State) (src : Nat) (x : Parsed) : Nat :=
  let v4b := let c := s.f F.CLS_PROF_IP4_BODY (4 * src); if c = 0 ∨ c = 1 then c else 1
  let v6b := let c := s.f F.CLS_PROF_IP6_BODY (4 * src); if c = 0 ∨ c = 2 ∨ c = 3 then c else 3
  let mb := let c := s.f F.CLS_PROF_MPLS_BODY (4 * src); if c = 0 ∨ c = 4 then c else 4
  if x.err then 0
  else if x.isMpls && !(s.flag F.CLS_PROF_MPLS_INNER (4 * src) && (x.v4 || x.v6)) then mb
  else if x.v4 then v4b else if x.v6 then v6b else 0

/-- Bits [255:0] of the key (R188). -/
def keyBits (d : List Byte) (body : Nat) (x : Parsed) : Nat :=
  let da := if d.length < 14 then 0 else beAt d 0 6
  let sa := if d.length < 14 then 0 else beAt d 6 6
  let oTci := (x.outer.getD (0, 0)).2
  let iTci := (x.inner.getD (0, 0)).2
  let vid (t : Nat) := t % 4096
  let pcp (t : Nat) := t / 8192
  let dei (t : Nat) := bitsOf t 12 1
  let m (i : Nat) := x.mpls.getD i 0
  let label := m 0 / 4096
  let sp := x.sport.getD 0
  let dp := x.dport.getD 0
  let fl := x.tflags.getD 0
  match body with
  | 1 => da * 2 ^ 208 + vid oTci * 2 ^ 196 + pcp oTci * 2 ^ 193 + dei oTci * 2 ^ 192 + x.sip * 2 ^ 160 + x.dip * 2 ^ 128
      + x.proto * 2 ^ 120 + x.tos * 2 ^ 112 + x.ttl * 2 ^ 104 + sp * 2 ^ 88 + dp * 2 ^ 72 + fl * 2 ^ 64
      + vid iTci * 2 ^ 52 + pcp iTci * 2 ^ 49 + x.totlen * 2 ^ 32 + label * 2 ^ 12
  | 2 => x.sip * 2 ^ 128 + x.dip
  | 3 => x.dip * 2 ^ 128 + x.proto * 2 ^ 120 + x.tos * 2 ^ 112 + x.flow * 2 ^ 92 + x.ttl * 2 ^ 84 + sp * 2 ^ 68
      + dp * 2 ^ 52 + fl * 2 ^ 44 + vid oTci * 2 ^ 32 + pcp oTci * 2 ^ 29 + dei oTci * 2 ^ 28 + label * 2 ^ 8
  | 4 => da * 2 ^ 208 + vid oTci * 2 ^ 196 + pcp oTci * 2 ^ 193 + dei oTci * 2 ^ 192 + m 0 * 2 ^ 160 + m 1 * 2 ^ 128
      + m 2 * 2 ^ 96 + x.nibble * 2 ^ 92
  | _ => da * 2 ^ 208 + sa * 2 ^ 160 + oTci * 2 ^ 144 + iTci * 2 ^ 128 + (x.outer.getD (0, 0)).1 * 2 ^ 112
      + (x.inner.getD (0, 0)).1 * 2 ^ 96

/-- The 320-bit key of a frame (R187, R188), with its FLAGS. -/
def frameKey (s : State) (x : Frame) : BitVec 320 × Nat :=
  let p := parse x.data
  let fl := keyFlags s p
  let body := keyBody s x.src p
  let ab := keyAbsent (decide (x.data.length < 14)) p
  let head := x.src * 2 ^ 61 + (if x.pass ≠ 0 then 2 ^ 60 else 0) + x.port % 2 ^ 20 * 2 ^ 40 + body * 2 ^ 36
    + fl * 2 ^ 28 + ab * 2 ^ 16 + p.etype
  (BitVec.ofNat 320 (head * 2 ^ 256 + keyBits x.data body p), fl)

end Sys2Proof.Machine
end

