-- ==== Sys2Proof/Machine/Classifier.lean ====
section
/-! DEFINITION. The classifier of spec/07_classification.md: tables and lookup (R190 to R196), commands (R197 to R200),
versions (R201 to R203). -/

namespace Sys2Proof.Machine

/-- Counter i of the classifier (0xA0_0800 + 8 * i). -/
def clsCnt (i : Nat) : Nat := 0xA00800 + 8 * i

/-! ### Fields of an action word (R193) -/

def actField (a : BitVec 64) (lo w : Nat) : Nat := bitsOf a.toNat lo w
def actEmProf (a : BitVec 64) : Nat := actField a 26 3
def actEmFirst (a : BitVec 64) : Bool := bitOf a.toNat 25
def actProg (a : BitVec 64) : Nat := actField a 17 8
def actCountEn (a : BitVec 64) : Bool := bitOf a.toNat 16
def actCapture (a : BitVec 64) : Nat := actField a 29 4
def actPolEn (a : BitVec 64) : Bool := bitOf a.toNat 33
def actPolicer (a : BitVec 64) : Nat := actField a 34 12

namespace State

/-- The ternary table is in versioned mode (R200). -/
def tcVersioned (s : State) : Bool := s.flag F.CLS_CFG_TC_MODE
def emVersioned (s : State) : Bool := s.flag F.CLS_CFG_EM_MODE

def tcAt (s : State) (copy i : Nat) : TcEntry := sget (fun _ => {}) s.tc (copy * 2 ^ 18 + i)
def emAt (s : State) (copy i : Nat) : EmEntry := sget (fun _ => {}) s.em (copy * 2 ^ 18 + i)
def setTc (s : State) (copy i : Nat) (e : TcEntry) : State :=
  { s with tc := sset (fun _ => {}) s.tc (copy * 2 ^ 18 + i) e }
def setEm (s : State) (copy i : Nat) (e : EmEntry) : State :=
  { s with em := sset (fun _ => {}) s.em (copy * 2 ^ 18 + i) e }

/-- CLS_VER_STAT.CUR. -/
def verCur (s : State) : Nat := s.f F.CLS_VER_STAT_CUR

/-- The table copy that holds a version (R201): the live copy for CUR, the other one for the old version. -/
def verCopyOf (s : State) (v : Nat) : Nat := if v = s.verCur then s.verCopy else 1 - s.verCopy

/-- The copy a lookup with version tag `v` uses: copy 0 of a per-entry table. -/
def tcCopy (s : State) (v : Nat) : Nat := if s.tcVersioned then s.verCopyOf v else 0
def emCopy (s : State) (v : Nat) : Nat := if s.emVersioned then s.verCopyOf v else 0

end State

/-- A ternary entry matches a key (R190). -/
def tcMatches (e : TcEntry) (k : BitVec 320) : Bool := e.valid && (k &&& e.mask) == (e.key &&& e.mask)

/-- The matching entry of lowest index of copy `c` (R190): entries are listed by rising key. -/
def tcWinner (c : Nat) (k : BitVec 320) (skip : List Nat) : SMap TcEntry → Option (Nat × TcEntry)
  | [] => none
  | (i, e) :: m =>
    if i / 2 ^ 18 = c ∧ tcMatches e k ∧ !skip.contains (i % 2 ^ 18) then some (i % 2 ^ 18, e) else tcWinner c k skip m

namespace State

/-- CLS_EM_MASK of profile `p` (1 to 4) as 320 bits. -/
def emMask (s : State) (p : Nat) : BitVec 320 :=
  BitVec.ofNat 320 ((List.range 10).foldr (fun k a => a * 2 ^ 32 + (s.reg (0xA00100 + 0x40 * (p - 1) + 4 * k)).toNat) 0)

/-- The two buckets of a masked key under profile `p` (R191, R200). -/
def emBuckets (s : State) (p : Nat) (k : BitVec 320) : Nat × Nat :=
  let c := crc32c (BitVec.ofNat 8 p :: beBytes 40 k.toNat)
  let n := if s.emVersioned then 16384 else 32768
  (c % 2 ^ 15 % n, c / 2 ^ 15 % 2 ^ 15 % n)

/-- The hits of an exact lookup among the 16 candidate entries, lower index first (R191). -/
def emHits (s : State) (copy p : Nat) (k : BitVec 320) (skip : List Nat) : List (Nat × EmEntry) :=
  let b := s.emBuckets p k
  let idx := (List.range 8).map (8 * min b.1 b.2 + ·) ++
    (if b.1 = b.2 then [] else (List.range 8).map (8 * max b.1 b.2 + ·))
  (idx.map fun i => (i, s.emAt copy i)).filter fun x =>
    x.2.valid && x.2.prof == p && x.2.key == k && !skip.contains x.1

end State

/-- The answer of a lookup (R192, R194). -/
structure Lookup where
  tcHit : Bool := false
  emDone : Bool := false
  emHit : Bool := false
  unc : Bool := false
  effEm : Bool := false
  tcIndex : Nat := 0
  emIndex : Nat := 0
  eff : BitVec 64 := 0
  tcAct : BitVec 64 := 0
  emAct : BitVec 64 := 0
  deriving DecidableEq, Repr

namespace State

/-- CLS_MISS_ACT of a source. -/
def missAct (s : State) (src : Nat) : BitVec 64 :=
  BitVec.ofNat 64 ((s.reg (0xA00040 + 8 * src)).toNat + 2 ^ 32 * (s.reg (0xA00044 + 8 * src)).toNat)

/-- An uncorrectable entry met by a lookup (R196): its VALID is cleared, event 260. -/
def clsUnc (s : State) (exact : Bool) (copy i : Nat) : State :=
  let s1 := if exact then s.setEm copy i { s.emAt copy i with valid := false }
    else s.setTc copy i { s.tcAt copy i with valid := false }
  let c := s1.takeFree 3
  (c.2.memUeChip (if exact then 97 else 96) c.1 0).raise 260 1 0 (i + (if exact then 2 ^ 18 else 0) + copy * 2 ^ 19)

def clsUncs (s : State) (exact : Bool) (copy : Nat) : List Nat → State
  | [] => s
  | i :: is => (s.clsUnc exact copy i).clsUncs exact copy is

/-- The duplicate report of R191: event 261 once for a pair of entries that both hit. -/
def clsDup (s : State) : List (Nat × EmEntry) → State
  | (i, _) :: (j, _) :: _ =>
    if s.emDup.contains (i, j) then s else { s with emDup := (i, j) :: s.emDup }.raise 261 1 0 j
  | _ => s

/-- A lookup of key `k` with version tag `v` and miss action of source `src`; `force` names an exact profile in place
of T.EM_PROF (R205); `unc` are the entries met with an uncorrectable error (index, exact table), each absent from the lookup,
cleared and reported (R190 to R192, R196). -/
def lookup (s : State) (k : BitVec 320) (v src force : Nat) (unc : List (Nat × Bool)) : Lookup × State :=
  let tcSkip := (unc.filter fun u => !u.2).map Prod.fst
  let emSkip := (unc.filter fun u => u.2).map Prod.fst
  let tcOn := s.flag F.CLS_CFG_TC_EN
  let w := if tcOn then tcWinner (s.tcCopy v) k tcSkip s.tc else none
  let s1 := if tcOn then s.clsUncs false (s.tcCopy v) tcSkip else s
  let t := match w with | some x => x.2.act | none => s.missAct src
  let s2 := if w.isSome then s1.bump (clsCnt 7) else s1.bump (clsCnt 8)
  let p := if force ≠ 0 then force else actEmProf t
  let doEm := s.flag F.CLS_CFG_EM_EN && decide (1 ≤ p) && decide (p ≤ 4)
  let hits := if doEm then s.emHits (s.emCopy v) p (k &&& s.emMask p) emSkip else []
  let s3 := if doEm then (s2.bump (clsCnt 9)).bumpIf (!hits.isEmpty) (clsCnt 10) else s2
  let s4 := s3.clsDup hits
  let s5 := if doEm then s4.clsUncs true (s.emCopy v) emSkip else s4
  let met := (tcOn && !tcSkip.isEmpty) || (doEm && !emSkip.isEmpty)
  let s5 := s5.bumpIf met (clsCnt 13)
  let ea := match hits with | x :: _ => x.2.act | [] => 0
  let effEm := !hits.isEmpty && actEmFirst t && !met
  ({ tcHit := w.isSome, emDone := doEm, emHit := !hits.isEmpty, unc := met, effEm := effEm,
     tcIndex := (w.map (·.1)).getD 0, emIndex := (hits.head?.map (·.1)).getD 0,
     eff := if met then s.missAct src else if effEm then ea else t, tcAct := t, emAct := ea }, s5)

end State

/-- Word 0 of the classifier result (R194). -/
def resWord0 (l : Lookup) (pass version : Nat) : Nat :=
  let b (c : Bool) (i : Nat) := if c then 2 ^ i else 0
  b l.tcHit 31 + b l.emDone 30 + b l.emHit 29 + b l.unc 28 + b l.effEm 27 + pass % 8 * 2 ^ 24 + version % 256 * 2 ^ 16
    + l.tcIndex % 2 ^ 14

/-- The 18 words of the classifier result (R194). -/
def resWords (l : Lookup) (k : BitVec 320) (pass version : Nat) : List Word :=
  let lo (a : BitVec 64) := BitVec.ofNat 32 a.toNat
  let hi (a : BitVec 64) := BitVec.ofNat 32 (a.toNat / 2 ^ 32)
  [BitVec.ofNat 32 (resWord0 l pass version), BitVec.ofNat 32 l.emIndex, lo l.eff, hi l.eff, lo l.tcAct, hi l.tcAct,
    lo l.emAct, hi l.emAct] ++ (List.range 10).map fun i => BitVec.ofNat 32 (k.toNat / 2 ^ (32 * i))

/-- The effective action recorded with a frame (EFF_ACT of its result). -/
def frameAct (x : Frame) : BitVec 64 :=
  BitVec.ofNat 64 ((x.res.getD 2 0).toNat + 2 ^ 32 * (x.res.getD 3 0).toNat)

namespace State

/-! ### Versions (R201 to R203) -/

/-- A frame in flight begins to hold the current version (R201). -/
def verHold (s : State) : State := s.satF F.CLS_INFL_CUR_COUNT 0 1

/-- A frame gives up the version it holds (R201, R218, R224, R232). -/
def verRelease (s : State) (x : Frame) : State :=
  match x.ver with
  | none => s
  | some v =>
    if v = s.verCur then s.setF F.CLS_INFL_CUR_COUNT 0 (s.f F.CLS_INFL_CUR_COUNT - 1)
    else if s.flag F.CLS_VER_STAT_OLD_LIVE && s.f F.CLS_VER_STAT_OLD == v then
      s.setF F.CLS_INFL_OLD_COUNT 0 (s.f F.CLS_INFL_OLD_COUNT - 1)
    else s

/-- The requester named by VER_OWNER (R202). -/
def verOwner (s : State) (q : Req) : Bool := s.f F.CLS_CFG_VER_OWNER == reqCode q

/-- The old version stops being live (R203): event 259, and the copy into the staging copy starts. -/
def verDrain (s : State) : State :=
  let old := s.f F.CLS_VER_STAT_OLD
  ((s.setFlag F.CLS_VER_STAT_OLD_LIVE 0 false).setFlag F.CLS_VER_STAT_SYNC_BUSY 0 true).raise 259 1 0 old

/-- The result of a requester's commit (R202). -/
def verResult (s : State) (q : Req) (r : Nat) : State := s.setReg (bankKey q 0xA00304) (BitVec.ofNat 32 r)

/-- Event 257: a commit refused. -/
def commitRefused (s : State) (q : Req) (owner : Bool) : State :=
  s.raise 257 1 0 (s.verCur + (if s.flag F.CLS_VER_STAT_OLD_LIVE then 256 else 0)
    + (if s.flag F.CLS_VER_STAT_STAGE_READY then 0 else 512) + (if owner then 1024 else 0) + reqCode q * 65536)

/-- COMMIT (R202): refused for OWNER or BUSY, or the staging copies go live as version CUR + 1; with no frame in flight
the old version drains at once (R203). -/
def commit (s : State) (q : Req) : State :=
  if !s.verOwner q then (s.verResult q 3).commitRefused q true
  else if s.flag F.CLS_VER_STAT_OLD_LIVE || !s.flag F.CLS_VER_STAT_STAGE_READY then
    (s.verResult q 2).commitRefused q false
  else
    let cur := s.verCur
    let n := s.f F.CLS_INFL_CUR_COUNT
    let s1 := ((((s.verResult q 1).setF F.CLS_VER_STAT_CUR 0 ((cur + 1) % 256)).setF F.CLS_VER_STAT_OLD 0 cur).setFlag
      F.CLS_VER_STAT_OLD_LIVE 0 true).setFlag F.CLS_VER_STAT_STAGE_READY 0 false
    let s2 := (s1.setF F.CLS_INFL_OLD_COUNT 0 n).setF F.CLS_INFL_CUR_COUNT 0 0
    let s3 := { s2 with verCopy := 1 - s2.verCopy, commitTick := s2.tick, drainTold := false }.raise 256 1 0
      ((cur + 1) % 256)
    if n = 0 then s3.verDrain else s3

/-- The copy of the current version into the staging copy has ended (R203): hit counters are not copied. -/
def stageCopy (s : State) : State :=
  let c := s.verCopy
  let tc' := if s.tcVersioned then
      s.tc.foldl (fun m e => if e.1 / 2 ^ 18 = c then sset (fun _ => {}) m ((1 - c) * 2 ^ 18 + e.1 % 2 ^ 18)
        { e.2 with hits := 0 } else m) (sdrop (fun i => i / 2 ^ 18 == 1 - c) s.tc)
    else s.tc
  let em' := if s.emVersioned then
      s.em.foldl (fun m e => if e.1 / 2 ^ 18 = c then sset (fun _ => {}) m ((1 - c) * 2 ^ 18 + e.1 % 2 ^ 18) e.2
        else m) (sdrop (fun i => i / 2 ^ 18 == 1 - c) s.em)
    else s.em
  { s with tc := tc', em := em' }

/-! ### Commands (R197 to R200) -/

/-- A staged 320-bit value of a requester. -/
def stagedKey (s : State) (q : Req) (base : Nat) : BitVec 320 :=
  BitVec.ofNat 320 ((List.range 10).foldr (fun k a => a * 2 ^ 32 + (s.reg (bankKey q (base + 4 * k))).toNat) 0)

/-- The staged action word of a requester. -/
def stagedAct (s : State) (q : Req) : BitVec 64 :=
  BitVec.ofNat 64 ((s.reg (bankKey q 0xA00280)).toNat + 2 ^ 32 * (s.reg (bankKey q 0xA00284)).toNat)

/-- Store a 320-bit value into a requester's staging words. -/
def stageKey (s : State) (q : Req) (base : Nat) (k : BitVec 320) : State :=
  (List.range 10).foldl (fun s i => s.setReg (bankKey q (base + 4 * i)) (BitVec.ofNat 32 (k.toNat / 2 ^ (32 * i)))) s

/-- A command completes (R197): DONE and RESULT in the requester's status, event 262 on anything but OK. -/
def clsDone (s : State) (q : Req) (op res : Nat) : State :=
  let w := (s.reg (bankKey q 0xA00294)).toNat
  let w' := w - bitsOf w 0 4 - bitsOf w 30 1 * 2 ^ 30 + 2 ^ 30 + res
  let s1 := s.setReg (bankKey q 0xA00294) (BitVec.ofNat 32 w')
  s1.raiseIf (res != 0) 262 1 0 (op + 16 * res + 256 * reqCode q)

/-- The table is versioned. -/
def tabVersioned (s : State) (exact : Bool) : Bool := if exact then s.emVersioned else s.tcVersioned

/-- Usable entries of a table (R190, R191, R200). -/
def tabSize (s : State) (exact : Bool) : Nat :=
  if exact then (if s.emVersioned then 131072 else 262144) else (if s.tcVersioned then 8192 else 16384)

/-- The copy a command acts on: the staging copy of a versioned table, the one copy of a per-entry table; a READ with
COPY = 0 of a versioned table shows the live copy. -/
def cmdCopy (s : State) (exact copy : Bool) : Nat :=
  if s.tabVersioned exact then (if copy then 1 - s.verCopy else s.verCopy) else 0

/-- The refusal of a change to a table (R197): RANGE, then MODE, then OWNER, then BUSY; 0 when allowed. -/
def changeRefused (s : State) (q : Req) (exact copy : Bool) (prof index : Nat) (needProf : Bool) : Nat :=
  if index ≥ s.tabSize exact || (needProf && exact && (prof < 1 || prof > 4)) then 2
  else if s.tabVersioned exact != copy then 3
  else if s.tabVersioned exact && !s.verOwner q then 6
  else if s.tabVersioned exact && !s.flag F.CLS_VER_STAT_STAGE_READY then 1
  else 0

/-- A command is written (R197): discarded with OVERRUN while the requester's last one is in progress; one that reaches a
classifier held in reset (R359) stays in progress. -/
def clsTakeCmd (s : State) (q : Req) (f : State → State) : State :=
  let a := bankKey q 0xA00294
  if bitOf (s.reg a).toNat 31 then s.setReg a (s.reg a ||| 0x20000000#32)
  else if s.groupHeld 96 || s.groupHeld 97 then s.setReg a (s.reg a ||| 0x80000000#32)
  else f s

/-- An entry of a table changes: a write that a flip mask may wait for (R360). -/
def tabFlip (s : State) (exact : Bool) : State := s.flipChip (if exact then 97 else 96)

/-- WRITE (R197 op 1). -/
def clsWriteOp (s : State) (q : Req) (exact copy : Bool) (prof index : Nat) : State :=
  match s.changeRefused q exact copy prof index true with
  | 0 =>
    let c := s.cmdCopy exact copy
    let s1 := if exact then
        s.setEm c index { valid := false, prof := prof, key := s.stagedKey q 0xA00200, act := s.stagedAct q }
      else
        s.setTc c index { valid := false, key := s.stagedKey q 0xA00200, mask := s.stagedKey q 0xA00240,
                          act := s.stagedAct q, hits := 0 }
    (s1.tabFlip exact).clsDone q 1 0
  | r + 1 => s.clsDone q 1 (r + 1)

/-- SETVALID (R197 op 2): an exact entry must lie in one of its buckets and its key inside its mask. -/
def clsSetvalidOp (s : State) (q : Req) (exact copy : Bool) (index : Nat) : State :=
  match s.changeRefused q exact copy 0 index false with
  | 0 =>
    let c := s.cmdCopy exact copy
    if exact then
      let e := s.emAt c index
      let b := s.emBuckets e.prof e.key
      if e.prof < 1 ∨ e.prof > 4 then s.clsDone q 2 2
      else if index / 8 ≠ b.1 ∧ index / 8 ≠ b.2 then s.clsDone q 2 4
      else if e.key &&& ~~~ (s.emMask e.prof) ≠ 0 then s.clsDone q 2 5
      else ((s.setEm c index { e with valid := true }).tabFlip true).clsDone q 2 0
    else ((s.setTc c index { s.tcAt c index with valid := true }).tabFlip false).clsDone q 2 0
  | r + 1 => s.clsDone q 2 (r + 1)

/-- CLEARVALID (R197 op 3). -/
def clsClearvalidOp (s : State) (q : Req) (exact copy : Bool) (index : Nat) : State :=
  match s.changeRefused q exact copy 0 index false with
  | 0 =>
    let c := s.cmdCopy exact copy
    ((if exact then s.setEm c index { s.emAt c index with valid := false }
      else s.setTc c index { s.tcAt c index with valid := false }).tabFlip exact).clsDone q 3 0
  | r + 1 => s.clsDone q 3 (r + 1)

/-- READ (R197 op 4): the entry into the requester's staging words and status. -/
def clsReadOp (s : State) (q : Req) (exact copy : Bool) (index : Nat) : State :=
  if index ≥ s.tabSize exact then s.clsDone q 4 2
  else if copy && !s.tabVersioned exact then s.clsDone q 4 3
  else
    let c := s.cmdCopy exact copy
    let e := s.emAt c index
    let t := s.tcAt c index
    let act := if exact then e.act else t.act
    let hits := if exact then 0 else t.hits
    let valid := if exact then e.valid else t.valid
    let prof := if exact then e.prof else 0
    let s1 := s.stageKey q 0xA00200 (if exact then e.key else t.key)
    let s2 := if exact then s1 else s1.stageKey q 0xA00240 t.mask
    let s3 := (s2.setReg (bankKey q 0xA00280) (BitVec.ofNat 32 act.toNat)).setReg (bankKey q 0xA00284)
      (BitVec.ofNat 32 (act.toNat / 2 ^ 32))
    let s4 := (s3.setReg (bankKey q 0xA00288) (BitVec.ofNat 32 hits)).setReg (bankKey q 0xA0028C)
      (BitVec.ofNat 32 (hits / 2 ^ 32))
    let w := (s4.reg (bankKey q 0xA00294)).toNat
    let w' := w - bitsOf w 8 4 * 256 + (if valid then 256 else 0) + prof * 512
    (s4.setReg (bankKey q 0xA00294) (BitVec.ofNat 32 w')).clsDone q 4 0

/-- HASH (R197 op 5): the two buckets of the staged key masked by profile PROF. -/
def clsHashOp (s : State) (q : Req) (prof : Nat) : State :=
  if prof < 1 ∨ prof > 4 then s.clsDone q 5 2
  else
    let b := s.emBuckets prof (s.stagedKey q 0xA00200 &&& s.emMask prof)
    (s.setReg (bankKey q 0xA00298) (BitVec.ofNat 32 (b.1 + 65536 * b.2))).clsDone q 5 0

/-- A write of CLS_CFG (R200, R202): a table's mode changes only while its enable is 0, and the change empties it;
VER_OWNER is written by the host only. -/
def clsCfgWrite (s : State) (q : Req) (v : Word) : State :=
  let owner := if q = Req.host then F.CLS_CFG_VER_OWNER.of v else s.f F.CLS_CFG_VER_OWNER
  let tcm := if s.flag F.CLS_CFG_TC_EN then s.f F.CLS_CFG_TC_MODE else F.CLS_CFG_TC_MODE.of v
  let emm := if s.flag F.CLS_CFG_EM_EN then s.f F.CLS_CFG_EM_MODE else F.CLS_CFG_EM_MODE.of v
  let s1 := if tcm ≠ s.f F.CLS_CFG_TC_MODE then { s with tc := [] } else s
  let s2 := if emm ≠ s.f F.CLS_CFG_EM_MODE then { s1 with em := [], emDup := [] } else s1
  (((((s2.setF F.CLS_CFG_VER_OWNER 0 owner).setF F.CLS_CFG_MAX_RECIRC 0 (F.CLS_CFG_MAX_RECIRC.of v)).setF
    F.CLS_CFG_TC_MODE 0 tcm).setF F.CLS_CFG_EM_MODE 0 emm).setF F.CLS_CFG_TC_EN 0 (F.CLS_CFG_TC_EN.of v)).setF
    F.CLS_CFG_EM_EN 0 (F.CLS_CFG_EM_EN.of v)

/-- A CLS_STG_CMD write (R197): dispatched by OP; an unknown code completes with OP. -/
def clsCommand (s : State) (q : Req) (v : Word) : State :=
  let n := v.toNat
  let exact := bitOf n 27
  let copy := bitOf n 26
  let prof := bitsOf n 18 3
  let index := bitsOf n 0 18
  s.clsTakeCmd q fun s => match bitsOf n 28 4 with
  | 1 => s.clsWriteOp q exact copy prof index
  | 2 => s.clsSetvalidOp q exact copy index
  | 3 => s.clsClearvalidOp q exact copy index
  | 4 => s.clsReadOp q exact copy index
  | 5 => s.clsHashOp q prof
  | op => s.clsDone q op 7

end State

/-! ### The commands -/

/-- CLS_WRITE (R197). -/
def execClsWrite (q : Req) (exact copy : Bool) (prof : Fin 8) (index : Fin 262144) (s : State) :
    Host.Outcome State Fault Refusal :=
  .next (s.guardW q 0xA00290 fun s => s.clsTakeCmd q fun s => s.clsWriteOp q exact copy prof.val index.val)

/-- CLS_SETVALID (R197). -/
def execClsSetvalid (q : Req) (exact copy : Bool) (index : Fin 262144) (s : State) :
    Host.Outcome State Fault Refusal :=
  .next (s.guardW q 0xA00290 fun s => s.clsTakeCmd q fun s => s.clsSetvalidOp q exact copy index.val)

/-- CLS_CLEARVALID (R197). -/
def execClsClearvalid (q : Req) (exact copy : Bool) (index : Fin 262144) (s : State) :
    Host.Outcome State Fault Refusal :=
  .next (s.guardW q 0xA00290 fun s => s.clsTakeCmd q fun s => s.clsClearvalidOp q exact copy index.val)

/-- CLS_READ (R197). -/
def execClsRead (q : Req) (exact copy : Bool) (index : Fin 262144) (s : State) :
    Host.Outcome State Fault Refusal :=
  .next (s.guardW q 0xA00290 fun s => s.clsTakeCmd q fun s => s.clsReadOp q exact copy index.val)

/-- CLS_HASH (R197). -/
def execClsHash (q : Req) (prof : Fin 8) (s : State) : Host.Outcome State Fault Refusal :=
  .next (s.guardW q 0xA00290 fun s => s.clsTakeCmd q fun s => s.clsHashOp q prof.val)

/-- CLS_MODE_CHANGE (R200): a write of CLS_CFG. -/
def execClsModeChange (q : Req) (v : Word) (s : State) : Host.Outcome State Fault Refusal :=
  .next (s.guardW q 0xA00000 fun s => s.clsCfgWrite q v)

/-- COMMIT (R202). -/
def execClsCommit (q : Req) (s : State) : Host.Outcome State Fault Refusal := .next (s.guardW q 0xA00300 fun s => s.commit q)

/-- CLS_VERSION_DRAINED (R203): CLS_INFL_OLD has reached 0 and the old version stops being live. -/
def execClsVersionDrained (s : State) : Host.Outcome State Fault Refusal :=
  .next (if s.flag F.CLS_VER_STAT_OLD_LIVE && s.f F.CLS_INFL_OLD_COUNT == 0 then s.verDrain else s)

/-- CLS_STAGE_COPY_DONE (R203): the staging copy is the current version and writable again. -/
def execClsStageCopyDone (s : State) : Host.Outcome State Fault Refusal :=
  .next (if s.flag F.CLS_VER_STAT_SYNC_BUSY then
    (s.stageCopy.setFlag F.CLS_VER_STAT_SYNC_BUSY 0 false).setFlag F.CLS_VER_STAT_STAGE_READY 0 true else s)

/-- CLS_DRAIN_TIMEOUT (R203): the old version is still live DRAIN_TMO ms after its commit; event 258, once. -/
def execClsDrainTimeout (s : State) : Host.Outcome State Fault Refusal :=
  .next (if s.flag F.CLS_VER_STAT_OLD_LIVE && s.f F.CLS_VER_CFG_DRAIN_TMO != 0 && !s.drainTold then
    { s with drainTold := true }.raise 258 1 0
      (s.f F.CLS_VER_STAT_OLD + 256 * min (s.f F.CLS_INFL_OLD_COUNT) 0xFFFFFF)
    else s)

end Sys2Proof.Machine
end

