-- ==== Sys2Proof/Machine/Ecc.lean ====
section
/-! DEFINITION. The codes that protect stored words (spec/13_memory.md, R347 to R350). -/

namespace Sys2Proof.Machine

/-! ### The DRAM code -/

/-- Multiplication by x in GF(16) with x^4 + x + 1. -/
def xt16 (b : Nat) : Nat := if b < 8 then 2 * b else (2 * b - 16) ^^^ 3

/-- Multiplication in GF(16). -/
def gf16 (a b : Nat) : Nat :=
  (if bitOf a 0 then b else 0) ^^^ (if bitOf a 1 then xt16 b else 0) ^^^ (if bitOf a 2 then xt16 (xt16 b) else 0)
    ^^^ (if bitOf a 3 then xt16 (xt16 (xt16 b)) else 0)

/-- The inverse in GF(16), 0 for 0. -/
def gfInv (a : Nat) : Nat := ((List.range 16).find? fun x => gf16 a x == 1).getD 0

/-- Q(x, y) of R347. -/
def quadQ (x y : Nat) : Nat := gf16 x x ^^^ gf16 x y ^^^ gf16 8 (gf16 y y)

/-- A parity-check column, or a syndrome: four elements. -/
structure Col where
  e0 : Nat
  e1 : Nat
  e2 : Nat
  e3 : Nat
  deriving DecidableEq, Repr

/-- Columns of data symbol i, address symbol k and the check symbols A to D (R347). -/
def colData (i : Nat) : Col := ⟨1, i, 2, quadQ i 2⟩
def colAddr (k : Nat) : Col := ⟨1, k, 3, quadQ k 3⟩
def colCheck : Nat → Col
  | 0 => ⟨1, 0, 0, 0⟩
  | 1 => ⟨0, 0, 0, 1⟩
  | 2 => ⟨1, 1, 0, 1⟩
  | _ => ⟨1, 0, 1, 8⟩

def Col.add (a b : Col) : Col := ⟨a.e0 ^^^ b.e0, a.e1 ^^^ b.e1, a.e2 ^^^ b.e2, a.e3 ^^^ b.e3⟩
def Col.scale (k : Nat) (c : Col) : Col := ⟨gf16 k c.e0, gf16 k c.e1, gf16 k c.e2, gf16 k c.e3⟩

/-- Symbol i of a number. -/
def nib (n i : Nat) : Nat := n / 16 ^ i % 16

/-- The sum over data and address symbols (R347). -/
def dramSum (data line : Nat) : Col :=
  let d := (List.range 16).foldl (fun a i => a.add ((colData i).scale (nib data i))) ⟨0, 0, 0, 0⟩
  (List.range 9).foldl (fun a k => a.add ((colAddr k).scale (nib line k))) d

/-- The check symbols, c_A in [3:0] to c_D in [15:12] (R347). -/
def dramChecks (data line : Nat) : Nat :=
  let t := dramSum data line
  let cB := t.e3 ^^^ t.e1 ^^^ gf16 8 t.e2
  (t.e0 ^^^ t.e1 ^^^ t.e2) + 16 * cB + 256 * t.e1 + 4096 * t.e2

/-- The syndrome of a stored word for the line address the decoder expects (R348). -/
def dramSyndrome (data checks line : Nat) : Col :=
  (List.range 4).foldl (fun a i => a.add ((colCheck i).scale (nib checks i))) (dramSum data line)

/-- Verdict of a decoder: the word and its checks, corrected or not, or uncorrectable. -/
inductive Verdict where
  | good
  | corrected (data checks : Nat)
  | bad
  deriving DecidableEq, Repr

/-- 0 good, 1 correctable, 2 uncorrectable. -/
def Verdict.rank : Verdict → Nat
  | .good => 0
  | .corrected _ _ => 1
  | .bad => 2

/-- R348. -/
def dramDecode (data checks line : Nat) : Verdict :=
  let y := dramSyndrome data checks line
  if y = ⟨0, 0, 0, 0⟩ then .good
  else if y.e0 = 0 then
    (if y.e1 = 0 ∧ y.e2 = 0 then .corrected data (checks ^^^ (16 * y.e3)) else .bad)
  else
    let q := y.scale (gfInv y.e0)
    match (List.range 16).find? fun i => colData i == q with
    | some i => .corrected (data ^^^ (y.e0 * 16 ^ i)) checks
    | none =>
      match (List.range 4).find? fun i => colCheck i == q with
      | some i => .corrected data (checks ^^^ (y.e0 * 16 ^ i))
      | none => .bad

/-! ### The on-chip code -/

/-- The i-th integer from 3 on that is not a power of two (R349): data bits 0 to 63 and address bits 64 to 83. -/
def chipCol (i : Nat) : Nat := ((List.range 128).filter fun v => 3 ≤ v && !([4, 8, 16, 32, 64].contains v)).getD i 0

/-- The bits of a word and its address, as the columns of those that are set. -/
def chipSum (data addr : Nat) : Nat :=
  let d := (List.range 64).foldl (fun a i => if bitOf data i then a ^^^ chipCol i else a) 0
  (List.range 20).foldl (fun a m => if bitOf addr m then a ^^^ chipCol (64 + m) else a) d

/-- Parity of the low `k` bits. -/
def parity (n k : Nat) : Bool := ((List.range k).filter fun i => bitOf n i).length % 2 = 1

/-- The check byte: c0 to c6 in [6:0], p in [7] (R349). -/
def chipChecks (data addr : Nat) : Nat :=
  let c := chipSum data addr
  c + (if (parity data 64) != ((parity c 7) != (parity addr 20)) then 128 else 0)

/-- R350. -/
def chipDecode (data checks addr : Nat) : Verdict :=
  let y := chipSum data addr ^^^ (checks % 128)
  let p := (parity data 64) != ((parity checks 8) != (parity addr 20))
  if !p then (if y = 0 then .good else .bad)
  else if y = 0 then .corrected data (checks ^^^ 128)
  else match (List.range 7).find? fun k => 2 ^ k == y with
    | some k => .corrected data (checks ^^^ 2 ^ k)
    | none =>
      match (List.range 64).find? fun i => chipCol i == y with
      | some i => .corrected (data ^^^ 2 ^ i) checks
      | none => .bad

end Sys2Proof.Machine
end

