-- ==== Sys2Proof/Machine/Capture.lean ====
section
/-! DEFINITION. Capture (spec/16_observability.md, R409 to R416). -/

namespace Sys2Proof.Machine

/-- Capture and Studbook counter i (0x140_0800 + 8 * i). -/
def capCnt (i : Nat) : Nat := 0x1400800 + 8 * i

namespace State

/-! ### Offers and the write buffer (R410 to R414) -/

end State

/-- Bytes of a record in the store: a 32-byte header and the payload padded to 32 (R410). -/
def CapRec.size (r : CapRec) : Nat := 32 + 32 * ceilDiv r.payload.length 32

/-- The record as bytes (R410). -/
def CapRec.bytes (r : CapRec) : List Byte :=
  leBytes 4 (r.typ + 65536 * r.payload.length) ++ leBytes 4 r.seq ++ leBytes 8 r.tick ++ leBytes 4 r.info
    ++ leBytes 4 r.olen ++ leBytes 8 r.aux ++ r.payload
    ++ List.replicate (32 * ceilDiv r.payload.length 32 - r.payload.length) 0

namespace State

/-- Bytes waiting in the write buffer. -/
def capFill (s : State) : Nat := (s.cp.capBuf.map CapRec.size).sum

/-- A record is dropped (R414): CAP_DROP counts it, and event 488 reports the drops of the ms, once per ms. -/
def capDrop (s : State) (typ : Nat) (stale : Bool) : State :=
  let first := if s.cp.capDropsMs = 0 then typ + (if stale then 8 else 0) else s.cp.capFirst
  let n := s.cp.capDropsMs + 1
  let cp' := { s.cp with capLost := s.cp.capLost + 1, capDropsMs := n, capFirst := first }
  let s1 : State := State.bump { s with cp := cp' } (capCnt 10)
  let s2 : State := s1.raiseLim ticksPerMs 0 488 1 0 (first + 65536 * min n 0xFFFF)
  if s2.reg (0x102000 + 4 * 488) = s1.reg (0x102000 + 4 * 488) then s2
  else (s2.modCp fun cp => { cp with capDropsMs := 0 })

/-- A source offers a record (R411, R413, R414): it takes the next SEQ; while FULL, or without room in the 2 MiB
buffer, it is dropped; a TYPE 3 record needs 256 KiB free. After a drop a TYPE 6 marker goes first. -/
def capOffer (s : State) (r : CapRec) : State :=
  if !s.flag F.CAP_CFG_EN || !bitOf (s.f F.CAP_CFG_SRC_EN) (r.typ - 1) then s
  else
    let r := { r with seq := s.cp.capSeq, offered := s.tick }
    let s := (s.modCp fun cp => { cp with capSeq := (s.cp.capSeq + 1) % 2 ^ 32 })
    if s.flag F.CAP_STAT_FULL then (s.bump (capCnt 11)).capDrop r.typ false
    else
      let mark : List CapRec := if s.cp.capLost = 0 then [] else
        [{ typ := 6, seq := s.cp.capSeq, tick := s.tick, info := min s.cp.capLost 0xFFFFFFFF, offered := s.tick }]
      let need := r.size + (mark.map CapRec.size).sum
      let room := 2097152 - s.capFill
      if room < need || (r.typ = 3 && room < 262144) then s.capDrop r.typ false
      else
        let r := if mark.isEmpty then r else { r with seq := s.cp.capSeq }
        let mark := mark.map fun m => { m with seq := (s.cp.capSeq + 2 ^ 32 - 1) % 2 ^ 32 }
        let s1 := (s.modCp fun cp => { cp with 
          capBuf := s.cp.capBuf ++ mark ++ [r], capLost := 0,
          capSeq := (s.cp.capSeq + mark.length) % 2 ^ 32 })
        if r.typ = 3 then s1.padRef r.handle else s1

/-- Offer a TYPE 3 record for a pass of a frame whose effective action names a rule (R411, R412). -/
def capFrame (s : State) (x : Frame) (rule version : Nat) : State :=
  let i := 4 * rule
  if rule = 0 || !s.flag F.CAP_CFG_EN || !s.flag F.CAP_RULE_EN i then s
  else
    let n := sget (fun _ => 0) s.cp.capRules rule
    let m := max 1 (s.f F.CAP_RULE_ONE_IN i)
    let s1 := (s.modCp fun cp => { cp with capRules := sset (fun _ => 0) s.cp.capRules rule ((n + 1) % m) })
    if n ≠ 0 then s1
    else
      let snap := 64 * (if s.f F.CAP_RULE_SNAPLEN i = 0 then 256 else s.f F.CAP_RULE_SNAPLEN i)
      s1.capOffer {
        typ := 3, tick := x.stamp / 16, info := rule + 16 * (x.pass % 8) + (if x.exp then 128 else 0),
        olen := x.data.length, aux := x.src + 8 * (x.port % 2 ^ 20) + 2 ^ 23 * (version % 256),
        payload := x.data.take snap, handle := x.handle }

/-! ### The store in DRAM -/

/-- CAP_BASE and the size of the area in bytes. -/
def capBase (s : State) : Nat := (s.reg 0x1400004).toNat + 2 ^ 32 * (s.reg 0x1400008).toNat
def capBytes (s : State) : Nat := s.f F.CAP_SIZE_MIB * 2 ^ 20

def capWp (s : State) : Nat := (s.reg 0x1400018).toNat + 2 ^ 32 * (s.reg 0x140001C).toNat
def capOldest (s : State) : Nat := (s.reg 0x1400020).toNat + 2 ^ 32 * (s.reg 0x1400024).toNat
def setCapWp (s : State) (v : Nat) : State :=
  (s.setReg 0x1400018 (BitVec.ofNat 32 v)).setReg 0x140001C (BitVec.ofNat 32 (v / 2 ^ 32))
def setCapOldest (s : State) (v : Nat) : State :=
  (s.setReg 0x1400020 (BitVec.ofNat 32 v)).setReg 0x1400024 (BitVec.ofNat 32 (v / 2 ^ 32))

/-- The spill area (R345). -/
def spillBase (s : State) : Nat := (s.reg 0x1200040).toNat + 2 ^ 32 * (s.reg 0x1200044).toNat
def spillBytes (s : State) : Nat := s.f F.MEM_SPILL_SIZE_MIB * 2 ^ 20

/-- The DRAM channels that are up. -/
def chUp (s : State) : List Nat := [0, 1, 2, 3].filter fun c => s.flag F.MEM_CH_STAT_UP (4 * c)

/-- Channel and byte offset in it of a DRAM address (R343). -/
def dramPlace (s : State) (a : Nat) : Nat × Nat :=
  let n := s.chUp.length
  if n = 0 then (0, a) else (s.chUp.getD (a / 256 % n) 0, a / 256 / n * 256 + a % 256)

/-- The DRAM address of a place in a channel that is up (R343). -/
def placeAddr (s : State) (c o : Nat) : Option Nat :=
  (s.chUp.findIdx? fun k => k == c).map fun i => (o / 256 * s.chUp.length + i) * 256 + o % 256

end State

/-- DRAM is held by place: the key of offset `o` of channel `c`, in bytes, words or lines alike. -/
def physKey (c o : Nat) : Nat := 4 * o + c

namespace State

/-- Keys of the byte, the 8-byte word and the line that a DRAM address names. -/
def byteKey (s : State) (a : Nat) : Nat := physKey (s.dramPlace a).1 (s.dramPlace a).2
def wordKey (s : State) (a : Nat) : Nat := physKey (s.dramPlace a).1 ((s.dramPlace a).2 / 8)
def lineKey (s : State) (a : Nat) : Nat := physKey (s.dramPlace a).1 ((s.dramPlace a).2 / 64)

/-- Stored errors of the word at a DRAM address: data mask + 2^64 * check mask (R360). -/
def wordMask (s : State) (a : Nat) : Nat := sget (fun _ => 0) s.mem.flips (s.wordKey a)

/-- How the line address a reader expects differs from the one the line at `a` was written under (R343, R348): 0 unless the
channels that are up have changed since, or nothing has written the line. -/
def lineSkew (s : State) (a : Nat) : Nat :=
  match sget (fun _ => 0) s.mem.tags (s.lineKey a) with
  | 0 => 0
  | t + 1 => t ^^^ (a / 64)

/-- The decoder's verdict on a word, from its errors alone: the code is linear, so the stored word does not matter (R348). -/
def wordVerdict (s : State) (a : Nat) : Verdict :=
  dramDecode (s.wordMask a % 2 ^ 64) (s.wordMask a / 2 ^ 64) (s.lineSkew a)

/-- Errors left in the data of a word as it is read: all of them where the decoder sees none, what a correction leaves
otherwise. -/
def wordLeft (s : State) (a : Nat) : Nat :=
  match s.wordVerdict a with
  | .corrected d _ => d
  | _ => s.wordMask a % 2 ^ 64

/-- A DRAM byte as read. -/
def dramByte (s : State) (a : Nat) : Byte :=
  sget (fun _ => 0) s.dram (s.byteKey a) ^^^ BitVec.ofNat 8 (s.wordLeft a / 256 ^ (a % 8))
def dramRead (s : State) : Nat → Nat → List Byte
  | _, 0 => []
  | a, k + 1 => s.dramByte a :: s.dramRead (a + 1) k

/-- Bytes are stored right at a DRAM address. -/
def dramWrite (s : State) (a : Nat) : List Byte → State
  | [] => s
  | b :: bs => dramWrite { s with dram := sset (fun _ => 0) s.dram (s.byteKey a) b } (a + 1) bs

/-- The flip mask: data, and checks above bit 64 (R360). -/
def flipMask (s : State) : Nat :=
  (s.reg 0x1200094).toNat + 2 ^ 32 * (s.reg 0x1200098).toNat + 2 ^ 64 * s.f F.MEM_FLIP_C_MASK

/-- How a word that a mask corrupts is read: 0 good, 1 correctable, 2 uncorrectable. Both codes are linear, so the stored word
does not matter (R348, R350). -/
def maskVerdict (chip : Bool) (m : Nat) : Nat :=
  (if chip then chipDecode (m % 2 ^ 64) (m / 2 ^ 64) 0 else dramDecode (m % 2 ^ 64) (m / 2 ^ 64) 0).rank

/-- A word of a channel's place takes the errors `m`. -/
def setMask (s : State) (k m : Nat) : State := s.modMem fun x => { x with flips := sset (fun _ => 0) x.flips k m }

/-- A DRAM write (R344, R347, R360): its words are stored right, each of its lines under its address; the first word that
reaches the channel the flip mask targets is corrupted, once. -/
def dramStore (s : State) (a : Nat) (bs : List Byte) : State :=
  let s1 := (s.dramWrite a bs).ddrWr bs.length
  let n := (a + bs.length - 1) / 64 + 1 - a / 64
  let ls := if bs.isEmpty then [] else (List.range n).map fun i => a / 64 + i
  let ws := if bs.isEmpty then [] else (List.range ((a + bs.length - 1) / 8 + 1 - a / 8)).map fun i => 8 * (a / 8 + i)
  let s2 := s1.modMem fun m => { m with
    flips := ws.foldl (fun f w => sset (fun _ => 0) f (s.wordKey w) 0) m.flips
    tags := ls.foldl (fun t l => sset (fun _ => 0) t (s.lineKey (64 * l)) (l + 1)) m.tags }
  match ws.find? fun w => s.flipArmed false (s.dramPlace w).1 with
  | some w => (s2.setMask (s.wordKey w) s.flipMask).flipUsed
  | none => s2

/-- The cap of the capture class in Gb/s (R344). -/
def capRate (s : State) : Nat := min 400 (s.f F.MEM_ARB_CFG_CAP_RATE)

/-- Length of the record stored at an offset of the area, from its PLEN. -/
def capLenAt (s : State) (o : Nat) : Nat :=
  32 + 32 * ceilDiv (leNat (s.dramRead (s.capBase + o + 2) 2)) 32

/-- The oldest whole record left once the area up to `e` (from WP, without crossing the end) is overwritten: the walk
from CAP_OLDEST over at most `k` records (R413). -/
def capTrim (s : State) (wp e : Nat) : Nat → Nat → Nat
  | 0, o => o
  | k + 1, o =>
    if o ≥ s.capBytes then s.capTrim wp e k 0
    else if wp ≤ o ∧ o < e then s.capTrim wp e k (o + s.capLenAt o)
    else o

/-- Write a record at CAP_WP (R413): in a lap after the first, CAP_OLDEST moves past what is overwritten, WRAPPED is set
and event 489 is raised once per second; at the end of the area the next offset is 0 when WRAP = 1. -/
def capPut (s : State) (bs : List Byte) : State :=
  let wp := s.capWp
  let e := wp + bs.length
  let s := s.modCp fun cp => { cp with capNext := max cp.capNext (10000 * s.tick) + ceilDiv (62208 * bs.length) s.capRate }
  let s1 := if s.cp.capLap then
      ((s.setCapOldest (s.capTrim wp e (s.capBytes / 32 + 1) s.capOldest)).setFlag F.CAP_STAT_WRAPPED 0 true).raiseLim
        ticksPerS 1 489 1 0 1
    else s
  let s2 := s1.dramStore (s1.capBase + wp) bs
  if e ≥ s.capBytes ∧ s.flag F.CAP_CFG_WRAP then
    let s3 := s2.setCapWp 0
    (s3.modCp fun cp => { cp with capLap := true })
  else s2.setCapWp e

/-- Records wait for the cap of their arbiter class (R344): the class has moved its share up to `capNext`, in 1/10,000 of a tick,
or CAP_RATE is 0. -/
def capThrottled (s : State) : Bool := s.f F.MEM_ARB_CFG_CAP_RATE == 0 || decide (10000 * s.tick < s.cp.capNext)

/-- The rest of the area, too short for a record, takes a TYPE 0 record, and the next offset is 0 (R413). -/
def capPad (s : State) : State :=
  if s.capBytes ≤ s.capWp then (s.setCapWp 0).modCp fun cp => { cp with capLap := true }
  else s.capPut (CapRec.bytes { typ := 0, tick := s.tick, payload := List.replicate (s.capBytes - s.capWp - 32) 0 })

/-- The oldest record of the write buffer goes to the store (R413), once crossing 9 is open to it (R32, R34) and its class may
move data: a record never crosses the end of the area; with WRAP = 0 one that has no room before the end, or before CAP_OLDEST in
a lap after the first, is dropped instead, as are those after it, and FULL is set with event 489 cause 0. -/
def capWriteFront (s : State) : State :=
  match s.cp.capBuf with
  | [] => s
  | r :: rest =>
    if !s.xOpen 9 || s.capThrottled then s
    else
    let s := (s.modCp fun cp => { cp with capBuf := rest })
    let s := if r.typ = 3 then s.padUnref r.handle else s
    let cross := decide (s.capWp + r.size > s.capBytes)
    let meets := cross || (s.cp.capLap && decide (s.capWp + r.size > s.capOldest))
    if s.flag F.CAP_STAT_FULL then (s.bump (capCnt 11)).capDrop r.typ false
    else if meets && !s.flag F.CAP_CFG_WRAP then
      ((((s.setFlag F.CAP_STAT_FULL 0 true).raise 489 1 0 0).bump (capCnt 11)).capDrop r.typ false)
    else
      let s2 := (if cross then s.capPad else s).capPut r.bytes
      if r.typ = 6 then s2 else (s2.bump (capCnt 8)).bump (capCnt 9) r.size

/-- Release the references of the TYPE 3 records of a buffer. -/
def capRelease (s : State) (rs : List CapRec) : State :=
  rs.foldl (fun s r => if r.typ = 3 then s.padUnref r.handle else s) s

/-- The area is lost (R415): EN clears, MEM_LOST is set, the buffer's records are dropped, event 489 cause 2. -/
def capMemLost (s : State) : State :=
  if s.flag F.CAP_CFG_EN then
    let n := s.cp.capBuf.length
    let s1 := (s.capRelease s.cp.capBuf).setFlag F.CAP_CFG_EN 0 false
    (((s1.modCp fun cp => { cp with capBuf := [] }).bump (capCnt 10) n).setFlag F.CAP_STAT_MEM_LOST 0 true).raise 489 1 0 2
  else s

end State

end Sys2Proof.Machine
end

