-- ==== Sys2Proof/Machine/TimeBase.lean ====
section
/-! DEFINITION. Time of day, stamps and time-stamp queues (spec/10_time.md, R267 to R269, R280, R285, R286), and the
rates of the client ports they are used with (R293). -/

namespace Sys2Proof.Machine

/-- Counter i of the Time block (0x100_0800 + 8 * i). -/
def timCnt (i : Nat) : Nat := 0x1000800 + 8 * i

/-- One tick is 625/486 ns: 20,480,000 units of 1/243 of 2^-16 ns (R267). -/
def todPerTick : Nat := 20480000

/-- ToD wraps with its 48-bit seconds (R267). -/
def todModulus : Nat := 2 ^ 48 * 1000000000 * 65536 * 243

namespace State

/-- ToD now in 2^-16 ns, truncated (R269). -/
def todUnits (s : State) : Nat := s.tm.tod / 243

/-- ToD now in whole ns. -/
def todNs (s : State) : Nat := s.todUnits / 65536

/-- ToD at tick `k`, in units of 1/243 of 2^-16 ns (R269): for a tick to come with what the pending slew adds by then (R276), for
one gone by reckoned from the run of even ticks it lies in, and before every run held at the plain rate. -/
def todAtTick (s : State) (k : Nat) : Int :=
  if s.tick ≤ k then
    let n : Int := min s.tm.slew.natAbs (k - s.tick)
    (s.tm.tod : Int) + ((k - s.tick) * todPerTick : Nat) + 243 * (if s.tm.slew < 0 then -n else n)
  else match s.tm.segs.find? fun g => decide (g.tick ≤ k) with
    | some g => (g.tod : Int) + ((k - g.tick : Nat) : Int) * ((todPerTick : Int) + 243 * g.sign)
    | none =>
      match s.tm.segs.getLast? with
      | some g => (g.tod : Int) - ((g.tick - k) * todPerTick : Nat)
      | none => (s.tm.tod : Int) - ((s.tick - k) * todPerTick : Nat)

/-- ToD of a stamp given in sixteenths of a tick (R269): the ToD at tick k plus p * 625/7,776 ns, rounded to the nearest
2^-16 ns, halves up. -/
def todOfStamp (s : State) (stamp : Nat) : Nat :=
  let u : Int := s.todAtTick (stamp / 16) + (stamp % 16 * 1280000 : Nat)
  ((2 * u + 243) / 486 % ((todModulus / 243 : Nat) : Int)).toNat

/-- A new run of ToD starts where the present tick does not lie on the latest one (R269): 64 are kept. -/
def todSeg (s : State) : State :=
  let sg : Int := if 0 < s.tm.slew then 1 else if s.tm.slew < 0 then -1 else 0
  let new : TodSeg := { tick := s.tick, tod := s.tm.tod, sign := sg }
  match s.tm.segs with
  | g :: _ =>
    if g.tick ≤ s.tick && g.sign == sg
        && decide ((g.tod : Int) + ((s.tick - g.tick : Nat) : Int) * ((todPerTick : Int) + 243 * sg) = (s.tm.tod : Int)) then s
    else s.modTm fun tm => { tm with segs := (new :: tm.segs).take 64 }
  | [] => s.modTm fun tm => { tm with segs := [new] }

/-- Set ToD, in units of 1/243 of 2^-16 ns. -/
def setTod (s : State) (t : Int) : State :=
  (s.modTm fun tm => { tm with tod := (t % (todModulus : Int)).toNat })

end State

/-- Seconds, nanoseconds and fraction of a time of day in 2^-16 ns. -/
def todSec (u : Nat) : Nat := u / 65536 / 1000000000
def todNsec (u : Nat) : Nat := u / 65536 % 1000000000
def todFrac (u : Nat) : Nat := u % 65536

namespace State

/-! ### Time-stamp queues (R285, R286) -/

def tsQueue (s : State) (k : Nat) : TsQueue := sget (fun _ => {}) s.tm.tsq k
def setTsQueue (s : State) (k : Nat) (x : TsQueue) : State :=
  (s.modTm fun tm => { tm with tsq := sset (fun _ => {}) s.tm.tsq k x })

/-- The four words of an entry (R285) for a stamp's ToD, without GAP. -/
def tsWords (late : Bool) (port msgtype tag tod : Nat) : List Word :=
  [BitVec.ofNat 32 (2 ^ 31 + (if late then 2 ^ 29 else 0) + port % 16 * 2 ^ 24 + msgtype % 16 * 2 ^ 20 + tag % 65536),
   BitVec.ofNat 32 (todNsec tod), BitVec.ofNat 32 (todFrac tod * 65536 + todSec tod / 2 ^ 32),
   BitVec.ofNat 32 (todSec tod)]

/-- Write an entry, or drop the newest one of a full queue (R286, R290): the next one written carries GAP = 1. Queues 0
to 7 hold 512 entries, the capture queues 8 and 9 hold 16. -/
def tsWrite (s : State) (k : Nat) (late : Bool) (port msgtype tag tod : Nat) : State :=
  let x := s.tsQueue k
  if x.entries.length ≥ (if k < 8 then 512 else 16) then
    let s1 := s.setTsQueue k { x with gap := true }
    if k < 8 then (s1.addReg (0x1000414 + 0x20 * k) 1).raiseLim ticksPerMs k 391 1 0 (k / 2 + 4 * (k % 2))
    else (s1.addReg (0x1000254 + 0x20 * (k - 8)) 1).raise 390 1 0 (k - 8)
  else
    let ws := match tsWords late port msgtype tag tod with
      | w :: ws => (if x.gap then w ||| 0x40000000#32 else w) :: ws
      | [] => []
    let s1 := s.setTsQueue k { entries := x.entries ++ [ws], gap := false }
    if k < 8 then s1.setF F.TIM_TSQ_LEVEL_LEVEL (0x20 * k) (x.entries.length + 1) else s1

/-- A read of word 0 takes the oldest entry into the requester's shadow; 0 when the queue was empty (R286). -/
def tsPop (s : State) (q : Req) (k : Nat) : State :=
  let x := s.tsQueue k
  let e := x.entries.headD [0, 0, 0, 0]
  let key := reqCode q * 64 + 4 * k
  let put (m : SMap Word) (i : Nat) := sset (fun _ => 0) m (key + i) (e.getD i 0)
  let m := put (put (put (put s.tm.popShadow 0) 1) 2) 3
  let s1 := (s.modTm fun tm => { tm with popShadow := m })
  let s2 := s1.setTsQueue k { x with entries := x.entries.tail }
  if k < 8 then s2.setF F.TIM_TSQ_LEVEL_LEVEL (0x20 * k) x.entries.tail.length else s2

/-- Word `i` of a requester's pop shadow. -/
def popWord (s : State) (q : Req) (k i : Nat) : Word := sget (fun _ => 0) s.tm.popShadow (reqCode q * 64 + 4 * k + i)

/-! ### Comparators (R291) -/

/-- The target of comparator `n` in ns of ToD. -/
def cmpTarget (s : State) (n : Nat) : Nat :=
  (s.f F.TIM_CMP_S_LO_SEC (16 * n) + 2 ^ 32 * s.f F.TIM_CMP_S_HI_SEC (16 * n)) * 1000000000 + s.f F.TIM_CMP_NS_NS (16 * n)

/-- ToD has reached the target of comparator `n`. -/
def cmpDue (s : State) (n : Nat) : Bool := decide (s.cmpTarget n * 65536 ≤ s.todUnits)

def cmpFlag (s : State) (n : Nat) : Nat := sget (fun _ => 0) s.tm.cmpFlag n
def setCmpFlag (s : State) (n v : Nat) : State :=
  (s.modTm fun tm => { tm with cmpFlag := sset (fun _ => 0) s.tm.cmpFlag n v })

/-- Arm comparator `n` for the feature that owns it; a target already past is noted. -/
def cmpArm (s : State) (n feature : Nat) : State :=
  let s1 := (s.setFlag F.TIM_CMP_CTRL_ARM (16 * n) true).setF F.TIM_CMP_CTRL_FEATURE (16 * n) feature
  s1.setCmpFlag n (if s1.cmpDue n then 1 else 0)

/-- Disarm comparator `n` and release its resource. -/
def cmpDisarm (s : State) (n : Nat) : State :=
  ((s.setFlag F.TIM_CMP_CTRL_ARM (16 * n) false).setF F.TIM_CMP_CTRL_FEATURE (16 * n) 0).resRelease (4 + n)

/-! ### Client ports (R293) -/

/-- Ports of the layout and their rate in Gb/s. -/
def portCount (s : State) : Nat :=
  match s.f F.CLI_CFG_MODE with | 0 => 1 | 1 => 2 | 2 => 4 | 3 => 8 | 4 => 8 | _ => 0
def portGbps (s : State) : Nat :=
  match s.f F.CLI_CFG_MODE with | 0 => 400 | 1 => 200 | 2 => 100 | 3 => 50 | _ => 25

/-- Lanes of a port, and the lanes that have power: those of the layout's ports (R293). -/
def lanesPer (s : State) : Nat :=
  let k := if s.flag F.CLI_CFG_LANE_RATE then 2 else 1
  match s.f F.CLI_CFG_MODE with | 0 => 4 * k | 1 => 2 * k | 2 => k | _ => 1
def portLanes (s : State) (p : Nat) : List Nat := (List.range s.lanesPer).map (s.lanesPer * p + ·)
def lanePowered (s : State) (l : Nat) : Bool := decide (l < s.lanesPer * s.portCount)

/-- Symbols per tick B of a side's upstream line (R117, R275). -/
def bOf (s : State) (x : Side) : Nat :=
  if s.flag F.LIN_MODE_MODE (sideOff x) then 128
  else match s.f F.LIN_MODE_US_RATE (sideOff x) with | 0 => 16 | 1 => 32 | _ => 64

/-- MAX_LEN of a port as it acts (CLI_PORT_CFG). -/
def maxLen (s : State) (p : Nat) : Nat := min 16384 (max 64 (s.f F.CLI_PORT_CFG_MAX_LEN (0x1000 * p)))

/-- Frames of a port at its MAC: Express frames, and those in its transmit store (R302). -/
def txExpOf (s : State) (p : Nat) : List Frame := sget (fun _ => []) s.cli.txExp p
def txOf (s : State) (p : Nat) : List Frame := sget (fun _ => []) s.cli.tx p
def macOf (s : State) (p : Nat) : Option MacTx := sget (fun _ => none) s.cli.mac p
def cutOf (s : State) (p : Nat) : Option MacTx := sget (fun _ => none) s.cli.cut p

/-- Preemption is active on a port (R303). -/
def pmpActive (s : State) (p : Nat) : Bool := s.flag F.CLI_PMP_STAT_ACTIVE (0x1000 * p)

/-- A class uses the express MAC service of a port (R303). -/
def emacClass (s : State) (p cls : Nat) : Bool := bitOf (s.f F.CLI_PMP_CFG_EMAC_CLASSES (0x1000 * p)) cls

end State

end Sys2Proof.Machine
end

