-- ==== Sys2Proof/Machine/Sched.lean ====
section
/-! DEFINITION. The scheduler of spec/09_scheduling.md: buckets (R249 to R254), gate lists (R256 to R259), admission
(R240 to R243), selection and virtual time (R244 to R248, R255), queue sampling (R262). -/

namespace Sys2Proof.Machine

/-- Global counter i of the scheduler, counter i of queue q, counter i of policer p. -/
def schCnt (i : Nat) : Nat := 0xE00100 + 8 * i
def qCnt (q i : Nat) : Nat := 0xEB0000 + 32 * q + 8 * i
def polCnt (p i : Nat) : Nat := 0xEF0000 + 32 * p + 8 * i

/-! ### Queues and nodes (R240) -/

/-- The node of a global queue number, from SCH_Q_CFG.NODE. -/
def nodeOf (q nodeField : Nat) : Nat := if q < 4096 then nodeField else if q < 6144 then 512 + nodeField % 8 else 520

/-- First queue number of a set: 1 upstream, 2 client egress, 3 host. -/
def qsetBase (qset : Nat) : Nat := match qset with | 1 => 0 | 2 => 4096 | _ => 6144

/-- The set a queue number lies in. -/
def qsetOf (q : Nat) : Nat := if q < 4096 then 1 else if q < 6144 then 2 else 3

/-- Queues of a set. -/
def qsetCount (qset : Nat) : Nat := match qset with | 1 => 4096 | 2 => 2048 | 3 => 128 | _ => 0

/-- Bytes of a frame behind its composed head: the body, which a spill writes to DRAM (R243, R459). -/
def Frame.body (x : Frame) : Nat := x.data.length - x.headLen

/-- The body of a frame is in DRAM and not yet read back. -/
def Frame.away (x : Frame) : Bool := x.spilled && !x.back && !x.unsent

namespace State

def que (s : State) (q : Nat) : Que := sget (fun _ => {}) s.queues q
def qNode (s : State) (q : Nat) : Nat := nodeOf q (s.f F.SCH_Q_CFG_NODE (16 * q))
def qClass (s : State) (q : Nat) : Nat := s.f F.SCH_Q_CFG_CLASS (16 * q)
def qGroup (s : State) (q : Nat) : Nat := 8 * s.qNode q + s.f F.SCH_Q_CFG_CG (16 * q)

/-- Store a queue, and show whether it holds a frame (R242 HELD). -/
def setQue (s : State) (q : Nat) (x : Que) : State :=
  { s with queues := sset (fun _ => {}) s.queues q x }.setFlag F.SCH_Q_CFG1_HELD (16 * q) (!x.frames.isEmpty)

/-- Bytes a queue holds, spilled bytes included (R242). -/
def qBytes (s : State) (q : Nat) : Nat := ((s.que q).frames.map fun x => x.data.length).sum

/-- Bytes a queue holds in Paddock (R243): of a frame whose body is in DRAM, its head. -/
def qPadBytes (s : State) (q : Nat) : Nat :=
  ((s.que q).frames.map fun x => if x.away then x.headLen else x.data.length).sum

/-- Overhead of a length profile, s8 (R248). -/
def lprofOh (s : State) (k : Nat) : Int := signedOf (s.f F.SCH_LPROF_OH (4 * k)) 8

/-- The charged length of `n` bytes under a length profile (R248, R251, R253). -/
def charged (s : State) (n k : Nat) : Nat := (max 1 ((n : Int) + s.lprofOh k)).toNat

/-! ### Token buckets (R249 to R254) -/

def bucket (s : State) (k : Nat) : Bucket := sget (fun _ => {}) s.buckets k
def setBucket (s : State) (k : Nat) (b : Bucket) : State := { s with buckets := sset (fun _ => {}) s.buckets k b }

end State

/-- Refresh of a bucket (R249). -/
def Bucket.refresh (b : Bucket) (now rate depth : Nat) : Bucket :=
  let a := rate * (now - b.last) + b.carry
  let t := b.tokens + (a / 256 : Nat)
  if t > (depth * 65536 : Nat) then { tokens := (depth * 65536 : Nat), carry := 0, last := now }
  else { tokens := t, carry := a % 256, last := now }

/-- A bucket just configured: full, without carry (R249). -/
def bucketFull (now depth : Nat) : Bucket := { tokens := (depth * 65536 : Nat), carry := 0, last := now }

/-- Keys of the buckets: shaper C and P, policer C and E or P, Express policer. -/
def shpC (n : Nat) : Nat := 2 * n
def shpP (n : Nat) : Nat := 2 * n + 1
def polC (p : Nat) : Nat := 4096 + 2 * p
def polX (p : Nat) : Nat := 4096 + 2 * p + 1
def xpolB (k : Nat) : Nat := 16384 + k

namespace State

/-- The two buckets of a shaper, refreshed. -/
def shpRefC (s : State) (n : Nat) : Bucket :=
  (s.bucket (shpC n)).refresh s.tick (s.f F.SCH_SHP_CIR_RATE (32 * n)) (s.f F.SCH_SHP_CBS_DEPTH (32 * n))
def shpRefP (s : State) (n : Nat) : Bucket :=
  (s.bucket (shpP n)).refresh s.tick (s.f F.SCH_SHP_PIR_RATE (32 * n)) (s.f F.SCH_SHP_PBS_DEPTH (32 * n))

/-- The peak bucket is not negative; a PIR of 0 means no cap (R250). -/
def peakOk (s : State) (n : Nat) : Bool := s.f F.SCH_SHP_PIR_RATE (32 * n) == 0 || decide (0 ≤ (s.shpRefP n).tokens)

/-- The committed bucket counts as at least 0 (R244: never with a CIR of 0). -/
def committedOk (s : State) (n : Nat) : Bool :=
  s.f F.SCH_SHP_CIR_RATE (32 * n) != 0 && decide (0 ≤ (s.shpRefC n).tokens)

/-- Charge a shaper with `l` bytes (R250): tokens saturate at -2^47. -/
def shpCharge (s : State) (n l : Nat) : State :=
  let c := s.shpRefC n
  let p := s.shpRefP n
  let sub (t : Int) : Int := max (-(2 ^ 47 : Nat)) (t - (l * 65536 : Nat))
  (s.setBucket (shpC n) { c with tokens := sub c.tokens }).setBucket (shpP n) { p with tokens := sub p.tokens }

/-- Metering by policer `p` of `n` bytes with input colour `col` (R251): the colour 0 green, 1 yellow, 2 red. -/
def meter (s : State) (p n col : Nat) : Nat × State :=
  let i := 32 * p
  let b : Int := (s.charged n (s.f F.SCH_POL_CFG_LPROF i) * 65536 : Nat)
  let aware := s.flag F.SCH_POL_CFG_AWARE i
  let cbs := s.f F.SCH_POL_CBS_DEPTH i
  let xbs := s.f F.SCH_POL_XBS_DEPTH i
  let c0 := s.bucket (polC p)
  let x0 := s.bucket (polX p)
  let r := if s.f F.SCH_POL_CFG_MODE i = 1 then
      let c := c0.refresh s.tick (s.f F.SCH_POL_CIR_RATE i) cbs
      let x := x0.refresh s.tick (s.f F.SCH_POL_PIR_RATE i) xbs
      if (aware && col == 2) || decide (x.tokens < b) then (2, c, x)
      else if (aware && col == 1) || decide (c.tokens < b) then (1, c, { x with tokens := x.tokens - b })
      else (0, { c with tokens := c.tokens - b }, { x with tokens := x.tokens - b })
    else
      let a := s.f F.SCH_POL_CIR_RATE i * (s.tick - c0.last) + c0.carry
      let t := c0.tokens + (a / 256 : Nat)
      let cMax : Int := (cbs * 65536 : Nat)
      let xMax : Int := (xbs * 65536 : Nat)
      let ct := min t cMax
      let xt := min (x0.tokens + max 0 (t - cMax)) xMax
      let carry := if ct = cMax ∧ xt = xMax ∧ t > cMax then 0 else a % 256
      let c : Bucket := { tokens := ct, carry := carry, last := s.tick }
      let x : Bucket := { tokens := xt, carry := 0, last := s.tick }
      if (!aware || col == 0) && decide (b ≤ c.tokens) then (0, { c with tokens := c.tokens - b }, x)
      else if (!aware || col ≤ 1) && decide (b ≤ x.tokens) then (1, c, { x with tokens := x.tokens - b })
      else (2, c, x)
  (r.1, ((s.setBucket (polC p) r.2.1).setBucket (polX p) r.2.2).bump (polCnt p r.1))

/-- BURST of an Express policer as used: clamped for client egress ports to floor(0.64 µs * P / 8) bytes (R254). -/
def xpolBurst (s : State) (k : Nat) : Nat :=
  let b := s.f F.SCH_XPOL_BURST_DEPTH (16 * k)
  if 512 ≤ k ∧ k < 520 then min b (80 * s.portGbps) else b

/-- Express policer `k` on a frame of `n` bytes (R253): does it conform? -/
def xpol (s : State) (k n : Nat) : Bool × State :=
  if !s.flag F.SCH_XPOL_CFG_EN (16 * k) then (true, s)
  else
    let b : Int := (s.charged n (s.f F.SCH_XPOL_CFG_LPROF (16 * k)) * 65536 : Nat)
    let t := (s.bucket (xpolB k)).refresh s.tick (s.f F.SCH_XPOL_CIR_RATE (16 * k)) (s.xpolBurst k)
    if b ≤ t.tokens then (true, s.setBucket (xpolB k) { t with tokens := t.tokens - b })
    else (false, (s.setBucket (xpolB k) t).bump (schCnt 3))

/-- Event 356: an Express frame does not conform at point `k`. -/
def xpolEvent (s : State) (k : Nat) (dropped : Bool) : State :=
  s.raiseLim ticksPerMs k 356 1 0 (k + (if dropped then 1024 else 0))

/-- A write to a register of a bucket's configuration: the register takes the value and its bucket is filled
(R249). -/
def bucketWrite (s : State) (a : Nat) (v : Word) : State :=
  let full (s : State) (k : Nat) (F : Fld) (i : Nat) : State := s.setBucket k (bucketFull s.tick (s.f F i))
  match regRow a with
  | none => s
  | some r =>
    let s1 := s.setReg a ((s.reg a &&& ~~~ (BitVec.ofNat 32 r.rw)) ||| (v &&& BitVec.ofNat 32 r.rw))
    if 0xE50000 ≤ a ∧ a < 0xE58000 then
      let n := (a - 0xE50000) / 32
      match (a - 0xE50000) % 32 / 4 with
      | 0 => full s1 (shpC n) F.SCH_SHP_CBS_DEPTH (32 * n)
      | 1 => full s1 (shpC n) F.SCH_SHP_CBS_DEPTH (32 * n)
      | 2 => full s1 (shpP n) F.SCH_SHP_PBS_DEPTH (32 * n)
      | 3 => full s1 (shpP n) F.SCH_SHP_PBS_DEPTH (32 * n)
      | _ => s1
    else if 0xE60000 ≤ a ∧ a < 0xE80000 then
      let p := (a - 0xE60000) / 32
      let fc (s : State) := full s (polC p) F.SCH_POL_CBS_DEPTH (32 * p)
      let fx (s : State) := full s (polX p) F.SCH_POL_XBS_DEPTH (32 * p)
      match (a - 0xE60000) % 32 / 4 with
      | 0 => fx (fc s1)
      | 1 => fc s1
      | 2 => fc s1
      | 3 => fx s1
      | 4 => fx s1
      | _ => s1
    else if 0xE80000 ≤ a ∧ a < 0xE82110 then
      let k := (a - 0xE80000) / 16
      if (a - 0xE80000) % 16 < 12 then full s1 (xpolB k) F.SCH_XPOL_BURST_DEPTH (16 * k) else s1
    else s1

/-! ### Gate lists (R256 to R259) -/

def gate (s : State) (g : Nat) : Gate := sget (fun _ => {}) s.gates g
def setGate (s : State) (g : Nat) (x : Gate) : State := { s with gates := sset (fun _ => {}) s.gates g x }

end State

/-- Reset of an entry word: word 1 (GATES) reads 0xFF. -/
def gateDefault (k : Nat) : Nat := if k % 2 = 1 then 0xFF else 0

/-- The entries of a list from entry `e` on: interval and gates. -/
def gateEntries (m : SMap Nat) (g : Nat) : Nat → Nat → List (Nat × Nat)
  | _, 0 => []
  | e, k + 1 => (sget gateDefault m (g * 2048 + 2 * e), sget gateDefault m (g * 2048 + 2 * e + 1))
      :: gateEntries m g (e + 1) k

/-- The runs of one cycle (R256): entries of interval 0 are skipped, the last gates hold until the cycle ends, what lies
beyond the cycle is not reached. -/
def gateCut (cycle : Nat) : List (Nat × Nat) → Nat → Nat → List (Nat × Nat)
  | [], t, last => if t < cycle then [(cycle - t, last)] else []
  | (d, g) :: es, t, last =>
    if t ≥ cycle then []
    else if d = 0 then gateCut cycle es t last
    else (min d (cycle - t), g) :: gateCut cycle es (t + d) g

/-- Time from offset `t` of a run list until the class's gate closes. -/
def openRun (cls : Nat) : List (Nat × Nat) → Nat → Nat
  | [], _ => 0
  | (d, g) :: es, t =>
    if t ≥ d then openRun cls es (t - d)
    else if bitOf g cls then (d - t) + openRun cls es 0 else 0

/-- The longest open run of a run list (used on the cycle written twice, R258). -/
def longestRun (cls : Nat) : List (Nat × Nat) → Nat → Nat → Nat
  | [], cur, best => max cur best
  | (d, g) :: es, cur, best =>
    if bitOf g cls then longestRun cls es (cur + d) best else longestRun cls es 0 (max cur best)

namespace State

/-- An operating list runs for the list (R256). -/
def gateRuns (s : State) (g : Nat) : Bool := s.flag F.SCH_GCL_CTRL_RUN (32 * g)

/-- The runs of the operating list's cycle. -/
def gateSegs (s : State) (g : Nat) : List (Nat × Nat) :=
  gateCut (s.gate g).cycle (gateEntries s.gateOpr g 0 (s.gate g).len) 0 0xFF

/-- Every run open for the class: no window limit. -/
def gateAlways (s : State) (g cls : Nat) : Bool :=
  cls == 7 || !s.gateRuns g || (s.gateSegs g).all fun x => bitOf x.2 cls

/-- How long the class's gate stays open from ToD `t` ns on; 0 when it is closed (R258: joined across the cycle end). -/
def gateLeft (s : State) (g cls t : Nat) : Nat :=
  let x := s.gate g
  let seg := s.gateSegs g
  openRun cls (seg ++ seg) ((t - x.start) % (max 1 x.cycle))

/-- The longest window of a class in the operating list. -/
def gateLongest (s : State) (g cls : Nat) : Nat :=
  longestRun cls (s.gateSegs g ++ s.gateSegs g) 0 0

/-- A frame that ends at `fin` ns, with its gate checked from `t` ns on, fits the current window (R258). -/
def gateFits (s : State) (g cls t fin : Nat) : Bool :=
  s.gateAlways g cls || (decide (0 < s.gateLeft g cls t) && decide (fin - t ≤ s.gateLeft g cls t))

/-- The list that gates a queue's node: its allocation group or its client port; none for the host. -/
def qList (s : State) (q : Nat) : Option Nat := if s.qNode q < 520 then some (s.qNode q) else none

/-- The side whose bursts carry allocation group `g` (R135, R138): the active side of a protected pair, and of an unpaired chip
the side its half belongs to; a bonded pair sends at the rate of side A (DESIGN CHOICE, log 212). -/
def groupSide (s : State) (g : Nat) : Side :=
  match s.f F.PRT_CFG_MODE with
  | 0 => if g < 256 then .a else .b
  | 1 => if s.flag F.PRT_STAT_ACTIVE then .b else .a
  | _ => .a

/-- Nanoseconds a frame of charged length `l` takes at its node: at the port rate, or at the upstream line rate of its side
(B bits per tick, R117). -/
def lengthNs (s : State) (q l : Nat) : Nat :=
  if q < 4096 then ceilDiv (l * 8 * 625) (s.bOf (s.groupSide (s.qNode q)) * 486) else ceilDiv (l * 8) s.portGbps

/-- A frame longer than every window of its class (R259). -/
def tooLong (s : State) (q n : Nat) : Bool :=
  match s.qList q with
  | none => false
  | some g => !s.gateAlways g (s.qClass q)
      && decide (s.gateLongest g (s.qClass q) < s.lengthNs q (s.charged n (s.f F.SCH_Q_CFG_LPROF (16 * q))))

/-! ### Admission (R241 to R243, R259, R459) -/

/-- Refusal by a queue: its DROP counters, and event 352 once per ms and queue (R242). -/
def qRefuse (s : State) (q n colour : Nat) (nobuf : Bool) : State :=
  (((s.bumpIf nobuf (schCnt 0)).bump (qCnt q 2)).bump (qCnt q 3) n).raiseLim ticksPerMs q 352 1 0
    (q + colour * 2 ^ 13 + (if nobuf then 2 ^ 15 else 0))

/-- The admission limit for a colour, in bytes (R242). -/
def qLimit (s : State) (q colour : Nat) : Nat :=
  let m := s.f F.SCH_Q_CFG2_MAX (16 * q)
  256 * (match colour with
    | 0 => m
    | 1 => min m (s.f F.SCH_Q_CFG2_YELLOW_THR (16 * q))
    | _ => min m (s.f F.SCH_Q_CFG3_RED_THR (16 * q)))

/-- Launch time of a head frame (R287, R288): 0 not yet reached, 1 reached, 2 past. -/
def launchState (x : Frame) (t : Nat) : Nat :=
  match x.launch with
  | none => 1
  | some tl =>
    let d := (tl + 2 ^ 64 - t % 2 ^ 64) % 2 ^ 64
    if d = 0 then 1 else if d ≥ 2 ^ 63 then 2 else 0

/-- TX_ADV of a client port's node in ticks, truncated (R287). -/
def txAdvTicks (s : State) (node : Nat) : Nat := s.f F.SCH_NODE_CFG_TX_ADV (4 * node) * 486 / 625

/-- The tick a queue's launch times are compared with (R287, R288). -/
def launchTick (s : State) (q tick : Nat) : Nat :=
  if 4096 ≤ q ∧ q < 6144 then tick + s.txAdvTicks (s.qNode q) else tick

/-- The spill area has room for `n` more bytes (R345). -/
def spillRoom (s : State) (n : Nat) : Bool :=
  decide ((s.queues.map fun e => (e.2.frames.map fun x => if x.spilled && !x.back then x.body else 0).sum).sum + n
    ≤ s.f F.MEM_SPILL_SIZE_MIB * 2 ^ 20)

/-- A spill write may be the one an armed flip mask waits for (R360): surely when the body covers every channel's blocks, else as
its place decides, which the spec does not give. -/
def spillFlip (s : State) (x : Frame) : Frame × State :=
  if !s.flag F.MEM_FLIP_CFG_ARM || s.flag F.MEM_FLIP_CFG_KIND || !s.chUp.contains (s.f F.MEM_FLIP_CFG_TARGET) then (x, s)
  else
    let b := s.takeFree 1
    if 256 * s.chUp.length ≤ x.body ∨ b.1 = 1 then
      ({ x with flip := max x.flip (maskVerdict false s.flipMask) }, b.2.flipUsed)
    else (x, b.2)

/-- The body of a spilled frame goes to DRAM (R243, R459): its reference to the stored cells is given back, and a fresh one, of
no cells, stands for what it keeps in Paddock. -/
def spillOut (st : State) (x0 : Frame) : Frame × State :=
  let r := st.spillFlip x0
  let x := r.1
  let s1 := (r.2.padUnref x.handle).ddrWr x.body
  ({ x with unsent := false, handle := s1.nextHandle },
   { s1 with nextHandle := s1.nextHandle + 1 }.setPad s1.nextHandle { cells := 0, refs := 1 })

/-- The bodies of a queue that wait for crossing 9 are written, oldest first. -/
def spillQueue (s : State) : List Frame → List Frame × State
  | [] => ([], s)
  | x :: xs =>
    let r := if x.unsent then s.spillOut x else (x, s)
    let z := r.2.spillQueue xs
    (r.1 :: z.1, z.2)

/-- Spill writes held at a closed crossing 9 go out once it is open (R32). -/
def spillFlush (s : State) : State :=
  if !s.xOpen 9 || !(s.queues.any fun e => e.2.frames.any Frame.unsent) then s
  else s.queues.foldl (fun s e =>
    let z := s.spillQueue (s.que e.1).frames
    z.2.setQue e.1 { z.2.que e.1 with frames := z.1 }) s

/-- What reaches the head of a queue: an unreadable spilled frame is dropped (R243, event 361), and so is one longer than every
window of its class, counted as at ENQ (R242, R259); the launch time of another is judged (R288): a late one is dropped or marked.
After a drop the next frame is at the head. -/
def qHead (s : State) (q : Nat) : Nat → State
  | 0 => s
  | k + 1 =>
    match (s.que q).frames with
    | [] => s
    | x :: rest =>
      let gone := (s.setQue q { s.que q with frames := rest }).padDrop x
      let late := launchState x (s.launchTick q s.tick) == 2
      if x.lost && x.back then ((gone.bump (schCnt 7)).raise 361 1 0 q).qHead q k
      else if s.tooLong q x.data.length then
        ((((gone.bump (schCnt 4)).bump (qCnt q 2)).bump (qCnt q 3) x.data.length).raise 359 1 0 q).qHead q k
      else if x.judged then s
      else if late && s.flag F.SCH_Q_CFG1_LATE_DROP (16 * q) then
        ((gone.bump (timCnt 6)).raiseLim ticksPerMs 0 392 1 0 (q + 2 ^ 13)).qHead q k
      else
        let s1 := s.setQue q { s.que q with frames := { x with judged := true, late := late } :: rest }
        if late then (s1.bump (timCnt 5)).raiseLim ticksPerMs 0 392 1 0 q else s1

/-- The frames of a queue change, and what comes to its head with them. -/
def setFrames (s : State) (q : Nat) (fs : List Frame) : State :=
  (s.setQue q { s.que q with frames := fs }).qHead q (fs.length + 1)

/-- Put an admitted frame at the tail (R242, R243): beyond SPILL_AT its body goes to DRAM through crossing 9, which it waits for
while it is closed (R32). -/
def qAppend (s : State) (q : Nat) (x : Frame) : State :=
  let x := { x with enq := s.tick, spilled := false, back := false, lost := false, unsent := false, judged := false, late := false }
  let spill := s.flag F.SCH_Q_CFG_SPILL (16 * q) && s.qClass q != 7
    && decide (s.qPadBytes q > s.f F.SCH_CFG_SPILL_AT * 256) && s.spillRoom x.body
  if !spill then s.setFrames q ((s.que q).frames ++ [x])
  else
    let s1 := s.bump (schCnt 6)
    (s1.setFrames q ((s1.que q).frames ++ [{ x with spilled := true, unsent := true }])).spillFlush

/-- Head cells of a composed frame of which `head` bytes come from the window (R459). -/
def headCells (head : Nat) : Nat := max 1 (ceilDiv head 256)

/-- Admission to queue `q` (R242, R259, R459): the frame enters, or is DROPPED (status 8). A frame that enters takes
head cells of its own and a reference to the stored cells. -/
def qAdmit (s : State) (q : Nat) (x : Frame) (head colour : Nat) : Nat × State :=
  let n := x.data.length
  if s.groupHeld 98 then (8, s)
  else if !s.flag F.SCH_Q_CFG_EN (16 * q) then (8, s.qRefuse q n colour false)
  else if s.tooLong q n then
    (8, ((((s.bump (schCnt 4)).raise 359 1 0 q).bump (qCnt q 2)).bump (qCnt q 3) n))
  else if s.qBytes q + n > s.qLimit q colour then (8, s.qRefuse q n colour false)
  else if !s.padMay x.exp (headCells head) then (8, s.qRefuse q n colour true)
  else (0, (((s.flipChip 98).padTake (headCells head)).padRef x.handle).qAppend q {
    x with heads := headCells head, headLen := head })

/-- The Express policer of a node's ENQ point (R253). -/
def nodeXpol (node : Nat) : Nat := if node < 520 then node else 528

/-- The queue a frame demoted from `q` enters: an enabled class-6 queue of the same node (R241). -/
def demoteQ (s : State) (q : Nat) : Option Nat :=
  let d := s.f F.SCH_Q_CFG1_DEMOTE (16 * q)
  let t := qsetBase (qsetOf q) + d
  if d < qsetCount (qsetOf q) && s.flag F.SCH_Q_CFG_EN (16 * t) && s.qClass t == 6 && s.qNode t == s.qNode q then some t
  else none

/-- Demotion (R241): counted, or refused for an invalid DEMOTE. -/
def qDemote (s : State) (q : Nat) (x : Frame) (head colour : Nat) : Nat × State :=
  match s.demoteQ q with
  | none => (8, (s.bump (schCnt 2)).raise 360 1 0 q)
  | some t => (s.bump (schCnt 1)).qAdmit t { x with exp := false } head colour

/-- The entry of a frame by ENQ into queue `q` with class `cls` (R241, R253). -/
def qEnter (s : State) (q cls : Nat) (x : Frame) (head colour : Nat) : Nat × State :=
  if s.qClass q ≠ 7 then s.qAdmit q { x with exp := false } head colour
  else if cls = 7 && x.exp then
    let k := nodeXpol (s.qNode q)
    let r := s.xpol k x.data.length
    if r.1 then r.2.qAdmit q x head colour
    else if s.flag F.SCH_XPOL_CFG_MODE (16 * k) then
      (8, ((r.2.bump (qCnt q 2)).bump (qCnt q 3) x.data.length).xpolEvent k true)
    else (r.2.xpolEvent k false).qDemote q x head colour
  else s.qDemote q x head colour

/-! ### Virtual time (R245 to R247) -/

def vtime (s : State) (k : Nat) : Nat := sget (fun _ => 0) s.vtimes k
def setVtime (s : State) (k v : Nat) : State := { s with vtimes := sset (fun _ => 0) s.vtimes k (v % 2 ^ 64) }
def grp (s : State) (c : Nat) : Child := sget (fun _ => {}) s.groups c
def setGrp (s : State) (c : Nat) (x : Child) : State := { s with groups := sset (fun _ => {}) s.groups c x }

end State

/-- Tag `a` precedes tag `b` (R247). -/
def precedes (a b : Nat) : Bool := decide ((a + 2 ^ 64 - b % 2 ^ 64) % 2 ^ 64 ≥ 2 ^ 63)

/-- The new tag and remainder of a child of weight `w` charged `l` bytes (R245). -/
def advanceTag (tag rem w l : Nat) : Nat × Nat :=
  let q := l * 2 ^ 24 + rem
  ((tag + q / max 1 w) % 2 ^ 64, q % max 1 w)

/-- The earliest of numbered tags, ties to the lower number (the list is in rising number order). -/
def earliest : List (Nat × Nat) → Option Nat
  | [] => none
  | (n, t) :: xs => some ((xs.foldl (fun b x => if precedes x.2 b.2 then x else b) (n, t)).1)

/-- Where and when a node takes a frame: the tick for launch times, the ToD in ns at which the transmission begins, and for an
allocation group the ToD in ns at which a frame of queue q with n bytes ends, by its place in the burst (R258, R287). -/
structure TakeCtx where
  tick : Nat
  startNs : Nat
  finish : Nat → Nat → Nat := fun _ _ => 0

namespace State

/-- Queues of a node that hold a frame, in rising order. -/
def nodeQueues (s : State) (node : Nat) : List Nat :=
  (s.queues.filter fun e => !e.2.frames.isEmpty && s.qNode e.1 == node).map (·.1)

/-- The gate of a queue admits its head frame (R258). -/
def gateAdmits (s : State) (q n : Nat) (ctx : TakeCtx) : Bool :=
  match s.qList q with
  | none => true
  | some g =>
    let l := s.charged n (s.f F.SCH_Q_CFG_LPROF (16 * q))
    let p := g - 512
    if q < 4096 then s.gateFits g (s.qClass q) ctx.startNs (ctx.finish q n)
    else if s.pmpActive p && !s.emacClass p (s.qClass q) then
      s.gateAlways g (s.qClass q) || decide (0 < s.gateLeft g (s.qClass q) ctx.startNs)
    else s.gateFits g (s.qClass q) ctx.startNs
      (ctx.startNs + s.f F.SCH_NODE_CFG_TX_ADV (4 * g) + s.lengthNs q l)

/-- A host queue may deliver (R332): HIF_HQ.EN, and an enabled RX ring with a descriptor not yet taken. -/
def hostQueueOk (s : State) (q : Nat) : Bool :=
  let hq := q - 6144
  let r := s.f F.HIF_HQ_RING (4 * hq)
  let ring := sget (fun _ => ({} : Ring)) s.rings r
  let waiting := ((s.xing 7).other.filter fun x => s.f F.HIF_HQ_RING (4 * (x.outQ - 6144)) == r).length
  s.flag F.HIF_HQ_EN (4 * hq) && s.flag F.HIF_RING_CFG_EN (0x40 * r) && s.f F.HIF_RING_CFG_TYPE (0x40 * r) == 1
    && decide (ring.done + waiting < ring.taken)

/-- A queue is eligible (the list before R244). -/
def qEligible (s : State) (ctx : TakeCtx) (q : Nat) : Bool :=
  match (s.que q).frames with
  | [] => false
  | x :: _ =>
    (!x.spilled || x.back) && decide (launchState x (s.launchTick q ctx.tick) ≠ 0) && s.gateAdmits q x.data.length ctx
      && (decide (q < 6144) || s.hostQueueOk q)
      && (s.qClass q == 7 ||
        ((!s.flag F.SCH_Q_CFG_SH_EN (16 * q) || s.peakOk (s.f F.SCH_Q_CFG_SHAPER (16 * q)))
          && (decide (s.qNode q < 512) || !s.flag F.SCH_NODE_CFG_SH_EN (4 * s.qNode q)
            || s.peakOk (s.f F.SCH_NODE_CFG_SHAPER (4 * s.qNode q)))))

/-- The heads of a node's queues are looked at again, for a gate list may have changed (R259). -/
def nodeHeads (s : State) (node : Nat) : State :=
  (s.nodeQueues node).foldl (fun s q => s.qHead q ((s.que q).frames.length + 1)) s

/-- The virtual time a queue's tag belongs to: its node's Express level, or its class group. -/
def qLevel (s : State) (q : Nat) : Nat := if s.qClass q = 7 then s.qNode q else 2048 + s.qGroup q

/-- Before a decision of a node (R246): a queue still without frames counts as empty, and one that has become eligible
after being empty takes its level's V; the same for the class groups. -/
def vtWake (s : State) (ctx : TakeCtx) (node : Nat) : State :=
  let s1 := s.queues.foldl (fun s e =>
    if s.qNode e.1 = node then
      let x := s.que e.1
      if x.frames.isEmpty then s.setQue e.1 { x with live := false, tag := 0, rem := 0 }
      else if !x.live && s.qEligible ctx e.1 then
        s.setQue e.1 { x with live := true, tag := s.vtime (s.qLevel e.1), rem := 0 }
      else s
    else s) s
  (List.range 8).foldl (fun s g =>
    let c := 8 * node + g
    let qs := (s.nodeQueues node).filter fun q => s.qClass q != 7 && s.qGroup q == c
    let x := s.grp c
    if qs.isEmpty then s.setGrp c {}
    else if !x.live && qs.any (s.qEligible ctx) then s.setGrp c { live := true, tag := s.vtime (1024 + node), rem := 0 }
    else s) s1

/-- Promotion of waiting queues to the aged tier, checked at each decision of the node (R255). -/
def vtAge (s : State) (node : Nat) : State :=
  if !s.flag F.SCH_CFG_AGE_EN then s
  else (s.nodeQueues node).foldl (fun s q =>
    let x := s.que q
    let thr := s.f F.SCH_Q_CFG3_AGE_THR (16 * q)
    match x.frames with
    | h :: _ =>
      if s.qClass q ≠ 7 && thr ≠ 0 && x.aged.isNone && decide (thr * 7776 / 10 < s.tick - h.enq) then
        (({ s with promotions := s.promotions + 1 }.setQue q { x with aged := some s.promotions }).bump
          (schCnt 5)).raiseLim ticksPerMs 0 357 1 0 q
      else s
    | [] => s) s

/-- Class groups of a node that may send (R244): enabled, with an eligible queue, own peak bucket not negative. -/
def openGroups (s : State) (ctx : TakeCtx) (node : Nat) : List Nat :=
  ((List.range 8).map (8 * node + ·)).filter fun c =>
    s.flag F.SCH_CG_CFG_EN (4 * c)
      && (s.nodeQueues node).any (fun q => s.qClass q != 7 && s.qGroup q == c && s.qEligible ctx q)
      && (!s.flag F.SCH_CG_CFG_SH_EN (4 * c) || s.peakOk (s.f F.SCH_CG_CFG_SHAPER (4 * c)))

/-- The committed bucket of a class group, and of a queue, counts as at least 0 (R244). -/
def grpCommitted (s : State) (c : Nat) : Bool :=
  s.flag F.SCH_CG_CFG_SH_EN (4 * c) && s.committedOk (s.f F.SCH_CG_CFG_SHAPER (4 * c))
def qCommitted (s : State) (q : Nat) : Bool :=
  s.flag F.SCH_Q_CFG_SH_EN (16 * q) && s.committedOk (s.f F.SCH_Q_CFG_SHAPER (16 * q))

/-- The group of highest PRI, ties to the lower number. -/
def strictest (s : State) : List Nat → Option Nat
  | [] => none
  | c :: cs => some (cs.foldl (fun b x =>
      if s.f F.SCH_CG_CFG_PRI (4 * x) > s.f F.SCH_CG_CFG_PRI (4 * b) then x else b) c)

/-- The queue select(node) chooses (R244), and whether it comes from the aged tier. -/
def choose (s : State) (ctx : TakeCtx) (node : Nat) : Option (Nat × Bool) :=
  let el := (s.nodeQueues node).filter (s.qEligible ctx)
  let ex := el.filter fun q => s.qClass q == 7
  let ag := el.filter fun q => s.qClass q != 7 && (s.que q).aged.isSome
  let tags (qs : List Nat) := qs.map fun q => (q, (s.que q).tag)
  match earliest (tags ex) with
  | some q => some (q, false)
  | none =>
    match ag with
    | a :: as => some ((as.foldl (fun b x => if (s.que x).aged.getD 0 < (s.que b).aged.getD 0 then x else b) a), true)
    | [] =>
      let gs := s.openGroups ctx node
      let st := gs.filter fun c => s.flag F.SCH_CG_CFG_STRICT (4 * c)
      let gtags (cs : List Nat) := cs.map fun c => (c, (s.grp c).tag)
      let com := gs.filter s.grpCommitted
      let g := if !st.isEmpty then s.strictest st else earliest (gtags (if com.isEmpty then gs else com))
      match g with
      | none => none
      | some c =>
        let qs := el.filter fun q => s.qClass q != 7 && s.qGroup q == c
        let qc := qs.filter s.qCommitted
        (earliest (tags (if qc.isEmpty then qs else qc))).map fun q => (q, false)

/-- Charge the shapers on a frame's path (R250). -/
def chargePath (s : State) (q l : Nat) : State :=
  let ex := s.qClass q == 7
  let node := s.qNode q
  let c := s.qGroup q
  let s1 := if !ex && s.flag F.SCH_Q_CFG_SH_EN (16 * q) then s.shpCharge (s.f F.SCH_Q_CFG_SHAPER (16 * q)) l else s
  let s2 := if !ex && s.flag F.SCH_CG_CFG_SH_EN (4 * c) then s1.shpCharge (s.f F.SCH_CG_CFG_SHAPER (4 * c)) l else s1
  if 512 ≤ node && s.flag F.SCH_NODE_CFG_SH_EN (4 * node) then s2.shpCharge (s.f F.SCH_NODE_CFG_SHAPER (4 * node)) l
  else s2

/-- Advance the virtual times and tags for a selected queue (R245, R255). -/
def chargeTags (s : State) (q l : Nat) (aged : Bool) : State :=
  let node := s.qNode q
  let x := s.que q
  let w := s.f F.SCH_Q_CFG1_WEIGHT (16 * q)
  if s.qClass q = 7 then
    let n := advanceTag x.tag x.rem w l
    (s.setVtime node x.tag).setQue q { x with tag := n.1, rem := n.2 }
  else
    let c := s.qGroup q
    if aged then s.setQue q { x with tag := s.vtime (2048 + c), rem := 0, aged := none }
    else
      let y := s.grp c
      let n := advanceTag x.tag x.rem w l
      let m := advanceTag y.tag y.rem (s.f F.SCH_CG_CFG_WEIGHT (4 * c)) l
      (((s.setVtime (2048 + c) x.tag).setQue q { x with tag := n.1, rem := n.2 }).setVtime (1024 + node) y.tag).setGrp c
        { y with tag := m.1, rem := m.2 }

/-- A decision of a node before the choice: heads cleaned, tags woken, waiting queues promoted. -/
def decide0 (s : State) (ctx : TakeCtx) (node : Nat) : State :=
  ((s.nodeHeads node).vtWake ctx node).vtAge node

/-- select(node) (R244 to R248, R250): the frame taken, charged to its path, or none. -/
def select (s : State) (ctx : TakeCtx) (node : Nat) : Option Frame × State :=
  let s1 := s.decide0 ctx node
  match s1.choose ctx node with
  | none => (none, s1)
  | some (q, aged) =>
    match (s1.que q).frames with
    | [] => (none, s1)
    | x :: rest =>
      let l := s1.charged x.data.length (s1.f F.SCH_Q_CFG_LPROF (16 * q))
      let s2 := (s1.chargeTags q l aged).chargePath q l
      let s3 := s2.setFrames q rest
      (some { x with outQ := q }, (s3.bump (qCnt q 0)).bump (qCnt q 1) l)

/-- The context of a node that takes a frame now. -/
def takeNow (s : State) : TakeCtx := { tick := s.tick, startNs := s.todNs }

/-! ### Configuration writes (R240, R242, R256, R257) -/

/-- Enabled queues that name allocation group `g`, other than `q` (R240). -/
def groupQueues (s : State) (g q : Nat) : Nat :=
  (s.regs.filter fun e => decide (0xE20000 ≤ e.1) && decide (e.1 < 0xE20000 + 16 * 4096) && e.1 % 16 == 0
    && e.1 != 0xE20000 + 16 * q && F.SCH_Q_CFG_EN.of e.2 == 1 && F.SCH_Q_CFG_NODE.of e.2 == g).length

/-- A write of a queue's configuration word (R240, R242): CLASS, CG and NODE only while EN = 0 and HELD = 0; a write
that would enable a ninth queue of an allocation group is discarded. -/
def queueCfgWrite (s : State) (q word : Nat) (v : Word) : State :=
  let a := 0xE20000 + 16 * q + 4 * word
  match word with
  | 0 =>
    let old := s.reg a
    let locked := s.flag F.SCH_Q_CFG_EN (16 * q) || s.flag F.SCH_Q_CFG1_HELD (16 * q)
    let keep (F : Fld) (w : Word) : Word := if locked then F.put w (F.of old) else w
    let w := keep F.SCH_Q_CFG_NODE (keep F.SCH_Q_CFG_CG (keep F.SCH_Q_CFG_CLASS v))
    if decide (q < 4096) && F.SCH_Q_CFG_EN.of w == 1 && !s.flag F.SCH_Q_CFG_EN (16 * q)
        && decide (8 ≤ s.groupQueues (F.SCH_Q_CFG_NODE.of w) q) then
      s.raise 360 1 0 (q + 2 ^ 13)
    else s.setReg a w
  | 1 =>
    let m := 0xFFFF1FFF#32
    s.setReg a ((s.reg a &&& ~~~ m) ||| (v &&& m))
  | _ => s.setReg a v

/-- Is a take-over pending for the list? -/
def gatePending (s : State) (g : Nat) : Bool := s.flag F.SCH_GCL_CTRL_PENDING (32 * g)

/-- Base time of a list's administrative copy in ns. -/
def gateBase (s : State) (g : Nat) : Nat :=
  (s.f F.SCH_GCL_BASE_S_LO_S (32 * g) + 2 ^ 32 * s.f F.SCH_GCL_BASE_S_HI_S (32 * g)) * 1000000000
    + s.f F.SCH_GCL_BASE_NS_NS (32 * g)

/-- A refused commit: RESULT, and event 355 (R257). -/
def gateRefuse (s : State) (g r : Nat) : State :=
  (s.setF F.SCH_GCL_CTRL_RESULT (32 * g) r).raise 355 1 0 (g + r * 1024)

/-- COMMIT (R257): the administrative list is checked, the comparator claimed and the take-over time set. -/
def gateCommit (s : State) (q : Req) (g comp : Nat) : State :=
  let len := s.f F.SCH_GCL_LEN_LEN (32 * g)
  let cyc := s.f F.SCH_GCL_CYCLE_NS (32 * g)
  if s.gatePending g then s.gateRefuse g 3
  else if len = 0 ∨ len > 1024 ∨ cyc = 0 ∨ cyc > 1000000000 ∨ s.f F.SCH_GCL_BASE_NS_NS (32 * g) ≥ 1000000000 then
    s.gateRefuse g 4
  else if !s.resFree (4 + comp) then (s.resConflict q (4 + comp)).gateRefuse g 2
  else
    let need := s.todNs + 10000
    let base := s.gateBase g
    let n := if base ≥ need then 0 else ceilDiv (need - base) cyc
    let t := base + n * cyc
    let s1 := (s.resTake q (4 + comp) 6).setF F.SCH_GCL_CTRL_RESULT (32 * g) 1
    let s2 := (s1.setFlag F.SCH_GCL_CTRL_PENDING (32 * g) true).setGate g { s1.gate g with pending := some (t, comp), late := decide (n ≠ 0) }
    let s3 := (((s2.setReg (0x1000300 + 16 * comp) (BitVec.ofNat 32 (t / 1000000000))).setReg (0x1000304 + 16 * comp)
      (BitVec.ofNat 32 (t / 1000000000 / 2 ^ 32 % 65536))).setReg (0x1000308 + 16 * comp)
      (BitVec.ofNat 32 (t % 1000000000)))
    let s4 := s3.cmpArm comp 6
    if n = 0 then s4
    else (s4.setFlag F.SCH_GCL_CTRL_LATE (32 * g) true).raise 354 1 0 (g + 65536 * min n 0xFFFF)

/-- Take-over at the comparator's firing (R257): the administrative copy becomes the operating list. -/
def gateTakeover (s : State) (g : Nat) : State :=
  match (s.gate g).pending with
  | none => s
  | some (t, _) =>
    let len := s.f F.SCH_GCL_LEN_LEN (32 * g)
    let opr := s.gateAdm.foldl (fun m e => if e.1 / 2048 = g then sset gateDefault m e.1 e.2 else m)
      (sdrop (fun k => k / 2048 == g) s.gateOpr)
    let s1 := { s with gateOpr := opr }.setGate g
      { pending := none, start := t, cycle := s.f F.SCH_GCL_CYCLE_NS (32 * g), len := len, pos := 0 }
    ((s1.setFlag F.SCH_GCL_CTRL_PENDING (32 * g) false).setFlag F.SCH_GCL_CTRL_RUN (32 * g) true).raise 353 1 0
      (g + (if (s.gate g).late then 1024 else 0))

/-- The run in force at an offset of the cycle. -/
def segIndex : List (Nat × Nat) → Nat → Nat → Nat
  | [], _, i => i
  | (d, _) :: es, t, i => if t < d then i else segIndex es (t - d) (i + 1)

/-! ### Queue sampling (R262) -/

/-- One record of the sampler for queue `q`. -/
def sampleOne (s : State) (q : Nat) : State :=
  let x := s.que q
  let delay := match x.frames with | h :: _ => min ((s.tick - h.enq) * 625 / 486) 0xFFFFFFFF | [] => 0
  let w0 := q + (if x.frames.isEmpty then 2 ^ 13 else 0) + s.sweep % 65536 * 65536
  let w1 := min (s.qBytes q) 0xFFFFFFFF
  let wp := s.f F.SCH_SAMP_STAT_WP
  let a := 0xE10000 + 16 * wp
  let s1 := (((s.setReg a (BitVec.ofNat 32 w0)).setReg (a + 4) (BitVec.ofNat 32 w1)).setReg (a + 8)
    (BitVec.ofNat 32 delay)).setReg (a + 12) (BitVec.ofNat 32 s.tick)
  let s2 := s1.setF F.SCH_SAMP_STAT_WP 0 ((wp + 1) % 4096)
  let s3 := if wp + 1 = 4096 then s2.setFlag F.SCH_SAMP_STAT_WRAPPED 0 true else s2
  if s.flag F.SCH_SAMP_CFG_CAP then
    s3.capOffer {
      typ := 4, tick := s.tick, info := q,
      payload := leBytes 4 w0 ++ leBytes 4 w1 ++ leBytes 4 delay ++ leBytes 4 s.tick }
  else s3

/-- The queues a sweep visits: enabled, with SAMP = 1, in order of q. -/
def sampleQueues (s : State) : List Nat :=
  (s.regs.filter fun e => decide (0xE20000 ≤ e.1) && decide (e.1 < 0xE20000 + 16 * 6272) && e.1 % 16 == 0
    && F.SCH_Q_CFG_EN.of e.2 == 1 && F.SCH_Q_CFG_SAMP.of e.2 == 1).map fun e => (e.1 - 0xE20000) / 16

/-- A word of a spilled body that its read-back meets: its place in the spill area, and its syndrome, are free (R353). -/
def spillWord (s : State) : (Nat × Nat) × State :=
  let b := s.takeFree 37
  let y := b.2.takeFree 16
  ((s.spillBase + 8 * (b.1 % max 1 (s.spillBytes / 8)), y.1), y.2)
def memUeSpill (s : State) : State :=
  let w := s.spillWord
  w.2.memUe false (s.dramPlace w.1.1).1 ((s.dramPlace w.1.1).2 / 64) w.1.1 2 0 w.1.2
def memCeSpill (s : State) : State :=
  let w := s.spillWord
  w.2.memCe false (s.dramPlace w.1.1).1 ((s.dramPlace w.1.1).2 / 64) w.1.1 2 0 w.1.2

/-- The oldest body of a queue still in DRAM is read back through crossing 8 into cells of Paddock (R243, R352): with the crossing
closed or no cells the read waits (R32; that a body read back takes cells is PRESUMED, log 211). -/
def spillBack (st : State) (q : Nat) (unc : Bool) : State :=
  let s := st.spillFlush
  let x := s.que q
  match x.frames.dropWhile fun f => !f.away with
  | [] => s
  | f :: fs =>
    let n := ceilDiv f.body 256
    if !s.xOpen 8 || !s.padMay false n then s
    else
      let s1 := ((s.padTake n).setPad f.handle { cells := n, refs := 1 }).ddrRd f.body
      let s2 := if unc || f.flip == 2 then s1.memUeSpill else if f.flip = 1 then s1.memCeSpill else s1
      s2.setFrames q ((x.frames.takeWhile fun f => !f.away) ++
        { f with back := true, lost := f.lost || unc || f.flip == 2, flip := 0 } :: fs)

/-- Bytes of a port's transmit store in use: frames in crossing 5, at the MAC and on the lanes that are not Express (R302). -/
def txStored (s : State) (p : Nat) : Nat :=
  let fs := (s.xing 5).other.filter (fun f => s.qNode f.outQ == 512 + p) ++ s.txOf p
    ++ ((s.macOf p).toList ++ (s.cutOf p).toList).map (fun m => m.frame)
  ((fs.filter fun f => !f.exp).map fun f => f.data.length).sum

/-- The scheduler serves a client port's node (R302): the link is up and the transmit store holds one more frame. -/
def portServes (s : State) (p : Nat) : Bool :=
  decide (p < s.portCount) && s.flag F.CLI_PORT_STAT_LINK (0x1000 * p)
    && decide (s.txStored p + s.maxLen p ≤ 2 * s.maxLen p)

/-- A write of SCH_GCL_CTRL (R257): COMP is stored unless a take-over is pending, or the commit ends other than OK (R37, log
193). -/
def gateCtrlWrite (s : State) (q : Req) (g : Nat) (v : Word) : State :=
  let comp := F.SCH_GCL_CTRL_COMP.of v
  let s1 := if F.SCH_GCL_CTRL_LATE.of v = 1 then s.setFlag F.SCH_GCL_CTRL_LATE (32 * g) false else s
  let put (s : State) : State := s.setF F.SCH_GCL_CTRL_COMP (32 * g) comp
  if F.SCH_GCL_CTRL_COMMIT.of v = 0 then (if s1.gatePending g then s1 else put s1)
  else
    let s2 := s1.gateCommit q g comp
    if s1.gatePending g || s2.f F.SCH_GCL_CTRL_RESULT (32 * g) != 1 then s2 else put s2

end State

/-! ### The commands -/

/-- SCHEDULER_SELECT (R244): a client port or the host takes a frame into its crossing when the queue the frame goes to has room
for an entry; lower classes never keep an Express frame out (R44, R458). An allocation group takes frames during burst assembly
only (R260). A scheduler held in reset takes none (R359). -/
def execSchedulerSelect (node : Fin 521) (s : State) : Host.Outcome State Fault Refusal :=
  .next (
    if node.val < 512 || s.groupHeld 98 || !(decide (node.val = 520) || s.portServes (node.val - 512)) then s
    else
      let x := if node.val < 520 then 5 else 7
      let s0 := s.decide0 s.takeNow node.val
      match s0.choose s.takeNow node.val with
      | none => s0
      | some (q, _) =>
        if !s0.xRoom x (s0.qClass q == 7) 1 then s
        else match s.select s.takeNow node.val with
          | (none, s1) => s1
          | (some f, s1) => s1.xPush x f)

/-- SPILL_READBACK_DONE (R243): the oldest frame still in DRAM is back on chip, or unreadable. -/
def execSpillReadbackDone (queue : Fin 6272) (unc : Bool) (s : State) : Host.Outcome State Fault Refusal :=
  .next (s.spillBack queue.val unc)

/-- QUEUE_CONFIG_WRITE (R242). -/
def execQueueConfigWrite (q : Req) (queue : Fin 6272) (word : Fin 4) (v : Word) (s : State) :
    Host.Outcome State Fault Refusal :=
  .next (s.guardW q (0xE20000 + 16 * queue.val + 4 * word.val) fun s => s.queueCfgWrite queue.val word.val v)

/-- BUCKET_CONFIG_WRITE (R249). -/
def execBucketConfigWrite (q : Req) (addr : Nat) (v : Word) (s : State) : Host.Outcome State Fault Refusal :=
  .next (s.guardW q addr fun s => if 0xE50000 ≤ addr ∧ addr < 0xE82110 then s.bucketWrite addr v else s)

/-- GATE_COMMIT (R257): a write of SCH_GCL_CTRL. -/
def execGateCommit (q : Req) (g : Fin 520) (v : Word) (s : State) : Host.Outcome State Fault Refusal :=
  .next (s.guardW q (0xE90014 + 32 * g.val) fun s => s.gateCtrlWrite q g.val v)

/-- GATE_ENTRY_ADVANCE (R256): the operating list moves to the entry in force at the present ToD. -/
def execGateEntryAdvance (g : Fin 520) (s : State) : Host.Outcome State Fault Refusal :=
  let x := s.gate g.val
  .next (if s.gateRuns g.val && decide (x.start ≤ s.todNs) then
      let t := s.todNs - x.start
      let c := max 1 x.cycle
      s.setGate g.val { x with start := x.start + t / c * c, pos := State.segIndex (s.gateSegs g.val) (t % c) 0 }
    else s)

/-- QUEUE_SAMPLE_SWEEP (R262): one sweep, or a period skipped because the previous sweep had not ended. -/
def execQueueSampleSweep (overrun : Bool) (s : State) : Host.Outcome State Fault Refusal :=
  .next (
    if !s.flag F.SCH_SAMP_CFG_EN then s
    else if overrun then
      let s1 := s.addReg 0xE00048 1
      s1.raiseLim ticksPerMs 0 358 1 0 ((s1.reg 0xE00048).toNat % 65536)
    else
      let s1 := s.sampleQueues.foldl (fun s q => s.sampleOne q) s
      { s1 with sweep := s1.sweep + 1 })

end Sys2Proof.Machine
end

