-- ==== Sys2Proof/Machine/Counters.lean ====
section
/-! DEFINITION. The live counters (R10, R11): the counter tables of every block as data, and the snapshot slots of
R419. -/

namespace Sys2Proof.Machine

/-- A counter table: `n` units `s` apart, `k` indices of 8 bytes each, and which indices are 64 bits and 32 bits wide. -/
structure CntBlock where
  base : Nat
  n : Nat := 1
  s : Nat := 8
  k : Nat
  w64 : List Nat := []
  w32 : List Nat := []
  deriving DecidableEq, Repr

/-- The counter tables of the spec, block by block. -/
def cntBlocks : List CntBlock := [
  /- downstream, R99 -/ { base := 0x401200, n := 2, s := 0x200000, k := 30, w64 := [10, 11, 13, 14, 15], w32 := [0, 1, 2, 3, 4, 5, 6, 7, 8, 9, 12, 16, 17, 18, 19, 20, 21, 22, 23, 24, 25] },
  /- upstream -/ { base := 0x406200, n := 2, s := 0x200000, k := 32, w64 := [0, 1, 2, 3, 4], w32 := [5, 6, 7, 8, 9, 10, 11, 12, 13, 14, 15, 16, 17] },
  /- pairing -/ { base := 0x800100, k := 16, w64 := [0, 1], w32 := [2, 3, 4, 5] },
  /- circuits -/ { base := 0x900100, k := 16, w64 := [0, 1, 2], w32 := [3, 4, 5, 6, 7, 8] },
  /- Harness link -/ { base := 0x980100, k := 16, w64 := [0, 3], w32 := [1, 2, 4, 5] },
  /- classifier -/ { base := 0xA00800, k := 32, w64 := [0, 7, 8, 9, 10, 11], w32 := [1, 2, 3, 4, 5, 6, 12, 13] },
  /- teams -/ { base := 0xC00100, n := 16, s := 0x10000, k := 16, w64 := [0, 1, 2], w32 := [3, 4, 5, 6, 7] },
  /- dispatch -/ { base := 0xD00800, k := 16, w64 := [0, 1], w32 := [2] },
  /- scheduler -/ { base := 0xE00100, k := 16, w64 := [1, 3, 5, 6], w32 := [0, 2, 4, 7] },
  /- queues -/ { base := 0xEB0000, n := 6272, s := 32, k := 4, w64 := [0, 1, 2, 3] },
  /- policers -/ { base := 0xEF0000, n := 4096, s := 32, k := 4, w64 := [0, 1, 2] },
  /- time -/ { base := 0x1000800, k := 16, w64 := [3, 4], w32 := [0, 1, 2, 5, 6, 7, 8] },
  /- client -/ { base := 0x1110200, n := 8, s := 0x1000, k := 32, w64 := [0, 1, 9, 11, 12, 17], w32 := [2, 3, 4, 5, 6, 7, 8, 10, 13, 14, 15, 16, 18] },
  /- host interface -/ { base := 0xB000, k := 16, w64 := [0, 1, 2, 3, 4, 11], w32 := [5, 6, 7, 8, 9, 10] },
  /- memory -/ { base := 0x1200800, k := 32, w64 := [0, 1, 2, 3, 8, 15, 16], w32 := [4, 5, 6, 7, 9, 10, 11, 12, 13, 14] },
  /- keys -/ { base := 0x1300800, k := 16, w64 := [9, 11, 12], w32 := [0, 1, 2, 3, 4, 5, 6, 7, 8, 10] },
  /- Groom -/ { base := 0x200300, k := 8, w64 := [1], w32 := [0, 2, 3, 4] },
  /- capture and Studbook -/ { base := 0x1400800, k := 16, w64 := [0, 1, 2, 3, 4, 5, 6, 7, 8, 9], w32 := [10, 11, 12, 13] },
  /- Farrier -/ { base := 0x1500800, k := 16, w32 := [0, 1, 2, 3, 4, 5, 6] } ]

/-- Width of the counter whose LO word is at `a`; 0 where no counter is. -/
def CntBlock.width (b : CntBlock) (a : Nat) : Nat :=
  if b.base ≤ a ∧ (a - b.base) / b.s < b.n ∨ b.base ≤ a ∧ b.n = 1 then
    let o := if b.n = 1 then a - b.base else (a - b.base) % b.s
    if o % 8 ≠ 0 then 0
    else if b.w64.contains (o / 8) then 64
    else if b.w32.contains (o / 8) then 32
    else 0
  else 0

/-- Width of the counter whose LO word is at `a`. -/
def cntWidth (a : Nat) : Nat := (cntBlocks.map fun b => b.width a).foldl max 0

/-- The counter (or the register) a snapshot slot shows (R419); `none` is a reserved slot. -/
def slotAddr (qfirst slot : Nat) : Option Nat :=
  let at' (base o : Nat) : Option Nat := some (base + 8 * o)
  if slot < 30 then at' 0x401200 slot
  else if slot < 60 then at' 0x601200 (slot - 30)
  else if slot < 92 then at' 0x406200 (slot - 60)
  else if slot < 124 then at' 0x606200 (slot - 92)
  else if slot < 140 then at' 0x800100 (slot - 124)
  else if slot < 156 then at' 0x900100 (slot - 140)
  else if slot < 172 then at' 0x980100 (slot - 156)
  else if slot < 204 then at' 0xA00800 (slot - 172)
  else if slot < 460 then at' (0xC00100 + 0x10000 * ((slot - 204) / 16)) ((slot - 204) % 16)
  else if slot < 476 then at' 0xD00800 (slot - 460)
  else if slot < 492 then at' 0xE00100 (slot - 476)
  else if slot < 508 then at' 0x1000800 (slot - 492)
  else if slot < 764 then at' (0x1110200 + 0x1000 * ((slot - 508) / 32)) ((slot - 508) % 32)
  else if slot < 780 then at' 0xB000 (slot - 764)
  else if slot < 812 then at' 0x1200800 (slot - 780)
  else if slot < 828 then at' 0x1300800 (slot - 812)
  else if slot < 836 then at' 0x200300 (slot - 828)
  else if slot < 852 then at' 0x1400800 (slot - 836)
  else if slot < 912 then some (0x1600008 + 0x20 * ((slot - 852) / 2) + 4 * ((slot - 852) % 2))
  else if slot < 1024 then none
  else if slot < 2048 ∧ qfirst + (slot - 1024) / 4 < 6272 then
    at' (0xEB0000 + 32 * (qfirst + (slot - 1024) / 4)) ((slot - 1024) % 4)
  else none

namespace State

/-- The value a counter's register pair shows: its own width of the count. -/
def cntValue (s : State) (a : Nat) : Nat := s.counter a % 2 ^ cntWidth a

/-- The value a slot latches: a counter, or XNG_DISC and XNG_TMO; a block whose region is off gives 0. -/
def slotValue (s : State) (qfirst slot : Nat) : Nat :=
  match slotAddr qfirst slot with
  | none => 0
  | some a =>
    if !(s.region (regionOf a)).on then 0
    else if 852 ≤ slot ∧ slot < 912 then (s.reg a).toNat
    else if cntWidth a = 0 then 0 else s.cntValue a

end State

end Sys2Proof.Machine
end

