-- ==== Sys2Proof/Machine/Host.lean ====
section
/-! DEFINITION. The host interface of spec/12_host_interface.md: rings, doorbells, descriptors and completions (R323 to
R333), segmented sends (R309 to R311), the event ring and MSI-X (R334 to R338), bus mastering and host reset (R315 to
R318). -/

namespace Sys2Proof.Machine

/-- Counter i of the host interface (0xB000 + 8 * i). -/
def hifCnt (i : Nat) : Nat := 0xB000 + 8 * i

/-- A power of two from 64 to 65,536 (R323, R334). -/
def ringSizeOk (n : Nat) : Bool := [64, 128, 256, 512, 1024, 2048, 4096, 8192, 16384, 32768, 65536].contains n

/-! ### Descriptors (R326 to R328) -/

end Sys2Proof.Machine

namespace Sys2Proof

open Sys2Proof.Machine

def Desc.addr (d : Desc) : Nat := d.w0.toNat + 2 ^ 32 * d.w1.toNat
def Desc.txLen (d : Desc) : Nat := bitsOf d.w2.toNat 0 18
def Desc.seg (d : Desc) : Bool := bitOf d.w2.toNat 19
def Desc.exp (d : Desc) : Bool := bitOf d.w2.toNat 20
def Desc.tsReq (d : Desc) : Bool := bitOf d.w2.toNat 21
def Desc.oneStep (d : Desc) : Bool := bitOf d.w2.toNat 22
def Desc.hdrLen (d : Desc) : Nat := bitsOf d.w2.toNat 24 8
def Desc.mss (d : Desc) : Nat := bitsOf d.w3.toNat 0 14
def Desc.txTag (d : Desc) : Nat := bitsOf d.w3.toNat 16 16
def Desc.tag (d : Desc) : Nat := bitsOf d.w3.toNat 0 16
def Desc.bufLen (d : Desc) : Nat := bitsOf d.w2.toNat 0 24
def Desc.jobLen (d : Desc) : Nat := d.w2.toNat
def Desc.op (d : Desc) : Nat := bitsOf d.w6.toNat 0 8
def Desc.unit (d : Desc) : Nat := bitsOf d.w6.toNat 8 8
def Desc.arg0 (d : Desc) : Nat := d.w4.toNat + 2 ^ 32 * d.w5.toNat
def Desc.arg1 (d : Desc) : Nat := d.w7.toNat

end Sys2Proof

namespace Sys2Proof.Machine

namespace State

/-! ### Rings -/

def ring (s : State) (r : Nat) : Ring := sget (fun _ => {}) s.rings r
def setRing (s : State) (r : Nat) (x : Ring) : State := { s with rings := sset (fun _ => {}) s.rings r x }
def ringN (s : State) (r : Nat) : Nat := s.f F.HIF_RING_SIZE_SIZE (0x40 * r)
def ringType (s : State) (r : Nat) : Nat := s.f F.HIF_RING_CFG_TYPE (0x40 * r)

/-- Descriptors of a ring already started as jobs. -/
def ringJobs (s : State) (r : Nat) : Nat := (s.jobs.filter fun j => j.ring == r).length

/-- A ring of the given type has a next descriptor: enabled, running, one submitted and not yet started (R331, R333). -/
def ringHas (s : State) (r type : Nat) : Bool :=
  s.flag F.HIF_RING_CFG_EN (0x40 * r) && s.ringType r == type && !s.flag F.HIF_RING_ERR_STOPPED (0x40 * r)
    && decide ((s.ring r).done + s.ringJobs r + (s.ring r).fetched.length < (s.ring r).taken)

/-- It may process that descriptor: host memory reachable, and no job of it waits for its engine (R315, R372). -/
def ringReady (s : State) (r type : Nat) : Bool :=
  s.hostOk && s.ringHas r type && !(s.jobs.any fun j => j.ring == r && j.waiting)

/-- Write the ring's next completion (R329): the words TAG/STATUS/OP, LEN, RESULT0, RESULT1, INFO and index/PHASE; count
it and gather its vector's cause. -/
def complete (s : State) (r tag status hi8 len res0 res1 info : Nat) : State :=
  let n := max 1 (s.ringN r)
  let k := (s.ring r).done
  let base := (s.reg (0x9010 + 0x40 * r)).toNat + 2 ^ 32 * (s.reg (0x9014 + 0x40 * r)).toNat
  let w (x : Nat) : Word := BitVec.ofNat 32 x
  let s1 := s.hostWriteWords (base + 32 * (k % n))
    [w (tag % 65536 + status % 256 * 65536 + hi8 % 256 * 2 ^ 24), w len, w res0, w (res0 / 2 ^ 32), w res1,
     w (res1 / 2 ^ 32), w info, w (k % n + (if k / n % 2 = 0 then 2 ^ 31 else 0))]
  let s2 := (s1.setRing r { s1.ring r with done := k + 1 }).setF F.HIF_RING_IDX_CI (0x40 * r) ((k + 1) % n)
  let s3 := s2.bump (hifCnt 0)
  let s4 := match status with
    | 1 => s3.bump (hifCnt 5) | 2 => s3.bump (hifCnt 7) | 3 => s3.bump (hifCnt 6) | 4 => s3.bump (hifCnt 8) | _ => s3
  s4.msixCause (s4.f F.HIF_RING_CFG_VEC (0x40 * r))

/-- Event 3 (R330, R340): ring, descriptor index and reason. -/
def descEvent (s : State) (r reason : Nat) : State :=
  s.raise 3 1 0 (r + ((s.ring r).done + s.ringJobs r) % (max 1 (s.ringN r)) * 64 + reason * 2 ^ 22)

/-- Event 13: a read of host memory for ring `r` was not answered in time (R339). -/
def readTimeout (s : State) (rd : HostRead) (r : Nat) : State := s.raiseIf (rd == .timeout) 13 1 0 r

/-- Finished jobs at the head of their rings complete, in descriptor order (R331), once host memory may be written (R315). -/
def jobFlush (s : State) : Nat → State
  | 0 => s
  | k + 1 =>
    if !s.hostOk then s
    else match s.jobs.find? fun j => j.res.isSome && (s.jobs.find? fun i => i.ring == j.ring) == some j with
    | none => s
    | some j =>
      match j.res with
      | none => s
      | some (st, len, r0, r1, info) =>
        ({ s with jobs := s.jobs.erase j }.complete j.ring j.tag st j.op len r0 r1 info).jobFlush k

/-- Append a job of the ring's next descriptor; `res` when it ends at once, `waiting` when its engine must take it first. -/
def jobAdd (s : State) (r : Nat) (d : Desc) (res : Option (Nat × Nat × Nat × Nat × Nat)) (waiting : Bool := false) : State :=
  let j : Job := { ring := r, op := d.op, unit := d.unit, tag := d.tag, addr := d.addr, len := d.jobLen, arg0 := d.arg0,
                   arg1 := d.arg1, res := res, idx := (s.ring r).done + s.ringJobs r, waiting := waiting }
  ({ s with jobs := s.jobs ++ [j] }).jobFlush (s.jobs.length + 1)

/-- A job descriptor that fails a check completes with DESC_ERR and event 3 (R330). -/
def jobErr (s : State) (r : Nat) (d : Desc) (reason : Nat) : State :=
  (s.descEvent r reason).jobAdd r d (some (1, 0, 0, 0, 0))

/-- The checks every JOB descriptor takes (R330): address wrap. -/
def jobWraps (d : Desc) : Bool := decide (d.addr + d.jobLen > 2 ^ 64)

/-- The first job of an engine still running ends with a result, and its ring's completions follow (R331). -/
def jobEnd (s : State) (p : Job → Bool) (res : Nat × Nat × Nat × Nat × Nat) : State :=
  match s.jobs.find? fun j => j.res.isNone && !j.waiting && p j with
  | none => s
  | some j =>
    ({ s with jobs := s.jobs.map fun i => if i == j then { i with res := some res, waiting := false } else i }).jobFlush (s.jobs.length + 1)

/-! ### Enable and disable (R323, R333) -/

/-- The check of R323: 0 passes, else the CODE of HIF_RING_ERR. -/
def ringCheck (s : State) (r type : Nat) : Nat :=
  let n := s.ringN r
  let sub := (s.reg (0x9008 + 0x40 * r)).toNat + 2 ^ 32 * (s.reg (0x900C + 0x40 * r)).toNat
  let cmp := (s.reg (0x9010 + 0x40 * r)).toNat + 2 ^ 32 * (s.reg (0x9014 + 0x40 * r)).toNat
  if !ringSizeOk n then 1
  else if sub % 64 ≠ 0 ∨ cmp % 64 ≠ 0 ∨ sub + 32 * n > 2 ^ 64 ∨ cmp + 32 * n > 2 ^ 64 then 2
  else if type = 3 ∧ (List.range 64).any (fun i => i != r && s.flag F.HIF_RING_CFG_EN (0x40 * i) && s.ringType i == 3) then
    3
  else 0

/-- The fields of HIF_RING_CFG other than EN: TYPE only while EN = 0, WEIGHT only while HIF_CFG.LOCK = 0 (R9, R323). -/
def ringCfgFields (s : State) (r : Nat) (v : Word) : State :=
  let i := 0x40 * r
  let s1 := s.setF F.HIF_RING_CFG_VEC i (F.HIF_RING_CFG_VEC.of v)
  let s2 := if s.flag F.HIF_RING_CFG_EN i then s1 else s1.setF F.HIF_RING_CFG_TYPE i (F.HIF_RING_CFG_TYPE.of v)
  if s.flag F.HIF_CFG_LOCK then s2 else s2.setF F.HIF_RING_CFG_WEIGHT i (F.HIF_RING_CFG_WEIGHT.of v)

/-- A write of HIF_RING_CFG (R323, R333). -/
def ringCfgWrite (s : State) (r : Nat) (v : Word) : State :=
  let i := 0x40 * r
  let en := F.HIF_RING_CFG_EN.of v == 1
  let was := s.flag F.HIF_RING_CFG_EN i
  let s1 := s.ringCfgFields r v
  if en && !was && !s.flag F.HIF_RING_ERR_DISABLING i then
    match s1.ringCheck r (s1.ringType r) with
    | 0 => (((s1.setFlag F.HIF_RING_CFG_EN i true).setReg (0x9018 + i) 0).setReg (0x901C + i) 0).setRing r {}
    | c + 1 => (s1.setF F.HIF_RING_ERR_CODE i (c + 1)).raise 4 1 0 (r + (c + 1) * 256)
  else if !en && was then (s1.setFlag F.HIF_RING_CFG_EN i false).setFlag F.HIF_RING_ERR_DISABLING i true
  else s1

/-- Outstanding descriptors complete with FLUSHED and LEN 0 (R333); their TAG and OP come from the descriptors. -/
def ringFlush (s : State) (r : Nat) : Nat → List Desc → State
  | 0, _ => s
  | k + 1, ds =>
    let d := ds.headD {}
    let type := s.ringType r
    (s.complete r (if type = 0 then d.txTag else d.tag) 4 (if type = 2 then d.op else 0) 0 0 0 0).ringFlush r k ds.tail

/-! ### Doorbells (R325) -/

/-- Event 7 and DB_DISC: a discarded doorbell. -/
def dbDiscard (s : State) (page rf cause : Nat) : State :=
  (s.bump (hifCnt 9)).raise 7 1 0 (page + rf * 64 + cause * 4096)

/-- A doorbell write (R325): new descriptors are taken, or it is discarded with event 7. Of several causes the first in the
order of R325's list is told, a stopped ring counts as not enabled, and bits [31:22] are not looked at (DESIGN CHOICE, log
219). -/
def doorbellOp (s : State) (page offset width : Nat) (v : Word) : State :=
  let rf := bitsOf v.toNat 16 6
  let pi := bitsOf v.toNat 0 16
  let i := 0x40 * page
  if !s.flag F.HIF_RING_CFG_EN i || s.flag F.HIF_RING_ERR_STOPPED i then s.dbDiscard page rf 0
  else if rf ≠ page then s.dbDiscard page rf 1
  else if pi ≥ s.ringN page then s.dbDiscard page rf 2
  else if offset ≠ 0 ∨ width ≠ 4 then s.dbDiscard page rf 3
  else
    let n := s.ringN page
    let new := (pi + n - s.f F.HIF_RING_IDX_PI i) % n
    (s.setF F.HIF_RING_IDX_PI i pi).setRing page { s.ring page with taken := (s.ring page).taken + new }

/-! ### TX descriptors and segmented sends (R309 to R311, R330, R331) -/

end State

/-- Ones'-complement sum of big-endian 16-bit words, the last byte padded with 0. -/
def onesSum : List Byte → Nat → Nat
  | [], a => a
  | [b], a => let t := a + b.toNat * 256; t % 65536 + t / 65536
  | b :: c :: bs, a => let t := a + b.toNat * 256 + c.toNat; onesSum bs (t % 65536 + t / 65536)

/-- The checksum field: the inverted sum. -/
def checksum (bs : List Byte) : List Byte := beBytes 2 (65535 - onesSum bs 0)

/-- A parsed template (R309): offset of the IP header, version 4 or 6, offset of the TCP header. -/
structure Template where
  ip : Nat
  v4 : Bool
  tcp : Nat
  deriving DecidableEq, Repr

/-- Offset of the EtherType after up to two tags (R183). -/
def etOffset (t : List Byte) : Nat :=
  let t0 := beAt t 12 2
  if t0 = 0x88A8 ∨ t0 = 0x8100 ∨ t0 = 0x9100 then (if beAt t 16 2 = 0x8100 then 20 else 16) else 12

/-- The template check of R309. -/
def parseTemplate (t : List Byte) : Option Template :=
  let o := etOffset t
  let et := beAt t o 2
  let ip := o + 2
  let b0 := beAt t ip 1
  let x : Option Template :=
    if et = 0x0800 ∧ b0 / 16 = 4 ∧ 5 ≤ b0 % 16 ∧ beAt t (ip + 6) 2 % 0x4000 = 0 ∧ beAt t (ip + 9) 1 = 6 then
      some ⟨ip, true, ip + 4 * (b0 % 16)⟩
    else if et = 0x86DD ∧ b0 / 16 = 6 ∧ beAt t (ip + 6) 1 = 6 then some ⟨ip, false, ip + 40⟩
    else none
  match x with
  | none => none
  | some x =>
    let hl := beAt t (x.tcp + 12) 1 / 16
    if 5 ≤ hl ∧ x.tcp + 4 * hl = t.length ∧ t.length ≤ 192 then some x else none

/-- Segment `k` of `n` (R310). -/
def segment (t pay : List Byte) (x : Template) (mss k n : Nat) : List Byte :=
  let p := (pay.drop (k * mss)).take mss
  let tcpLen := t.length - x.tcp
  let fl := beAt t (x.tcp + 13) 1
  let fl := if k + 1 = n then fl else fl - bitsOf fl 0 1 - bitsOf fl 3 1 * 8
  let fl := if k = 0 then fl else fl - bitsOf fl 7 1 * 128
  let t := patch t (x.tcp + 4) (beBytes 4 ((beAt t (x.tcp + 4) 4 + k * mss) % 2 ^ 32))
  let t := patch t (x.tcp + 13) [BitVec.ofNat 8 fl]
  let t := if x.v4 then
      let t := patch t (x.ip + 2) (beBytes 2 (x.tcp - x.ip + tcpLen + p.length))
      let t := patch t (x.ip + 4) (beBytes 2 ((beAt t (x.ip + 4) 2 + k) % 65536))
      let t := patch t (x.ip + 10) [0, 0]
      patch t (x.ip + 10) (checksum (bytesAt t x.ip (x.tcp - x.ip)))
    else patch t (x.ip + 4) (beBytes 2 (tcpLen + p.length))
  let t := patch t (x.tcp + 16) [0, 0]
  let addrs := if x.v4 then bytesAt t (x.ip + 12) 8 else bytesAt t (x.ip + 8) 32
  let pseudo := addrs ++ beBytes 4 (tcpLen + p.length) ++ [0, 0, 0, 6]
  patch t (x.tcp + 16) (checksum (pseudo ++ t.drop x.tcp ++ p)) ++ p

namespace State

/-- A frame from a TX descriptor (R216, R281, R326). -/
def hostFrame (s : State) (r : Nat) (d : Desc) (bs : List Byte) (last : Bool) : Frame :=
  { data := bs, src := 3, port := r, exp := d.exp, arrival := s.tick, stamp := s.tick * 16,
    stampTod := s.todOfStamp (s.tick * 16), tag := d.txTag, tsReq := d.tsReq && last, oneStep := d.oneStep && !d.seg }

/-- The frame enters crossing 6: TX_FRAMES counts it. -/
def hostPush (s : State) (x : Frame) : State := (s.xPush 6 x).bump (hifCnt 1)

/-- A descriptor of a TX ring completes. -/
def txComplete (s : State) (r : Nat) (d : Desc) (status len : Nat) : State := s.complete r d.txTag status 0 len 0 0 0

/-- Segments from `k` on enter crossing 6 while there is room; the send completes with the last one, or stays in progress
(R310, R331). -/
def txSegments (s : State) (r : Nat) (d : Desc) (t pay : List Byte) (x : Template) (n : Nat) : Nat → Nat → State
  | 0, k => { s with txSend := some (r, k) }
  | fuel + 1, k =>
    if k ≥ n then
      ({ s with txSend := none }.bump (hifCnt 2) (t.length + pay.length)).txComplete r d 0 (t.length + pay.length)
    else
      let g := segment t pay x d.mss k n
      if s.xRoom 6 false g.length then
        (s.hostPush (s.hostFrame r d g (k + 1 == n))).txSegments r d t pay x n fuel (k + 1)
      else { s with txSend := some (r, k) }

/-- The head descriptor of a TX ring runs (R309 to R311, R330, R331, R333): it completes, or waits for room in crossing 6. -/
def txRun (s : State) (r : Nat) (x : TxWait) : State :=
  let d := x.desc
  if !d.seg then
    if d.txLen = 0 then s.txComplete r d 0 0
    else if d.addr + d.txLen > 2 ^ 64 then (s.descEvent r 2).txComplete r d 1 0
    else if d.txLen > 16380 then (s.descEvent r 0).txComplete r d 1 0
    else if x.rd != .data then (s.readTimeout x.rd r).txComplete r d 2 0
    else
      let bs := bytesAt x.bytes 0 d.txLen
      if s.xRoom 6 false d.txLen then
        ((s.hostPush (s.hostFrame r d bs true)).bump (hifCnt 2) d.txLen).txComplete r d 0 d.txLen
      else s
  else
    let t := bytesAt x.bytes 0 d.hdrLen
    let pay := bytesAt (x.bytes.drop d.hdrLen) 0 d.txLen
    if d.addr + d.hdrLen + d.txLen > 2 ^ 64 then (s.descEvent r 2).txComplete r d 1 0
    else if d.hdrLen > 192 ∨ d.mss = 0 ∨ d.mss > 16380 - d.hdrLen then (s.descEvent r 1).txComplete r d 1 0
    else if x.rd != .data then (s.readTimeout x.rd r).txComplete r d 2 0
    else match parseTemplate t with
      | none => (s.descEvent r 1).txComplete r d 1 0
      | some y =>
        if d.txLen = 0 then s.txComplete r d 0 0
        else
          let n := ceilDiv d.txLen d.mss
          s.txSegments r d t pay y n (n + 1) (match s.txSend with | some (_, k) => k | none => 0)

/-- Descriptors a ring may send in a round: its WEIGHT, 0 acting as 1 (R331). -/
def ringWeight (s : State) (r : Nat) : Nat := max 1 (s.f F.HIF_RING_CFG_WEIGHT (0x40 * r))

/-- TX rings with a descriptor that waits, in rising order: enabled and not stopped (R331, R333). -/
def txWaiting (s : State) : List Nat :=
  (s.rings.filter fun e => !e.2.fetched.isEmpty && s.flag F.HIF_RING_CFG_EN (0x40 * e.1)
    && !s.flag F.HIF_RING_ERR_STOPPED (0x40 * e.1)).map (·.1)

/-- The TX ring whose head goes next (R310, R331): the ring of a send in progress; else one with an Express head; else the lowest
ring with weight left in the round, or the lowest when none has (the order of the rounds is a DESIGN CHOICE, log 215). -/
def txPick (s : State) : Option Nat :=
  let rs := s.txWaiting
  match s.txSend with
  | some (r, _) => rs.find? fun i => i == r
  | none =>
    match rs.find? fun r => ((s.ring r).fetched.head?.map fun x => x.desc.exp).getD false with
    | some r => some r
    | none => (rs.find? fun r => decide ((s.ring r).served < s.ringWeight r)).orElse fun _ => rs.head?

/-- A round ends when no waiting ring has weight left (R331). -/
def txRound (s : State) : State :=
  let rs := s.txWaiting
  if rs.any fun r => decide ((s.ring r).served < s.ringWeight r) then s
  else rs.foldl (fun s r => s.setRing r { s.ring r with served := 0 }) s

/-- Waiting TX descriptors run while they complete (R331) and the device may write to host memory (R315). -/
def txDrain (s : State) : Nat → State
  | 0 => s
  | k + 1 =>
    match if s.hostOk then s.txPick else none with
    | none => s
    | some r =>
      match (s.ring r).fetched with
      | [] => s
      | x :: rest =>
        let s1 := s.txRound.txRun r x
        if (s1.ring r).done = (s.ring r).done then s1
        else (s1.setRing r { s1.ring r with fetched := rest, served := (s1.ring r).served + 1 }).txDrain k

/-- As many runs as there are waiting descriptors. -/
def txGo (s : State) : State := s.txDrain ((s.rings.map fun e => e.2.fetched.length).sum)

/-- The device has read the next descriptor of a TX ring, and its frame (R331): it takes its turn. -/
def txDescOp (s : State) (r : Nat) (d : Desc) (bytes : List Byte) (rd : HostRead) : State :=
  if !s.ringReady r 0 then s
  else (s.setRing r { s.ring r with fetched := (s.ring r).fetched ++ [{ desc := d, bytes := bytes, rd := rd }] }).txGo

/-! ### RX delivery (R330, R332) -/

/-- The first frame of host queue `hq` in crossing 7, which the Host region may read (R30, R34), and the rest. -/
def hostTake (s : State) (hq : Nat) : Option (Frame × State) :=
  match (s.xing 7).other.find? fun x => x.outQ == 6144 + hq && s.xReadable 7 with
  | none => none
  | some x => some (x, s.setXing 7 { s.xing 7 with other := (s.xing 7).other.erase x })

/-- The completion of an RX frame (R329). -/
def rxComplete (s : State) (r hq : Nat) (d : Desc) (x : Frame) (status : Nat) : State :=
  let t := x.stampTod
  s.complete r d.tag status ((if x.exp then 1 else 0) + x.src % 8 * 2) x.data.length
    (todNsec t + todSec t / 2 ^ 32 % 65536 * 2 ^ 32 + todFrac t * 2 ^ 48)
    (todSec t % 2 ^ 32 + x.port % 2 ^ 20 * 2 ^ 32 + hq * 2 ^ 52) (leNat (bytesAt x.user 0 4))

/-- A frame of host queue `hq` fills the buffer of descriptor `d` of its RX ring (R330, R332). One whose data is uncorrectable in
Paddock is discarded, and the descriptor waits for the next (R352). -/
def hostDeliver (s : State) (hq : Nat) (d : Desc) (ue : Bool) : State :=
  let r := s.f F.HIF_HQ_RING (4 * hq)
  if !s.ringReady r 1 || !s.flag F.HIF_HQ_EN (4 * hq) then s
  else if d.bufLen = 0 then s.complete r d.tag 0 0 0 0 0 0
  else if d.addr + d.bufLen > 2 ^ 64 then (s.descEvent r 2).complete r d.tag 1 0 0 0 0 0
  else match s.hostTake hq with
    | none => s
    | some (x, st) =>
      let u := st.padRead x ue
      let s1 := u.2
      if u.1 then s1.padDrop x
      else if x.data.length > d.bufLen then (s1.padDrop x).rxComplete r hq d x 3
      else ((((s1.padDrop x).hostWrite d.addr x.data).bump (hifCnt 3)).bump (hifCnt 4) x.data.length).rxComplete r hq d x 0

/-! ### Event ring (R334) -/

/-- The check of an event ring (R334): 0 passes, else CODE. -/
def evtCheck (s : State) : Nat :=
  let base := (s.reg 0x100000).toNat + 2 ^ 32 * (s.reg 0x100004).toNat
  if !ringSizeOk s.evtN then 1 else if base % 64 ≠ 0 ∨ base + 16 * s.evtN > 2 ^ 64 then 2 else 0

/-- A write of EVT_RING_CFG (R334). -/
def evtCfgWrite (s : State) (v : Word) : State :=
  if F.EVT_RING_CFG_EN.of v = 1 then
    if s.flag F.EVT_RING_CFG_EN then s
    else match s.evtCheck with
      | 0 =>
        let s1 := ((s.setF F.EVT_RING_PI_PI 0 0).setF F.EVT_RING_CI_CI 0 0).setReg 0x10000C 0x80000000
        { s1 with evPhase := true, evLost := 0 }.evtRelease
      | c + 1 => s.raise 4 1 0 (64 + (c + 1) * 256)
  else s.setFlag F.EVT_RING_CFG_EN 0 false

/-- A write of EVT_RING_CI (R334, R337). -/
def evtCiWrite (s : State) (v : Word) : State :=
  let ci := F.EVT_RING_CI_CI.of v
  if ci ≥ s.evtN then s
  else
    let s1 := s.setF F.EVT_RING_CI_CI 0 ci
    let s2 := s1.setFlag F.EVT_RING_CFG_FULL 0 s1.evtFull
    if s2.flag F.EVT_RING_CFG_EN then s2.evtReportLost else s2

/-- A raise through the counting synchroniser (R33, R336): up to 15 pulses give as many entries; the 16th sets the
source's XNG_POVF bit and raises event 9. -/
def pulses (s : State) (src level inst info : Nat) : Nat → State
  | 0 => s
  | k + 1 => (s.raise src level inst info).pulses src level inst info k

/-- The event sources of R339: the others are never raised. -/
def evtUsed (n : Nat) : Bool :=
  [(0, 13), (32, 40), (64, 70), (72, 92), (128, 134), (136, 156), (192, 197), (224, 236), (256, 262), (288, 341), (352, 361),
   (384, 393), (416, 434), (448, 462), (472, 482), (488, 492), (504, 509)].any fun e => decide (e.1 ≤ n) && decide (n ≤ e.2)

/-- EVENT_RAISE: a number R339 does not use is never raised, and a correctable PCIe error (12) goes through its status, at most
once per ms (R339, R340). -/
def eventRaiseOp (s : State) (src level inst info n : Nat) : State :=
  if !evtUsed src then s
  else if src = 12 then (if n = 0 then s else s.aerLog info)
  else
    let s1 := s.pulses src level inst info (min n 15)
    if n > 15 then (s1.setFlag ⟨0x1601000 + 4 * (src / 32), src % 32, 1⟩ 0 true).raise 9 1 0 src else s1

/-! ### Bus mastering and host reset (R315 to R317) -/

/-- What the configuration space header shows of the function's identity (R313), by the byte offsets of the PCIe Base
specification (PRESUMED, log 251): vendor and device ID, class code with a revision the spec does not give, and the subsystem
IDs of the fuses. -/
def pcieWord (a : Nat) : Option Word :=
  match a with
  | 0x00 => some 0x98401E8F#32
  | 0x08 => some (BitVec.ofNat 32 (0x028000 * 256 + Config.pcieRevision % 256))
  | 0x2C => some (BitVec.ofNat 32 (Config.subsysVendor % 65536 + Config.subsysId % 65536 * 65536))
  | _ => none

/-- Messages held by a pause of bus mastering go out when it ends (R315), unless their vector is masked. -/
def msixResume (s : State) : State :=
  s.vecs.foldl (fun s e => if (s.vec e.1).held && !s.vecMasked e.1 then s.msixSend e.1 else s) s

/-- LAST code of a host reset cause (GLB_RST_STAT). -/
def hostResetLast : HostResetCause → Nat
  | .perst => 3
  | .flr => 4
  | .d0 => 6
  | .glbRst _ => 5

/-- A register key lies in the registers a host reset clears: HIF (0x8000 to 0xBFFF), the MSI-X table and pending bits,
and the event block (R316). HIF_STAT shows the link and configuration space and has rules of its own. -/
def hostResetReg (s : State) (k : Nat) : Bool :=
  ((decide (0x8000 ≤ k) && decide (k < 0xC000) && k != 0x8004 && k != 0x8000
      && !(s.flag F.HIF_CFG_LOCK && decide (0x9000 ≤ k) && decide (k < 0xA000) && k % 0x40 == 0))
    || (decide (0xF0000 ≤ k) && decide (k < 0x200000)))

/-- The scan of a job ends with its job: the unit is free, with an R the spec does not give (R317, R333). -/
def scanLeave (s : State) (u : Nat) : State :=
  let v := s.takeFree 64
  ((v.2.setReg (0x1308018 + 0x100 * u) (BitVec.ofNat 32 v.1)).setReg (0x130801C + 0x100 * u)
    (BitVec.ofNat 32 (v.1 / 2 ^ 32))).setFlag F.CHK_SCAN_CTRL_BUSY (0x100 * u) false

/-- Units whose scan is a job. -/
def scanJobs (js : List Job) : List Nat := (js.filter fun j => j.op == 2 && j.res.isNone && !j.waiting).map (·.unit)

/-- The host reset (R316, R317), without BUSY: rings and event ring disabled, scan jobs and the copy of the read-out engine ended,
HIF and EVT registers and counters cleared
(HIF_CFG.LOCK and the weights it locks stay), crossings 6 and 7 reset as XNG_CFG says (R30; DEDUCED, log 218). A counter
restart advances PWR_EPOCH (R11). -/
def hostResetCore (s : State) : State :=
  let locked := s.flag F.HIF_CFG_LOCK
  let w := (List.range 64).map fun r => s.f F.HIF_RING_CFG_WEIGHT (0x40 * r)
  let s1 := { s with
    regs := sdrop (s.hostResetReg) s.regs, counters := sdrop (fun a => 0xB000 ≤ a && a < 0xC000) s.counters,
    rings := [], jobs := [], txSend := none, vecs := [], evPhase := true, evLost := 0 }
  let s2 := s1.setFlag F.HIF_CFG_RO_EN 0 false
  let s3 := if locked then
      (List.range 64).foldl (fun s r =>
        (s.setReg (0x9000 + 0x40 * r) 0).setF F.HIF_RING_CFG_WEIGHT (0x40 * r) (w.getD r 1)) s2
    else s2
  let s4 := (scanJobs s.jobs).foldl scanLeave ((s3.addReg 0x200018 1).setFlag F.CAP_RD_CTRL_BUSY 0 false)
  (s4.xReset 6 true).xReset 7 false

/-- A host reset by its cause (R316): PERST_N also resets the link and configuration space, a function-level reset the
configuration space other than link settings. -/
def hostResetOp (s : State) (c : HostResetCause) : State :=
  let s1 := s.hostResetCore
  let s2 := match c with
    | .perst => { s1 with aer := 0 }.setReg 0x8004 0
    | .flr => { s1 with aer := 0 }.setFlag F.HIF_STAT_BME 0 false
    | _ => s1
  (({ s2 with d3hot := false }).setFlag F.GLB_RST_STAT_BUSY 0 true).setF F.GLB_RST_STAT_LAST 0 (hostResetLast c)

/-- The key of GLB_RST (R318). -/
def rstKeyOk (q : Req) (v : Word) : Bool := q == Req.host && F.GLB_RST_KEY.of v == 0x7A3C

end State

/-! ### The commands -/

/-- BUS_MASTER_CHANGE (R315): Bus Master Enable or D3hot changes; a return to D0 performs a host reset, and when host memory may
be written again the event ring, the completions of jobs that ended and the vectors go on. -/
def execBusMasterChange (bme d3hot : Bool) (s : State) : Host.Outcome State Fault Refusal :=
  .next (
    if s.d3hot && !d3hot then (s.hostResetOp .d0).setFlag F.HIF_STAT_BME 0 bme
    else
      let s1 := { s with d3hot := d3hot }.setFlag F.HIF_STAT_BME 0 bme
      if s1.hostOk then
        ((if s1.flag F.EVT_RING_CFG_EN then s1.evtReportLost else s1).jobFlush (s1.jobs.length + 1)).msixResume.txGo
      else s1)

/-- HOST_RESET (R317, R318): PERST_N, FLR, return to D0, or a keyed GLB_RST.HOST write of the host. -/
def execHostReset (q : Req) (cause : HostResetCause) (s : State) : Host.Outcome State Fault Refusal :=
  .next (match cause with
    | .glbRst v =>
      if State.rstKeyOk q v && !s.flag F.GLB_RST_STAT_BUSY && F.GLB_RST_WARM.of v == 0 && F.GLB_RST_HOST.of v == 1 then
        s.hostResetOp cause
      else s
    | c => s.hostResetOp c)

/-- RING_ENABLE (R323): a write of HIF_RING_CFG with EN = 1. -/
def execRingEnable (q : Req) (r : Fin 64) (v : Word) (s : State) : Host.Outcome State Fault Refusal :=
  .next (s.guardHostW q (0x9000 + 0x40 * r.val) fun s => s.ringCfgWrite r.val (v ||| 0x80000000#32))

/-- RING_DISABLE (R333): a write of HIF_RING_CFG with EN = 0. -/
def execRingDisable (q : Req) (r : Fin 64) (v : Word) (s : State) : Host.Outcome State Fault Refusal :=
  .next (s.guardHostW q (0x9000 + 0x40 * r.val) fun s => s.ringCfgWrite r.val (v &&& 0x7FFFFFFF#32))

/-- DOORBELL (R325). -/
def execDoorbell (page : Fin 64) (offset width : Nat) (v : Word) (s : State) : Host.Outcome State Fault Refusal :=
  .next (if s.warmBusy then s else s.doorbellOp page.val offset width v)

/-- TX_DESCRIPTOR (R331): `bytes` is what the read of the frame, or of template and payload, delivered. -/
def execTxDescriptor (r : Fin 64) (d : Desc) (bytes : List Byte) (rd : HostRead) (s : State) :
    Host.Outcome State Fault Refusal := .next (s.txDescOp r.val d bytes rd)

/-- HOST_QUEUE_DELIVER (R332, R352): `ue` says that the frame's data is uncorrectable in Paddock. -/
def execHostQueueDeliver (hq : Fin 128) (d : Desc) (ue : Bool) (s : State) : Host.Outcome State Fault Refusal :=
  .next (s.hostDeliver hq.val d ue)

/-- DESCRIPTOR_FETCH_ERROR (R333): the ring stops; a completion timeout also raises event 13 (R339). -/
def execDescriptorFetchError (r : Fin 64) (timeout : Bool) (s : State) : Host.Outcome State Fault Refusal :=
  let i := 0x40 * r.val
  .next (if s.flag F.HIF_RING_CFG_EN i && !s.flag F.HIF_RING_ERR_STOPPED i then
    ((((s.setFlag F.HIF_RING_ERR_STOPPED i true).setF F.HIF_RING_ERR_CODE i 4).bump (hifCnt 7)).raise 4 1 0
      (r.val + 4 * 256)).raiseIf timeout 13 1 0 r.val
    else s)

/-- JOB_NOP (R328): OP 0x00 completes with no operation. -/
def execJobNop (r : Fin 64) (d : Desc) (s : State) : Host.Outcome State Fault Refusal :=
  .next (if s.ringReady r.val 2 then
    (if State.jobWraps d then s.jobErr r.val d 2
     else if d.op = 0 then s.jobAdd r.val d (some (0, 0, 0, 0, 0))
     else if d.op > 4 then s.jobErr r.val d 3
     else s)
    else s)

/-- EVENT_RING_ENABLE (R334). -/
def execEventRingEnable (q : Req) (v : Word) (s : State) : Host.Outcome State Fault Refusal :=
  .next (s.guardHostW q 0x10000C fun s => s.evtCfgWrite (v ||| 0x80000000#32))

/-- EVENT_RING_DISABLE (R334). -/
def execEventRingDisable (q : Req) (v : Word) (s : State) : Host.Outcome State Fault Refusal :=
  .next (s.guardHostW q 0x10000C fun s => s.evtCfgWrite (v &&& 0x7FFFFFFF#32))

/-- EVENT_RING_CI_WRITE (R334). -/
def execEventRingCiWrite (q : Req) (v : Word) (s : State) : Host.Outcome State Fault Refusal :=
  .next (s.guardHostW q 0x100014 fun s => s.evtCiWrite v)

/-- EVENT_RAISE (R336): a source is raised, with the pulses of one acknowledge phase (R33). -/
def execEventRaise (src : Fin 512) (level : Fin 4) (inst : Nat) (info : Word) (pulses : Nat) (s : State) :
    Host.Outcome State Fault Refusal := .next (s.eventRaiseOp src.val level.val inst info.toNat pulses)

/-- MSIX_HOLDOFF_EXPIRE (R338): HOLDOFF µs, of 777.6 ticks each, have passed since the oldest pending cause. -/
def execMsixHoldoffExpire (v : Fin 64) (s : State) : Host.Outcome State Fault Refusal :=
  .next (if (s.vec v.val).causes ≠ 0
      ∧ s.f F.HIF_VEC_HOLDOFF (4 * v.val) * 7776 ≤ (s.tick - (s.vec v.val).since) * 10 then s.msixSend v.val
    else s)

/-- MSIX_UNMASK (R338): the vector's mask bit clears, and a message it held goes out; a write of the vector's control word
during a warm reset is discarded (R318). -/
def execMsixUnmask (v : Fin 64) (s : State) : Host.Outcome State Fault Refusal :=
  let s1 := s.setF ⟨msixTable + 16 * v.val + 12, 0, 1⟩ 0 0
  .next (if s.warmBusy then s else if (s1.vec v.val).held then s1.msixSend v.val else s1)

/-- PCIE_LINK_CHANGE (R340): the link's state is shown and event 6 raised. -/
def execPcieLinkChange (up : Bool) (speed width : Nat) (s : State) : Host.Outcome State Fault Refusal :=
  let sp := if up then speed else 0
  let wd := if up then width else 0
  .next ((((s.setFlag F.HIF_STAT_LINK_UP 0 up).setF F.HIF_STAT_SPEED 0 sp).setF F.HIF_STAT_WIDTH 0 wd).raise 6 1 0
    ((if up then 1 else 0) + sp % 8 * 2 + wd % 32 * 16))

end Sys2Proof.Machine
end

