-- ==== Sys2Proof/Machine/Studbook.lean ====
section
/-! DEFINITION. The capture commands and the Studbook of spec/16_observability.md (R409, R412, R413, R416 to R421). -/

namespace Sys2Proof.Machine

namespace State

/-! ### Capture area (R409, R413, R416) -/

/-- Bytes of the device DRAM address space (R343): n channels of the smallest capacity, each less 1 KiB. -/
def dramTop (s : State) : Nat :=
  let caps := s.chUp.map fun c => s.f F.MEM_CH_STAT_SIZE_GB (4 * c) * 2 ^ 30
  caps.length * (caps.foldl min (2 ^ 40) - 1024)

/-- Two byte ranges overlap; an empty one overlaps nothing. -/
def overlaps (b1 n1 b2 n2 : Nat) : Bool := n1 != 0 && n2 != 0 && decide (b1 < b2 + n2) && decide (b2 < b1 + n1)

/-- The check of R409: the enable is refused. -/
def capBad (s : State) : Bool :=
  let mib := s.f F.CAP_SIZE_MIB
  mib == 0 || decide (122880 < mib) || decide (s.dramTop < s.capBase + s.capBytes)
    || overlaps s.capBase s.capBytes s.spillBase s.spillBytes || !(s.region 5).on

/-- A write of CAP_CFG (R409). -/
def capCfgWrite (s : State) (v : Word) : State :=
  let s1 := (s.setF F.CAP_CFG_WRAP 0 (F.CAP_CFG_WRAP.of v)).setF F.CAP_CFG_SRC_EN 0 (F.CAP_CFG_SRC_EN.of v)
  if F.CAP_CFG_EN.of v = 0 then s1.setFlag F.CAP_CFG_EN 0 false
  else if s.flag F.CAP_CFG_EN then s1
  else if s1.capBad then ((s1.setFlag F.CAP_STAT_REFUSED 0 true)).raise 489 1 0 3
  else
    let s2 := ((s1.setFlag F.CAP_CFG_EN 0 true).setCapWp 0).setCapOldest 0
    (s2.modCp fun cp => { cp with capSeq := 0, capLap := false, capLost := 0 })

/-- A write of CAP_STAT: its W1C bits, and FULL resumes capture (R413). -/
def capStatWrite (s : State) (v : Word) : State :=
  let s1 := s.setReg 0x1400010 (s.reg 0x1400010 &&& ~~~ (v &&& 0xF#32))
  if F.CAP_STAT_FULL.of v = 1 && s.flag F.CAP_STAT_FULL then
    let s2 := (s1.setCapWp 0).setCapOldest 0
    (s2.modCp fun cp => { cp with capLap := false })
  else s1

/-- The oldest frame record not read within 50 µs (38,880 ticks) is dropped and its reference released (R412, R414). -/
def capStale (s : State) : State :=
  match s.cp.capBuf.find? fun r => r.typ == 3 && decide (r.offered + 38880 ≤ s.tick) with
  | none => s
  | some r => ((s.modCp fun cp => { cp with capBuf := s.cp.capBuf.erase r }).padUnref r.handle).capDrop 3 true

/-! ### Read-out (R416) -/

def capRdOfs (s : State) : Nat := (s.reg 0x1400080).toNat + 2 ^ 32 * (s.reg 0x1400084).toNat
def capRdDst (s : State) : Nat := (s.reg 0x1400088).toNat + 2 ^ 32 * (s.reg 0x140008C).toNat
def capRdLen (s : State) : Nat := (s.reg 0x1400090).toNat

/-- A copy ends with its result and the bytes it copied. -/
def capRdEnd (s : State) (result bytes : Nat) : State :=
  (((s.setFlag F.CAP_RD_CTRL_BUSY 0 false).setFlag F.CAP_RD_CTRL_DONE 0 true).setF F.CAP_RD_CTRL_RESULT 0 result).setReg
    0x1400098 (BitVec.ofNat 32 bytes)

/-- A write of CAP_RD_CTRL: DONE is W1C; GO starts a copy unless one runs. -/
def capRdWrite (s : State) (v : Word) : State :=
  let s1 := if F.CAP_RD_CTRL_DONE.of v = 1 then s.setFlag F.CAP_RD_CTRL_DONE 0 false else s
  if F.CAP_RD_CTRL_GO.of v = 0 || s.flag F.CAP_RD_CTRL_BUSY then s1
  else if s.capRdOfs % 32 ≠ 0 ∨ s.capRdLen % 32 ≠ 0 ∨ s.capRdOfs + s.capRdLen > s.capBytes then s1.capRdEnd 2 0
  else if s.capRdLen = 0 then s1.capRdEnd 1 0
  else ((s1.setFlag F.CAP_RD_CTRL_BUSY 0 true).setF F.CAP_RD_CTRL_RESULT 0 0).modCp fun cp => { cp with
    capRd := (s.capBase, s.capRdOfs, s.capRdLen, s.capRdDst) }

/-! ### Snapshots (R417 to R419) -/

/-- SKIP counts, and event 491 says why. -/
def snapSkip (s : State) (cause : Nat) : State :=
  let s1 := (s.modCp fun cp => { cp with stbSkipped := s.cp.stbSkipped + 1 }).bump (capCnt 13)
  s1.raise 491 1 0 (cause + 65536 * (s1.counter (capCnt 13) % 65536))

/-- A SNAP ring with a descriptor submitted; that the ring pauses for bus mastering (R315) does not matter here. -/
def snapRing (s : State) : Bool := (List.range 64).any fun r => s.ringHas r 3

/-- The slots of a snapshot that are not 0. -/
def snapSlots (s : State) (qfirst : Nat) : SMap Nat :=
  (List.range 2048).filterMap fun i => if s.slotValue qfirst i = 0 then none else some (i, s.slotValue qfirst i)

/-- Latch a snapshot into a free buffer, or skip it (R418). -/
def snapLatch (s : State) (cause : Nat) : State :=
  if 2 ≤ s.cp.snaps.length then s.snapSkip 0
  else
    let seq := (s.f F.STB_STAT_SEQ + 1) % 2 ^ 32
    let x : Snap := { seq := seq, tick := s.tick, tod := s.todUnits, tstate := s.f F.TIM_STAT_STATE, cause := cause,
                      epoch := (s.reg 0x200018).toNat, qfirst := s.f F.STB_QFIRST_Q,
                      slots := s.snapSlots (s.f F.STB_QFIRST_Q) }
    let s1 := (s.modCp fun cp => { cp with userPage := some x }).setF F.STB_STAT_SEQ 0 seq
    if s1.snapRing then (s1.modCp fun cp => { cp with snaps := s1.cp.snaps ++ [x] }) else s1.snapSkip 1

/-- A snapshot instant (R417, R418): `cause` is 1 period, 2 comparator, 4 command. -/
def snapTake (s : State) (cause : Nat) : State :=
  if !s.flag F.STB_CFG_EN then s
  else match s.cp.userPage with
  | some p =>
    if p.tick = s.tick then
      let m (x : Snap) : Snap := if x.tick = s.tick then { x with cause := x.cause ||| cause } else x
      (s.modCp fun cp => { cp with userPage := some (m p), snaps := s.cp.snaps.map m })
    else s.snapLatch cause
  | none => s.snapLatch cause
end State

/-- The bytes of a snapshot (R419): a 64-byte header and 2,048 slots. -/
def Snap.bytes (x : Snap) (skipped : Nat) : List Byte :=
  leBytes 4 0x4B425453 ++ leBytes 4 x.seq ++ leBytes 8 x.tick ++ leBytes 4 (todNsec x.tod)
    ++ leBytes 4 (todSec x.tod % 2 ^ 32)
    ++ leBytes 4 (todSec x.tod / 2 ^ 32 % 65536 + x.tstate % 4 * 65536 + x.cause % 8 * 2 ^ 18)
    ++ leBytes 4 x.epoch ++ leBytes 4 x.qfirst ++ leBytes 4 (min skipped 0xFFFFFFFF) ++ List.replicate 24 0
    ++ (List.range 2048).flatMap fun i => leBytes 8 (sget (fun _ => 0) x.slots i)

namespace State

/-- The oldest latched snapshot goes to the buffer of SNAP descriptor `d` (R330, R418). -/
def snapWrite (s : State) (r : Nat) (d : Desc) : State :=
  if !s.ringReady r 3 then s
  else if d.bufLen = 0 then s.complete r d.tag 0 0 0 0 0 0
  else if d.addr + d.bufLen > 2 ^ 64 then (s.descEvent r 2).complete r d.tag 1 0 0 0 0 0
  else match s.cp.snaps with
    | [] => s
    | x :: rest =>
      let s := (s.modCp fun cp => { cp with snaps := rest })
      let r0 := todNsec x.tod + todSec x.tod / 2 ^ 32 % 65536 * 2 ^ 32 + todFrac x.tod * 2 ^ 48
      if d.bufLen < 16448 then
        (s.snapSkip 1).complete r d.tag 3 0 16448 r0 (todSec x.tod % 2 ^ 32) x.seq
      else
        let s1 := (s.modCp fun cp => { cp with stbSkipped := 0 }).hostWrite d.addr (x.bytes s.cp.stbSkipped)
        ((s1.complete r d.tag 0 0 16448 r0 (todSec x.tod % 2 ^ 32) x.seq).bump (capCnt 12)).raise 490 1 0 x.seq

/-- A write of STB_CFG (R417): EN restarts SEQ and the period. -/
def stbCfgWrite (s : State) (v : Word) : State :=
  let rise := F.STB_CFG_EN.of v == 1 && !s.flag F.STB_CFG_EN
  let s1 := s.setReg 0x1401000 (v &&& 0x800003FF#32)
  if rise then ((s1.modCp fun cp => { cp with stbStart := s.tick })).setReg 0x1401010 0 else s1

/-- Ticks of the snapshot period; 0 when disabled. -/
def stbPeriod (s : State) : Nat := min (s.f F.STB_CFG_PERIOD) 1000 * ticksPerMs

/-- A write of STB_CMP_ARM (R417): ARM = 1 claims resource 4 + COMP for feature 0x08; ARM = 0 releases it. -/
def stbArmWrite (s : State) (q : Req) (v : Word) : State :=
  let n := F.STB_CMP_ARM_COMP.of v
  if s.flag F.STB_CMP_ARM_ARM then
    if F.STB_CMP_ARM_ARM.of v = 1 then s
    else ((s.cmpDisarm (s.f F.STB_CMP_ARM_COMP)).setFlag F.STB_CMP_ARM_ARM 0 false).setF F.STB_CMP_ARM_COMP 0 n
  else if F.STB_CMP_ARM_ARM.of v = 0 then s.setF F.STB_CMP_ARM_COMP 0 n
  else if !s.resFree (4 + n) then s.resConflict q (4 + n)
  else ((((s.resTake q (4 + n) 8).cmpArm n 8)).setF F.STB_CMP_ARM_COMP 0 n).setFlag F.STB_CMP_ARM_ARM 0 true

/-- A write of STB_CTRL (R417): NOW asks for a snapshot at the next tick. -/
def stbNow (s : State) (v : Word) : State := if F.STB_CTRL_NOW.of v = 1 then s.modCp fun cp => { cp with snapNow := true } else s

/-- At a tick the snapshot asked for is taken. -/
def snapTick (s : State) : State :=
  if s.cp.snapNow then (s.modCp fun cp => { cp with snapNow := false }).snapTake 4 else s

/-- A host write of STB_UPAGE (R421). -/
def upageWrite (s : State) (v : Word) : State :=
  (s.setReg 0x1401014 (v &&& 0x80000003#32)).raiseIf (F.STB_UPAGE_UEN.of v != s.f F.STB_UPAGE_UEN) 492 1 0
    (F.STB_UPAGE_UEN.of v)

/-- A 64-bit read of the user counter page (R421): SEQ and EPOCH, TICK, or slot UBASE * 512 + u. -/
def userPageWord (s : State) (off : Nat) : Nat :=
  if !s.flag F.STB_UPAGE_UEN then 0
  else match s.cp.userPage with
    | none => 0
    | some p =>
      if off < 8 then p.seq + p.epoch % 2 ^ 32 * 2 ^ 32
      else if off < 16 then p.tick
      else if off < 4096 then sget (fun _ => 0) p.slots (s.f F.STB_UPAGE_UBASE * 512 + (off - 16) / 8)
      else 0

end State

/-! ### The commands -/

/-- CAPTURE_ENABLE (R409): a write of CAP_CFG with EN = 1. -/
def execCaptureEnable (q : Req) (v : Word) (s : State) : Host.Outcome State Fault Refusal :=
  .next (s.guardW q 0x1400000 fun s => s.capCfgWrite (v ||| 0x80000000#32))

/-- CAPTURE_RECORD_WRITE (R413). -/
def execCaptureRecordWrite (s : State) : Host.Outcome State Fault Refusal := .next s.capWriteFront

/-- CAPTURE_COPY_STALE (R412). -/
def execCaptureCopyStale (s : State) : Host.Outcome State Fault Refusal := .next s.capStale

/-- CAPTURE_RESUME (R413): a write of CAP_STAT with 1 at FULL. -/
def execCaptureResume (q : Req) (v : Word) (s : State) : Host.Outcome State Fault Refusal :=
  .next (s.guardW q 0x1400010 fun s => s.capStatWrite (v ||| 1#32))

/-- CAPTURE_READOUT_START (R416): a write of CAP_RD_CTRL with GO = 1. -/
def execCaptureReadoutStart (q : Req) (v : Word) (s : State) : Host.Outcome State Fault Refusal :=
  .next (s.guardW q 0x1400094 fun s => s.capRdWrite (v ||| 0x80000000#32))

/-- NOW (R417): a write of STB_CTRL; the snapshot instant is the next tick. -/
def execStbNow (q : Req) (v : Word) (s : State) : Host.Outcome State Fault Refusal :=
  .next (s.guardW q 0x1401004 fun s => s.stbNow v)

/-- SNAPSHOT_PERIOD (R417): a whole number of periods has passed since EN was written. -/
def execSnapshotPeriod (s : State) : Host.Outcome State Fault Refusal :=
  .next (if s.stbPeriod ≠ 0 ∧ s.cp.stbStart < s.tick ∧ (s.tick - s.cp.stbStart) % s.stbPeriod = 0 then s.snapTake 1 else s)

/-- SNAPSHOT_WRITE_END (R418). -/
def execSnapshotWriteEnd (r : Fin 64) (d : Desc) (s : State) : Host.Outcome State Fault Refusal :=
  .next (s.snapWrite r.val d)

/-- STUDBOOK_COMPARATOR_ARM (R417): a write of STB_CMP_ARM. -/
def execStudbookComparatorArm (q : Req) (v : Word) (s : State) : Host.Outcome State Fault Refusal :=
  .next (s.guardW q 0x1401008 fun s => s.stbArmWrite q v)

/-- USER_PAGE_WRITE (R421): only the host writes STB_UPAGE. -/
def execUserPageWrite (q : Req) (v : Word) (s : State) : Host.Outcome State Fault Refusal :=
  .next (s.guardHostW q 0x1401014 fun s => s.upageWrite v)

end Sys2Proof.Machine
end

