-- ==== Sys2Proof/Machine/Time.lean ====
section
/-! DEFINITION. Time, time-of-day transfer, PPS, capture and comparators (spec/10_time.md). -/

namespace Sys2Proof.Machine

namespace State

/-! ### Reference and states (R270 to R272, R277, R278) -/

def timState (s : State) : Nat := s.f F.TIM_STAT_STATE
def timSrc (s : State) : Nat := s.f F.TIM_CFG_SRC

/-- The side that is active for SRC = 2 (R270): in pairing modes 0 and 2, side A. -/
def activeRef (s : State) : Side := if s.f F.PRT_CFG_MODE = 1 ∧ s.f F.PRT_STAT_ACTIVE = 1 then .b else .a

/-- The reference side, if the reference is a line clock. -/
def refSide (s : State) : Option Side :=
  match s.timSrc with | 0 => some .a | 1 => some .b | 2 => some s.activeRef | _ => none

/-- The input of an external PPS reference. -/
def refInput (s : State) : Option Nat := match s.timSrc with | 3 => some 0 | 4 => some 1 | _ => none

/-- The reference code of event 387. -/
def refCode (s : State) : Nat :=
  match s.refSide, s.refInput with | some x, _ => sideNo x | none, some n => 2 + n | none, none => 4

/-- Change the state; event 384 (R272, R292). Leaving FREE or HOLDOVER starts the message time-out. -/
def timGo (s : State) (new cause : Nat) : State :=
  let old := s.timState
  if new = old then s
  else
    let s1 := s.setF F.TIM_STAT_STATE 0 new
    let s2 := if new = 3 then s1.setF F.TIM_STAT_HOLD_CAUSE 0 cause else s1
    let s3 := if old = 0 ∨ old = 3 then (s2.modTm fun tm => { tm with lastTod := s.tick, lockGood := 0, lockBad := 0 }) else s2
    let s4 := if new = 2 then
        -- R279: the first aligned tick is the first boundary at least 0.5 s after the previous tick; one that a step back has
        -- put off waits
        let left := 1000000000 - s.todNs % 1000000000
        let gone := (s.tick - s.tm.lastSec) * 625 / 486
        (s3.modTm fun tm => { tm with
          lastSecTod := max (if s.tm.secWait then s.tm.lastSecTod else 0)
            (if 500000000 ≤ gone + left then todSec s.todUnits else todSec s.todUnits + 1) })
      else s3
    s4.raise 384 1 0 (new + 4 * old + 16 * s4.f F.TIM_STAT_HOLD_CAUSE)

/-- The loop freezes at the frequency word it holds (R271), which the spec does not compute: a free value. -/
def timFreeze (s : State) : State :=
  if s.tm.frozen then s
  else
    let (w, s1) := if 5 ≤ s.timSrc then ((s.reg 0x100002C).toNat, s) else s.takeFree 32
    (s1.modTm fun tm => { tm with frozen := true }).setReg 0x1000028 (BitVec.ofNat 32 w)

def timThaw (s : State) : State := (s.modTm fun tm => { tm with frozen := false })

/-- Holdover with one of causes 1 to 4 in state 1 or 2, or cause 6 in state 1, 2 or 3 (R272). -/
def timHold (s : State) (cause : Nat) : State :=
  if s.timState = 1 ∨ s.timState = 2 then
    (if cause = 2 ∨ cause = 5 then s else s.timFreeze).timGo 3 cause
  else if s.timState = 3 ∧ cause = 6 then (s.timFreeze).setF F.TIM_STAT_HOLD_CAUSE 0 6
  else s

/-- The reference side has dLOS or dLOF when it becomes the reference (R272 cause 1): with SRC = 2 in protection mode the
protection control judges the sides at the tick (`timSides`). -/
def timLost (s : State) : State :=
  if s.timSrc = 2 ∧ s.f F.PRT_CFG_MODE = 1 then s.modPrt fun p => { p with due := true }
  else match s.refSide with
    | some x => if s.flag F.DSF_STAT_LOS (sideOff x) || s.flag F.DSF_STAT_LOF (sideOff x) then s.timHold 1 else s
    | none => s

/-- dLOS or dLOF is declared on a side (R272 cause 1): holdover when it is the reference; with SRC = 2 in protection mode the
eligibility of the sides decides (`timSides`). -/
def timSideLost (s : State) (x : Side) : State :=
  if s.timSrc = 2 ∧ s.f F.PRT_CFG_MODE = 1 then s
  else if s.refSide = some x then s.timHold 1 else s

/-- A side has DS_VALID = 1 again: a loop frozen for cause 1 follows its line clock again (R272). -/
def timSideBack (s : State) (x : Side) : State :=
  if s.refSide = some x ∧ s.timState = 3 ∧ s.f F.TIM_STAT_HOLD_CAUSE = 1 then s.timThaw else s

/-- The reference moves with the active side (R277), by a protection switch or by a change of the pairing mode (R270; its event
without bit 3 is a DESIGN CHOICE, log 213). A loop frozen for cause 1 follows a side that has DS_VALID (R272). -/
def timMove (s : State) (switch : Bool) : State :=
  let b := sideNo s.activeRef
  let s1 := s.setF F.TIM_STAT_REF_SIDE 0 b
  if s.timSrc = 2 ∧ s.f F.TIM_STAT_REF_SIDE ≠ b then
    let s2 := s1.raise 387 1 0 (b + (if switch then 8 else 0))
    let s3 := if s2.flag F.DSF_STAT_DS_VALID (sideOff s2.activeRef) then s2.timSideBack s2.activeRef else s2
    s3.timLost
  else s1

/-! ### Steps and slew (R276) -/

/-- Times of armed comparators a step from `t0` to `t1` passes are marked (R291). -/
def cmpStep (s : State) (u0 u1 : Nat) : State :=
  (List.range 8).foldl (fun s n =>
    if s.flag F.TIM_CMP_CTRL_ARM (16 * n) && decide (u0 < s.cmpTarget n * 65536) && decide (s.cmpTarget n * 65536 ≤ u1) then
      s.setCmpFlag n 2 else s) s

/-- PPS outputs look for edges again from the time a backward step gave (R289). -/
def ppsStep (s : State) (ns : Nat) : State :=
  let g (n : Nat) : Pps := sget (fun _ => {}) s.tm.pps n
  let m := (List.range 2).foldl (fun m n => sset (fun _ => {}) m n { g n with edge := min (g n).edge ns }) s.tm.pps
  (s.modTm fun tm => { tm with pps := m })

/-- A step of ToD by `e` in 2^-16 ns, ending in state `new` (R272, R276, R279): pending slew cleared, STEPS counted, event
385 raised. -/
def todStep (s : State) (e : Int) (new cause : Nat) : State :=
  let u0 := s.todUnits
  let s1 := s.setTod ((s.tm.tod : Int) + e * 243)
  let u1 := s1.todUnits
  let s2 := (s1.modTm fun tm => { tm with
    slew := 0, lockGood := 0, lockBad := 0,
    secDue := s1.tm.secDue || (decide (s1.tm.lastSecTod < todSec u1) && decide (todSec u0 < todSec u1)),
    secWait := s1.tm.secWait || decide (u1 < u0) })
  let s3 := s2.setFlag F.TIM_STAT_SLEWING 0 false
  let ns := max (-(2 ^ 31 : Int)) (min (2 ^ 31 - 1) (e / 65536))
  let s4 := ((s3.cmpStep u0 u1).ppsStep (u1 / 65536)).bump (timCnt 2)
  (s4.raise 385 1 0 (toBits ns 32)).timGo new cause

/-- The error of an accepted message or edge of the reference drives ToD (R276, R278). -/
def timDrive (s : State) (e : Int) : State :=
  let s := (s.modTm fun tm => { tm with lastTod := s.tick }).timThaw
  let c := e / (2 ^ (min 7 (s.f F.TIM_CFG_GAIN)) : Int)
  if s.timState = 0 ∨ s.tm.headNew then (s.modTm fun tm => { tm with headNew := false }).todStep e 1 0
  else if s.f F.TIM_THR_STEP_NS * 65536 ≤ c.natAbs then s.todStep c 1 0
  else
    let s1 := ((s.modTm fun tm => { tm with slew := c }).setFlag F.TIM_STAT_SLEWING 0 (c != 0))
    let s2 := if s1.timState = 3 then s1.timGo 1 0 else s1
    let near := decide (e.natAbs < s.f F.TIM_CFG_LOCK_NS * 65536)
    let good := if near then s2.tm.lockGood + 1 else 0
    let bad := if near then 0 else s2.tm.lockBad + 1
    let s3 := (s2.modTm fun tm => { tm with lockGood := good, lockBad := bad })
    if s3.timState = 1 ∧ 3 ≤ good then s3.timGo 2 0
    else if s3.timState = 2 ∧ 3 ≤ bad then (s3.modTm fun tm => { tm with lockGood := 0, lockBad := 0 }).timGo 1 0
    else s3

/-! ### Time_of_Day messages (R273 to R276) -/

def heldTod (s : State) : Side → Option TodMsg
  | .a => s.tm.heldTodA
  | .b => s.tm.heldTodB
def setHeldTod (s : State) (x : Side) (m : Option TodMsg) : State :=
  (match x with
    | .a => (s.modTm fun tm => { tm with heldTodA := m })
    | .b => (s.modTm fun tm => { tm with heldTodB := m })).setFlag F.TIM_TODM_CTRL_PEND (0x20 * sideNo x) m.isSome
def bounds (s : State) : Side → List Bound
  | .a => s.tm.boundsA
  | .b => s.tm.boundsB

/-- A frame boundary is kept, with the 63 before it (R274). -/
def addBound (s : State) (x : Side) (b : Bound) : State :=
  match x with
  | .a => (s.modTm fun tm => { tm with boundsA := (b :: s.tm.boundsA).take 64 })
  | .b => (s.modTm fun tm => { tm with boundsB := (b :: s.tm.boundsB).take 64 })

def todResult (s : State) (x : Side) (r : Nat) : State := s.setF F.TIM_TODM_CTRL_RESULT (0x20 * sideNo x) r

/-- A refused message (R274). -/
def todRefuse (s : State) (x : Side) (cause : Nat) : State :=
  ((s.todResult x 2).bump (timCnt 1)).raise 386 1 0 (sideNo x + 2 * cause)

end State

/-- A signed quotient rounded to the nearest integer, halves up (R275). -/
def roundInt (a b : Int) : Int := (2 * a + b) / (2 * b)

namespace State

/-- The staged Time_of_Day message of a side. -/
def stagedTod (s : State) (x : Side) : TodMsg :=
  let i := 0x20 * sideNo x
  { sfc := s.f F.TIM_TODM_0_SFC i + 2 ^ 32 * s.f F.TIM_TODM_1_SFC i,
    sec := s.f F.TIM_TODM_2_SEC i + 2 ^ 32 * s.f F.TIM_TODM_3_SEC i, nsec := s.f F.TIM_TODM_4_NSEC i,
    frac := s.f F.TIM_TODM_3_FRAC i, teqd := s.f F.TIM_TODM_5_TEQD i + 2 ^ 32 * s.f F.TIM_TODM_6_TEQD i }

/-- rtd of R275 in 2^-16 ns. -/
def todRtd (s : State) (x : Side) (m : TodMsg) (b : Bound) : Int :=
  let i := 4 * sideNo x
  (m.teqd : Int) - 160000 * 65536 - roundInt (((b.eqd : Int) - b.resid) * 20480000) (243 * s.bOf x)
    - (s.f F.TIM_DLY_DRX i + s.f F.TIM_DLY_DTX i : Nat) * 256

/-- tod_N of R275 in 2^-16 ns. -/
def todAtN (s : State) (x : Side) (m : TodMsg) (b : Bound) : Int :=
  let i := 4 * sideNo x
  (((m.sec * 1000000000 + m.nsec) * 65536 + m.frac : Nat) : Int)
    + roundInt (s.todRtd x m b * 2 ^ 30) (2 ^ 30 + (s.f F.TIM_ASYM_ASYM i : Int)) + s.f F.TIM_DLY_DRX i * 256

/-- A message is computed at frame N's boundary (R275); its error is taken at the next tick (R276). -/
def todCompute (s : State) (x : Side) (m : TodMsg) (b : Bound) : State :=
  if s.todRtd x m b ≤ 0 then s.todRefuse x 4
  else s.modTm fun tm => { tm with jobs := tm.jobs ++ [.message x (s.todAtN x m b) b.stamp] }

/-- tod_run of R276: the ToD there is now less the time elapsed since a stamp, in 2^-16 ns, rounded as R269 rounds. -/
def todRun (s : State) (stamp : Nat) : Int :=
  (2 * ((s.tm.tod : Int) - ((16 * s.tick : Nat) - (stamp : Int)) * 1280000) + 243) / 486

/-- The error of an accepted message (R276): TIM_ERR, TOD_APPLIED, and the loop if the side is the reference. -/
def todError (s : State) (x : Side) (todN : Int) (stamp : Nat) : State :=
  let e := todN - s.todRun stamp
  let es := toBits (max (-(2 ^ 63 : Int)) (min (2 ^ 63 - 1) e)) 64
  let s1 := ((s.setReg (0x1000060 + 8 * sideNo x) (BitVec.ofNat 32 es)).setReg (0x1000064 + 8 * sideNo x)
    (BitVec.ofNat 32 (es / 2 ^ 32))).bump (timCnt 0)
  if s1.refSide = some x then s1.timDrive e else s1

/-- APPLY (R274). -/
def todApplyOp (s : State) (x : Side) : State :=
  let m := s.stagedTod x
  let had := (s.heldTod x).isSome
  let s := s.setHeldTod x none
  let l := ((s.bounds x).headD {}).sfc
  let back := (l + 2 ^ 51 - m.sfc % 2 ^ 51) % 2 ^ 51
  let ahead := (m.sfc + 2 ^ 51 - l % 2 ^ 51) % 2 ^ 51
  if m.nsec ≥ 1000000000 then s.todRefuse x 0
  else if back ≤ 63 then
    match (s.bounds x).find? fun b => b.sfc == m.sfc with
    | some b => (s.todResult x (if had then 3 else 1)).todCompute x m b
    | none => s.todRefuse x 1
  else if 1 ≤ ahead ∧ ahead ≤ 8000 then
    let s1 := s.setHeldTod x (some m)
    if had then s1.todResult x 3 else s1
  else s.todRefuse x (if back < ahead then 1 else 2)

/-- The boundary of the held message's frame has come (R274, R275). -/
def todHeldOp (s : State) (x : Side) : State :=
  match s.heldTod x with
  | none => s
  | some m =>
    match (s.bounds x).find? fun b => b.sfc == m.sfc with
    | none => s
    | some b => ((s.setHeldTod x none).todResult x 1).todCompute x m b

/-- DS_VALID of a side falls: a held message is discarded (R274). -/
def todDsLost (s : State) (x : Side) : State :=
  if (s.heldTod x).isSome then (s.setHeldTod x none).todRefuse x 3 else s

/-- The head-end identity of a side changed (R278). -/
def todHeadChange (s : State) (x : Side) : State :=
  if s.refSide = some x then
    let s1 := s.setHeldTod x none
    (s1.modTm fun tm => { tm with headNew := true }).timHold 3
  else s

/-- TIM_CTRL.SET (R276): the ToD it names is set at the next tick. -/
def todSetOp (s : State) : State :=
  let ns := s.f F.TIM_SET_NS_NS
  if ns ≥ 1000000000 then s
  else s.modTm fun tm => { tm with
    todSet := some (((s.f F.TIM_SET_S_LO_SEC + 2 ^ 32 * s.f F.TIM_SET_S_HI_SEC) * 1000000000 + ns) * 65536) }

/-- A SET takes effect as a step (R272, R276): ToD becomes the set value exactly. -/
def todSetTake (s : State) (u : Nat) : State :=
  let st := s.timState
  let s1 := s.setTod (s.todUnits * 243 : Nat)
  s1.todStep ((u : Int) - (s.todUnits : Int)) (if st = 0 ∧ 5 ≤ s.timSrc then 3 else if st = 2 then 1 else st) 5

/-- An external PPS edge (R290): its error to the nearest instant at EXT_OFS of a second drives the loop. -/
def extError (s : State) (stamp : Nat) : State :=
  let t : Int := s.todRun stamp
  let sec : Int := 1000000000 * 65536
  let o : Int := signedOf (s.f F.TIM_EXT_OFS_NS) 32 * 65536
  let d := (o - t) % sec
  s.timDrive (if 2 * d ≤ sec then d else d - sec)

/-- The work of a tick (R276): a SET first, then the messages and edges that came since the last tick. -/
def todWork (s : State) : State :=
  let s1 := match s.tm.todSet with
    | none => s
    | some u => (s.modTm fun tm => { tm with todSet := none }).todSetTake u
  let s2 := s1.tm.jobs.foldl (fun s j => match j with
    | .message x todN stamp => s.todError x todN stamp
    | .edge stamp => s.extError stamp) (s1.modTm fun tm => { tm with jobs := [] })
  s2.todSeg

/-! ### The source (R270) -/

/-- Release the EVCAP input of an external PPS reference. -/
def srcRelease (s : State) (src : Nat) : State :=
  if src = 3 then s.resRelease 2 else if src = 4 then s.resRelease 3 else s

/-- SRC takes its value, and the state follows: without a reference the oscillator runs at TIM_FREQ_SET. -/
def srcSet (s : State) (src ref0 : Nat) : State :=
  let s1 := if 5 ≤ src then (if s.timState = 1 ∨ s.timState = 2 then (s.timThaw).timGo 3 5 else s.timThaw)
    else if s.timState = 3 then s.timThaw.timGo 1 0 else s
  let s2 := s1.setF F.TIM_CFG_SRC 0 src
  (s2.raiseIf (s2.refCode != ref0) 387 1 0 s2.refCode).timLost

/-- A write of TIM_CFG (R270, R272, R277). OWNER takes the host's writes only. On CONFLICT the write changes nothing (R37). -/
def timCfgWrite (s : State) (q : Req) (v : Word) : State :=
  let old := s.timSrc
  let src := F.TIM_CFG_SRC.of v
  let ref0 := s.refCode
  let need := if src = old then none else if src = 3 then some 2 else if src = 4 then some 3 else none
  let s1 := if q = .host then s.setF F.TIM_CFG_OWNER 0 (F.TIM_CFG_OWNER.of v) else s
  let s2 := ((s1.setF F.TIM_CFG_LOCK_NS 0 (F.TIM_CFG_LOCK_NS.of v)).setF F.TIM_CFG_BW 0 (F.TIM_CFG_BW.of v)).setF
    F.TIM_CFG_GAIN 0 (F.TIM_CFG_GAIN.of v)
  match need with
  | some r =>
    if !s.resFree r then s.resConflict q r
    else ((s2.srcRelease old).resTake q r 5).srcSet src ref0
  | none => (if src = old then s2 else s2.srcRelease old).srcSet src ref0

/-! ### The second tick (R279) -/

/-- The second tick falls (R279): in LOCKED at a ToD second boundary after the second last ticked, which is also where it comes
again after a backward step; else 777,600,000 ticks after the previous one; and at a step forward that owes it. -/
def secTickDue (s : State) : Bool :=
  s.tm.secDue ||
    (if s.timState = 2 ∨ s.tm.secWait then decide (s.tm.lastSecTod < todSec s.todUnits)
     else decide (s.tm.lastSec + 777600000 ≤ s.tick))

/-- The tick reaches both Line regions through crossings 21 and 22 (R97, R279). -/
def secTick (s : State) : State :=
  let aligned := s.tm.secDue || decide (s.timState = 2) || s.tm.secWait
  (s.modTm fun tm => { tm with
    lastSec := s.tick, lastSecTod := todSec s.todUnits, secDue := false, secWait := false,
    secA := s.xOpen 21, secB := s.xOpen 22 }).setFlag F.TIM_STAT_TICK_ALIGNED 0 aligned

/-! ### Reads of ToD (R269) -/

/-- A read of TIM_TOD_NS latches the requester's shadows. -/
def todLatch (s : State) (q : Req) : State :=
  let put (m : SMap Nat) (i v : Nat) := sset (fun _ => 0) m (reqCode q * 4 + i) v
  (s.modTm fun tm => { tm with todShadow := put (put s.tm.todShadow 0 s.todUnits) 1 s.tick })
def todShadow (s : State) (q : Req) (i : Nat) : Nat := sget (fun _ => 0) s.tm.todShadow (reqCode q * 4 + i)

/-! ### PPS outputs (R289) -/

def ppsRec (s : State) (n : Nat) : Pps := sget (fun _ => {}) s.tm.pps n
def setPps (s : State) (n : Nat) (x : Pps) : State := (s.modTm fun tm => { tm with pps := sset (fun _ => {}) s.tm.pps n x })

/-- FEATURE of a PPS output; 0 acts as 1. -/
def ppsFeature (s : State) (n : Nat) : Nat := max 1 (s.f F.TIM_PPS_CFG_FEATURE (16 * n))
def ppsOfs (s : State) (n : Nat) : Int := signedOf (s.f F.TIM_PPS_OFS_OFFSET (16 * n)) 32
def ppsPeriod (s : State) (n : Nat) : Nat :=
  if s.ppsFeature n = 2 ∧ s.f F.TIM_PPS_PER_PERIOD (16 * n) ≠ 0 then s.f F.TIM_PPS_PER_PERIOD (16 * n) else 1000000000

/-- The latest edge of second `sec` at or before `now`, in ns (features 0x01 and 0x02). -/
def ppsEdgeOf (s : State) (n : Nat) (now sec : Int) : Option Int :=
  let b := sec * 1000000000 + s.ppsOfs n
  if now < b then none
  else if s.ppsFeature n = 1 then some b
  else
    let last := min now ((sec + 1) * 1000000000 - 1)
    if last < b then none else some (b + (last - b) / s.ppsPeriod n * s.ppsPeriod n)

/-- The edge of a comparator output (feature 0x03): the target plus OFFSET, once, kept from the moment the comparator fires. -/
def ppsTarget (s : State) (n : Nat) : Option Int :=
  let p := s.ppsRec n
  let c := s.f F.TIM_PPS_CFG_COMP (16 * n)
  if p.due.isSome then p.due.map Int.ofNat
  else if !p.spent && !p.early && s.flag F.TIM_CMP_CTRL_ARM (16 * c) && s.cmpFlag c != 1 then some (s.cmpTarget c + s.ppsOfs n)
  else none

/-- The latest edge time at or before now. -/
def ppsLatest (s : State) (n : Nat) : Option Int :=
  if s.ppsFeature n = 3 then (s.ppsTarget n).filter fun d => decide (d ≤ s.todNs)
  else
    let now : Int := s.todNs
    let secs : List Int := [-3, -2, -1, 0, 1, 2, 3].map fun k => now / 1000000000 + k
    secs.foldl (fun a k => match s.ppsEdgeOf n now k, a with
      | some e, some b => some (max e b) | some e, none => some e | none, a => a) none

/-- An edge is due: EN, not FREE, and an edge time has come that is not served. -/
def ppsDue (s : State) (n : Nat) : Bool :=
  s.flag F.TIM_PPS_CFG_EN (16 * n) && s.timState != 0 &&
    match s.ppsLatest n with
    | some e => s.ppsFeature n == 3 || decide (((s.ppsRec n).edge : Int) < e)
    | none => false

/-- The pulse of an edge: WIDTH µs, or half the period when WIDTH is 0 or at least that. A comparator pulse has no period: a
WIDTH of 0 leaves its length open. The edge is placed to a sixteenth of a tick, and one that a step has passed at the step. -/
def ppsPulse (s : State) (n : Nat) : State :=
  let back : Int := (((s.ppsLatest n).getD s.todNs) * 65536 * 243 - s.tm.tod)
  let place := if -20480000 < back then (16 * (s.tick : Int) + roundInt back 1280000).toNat else 16 * s.tick
  let w := s.f F.TIM_PPS_CFG_WIDTH (16 * n) * 1000
  let r : Nat × State := if s.ppsFeature n = 3 then (if w = 0 then s.takeFree 32 else (w, s))
    else (if w = 0 ∨ s.ppsPeriod n ≤ 2 * w then s.ppsPeriod n / 2 else w, s)
  r.2.setPps n { s.ppsRec n with pulses := (s.ppsRec n).pulses + 1, edge := s.todNs, due := none, pulseNs := r.1, place := place,
                                 early := !(s.ppsRec n).spent }

/-- A write of TIM_PPS_n (R289, R37). Feature 0x03 claims two resources, output n and then comparator COMP: with both owned the
CONFLICT names output n, and after both are claimed RESULT shows output n, the last one entered (DESIGN CHOICE, log 214: R37
gives one result for the write). An output whose comparator has fired no longer owns it. -/
def ppsWrite (s : State) (q : Req) (n : Nat) (v : Word) : State :=
  let i := 16 * n
  let en := F.TIM_PPS_CFG_EN.of v == 1
  let was := s.flag F.TIM_PPS_CFG_EN i
  let ft := max 1 (F.TIM_PPS_CFG_FEATURE.of v)
  let c := F.TIM_PPS_CFG_COMP.of v
  let w := v &&& 0xC37FFFFF#32
  if en && !was then
    if !s.resFree n then s.resConflict q n
    else if ft = 3 && !s.resFree (4 + c) then s.resConflict q (4 + c)
    else
      let s1 := if ft = 3 then (s.resTake q (4 + c) 3).setF F.TIM_CMP_CTRL_FEATURE (16 * c) 3 else s
      (((s1.resTake q n ft).setReg (0x1000200 + i) w).setPps n { s.ppsRec n with
        edge := s.todNs, due := none, spent := false, early := false })
  else if !en && was then
    let c0 := s.f F.TIM_PPS_CFG_COMP i
    let s1 := if s.ppsFeature n = 3 ∧ !(s.ppsRec n).spent then s.cmpDisarm c0 else s
    (s1.resRelease n).setReg (0x1000200 + i) w
  else if en then
    -- the claim names FEATURE and COMP: they stay while EN = 1
    let keep := s.reg (0x1000200 + i) &&& 0x03700000#32
    s.setReg (0x1000200 + i) ((w &&& 0xC00FFFFF#32) ||| keep)
  else s.setReg (0x1000200 + i) w

/-! ### Event capture (R290) -/

/-- A write of TIM_CAP_n (R290, R37). -/
def capInWrite (s : State) (q : Req) (n : Nat) (v : Word) : State :=
  let i := 0x20 * n
  let en := F.TIM_CAP_CFG_EN.of v == 1
  let was := s.flag F.TIM_CAP_CFG_EN i
  let w := v &&& 0xE0000000#32
  if en && !was then
    if !s.resFree (2 + n) then s.resConflict q (2 + n) else (s.resTake q (2 + n) 4).setReg (0x1000240 + i) w
  else if !en && was then (s.resRelease (2 + n)).setReg (0x1000240 + i) w
  else s.setReg (0x1000240 + i) w

/-- The edge is one TIM_CAP_n.EDGE chooses. -/
def edgeChosen (s : State) (n : Nat) (falling : Bool) : Bool :=
  match s.f F.TIM_CAP_CFG_EDGE (0x20 * n) with | 2 => falling | 3 => true | _ => !falling

/-- A captured edge goes into its queue (R290). -/
def capEdge (s : State) (n : Nat) (falling : Bool) (stamp : Nat) : State :=
  let c := sget (fun _ => 0) s.tm.capCount n
  let s1 := (s.modTm fun tm => { tm with capCount := sset (fun _ => 0) s.tm.capCount n ((c + 1) % 65536) })
  let s2 := s1.tsWrite (8 + n) false n (if falling then 1 else 0) c (s.todOfStamp stamp)
  s2.raiseLim ticksPerMs n 389 1 0 (n + 16 * min 16 (s2.tsQueue (8 + n)).entries.length)

/-- Tick of the last edge of an external PPS input; before its first, the tick from which the reference has been waited for (R272;
DEDUCED, log 247). -/
def extLast (s : State) (n : Nat) : Nat :=
  match sget (fun _ => 0) s.tm.extEdge n with
  | 0 => s.tm.lastTod
  | t + 1 => t

/-- An external PPS edge (R290): it is handled at the next tick. -/
def extEdge (s : State) (n : Nat) (stamp : Nat) : State :=
  s.modTm fun tm => { tm with extEdge := sset (fun _ => 0) tm.extEdge n (s.tick + 1), jobs := tm.jobs ++ [.edge stamp] }

/-! ### Comparators (R291) -/

/-- A write of TIM_CMP_n's control word: W1C flags, and ARM. -/
def cmpWrite (s : State) (q : Req) (n : Nat) (v : Word) : State :=
  let i := 16 * n
  let s1 := s.setReg (0x100030C + i) (s.reg (0x100030C + i) &&& ~~~ (v &&& 0x70000000#32))
  let owner := s.resFeature (4 + n)
  if F.TIM_CMP_CTRL_ARM.of v = 1 then
    if owner = 3 ∨ owner = 7 then s1.cmpArm n owner
    else if !s1.resFree (4 + n) then s.resConflict q (4 + n)
    else (s1.resTake q (4 + n) 7).cmpArm n 7
  else if owner = 7 then s1.cmpDisarm n
  else if owner = 3 then s1.setFlag F.TIM_CMP_CTRL_ARM i false
  else s1

/-- A write of a target word; another feature's comparator keeps its target (R291). -/
def cmpTargetWrite (s : State) (a : Nat) (v : Word) : State :=
  let o := s.resFeature (4 + (a - 0x1000300) / 16)
  if o = 0 ∨ o = 3 ∨ o = 7 then s.setReg a v else s

/-- Comparator `n` fires for its owner (R257, R289, R291, R417). -/
def cmpFire (s : State) (n : Nat) : State :=
  let i := 16 * n
  let fl := s.cmpFlag n
  let owner := s.resFeature (4 + n)
  let s1 := ((s.setFlag F.TIM_CMP_CTRL_FIRED i true).setFlag F.TIM_CMP_CTRL_LATE i
    (fl == 1 || s.flag F.TIM_CMP_CTRL_LATE i)).setFlag F.TIM_CMP_CTRL_STEPPED i
    (fl == 2 || s.flag F.TIM_CMP_CTRL_STEPPED i)
  let s2 := (s1.cmpDisarm n).setCmpFlag n 0
  if owner = 6 then
    match s.gates.find? fun e => match e.2.pending with | some (_, c) => c == n | none => false with
    | some e => s2.gateTakeover e.1
    | none => s2
  else if owner = 7 then s2.raise 388 1 0 (n + (if fl = 1 then 8 else 0) + (if fl = 2 then 16 else 0))
  else if owner = 8 then (s2.setFlag F.STB_CMP_ARM_ARM 0 false).snapTake 2
  else if owner = 3 then
    (List.range 2).foldl (fun s k =>
      if s.flag F.TIM_PPS_CFG_EN (16 * k) && s.ppsFeature k == 3 && s.f F.TIM_PPS_CFG_COMP (16 * k) == n
          && !(s.ppsRec k).spent then
        s.setPps k { s.ppsRec k with
          spent := true, due := if (s.ppsRec k).early then none else some ((s.cmpTarget n : Int) + s.ppsOfs k).toNat }
      else s) s2
  else s2

end State

/-! ### The commands -/

/-- TOD_APPLY (R273, R274): a write of TIM_TODM_x_CTRL by the owner. -/
def execTodApply (q : Req) (x : Side) (v : Word) (s : State) : Host.Outcome State Fault Refusal :=
  .next (s.guardW q (0x100011C + 0x20 * sideNo x) fun s =>
    if s.f F.TIM_CFG_OWNER = reqCode q ∧ F.TIM_TODM_CTRL_APPLY.of v = 1 then s.todApplyOp x else s)

/-- TOD_HELD_COMPUTE (R274, R275). -/
def execTodHeldCompute (x : Side) (s : State) : Host.Outcome State Fault Refusal := .next (s.todHeldOp x)

/-- SET (R276): a write of TIM_CTRL. -/
def execTodSet (q : Req) (v : Word) (s : State) : Host.Outcome State Fault Refusal :=
  .next (s.guardW q 0x100000C fun s => if F.TIM_CTRL_SET.of v = 1 then s.todSetOp else s)

/-- TIME_SOURCE_WRITE (R270): a write of TIM_CFG. -/
def execTimeSourceWrite (q : Req) (v : Word) (s : State) : Host.Outcome State Fault Refusal :=
  .next (s.guardW q 0x1000000 fun s => s.timCfgWrite q v)

/-- TOD_MESSAGE_TIMEOUT (R272 cause 2): TIM_THR.TOD_TMO seconds have passed without an accepted message. -/
def execTodMessageTimeout (s : State) : Host.Outcome State Fault Refusal :=
  .next (if s.f F.TIM_THR_TOD_TMO ≠ 0 ∧ s.refSide.isSome
      ∧ s.tm.lastTod + s.f F.TIM_THR_TOD_TMO * 777600000 ≤ s.tick then s.timHold 2 else s)

/-- EXT_PPS_MISSING (R272 cause 4): 1.0001 s, 777,677,760 ticks, have passed since the last edge of the input. -/
def execExtPpsMissing (s : State) : Host.Outcome State Fault Refusal :=
  .next (match s.refInput with
    | some n =>
      if (s.timState = 1 ∨ s.timState = 2) ∧ s.extLast n + 777677760 ≤ s.tick then (s.timHold 4).raise 393 1 0 n
      else s
    | none => s)

/-- SECOND_TICK (R279). -/
def execSecondTick (s : State) : Host.Outcome State Fault Refusal := .next (if s.secTickDue then s.secTick else s)

/-- PPS_ENABLE (R289): a write of TIM_PPS_n. -/
def execPpsEnable (q : Req) (n : Fin 2) (v : Word) (s : State) : Host.Outcome State Fault Refusal :=
  .next (s.guardW q (0x1000200 + 16 * n.val) fun s => s.ppsWrite q n.val v)

/-- PPS_EDGE (R289). -/
def execPpsEdge (n : Fin 2) (s : State) : Host.Outcome State Fault Refusal :=
  .next (if s.ppsDue n.val then s.ppsPulse n.val else s)

/-- EVENT_CAPTURE_ENABLE (R290): a write of TIM_CAP_n. -/
def execEventCaptureEnable (q : Req) (n : Fin 2) (v : Word) (s : State) : Host.Outcome State Fault Refusal :=
  .next (s.guardW q (0x1000240 + 0x20 * n.val) fun s => s.capInWrite q n.val v)

/-- EVENT_CAPTURE_EDGE (R290): an edge at the input, `phase` sixteenths after the tick. -/
def execEventCaptureEdge (n : Fin 2) (falling : Bool) (phase : Fin 16) (s : State) : Host.Outcome State Fault Refusal :=
  .next (if !s.edgeChosen n.val falling then s
    else if s.resFeature (2 + n.val) = 4 then s.capEdge n.val falling (s.tick * 16 + phase.val)
    else if s.resFeature (2 + n.val) = 5 ∧ s.refInput = some n.val then s.extEdge n.val (s.tick * 16 + phase.val)
    else s)

/-- COMPARATOR_ARM (R291): a write of TIM_CMP_n's control word. -/
def execComparatorArm (q : Req) (n : Fin 8) (v : Word) (s : State) : Host.Outcome State Fault Refusal :=
  .next (s.guardW q (0x100030C + 16 * n.val) fun s => s.cmpWrite q n.val v)

/-- COMPARATOR_FIRE (R291). -/
def execComparatorFire (n : Fin 8) (s : State) : Host.Outcome State Fault Refusal :=
  .next (if s.flag F.TIM_CMP_CTRL_ARM (16 * n.val) && s.cmpDue n.val then s.cmpFire n.val else s)

/-- TOD_SLEW_END (R276): the pending slew has reached 0. -/
def execTodSlewEnd (s : State) : Host.Outcome State Fault Refusal :=
  .next (if s.tm.slew = 0 then s.setFlag F.TIM_STAT_SLEWING 0 false else s)

end Sys2Proof.Machine
end

