-- ==== Sys2Proof/Machine/LineBase.lean ====
section
/-! DEFINITION. What the line chapters share: PTP messages (R282 to R284), table entries that take effect at the next
frame boundary, line time and the port-ID filter (R67, R76, R281). -/

namespace Sys2Proof.Machine

/-! ### The scrambler x^58 + x^39 + 1 (R69) -/

/-- The next eight bits of the scrambler, first bit most significant: each is the sum of bits 57 and 38 of the register, which
it enters at bit 0 (R69; which end of the register leads is DEDUCED, log 195). -/
def scrByte (r : Nat) : Nat := (r / 2 ^ 50 ^^^ r / 2 ^ 31) % 256
def scrNext (r : Nat) : Nat := (r * 256 + scrByte r) % 2 ^ 58

/-- Bytes with the scrambler's output added, from register `r` on. -/
def scramble : Nat → List Byte → List Byte
  | _, [] => []
  | r, b :: bs => (b ^^^ BitVec.ofNat 8 (scrByte r)) :: scramble (scrNext r) bs

/-- The preset of a frame: its superframe counter followed by seven 1 bits (R69). -/
def scrPreset (sfc : Nat) : Nat := sfc % 2 ^ 51 * 128 + 127

/-- CRC-16, generator x^16 + x^12 + x^5 + 1, preset 0xFFFF (R74, R457). -/
def crc16 (bs : List Byte) : Nat := crcBytes 16 0x1021 bs 0xFFFF

/-! ### PTP (R282 to R284) -/

/-- A recognised PTP event message (R282): offset of the PTP header, messageType, offset of the UDP checksum when it must
follow a change. -/
structure PtpMsg where
  off : Nat
  mtype : Nat
  csum : Option Nat
  deriving DecidableEq, Repr

/-- Recognise an event message (R282): version 2, type 0 to 3, correctionField within the first 128 bytes. -/
def ptpFind (d : List Byte) : Option PtpMsg :=
  let o := etOffset d
  let et := beAt d o 2
  let ip := o + 2
  let r : Option (Nat × Option Nat) :=
    if et = 0x88F7 then some (ip, none)
    else if et = 0x0800 ∧ beAt d ip 1 = 0x45 ∧ beAt d (ip + 9) 1 = 17 ∧ beAt d (ip + 6) 2 % 0x4000 = 0
        ∧ beAt d (ip + 22) 2 = 319 then
      some (ip + 28, if beAt d (ip + 26) 2 = 0 then none else some (ip + 26))
    else if et = 0x86DD ∧ beAt d ip 1 / 16 = 6 ∧ beAt d (ip + 6) 1 = 17 ∧ beAt d (ip + 42) 2 = 319 then
      some (ip + 48, some (ip + 46))
    else none
  match r with
  | none => none
  | some (h, c) =>
    let t := beAt d h 1 % 16
    if t ≤ 3 ∧ beAt d (h + 1) 1 % 16 = 2 ∧ h + 16 ≤ min 128 d.length then some ⟨h, t, c⟩ else none

/-- Replace bytes from `i` on and bring a UDP checksum at `c` up to date (R283). -/
def patchSum (d : List Byte) (c : Option Nat) (i : Nat) (new : List Byte) : List Byte :=
  let d' := patch d i new
  match c with
  | none => d'
  | some c =>
    let old := bytesAt d i new.length
    let neg (bs : List Byte) := bs.map fun b => ~~~ b
    let sum := onesSum new (onesSum (neg old) (65535 - beAt d c 2))
    let v := 65535 - sum
    patch d' c (beBytes 2 (if v = 0 then 65535 else v))

/-- Downstream and upstream counters of a side. -/
def dsCnt (x : Side) (i : Nat) : Nat := 0x401200 + sideOff x + 8 * i
def usCnt (x : Side) (i : Nat) : Nat := 0x406200 + sideOff x + 8 * i

/-- Largest correctionField. -/
def cfMax : Nat := 0x7FFFFFFFFFFFFFFF

namespace State

/-- The frame as it leaves egress point `pt` (bit of TC_EN) with egress stamp `es` in sixteenths of a tick (R283, R284),
and the counters of the Time block that count it when it leaves. -/
def ptpEgress (s : State) (pt : Nat) (x : Frame) (es : Nat) : List Byte × List Nat :=
  match ptpFind x.data with
  | none => (x.data, [])
  | some m =>
    let cf := beAt x.data (m.off + 8) 8
    if x.src ≤ 2 then
      if bitOf (s.f F.TIM_PTP_CFG_TC_EN) pt && cf != cfMax then
        let res := roundDiv ((es - x.stamp) * 1280000) 243
        let v := signedOf cf 64 + res
        let sat := decide ((cfMax : Int) < v)
        let v' := if sat then cfMax else toBits v 64
        (patchSum x.data m.csum (m.off + 8) (beBytes 8 v'), if sat then [3, 8] else [3])
      else (x.data, [])
    else if x.oneStep && m.mtype == 0 then
      let t := s.todOfStamp es
      let d1 := patchSum x.data m.csum (m.off + 34) (beBytes 6 (todSec t) ++ beBytes 4 (todNsec t))
      (patchSum d1 m.csum (m.off + 8) (beBytes 8 (toBits (signedOf cf 64 + todFrac t) 64)), [4])
    else (x.data, [])

/-- A frame with time-stamping leaves: its counters of the Time block (R283, R284). -/
def ptpCount (s : State) (cs : List Nat) : State := cs.foldl (fun s i => s.bump (timCnt i)) s

/-- A receive entry for a recognised event message on port group `g` while its queue records (R285). -/
def tsReceive (s : State) (g port : Nat) (x : Frame) : State :=
  match ptpFind x.data with
  | none => s
  | some m =>
    if s.flag F.TIM_TSQ_CFG_EN (0x20 * (2 * g + 1)) then
      s.tsWrite (2 * g + 1) false port m.mtype (beAt x.data (m.off + 30) 2) x.stampTod
    else s

/-! ### Entries that take effect at the next frame boundary (R99, R118, R367) -/

/-- The word of a table entry that is in effect for side `x`. -/
def eff (s : State) (x : Side) (a : Nat) : Word :=
  (sget (fun _ => (none : Option Word)) (s.line x).effOld a).getD (s.reg a)

/-- A field of it. -/
def effF (s : State) (x : Side) (F : Fld) (i : Nat) : Nat := F.of (s.eff x (F.addr + i))

/-- Write a table entry that takes effect at side `x`'s next frame boundary: the value in effect is kept until then. -/
def stageReg (s : State) (x : Side) (a : Nat) (v : Word) : State :=
  let l := (s.line x).effOld
  let l' := if (sget (fun _ => (none : Option Word)) l a).isSome then l
    else sset (fun _ => (none : Option Word)) l a (some (s.reg a))
  (s.modLine x fun l => { l with effOld := l' }).setReg a v

/-! ### Modes and line time -/

/-- LIN_MODE.MODE = 1: Drixis. (R48: 0 is G-mode.) -/
def drixis (s : State) (x : Side) : Bool := s.flag F.LIN_MODE_MODE (sideOff x)
/-- The receiver, or transmitter, is enabled and its region runs. -/
def rxEn (s : State) (x : Side) : Bool := s.flag F.LIN_MODE_RX_EN (sideOff x) && s.regionUp (sideNo x)
def txEn (s : State) (x : Side) : Bool := s.flag F.LIN_MODE_TX_EN (sideOff x) && s.regionUp (sideNo x)

/-- Line bit of an information byte (R67). -/
def infoBit (pos : Nat) : Nat := pos / 1824 * 17280 + pos % 1824 * 8

/-- Stamp in sixteenths of a tick of information byte `pos` of the frame in progress (R281): 256 bits per tick in Drixis
mode, 64 in G-mode. -/
def lineStamp (s : State) (x : Side) (pos : Nat) : Nat :=
  (s.line x).curTick * 16 + (s.line x).curPhase + infoBit pos * 16 / (if s.drixis x then 256 else 64)

/-- An information byte of the frame in progress among the `n` from `pos` on lies in an uncorrectable codeword (R55, R77,
R79). -/
def lineMarked (s : State) (x : Side) (pos n : Nat) : Bool :=
  (s.line x).marks.any fun m => decide (pos / 1824 ≤ m) && decide (m ≤ (pos + n - 1) / 1824)

/-- Information bytes of the frame in progress from `pos` on. -/
def infoAt (s : State) (x : Side) (pos n : Nat) : List Byte := bytesAt (s.line x).info (pos - 16) n

/-- Activation state (R125). -/
def actState (s : State) (x : Side) : Nat := s.f F.UPB_ACT_STATE (sideOff x)

/-- A line event of the side (R66, R100, R134). -/
def lineEvent (s : State) (x : Side) (off info : Nat) (level : Nat := 1) : State :=
  s.raise (sideEvt x + off) level 0 info

/-! ### Port-ID filter (R76) -/

/-- Indices of the valid entries that match a port ID. -/
def pidMatches (s : State) (x : Side) (pid : Nat) : List Nat :=
  (List.range 4096).filter fun n =>
    s.effF x F.DSF_PID_VALID (sideOff x + 4 * n) == 1 &&
      (if s.drixis x then s.effF x F.DSF_PID_PORT_ID (sideOff x + 4 * n) == pid
       else s.effF x F.DSF_PID_PORT_ID (sideOff x + 4 * n) == pid % 65536)

end State

end Sys2Proof.Machine
end

