-- ==== Sys2Proof/Machine/LineCore.lean ====
section
/-! DEFINITION. The conditions of a line side and what follows from them (R83, R87, R88, R90, R91, R119 to R133), and the
protection switch (R138 to R146), which every change of a side's conditions may cause. -/

namespace Sys2Proof.Machine

namespace State

/-! ### Conditions of a side -/

def dsValid (s : State) (x : Side) : Bool := s.flag F.DSF_STAT_DS_VALID (sideOff x)
def los (s : State) (x : Side) : Bool := s.flag F.DSF_STAT_LOS (sideOff x)
def lof (s : State) (x : Side) : Bool := s.flag F.DSF_STAT_LOF (sideOff x)
def sd (s : State) (x : Side) : Bool := s.flag F.LIN_DSP_STAT_SD (sideOff x)
def inSync (s : State) (x : Side) : Bool := s.f F.DSF_STAT_STATE (sideOff x) == 2
def mfAlign (s : State) (x : Side) : Bool := s.flag F.DSF_STAT_MF_ALIGN (sideOff x)
def rogue (s : State) (x : Side) : Bool := s.flag F.UPB_BRIDLE_STAT_ROGUE (sideOff x)
def txf (s : State) (x : Side) : Bool := s.flag F.LIN_FE_STAT_TXF (sideOff x)

/-- The last column but one of R119: DS_VALID, TX_EN and a transmitting state. -/
def mayTransmit (s : State) (x : Side) : Bool :=
  s.dsValid x && s.txEn x && decide (1 ≤ s.actState x) && decide (s.actState x ≤ 3)

/-- Pairing mode and active side (R135, R138). -/
def prtMode (s : State) : Nat := s.f F.PRT_CFG_MODE
def active (s : State) : Side := if s.flag F.PRT_STAT_ACTIVE then .b else .a

/-- A side is eligible to be active (the list before R138). -/
def eligible (s : State) (x : Side) : Bool :=
  decide (s.actState x = 3) && s.dsValid x && !s.los x && !s.lof x && !s.rogue x

/-! ### BEN and the coefficient set (R45, R60) -/

/-- The level of BEN_x follows its logical state and its polarity (R45). -/
def benShow (s : State) (x : Side) : State :=
  let i := sideOff x
  let v := s.flag F.LIN_FE_STAT_BEN i != s.flag F.LIN_FE_CFG_BEN_POL i
  s.modLine x fun l => { l with benPin := v }

/-- What the ball of BEN_x shows (R445): nothing while VDDIO_33 is off, its Line region is off or in reset, or TX_EN = 0. -/
def benBall (s : State) (x : Side) : Option Bool :=
  let r := s.region (sideNo x)
  if bitOf (s.f F.GRM_RAIL_EN) 8 && r.on && !r.inReset && s.flag F.LIN_MODE_TX_EN (sideOff x) then some (s.line x).benPin
  else none

/-- BEN takes a logical state; the tick of a fall is kept for the dark-light check (R121). -/
def benSet (s : State) (x : Side) (b : Bool) : State :=
  let was := s.flag F.LIN_FE_STAT_BEN (sideOff x)
  let s1 := (s.setFlag F.LIN_FE_STAT_BEN (sideOff x) b).benShow x
  if was && !b then s1.modLine x fun l => { l with benFell := s.tick + 1 } else s1

/-- A coefficient set is applied (R60): event offset 3 when it was clamped. PENDING stays while a later set waits. -/
def peqApply (s : State) (x : Side) (p : PeqSet) : State :=
  let i := sideOff x
  let s1 := (List.range 7).foldl (fun s n => s.setF F.LIN_PEQ_ACT_TAP (i + 4 * n) (p.taps.getD n 0)) s
  let s2 := (s1.setFlag F.LIN_PEQ_STAT_PENDING i (s1.line x).peq.isSome).setF F.LIN_PEQ_STAT_SET_ID i p.setId
  let s3 := (s2.setF F.LIN_PEQ_STAT_CLAMP_TAP i p.clampTap).setFlag F.LIN_PEQ_STAT_SUM_CLAMP i p.sumClamp
  if p.clampTap = 0 && !p.sumClamp then s3
  else s3.raise (sideEvt x + 3) 1 0 (p.setId + 256 * p.clampTap + (if p.sumClamp then 32768 else 0))

/-- The burst at its decision point (R60): the earliest of the grant store whose own has not passed. -/
def peqNext (s : State) (x : Side) : Option Burst :=
  (s.line x).store.find? fun b => decide ((s.line x).peqMark ≤ b.t0)

/-- The line leaves for a burst whose first preamble instant is `t0`: a set fixed for it, or for one before it that was not sent,
is applied (R60). -/
def peqUse (s : State) (x : Side) (t0 : Nat) : State :=
  let fixed := (s.line x).peqFix.filter fun p => decide (p.1 ≤ t0)
  match fixed.getLast? with
  | none => s
  | some p => (s.modLine x fun l => { l with peqFix := l.peqFix.filter fun p => decide (t0 < p.1) }).peqApply x p.2

/-- The decision point of a burst (R60): the staged set is fixed for it, and applied at once, or, because the FIR never changes
inside a burst, when the bursts before it have left. -/
def peqDecide (s : State) (x : Side) : State :=
  match s.peqNext x with
  | none => s
  | some b =>
    let s1 := s.modLine x fun l => { l with peqMark := b.t0 + 1 }
    match (s.line x).peq with
    | none => s1
    | some p =>
      let s2 := s1.modLine x fun l => { l with peq := none }
      if (s.line x).sending.isNone && (s.line x).store.all fun c => decide (b.t0 ≤ c.t0) then s2.peqApply x p
      else s2.modLine x fun l => { l with peqFix := l.peqFix ++ [(b.t0, p)] }

/-- A burst has ended: a set fixed for the next one of the grant store is applied. -/
def peqEnd (s : State) (x : Side) : State :=
  match (s.line x).store with
  | [] => s
  | b :: _ => s.peqUse x b.t0

/-! ### Assembled content that does not leave (R83, R106, R140) -/

def partialOf (s : State) (x : Side) (key : Nat) : Option Partial :=
  sget (fun _ => (none : Option Partial)) (s.line x).partials key
def setPartial (s : State) (x : Side) (key : Nat) (p : Option Partial) : State :=
  s.modLine x fun l => { l with partials := sset (fun _ => (none : Option Partial)) l.partials key p }
def bufferedOf (s : State) (x : Side) (key : Nat) : List Partial := sget (fun _ => []) (s.line x).buffered key
def setBuffered (s : State) (x : Side) (key : Nat) (ps : List Partial) : State :=
  s.modLine x fun l => { l with buffered := sset (fun _ => []) l.buffered key ps }

/-- Frames of allocations assembled and not sent go back to the side's burst buffer: per allocation, what the first of them
found partly sent, then every frame taken, in order. -/
def unassemble (s : State) (x : Side) (seen : List Nat) : List Alloc → State
  | [] => s
  | a :: as =>
    if a.ckt || (a.before.isNone && a.taken.isEmpty) then s.unassemble x seen as
    else
      let s1 := if seen.contains a.key then s else s.setPartial x a.key a.before
      (s1.setBuffered x a.key (s1.bufferedOf x a.key ++ a.taken)).unassemble x (a.key :: seen) as

/-- The allocations of assembled bursts of a side, in the order of the grant store. -/
def asmAllocs (s : State) (x : Side) : List Alloc :=
  ((s.line x).store.filter fun b => b.asm).flatMap fun b => b.allocs

/-- A side that waits for its first burst after a chip fault and has no grant left holds BEN at once (R124). -/
def faultSettle (s : State) (x : Side) : State :=
  let l := s.line x
  if l.faultPend && l.store.isEmpty && l.sending.isNone then
    (s.setFlag F.UPB_BRIDLE_STAT_FAULT_HOLD (sideOff x) true).modLine x fun l => { l with faultPend := false }
  else s

/-- The grant store is emptied (R83, R126): frames already in the burst buffer stay there. -/
def storeEmpty (s : State) (x : Side) : State :=
  ((s.unassemble x [] (s.asmAllocs x)).modLine x fun l => { l with store := [], mapBurst := none }).faultSettle x

/-! ### The burst on the line (R119, R120, R124, R132) -/

end State

/-- Preamble and delimiter words of a burst (R107); a PRE_LEN above 1,590 acts as 1,590 (R131). -/
def preWords (s : State) (x : Side) (prof : Nat) : Nat :=
  min 1590 (s.f F.UPB_PROF_PRE_LEN (sideOff x + 0x20 * prof))

namespace State

/-- Units of 1/128 tick a word of 32 bit periods takes (R116, R117): B bit periods leave in a tick. -/
def wordUnits (s : State) (x : Side) : Nat := 4096 / s.bOf x

/-- Words of a burst that have left at this tick (R116, R117). -/
def wordsOut (s : State) (x : Side) (b : Burst) : Nat := min b.w ((s.tick * 128 - b.t0) / s.wordUnits x)

/-- The tick at which BEN of a burst falls: LAG after its last symbol (R46). -/
def burstEnd (s : State) (x : Side) (b : Burst) : Nat :=
  ceilDiv (b.t0 + s.wordUnits x * b.w) 128 + s.f F.LIN_FE_CFG_LAG (sideOff x)

end State

/-- Information words among the first `n` words after preamble and delimiter: 456 of every 540 (R107). -/
def infoWords (n : Nat) : Nat := n / 540 * 456 + min (n % 540) 456

/-- Line word, counted from the first one after the delimiter, of information word `k`. -/
def lineWord (k : Nat) : Nat := k + 84 * (k / 456)

/-- Information word each allocation ends before, in the order they leave, from word `k` on. -/
def allocEnds : Nat → List Alloc → List Nat
  | _, [] => []
  | k, a :: as => (k + a.size) :: allocEnds (k + a.size) as

/-- Allocations in the order they leave (R109). -/
def sendOrder (as : List Alloc) : List Alloc :=
  (as.filter fun a => a.ckt) ++ (as.filter fun a => !a.ckt && a.typ == 1) ++ (as.filter fun a => !a.ckt && a.typ != 1)

/-- A burst header with DG = 1 and its HEC recomputed (R108, R132). -/
def headerDg (h : Nat) : Nat :=
  let d := h / 2 ^ 13
  let d := if bitOf d 32 then d else d + 2 ^ 32
  d * 2 ^ 13 + Config.hec13 d % 2 ^ 13

namespace State

/-- The header of a time-stamped frame has left a side: its counters, and its entry with the ToD of its egress stamp (R283 to
R285). -/
def txLeft (s : State) (x : Side) (t : TxStamp) : State :=
  let s1 := s.ptpCount t.ptp
  if t.entry then s1.tsWrite (2 * sideNo x) t.late 0 0 t.tag (s1.todOfStamp t.es) else s1

/-- A burst ends, whole or stopped (R120, R124, R285, R411): BEN falls, the frames whose headers left give their time-stamp
entries, the burst's record is offered when its header went out, a coefficient set fixed for the next burst is applied, and a
side that waits for its first burst after a chip fault holds BEN from now on. -/
def burstDone (s : State) (x : Side) (b : Burst) (stopped : Bool) : State :=
  let i := sideOff x
  let s0 := (s.benSet x false).modLine x fun l => { l with sending := none }
  let gone := if stopped then b.stamps.filter fun t => decide (t.word < s.wordsOut x b) else b.stamps
  let s1 := (gone.foldl (fun s t => s.txLeft x t) s0).peqEnd x
  let hdr := decide (preWords s x b.prof + 4 ≤ s.wordsOut x b) || !stopped
  let s2 := if hdr then s1.capOffer {
      typ := 2, tick := b.t0 / 128,
      info := sideNo x + (if stopped then 2 else 0) + min b.allocs.length 4095 * 4, aux := b.eqd,
      payload := (s.line x).lastBurst.take 8 ++ leBytes 4 b.w ++ leBytes 4 b.start } else s1
  if !(s2.line x).faultPend then s2
  else if (s2.line x).faultOld then s2.modLine x fun l => { l with faultOld := false }
  else (s2.setFlag F.UPB_BRIDLE_STAT_FAULT_HOLD i true).modLine x fun l => { l with faultPend := false }

/-- Frames and fragments of a stopped burst that it has not begun, `w` line words having left, are still in the burst buffer
(DESIGN CHOICE, log 48). -/
def unsend (s : State) (x : Side) (w : Nat) : List Alloc → State
  | [] => s
  | a :: as =>
    match (a.spans.filter fun p => decide (w ≤ p.start)).map fun p => p.part with
    | [] => s.unsend x w as
    | p :: ps =>
      let s1 := if p.off = 0 then s.setPartial x a.key none else s.setPartial x a.key (some p)
      let back := if p.off = 0 then p :: ps else ps
      (s1.setBuffered x a.key (back ++ s1.bufferedOf x a.key)).unsend x w as

/-- A row of R119 other than 6 starts to apply during a burst (R120): BEN falls, the burst is not resumed, and its remaining
grants count in INHIBIT. -/
def stopBurst (s : State) (x : Side) : State :=
  match (s.line x).sending with
  | none => s
  | some b =>
    let out := s.wordsOut x b - preWords s x b.prof - 2
    let first := 2 + (if b.msgu then 16 else 0)
    let n := ((allocEnds first (sendOrder b.allocs)).filter fun e => decide (out ≤ lineWord (e - 1))).length
    let s1 := s.modLine x fun l => { l with lastBurst := l.lastBurst.take (4 * infoWords out) }
    ((s1.bump (usCnt x 12) n).unsend x (s.wordsOut x b) b.allocs).burstDone x b true

/-- DG request of a side (R132, R133): a burst whose header has not started on the line carries it. -/
def dgRequest (s : State) (x : Side) : State :=
  let s := s.setFlag F.UPB_BRIDLE_STAT_DG_ACTIVE (sideOff x) true
  match (s.line x).sending with
  | none => s
  | some b =>
    if s.wordsOut x b < preWords s x b.prof + 2 && !bitOf (beAt (s.line x).lastBurst 0 8) 45 then
      let sent := (s.line x).dgSent
      let s1 := s.modLine x fun l => { l with
        dgSent := true, lastBurst := patch l.lastBurst 0 (beBytes 8 (headerDg (beAt l.lastBurst 0 8))) }
      (s1.bump (usCnt x 17)).raiseIf (!sent) (sideEvt x + 26)
    else s

end State

/-! ### Fill (R113) -/

/-- An encapsulation header (R74) with its check. -/
def encapHeader (port pli idx : Nat) (lf exp : Bool) (seq : Nat) : List Byte :=
  let h := port % 2 ^ 20 * 2 ^ 60 + pli % 2 ^ 16 * 2 ^ 44 + idx % 4 * 2 ^ 42 + (if lf then 2 ^ 41 else 0)
    + (if exp then 2 ^ 40 else 0) + seq % 2 ^ 24 * 2 ^ 16
  let b := beBytes 10 h
  b ++ beBytes 2 (crc16 b)

/-- `n` bytes of idle frames; `lf` holds the LF bits of idle headers, which the spec leaves open. -/
def idleFill : Nat → Nat → Nat → List Byte
  | 0, _, n => List.replicate n 0
  | k + 1, lf, n =>
    if n < 12 then List.replicate n 0
    else
      let pli := if n - 12 ≥ 65536 then 65535 else n - 12
      let used := 12 + 4 * ceilDiv pli 4
      encapHeader 0xFFFFF pli 0 (bitOf lf 0) false 0 ++ List.replicate (4 * ceilDiv pli 4) 0 ++
        idleFill k (lf / 2) (n - used)

namespace State

/-- Idle fill of `n` bytes with free LF bits. -/
def fill (s : State) (n : Nat) : List Byte × State :=
  let r := s.takeFree 64
  (idleFill 64 r.1 n, r.2)

/-! ### Circuit content of a frame cut short -/

def dsFrames (s : State) : Side → List DsCkt
  | .a => s.har.dsA
  | .b => s.har.dsB
def setDsFrames (s : State) (x : Side) (l : List DsCkt) : State :=
  match x with
  | .a => s.modHar fun h => { h with dsA := l }
  | .b => s.modHar fun h => { h with dsB := l }

/-- The rest of the frame in progress is discarded (R83): its circuit bytes from here on with it. -/
def frameCut (s : State) (x : Side) : State :=
  let s1 := if (s.line x).curOk then
      (match s.dsFrames x with
        | c :: cs => s.setDsFrames x (c.cutAt s.tick :: cs)
        | [] => s)
    else s
  s1.modLine x fun l => { l with curOk := false }

/-- The frame in progress is discarded (R87), the circuit bytes that have come included. -/
def frameDiscard (s : State) (x : Side) : State :=
  let s1 := match s.dsFrames x with
    | c :: cs => if s.tick < c.tick + 97200 then s.setDsFrames x ({ c with ok := false } :: cs) else s
    | [] => s
  s1.modLine x fun l => { l with curOk := false }

/-! ### Protection (R138 to R146) -/

/-- Causes to leave a side (R139) that are present: 0 dLOS, 1 dLOF, 3 rogue, 2 state change. -/
def causesNow (s : State) (x : Side) : List Nat :=
  [0, 1, 3, 2].filter fun c => match c with
    | 0 => s.los x
    | 1 => s.lof x
    | 3 => s.rogue x
    | _ => s.actState x != 3

/-- The causes of a side in the order they arrived. -/
def causesOf (s : State) : Side → List Nat
  | .a => s.prt.causesA
  | .b => s.prt.causesB

/-- The causes after a change: those still there keep their order, new ones follow. -/
def causesNext (old now : List Nat) : List Nat := (old.filter now.contains) ++ now.filter fun c => !old.contains c

/-- The cause that arrived first (R139). -/
def lostCause (s : State) (x : Side) : Option Nat := (s.causesOf x).head?

/-- An assembled allocation leaves with idle in place of its frames (R140). -/
def idleAlloc (s : State) (a : Alloc) : Alloc × State :=
  if a.ckt then (a, s)
  else
    let head := 4 * ((if a.bsr then 1 else 0) + if a.odc then 10 else 0)
    let z := s.fill (4 * a.size - head)
    ({ a with before := none, taken := [], spans := [], data := a.data.take head ++ z.1 }, z.2)

def idleAllocs (s : State) : List Alloc → List Alloc × State
  | [] => ([], s)
  | a :: as =>
    let r := s.idleAlloc a
    let t := r.2.idleAllocs as
    (r.1 :: t.1, t.2)

/-- Assembled bursts leave with idle in place of their frames. -/
def idleBursts (s : State) : List Burst → List Burst × State
  | [] => ([], s)
  | b :: bs =>
    let r := if b.asm then
        let z := s.idleAllocs b.allocs
        ({ b with usBytes := 0, idleBytes := b.idleBytes + b.usBytes, frags := 0, encs := 0, hasData := false, stamps := [],
                  allocs := z.1 }, z.2)
      else (b, s)
    let t := r.2.idleBursts bs
    (r.1 :: t.1, t.2)

/-- Allocations of a burst in the order they leave, with the information word each starts at. -/
def allocStarts : Nat → List Alloc → List (Nat × Alloc)
  | _, [] => []
  | k, a :: as => (k, a) :: allocStarts (k + a.size) as

/-- What the burst on the line has not sent of its frames becomes idle: `out` information words have left. -/
def idleRest (s : State) (x : Side) (out : Nat) : List (Nat × Alloc) → State
  | [] => s
  | (k, a) :: as =>
    if a.ckt then s.idleRest x out as
    else
      let from' := 4 * max out (k + (if a.bsr then 1 else 0) + if a.odc then 10 else 0)
      let z := s.fill (4 * (k + a.size) - from')
      (z.2.modLine x fun l => { l with lastBurst := patch l.lastBurst from' z.1 }).idleRest x out as

end State

/-- A frame in the burst on the line that ends in it counts in FRAG_DISC at a switch: part of it has left, in this burst, of which
`w` line words have gone, or in one before (R140; DEDUCED, log 201). -/
def Span.cut (p : Span) (w : Nat) : Bool := p.last && decide (w < p.stop) && (decide (p.start < w) || !p.first)
/-- No byte of it has left: it counts in BUF_DISC. -/
def Span.unsent (p : Span) (w : Nat) : Bool := p.first && decide (w ≤ p.start)

namespace State

/-- The spans of the burst on the line, with the line words of it that have left. -/
def lineSpans (s : State) (x : Side) : Nat × List Span :=
  match (s.line x).sending with
  | none => (0, [])
  | some b => (s.wordsOut x b, b.allocs.flatMap fun a => a.spans)

/-- The burst on the line of the side left at a switch carries idle from now on (R140). -/
def switchLine (s : State) (x : Side) : State :=
  match (s.line x).sending with
  | none => s
  | some b =>
    let w := s.wordsOut x b
    let s1 := s.idleRest x (infoWords (w - preWords s x b.prof - 2)) (allocStarts (2 + if b.msgu then 16 else 0) (sendOrder b.allocs))
    let b' := { b with stamps := b.stamps.filter fun t => decide (t.word < w) }
    s1.modLine x fun l => { l with sending := some b' }

/-- Content that waits on the side left at a switch is discarded (R140), each frame once: one of which a part has left counts in
FRAG_DISC, one that has not begun, in the burst buffer or in the burst on the line, in BUF_DISC. Bursts already assembled leave
with idle. A frame whose first fragments are in the burst on the line is among the partly sent ones. -/
def switchAway (s : State) (x : Side) : State :=
  let s := s.unassemble x [] (s.asmAllocs x)
  let ps := (s.line x).partials.filterMap fun e => e.2
  let bs := (s.line x).buffered.flatMap fun e => e.2
  let l := s.lineSpans x
  let whole := (l.2.filter fun p => p.last && p.unsent l.1).length
  let begun := (l.2.filter fun p => !p.last && p.unsent l.1).length
  let frag := (ps.filter fun p => p.off != 0).length - begun + (l.2.filter fun p => p.cut l.1).length
  let buf := (ps.filter fun p => p.off == 0).length + bs.length + begun + whole
  let s1 := (ps ++ bs).foldl (fun s p => s.padDrop p.frame) s
  let z := s1.idleBursts (s1.line x).store
  let s2 := z.2.modLine x fun l => { l with partials := [], buffered := [], store := z.1 }
  ((s2.switchLine x).bump 0x800120 frag).bump 0x800128 buf

/-- A protection switch (R140, R145, R146, R167). -/
def prtSwitch (s : State) (x : Side) (cause : Nat) : State :=
  let old := s.active
  let s1 := ((s.setFlag F.PRT_STAT_ACTIVE 0 (x == .b)).setFlag F.PRT_STAT_NO_PATH 0 false).addReg 0x80000C 1
  let s2 := ((s1.setReg 0x800010 (BitVec.ofNat 32 s.tick)).setReg 0x800014 (BitVec.ofNat 32 (s.tick / 2 ^ 32))).setReg
    0x800018 (BitVec.ofNat 32 (sideNo x * 16 + cause * 2))
  let s3 := if old = x then s2 else ((s2.switchAway old).modHar fun h => { h with
    swTick := s.tick, swOld := sideNo old, swLoss := decide (cause < 4) })
  let s4 := (s3.modPrt fun p => { p with resume := s.tick + 1, wtr := 0 }).timMove true
  let s5 := s4.capOffer { typ := 5, tick := s.tick, info := (s4.reg 0x800018).toNat, aux := (s4.reg 0x80000C).toNat }
  s5.raise 192 1 0 (sideNo x + 2 * cause)

/-- The side named HOME (R143). -/
def home (s : State) : Side := if s.flag F.PRT_CFG_HOME then .b else .a

/-- The wait to restore runs while HOME is eligible and not active (R143); a WTR of 0 reverts at once. -/
def wtrEval (s : State) : State :=
  let want := s.prtMode = 1 ∧ s.flag F.PRT_CFG_REVERT ∧ s.home ≠ s.active ∧ s.eligible s.home
    ∧ !s.flag F.PRT_STAT_LOCKED ∧ !s.flag F.PRT_STAT_NO_PATH
  if !want then (s.modPrt fun p => { p with wtr := 0 }).setFlag F.PRT_STAT_WTR_RUN 0 false
  else if s.f F.PRT_CFG_WTR = 0 then
    ((s.setFlag F.PRT_STAT_WTR_RUN 0 false).prtSwitch s.home 5).raise 194 1 0 (sideNo s.home)
  else if s.prt.wtr ≠ 0 then s
  else (s.modPrt fun p => { p with wtr := s.tick + 1 }).setFlag F.PRT_STAT_WTR_RUN 0 true

/-- An automatic switch: its tick is kept for R144. -/
def autoTo (s : State) (x : Side) (cause : Nat) : State :=
  (s.prtSwitch x cause).modPrt fun p => { p with autoTick := s.tick + 1 }

/-- R139: an automatic switch, the loss of every path, or its end. Where both sides are lost in one tick the side that is active
keeps its role (R144). While LOCKED = 1 the loss of every path is neither shown nor reported (DESIGN CHOICE, log 243). -/
def autoSwitch (s : State) : State :=
  let cur := s.active
  let oth := sideOther cur
  if s.prtMode ≠ 1 then s
  else if s.flag F.PRT_STAT_NO_PATH then
    if s.eligible cur then (s.setFlag F.PRT_STAT_NO_PATH 0 false).raise 192 1 0 (sideNo cur + 12)
    else if s.eligible oth && !s.flag F.PRT_STAT_LOCKED then s.autoTo oth 6
    else s
  else if s.flag F.PRT_STAT_LOCKED then s
  else match s.lostCause cur with
    | none => s
    | some c =>
      if s.eligible oth then s.autoTo oth c
      else (s.setFlag F.PRT_STAT_NO_PATH 0 true).raise 193 1 0 (sideNo cur)

/-- Holdover for want of a side, with SRC = 2 in protection mode: no side is eligible and the reference side has dLOS or dLOF
(R272 cause 1), or both became ineligible in this tick (R277). -/
def timSides (s : State) : State :=
  let both := s.prt.lostA == s.tick + 1 && s.prt.lostB == s.tick + 1
  if s.timSrc = 2 ∧ s.prtMode = 1 ∧ !s.eligible .a ∧ !s.eligible .b ∧ (both ∨ s.los s.activeRef ∨ s.lof s.activeRef) then
    s.timHold 1
  else s

/-- The conditions of a side have changed: eligibility and the causes to leave it are shown at once, and the protection control
decides at the tick (R137 to R139). -/
def prtEval (s : State) : State :=
  let s1 := (s.setFlag F.PRT_STAT_ELIG_A 0 (s.eligible .a)).setFlag F.PRT_STAT_ELIG_B 0 (s.eligible .b)
  let lost (x : Side) (shown : Fld) (was : Nat) : Nat :=
    if s.eligible x then 0 else if s.flag shown then s.tick + 1 else was
  s1.modPrt fun p => { p with
    due := true, causesA := causesNext p.causesA (s.causesNow .a), causesB := causesNext p.causesB (s.causesNow .b),
    lostA := lost .a F.PRT_STAT_ELIG_A p.lostA, lostB := lost .b F.PRT_STAT_ELIG_B p.lostB }

/-- The protection control decides (R138 to R144): on what all the changes of a tick have come to. -/
def prtDecide (s : State) : State :=
  if s.prt.due then (s.modPrt fun p => { p with due := false }).autoSwitch.wtrEval.timSides else s

/-- An automatic switch is due in this tick, ahead of a command or a reversion (R144). -/
def autoDue (s : State) : Bool :=
  s.prt.due && s.prtMode == 1 && !s.flag F.PRT_STAT_NO_PATH && !s.flag F.PRT_STAT_LOCKED
    && !s.eligible s.active && s.eligible (sideOther s.active)

/-! ### Activation (R125 to R128) -/

/-- The activation state changes (event offset 20). -/
def actGo (s : State) (x : Side) (new cause : Nat) : State :=
  let old := s.actState x
  if old = new then s
  else (s.setF F.UPB_ACT_STATE (sideOff x) new).lineEvent x 20 (new + 16 * old + 256 * cause)

/-- UPB_EQD_STAT shows the split of the EqD in effect (R116, R117). -/
def eqdShow (s : State) (x : Side) : State :=
  let e := (s.line x).eqdEff
  let b := s.bOf x
  let resid := if s.drixis x then e % 2 else 0
  s.setReg (0x406024 + sideOff x)
    (BitVec.ofNat 32 (resid * 2 ^ 31 + (e % b - resid) % 128 * 2 ^ 24 + e / b % 2 ^ 24))

/-- EqD is set to 0 by a command (R126), at once. -/
def eqdZero (s : State) (x : Side) : State :=
  ((s.setReg (0x406020 + sideOff x) 0).modLine x fun l => { l with eqdEff := 0 }).eqdShow x

/-- Every valid allocation entry of a side. -/
def allocValids (s : State) (x : Side) : List Nat :=
  (s.regs.filter fun e => decide (0x407000 + sideOff x ≤ e.1) && decide (e.1 < 0x407800 + sideOff x)
    && F.UPB_ALLOC_VALID.of e.2 == 1).map (·.1)

/-- The effects of DEACTIVATE (R126) without the change of state. -/
def deactivate (s : State) (x : Side) : State :=
  let s1 := s.setFlag F.DSF_TID_VALID (sideOff x) false
  let s2 := (s1.allocValids x).foldl (fun s a => s.setReg a (s.reg a &&& 0x7FFFFFFF#32)) s1
  ((s2.eqdZero x).storeEmpty x).modLine x fun l => { l with to1 := 0 }

/-- The ranging hold timer expires (R88, R127). -/
def holdExpire (s : State) (x : Side) : State :=
  let s1 := (s.modLine x fun l => { l with holdStart := 0 }).lineEvent x 15 0
  match s1.f F.UPB_ACT_RETURN (sideOff x) with
  | 5 => s1.actGo x 5 3
  | 0 => s1.actGo x 0 3
  | _ => (s1.deactivate x).actGo x 1 3

/-- The side goes back to its return state (R127); TO1, which the loss has stopped, starts anew in ranging (R128; DESIGN
CHOICE, log 241). -/
def actReturn (s : State) (x : Side) : State :=
  let r := s.f F.UPB_ACT_RETURN (sideOff x)
  let s1 := if r = 2 then s.modLine x fun l => { l with to1 := s.tick + 1 } else s
  s1.actGo x r 2

/-! ### DS_VALID (R83) -/

/-- Every open reassembly of a side is discarded and counted (R75, R83); a client frame that is being discarded whole stays so
(R77). Fragments that come later start a new frame (DESIGN CHOICE, log 237). -/
def reasmDrop (s : State) (x : Side) : State :=
  let n := ((s.line x).reasm.filter fun e => e.2.live).length
  (s.bump (dsCnt x 19) n).modLine x fun l => { l with reasm := l.reasm.filter fun e => e.2.bad }

/-- DS_VALID falls: grants, the frame in progress and every open reassembly are discarded, the burst on the line stops, and
a held Time_of_Day message ends. -/
def dsValidFall (s : State) (x : Side) : State :=
  if !s.dsValid x then s
  else
    let s1 := (s.setFlag F.DSF_STAT_DS_VALID (sideOff x) false).frameCut x
    let s2 := (s1.stopBurst x).storeEmpty x
    (((s2.reasmDrop x).modLine x fun l => { l with delinLost := true }).todDsLost x).prtEval

/-- The ranging hold timer has run its length (R88). -/
def holdDue (s : State) (x : Side) : Bool :=
  let l := s.line x
  l.holdStart != 0 && decide (l.holdStart - 1 + l.holdMs * ticksPerMs ≤ s.tick)

/-- DS_VALID rises at a frame boundary: a hold timer that has run its length expires first, else it stops and the side returns
to its state, TO1 starting again in ranging (R88, R127, R128); not in DOZE, where the return waits for the exit (R386, R394). -/
def dsValidRise (st : State) (x : Side) : State :=
  if st.dsValid x then st
  else
    let s := if st.holdDue x then st.holdExpire x else st
    let h := (s.line x).holdStart
    let s1 := s.setFlag F.DSF_STAT_DS_VALID (sideOff x) true
    let s2 := if h = 0 then s1
      else (s1.modLine x fun l => { l with holdStart := 0 }).lineEvent x 14
        (min ((s.tick + 1 - h) / ticksPerMs) 0xFFFF)
    let s3 := if s2.actState x = 4 && s2.f F.PWR_STATE_STATE != 2 then s2.actReturn x else s2
    (s3.timSideBack x).prtEval

/-! ### Loss (R86, R87, R90) -/

/-- The data crossings of a side (R87). -/
def dataCrossings : Side → List Nat
  | .a => [0, 1, 10, 11]
  | .b => [2, 3, 12, 13]

/-- A crossing is flushed, with event 10 when it held anything (R30). -/
def xFlush (s : State) (i : Nat) : State :=
  let r := s.xDiscard i
  r.2.raiseIf (r.1 != 0) 10 1 0 (xInfo i r.1)

/-- The actions of R87, when dLOS or dLOF is declared and neither was present. The hold timer takes its length here, so that a
write of HOLD does not change one that runs (DESIGN CHOICE, log 240). -/
def lossActions (s : State) (x : Side) : State :=
  let s1 := (s.dsValidFall x).frameDiscard x
  let s2 := ((dataCrossings x).foldl (fun s i => s.xFlush i) s1).stopBurst x
  let s3 := if s2.actState x = 4 then s2
    else ((s2.setF F.UPB_ACT_RETURN (sideOff x) (s2.actState x)).modLine x fun l =>
      { l with holdStart := s.tick + 1, holdMs := s2.f F.DSF_HOLD_HOLD (sideOff x), to1 := 0 }).actGo x 4 1
  let s4 := s3.timSideLost x
  let s5 := if s2.actState x ≠ 4 && s2.f F.DSF_HOLD_HOLD (sideOff x) = 0 then s4.holdExpire x else s4
  s5.prtEval

/-- Note a defect in the interval flags of the PM bank (R97): 0 dLOS, 1 dLOF, 2 dLOM, 3 dSD, 4 dUNC. -/
def pmFlag (s : State) (x : Side) (i : Nat) : State :=
  s.modLine x fun l => { l with pmFlags := l.pmFlags ||| 2 ^ i }

/-- dLOM ends (R90). -/
def lomClear (s : State) (x : Side) : State :=
  if s.flag F.DSF_STAT_LOM (sideOff x) then (s.setFlag F.DSF_STAT_LOM (sideOff x) false).lineEvent x 10 0 else s

/-- dLOF is declared (R90, R100): causes 0 PSync missing, 1 SFC failures, 2 RX_EN set, 3 RX_EN cleared. -/
def lofDeclare (s : State) (x : Side) (cause : Nat) : State :=
  if s.lof x then s.lomClear x
  else
    let was := s.los x
    let s1 := (((s.setFlag F.DSF_STAT_LOF (sideOff x) true).pmFlag x 1).bump (dsCnt x 9)).lineEvent x 9 (1 + 2 * cause)
    (if was then s1.prtEval else s1.lossActions x).lomClear x

/-- dLOS is declared (R86). -/
def losDeclareOp (s : State) (x : Side) : State :=
  if s.los x then s
  else
    let was := s.lof x
    let s1 := (((s.setFlag F.DSF_STAT_LOS (sideOff x) true).pmFlag x 0).bump (dsCnt x 8)).lineEvent x 8 1
    if was then s1.prtEval else s1.lossActions x

/-- The framer returns to HUNT and loses its alignment (R81, R84); DS_VALID falls with it. -/
def framerHunt (s : State) (x : Side) : State :=
  let i := sideOff x
  let s1 := s.dsValidFall x
  ((((s1.setF F.DSF_STAT_STATE i 0).setF F.DSF_STAT_CAND i 0).setFlag F.DSF_STAT_MF_ALIGN i false).frameCut
    x).modLine x fun l => { l with cands := [], psyncMiss := 0, sfcFail := 0, mfLast := none, mfRun := 0, mfWrong := 0,
                                   odcMfi := none, odcAcc1 := [], odcAcc2 := [], odcOut1 := [], odcOut2 := [] }

/-- Bridle latches rogue (R122): event offset 21 at level 3. -/
def rogueLatch (s : State) (x : Side) (cause : Nat) : State :=
  if s.rogue x then s
  else
    let i := sideOff x
    let s1 := ((s.setFlag F.UPB_BRIDLE_STAT_ROGUE i true).setF F.UPB_BRIDLE_STAT_CAUSE i cause).lineEvent x 21 cause 3
    let s2 := s1.stopBurst x
    let s3 := if (s2.line x).faultPend then
        (s2.setFlag F.UPB_BRIDLE_STAT_FAULT_HOLD i true).modLine x fun l => { l with faultPend := false }
      else s2
    s3.prtEval

/-- A chip fault reaches the side (R19, R124, R132): DG, and FAULT_HOLD after the next burst, or at once without a grant or
with a rogue latch. -/
def faultSide (s : State) (x : Side) : State :=
  let s1 := s.dgRequest x
  let l := s1.line x
  if l.faultPend then s1
  else if s1.rogue x || (l.store.isEmpty && l.sending.isNone) then
    s1.setFlag F.UPB_BRIDLE_STAT_FAULT_HOLD (sideOff x) true
  else
    let old := match l.sending with
      | some b => decide (preWords s1 x b.prof + 2 ≤ s1.wordsOut x b)
      | none => false
    s1.modLine x fun l => { l with faultPend := true, faultOld := old && !l.store.isEmpty }

/-- Contributing defects of a side (R91). -/
def contributing (s : State) (x : Side) : Bool :=
  let i := sideOff x
  s.los x || s.lof x || (s.flag F.DSF_STAT_LOM i && s.flag F.DSF_DEF_CFG_LOM_RDI i)
    || (s.flag F.DSF_STAT_SD i && s.flag F.DSF_DEF_CFG_SD_RDI i)
    || (s.flag F.DSF_STAT_UNC i && s.flag F.DSF_DEF_CFG_UNC_RDI i)

/-- RDI of a burst whose assembly begins (R91). -/
def rdi (s : State) (x : Side) : Bool :=
  let y := sideOther x
  s.contributing x || (s.flag F.DSF_DEF_CFG_OTHER_RDI (sideOff x) && s.rxEn y && s.contributing y)

/-- A write of a register guarded by an owner field: another requester's write is discarded with event offset 4 (R61, R65,
R66). -/
def ownerWrite (s : State) (x : Side) (q : Req) (owner blk : Nat) (k : State → State) : State :=
  if reqCode q = owner then k s else s.lineEvent x 4 (blk + 256 * reqCode q)

/-- As `ownerWrite`, for the burst-builder registers UPB_CFG.MSG_OWNER guards. -/
def msgOwnerWrite (s : State) (x : Side) (q : Req) (k : State → State) : State :=
  s.ownerWrite x q (s.f F.UPB_CFG_MSG_OWNER (sideOff x)) 2 k

end State

end Sys2Proof.Machine
end

