-- ==== Sys2Proof/Machine/Grants.lean ====
section
/-! DEFINITION. Bandwidth-map entries and the grant store of a side (spec/04_upstream.md, R102 to R107, R115 to R118,
R129). -/

namespace Sys2Proof.Machine

/-! ### The 16-bit header check of R74 and R102 -/

/-- The last two bytes are the CRC of the others. -/
def crc16Ok (bs : List Byte) : Bool := crc16 (bs.take (bs.length - 2)) == beAt bs (bs.length - 2) 2

/-- Flip bit `i` of a byte string, bit 0 first on the line. -/
def flipBit (bs : List Byte) (i : Nat) : List Byte :=
  bs.set (i / 8) (byteAt bs (i / 8) ^^^ BitVec.ofNat 8 (2 ^ (7 - i % 8)))

/-- The check with its single-bit correction (R75, R105). -/
def crc16Check (bs : List Byte) : Hec × List Byte :=
  if crc16Ok bs then (.ok, bs)
  else match (List.range (8 * bs.length)).find? fun i => crc16Ok (flipBit bs i) with
    | some i => (.corrected, flipBit bs i)
    | none => (.bad, bs)

/-! ### Fields of an entry (R102) -/

def entAlloc (e : Nat) : Nat := bitsOf e 112 16
def entType (e : Nat) : Nat := bitsOf e 110 2
def entBsr (e : Nat) : Bool := bitOf e 109
def entMsgu (e : Nat) : Bool := bitOf e 108
def entProf (e : Nat) : Nat := bitsOf e 104 3
def entStart (e : Nat) : Nat := bitsOf e 84 20
def entSize (e : Nat) : Nat := bitsOf e 64 20
def entCkt (e : Nat) : Bool := bitOf e 63
def entOdc (e : Nat) : Bool := bitOf e 62

/-- Words of BSR and overhead data at the start of an allocation (R105 check 5). -/
def allocHead (a : Alloc) : Nat := (if a.bsr then 1 else 0) + (if a.odc then 10 else 0)

/-- Circuit slots of a CKT allocation (R157). -/
def allocSlots (a : Alloc) : Nat := if a.ckt then 4 * (a.size - allocHead a) / 810 else 0

namespace State

/-! ### Whose entry (R103) -/

/-- Key of the default allocation, and of a serial-number window. -/
def keyDefault : Nat := 512
def keySerial : Nat := 513

/-- UPB_ALLOC_n is in the side's half (R135). -/
def allocHalf (s : State) (x : Side) (n : Nat) : Bool :=
  s.prtMode != 0 || (match x with | .a => decide (n < 256) | .b => decide (256 ≤ n))

/-- The UPB_ALLOC_n entry in effect that matches an allocation ID, lowest index first. -/
def allocMatch (s : State) (x : Side) (id : Nat) : Option Nat :=
  if id ≥ 0xFFFE then none
  else (List.range 512).find? fun n =>
    s.allocHalf x n && s.effF x F.UPB_ALLOC_VALID (sideOff x + 4 * n) == 1
      && s.effF x F.UPB_ALLOC_ALLOC_ID (sideOff x + 4 * n) == id

/-- R103: the key of the allocation when the state admits the entry. -/
def entryTaken (s : State) (x : Side) (e : Nat) : Option Nat :=
  let tid := s.f F.UPB_TID_TID (sideOff x)
  match s.actState x with
  | 1 => if entAlloc e = 0xFFFE ∧ entMsgu e then some keySerial else none
  | 2 => if entAlloc e = tid ∧ entMsgu e then some keyDefault else none
  | 3 => if entAlloc e = tid then some keyDefault else s.allocMatch x (entAlloc e)
  | _ => none

/-- The allocation may be granted as TYPE 1 (R105 check 2). -/
def allocExpress (s : State) (x : Side) (key : Nat) : Bool :=
  key == keyDefault || (decide (key < 512) && s.effF x F.UPB_ALLOC_EXPRESS (sideOff x + 4 * key) == 1)

/-- A refusal (R105): its counter, its bit in event offset 24, and one more refusal of the frame. -/
def grantRefuse (s : State) (x : Side) (counter bits : Nat) : State :=
  (s.bump (usCnt x counter)).modLine x fun l => { l with mapBits := l.mapBits ||| bits, mapCount := l.mapCount + 1 }

/-! ### The whole burst (R105 checks 6 to 9, R107, R116, R117) -/

/-- Information words of a burst (R107). -/
def burstInfo (b : Burst) : Nat := 2 + (if b.msgu then 16 else 0) + (b.allocs.map fun a => a.size).sum

/-- Burst length on the line in words (R107). -/
def burstWords (s : State) (x : Side) (b : Burst) : Nat :=
  let i := burstInfo b
  if s.drixis x then preWords s x b.prof + 2 + i + 84 * ceilDiv i 456 else Config.gBurstWords (preWords s x b.prof) i

/-- First preamble instant in 1/128 tick (R115 to R117). -/
def burstT0 (s : State) (x : Side) (b : Burst) : Nat :=
  let base := (b.frameEnd + 27216) * 128
  if s.drixis x then base + (b.eqd + 32 * b.start) / 2 * 2
  else base + Config.gBurstT b.eqd b.start * (128 / s.bOf x)

/-- LEAD and LAG in effect (R46). -/
def lead (s : State) (x : Side) : Nat := min 24 (s.f F.LIN_FE_CFG_LEAD (sideOff x))
def lag (s : State) (x : Side) : Nat := s.f F.LIN_FE_CFG_LAG (sideOff x)

/-- MAX_BURST in effect. -/
def maxBurst (s : State) (x : Side) : Nat := min 97200 (s.f F.UPB_BRIDLE_CFG_MAX_BURST (sideOff x))

/-- The bursts of the grant store, the one on the line included until it has ended (R106). -/
def storeAll (s : State) (x : Side) : List Burst :=
  (match (s.line x).sending with | some b => [b] | none => []) ++ (s.line x).store

/-- Check 8 of R105 against one stored burst: 200 words after its last word, a word taking `u` units of 1/128 tick. -/
def clearOf (u t0 : Nat) (b : Burst) : Bool := decide (b.t0 + u * b.w + u * 200 ≤ t0)

/-- Line-clock cycles a burst of `w` words takes (R46, R116, R117). -/
def burstCycles (s : State) (x : Side) (w : Nat) : Nat := ceilDiv (s.wordUnits x * w) 128

/-- Checks 6 to 9 of R105 on the whole burst: 0 passes, else the counter and the bit of event offset 24. -/
def burstCheck (s : State) (x : Side) (b : Burst) : Option (Nat × Nat) :=
  if b.start + b.w > 388800 then some (7, 4)
  else if s.lead x + s.lag x + s.burstCycles x b.w + 1 > s.maxBurst x then some (8, 8)
  else if !(s.storeAll x).all (clearOf (s.wordUnits x) b.t0) then some (9, 16)
  else if ((s.storeAll x).map fun b => b.allocs.length).sum + b.allocs.length > 8192 then some (10, 32)
  else none

/-- A burst the builder does not take leaves nothing of its overhead data and its circuit slots with the frame's map (R111,
R157). -/
def mapUndo (s : State) (x : Side) (b : Burst) : State :=
  s.modLine x fun l => { l with odcTaken := l.odcTaken && !(b.allocs.any fun a => a.odc),
                                mapSlots := l.mapSlots - (b.allocs.map allocSlots).sum }

/-- The last continuation of the burst being read has come (R105): it enters the grant store, or is refused: a serial-number
window that is not accepted does not take the frame's one answer (R129). A serial-number burst that its delay carries past the
frame end counts in SN_SKIP (R129). -/
def burstClose (s : State) (x : Side) (delay : Nat) : State :=
  match (s.line x).mapBurst with
  | none => s
  | some b0 =>
    let s := s.modLine x fun l => { l with mapBurst := none }
    let w := s.burstWords x b0
    let b1 := { b0 with w := w }
    let late := b0.sn.isSome && decide (b0.start + 32 * delay + w > 388800)
    let b2 := if b0.sn.isSome then { b1 with start := b1.start + 32 * delay, sn := some delay } else b1
    let b := { b2 with t0 := s.burstT0 x b2 }
    if b0.start + w ≤ 388800 && late then (s.mapUndo x b).bump (usCnt x 15)
    else match s.burstCheck x b with
      | some (c, bits) =>
        ((s.mapUndo x b).modLine x fun l => { l with mapSn := l.mapSn && b.sn.isNone }).grantRefuse x c bits
      | none => (s.modLine x fun l => { l with store := l.store ++ [b] }).bump (usCnt x 4) b.allocs.length

/-- The map of the frame has ended: its last burst closes, and event offset 24 reports the refusals (R134). -/
def mapEnd (s : State) (x : Side) : State :=
  let d := match (s.line x).mapBurst with | some b => b.sn.getD 0 | none => 0
  let s1 := s.burstClose x d
  let l := s1.line x
  let s2 := if l.mapCount = 0 then s1 else s1.lineEvent x 24 (l.mapBits + 65536 * min l.mapCount 0xFFFF)
  s2.modLine x fun l => { l with mapBits := 0, mapCount := 0 }

/-- An entry accepted by checks 1 to 5 joins its burst. -/
def entryJoin (s : State) (x : Side) (key e : Nat) (delay : Nat) (first : Bool) : State :=
  let odc := entOdc e && s.drixis x && !(s.line x).odcTaken
  let mfi := s.f F.DSF_STAT_MFI (sideOff x)
  let od := if !odc then [] else if s.mfAlign x then
      bytesAt (s.line x).odcIns1 (8 * mfi) 8 ++ bytesAt (s.line x).odcIns2 (32 * mfi) 32
    else List.replicate 40 0
  let a : Alloc := { key := key, id := entAlloc e, typ := entType e, bsr := entBsr e, odc := odc, ckt := entCkt e,
                     size := entSize e, slot0 := (s.line x).mapSlots, odcData := od }
  let s1 := s.modLine x fun l => { l with odcTaken := l.odcTaken || odc, mapSlots := l.mapSlots + allocSlots a }
  if first then
    let b : Burst := { start := entStart e, sfc := (s.line x).curSfc, mfi := s.f F.DSF_STAT_MFI (sideOff x),
                       prof := entProf e, msgu := entMsgu e, sn := if key = keySerial then some delay else none,
                       eqd := (s.line x).eqdEff, frameEnd := (s.line x).curTick + 97200, allocs := [a] }
    s1.modLine x fun l => { l with mapBurst := some b, mapRefused := false, mapSn := l.mapSn || key == keySerial }
  else s1.modLine x fun l => { l with mapBurst := l.mapBurst.map fun b => { b with allocs := b.allocs ++ [a] } }

/-- The checks 1 to 5 of R105 on an entry R103 takes. -/
def entryCheck (s : State) (x : Side) (key e : Nat) (hec : Hec) (delay : Nat) : State :=
  let first := decide (entStart e ≠ 0xFFFFF)
  let s := if first then s.burstClose x (match (s.line x).mapBurst with | some b => b.sn.getD 0 | none => 0) else s
  let refuse (s : State) (c bits : Nat) (burst : Bool) : State :=
    (s.grantRefuse x c bits).modLine x fun l => { l with mapRefused := if first || burst then true else l.mapRefused }
  let odc := entOdc e && s.drixis x && !(s.line x).odcTaken
  if hec = .bad then refuse s 5 0 false
  else if entType e ≥ 2 ∨ (entType e = 1 ∧ !s.allocExpress x key) ∨ (entCkt e ∧ entType e ≠ 1) then refuse s 6 1 false
  else if (first ∧ entStart e > 388799) ∨ (!first ∧ ((s.line x).mapBurst.isNone ∨ (s.line x).mapRefused)) then
    refuse s 6 2 false
  else if first ∧ !s.flag F.UPB_PROF_VALID (sideOff x + 0x20 * entProf e) then refuse s 6 2 true
  else if entSize e < (if entBsr e then 1 else 0) + (if odc then 10 else 0) then refuse s 6 2 false
  else if first ∧ key = keySerial ∧ (s.line x).mapSn then s.modLine x fun l => { l with mapRefused := true }
  else s.entryJoin x key e delay first

/-- The bytes of map entry `k` reach the burst builder (R79, R103, R105); `delay` is the random delay of R129, `ghec` the
verdict of the G-mode check. -/
def entryOp (s : State) (x : Side) (k : Nat) (bytes : List Byte) (marked : Bool) (ghec : Hec) (delay : Nat) : State :=
  if marked then s.bump (dsCnt x 23)
  else if (s.line x).mapHeld then s
  else
    let c := crc16Check bytes
    let hec := if s.drixis x then c.1 else ghec
    let e := if s.drixis x then beNat c.2 else Config.gEntry (s.line x).info k
    match s.entryTaken x e with
    | none => s
    | some key => s.entryCheck x key e hec (delay % (s.f F.UPB_SN_CFG_RDLY_MAX (sideOff x) + 1))

end State

end Sys2Proof.Machine
end

