-- ==== Sys2Proof/Machine/Operands.lean ====
section
/-! DEFINITION. Courser instruction words (R219, R220, R222): their fields, and which instruction a word spells. -/

namespace Sys2Proof.Machine

/-- The instructions and accelerator calls of R220 and R223. -/
inductive IsaOp where
  | add | sub | and | or | xor | shl | shr | sra | mul | mulhu | slt | sltu | rotr | clz | popc | bswap
  | addi | andi | ori | xori | shiftImm | lui
  | extu | exts | ins
  | lb | lh | lw | ld | lbs | lhs | lws | sb | sh | sw | sd
  | lhbe | lwbe | ldbe | shbe | swbe | sdbe
  | amoAdd | amoSwap | amoCas
  | beq | bne | blt | bge | bltu | bgeu | jal | jalr
  | srd | yield | done | fence | trap
  | clsLookup | hash | police | count | enq | time | csum | cmac | recirc | frd | fwr | drop
  deriving DecidableEq, Repr

/-- Bits `[lo + w - 1 : lo]` of an instruction word. -/
def wordBits (n lo w : Nat) : Nat := n / 2 ^ lo % 2 ^ w

/-- Fields of an instruction word (R219). -/
def isaOpc (n : Nat) : Nat := wordBits n 26 6
def isaRd (n : Nat) : Nat := wordBits n 21 5
def isaRa (n : Nat) : Nat := wordBits n 16 5
def isaRb (n : Nat) : Nat := wordBits n 11 5
def isaW (n : Nat) : Bool := wordBits n 10 1 == 1
def isaFn (n : Nat) : Nat := wordBits n 0 6
def isaImm (n : Nat) : Nat := wordBits n 0 16
def isaOff26 (n : Nat) : Nat := wordBits n 0 26
def isaPos (n : Nat) : Nat := wordBits n 10 6
def isaLen (n : Nat) : Nat := wordBits n 4 6 + 1
def isaAcc (n : Nat) : Nat := wordBits n 8 8

/-- A `w`-bit two's complement value sign-extended to 64 bits. -/
def sext64 (w n : Nat) : BitVec 64 := (BitVec.ofNat w n).signExtend 64

/-- IMM16 sign-extended, and zero-extended. -/
def immS (n : Nat) : BitVec 64 := sext64 16 (isaImm n)
def immZ (n : Nat) : BitVec 64 := BitVec.ofNat 64 (isaImm n)

/-- Bits [9:6] of an R-format word are 0 (R219). -/
def rZero (n : Nat) : Bool := wordBits n 6 4 == 0

/-- ALU functions of OP 0x00. -/
def aluOps : List IsaOp :=
  [.add, .sub, .and, .or, .xor, .shl, .shr, .sra, .mul, .mulhu, .slt, .sltu, .rotr, .clz, .popc, .bswap]

/-- Atomics of OP 0x1C. -/
def amoOps : List IsaOp := [.amoAdd, .amoSwap, .amoCas]

/-- System instructions of OP 0x30; FN 1 is not listed. -/
def sysOps : List (Option IsaOp) := [some .srd, none, some .yield, some .done, some .fence, some .trap]

/-- Bit-field instructions of OP 0x07. -/
def fieldOps : List IsaOp := [.extu, .exts, .ins]

/-- Accelerators 0x01 to 0x0C of R223. -/
def accOps : List IsaOp :=
  [.clsLookup, .hash, .police, .count, .enq, .time, .csum, .cmac, .recirc, .frd, .fwr, .drop]

/-- The instruction a word spells; `none` is an encoding R220 or R222 refuses. -/
def isaDecode (n : Nat) : Option IsaOp :=
  match isaOpc n with
  | 0x00 => if rZero n then aluOps[isaFn n]? else none
  | 0x01 => some .addi
  | 0x02 => some .andi
  | 0x03 => some .ori
  | 0x04 => some .xori
  | 0x05 => if wordBits n 9 7 = 0 ∧ !(wordBits n 8 1 == 1 && wordBits n 5 1 == 1) then some .shiftImm else none
  | 0x06 => some .lui
  | 0x07 => if isaPos n + isaLen n ≤ 64 then fieldOps[wordBits n 0 4]? else none
  | 0x08 => some .lb
  | 0x09 => some .lh
  | 0x0A => some .lw
  | 0x0B => some .ld
  | 0x0C => some .lbs
  | 0x0D => some .lhs
  | 0x0E => some .lws
  | 0x10 => some .sb
  | 0x11 => some .sh
  | 0x12 => some .sw
  | 0x13 => some .sd
  | 0x14 => some .lhbe
  | 0x15 => some .lwbe
  | 0x16 => some .ldbe
  | 0x18 => some .shbe
  | 0x19 => some .swbe
  | 0x1A => some .sdbe
  | 0x1C => if rZero n && !isaW n then amoOps[isaFn n]? else none
  | 0x20 => some .beq
  | 0x21 => some .bne
  | 0x22 => some .blt
  | 0x23 => some .bge
  | 0x24 => some .bltu
  | 0x25 => some .bgeu
  | 0x28 => some .jal
  | 0x29 => some .jalr
  | 0x30 => if rZero n && !isaW n then (sysOps[isaFn n]?).join else none
  | 0x3C =>
    if wordBits n 0 8 = 0 ∧ isaRa n ≤ 28 ∧ isaRd n ≤ 29 ∧ 1 ≤ isaAcc n then accOps[isaAcc n - 1]? else none
  | _ => none

end Sys2Proof.Machine
end

