-- ==== Sys2Proof/Machine/KeyBase.lean ====
section
/-! DEFINITION. Key slots and the line cipher (spec/14_keys_checks.md, R362 to R370). -/

namespace Sys2Proof.Machine

/-- Key and check counter i. -/
def secCnt (i : Nat) : Nat := 0x1300800 + 8 * i

/-- Status codes of R222. -/
inductive CallStat where
  | ok | range | length | busy | noframe | keyErased | badhead | refused | dropped
  deriving DecidableEq, Repr

def CallStat.code : CallStat → Nat
  | .ok => 0
  | .range => 1
  | .length => 2
  | .busy => 3
  | .noframe => 4
  | .keyErased => 5
  | .badhead => 6
  | .refused => 7
  | .dropped => 8

namespace State

/-! ### The end of a call (R222) -/

/-- A write to a general register: discarded for g0. -/
def setG (s : State) (k r : Nat) (v : BitVec 64) : State :=
  if r = 0 then s else s.setThread k { s.thread k with g := sset (fun _ => 0) (s.thread k).g r v }

/-- A call ends with a status in RD and results in RD + 1 and RD + 2. -/
def callEnd (s : State) (k w : Nat) (c : CallStat) (res : List Nat := []) : State :=
  let s1 := s.setG k (isaRd w) (BitVec.ofNat 64 c.code)
  match res with
  | [] => s1
  | [x] => s1.setG k (isaRd w + 1) (BitVec.ofNat 64 x)
  | x :: y :: _ => (s1.setG k (isaRd w + 1) (BitVec.ofNat 64 x)).setG k (isaRd w + 2) (BitVec.ofNat 64 y)

/-! ### Slots -/

/-- Key material of a slot: 16 or 32 bytes, none when EMPTY. -/
def keyOf (s : State) (slot : Nat) : List Byte := sget (fun _ => []) s.sec.keys slot

/-- A slot is EMPTY (R362). -/
def keyEmpty (s : State) (slot : Nat) : Bool := s.f F.SEC_SLOT_STATE (4 * slot) == 0

/-- A slot takes key material: STATE and KCV follow (R362). -/
def keySet (s : State) (slot : Nat) (k : List Byte) : State :=
  let s1 := s.modSec fun c => { c with keys := sset (fun _ => []) c.keys slot k }
  (s1.setF F.SEC_SLOT_STATE (4 * slot) (if k.length = 0 then 0 else if k.length = 16 then 1 else 2)).setF F.SEC_SLOT_KCV
    (4 * slot) (if k.length = 0 then 0 else kcvOf k)

/-- The IV of an encapsulated frame (R366). -/
def lineIv (s : State) (x : Side) (sfc dir port pos : Nat) : Nat :=
  if s.drixis x then sfc % 2 ^ 51 * 2 ^ 45 + dir * 2 ^ 44 + port % 2 ^ 20 * 2 ^ 24 + pos % 2 ^ 24
  else Config.gIv sfc dir port pos

/-- Offset of the key tables of a side: downstream entry `n`, upstream entry `q`. -/
def dkey (x : Side) (n : Nat) : Nat := 0x4000 * sideNo x + 4 * n

/-- A key slot was erased by force after the encapsulated frame at byte `pos` of the frame in progress came in (R365). -/
def keyLostAt (s : State) (x : Side) (slot pos : Nat) : Bool :=
  (s.line x).keyLost.any fun e => e.1 == slot && decide (s.lineStamp x pos / 16 ≤ e.2)

/-- Downstream handling of an accepted frame (R365, R368): the plaintext, or the counter of its discard. -/
def lineOpen (s : State) (x : Side) (n idx sfc port pos : Nat) (aad payload : List Byte) :
    Except Nat (List Byte) :=
  let slot := if idx = 1 then s.effF x F.SEC_DKEY_SLOT1 (dkey x n) else s.effF x F.SEC_DKEY_SLOT2 (dkey x n)
  if idx = 0 then (if s.effF x F.SEC_DKEY_CLEAR_OK (dkey x n) = 1 then .ok payload else .error (6 + sideNo x))
  else if idx = 3 then .error (4 + sideNo x)
  else if s.effF x F.SEC_DKEY_VALID (dkey x n) = 0 then .error (2 + sideNo x)
  else if s.keyLostAt x slot pos then .error 8
  else if s.keyEmpty slot then .error (2 + sideNo x)
  else match gcmOpen (s.keyOf slot) (s.lineIv x sfc 0 port pos) aad payload with
    | some p => .ok p
    | none => .error (sideNo x)

/-- The upstream key index of the allocations a map of frame `sfc` granted (R370). -/
def lineCur (s : State) (x : Side) (sfc : Nat) : Nat :=
  let l := s.line x
  if l.keyFrom ≠ 0 ∧ 2 ^ 50 ≤ (sfc + 2 ^ 51 - (l.keyFrom - 1) % 2 ^ 51) % 2 ^ 51 then l.keyPrev
  else s.f F.SEC_LSW_CUR (0x10 * sideNo x)

/-- Key index and slot of an upstream frame of queue `q` (R369): 0 in clear. -/
def lineIdx (s : State) (x : Side) (q : Nat) (sfc : Nat := (s.line x).curSfc) : Nat × Nat :=
  let cur := s.lineCur x sfc
  if s.f F.SEC_UKEY_VALID (dkey x q) = 0 || cur = 0 then (0, 0)
  else (cur, match cur with
    | 1 => s.f F.SEC_UKEY_SLOT1 (dkey x q)
    | 2 => s.f F.SEC_UKEY_SLOT2 (dkey x q)
    | _ => Config.keySlot3 (s.reg (0x1318000 + dkey x q)).toNat % 64)

/-- The upstream index switch at a map's frame (R370): the one latched when ARM was written (DEDUCED, log 222). -/
def keySwitch (s : State) (x : Side) (sfc : Nat) : State :=
  let i := 0x10 * sideNo x
  let arm : KeyArm := sget (fun _ => {}) s.sec.arms (sideNo x)
  if s.flag F.SEC_LSW_PENDING i && decide ((sfc + 2 ^ 51 - arm.sfc % 2 ^ 51) % 2 ^ 51 < 2 ^ 50) then
    let old := s.f F.SEC_LSW_CUR i
    (((s.modLine x fun l => { l with keyPrev := old, keyFrom := sfc + 1 }).setF F.SEC_LSW_CUR i arm.next).setFlag
      F.SEC_LSW_PENDING i false).raise (474 + sideNo x) 1 0 (arm.next + (if arm.late then 4 else 0))
  else s

end State

end Sys2Proof.Machine
end

