-- ==== Sys2Proof/Machine/Downstream.lean ====
section
/-! DEFINITION. Downstream framing, overhead and line supervision (spec/03_downstream.md, R67 to R101). -/

namespace Sys2Proof.Machine

/-- Bits of a downstream frame on the line (R67, R80) and its information bytes. -/
def frameBits (drixis : Bool) : Nat := if drixis then 24883200 else 6220800
def frameInfo (drixis : Bool) : Nat := if drixis then 2626560 else 656640

/-! ### The frame's structures (R69 to R71, R80) -/

/-- The Drixis PSync (R70). -/
def psyncWord : BitVec 64 := 0x9D3A62F1C48E0B57

/-- Bits of a window that differ from PSync. -/
def dsPsyncErr (f : DsFrame) (drixis : Bool) : Nat :=
  if drixis then ((List.range 64).filter fun i => (f.psync ^^^ psyncWord).getLsbD i).length else f.gPsyncErr

/-- A 64-bit structure agrees with its HEC: 51 data bits and the 13 check bits over them (R71). -/
def hecOk (w : BitVec 64) : Bool := w.toNat % 2 ^ 13 == Config.hec13 (w.toNat / 2 ^ 13) % 2 ^ 13

/-- The error patterns a HEC corrects, the smaller ones first: none, one bit, two bits (R71). -/
def hecErrors : List (BitVec 64) :=
  0 :: (List.range 64).map (fun i => BitVec.twoPow 64 i)
    ++ (List.range 64).flatMap fun i => (List.range i).map fun j => BitVec.twoPow 64 i ||| BitVec.twoPow 64 j

/-- The bits the HEC of a structure corrects; none where its errors are uncorrectable (R71). -/
def hecFix (w : BitVec 64) : Option (BitVec 64) := hecErrors.find? fun e => hecOk (w ^^^ e)

/-- The 51 data bits of a structure with the bits its HEC corrects (R71). -/
def hecData (w : BitVec 64) : Nat := (w ^^^ (hecFix w).getD 0).toNat / 2 ^ 13

/-- The HEC corrected a structure. -/
def hecFixed (w : BitVec 64) : Bool := (hecFix w).isSome && hecFix w != some 0

/-- The superframe counter as received. -/
def dsCount (f : DsFrame) : Nat := hecData f.sfc

/-- The frame's information bytes from byte 16 on, descrambled under a superframe counter (R69, R80). -/
def dsInfo (f : DsFrame) (drixis : Bool) (sfc : Nat) : List Byte :=
  if drixis then scramble (scrPreset sfc) f.body else Config.gDescramble sfc f.body

/-- The Drixis control structure, bytes 16 to 23, and its data bits (R68, R71). -/
def dsCtlWord (info : List Byte) : BitVec 64 := BitVec.ofNat 64 (beAt info 0 8)
def dsCtl (info : List Byte) : Nat := hecData (dsCtlWord info)

/-- Its fields (R71), in the 51 data bits. -/
def ctlMfi (d : Nat) : Nat := bitsOf d 48 3
def ctlL (d : Nat) : Nat := bitsOf d 36 12
def ctlM (d : Nat) : Nat := bitsOf d 31 5
def ctlS (d : Nat) : Nat := bitsOf d 19 12
def ctlP (d : Nat) : Bool := bitOf d 18

/-- A Drixis control structure is valid (R72). -/
def dsCtlOk (info : List Byte) : Bool := (hecFix (dsCtlWord info)).isSome && decide (ctlS (dsCtl info) ≤ 3072)

/-- PON_ID of the head-end identity structure, bytes 24 to 31; none when its HEC is uncorrectable (R71, R73). -/
def dsPonId (f : DsFrame) (drixis : Bool) (info : List Byte) : Option Nat :=
  let w := if drixis then BitVec.ofNat 64 (beAt info 8 8) else f.gPon
  if (hecFix w).isNone then none else some (hecData w % 2 ^ 51)

/-! ### Where a frame's parts lie (R68) -/

def mapStart : Nat := 32
def msgsStart (d : Nat) : Nat := mapStart + 16 * ctlL d
def odcStart (d : Nat) : Nat := msgsStart d + 64 * ctlM d
def cktStart (d : Nat) : Nat := odcStart d + (if ctlP d then 40 else 0)
def payloadStart (d : Nat) : Nat := cktStart d + 810 * ctlS d

namespace State

/-! ### Eye SNR (R57) -/

/-- SNR of the three eyes at a frame boundary; event offset 2 when one falls below the floor. -/
def snrUpdate (s : State) (x : Side) (f : DsFrame) : State :=
  let i := sideOff x
  let fl := s.f F.LIN_SNR_1_FLOOR i
  let step (s : State) (F : Fld) (eye v : Nat) : State :=
    let old := s.f F i
    (s.setF F i v).raiseIf (decide (fl ≤ old) && decide (v < fl)) (sideEvt x + 2) 1 0 (eye + 65536 * v)
  if s.drixis x then
    step (step (step s F.LIN_SNR_0_UPPER 0 (f.snrUpper % 65536)) F.LIN_SNR_0_MIDDLE 1 (f.snrMiddle % 65536))
      F.LIN_SNR_1_LOWER 2 (f.snrLower % 65536)
  else ((step s F.LIN_SNR_0_MIDDLE 1 (f.snrMiddle % 65536)).setF F.LIN_SNR_0_UPPER i 0).setF F.LIN_SNR_1_LOWER i 0

/-! ### Multiframe (R84, R85, R90) -/

/-- The multiframe rules on a frame's MFI; `ok` is a valid control structure. After a loss the run of three starts with the next
frame (DESIGN CHOICE, log 196). -/
def mfiStep (s : State) (x : Side) (ok : Bool) (mfi : Nat) : State :=
  let i := sideOff x
  if s.mfAlign x then
    let e := (s.f F.DSF_STAT_MFI i + 1) % 8
    let s1 := s.setF F.DSF_STAT_MFI i e
    if ok && mfi == e then s1.modLine x fun l => { l with mfWrong := 0 }
    else
      let n := (s.line x).mfWrong + 1
      let s2 := (s1.bump (dsCnt x 7)).modLine x fun l => { l with mfWrong := n }
      if n < 4 then s2
      else
        let s3 := (s2.setFlag F.DSF_STAT_MF_ALIGN i false).modLine x fun l =>
          { l with mfWrong := 0, mfLast := none, mfRun := 0, odcMfi := none, odcAcc1 := [], odcAcc2 := [],
                   odcOut1 := [], odcOut2 := [] }
        if s3.lof x || s3.flag F.DSF_STAT_LOM i then s3
        else ((s3.setFlag F.DSF_STAT_LOM i true).pmFlag x 2).lineEvent x 10 1
  else if !ok then s.modLine x fun l => { l with mfLast := none, mfRun := 0 }
  else
    let n := if (s.line x).mfLast.map (fun k => (k + 1) % 8) = some mfi then (s.line x).mfRun + 1 else 1
    let s1 := s.modLine x fun l => { l with mfLast := some mfi, mfRun := n }
    if n < 3 then s1
    else (((s1.setFlag F.DSF_STAT_MF_ALIGN i true).setF F.DSF_STAT_MFI i mfi).modLine x fun l =>
      { l with mfWrong := 0 }).lomClear x

/-- The expected MFI goes on across a frame whose structures are not judged; such a frame ends a run of consecutive frames. -/
def mfiSkip (s : State) (x : Side) : State :=
  if s.mfAlign x then s.setF F.DSF_STAT_MFI (sideOff x) ((s.f F.DSF_STAT_MFI (sideOff x) + 1) % 8)
  else s.modLine x fun l => { l with mfLast := none, mfRun := 0 }

/-! ### Overhead data channels (R92 to R95, R111) -/

/-- One channel's insertion data for a multiframe: the oldest complete one of an enabled input, else zeros and an
underrun. -/
def odcFetch (s : State) (x : Side) (second : Bool) : State :=
  let i := sideOff x
  let q := if second then (s.line x).odcIn2 else (s.line x).odcIn1
  let on := s.flag (if second then F.DSF_ODC_CFG_ODC2_IN_EN else F.DSF_ODC_CFG_ODC1_IN_EN) i
  let d := q.headD (List.replicate (if second then 256 else 64) 0)
  let s1 := s.modLine x fun l => if second then { l with odcIn2 := q.tail, odcIns2 := d }
    else { l with odcIn1 := q.tail, odcIns1 := d }
  if on && q.isEmpty then
    ((s1.setFlag (if second then F.DSF_ODC_STAT_ODC2_UNDER else F.DSF_ODC_STAT_ODC1_UNDER) i true).bump
      (dsCnt x 24)).lineEvent x 18 ((if second then 2 else 1) + 16)
  else s1

/-- The `n` bytes a frame brings an overhead data channel from information byte `p` on: 0xFF for a byte in a marked codeword
(DESIGN CHOICE, log 238: R79 only says that marked bytes are not passed on). -/
def odcBytes (s : State) (x : Side) (p n : Nat) : List Byte :=
  (List.range n).map fun j => if s.lineMarked x (p + j) 1 then 0xFF else byteAt (s.line x).info (p + j - 16)

/-- The frame that ends brings its bytes to the multiframe in progress, at the place of its MFI: 0xFF for a frame without an
overhead block or not received with DS_VALID = 1, and for the frames before alignment was gained (R93, R94). -/
def odcGather (s : State) (x : Side) : State :=
  let l := s.line x
  match l.odcMfi with
  | none => s.modLine x fun l => { l with odcAcc1 := [], odcAcc2 := [] }
  | some f =>
    let ones (n : Nat) : List Byte := List.replicate n 0xFF
    let d := match l.odcAt, l.curOk with
      | some p, true => s.odcBytes x p 40
      | _, _ => ones 40
    let pad (acc : List Byte) (n : Nat) : List Byte := (acc ++ ones (n - acc.length)).take n
    s.modLine x fun l => { l with odcMfi := none, odcAt := none,
                                  odcAcc1 := pad l.odcAcc1 (8 * f) ++ d.take 8, odcAcc2 := pad l.odcAcc2 (32 * f) ++ bytesAt d 8 32 }

/-- A multiframe boundary (R85, R93): the last multiframe goes to the outputs, and the next insertion data are taken (R111). -/
def odcTurn (s : State) (x : Side) : State :=
  if s.mfAlign x && s.f F.DSF_STAT_MFI (sideOff x) == 0 then
    let pad (acc : List Byte) (n : Nat) : List Byte := (acc ++ List.replicate (n - acc.length) 0xFF).take n
    ((s.modLine x fun l => { l with odcOut1 := pad l.odcAcc1 64, odcOut2 := pad l.odcAcc2 256, odcAcc1 := [],
                                    odcAcc2 := [] }).odcFetch x false).odcFetch x true
  else s

/-- The bytes an overhead-channel output sends in a multiframe: none with the output disabled and in G-mode (R80), 0xFF without
alignment and until the first boundary after it is gained (R94). -/
def odcPin (s : State) (x : Side) (second : Bool) : List Byte :=
  let d := if second then (s.line x).odcOut2 else (s.line x).odcOut1
  if !s.flag F.DSF_ODC_CFG_ODC_OUT_EN (sideOff x) || !s.drixis x then []
  else if !s.mfAlign x || d.isEmpty then List.replicate (if second then 256 else 64) 0xFF
  else d

/-! ### A frame boundary -/

/-- A connection-memory entry maps a slot of side `x`, and which (R159, R160). -/
def cmSlot (s : State) (x : Side) (e : Word) : Option Nat :=
  let side := bitsOf e.toNat 29 2
  let own := match side with
    | 0 => x == .a
    | 1 => x == .b
    | 2 => if s.prtMode = 1 then x == s.active else x == .a
    | _ => false
  let n := bitsOf e.toNat 0 12
  if bitOf e.toNat 31 && own && decide (n ≤ 3071) then some n else none

/-- Valid entries of an active page, as (Harness slot, entry), in rising order. -/
def cmPage (s : State) (base : Nat) : List (Nat × Word) :=
  (s.regs.filter fun e => decide (base ≤ e.1) && decide (e.1 < base + 4 * 3776)).map fun e => ((e.1 - base) / 4, e.2)

/-- The upstream page that applies to the map of the frame with its boundary at tick `t` (R168). -/
def usPage (s : State) (t : Nat) : List (Nat × Word) := if t < s.har.usSwap then s.har.usOld else s.cmPage 0x940000

/-- Upstream line slots mapped, in the page of the map's frame, beyond what the map carries (R162): US_MISS and event 233, once
per ms. A slot that several entries name counts once (R161). -/
def slotsMissed (s : State) (x : Side) : State :=
  let n := ((((s.usPage (s.line x).curTick).filterMap fun e => s.cmSlot x e.2).filter fun k =>
    decide ((s.line x).mapSlots ≤ k))).eraseDups.length
  if n = 0 then s
  else (s.bump (0x900118 + 8 * sideNo x) n).raiseLim ticksPerMs (sideNo x) 233 1 0 (sideNo x + 16 * min n 0xFFF)

/-- The previous frame's map has ended: a frame without an ODC allocation counts in ODC_SKIP (R111), and mapped slots it
did not carry count (R162). -/
def mapTurn (s : State) (x : Side) : State :=
  let s1 := s.mapEnd x
  let l := s1.line x
  let s2 := s1.bumpIf (l.odcMap && !l.odcTaken) (usCnt x 14)
  let s3 := if l.mapLive && decide (s2.actState x = 3) then s2.slotsMissed x else s2
  s3.modLine x fun l => { l with
    odcTaken := false, odcMap := false, mapLive := false, mapSlots := 0, mapSn := false, mapRefused := false }

/-- Circuit bytes of a frame join the side's record (R156, R164): the latest four are kept. -/
def cktFrame (s : State) (x : Side) (c : DsCkt) : State := s.setDsFrames x ((c :: s.dsFrames x).take 4)

/-- While a lower power state is being entered the burst builder takes no further grant, from the next frame boundary of a side
on (R386 step 2, R391). -/
def grantsHeld (s : State) : Bool :=
  match s.pwr.target with
  | some t => decide (t < s.pwr.prev)
  | none => false

/-- Registers whose writes wait for the frame boundary take effect: port IDs, allocations, downstream keys and EqD (R99,
R118, R367), and the map that starts there is taken or not. -/
def boundaryEffects (s : State) (x : Side) : State :=
  let e := s.f F.UPB_EQD_EQD (sideOff x)
  ((s.setFlag F.UPB_EQD_PENDING (sideOff x) false).modLine x fun l => { l with
    effOld := [], eqdEff := e, mapHeld := s.grantsHeld }).eqdShow x

/-- A head-end identity seen in SYNC (R73). -/
def ponUpdate (s : State) (x : Side) (pon : Option Nat) : State :=
  let i := sideOff x
  match pon with
  | none => s
  | some id =>
    if id = s.f F.DSF_PONID_LO_PON_ID i + 2 ^ 32 * s.f F.DSF_PONID_HI_PON_ID i then s
    else ((((s.setF F.DSF_PONID_LO_PON_ID i id).setF F.DSF_PONID_HI_PON_ID i (id / 2 ^ 32)).lineEvent x 17
      (id % 2 ^ 32))).todHeadChange x

/-- A message or a copy of a map goes to the Coursers through crossing 0 or 2, in the non-Express queue (R96). -/
def coursersSend (s : State) (x : Side) (bytes : List Byte) (pos : Nat) : Bool × State :=
  let i := if x = .a then 0 else 2
  if s.xRoom i false bytes.length then
    let p := s.takeFree 20
    let st := p.2.lineStamp x pos
    (true, p.2.xPush i { data := bytes, src := sideNo x, port := p.1, arrival := p.2.lineStamp x (pos + bytes.length) / 16,
                         stamp := st, stampTod := p.2.todOfStamp st, msg := true })
  else (false, s)

/-- The bandwidth map of a frame as a copy and as a capture record (R79, R96, R411): the entries that are not marked, once the
last one has come; a map marked absent has none. -/
def mapCopy (s : State) (x : Side) (ok : Bool) : State :=
  let l := s.line x
  let s1 := s.capOffer {
    typ := 1, tick := l.curTick, aux := l.curSfc,
    info := sideNo x + (if s.drixis x then 0 else 2) + (if ok then 0 else 4) + (if ok then min l.mapN 4095 * 8 else 0),
    payload := l.mapBytes }
  if l.mapBytes.isEmpty then s1 else (s1.coursersSend x l.mapBytes mapStart).2

/-- A frame boundary in SYNC: the map and the overhead block of the frame before end. -/
def frameTurn (s : State) (x : Side) : State := (s.mapTurn x).odcGather x

/-- A frame in SYNC whose PSync is missing (R57, R81 to R84, R118): discarded whole; the second in a row is dLOF. -/
def frameMissing (s : State) (x : Side) (f : DsFrame) : State :=
  let n := (s.line x).psyncMiss + 1
  let s1 := (((s.frameTurn x).bump (dsCnt x 2)).modLine x fun l => { l with curOk := false }).dsValidFall x
  let pred := (s1.line x).sfcPred
  let s2 := (s1.mfiSkip x).modLine x fun l =>
    { l with psyncMiss := n, sfcPred := (l.sfcPred + 1) % 2 ^ 51, curTick := s.tick, curPhase := f.phase.val, curSfc := pred,
             curOk := false, delinLost := true, info := [], mapN := 0, mapAt := 0, mapBytes := [], msgN := 0, msgAt := 0,
             odcAt := none, cwOld := true }
  let mfi := s2.f F.DSF_STAT_MFI (sideOff x)
  let al := s2.mfAlign x
  let s3 := (s2.cktFrame x { tick := s.tick, sfc := pred, ok := false, mfi := if al then mfi else 8 }).modLine x fun l =>
    { l with odcMfi := if al then some mfi else none }
  let s3 := s3.addBound x { sfc := pred, stamp := s.tick * 16 + f.phase.val, eqd := (s3.line x).eqdEff,
                            resid := if s.drixis x then (s3.line x).eqdEff % 2 else 0 }
  let s4 := (((if s.drixis x then s3.odcTurn x else s3).boundaryEffects x).snrUpdate x f).mapCopy x false
  if n < 2 then s4 else (s4.framerHunt x).lofDeclare x 0

/-- What the framer keeps of a frame whose control structure is `d` (R68, R72, R80): where its parts lie. -/
def frameLay (s : State) (x : Side) (info : List Byte) (d : Nat) (ok : Bool) : State :=
  let dx := s.drixis x
  s.modLine x fun l => { l with
    info := info, keyLost := [], curOk := ok, delinLost := !ok, mapAt := 0, mapBytes := [], msgAt := 0, odcAt := none,
    cwOld := true,
    mapN := if !ok then 0 else if dx then ctlL d else Config.gEntries info,
    msgN := if !ok then 0 else if dx then ctlM d else Config.gMessages info,
    msgStart := msgsStart d, encPos := if dx then payloadStart d else Config.gPayload info, payEnd := frameInfo dx }

/-- A frame in SYNC with its PSync, under superframe counter `sfc`, which presets the descrambler (R67 to R73, R82, R83, R96,
R118, R156, R274, R370); `pon` is an identity found before SYNC that has not been reported. -/
def frameProcess (s : State) (x : Side) (f : DsFrame) (sfc : Nat) (pon : Option Nat) : State :=
  let i := sideOff x
  let dx := s.drixis x
  let info := dsInfo f dx sfc
  let d := dsCtl info
  let dcs := !dx || dsCtlOk info
  let s1 := (((((s.frameTurn x).bump (dsCnt x 0)).setF F.DSF_SFC_LO_SFC i sfc).setF F.DSF_SFC_HI_SFC i
    (sfc / 2 ^ 32)).modLine x fun l => { l with
      sfcPred := (sfc + 1) % 2 ^ 51, psyncMiss := 0, curTick := s.tick, curPhase := f.phase.val, curSfc := sfc }).frameLay x
        info d dcs
  let s2 := (s1.boundaryEffects x).snrUpdate x f
  let s3 := if s2.sd x && !s2.los x then s2.dsValidRise x else s2
  let resid := if dx then (s3.line x).eqdEff % 2 else 0
  let s4 := s3.addBound x { sfc := sfc, stamp := s3.tick * 16 + f.phase.val, eqd := (s3.line x).eqdEff, resid := resid }
  let s5 := ((s4.bumpIf (dx && hecFixed (dsCtlWord info)) (dsCnt x 5)).bumpIf (!dcs) (dsCnt x 6)).bumpIf (!dcs) (dsCnt x 23)
  let s6 := if dx then s5.mfiStep x dcs (ctlMfi d) else s5
  let s7 := s6.ponUpdate x ((dsPonId f dx info).orElse fun _ => pon)
  let valid := s7.dsValid x
  let al := s7.mfAlign x
  let mfi := s7.f F.DSF_STAT_MFI i
  let s8 := if !dx then s7 else (s7.modLine x fun l => { l with
    odcMfi := if al then some mfi else none, odcAt := if dcs && ctlP d && valid then some (odcStart d) else none }).odcTurn x
  let ok := dcs && dx && valid && s8.xOpen (if x = .a then 10 else 12)
  let s9 := s8.cktFrame x { tick := s8.tick, sfc := sfc, mfi := if al then mfi else 8, start := cktStart d, ok := ok,
                            slots := if ok then ctlS d else 0,
                            bytes := if ok then bytesAt info (cktStart d - 16) (810 * ctlS d) else [] }
  let s10 := s9.modLine x fun l => { l with odcMap := dx && dcs && valid && al, mapLive := dx && dcs && valid }
  let s11 := if (s10.line x).mapN = 0 then s10.mapCopy x dcs else s10
  if valid && dcs then s11.keySwitch x sfc else s11

/-- The superframe counter of a frame in SYNC is judged against the predicted value (R81, R82): the second failure in a row
is dLOF. -/
def frameJudge (s : State) (x : Side) (f : DsFrame) (pon : Option Nat) : State :=
  let pred := (s.line x).sfcPred
  let s1 := ((s.bump (dsCnt x 1) (dsPsyncErr f (s.drixis x))).bumpIf (hecFixed f.sfc) (dsCnt x 3)).modLine x fun l =>
    { l with psyncMiss := 0 }
  if (hecFix f.sfc).isNone ∨ dsCount f ≠ pred then
    let n := (s1.line x).sfcFail + 1
    let s2 := (s1.bump (dsCnt x 4)).modLine x fun l => { l with sfcFail := n }
    if n < 2 then s2.frameProcess x f pred pon
    else
      let s3 := (s2.frameTurn x).modLine x fun l =>
        { l with curTick := s.tick, curSfc := pred, curOk := false, mapN := 0, mapAt := 0, mapBytes := [] }
      ((((s3.boundaryEffects x).snrUpdate x f).mapCopy x false).framerHunt x).lofDeclare x 1
  else (s1.modLine x fun l => { l with sfcFail := 0 }).frameProcess x f pred pon

/-- PSync tolerance (R81). -/
def psyncTol (s : State) (x : Side) : Nat := s.f F.DSF_CFG_PSYNC_TOL (sideOff x)

/-! ### Finding the frame (R81) -/

def setCands (s : State) (x : Side) (cs : List Cand) : State :=
  ((s.modLine x fun l => { l with cands := cs }).setF F.DSF_STAT_CAND (sideOff x) cs.length).setF F.DSF_STAT_STATE
    (sideOff x) (if cs.isEmpty then 0 else 1)

/-- The candidate a match one frame later would confirm. -/
def candAt (s : State) (x : Side) (pos : Nat) : Option Cand :=
  (s.line x).cands.find? fun c => c.pos + frameBits (s.drixis x) == pos

/-- A match becomes a candidate, with what its structures hold, and those its HECs corrected count (R99); while 4 are held it is
ignored. -/
def candAdd (s : State) (x : Side) (pos : Nat) (f : DsFrame) : State :=
  let cs := (s.line x).cands
  if cs.length ≥ 4 then s
  else
    let dx := s.drixis x
    let info := dsInfo f dx (dsCount f)
    let c : Cand := {
      pos := pos, sfc := dsCount f, hecOk := (hecFix f.sfc).isSome
      mfi := if dx && dsCtlOk info then some (ctlMfi (dsCtl info)) else none
      pon := dsPonId f dx info }
    ((s.bumpIf (hecFixed f.sfc) (dsCnt x 3)).bumpIf (dx && hecFixed (dsCtlWord info)) (dsCnt x 5)).setCands x (cs ++ [c])

/-- The framer enters SYNC with a confirming frame (R81, R84, R90): dLOF clears, event offset 13. -/
def syncEnter (s : State) (x : Side) (c : Cand) (f : DsFrame) : State :=
  let i := sideOff x
  let s1 := ((s.setCands x []).setF F.DSF_STAT_STATE i 2).modLine x fun l => { l with
    sfcPred := dsCount f, psyncMiss := 0, sfcFail := 0, mfLast := c.mfi, mfRun := if c.mfi.isSome then 1 else 0, mfWrong := 0 }
  let s1 := s1.modPwr fun p => { p with dozeSync := true }
  let s2 := if s1.lof x then (s1.setFlag F.DSF_STAT_LOF i false).lineEvent x 9 0 else s1
  let s3 := s2.lineEvent x 13 (if s2.drixis x then ctlMfi (dsCtl (dsInfo f true (dsCount f))) else 0)
  (s3.frameJudge x f c.pon).prtEval

/-- A window at bit position `pos` in HUNT or PRESYNC (R81): a match where a candidate expected one confirms it, and anything
else there discards the candidate; a match with SD = 1 that confirms none is recorded, at the position of a candidate just
discarded too (DESIGN CHOICE, log 197). -/
def psyncOp (s : State) (x : Side) (pos : Nat) (f : DsFrame) : State :=
  if s.inSync x || !s.rxEn x then s
  else
    let hit := decide (dsPsyncErr f (s.drixis x) ≤ s.psyncTol x)
    match s.candAt x pos with
    | none => if hit && s.sd x then s.candAdd x pos f else s
    | some c =>
      if hit && c.hecOk && (hecFix f.sfc).isSome && dsCount f == (c.sfc + 1) % 2 ^ 51 then s.syncEnter x c f
      else
        let s1 := s.setCands x ((s.line x).cands.erase c)
        if hit && s.sd x then s1.candAdd x pos f else s1

/-! ### Encapsulated frames (R74 to R78) -/

def reasmOf (s : State) (x : Side) (p : Nat) : Reasm := sget (fun _ => {}) (s.line x).reasm p
def setReasm (s : State) (x : Side) (p : Nat) (r : Reasm) : State :=
  s.modLine x fun l => { l with reasm := sset (fun _ => {}) l.reasm p r }

/-- A delineation loss (R75): open reassemblies are discarded and counted. -/
def delineation (s : State) (x : Side) : State :=
  ((s.bump (dsCnt x 17)).reasmDrop x).modLine x fun l => { l with delinLost := true }

/-- A fragment is discarded with the whole client frame it belongs to: an open reassembly counts in REASM_DISC (R99). -/
def fragDiscard (s : State) (x : Side) (port : Nat) (lf : Bool) : State :=
  (s.bumpIf (s.reasmOf x port).live (dsCnt x 19)).setReasm x port (if lf then {} else { bad := true })

/-- A complete client frame passes to the Core (R78), with its time-stamp entry (R285). -/
def clientDeliver (s : State) (x : Side) (fr : Frame) : State :=
  let i := if x = .a then 0 else 2
  let s1 := s.tsReceive (sideNo x) 0 fr
  if s1.xRoom i fr.exp fr.data.length then s1.xPush i fr else s1.bump (dsCnt x 20)

/-- An accepted fragment joins its client frame (R77). -/
def fragJoin (s : State) (x : Side) (pos stop port seq : Nat) (exp lf : Bool) (data : List Byte) : State :=
  let r := s.reasmOf x port
  if r.bad then s.setReasm x port (if lf then {} else r)
  else
    let stamp := if r.live then r.stamp else s.lineStamp x pos
    let all := r.data ++ data
    if all.length > 16384 then (s.bumpIf (!r.live) (dsCnt x 19)).fragDiscard x port lf
    else if !lf then s.setReasm x port { live := true, data := all, stamp := stamp, seq := seq }
    else (s.setReasm x port {}).clientDeliver x {
      data := all, src := sideNo x, port := port, exp := exp, arrival := s.lineStamp x stop / 16,
      stamp := stamp, stampTod := s.todOfStamp stamp, seq := seq }

/-- Two valid entries hold the port ID of an accepted frame (R76): PID_DUP, and event offset 19 when it is set. The table itself
is not searched before such a frame comes (DESIGN CHOICE, log 198). -/
def pidDup (s : State) (x : Side) (ns : List Nat) : State :=
  match ns with
  | _ :: n :: _ =>
    if s.flag F.DSF_STAT_PID_DUP (sideOff x) then s
    else (s.setFlag F.DSF_STAT_PID_DUP (sideOff x) true).lineEvent x 19 n
  | _ => s

/-- The next encapsulated frame of the payload partition (R74 to R77, R366 to R368): its header and payload lie in the
information stream from `encPos` on, and the next one follows it. `ghec` is the verdict of the G-mode header check. Fewer bytes
than a header takes, left at the partition's end, are neither a frame nor a loss (DESIGN CHOICE, log 239). -/
def encapOp (s : State) (x : Side) (ghec : Hec) : State :=
  let l := s.line x
  let pos := l.encPos
  let dx := s.drixis x
  let head := if dx then 12 else Config.gHeaderBytes
  let c := crc16Check (s.infoAt x pos 12)
  let hec := if dx then c.1 else ghec
  let h := if dx then beNat c.2 else Config.gHeader l.info pos
  let pli := bitsOf h 60 16
  let stop := pos + (if dx then 12 + 4 * ceilDiv pli 4 else Config.gEncapBytes pli)
  if l.payEnd < pos + head then s
  else if hec = .bad then s.delineation x
  else if l.payEnd < stop then (s.bumpIf (hec == .corrected) (dsCnt x 16)).delineation x
  else
    let s := (s.bumpIf (hec == .corrected) (dsCnt x 16)).modLine x fun l => { l with encPos := stop }
    let port := bitsOf h 76 20
    let idx := bitsOf h 58 2
    let lf := bitOf h 57
    if dx && port = 0xFFFFF then s
    else match s.pidMatches x port with
      | [] => s
      | n :: ns =>
        let s := ((s.pidDup x (n :: ns)).bump (dsCnt x 14)).bump (dsCnt x 15) pli
        if s.lineMarked x pos (stop - pos) then (s.bump (dsCnt x 18)).fragDiscard x port lf
        else
          match s.lineOpen x n idx l.curSfc port pos (beBytes 10 (h / 2 ^ 16)) (s.infoAt x (pos + head) pli) with
          | .error k => (s.bump (secCnt k)).fragDiscard x port lf
          | .ok p =>
            (s.bumpIf (idx != 0) (secCnt 11)).fragJoin x pos stop port (bitsOf h 32 24) (bitOf h 56) lf p

/-! ### Management messages (R96) -/

/-- R96: the framer accepts a message by its destination. -/
def msgAccepted (s : State) (x : Side) (bytes : List Byte) : Bool :=
  let own := s.flag F.DSF_TID_VALID (sideOff x)
  let tid := s.f F.DSF_TID_TID (sideOff x)
  if s.drixis x then beAt bytes 0 2 == 0xFFFF || (own && beAt bytes 0 2 == tid)
  else Config.gOnuId bytes == Config.gBroadcast || (own && Config.gOnuId bytes == tid % 1024)

/-- The wake indication of R395, latched in DOZE and in LISTEN. -/
def wakeMessage (s : State) (x : Side) (bytes : List Byte) : Bool :=
  (s.f F.PWR_STATE_STATE == 2 || s.f F.PWR_STATE_STATE == 3)
    && (if s.drixis x then s.msgAccepted x bytes && beAt bytes 2 1 == 0x31
      else Config.gOnuId bytes == s.f F.DSF_TID_TID (sideOff x) % 1024)

/-- A management message that the filter accepts is counted and passed on; one a full queue refuses counts in MSG_DROP as well
(R96). A marked one is discarded (R79). -/
def msgOp (s : State) (x : Side) (pos : Nat) (bytes : List Byte) : State :=
  if s.lineMarked x pos bytes.length then s.bump (dsCnt x 22)
  else
    let s := if s.wakeMessage x bytes then s.modPwr fun p => { p with wakeInd := true } else s
    if !s.msgAccepted x bytes then s
    else
      let r := (s.bump (dsCnt x 21)).coursersSend x bytes pos
      r.2.bumpIf (!r.1) (dsCnt x 22)

/-- The next message of the frame (R68, R80). -/
def msgNext (s : State) (x : Side) : State :=
  let l := s.line x
  let k := l.msgAt
  if l.msgN ≤ k then s
  else
    let pos := if s.drixis x then l.msgStart + 64 * k else Config.gMessageAt l.info k
    (s.modLine x fun l => { l with msgAt := k + 1 }).msgOp x pos (s.infoAt x pos (if s.drixis x then 64 else 48))

/-! ### The one-second PM bank (R97, R90) -/

/-- Width of a live counter of R99. -/
def pmWidth (i : Nat) : Nat := if [10, 11, 13, 14, 15].contains i then 64 else 32

def pmBank (s : State) (x : Side) (b i : Nat) : Nat := sget (fun _ => 0) (s.line x).pm (32 * b + i)
def setPm (s : State) (x : Side) (b i v : Nat) : State :=
  s.modLine x fun l => { l with pm := sset (fun _ => 0) l.pm (32 * b + i) v }

/-- Defects present, as the flags of BANK_INFO. -/
def defectFlags (s : State) (x : Side) : Nat :=
  let i := sideOff x
  (if s.los x then 1 else 0) + (if s.lof x then 2 else 0) + (if s.flag F.DSF_STAT_LOM i then 4 else 0)
    + (if s.flag F.DSF_STAT_SD i then 8 else 0) + (if s.flag F.DSF_STAT_UNC i then 16 else 0)

/-- dSD at a latch (R90): ΔCBIT of the interval. A defect declared at a latch is flagged from the next bank on, as is dUNC
(DESIGN CHOICE, log 199). -/
def sdEval (s : State) (x : Side) (d : Nat) : State :=
  let i := sideOff x
  if !s.flag F.DSF_STAT_SD i then
    if s.f F.DSF_SD_SET_THR i < d then (((s.setFlag F.DSF_STAT_SD i true).pmFlag x 3).modLine x fun l =>
      { l with sdExit := 0 }).lineEvent x 11 1
    else s
  else if d ≤ s.f F.DSF_SD_CLR_THR i then
    if (s.line x).sdExit + 1 < 2 then s.modLine x fun l => { l with sdExit := l.sdExit + 1 }
    else ((s.setFlag F.DSF_STAT_SD i false).modLine x fun l => { l with sdExit := 0 }).lineEvent x 11 0
  else s.modLine x fun l => { l with sdExit := 0 }

/-- dUNC at a latch (R90): ΔUNC of the interval. A threshold of 0 keeps a dUNC that is present (DESIGN CHOICE, log 242). -/
def uncEval (s : State) (x : Side) (d : Nat) : State :=
  let i := sideOff x
  let thr := s.f F.DSF_DEF_CFG_UNC_THR i
  let info := 65536 * min d 0xFFFF
  if !s.flag F.DSF_STAT_UNC i then
    if thr ≠ 0 ∧ thr ≤ d then ((s.setFlag F.DSF_STAT_UNC i true).pmFlag x 4).lineEvent x 12 (1 + info) else s
  else if d < thr then (s.setFlag F.DSF_STAT_UNC i false).lineEvent x 12 info else s

/-- The PM latch of a side (R97, R90): counters and flags copied, SEQ counts, dSD and dUNC evaluated. -/
def pmLatchOp (s : State) (x : Side) : State :=
  let old := s.f F.DSF_PM_SEQ_SEQ (sideOff x)
  let seq := (old + 1) % 2 ^ 32
  let b := seq % 2
  let flags := (s.line x).pmFlags ||| s.defectFlags x
  let dc (i : Nat) : Nat :=
    let w := 2 ^ pmWidth i
    (s.counter (dsCnt x i) % w + w - s.pmBank x (old % 2) i) % w
  let s1 := (List.range 26).foldl (fun s i => s.setPm x b i (s.counter (dsCnt x i) % 2 ^ pmWidth i)) s
  let al := s.flag F.TIM_STAT_TICK_ALIGNED
  let s2 := (s1.setPm x b 30 (seq + 2 ^ 32 * (flags + (if al then 32 else 0)))).setPm x b 31 s.tick
  let s3 := (s2.setF F.DSF_PM_SEQ_SEQ (sideOff x) seq).lineEvent x 16 seq
  let s4 := s3.modLine x fun l => { l with pmFlags := s.defectFlags x }
  let s5 := if flags % 4 = 0 then (s4.sdEval x (min (dc 11) 0xFFFFFFFF)).uncEval x (dc 12)
    else s4.modLine x fun l => { l with sdExit := 0 }
  s5

/-- A second tick waits at the side, through crossing 21 or 22. -/
def secAt (s : State) : Side → Bool
  | .a => s.tm.secA
  | .b => s.tm.secB
def secTaken (s : State) : Side → State
  | .a => s.modTm fun t => { t with secA := false }
  | .b => s.modTm fun t => { t with secB := false }

/-! ### Overhead-channel inputs (R92, R95) -/

/-- A complete insertion multiframe enters its FIFO of 2. -/
def odcInsertOp (s : State) (x : Side) (second : Bool) (bytes : List Byte) : State :=
  let i := sideOff x
  let q := if second then (s.line x).odcIn2 else (s.line x).odcIn1
  let d := bytesAt bytes 0 (if second then 256 else 64)
  let full := decide (2 ≤ q.length)
  let q' := (if full then q.tail else q) ++ [d]
  let s1 := s.modLine x fun l => if second then { l with odcIn2 := q' } else { l with odcIn1 := q' }
  if full then
    ((s1.setFlag (if second then F.DSF_ODC_STAT_ODC2_OVER else F.DSF_ODC_STAT_ODC1_OVER) i true).bump
      (dsCnt x 25)).lineEvent x 18 ((if second then 2 else 1) + 32)
  else s1

/-- A write of DSF_ODC_CFG: ODC2_IN_EN claims or releases the balls for feature 0x09 (R92). A write whose claim ends in CONFLICT
changes nothing (R37; DEDUCED, log 193). -/
def odcCfgWrite (s : State) (x : Side) (q : Req) (v : Word) : State :=
  let i := sideOff x
  let r := 12 + sideNo x
  let en := F.DSF_ODC_CFG_ODC2_IN_EN.of v == 1
  let was := s.flag F.DSF_ODC_CFG_ODC2_IN_EN i
  if en && !was && !s.resFree r then s.resConflict q r
  else
    let s1 := (s.setF F.DSF_ODC_CFG_ODC1_IN_EN i (F.DSF_ODC_CFG_ODC1_IN_EN.of v)).setF F.DSF_ODC_CFG_ODC_OUT_EN i
      (F.DSF_ODC_CFG_ODC_OUT_EN.of v)
    if en && !was then (s1.resTake q r 0x09).setFlag F.DSF_ODC_CFG_ODC2_IN_EN i true
    else if !en && was then (s1.resRelease r).setFlag F.DSF_ODC_CFG_ODC2_IN_EN i false
    else s1

/-- The content of the frame in progress may be used. -/
def frameUsable (s : State) (x : Side) : Bool := s.inSync x && s.dsValid x && (s.line x).curOk

end State

/-! ### The commands -/

/-- DOWNSTREAM_FRAME (R67 to R73, R81 to R85): a frame boundary of a side in SYNC. -/
def execDownstreamFrame (x : Side) (f : DsFrame) (s : State) : Host.Outcome State Fault Refusal :=
  .next (if !s.inSync x then s
    else if dsPsyncErr f (s.drixis x) > s.psyncTol x then s.frameMissing x f
    else s.frameJudge x f none)

/-- PSYNC_MATCH (R81): a window in HUNT or PRESYNC at line bit `pos`. -/
def execPsyncMatch (x : Side) (pos : Nat) (f : DsFrame) (s : State) : Host.Outcome State Fault Refusal :=
  .next (s.psyncOp x pos f)

/-- ENCAP_FRAME_RECEIVE (R74 to R78): the next encapsulated frame has arrived. -/
def execEncapFrameReceive (x : Side) (ghec : Hec) (s : State) : Host.Outcome State Fault Refusal :=
  .next (if s.frameUsable x && !(s.line x).delinLost then s.encapOp x ghec else s)

/-- MGMT_MESSAGE_RECEIVE (R79, R96): the next message has arrived. -/
def execMgmtMessageReceive (x : Side) (s : State) : Host.Outcome State Fault Refusal :=
  .next (if s.frameUsable x then s.msgNext x else s)

/-- LOS_DECLARE (R86): not while RX_EN is 0 or the calibration runs. -/
def execLosDeclare (x : Side) (s : State) : Host.Outcome State Fault Refusal :=
  .next (if s.rxEn x && s.flag F.LIN_DSP_STAT_ADC_CAL (sideOff x) && !s.sd x then s.losDeclareOp x else s)

/-- LOS_CLEAR (R86). -/
def execLosClear (x : Side) (s : State) : Host.Outcome State Fault Refusal :=
  .next (if s.rxEn x && s.flag F.LIN_DSP_STAT_ADC_CAL (sideOff x) && s.sd x && s.los x then
    ((s.setFlag F.DSF_STAT_LOS (sideOff x) false).lineEvent x 8 0).prtEval else s)

/-- RANGING_HOLD_EXPIRE (R88, R127). -/
def execRangingHoldExpire (x : Side) (s : State) : Host.Outcome State Fault Refusal :=
  .next (if (s.line x).holdStart ≠ 0 then (s.holdExpire x).prtEval else s)

/-- PM_LATCH (R97). -/
def execPmLatch (x : Side) (s : State) : Host.Outcome State Fault Refusal :=
  .next (if s.secAt x then (s.secTaken x).pmLatchOp x else s)

/-- ODC_INSERT_MULTIFRAME (R80, R95): from an enabled input, in Drixis mode. -/
def execOdcInsertMultiframe (x : Side) (second : Bool) (bytes : List Byte) (s : State) :
    Host.Outcome State Fault Refusal :=
  .next (if s.drixis x && s.flag (if second then F.DSF_ODC_CFG_ODC2_IN_EN else F.DSF_ODC_CFG_ODC1_IN_EN) (sideOff x) then
    s.odcInsertOp x second bytes else s)

/-- ODC2_INPUT_ENABLE (R92): a write of DSF_ODC_CFG. -/
def execOdc2InputEnable (q : Req) (x : Side) (v : Word) (s : State) : Host.Outcome State Fault Refusal :=
  .next (s.guardW q (0x401030 + sideOff x) fun s => s.odcCfgWrite x q v)

end Sys2Proof.Machine
end

