-- ==== Sys2Proof/Machine/Bursts.lean ====
section
/-! DEFINITION. Bursts, Bridle and activation of a side (spec/04_upstream.md, R107 to R134; R260, R261, R366, R369). -/

namespace Sys2Proof.Machine

/-- CRC-8, generator x^8 + x^2 + x + 1, preset 0 (R110, R173). -/
def crc8 (bs : List Byte) : Nat := crcBytes 8 0x07 bs 0

namespace State

/-! ### What feeds an allocation (R104, R135, R138, R139, R147) -/

/-- The side's allocations carry data: operation, and the role the pairing mode gives it. -/
def mayFeed (s : State) (x : Side) : Bool :=
  decide (s.actState x = 3) &&
    (match s.prtMode with
      | 0 => true
      | 1 => s.active == x && !s.flag F.PRT_STAT_NO_PATH
      | _ => s.eligible x)

/-- Allocation group of a key on a side: none for a serial-number window and for a default group of the other half. -/
def groupOf (s : State) (x : Side) (key : Nat) : Option Nat :=
  if key = keyDefault then
    let g := s.f F.UPB_CFG_DEF_GROUP (sideOff x)
    if s.allocHalf x g then some g else none
  else if key < 512 then some key else none

/-- FRAG of an allocation ID (R112). -/
def allocFrag (s : State) (x : Side) (key : Nat) : Bool :=
  if key = keyDefault then s.flag F.UPB_CFG_DEF_FRAG (sideOff x)
  else s.effF x F.UPB_ALLOC_FRAG (sideOff x + 4 * key) == 1

/-- Bytes a frame of queue `q` with `n` payload bytes takes with header, tag and padding (R112, R366). -/
def needBytes (s : State) (x : Side) (q n : Nat) (sfc : Nat := (s.line x).curSfc) : Nat :=
  12 + 4 * ceilDiv (n + (if (s.lineIdx x q sfc).1 = 0 then 0 else 16)) 4

/-- Bytes of a side's partly sent and buffered frames of group `g`. -/
def sideHeld (s : State) (x : Side) (g : Nat) : Nat :=
  let ps := ((s.line x).partials.filter fun e => s.groupOf x e.1 == some g).filterMap fun e => e.2
  let bs := ((s.line x).buffered.filter fun e => s.groupOf x e.1 == some g).flatMap fun e => e.2
  ((ps ++ bs).map fun p => s.needBytes x p.frame.outQ (p.frame.data.length - p.off)).sum

/-- Occupancy of a group for a buffer status report (R261), in 64-byte units. -/
def occupancy (s : State) (x : Side) (g : Nat) : Nat :=
  let q := ((s.nodeQueues g).filter fun q => decide (q < 4096)).map fun q =>
    ((s.que q).frames.map fun f => s.needBytes x q f.data.length).sum
  let held := if s.prtMode = 0 then s.sideHeld x g else s.sideHeld .a g + s.sideHeld .b g
  min (ceilDiv (q.sum + held) 64) 0xFFFFFF

/-- The report of an allocation (R110, R138). -/
def bsrWord (s : State) (x : Side) (a : Alloc) : List Byte :=
  let occ := if !s.mayFeed x then 0 else match s.groupOf x a.key with | some g => s.occupancy x g | none => 0
  let b := beBytes 3 occ
  b ++ beBytes 1 (crc8 b)

/-! ### Filling an allocation (R112) -/

end State

/-- Progress of an allocation: bytes so far, and what the burst counts. -/
structure Fill where
  out : List Byte := []
  taken : List Partial := []
  usBytes : Nat := 0
  idle : Nat := 0
  short : Nat := 0
  frags : Nat := 0
  encs : Nat := 0
  data : Bool := false
  stamps : List TxStamp := []
  spans : List Span := []
  deriving DecidableEq, Repr

namespace State

/-- Bytes in a side's burst buffer that wait for other bursts than the one being assembled (R113): its own leave the buffer as
they are sent. -/
def burstBuffer (s : State) (x : Side) : Nat :=
  ((s.asmAllocs x).map fun a => if a.ckt then 0 else a.data.length).sum
    + (((s.line x).buffered.flatMap fun e => e.2).map fun p => p.frame.data.length).sum

/-- Instant of line word `w` of a burst counted from its first preamble word, in sixteenths of a tick; the residue of R116
is added back. -/
def burstStamp (s : State) (x : Side) (b : Burst) (w : Nat) : Nat :=
  (b.t0 + s.wordUnits x * w + (if s.drixis x then b.eqd % 2 else 0)) / 8

/-- A frame newly taken from a queue by a side leaves Paddock. -/
def frameTake (s : State) (x : Side) (fr : Frame) : Partial × State :=
  ({ frame := { fr with handle := 0, heads := 0, erased := 0 }, erased := bitOf fr.erased (sideNo x) }, s.padDrop fr)

/-- A frame whose first fragment is placed gets its port ID and, in bonded mode, the next value of its sequence counter
(R148, R149). -/
def seqTake (s : State) (p : Partial) : Partial × State :=
  if p.seq.isSome then (p, s)
  else
    let port := s.f F.PRT_UPID_PORT_ID (4 * p.frame.outQ)
    if s.prtMode = 2 then
      let c := s.f F.PRT_UPID_CTR (4 * p.frame.outQ)
      let v := sget (fun _ => 0) s.prt.seqCtr c
      ({ p with portId := port, seq := some v },
       s.modPrt fun t => { t with seqCtr := sset (fun _ => 0) t.seqCtr c ((v + 1) % 2 ^ 24) })
    else ({ p with portId := port, seq := some 0 }, s)

/-- One frame or fragment into an allocation: `word` is the information word of its header in the burst, `room` the bytes
left. -/
def placeFrame (s : State) (x : Side) (b : Burst) (key word room : Nat) (p : Partial) (f : Fill) :
    Bool × Fill × State :=
  let q := p.frame.outQ
  let line := preWords s x b.prof + 2 + lineWord word
  let es := s.burstStamp x b line
  let r := if p.off = 0 then s.ptpEgress (sideNo x) p.frame es else (p.frame.data, [])
  let fr := { p.frame with data := r.1 }
  let rest := fr.data.drop p.off
  let (idx, slot) := s.lineIdx x q b.sfc
  let tag := if idx = 0 then 0 else 16
  let need := 12 + 4 * ceilDiv (rest.length + tag) 4
  let whole := decide (need ≤ room)
  let pli := if whole then rest.length + tag else room - 12
  let part := if whole then rest else rest.take (pli - tag)
  if p.erased || idx ≠ 0 && s.keyEmpty slot then
    -- R365, R369: discarded, its space filled
    let n := min need room
    let z := (s.setPartial x key none).fill n
    (decide (n < room), { f with out := f.out ++ z.1, idle := f.idle + n }, z.2.bump (secCnt (if p.erased then 8 else 2 + sideNo x)))
  else
    let h := encapHeader p.portId pli idx whole (s.qClass q == 7) (p.seq.getD 0)
    let body := if idx = 0 then part
      else gcmSeal (s.keyOf slot) (s.lineIv x b.sfc 1 p.portId (b.start + line)) (h.take 10) part
    let pad := List.replicate (4 * ceilDiv body.length 4 - body.length) (0 : Byte)
    let st : List TxStamp := if p.off = 0 && (fr.tsReq || !r.2.isEmpty) then
        [{ word := line, es := es, entry := fr.tsReq, tag := fr.tag, late := fr.late, ptp := r.2 }] else []
    let f' := { f with
      out := f.out ++ h ++ body ++ pad, usBytes := f.usBytes + body.length, data := true,
      frags := f.frags + (if whole then 0 else 1), encs := f.encs + (if idx = 0 then 0 else 1), stamps := f.stamps ++ st,
      spans := f.spans ++ [{
        start := line, stop := preWords s x b.prof + 2 + lineWord (word + (h ++ body ++ pad).length / 4 - 1) + 1,
        first := decide (p.off = 0), last := whole, part := p }] }
    (whole, f', s.setPartial x key (if whole then none else some { p with frame := fr, off := p.off + part.length }))

/-- The next frame of an allocation: a partly sent one, one left in the burst buffer, or one the scheduler selects. -/
def nextFrame (s : State) (x : Side) (b : Burst) (key g word : Nat) : Option (Partial × Bool) × State :=
  match s.partialOf x key with
  | some p => (some (p, false), s)
  | none =>
    match s.bufferedOf x key with
    | p :: ps => (some (p, true), s.setBuffered x key ps)
    | [] =>
      if s.groupHeld 98 then (none, s) else
      let line := preWords s x b.prof + 2 + lineWord word
      let r := s.select {
        tick := b.t0 / 128, startNs := s.todOfStamp (s.burstStamp x b line) / 65536,
        finish := fun q n => ceilDiv (s.todOfStamp (s.burstStamp x b
          (preWords s x b.prof + 2 + lineWord (word + s.needBytes x q n b.sfc / 4 - 1) + 1))) 65536 } g
      match r.1 with
      | none => (none, r.2)
      | some fr =>
        let t := r.2.frameTake x fr
        (some (t.1, true), t.2)

/-- R112 for an allocation of group `g`: frames while they fit, then idle. `limit` is the room of the burst buffer for a frame
that is not in it: one that does not fit waits (R113). A fragment that could not hold the cipher's tag is not sent (DESIGN
CHOICE, log 200). A frame whose data is uncorrectable in Paddock is discarded and its space filled (R352). -/
def fillLoop (s : State) (x : Side) (b : Burst) (key g word0 size : Nat) (limit : Nat) : Nat → Fill → Fill × State
  | 0, f => (f, s)
  | k + 1, f =>
    let room := size - f.out.length
    let word := word0 + f.out.length / 4
    let s := s.nodeHeads g
    let r := s.nextFrame x b key g word
    match r.1 with
    | none => (f, r.2)
    | some (p, fresh) =>
      let need := r.2.needBytes x p.frame.outQ (p.frame.data.length - p.off) b.sfc
      let tag := if (r.2.lineIdx x p.frame.outQ b.sfc).1 = 0 then 0 else 16
      let may := decide (need ≤ room) || (s.allocFrag x key
        && decide (12 + 4 * s.f F.UPB_CFG_MIN_FRAG (sideOff x) ≤ room) && decide (12 + tag ≤ room))
      if !may then (f, s)
      else if fresh && (s.bufferedOf x key).isEmpty && decide (limit < p.frame.data.length) then (f, s)
      else if fresh && (r.2.padRead p.frame false).1 then
        let n := min need room
        let z := (r.2.padRead p.frame false).2.fill n
        let f' := { f with out := f.out ++ z.1, idle := f.idle + n }
        if n < room then z.2.fillLoop x b key g word0 size limit k f' else (f', z.2)
      else
        let r2 := if fresh then (r.2.padRead p.frame false).2 else r.2
        let p := r2.seqTake { p with frame := { p.frame with flip := 0 } }
        let f := if fresh then { f with taken := f.taken ++ [p.1] } else f
        let z := p.2.placeFrame x b key word room p.1 f
        if z.1 then z.2.2.fillLoop x b key g word0 size limit k z.2.1
        else (z.2.1, z.2.2)

/-- An ordinary or Express allocation's frames and fill (R112, R113), in `size` bytes from information word `word`: what only the
room of the burst buffer, or a crossing that is closed, has left idle is short (R32). -/
def fillFrames (s : State) (x : Side) (b : Burst) (key word size : Nat) : Fill × State :=
  let r : Fill × State := if !s.mayFeed x then ({}, s)
    else match s.groupOf x key with
      | none => ({}, s)
      | some g =>
        let limit := if s.xOpen (if x = .a then 1 else 3) && s.regionUp 2 then 524288 - s.burstBuffer x else 0
        let r := s.fillLoop x b key g word size limit (size / 12 + 1) {}
        let all := s.fillLoop x b key g word size (2 ^ 64) (size / 12 + 1) {}
        ({ r.1 with short := all.1.out.length - r.1.out.length }, r.2)
  let n := size - r.1.out.length
  let z := r.2.fill n
  ({ r.1 with out := r.1.out ++ z.1, idle := r.1.idle + n }, z.2)

/-! ### Circuit allocations (R157, R161, R162, R166, R167) -/

/-- The upstream copy the map of a frame carries (R166): the latest at or before the frame end minus 3.000 µs. -/
def usCopyFor (s : State) (frameEnd : Nat) : Option UsCopy :=
  s.har.copies.find? fun c => decide (c.tick * 10 + 23328 ≤ frameEnd * 10)

/-- The Harness slot that feeds upstream slot `k` of side `x` in the page that applies to a map's frame (R161, R168). -/
def usFeed (s : State) (x : Side) (boundary k : Nat) : Option Nat :=
  ((s.usPage boundary).find? fun e => s.cmSlot x e.2 == some k).map Prod.fst

/-- Bytes of one upstream slot: those of its Harness slot, fill where a row is missing; true when any byte is fill. -/
def usSlot (s : State) (x : Side) (b : Burst) (k : Nat) : List Byte × Bool :=
  let fb : Byte := BitVec.ofNat 8 (s.f F.CKT_CFG_FILL)
  let all := (List.replicate 810 fb, true)
  if b.t0 / 128 > b.frameEnd + 777600 || !s.xOpen (if x = .a then 11 else 13) then all
  else match s.usCopyFor b.frameEnd, s.usFeed x (b.frameEnd - 97200) k with
    | some c, some h =>
      if c.again then all
      else
        let row (r : Nat) : Option Byte :=
          let d := sget (fun _ => []) c.rows (r * 8 + h / 472)
          if d.isEmpty then none else some (byteAt d (h % 472))
        let bs := (List.range 810).map row
        (bs.map fun o => o.getD fb, bs.any Option.isNone)
    | _, _ => all

/-- The circuit area of an allocation (R157); on FX9840-FBX it carries 0xFF (R180). -/
def fillCircuits (s : State) (x : Side) (b : Burst) (a : Alloc) : List Byte × State :=
  let c := 4 * (a.size - allocHead a)
  if s.grade = .fbx then (List.replicate c 0xFF, s)
  else
    let n := allocSlots a
    let slots := (List.range n).map fun j => s.usSlot x b (a.slot0 + j)
    let bytes := (List.range 810).flatMap fun r => slots.map fun z => byteAt z.1 r
    (bytes ++ List.replicate (c - 810 * n) 0, s.bump 0x900110 (slots.filter fun z => z.2).length)

/-! ### Assembly (R42, R109 to R114) -/

/-- The Serial_Number message (R130, R131). -/
def serialMessage (s : State) (x : Side) (delay : Nat) : List Byte :=
  let i := sideOff x
  [0xFF, 0xFF, 0x01, BitVec.ofNat 8 (s.line x).seqno]
    ++ beBytes 8 (s.f F.UPB_SN_LO_SN i + 2 ^ 32 * s.f F.UPB_SN_HI_SN i) ++ beBytes 2 delay
    ++ [(if s.drixis x then 1 else 0) + (if s.grade = .fbx then 0 else 2)] ++ List.replicate 49 0

/-- The message of a burst with MSGU = 1 (R114). -/
def takeMessage (s : State) (x : Side) (b : Burst) : List Byte × State :=
  let i := sideOff x
  match b.sn with
  | some d => (s.serialMessage x d, s.modLine x fun l => { l with seqno := (l.seqno + 1) % 256 })
  | none =>
    match (s.line x).msgs with
    | m :: ms => (m, (s.modLine x fun l => { l with msgs := ms }).setF F.UPB_MSG_STAT_COUNT i ms.length)
    | [] => (beBytes 2 (s.f F.UPB_TID_TID i) ++ List.replicate 62 0, s)

/-- The content of one allocation from information word `word` on, with the reports computed at assembly start. -/
def fillAlloc (s : State) (x : Side) (b : Burst) (word : Nat) (a : Alloc) (bsr : List Byte) : Alloc × Fill × State :=
  let head := bsr ++ a.odcData
  if a.ckt then
    let c := s.fillCircuits x b a
    ({ a with data := head ++ c.1 }, {}, c.2)
  else
    let before := s.partialOf x a.key
    let r := s.fillFrames x b a.key (word + allocHead a) (4 * (a.size - allocHead a))
    ({ a with data := head ++ r.1.out, before := before, taken := r.1.taken, spans := r.1.spans }, r.1, r.2)

/-- The allocations of a burst in the order they leave. -/
def fillAllocs (s : State) (x : Side) (b : Burst) : Nat → List (Alloc × List Byte) → List Alloc × Fill × State
  | _, [] => ([], {}, s)
  | w, (a, bsr) :: as =>
    let r := s.fillAlloc x b w a bsr
    let t := r.2.2.fillAllocs x b (w + a.size) as
    let f := r.2.1
    let g := t.2.1
    let sum : Fill := {
      usBytes := f.usBytes + g.usBytes, idle := f.idle + g.idle, short := f.short + g.short, frags := f.frags + g.frags,
      encs := f.encs + g.encs, data := f.data || g.data, stamps := f.stamps ++ g.stamps }
    (r.1 :: t.1, sum, t.2.2)

/-- Assembly of a burst (R42): RDI and reports sampled, message taken, allocations filled in the order of R109. -/
def assemble (s : State) (x : Side) (b : Burst) : Burst × State :=
  let rdi := s.rdi x
  let as := (sendOrder b.allocs).map fun a => (a, if a.bsr then s.bsrWord x a else [])
  let m := if b.msgu then s.takeMessage x b else ([], s)
  let r := m.2.fillAllocs x b (2 + (if b.msgu then 16 else 0)) as
  let f := r.2.1
  ({ b with asm := true, rdi := rdi, msg := m.1, allocs := r.1, usBytes := f.usBytes, idleBytes := f.idle,
            shortBytes := f.short, frags := f.frags, encs := f.encs, hasData := f.data, stamps := f.stamps }, r.2.2)

/-- A frame of a queue is uncorrectable in Paddock (R352). -/
def markBad (s : State) (q i : Nat) : State :=
  s.setQue q { s.que q with frames := (s.que q).frames.mapIdx fun k f => if k = i then { f with flip := 2 } else f }

/-- Replace the first burst not yet assembled. -/
def asmFirst (s : State) (x : Side) : State :=
  match (s.line x).store.find? fun b => !b.asm with
  | none => s
  | some b =>
    let r := s.assemble x b
    r.2.modLine x fun l => { l with store := l.store.map fun c => if c == b then r.1 else c }

/-! ### On the line (R108, R116, R119, R132) -/

/-- The burst header (R108). -/
def burstHeader (s : State) (x : Side) (b : Burst) : List Byte :=
  let tid := if b.sn.isSome then 0xFFFF else s.f F.UPB_TID_TID (sideOff x)
  let bit (c : Bool) (i : Nat) := if c then 2 ^ i else 0
  let d := tid * 2 ^ 35 + bit b.rdi 34 + bit (b.allocs.any fun a => a.typ == 1) 33
    + bit (s.flag F.UPB_BRIDLE_STAT_DG_ACTIVE (sideOff x)) 32 + bit b.msgu 31
  beBytes 8 (d * 2 ^ 13 + Config.hec13 d % 2 ^ 13)

/-- Preamble and delimiter of a burst (R107): PRE_LEN words of the pattern's halves in turn, high half first, then DEL, whose
high half leaves first too (DESIGN CHOICE, log 244). -/
def burstPre (s : State) (x : Side) (b : Burst) : List Byte :=
  let i := sideOff x + 0x20 * b.prof
  let lo := beBytes 4 (s.f F.UPB_PROF_PRE_LO_PRE i)
  let hi := beBytes 4 (s.f F.UPB_PROF_PRE_HI_PRE i)
  ((List.range (preWords s x b.prof)).flatMap fun k => if k % 2 = 0 then hi else lo)
    ++ beBytes 4 (s.f F.UPB_PROF_DEL_HI_DEL i) ++ beBytes 4 (s.f F.UPB_PROF_DEL_LO_DEL i)

/-- The information stream of a burst (R107). -/
def burstStream (s : State) (x : Side) (b : Burst) : List Byte :=
  s.burstHeader x b ++ b.msg ++ (b.allocs.flatMap fun a => a.data)

/-- An information stream in its LDPC codewords (R107): 456 words and 84 parity words each, the last one shortened. -/
def ldpcCode : Nat → List Byte → List Byte
  | 0, _ => []
  | k + 1, bs =>
    if bs.isEmpty then []
    else bs.take 1824 ++ bytesAt (Config.ldpcParity (bs.take 1824)) 0 336 ++ ldpcCode k (bs.drop 1824)

/-- The last burst as it leaves: preamble, delimiter and the coded information stream; in G-mode what the recommendation makes of
it (R107). -/
def burstBytes (s : State) (x : Side) : List Byte :=
  let l := s.line x
  if s.drixis x then l.lastPre ++ ldpcCode (l.lastBurst.length / 1824 + 1) l.lastBurst else Config.gBurst l.lastBurst

/-- What a burst on the line counts (R112, R113). -/
def burstCount (s : State) (x : Side) (b : Burst) : State :=
  let s1 := ((((s.bump (usCnt x 0)).bump (usCnt x 1) b.usBytes).bump (usCnt x 2) b.idleBytes).bump (usCnt x 3)
    b.shortBytes).bump (usCnt x 11) b.frags
  (s1.bumpIf b.msgu (usCnt x 16)).bump (secCnt 11) b.encs

/-- RESUME after a switch (R141): the first data burst of the active side. -/
def resumeMark (s : State) (x : Side) (b : Burst) : State :=
  if s.prt.resume = 0 || !b.hasData || s.active != x then s
  else (s.modPrt fun p => { p with resume := 0 }).setF F.PRT_LAST_SW_INFO_RESUME 0
    (min (b.t0 / 128 + 1 - s.prt.resume) 0xFFFFFF)

/-- The burst leaves under row 6 of R119, with the coefficient set fixed for it (R60). -/
def burstSend (s : State) (x : Side) (b : Burst) : State :=
  let st := s.burstStream x b
  let s := s.peqUse x b.t0
  let s1 := ((s.benSet x true).modLine x fun l =>
    { l with sending := some b, reqTick := s.tick, lastPre := s.burstPre x b, lastBurst := st,
             lastStart := b.t0 }).burstCount x b
  let dg := s1.flag F.UPB_BRIDLE_STAT_DG_ACTIVE (sideOff x)
  let first := dg && !(s1.line x).dgSent
  let s2 := (s1.bumpIf dg (usCnt x 17)).modLine x fun l => { l with dgSent := l.dgSent || dg }
  (s2.raiseIf first (sideEvt x + 26)).resumeMark x b

/-- The request of the burst on the line goes on (R119 row 3, R120): past its end BEN falls, and a request that has lasted
more than MAX_BURST cycles latches rogue. -/
def sendTick (s : State) (x : Side) : State :=
  match (s.line x).sending with
  | none => s
  | some b =>
    if s.burstEnd x b ≤ s.tick then s.burstDone x b false
    else if s.maxBurst x < s.tick - (s.line x).reqTick then s.rogueLatch x 1
    else s

/-- A request at this tick lies in the burst's window (R119): from LEAD cycles before the first preamble symbol to LAG cycles
after the last symbol, with 1 cycle of tolerance at each edge. -/
def benWindow (s : State) (x : Side) (b : Burst) : Bool :=
  decide (b.t0 / 128 ≤ s.tick + s.lead x + 1) && decide (s.tick ≤ s.burstEnd x b + 1)

/-- The request of a burst comes LEAD cycles before its first preamble symbol (R46), with Bridle's tolerance of a cycle. -/
def benRise (s : State) (x : Side) (b : Burst) : Bool := s.benWindow x b && decide (s.tick + s.lead x ≤ b.t0 / 128 + 1)

/-- The transmit paths are off in DOZE and LISTEN (R386, R394). -/
def txOff (s : State) : Bool := s.f F.PWR_STATE_STATE == 3 || s.f F.PWR_STATE_STATE == 2

/-- The rows of R119 for a request with the next burst of the store: the frames of one that is blocked by row 1, 4 or 5 go with
it, uncounted (DESIGN CHOICE, log 245). -/
def burstRow (s : State) (x : Side) (b : Burst) : State :=
  if s.flag F.UPB_BRIDLE_STAT_FAULT_HOLD (sideOff x) || s.rogue x then s
  else if !s.mayTransmit x || s.txOff then s.bump (usCnt x 12)
  else if s.txf x then (s.bump (usCnt x 13)).lineEvent x 23 0
  else s.burstSend x b

/-- A BEN request of the burst builder at this tick (R46, R119): where the transmit paths are off, row 4 counts it; with the
next burst of the store, assembled, when its window holds the tick, else with no window. A command later in the window than the
rise of BEN has no effect: the builder makes its request there only (DEDUCED, log 5). -/
def transmitOp (s : State) (x : Side) : State :=
  let s := s.sendTick x
  let stray (s : State) : State :=
    if s.flag F.UPB_BRIDLE_STAT_FAULT_HOLD (sideOff x) || s.rogue x then s
    else if s.txOff then s.bump (usCnt x 12)
    else s.rogueLatch x 0
  match (s.line x).store with
  | [] => stray s
  | b0 :: _ =>
    if !s.benWindow x b0 then stray s
    else if !s.benRise x b0 then s
    else
      let s1 := if b0.asm then s else s.asmFirst x
      match (s1.line x).store with
      | [] => s1
      | b :: rest => ((s1.modLine x fun l => { l with store := rest }).burstRow x b).faultSettle x

/-! ### Unlocking Bridle (R123) -/

def unlockStage (s : State) (x : Side) : Nat := s.f F.UPB_BRIDLE_STAT_UNLOCK_STAGE (sideOff x)

/-- A write of UPB_BRIDLE_UNLOCK: the value of step 1 starts the sequence at any time (DEDUCED, log 71), that of step 2 goes on
from stage 1, any other value ends it. -/
def unlockWrite (s : State) (x : Side) (v : Word) : State :=
  s.setF F.UPB_BRIDLE_STAT_UNLOCK_STAGE (sideOff x)
    (if v = 0x0000B1D1#32 then 1 else if v = 0x0000E5C0#32 && s.unlockStage x = 1 then 2 else 0)

/-- A write of UPB_BRIDLE_STAT: 1 to ROGUE at stage 2 clears the latch. -/
def rogueClearOp (s : State) (x : Side) (v : Word) : State :=
  if F.UPB_BRIDLE_STAT_ROGUE.of v = 0 || s.unlockStage x ≠ 2 then s
  else
    let was := s.rogue x
    let s1 := (s.setFlag F.UPB_BRIDLE_STAT_ROGUE (sideOff x) false).setF F.UPB_BRIDLE_STAT_UNLOCK_STAGE (sideOff x) 0
    (if was then s1.lineEvent x 22 0 else s1).prtEval

/-! ### Messages, EqD, allocations (R114, R118) -/

/-- A write of UPB_MSG_PUSH. -/
def msgPush (s : State) (x : Side) (v : Word) : State :=
  let i := sideOff x
  if F.UPB_MSG_PUSH_PUSH.of v = 0 then s
  else if (s.line x).msgs.length ≥ 16 then s.setFlag F.UPB_MSG_STAT_OVF i true
  else
    let m := (List.range 16).flatMap fun k => beBytes 4 (s.reg (0x406100 + i + 4 * k)).toNat
    (s.modLine x fun l => { l with msgs := l.msgs ++ [m] }).setF F.UPB_MSG_STAT_COUNT i ((s.line x).msgs.length + 1)

/-- A write of UPB_EQD (R118). -/
def eqdWriteOp (s : State) (x : Side) (v : Word) : State :=
  (s.setF F.UPB_EQD_EQD (sideOff x) (F.UPB_EQD_EQD.of v)).setFlag F.UPB_EQD_PENDING (sideOff x) true

/-! ### Activation (R125, R126) -/

/-- A command the state does not admit (R126). -/
def actRefuse (s : State) (x : Side) (cmd : Nat) : State := s.lineEvent x 27 (cmd + 16 * s.actState x)

def actAssign (s : State) (x : Side) : State :=
  let i := sideOff x
  let tid := s.f F.UPB_TID_TID i
  if s.actState x ≠ 1 ∨ tid > 0xFFFD then s.actRefuse x 1
  else
    let s1 := (s.setF F.DSF_TID_TID i tid).setFlag F.DSF_TID_VALID i true
    ((s1.eqdZero x).modLine x fun l => { l with to1 := s.tick + 1 }).actGo x 2 0

/-- TO1 has run its length (R128). -/
def to1Due (s : State) (x : Side) : Bool :=
  decide ((s.line x).to1 ≠ 0) && decide ((s.line x).to1 - 1 + s.f F.UPB_TMR_TO1 (sideOff x) * 777600 ≤ s.tick)

/-- TO1 expires in ranging (R128). -/
def to1Expire (s : State) (x : Side) : State :=
  if s.actState x = 2 ∧ (s.line x).to1 ≠ 0 then (((s.deactivate x).actGo x 1 4).lineEvent x 25 0).prtEval else s

/-- RANGED: expiry of TO1 in the same tick comes first (R128). -/
def actRanged (s : State) (x : Side) : State :=
  let s := if s.to1Due x then s.to1Expire x else s
  if s.actState x ≠ 2 then s.actRefuse x 2
  else (s.modLine x fun l => { l with to1 := 0 }).actGo x 3 0

def actDeactivate (s : State) (x : Side) : State :=
  if s.actState x ≠ 2 ∧ s.actState x ≠ 3 then s.actRefuse x 3
  else (s.deactivate x).actGo x 1 0

def actDisable (s : State) (x : Side) : State :=
  match s.actState x with
  | 5 => s.actRefuse x 4
  | 4 => (s.storeEmpty x).setF F.UPB_ACT_RETURN (sideOff x) 5
  | _ => (((s.storeEmpty x).modLine x fun l => { l with to1 := 0 }).stopBurst x).actGo x 5 0

def actEnable (s : State) (x : Side) : State :=
  match s.actState x with
  | 5 => s.actGo x 0 0
  | 4 => if s.f F.UPB_ACT_RETURN (sideOff x) = 5 then s.setF F.UPB_ACT_RETURN (sideOff x) 0 else s.actRefuse x 5
  | _ => s.actRefuse x 5

/-- A write of UPB_ACT: CMD is a command, 0 and 6 to 7 are refused. -/
def actCmd (s : State) (x : Side) (cmd : Nat) : State :=
  (match cmd with
    | 1 => s.actAssign x
    | 2 => s.actRanged x
    | 3 => s.actDeactivate x
    | 4 => s.actDisable x
    | 5 => s.actEnable x
    | c => s.actRefuse x c).prtEval

/-- A write of UPB_ACT by the requester MSG_OWNER names. -/
def actWrite (s : State) (q : Req) (x : Side) (cmd : Nat) : State :=
  s.guardW q (0x406004 + sideOff x) fun s => s.msgOwnerWrite x q fun s => s.actCmd x cmd

/-- A profile of the side is valid. -/
def anyProfile (s : State) (x : Side) : Bool :=
  (List.range 8).any fun n => s.flag F.UPB_PROF_VALID (sideOff x + 0x20 * n)

end State

/-! ### The commands -/

/-- BWMAP_ENTRY_RECEIVE (R68, R79, R96, R103, R105): the next entry of the frame's map; the last one ends the map, and its
copies leave. -/
def execBwmapEntryReceive (x : Side) (ghec : Hec) (delay : Nat) (s : State) : Host.Outcome State Fault Refusal :=
  let l := s.line x
  let k := l.mapAt
  .next (if s.frameUsable x && decide (k < l.mapN) then
    let pos := if s.drixis x then mapStart + 16 * k else Config.gEntryAt l.info k
    let bytes := s.infoAt x pos (if s.drixis x then 16 else Config.gEntryBytes)
    let marked := s.lineMarked x pos bytes.length
    let s1 := (s.modLine x fun l => { l with
      mapAt := k + 1, mapBytes := if marked then l.mapBytes else l.mapBytes ++ bytes }).entryOp x k bytes marked ghec delay
    if k + 1 = l.mapN then (s1.mapEnd x).mapCopy x true else s1
    else s)

/-- BURST_ASSEMBLY_START (R42): the earliest burst not yet assembled. `bad` names frames, as queue and place in it, whose data
the reads of the assembly find uncorrectable (R352). -/
def execBurstAssemblyStart (x : Side) (bad : List (Fin 6272 × Nat)) (s : State) : Host.Outcome State Fault Refusal :=
  .next ((bad.foldl (fun s b => s.markBad b.1.val b.2) s).asmFirst x)

/-- BURST_TRANSMIT (R46, R116, R119). -/
def execBurstTransmit (x : Side) (s : State) : Host.Outcome State Fault Refusal := .next (s.transmitOp x)

/-- BRIDLE_UNLOCK_STAGE (R123): only the host writes UPB_BRIDLE_UNLOCK. -/
def execBridleUnlockStage (q : Req) (x : Side) (v : Word) (s : State) : Host.Outcome State Fault Refusal :=
  .next (s.guardHostW q (0x406188 + sideOff x) fun s => s.unlockWrite x v)

/-- BRIDLE_UNLOCK_TIMEOUT (R123): more than 1 ms since the last step. -/
def execBridleUnlockTimeout (x : Side) (s : State) : Host.Outcome State Fault Refusal :=
  .next (s.setF F.UPB_BRIDLE_STAT_UNLOCK_STAGE (sideOff x) 0)

/-- ROGUE_CLEAR (R123): a write of UPB_BRIDLE_STAT by the host. -/
def execRogueClear (q : Req) (x : Side) (v : Word) (s : State) : Host.Outcome State Fault Refusal :=
  .next (s.guardHostW q (0x406184 + sideOff x) fun s => s.rogueClearOp x v)

/-- UPSTREAM_MESSAGE_PUSH (R114). -/
def execUpstreamMessagePush (q : Req) (x : Side) (v : Word) (s : State) : Host.Outcome State Fault Refusal :=
  .next (s.guardW q (0x406140 + sideOff x) fun s => s.msgOwnerWrite x q fun s => s.msgPush x v)

/-- EQD_WRITE (R118). -/
def execEqdWrite (q : Req) (x : Side) (v : Word) (s : State) : Host.Outcome State Fault Refusal :=
  .next (s.guardW q (0x406020 + sideOff x) fun s => s.msgOwnerWrite x q fun s => s.eqdWriteOp x v)

/-- ASSIGN_TID (R126). -/
def execUpbAssignTid (q : Req) (x : Side) (s : State) : Host.Outcome State Fault Refusal := .next (s.actWrite q x 1)

/-- RANGED (R126). -/
def execUpbRanged (q : Req) (x : Side) (s : State) : Host.Outcome State Fault Refusal := .next (s.actWrite q x 2)

/-- DEACTIVATE (R126). -/
def execUpbDeactivate (q : Req) (x : Side) (s : State) : Host.Outcome State Fault Refusal := .next (s.actWrite q x 3)

/-- DISABLE (R126). -/
def execUpbDisable (q : Req) (x : Side) (s : State) : Host.Outcome State Fault Refusal := .next (s.actWrite q x 4)

/-- ENABLE (R126). -/
def execUpbEnable (q : Req) (x : Side) (s : State) : Host.Outcome State Fault Refusal := .next (s.actWrite q x 5)

/-- SERIAL_NUMBER_ENTER (R125): from initial, with DS_VALID = 1 and a valid profile. -/
def execUpbSerialNumberEnter (x : Side) (s : State) : Host.Outcome State Fault Refusal :=
  .next (if s.actState x = 0 ∧ s.dsValid x ∧ s.anyProfile x ∧ s.f F.PWR_STATE_STATE ≠ 2 then (s.actGo x 1 5).prtEval else s)

/-- TO1_EXPIRE (R128). -/
def execTo1Expire (x : Side) (s : State) : Host.Outcome State Fault Refusal :=
  .next (s.to1Expire x)

end Sys2Proof.Machine
end

