-- ==== Sys2Proof/Machine/Client.lean ====
section
/-! DEFINITION. The client ports (spec/11): layout, link, receive path and ingress store, preemption and the MACs. -/

namespace Sys2Proof.Machine

/-- Counter i of port p. -/
def cliCnt (p i : Nat) : Nat := 0x1110200 + 0x1000 * p + 8 * i

namespace State

/-- A port exists in the layout (R293). -/
def portIs (s : State) (p : Nat) : Bool := decide (p < s.portCount)
def portEn (s : State) (p : Nat) : Bool := s.flag F.CLI_PORT_CFG_EN (0x1000 * p)
def portLink (s : State) (p : Nat) : Bool := s.flag F.CLI_PORT_STAT_LINK (0x1000 * p)

/-- The port runs a FEC (R293). -/
def portFec (s : State) (p : Nat) : Bool := s.f F.CLI_CFG_MODE != 4 || s.flag F.CLI_PORT_CFG_FEC (0x1000 * p)

/-- A refused configuration write (R294). -/
def cliRefuse (s : State) (fec : Bool) (p : Nat) : State :=
  (s.setFlag F.CLI_CFG_CFG_REFUSED 0 true).raise 433 1 0 ((if fec then 1 else 0) + 2 * p)

/-- A write of CLI_CFG (R293, R294). FEC reads 0 outside mode 4. -/
def cliCfgWrite (s : State) (v : Word) : State :=
  let m := F.CLI_CFG_MODE.of v
  let r := F.CLI_CFG_LANE_RATE.of v
  let change := decide (m ≠ s.f F.CLI_CFG_MODE ∨ r ≠ s.f F.CLI_CFG_LANE_RATE)
  if decide (5 ≤ m) || (change && (List.range 8).any s.portEn) then s.cliRefuse false 0
  else
    let s1 := (s.setF F.CLI_CFG_MODE 0 m).setF F.CLI_CFG_LANE_RATE 0 r
    let s2 := if F.CLI_CFG_CFG_REFUSED.of v = 1 then s1.setFlag F.CLI_CFG_CFG_REFUSED 0 false else s1
    if m = 4 then s2 else (List.range 8).foldl (fun s p => s.setFlag F.CLI_PORT_CFG_FEC (0x1000 * p) false) s2

/-! ### Receive (R296 to R301) -/

/-- Sixteenths of a tick of `n` 256ths of a nanosecond, rounded to the nearest. -/
def ns256 (n : Int) : Int := roundInt (n * 7776) (625 * 256)

/-- Entry n of a port's filter as it stood at `t`, in sixteenths of a tick: its address, if it is valid (R297). -/
def ucastAt (s : State) (p n t : Nat) : Option Nat :=
  let a := 0x1110040 + 0x1000 * p + 8 * n
  let w := match (s.cli.ucast.filter fun e => e.key == 16 * p + n && decide (t < 16 * e.tick)).getLast? with
    | some e => (e.lo, e.hi)
    | none => (s.reg a, s.reg (a + 4))
  if F.CLI_UCAST_HI_VALID.of w.2 = 1 then some (F.CLI_UCAST_HI_ADDR.of w.2 * 2 ^ 32 + w.1.toNat) else none

/-- When the destination address of a frame whose first bit arrived at `t0` had arrived, in sixteenths of a tick (R297). -/
def daTime (s : State) (t0 : Nat) : Nat := t0 + 48 * 7776 / (625 * s.portGbps)

/-- The filter accepts a destination address that had arrived at `t` (R297). -/
def daAccepted (s : State) (p : Nat) (d : List Byte) (t : Nat) : Bool :=
  let o := 0x1000 * p
  let da := beAt d 0 6
  s.flag F.CLI_PORT_CFG_PROMISC o
    || (if da = 0xFFFFFFFFFFFF then s.flag F.CLI_PORT_CFG_BCAST o
      else if bitOf (da / 2 ^ 40) 0 then s.flag F.CLI_PORT_CFG_ALLMC o
      else (List.range 16).any fun n => s.ucastAt p n t == some da)

/-- The Express choice of RX_EXP (R298); `emac` is the express MAC service. -/
def rxExpress (s : State) (p : Nat) (emac : Bool) (d : List Byte) : Bool :=
  let m := s.f F.CLI_PORT_CFG_RX_EXP (0x1000 * p)
  let tag := [0x8100, 0x88A8, 0x9100].contains (beAt d 12 2) && decide (16 ≤ d.length)
    && bitOf (s.f F.CLI_PORT_CFG_EXP_PCP (0x1000 * p)) (beAt d 14 1 / 32)
  (bitOf m 0 && emac && s.pmpActive p) || (bitOf m 1 && tag)

/-- Words of 64 bytes of a port's ingress store in use (R299): those of waiting frames, and of a frame of the port that crossing
4 has taken in part. -/
def rxStored (s : State) (p : Nat) : Nat :=
  let taken (exp : Bool) (fs : List Frame) : Nat :=
    if fs.getLast?.any (fun f => f.port == p) then xEntries fs - xDepth 4 exp else 0
  xEntries (s.cli.rx.filter fun f => f.port == p) + taken true (s.xing 4).exp + taken false (s.xing 4).other

/-- Entries of its own queue of crossing 4 that a frame of a kind still finds behind the stored ones: none while one of that kind
waits. -/
def rxAhead (s : State) (exp : Bool) : Nat :=
  if !s.xOpen 4 || s.cli.rx.any (fun f => f.exp == exp) then 0 else xDepth 4 exp - s.xHeld 4 exp

/-- Crossing 4 takes the oldest stored frame of each kind that finds room, Express frames first (R299); one that the overflow
of its store has ended counts in RX_OVF alone. -/
def cliFill (s : State) : Nat → State
  | 0 => s
  | k + 1 =>
    let fit (exp : Bool) := (s.cli.rx.find? fun f => f.exp == exp).filter fun f => s.xRoom 4 exp f.data.length
    match (fit true).orElse fun _ => fit false with
    | none => s
    | some f =>
      (((s.modCli fun c => { c with rx := c.rx.erase f }).xPush 4 { f with ovf := false }).bumpIf (f.exp && !f.ovf)
        (cliCnt f.port 9)).cliFill k

def cliDrainRx (s : State) : State := s.cliFill s.cli.rx.length

/-- The end of a frame enters the ingress store, counted in error counter `c` or as a good frame; without room the frame is ended
by the overflow, which alone counts it (R299). -/
def rxEnter (s : State) (c : Option Nat) (f : Frame) : State :=
  let s1 := s.cliDrainRx
  let room := 1024 - s1.rxStored f.port + s1.rxAhead f.exp
  let n := max 1 (ceilDiv f.data.length 64)
  let put (s : State) (f : Frame) : State := s.modCli fun c => { c with rx := c.rx ++ [f] }
  if n ≤ room then
    let s2 := match c with
      | some i => s1.bump (cliCnt f.port i)
      | none => (s1.bump (cliCnt f.port 0)).bump (cliCnt f.port 1) f.data.length
    (put s2 { f with err := c.isSome }).cliDrainRx
  else
    let g : Frame := { f with data := f.data.take (64 * room), err := true, ovf := true }
    let s2 := if room = 0 then s1 else put s1 g
    ((s2.bump (cliCnt f.port 7)).raiseLim ticksPerMs f.port 432 1 0 f.port).cliDrainRx

/-- The first matching case of R296, in the table's order: its counter, or none for a good frame. A frame cut short has no FCS. -/
def rxCase (s : State) (p : Nat) (bytes : List Byte) (accepted abort pcsErr : Bool) : Option Nat :=
  let n := bytes.length - 4
  if pcsErr || (!abort && leNat (bytes.drop n) != crc32 (bytes.take n)) then some 2
  else if bytes.length < 64 then some 3
  else if bytes.length > s.maxLen p then some 4
  else if beAt bytes 12 2 = 0x8808 then some 5
  else if !accepted then some 6
  else if abort then some 8
  else none

/-- A frame whose bytes (FCS included, preamble removed) the MAC has received; `t0` is its first bit in sixteenths of a tick
(R281), `accepted` the filter's verdict, `emac` the express MAC service, `abort` an end of ingress inside the frame (R300). The
Express choice and its policer judge every frame at its last byte, in error or not (R298). -/
def rxFrame (s : State) (p : Nat) (bytes : List Byte) (t0 : Nat) (accepted emac abort pcsErr : Bool) : State :=
  let stamp := ((t0 : Nat) + ns256 (signedOf (s.f F.TIM_CLI_DLY_RX (4 * p)) 16)).toNat
  let c := s.rxCase p bytes accepted abort pcsErr
  let d := if c = some 4 then bytes.take (s.maxLen p) else if abort then bytes else bytes.take (bytes.length - 4)
  let f : Frame := { data := d, src := 2, port := p, arrival := s.tick, stamp := stamp, stampTod := s.todOfStamp stamp }
  let chosen := s.rxExpress p emac d
  let m := if chosen then s.xpol (520 + p) d.length else (false, s)
  let s1 := if chosen && !m.1 then m.2.xpolEvent (520 + p) false else m.2
  let s2 := s1.rxEnter c { f with exp := m.1 }
  if c.isNone then s2.tsReceive (if p < 4 then 2 else 3) p f else s2

/-! ### Reassembly (R301) -/

def openOf (s : State) (p : Nat) : Option RxOpen := sget (fun _ => none) s.cli.part p
def setOpen (s : State) (p : Nat) (o : Option RxOpen) : State :=
  s.modCli fun c => { c with part := sset (fun _ => none) c.part p o }

end State

/-- The mCRC of a fragment (PRESUMED, log 217): the FCS of the frame's bytes so far with the last two bytes sent inverted. -/
def mCrc (d : List Byte) : List Byte := leBytes 4 (crc32 d ^^^ 0xFFFF0000)

/-- The bytes of a frame so far, its last fragment's check bytes included, end with an mCRC: more fragments follow. -/
def moreFollow (bytes : List Byte) : Bool := bytes.drop (bytes.length - 4) == mCrc (bytes.take (bytes.length - 4))

namespace State

/-- A reassembly error (R301). -/
def assyErr (s : State) (p : Nat) : State := (s.bump (cliCnt p 10)).raiseLim ticksPerMs p 434 1 0 p

/-- The start of a preemptable frame: one left open is discarded; a whole frame goes on, a first fragment opens one (R301). -/
def rxFirst (s : State) (p count : Nat) (bytes : List Byte) (t0 : Nat) (abort pcsErr : Bool) : State :=
  let s1 := if (s.openOf p).isSome then (s.setOpen p none).assyErr p else s
  let ok := s.daAccepted p bytes (s.daTime t0)
  if s.pmpActive p && !abort && moreFollow bytes then
    s1.setOpen p (some { bytes := bytes.take (bytes.length - 4), count := count, start := t0, accepted := ok, pcsErr := pcsErr })
  else s1.rxFrame p bytes t0 ok false abort pcsErr

/-- A continuation fragment: one that does not follow its predecessor is discarded with the open frame (R301; that the fragment
counts run 0, 1, 2, 3, 0 is IEEE 802.3br's, log 217). -/
def rxCont (s : State) (p count frag : Nat) (bytes : List Byte) (abort pcsErr : Bool) : State :=
  match s.openOf p with
  | none => s.assyErr p
  | some o =>
    let all := o.bytes ++ bytes
    if o.count ≠ count || o.next ≠ frag then (s.setOpen p none).assyErr p
    else if !abort && moreFollow all then
      s.setOpen p (some { o with bytes := all.take (all.length - 4), next := (frag + 1) % 4, pcsErr := o.pcsErr || pcsErr })
    else (s.setOpen p none).rxFrame p all o.start o.accepted false abort (o.pcsErr || pcsErr)

/-- What a port receives behind a start delimiter of frames (R301, R303); without preemption a continuation starts no frame. -/
def rxPart (s : State) (p : Nat) (smd : Smd) (bytes : List Byte) (first : Nat) (abort pcsErr : Bool) : State :=
  let t0 := s.tick * 16 - first
  match smd with
  | .express => s.rxFrame p bytes t0 (s.daAccepted p bytes (s.daTime t0)) true abort pcsErr
  | .start c => s.rxFirst p c.val bytes t0 abort pcsErr
  | .cont c f => if s.pmpActive p then s.rxCont p c.val f.val bytes abort pcsErr else s
  | _ => s

/-- Ingress of a port stops (R300): the frame in progress, and one left open between its fragments, end with an error. -/
def rxAbort (s : State) (p : Nat) (smd : Smd) (bytes : List Byte) (first : Nat) : State :=
  let s1 := if bytes.length = 0 then s else s.rxPart p smd bytes first true false
  match s1.openOf p with
  | some o => (s1.setOpen p none).rxFrame p o.bytes o.start o.accepted false true o.pcsErr
  | none => s1

/-! ### Preemption (R303) -/

/-- The verify state and ACTIVE of a port; a change of the state raises event 424 + p. -/
def pmpGo (s : State) (p v : Nat) (act : Bool) : State :=
  let ch := s.f F.CLI_PMP_STAT_VSTATE (0x1000 * p) != v
  ((s.setF F.CLI_PMP_STAT_VSTATE (0x1000 * p) v).setFlag F.CLI_PMP_STAT_ACTIVE (0x1000 * p) act).raiseIf ch (424 + p) 1 0 v

/-- The procedure starts: VERIFYING with its first attempt while the link is up, else INIT. -/
def pmpStart (s : State) (p : Nat) : State :=
  if s.portLink p then
    (s.modCli fun c => { c with tries := sset (fun _ => 0) c.tries p 1 }).pmpGo p 2 false
  else s.pmpGo p 1 false

/-- PMP_EN or VERIFY has changed. -/
def pmpEval (s : State) (p : Nat) : State :=
  if !s.flag F.CLI_PMP_CFG_PMP_EN (0x1000 * p) then s.pmpGo p 0 false
  else if s.flag F.CLI_PMP_CFG_VERIFY (0x1000 * p) then s.pmpStart p
  else s.pmpGo p 0 true

/-- The link of a port with the procedure has changed (IEEE 802.3br: it starts anew). -/
def pmpLink (s : State) (p : Nat) : State :=
  if s.flag F.CLI_PMP_CFG_PMP_EN (0x1000 * p) && s.flag F.CLI_PMP_CFG_VERIFY (0x1000 * p) then s.pmpStart p else s

/-- A write of CLI_PMP_CFG: reserved bits read 0, class 7 keeps the express service. -/
def pmpWrite (s : State) (p : Nat) (v : Word) : State :=
  if !s.portIs p then s
  else
    let a := 0x1110010 + 0x1000 * p
    let old := s.reg a
    let s1 := s.setReg a (v &&& 0xC003FFFF#32 ||| 0x80#32)
    if old &&& 0xC0000000#32 = v &&& 0xC0000000#32 then s1 else s1.pmpEval p

/-- A response to a verify request (SMD-R) ends the procedure. -/
def pmpResponse (s : State) (p : Nat) : State :=
  if s.f F.CLI_PMP_STAT_VSTATE (0x1000 * p) = 2 then s.pmpGo p 3 true else s

/-- verifyTime has passed: another attempt, or FAILED after the third (R303). -/
def pmpTimeout (s : State) (p : Nat) : State :=
  if s.f F.CLI_PMP_STAT_VSTATE (0x1000 * p) ≠ 2 then s
  else
    let n := sget (fun _ => 0) s.cli.tries p
    if n < 3 then s.modCli fun c => { c with tries := sset (fun _ => 0) c.tries p (n + 1) } else s.pmpGo p 4 false

/-! ### Transmit (R302, R304, R306) -/

/-- Length of a byte at the port rate, and the present time, in 1/31250 tick (1/24300 ns). -/
def portByte (s : State) : Nat := 486 * (400 / s.portGbps)
def portNow (s : State) : Nat := s.tick * 31250

/-- Egress stamp in sixteenths of a tick of a frame whose preamble starts now (R281, R295). -/
def portStamp (s : State) (p : Nat) : Nat :=
  let ns := 256 * 64 * (400 / s.portGbps) + 16 * 400 * s.f F.CLI_PORT_LAT_TX (0x1000 * p)
  ((s.tick * 16 : Nat) + roundInt (((ns : Nat) + 400 * signedOf (s.f F.TIM_CLI_DLY_TX (4 * p)) 16) * 7776) (400 * 256 * 625)).toNat

def setTx (s : State) (p : Nat) (l : List Frame) : State :=
  s.modCli fun c => { c with tx := sset (fun _ => []) c.tx p l }
def setTxExp (s : State) (p : Nat) (l : List Frame) : State :=
  s.modCli fun c => { c with txExp := sset (fun _ => []) c.txExp p l }
def setMac (s : State) (p : Nat) (m : Option MacTx) : State :=
  s.modCli fun c => { c with mac := sset (fun _ => none) c.mac p m }
def setCut (s : State) (p : Nat) (m : Option MacTx) : State :=
  s.modCli fun c => { c with cut := sset (fun _ => none) c.cut p m }

/-- A frame is discarded and counted in counter `a`. -/
def txDrop (s : State) (a : Nat) (f : Frame) : State := (s.bump a).padDrop f

/-- Frames that have crossed reach their MACs; those of a port without a link are discarded (R302). -/
def cliArrive (s : State) (f : Frame) : State :=
  let p := s.qNode f.outQ - 512
  if !s.portLink p then s.txDrop (cliCnt p 15) f
  else if f.exp then s.setTxExp p (s.txExpOf p ++ [f])
  else s.setTx p (s.txOf p ++ [f])

def cliDrainTx (s : State) : State :=
  if s.xReadable 5 && s.regionUp 3 then
    let x := s.xing 5
    (x.exp ++ x.other).foldl cliArrive (s.setXing 5 { x with exp := [], other := [] })
  else s

/-- Frame bytes and FCS on the lanes (R302): padded to 60 bytes. -/
def wireBytes (d : List Byte) : List Byte :=
  let x := d ++ List.replicate (60 - d.length) 0
  x ++ leBytes 4 (crc32 x)

/-- Length with FCS of a frame on the lanes. -/
def wireLen (d : List Byte) : Nat := max 60 d.length + 4

def setSent (s : State) (p : Nat) (bs : List Byte) : State :=
  s.modCli fun c => { c with sent := sset (fun _ => []) c.sent p bs }

/-- The last fragment, or all, of a frame as sent; a fragment that does not end it, with its mCRC (R304); and a frame ended after
`k` bytes of the fragment, with an inverted FCS (R308). -/
def sentEnd (m : MacTx) : List Byte := (wireBytes m.frame.data).drop m.off
def sentPart (m : MacTx) : List Byte :=
  let x := (wireBytes m.frame.data).take (m.off + m.n)
  x.drop m.off ++ mCrc x
def sentCut (m : MacTx) (k : Nat) : List Byte :=
  let x := (wireBytes m.frame.data).take (m.off + k)
  x.drop m.off ++ leBytes 4 (0xFFFFFFFF - crc32 x)

/-- A frame has left whole: counts, its time-stamp entry and its cells (R285). -/
def txDone (s : State) (p : Nat) (m : MacTx) : State :=
  let s1 := ((s.bump (cliCnt p 11)).bump (cliCnt p 12) (wireLen m.frame.data)).setSent p (sentEnd m)
  let s1 := s1.ptpCount m.ptp
  let s2 := if m.frame.src = 3 && m.frame.tsReq then
      s1.tsWrite (2 * (if p < 4 then 2 else 3)) m.frame.late p 0 m.frame.tag (s1.todOfStamp m.es)
    else s1
  s2.padDrop m.frame

/-- End of a fragment or frame on the lanes: preamble, bytes, and the mCRC of a fragment that does not end its frame. -/
def macFin (s : State) (m : MacTx) : Nat := m.start + (8 + m.n + (if m.whole then 0 else 4)) * s.portByte

/-- What has ended on the lanes by now leaves them; the gap of 12 bytes follows (R302). -/
def macSettle (s : State) (p : Nat) : State :=
  match s.macOf p with
  | none => s
  | some m =>
    if s.macFin m > s.portNow then s
    else
      let s1 := ((s.setMac p none).modCli fun c => { c with free := sset (fun _ => 0) c.free p (s.macFin m + 12 * s.portByte) })
      if m.whole then s1.txDone p m
      else ((s1.bump (cliCnt p 13)).setSent p (sentPart m)).setCut p (some { m with off := m.off + m.n })

/-- Bytes of the fragment on the lanes that have gone out, the byte under way among them. -/
def bytesOut (s : State) (m : MacTx) : Nat := min m.n (ceilDiv (s.portNow - m.start) s.portByte - 8)

/-- An end of the frame in progress with an inverted FCS (R308, R352). -/
def macAbort (s : State) (p : Nat) (m : MacTx) (a : Nat) : State :=
  (((s.setMac p none).setCut p none).setSent p (sentCut m (s.bytesOut m))).txDrop a m.frame

/-- A preemptable frame of the port: its class does not use the express MAC service while preemption is active. -/
def preemptable (s : State) (p : Nat) (f : Frame) : Bool :=
  s.pmpActive p && !f.exp && !s.emacClass p (s.qClass f.outQ)

/-- An express MAC frame waits (R304). -/
def expressWaits (s : State) (p : Nat) : Bool :=
  !(s.txExpOf p).isEmpty || (s.txOf p).any fun f => !s.preemptable p f

/-- Least length of a fragment (R304). -/
def minFrag (s : State) (p : Nat) : Nat := 64 * (1 + s.f F.CLI_PMP_CFG_ADD_FRAG (0x1000 * p)) - 4

/-- The end of a preemptable fragment (R306) whose gate closes `close` 16384ths of a byte time after its preamble began: its
length and whether it ends the frame, with `rest` bytes of the frame left and the bytes before `low` gone or too few. -/
def fragEnd (close byte rest low : Nat) : Nat × Bool :=
  let last := close / byte
  let next := max low (ceilDiv close byte - 8)
  if 8 + rest ≤ last || decide (rest < low + 64) then (rest, true)
  else if low + 12 ≤ last then (min (last - 12) (rest - 64), false)
  else if next + 64 ≤ rest then (next, false)
  else (rest, true)

/-- For how many ns from the present ToD the gate of a class stays open, none for ever: the operating list runs until a pending
take-over, whose time is known (R257), the new one from there on. -/
def gateOpenFor (s : State) (p cls : Nat) : Option Nat :=
  let g := 512 + p
  let now := if s.gateAlways g cls then none else some (s.gateLeft g cls s.todNs)
  match (s.gate g).pending with
  | none => now
  | some (t, _) =>
    if t ≤ s.todNs || now.any (fun n => decide (n < t - s.todNs)) then now
    else
      let z := s.gateTakeover g
      if z.gateAlways g cls then none else some (t - s.todNs + z.gateLeft g cls t)

/-- When the gate of a class closes, in 1/16384 of 1/31250 tick, reckoned from the present ToD; now when it is closed, none
when it never closes (R306). -/
def gateClose (s : State) (p cls : Nat) : Option Nat :=
  (s.gateOpenFor p cls).map fun n => s.portNow * 16384 + ((s.todNs + n) * 65536 * 243 - s.tm.tod) * 25

/-- The end of the preemptable fragment on the lanes as its gate, and the time of day, now stand (R306). Once the gate has closed
it is settled. -/
def macPlan (s : State) (p : Nat) (m : MacTx) : MacTx :=
  let rest := wireLen m.frame.data - m.off
  if !m.pre || m.fixed then m
  else if m.due.any (fun t => decide (t ≤ s.portNow * 16384)) then { m with fixed := true }
  else match (if s.pmpActive p then s.gateClose p (s.qClass m.frame.outQ) else none) with
    | none => { m with n := rest, whole := true, due := none }
    | some t =>
      let r := fragEnd (t - m.start * 16384) (s.portByte * 16384) rest
        (max (s.minFrag p) (ceilDiv (s.portNow - m.start) s.portByte - 8))
      { m with n := r.1, whole := r.2, due := some t, fixed := decide (t ≤ s.portNow * 16384) }

/-- The gate of a preemptable frame is open now. -/
def preGateOpen (s : State) (p cls : Nat) : Bool :=
  s.gateAlways (512 + p) cls || decide (0 < s.gateLeft (512 + p) cls s.todNs)

/-- An express MAC frame interrupts the preemptable frame on the lanes at the first allowed point (R304). -/
def macCut (s : State) (p : Nat) : State :=
  match s.macOf p with
  | none => s
  | some m =>
    let rest := wireLen m.frame.data - m.off
    let n := max (s.minFrag p) (ceilDiv (s.portNow - m.start) s.portByte - 8)
    if m.pre && s.pmpActive p && s.expressWaits p && decide (n < m.n) && decide (n + 64 ≤ rest) then
      s.setMac p (some { m with n := n, whole := false, fixed := true })
    else s

/-- A tick of a port's MAC: what has ended leaves the lanes, and the end of a preemptable fragment follows its gate. -/
def macTick (s : State) (p : Nat) : State :=
  let s1 := s.macSettle p
  match s1.macOf p with
  | some m => s1.setMac p (some (s1.macPlan p m))
  | none => s1

/-- A frame too long for the port is discarded at the MAC (R302). -/
def dropLong (s : State) (p : Nat) : State :=
  let bad (f : Frame) := decide (wireLen f.data > s.maxLen p)
  let s1 := (s.setTxExp p ((s.txExpOf p).filter fun f => !bad f)).setTx p ((s.txOf p).filter fun f => !bad f)
  (s.txExpOf p ++ s.txOf p).foldl (fun s' f => if bad f then s'.txDrop (cliCnt p 14) f else s') s1

/-- The frame the MAC starts next (R302, R303): Express, then the express MAC service, then preemptable frames. -/
def macNext (s : State) (p : Nat) : Option Frame :=
  match s.txExpOf p with
  | f :: _ => some f
  | [] => match (s.txOf p).find? fun f => !s.preemptable p f with
    | some f => some f
    | none => if (s.cutOf p).isSome then none else (s.txOf p).head?.filter fun f => s.preGateOpen p (s.qClass f.outQ)

/-- A frame starts on the lanes; its cells' data may be uncorrectable: it is then never sent (R352). -/
def macStart (s : State) (p : Nat) (f : Frame) (ue : Bool) : State :=
  let s1 := if f.exp then s.setTxExp p ((s.txExpOf p).erase f) else s.setTx p ((s.txOf p).erase f)
  let u := s1.padRead f ue
  if u.1 then u.2.padDrop f
  else
    let s1 := u.2
    let es := s.portStamp p
    let pre := s.preemptable p f
    let e := s1.ptpEgress (2 + p) f es
    let d := e.1
    s1.setMac p (some (s.macPlan p { frame := { f with data := d }, n := wireLen d, start := s.portNow, pre := pre,
                                     es := es, ptp := e.2 }))

/-- The rest of an interrupted frame resumes while its gate is open (R306). -/
def macResume (s : State) (p : Nat) : State :=
  match s.cutOf p with
  | none => s
  | some m =>
    if s.preGateOpen p (s.qClass m.frame.outQ) then
      (s.setCut p none).setMac p (some (s.macPlan p { m with n := wireLen m.frame.data - m.off, whole := true,
                                                             start := s.portNow, due := none, fixed := false }))
    else s

/-- The MAC of a port acts: what has ended leaves the lanes, an express frame interrupts, or the next frame starts once the
gap is over; a frame with a launch time is held until its stamp reaches it (R287). -/
def macOp (s : State) (p : Nat) (ue : Bool) : State :=
  if !s.portIs p || !s.regionUp 3 then s
  else
    let s1 := s.cliDrainTx.macTick p
    match s1.macOf p with
    | some m =>
      if ue then
        let g := s1.takeFree 32
        (g.2.memUeChip (g.1 % 46) 0 0).macAbort p m (memCnt 14)
      else s1.macCut p
    | none =>
      if !s1.portLink p || decide (sget (fun _ => 0) s1.cli.free p > s1.portNow) then s1
      else
        let s2 := s1.dropLong p
        match s2.macNext p with
        | some f =>
          if (f.launch.map fun t => decide (s2.portStamp p < t * 16)).getD false then s2 else s2.macStart p f ue
        | none => s2.macResume p

/-! ### Link (R308) -/

/-- Frames at the MAC of a port whose link fell: the one in progress is aborted, the others are discarded (R302, R308). -/
def txDown (s : State) (p : Nat) : State :=
  let s1 := s.cliDrainTx.macSettle p
  let s2 := match s1.macOf p with | some m => s1.macAbort p m (cliCnt p 16) | none => s1
  let s2 := match s1.cutOf p with | some m => (s2.setCut p none).txDrop (cliCnt p 16) m.frame | none => s2
  (s2.txExpOf p ++ s2.txOf p).foldl (fun s f => s.txDrop (cliCnt p 15) f) ((s2.setTxExp p []).setTx p [])

/-- LINK falls or rises: event 416 + p with the fault bits (R308). -/
def linkEvent (s : State) (p : Nat) : State :=
  s.raise (416 + p) 1 0 ((s.reg (0x1110004 + 0x1000 * p)).toNat % 8)

def linkFall (s : State) (p : Nat) : State :=
  if s.portLink p then
    let s1 := (s.setFlag F.CLI_PORT_STAT_LINK (0x1000 * p) false).setReg (0x1110008 + 0x1000 * p) 0
    ((s1.txDown p).linkEvent p).pmpLink p
  else s

/-- Latencies of R295 at most, in 1/16 ns: receive and transmit. -/
def portLatMax (s : State) (p : Nat) : Nat × Nat :=
  match s.f F.CLI_CFG_MODE with
  | 0 => (160 * 16, 55 * 16)
  | 1 => (210 * 16, 70 * 16)
  | 2 => (300 * 16, 95 * 16)
  | 3 => (480 * 16, 140 * 16)
  | _ => if s.flag F.CLI_PORT_CFG_FEC (0x1000 * p) then (420 * 16, 120 * 16) else (90 * 16, 60 * 16)

/-- A write of CLI_PORT_CFG (R294, R308); `smd` and `rx` are what the write cuts short on receive, `first` its first bit. -/
def portCfgWrite (s : State) (p : Nat) (v : Word) (smd : Smd) (rx : List Byte) (first : Nat) : State :=
  if !s.portIs p then s
  else
    let o := 0x1000 * p
    let fec := F.CLI_PORT_CFG_FEC.of v = 1 && s.f F.CLI_CFG_MODE == 4
    if s.portEn p && fec != s.flag F.CLI_PORT_CFG_FEC o then s.cliRefuse true p
    else
      let was := s.portEn p
      let en := F.CLI_PORT_CFG_EN.of v = 1
      let s0 := if was && !en && s.portLink p then s.rxAbort p smd rx first else s
      let s1 := (s0.setReg (0x1110000 + o) (v &&& 0xFEFF7FFF#32)).setFlag F.CLI_PORT_CFG_FEC o fec
      if en && !was then s1.setFlag F.CLI_PORT_STAT_LOCAL_FAULT o true
      else if was && !en then
        let s2 := s1.setReg (0x1110004 + o) (if s1.portLink p then 1 else 0)
        s2.linkFall p
      else s1

/-- The PCS reports link OK (R308). -/
def linkRise (s : State) (p rxLat txLat : Nat) : State :=
  let o := 0x1000 * p
  if s.portIs p && s.portEn p && s.regionUp 3 && !s.portLink p then
    let m := s.portLatMax p
    let s1 := s.setReg (0x1110004 + o) (if s.portFec p then 0x19 else 0x09)
    let s2 := (s1.setF F.CLI_PORT_LAT_RX o (min rxLat m.1)).setF F.CLI_PORT_LAT_TX o (min txLat m.2)
    (s2.linkEvent p).pmpLink p
  else s

/-- The port sends remote fault to its partner: it is enabled and has a local fault (R308). -/
def sendsRemoteFault (s : State) (p : Nat) : Bool :=
  s.portIs p && s.portEn p && s.flag F.CLI_PORT_STAT_LOCAL_FAULT (0x1000 * p)

/-- A failure of the link, or a change of the faults of a port whose link is down (R308): a PCS that cannot lock is a local
fault. -/
def linkFail (s : State) (p : Nat) (lf rf pcs : Bool) (smd : Smd) (rx : List Byte) (first : Nat) : State :=
  let o := 0x1000 * p
  if s.portIs p && s.portEn p && s.regionUp 3 then
    let s0 := if s.portLink p then s.rxAbort p smd rx first else s
    let s1 := ((s0.setFlag F.CLI_PORT_STAT_LOCAL_FAULT o (lf || !pcs)).setFlag F.CLI_PORT_STAT_REMOTE_FAULT o rf)
    let s2 := (s1.setFlag F.CLI_PORT_STAT_PCS_LOCK o pcs).setFlag F.CLI_PORT_STAT_FEC_LOCK o (pcs && s1.portFec p)
    s2.linkFall p
  else s

/-! ### Address filter (R297) -/

def ucastLo (s : State) (p n : Nat) : Word := sget (fun _ => 0) s.cli.lo (16 * p + n)

/-- A write of CLI_UCAST_n_LO goes to its shadow; one of _HI commits both. -/
def ucastLoWrite (s : State) (p n : Nat) (v : Word) : State :=
  if s.portIs p then s.modCli fun c => { c with lo := sset (fun _ => 0) c.lo (16 * p + n) v } else s
def ucastCommit (s : State) (p n : Nat) (v : Word) : State :=
  let a := 0x1110040 + 0x1000 * p + 8 * n
  if s.portIs p then
    let old : UcastOld := { tick := s.tick, key := 16 * p + n, lo := s.reg a, hi := s.reg (a + 4) }
    let s1 := s.modCli fun c => { c with ucast := old :: c.ucast.filter fun e => decide (s.tick ≤ e.tick + 8192) }
    (s1.setReg a (s.ucastLo p n)).setReg (a + 4) (v &&& 0x8000FFFF#32)
  else s

end State

/-! ### The commands -/

/-- CLIENT_LAYOUT_WRITE (R293, R294). -/
def execClientLayoutWrite (q : Req) (v : Word) (s : State) : Host.Outcome State Fault Refusal :=
  .next (s.guardW q 0x1100000 fun s => s.cliCfgWrite v)

/-- PORT_ENABLE (R308): a write of CLI_PORT_CFG with EN = 1. -/
def execPortEnable (q : Req) (p : Fin 8) (v : Word) (s : State) : Host.Outcome State Fault Refusal :=
  .next (s.guardW q (0x1110000 + 0x1000 * p.val) fun s =>
    if F.CLI_PORT_CFG_EN.of v = 1 then s.portCfgWrite p.val v .express [] 0 else s)

/-- PORT_DISABLE (R308): a write with EN = 0; `rx` is what has arrived of a frame or fragment in progress, behind `smd` (R300). -/
def execPortDisable (q : Req) (p : Fin 8) (v : Word) (smd : Smd) (rx : List Byte) (first : Nat) (s : State) :
    Host.Outcome State Fault Refusal :=
  .next (s.guardW q (0x1110000 + 0x1000 * p.val) fun s =>
    if F.CLI_PORT_CFG_EN.of v = 0 then s.portCfgWrite p.val v smd rx first else s)

/-- LINK_UP (R295, R308), with the latencies of the new link in 1/16 ns. -/
def execLinkUp (p : Fin 8) (rxLat txLat : Nat) (s : State) : Host.Outcome State Fault Refusal :=
  .next (s.linkRise p.val rxLat txLat)

/-- LINK_DOWN (R308): the faults and PCS lock as they stand, and what has arrived of a frame or fragment in progress. -/
def execLinkDown (p : Fin 8) (lf rf pcs : Bool) (smd : Smd) (rx : List Byte) (first : Nat) (s : State) :
    Host.Outcome State Fault Refusal :=
  .next (s.linkFail p.val lf rf pcs smd rx first)

/-- CLIENT_FRAME_RECEIVE (R296 to R301): an express frame, a preemptable frame or fragment, or an mPacket of the verify procedure,
with its check bytes; `corr` and `unc` are FEC codewords. -/
def execClientFrameReceive (p : Fin 8) (bytes : List Byte) (first : Nat) (smd : Smd) (pcsErr abort : Bool)
    (corr unc : Nat) (s : State) : Host.Outcome State Fault Refusal :=
  .next (
    if !s.portIs p.val || !s.portLink p.val || !s.regionUp 3 then s
    else
      let s1 := (s.bumpIf (s.portFec p.val) (cliCnt p.val 17) corr).bumpIf (s.portFec p.val) (cliCnt p.val 18) unc
      match smd with
      | .respond => s1.pmpResponse p.val
      | _ => s1.rxPart p.val smd bytes first abort pcsErr)

/-- UCAST_COMMIT (R297). -/
def execUcastCommit (q : Req) (p : Fin 8) (n : Fin 16) (v : Word) (s : State) : Host.Outcome State Fault Refusal :=
  .next (s.guardW q (0x1110044 + 0x1000 * p.val + 8 * n.val) fun s => s.ucastCommit p.val n.val v)

/-- CLIENT_FRAME_TRANSMIT (R302 to R306); `ue`: the data read from Paddock is uncorrectable (R352). -/
def execClientFrameTransmit (p : Fin 8) (ue : Bool) (s : State) : Host.Outcome State Fault Refusal :=
  .next (s.macOp p.val ue)

/-- PMP_ENABLE (R303): a write of CLI_PMP_CFG. -/
def execPmpEnable (q : Req) (p : Fin 8) (v : Word) (s : State) : Host.Outcome State Fault Refusal :=
  .next (s.guardW q (0x1110010 + 0x1000 * p.val) fun s => s.pmpWrite p.val v)

/-- VERIFY_TIMEOUT (R303). -/
def execVerifyTimeout (p : Fin 8) (s : State) : Host.Outcome State Fault Refusal := .next (s.pmpTimeout p.val)

end Sys2Proof.Machine
end

