-- ==== Sys2Proof/Machine/Chip.lean ====
section
/-! DEFINITION. The four fault levels, gait and the crossings' recovery (spec/01_architecture.md, R15 to R35). -/

namespace Sys2Proof.Machine

/-- GLB_FLT_CAUSE of a fault: VALID, region, block and cause. -/
def faultWord (region block cause : Nat) : Nat := 2 ^ 31 + region % 16 * 2 ^ 24 + block % 256 * 2 ^ 16 + cause % 2 ^ 16

namespace State

/-! ### Chip level (R19, R20) -/

/-- The dying-gasp path of a chip fault: both sides, unless a side already holds BEN (R19, R124). In the sequence of a supply
loss, which sends the dying gasp itself, a chip fault changes nothing there (R404). -/
def faultLines (s : State) : State :=
  if s.pwr.loss ≠ 0 then s
  else
    let s1 := if s.flag F.UPB_BRIDLE_STAT_FAULT_HOLD (sideOff .a) then s else s.faultSide .a
    if s1.flag F.UPB_BRIDLE_STAT_FAULT_HOLD (sideOff .b) then s1 else s1.faultSide .b

/-- An unrecoverable fault reaches the chip (R19): the record is latched, FAULT_N driven low and the dying gasp
triggered; while a record is held only MORE is set (R20). -/
def chipFault (s : State) (cause region block info : Nat) : State :=
  if s.flag F.GLB_FLT_CAUSE_VALID then (s.setFlag F.GLB_FLT_CAUSE_MORE 0 true).faultLines
  else
    let w := faultWord region block cause
    let s1 := ((((s.setReg 0x40 (BitVec.ofNat 32 w)).setReg 0x44 (BitVec.ofNat 32 info)).setReg 0x48
      (BitVec.ofNat 32 s.tick)).setReg 0x4C (BitVec.ofNat 32 (s.tick / 2 ^ 32)))
    let s2 : State := { s1 with faultN := true }
    s2.faultLines.raise 0 3 0 w

/-- A write of GLB_FLT_CAUSE (R20): VALID written 1 clears the record and releases FAULT_N. -/
def faultClear (s : State) (v : Word) : State :=
  if F.GLB_FLT_CAUSE_VALID.of v = 1 then
    let s1 := (((s.setReg 0x40 0).setReg 0x44 0).setReg 0x48 0).setReg 0x4C 0
    { s1 with faultN := s1.flag F.GRM_WAKE_FAIL_VALID }
  else s

/-! ### Region and block level (R15, R16, R18) -/

/-- The reset action of the crossings that have a block of region `r` on one side (R18, R30). -/
def blockCrossings (s : State) (r : Nat) : List Nat → State
  | [] => s
  | i :: is =>
    let w := decide ((xEnds i).1 = r)
    let here := w || xReads i r
    (if here then (s.xReset i w).xLeave i w else s).blockCrossings r is

/-- Region level (R15, R18): the failing block is reset with its crossings, with a level 2 record; a second reset within 1 s is
passed up as a chip fault as well. -/
def blockReset (s : State) (r block inst src info : Nat) (xngs : List Nat) : State :=
  let k := r * 256 + block
  let last := sget (fun _ => 0) s.blockResets k
  let s1 := s.raise src 2 inst info
  let s2 : State := { s1 with blockResets := sset (fun _ => 0) s1.blockResets k (s1.tick + 1) }
  let s3 := s2.blockCrossings r xngs
  if last ≠ 0 ∧ s.tick + 1 < last + ticksPerS then s3.chipFault 1 r block info else s3

/-- A block quarantines one more of its cells (R15). -/
def cellQuar (s : State) (k : Nat) : State :=
  { s with quarantined := sset (fun _ => 0) s.quarantined k (sget (fun _ => 0) s.quarantined k + 1) }

/-- A fault met by a level 0 cell (R15, R16): a record by every level that acts on it. -/
def cellFaultOp (s : State) (r block inst src info : Nat) (resolved quarOk : Bool) (xngs : List Nat) : State :=
  let s1 := s.raise src 0 inst info
  if resolved then s1
  else
    let s2 := s1.raise src 1 inst info
    if quarOk then s2.cellQuar (r * 256 + block) else s2.blockReset r block inst src info xngs

/-! ### Gait (R22, R23, R226) -/

/-- The gait of `n` ring trips in a window, in u16.16 instructions per microsecond (R22). -/
def gaitOf (n : Nat) : Nat := min (n * 65536 / 10) 0xFFFFFFFF

/-- The record of a team. -/
def team (s : State) (t : Nat) : Team := sget (fun _ => {}) s.teams t
def setTeam (s : State) (t : Nat) (v : Team) : State := { s with teams := sset (fun _ => {}) s.teams t v }

/-- A window ends for team `t`. -/
def gaitTeam (s : State) (t n : Nat) : State :=
  let i := 0x10000 * t
  let s1 := s.setF F.CRS_GAIT_GAIT i (gaitOf n)
  let floor := s1.f F.CRS_GAIT_FLOOR_FLOOR i
  let below := decide (gaitOf n < floor)
  let s2 := s1.raiseIf (below && !(s1.team t).belowFloor) (288 + t) 1 t (gaitOf n)
  s2.setTeam t { s2.team t with belowFloor := below }

/-- A write of CRS_GAIT_FLOOR: the previous window counts as at or above the floor. -/
def gaitFloorWrite (s : State) (t : Nat) (v : Word) : State :=
  (s.setReg (0xC0000C + 0x10000 * t) v).setTeam t { s.team t with belowFloor := false }

/-! ### Crossings (R30, R34) -/

/-- A crossing times out (R34): emptied, counted, refusing. At crossing 4 the frames that are partly received are discarded
with it: of those, `part` words are in Paddock (R300). -/
def xTimeoutOnce (s : State) (i part : Nat) : State :=
  let w := if i = 4 then part else 0
  let s := if i = 4 then s.modCli fun c => { c with part := [] } else s
  let d := (s.xCut i).xDiscard i
  (((d.2.addReg (0x1600008 + 0x20 * i) w).addReg (0x160000C + 0x20 * i) 1).setFlag F.XNG_STAT_REFUSING (0x20 * i)
    true).raise 8 1 0 (xInfo i (d.1 + w))

/-- A timeout of a crossing (R34). The fourth within 1 s is passed up (R15): the cell's record at level 0 and its block's at
level 1, of event 8, with the crossing quarantined (log 236). -/
def xTimeout (s : State) (i part : Nat) : State :=
  if s.flag F.XNG_STAT_REFUSING (0x20 * i) then s
  else
    let s1 := s.xTimeoutOnce i part
    let old := (s1.xing i).tmos.filter fun k => decide (s.tick < k + ticksPerS)
    let s2 := s1.setXing i { s1.xing i with tmos := if old.length < 3 then s.tick :: old else [] }
    if old.length < 3 then s2
    else ((s2.raise 8 0 i (xInfo i 0)).raise 8 1 i (xInfo i 0)).cellQuar (9 * 256 + i)

end State

/-! ### The commands -/

/-- CELL_FAULT (R15): the cell handles the fault, or passes it to its block (which quarantines the cell) and, past the
block's minimum, to its region (which resets the block). -/
def execCellFault (_cell : CellKind) (region : Fin 9) (block inst src : Nat) (info : Word) (resolved quarOk : Bool)
    (xngs : List (Fin 30)) (s : State) : Host.Outcome State Fault Refusal :=
  .next (s.cellFaultOp region.val (block % 256) inst (src % 512) info.toNat resolved quarOk (xngs.map Fin.val))

/-- BLOCK_RESET_TIMEOUT (R15, R19): a block reset has not completed within 1 ms. -/
def execBlockResetTimeout (region : Fin 9) (block _inst : Nat) (info : Word) (s : State) :
    Host.Outcome State Fault Refusal := .next (s.chipFault 1 region.val block info.toNat)

/-- FAULT_RECORD_CLEAR (R20). -/
def execFaultRecordClear (q : Req) (v : Word) (s : State) : Host.Outcome State Fault Refusal :=
  .next (s.guardW q 0x40 fun s => s.faultClear v)

/-- The end of a measurement window reaches the Core: Time, whose window has run its 7,776 ticks, has closed it through
crossing 20 (R21, R34). -/
def State.gaitOpen (s : State) : Bool :=
  s.regionUp 2 && s.regionUp 7 && s.xOpen 20 && decide (s.tm.gaitTick + 7776 ≤ s.tick)

/-- The next window opens where the last one closed (R21). -/
def State.gaitNext (s : State) : State := s.modTm fun t => { t with gaitTick := s.tick - (s.tick - t.gaitTick) % 7776 }

/-- GAIT_WINDOW_END (R21, R22): the ring trips of teams 0 to 15 in the window. -/
def execGaitWindowEnd (trips : List Nat) (s : State) : Host.Outcome State Fault Refusal :=
  .next (if s.gaitOpen then (List.range 16).foldl (fun s t => s.gaitTeam t (trips.getD t 0)) s.gaitNext else s)

/-- CROSSING_RESYNC (R30): the pointer handshake ends and traffic resumes. -/
def execCrossingResync (i : Fin 30) (s : State) : Host.Outcome State Fault Refusal :=
  .next (s.xSynced i.val)

/-- CROSSING_TIMEOUT (R34, R300). -/
def execCrossingTimeout (i : Fin 30) (part : Nat) (s : State) : Host.Outcome State Fault Refusal :=
  .next (s.xTimeout i.val part)

/-- CROSSING_REFUSAL_END (R34): the missing clock has been present for 1,024 of its cycles. -/
def execCrossingRefusalEnd (i : Fin 30) (s : State) : Host.Outcome State Fault Refusal :=
  .next (s.setFlag F.XNG_STAT_REFUSING (0x20 * i.val) false)

end Sys2Proof.Machine
end

