-- ==== Sys2Proof/Machine/Circuits.lean ====
section
/-! DEFINITION. The time-slot interchange: associations, upstream copies, alignment and page swaps
(spec/06_circuits_harness.md, R156 to R170, R180). -/

namespace Sys2Proof.Machine

/-- Circuit counter i (0x90_0100 + 8 * i) and link counter i (0x98_0100 + 8 * i). -/
def cktCnt (i : Nat) : Nat := 0x900100 + 8 * i
def harCnt (i : Nat) : Nat := 0x980100 + 8 * i

/-- Byte `o` of a frame's circuit partition lies in an uncorrectable codeword, or came after its crossing had closed (R32, R55,
R162). -/
def DsCkt.lost (c : DsCkt) (o : Nat) : Bool :=
  c.marks.contains ((c.start + o) / 1824) || match c.lostFrom with
    | some k => decide (k ≤ c.start + o)
    | none => false

/-! ### Blocks of a lane (R172, R173) -/

/-- Even-parity BIP-8 over bytes (R173). -/
def bip8 (bs : List Byte) : Nat := bs.foldl (fun a b => a ^^^ b.toNat) 0

/-- CRC-8 over bits [63:8] of an overhead block (R173, R457). -/
def ohCrc (oh : Nat) : Nat := crcBits 8 0x07 56 (oh / 256) 0

/-- Fields of an overhead block (R173). -/
def ohRow (oh : Nat) : Nat := bitsOf oh 46 10
def ohLane (oh : Nat) : Nat := bitsOf oh 43 3
def ohRdi (oh : Nat) : Bool := bitOf oh 38
def ohBip (oh : Nat) : Nat := bitsOf oh 24 8

/-- An overhead block (R173). -/
def ohBlock (row lane mfi : Nat) (mfv rdi : Bool) (bip : Nat) : Nat :=
  let v := 0xB4 * 2 ^ 56 + row % 1024 * 2 ^ 46 + lane % 8 * 2 ^ 43 + mfi % 8 * 2 ^ 40 + (if mfv then 2 ^ 39 else 0)
    + (if rdi then 2 ^ 38 else 0) + bip % 256 * 2 ^ 24
  v + ohCrc v

/-- The payload of a training block, and the block: sync header 0b10, not scrambled (R172). -/
def trainPayload : Nat := 0x7878878778788787
def trainBlock : BitVec 66 := BitVec.ofNat 66 (2 * 2 ^ 64 + trainPayload)

/-- One payload through the self-synchronising descrambler x^58 + x^39 + 1 (R172): the register holds the latest 58 bits
received, the newest in bit 0. -/
def selfDescramble (st p : Nat) : Nat × Nat :=
  let v := st % 2 ^ 58 * 2 ^ 64 + p % 2 ^ 64
  ((v ^^^ v / 2 ^ 39 ^^^ v / 2 ^ 58) % 2 ^ 64, p % 2 ^ 58)

/-- Half a payload through the self-synchronising scrambler: the register holds the latest 58 bits sent. -/
def selfHalf (st d : Nat) : Nat := (d ^^^ st / 2 ^ 7 ^^^ st / 2 ^ 26) % 2 ^ 32

/-- One payload through the scrambler. -/
def selfScramble (st d : Nat) : Nat × Nat :=
  let a := selfHalf (st % 2 ^ 58) (d / 2 ^ 32 % 2 ^ 32)
  let b := selfHalf ((st * 2 ^ 32 + a) % 2 ^ 58) (d % 2 ^ 32)
  (a * 2 ^ 32 + b, (a * 2 ^ 32 + b) % 2 ^ 58)

/-- Payloads through the scrambler, and its register after them; the same back. -/
def selfScrambled : Nat → List Nat → List Nat × Nat
  | st, [] => ([], st)
  | st, d :: ds =>
    let a := selfScramble st d
    let z := selfScrambled a.2 ds
    (a.1 :: z.1, z.2)
def selfDescrambled : Nat → List Nat → List Nat × Nat
  | st, [] => ([], st)
  | st, d :: ds =>
    let a := selfDescramble st d
    let z := selfDescrambled a.2 ds
    (a.1 :: z.1, z.2)

/-- Bytes as payloads, byte 0 first. -/
def payloadsOf (bs : List Byte) : List Nat := (List.range 59).map fun k => beNat (bytesAt bs (8 * k) 8)

namespace State

/-- A write into the Harness block: discarded on FX9840-FBX (R180). -/
def harW (s : State) (k : State → State) : State := if s.grade = .fbx then s else k s

/-- HAR_CFG.EN. -/
def harEn (s : State) : Bool := s.flag F.HAR_CFG_EN

/-- The reference side (R163). The active side, REF 2 or 3, is side A where pairing names none, in modes 0 and 2 (DESIGN
CHOICE, log 248). -/
def harRef (s : State) : Side :=
  match s.f F.CKT_CFG_REF with
  | 0 => .a
  | 1 => .b
  | _ => if s.prtMode = 1 then s.active else .a

/-! ### Alignment (R163) -/

/-- A Harness frame is placed 130.000 µs after the boundary at tick `b`. Frames run on until then; the one that runs there ends
early. -/
def harPlace (s : State) (b : Nat) (later : Bool) : State :=
  let x := s.harRef
  let s1 := s.modHar fun h => { h with
    alignAt := b + 101088, wantAlign := false, laterAlign := false,
    boundary := if h.boundary = 0 then b + 101088 else min h.boundary (b + 101088) }
  (s1.setFlag F.CKT_STAT_ALIGNED 0 true).raise 234 1 0 (sideNo x + (if later then 2 else 0))

/-- Alignment is wanted: at the next boundary of the reference side with DS_VALID = 1. -/
def harWant (s : State) : State := s.modHar fun h => { h with wantAlign := true, laterAlign := true }

/-! ### Association (R164, R165), in tenths of a tick -/

/-- 128.000 µs and 1.000 µs in tenths of a tick. -/
def lag10 : Nat := 995328
def slack10 : Nat := 7776

/-- The latest frame at or before H - 128.000 µs, and not a whole frame older (R164). -/
def assocFresh (fs : List DsCkt) (h10 : Nat) : Option DsCkt :=
  match fs.find? fun c => decide (c.tick * 10 + lag10 ≤ h10) with
  | some c => if h10 < c.tick * 10 + lag10 + 972000 then some c else none
  | none => none

/-- The association of a Harness frame (R165): the frame, whether it repeats, and whether a frame was skipped. -/
def assocNext (fs : List DsCkt) (prev : Option DsCkt) (h10 : Nat) : Option DsCkt × Bool × Bool :=
  match prev with
  | none => (assocFresh fs h10, false, false)
  | some p =>
    match (fs.filter fun c => decide (p.tick < c.tick)).reverse with
    | [] => (none, false, false)
    | c :: rest =>
      if c.tick * 10 + lag10 ≤ h10 + slack10 then
        match rest with
        | d :: _ => if d.tick * 10 + lag10 + slack10 < h10 then (some d, false, true) else (some c, false, false)
        | [] => if h10 < c.tick * 10 + lag10 + 972000 + slack10 then (some c, false, false) else (none, false, false)
      else if c.tick * 10 + lag10 < h10 + 486000 then (some p, true, false)
      else (none, false, false)

def assoc (s : State) : Side → Option DsCkt
  | .a => s.har.assocA
  | .b => s.har.assocB
def again (s : State) : Side → Bool
  | .a => s.har.againA
  | .b => s.har.againB

/-- Associate the frame of side `x` with the Harness frame at boundary `h`. -/
def associate (s : State) (x : Side) (h : Nat) : State :=
  let r := assocNext (s.dsFrames x) (s.assoc x) (h * 10)
  let s1 := match x with
    | .a => s.modHar fun t => { t with assocA := r.1, againA := r.2.1 }
    | .b => s.modHar fun t => { t with assocB := r.1, againB := r.2.1 }
  let s2 := match r.1 with
    | some c => s1.setReg (0x900010 + 4 * sideNo x) (BitVec.ofNat 32 (2 ^ 31 + (h - c.tick) % 2 ^ 18))
    | none => s1.setFlag F.CKT_LAT_VALID (4 * sideNo x) false
  if r.2.1 || r.2.2 then
    (s2.bump (cktCnt (5 + sideNo x))).raise 232 1 0 (sideNo x + (if r.2.2 then 2 else 0))
  else s2

/-! ### What the Harness frame carries (R160, R162, R167) -/

/-- The Harness frame still takes the side active before the last switch for SIDE = 2 (R167). -/
def dsOldSide (s : State) : Bool :=
  s.prtMode == 1 && s.har.swTick != 0 && match s.assoc s.active with
    | some c => decide (c.tick ≤ s.har.swTick)
    | none => true

/-- The side an entry with SIDE = 2 takes in this Harness frame (R160, R167). -/
def dsActive (s : State) : Side :=
  if s.prtMode ≠ 1 then .a
  else if s.dsOldSide then (if s.har.swOld = 0 then .a else .b)
  else s.active

/-- An entry of the active side carries fill in the frames that take the old side after a loss (R167). -/
def dsSwitched (s : State) (e : Word) : Bool := bitsOf e.toNat 29 2 == 2 && s.har.swLoss && s.dsOldSide

/-- The side a downstream entry names; none for SIDE = 3. -/
def dsSide (s : State) (e : Word) : Option Side :=
  match bitsOf e.toNat 29 2 with
  | 0 => some .a
  | 1 => some .b
  | 2 => some s.dsActive
  | _ => none

/-- The downstream page of the Harness frame at `h` (R168). -/
def dsPage (s : State) (h : Nat) : List (Nat × Word) :=
  let t := match s.assoc s.harRef with
    | some c => c.tick
    | none => h - 99533
  if t < s.har.dsSwap then s.har.dsOld else s.cmPage 0x930000

/-- Byte `r` of the slot an entry names: none where fill is sent (R160, R162). -/
def dsByte (s : State) (e : Word) (r : Nat) : Option Byte :=
  match s.dsSide e with
  | none => none
  | some x =>
    match s.assoc x with
    | none => none
    | some c =>
      let i := bitsOf e.toNat 0 12
      if !bitOf e.toNat 31 || s.dsSwitched e || !c.ok || s.again x || decide (c.slots ≤ i) || c.lost (r * c.slots + i) then none
      else c.bytes[r * c.slots + i]?

/-- A slot of this Harness frame carries fill in some byte. -/
def dsFilled (s : State) (e : Word) : Bool :=
  match s.dsSide e with
  | none => true
  | some x =>
    match s.assoc x with
    | none => true
    | some c =>
      let i := bitsOf e.toNat 0 12
      !bitOf e.toNat 31 || s.dsSwitched e || !c.ok || s.again x || decide (c.slots ≤ i) || decide (c.bytes.length < 810 * c.slots)
        || (List.range 810).any fun r => c.lost (r * c.slots + i)

/-- The slot-frames filled downstream (R162): by the side an entry names, a free choice for an entry that names none. -/
def dsFillCount (s : State) (h : Nat) : State :=
  let page := s.dsPage h
  let fills := page.filter fun e => s.dsFilled e.2
  let a := (fills.filter fun e => s.dsSide e.2 == some .a).length + (3776 - page.length)
  let b := (fills.filter fun e => s.dsSide e.2 == some .b).length
  let none3 := (fills.filter fun e => s.dsSide e.2 == none).length
  let r := s.takeFree 1
  let s1 := if none3 = 0 then s else r.2
  (s1.bump (cktCnt 0) (a + if none3 ≠ 0 && r.1 = 0 then none3 else 0)).bump (cktCnt 1)
    (b + if none3 ≠ 0 && r.1 = 1 then none3 else 0)

/-- The byte Harness slot `h` carries in row `r` of the transmit frame at the pins (R158, R160, R162); the slots of a
quarantined lane carry fill (R177; that lane n's are those of transmit lane n is a DESIGN CHOICE, log 206). -/
def harTxByte (s : State) (boundary h r : Nat) : Byte :=
  let fb : Byte := BitVec.ofNat 8 (s.f F.CKT_CFG_FILL)
  if bitOf (s.f F.HAR_STAT_QUAR) (h / 472) then fb
  else match (s.dsPage boundary).find? fun e => e.1 == h with
    | some e => (s.dsByte e.2 r).getD fb
    | none => fb

/-- The 472 data bytes of row `r` of transmit lane `n` (R173). -/
def harTxData (s : State) (boundary n r : Nat) : List Byte :=
  (List.range 472).map fun k => s.harTxByte boundary (n * 472 + k) r

/-- The receiver has a lane not aligned and not quarantined (R173). -/
def harRdi (s : State) : Bool :=
  (List.range 8).any fun n => !bitOf (s.f F.HAR_STAT_LANE_LOCK) n && !bitOf (s.f F.HAR_STAT_QUAR) n

/-- The overhead block of row `r` of transmit lane `n`, after a row of BIP-8 `bip` (R173). -/
def harTxOh (s : State) (n r bip : Nat) : Nat :=
  let mfi := match s.assoc s.harRef with
    | some c => c.mfi
    | none => 0
  let mfv := s.mfAlign s.harRef
  ohBlock r n (if mfv then mfi else 0) mfv s.harRdi bip

/-- The rows of a lane frame from row `r` on, `k` of them: an overhead block with sync header 0b10 and 59 data blocks with 0b01,
the payloads scrambled from register `st` on (R172, R173; the header of an overhead block is DEDUCED, log 205). -/
def harTxRows (s : State) (boundary n : Nat) : Nat → Nat → Nat → Nat → List (BitVec 66)
  | 0, _, _, _ => []
  | k + 1, r, bip, st =>
    let d := s.harTxData boundary n r
    let z := selfScrambled st (s.harTxOh n r bip :: payloadsOf d)
    (z.1.zipIdx.map fun p => BitVec.ofNat 66 ((if p.2 = 0 then 2 else 1) * 2 ^ 64 + p.1))
      ++ harTxRows s boundary n k (r + 1) (bip8 d) z.2

/-- What transmit lane `n` carries in the Harness frame in progress: training blocks, or the rows of a lane frame (R172 to
R174). -/
def harTxLane (s : State) (n : Nat) : List (BitVec 66) :=
  if s.har.txStart = 0 then List.replicate 48600 trainBlock
  else s.harTxRows s.har.txStart n 810 0 (sget (fun _ => 0) s.har.txBip n) (sget (fun _ => 0) s.har.txSt n)

/-- The scrambler's register of lane `n` after `k` rows from row `r` on. -/
def harTxState (s : State) (boundary n : Nat) : Nat → Nat → Nat → Nat → Nat
  | 0, _, _, st => st
  | k + 1, r, bip, st =>
    let d := s.harTxData boundary n r
    harTxState s boundary n k (r + 1) (bip8 d) (selfScrambled st (s.harTxOh n r bip :: payloadsOf d)).2

/-- Rows sent of the frame that ends at tick `h`: one that an alignment ends early has sent fewer (R163). -/
def harTxSent (s : State) (h : Nat) : Nat := if s.har.txStart = 0 then 0 else min 810 ((h - s.har.txStart) / 120)

/-- The transmit lanes at the end of a frame: the BIP-8 of the last row sent and the scramblers' registers (R172, R173). -/
def harTxEnd (s : State) (h : Nat) : State :=
  let b := s.har.txStart
  let k := s.harTxSent h
  if k = 0 then s
  else s.modHar fun t => { t with
    txBip := (List.range 8).foldl (fun m n => sset (fun _ => 0) m n (bip8 (s.harTxData b n (k - 1)))) []
    txSt := (List.range 8).foldl (fun m n => sset (fun _ => 0) m n
      (s.harTxState b n k 0 (sget (fun _ => 0) t.txBip n) (sget (fun _ => 0) t.txSt n))) [] }

/-! ### The upstream copy (R166) -/

/-- The copy at boundary `h`. -/
def usCopy (s : State) (h : Nat) : State :=
  match s.har.rxDone.getLast? with
  | none =>
    let rows := (s.har.copies.head?.map UsCopy.rows).getD []
    ((s.modHar fun t => { t with copies := ({ tick := h, rows := rows, again := true } :: t.copies).take 8 }).bump
      (cktCnt 7)).raise 232 1 0 4
  | some c =>
    let skip := decide (2 ≤ s.har.rxDone.length)
    let s1 := (s.modHar fun t => { t with
      copies := ({ tick := h, rows := c.rows } :: t.copies).take 8, rxDone := [] }).setF F.HAR_RX_PHASE_PHASE 0 (h - c.tick)
    if skip then (s1.bump (cktCnt 7)).raise 232 1 0 6 else s1

/-! ### Page swaps (R168 to R170) -/

/-- Exchange the active and the standby page of a direction. -/
def pageExchange (s : State) (us : Bool) : State :=
  let sb := if us then 0x920000 else 0x910000
  let ac := if us then 0x940000 else 0x930000
  let ps := s.cmPage sb
  let pa := s.cmPage ac
  let clear (s : State) (base : Nat) (p : List (Nat × Word)) : State := p.foldl (fun s e => s.setReg (base + 4 * e.1) 0) s
  let fill (s : State) (base : Nat) (p : List (Nat × Word)) : State := p.foldl (fun s e => s.setReg (base + 4 * e.1) e.2) s
  fill (fill (clear (clear s sb ps) ac pa) sb pa) ac ps

/-- The side and line slot an upstream entry feeds. -/
def usKey (s : State) (e : Word) : Option (Side × Nat) :=
  match s.cmSlot .a e with
  | some k => some (.a, k)
  | none => (s.cmSlot .b e).map fun k => (.b, k)

/-- Entries of the upstream page dropped because a lower one feeds the same line slot (R161). -/
def usDups (s : State) : List Nat → List (Option (Side × Nat)) → List (Nat × Word) → List Nat
  | acc, _, [] => acc
  | acc, seen, e :: es =>
    let k := s.usKey e.2
    if k.isSome && seen.contains k then s.usDups (acc ++ [e.1]) seen es else s.usDups acc (k :: seen) es

/-- A swap of the directions `ds` and `us` is taken, in effect from the boundary at tick `b`. -/
def swapTake (s : State) (ds us forced : Bool) (bd bu : Nat) : State :=
  let late := (ds && s.har.deferDs) || (us && s.har.deferUs)
  let s1 := if ds then
      (((s.modHar fun h => { h with dsOld := s.cmPage 0x930000, dsSwap := bd, reqDs := 0, deferDs := false }).pageExchange
        false).setFlag F.CKT_STAT_PEND_DS 0 false).bump (cktCnt 8)
    else s
  let s2 := if us then
      (((s1.modHar fun h => { h with usOld := s1.cmPage 0x940000, usSwap := bu, reqUs := 0, deferUs := false }).pageExchange
        true).setFlag F.CKT_STAT_PEND_US 0 false).bump (cktCnt 8)
    else s1
  let dups := if us then s2.usDups [] [] (s2.cmPage 0x940000) else []
  let s3 := if dups.isEmpty then s2
    else (s2.setFlag F.CKT_STAT_DUP 0 true).raise 226 1 0 (dups.foldl max 0 + 65536 * min dups.length 0xFFFF)
  s3.raise 224 1 0 ((if ds then 1 else 0) + (if us then 2 else 0) + (if forced then 4 else 0) + (if late then 8 else 0))

/-- A pending swap at the reference side's multiframe boundary at tick `b` (R168): a request less than 2.000 µs old waits for
the following one, and one that a FORCE has taken waits for the Harness boundary instead (R169). -/
def swapBoundary (s : State) (b : Nat) : State :=
  let ds := s.flag F.CKT_STAT_PEND_DS && !s.har.forceDs
  let us := s.flag F.CKT_STAT_PEND_US && !s.har.forceUs
  let ok (r : Nat) : Bool := decide (r * 10 + 15552 ≤ (b + 1) * 10)
  let s1 := s.modHar fun h => { h with
    deferDs := h.deferDs || (ds && !ok h.reqDs), deferUs := h.deferUs || (us && !ok h.reqUs) }
  let td := ds && ok s.har.reqDs
  let tu := us && ok s.har.reqUs
  if td || tu then s1.swapTake td tu false b b else s1

/-- CKT_CTRL.SWAP_DS and SWAP_US: a request while one is pending changes nothing (R170). -/
def swapRequest (s : State) (us : Bool) : State :=
  let fl := if us then F.CKT_STAT_PEND_US else F.CKT_STAT_PEND_DS
  if s.flag fl then s
  else (s.setFlag fl 0 true).modHar fun h =>
    if us then { h with reqUs := s.tick + 1, deferUs := false } else { h with reqDs := s.tick + 1, deferDs := false }

/-- CKT_CTRL.FORCE (R169): every swap pending now takes effect at the next Harness boundary. -/
def swapForce (s : State) : State :=
  s.modHar fun h => { h with
    forceDs := h.forceDs || s.flag F.CKT_STAT_PEND_DS, forceUs := h.forceUs || s.flag F.CKT_STAT_PEND_US }

/-- A write of CKT_CTRL as a whole. -/
def cktCtrlWrite (s : State) (v : Word) : State :=
  let s1 := if F.CKT_CTRL_SWAP_DS.of v = 1 then s.swapRequest false else s
  let s2 := if F.CKT_CTRL_SWAP_US.of v = 1 then s1.swapRequest true else s1
  let s3 := if F.CKT_CTRL_FORCE.of v = 1 then s2.swapForce else s2
  if F.CKT_CTRL_REALIGN.of v = 1 then s3.harWant else s3

/-- A write of a standby entry (R159, R170). -/
def cmWrite (s : State) (us : Bool) (h : Nat) (v : Word) : State :=
  if s.flag (if us then F.CKT_STAT_PEND_US else F.CKT_STAT_PEND_DS) then
    (s.setFlag F.CKT_STAT_BUSY_WR 0 true).raise 225 1 0 (h + (if us then 4096 else 0))
  else s.setReg ((if us then 0x920000 else 0x910000) + 4 * h) (v &&& 0xE0000FFF#32)

/-! ### A Harness frame boundary -/

/-- The boundary at tick `h`: the next one, forced swaps, associations, fill counts and the upstream copy. At an aligned boundary
the associations are chosen afresh (R163, R164). Lane frames begin at the first boundary behind the training (R174 step 4). -/
def harBoundary (s : State) (h : Nat) : State :=
  let al := s.har.alignAt
  let train := s.flag F.HAR_STAT_TX_TRAIN
  let s0 := s.harTxEnd h
  let s1 := s0.modHar fun t => { t with
    boundary := if h < al then min (h + 97200) al else h + 97200
    alignAt := if h < al then al else 0
    assocA := if al = h then none else t.assocA, assocB := if al = h then none else t.assocB
    againA := if al = h then false else t.againA, againB := if al = h then false else t.againB
    forceDs := false, forceUs := false, txStart := if train then 0 else h }
  let s2 := if s.har.forceDs || s.har.forceUs then s1.swapTake s.har.forceDs s.har.forceUs true 0 h else s1
  (((s2.associate .a h).associate .b h).dsFillCount h).usCopy h

end State

/-! ### The commands -/

/-- HARNESS_FRAME_BOUNDARY (R163 to R166): the boundary keeps the phase of the one before it. -/
def execHarnessFrameBoundary (s : State) : Host.Outcome State Fault Refusal :=
  .next (if s.harEn && s.regionUp 4 then s.harBoundary (if s.har.boundary = 0 then s.tick else s.har.boundary) else s)

/-- HARNESS_ALIGN (R163): the reference side's latest frame boundary with DS_VALID = 1 takes a wanted alignment. -/
def execHarnessAlign (s : State) : Host.Outcome State Fault Refusal :=
  .next (if s.har.wantAlign && s.harEn && s.dsValid s.harRef then
    s.harPlace (s.line s.harRef).curTick s.har.laterAlign else s)

/-- REALIGN (R163). -/
def execHarRealign (q : Req) (s : State) : Host.Outcome State Fault Refusal :=
  .next (s.guardW q 0x900004 fun s => s.harW fun s => s.harWant)

/-- SWAP_DS (R168). -/
def execSwapDs (q : Req) (s : State) : Host.Outcome State Fault Refusal :=
  .next (s.guardW q 0x900004 fun s => s.harW fun s => s.swapRequest false)

/-- SWAP_US (R168). -/
def execSwapUs (q : Req) (s : State) : Host.Outcome State Fault Refusal :=
  .next (s.guardW q 0x900004 fun s => s.harW fun s => s.swapRequest true)

/-- FORCE (R169). -/
def execCktForce (q : Req) (s : State) : Host.Outcome State Fault Refusal :=
  .next (s.guardW q 0x900004 fun s => s.harW fun s => s.swapForce)

/-- PAGE_SWAP (R168): a multiframe boundary of the reference side (R85). -/
def execPageSwap (s : State) : Host.Outcome State Fault Refusal :=
  .next (if s.mfAlign s.harRef && s.f F.DSF_STAT_MFI (sideOff s.harRef) == 0 then
    s.swapBoundary (s.line s.harRef).curTick else s)

/-- CM_STANDBY_WRITE (R159, R170). -/
def execCmStandbyWrite (q : Req) (us : Bool) (h : Fin 3776) (v : Word) (s : State) : Host.Outcome State Fault Refusal :=
  .next (s.guardW q ((if us then 0x920000 else 0x910000) + 4 * h.val) fun s => s.harW fun s => s.cmWrite us h.val v)

end Sys2Proof.Machine
end

