-- ==== Sys2Proof/Machine/Harness.lean ====
section
/-! DEFINITION. The Harness link: training, lanes, rows and eye scans (spec/06_circuits_harness.md, R171 to R180). -/

namespace Sys2Proof.Machine

/-- Bits set in a byte. -/
def onesOf (n : Nat) : Nat := ((List.range 8).filter fun i => bitOf n i).length

/-- A block at a lane's pins, after the receiver's inversion (R172, R175). -/
def blockHeader (inv : Bool) (b : BitVec 66) : Nat := (if inv then ~~~ b else b).toNat / 2 ^ 64
def blockPayload (inv : Bool) (b : BitVec 66) : Nat := (if inv then ~~~ b else b).toNat % 2 ^ 64

/-- A sync header is neither 0b01 nor 0b10 (R172). -/
def headerBad (h : Nat) : Bool := h == 0 || h == 3

/-- Sync headers of a row join the latest 64 (R177): the window after them, and whether 16 of 64 were ever invalid. -/
def headersJoin : Nat → List Bool → Nat × Bool
  | w, [] => (w, false)
  | w, b :: bs =>
    let v := (w * 2 + (if b then 1 else 0)) % 2 ^ 64
    let r := headersJoin v bs
    (r.1, r.2 || decide (16 ≤ ((List.range 64).filter fun i => bitOf v i).length))

namespace State

/-- Bit `n` of a lane mask of HAR_STAT. -/
def laneBit (s : State) (F : Fld) (n : Nat) : Bool := bitOf (s.f F) n
def setLaneBit (s : State) (F : Fld) (n : Nat) (b : Bool) : State :=
  s.setF F 0 (s.f F - (if bitOf (s.f F) n then 2 ^ n else 0) + (if b then 2 ^ n else 0))

/-- The logical lane a physical lane carries. -/
def laneOf (s : State) (n : Nat) : Nat := s.f F.HAR_LANE_LANE (4 * n)

/-- RX_ALIGNED and LINK_UP follow the lanes: every lane not quarantined is aligned (R174 step 6), event 227 on a change. -/
def linkEval (s : State) : State :=
  let up := s.harEn && s.flag F.HAR_STAT_RXCK_OK && s.f F.HAR_STAT_LANE_LOCK != 0
    && (List.range 8).all fun n => s.laneBit F.HAR_STAT_LANE_LOCK n || s.laneBit F.HAR_STAT_QUAR n
  let was := s.flag F.HAR_STAT_LINK_UP
  ((s.setFlag F.HAR_STAT_RX_ALIGNED 0 up).setFlag F.HAR_STAT_LINK_UP 0 up).raiseIf (up != was) 227 1 0
    (if up then 1 else 0)

/-! ### Eye scan (R179) -/

/-- A write of HAR_EYE_CFG: a scan keeps the LANE and the DWELL it was started with. -/
def eyeWrite (s : State) (v : Word) : State :=
  let s1 := if F.HAR_EYE_CFG_DONE.of v = 1 then s.setFlag F.HAR_EYE_CFG_DONE 0 false else s
  let s2 := (s1.setF F.HAR_EYE_CFG_DWELL 0 (F.HAR_EYE_CFG_DWELL.of v)).setF F.HAR_EYE_CFG_LANE 0 (F.HAR_EYE_CFG_LANE.of v)
  if F.HAR_EYE_CFG_START.of v = 1 && !s2.flag F.HAR_EYE_CFG_BUSY then
    let s3 : State := { s2 with regs := sdrop (fun a => decide (0x981000 ≤ a) && decide (a < 0x985000)) s2.regs }
    (s3.setFlag F.HAR_EYE_CFG_BUSY 0 true).modHar fun h => { h with
      eyeLane := s2.f F.HAR_EYE_CFG_LANE, eyeTick := s2.tick, eyeDwell := s2.f F.HAR_EYE_CFG_DWELL }
  else s2

/-- Measured points into the map, in index order. -/
def eyeFill (s : State) : Nat → List Nat → State
  | _, [] => s
  | k, n :: ns =>
    if k ≥ 4096 then s
    else (s.setReg (0x981000 + 4 * k) (BitVec.ofNat 32 (2 ^ 31 + min n 0xFFFF))).eyeFill (k + 1) ns

/-- A scan ends, early when fewer than 4,096 points were measured. -/
def eyeEnd (s : State) (points : List Nat) : State :=
  if !s.flag F.HAR_EYE_CFG_BUSY then s
  else
    let s1 := ((s.eyeFill 0 points).setFlag F.HAR_EYE_CFG_BUSY 0 false).setFlag F.HAR_EYE_CFG_DONE 0 true
    s1.raise 236 1 0 (s1.har.eyeLane + (if points.length < 4096 then 8 else 0))

/-- Free counts of the first `k` points of a scan that its lane ended. -/
def eyeReached (s : State) : Nat → List Nat × State
  | 0 => ([], s)
  | k + 1 =>
    let r := s.takeFree 65536
    let z := r.2.eyeReached k
    (r.1 :: z.1, z.2)

/-- A scan of the lane that physical lane `n` carries ends with its alignment (R179): the points reached by then hold counts the
spec does not state. -/
def eyeLost (s : State) (n : Nat) : State :=
  if s.flag F.HAR_EYE_CFG_BUSY && s.laneBit F.HAR_STAT_LANE_LOCK n && s.laneOf n == s.har.eyeLane then
    (let r := s.eyeReached (min 4095 ((s.tick - s.har.eyeTick) * 33 / 2 ^ (10 + min s.har.eyeDwell 20)))
     r.2.eyeEnd r.1)
  else s

/-- A lane is no longer aligned: its place among the logical lanes and its row sequence are gone. -/
def laneDown (st : State) (n : Nat) : State :=
  let s := st.eyeLost n
  ((s.setLaneBit F.HAR_STAT_LANE_LOCK n false).setFlag F.HAR_LANE_VALID (4 * n) false).modHar fun h => { h with
    rowNext := serase h.rowNext n, bad := serase h.bad n, bip := serase h.bip n }

/-- A retrain of a lane starts (R177). -/
def laneRetrain (s : State) (n : Nat) : State :=
  (s.modHar fun h => { h with retrain := sset (fun _ => 0) h.retrain n (s.tick + 1) }).bump (harCnt 5)

/-- Every receive lane is unaligned, without block lock and without a retrain in progress. -/
def lanesDown (s : State) : State :=
  (((List.range 8).foldl (fun s n => s.laneDown n) s).setF F.HAR_STAT_BLK_LOCK 0 0).modHar fun h =>
    { h with retrain := [], rx := {} }

/-- Both directions train from step 1, quarantines cleared (R174, R177). -/
def trainStart (s : State) : State :=
  let s1 := ((s.lanesDown.setF F.HAR_STAT_QUAR 0 0).setFlag F.HAR_STAT_TX_TRAIN 0 true).modHar fun h => { h with
    txStart := 0, txBip := [], txSt := [] }
  ((List.range 8).foldl (fun s n => s.setF F.HAR_LANE_FAILS (4 * n) 0) s1).linkEval

/-- HAR_CFG.EN = 0: the link stops and resource 14 is released (R37). What else of the link ends, its quarantines, training,
detected clock, alignment and associations, is a DESIGN CHOICE (log 88). -/
def harStop (s : State) : State :=
  let s1 := (((s.lanesDown.setF F.HAR_STAT_QUAR 0 0).setFlag F.HAR_STAT_TX_TRAIN 0 false).setFlag F.HAR_STAT_RXCK_OK 0
    false).setFlag F.CKT_STAT_ALIGNED 0 false
  ((s1.setFlag F.HAR_CFG_EN 0 false).modHar fun h => { h with
    boundary := 0, alignAt := 0, txStart := 0, txBip := [], txSt := [], wantAlign := false, laterAlign := false,
    assocA := none, assocB := none, againA := false, againB := false, rxLost := false, rxDone := [] }).linkEval.resRelease 14

/-- A write of HAR_CFG (R37, R163, R174, R180); one whose claim ends in CONFLICT changes nothing (DEDUCED, log 193). -/
def harCfgWrite (s : State) (q : Req) (v : Word) : State :=
  let on := F.HAR_CFG_EN.of v == 1
  if s.grade = .fbx then (if on then s.resConflict q 14 else s)
  else if on && !s.harEn && !s.resFree 14 then s.resConflict q 14
  else
    let s := s.setF F.HAR_CFG_RX_POL 0 (F.HAR_CFG_RX_POL.of v)
    if on && !s.harEn then
      let s1 := ((s.resTake q 14 0x0B).setFlag F.HAR_CFG_EN 0 true).trainStart
      if s1.dsValid s1.harRef then s1.harPlace (s1.line s1.harRef).curTick false else s1.harWant
    else if !on && s.harEn then s.harStop
    else s

/-! ### Lanes (R174, R175, R177, R178) -/

/-- A lane aligns with LANE field `lane` and a skew (R174 step 5, R175). -/
def laneAlignOp (s : State) (n lane skew : Nat) : State :=
  if !s.harEn || !s.laneBit F.HAR_STAT_BLK_LOCK n || s.laneBit F.HAR_STAT_QUAR n || s.laneBit F.HAR_STAT_LANE_LOCK n
      || decide (64 < skew) then s
  else
    let dup := (List.range 8).find? fun m => m != n && s.laneBit F.HAR_STAT_LANE_LOCK m && s.laneOf m == lane
    let up (s : State) : State :=
      ((s.setLaneBit F.HAR_STAT_LANE_LOCK n true).setReg (0x980010 + 4 * n) (BitVec.ofNat 32 (256 * skew + 8 + lane))).modHar
        fun h => { h with retrain := serase h.retrain n }
    match dup with
    | none => (up s).linkEval
    | some m => if m < n then s.raise 235 1 0 n else ((up (s.laneDown m)).raise 235 1 0 m).linkEval

/-- A lane loses block lock or alignment (R177): event 228, and it retrains at once. -/
def laneLoss (s : State) (n : Nat) (alignment : Bool) : State :=
  if !s.laneBit (if alignment then F.HAR_STAT_LANE_LOCK else F.HAR_STAT_BLK_LOCK) n then s
  else
    let s1 := if alignment then s else s.setLaneBit F.HAR_STAT_BLK_LOCK n false
    (((s1.laneDown n).raise 228 1 n (n + (if alignment then 8 else 0))).laneRetrain n).linkEval

/-- A retrain has not aligned its lane within 1 ms (R177): the third failure in a row quarantines the lane, with a record of the
lane's and one of its block's level (R16); with the last working lane the region resets the lane block, and the link trains from
step 1. -/
def laneRetrainFail (s : State) (n : Nat) : State :=
  if sget (fun _ => 0) s.har.retrain n = 0 then s
  else
    let fails := s.f F.HAR_LANE_FAILS (4 * n) + 1
    let s1 := s.setF F.HAR_LANE_FAILS (4 * n) fails
    if fails < 3 then s1.laneRetrain n
    else
      let s2 := ((s1.modHar fun h => { h with retrain := serase h.retrain n }).laneDown n).setLaneBit F.HAR_STAT_BLK_LOCK n
        false
      let s3 := ((s2.setLaneBit F.HAR_STAT_QUAR n true).raise 229 0 n n).raise 229 1 n n
      if s3.f F.HAR_STAT_QUAR = 255 then (s3.blockReset 4 0 n 229 n []).trainStart else s3.linkEval

/-- HAR_RXCK is detected, or has returned, with which every lane not quarantined retrains (R174 step 2, R178). -/
def rxckDetect (s : State) : State :=
  if !s.harEn || s.flag F.HAR_STAT_RXCK_OK then s
  else
    let s1 := s.setFlag F.HAR_STAT_RXCK_OK 0 true
    if s1.har.rxLost then
      ((List.range 8).foldl (fun s n => if s.laneBit F.HAR_STAT_QUAR n then s else s.laneRetrain n)
        (s1.modHar fun h => { h with rxLost := false })).raise 230 1 0 0
    else s1

/-- HAR_RXCK absent for 64 cycles (R178). -/
def rxckLoss (s : State) : State :=
  if !s.flag F.HAR_STAT_RXCK_OK then s
  else ((s.lanesDown.setFlag F.HAR_STAT_RXCK_OK 0 false).modHar fun h => { h with rxLost := true }).linkEval.raise 230 1 0 1

/-! ### Rows (R173, R175 to R177) -/

/-- The receive frame ends; what it holds is the latest one (R166). -/
def rxEnd (s : State) : State := s.modHar fun h => { h with
  rxDone := (h.rxDone ++ [{ h.rx with tick := s.tick }]), rx := {} }

/-- Row `r` of physical lane `n` enters the deskewed store; the last row of the last aligned lane ends the frame. -/
def rowStore (s : State) (n r : Nat) (data : List Byte) : State :=
  let k := r * 8 + s.laneOf n
  let s0 := if r = 0 && !(sget (fun _ => []) s.har.rx.rows k).isEmpty then s.rxEnd else s
  let s1 := s0.modHar fun h => { h with
    rx := { h.rx with rows := sset (fun _ => []) h.rx.rows k data },
    rowNext := sset (fun _ => 0) h.rowNext n ((r + 1) % 810 + 1) }
  let all := (List.range 8).all fun m =>
    !s1.laneBit F.HAR_STAT_LANE_LOCK m || sget (fun _ => 0) s1.har.rowNext m == 1
  if r = 809 && all then s1.rxEnd else s1

/-- A row of an aligned lane: its overhead block `oh` and its data (R173, R175 to R177). -/
def rowTake (s : State) (n oh : Nat) (data : List Byte) : State :=
  let crcOk := ohCrc oh == oh % 256
  let next := sget (fun _ => 0) s.har.rowNext n
  let row := ohRow oh
  if crcOk && decide (row < 810) && (next == 0 || next == row + 1 || row == 0) then
    let b := sget (fun _ => 0) s.har.bip n
    let diff := if next == row + 1 && b != 0 then onesOf ((b - 1) ^^^ ohBip oh) else 0
    let s2 := ((s.bump (harCnt 3) diff).setFlag F.HAR_STAT_FAR_RDI 0 (ohRdi oh)).modHar fun h => { h with
      bad := serase h.bad n, bip := sset (fun _ => 0) h.bip n (bip8 data + 1) }
    s2.rowStore n row data
  else
    let k := sget (fun _ => 0) s.har.bad n + 1
    if k ≥ 4 then s.laneLoss n true
    else
      let s2 := s.modHar fun h => { h with
        bad := sset (fun _ => 0) h.bad n k, bip := sset (fun _ => 0) h.bip n (bip8 data + 1) }
      if next = 0 then s2 else s2.rowStore n (next - 1) data

/-- The payloads of the row's blocks behind the descrambler of lane `n`, and its register after them (R172). -/
def rowPayloads (s : State) (n : Nat) (row : List (BitVec 66)) : List Nat × Nat :=
  selfDescrambled (sget (fun _ => 0) s.har.desc n) (row.map (blockPayload (bitOf (s.f F.HAR_CFG_RX_POL) n)))

/-- The invalid sync headers of a row. -/
def rowHeaders (s : State) (n : Nat) (row : List (BitVec 66)) : List Bool :=
  row.map fun b => headerBad (blockHeader (bitOf (s.f F.HAR_CFG_RX_POL) n) b)

/-- The blocks of a row arrive on lane `n`: they are counted, their sync headers judged and their payloads descrambled (R172,
R173, R177). -/
def rowArrive (s : State) (n : Nat) (row : List (BitVec 66)) : State :=
  if !s.laneBit F.HAR_STAT_BLK_LOCK n then s
  else
    let z := s.rowPayloads n row
    let bad := s.rowHeaders n row
    let w := headersJoin (sget (fun _ => 0) s.har.hdrs n) bad
    let oh := z.1.headD 0
    let s1 := (((s.bump (harCnt 0) row.length).bump (harCnt 1) (bad.filter id).length).bumpIf (ohCrc oh != oh % 256)
      (harCnt 2)).modHar fun h => { h with
        desc := sset (fun _ => 0) h.desc n z.2, hdrs := sset (fun _ => 0) h.hdrs n w.1 }
    if w.2 then s1.laneLoss n false
    else if s1.laneBit F.HAR_STAT_LANE_LOCK n then s1.rowTake n oh (z.1.drop 1 |>.flatMap (beBytes 8))
    else s1

/-- A lane gains block lock (R174 step 3, R177): its sync headers are judged afresh; behind training blocks the descrambler holds
their last bits, and in a retrain bits that no command gives. -/
def blockLock (s : State) (n : Nat) : State :=
  let r := s.takeFree 58
  let re := sget (fun _ => 0) s.har.retrain n != 0
  ((if re then r.2 else s).setLaneBit F.HAR_STAT_BLK_LOCK n true).modHar fun h => { h with
    hdrs := serase h.hdrs n, desc := sset (fun _ => 0) h.desc n (if re then r.1 else trainPayload % 2 ^ 58) }

/-- A row slip of lane `n` (R176): the slots of row `r` in that lane become fill. -/
def rowSlipOp (s : State) (n : Nat) (drop : Bool) (r : Nat) : State :=
  if !s.laneBit F.HAR_STAT_LANE_LOCK n then s
  else
    let k := r * 8 + s.laneOf n
    ((s.modHar fun h => { h with rx := { h.rx with rows := serase h.rx.rows k } }).bump (harCnt 4)).raiseLim ticksPerMs n
      231 1 0 (n + (if drop then 8 else 0))

end State

/-! ### The commands -/

/-- HARNESS_ENABLE (R174, R180): a write of HAR_CFG with EN = 1. -/
def execHarnessEnable (q : Req) (v : Word) (s : State) : Host.Outcome State Fault Refusal :=
  .next (s.guardW q 0x980000 fun s => s.harCfgWrite q (v ||| 1#32))

/-- HARNESS_RXCK_DETECT (R174 step 2). -/
def execHarnessRxckDetect (s : State) : Host.Outcome State Fault Refusal := .next s.rxckDetect

/-- LANE_BLOCK_LOCK (R174 step 3, R177). -/
def execLaneBlockLock (n : Fin 8) (s : State) : Host.Outcome State Fault Refusal :=
  .next (if s.harEn && s.flag F.HAR_STAT_RXCK_OK && !s.laneBit F.HAR_STAT_QUAR n.val then
    s.blockLock n.val else s)

/-- HARNESS_TX_TRAIN_END (R174 step 4). -/
def execHarnessTxTrainEnd (s : State) : Host.Outcome State Fault Refusal := .next (s.setFlag F.HAR_STAT_TX_TRAIN 0 false)

/-- LANE_ALIGN (R174 steps 5 and 6). -/
def execLaneAlign (n lane : Fin 8) (skew : Fin 256) (s : State) : Host.Outcome State Fault Refusal :=
  .next (s.laneAlignOp n.val lane.val skew.val)

/-- LANE_LOCK_LOSS (R177). -/
def execLaneLockLoss (n : Fin 8) (alignment : Bool) (s : State) : Host.Outcome State Fault Refusal :=
  .next (s.laneLoss n.val alignment)

/-- LANE_RETRAIN_TIMEOUT (R177). -/
def execLaneRetrainTimeout (n : Fin 8) (s : State) : Host.Outcome State Fault Refusal := .next (s.laneRetrainFail n.val)

/-- RETRAIN (R177). -/
def execHarRetrain (q : Req) (s : State) : Host.Outcome State Fault Refusal :=
  .next (s.guardW q 0x980004 fun s => s.harW fun s => if s.harEn then s.trainStart else s)

/-- HARNESS_RXCK_LOSS (R178). -/
def execHarnessRxckLoss (s : State) : Host.Outcome State Fault Refusal := .next s.rxckLoss

/-- ROW_SLIP (R176). -/
def execRowSlip (n : Fin 8) (drop : Bool) (row : Fin 810) (s : State) : Host.Outcome State Fault Refusal :=
  .next (s.rowSlipOp n.val drop row.val)

/-- EYE_SCAN_START (R179): a write of HAR_EYE_CFG with START. -/
def execEyeScanStart (q : Req) (v : Word) (s : State) : Host.Outcome State Fault Refusal :=
  .next (s.guardW q 0x980040 fun s => s.harW fun s => s.eyeWrite (v ||| 1#32))

/-- EYE_SCAN_DONE (R179): the differing bits of the points measured, in index order. -/
def execEyeScanDone (points : List Nat) (s : State) : Host.Outcome State Fault Refusal := .next (s.eyeEnd points)

/-- HARNESS_ROW_RECEIVE (R172, R173): the 60 blocks of a row as they are at the pins of physical lane `n`, each a sync header and
a payload. -/
def execHarnessRowReceive (n : Fin 8) (row : List (BitVec 66)) (s : State) : Host.Outcome State Fault Refusal :=
  .next (s.rowArrive n.val row)

end Sys2Proof.Machine
end

