-- ==== Sys2Proof/Machine/Memory.lean ====
section
/-! DEFINITION. DRAM channels, spill area, correction, remapping, service modes and the scrubber (spec/13_memory.md, R341
to R361). -/

namespace Sys2Proof.Machine

/-- Bytes of Paddock (R346). -/
def padBytes : Nat := 100663296

/-- A checker that fails its self-test: a macro group or a channel, and the injected class (R359, R361). -/
structure StestFail where
  chip : Bool := false
  unit : Nat := 0
  cls : Nat := 0
  deriving DecidableEq, Repr

/-- Frame cells of a macro group (R346): 91 MiB of the first 45.5 groups. -/
def groupCells (g : Nat) : Nat := if g < 45 then 8192 else if g = 45 then 4096 else 0

namespace State

/-! ### Channels (R341, R342) -/

/-- Configuration of a channel, EN and reserved bits apart; SPEED 3 acts as 2. -/
def chConfig (s : State) (c : Nat) : Nat :=
  let v := bitsOf (s.reg (0x1200010 + 4 * c)).toNat 18 6
  if v / 16 = 3 then v - 16 else v

/-- Density in Gb of a DENSITY code (code 3 is refused). -/
def chDensity : Nat → Nat
  | 0 => 16
  | 1 => 24
  | _ => 32

/-- Capacity of a channel in GB (R341). -/
def chCapacity (s : State) (c : Nat) : Nat :=
  let i := 4 * c
  (s.f F.MEM_CH_CFG_RANKS i + 1) * (64 / (if s.flag F.MEM_CH_CFG_WIDTH i then 8 else 4))
    * chDensity (s.f F.MEM_CH_CFG_DENSITY i) / 8

/-- A configuration is refused (R341, R342). -/
def chRefused (s : State) (c : Nat) : Bool :=
  let low := (List.range 4).find? fun k => s.flag F.MEM_CH_CFG_EN (4 * k)
  s.f F.MEM_CH_CFG_DENSITY (4 * c) == 3 || decide (32 < s.chCapacity c)
    || (match low with
        | some k => s.chConfig k != s.chConfig c
        | none => false)

def training (s : State) (c : Nat) : Bool := bitOf s.mem.training c
def setTraining (s : State) (c : Nat) (b : Bool) : State :=
  s.modMem fun m => { m with
    training := m.training - (if bitOf m.training c then 2 ^ c else 0) + (if b then 2 ^ c else 0) }

/-- Training of a channel fails: event 462, of the channel's first subchannel (R361). -/
def chFail (s : State) (c cause : Nat) : State :=
  ((((s.setTraining c false).setFlag F.MEM_CH_STAT_UP (4 * c) false).setF F.MEM_CH_STAT_CAUSE (4 * c) cause)).raise 462 1
    (2 * c) (c + 16 * cause)

/-- Training starts: refused at once for its configuration, or in progress. -/
def chTrain (s : State) (c : Nat) : State := if s.chRefused c then s.chFail c 4 else s.setTraining c true

/-- A spilled frame of a channel that goes down is lost (R342): surely when its body covers every channel's block, otherwise
as its place decides, which the spec does not give. -/
def spillLose (s : State) (n : Nat) : List Frame → List Frame × State
  | [] => ([], s)
  | f :: fs =>
    if !f.spilled || f.back then
      let r := s.spillLose n fs
      (f :: r.1, r.2)
    else
      let b := s.takeFree 1
      let r := b.2.spillLose n fs
      ({ f with lost := f.lost || decide (256 * n ≤ f.body) || b.1 == 1 } :: r.1, r.2)

/-- What channel `c` holds is lost (R342). -/
def dramForget (s : State) (c : Nat) : State :=
  let p (k : Nat) : Bool := k % 4 == c
  let s1 : State := { s with dram := sdrop p s.dram }
  s1.modMem fun m => { m with flips := sdrop p m.flips, tags := sdrop p m.tags, spares := m.spares.filter fun y => y.chan != c }

/-- Spilled frames after a change of what `n` channels that held them hold (R342). -/
def queuesLose (s : State) (n : Nat) : State :=
  s.queues.foldl (fun s e =>
    let r := s.spillLose n (s.que e.1).frames
    r.2.setQue e.1 { s.que e.1 with frames := r.1 }) s

/-! ### Failing words (R348, R351 to R353) -/

/-- Channel and channel line address of a DRAM byte address (R343). -/
def dramLine (s : State) (a : Nat) : Nat × Nat := ((s.dramPlace a).1, (s.dramPlace a).2 / 64)

/-! ### Spill area (R345) -/

/-- A spilled frame is held. -/
def spillHeld (s : State) : Bool := s.queues.any fun e => e.2.frames.any fun f => f.spilled && !f.back

/-- A write of MEM_SPILL_BASE_LO (0), _HI (1) or MEM_SPILL_SIZE (2). -/
def spillWrite (s : State) (k : Nat) (v : Word) : State :=
  let m : Word := if k = 0 then 0xFFF00000#32 else if k = 1 then 0xFFFFFFFF#32 else 0x3FFFF#32
  let s1 := s.setReg (0x1200040 + 4 * k) (v &&& m)
  let bad := s.spillHeld || decide (s1.dramTop < s1.spillBase + s1.spillBytes)
    || (s.flag F.CAP_CFG_EN && overlaps s1.capBase s1.capBytes s1.spillBase s1.spillBytes)
  if bad then s.setFlag F.MEM_MODE_AREA_REFUSED 0 true else s1

/-! ### Remapping (R351, R356, R357) -/

/-- Register of a remap entry, or of a spare word entry. -/
def mapReg (chip : Bool) (unit e : Nat) : Nat := if chip then 0x1202000 + 0x20 * unit + 4 * e else 0x1201000 + 0x40 * unit + 4 * e

/-- The entry that serves an address, the lowest of those that name it (R357). -/
def mapFind (s : State) (chip : Bool) (unit addr : Nat) : Option Nat :=
  (List.range (if chip then 8 else 16)).find? fun e =>
    let w := (s.reg (mapReg chip unit e)).toNat
    bitOf w 31 && w % 2 ^ (if chip then 20 else 29) == addr

/-- What the place that serves a line holds (R356). -/
def lineHolds (s : State) (entry : Option Nat) (c line : Nat) : Spare :=
  { entry := entry, chan := c, line := line, tag := sget (fun _ => 0) s.mem.tags (physKey c line),
    bytes := (List.range 64).map fun k => sget (fun _ => 0) s.dram (physKey c (64 * line + k)),
    flips := (List.range 8).map fun k => sget (fun _ => 0) s.mem.flips (physKey c (8 * line + k)) }

/-- What a copy into spare line `e` stores: corrected data where the line is correctable, stored bits where a word of it is
uncorrectable (R356). The copy is a write of its channel, which an armed flip mask corrupts (R360). -/
def lineCopy (s : State) (e c line : Nat) : Spare :=
  let x := s.lineHolds (some e) c line
  let y := match s.placeAddr c (64 * line) with
    | none => x
    | some a =>
      if (List.range 8).any fun k => s.wordVerdict (a + 8 * k) == .bad then x
      else { x with bytes := s.dramRead a 64, flips := List.replicate 8 0, tag := if x.tag = 0 then 0 else a / 64 + 1 }
  if s.flipArmed false c then { y with flips := y.flips.set 0 s.flipMask } else y

/-- The place an entry of a spare, or a line's own location, names. -/
def Spare.at (x : Spare) (entry : Option Nat) (c line : Nat) : Bool :=
  x.entry == entry && x.chan == c && (entry.isSome || x.line == line)

/-- A place holds `x`. -/
def spareSet (s : State) (x : Spare) : State :=
  s.modMem fun m => { m with spares := m.spares.filter (fun y => !Spare.at y x.entry x.chan x.line) ++ [x] }

/-- The place that serves a line holds `x`. -/
def linePut (s : State) (c line : Nat) (x : Spare) : State :=
  let d := (List.range 64).foldl (fun d k => sset (fun _ => 0) d (physKey c (64 * line + k)) (x.bytes.getD k 0)) s.dram
  let s1 : State := { s with dram := d }
  s1.modMem fun m => { m with
    tags := sset (fun _ => 0) m.tags (physKey c line) x.tag
    flips := (List.range 8).foldl (fun f k => sset (fun _ => 0) f (physKey c (8 * line + k)) (x.flips.getD k 0)) m.flips }

/-- A place that served a line no longer does, and another one does: what the line reads as changes with it (R356). -/
def lineServe (s : State) (c line : Nat) (was now : Option Nat) : State :=
  if was = now then s
  else
    let s1 := s.spareSet (s.lineHolds was c line)
    (s1.linePut c line ((s1.mem.spares.find? fun y => Spare.at y now c line).getD {})).modMem fun m => { m with
      spares := m.spares.filter fun y => !Spare.at y now c line }

/-- A write of an entry's register is made, and the lines it named and names follow (R356). -/
def mapMove (s : State) (chip : Bool) (unit e new : Nat) (f : State → State) : State :=
  if chip then f s
  else
    let w := (s.reg (mapReg false unit e)).toNat
    let old := w % 2 ^ 29
    let st := f s
    let s1 := if !bitOf w 31 && bitOf (st.reg (mapReg false unit e)).toNat 31 then
        let z := st.spareSet (s.lineCopy e unit new)
        ((if s.flipArmed false unit then z.flipUsed else z).ddrRd 64).ddrWr 64
      else st
    let s2 := s1.lineServe unit old (s.mapFind false unit old) (s1.mapFind false unit old)
    if new = old then s2 else s2.lineServe unit new (s.mapFind false unit new) (s1.mapFind false unit new)

/-- An entry goes into use: event 459, and REMAPS. -/
def mapUse (s : State) (chip : Bool) (unit e addr : Nat) (auto : Bool) : State :=
  let w := 2 ^ 31 + (if auto then 2 ^ 30 else 0) + addr % 2 ^ (if chip then 20 else 29)
  ((s.mapMove chip unit e (addr % 2 ^ 29) fun s => s.setReg (mapReg chip unit e) (BitVec.ofNat 32 w)).bump (memCnt 12)).raise
    459 1
    (if chip then unit else 2 * unit + addr % 2) ((if chip then 1 else 0) + 2 * e + (if auto then 32 else 0))

/-- An automatic remap takes the lowest free entry, or raises event 460. -/
def mapAuto (s : State) (chip : Bool) (unit addr : Nat) : State :=
  match (List.range (if chip then 8 else 16)).find? fun e => !bitOf (s.reg (mapReg chip unit e)).toNat 31 with
  | some e => s.mapUse chip unit e addr true
  | none => s.raise 460 1 (if chip then unit else 2 * unit + addr % 2) (if chip then 1 else 0)

/-- A write of an entry (R356, R357). The spare copies its line when VALID rises, and is what the line reads as while the entry
serves it; the words of an on-chip group are not held by address (log 223). -/
def mapWrite (s : State) (chip : Bool) (unit e : Nat) (v : Word) : State :=
  let a := mapReg chip unit e
  let addr := v.toNat % 2 ^ (if chip then 20 else 29)
  let was := bitOf (s.reg a).toNat 31
  let put (w : Nat) : State := s.mapMove chip unit e addr fun s => s.setReg a (BitVec.ofNat 32 w)
  if !bitOf v.toNat 31 then put addr
  else if was then put (2 ^ 31 + bitsOf (s.reg a).toNat 30 1 * 2 ^ 30 + addr)
  else s.mapUse chip unit e addr false

/-! ### Correctable words (R351, R353) -/

/-- After its write-back a word is read again (R351): an error that remains is a hard error, remapped with AUTO. -/
def hardWord (s : State) (chip : Bool) (unit word : Nat) : State :=
  let s1 := s.bump (memCnt 11)
  if s1.flag F.MEM_RMP_CFG_AUTO then s1.mapAuto chip unit word else s1

/-- The write-back of a corrected word (R351): superseded, clean, or a hard error. It is a write that an armed flip mask corrupts
(R360); `key` is the place of a DRAM word. -/
def writeBack (s : State) (chip : Bool) (unit word key : Nat) (cancelled hard : Bool) : State :=
  if cancelled then s.bump (memCnt 10)
  else
    let s1 := if chip then s else (s.setMask key 0).ddrWr 64
    let arm := s1.flipArmed chip unit
    let s2 := if arm then (if chip then s1 else s1.setMask key s1.flipMask).flipUsed else s1
    let s3 := if chip then s2 else s2.ddrRd 64
    if hard || (arm && maskVerdict chip s.flipMask != 0) then s3.hardWord chip unit word else s3

/-- A word that is corrected keeps its data as the correction leaves it, under the address of its reader (R351). -/
def wordRight (s : State) (a : Nat) : State :=
  let w := a / 8 * 8
  let bs := s.dramRead w 8
  ((s.dramWrite w bs).setMask (s.wordKey w) 0).modMem fun m =>
    if s.lineSkew w = 0 then m else { m with tags := sset (fun _ => 0) m.tags (s.lineKey w) (w / 64 + 1) }

/-- A correctable read and its write-back: a DRAM byte address, or a word of a macro group. A write-back that a newer write
supersedes leaves that write's word right. -/
def eccOp (s : State) (chip : Bool) (group addr cls req synd : Nat) (cancelled hard : Bool) : State :=
  if chip then (s.memCe true group addr (group * 2 ^ 24 + 8 * (addr % 2 ^ 20)) cls req synd).writeBack true group
    (addr % 2 ^ 20) 0 cancelled hard
  else
    let p := s.dramLine addr
    ((s.memCe false p.1 p.2 addr cls req synd).wordRight addr).writeBack false p.1 p.2 (s.wordKey addr) cancelled hard

/-- The syndrome of a failing DRAM word as the logs show it: S0 in [15:12] to S3 in [3:0] (R353). -/
def wordSynd (s : State) (a : Nat) : Nat :=
  let y := dramSyndrome (s.wordMask a % 2 ^ 64) (s.wordMask a / 2 ^ 64) (s.lineSkew a)
  y.e0 * 4096 + y.e1 * 256 + y.e2 * 16 + y.e3

/-- A failing word met by a read of requester class `cls`, at a DRAM address or a Paddock byte offset: corrected and written
back, or uncorrectable. -/
def failWord (s : State) (chip : Bool) (cls a synd : Nat) (ue cancelled hard : Bool) : State :=
  let g := a / 2097152
  let w := a % 2097152 / 8
  if !ue then s.eccOp chip g (if chip then w else a) cls 0 synd cancelled hard
  else if chip then s.memUe true g w (g * 2 ^ 24 + a % 2097152) cls 0 synd
  else s.memUe false (s.dramLine a).1 (s.dramLine a).2 a cls 0 synd

/-- A DRAM word that the device holds with errors, or under another address, is met. -/
def heldWord (s : State) (cls a : Nat) : State :=
  s.failWord false cls a (s.wordSynd a) (s.wordVerdict a == .bad) false false

/-- A failing word whose stored bits the spec does not give: the memory itself failed. Its syndrome, and what becomes of its
write-back, are free. -/
def hiddenWord (s : State) (chip : Bool) (cls a : Nat) (ue : Bool) : State :=
  let y := s.takeFree (if chip then 8 else 16)
  let z := y.2.takeFree 2
  z.2.failWord chip cls a y.1 ue (bitOf z.1 0) (bitOf z.1 1)

/-- The words of DRAM that hold errors, or lie in a line read under another address than it was written: their addresses,
rising. -/
def badWords (s : State) : List Nat :=
  let ws := s.mem.flips.filterMap (fun e => s.placeAddr (e.1 % 4) (8 * (e.1 / 4)))
    ++ s.mem.tags.flatMap fun e => match s.placeAddr (e.1 % 4) (64 * (e.1 / 4)) with
      | none => []
      | some a => if s.lineSkew a = 0 then [] else (List.range 8).map fun k => a + 8 * k
  (ws.foldl (fun m w => sinsert m w ()) []).map fun e => e.1

/-- Of those, the words between two word numbers that do not read good. -/
def heldFails (s : State) (first last : Nat) : List Nat :=
  s.badWords.filter fun w => decide (first ≤ w / 8) && decide (w / 8 ≤ last) && s.wordVerdict w != .good

/-- A read of `n` DRAM bytes by an engine that stops at an uncorrectable line (R352, R379, R416): the words it meets up to there
are corrected or reported. The bytes before the line it stops at, when one of the range is uncorrectable; `stop` is such a
stop of the memory's own, at the line that byte lies in. -/
def dramMeet (s : State) (cls a n : Nat) (stop : Option Nat) : Option Nat × State :=
  let m := min n (stop.getD n)
  let fs := if m = 0 then [] else s.heldFails (a / 8) ((a + m - 1) / 8)
  let s1 := (fs.takeWhile fun w => s.wordVerdict w != .bad).foldl (fun s w => s.heldWord cls w) s
  match fs.find? fun w => s.wordVerdict w == .bad with
  | some w => (some (w / 64 * 64 - a), s1.heldWord cls w)
  | none => if stop.isSome then (some ((a + m) / 64 * 64 - a), s1.hiddenWord false cls ((a + m) / 64 * 64) true) else (none, s1)

/-! ### The scrubber (R354, R355) -/

/-- Bytes of the memory a scrub job names. -/
def scrubTop (s : State) (unit : Nat) : Nat := if unit = 0 then s.dramTop else padBytes

/-- The place in its ring of the descriptor behind a job (R331). -/
def jobIndex (s : State) (j : Job) : Nat := j.idx % max 1 (s.ringN j.ring)

/-- Event 458: a scrub job has ended (R354). -/
def scrubEvent (s : State) (ring idx unit : Nat) (ue : Bool) : State :=
  s.raise 458 1 0 (ring + idx * 64 + unit * 2 ^ 22 + (if ue then 2 ^ 23 else 0))

/-- A scrub job that ends as it is taken. -/
def scrubOver (s : State) (r : Nat) (d : Desc) (status : Nat) : State :=
  (s.jobAdd r d (some (status, 0, 0, 0, 0))).scrubEvent r
    (((s.ring r).done + s.ringJobs r) % max 1 (s.ringN r)) (d.unit % 2) false

def scrubJobOp (s : State) (r : Nat) (d : Desc) : State :=
  if !s.ringReady r 2 || d.op ≠ 1 then s
  else if jobWraps d then s.jobErr r d 2
  else if d.unit > 1 then s.jobErr r d 4
  else if d.jobLen = 0 then s.scrubOver r d 0
  else if d.unit = 0 ∧ !(s.region 5).on then s.scrubOver r d 16
  else if s.scrubTop d.unit < d.addr + d.jobLen then s.jobErr r d 4
  else s.jobAdd r d none

/-- What a scrub finds so far: words failing with (number, uncorrectable), and the state. -/
abbrev Scrub := List (Nat × Bool) × State

/-- A stored word of a frame that a flip mask corrupted is met by a scrub when it lies in the range: surely when the range is all
of where it may lie, else as a free bit says, in a word of the range that is free. -/
def scrubFrame (unit first last : Nat) (all none : Bool) (f : Frame) (z : Scrub) : Frame × Scrub :=
  if f.flip = 0 || f.away != (unit == 0) || none then (f, z)
  else
    let b := z.2.takeFree 1
    if !all && b.1 = 0 then (f, (z.1, b.2))
    else
      let w := b.2.takeFree 37
      let a := 8 * (first + w.1 % (last - first + 1))
      let ue := f.flip == 2
      let s1 := w.2.hiddenWord (unit != 0) 4 a ue
      (if ue then f else { f with flip := 0 }, (z.1 ++ [(a / 8, ue)], s1))

/-- The same for a list of frames. -/
def scrubFrames (unit first last : Nat) (all none : Bool) : List Frame → Scrub → List Frame × Scrub
  | [], z => ([], z)
  | f :: fs, z =>
    let r := scrubFrame unit first last all none f z
    let q := scrubFrames unit first last all none fs r.2
    (r.1 :: q.1, q.2)

/-- The frames that wait in queues, and those of the reorder store. -/
def scrubStored (unit first last : Nat) (all none : Bool) (z : Scrub) : Scrub :=
  let q := z.2.queues.foldl (fun z e =>
    let r := scrubFrames unit first last all none (z.2.que e.1).frames z
    (r.2.1, r.2.2.setQue e.1 { r.2.2.que e.1 with frames := r.1 })) z
  let h := scrubFrames unit first last all none (q.2.prt.held.map fun x => x.frame) q
  (h.2.1, h.2.2.modPrt fun p => { p with held := (p.held.zip h.1).map fun e => { e.1 with frame := e.2 } })

/-- A scrub job has covered its first `n` bytes: the memory's own failing words (byte address, uncorrectable), those the device
holds, and the frames whose words it meets (R354). -/
def scrubWords (s : State) (j : Job) (n : Nat) (fails : List (Nat × Bool)) : Scrub :=
  if n = 0 then ([], s)
  else
    let first := j.addr / 8
    let last := (j.addr + n - 1) / 8
    let dram := j.unit == 0
    let own := fails.filter fun f => decide (first ≤ f.1 / 8) && decide (f.1 / 8 ≤ last)
    let held := if dram then s.heldFails first last else []
    let found := own.map (fun f => (f.1 / 8, f.2)) ++ held.map fun w => (w / 8, s.wordVerdict w == .bad)
    let s1 := own.foldl (fun s f => s.hiddenWord (!dram) 4 f.1 f.2) (if dram then s.ddrRd n else s)
    let s2 := held.foldl (fun s w => s.heldWord 4 w) s1
    let all := if dram then decide (8 * first ≤ s.spillBase) && decide (s.spillBase + s.spillBytes ≤ 8 * last + 8)
      else first == 0 && last + 1 == padBytes / 8
    let none := dram && !overlaps (8 * first) (8 * (last + 1 - first)) s.spillBase s.spillBytes
    scrubStored j.unit first last all none (found, s2)

/-- A scrub job ends with `status` after covering `n` bytes (R355). -/
def scrubClose (s : State) (j : Job) (n status : Nat) (fails : List (Nat × Bool)) : State :=
  let z := s.scrubWords j n fails
  let ce := (z.1.filter fun f => !f.2).length
  let ue := (z.1.filter fun f => f.2).length
  let ws := z.1.map fun f => f.1
  let lo := ws.min?.getD 0
  let hi := ws.max?.getD 0
  let words := if n = 0 then 0 else (j.addr + n - 1) / 8 - j.addr / 8 + 1
  (z.2.jobEnd (fun i => i == j)
    (status, n, words % 2 ^ 32 + min ce 0xFFFF * 2 ^ 32 + min ue 0xFFFF * 2 ^ 48, 8 * lo, hi - lo)).scrubEvent j.ring
    (s.jobIndex j) j.unit (ue != 0)

/-- Scrub jobs that wait or run. -/
def scrubsOpen (s : State) : List Job := s.jobs.filter fun j => j.res.isNone && j.op == 1

/-- Bytes of its range that a stopped job has covered: the spec leaves open how far it has come. -/
def scrubCovered (s : State) (j : Job) : Nat × State :=
  let c := s.takeFree 64
  (c.1 % (j.len + 1), c.2)

/-- Scrub jobs over DRAM stop with NO_MEMORY, because a channel fails (R355): the one that runs after a part of its range, the
others before it. -/
def scrubStop (s : State) : State :=
  match s.scrubsOpen with
  | [] => s
  | j :: js =>
    let s1 := if j.unit = 0 then let c := s.scrubCovered j; c.2.scrubClose j c.1 16 [] else s
    (js.filter fun i => i.unit == 0).foldl (fun z i => z.scrubClose i 0 16 []) s1

/-- The oldest scrub job ends: `fails` are the failing words that it met of the memory's own, `stopped` a channel failure. -/
def scrubEnd (s : State) (fails : List (Nat × Bool)) (stopped : Bool) : State :=
  match s.scrubsOpen with
  | [] => s
  | j :: _ =>
    if stopped then let c := s.scrubCovered j; c.2.scrubClose j c.1 16 fails
    else s.scrubClose j j.len 0 fails

/-! ### Channels that go down or come up (R342, R415) -/

/-- A channel goes down (R342, R415): its contents are lost. -/
def chDown (s : State) (c : Nat) : State :=
  if !s.flag F.MEM_CH_STAT_UP (4 * c) then s.setTraining c false
  else ((((s.scrubStop.queuesLose s.chUp.length).dramForget c).setFlag F.MEM_CH_STAT_UP (4 * c) false)).capMemLost

/-- A write of MEM_CH_CFG_c (R342). -/
def chCfgWrite (s : State) (c : Nat) (v : Word) : State :=
  let i := 4 * c
  let on := F.MEM_CH_CFG_EN.of v == 1
  if s.flag F.MEM_CH_CFG_EN i then
    (if on then s else (s.setFlag F.MEM_CH_CFG_EN i false).chDown c)
  else
    let s1 := s.setReg (0x1200010 + i) (v &&& 0x80FC0000#32)
    if on then s1.chTrain c else s1

/-- Training of a channel ends (R342). A channel that differs from one enabled meanwhile is refused. When it comes up, addresses
lie elsewhere (R343): what each place holds stays there, and is read under its new address.  -/
def chTrained (s : State) (c : Nat) (fail : Option Nat) : State :=
  if !s.training c then s
  else match fail with
    | some cause => s.chFail c cause
    | none =>
      let i := 4 * c
      let s1 := ((s.setTraining c false).setF F.MEM_CH_STAT_CAUSE i 0).setF F.MEM_CH_STAT_SIZE_GB i (s.chCapacity c)
      if s.chRefused c then s.chFail c 4
      else if s1.flag F.MEM_CH_STAT_STEST_FAIL i || s1.flag F.MEM_CH_STAT_UP i then s1
      else (s1.queuesLose (2 ^ 32)).setFlag F.MEM_CH_STAT_UP i true

/-! ### Service modes, self-test, flip mask (R358 to R360) -/

/-- One checker fails its self-test (R359). The cells of a Paddock group that are in use are withdrawn as they come free. -/
def stestOne (s : State) (x : StestFail) : State :=
  let s1 := s.setFlag F.MEM_STEST_FAIL 0 true
  let e (s : State) : State := s.raise 461 1 (if x.chip then x.unit else 2 * x.unit) ((if x.chip then 1 else 0) + x.cls % 16 * 16)
  if x.chip then
    let s2 := s1.satF F.MEM_STEST_GROUPS_FAILED 0 1
    if x.unit < 48 then
      let n := min s2.padFree (groupCells x.unit)
      e ((s2.padTake n).modMem fun m => { m with owed := m.owed + groupCells x.unit - n })
    else e (s2.modMem fun m => { m with held := if m.held.contains x.unit then m.held else m.held ++ [x.unit] })
  else
    let c := x.unit % 4
    let m := s1.f F.MEM_STEST_CH_FAIL
    let s2 := (s1.setF F.MEM_STEST_CH_FAIL 0 (if bitOf m c then m else m + 2 ^ c)).setFlag F.MEM_CH_STAT_STEST_FAIL (4 * c)
      true
    e (s2.chDown c)

/-- The self-test of every checker, within the command that causes it. -/
def stest (s : State) (fails : List StestFail) : State := fails.foldl (fun s x => s.stestOne x) s

/-- The operand of a command that tests the checkers: (on-chip, macro group or channel, injected class). -/
def stestOf (fails : List (Bool × Fin 128 × Fin 16)) : List StestFail :=
  fails.map fun f => { chip := f.1, unit := f.2.1.val, cls := f.2.2.val }

/-- NORMAL. -/
def memNormal (s : State) : Bool := s.f F.MEM_MODE_MODE == 1

/-- Whether a checker fails is a matter of the silicon, and the general register write does not say: which do, and the class that
shows it, are free. -/
def stestFree (s : State) : List StestFail × State :=
  let m := s.takeFree 88
  let c := m.2.takeFree 4
  (((List.range 88).filter fun i => bitOf m.1 i).map fun i =>
    if i < 84 then { chip := true, unit := chipGroup i, cls := c.1 } else { unit := i - 84, cls := c.1 }, c.2)

/-- A write of MEM_MODE (R358): the sticky bits, then the transition. -/
def memModeW (s : State) (v : Word) (fails : List StestFail) : State :=
  let s1 := if F.MEM_MODE_AREA_REFUSED.of v = 1 then s.setFlag F.MEM_MODE_AREA_REFUSED 0 false else s
  let s2 := if F.MEM_MODE_FLIP_REFUSED.of v = 1 then s1.setFlag F.MEM_MODE_FLIP_REFUSED 0 false else s1
  match s.f F.MEM_MODE_MODE, F.MEM_MODE_MODE.of v with
  | 0, 1 => (s2.setF F.MEM_MODE_MODE 0 1).stest fails
  | 0, 2 => s2.setF F.MEM_MODE_MODE 0 2
  | 3, 1 => (s2.setF F.MEM_MODE_MODE 0 1).stest fails
  | _, _ => s2

/-- A write of MEM_MODE that does not say which checkers fail. -/
def memModeWrite (s : State) (v : Word) : State :=
  if s.memNormal || F.MEM_MODE_MODE.of v != 1 then s.memModeW v [] else s.stestFree.2.memModeW v s.stestFree.1

/-- A write of MEM_FLIP_CFG (0) or of a mask (1 to 3) (R360). -/
def flipWrite (s : State) (k : Nat) (v : Word) : State :=
  if s.memNormal then s.setFlag F.MEM_MODE_FLIP_REFUSED 0 true
  else s.setReg (0x1200090 + 4 * k) (v &&& (if k = 0 then 0x800000FF#32 else if k = 3 then 0xFFFF#32 else 0xFFFFFFFF#32))

end State

/-! ### The commands -/

/-- DRAM_CHANNEL_ENABLE (R342): a write of MEM_CH_CFG_c with EN = 1. -/
def execDramChannelEnable (q : Req) (c : Fin 4) (v : Word) (s : State) : Host.Outcome State Fault Refusal :=
  .next (s.guardW q (0x1200010 + 4 * c.val) fun s => s.chCfgWrite c.val (v ||| 0x80000000#32))

/-- DRAM_TRAINING_END (R342): with the cause of a failure, 0 to 3. -/
def execDramTrainingEnd (c : Fin 4) (fail : Option (Fin 4)) (s : State) : Host.Outcome State Fault Refusal :=
  .next (s.chTrained c.val (fail.map Fin.val))

/-- DRAM_CHANNEL_DOWN (R342). -/
def execDramChannelDown (c : Fin 4) (s : State) : Host.Outcome State Fault Refusal := .next (s.chDown c.val)

/-- SPILL_AREA_WRITE (R345): MEM_SPILL_BASE_LO (0), _HI (1) or MEM_SPILL_SIZE (2). -/
def execSpillAreaWrite (q : Req) (k : Fin 3) (v : Word) (s : State) : Host.Outcome State Fault Refusal :=
  .next (s.guardW q (0x1200040 + 4 * k.val) fun s => s.spillWrite k.val v)

/-- ECC_WRITE_BACK (R351): a correctable read of requester class `cls`, and what became of its write-back. -/
def execEccWriteBack (chip : Bool) (group : Fin 128) (addr : Nat) (cls : Fin 8) (req : Nat) (synd : Nat)
    (cancelled hard : Bool) (s : State) : Host.Outcome State Fault Refusal :=
  .next (s.eccOp chip group.val addr cls.val req synd cancelled hard)

/-- REMAP_ENTRY_WRITE (R356). -/
def execRemapEntryWrite (q : Req) (c : Fin 4) (e : Fin 16) (v : Word) (s : State) : Host.Outcome State Fault Refusal :=
  .next (s.guardW q (State.mapReg false c.val e.val) fun s => s.mapWrite false c.val e.val v)

/-- SPARE_ENTRY_WRITE (R357). -/
def execSpareEntryWrite (q : Req) (g : Fin 128) (e : Fin 8) (v : Word) (s : State) : Host.Outcome State Fault Refusal :=
  .next (s.guardW q (State.mapReg true g.val e.val) fun s => s.mapWrite true g.val e.val v)

/-- MEM_MODE_WRITE (R358, R359), with the checkers that fail the self-test of an entry to NORMAL: (on-chip, macro group or
channel, injected class). -/
def execMemModeWrite (q : Req) (v : Word) (fails : List (Bool × Fin 128 × Fin 16)) (s : State) :
    Host.Outcome State Fault Refusal :=
  .next (s.guardW q 0x1200000 fun s => s.memModeW v (State.stestOf fails))

/-- FLIP_ARM (R360): a write of MEM_FLIP_CFG with ARM. -/
def execFlipArm (q : Req) (v : Word) (s : State) : Host.Outcome State Fault Refusal :=
  .next (s.guardW q 0x1200090 fun s => s.flipWrite 0 (v ||| 0x80000000#32))

/-- SCRUB_JOB (R354). -/
def execScrubJob (r : Fin 64) (d : Desc) (s : State) : Host.Outcome State Fault Refusal := .next (s.scrubJobOp r.val d)

/-- SCRUB_JOB_END (R355). -/
def execScrubJobEnd (fails : List (Nat × Bool)) (stopped : Bool) (s : State) : Host.Outcome State Fault Refusal :=
  .next (s.scrubEnd fails stopped)

/-- CAPTURE_READOUT_END (R315, R352, R416): the copy ends whole, or before an uncorrectable line; `ue` bytes before one of the
memory's own. -/
def execCaptureReadoutEnd (ue : Option Nat) (s : State) : Host.Outcome State Fault Refusal :=
  .next (if s.flag F.CAP_RD_CTRL_BUSY && s.hostOk && s.xOpen 8 && s.xOpen 9 then
    let (base, ofs, len, dst) := s.cp.capRd
    let m := s.dramMeet 3 (base + ofs) len ue
    let n := m.1.getD len
    ((m.2.hostWrite dst (s.dramRead (base + ofs) n)).ddrRd n).capRdEnd (if m.1.isSome then 3 else 1) n
    else s)

end Sys2Proof.Machine
end

