-- ==== Sys2Proof/Machine/Keys.lean ====
section
/-! DEFINITION. Key commands, CMAC and unwrap jobs, the entropy source and the check-value units
(spec/14_keys_checks.md, R363 to R380). -/

namespace Sys2Proof.Machine

/-- Whole 16-byte blocks, and how a CMAC job's descriptor fails (R372). -/
def cmacLenBad (n : Nat) : Bool := n % 16 != 0

namespace State

/-! ### Slots in use (R364) -/

/-- A valid line key entry that is in effect names the slot (R367). -/
def lineUses (s : State) (slot : Nat) : Bool :=
  let names (w : Word) : Bool := F.SEC_DKEY_VALID.of w == 1 && (F.SEC_DKEY_SLOT1.of w == slot || F.SEC_DKEY_SLOT2.of w == slot)
  let table (a : Nat) : Bool := decide (0x1310000 ≤ a) && decide (a < 0x1320000)
  let waits (x : Side) (e : Nat × Option Word) : Bool := table e.1 && (e.2.map names).getD false
    && decide (e.1 % 0x8000 / 0x4000 = sideNo x)
  s.regs.any (fun e => table e.1 && names (if e.1 < 0x1318000 then
      s.eff (if e.1 % 0x8000 < 0x4000 then .a else .b) e.1 else e.2))
    || (s.line .a).effOld.any (waits .a) || (s.line .b).effOld.any (waits .b)

/-- A CMAC job that is queued or running names the slot. -/
def cmacUses (slot : Nat) (j : Job) : Bool := j.res.isNone && !j.waiting && j.op == 3 && j.arg0 % 64 == slot

/-- A running unwrap job names the slot as KEK or destination. -/
def unwJobUses (slot : Nat) (j : Job) : Bool :=
  j.res.isNone && !j.waiting && j.op == 4 && (j.arg0 % 64 == slot || bitsOf j.arg0 8 6 == slot)

/-- How a slot is in use: 0 line table, 1 CMAC, 2 unwrap, 3 Tack load, 4 Groom image load (R380). -/
def slotUse (s : State) (slot : Nat) : Option Nat :=
  if s.lineUses slot then some 0
  else if s.jobs.any (cmacUses slot) || s.sec.calls.any (fun c => c.slot == slot) then some 1
  else if s.jobs.any (unwJobUses slot) || s.sec.unw.any (fun u => u.kek == slot || u.dest == slot) then some 2
  else if (List.range 16).any fun t => s.f F.CRS_TEAM_STAT_STATE (0x10000 * t) == 2
      && s.flag F.CRS_LOAD_CFG_AUTH (0x10000 * t) && s.f F.CRS_LOAD_CFG_KEY_SLOT (0x10000 * t) == slot then some 3
  else if s.pwr.imgLoad && s.flag F.GRM_LOAD_CFG_AUTH && s.f F.GRM_LOAD_CFG_KEY_SLOT == slot then some 4
  else none

/-! ### Key commands (R363, R365) -/

/-- The requester named in SEC_CFG.OWNER. -/
def secOwner (s : State) (q : Req) : Bool := s.f F.SEC_CFG_OWNER == reqCode q

/-- A staged word of a requester. -/
def keyStaged (s : State) (q : Req) (k : Nat) : Word := sget (fun _ => 0) s.sec.stage (reqCode q * 16 + k)
def setKeyStaged (s : State) (q : Req) (k : Nat) (v : Word) : State :=
  s.modSec fun c => { c with stage := sset (fun _ => 0) c.stage (reqCode q * 16 + k) v }
def unwStaged (s : State) (q : Req) (k : Nat) : Word := sget (fun _ => 0) s.sec.unwStage (reqCode q * 16 + k)
def setUnwStaged (s : State) (q : Req) (k : Nat) (v : Word) : State :=
  s.modSec fun c => { c with unwStage := sset (fun _ => 0) c.unwStage (reqCode q * 16 + k) v }

/-- A key command completes. -/
def keyDone (s : State) (q : Req) (res : Nat) : State :=
  s.setReg (bankKey q 0x1300034) (BitVec.ofNat 32 (2 ^ 30 + res))

/-- Event 472: a refused LOAD or ERASE. -/
def keyRefused (s : State) (q : Req) (slot op use : Nat) : State :=
  s.raise 472 1 0 (slot + (op - 1) * 256 + use * 4096 + reqCode q * 65536)

/-- LOAD (op 1) and ERASE (op 2): the owner's, on a slot not in use. -/
def keyChange (s : State) (q : Req) (op slot : Nat) (k : List Byte) : State :=
  if !s.secOwner q then (s.keyDone q 2).keyRefused q slot op ((s.slotUse slot).getD 0)
  else match s.slotUse slot with
    | some u => (s.keyDone q 1).keyRefused q slot op u
    | none =>
      let s1 := s.keySet slot k
      let s2 := if op = 1 then (List.range 8).foldl (fun s i => s.setKeyStaged q i 0) s1 else s1
      s2.keyDone q 0

/-- The staged key of a requester (R363): byte 0 in bits [31:24] of word 0. -/
def stagedBytes (s : State) (q : Req) (size256 : Bool) : List Byte :=
  (List.range (if size256 then 8 else 4)).flatMap fun k => beBytes 4 (s.keyStaged q k).toNat

/-- A CMAC or unwrap request fails (R375): counted, and event 476. -/
def cmacFail (s : State) (status slot : Nat) (call : Bool) (req : Nat) : State :=
  (s.bump (secCnt 10)).raise 476 1 0 (status + slot * 256 + (if call then 2 ^ 14 else 0) + req * 65536)

/-! ### The running value of a check-value unit (R377) -/

def chkI (u : Nat) : Nat := 0x100 * u

/-- Effective width of a unit. -/
def chkWidth (s : State) (u : Nat) : Nat := min 64 (max 1 (s.f F.CHK_CFG_WIDTH (chkI u)))

/-- A 64-bit pair of a unit at LO offset `o`, below its width. -/
def chkPair (s : State) (u o : Nat) : Nat :=
  ((s.reg (0x1308000 + chkI u + o)).toNat + 2 ^ 32 * (s.reg (0x1308004 + chkI u + o)).toNat) % 2 ^ s.chkWidth u

/-- Set the running value. -/
def setRun (s : State) (u v : Nat) : State :=
  (s.setReg (0x1308018 + chkI u) (BitVec.ofNat 32 v)).setReg (0x130801C + chkI u) (BitVec.ofNat 32 (v / 2 ^ 32))

/-- INIT loads R. -/
def chkInit (s : State) (u : Nat) : State := s.setRun u (s.chkPair u 0x10)

/-- Bytes into a unit (R377), counted in CHK_BYTES. -/
def chkBytes (s : State) (u : Nat) (bs : List Byte) : State :=
  let bs' := if s.flag F.CHK_CFG_REFIN (chkI u) then bs.map fun b => BitVec.ofNat 8 (reflect 8 b.toNat) else bs
  (s.setRun u (crcBytes (s.chkWidth u) (s.chkPair u 8) bs' (s.chkPair u 0x18))).bump (secCnt 12) bs.length

/-- The output of a unit from its R (R377). -/
def chkOut (s : State) (u : Nat) : Nat :=
  let w := s.chkWidth u
  let r := s.chkPair u 0x18
  let r := if s.flag F.CHK_CFG_REFOUT (chkI u) then reflect w r else r
  if s.flag F.CHK_CFG_INV (chkI u) then r ^^^ (2 ^ w - 1) else r

/-- A unit serves a source. -/
def chkBusy (s : State) (u : Nat) : Bool := s.flag F.CHK_SCAN_CTRL_BUSY (chkI u)

/-! ### Jobs that wait for their engine (R372, R378) -/

/-- Jobs an engine runs or holds. -/
def engineJobs (s : State) (op : Nat) : Nat := (s.jobs.filter fun j => j.res.isNone && !j.waiting && j.op == op).length

/-- What the queue of the CMAC engine holds (R372): CMAC and unwrap jobs of JOB rings, and Courser calls. -/
def cmacLoad (s : State) : Nat := s.engineJobs 3 + s.engineJobs 4 + s.sec.calls.length

/-- A waiting job is taken by its engine, or ends at once. -/
def jobTake (s : State) (j : Job) (res : Option (Nat × Nat × Nat × Nat × Nat)) : State :=
  ({ s with
    jobs := s.jobs.map fun i => if i == j then { i with waiting := false, res := res, seq := s.cmacSeq } else i,
    cmacSeq := s.cmacSeq + 1 }).jobFlush (s.jobs.length + 1)

/-- A waiting CMAC job: refused, or queued (R375). -/
def cmacTake (s : State) (j : Job) : State :=
  let slot := j.arg0 % 64
  if s.flag F.SEC_ENT_STAT_FAIL then (s.cmacFail 17 slot false 1).jobTake j (some (17, 0, 0, 0, 0))
  else if s.keyEmpty slot then (s.cmacFail 16 slot false 1).jobTake j (some (16, 0, 0, 0, 0))
  else s.jobTake j none

/-- A waiting check-value job takes its unit (R379): INIT is loaded unless it continues, and a length of 0 ends at once. -/
def chkTake (s : State) (j : Job) : State :=
  let u := j.unit
  let s1 := if bitOf j.arg0 1 then s else s.chkInit u
  if j.len = 0 then s1.jobTake j (some (0, 0, s1.chkOut u, s1.chkPair u 0x18, 0))
  else (s1.setFlag F.CHK_SCAN_CTRL_BUSY (chkI u) true).jobTake j none

/-- The refusal of an unwrap before it starts (R374, R375): 0 when it may run. -/
def unwrapRefused (s : State) (kek dest : Nat) : Nat :=
  if s.flag F.SEC_ENT_STAT_FAIL then 17
  else if s.keyEmpty kek then 16
  else if !s.keyEmpty dest || (s.slotUse dest).isSome then 20
  else 0

/-- A waiting unwrap job: refused, or queued (R375). -/
def unwrapTake (s : State) (j : Job) : State :=
  match s.unwrapRefused (j.arg0 % 64) (bitsOf j.arg0 8 6) with
  | 0 => s.jobTake j none
  | c + 1 => (s.cmacFail (c + 1) (j.arg0 % 64) false 1).jobTake j (some (c + 1, 0, 0, 0, 0))

/-- The engine of a waiting job has room for it. -/
def jobMay (s : State) (j : Job) : Bool :=
  j.waiting && (if j.op = 2 then !s.chkBusy j.unit else decide (s.cmacLoad < 64))

/-- Waiting jobs whose engine has room go on, the oldest first. -/
def jobsGo (s : State) : State :=
  s.jobs.foldl (fun z j => if !z.jobMay j then z else if j.op = 3 then z.cmacTake j else if j.op = 4 then z.unwrapTake j
    else z.chkTake j) s

/-! ### Courser calls (R223, R372) -/

/-- A call leaves the queue: the thread that still waits for it is ready again, with its status and results. -/
def callDone (s : State) (c : CmacCall) (st : CallStat) (res : List Nat := []) : State :=
  let s1 := s.modSec fun x => { x with calls := x.calls.erase c }
  if (s1.thread c.thread).busy && (s1.thread c.thread).call == some c.seq then
    let s2 := s1.callEnd c.thread c.word st res
    s2.setThread c.thread { s2.thread c.thread with call := none, wait := 0 }
  else s1

/-- Requester code of the team of a call. -/
def callReq (c : CmacCall) : Nat := 16 + c.thread / 64

/-- Every call that names a slot ends with KEY_ERASED (R365, R375). -/
def callsKill (s : State) (slot : Nat) : State :=
  (s.sec.calls.filter fun c => c.slot == slot).foldl (fun z c => (z.cmacFail 18 slot true (callReq c)).callDone c .keyErased) s

/-! ### Erasure (R365) -/

/-- Jobs that match end with a status. -/
def jobsKill (s : State) (p : Job → Bool) (status : Nat) : State :=
  let s1 := (s.jobs.filter p).foldl (fun z j => z.cmacFail status (j.arg0 % 64) false 1) s
  ({ s1 with jobs := s1.jobs.map fun j => if p j then { j with res := some (status, 0, 0, 0, 0) } else j }).jobFlush
    (s1.jobs.length + 1)

/-- A register unwrap ends with a status. -/
def unwEnd (s : State) (u : Unw) (status : Nat) : State :=
  (s.modSec fun c => { c with unw := c.unw.erase u }).setReg (u.req * 2 ^ 25 + 0x130006C)
    (BitVec.ofNat 32 (2 ^ 30 + status))

/-- Upstream queue `q` needs the slot on a side now (R369). -/
def queueNeeds (s : State) (x : Side) (slot q : Nat) : Bool :=
  let k := s.lineIdx x q
  decide (q < 4096) && k.1 != 0 && k.2 == slot

/-- Frames of a side that need the slot are marked as lost to it: those of its burst buffer and of the upstream queues, and what
has come in of the downstream frame in progress (R365). -/
def lineErase (s : State) (x : Side) (slot : Nat) : State :=
  let hit (p : Partial) : Partial := if s.queueNeeds x slot p.frame.outQ then { p with erased := true } else p
  let s1 := s.modLine x fun l => { l with
    partials := l.partials.map fun e => (e.1, e.2.map hit), buffered := l.buffered.map fun e => (e.1, e.2.map hit),
    keyLost := l.keyLost ++ [(slot, s.tick)] }
  let mark (f : Frame) : Frame := { f with erased := f.erased ||| (sideNo x + 1) }
  { s1 with queues := s1.queues.map fun e =>
    if s.queueNeeds x slot e.1 then (e.1, { e.2 with frames := e.2.frames.map mark }) else e }

/-- A slot is zeroed at once and everything that uses it ends (R365); `code` is the requester's, 0 for hardware. -/
def eraseSlot (s : State) (slot code : Nat) : State :=
  let n := (s.jobs.filter (cmacUses slot)).length + (s.sec.calls.filter fun c => c.slot == slot).length
  let s1 := (((s.lineErase .a slot).lineErase .b slot).keySet slot []).raise 473 1 0
    (slot + code * 65536 + min n 255 * 2 ^ 24)
  let s2 := ((s1.jobsKill (cmacUses slot) 18).callsKill slot).jobsKill (unwJobUses slot) 18
  let us := s2.sec.unw.filter fun u => u.kek == slot || u.dest == slot
  (us.foldl (fun s u => (s.unwEnd u 18).cmacFail 18 slot false u.req) s2).jobsGo

/-- FORCE_ERASE (R365). -/
def keyForce (s : State) (q : Req) (slot : Nat) : State :=
  if !s.secOwner q then s.keyDone q 2 else (s.eraseSlot slot (reqCode q)).keyDone q 0

/-- A SEC_KEY_CMD write as a whole. An OP the table does not list has no effect, but for the RESULT of a requester that is not the
owner. -/
def keyCommand (s : State) (q : Req) (v : Word) : State :=
  let slot := F.SEC_KEY_CMD_SLOT.of v
  match F.SEC_KEY_CMD_OP.of v with
  | 1 => s.keyChange q 1 slot (s.stagedBytes q (F.SEC_KEY_CMD_SIZE.of v == 1))
  | 2 => s.keyChange q 2 slot []
  | 3 => s.keyForce q slot
  | _ => if s.secOwner q then s else s.keyDone q 2

/-! ### Line key tables and the index switch (R367, R370) -/

/-- A write of a line key table entry by its owner: a downstream entry waits for the frame boundary. -/
def lineKeyWrite (s : State) (q : Req) (x : Side) (up : Bool) (n : Nat) (v : Word) : State :=
  if !s.secOwner q then s
  else if up then s.setReg (0x1318000 + dkey x n) (v &&& 0xC0003F3F#32)
  else s.stageReg x (0x1310000 + dkey x n) (v &&& 0xC0003F3F#32)

/-- A write of SEC_LSW_x (R370): LATE is cleared by anyone, the rest is the owner's. -/
def lswWrite (s : State) (q : Req) (x : Side) (v : Word) : State :=
  let i := 0x10 * sideNo x
  let s1 := if F.SEC_LSW_LATE.of v = 1 then s.setFlag F.SEC_LSW_LATE i false else s
  if !s1.secOwner q then s1
  else
    let s2 := s1.setF F.SEC_LSW_NEXT i (F.SEC_LSW_NEXT.of v)
    if F.SEC_LSW_ARM.of v = 0 then s2
    else
      let n := s2.f F.SEC_LSW_SFC_LO_SFC i + 2 ^ 32 * s2.f F.SEC_LSW_SFC_HI_SFC i
      let passed := decide (((s2.line x).curSfc + 2 ^ 51 - n % 2 ^ 51) % 2 ^ 51 < 2 ^ 50)
      let arm : KeyArm := { next := F.SEC_LSW_NEXT.of v, sfc := n, late := passed }
      let s3 := (s2.modSec fun c => { c with arms := sset (fun _ => {}) c.arms (sideNo x) arm }).setFlag F.SEC_LSW_PENDING i true
      if passed then s3.setFlag F.SEC_LSW_LATE i true else s3

/-! ### CMAC (R372, R373, R375) -/

/-- The result of a CMAC operation: tag, or a status of R375. -/
def cmacRun (s : State) (slot : Nat) (padded : Bool) (data : List Byte) : Except Nat Nat :=
  if data.isEmpty then .ok 0
  else if s.flag F.SEC_ENT_STAT_FAIL then .error 17
  else if s.keyEmpty slot then .error 16
  else .ok (cmacTag (s.keyOf slot) padded data)

/-- A CMAC job (R375): it waits for room in the engine's queue. -/
def cmacJobOp (s : State) (r : Nat) (d : Desc) : State :=
  if !s.ringReady r 2 || d.op ≠ 3 then s
  else if jobWraps d then s.jobErr r d 2
  else if cmacLenBad d.jobLen then s.jobErr r d 4
  else if d.jobLen = 0 then (s.bump (secCnt 9)).jobAdd r d (some (0, 0, 0, 0, 0))
  else (s.jobAdd r d none true).jobsGo

/-- The oldest CMAC job of the engine's queue. -/
def cmacJob (s : State) : Option Job :=
  (s.jobs.filter fun j => j.res.isNone && !j.waiting && j.op == 3).foldl (fun m j => match m with
    | none => some j
    | some i => if j.seq < i.seq then some j else some i) none

/-- The call whose turn it is (R372): the oldest of a thread that holds an Express frame, else the oldest where no older job
stands before it. -/
def cmacCall (s : State) : Option CmacCall :=
  match s.sec.calls.find? fun c => c.exp with
  | some c => some c
  | none => s.sec.calls.head?.filter fun c => (s.cmacJob.map fun j => decide (c.seq < j.seq)).getD true

/-- The CMAC of a call ends. -/
def cmacCallEnd (s : State) (c : CmacCall) : State :=
  match s.cmacRun c.slot c.padded c.data with
  | .ok t => (s.bump (secCnt 9)).callDone c .ok [t % 2 ^ 64, t / 2 ^ 64]
  | .error e => (s.cmacFail e c.slot true (callReq c)).callDone c .refused

/-- The CMAC of a job ends, while host memory may be read (R315). -/
def cmacJobEnd (s : State) (data : List Byte) (rd : HostRead) : State :=
  match s.cmacJob with
  | none => s
  | some j =>
    let p (i : Job) : Bool := i == j
    if !s.hostOk then s
    else if rd != .data then (s.readTimeout rd j.ring).jobEnd p (2, 0, 0, 0, 0)
    else match s.cmacRun (j.arg0 % 64) (bitOf j.arg0 8) (bytesAt data 0 j.len) with
      | .ok t => (s.bump (secCnt 9)).jobEnd p (0, j.len, t % 2 ^ 64, t / 2 ^ 64, 0)
      | .error c => (s.cmacFail c (j.arg0 % 64) false 1).jobEnd p (c, 0, 0, 0, 0)

/-- The CMAC engine ends the request whose turn it is: `data` is what the read of host memory delivered, for a job. -/
def cmacEnd (s : State) (data : List Byte) (rd : HostRead) : State :=
  (match s.cmacCall with
    | some c => s.cmacCallEnd c
    | none => s.cmacJobEnd data rd).jobsGo

/-! ### Key unwrap (R374, R375) -/

/-- An unwrap job (R375): it waits for room in the engine's queue. -/
def unwrapJobOp (s : State) (r : Nat) (d : Desc) : State :=
  if !s.ringReady r 2 || d.op ≠ 4 then s
  else if jobWraps d then s.jobErr r d 2
  else if d.jobLen = 0 then s.jobAdd r d (some (0, 0, 0, 0, 0))
  else if d.jobLen ≠ 24 ∧ d.jobLen ≠ 40 then s.jobErr r d 4
  else (s.jobAdd r d none true).jobsGo

/-- The unwrapped key into its slot, or the status of its failure. -/
def unwrapRun (s : State) (kek dest : Nat) (data : List Byte) : Nat × State :=
  if s.flag F.SEC_ENT_STAT_FAIL then (17, s)
  else match keyUnwrap (s.keyOf kek) data with
    | some k => (0, s.keySet dest k)
    | none => (19, s)

/-- The oldest unwrap job ends, while host memory may be read (R315). -/
def unwrapJobEnd (s : State) (data : List Byte) (rd : HostRead) : State :=
  match s.jobs.find? fun j => j.res.isNone && !j.waiting && j.op == 4 && s.hostOk with
  | none => s
  | some j =>
    let p (i : Job) : Bool := i == j
    (if rd != .data then (s.readTimeout rd j.ring).jobEnd p (2, 0, 0, 0, 0)
    else
      let kek := j.arg0 % 64
      let dest := bitsOf j.arg0 8 6
      let z := s.unwrapRun kek dest (bytesAt data 0 j.len)
      if z.1 = 0 then z.2.jobEnd p (0, j.len, 0, 0, z.2.f F.SEC_SLOT_KCV (4 * dest))
      else (z.2.cmacFail z.1 kek false 1).jobEnd p (z.1, 0, 0, 0, 0)).jobsGo

/-- A SEC_UNW_CMD write with GO (R374). -/
def unwCommand (s : State) (q : Req) (v : Word) : State :=
  let kek := F.SEC_UNW_CMD_KEK.of v
  let dest := F.SEC_UNW_CMD_DEST.of v
  let busy := s.sec.unw.any fun u => u.req == reqCode q
  if F.SEC_UNW_CMD_GO.of v = 0 || !s.secOwner q || busy then s
  else match s.unwrapRefused kek dest with
    | 0 =>
      let n := if F.SEC_UNW_CMD_SIZE.of v = 1 then 10 else 6
      let data := (List.range n).flatMap fun k => beBytes 4 (s.unwStaged q k).toNat
      (s.modSec fun c => { c with unw := c.unw ++ [{ req := reqCode q, kek := kek, dest := dest, data := data }] }).setReg
        (bankKey q 0x130006C) 0x80000000#32
    | c + 1 =>
      (s.cmacFail (c + 1) kek false (reqCode q)).setReg (bankKey q 0x130006C) (BitVec.ofNat 32 (2 ^ 30 + (c + 1)))

/-- The register unwrap of a requester ends. -/
def unwrapRegEnd (s : State) (q : Req) : State :=
  match s.sec.unw.find? fun u => u.req == reqCode q with
  | none => s
  | some u =>
    let z := s.unwrapRun u.kek u.dest u.data
    if z.1 = 0 then z.2.unwEnd u 0 else (z.2.cmacFail z.1 u.kek false u.req).unwEnd u z.1

/-! ### Check-value units (R377 to R379) -/

/-- A CHK_FEED write. -/
def chkFeed (s : State) (u : Nat) (v : Word) : State :=
  if s.chkBusy u then s.setFlag F.CHK_SCAN_CTRL_BUSY_WR (chkI u) true
  else
    let n := s.f F.CHK_CFG_NBYTES (chkI u)
    s.chkBytes u (bytesAt (beBytes 4 v.toNat) 0 (if 1 ≤ n ∧ n ≤ 4 then n else 4))

/-- A range a scan may not cover: past host memory, past the DRAM space, or DRAM with the Memory region off. -/
def chkRangeBad (s : State) (dram : Bool) (addr len : Nat) : Bool :=
  if dram then decide (s.dramTop < addr + len) || !(s.region 5).on else decide (2 ^ 64 < addr + len)

/-- A register scan ends with RESULT `res` after `n` bytes. -/
def chkRegEnd (s : State) (u res n : Nat) : State :=
  let i := chkI u
  let s1 := ((s.setFlag F.CHK_SCAN_CTRL_BUSY i false).setFlag F.CHK_SCAN_CTRL_DONE i true).setF F.CHK_SCAN_CTRL_RESULT i res
  let s2 := s1.raise (478 + u) 1 0 (min n 0xFFFFFFFF)
  (s2.raiseIf (decide (2 ≤ res)) 482 1 0 (u + (if res = 3 then 4 else 0))).jobsGo

/-- A write of CHK_SCAN_CTRL. -/
def chkCtrl (s : State) (u : Nat) (v : Word) : State :=
  let i := chkI u
  let s1 := if F.CHK_SCAN_CTRL_BUSY_WR.of v = 1 then s.setFlag F.CHK_SCAN_CTRL_BUSY_WR i false else s
  let s2 := if F.CHK_SCAN_CTRL_DONE.of v = 1 then s1.setFlag F.CHK_SCAN_CTRL_DONE i false else s1
  if F.CHK_SCAN_CTRL_START.of v = 1 ∧ s2.chkBusy u then s2.setFlag F.CHK_SCAN_CTRL_BUSY_WR i true
  else
    let s3 := (s2.setF F.CHK_SCAN_CTRL_CONTINUE i (F.CHK_SCAN_CTRL_CONTINUE.of v)).setF F.CHK_SCAN_CTRL_SRC i
      (F.CHK_SCAN_CTRL_SRC.of v)
    if F.CHK_SCAN_CTRL_START.of v = 0 then s3
    else
      let addr := s3.f F.CHK_SCAN_ADDR_LO_ADDR i + 2 ^ 32 * s3.f F.CHK_SCAN_ADDR_HI_ADDR i
      let len := s3.f F.CHK_SCAN_LEN_LEN i
      if s3.chkRangeBad (s3.flag F.CHK_SCAN_CTRL_SRC i) addr len then s3.chkRegEnd u 1 0
      else
        let s4 := if s3.flag F.CHK_SCAN_CTRL_CONTINUE i then s3 else s3.chkInit u
        if len = 0 then s4.chkRegEnd u 0 0
        else (s4.setFlag F.CHK_SCAN_CTRL_BUSY i true).setF F.CHK_SCAN_CTRL_RESULT i 0

/-- A check-value job (R379): it waits while its unit is busy. -/
def chkJobOp (s : State) (r : Nat) (d : Desc) : State :=
  let u := d.unit
  if !s.ringReady r 2 || d.op ≠ 2 then s
  else if u > 3 then s.jobErr r d 4
  else if !bitOf d.arg0 0 && jobWraps d then s.jobErr r d 2
  else if s.chkRangeBad (bitOf d.arg0 0) d.addr d.jobLen then s.jobErr r d 4
  else (s.jobAdd r d none true).jobsGo

/-- The running jobs of a ring that is disabled end with it (R333): a scan leaves its unit, with an R that the spec does not give,
and a scrub job raises event 458. -/
def jobsFlushed (s : State) (r : Nat) : State :=
  (s.jobs.filter fun j => j.ring == r && j.res.isNone && !j.waiting).foldl (fun z j =>
    if j.op = 2 then z.scanLeave j.unit
    else if j.op = 1 then z.scrubEvent r (s.jobIndex j) j.unit false
    else z) { s with jobs := s.jobs.filter fun j => j.ring != r }

/-- A scan of unit `u` ends: `data` is what host memory delivered (DRAM is read from the device's own), `stop` the bytes before a
failed read of host memory or an uncorrectable line of the memory's own; a read that timed out raises event 13, whose ring
field is that of the job, else 0. It goes on while host memory may be read (R315), and, for DRAM, while crossings 8 and 9 are open
(R32, R34). -/
def chkEnd (s : State) (u : Nat) (data : List Byte) (stop : Option Nat) (timeout : Bool) : State :=
  let i := chkI u
  if !s.chkBusy u then s
  else
    let job := s.jobs.find? fun j => j.res.isNone && !j.waiting && j.op == 2 && j.unit == u
    let dram := match job with | some j => bitOf j.arg0 0 | none => s.flag F.CHK_SCAN_CTRL_SRC i
    let addr := match job with
      | some j => j.addr
      | none => s.f F.CHK_SCAN_ADDR_LO_ADDR i + 2 ^ 32 * s.f F.CHK_SCAN_ADDR_HI_ADDR i
    let len := match job with | some j => j.len | none => s.f F.CHK_SCAN_LEN_LEN i
    if (if dram then !(s.xOpen 8 && s.xOpen 9) else !s.hostOk) then s
    else
    let m : Option Nat × State := if dram then s.dramMeet 5 addr len stop
      else (stop.map fun k => min k len,
        s.raiseIf (stop.isSome && timeout) 13 1 0 (match job with | some j => j.ring | none => 0))
    let n := m.1.getD len
    let s0 := if dram then m.2.ddrRd n else m.2
    let s1 := s0.chkBytes u (if dram then s.dramRead addr n else bytesAt data 0 n)
    match job with
    | some j =>
      let s2 := s1.setFlag F.CHK_SCAN_CTRL_BUSY i false
      (s2.jobEnd (fun k => k == j)
        (if m.1.isNone then 0 else if dram then 16 else 2, n, s2.chkOut u, s2.chkPair u 0x18, 0)).jobsGo
    | none => s1.chkRegEnd u (if m.1.isNone then 0 else if dram then 2 else 3) n

end State

/-! ### The commands -/

/-- LOAD (R363). -/
def execKeyLoad (q : Req) (slot : Fin 64) (size256 : Bool) (s : State) : Host.Outcome State Fault Refusal :=
  .next (s.guardW q 0x1300030 fun s => s.keyChange q 1 slot.val (s.stagedBytes q size256))

/-- ERASE (R363). -/
def execKeyErase (q : Req) (slot : Fin 64) (s : State) : Host.Outcome State Fault Refusal :=
  .next (s.guardW q 0x1300030 fun s => s.keyChange q 2 slot.val [])

/-- FORCE_ERASE (R365). -/
def execForceErase (q : Req) (slot : Fin 64) (s : State) : Host.Outcome State Fault Refusal :=
  .next (s.guardW q 0x1300030 fun s => s.keyForce q slot.val)

/-- UNWRAP_START (R374): a write of SEC_UNW_CMD with GO. -/
def execUnwrapStart (q : Req) (v : Word) (s : State) : Host.Outcome State Fault Refusal :=
  .next (s.guardW q 0x1300068 fun s => s.unwCommand q (v ||| 0x80000000#32))

/-- UNWRAP_DONE (R374): the register unwrap of a requester ends, or the oldest unwrap job with the data it read. -/
def execUnwrapDone (q : Option Req) (data : List Byte) (rd : HostRead) (s : State) : Host.Outcome State Fault Refusal :=
  .next (match q with
    | some q => s.unwrapRegEnd q
    | none => s.unwrapJobEnd data rd)

/-- CMAC_JOB (R375). -/
def execCmacJob (r : Fin 64) (d : Desc) (s : State) : Host.Outcome State Fault Refusal := .next (s.cmacJobOp r.val d)

/-- CMAC_DONE (R372). -/
def execCmacDone (data : List Byte) (rd : HostRead) (s : State) : Host.Outcome State Fault Refusal :=
  .next (s.cmacEnd data rd)

/-- UNWRAP_JOB (R375). -/
def execUnwrapJob (r : Fin 64) (d : Desc) (s : State) : Host.Outcome State Fault Refusal := .next (s.unwrapJobOp r.val d)

/-- KEY_SWITCH_ARM (R370): a write of SEC_LSW_x with ARM. -/
def execKeySwitchArm (q : Req) (x : Side) (v : Word) (s : State) : Host.Outcome State Fault Refusal :=
  .next (s.guardW q (0x1300200 + 0x10 * sideNo x) fun s => s.lswWrite q x (v ||| 0x80000000#32))

/-- ENTROPY_HEALTH_FAIL (R376). -/
def execEntropyHealthFail (repetition adaptive : Bool) (s : State) : Host.Outcome State Fault Refusal :=
  .next ((s.setFlag F.SEC_ENT_STAT_FAIL 0 true).raise 477 1 0
    ((if repetition then 1 else 0) + (if adaptive then 2 else 0)))

/-- ENTROPY_RESTART (R376): the write of RESTART, and whether 1,024 consecutive samples have passed both tests since. -/
def execEntropyRestart (q : Req) (passed : Bool) (s : State) : Host.Outcome State Fault Refusal :=
  .next (s.guardW q 0x1300004 fun s =>
    if passed then (s.setFlag F.SEC_ENT_STAT_RESTART 0 false).setFlag F.SEC_ENT_STAT_FAIL 0 false
    else s.setFlag F.SEC_ENT_STAT_RESTART 0 true)

/-- CHECK_FEED (R378). -/
def execCheckFeed (q : Req) (u : Fin 4) (v : Word) (s : State) : Host.Outcome State Fault Refusal :=
  .next (s.guardW q (0x1308028 + 0x100 * u.val) fun s => s.chkFeed u.val v)

/-- CHECK_SCAN_START (R379): a write of CHK_SCAN_CTRL with START. -/
def execCheckScanStart (q : Req) (u : Fin 4) (v : Word) (s : State) : Host.Outcome State Fault Refusal :=
  .next (s.guardW q (0x130803C + 0x100 * u.val) fun s => s.chkCtrl u.val (v ||| 0x80000000#32))

/-- CHECK_SCAN_JOB (R379). -/
def execCheckScanJob (r : Fin 64) (d : Desc) (s : State) : Host.Outcome State Fault Refusal := .next (s.chkJobOp r.val d)

/-- CHECK_SCAN_END (R379). -/
def execCheckScanEnd (u : Fin 4) (data : List Byte) (stop : Option Nat) (timeout : Bool) (s : State) :
    Host.Outcome State Fault Refusal := .next (s.chkEnd u.val data stop timeout)

/-- RING_DISABLE_DONE (R315, R333, R372): outstanding descriptors complete with FLUSHED, and the ring is disabled. -/
def execRingDisableDone (r : Fin 64) (descs : List Desc) (s : State) : Host.Outcome State Fault Refusal :=
  .next (if s.flag F.HIF_RING_ERR_DISABLING (0x40 * r.val) && s.hostOk then
    let x := s.ring r.val
    let s0 := s.jobsFlushed r.val
    let s1 := { s0 with txSend := if s.txSend.map Prod.fst == some r.val then none else s.txSend }
    ((((s1.setRing r.val { x with fetched := [] }).ringFlush r.val (x.taken - x.done) descs).setFlag F.HIF_RING_ERR_DISABLING (0x40 * r.val) false).setFlag
      F.HIF_RING_ERR_STOPPED (0x40 * r.val) false).jobsGo
    else s)

end Sys2Proof.Machine
end

