-- ==== Sys2Proof/Machine/LinePhys.lean ====
section
/-! DEFINITION. Line mode, receiver start-up, signal detect, decoder, laser fault, pre-equalisation and optics I2C of a
side (spec/02_line_physical.md, R45 to R66, R461). -/

namespace Sys2Proof.Machine

/-- Key of a value held in a register's shadow (R63, R297): a bank no requester uses. -/
def shadowKey (a : Nat) : Nat := 0x80 * 2 ^ 25 + a

/-! ### Pre-equalisation (R59) -/

/-- Step 1: format. -/
def peqFormat (raw : Nat) : Int :=
  if bitsOf raw 11 5 = (if bitOf raw 10 then 31 else 0) then signedOf raw 11 else if bitOf raw 15 then -1024 else 1023

/-- Limits of step 2, per tap. -/
def peqMin (n : Nat) : Int := [-32, -64, -160, 512, -160, -64, -32].getD n 0
def peqMax (n : Nat) : Int := [32, 64, 160, 1023, 160, 64, 32].getD n 0

/-- The set LOAD stages from raw words under an identifier (R59). -/
def peqCheck (raw : List Nat) (setId : Nat) : PeqSet :=
  let f := raw.map peqFormat
  let c := (List.range 7).map fun n => max (peqMin n) (min (peqMax n) (f.getD n 0))
  let changed (n : Nat) : Bool := c.getD n 0 != signedOf (raw.getD n 0) 11 || bitsOf (raw.getD n 0) 11 5 !=
    (if bitOf (raw.getD n 0) 10 then 31 else 0)
  let sum := ((List.range 7).map fun n => if n = 3 then 0 else (c.getD n 0).natAbs).sum
  let tooFar := decide ((1024 : Int) < c.getD 3 0 + sum)
  let c := if tooFar then c.set 3 (1024 - sum) else c
  { taps := c.map fun v => toBits v 11, setId := setId,
    clampTap := ((List.range 7).map fun n => if changed n then 2 ^ n else 0).sum, sumClamp := tooFar }

namespace State

/-! ### Line mode (R48, R136, R461) -/

/-- The receiver stops (R461). CDR_LOCK falls without event offset 0, which R52 ties to the slip detector, and CONV keeps its
value (DESIGN CHOICE, log 191). -/
def rxStop (s : State) (x : Side) : State :=
  let i := sideOff x
  let s1 := ((s.setFlag F.LIN_MODE_RX_EN i false).setFlag F.LIN_DSP_STAT_CDR_LOCK i false).setFlag F.LIN_DSP_STAT_SD i false
  (s1.framerHunt x).lofDeclare x 3

/-- The receiver starts with ADC calibration (R49 step 1); dLOF is declared when it is absent (R90). -/
def rxStart (s : State) (x : Side) : State :=
  let i := sideOff x
  let s1 := ((s.setFlag F.LIN_MODE_RX_EN i true).setFlag F.LIN_DSP_STAT_ADC_CAL i false).setFlag F.LIN_DSP_STAT_CONV i false
  if s1.lof x then s1 else s1.lofDeclare x 2

/-- A LIN_MODE write would break R3 under the pairing mode (R136). -/
def breaksR3 (s : State) (x : Side) (v : Word) : Bool :=
  let m := F.LIN_MODE_MODE.of v == 1
  (s.prtMode == 1 && m != s.drixis (sideOther x)) || (s.prtMode == 2 && !m)

/-- A write of LIN_MODE (R48, R136, R445). A move to G-mode leaves no upper or lower eye (R57). -/
def linModeWrite (s : State) (x : Side) (v : Word) : State :=
  let i := sideOff x
  let changes := F.LIN_MODE_MODE.of v != s.f F.LIN_MODE_MODE i || F.LIN_MODE_US_RATE.of v != s.f F.LIN_MODE_US_RATE i
  if F.LIN_MODE_MODE.of v != s.f F.LIN_MODE_MODE i && s.breaksR3 x v then
    (s.setFlag F.PRT_STAT_CFG_REFUSED 0 true).raise 196 1 0 (F.LIN_MODE_MODE.of v + 4)
  else if changes && (s.flag F.LIN_MODE_RX_EN i || s.flag F.LIN_MODE_TX_EN i) then s
  else
    let s0 := ((s.setF F.LIN_MODE_MODE i (F.LIN_MODE_MODE.of v)).setF F.LIN_MODE_US_RATE i
      (F.LIN_MODE_US_RATE.of v)).setF F.LIN_MODE_TX_EN i (F.LIN_MODE_TX_EN.of v)
    let s1 := if s0.drixis x then s0 else (s0.setF F.LIN_SNR_0_UPPER i 0).setF F.LIN_SNR_1_LOWER i 0
    let s2 := if s1.txEn x then s1 else s1.stopBurst x
    let on := F.LIN_MODE_RX_EN.of v == 1
    if on && !s2.rxEn x then s2.rxStart x else if !on && s2.rxEn x then s2.rxStop x else s2

/-- The laser fault seen by Bridle follows the pin and its polarity (R47); a fault during a burst stops it (R119 row 5). -/
def txfShow (s : State) (x : Side) : State :=
  let fault := (s.line x).txfPin != s.flag F.LIN_FE_CFG_TXF_POL (sideOff x)
  let rise := fault && !s.txf x && (s.line x).sending.isSome
  let s1 := s.setFlag F.LIN_FE_STAT_TXF (sideOff x) fault
  if rise then ((s1.bump (usCnt x 13)).lineEvent x 23 0).stopBurst x else s1

/-- A write of LIN_FE_CFG: both pins follow their polarity at once (R45). -/
def feCfgWrite (s : State) (x : Side) (v : Word) : State :=
  ((s.setReg (0x400004 + sideOff x) (v &&& 0x7FF#32)).benShow x).txfShow x

/-- SD takes a value (R53, R83). -/
def sdSet (s : State) (x : Side) (b : Bool) : State :=
  let s1 := s.setFlag F.LIN_DSP_STAT_SD (sideOff x) b
  if b then s1 else s1.dsValidFall x

/-! ### Equaliser taps and slicer (R49 to R51) -/

/-- Register of tap `n`, FFE 0 to 6, then DFE 7 and 8, and its number in event offset 6. -/
def tapAddr (x : Side) (n : Nat) : Nat := (if n < 7 then 0x400020 + 4 * n else 0x400040 + 4 * (n - 7)) + sideOff x
def tapNo (n : Nat) : Nat := if n < 7 then n else n + 1

/-- A tap with what it holds below its register's resolution, in units of 2^-15: the finest step of R50, so that every step is
exact (DESIGN CHOICE, log 192). -/
def tapFine (s : State) (x : Side) (n : Nat) : Int :=
  signedOf (s.reg (tapAddr x n)).toNat 12 * 32 + sget (fun _ => 0) (s.line x).tapFrac n
def setTapFine (s : State) (x : Side) (n : Nat) (v : Int) : State :=
  (s.setReg (tapAddr x n) (BitVec.ofNat 32 (toBits (v / 32) 12))).modLine x fun l =>
    { l with tapFrac := sset (fun _ => 0) l.tapFrac n (v % 32).toNat }

/-- One LMS step of a tap (R50): 2^-MU in the direction of the sign; a tap that would go past its format holds at 0x7FF or
0x800 and raises event offset 6. -/
def tapStep (s : State) (x : Side) (n : Nat) (sign : Int) : State :=
  let mu := max 8 (s.f F.LIN_DSP_CFG_MU (sideOff x))
  let v := s.tapFine x n + sign.sign * (2 ^ (15 - mu) : Nat)
  if v < -65536 then (s.setTapFine x n (-65536)).lineEvent x 6 (tapNo n)
  else if 65536 ≤ v then (s.setTapFine x n (2047 * 32)).lineEvent x 6 (tapNo n)
  else s.setTapFine x n v

/-- The taps that adapt: with DFE_EN = 0 the DFE taps are forced to 0 and stay there. -/
def tapCount (s : State) (x : Side) : Nat := if s.flag F.LIN_DSP_CFG_DFE_EN (sideOff x) then 9 else 7

/-- One symbol's sign-sign update of every tap. -/
def lmsStep (s : State) (x : Side) (signs : List Int) : State :=
  (List.range (s.tapCount x)).foldl (fun s n => s.tapStep x n (signs.getD n 0)) s

/-- A write of a tap register: discarded while ADAPT = 1; with DFE_EN = 0 the DFE taps stay 0 (R50). -/
def tapWrite (s : State) (x : Side) (a : Nat) (v : Word) : State :=
  let n := if a - sideOff x < 0x400040 then (a - sideOff x - 0x400020) / 4 else (a - sideOff x - 0x400040) / 4 + 7
  if s.flag F.LIN_DSP_CFG_ADAPT (sideOff x) || decide (s.tapCount x ≤ n) then s
  else s.setTapFine x n (signedOf v.toNat 12 * 32)

/-- A write of LIN_DSP_CFG: clearing DFE_EN forces the DFE taps to 0 at once. -/
def dspCfgWrite (s : State) (x : Side) (v : Word) : State :=
  let s1 := s.setReg (0x400010 + sideOff x) (v &&& 0xFFFFF#32)
  if s1.flag F.LIN_DSP_CFG_DFE_EN (sideOff x) then s1 else (s1.setTapFine x 7 0).setTapFine x 8 0

/-- The slicer's thresholds in use: upper, middle and lower eye in Drixis mode, the middle one in G-mode (R51). -/
def slicerUse (s : State) (x : Side) : List Int :=
  if s.drixis x then (s.line x).slicer else [(s.line x).slicer.getD 1 0]

end State

/-- Signed distances of a code from the thresholds nearest to it: two when it lies halfway between two (R51). -/
def nearestDist (ts : List Int) (c : Int) : List Int :=
  let ds := ts.map fun t => c - t
  let m := (ds.map Int.natAbs).foldl min (ds.headD 0).natAbs
  (ds.filter fun d => d.natAbs == m).eraseDups

/-- A quotient rounded to the nearest integer, halves away from zero. -/
def roundAway (a : Int) (b : Nat) : Int := a.sign * ((2 * a.natAbs + b) / (2 * b) : Nat)

/-- LLR of a signed distance at a scale in u4.4, saturated to 5 bits without the code -16 (R51). -/
def llrAt (scale : Nat) (d : Int) : Int := max (-15) (min 15 (roundAway (d * scale) 16))

/-- LLRs of a codeword's ADC codes: the spec does not say which of two equally near thresholds counts, and bit `n` of the free
value `tie` picks it for code `n`. -/
def llrsOf (ts : List Int) (scale tie : Nat) : List Int → List Int
  | [] => []
  | c :: cs =>
    let d := match nearestDist ts c with
      | [d] => d
      | ds => if bitOf tie 0 then ds.getLastD 0 else ds.headD 0
    llrAt scale d :: llrsOf ts scale (tie / 2) cs

namespace State

/-! ### Pre-equalisation (R59 to R61) -/

/-- A write of LIN_PEQ_CTRL: OWNER by the host, SET_ID by any requester, and LOAD by the owner the register named before the
write (R61; DESIGN CHOICE, log 59). -/
def peqCtrlWrite (s : State) (x : Side) (q : Req) (v : Word) : State :=
  let i := sideOff x
  let owner := s.f F.LIN_PEQ_CTRL_OWNER i
  let s1 := if q = .host then s.setF F.LIN_PEQ_CTRL_OWNER i (F.LIN_PEQ_CTRL_OWNER.of v) else s
  let s2 := s1.setF F.LIN_PEQ_CTRL_SET_ID i (F.LIN_PEQ_CTRL_SET_ID.of v)
  if F.LIN_PEQ_CTRL_LOAD.of v = 0 then s2
  else s2.ownerWrite x q owner 0 fun s =>
    let set := peqCheck ((List.range 7).map fun n => s.f F.LIN_PEQ_PEND_RAW (i + 4 * n)) (s.f F.LIN_PEQ_CTRL_SET_ID i)
    let s1 := if (s.line x).peq.isSome then
        s.setF F.LIN_PEQ_STAT_SUPERSEDED i (s.f F.LIN_PEQ_STAT_SUPERSEDED i + 1) else s
    (s1.modLine x fun l => { l with peq := some set }).setFlag F.LIN_PEQ_STAT_PENDING i true

/-! ### Optics I2C (R64, R65) -/

/-- A transaction ends (R64). -/
def i2cEnd (s : State) (x : Side) (result : Nat) : State :=
  let i := sideOff x
  let s1 := ((s.setFlag F.LIN_I2C_STAT_BUSY i false).setFlag F.LIN_I2C_STAT_DONE i true).setF F.LIN_I2C_STAT_RESULT i result
  if result = 0 then s1 else s1.lineEvent x 5 result

/-- A write of LIN_I2C_CMD. -/
def i2cCmdWrite (s : State) (x : Side) (q : Req) (v : Word) : State :=
  let i := sideOff x
  s.ownerWrite x q (s.f F.LIN_I2C_CFG_OWNER i) 1 fun s =>
    let go := F.LIN_I2C_CMD_GO.of v == 1
    if go && s.flag F.LIN_I2C_STAT_BUSY i then s.setFlag F.LIN_I2C_STAT_OVERRUN i true
    else
      let s1 := s.setReg (0x4000D4 + i) (v &&& 0x677F00FF#32)
      if !go then s1
      else if F.LIN_I2C_CMD_BUS.of v = 1 && !s.flag F.LIN_I2C_CFG_BUS1_EN i then s1.i2cEnd x 4
      else s1.setFlag F.LIN_I2C_STAT_BUSY i true

/-- Resource of balls GPx0 to GPx2. -/
def gpRes (x : Side) : Nat := 12 + sideNo x

/-- A write of LIN_I2C_CFG (R65): OWNER by the host; BUS1_EN claims or releases the balls for feature 0x0A. A write whose
claim ends in CONFLICT changes nothing (R37; DEDUCED, log 193). -/
def i2cCfgWrite (s : State) (x : Side) (q : Req) (v : Word) : State :=
  let i := sideOff x
  let en := F.LIN_I2C_CFG_BUS1_EN.of v == 1
  let was := s.flag F.LIN_I2C_CFG_BUS1_EN i
  if en && !was && !s.resFree (gpRes x) then s.resConflict q (gpRes x)
  else
    let s1 := if q = .host then s.setF F.LIN_I2C_CFG_OWNER i (F.LIN_I2C_CFG_OWNER.of v) else s
    let s2 := s1.setF F.LIN_I2C_CFG_SPEED i (F.LIN_I2C_CFG_SPEED.of v)
    if en && !was then (s2.resTake q (gpRes x) 0x0A).setFlag F.LIN_I2C_CFG_BUS1_EN i true
    else if !en && was then (s2.resRelease (gpRes x)).setFlag F.LIN_I2C_CFG_BUS1_EN i false
    else s2

/-- A decoded codeword's mark reaches the framer (R55): the first codeword of a frame starts its marks anew. Codewords decoded
after a boundary and before codeword 0 belong to the frame before. -/
def codewordMark (s : State) (x : Side) (idx : Nat) (bad : Bool) : State :=
  let s1 := if idx = 0 then s.modLine x fun l => { l with marks := [], cwOld := false } else s
  if !bad then s1
  else
    let s2 := s1.modLine x fun l => { l with marks := l.marks ++ [idx] }
    let add (c : DsCkt) : DsCkt := { c with marks := c.marks ++ [idx] }
    match s2.dsFrames x, (s2.line x).cwOld with
    | c :: d :: cs, true => s2.setDsFrames x (c :: add d :: cs)
    | c :: cs, false => s2.setDsFrames x (add c :: cs)
    | _, _ => s2

/-- A write of GRM_RXP_CAL_B_s_k commits the segment with its CAL_A shadow (R63). -/
def rxpCommit (s : State) (side k : Nat) (v : Word) : State :=
  let a := 0x200400 + 0x40 * side + 8 * k
  (s.setReg a (s.reg (shadowKey a))).setReg (a + 4) (v &&& 0xFFFF#32)

/-- A write of GRM_RXP_CAL_A_s_k is held in the shadow. -/
def rxpShadow (s : State) (a : Nat) (v : Word) : State := s.setReg (shadowKey a) (v &&& 0xFFFF0FFF#32)

end State

/-! ### The commands -/

/-- RECEIVER_START (R49): a write of LIN_MODE with RX_EN = 1. -/
def execReceiverStart (q : Req) (x : Side) (v : Word) (s : State) : Host.Outcome State Fault Refusal :=
  .next (s.guardW q (0x400000 + sideOff x) fun s => s.linModeWrite x (v ||| 1#32))

/-- RECEIVER_STOP (R461): a write of LIN_MODE with RX_EN = 0. -/
def execReceiverStop (q : Req) (x : Side) (v : Word) (s : State) : Host.Outcome State Fault Refusal :=
  .next (s.guardW q (0x400000 + sideOff x) fun s => s.linModeWrite x (v &&& ~~~ 1#32))

/-- LINE_MODE_SET (R48): a write of LIN_MODE. -/
def execLineModeSet (q : Req) (x : Side) (v : Word) (s : State) : Host.Outcome State Fault Refusal :=
  .next (s.guardW q (0x400000 + sideOff x) fun s => s.linModeWrite x v)

/-- TX_ENABLE (R445): a write of LIN_MODE that sets or clears TX_EN and leaves the other fields. -/
def execTxEnable (q : Req) (x : Side) (on : Bool) (s : State) : Host.Outcome State Fault Refusal :=
  .next (s.guardW q (0x400000 + sideOff x) fun s =>
    s.linModeWrite x (F.LIN_MODE_TX_EN.put (s.reg (0x400000 + sideOff x)) (if on then 1 else 0)))

/-- ADC_CALIBRATION_DONE (R49 step 1). -/
def execAdcCalibrationDone (x : Side) (s : State) : Host.Outcome State Fault Refusal :=
  .next (if s.rxEn x then s.setFlag F.LIN_DSP_STAT_ADC_CAL (sideOff x) true else s)

/-- CDR_LOCK_GAINED (R49 step 2): after calibration. -/
def execCdrLockGained (x : Side) (s : State) : Host.Outcome State Fault Refusal :=
  .next (if s.rxEn x && s.flag F.LIN_DSP_STAT_ADC_CAL (sideOff x) && !s.flag F.LIN_DSP_STAT_CDR_LOCK (sideOff x) then
    (s.setFlag F.LIN_DSP_STAT_CDR_LOCK (sideOff x) true).lineEvent x 1 0 else s)

/-- CDR_LOCK_LOST (R52): event offset 0; SD needs the lock (R53). CONV keeps its value (DESIGN CHOICE, log 57). -/
def execCdrLockLost (x : Side) (s : State) : Host.Outcome State Fault Refusal :=
  .next (if s.flag F.LIN_DSP_STAT_CDR_LOCK (sideOff x) then
    ((s.setFlag F.LIN_DSP_STAT_CDR_LOCK (sideOff x) false).lineEvent x 0 0).sdSet x false else s)

/-- ADAPTATION_CONVERGED (R49 step 3, R50, R51): the signs of the LMS steps taken, symbol by symbol, nine a step, FFE first,
and the thresholds reached (three in Drixis mode, one in G-mode). -/
def execAdaptationConverged (x : Side) (steps : List (List Int)) (thresholds : List Int) (s : State) :
    Host.Outcome State Fault Refusal :=
  .next (if s.flag F.LIN_DSP_STAT_CDR_LOCK (sideOff x) && s.flag F.LIN_DSP_CFG_ADAPT (sideOff x) then
    (steps.foldl (fun s v => s.lmsStep x v) (s.modLine x fun l => { l with
      slicer := if s.drixis x then (List.range 3).map fun n => thresholds.getD n 0
        else [l.slicer.getD 0 0, thresholds.headD 0, l.slicer.getD 2 0] })).setFlag F.LIN_DSP_STAT_CONV (sideOff x) true
    else s)

/-- SIGNAL_DETECT_CHANGE (R53): the peak-to-peak ADC code of the last 1.0 µs is evaluated. -/
def execSignalDetectChange (x : Side) (pp : Nat) (s : State) : Host.Outcome State Fault Refusal :=
  .next (if s.rxEn x then
    s.sdSet x (s.flag F.LIN_DSP_STAT_CDR_LOCK (sideOff x) && decide (s.f F.LIN_DSP_CFG_SD_THR (sideOff x) ≤ pp)) else s)

/-- CODEWORD_DECODE (R51, R54 to R56): codeword `idx` of a frame, its ADC codes, bits corrected, iterations wanted, and whether
the syndrome stayed non-zero. The first codeword of a frame ends the marks of the one before. -/
def execCodewordDecode (x : Side) (idx : Fin 1440) (codes : List Int) (bits iters : Nat) (unc : Bool) (s : State) :
    Host.Outcome State Fault Refusal :=
  let lim := max 1 (min 8 (s.f F.LIN_LDPC_CFG_MAX_ITER (sideOff x)))
  let bad := unc || decide (lim < iters)
  .next (if s.flag F.LIN_DSP_STAT_CDR_LOCK (sideOff x) then
    let tie := s.takeFree 17280
    let llr := llrsOf (s.slicerUse x) (s.f F.LIN_LDPC_CFG_LLR_SCALE (sideOff x)) tie.1 codes
    let s1 := (((tie.2.bump (dsCnt x 10)).bump (dsCnt x 11) bits).bumpIf bad (dsCnt x 12)).bump (dsCnt x 13)
      (if bad then lim else iters)
    (s1.modLine x fun l => { l with llr := llr }).codewordMark x idx.val bad
    else s)

/-- TXF_CHANGE (R47): a level that held for 8 cycles. -/
def execTxfChange (x : Side) (level : Bool) (s : State) : Host.Outcome State Fault Refusal :=
  .next ((s.modLine x fun l => { l with txfPin := level }).txfShow x)

/-- PEQ_LOAD (R59 to R61): a write of LIN_PEQ_CTRL. -/
def execPeqLoad (q : Req) (x : Side) (v : Word) (s : State) : Host.Outcome State Fault Refusal :=
  .next (s.guardW q (0x400084 + sideOff x) fun s => s.peqCtrlWrite x q v)

/-- PEQ_DECISION_POINT (R60). -/
def execPeqDecisionPoint (x : Side) (s : State) : Host.Outcome State Fault Refusal := .next (s.peqDecide x)

/-- RXP_CAL_COMMIT (R63). -/
def execRxpCalCommit (q : Req) (x : Side) (k : Fin 8) (v : Word) (s : State) : Host.Outcome State Fault Refusal :=
  .next (s.guardW q (0x200404 + 0x40 * sideNo x + 8 * k.val) fun s => s.rxpCommit (sideNo x) k.val v)

/-- I2C_TRANSACTION_START (R64, R65): a write of LIN_I2C_CMD. -/
def execI2cTransactionStart (q : Req) (x : Side) (v : Word) (s : State) : Host.Outcome State Fault Refusal :=
  .next (s.guardW q (0x4000D4 + sideOff x) fun s => s.i2cCmdWrite x q v)

/-- I2C_TRANSACTION_DONE (R64): 0 OK with the bytes read, 1 NACK, 2 TIMEOUT, 3 ARB_LOST. READ and LEN are those LIN_I2C_CMD
holds at the end; DATA bytes beyond LEN keep their value, and a read that ends otherwise than OK stores none (DESIGN CHOICE,
log 194). -/
def execI2cTransactionDone (x : Side) (result : Fin 4) (bytes : List Byte) (s : State) :
    Host.Outcome State Fault Refusal :=
  let i := sideOff x
  .next (if s.flag F.LIN_I2C_STAT_BUSY i then
    let n := s.f F.LIN_I2C_CMD_LEN i + 1
    let old := leBytes 4 (s.reg (0x4000D8 + i)).toNat ++ leBytes 4 (s.reg (0x4000DC + i)).toNat
    let new := bytesAt bytes 0 n ++ old.drop n
    let s1 := if result.val = 0 && s.flag F.LIN_I2C_CMD_READ i then
        (s.setReg (0x4000D8 + i) (BitVec.ofNat 32 (leNat (new.take 4)))).setReg (0x4000DC + i)
          (BitVec.ofNat 32 (leNat (bytesAt new 4 4)))
      else s
    s1.i2cEnd x result.val
    else s)

/-- I2C_BUS1_ENABLE (R65): a write of LIN_I2C_CFG. -/
def execI2cBus1Enable (q : Req) (x : Side) (v : Word) (s : State) : Host.Outcome State Fault Refusal :=
  .next (s.guardW q (0x4000D0 + sideOff x) fun s => s.i2cCfgWrite x q v)

end Sys2Proof.Machine
end

