-- ==== Sys2Proof/Machine/Image.lean ====
section
/-! DEFINITION. Tack images: the checks of R236 and R237, shared by the load engines of the teams and of the Groom (R407). -/

namespace Sys2Proof.Machine

/-- A section of an image (R236): type, byte offset in the memory, size, byte offset in the image. -/
structure Sect where
  typ : Nat := 0
  dest : Nat := 0
  size : Nat := 0
  src : Nat := 0
  deriving DecidableEq, Repr

/-- A 32-bit field of an image. -/
def imgWord (b : List Byte) (o : Nat) : Nat := leNat (bytesAt b o 4)

/-- LENGTH, IMAGE_ID, INIT_ENTRY and CRC of the header. -/
def imgLength (b : List Byte) : Nat := imgWord b 8
def imgId (b : List Byte) : Nat := imgWord b 12
def imgInit (b : List Byte) : Nat := imgWord b 20 % 2 ^ 15
def imgCrc (b : List Byte) : Nat := imgWord b 24

/-- The sections the header lists. -/
def imgSects (b : List Byte) : List Sect :=
  (List.range (imgWord b 16 % 65536)).map fun i =>
    { typ := imgWord b (1056 + 16 * i) % 256, dest := imgWord b (1060 + 16 * i), size := imgWord b (1064 + 16 * i),
      src := imgWord b (1068 + 16 * i) }

/-- The bytes of a section. -/
def Sect.bytes (x : Sect) (b : List Byte) : List Byte := bytesAt (b.drop x.src) 0 x.size

/-- Two sections of one memory overlap. -/
def Sect.overlaps (x y : Sect) : Bool :=
  x.typ == y.typ && decide (x.dest < y.dest + y.size) && decide (y.dest < x.dest + x.size)

/-- Some pair of sections overlaps. -/
def sectsOverlap : List Sect → Bool
  | [] => false
  | x :: xs => xs.any x.overlaps || sectsOverlap xs

/-- Size of a team's memory by section type; 0 for a type that does not exist (R207, R236). -/
def teamMemSize : Nat → Nat
  | 1 => 131072
  | 2 => 524288
  | 3 => 32768
  | _ => 0

/-- Size of the Groom's program area, its one memory (R407). -/
def groomMemSize : Nat → Nat
  | 1 => 49152
  | _ => 0

/-- The section check (R237 step 5). -/
def sectsBad (size : Nat → Nat) (b : List Byte) : Bool :=
  let n := imgWord b 16 % 65536
  let xs := imgSects b
  decide (n < 1) || decide (n > 16) || sectsOverlap xs || xs.any fun x =>
    size x.typ == 0 || decide (x.dest + x.size > size x.typ) || decide (x.src + x.size > imgLength b - 16)

/-- The CRC an image should carry: over bytes 0 to LENGTH - 17, with the field taken as 0. -/
def imgCrcOf (b : List Byte) : Nat := crc32c (patch (bytesAt b 0 (imgLength b - 16)) 24 [0, 0, 0, 0])

namespace State

/-- The CMAC check of an image (R237 step 7): 0 passed, 9 a wrong tag, 10 an empty slot. While the entropy source has
failed the engine refuses (R376), and the spec names no RESULT for it: a free choice of 9 and 10. -/
def imgAuth (s : State) (slot : Nat) (b : List Byte) : Nat × State :=
  let n := imgLength b - 16
  if s.flag F.SEC_ENT_STAT_FAIL then (9 + (s.takeFree 1).1, (s.takeFree 1).2)
  else if s.keyEmpty slot then (10, s)
  else if cmacTag (s.keyOf slot) false (bytesAt b 0 n) = beAt (b.drop n) 0 16 then (0, s) else (9, s)

/-- The checks of R237 over an image of `len` bytes for target 1 (a team) or 2 (the Groom): 0, or the RESULT of the first
one that fails. -/
def imgCheck (s : State) (target len : Nat) (auth : Bool) (slot : Nat) (b : List Byte) : Nat × State :=
  if imgWord b 0 ≠ 0x4B434154 then (3, s)
  else if imgWord b 4 % 65536 ≠ 1 then (4, s)
  else if imgWord b 4 / 65536 % 256 ≠ target then (5, s)
  else if imgLength b ≠ len ∨ imgLength b % 16 ≠ 0 ∨ imgLength b > 1048576 then (6, s)
  else if sectsBad (if target = 1 then teamMemSize else groomMemSize) b then (7, s)
  else if imgCrcOf b ≠ imgCrc b then (8, s)
  else if auth then s.imgAuth slot b
  else (0, s)

/-- Both reads of an image (R237): the RESULT (0 when all is well), and the bytes to write. A read that ended with an error
gives 11. -/
def imgReads (s : State) (target len : Nat) (auth : Bool) (slot : Nat) (first second : Option (List Byte)) :
    Nat × List Byte × State :=
  match first with
  | none => (11, [], s)
  | some b =>
    match s.imgCheck target len auth slot b with
    | (0, s1) =>
      match second with
      | none => (11, [], s1)
      | some c => if imgCrcOf c ≠ imgCrc b then (8, [], s1) else (0, c, s1)
    | (r + 1, s1) => (r + 1, [], s1)

/-- A read of an image that ended with an error may have timed out (event 13, R339): a free bit says so, and the ring field
reads 0. -/
def imgTimeout (s : State) (r : Nat) : State :=
  if r = 11 then (s.takeFree 1).2.raiseIf ((s.takeFree 1).1 == 1) 13 1 0 0 else s

end State

end Sys2Proof.Machine
end

