-- ==== Sys2Proof/Machine/Protection.lean ====
section
/-! DEFINITION. Pairing, protection commands and the reorder store (spec/05_protection_bonding.md, R135 to R155). -/

namespace Sys2Proof.Machine

/-- Pairing counter i (0x80_0100 + 8 * i). -/
def prtCnt (i : Nat) : Nat := 0x800100 + 8 * i

namespace State

/-! ### Pairing mode (R135, R136) -/

/-- R136: a PRT_CFG value is refused. -/
def pairingRefused (s : State) (v : Word) : Bool :=
  let m := F.PRT_CFG_MODE.of v
  (m != s.prtMode && (s.flag F.LIN_MODE_TX_EN (sideOff .a) || s.flag F.LIN_MODE_TX_EN (sideOff .b))) || m == 3
    || (m == 1 && s.f F.LIN_MODE_MODE (sideOff .a) != s.f F.LIN_MODE_MODE (sideOff .b))
    || (m == 2 && (!s.drixis .a || !s.drixis .b))

/-- PRT_RO_OCC shows the frames held. -/
def roShow (s : State) : State := s.setF F.PRT_RO_OCC_HELD 0 s.prt.held.length

/-- Frames a side holds and has not begun to send take their sequence value anew (R148). -/
def seqForget (s : State) (x : Side) : State :=
  let anew (p : Partial) : Partial := if p.off = 0 then { p with seq := none } else p
  s.modLine x fun l => { l with partials := l.partials.map fun e => (e.1, e.2.map anew),
                                buffered := l.buffered.map fun e => (e.1, e.2.map anew) }

/-- Bursts a side has assembled lose their frames, which go back to the burst buffer, and leave with idle (R148; DESIGN CHOICE,
log 203). -/
def burstsUnfill (s : State) (x : Side) : State :=
  let s1 := s.unassemble x [] (s.asmAllocs x)
  let z := s1.idleBursts (s1.line x).store
  z.2.modLine x fun l => { l with store := z.1 }

/-- A change of MODE (R136): sequence counters to 0, the reorder store emptied and its entries counted as lost. ACTIVE and LOCKED
stay (DESIGN CHOICE, log 75). -/
def pairingClear (s : State) : State :=
  let n := s.prt.held.length
  let s1 := s.prt.held.foldl (fun s h => s.padDrop h.frame) ((s.burstsUnfill .a).burstsUnfill .b)
  (((((s1.modPrt fun p => { p with seqCtr := [], held := [] }).seqForget .a).seqForget .b).bump (prtCnt 1) n).setFlag
    F.PRT_STAT_NO_PATH 0 false).roShow

/-- A write of PRT_CFG. Every write that is not refused writes MODE, and expected values start anew (R150; DEDUCED, log 203). -/
def pairingWrite (s : State) (v : Word) : State :=
  if s.pairingRefused v then
    (s.setFlag F.PRT_STAT_CFG_REFUSED 0 true).raise 196 1 0 (F.PRT_CFG_MODE.of v)
  else
    let change := F.PRT_CFG_MODE.of v != s.prtMode
    let s1 := (s.setReg 0x800000 (v &&& 0x000FFF0F#32)).modPrt fun p => { p with expect := [] }
    (if change then s1.pairingClear.timMove false else s1).prtEval

/-! ### Protection commands (R142) -/

/-- A refused command: event 195. -/
def prtRefuse (s : State) (cmd : Nat) : State :=
  s.raise 195 1 0 (cmd + (if s.flag F.PRT_STAT_LOCKED then 8 else 0)
    + (if s.eligible (sideOther s.active) then 16 else 0))

/-- A protection command by its code: an automatic switch in the same tick takes precedence over MANUAL (R144), one that is due
too. -/
def prtCommand (s : State) (cmd : Nat) : State :=
  let locked := s.flag F.PRT_STAT_LOCKED
  match cmd with
  | 1 =>
    if s.prtMode = 1 && !locked && s.eligible (sideOther s.active) && s.prt.autoTick != s.tick + 1
        && !s.autoDue then
      (s.prtSwitch (sideOther s.active) 4).prtEval
    else s.prtRefuse 1
  | 2 => if s.prtMode = 1 then (s.setFlag F.PRT_STAT_LOCKED 0 true).prtEval else s.prtRefuse 2
  | 3 => if s.prtMode = 1 && locked then (s.setFlag F.PRT_STAT_LOCKED 0 false).prtEval.prtDecide else s.prtRefuse 3
  | c => s.prtRefuse c

/-- The wait to restore ends (R143), unless an automatic switch takes the tick (R144) or HOME is lost in it. -/
def wtrDone (s : State) : State :=
  if s.prt.wtr = 0 ∨ s.prt.autoTick = s.tick + 1 ∨ s.autoDue ∨ !s.eligible s.home then s
  else ((s.setFlag F.PRT_STAT_WTR_RUN 0 false).prtSwitch s.home 5).raise 194 1 0 (sideNo s.home)

/-! ### Paddock cells of an arriving frame (R346) -/

/-- The write of a stored frame may be the one an armed flip mask of a macro group of the frame cells waits for (R360); which
groups hold a frame's cells the spec does not give. -/
def padFlip (s : State) (x : Frame) : Frame × State :=
  if (List.range 46).any fun g => s.flipArmed true g then
    let b := s.takeFree 1
    if b.1 = 1 then ({ x with flip := maskVerdict true s.flipMask }, b.2.flipUsed) else (x, b.2)
  else (x, s)

/-- Store an arriving frame, or count its discard when the cells it may take are gone (PAD_FULL_DISC). -/
def padArrive (s : State) (x : Frame) : Option Frame × State :=
  if x.handle ≠ 0 then (some x, s)
  else if s.padMay x.exp (max 1 (ceilDiv x.data.length 256)) then
    let r := s.padStore x
    let z := r.2.padFlip r.1
    (some z.1, z.2)
  else (none, s.bump 0x1200868)

/-! ### The reorder store (R150 to R154) -/

/-- The frame a side's downstream crossing offers the Core: the oldest Express, or the oldest other. -/
def dsHead (s : State) (x : Side) (exp : Bool) : Option Frame :=
  let q := s.xing (2 * sideNo x)
  if !s.xReadable (2 * sideNo x) then none else if exp then q.exp.head? else if q.exp.isEmpty then q.other.head? else none

/-- That frame leaves the crossing. -/
def dsTake (s : State) (x : Side) (exp : Bool) : State :=
  let i := 2 * sideNo x
  let q := s.xing i
  s.setXing i (if exp then { q with exp := q.exp.drop 1 } else { q with other := q.other.drop 1 })

/-- A frame passes through the reorder store: bonded mode, a client frame, and SEQ_EN of its port ID (R150). -/
def roFrame (s : State) (x : Side) (f : Frame) : Bool :=
  s.prtMode == 2 && !f.msg &&
    (match s.pidMatches x f.port with
      | n :: _ => s.effF x F.DSF_PID_SEQ_EN (sideOff x + 4 * n) == 1
      | [] => false)

/-- Expected value of a port ID, none before its first frame. -/
def roExpect (s : State) (port : Nat) : Option Nat :=
  match sget (fun _ => 0) s.prt.expect port with
  | 0 => none
  | n + 1 => some n
def setExpect (s : State) (port e : Nat) : State :=
  s.modPrt fun p => { p with expect := sset (fun _ => 0) p.expect port (e % 2 ^ 24 + 1) }

/-- The held frames of a port ID. -/
def roHeld (s : State) (port : Nat) : List HeldFrame := s.prt.held.filter fun h => h.frame.port == port

/-- Deliver a frame to classification. -/
def roPass (s : State) (f : Frame) : State := s.modPrt fun p => { p with out := p.out ++ [f] }

/-- R151: deliver held frames while one has the expected value. -/
def roDrain (s : State) (port : Nat) : Nat → Nat → State
  | 0, e => s.setExpect port e
  | k + 1, e =>
    match (s.roHeld port).find? fun h => h.frame.seq == e with
    | none => s.setExpect port e
    | some h =>
      let s1 := (s.modPrt fun p => { p with held := p.held.erase h }).roPass h.frame
      s1.roDrain port k ((e + 1) % 2 ^ 24)

/-- Distance of a sequence value from another, modulo 2^24. -/
def roDist (n e : Nat) : Nat := (n + 2 ^ 24 - e % 2 ^ 24) % 2 ^ 24

/-- Deliver a frame with the expected value, and what follows it. -/
def roDeliver (s : State) (port : Nat) (f : Frame) : State :=
  (s.roPass f).roDrain port (s.prt.held.length) ((f.seq + 1) % 2 ^ 24)

/-- Lowest held value of a port ID, as its distance from E. -/
def roLowest (s : State) (port e : Nat) : Option Nat :=
  ((s.roHeld port).map fun h => roDist h.frame.seq e).min?

/-- R152: the window of the oldest held frame of a port ID ends. Where the expected value has been forgotten it starts at the
lowest held one, counted from the oldest. -/
def roExpire (s : State) (port : Nat) : State :=
  let e := (s.roExpect port).getD (((s.roHeld port).map fun h => h.frame.seq).headD 0)
  match s.roLowest port e with
  | none => s
  | some d => (s.bumpIf (s.roExpect port).isSome (prtCnt 1) d).roDrain port s.prt.held.length ((e + d) % 2 ^ 24)

/-- R153: the frame would be held and the store is full: R152 applies to its port ID, then E jumps to the frame's value, the gap
to it counts as lost, and the frame is delivered, a frame that R152 has left behind E too, without a gap (DEDUCED, log 204). -/
def roFull (s : State) (port : Nat) (f : Frame) : State :=
  let s1 := (((s.bump (prtCnt 3)).raiseLim ticksPerMs 0 197 1 0 s.prt.held.length)).roExpire port
  let d := roDist f.seq ((s1.roExpect port).getD f.seq)
  (s1.bumpIf (decide (d < 2 ^ 23)) (prtCnt 1) d).roDeliver port f

/-- R151 for one arriving frame, already out of its crossing. -/
def roArrive (s : State) (f : Frame) : State :=
  let e := (s.roExpect f.port).getD f.seq
  let d := roDist f.seq e
  if d = 0 then s.roDeliver f.port f
  else if d < 2 ^ 23 && !(s.roHeld f.port).any (fun h => h.frame.seq == f.seq) then
    if s.prt.held.length ≥ 16384 then s.roFull f.port f
    else
      match s.padArrive f with
      | (none, s1) => s1
      | (some f1, s1) =>
        (s1.modPrt fun p => { p with held := p.held ++ [{ frame := f1, tick := s.tick }] }).bump (prtCnt 0)
  else s.bump (prtCnt 2)

/-- A write of DSF_PID_n (R76, R99): in effect from the next frame boundary; SEQ_EN newly set for a port ID forgets its expected
value (R150). -/
def pidWrite (s : State) (x : Side) (n : Nat) (v : Word) : State :=
  let a := 0x402000 + sideOff x + 4 * n
  let s1 := if F.DSF_PID_SEQ_EN.of v = 1 && (F.DSF_PID_SEQ_EN.of (s.reg a) = 0
      || F.DSF_PID_PORT_ID.of v != F.DSF_PID_PORT_ID.of (s.reg a)) then
      s.modPrt fun p => { p with expect := serase p.expect (F.DSF_PID_PORT_ID.of v) }
    else s
  s1.stageReg x a (v &&& 0xC00FFFFF#32)

end State

/-! ### The commands -/

/-- PAIRING_CONFIG_WRITE (R136). -/
def execPairingConfigWrite (q : Req) (v : Word) (s : State) : Host.Outcome State Fault Refusal :=
  .next (s.guardW q 0x800000 fun s => s.pairingWrite v)

/-- MANUAL (R142). -/
def execPrtManual (q : Req) (s : State) : Host.Outcome State Fault Refusal :=
  .next (s.guardW q 0x800004 fun s => s.prtCommand 1)

/-- LOCK (R142). -/
def execPrtLock (q : Req) (s : State) : Host.Outcome State Fault Refusal :=
  .next (s.guardW q 0x800004 fun s => s.prtCommand 2)

/-- UNLOCK (R142). -/
def execPrtUnlock (q : Req) (s : State) : Host.Outcome State Fault Refusal :=
  .next (s.guardW q 0x800004 fun s => s.prtCommand 3)

/-- WTR_EXPIRE (R143). -/
def execWtrExpire (s : State) : Host.Outcome State Fault Refusal := .next s.wtrDone

/-- REORDER_ARRIVAL (R151): the head frame of a side's downstream crossing, when it passes through the store. The Core serves
the Express queue of a crossing first (R28). -/
def execReorderArrival (x : Side) (exp : Bool) (s : State) : Host.Outcome State Fault Refusal :=
  .next (match s.dsHead x exp with
    | none => s
    | some f => if s.roFrame x f then ((s.dsTake x exp).roArrive f).roShow else s)

/-- REORDER_WINDOW_EXPIRE (R152). -/
def execReorderWindowExpire (port : Fin 1048576) (s : State) : Host.Outcome State Fault Refusal :=
  .next (s.roExpire port.val).roShow

end Sys2Proof.Machine
end

