-- ==== Sys2Proof/Machine/Ingress.lean ====
section
/-! DEFINITION. From the crossings to a thread: classification of a pass (R182 to R196, R252, R411) and dispatch (R209,
R213 to R218). -/

namespace Sys2Proof.Machine

/-- Team counter i of team t, dispatch counter i. -/
def crsCnt (t i : Nat) : Nat := 0xC00100 + 0x10000 * t + 8 * i
def dispCnt (i : Nat) : Nat := 0xD00800 + 8 * i

/-- Key of a thread. -/
def thrKey (t c n : Nat) : Nat := 64 * t + 8 * c + n

namespace State

/-! ### Team memories (R207) -/

/-- Local memory of Courser `k / 8` (team * 8 + Courser): a byte, and bytes stored. -/
def lmemByte (s : State) (k o : Nat) : Byte := sget (fun _ => 0) s.lmem (k * 2 ^ 15 + o)
def lmemBytes (s : State) (k : Nat) : Nat → Nat → List Byte
  | _, 0 => []
  | o, n + 1 => s.lmemByte k o :: s.lmemBytes k (o + 1) n
def lmemPut (s : State) (k o : Nat) : List Byte → State
  | [] => s
  | b :: bs => lmemPut { s with lmem := sset (fun _ => 0) s.lmem (k * 2 ^ 15 + o) b } k (o + 1) bs

/-- STATE of a team. -/
def teamState (s : State) (t : Nat) : Nat := s.f F.CRS_TEAM_STAT_STATE (0x10000 * t)
def setTeamState (s : State) (t v : Nat) : State := s.setF F.CRS_TEAM_STAT_STATE (0x10000 * t) v

/-- A frame that never leaves with success is gone: its cells and its classifier version are released. -/
def frameGone (s : State) (x : Frame) : State := (s.verRelease x).padDrop x

/-! ### Classification (R195) -/

/-- The dispatch queue of a kind has room, so the classifier takes frames of that kind (R218). -/
def dispRoom (s : State) (exp : Bool) : Bool :=
  decide ((if exp then s.dispExp.length else s.dispOther.length) < 16384)

/-- The frame a source offers the classifier: one that the reorder store or a Courser has delivered, else the head of the
source's crossing, unless it belongs to the reorder store. -/
def clsOffer (s : State) (x : Nat) (exp : Bool) : Option Frame :=
  match s.prt.out.find? fun f => f.src == x && f.exp == exp with
  | some f => some f
  | none =>
    if !s.xReadable (2 * x) then none
    else if x = 0 then (s.dsHead .a exp).filter fun f => !s.roFrame .a f
    else if x = 1 then (s.dsHead .b exp).filter fun f => !s.roFrame .b f
    else if x = 2 && (exp || !(s.xing 4).exp.isEmpty) then (s.xing 4).exp.head?.filter fun f => f.exp == exp
    else (s.xing (2 * x)).other.head?.filter fun f => f.exp == exp

/-- That frame leaves its place. -/
def clsTake (s : State) (x : Nat) (exp : Bool) (f : Frame) : State :=
  if s.prt.out.any fun g => g.src == x && g.exp == exp then s.modPrt fun p => { p with out := p.out.erase f }
  else
    let q := s.xing (2 * x)
    let s1 := s.setXing (2 * x)
      (if exp && decide (x < 3) then { q with exp := q.exp.drop 1 } else { q with other := q.other.drop 1 })
    if x = 2 then s1.cliDrainRx else s1

/-- An Express frame of crossing 0, 2 or 4 goes ahead of all other frames (R195). -/
def clsExpWaits (s : State) : Bool :=
  s.dispRoom true && [0, 1, 2].any fun x => (s.clsOffer x true).isSome

/-- Counts of a parsed pass (0 PARSED to 6 PARSE_ERR, 11 RECIRC). -/
def clsCount (s : State) (fl pass : Nat) : State :=
  ((((((((s.bump (clsCnt 0)).bumpIf (bitOf fl 5) (clsCnt 1)).bumpIf (bitOf fl 0) (clsCnt 2)).bumpIf (bitOf fl 2)
    (clsCnt 3)).bumpIf (bitOf fl 3) (clsCnt 4)).bumpIf (bitOf fl 4) (clsCnt 5)).bumpIf (bitOf fl 7) (clsCnt 6)).bumpIf
    (pass != 0) (clsCnt 11))

/-- The hit counter of a winning ternary entry with COUNT_EN (R193). -/
def tcHitCount (s : State) (v : Nat) (l : Lookup) : State :=
  if l.tcHit && actCountEn l.tcAct then
    let c := s.tcCopy v
    let e := s.tcAt c l.tcIndex
    s.setTc c l.tcIndex { e with hits := (e.hits + 1) % 2 ^ 64 }
  else s

/-- The policer before dispatch (R252): the colour, or none where a red frame is dropped. -/
def polBefore (s : State) (act : BitVec 64) (n : Nat) : Option (Option Nat) × State :=
  if !actPolEn act then (some none, s)
  else
    let m := s.meter (actPolicer act) n 0
    if m.1 = 2 && s.flag F.SCH_POL_CFG_RED_DROP (32 * actPolicer act) then (none, m.2) else (some (some m.1), m.2)

/-- A stored frame's pass is parsed, looked up, captured and metered, and waits for dispatch (R182, R192 to R196, R201,
R252, R411). `unc` are the uncorrectable table entries the lookup meets. -/
def classify (s : State) (f : Frame) (unc : List (Nat × Bool)) : State :=
  let first := decide (f.pass = 0)
  let v := if first then s.verCur else f.ver.getD s.verCur
  let s1 := if first then s.verHold else s
  let k := frameKey s1 f
  let l := (s1.clsCount k.2 f.pass).lookup k.1 v f.src 0 unc
  let g : Frame := { f with ver := if first then some v else f.ver, res := resWords l.1 k.1 f.pass v }
  let s2 := (l.2.tcHitCount v l.1).capFrame g (actCapture l.1.eff) v
  match s2.polBefore l.1.eff g.data.length with
  | (none, s3) => s3.frameGone g
  | (some colour, s3) =>
    let g := { g with colour := colour }
    if g.exp then { s3 with dispExp := s3.dispExp ++ [g] } else { s3 with dispOther := s3.dispOther ++ [g] }

/-- The classifier takes the frame a source offers (R195, R218): it finds Paddock cells or is discarded (R346), and one that
ended with an error mark is discarded unseen (R296). -/
def classifyFrom (s : State) (x : Nat) (exp : Bool) (unc : List (Nat × Bool)) : State :=
  if s.groupHeld 96 || s.groupHeld 97 || !s.dispRoom exp || (!(exp && decide (x < 3)) && s.clsExpWaits) then s
  else
    match s.clsOffer x exp with
    | none => s
    | some f =>
      let s1 := s.clsTake x exp f
      if f.err then s1.frameGone f
      else
        match s1.padArrive f with
        | (none, s2) => s2
        | (some f1, s2) => s2.classify f1 unc

/-! ### Dispatch (R216 to R218) -/

/-- Program selector of a classified frame. -/
def frameProg (_s : State) (f : Frame) : Nat := actProg (frameAct f)

/-- A candidate team for a frame (R216): listed, running, with the program, and for an Express frame serving Express with a
budget; a team one of whose macro groups is held in reset is none (R359). -/
def candidate (s : State) (f : Frame) (t : Nat) : Bool :=
  let p := s.frameProg f
  s.flag F.CRS_DISP_VALID (4 * p) && bitOf (s.f F.CRS_DISP_TEAMS (4 * p)) t && s.teamState t == 4
    && s.flag F.CRS_ENTRY_VALID (0x10000 * t + 4 * p)
    && (!f.exp || (s.flag F.CRS_TEAM_CFG_EXPRESS (0x10000 * t) && s.f F.CRS_ENTRY_EXP_BUDGET (0x10000 * t + 4 * p) != 0))
    && !s.groupHeld (64 + 2 * t) && !s.groupHeld (65 + 2 * t)

/-- A thread able to take a frame (R216, R217): idle, on a working Courser, and thread 7 of an Express team for Express
frames only. -/
def threadAble (s : State) (f : Frame) (t k : Nat) : Bool :=
  !(s.thread (64 * t + k)).busy && !bitOf (s.f F.CRS_TEAM_STAT_QUAR (0x10000 * t)) (k / 8)
    && (f.exp || k % 8 != 7 || !s.flag F.CRS_TEAM_CFG_EXPRESS (0x10000 * t))

/-- The lowest-numbered Courser and thread of a team able to take the frame. -/
def teamThread (s : State) (f : Frame) (t : Nat) : Option Nat := (List.range 64).find? (s.threadAble f t)

/-- The team and thread a frame goes to, in round-robin order over the teams. -/
def place (s : State) (f : Frame) : Option (Nat × Nat) :=
  ((List.range 16).map fun i => (s.dispNext + i) % 16).findSome? fun t =>
    if s.candidate f t then (s.teamThread f t).map fun k => (t, k) else none

/-- The frame has a candidate team. -/
def hasTeam (s : State) (f : Frame) : Bool := (List.range 16).any (s.candidate f)

end State

/-- The metadata block of a frame at dispatch (R214), 128 bytes. -/
def metaBytes (f : Frame) (prog handle : Nat) : List Byte :=
  let w (n : Nat) := leBytes 4 n
  (f.res.flatMap fun r => w r.toNat) ++ List.replicate (0x48 - 4 * f.res.length) 0 ++ w f.data.length
    ++ w (0x40 + (0x40 + min f.data.length 256) * 65536) ++ leBytes 8 f.arrival
    ++ w (f.src % 8 + (if f.exp then 8 else 0) + (if f.pass ≠ 0 then 16 else 0) + f.port % 2 ^ 20 * 256)
    ++ w (f.seq % 2 ^ 24) ++ w handle ++ w prog ++ bytesAt f.user 0 24

/-- The bytes of a thread's window the device fills at dispatch (R213): headroom, frame head, metadata. -/
def windowBytes (f : Frame) (prog handle : Nat) : List Byte :=
  List.replicate 64 0 ++ bytesAt f.data 0 256 ++ metaBytes f prog handle

namespace State

/-- A thread starts at an entry with the given registers (R209). -/
def startThread (s : State) (k entry : Nat) (x : Thread) (len prog : Nat) : State :=
  let base := 0x10000 + 0x1000 * (k % 8)
  let g : SMap (BitVec 64) := sset (fun _ => 0) (sset (fun _ => 0) (sset (fun _ => 0) [] 1 (BitVec.ofNat 64 base)) 2
    (BitVec.ofNat 64 len)) 3 (BitVec.ofNat 64 prog)
  s.setThread k { x with busy := true, g := g, pc := 0x200000 + 4 * entry, prog := prog, wait := 0, call := none }

/-- A frame is placed on a thread (R209, R213, R214). The handle is opaque to firmware: a free value. -/
def dispatch (s : State) (f : Frame) (t n : Nat) : State :=
  let p := s.frameProg f
  let k := 64 * t + n
  let h := s.takeFree 32
  let s1 := h.2.lmemPut (k / 8) (0x1000 * (k % 8)) (windowBytes f p h.1)
  let s2 := s1.startThread k (s1.f F.CRS_ENTRY_ENTRY (0x10000 * t + 4 * p)) { frame := some f } f.data.length p
  let s3 : State := { s2 with dispNext := (t + 1) % 16 }
  ((((s3.bump (dispCnt 0)).bumpIf f.exp (dispCnt 1)).bump (crsCnt t 0)).bumpIf f.exp (crsCnt t 2))

/-- A frame without a candidate team is dropped (R218). -/
def noTeam (s : State) (f : Frame) : State :=
  ((s.bump (dispCnt 2)).frameGone f).raiseLim ticksPerMs 0 341 1 0 (s.frameProg f + (if f.exp then 256 else 0))

/-- A waiting frame can go now: to a thread, or dropped for want of a team. -/
def dispCan (s : State) (f : Frame) : Bool := !s.hasTeam f || (s.place f).isSome

/-- The oldest Express frame that can go now: one whose candidates are busy keeps no other waiting (R217). -/
def dispPick (s : State) (q : List Frame) : Option Frame := q.find? s.dispCan

/-- One dispatch decision for a frame already taken out of its queue. -/
def dispOne (s : State) (f : Frame) : State :=
  match s.place f with
  | some (t, n) => s.dispatch f t n
  | none => s.noTeam f

/-- Dispatch from the Express queue, or, when no Express frame waits, of the oldest frame of the other one: it waits behind every
Express frame and behind those of its own kind (R217, R460). A dispatcher held in reset places none (R359, log 246). -/
def dispatchOp (s : State) (exp : Bool) : State :=
  if s.groupHeld 99 then s
  else match s.dispPick s.dispExp with
  | some f => { s with dispExp := s.dispExp.erase f }.dispOne f
  | none =>
    if exp || !s.dispExp.isEmpty then s
    else match s.dispOther with
      | f :: fs => if s.dispCan f then { s with dispOther := fs }.dispOne f else s
      | [] => s

end State

/-! ### The commands -/

/-- FRAME_CLASSIFY (R194): the classifier takes a frame of source `x` (0 line A, 1 line B, 2 client, 3 host), Express or
other; `unc` are the uncorrectable entries its lookup meets (index, exact table). -/
def execFrameClassify (x : Fin 4) (exp : Bool) (unc : List (Nat × Bool)) (s : State) : Host.Outcome State Fault Refusal :=
  .next (s.classifyFrom x.val exp unc)

/-- FRAME_DISPATCH (R216). -/
def execFrameDispatch (exp : Bool) (s : State) : Host.Outcome State Fault Refusal := .next (s.dispatchOp exp)

end Sys2Proof.Machine
end

