-- ==== Sys2Proof/Machine/Teams.lean ====
section
/-! DEFINITION. Teams and threads: thread faults and team reset (R228, R232 to R235), images and the load commands (R236 to
R238), the sampler's restart (R231). -/

namespace Sys2Proof.Machine

/-- First address of the instruction store in a thread's map, and its size in bytes (R210). -/
def istoreBase : Nat := 0x200000
def istoreSize : Nat := 0x20000

namespace State

/-! ### Thread faults (R232) -/

/-- A thread becomes idle; its registers keep their values. -/
def threadIdle (s : State) (k : Nat) : State :=
  s.setThread k { s.thread k with busy := false, init := false, frame := none, steps := 0, copies := 0, wait := 0, call := none }

/-- The fault record of a team (CRS_TFLT_*): the first fault is kept, later ones set MORE. -/
def faultRecord (s : State) (k cause index addr trap : Nat) : State :=
  let i := 0x10000 * (k / 64)
  if s.flag F.CRS_TFLT_INFO_VALID i then s.setFlag F.CRS_TFLT_INFO_MORE i true
  else
    (((s.setReg (0xC00060 + i) (BitVec.ofNat 32 (2 ^ 31 + cause % 8 * 2 ^ 27 + k / 8 % 8 * 2 ^ 24 + k % 8 * 2 ^ 21
      + trap % 32 * 2 ^ 16 + index % 2 ^ 15))).setReg (0xC00064 + i) (BitVec.ofNat 32 addr)).setReg (0xC00068 + i)
      (BitVec.ofNat 32 s.tick)).setReg (0xC0006C + i) (BitVec.ofNat 32 (s.tick / 2 ^ 32))

/-- A load command ends (R238): DONE and its RESULT. -/
def loadDone (s : State) (t r : Nat) : State :=
  (s.setFlag F.CRS_LOAD_STAT_DONE (0x10000 * t) true).setF F.CRS_LOAD_STAT_RESULT (0x10000 * t) r

/-- A load or an INIT fails: STATE 0, the RESULT, event 338. -/
def loadFail (s : State) (t r : Nat) : State := ((s.setTeamState t 0).loadDone t r).raise 338 1 0 (t + 16 * r)

/-- A DRAIN that waited for INIT takes effect in the STATE that INIT left (R235). -/
def drainAfter (s : State) (t : Nat) : State :=
  if !(s.team t).drainAfterInit then s
  else
    let s1 := s.setTeam t { s.team t with drainAfterInit := false }
    if s1.teamState t = 4 then (s1.setTeam t { s1.team t with draining := true }).setTeamState t 1 else s1.loadDone t 1

/-- A fault stops INIT (R238 step 4a). -/
def initFault (s : State) (t : Nat) : State :=
  ((s.setTeam t { s.team t with runCmd := false }).loadFail t 12).drainAfter t

/-- The fault of a thread, INIT's end apart (R232): the frame is dropped and counted, the thread becomes idle, the record
and event 336. -/
def threadDrop (s : State) (k cause index addr trap : Nat) : State :=
  let t := k / 64
  let x := s.thread k
  let s1 := match x.frame with
    | some f => (s.bump (crsCnt t 3)).frameGone f
    | none => s
  let s2 := ((s1.bumpIf (cause == 4) (crsCnt t 7)).threadIdle k).faultRecord k cause index addr trap
  s2.raise 336 0 (8 * t + k / 8 % 8) (t + k / 8 % 8 * 16 + k % 8 * 128 + cause % 8 * 1024 + index % 2 ^ 15 * 8192)

/-- The fault of a thread. -/
def threadFault (s : State) (k cause index addr trap : Nat) : State :=
  let s1 := s.threadDrop k cause index addr trap
  if (s.thread k).init then s1.initFault (k / 64) else s1

/-- The index of a thread's next instruction. -/
def threadIndex (s : State) (k : Nat) : Nat := ((s.thread k).pc - istoreBase) / 4 % 2 ^ 15

/-- A MEM_UNC fault whose address lies in the Courser's local memory is remembered for a second (R233). -/
def uncLocal (s : State) (k : Nat) : State :=
  let t := k / 64
  let old := (s.team t).unc.filter fun e => decide (s.tick < e.2 + ticksPerS)
  s.setTeam t { s.team t with unc := (k / 8 % 8, s.tick) :: old }

/-! ### Step limits (R228, R232) -/

/-- The steps a pass may issue. -/
def wdogLimit (s : State) (t : Nat) : Nat := max 1 (s.f F.CRS_TEAM_CFG_WDOG (0x10000 * t)) * 64

/-- The next step would pass the watchdog. -/
def wdogDue (s : State) (k : Nat) : Bool := (s.thread k).busy && decide (s.wdogLimit (k / 64) ≤ (s.thread k).steps)

/-- The next step would pass the Express budget of the frame held. -/
def budgetDue (s : State) (k : Nat) : Bool :=
  let x := s.thread k
  x.busy && (x.frame.map (·.exp)).getD false
    && decide (s.f F.CRS_ENTRY_EXP_BUDGET (0x10000 * (k / 64) + 4 * x.prog) ≤ x.steps)

/-- The frame loses Express priority for the rest of its life (R228). -/
def budgetOver (s : State) (k : Nat) : State :=
  let t := k / 64
  let x := s.thread k
  let o := 0x1000 * (k % 8) + 0x140 + 0x58
  let s1 := s.setThread k { x with frame := x.frame.map fun f => { f with exp := false } }
  let s2 := s1.lmemPut (k / 8) o [s1.lmemByte (k / 8) o &&& 0xF7#8]
  (s2.bump (crsCnt t 6)).raise 339 0 0 (t + 16 * x.prog)

/-! ### INIT, reset and quarantine (R233, R234, R238) -/

/-- Thread 0 of Courser 0 runs the INIT program. -/
def startInit (s : State) (t : Nat) : State :=
  (s.setThread (64 * t) { s.thread (64 * t) with
    busy := true, init := true, frame := none, steps := 0, copies := 0, prog := 0, wait := 0, call := none,
    pc := istoreBase + 4 * (s.team t).initEntry }).setTeamState t 7

/-- Word `i` of a team's instruction store; the store as bytes, and its CRC-32C (R234). -/
def istoreWord (s : State) (t i : Nat) : Word := sget (fun _ => 0xFFFFFFFF#32) s.istore (t * 2 ^ 15 + i)
def istoreCrc (s : State) (t : Nat) : Nat :=
  crc32c ((List.range 32768).flatMap fun i => leBytes 4 (s.istoreWord t i).toNat)

/-- Every busy thread for which `p` holds faults with a cause. -/
def dropThreads (s : State) (cause : Nat) (p : Nat → Bool) : State :=
  ((s.threads.filter fun e => e.2.busy && p e.1).map (·.1)).foldl (fun s k => s.threadDrop k cause (s.threadIndex k) 0 0) s

/-- A team reset (R234). The block number of a team within the Core is not stated: free in the chip record. Where a fault has
climbed from a cell, the block it passed through records it too, and both records carry the cell's instance (R16). -/
def resetTeam (s : State) (t : Nat) (cell : Option Nat := none) : State :=
  let s1 := s.dropThreads 7 fun k => k / 64 == t
  let s2 : State := { s1 with threads := sdrop (fun k => k / 64 == t) s1.threads,
                              lmem := sdrop (fun k => k / 2 ^ 18 == t) s1.lmem }
  let s3 := s2.setF F.CRS_TEAM_STAT_QUAR (0x10000 * t) 0
  let ok := s3.istoreCrc t == s3.f F.CRS_IMG_ICRC_CRC (0x10000 * t)
  let info := if ok then 1 else 0
  let x := s3.team t
  let s4 := s3.setTeam t { x with
    unc := [], lastReset := some s3.tick, draining := false, drainAfterInit := ok && (x.draining || x.drainAfterInit),
    runCmd := ok && x.runCmd }
  let s5 := if ok then s4.startInit t else (s4.setTeamState t 0).setF F.CRS_LOAD_STAT_RESULT (0x10000 * t) 14
  let s6 := match cell with
    | some i => (s5.raise (320 + t) 1 i info).raise (320 + t) 2 i info
    | none => s5.raise (320 + t) 2 t info
  match x.lastReset with
  | some l => if s.tick < l + ticksPerS then (s6.takeFree 8).2.chipFault 1 2 (s6.takeFree 8).1 info else s6
  | none => s6

/-- Coursers of a team that work. -/
def working (s : State) (t : Nat) : Nat :=
  ((List.range 8).filter fun c => !bitOf (s.f F.CRS_TEAM_STAT_QUAR (0x10000 * t)) c).length

/-- The cause of a quarantine holds (R233): a failed handshake, or 3 MEM_UNC faults in local memory within 1 s. -/
def quarCause (s : State) (t c : Nat) (handshake : Bool) : Bool :=
  handshake || decide (3 ≤ ((s.team t).unc.filter fun e => e.1 == c && decide (s.tick < e.2 + ticksPerS)).length)

/-- A Courser is quarantined, or the fault passes to the region, which resets the team (R15, R233). -/
def quarantine (s : State) (t c : Nat) (handshake : Bool) : State :=
  let q := s.f F.CRS_TEAM_STAT_QUAR (0x10000 * t)
  if bitOf q c || !s.quarCause t c handshake then s
  else if s.working t < 5 then s.resetTeam t (some (8 * t + c))
  else
    let inInit := (s.thread (64 * t)).init && c == 0
    let s1 := s.dropThreads 6 fun k => k / 8 == 8 * t + c
    let s2 := if inInit then s1.initFault t else s1
    let s3 := s2.setTeam t { s2.team t with unc := (s2.team t).unc.filter fun e => e.1 != c }
    (s3.setF F.CRS_TEAM_STAT_QUAR (0x10000 * t) (q + 2 ^ c)).raise (304 + t) 1 t (c + (if handshake then 8 else 0))

/-! ### Load commands (R238) -/

/-- DRAIN. -/
def drainCmd (s : State) (t : Nat) : State :=
  match s.teamState t with
  | 4 => (s.setTeam t { s.team t with draining := true }).setTeamState t 1
  | 7 => s.setTeam t { s.team t with drainAfterInit := true }
  | 0 => s.loadDone t 1
  | 3 => s.loadDone t 1
  | _ => s.loadDone t 2

/-- The last pass of a draining team has ended. -/
def drainEnd (s : State) (t : Nat) : State :=
  if s.teamState t = 1 && !(s.threads.any fun e => e.1 / 64 == t && e.2.busy) then
    ((s.setTeam t { s.team t with draining := false }).setTeamState t 0).loadDone t 1
  else s

/-- The instruction store of a team reads as unused words. -/
def istoreClear (s : State) (t : Nat) : State := { s with istore := sdrop (fun k => k / 2 ^ 15 == t) s.istore }

/-- LOAD (step 2): the memories are cleared while the image is read. -/
def loadCmd (s : State) (t : Nat) : State :=
  if s.teamState t = 0 ∨ s.teamState t = 3 then
    let s1 := s.istoreClear t
    { s1 with smem := sdrop (fun k => k / 2 ^ 19 == t) s1.smem,
              lmem := sdrop (fun k => k / 2 ^ 18 == t) s1.lmem }.setTeamState t 2
  else s.loadDone t 2

/-- RUN (step 4). -/
def runCmdOp (s : State) (t : Nat) : State :=
  match s.teamState t with
  | 3 => (s.setTeam t { s.team t with runCmd := true }).startInit t
  | 1 => s.loadDone t 2
  | 5 => s.loadDone t 2
  | 6 => s.loadDone t 2
  | _ => s.loadDone t 13

/-- A write of CRS_LOAD_CMD. -/
def loadCmdWrite (s : State) (t : Nat) (v : Word) : State :=
  match v.toNat % 8 with
  | 0 => s
  | 1 => s.drainCmd t
  | 2 => s.loadCmd t
  | 4 => s.runCmdOp t
  | _ => s.loadDone t 15

/-- Bytes into a team's instruction store, from byte offset `o`. -/
def istorePut (s : State) (t o : Nat) : List Byte → State
  | [] => s
  | b :: bs =>
    let w := (s.istoreWord t (o / 4)).toNat
    let v := w - bitsOf w (8 * (o % 4)) 8 * 2 ^ (8 * (o % 4)) + b.toNat * 2 ^ (8 * (o % 4))
    istorePut { s with istore := sset (fun _ => 0xFFFFFFFF#32) s.istore (t * 2 ^ 15 + o / 4) (BitVec.ofNat 32 v) } t
      (o + 1) bs

/-- Bytes into a team's shared memory. -/
def smemPut (s : State) (t o : Nat) : List Byte → State
  | [] => s
  | b :: bs => smemPut { s with smem := sset (fun _ => 0) s.smem (t * 2 ^ 19 + o) b } t (o + 1) bs

/-- One section into a team's memories; local memory is written in every Courser. -/
def sectPut (s : State) (t : Nat) (x : Sect) (b : List Byte) : State :=
  match x.typ with
  | 1 => s.istorePut t x.dest (x.bytes b)
  | 2 => s.smemPut t x.dest (x.bytes b)
  | _ => (List.range 8).foldl (fun s c => s.lmemPut (8 * t + c) x.dest (x.bytes b)) s

/-- The load succeeds (step 3). -/
def loadOk (s : State) (t : Nat) (b : List Byte) : State :=
  let i := 0x10000 * t
  let s1 := (imgSects b).foldl (fun s x => s.sectPut t x b) s
  let s2 := (List.range 256).foldl (fun s p => s.setReg (0xC00400 + i + 4 * p) (BitVec.ofNat 32 (imgWord b (32 + 4 * p)))) s1
  let s3 := ((s2.setReg (0xC00028 + i) (BitVec.ofNat 32 (imgId b))).setReg (0xC0002C + i)
    (BitVec.ofNat 32 (imgCrc b))).setReg (0xC00030 + i) (BitVec.ofNat 32 (s2.istoreCrc t))
  let s4 := s3.setTeam t { s3.team t with initEntry := imgInit b }
  ((s4.setTeamState t 3).loadDone t 1).raise 337 1 0 (t + imgId b % 65536 * 65536)

/-- The load fails (step 3a). -/
def loadBad (s : State) (t r : Nat) : State :=
  let s1 := s.istoreClear t
  ((List.range 256).foldl (fun s p => s.setFlag F.CRS_ENTRY_VALID (0x10000 * t + 4 * p) false) s1).loadFail t r

/-- A load ends: what the two reads of the image delivered (R237, R238), while host memory may be read (R315). -/
def loadEnd (s : State) (t : Nat) (first second : Option (List Byte)) : State :=
  if s.teamState t ≠ 2 || !s.hostOk then s
  else
    let i := 0x10000 * t
    match s.imgReads 1 (s.f F.CRS_LOAD_LEN_LEN i) (s.flag F.CRS_LOAD_CFG_AUTH i) (s.f F.CRS_LOAD_CFG_KEY_SLOT i) first
      second with
    | (0, b, s1) => s1.loadOk t b
    | (r + 1, _, s1) => (s1.imgTimeout (r + 1)).loadBad t (r + 1)

/-- INIT has reached DONE (step 4): dispatch is enabled. -/
def initEnd (s : State) (t : Nat) : State :=
  if s.teamState t ≠ 7 || (s.thread (64 * t)).busy then s
  else
    let s1 := s.setTeamState t 4
    let s2 := if (s1.team t).runCmd then (s1.loadDone t 1).setTeam t { s1.team t with runCmd := false } else s1
    s2.drainAfter t

/-! ### Sampler restart (R231) -/

/-- A write of CRS_SAMP_STAT. -/
def sampStatWrite (s : State) (t : Nat) (v : Word) : State :=
  let i := 0x10000 * t
  let s1 := s.setF F.CRS_SAMP_STAT_CODE i (F.CRS_SAMP_STAT_CODE.of v)
  let s2 := if F.CRS_SAMP_STAT_WRAPPED.of v = 1 then s1.setFlag F.CRS_SAMP_STAT_WRAPPED i false else s1
  if F.CRS_SAMP_STAT_FULL.of v = 1 then (s2.setFlag F.CRS_SAMP_STAT_FULL i false).setF F.CRS_SAMP_STAT_WP i 0 else s2

end State

/-- The key of a thread named by a command. -/
def tidKey (t : Tid) : Nat := thrKey t.team.val t.courser.val t.thread.val

/-! ### The commands -/

/-- WATCHDOG_EXPIRE (R232 code 4): the thread's next step passes WDOG * 64. -/
def execWatchdogExpire (t : Tid) (s : State) : Host.Outcome State Fault Refusal :=
  .next (if s.wdogDue (tidKey t) then s.threadFault (tidKey t) 4 (s.threadIndex (tidKey t)) 0 0 else s)

/-- EXPRESS_BUDGET_EXCEEDED (R228): the thread issues one step beyond the budget. -/
def execExpressBudgetExceeded (t : Tid) (s : State) : Host.Outcome State Fault Refusal :=
  .next (if s.budgetDue (tidKey t) then s.budgetOver (tidKey t) else s)

/-- COURSER_QUARANTINE (R233). -/
def execCourserQuarantine (t : Fin 16) (c : Fin 8) (handshake : Bool) (s : State) : Host.Outcome State Fault Refusal :=
  .next (s.quarantine t.val c.val handshake)

/-- TEAM_RESET (R234). -/
def execTeamReset (t : Fin 16) (s : State) : Host.Outcome State Fault Refusal := .next (s.resetTeam t.val)

/-- SAMPLER_RESTART (R231): a write of CRS_SAMP_STAT. -/
def execSamplerRestart (q : Req) (t : Fin 16) (v : Word) (s : State) : Host.Outcome State Fault Refusal :=
  .next (s.guardHostW q (0xC00044 + 0x10000 * t.val) fun s => s.sampStatWrite t.val v)

/-- DRAIN (R238 step 1). -/
def execTeamDrain (q : Req) (t : Fin 16) (s : State) : Host.Outcome State Fault Refusal :=
  .next (s.guardHostW q (0xC00020 + 0x10000 * t.val) fun s => s.drainCmd t.val)

/-- TEAM_DRAIN_DONE (R238). -/
def execTeamDrainDone (t : Fin 16) (s : State) : Host.Outcome State Fault Refusal := .next (s.drainEnd t.val)

/-- LOAD (R238 step 2). -/
def execTeamLoad (q : Req) (t : Fin 16) (s : State) : Host.Outcome State Fault Refusal :=
  .next (s.guardHostW q (0xC00020 + 0x10000 * t.val) fun s => s.loadCmd t.val)

/-- TEAM_LOAD_END (R237, R238 steps 3 and 3a): the bytes the two reads of host memory delivered. -/
def execTeamLoadEnd (t : Fin 16) (first second : Option (List Byte)) (s : State) : Host.Outcome State Fault Refusal :=
  .next (s.loadEnd t.val first second)

/-- RUN (R238 step 4). -/
def execTeamRun (q : Req) (t : Fin 16) (s : State) : Host.Outcome State Fault Refusal :=
  .next (s.guardHostW q (0xC00020 + 0x10000 * t.val) fun s => s.runCmdOp t.val)

/-- TEAM_INIT_DONE (R238 step 4). -/
def execTeamInitDone (t : Fin 16) (s : State) : Host.Outcome State Fault Refusal := .next (s.initEnd t.val)

/-- LOAD_CMD_MULTI (R238): a write of CRS_LOAD_CMD that sets more than one bit. -/
def execLoadCmdMulti (q : Req) (t : Fin 16) (v : Word) (s : State) : Host.Outcome State Fault Refusal :=
  .next (s.guardHostW q (0xC00020 + 0x10000 * t.val) fun s => s.loadCmdWrite t.val v)

end Sys2Proof.Machine
end

