-- ==== Sys2Proof/Machine/Region.lean ====
section
/-! DEFINITION. Regions that lose and regain power, and what a reset of one keeps (R11, R18, R30, R316, R388, R392). -/

namespace Sys2Proof.Machine

/-- Registers a reset of their region keeps whole (R20, R316, R342, R357, R358, R431): the reset and fault records, the PCIe
link, the resource table (each owner's region releases its own), the memory mode, the remap entries; the free Paddock cells
follow the Core. -/
def keptWhole (a : Nat) : Bool :=
  a == 0x14 || (decide (0x40 ≤ a) && decide (a < 0x50)) || (decide (0x100 ≤ a) && decide (a < 0x13C)) || a == 0x8004 || a == 0x1200000 || a == 0x1200054
    || (decide (0x1201000 ≤ a) && decide (a < 0x1203000))

/-- Bits of registers a reset of their region keeps (R122, R124, R316, R359, R426, R432): rogue latches, the hold of BEN after
a chip fault, locks until cold reset, the self-test's failures, CLEAR_LOCK and the fuses used. -/
def keptBits : List (Nat × Word) :=
  [(0x406184, 0x80000083), (0x606184, 0x80000083), (0x406018, 0x80000000), (0x606018, 0x80000000), (0x406180, 0x80000000),
   (0x606180, 0x80000000), (0x1200080, 0x40FF000F), (0x1500008, 0x20000000), (0x1500204, 0x1FF)]
    ++ (List.range 16).map fun t => (0xC0001C + 0x10000 * t, 0x80000000#32)

/-- The region of feature `f` that owns resource `i` (R36). -/
def featureRegion (i f : Nat) : Option Nat :=
  if f = 0x06 then some 2 else if f = 0x08 then some 6 else if f = 0x09 ∨ f = 0x0A then some (i - 12)
  else if f = 0x0B then some 4 else if 1 ≤ f ∧ f ≤ 7 then some 7 else none

namespace State

/-- Lock bits that are set and the fields they lock (R9): only a cold or a warm reset ends them, so they outlast a loss of
their region. -/
def locked (s : State) : List (Nat × Word) :=
  (if s.flag F.HIF_CFG_LOCK then (0x8000, 0x80000000#32) :: (List.range 64).map fun r => (0x9000 + 0x40 * r, 0xFF00#32) else [])
    ++ ([0, 0x200000].flatMap fun i =>
      (if s.flag F.UPB_SN_CFG_LOCK i then [(0x406010 + i, 0xFFFFFFFF#32), (0x406014 + i, 0xFFFFFFFF#32)] else [])
        ++ (if s.flag F.UPB_BRIDLE_CFG_LOCK i then [(0x406180 + i, 0x8001FFFF#32)] else []))
    ++ ((List.range 16).filter fun t => s.flag F.CRS_LOAD_CFG_LOCK (0x10000 * t)).map fun t =>
      (0xC0001C + 0x10000 * t, 0x8000013F#32)

/-- Registers at addresses that satisfy `p` go back to their reset values, but for what is kept and the further bits `more`. -/
def dropRegs (s : State) (p : Nat → Bool) (more : List (Nat × Word)) : State :=
  let old := ((keptBits ++ more).filter fun x => p x.1).map fun x => (x.1, s.reg x.1 &&& x.2, x.2)
  let s1 : State := { s with regs := sdrop (fun k => p (k % 2 ^ 25) && !keptWhole (k % 2 ^ 25)) s.regs }
  old.foldl (fun s x => s.setReg x.1 (s.reg x.1 &&& ~~~ x.2.2 ||| x.2.1)) s1

/-- Live counters at addresses that satisfy `p` start again at 0 (R11). -/
def dropCounters (s : State) (p : Nat → Bool) : State := { s with counters := sdrop p s.counters }

/-- Counts of the Host region that are registers of their own: EVT_CNT_n, EVT_LOST, XNG_DISC_i and XNG_TMO_i. -/
def regCount (a : Nat) : Bool :=
  (decide (0x102000 ≤ a) && decide (a < 0x102800)) || a == 0x100018
    || (decide (0x1600000 ≤ a) && decide (a < 0x16003C0) && (a % 0x20 == 8 || a % 0x20 == 12))

/-- Core state is lost: tables, Paddock, teams, queues (R388). -/
def coreLost (s : State) : State :=
  let s1 : State := { s with
    tc := [], em := [], emDup := [], drainTold := false, verCopy := 0, pad := [], countPairs := [], dispExp := [],
    dispOther := [], dispNext := 0 }
  let s2 : State := { s1 with
    teams := [], threads := [], turns := [], istore := [], lmem := [], smem := [], queues := [], groups := [] }
  let s3 : State := { s2 with
    vtimes := [], buckets := [], gates := [], gateAdm := [], gateOpr := [], promotions := 0, sweep := 0 }
  ((s3.modPrt fun p => { p with held := [], out := [], expect := [] }).modMem fun m => { m with owed := 0 }).setReg 0x1200054
    (regReset 0x1200054)

/-- Host state is lost: rings, vectors, keys, capture, Studbook, Farrier. -/
def hostLost (s : State) : State :=
  let s1 : State := { s with rings := [], jobs := [], txSend := none, vecs := [], evPhase := true, evLost := 0 }
  ((s1.modSec fun _ => {}).modCp fun _ => {}).modFar fun _ => {}

/-- State of a region beyond its registers is lost. Frames in the client MACs give their cells back. -/
def regionLost (s : State) (r : Nat) : State :=
  match r with
  | 0 => s.modLine .a fun _ => {}
  | 1 => s.modLine .b fun _ => {}
  | 2 => s.coreLost
  | 3 =>
    let fs := s.cli.rx ++ s.cli.txExp.flatMap (fun e => e.2) ++ s.cli.tx.flatMap (fun e => e.2)
      ++ s.cli.mac.filterMap (fun e => e.2.map fun m => m.frame) ++ s.cli.cut.filterMap fun e => e.2.map fun m => m.frame
    (fs.foldl (fun s f => s.padDrop f) s).modCli fun _ => {}
  | 4 => s.modHar fun _ => {}
  | 5 => (s.modMem fun m => { m with training := 0, flips := [], tags := [], spares := [] })
  | 6 => s.hostLost
  | 7 =>
    let fs := s.prt.held.map (fun h => h.frame) ++ s.prt.out
    ((fs.foldl (fun s f => s.padDrop f) s).modTm fun _ => {}).modPrt fun _ => {}
  | _ => s

/-- Resources held by features of a region are released. -/
def resDrop (s : State) (r : Nat) : State :=
  (List.range 15).foldl (fun s i => if featureRegion i (s.resFeature i) = some r then s.resRelease i else s) s

/-- Quarantined cells and reset times of the blocks of a region are forgotten. -/
def blocksDrop (s : State) (r : Nat) : State :=
  { s with blockResets := sdrop (fun k => k / 256 == r) s.blockResets,
           quarantined := sdrop (fun k => k / 256 == r) s.quarantined }

/-- PWR_STAT.ON of a region. -/
def showOn (s : State) (r : Nat) (b : Bool) : State := s.setF ⟨0x200014, r, 1⟩ 0 (if b then 1 else 0)

/-- What the loss of a Line region does outside it: a held time message is discarded (R274), a hold of BEN that waits for a
burst is in force (R124), and the time loop and the protection control see it. -/
def lineGone (s0 s : State) (x : Side) : State :=
  let s1 := if (s0.line x).faultPend then s.setFlag F.UPB_BRIDLE_STAT_FAULT_HOLD (sideOff x) true else s
  ((s1.todDsLost x).timSideLost x).prtEval

/-- The state of a region is lost: its crossings take their reset action (R18, R30). -/
def regionClear (s : State) (r : Nat) : State :=
  let s0 := if r = 5 then (List.range 4).foldl (fun s c => s.chDown c) s else s
  let s1 := (((s0.xRegionReset r).regionLost r).resDrop r).blocksDrop r
  let s2 := s1.dropRegs (fun a => regionOf a == r) s1.locked
  if r = 0 then lineGone s s2 .a else if r = 1 then lineGone s s2 .b else s2

/-- A reset of a region under R18. -/
def regionReset (s : State) (r : Nat) : State := (s.regionClear r).xRegionLeave r

/-- The configuration of the DRAM channels outlives a loss of the Memory region's power, so that they train again (R388). -/
def chKeep (s old : State) : State :=
  (List.range 4).foldl (fun s c => s.setReg (F.MEM_CH_CFG_EN.addr + 4 * c) (old.reg (F.MEM_CH_CFG_EN.addr + 4 * c))) s
def chsTrain (s : State) : State :=
  (List.range 4).foldl (fun s c => if s.flag F.MEM_CH_CFG_EN (4 * c) then s.chTrain c else s) s

/-- A region loses power (R386, R388). -/
def regionOff (s : State) (r : Nat) : State :=
  if (s.region r).on then
    let s1 := ((s.regionClear r).setRegion r { on := false, clock := true, inReset := false }).showOn r false
    if r = 5 then s1.chKeep s else s1
  else s

/-- A region gains power (R392): its live counters start at 0, PWR_EPOCH advances, and its crossings leave reset. The DRAM
channels that were enabled train (R388). -/
def regionOn (s : State) (r : Nat) : State :=
  if (s.region r).on then s
  else
    let s1 := ((s.setRegion r { on := true, clock := true, inReset := false }).showOn r true).addReg 0x200018 1
    let s2 := s1.dropCounters fun a => regionOf a == r
    let s3 := (if r = 6 then { s2 with regs := sdrop regCount s2.regs } else s2).xRegionLeave r
    if r = 5 then s3.chsTrain else s3

/-! ### Line regions and retention (R386, R394) -/

/-- A line receiver is gated: framing, lock and detect are lost, without a declaration (R386 step 2). -/
def lineGate (s : State) (x : Side) (keepCal : Bool) : State :=
  let i := sideOff x
  let s1 := ((s.framerHunt x).setFlag F.LIN_DSP_STAT_CDR_LOCK i false).setFlag F.LIN_DSP_STAT_SD i false
  if keepCal then s1 else (s1.setFlag F.LIN_DSP_STAT_ADC_CAL i false).setFlag F.LIN_DSP_STAT_CONV i false

/-- A side in state 1, 2 or 3 enters intermittent loss for DOZE or SLEEP; its hold timer stops (R386 step 2). -/
def lineLoss (s : State) (x : Side) : State :=
  let i := sideOff x
  let st := s.actState x
  let s1 := s.modLine x fun l => { l with holdStart := 0, to1 := 0 }
  if 1 ≤ st ∧ st ≤ 3 then (s1.setF F.UPB_ACT_RETURN i st).actGo x 4 1 else s1

/-- Every checker is tested when the Memory or the Core region gains power while in NORMAL (R359): `fails` are those that fail,
of the regions that have power; `old` is the state before. -/
def stestUp (s old : State) (fails : List StestFail) : State :=
  let up (r : Nat) : Bool := !(old.region r).on && (s.region r).on
  if s.memNormal && (up 2 || up 5) then s.stest (fails.filter fun x => (s.region (if x.chip then 2 else 5)).on) else s

/-- A line region is switched off with its registers in retention (R393, R394). -/
def lineSleep (s : State) (x : Side) : State :=
  let r := sideNo x
  if (s.region r).on then
    (((s.lineGate x false).xRegionReset r).setRegion r { on := false, clock := true, inReset := false }).showOn r false
  else s

/-- A listen window opens or closes on a side (R394). -/
def windowOn (s : State) (x : Side) : State := s.regionOn (sideNo x)
def windowOff (s : State) (x : Side) : State :=
  (((s.lineGate x true).xRegionReset (sideNo x)).setRegion (sideNo x) { on := false, clock := true, inReset := false }).showOn
    (sideNo x) false

/-! ### Warm and cold reset (R316, R392) -/

/-- A warm reset: every region but the Groom starts again as after a cold one, with what R316 keeps. -/
def warmCore (s : State) : State :=
  let q : State := {
    grade := s.grade, pending := s.pending, tick := s.tick, freeIdx := s.freeIdx, hostMem := s.hostMem, d3hot := s.d3hot,
    aer := s.aer,
    regions := s.regions.map fun e => (e.1, { e.2 with inReset := false }) }
  let q1 : State := { q with
    regs := s.regs, counters := s.counters, faultN := s.faultN, pwr := s.pwr, nextHandle := s.nextHandle,
    mem := { s.mem with training := 0, flips := [], tags := [], spares := [], owed := 0 } }
  let q2 := (q1.dropRegs (fun a => regionOf a != 8) []).dropCounters fun a => regionOf a != 8
  let q2 := (q2.setFlag F.UPB_BRIDLE_STAT_FAULT_HOLD 0 false).setFlag F.UPB_BRIDLE_STAT_FAULT_HOLD 0x200000 false
  let q3 := (q2.setReg 0x1200054 (regReset 0x1200054)).setReg 0x1200000 (if s.flag F.GLB_FLT_CAUSE_VALID then 3 else 0)
  let q3 := (List.range 15).foldl (fun s i => s.resRelease i) q3
  let q4 := (q3.setFlag F.GLB_RST_STAT_BUSY 0 true).setF F.GLB_RST_STAT_LAST 0 2
  (q4.satF F.GLB_RST_STAT_WARM_COUNT 0 1).addReg 0x200018 1

end State

end Sys2Proof.Machine
end

