-- ==== Sys2Proof/Machine/Farrier.lean ====
section
/-! DEFINITION. Farrier: self-test, repair and fuses (spec/17_farrier.md). -/

namespace Sys2Proof.Machine

/-- Farrier counter i. -/
def farCnt (i : Nat) : Nat := 0x1500800 + 8 * i

/-- A failing bit a memory BIST found (R430): on-chip macro group or DRAM channel, stored bit, word or line address. -/
structure BistFail where
  chip : Bool
  unit : Nat
  bit : Nat
  addr : Nat

namespace State

def farBusy (s : State) : Bool := s.flag F.FAR_STAT_BUSY
def farPhase (s : State) : Nat := s.f F.FAR_STAT_PHASE
def setPhase (s : State) (v : Nat) : State := s.setF F.FAR_STAT_PHASE 0 v

/-- The target word T of R433. -/
def farTarget (s : State) : Nat := s.far.kind + 4 * s.far.region + 64 * s.far.index

/-- VDD_CORE in mV, from filtered monitor channel 3 (R401). -/
def vcoreMv (s : State) : Nat := s.f F.GRM_MON_FILT 0x18 * 1200 / 4096

/-- VDD_CORE lies in the test window (R424). -/
def vcoreTest (s : State) : Bool := decide (728 ≤ s.vcoreMv) && decide (s.vcoreMv ≤ 772)

/-- KIND, REGION and INDEX name a target (R423). Which blocks a region has, the spec does not number: `named` says so. -/
def farNames (kind region index : Nat) (named : Bool) : Bool :=
  match kind with
  | 0 => decide (index < 16)
  | 1 => (decide (region < 6) || region == 7) && named
  | 2 => decide (region < 6) || region == 7
  | _ => decide (index < 4)

/-- The first condition of R424 that holds, or 0. `refOk`: the reference oscillator runs. -/
def farCause (s : State) (kind region index : Nat) (named refOk : Bool) : Nat :=
  let t := index % 16
  if s.farBusy || s.pwr.target.isSome || s.flag F.FAR_FUSE_STAT_BUSY || s.pwr.imgLoad
      || (List.range 16).any (fun u => s.teamState u == 2 && s.flag F.CRS_LOAD_CFG_AUTH (0x10000 * u)) then 1
  else if !farNames kind region index named then 2
  else if kind ≠ 0 && s.f F.MEM_MODE_MODE != 0 && s.f F.MEM_MODE_MODE != 2 then 3
  else if (match kind with
      | 0 => !(s.region 2).on
      | 3 => !(s.region 5).on || !s.flag F.MEM_CH_STAT_UP (4 * (index % 4))
      | _ => !(s.region region).on) then 4
  else if kind = 0 && !([0, 3, 4].contains (s.teamState t)) then 5
  else if kind = 0 && s.flag F.CRS_TEAM_CFG_EXPRESS (0x10000 * t) then 6
  else if !s.vcoreTest then 7
  else if !bitOf s.pwr.pll 0 || !bitOf s.pwr.pll 3 || !refOk then 8
  else if kind ≠ 3 && !s.flag F.FAR_CFG_ALLOW_ERASE && (List.range 64).any (fun k => !s.keyEmpty k) then 9
  else if s.flag F.FAR_STAT_CLEAR_LOCK then 10
  else 0

/-- Secrets are cleared before a scan (R425). The entropy source restarts: whether its samples pass, so that a FAIL ends, is free
(R376). -/
def clearSecrets (s : State) : State :=
  let s1 := (List.range 64).foldl (fun s k => if s.keyEmpty k then s else s.eraseSlot k 0) s
  let s2 := s1.modSec fun c => { c with stage := [], unwStage := [] }
  if s2.flag F.SEC_ENT_STAT_FAIL then
    let b := s2.takeFree 1
    b.2.setFlag F.SEC_ENT_STAT_FAIL 0 (b.1 == 1)
  else s2

/-- Result 2 to 4, 6 or 7: FAIL counts it, and the event of R433 is raised. -/
def farFail (s : State) (r : Nat) : State :=
  let s1 := (s.bumpIf (!s.far.ended) (farCnt 2)).setF F.FAR_STAT_RESULT 0 r
  let s2 := if r = 6 then s1.setFlag F.FAR_STAT_CLEAR_LOCK 0 true else s1
  if r = 6 then s2.raise 509 1 0 s2.farTarget else s2.raise 505 1 0 (s2.farTarget + 65536 * r)

/-- The test has ended. -/
def farDone (s : State) : State :=
  ((((s.setFlag F.FAR_STAT_BUSY 0 false).setFlag F.FAR_STAT_DONE 0 true).setPhase 0).modFar fun _ => {})

/-- The clearing and its zero check (R425, R426): the scan phase, or the end of the test. -/
def farClear (s : State) (ok : Bool) : State :=
  let s1 := s.clearSecrets
  if ok then (s1.modFar fun x => { x with cleared := true }).setPhase 4
  else
    let s2 := s1.farFail 6
    if s2.far.kind = 0 then (s2.modFar fun x => { x with ended := true }).setPhase 6 else s2.farDone

/-- A START accepted (R424, R427 step 1). -/
def farBegin (s : State) (kind region index : Nat) (clearOk : Bool) : State :=
  let p := s.f F.FAR_CFG_PATTERNS
  let sig := Config.bistSig kind region index p
  let s1 := s.modFar fun _ => { kind := kind, region := region, index := index, before := s.teamState (index % 16) }
  let s2 := ((s1.setReg 0x1500008 (s1.reg 0x1500008 &&& 0x20000000#32 ||| 0x80000000#32)).setReg 0x1500018
    (BitVec.ofNat 32 sig)).setReg 0x150001C (BitVec.ofNat 32 (sig / 2 ^ 32))
  let s3 := (s2.setF F.FAR_INFO_CHAIN 0 (if kind = 0 then 40 else Config.bistChain kind region index)).bump (farCnt 0)
  match kind with
  | 0 => (s3.setTeamState index 5).setPhase 1
  | 3 => s3.setPhase 5
  | _ => s3.farClear clearOk

/-- A write of FAR_CMD (R424). -/
def farCommand (s : State) (v : Word) (refOk clearOk : Bool) : State :=
  let s1 := s.setReg 0x1500004 (v &&& 0x03F0FF00#32)
  if F.FAR_CMD_START.of v = 0 then s1
  else
    let k := F.FAR_CMD_KIND.of v
    let r := F.FAR_CMD_REGION.of v
    let i := F.FAR_CMD_INDEX.of v
    let nm := if k = 1 then s1.takeFree 1 else (1, s1)
    match nm.2.farCause k r i (nm.1 == 1) refOk with
    | 0 => nm.2.farBegin k r i clearOk
    | c => ((((nm.2.setFlag F.FAR_STAT_DONE 0 true).setF F.FAR_STAT_RESULT 0 5).setF F.FAR_STAT_CAUSE 0 c).bump (farCnt 3)).raise
      506 1 0 (k + 4 * r + 64 * i + 65536 * c)

/-! ### A team under test (R427) -/

/-- Its memories and registers. -/
def teamSave (s : State) (t : Nat) : TeamSave :=
  { istore := s.istore.filter (fun e => e.1 / 2 ^ 15 == t), smem := s.smem.filter (fun e => e.1 / 2 ^ 19 == t),
    lmem := s.lmem.filter (fun e => e.1 / 2 ^ 18 == t), threads := s.threads.filter (fun e => e.1 / 64 == t) }

/-- Its stores are emptied: instruction store 0xFFFF_FFFF, data memories 0. -/
def teamBlank (s : State) (t : Nat) : State :=
  let s1 : State := { s with istore := sdrop (fun k => k / 2 ^ 15 == t) s.istore, smem := sdrop (fun k => k / 2 ^ 19 == t) s.smem }
  { s1 with lmem := sdrop (fun k => k / 2 ^ 18 == t) s1.lmem, threads := sdrop (fun k => k / 64 == t) s1.threads }

/-- The saved state is put back. -/
def teamBack (s : State) (t : Nat) (x : TeamSave) : State :=
  let s1 := s.teamBlank t
  let s2 : State := { s1 with istore := x.istore.foldl (fun m e => sset (fun _ => 0xFFFFFFFF#32) m e.1 e.2) s1.istore,
                              smem := x.smem.foldl (fun m e => sset (fun _ => 0) m e.1 e.2) s1.smem }
  { s2 with lmem := x.lmem.foldl (fun m e => sset (fun _ => 0) m e.1 e.2) s2.lmem,
            threads := x.threads.foldl (fun m e => sset (fun _ => {}) m e.1 e.2) s2.threads }

/-- The team is idle: its state is saved and secrets are cleared (R427 steps 3 and 4). `uncs` are uncorrectable words found
on the way, by macro group and word address. -/
def farTeamIdle (s : State) (clearOk : Bool) (uncs : List (Nat × Nat)) : State :=
  let t := s.far.index
  let idle := s.threads.all fun e => e.1 / 64 != t || !e.2.busy
  if s.farBusy && s.far.kind == 0 && s.farPhase == 1 && idle then
    let s1 := uncs.foldl (fun s u =>
      let y := s.takeFree 8
      y.2.memUe true (u.1 % 128) u.2 (u.1 % 128 * 2 ^ 24 + 8 * u.2) 6 0 y.1) s
    (s1.modFar fun x => { x with save := some (s1.teamSave t) }).farClear clearOk
  else s

/-- The end of a team's test (R427 steps 7, 7a, 7b). -/
def farRestore (s : State) : State :=
  let t := s.far.index
  if !(s.farBusy && s.farPhase == 6 && s.far.kind == 0) then s
  else
    let bad := s.far.logicBad || s.far.memBad
    match (if bad && !s.far.ended then none else s.far.save) with
    | some x =>
      let s1 := s.teamBack t x
      if s1.istoreCrc t == s1.f F.CRS_IMG_ICRC_CRC (0x10000 * t) then
        let s2 := s1.setTeamState t s.far.before
        (if s.far.ended then s2 else ((s2.setF F.FAR_STAT_RESULT 0 1).bump (farCnt 1)).raise 504 1 0 s2.farTarget).farDone
      else
        (((s1.setTeamState t 0).setF F.CRS_LOAD_STAT_RESULT (0x10000 * t) 14).farFail 7).farDone
    | none =>
      let s1 := ((s.dropThreads 7 fun k => k / 64 == t).teamBlank t).setTeamState t 0
      (if s.far.ended then s1 else s1.farFail (if s.far.logicBad then 2 else 3)).farDone

/-! ### BIST (R429 to R431) -/

def farLogic (s : State) (sig : BitVec 64) : State :=
  if !(s.farBusy && s.farPhase == 4) then s
  else
    let s1 := (s.setReg 0x1500010 (BitVec.ofNat 32 sig.toNat)).setReg 0x1500014 (BitVec.ofNat 32 (sig.toNat / 2 ^ 32))
    let bad := s1.reg 0x1500010 != s1.reg 0x1500018 || s1.reg 0x1500014 != s1.reg 0x150001C
    (s1.modFar fun x => { x with logicBad := bad }).setPhase 5

/-- A spare for a failing word or line: whether it is repaired now. -/
def farSpare (s : State) (x : BistFail) : Bool × State :=
  if !s.flag F.FAR_CFG_AUTO_REMAP then (false, s)
  else if (s.mapFind x.chip x.unit x.addr).isSome then (true, s)
  else match (List.range (if x.chip then 8 else 16)).find? fun e => !bitOf (s.reg (mapReg x.chip x.unit e)).toNat 31 with
    | none => (false, s)
    | some e => (true, ((s.mapUse x.chip x.unit e x.addr true).bump (farCnt 6)).raise 508 1 0 (2 * e + 32 * x.unit))

/-- One failing bit: its spare, its log entry, its events (R430, R431). -/
def farBit (s : State) (x : BistFail) : State :=
  let r := s.farSpare x
  let s1 := if r.1 then r.2 else r.2.modFar fun y => { y with memBad := true }
  let rep := if r.1 then 1 else 0
  let s2 := match (List.range 16).find? fun e => !s1.flag F.FAR_MBIST_LOG_VALID (8 * e) with
    | none => s1.bump (farCnt 5)
    | some e =>
      (s1.setReg (0x1500100 + 8 * e) (BitVec.ofNat 32 (2 ^ 31 + rep * 2 ^ 30 + (if x.chip then 0 else 2 ^ 29)
        + x.unit * 2 ^ 22 + x.bit * 2 ^ 15))).setReg (0x1500104 + 8 * e) (BitVec.ofNat 32 x.addr)
  (s2.bump (farCnt 4)).raise 507 1 0 ((if x.chip then 0 else 1) + 2 * x.unit + 256 * x.bit + 32768 * rep)

/-- The target covers a failing word: the macro groups are Paddock's and the Core's (R350). -/
def farCovers (s : State) (x : BistFail) : Bool :=
  match s.far.kind with
  | 0 => x.chip && x.unit / 2 == 32 + s.far.index
  | 3 => !x.chip && x.unit == s.far.index
  | _ => x.chip && s.far.region == 2

/-- After a test of KIND 1 to 3 the target is reset, or the channel's contents are gone (R423). -/
def farTargetReset (s : State) (xngs : List Nat) : State :=
  match s.far.kind with
  | 1 => s.blockCrossings s.far.region xngs
  | 2 => s.regionReset s.far.region
  | 3 =>
    (s.queuesLose s.chUp.length).dramForget s.far.index
  | _ => s

/-- The memory BIST ends (R427 step 6, R430). -/
def farMemory (s : State) (fails : List BistFail) (xngs : List Nat) : State :=
  if !(s.farBusy && s.farPhase == 5) then s
  else
    let s1 := (fails.filter s.farCovers).foldl farBit s
    if s1.far.kind = 0 then s1.setPhase 6
    else
      let s2 := if s1.far.logicBad then s1.farFail 2 else if s1.far.memBad then s1.farFail 3
        else ((s1.setF F.FAR_STAT_RESULT 0 1).bump (farCnt 1)).raise 504 1 0 s1.farTarget
      (s2.farTargetReset xngs).farDone

/-- A running test is aborted (R428). Which crossings have a tested block on one side the spec does not list: free. -/
def farAbort (s : State) : State :=
  if !s.farBusy || s.far.ended then s
  else
    let s1 := s.farFail 4
    if s1.far.kind = 0 then
      (s1.modFar fun x => { x with ended := true, save := if x.cleared then x.save else none }).setPhase 6
    else
      let m := s1.takeFree 30
      (m.2.farTargetReset ((List.range 30).filter fun i => bitOf m.1 i)).farDone

/-! ### Fuses (R432) -/

/-- A write of FAR_FUSE_CMD. -/
def fuseCommand (s : State) (v : Word) : State :=
  if F.FAR_FUSE_CMD_KEY.of v ≠ 0x5EA1 ∨ F.FAR_FUSE_CMD_BURN.of v = 0 ∨ s.flag F.FAR_FUSE_STAT_BUSY then s
  else if s.f F.MEM_MODE_MODE = 0 ∨ s.f F.MEM_MODE_MODE = 2 then
    (s.setFlag F.FAR_FUSE_STAT_BUSY 0 true).setF F.FAR_FUSE_STAT_RESULT 0 0
  else (s.setFlag F.FAR_FUSE_STAT_DONE 0 true).setF F.FAR_FUSE_STAT_RESULT 0 2

/-- The on-chip repairs with AUTO = 1 that are not fused, by group and word address. -/
def unfused (s : State) : List (Nat × Nat) :=
  ((List.range 128).flatMap fun g => (List.range 8).filterMap fun e =>
    let w := (s.reg (mapReg true g e)).toNat
    if bitOf w 31 && bitOf w 30 then some (g, w % 2 ^ 20) else none).filter fun x => !s.pwr.fuses.contains x

/-- The burn ends. -/
def fuseEnd (s : State) : State :=
  if !s.flag F.FAR_FUSE_STAT_BUSY then s
  else
    let new := s.unfused
    let room := 256 - s.pwr.fuses.length
    let s1 := s.modPwr fun p => { p with fuses := p.fuses ++ new.take room }
    s1.setReg 0x1500204 (BitVec.ofNat 32 (2 ^ 30 + (if new.length ≤ room then 1 else 3) * 2 ^ 28 + s1.pwr.fuses.length))

end State

/-! ### The commands -/

/-- FARRIER_START (R424): a write of FAR_CMD by the host. `refOk`: the reference oscillator runs; `clearOk`: the zero check of
a test without a team passes (R425). -/
def execFarrierStart (q : Req) (v : Word) (refOk clearOk : Bool) (s : State) : Host.Outcome State Fault Refusal :=
  .next (s.guardHostW q 0x1500004 fun s => s.farCommand v refOk clearOk)

/-- FARRIER_TEAM_IDLE (R427 steps 2 to 4). -/
def execFarrierTeamIdle (clearOk : Bool) (uncs : List (Nat × Nat)) (s : State) : Host.Outcome State Fault Refusal :=
  .next (s.farTeamIdle clearOk uncs)

/-- LOGIC_BIST_DONE (R429), with the signature. -/
def execLogicBistDone (sig : BitVec 64) (s : State) : Host.Outcome State Fault Refusal := .next (s.farLogic sig)

/-- MEMORY_BIST_DONE (R430), with the failing bits (on-chip, group or channel, bit, address) and, for a block, its
crossings. -/
def execMemoryBistDone (fails : List (Bool × Fin 128 × Fin 128 × Nat)) (xngs : List (Fin 30)) (s : State) :
    Host.Outcome State Fault Refusal :=
  .next (s.farMemory (fails.map fun x => ⟨x.1, x.2.1.val, x.2.2.1.val, x.2.2.2⟩) (xngs.map Fin.val))

/-- FARRIER_RESTORE_DONE (R427 steps 7, 7a and 7b). -/
def execFarrierRestoreDone (s : State) : Host.Outcome State Fault Refusal := .next s.farRestore

/-- FUSE_BURN (R432): a write of FAR_FUSE_CMD by the host. -/
def execFuseBurn (q : Req) (v : Word) (s : State) : Host.Outcome State Fault Refusal :=
  .next (s.guardHostW q 0x1500200 fun s => s.fuseCommand v)

/-- FUSE_BURN_END (R432). -/
def execFuseBurnEnd (s : State) : Host.Outcome State Fault Refusal := .next s.fuseEnd

end Sys2Proof.Machine
end

