-- ==== Sys2Proof/Machine/Power.lean ====
section
/-! DEFINITION. Supplies, power states, wake, monitor, supply loss, Groom image and the chip's resets
(spec/15_power_groom.md, R316 to R318). -/

namespace Sys2Proof.Machine

/-- Groom counter i. -/
def grmCnt (i : Nat) : Nat := 0x200300 + 8 * i

/-- Rails a power state uses (R386), as a mask. -/
def stateRails : Nat → Nat
  | 2 => 0xD
  | 3 => 0x1FF
  | 4 => 0x1FF
  | _ => 0

namespace State

def pwrState (s : State) : Nat := s.f F.PWR_STATE_STATE
/-- Rails of a group, as a mask (R381). -/
def railGroup : Nat → Nat
  | 1 => 3 | 2 => 0x3C | 3 => 0x40 | _ => 0x180

/-- EN and PG of all rails. -/
def railsPut (s : State) (en pg : Nat) : State := s.setReg 0x200020 (BitVec.ofNat 32 (en + pg * 65536))
def railEn (s : State) : Nat := s.f F.GRM_RAIL_EN
def railPg (s : State) : Nat := s.f F.GRM_RAIL_PG

/-- The rails of a group that are wanted and off are enabled together, and show their power good; those not wanted fall (R382). -/
def groupRaise (s : State) (m g : Nat) : State :=
  let up := (m &&& railGroup g) - (m &&& railGroup g &&& s.railEn)
  s.railsPut (s.railEn + up) (s.railPg ||| up)
def groupLower (s : State) (m g : Nat) : State :=
  let down := (s.railEn &&& railGroup g) - (s.railEn &&& railGroup g &&& m)
  s.railsPut (s.railEn - down) (s.railPg - (s.railPg &&& down))

/-- The rails of a target state (R382): those it does not use are lowered in reverse order of the groups, those it lacks raised in
order. Each group is settled when the next one begins: a rail that fails is RAIL_FAIL's. -/
def setRails (s : State) (m : Nat) : State :=
  [1, 2, 3, 4].foldl (fun s g => s.groupRaise m g)
    ([4, 3, 2, 1].foldl (fun s g => s.groupLower m g) (s.modPwr fun p => { p with pgOut := 0 }))

def setPll (s : State) (i : Nat) (b : Bool) : State :=
  s.modPwr fun p => { p with pll := p.pll - (if bitOf p.pll i then 2 ^ i else 0) + (if b then 2 ^ i else 0) }

/-- The PLL a region's power-up locks (R383): 1 Client, 2 Memory. -/
def pllOf (r : Nat) : Option Nat := if r = 3 then some 1 else if r = 5 then some 2 else none

/-- A region's power with its PLL. -/
def powerRegion (s : State) (r : Nat) (b : Bool) : State :=
  let s1 := match pllOf r with | some i => s.setPll i b | none => s
  if b then s1.regionOn r else s1.regionOff r

/-! ### The set point (R399, R400) -/

/-- The set point as it acts (R399). -/
def vcoreTarget (s : State) : Nat := min 850 (max 680 (s.f F.GRM_VCORE_TARGET))

/-- LINEAR16 mantissa of a set point (R399). -/
def vcoreMantissa (s : State) : Nat :=
  let e := signedOf (s.f F.GRM_VCORE_EXP) 5
  if e ≤ 0 then roundDiv (s.vcoreTarget * 2 ^ (-e).toNat) 1000 else roundDiv s.vcoreTarget (1000 * 2 ^ e.toNat)

/-- What goes out on the PMBus (R399): the device's address, VOUT_COMMAND and the mantissa. -/
def vcoreWord (s : State) : Nat × Nat × Nat := (s.f F.GRM_VCORE_ADDR, 0x21, s.vcoreMantissa % 65536)

/-- Event 38: once for each set point that no newer write replaces, when it is verified or its 2 ms are over (R400). -/
def vcoreEvent (s : State) (late : Bool) : State :=
  s.raise 38 1 0 (s.vcoreTarget + (if late then 1024 else 0) + s.vcoreMv % 1024 * 65536)

/-- A waiting set point goes to the regulator unless a transition runs, or a test forbids it. -/
def vcoreSend (s : State) : State :=
  if !s.pwr.vPend || s.pwr.target.isSome || (s.farBusy && decide (s.vcoreTarget < 728)) then s
  else
    s.modPwr fun p => { p with vPend := false, vWait := true, vSent := some s.vcoreWord }

/-- A write of GRM_VCORE: TARGET by the host or the Groom. -/
def vcoreWrite (s : State) (q : Req) (v : Word) : State :=
  let s1 := (s.setF F.GRM_VCORE_ADDR 0 (F.GRM_VCORE_ADDR.of v)).setF F.GRM_VCORE_EXP 0 (F.GRM_VCORE_EXP.of v)
  match q with
  | .team _ => s1
  | _ =>
    let s2 := (s1.setF F.GRM_VCORE_TARGET 0 (F.GRM_VCORE_TARGET.of v)).setFlag F.GRM_VCORE_VERIFIED 0 false
    (s2.modPwr fun p => { p with vPend := true, vWait := false }).vcoreSend

/-! ### Regions of a power state (R386, R388, R393) -/

/-- The run mask takes effect in RUN (R386). -/
def applyMask (s : State) : State :=
  (List.range 6).foldl (fun s r => s.powerRegion r (bitOf (s.f F.PWR_RUN_MASK_REGIONS) r)) s

/-- Teams that LISTEN switches off (R388): stores and shared memory stay; one with an image restarts at the return. -/
def teamSleep (s : State) (t : Nat) : State :=
  if bitOf (s.f F.PWR_LISTEN_TEAMS_TEAMS) t then s
  else
    let run := s.teamState t == 4 || s.teamState t == 1 || s.teamState t == 3 || s.teamState t == 7
    let fs := s.threads.filterMap fun e => if e.1 / 64 = t then e.2.frame else none
    let s1 := fs.foldl (fun s f => s.frameGone f) s
    let s2 : State := { s1 with threads := sdrop (fun k => k / 64 == t) s1.threads,
                                lmem := sdrop (fun k => k / 2 ^ 18 == t) s1.lmem }
    let s3 := (s2.setF F.CRS_TEAM_STAT_BUSY (0x10000 * t) 0).setTeamState t 0
    if run then s3.modPwr fun p => { p with listenOff := p.listenOff ||| 2 ^ t } else s3

def teamsSleep (s : State) : State := (List.range 16).foldl (fun s k => s.teamSleep k) s

/-- They restart as after a team reset. -/
def teamWake (s : State) (t : Nat) : State :=
  if bitOf s.pwr.listenOff t then ((s.setTeam t { s.team t with lastReset := none }).setTeamState t 4).resetTeam t else s

/-- The Time region stops, its crossings reset (R386 step 3), its PLL off; it resumes with the ticks the Groom counted, and in
HOLDOVER unless it was FREE (R393). -/
def timeOff (s : State) : State :=
  ((((s.xRegionReset 7).setPll 0 false).modPwr fun p => { p with offCycle := p.cycle }).setRegion 7
    { on := false, clock := true, inReset := false }).showOn 7 false

def timeOn (s : State) : State :=
  if (s.region 7).on then s
  else
    let n := (s.pwr.cycle - s.pwr.offCycle) * 3888 / 125
    let s1 := (((s.setPll 0 true).setRegion 7 { on := true, clock := true, inReset := false }).showOn 7 true).addReg 0x200018 1
    let s2 := (s1.dropCounters fun a => regionOf a == 7).xRegionLeave 7
    let s3 : State := { s2 with tick := (s2.tick + n) % 2 ^ 64 }
    (s3.modTm fun t => { t with tod := (t.tod + n * todPerTick) % todModulus }).timHold 6

/-- DOZE or SLEEP is entered (R386, R393): in DOZE the time loop loses its reference, the sides enter
intermittent loss, all regions but Time go off; Time goes off in SLEEP. -/
def goDown (s : State) (t : Nat) : State :=
  let s1 := if t = 2 then s.timHold 6 else s
  let s2 := (s1.lineLoss .a).lineLoss .b
  let s3 := (s2.lineSleep .a).lineSleep .b
  let s4 := [2, 3, 4, 5, 6].foldl (fun s r => s.powerRegion r false) s3
  let s5 := if t = 2 then s4 else if (s4.region 7).on then s4.timeOff else s4
  (s5.setRails (stateRails t)).modPwr fun p => { p with dozeRan := false, listenOff := 0 }

/-- A line region comes back, or stays on at the end of DOZE: a side in intermittent loss starts its hold timer (R386). -/
def lineUp (s : State) (x : Side) : State :=
  let s1 := s.regionOn (sideNo x)
  if s1.actState x = 4 then
    s1.modLine x fun l => { l with holdStart := s1.tick + 1, holdMs := s1.f F.DSF_HOLD_HOLD (sideOff x) }
  else s1

/-- RUN, LISTEN or DOZE is entered from below (R386). -/
def goUp (s : State) (t : Nat) : State :=
  let s1 := (s.setRails (stateRails t)).timeOn
  if t = 2 then s1
  else
    let m := s1.f F.PWR_RUN_MASK_REGIONS
    let s2 := if bitOf m 0 then s1.lineUp .a else s1
    let s3 := if bitOf m 1 then s2.lineUp .b else s2
    let s4 := [2, 3, 4, 5].foldl (fun s r => if bitOf m r then s.powerRegion r true else s) s3
    let s5 := if (s4.region 6).on then s4 else (s4.regionOn 6).hostResetOp .perst
    if t = 3 then s5.teamsSleep else s5

/-! ### Transitions (R387, R391) -/

/-- Event 32. -/
def stateEvent (s : State) (new old : Nat) (aborted : Bool) : State :=
  s.raise 32 1 0 (new + 16 * old + (if aborted then 128 else 0) + s.f F.PWR_EPOCH_COUNT % 65536 * 65536)

def setState (s : State) (v : Nat) : State := s.setF F.PWR_STATE_STATE 0 v

/-- A transition to `t` starts; an exit ends the latch of the wake indication (R395). -/
def startTrans (s : State) (t : Nat) : State :=
  let old := s.pwrState
  (s.setFlag F.PWR_STATE_TRANS 0 true).modPwr fun p => { p with
    target := some t, prev := old, wakeAfter := false, tries := 0, tryMask := 0, wakeInd := p.wakeInd && decide (t < old) }

def endTrans (s : State) : State :=
  (s.setFlag F.PWR_STATE_TRANS 0 false).modPwr fun p => { p with target := none, tries := 0 }

/-- Where a wake leads (R396). -/
def wakeTarget (s : State) (from' : Nat) : Nat :=
  if from' = 3 then 4 else if s.f F.PWR_CFG_WAKE_STATE = 3 then 3 else 4

/-- A running transition completes (R386 step 6). -/
def transEnd (s : State) : State :=
  match s.pwr.target with
  | none => s
  | some t =>
    if s.pwr.tries = 1 then s
    else
      let old := s.pwr.prev
      let s1 := if t < old then
          (if t = 3 then s.teamsSleep else s.goDown t)
        else if old = 3 then ((List.range 16).foldl (fun s k => s.teamWake k) s).modPwr fun p => { p with listenOff := 0 }
        else s.goUp t
      let again := s.pwr.wakeAfter
      let s2 := (((s1.setState t).modPwr fun p => { p with entered := p.cycle, winStart := 0 }).endTrans.stateEvent t old
        false).vcoreSend
      let s3 := if t = 4 then s2.applyMask else s2
      if again then s3.startTrans (s3.wakeTarget t) else s3

/-- Monitor channels whose condition holds with WAKE = 1 (R396 source 5). -/
def monWake (s : State) : Bool :=
  (List.range 8).any fun k => bitOf s.pwr.cond k && s.flag F.GRM_MON_CFG_WAKE (8 * k)

/-- Wake sources seen and applying in power state `t`, as a mask (R396); `energy` names the client lanes with a signal. -/
def wakeSeen (s : State) (t : Nat) (energy : BitVec 8) (wakeN timer doorbell : Bool) : Nat :=
  let b (i : Nat) (c : Bool) : Nat := if c && bitOf (s.f F.GRM_WAKE_CFG_EN) i then 2 ^ i else 0
  b 0 (s.pwr.wakeInd && (t == 2 || t == 3)) + b 1 (energy &&& BitVec.ofNat 8 (s.f F.GRM_WAKE_CFG_LANES) != 0 && (t == 1 || t == 2))
    + b 2 wakeN + b 3 (timer && s.f F.GRM_WAKE_TIMER_MS != 0) + b 4 (doorbell && t == 3) + b 5 s.monWake

/-- Level-type sources active for a target (R387, R390). -/
def wakeLevel (s : State) (t : Nat) (energy : BitVec 8) (wakeN : Bool) : Bool :=
  decide (t < 4) && s.wakeSeen t energy (wakeN && !s.flag F.GRM_WAKE_CFG_WN_EDGE) false false != 0

/-- A write of PWR_STATE (R387). After a failed power-up a command to a higher state is BUSY: only WAKE_N starts another
attempt (R384; the code is a DESIGN CHOICE, log 254). -/
def pwrCmd (s : State) (q : Req) (v : Word) (energy : BitVec 8) (wakeN : Bool) : State :=
  let t := F.PWR_STATE_CMD.of v
  let now := s.pwrState
  let offTeam := s.farBusy && s.far.kind == 0
    && (decide (t < 3) || (t == 3 && !bitOf (s.f F.PWR_LISTEN_TEAMS_TEAMS) s.far.index))
  let r := if reqCode q ≠ s.f F.PWR_CFG_OWNER ∧ q ≠ .groom then 5
    else if t = 0 ∨ 4 < t ∨ t = now then 3
    else if s.pwr.target.isSome || offTeam || s.pwr.loss != 0 || (s.pwr.failed && decide (now < t)) then 2
    else if s.wakeLevel t energy wakeN then 4
    else 1
  let s1 := s.setF F.PWR_STATE_RESULT 0 r
  if r = 1 then s1.startTrans t else s1

/-- The record of a wake (R397). -/
def wakeRecord (s : State) (m : Nat) : State :=
  let src := ((List.range 6).find? fun i => bitOf m i).getD 0
  let n := min (s.f F.GRM_WAKE_REC_COUNT + 1) 0xFFFF
  let s1 := (s.setReg 0x200038 (BitVec.ofNat 32 (n * 65536 + m * 256 + src))).bump (grmCnt 0)
  let s2 := (s1.setReg 0x20003C (BitVec.ofNat 32 s1.pwr.cycle)).setReg 0x200040 (BitVec.ofNat 32 (s1.pwr.cycle / 2 ^ 32))
  s2.raise 33 1 0 (src + 256 * m + 65536 * n)

/-- A wake input is sampled `since` Groom cycles after the isolation commit, if it has passed: in the first three cycles an
edge is lost and a level is not seen yet (R390). -/
def wakeBlind (since : Option Nat) : Bool := match since with | some k => decide (k < 3) | none => false

/-- A wake is seen (R391, R396): it abandons an entry not yet committed, lets a committed one complete and then leads out, and
leads out of a lower state. After a failed power-up only WAKE_N starts another attempt (R384). -/
def wakeOp (s : State) (energy : BitVec 8) (wakeN timer doorbell committed : Bool) : State :=
  if s.pwr.loss ≠ 0 then s
  else
    match s.pwr.target with
    | some t =>
      let m := s.wakeSeen t energy wakeN timer doorbell
      if !decide (t < s.pwr.prev) || m == 0 || s.pwr.wakeAfter then s
      else
        let s1 := s.wakeRecord m
        if committed then s1.modPwr fun p => { p with wakeAfter := true }
        else
          let old := s.pwr.prev
          let s2 := (s1.endTrans.stateEvent old old true).vcoreSend
          if old = 4 then s2.applyMask else s2
    | none =>
      let now := s.pwrState
      let m := s.wakeSeen now energy wakeN timer doorbell
      if now = 0 || decide (4 ≤ now) || m == 0 || (s.pwr.failed && !wakeN) then s
      else ((s.wakeRecord m).modPwr fun p => { p with failed := false }).startTrans (s.wakeTarget now)

/-! ### Failures (R384, R385) -/

/-- Wake-fail code. -/
def failCode (index kind target : Nat) : Nat := index % 16 + 16 * kind + 256 * target

/-- The second attempt failed: SLEEP, GRM_WAKE_FAIL, FAULT_N and event 34. -/
def wakeFail (s : State) (code : Nat) : State :=
  let old := s.pwrState
  let s0 := (s.goDown 1).modPwr fun p => { p with loss := 0 }
  let s0 := if (s0.region 8).on then s0 else (s0.setRegion 8 { on := true, clock := true, inReset := false }).showOn 8 true
  let s1 := (s0.setState 1).endTrans
  let s2 := s1.setReg 0x200024 (BitVec.ofNat 32 (2 ^ 31 + 2 ^ 16 + code))
  let s3 : State := { s2 with faultN := true }
  ((s3.modPwr fun p => { p with failed := true, tryMask := 0 }).stateEvent 1 old false).raise 34 3 0 code

/-- Regions whose clock a PLL makes (R383); PLL 3 is Farrier's, which the Host region holds. -/
def pllRegions : Nat → List Nat
  | 0 => [7, 4] | 1 => [3] | 2 => [5] | _ => [6]

/-- A region a PLL is checked for (R383). -/
def pllRegion : Nat → Nat
  | 0 => 7 | 1 => 3 | 2 => 5 | _ => 6

/-- The attempt that runs raises rail `i` (R382): the target uses it and it is off. -/
def railTried (s : State) (t i : Nat) : Bool := bitOf (stateRails t) i && !bitOf s.railEn i

/-- Power comes up from OFF, or after a supply loss (R403 step 7). -/
def coldTry (s : State) : Bool := s.pwrState == 0 || s.pwr.loss == 4

/-- The target of the attempt that runs, a cold power-up or a wake that raises rails. -/
def tryTarget (s : State) : Option Nat :=
  if s.coldTry then some 4
  else match s.pwr.target with
  | some t => if s.pwr.prev < t ∧ s.pwr.prev ≠ 3 then some t else none
  | none => none

/-- The rail or PLL can fail in the attempt that runs (R382, R383): a skew (kind 5) only where VDD_CLK and VDD_CORE are raised
together, a PLL only where its region comes up, within 5 ms for one powered by a run-mask write. -/
def mayFail (s : State) (pll : Bool) (i kind : Nat) : Bool :=
  match s.tryTarget with
  | some t =>
    if !pll then s.railTried t i && (kind != 5 || (decide (i < 2) && s.railTried t 0 && s.railTried t 1))
    else if s.coldTry then i == 0
    else !(s.region (pllRegion i)).on
      && (i == 0 || (decide (3 ≤ t) && (i == 3 || bitOf (s.f F.PWR_RUN_MASK_REGIONS) (pllRegion i))))
  | none => pll && (i == 1 || i == 2) && bitOf s.pwr.tryMask (pllRegion i)
      && (s.pwr.tries == 2 || decide (s.pwr.cycle ≤ s.pwr.tryCycle + 125000))

/-- A rail or PLL fails during a power-up or a wake: the attempt is undone and repeated once (R384). What the attempt has enabled
falls again, so the rails are those of the state it left. -/
def railFailOp (s : State) (pll : Bool) (index kind : Nat) : State :=
  if (s.pwr.loss ≠ 0 ∧ s.pwr.loss ≠ 4) ∨ !s.mayFail pll index kind ∨ s.pwr.tries = 1 then s
  else
    let code := failCode index (if pll then 2 else kind) (s.tryTarget.getD 4)
    if s.pwr.tries = 2 then s.wakeFail code
    else
      let s1 := (List.range 6).foldl (fun s r => if bitOf s.pwr.tryMask r then s.powerRegion r false else s) s
      s1.modPwr fun p => { p with tries := 1 }

/-- 100 ms later the attempt is repeated. -/
def powerRetryOp (s : State) : State :=
  if s.pwr.tries ≠ 1 then s
  else
    let s1 := s.modPwr fun p => { p with tries := 2, tryCycle := p.cycle }
    (List.range 6).foldl (fun s r => if bitOf s.pwr.tryMask r then s.powerRegion r true else s) s1

/-- A power good is lost in service (R385): event 40; in RUN a chip fault. No row tells whether it comes back: the PG bit reads
free until the rails change (log 254). -/
def pgLost (s : State) (rail : Nat) : State :=
  if !bitOf (s.f F.GRM_RAIL_EN) rail then s
  else
    let s1 := ((s.setF ⟨0x200020, 16 + rail, 1⟩ 0 0).modPwr fun p => { p with pgOut := p.pgOut ||| 2 ^ rail }).raise 40 3 0 rail
    if s1.pwrState = 4 then s1.chipFault 4 8 0 (failCode rail 3 4) else s1

def clockSet (s : State) (i : Nat) (b : Bool) : State :=
  (if i = 3 then [] else pllRegions i).foldl (fun s r => s.setRegion r { s.region r with clock := b }) s

/-- A checked PLL loses lock while its region is on (R385). -/
def lockLost (s : State) (i : Nat) : State :=
  if !bitOf s.pwr.pll i || !(s.region (pllRegion i)).on then s
  else
    let s1 := ((s.setPll i false).clockSet i false).raise 40 3 0 (i + 16)
    let s2 := if i = 2 then (List.range 4).foldl (fun s c => s.chDown c) s1 else s1
    let s3 := if i = 0 ∨ i = 3 then s2.farAbort else s2
    if i = 0 ∧ s3.pwrState = 4 then s3.chipFault 4 8 0 (failCode 0 4 4) else s3

/-- Lock returns while the region is on: the clocks run, and DRAM channels train again. -/
def lockBack (s : State) (i : Nat) : State :=
  if bitOf s.pwr.pll i || !(s.region (pllRegion i)).on then s
  else
    let s1 := (s.setPll i true).clockSet i true
    if i = 2 then s1.chsTrain else s1

/-! ### Run mask (R386) and DOZE windows (R394) -/

/-- A write of PWR_RUN_MASK: bits 6 to 8 stay 1. -/
def runMaskOp (s : State) (v : Word) : State :=
  let m := v.toNat % 64
  let s1 := s.setReg 0x200008 (BitVec.ofNat 32 (m + 0x1C0))
  if s1.pwrState = 4 ∧ s1.pwr.target = none ∧ s1.pwr.loss = 0 then
    let on := (List.range 6).filter fun r => bitOf m r && !(s1.region r).on
    (s1.modPwr fun p => { p with tryMask := (on.map fun r => 2 ^ r).sum, tries := 0, tryCycle := p.cycle }).applyMask
  else s1

def dozeSide (s : State) : Side := if s.flag F.PWR_DOZE_CFG_SIDE then .b else .a

/-- Frames of a window and of a cycle (R394): values outside their ranges act as the nearest limit. -/
def dozeN (s : State) : Nat := max 4 (s.f F.PWR_DOZE_CFG_N)
def dozeM (s : State) : Nat := min 4095 (max (s.dozeN + 1) (s.f F.PWR_DOZE_CFG_M))

/-- A cycle of DOZE begins once the last one has taken its M frames, of 3,125 Groom cycles each. -/
def windowOpenOp (s : State) : State :=
  if s.pwrState = 2 ∧ s.pwr.target = none ∧ s.pwr.loss = 0 ∧ !(s.region (sideNo s.dozeSide)).on
      ∧ (s.pwr.winStart = 0 ∨ s.pwr.winStart - 1 + 3125 * s.dozeM ≤ s.pwr.cycle) then
    ((s.windowOn s.dozeSide).modPwr fun p => { p with dozeSync := false, winStart := p.cycle + 1 }).bump (grmCnt 1)
  else s

/-- Its window ends N frames after its start. -/
def windowCloseOp (s : State) : State :=
  let x : Side := if (s.region 1).on then .b else .a
  if s.pwrState = 2 ∧ (s.region (sideNo x)).on ∧ s.pwr.winStart - 1 + 3125 * s.dozeN ≤ s.pwr.cycle then
    ((s.windowOff x).bumpIf (!s.pwr.dozeSync) (grmCnt 2)).modPwr fun p => { p with dozeRan := true }
  else s

/-! ### Supply loss and the state save (R403 to R406) -/

/-- Supply loss is declared (R403 step 1). -/
def lossDeclare (s : State) (ch2 : Bool) : State :=
  if s.pwr.loss ≠ 0 then s
  else
    let st := s.pwrState
    let s1 := (s.endTrans.raise 35 3 0 ((if ch2 then 1 else 0) + 2 * st)).farAbort
    let s2 := s1.modPwr fun p => { p with loss := 1, lossCycle := p.cycle }
    if st = 3 ∨ st = 4 then (s2.dgRequest .a).dgRequest .b else s2

/-- DG_HOLD has passed (step 3): every region but the Groom is isolated, rails but VDDIO_18 drop. -/
def lossIsolate (s : State) : State :=
  if s.pwr.loss ≠ 1 then s
  else
    let s1 := [0, 1, 2, 3, 4, 5, 6].foldl (fun s r => s.powerRegion r false) s
    let s2 := if (s1.region 7).on then s1.timeOff else s1
    (s2.setRails 0x80).modPwr fun p => { p with loss := 2 }

/-- The sequence ends (step 6): SLEEP, RESULT and event 36. -/
def lossEnd (s : State) (result : Nat) : State :=
  let e := (s.reg 0x200064).toNat + 2 ^ 32 * (s.reg 0x200068).toNat
  let s1 := (((s.setF F.GRM_SAVE_STAT_RESULT 0 result).setRails 0).setState 1).modPwr fun p => { p with loss := 4 }
  s1.raise 36 1 0 (result + 256 * min (e / 1000000) 0xFFFFFF)

/-- Hold-up voltage in mV of a channel 2 code, and the energy in pJ (R405). -/
def holdV (s : State) (code : Nat) : Nat := code * s.f F.GRM_HU_CAL1_SCALE / 4096
def holdE (s : State) (code : Nat) : Nat :=
  s.f F.GRM_HU_CAL0_C * (s.holdV code * s.holdV code - s.f F.GRM_HU_CAL0_VMIN * s.f F.GRM_HU_CAL0_VMIN) / 2

def holdSuff (s : State) (code : Nat) : Bool :=
  decide (1000000 * s.f F.GRM_HU_REQ_EREQ * s.f F.GRM_HU_REQ_MARGIN ≤ 16 * s.holdE code)

/-- The energy check (steps 4 and 5). -/
def energyOp (s : State) (code : Nat) : State :=
  if s.pwr.loss ≠ 2 then s
  else
    let suff := s.holdSuff code
    let e := s.holdE code
    let s1 := ((s.setReg 0x200060 (BitVec.ofNat 32 (2 ^ 31 + (if suff then 2 ^ 30 else 0) + s.holdV code % 2 ^ 21))).setReg
      0x200064 (BitVec.ofNat 32 e)).setReg 0x200068 (BitVec.ofNat 32 (e / 2 ^ 32))
    if !suff then (s1.bump (grmCnt 4)).lossEnd 2
    else if !s1.flag F.GRM_SAVE_STAT_READY then (s1.bump (grmCnt 4)).lossEnd 3
    else s1.modPwr fun p => { p with loss := 3 }

/-- SEQ of a slot's record. -/
def recSeq (b : List Byte) : Nat := leNat (bytesAt b 4 4)

/-- The flash sector of slot `i` (R406): BASE acts as 4,094 at most. -/
def slotSector (s : State) (i : Nat) : Nat := min 4094 (s.f F.GRM_SAVE_CFG_BASE) + i

/-- The record of a slot: none when the sector is erased. -/
def slotRec (s : State) (i : Nat) : Option (List Byte) :=
  let b := sget (fun _ => []) s.pwr.flash (s.slotSector i)
  if b.isEmpty then none else some b
def setSlot (s : State) (i : Nat) (r : Option (List Byte)) : State :=
  s.modPwr fun p => { p with flash := sset (fun _ => []) p.flash (s.slotSector i) (r.getD []) }

/-- The state record (R406), without its CRC. -/
def saveBody (s : State) (seq : Nat) : List Byte :=
  let w (a : Nat) : List Byte := leBytes 4 (s.reg a).toNat
  let ev := s.pwr.mirror.flatMap fun e => e
  leBytes 4 0x47535631 ++ leBytes 4 seq ++ leBytes 8 s.pwr.lossCycle ++ w 0x200064 ++ w 0x200068
    ++ leBytes 4 (s.f F.GRM_HU_RES_V) ++ List.replicate 36 0
    ++ w 0x40 ++ w 0x44 ++ w 0x48 ++ w 0x4C ++ w 0x200024 ++ List.replicate 12 0
    ++ w 0x200038 ++ w 0x20003C ++ w 0x200040 ++ List.replicate 20 0
    ++ ev ++ List.replicate (1024 - ev.length) 0 ++ (List.range 223).flatMap fun k => w (0x201000 + 4 * k)

/-- The record write ends (step 5). -/
def saveEnd (s : State) (ok : Bool) : State :=
  if s.pwr.loss ≠ 3 then s
  else
    let cur := s.f F.GRM_SAVE_STAT_SLOT
    let new := if (s.slotRec cur).isSome then 1 - cur else cur
    let s1 := s.setFlag F.GRM_SAVE_STAT_READY 0 false
    if ok then
      let b := s1.saveBody (((s1.slotRec cur).map fun r => (recSeq r + 1) % 2 ^ 32).getD 0)
      (((s1.setSlot new (some (b ++ leBytes 4 (crc32c b)))).setF F.GRM_SAVE_STAT_SLOT 0 new).bump (grmCnt 3)).lossEnd 1
    else (s1.bump (grmCnt 4)).lossEnd 4

/-! ### Cold and warm reset -/

/-- A slot's record is valid (R406). -/
def recValid (b : List Byte) : Bool :=
  b.length == 2048 && leNat (bytesAt b 0 4) == 0x47535631 && leNat (b.drop 2044) == crc32c (b.take 2044)

/-- The newest valid slot. -/
def newestSlot (s : State) : Option Nat :=
  match (s.slotRec 0).filter recValid, (s.slotRec 1).filter recValid with
  | none, none => none
  | some _, none => some 0
  | none, some _ => some 1
  | some x, some y => if (recSeq x + 2 ^ 32 - recSeq y) % 2 ^ 32 < 2 ^ 31 then some 0 else some 1

/-- Preparation of the flash slots (R406): GRM_LAST_REC, the other slot erased, READY. -/
def flashPrep (s : State) : State :=
  match s.newestSlot with
  | none => (s.setSlot 0 none).setFlag F.GRM_SAVE_STAT_READY 0 true
  | some i =>
    let b := (s.slotRec i).getD []
    let s1 := (List.range 512).foldl (fun s k => s.setReg (0x202000 + 4 * k) (BitVec.ofNat 32 (imgWord b (4 * k)))) s
    ((s1.setSlot (1 - i) none).setF F.GRM_SAVE_STAT_SLOT 0 i).setFlag F.GRM_SAVE_STAT_READY 0 true

/-- Fused repairs are loaded (R432). -/
def fuseLoad (s : State) : State :=
  let put (s : State) (x : Nat × Nat) : State :=
    match (List.range 8).find? fun e => !bitOf (s.reg (mapReg true x.1 e)).toNat 31 with
    | none => s
    | some e => s.setReg (mapReg true x.1 e) (BitVec.ofNat 32 (2 ^ 31 + 2 ^ 30 + x.2 % 2 ^ 20))
  let n := s.pwr.fuses.length
  ((s.pwr.fuses.foldl put s).setF F.FAR_FUSE_STAT_USED 0 n).raiseIf (n != 0) 508 1 0 (1 + 65536 * n)

/-- What outlives a loss of VDD_AON: ordering code, fuses, flash, host memory, the model's own queue and index. -/
def coldBase (s : State) : State :=
  ({ grade := s.grade, pending := s.pending, freeIdx := s.freeIdx, hostMem := s.hostMem } : State).modPwr fun p => { p with
    flash := s.pwr.flash, fuses := s.pwr.fuses }

/-- Cold power-up (R381 to R383, R406, R432): the set point is sent first, then everything is as after reset. -/
def coldUp (s : State) : State :=
  let s1 := s.coldBase
  let s2 := s1.modPwr fun p => { p with vSent := some s1.vcoreWord, vWait := true }
  s2.fuseLoad.flashPrep

/-- VDD_AON is lost: OFF. -/
def aonLost (s : State) : State :=
  let s1 := s.coldBase
  let s2 := (List.range 9).foldl (fun s r => (s.setRegion r { on := false, clock := true, inReset := false }).showOn r false) s1
  ((s2.setState 0).setRails 0)

/-- PFAIL_N has been high for 10 ms (step 7): a cold power-up. VDD_AON has stayed up, so the Groom keeps its image (R407) and
GRM_WAKE_FAIL. -/
def pfailBack (s : State) : State :=
  if s.pwr.loss = 4 then
    let s1 : State := { s.coldUp with faultN := s.flag F.GRM_WAKE_FAIL_VALID }
    (s1.setReg 0x200024 (s.reg 0x200024)).modPwr fun p => { p with prog := s.pwr.prog, entry := s.pwr.entry }
  else s

/-- A warm reset by GLB_RST (R318). -/
def warmOp (s : State) (q : Req) (v : Word) : State :=
  if rstKeyOk q v && F.GLB_RST_WARM.of v == 1 && !s.flag F.GLB_RST_STAT_BUSY then s.warmCore else s

/-- A warm or host reset ends (R317). -/
def resetDone (s : State) : State :=
  if !s.flag F.GLB_RST_STAT_BUSY then s
  else
    let s1 := s.setFlag F.GLB_RST_STAT_BUSY 0 false
    if s1.f F.GLB_RST_STAT_LAST = 2 then s1 else (s1.xLeave 6 true).xLeave 7 false

/-! ### Monitor (R62, R121, R401, R402) -/

/-- Received power of a filtered code (R62), in 0.01 dBm. -/
def rxPower (s : State) (side code : Nat) : Int :=
  let brk (k : Nat) := s.f F.GRM_RXP_CAL_A_BREAK (0x40 * side + 8 * k)
  let k := ((List.range 8).reverse.find? fun k => k == 0 || decide (brk k ≤ code)).getD 0
  let d : Int := (code : Int) - brk k
  let q := (d * signedOf (s.f F.GRM_RXP_CAL_B_SLOPE (0x40 * side + 8 * k)) 16 + 128) / 256
  max (-32768) (min 32767 (signedOf (s.f F.GRM_RXP_CAL_A_OFFSET (0x40 * side + 8 * k)) 16 + q))

def rxSegment (s : State) (side code : Nat) : Nat :=
  ((List.range 8).reverse.find? fun k => k == 0 || decide (s.f F.GRM_RXP_CAL_A_BREAK (0x40 * side + 8 * k) ≤ code)).getD 0

/-- GRM_RXP_s after a conversion. -/
def rxpShow (s : State) (side code : Nat) : State :=
  s.setReg (0x200480 + 4 * side) (BitVec.ofNat 32 (2 ^ 31 + s.rxSegment side code * 2 ^ 28 + code % 4096 * 65536
    + toBits (s.rxPower side code) 16))

/-- BEN is deasserted and has been for 2 µs (R121). -/
def benDark (s : State) (x : Side) : Bool :=
  let t := (s.line x).benFell
  !s.flag F.LIN_FE_STAT_BEN (sideOff x) && (t == 0 || decide (t + 1555 ≤ s.tick))

/-- Light with the laser off (R121): two samples in a row above the threshold. -/
def darkLight (s : State) (x : Side) (code : Nat) : State :=
  let i := sideNo x
  let dark := s.benDark x
  let thr := if i = 0 then s.f F.GRM_DARK_THR_A else s.f F.GRM_DARK_THR_B
  let n := if dark && decide (thr < code) then sget (fun _ => 0) s.pwr.dark i + 1 else 0
  let s1 := s.modPwr fun p => { p with dark := sset (fun _ => 0) p.dark i (min n 2) }
  if n ≥ 2 then s1.rogueLatch x 2 else s1

/-- Filter, comparison and condition of a channel (R402); EN = 0 stops the comparison, and the condition ends without an event. -/
def monFilter (s : State) (k x : Nat) : State :=
  let i := 8 * k
  let y0 := sget (fun _ => 0) s.pwr.mon k
  let sh := min 7 (s.f F.GRM_MON_CFG_K i)
  let y : Int := if y0 = 0 then x * 256 else ((y0 - 1 : Nat) : Int) + (((x * 256 : Nat) : Int) - (y0 - 1 : Nat)) / 2 ^ sh
  let filt := min 4095 ((y.toNat + 128) / 256)
  let was := s.flag F.GRM_MON_ABOVE i
  let en := s.flag F.GRM_MON_CFG_EN i
  let above := if !en then was else if s.f F.GRM_MON_CFG_HI i < filt then true
    else if filt < s.f F.GRM_MON_CFG_LO i then false else was
  let cond := en && (above != s.flag F.GRM_MON_CFG_POL i)
  let s1 := s.setReg (0x200104 + i) (BitVec.ofNat 32 ((if above then 2 ^ 31 else 0) + x * 65536 + filt))
  let s2 := s1.modPwr fun p => { p with
    mon := sset (fun _ => 0) p.mon k (y.toNat + 1),
    cond := p.cond - (if bitOf p.cond k then 2 ^ k else 0) + (if cond then 2 ^ k else 0) }
  if !en || cond == bitOf s.pwr.cond k then s2
  else s2.raiseLim ticksPerMs k 37 1 0 (k + (if cond then 8 else 0) + filt * 65536)

/-- A conversion of channel `k` (R401). -/
def monSample (s : State) (k x : Nat) : State :=
  let s1 := s.monFilter k x
  let c := s1.f F.GRM_MON_FILT (8 * k)
  match k with
  | 0 => s1.rxpShow 0 c
  | 1 => s1.rxpShow 1 c
  | 2 => if bitOf s1.pwr.cond 2 && s1.flag F.GRM_MON_CFG_SUPPLY 0x10 then s1.lossDeclare true else s1
  | 3 =>
    let near := decide (s1.vcoreMv ≤ s1.vcoreTarget + 15) && decide (s1.vcoreTarget ≤ s1.vcoreMv + 15)
    let s2 := if s1.pwr.vWait && near then
        ((s1.modPwr fun p => { p with vWait := false }).setFlag F.GRM_VCORE_VERIFIED 0 true).vcoreEvent false
      else s1
    (if s2.farBusy && !s2.vcoreTest then s2.farAbort else s2).vcoreSend
  | 6 => s1.darkLight .a c
  | 7 => s1.darkLight .b c
  | _ => s1

/-- 2 ms have passed since the set point went out (R400). -/
def vcoreTimeout (s : State) : State :=
  if s.pwr.vWait then (s.modPwr fun p => { p with vWait := false }).vcoreEvent true else s

/-! ### Groom image (R407) -/

/-- A load ends with RESULT. -/
def grmLoadEnd (s : State) (r : Nat) : State :=
  ((s.setReg 0x200214 (BitVec.ofNat 32 (2 ^ 31 + r))).modPwr fun p => { p with imgLoad := false }).raise 39 1 0 r

/-- LOAD written. -/
def grmLoad (s : State) (v : Word) : State :=
  if F.GRM_LOAD_CMD_LOAD.of v = 0 then s
  else if s.pwr.target.isSome || s.pwr.imgLoad then (s.setReg 0x200214 (BitVec.ofNat 32 (2 ^ 31 + 2))).raise 39 1 0 2
  else s.modPwr fun p => { p with imgLoad := true }

/-- The image's two reads have ended, while host memory may be read (R315). -/
def grmLoaded (s : State) (first second : Option (List Byte)) : State :=
  if !s.pwr.imgLoad || !s.hostOk then s
  else
    match s.imgReads 2 (s.f F.GRM_LOAD_LEN_LEN) (s.flag F.GRM_LOAD_CFG_AUTH) (s.f F.GRM_LOAD_CFG_KEY_SLOT) first second with
    | (0, b, s1) =>
      let put (m : SMap Byte) (x : Sect) : SMap Byte :=
        (List.range x.size).foldl (fun m i => sset (fun _ => 0) m (x.dest + i) (byteAt (x.bytes b) i)) m
      (s1.modPwr fun p => { p with prog := (imgSects b).foldl put [], entry := imgInit b }).grmLoadEnd 1
    | (r + 1, _, s1) => (s1.imgTimeout (r + 1)).grmLoadEnd (r + 1)

end State

/-! ### The commands -/

/-- COLD_POWER_UP (R381 to R383). -/
def execColdPowerUp (s : State) : Host.Outcome State Fault Refusal := .next s.coldUp

/-- VDD_AON_LOSS (R386 OFF). -/
def execVddAonLoss (s : State) : Host.Outcome State Fault Refusal := .next s.aonLost

/-- WARM_RESET (R316, R318): a write of GLB_RST. -/
def execWarmReset (q : Req) (v : Word) (s : State) : Host.Outcome State Fault Refusal :=
  .next (s.guardW q 0x10 fun s => s.warmOp q v)

/-- RESET_END (R317). -/
def execResetEnd (s : State) : Host.Outcome State Fault Refusal := .next s.resetDone

/-- RAIL_FAIL (R382 to R384): rail or PLL `index`, kind 1 or 5 for a rail. -/
def execRailFail (pll : Bool) (index : Fin 9) (skew : Bool) (s : State) : Host.Outcome State Fault Refusal :=
  .next (s.railFailOp pll index.val (if skew then 5 else 1))

/-- POWER_RETRY (R384), with the checkers that fail the self-test of a region that comes up (R359). -/
def execPowerRetry (fails : List (Bool × Fin 128 × Fin 16)) (s : State) : Host.Outcome State Fault Refusal :=
  .next (s.powerRetryOp.stestUp s (State.stestOf fails))

/-- POWER_GOOD_LOST (R385). -/
def execPowerGoodLost (rail : Fin 9) (s : State) : Host.Outcome State Fault Refusal := .next (s.pgLost rail.val)

/-- PLL_LOCK_LOST and PLL_LOCK_RETURN (R385). -/
def execPllLockLost (i : Fin 4) (s : State) : Host.Outcome State Fault Refusal := .next (s.lockLost i.val)
def execPllLockReturn (i : Fin 4) (s : State) : Host.Outcome State Fault Refusal := .next (s.lockBack i.val)

/-- A write of PWR_STATE whose CMD is `t` (R387). -/
def State.pwrWrite (s : State) (q : Req) (t : Nat) (energy : BitVec 8) (wakeN : Bool) : State :=
  s.guardW q 0x200000 fun s => s.pwrCmd q (BitVec.ofNat 32 (t * 2 ^ 24)) energy wakeN

/-- POWER_SLEEP, POWER_DOZE, POWER_LISTEN, POWER_RUN (R387). `energy`, `wakeN`: levels of the wake inputs. -/
def execPowerSleep (q : Req) (energy : BitVec 8) (wakeN : Bool) (s : State) : Host.Outcome State Fault Refusal :=
  .next (s.pwrWrite q 1 energy wakeN)
def execPowerDoze (q : Req) (energy : BitVec 8) (wakeN : Bool) (s : State) : Host.Outcome State Fault Refusal :=
  .next (s.pwrWrite q 2 energy wakeN)
def execPowerListen (q : Req) (energy : BitVec 8) (wakeN : Bool) (s : State) : Host.Outcome State Fault Refusal :=
  .next (s.pwrWrite q 3 energy wakeN)
def execPowerRun (q : Req) (energy : BitVec 8) (wakeN : Bool) (s : State) : Host.Outcome State Fault Refusal :=
  .next (s.pwrWrite q 4 energy wakeN)

/-- POWER_TRANSITION_END (R386), with the checkers that fail the self-test of a region that comes up (R359). -/
def execPowerTransitionEnd (fails : List (Bool × Fin 128 × Fin 16)) (s : State) : Host.Outcome State Fault Refusal :=
  .next (s.transEnd.stestUp s (State.stestOf fails))

/-- RUN_MASK_WRITE (R386), with the checkers that fail the self-test of a region that comes up (R359). -/
def execRunMaskWrite (q : Req) (v : Word) (fails : List (Bool × Fin 128 × Fin 16)) (s : State) :
    Host.Outcome State Fault Refusal :=
  .next (s.guardW q 0x200008 fun s => (s.runMaskOp v).stestUp s (State.stestOf fails))

/-- WAKE (R390, R391, R396): the inputs seen, and the Groom cycles since the isolation commit, if it has passed. -/
def execPwrWake (energy : BitVec 8) (wakeN doorbell : Bool) (since : Option Nat) (s : State) : Host.Outcome State Fault Refusal :=
  .next (if State.wakeBlind since then s else s.wakeOp energy wakeN false doorbell since.isSome)

/-- WAKE_TIMER_EXPIRE (R396 source 3): GRM_WAKE_TIMER ms, of 25,000 Groom cycles, after entry to the state. -/
def execWakeTimerExpire (committed : Bool) (s : State) : Host.Outcome State Fault Refusal :=
  .next (if s.pwr.cycle < s.pwr.entered + 25000 * s.f F.GRM_WAKE_TIMER_MS then s else s.wakeOp 0 false true false committed)

/-- DOZE_WINDOW_OPEN and DOZE_WINDOW_CLOSE (R394). -/
def execDozeWindowOpen (s : State) : Host.Outcome State Fault Refusal := .next s.windowOpenOp
def execDozeWindowClose (s : State) : Host.Outcome State Fault Refusal := .next s.windowCloseOp

/-- VCORE_SET (R399): a write of GRM_VCORE. -/
def execVcoreSet (q : Req) (v : Word) (s : State) : Host.Outcome State Fault Refusal :=
  .next (s.guardW q 0x200048 fun s => s.vcoreWrite q v)

/-- VCORE_VERIFY_TIMEOUT (R400). -/
def execVcoreVerifyTimeout (s : State) : Host.Outcome State Fault Refusal := .next s.vcoreTimeout

/-- MONITOR_SAMPLE (R401, R402). -/
def execMonitorSample (k : Fin 8) (code : Fin 4096) (s : State) : Host.Outcome State Fault Refusal :=
  .next (s.monSample k.val code.val)

/-- SUPPLY_LOSS_DECLARE (R403): PFAIL_N. -/
def execSupplyLossDeclare (s : State) : Host.Outcome State Fault Refusal := .next (s.lossDeclare false)

/-- DG_HOLD_EXPIRE (R403 step 3). -/
def execDgHoldExpire (s : State) : Host.Outcome State Fault Refusal := .next s.lossIsolate

/-- ENERGY_CHECK (R405): the unfiltered conversion of channel 2. -/
def execEnergyCheck (code : Fin 4096) (s : State) : Host.Outcome State Fault Refusal := .next (s.energyOp code.val)

/-- STATE_SAVE_END (R406). -/
def execStateSaveEnd (ok : Bool) (s : State) : Host.Outcome State Fault Refusal := .next (s.saveEnd ok)

/-- PFAIL_RELEASE (R403 step 7). -/
def execPfailRelease (s : State) : Host.Outcome State Fault Refusal := .next s.pfailBack

/-- GROOM_IMAGE_LOAD (R407): a write of GRM_LOAD_CMD by the host. -/
def execGroomImageLoad (q : Req) (v : Word) (s : State) : Host.Outcome State Fault Refusal :=
  .next (s.guardHostW q 0x200210 fun s => s.grmLoad v)

/-- GROOM_IMAGE_LOAD_END (R407): what the two reads of the image delivered. -/
def execGroomImageLoadEnd (first second : Option (List Byte)) (s : State) : Host.Outcome State Fault Refusal :=
  .next (s.grmLoaded first second)

end Sys2Proof.Machine
end

