-- ==== Sys2Proof/Machine/Bus.lean ====
section
/-! DEFINITION. Register accesses of every block (R8 to R10, R318 to R321): one write and one read for all requesters, by
address. The rows of the opcode table with a register of their own call the same operations. -/

namespace Sys2Proof.Machine

/-- Names BAR4 offsets above the 32 MiB of BAR0 in the address of a read (R314). -/
def bar4 : Nat := 0x2000000

/-- The doorbell pages of BAR2, then the configuration space of the function, follow BAR4 among the addresses of a read (R313,
R314). -/
def bar2 : Nat := 0x2001000
def cfgSpace : Nat := 0x2041000

/-- The line side of an address at or above Line A's base. -/
def sideAt (a : Nat) : Side := if a < 0x600000 then .a else .b

namespace State

/-! ### Writes by access code (R9) -/

/-- The lock bit of a row with RWL fields (R9). -/
def rowLocked (s : State) (r : RegRow) (k : Nat) : Bool :=
  if r.base = 0x406010 ∨ r.base = 0x406014 then s.flag F.UPB_SN_CFG_LOCK (k - r.base) else bitOf (s.reg k).toNat 31

/-- A write of a word under the masks of its row; `hostOnly` are the fields this requester may not write. -/
def maskedWrite (s : State) (k : Nat) (r : RegRow) (hostOnly : Nat) (v : Word) : State :=
  let rw := BitVec.ofNat 32 (if s.rowLocked r k then r.rw else r.rw ||| r.rwl) &&& ~~~ (BitVec.ofNat 32 hostOnly)
  let w := (s.reg k &&& ~~~ rw) ||| (v &&& rw)
  s.setReg k ((w &&& ~~~ (v &&& BitVec.ofNat 32 r.w1c)) ||| (v &&& BitVec.ofNat 32 r.w1s))

/-- A write of a register with no effect beyond its fields: an offset that holds no register discards it, and so does a
register only the host writes, of another requester. -/
def plainWrite (s : State) (q : Req) (a : Nat) (v : Word) : State :=
  match regRow a with
  | none => s
  | some r =>
    if r.host && q ≠ .host then s
    else s.maskedWrite (if r.bank then bankKey q a else a) r (if q = .host then 0 else r.hostF) v

/-- As `plainWrite`, where the host and the Groom write the fields marked for the host (R399, R406). -/
def groomWrite (s : State) (q : Req) (a : Nat) (v : Word) : State :=
  s.plainWrite (match q with | .groom => .host | q => q) a v

/-- A fact the access does not carry: a free bit. -/
def freeBit (s : State) (k : State → Bool → State) : State := k (s.takeFree 1).2 ((s.takeFree 1).1 == 1)

/-! ### Writes by block -/

/-- A write of GLB_RST (R318). -/
def rstWrite (s : State) (q : Req) (v : Word) : State :=
  if F.GLB_RST_WARM.of v = 1 then s.warmOp q v
  else if rstKeyOk q v && !s.flag F.GLB_RST_STAT_BUSY && F.GLB_RST_HOST.of v == 1 then s.hostResetOp (.glbRst v)
  else s

/-- A vector control word: an unmasked vector that holds a message sends it (R338). -/
def vecCtrlWrite (s : State) (q : Req) (vec : Nat) (v : Word) : State :=
  let s1 := s.plainWrite q (msixTable + 16 * vec + 12) v
  if !s1.vecMasked vec && (s1.vec vec).held then s1.msixSend vec else s1

/-- A write of HIF_VEC_v: a message is due at once when the causes gathered reach the new COUNT, or HOLDOFF is 0 (R338). -/
def vecCfgWrite (s : State) (q : Req) (vec : Nat) (v : Word) : State :=
  let s1 := s.plainWrite q (0xA400 + 4 * vec) v
  if (s1.vec vec).causes ≠ 0 && (decide ((s1.vec vec).causes ≥ max 1 (s1.f F.HIF_VEC_COUNT (4 * vec)))
      || s1.f F.HIF_VEC_HOLDOFF (4 * vec) == 0) then s1.msixSend vec else s1

/-- Global block, host interface and events. -/
def hostBlockWrite (s : State) (q : Req) (a : Nat) (v : Word) : State :=
  let host (g : State → State) : State := if q = .host then g s else s
  if a = 0x10 then s.rstWrite q v
  else if a = 0x40 then s.faultClear v
  else if 0x9000 ≤ a ∧ a < 0xA000 then
    let r := (a - 0x9000) / 0x40
    let o := (a - 0x9000) % 0x40
    if o = 0 then host fun s => s.ringCfgWrite r v
    else if s.flag F.HIF_RING_CFG_EN (0x40 * r) then s
    else s.plainWrite q a v
  else if msixTable ≤ a ∧ a < msixTable + 0x400 ∧ a % 16 = 12 then host fun s => s.vecCtrlWrite q ((a - msixTable) / 16) v
  else if 0xA400 ≤ a ∧ a < 0xA500 then host fun s => s.vecCfgWrite q ((a - 0xA400) / 4) v
  else if 0x100000 ≤ a ∧ a ≤ 0x100008 then (if s.flag F.EVT_RING_CFG_EN then s else s.plainWrite q a v)
  else if a = 0x10000C then host fun s => s.evtCfgWrite v
  else if a = 0x100014 then host fun s => s.evtCiWrite v
  else if a = 0x101014 then s.plainWrite q a (v ||| 0x80000000#32)
  else s.plainWrite q a v

/-- Power and Groom. -/
def groomBlockWrite (s : State) (q : Req) (a : Nat) (v : Word) : State :=
  if a = 0x200000 then s.freeBit fun s w => (s.takeFree 8).2.pwrCmd q v (BitVec.ofNat 8 (s.takeFree 8).1) w
  else if a = 0x200008 then s.runMaskOp v
  else if a = 0x200024 then
    let s1 := s.plainWrite q a v
    { s1 with faultN := if s1.flag F.GRM_WAKE_FAIL_VALID then s1.faultN else s1.flag F.GLB_FLT_CAUSE_VALID }
  else if a = 0x200048 then s.vcoreWrite q v
  else if a = 0x200210 then (if q = .host then s.grmLoad v else s)
  else if 0x201000 ≤ a ∧ a < 0x202000 then s.groomWrite q a v
  else if 0x200400 ≤ a ∧ a < 0x200480 then
    let side := (a - 0x200400) / 0x40
    let k := (a - 0x200400) % 0x40 / 8
    if a % 8 = 0 then s.rxpShadow a v
    else if a % 8 = 4 then s.rxpCommit side k v
    else s
  else s.plainWrite q a v

/-- Line: physical, downstream, upstream. -/
def lineBlockWrite (s : State) (q : Req) (a : Nat) (v : Word) : State :=
  let x := sideAt a
  let o := a - 0x400000 - sideOff x
  if o = 0 then s.linModeWrite x v
  else if o = 4 then s.feCfgWrite x v
  else if o = 0x10 then s.dspCfgWrite x v
  else if 0x20 ≤ o ∧ o < 0x48 ∧ a % 4 = 0 then (if o < 0x3C ∨ 0x40 ≤ o then s.tapWrite x a v else s)
  else if o = 0x84 then s.peqCtrlWrite x q v
  else if 0x90 ≤ o ∧ o < 0xAC then
    s.ownerWrite x q (s.f F.LIN_PEQ_CTRL_OWNER (sideOff x)) 0 fun s => s.plainWrite q a v
  else if o = 0xD0 then s.i2cCfgWrite x q v
  else if o = 0xD4 then s.i2cCmdWrite x q v
  else if o = 0x1030 then s.odcCfgWrite x q v
  else if 0x2000 ≤ o ∧ o < 0x6000 ∧ a % 4 = 0 then s.pidWrite x ((o - 0x2000) / 4) v
  else if o = 0x6004 then s.msgOwnerWrite x q fun s => s.actCmd x (F.UPB_ACT_CMD.of v)
  else if o = 0x6020 then s.msgOwnerWrite x q fun s => s.eqdWriteOp x v
  else if o = 0x6140 then s.msgOwnerWrite x q fun s => s.msgPush x v
  else if 0x6100 ≤ o ∧ o < 0x6140 ∧ a % 4 = 0 then s.msgOwnerWrite x q fun s => s.setReg a v
  else if o = 0x6008 ∨ (0x6040 ≤ o ∧ o < 0x6100) then s.msgOwnerWrite x q fun s => s.plainWrite q a v
  else if 0x7000 ≤ o ∧ o < 0x7800 ∧ a % 4 = 0 then
    s.msgOwnerWrite x q fun s => s.stageReg x a (v &&& 0xE000FFFF#32)
  else if o = 0x6184 then (if q = .host then s.rogueClearOp x v else s)
  else if o = 0x6188 then (if q = .host then s.unlockWrite x v else s)
  else s.plainWrite q a v

/-- Protection, circuits and the Harness link. -/
def linkBlockWrite (s : State) (q : Req) (a : Nat) (v : Word) : State :=
  if a = 0x800000 then s.pairingWrite v
  else if a = 0x800004 then s.prtCommand (F.PRT_CMD_CMD.of v)
  else if a < 0x900000 then s.plainWrite q a v
  else if a = 0x980000 then s.harCfgWrite q v
  else s.harW fun s =>
    if a = 0x900004 then s.cktCtrlWrite v
    else if 0x910000 ≤ a ∧ a < 0x910000 + 4 * 3776 ∧ a % 4 = 0 then s.cmWrite false ((a - 0x910000) / 4) v
    else if 0x920000 ≤ a ∧ a < 0x920000 + 4 * 3776 ∧ a % 4 = 0 then s.cmWrite true ((a - 0x920000) / 4) v
    else if a = 0x980004 then (if F.HAR_CTRL_RETRAIN.of v = 1 && s.harEn then s.trainStart else s)
    else if a = 0x980040 then s.eyeWrite v
    else s.plainWrite q a v

/-- The key of a word of the gate-entry windows (R256): the list SCH_GCL_WSEL names, and the window word. -/
def gateKey (s : State) (word : Nat) : Nat := s.f F.SCH_GCL_WSEL_LIST * 2048 + word

/-- A write into the administrative window, discarded while a take-over is pending (R257). -/
def gateEntryWrite (s : State) (word : Nat) (v : Word) : State :=
  let g := s.f F.SCH_GCL_WSEL_LIST
  if g ≥ 520 ∨ s.gatePending g then s
  else { s with gateAdm := sset gateDefault s.gateAdm (s.gateKey word)
                  (if word % 2 = 0 then v.toNat % 2 ^ 30 else v.toNat % 256) }

/-- Writing 1 to VALID, bit 31 of the record's information word, clears the whole record: its words read 0. -/
def recordClear (s : State) (v : Word) (words : List Nat) : State :=
  if bitOf v.toNat 31 then words.foldl (fun s a => s.setReg a 0) s else s

/-- Team registers, written by the host only (R225). -/
def teamWrite (s : State) (t o : Nat) (v : Word) : State :=
  if o = 0 then
    if F.CRS_TEAM_CFG_EXPRESS.of v = 1 && s.farBusy && s.far.kind == 0 && s.far.index == t then s
    else s.plainWrite .host (0xC00000 + 0x10000 * t) v
  else if o = 0xC then s.gaitFloorWrite t v
  else if o = 0x20 then s.loadCmdWrite t v
  else if o = 0x44 then s.sampStatWrite t v
  else if o = 0x60 then s.recordClear v ([0x60, 0x64, 0x68, 0x6C].map fun w => 0xC00000 + 0x10000 * t + w)
  else s.plainWrite .host (0xC00000 + 0x10000 * t + o) v

/-- Classifier, Coursers, scheduler. -/
def coreBlockWrite (s : State) (q : Req) (a : Nat) (v : Word) : State :=
  if a = 0xA00000 then s.clsCfgWrite q v
  else if 0xA00100 ≤ a ∧ a < 0xA00200 then (if s.flag F.CLS_CFG_EM_EN then s else s.plainWrite q a v)
  else if a = 0xA00290 then s.clsCommand q v
  else if a = 0xA00300 then (if F.CLS_VER_CMD_COMMIT.of v = 1 then s.commit q else s)
  else if 0xC00000 ≤ a ∧ a < 0xD00000 then
    (if q = .host then s.teamWrite ((a - 0xC00000) / 0x10000) ((a - 0xC00000) % 0x10000) v else s)
  else if 0xE20000 ≤ a ∧ a < 0xE20000 + 16 * 6272 ∧ a % 4 = 0 then
    s.queueCfgWrite ((a - 0xE20000) / 16) ((a - 0xE20000) % 16 / 4) v
  else if 0xE50000 ≤ a ∧ a < 0xE82110 then s.bucketWrite a v
  else if 0xE90000 ≤ a ∧ a < 0xE90000 + 32 * 520 then
    let g := (a - 0xE90000) / 32
    if a % 32 = 0x14 then s.gateCtrlWrite q g v
    else if s.gatePending g then s
    else s.plainWrite q a v
  else if 0xEA0000 ≤ a ∧ a < 0xEA2000 ∧ a % 4 = 0 then s.gateEntryWrite ((a - 0xEA0000) / 4) v
  else s.plainWrite q a v

/-- Time. -/
def timeBlockWrite (s : State) (q : Req) (a : Nat) (v : Word) : State :=
  if a = 0x1000000 then s.timCfgWrite q v
  else if a = 0x100000C then (if F.TIM_CTRL_SET.of v = 1 then s.todSetOp else s)
  else if 0x1000100 ≤ a ∧ a < 0x1000140 then
    if s.f F.TIM_CFG_OWNER ≠ reqCode q then s
    else if a % 0x20 = 0x1C then
      (if F.TIM_TODM_CTRL_APPLY.of v = 1 then s.todApplyOp (if a < 0x1000120 then .a else .b) else s)
    else s.plainWrite q a v
  else if a = 0x1000200 ∨ a = 0x1000210 then s.ppsWrite q ((a - 0x1000200) / 16) v
  else if a = 0x1000240 ∨ a = 0x1000260 then s.capInWrite q ((a - 0x1000240) / 32) v
  else if 0x1000300 ≤ a ∧ a < 0x1000380 then
    if a % 16 = 12 then s.cmpWrite q ((a - 0x1000300) / 16) v
    else if a % 4 = 0 then
      s.cmpTargetWrite a (v &&& (if a % 16 = 0 then 0xFFFFFFFF#32 else if a % 16 = 4 then 0xFFFF#32 else 0x3FFFFFFF#32))
    else s
  else s.plainWrite q a v

/-- Client ports: a port that does not exist discards writes (R293). -/
def clientBlockWrite (s : State) (q : Req) (a : Nat) (v : Word) : State :=
  if a = 0x1100000 then s.cliCfgWrite v
  else if 0x1110000 ≤ a ∧ a < 0x1118000 then
    let p := (a - 0x1110000) / 0x1000
    let o := a % 0x1000
    if !s.portIs p then s
    else if o = 0 then s.portCfgWrite p v .express [] 0
    else if o = 0x10 then s.pmpWrite p v
    else if 0x40 ≤ o ∧ o < 0xC0 ∧ o % 8 = 0 then s.ucastLoWrite p ((o - 0x40) / 8) v
    else if 0x40 ≤ o ∧ o < 0xC0 ∧ o % 8 = 4 then s.ucastCommit p ((o - 0x40) / 8) v
    else s.plainWrite q a v
  else s.plainWrite q a v

/-- Memory. -/
def memBlockWrite (s : State) (q : Req) (a : Nat) (v : Word) : State :=
  if a = 0x1200000 then s.memModeWrite v
  else if 0x1200010 ≤ a ∧ a < 0x1200020 ∧ a % 4 = 0 then s.chCfgWrite ((a - 0x1200010) / 4) v
  else if a = 0x1200040 ∨ a = 0x1200044 ∨ a = 0x1200048 then s.spillWrite ((a - 0x1200040) / 4) v
  else if a = 0x1200068 ∨ a = 0x1200078 then s.recordClear v [a, a - 4, a - 8]
  else if 0x1200090 ≤ a ∧ a < 0x12000A0 ∧ a % 4 = 0 then s.flipWrite ((a - 0x1200090) / 4) v
  else if 0x1201000 ≤ a ∧ a < 0x1201100 ∧ a % 4 = 0 then s.mapWrite false ((a - 0x1201000) / 0x40) (a % 0x40 / 4) v
  else if 0x1202000 ≤ a ∧ a < 0x1203000 ∧ a % 4 = 0 then s.mapWrite true ((a - 0x1202000) / 0x20) (a % 0x20 / 4) v
  else s.plainWrite q a v

/-- RESTART of the entropy source (R376); whether its tests have passed is a fact the access does not carry. -/
def entropyWrite (s : State) (v : Word) : State :=
  if F.SEC_ENT_STAT_RESTART.of v = 0 then s
  else s.freeBit fun s passed =>
    if passed then (s.setFlag F.SEC_ENT_STAT_RESTART 0 false).setFlag F.SEC_ENT_STAT_FAIL 0 false
    else s.setFlag F.SEC_ENT_STAT_RESTART 0 true

/-- Keys and check values. -/
def secBlockWrite (s : State) (q : Req) (a : Nat) (v : Word) : State :=
  if a = 0x1300004 then s.entropyWrite v
  else if 0x1300010 ≤ a ∧ a < 0x1300030 ∧ a % 4 = 0 then (if !s.secOwner q then s else s.setKeyStaged q ((a - 0x1300010) / 4) v)
  else if a = 0x1300030 then s.keyCommand q v
  else if 0x1300040 ≤ a ∧ a < 0x1300068 ∧ a % 4 = 0 then (if !s.secOwner q then s else s.setUnwStaged q ((a - 0x1300040) / 4) v)
  else if a = 0x1300068 then s.unwCommand q v
  else if a = 0x1300200 ∨ a = 0x1300210 then s.lswWrite q (if a = 0x1300200 then .a else .b) v
  else if 0x1300204 ≤ a ∧ a < 0x130021C then (if s.secOwner q then s.plainWrite q a v else s)
  else if 0x1310000 ≤ a ∧ a < 0x1320000 ∧ a % 4 = 0 then
    s.lineKeyWrite q (if a % 0x8000 < 0x4000 then .a else .b) (decide (0x1318000 ≤ a)) (a % 0x4000 / 4) v
  else if 0x1308000 ≤ a ∧ a < 0x1308400 then
    let u := (a - 0x1308000) / 0x100
    let o := a % 0x100
    if o = 0x28 then s.chkFeed u v
    else if o = 0x3C then s.chkCtrl u v
    else if (o = 0x18 ∨ o = 0x1C) ∧ s.chkBusy u then s.setFlag F.CHK_SCAN_CTRL_BUSY_WR (chkI u) true
    else s.plainWrite q a v
  else s.plainWrite q a v

/-- Capture, Studbook, Farrier, crossings. -/
def obsBlockWrite (s : State) (q : Req) (a : Nat) (v : Word) : State :=
  if a = 0x1400000 then s.capCfgWrite v
  else if 0x1400004 ≤ a ∧ a < 0x1400010 then (if s.flag F.CAP_CFG_EN then s else s.plainWrite q a v)
  else if a = 0x1400010 then s.capStatWrite v
  else if a = 0x1400094 then s.capRdWrite v
  else if a = 0x1401000 then s.stbCfgWrite v
  else if a = 0x1401004 then s.stbNow v
  else if a = 0x1401008 then s.stbArmWrite q v
  else if a = 0x1401014 then (if q = .host then s.upageWrite v else s)
  else if a = 0x1500004 then
    (if q = .host then s.freeBit fun s r => s.freeBit fun s c => s.farCommand v r c else s)
  else if a = 0x1500200 then (if q = .host then s.fuseCommand v else s)
  else if 0x1500100 ≤ a ∧ a < 0x1500180 ∧ a % 8 = 0 then (if q = .host then s.recordClear v [a, a + 4] else s)
  else if 0x1600140 ≤ a ∧ a < 0x16003C0 then s
  else s.plainWrite q a v

/-- The write of a register that can be reached. -/
def regWrite (s : State) (q : Req) (a : Nat) (v : Word) : State :=
  if a < 0x200000 then s.hostBlockWrite q a v
  else if a < 0x400000 then s.groomBlockWrite q a v
  else if a < 0x800000 then s.lineBlockWrite q a v
  else if a < 0xA00000 then s.linkBlockWrite q a v
  else if a < 0x1000000 then s.coreBlockWrite q a v
  else if a < 0x1100000 then s.timeBlockWrite q a v
  else if a < 0x1200000 then s.clientBlockWrite q a v
  else if a < 0x1300000 then s.memBlockWrite q a v
  else if a < 0x1400000 then s.secBlockWrite q a v
  else s.obsBlockWrite q a v

/-- A register write by requester `q`: discarded during a warm reset, and reported when its target is unavailable or does
not answer (R318, R320). -/
def busWrite (s : State) (q : Req) (a : Nat) (v : Word) (silent : Bool) : State :=
  s.guardW q a fun s => if silent then s.reportUnavailable q a true 3 else s.regWrite q a v

/-! ### Reads -/

/-- Milliseconds or seconds, in units of `unit` ticks, left of a timer of `n` units started at `start - 1`. -/
def unitsLeft (s : State) (start n unit : Nat) : Nat :=
  if start = 0 then 0 else (n * unit + (start - 1) - s.tick) / unit

/-- The register pairs R10 covers beyond the counters: their words hold the 64-bit value. -/
def storedPair (a : Nat) : Bool :=
  a == 0x48 || canonAddr a == 0x401010 || a == 0x800010 || a == 0x1000060 || a == 0x1000068 || a == 0x20003C
    || (decide (0xC00000 ≤ a) && decide (a < 0xD00000) && a % 0x10000 == 0x68)

/-- The counter a LIN_LDPC register shows (R99). -/
def ldpcCounter (a : Nat) : Option Nat :=
  match canonAddr a with
  | 0x400058 => some (dsCnt (sideAt a) 10)
  | 0x400060 => some (dsCnt (sideAt a) 11)
  | 0x400070 => some (dsCnt (sideAt a) 13)
  | _ => none

/-- A PM bank word (R99): side, bank, index, and whether it is the HI word. -/
def pmWord (a : Nat) : Option (Side × Nat × Nat × Bool) :=
  let o := canonAddr a
  if 0x401400 ≤ o ∧ o < 0x401800 ∧ o % 4 = 0 ∧ 0x400000 ≤ a ∧ (o - 0x401400) % 0x200 / 8 < 32 then
    some (sideAt a, (o - 0x401400) / 0x200, (o - 0x401400) % 0x200 / 8, o % 8 == 4)
  else none

/-- The 64-bit value of a pair read under R10, by the address of its LO word. -/
def pairValue (s : State) (q : Req) (a : Nat) : Option Nat :=
  if cntWidth a = 64 then some (s.cntValue a)
  else match ldpcCounter a, pmWord a with
    | some c, _ => some (s.counter c)
    | none, some (x, b, i, false) => if pmWidth i = 64 ∨ 30 ≤ i then some (s.pmBank x b i) else none
    | none, _ =>
      if a = 0x1000010 then some s.tick
      else if a = 0xA00288 then some ((s.reg (bankKey q a)).toNat + 2 ^ 32 * (s.reg (bankKey q (a + 4))).toNat)
      else if 0x1308000 ≤ a ∧ a < 0x1308400 ∧ a % 0x100 = 0x18 then some (s.chkPair ((a - 0x1308000) / 0x100) 0x18)
      else if storedPair a then some ((s.reg a).toNat + 2 ^ 32 * (s.reg (a + 4)).toNat)
      else none

/-- Whole bytes of a bucket, s32 (R249). -/
def bucketWord (s : State) (k : Nat) : Nat := toBits ((s.bucket k).tokens / 65536) 32

/-- The value of a scheduler register that is not a stored word: tokens, and the gate windows. -/
def schLive (s : State) (a : Nat) : Option Nat :=
  if 0xE50000 ≤ a ∧ a < 0xE58000 ∧ (a % 32 = 0x10 ∨ a % 32 = 0x14) then
    let n := (a - 0xE50000) / 32
    some (s.bucketWord (if a % 32 = 0x10 then shpC n else shpP n))
  else if 0xE60000 ≤ a ∧ a < 0xE80000 ∧ (a % 32 = 0x14 ∨ a % 32 = 0x18) then
    let p := (a - 0xE60000) / 32
    some (s.bucketWord (if a % 32 = 0x14 then polC p else polX p))
  else if 0xE80000 ≤ a ∧ a < 0xE82110 ∧ a % 16 = 12 then some (s.bucketWord (xpolB ((a - 0xE80000) / 16)))
  else if 0xEA0000 ≤ a ∧ a < 0xEA4000 ∧ a % 4 = 0 then
    some (if s.f F.SCH_GCL_WSEL_LIST ≥ 520 then 0
      else if a < 0xEA2000 then sget gateDefault s.gateAdm (s.gateKey (a % 0x2000 / 4))
      else if s.gateRuns (s.f F.SCH_GCL_WSEL_LIST) then sget gateDefault s.gateOpr (s.gateKey (a % 0x2000 / 4)) else 0)
  else none

/-- The value of a check-value register: bits at and above WIDTH read 0 (R377). -/
def chkLive (s : State) (a : Nat) : Option Nat :=
  let u := (a - 0x1308000) / 0x100
  let half (v : Nat) : Nat := if a % 8 = 4 then v / 2 ^ 32 else v % 2 ^ 32
  if a < 0x1308000 ∨ 0x1308400 ≤ a ∨ a % 4 ≠ 0 then none
  else match a % 0x100 / 8 with
    | 1 => some (half (s.chkPair u 0x08))
    | 2 => some (half (s.chkPair u 0x10))
    | 4 => some (half (s.chkOut u))
    | _ => none

/-- The value of a register that is not a stored word. -/
def liveWord (s : State) (q : Req) (a : Nat) : Option Nat :=
  let x := sideAt a
  let withLeft (n : Nat) : Nat := (s.reg a).toNat % 65536 + 65536 * min n 0xFFFF
  if a = 0 then some (match s.grade with | .fb => 0x46019840 | .fbi => 0x46119840 | .fbx => 0x46419840)
  else if a = 4 then some (match s.grade with | .fbx => 0x00446086 | _ => 0x04446086)
  else if a = 0x138 ∧ s.grade = .fbx then some 0xFF
  else if canonAddr a = 0x400068 then some (s.counter (dsCnt x 12) % 2 ^ 32)
  else if canonAddr a = 0x401020 then
    some (withLeft (s.unitsLeft (s.line x).holdStart (s.line x).holdMs ticksPerMs))
  else if canonAddr a = 0x40601C then
    some (withLeft (s.unitsLeft (s.line x).to1 (s.f F.UPB_TMR_TO1 (sideOff x)) ticksPerMs))
  else if a = 0x800008 then some (withLeft (s.unitsLeft s.prt.wtr (s.f F.PRT_CFG_WTR) ticksPerS))
  else if a = 0x100001C then some (todSec (s.todShadow q 0) % 2 ^ 32)
  else if a = 0x1000020 then
    some (todSec (s.todShadow q 0) / 2 ^ 32 % 65536 + 65536 * todFrac (s.todShadow q 0))
  else if a = 0x1000070 then some (s.todShadow q 1 % 2 ^ 32)
  else if a = 0x1000074 then some (s.todShadow q 1 / 2 ^ 32)
  else if 0x1000400 ≤ a ∧ a < 0x1000500 ∧ a % 4 = 0 ∧ a % 32 / 4 ∈ [1, 2, 3] then
    some (s.popWord q ((a - 0x1000400) / 32) (a % 32 / 4)).toNat
  else if 0x1000240 ≤ a ∧ a < 0x1000280 ∧ a % 4 = 0 ∧ a % 32 / 4 ∈ [2, 3, 4] then
    some (s.popWord q (8 + (a - 0x1000240) / 32) (a % 32 / 4 - 1)).toNat
  else if 0x1300100 ≤ a ∧ a < 0x1300200 ∧ a % 4 = 0 then
    some ((s.reg a).toNat % 2 ^ 31 + (if (s.slotUse ((a - 0x1300100) / 4)).isSome then 2 ^ 31 else 0))
  else match s.schLive a, s.chkLive a with
    | some v, _ => some v
    | none, w => w

/-- The queue a read pops (R286, R290): the address of its word 0. -/
def popQueue (a : Nat) : Option Nat :=
  if 0x1000400 ≤ a ∧ a < 0x1000500 ∧ a % 32 = 0 then some ((a - 0x1000400) / 32)
  else if a = 0x1000244 then some 8
  else if a = 0x1000264 then some 9
  else none

/-- The loop's frequency word (R271, R272): the one kept by a frozen loop, TIM_FREQ_SET without a reference, and a free one while
the loop follows its reference. -/
def freqRead (s : State) : Word × State :=
  if s.tm.frozen then (s.reg 0x1000028, s)
  else if 5 ≤ s.timSrc then (s.reg 0x100002C, s)
  else (BitVec.ofNat 32 (s.takeFree 32).1, (s.takeFree 32).2)

/-- A read of a stored word: WO fields read 0, RC fields clear (R9). -/
def plainRead (s : State) (q : Req) (a : Nat) : Word × State :=
  match regRow a with
  | none => (0, s)
  | some r =>
    let k := if r.bank then bankKey q a else a
    let w := s.reg k &&& ~~~ (BitVec.ofNat 32 r.wo)
    (w, if r.rc = 0 then s else s.setReg k (s.reg k &&& ~~~ (BitVec.ofNat 32 r.rc)))

/-- A read of CLS_VER_STAT: RESULT is the reading requester's own, and clears (R202). -/
def verStatRead (s : State) (q : Req) : Word × State :=
  let k := bankKey q 0xA00304
  ((s.reg 0xA00304 &&& 0xFFFFFFFC#32) ||| (s.reg k &&& 3#32), s.setReg k (s.reg k &&& 0xFFFFFFFC#32))

/-- A read of GRM_RAIL after a power good fell in service: whether it is back is free (R385). -/
def railRead (s : State) : Word × State :=
  (s.reg 0x200020 ||| BitVec.ofNat 32 (((s.takeFree 9).1 &&& s.pwr.pgOut) * 65536), (s.takeFree 9).2)

/-- The read of a register that can be reached: its value and what the read changes. -/
def regRead (s : State) (q : Req) (a : Nat) : Word × State :=
  if s.grade = .fbx ∧ 0x900000 ≤ a ∧ a < 0xA00000 then (0, s)
  else if 0x1110000 ≤ a ∧ a < 0x1118000 ∧ !s.portIs ((a - 0x1110000) / 0x1000) then (0, s)
  else match s.pairValue q a with
    | some v => (BitVec.ofNat 32 v, s.setShadow q (blockOf a) (v / 2 ^ 32))
    | none =>
      if 4 ≤ a ∧ (s.pairValue q (a - 4)).isSome then (BitVec.ofNat 32 (s.shadow q (blockOf a)), s)
      else if cntWidth a = 32 then (BitVec.ofNat 32 (s.cntValue a), s)
      else if a = 0x1000018 then (BitVec.ofNat 32 (todNsec s.todUnits), s.todLatch q)
      else if a = 0x1000028 then s.freqRead
      else if a = 0x200020 ∧ s.pwr.pgOut ≠ 0 then s.railRead
      else if a = 0xA00304 then s.verStatRead q
      else match popQueue a, pmWord a, s.liveWord q a with
        | some k, _, _ => ((s.tsPop q k).popWord q k 0, s.tsPop q k)
        | none, some (x, b, i, false), _ => (BitVec.ofNat 32 (s.pmBank x b i), s)
        | none, some _, _ => (0, s)
        | none, none, some v => (BitVec.ofNat 32 v, s)
        | none, none, none => s.plainRead q a

/-- A read that meets uncorrectable data (R321, R352): event 2, the advisory non-fatal error of a completer abort in AER, and the
memory's error. The macro group behind the register is free; bit 13 of the AER status is the PCIe Base specification's (PRESUMED,
log 251). -/
def readUe (s : State) (q : Req) (a : Nat) : State :=
  let g := s.takeFree 7
  let s1 := g.2.raise 2 1 (reqCode q) (a % 2 ^ 25 + regionOf a * 2 ^ 28)
  (if q = .host then s1.aerLog 0x2000 else s1).memUeChip (chipGroup g.1) (match q with | .team _ => 1 | _ => 0) (reqCode q)

/-- A read beyond BAR0: the user page of BAR4 (R421), a doorbell page of BAR2, which returns 0 (R325), or configuration space
(R313), whose words beyond the identity the spec does not lay out: free values (log 251). -/
def pageRead (s : State) (a : Nat) : Word × State :=
  if a < bar2 then (BitVec.ofNat 32 (s.userPageWord (a - bar4)), s)
  else if a < cfgSpace then (0, s)
  else match pcieWord (a - cfgSpace) with
    | some w => (w, s)
    | none => (BitVec.ofNat 32 (s.takeFree 32).1, (s.takeFree 32).2)

/-- A register read by requester `q`: the word of its completion (`none`: completer abort) and the state after it. -/
def busRead (s : State) (q : Req) (a : Nat) (fact : ReadFact) : Option Word × State :=
  if bar4 ≤ a then (some (s.pageRead a).1, (s.pageRead a).2)
  else if s.warmBusy ∧ 0x8000 ≤ a then (some 0xFFFFFFFF#32, s)
  else match s.unavailable a with
    | some c => (some 0xFFFFFFFF#32, s.reportUnavailable q a false c)
    | none => match fact with
      | .answers => (some (s.regRead q a).1, (s.regRead q a).2)
      | .silent => (some 0xFFFFFFFF#32, s.reportUnavailable q a false 3)
      | .uncorrectable => (none, s.readUe q a)

/-- The read of a requester that has power; its completion is the machine's last one. -/
def readOp (s : State) (q : Req) (a : Nat) (fact : ReadFact) : State :=
  if s.reqUp q then
    let r := s.busRead q a fact
    { r.2 with rd := r.1 }
  else s

end State

/-! ### The commands -/

/-- REGISTER_WRITE (R9, R320): `silent` says that the target does not answer. -/
def execRegisterWrite (q : Req) (addr : Nat) (v : Word) (silent : Bool) (s : State) : Host.Outcome State Fault Refusal :=
  .next (s.busWrite q addr v silent)

/-- REGISTER_READ (R320, R321). -/
def execRegisterRead (q : Req) (addr : Nat) (fact : ReadFact) (s : State) : Host.Outcome State Fault Refusal :=
  .next (s.readOp q addr fact)

/-- COUNTER_LO_READ (R10): a read of the LO word of a pair. -/
def execCounterLoRead (q : Req) (addr : Nat) (s : State) : Host.Outcome State Fault Refusal :=
  .next (s.readOp q addr .answers)

/-- READ_CLEAR (R9): a read of a register with an RC field. -/
def execReadClear (q : Req) (addr : Nat) (s : State) : Host.Outcome State Fault Refusal :=
  .next (s.readOp q addr .answers)

/-- TOD_NS_READ (R269): a read of TIM_TOD_NS. -/
def execTodNsRead (q : Req) (s : State) : Host.Outcome State Fault Refusal := .next (s.readOp q 0x1000018 .answers)

/-- TSQ_POP (R286): a read of word 0 of time-stamp queue `k`. -/
def execTsqPop (q : Req) (k : Fin 8) (s : State) : Host.Outcome State Fault Refusal :=
  .next (s.readOp q (0x1000400 + 32 * k.val) .answers)

/-- CAPTURE_QUEUE_POP (R290): a read of word 0 of capture queue `n`. -/
def execCaptureQueuePop (q : Req) (n : Fin 2) (s : State) : Host.Outcome State Fault Refusal :=
  .next (s.readOp q (0x1000244 + 32 * n.val) .answers)

end Sys2Proof.Machine
end

