-- ==== Sys2Proof/Machine/Flags.lean ====
section
/-! DEFINITION. The arithmetic of the Courser ALU (R220), once for both operand widths. The instruction set has no flags. -/

namespace Sys2Proof.Machine

/-- Shift amount: RB[5:0], or RB[4:0] of a 32-bit operation. -/
def aluShl {w : Nat} (x y : BitVec w) : BitVec w := x <<< (y.toNat % w)
def aluShr {w : Nat} (x y : BitVec w) : BitVec w := x >>> (y.toNat % w)
def aluSra {w : Nat} (x y : BitVec w) : BitVec w := x.sshiftRight (y.toNat % w)
def aluRotr {w : Nat} (x y : BitVec w) : BitVec w := x.rotateRight (y.toNat % w)

/-- High half of the unsigned product. -/
def aluMulhu {w : Nat} (x y : BitVec w) : BitVec w := BitVec.ofNat w (x.toNat * y.toNat / 2 ^ w)

/-- Set on less than, signed and unsigned. -/
def aluSlt {w : Nat} (x y : BitVec w) : BitVec w := if x.slt y then 1 else 0
def aluSltu {w : Nat} (x y : BitVec w) : BitVec w := if x.ult y then 1 else 0

/-- Leading zeros, set bits, bytes reversed. -/
def aluClz {w : Nat} (x : BitVec w) : BitVec w :=
  if x.toNat = 0 then BitVec.ofNat w w else BitVec.ofNat w (w - 1 - x.toNat.log2)
def aluPopc {w : Nat} (x : BitVec w) : BitVec w := BitVec.ofNat w ((List.range w).filter fun i => x.getLsbD i).length
def aluBswap {w : Nat} (x : BitVec w) : BitVec w := BitVec.ofNat w (beNat (leBytes (w / 8) x.toNat))

/-- An operation at the width W names: 32-bit operands give a result zero-extended to 64 bits. -/
def aluAt (w32 : Bool) (f : (w : Nat) → BitVec w → BitVec w → BitVec w) (x y : BitVec 64) : BitVec 64 :=
  if w32 then (f 32 (x.setWidth 32) (y.setWidth 32)).setWidth 64 else f 64 x y

/-- The shift a shift-immediate instruction names: 0 SHL, 1 SHR, 2 SRA, 3 ROTR. -/
def aluShift (kind w : Nat) (x y : BitVec w) : BitVec w :=
  match kind with
  | 0 => aluShl x y
  | 1 => aluShr x y
  | 2 => aluSra x y
  | _ => aluRotr x y

/-- Bit-field extraction, zero- and sign-extended, and insertion (R220 OP 0x07). -/
def fieldExtU (x : BitVec 64) (pos len : Nat) : BitVec 64 := BitVec.ofNat 64 (x.toNat / 2 ^ pos % 2 ^ len)
def fieldExtS (x : BitVec 64) (pos len : Nat) : BitVec 64 := (BitVec.ofNat len (x.toNat / 2 ^ pos)).signExtend 64
def fieldIns (old x : BitVec 64) (pos len : Nat) : BitVec 64 :=
  let m : BitVec 64 := BitVec.ofNat 64 ((2 ^ len - 1) * 2 ^ pos)
  (old &&& ~~~ m) ||| ((x <<< pos) &&& m)

end Sys2Proof.Machine
end

