-- ==== Sys2Proof/Machine/IsaBase.lean ====
section
/-! DEFINITION. One issued instruction of a Courser thread: registers and address map (R207, R210 to R212), fetch, limits and
faults around the effect (R219 to R221, R228, R232), the sampler (R229 to R231). -/

namespace Sys2Proof.Machine

/-- The access to thread memory of an instruction: its address, its kind (0 local, 1 shared, 2 instruction store, 3 register
window), and whether it reads. -/
structure Touch where
  addr : Nat
  kind : Nat
  reads : Bool
  deriving DecidableEq, Repr

/-- What an instruction does: the state after it, or a fault (cause, address, TRAP code), its memory access, and whether it
took a branch or jump. -/
structure Eff where
  st : State
  fault : Option (Nat × Nat × Nat) := none
  touch : Option Touch := none
  taken : Bool := false

namespace State

/-! ### Registers (R207) -/

/-- General register `r` of a thread: g0 reads as 0. -/
def g (s : State) (k r : Nat) : BitVec 64 := if r = 0 then 0 else sget (fun _ => 0) (s.thread k).g r

/-- Address of the instruction being executed; the pc already names the next one. -/
def curPc (s : State) (k : Nat) : Nat := (s.thread k).pc - 4

/-- The next instruction of a thread. -/
def setPc (s : State) (k pc : Nat) : State := s.setThread k { s.thread k with pc := pc }

end State

/-! ### Address map (R210) -/

/-- The memory an access of `n` bytes lies in, as kind and offset; none outside the map, across the end of a range, or in
the register window. -/
def thrArea (k addr n : Nat) : Option (Nat × Nat) :=
  if addr + n ≤ 0x1000 then some (0, 0x1000 * (k % 8) + addr)
  else if 0x10000 ≤ addr ∧ addr + n ≤ 0x18000 then some (0, addr - 0x10000)
  else if 0x100000 ≤ addr ∧ addr + n ≤ 0x180000 then some (1, addr - 0x100000)
  else if istoreBase ≤ addr ∧ addr + n ≤ istoreBase + istoreSize then some (2, addr - istoreBase)
  else none

/-- An address that may be accessed through the register window (R211). -/
def inWindow (addr : Nat) : Bool := decide (0x1000000 ≤ addr) && decide (addr < 0x3000000) && decide (addr % 4 = 0)

/-- An offset of local memory holds HEAD_END of a window, which is read only (R214). -/
def headEndByte (o : Nat) : Bool := o % 0x1000 == 0x18E || o % 0x1000 == 0x18F

namespace State

/-- Bytes of a team's shared memory, and of its instruction store. -/
def smemBytes (s : State) (t : Nat) : Nat → Nat → List Byte
  | _, 0 => []
  | o, n + 1 => sget (fun _ => 0) s.smem (t * 2 ^ 19 + o) :: s.smemBytes t (o + 1) n
def istoreBytes (s : State) (t : Nat) : Nat → Nat → List Byte
  | _, 0 => []
  | o, n + 1 => byteAt (leBytes 4 (s.istoreWord t (o / 4)).toNat) (o % 4) :: s.istoreBytes t (o + 1) n

/-- Bytes of thread memory. -/
def areaBytes (s : State) (k : Nat) (a : Nat × Nat) (n : Nat) : List Byte :=
  match a.1 with
  | 0 => s.lmemBytes (k / 8) a.2 n
  | 1 => s.smemBytes (k / 64) a.2 n
  | _ => s.istoreBytes (k / 64) a.2 n

/-- Store into local memory; bytes of HEAD_END keep their value. -/
def lmemStore (s : State) (c o : Nat) : List Byte → State
  | [] => s
  | b :: bs => lmemStore (if headEndByte o then s else s.lmemPut c o [b]) c (o + 1) bs

/-- Bytes into local or shared memory. -/
def areaPut (s : State) (k : Nat) (a : Nat × Nat) (b : List Byte) : State :=
  if a.1 = 0 then (s.lmemStore (k / 8) a.2 b).flipChip (65 + 2 * (k / 64))
  else (s.smemPut (k / 64) a.2 b).flipChip (64 + 2 * (k / 64))

/-! ### Sampler (R229 to R231) -/

/-- A record of R230. -/
def sampRecord (t : Tid) (w index trig lat : Nat) : Nat :=
  isaOpc w * 2 ^ 58 + wordBits w 0 11 * 2 ^ 47 + index * 2 ^ 32 + t.courser.val * 2 ^ 29 + t.thread.val * 2 ^ 26
    + trig * 2 ^ 22 + min lat 0xFFFF

/-- A record enters the buffer (R231). WP after the last entry in stop mode is not stated: free. -/
def sampStore (s : State) (t rec : Nat) : State :=
  let i := 0x10000 * t
  if s.flag F.CRS_SAMP_STAT_FULL i then s.addReg (0xC00048 + i) 1
  else
    let wp := s.f F.CRS_SAMP_STAT_WP i
    let s1 := (s.setReg (0xC08000 + i + 8 * wp) (BitVec.ofNat 32 rec)).setReg (0xC08004 + i + 8 * wp)
      (BitVec.ofNat 32 (rec / 2 ^ 32))
    if wp < 4095 then s1.setF F.CRS_SAMP_STAT_WP i (wp + 1)
    else if s.flag F.CRS_SAMP_CFG_STOP_FULL i then
      let w := s1.takeFree 12
      ((w.2.setFlag F.CRS_SAMP_STAT_FULL i true).setF F.CRS_SAMP_STAT_WP i w.1).raise 340 1 0 t
    else
      ((s1.setF F.CRS_SAMP_STAT_WP i 0).setFlag F.CRS_SAMP_STAT_WRAPPED i true).raiseLim ticksPerMs t 340 1 0 (t + 16)

/-- The trigger of MODE 1 (R229): 6 and 7 act as 0. -/
def sampHit (s : State) (t w : Nat) (mem taken exp fault : Bool) : Bool :=
  match s.f F.CRS_SAMP_CFG_TRIG (0x10000 * t) with
  | 1 => isaOpc w == 0x3C && isaAcc w == s.f F.CRS_SAMP_STAT_CODE (0x10000 * t)
  | 2 => mem
  | 3 => taken
  | 4 => exp
  | 5 => fault
  | _ => isaOpc w == 0x3C

/-- The sampler sees an issued instruction. -/
def sample (s : State) (t : Tid) (w index lat : Nat) (mem taken exp fault : Bool) : State :=
  let tm := t.team.val
  let i := 0x10000 * tm
  if !s.flag F.CRS_SAMP_CFG_EN i then s
  else if s.flag F.CRS_SAMP_CFG_MODE i then
    if s.sampHit tm w mem taken exp fault then
      s.sampStore tm (sampRecord t w index (s.f F.CRS_SAMP_CFG_TRIG i) (if fault then 0 else lat))
    else s
  else
    let p := s.f F.CRS_SAMP_CFG_PERIOD i
    let n := (s.team tm).sampCount + 1
    if (if p = 0 then 2 ^ 20 else p) ≤ n then
      (s.setTeam tm { s.team tm with sampCount := 0 }).sampStore tm
        (sampRecord t w index 0xF (if fault then 0 else lat))
    else s.setTeam tm { s.team tm with sampCount := n }

/-! ### The order of issue (R208) -/

/-- The issue of Courser `c` (team * 8 + Courser). -/
def turn (s : State) (c : Nat) : Turn := sget (fun _ => {}) s.turns c

/-- Thread `n` of Courser `c` waits for no accelerator. -/
def threadRuns (s : State) (c n : Nat) : Bool :=
  let x := s.thread (8 * c + n)
  x.busy && match x.call with
    | none => true
    | some q => !(s.sec.calls.any fun y => y.seq == q)

/-- Threads of a Courser that run. -/
def threadsRun (s : State) (c : Nat) : List Nat := (List.range 8).filter (s.threadRuns c)

/-- The present step of a Courser: at least the steps it has issued and the ticks gone by, a tick counting as a step (DESIGN
CHOICE, log 117), and not before one of its threads is ready. -/
def turnStep (s : State) (c : Nat) : Nat :=
  max ((s.turn c).step + s.tick) (((s.threadsRun c).map fun n => (s.thread (8 * c + n)).wait).min?.getD 0)

end State

/-- The first of rising numbers from `o` on, else the first. -/
def robin (o : Nat) (l : List Nat) : Option Nat := (l.find? fun n => decide (o ≤ n)).orElse fun _ => l.head?

namespace State

/-- Threads of a Courser that are ready, and those of them that hold an Express frame. -/
def threadsReady (s : State) (c : Nat) : List Nat :=
  (s.threadsRun c).filter fun n => decide ((s.thread (8 * c + n)).wait ≤ s.turnStep c)
def threadsExp (s : State) (c : Nat) : List Nat :=
  (s.threadsReady c).filter fun n => ((s.thread (8 * c + n)).frame.map (·.exp)).getD false

/-- The thread a Courser picks: Express ones first, in round-robin order among themselves, else round robin among the ready. -/
def turnOf (s : State) (c : Nat) : Option Nat :=
  if (s.threadsExp c).isEmpty then robin (s.turn c).next (s.threadsReady c) else robin (s.turn c).expNext (s.threadsExp c)

/-- The pick issues: the Courser goes on to its next step, and the round robin past the thread. -/
def turnTake (s : State) (c n : Nat) : State :=
  let x := s.turn c
  let y : Turn := if (s.threadsExp c).isEmpty then { x with next := n + 1 } else { x with expNext := n + 1 }
  { s with turns := sset (fun _ => {}) s.turns c { y with step := s.turnStep c + 1 - s.tick } }

/-- Steps an instruction keeps its thread from being ready, beyond the one it issues in: 3 for an access to shared memory or the
instruction store, 1 for YIELD, and the latency of an accelerator or register-window access. -/
def heldSteps (w : Nat) (e : IsaFact) (x : Option Touch) : Nat :=
  let kind := (x.map (·.kind)).getD 0
  max (if kind = 1 ∨ kind = 2 then 3 else if kind = 3 then e.lat - 1 else 0)
    (if isaDecode w = some .yield then 1 else if isaOpc w = 0x3C then e.lat - 1 else 0)

/-- The thread is not ready for `n` more steps. -/
def hold (s : State) (k n : Nat) : State :=
  if n = 0 ∨ !(s.thread k).busy then s else s.setThread k { s.thread k with wait := (s.thread k).wait + n }

/-! ### Issue -/

/-- An instruction is issued: step count, STEPS, the pc past it, and the Express budget (R208, R228). -/
def issued (s : State) (k : Nat) : State :=
  let x := s.thread k
  let s1 := ((s.turnTake (k / 8) (k % 8)).setThread k
    { x with steps := x.steps + 1, pc := x.pc + 4, wait := s.turnStep (k / 8) + 1 }).bump (crsCnt (k / 64) 1)
  if s.budgetDue k then s1.budgetOver k else s1

/-- The uncorrectable word of a MEM_UNC fault in the log (R351, R352); the memory behind the register window is free. -/
def uncLog (s : State) (k kind : Nat) : State :=
  let t := k / 64
  let s1 := if kind = 3 then (s.takeFree 7).2.memUeChip (chipGroup (s.takeFree 7).1) 1 (16 + t)
    else s.memUeChip (64 + 2 * t + (if kind = 0 then 1 else 0)) 1 (16 + t)
  if kind = 0 then s1.uncLocal k else s1

/-- The access that an uncorrectable word meets: the data the instruction reads, else its fetch. -/
def uncTouch (s : State) (k : Nat) (r : Eff) : Touch :=
  match r.touch with
  | some x => if x.reads then x else { addr := s.curPc k, kind := 2, reads := true }
  | none => { addr := s.curPc k, kind := 2, reads := true }

/-- The fault of an issued instruction, if any (R232, R235): the lowest cause code among the effect's own, MEM_UNC and
WDOG. `s` is the state after issue. -/
def faultOf (s : State) (k : Nat) (e : IsaFact) (wd : Bool) (r : Eff) : Option (Nat × Nat × Nat) :=
  let own := match r.fault with
    | some (c, x) => if c < 3 then some (c, x) else if e.unc then some (3, (s.uncTouch k r).addr, 0) else some (c, x)
    | none => if e.unc then some (3, (s.uncTouch k r).addr, 0) else none
  match own with
  | some (c, x) => if wd && decide (4 < c) then some (4, 0, 0) else some (c, x)
  | none => if wd then some (4, 0, 0) else none

/-- The end of an issued instruction: its effect or its fault, then the sampler. `s0` is the state before, `s` after issue. -/
def retire (s0 s : State) (t : Tid) (e : IsaFact) (w : Nat) (r : Eff) : State :=
  let k := tidKey t
  let index := s0.threadIndex k
  let exp := ((s.thread k).frame.map (·.exp)).getD false
  let fault := s.faultOf k e (s0.wdogDue k) r
  let mem := (match r.touch with | some x => x.kind == 1 || x.kind == 2 | none => false)
    && (match fault with | some (c, _) => c == 3 | none => true)
  let s1 := match fault with
    | some (c, a, trap) =>
      (if c = 3 then s.uncLog k (s.uncTouch k r).kind else s).threadFault k c index (a % 2 ^ 32) trap
    | none => r.st.hold k (heldSteps w e r.touch)
  s1.sample t w index e.lat mem (fault.isNone && r.taken) exp fault.isSome

/-- The next step of thread `t`: it fetches at its pc, and where the word there spells `op` it has the effect of `op`. A
fetch outside the instruction store faults (R220); a refused encoding faults; a word that spells another instruction
is not this command's. Nor does a thread issue that its Courser does not pick (R208). -/
def issue (s : State) (t : Tid) (e : IsaFact) (op : IsaOp) (eff : Tid → IsaFact → Nat → State → Eff) : State :=
  let k := tidKey t
  let x := s.thread k
  if !x.busy || s.turnOf (k / 8) != some (k % 8) || !s.regionUp 2 || s.groupHeld (64 + 2 * t.team.val)
      || s.groupHeld (65 + 2 * t.team.val) then s
  else if x.pc < istoreBase ∨ istoreBase + istoreSize ≤ x.pc then
    let i := s.takeFree 15
    i.2.threadFault k 2 i.1 (x.pc % 2 ^ 32) 0
  else
    let w := (s.istoreWord t.team.val (s.threadIndex k)).toNat
    let s1 := s.issued k
    match isaDecode w with
    | none => s.retire s1 t e w { st := s1, fault := some (1, 0, 0) }
    | some o => if o = op then s.retire s1 t e w (eff t e w s1) else s

end State

end Sys2Proof.Machine
end

