-- ==== Sys2Proof/Machine/Calls.lean ====
section
/-! DEFINITION. The accelerator calls of R222 to R224 and R459, one meaning each: an issue of the thread's next step whose
effect is the call. -/

namespace Sys2Proof.Machine

/-- Ones'-complement sum of 16-bit big-endian words, an odd last byte followed by 0, from an initial value. -/
def sum16 : List Byte → Nat
  | [] => 0
  | [b] => b.toNat * 256
  | b :: c :: r => b.toNat * 256 + c.toNat + sum16 r

def csumFrom (init : Nat) (b : List Byte) : Nat :=
  let n := init + sum16 b
  if n = 0 then 0 else (n - 1) % 65535 + 1

namespace State

/-- Argument `i` of a call: RA + i. -/
def arg (s : State) (k w i : Nat) : Nat := (s.g k (isaRa w + i)).toNat

/-- A call that touches no thread memory. -/
def callPlain (s : State) (k w : Nat) (c : CallStat) (res : List Nat := []) : Eff := { st := s.callEnd k w c res }

/-- The area of a call (R222): an empty area is not checked. `write` excludes the instruction store. -/
def callArea (k addr n : Nat) (write : Bool) : Option (Nat × Nat) :=
  if n = 0 then some (0, 0)
  else match thrArea k addr n with
    | some a => if write && a.1 == 2 then none else some a
    | none => none

/-- A call over an area: ADDR fault, or the call. -/
def callOn (s : State) (k addr n : Nat) (write : Bool) (body : Nat × Nat → State) : Eff :=
  match callArea k addr n write with
  | none => { st := s, fault := some (2, addr, 0) }
  | some a => { st := body a, touch := if n = 0 then none else some { addr := addr, kind := a.1, reads := true } }

/-! ### The frame a thread holds (R214, R215) -/

/-- A byte of a thread's window. -/
def winBytes (s : State) (k o n : Nat) : List Byte := s.lmemBytes (k / 8) (0x1000 * (k % 8) + o) n

/-- START as the firmware left it. -/
def winStart (s : State) (k : Nat) : Nat := leNat (s.winBytes k 0x18C 2)

/-- HEAD_END of a frame. -/
def headEnd (f : Frame) : Nat := 0x40 + min f.data.length 256

/-- START lies above HEAD_END - 1. -/
def badHead (s : State) (k : Nat) (f : Frame) : Bool := decide (headEnd f ≤ s.winStart k)

/-- Composed head and composed frame. -/
def composedHead (s : State) (k : Nat) (f : Frame) : List Byte := s.winBytes k (s.winStart k) (headEnd f - s.winStart k)
def composed (s : State) (k : Nat) (f : Frame) : List Byte := s.composedHead k f ++ f.data.drop 256

/-- USER as the firmware left it. -/
def winUser (s : State) (k : Nat) : List Byte := s.winBytes k 0x1A8 24

/-- The pass of a thread's frame has ended: the thread holds none. -/
def passEnd (s : State) (k : Nat) : State := s.setThread k { s.thread k with frame := none }

/-! ### CLS_LOOKUP, HASH, POLICE, COUNT -/

/-- CLS_LOOKUP. -/
def effClsLookup (t : Tid) (e : IsaFact) (w : Nat) (s : State) : Eff :=
  let k := tidKey t
  let sel := s.arg k w 1
  s.callOn k (s.arg k w 0) 40 false fun a =>
    if 3 < sel % 8 ∨ 4 < sel / 8 % 8 then s.callEnd k w .range
    else
      let fr := (s.thread k).frame
      let v := (fr.bind (·.ver)).getD s.verCur
      let l := s.lookup (BitVec.ofNat 320 (leNat (s.areaBytes k a 40))) v (sel % 8) (sel / 8 % 8) e.tabUnc
      l.2.callEnd k w .ok [l.1.eff.toNat, resWord0 l.1 ((fr.map (·.pass)).getD 0) v + l.1.emIndex % 2 ^ 18 * 2 ^ 32]

/-- HASH: the reflected register is loaded with the preset (R223, R457; how the preset lies in it is DEDUCED, log 216). -/
def effHash (t : Tid) (_e : IsaFact) (w : Nat) (s : State) : Eff :=
  let k := tidKey t
  let n := s.arg k w 1
  let preset := s.arg k w 2 % 2 ^ 32
  s.callOn k (s.arg k w 0) n false fun a =>
    if 64 < n then s.callEnd k w .length
    else if n = 0 then s.callEnd k w .ok [preset]
    else s.callEnd k w .ok [crcReflected32 (if s.arg k w 3 % 2 = 0 then 0x1EDC6F41 else 0x04C11DB7)
      (reflect 32 preset) (s.areaBytes k a n)]

/-- POLICE. -/
def effPolice (t : Tid) (_e : IsaFact) (w : Nat) (s : State) : Eff :=
  let k := tidKey t
  let p := s.arg k w 0
  let n := s.arg k w 1
  let col := s.arg k w 2 % 4
  if 4096 ≤ p ∨ col = 3 then s.callPlain k w .range
  else if 65535 < n then s.callPlain k w .length
  else if n = 0 then s.callPlain k w .ok [col]
  else
    let m := s.meter p n col
    m.2.callPlain k w .ok [m.1]

/-- One counter of a COUNT pair grows. -/
def countAdd (s : State) (i n : Nat) : State :=
  { s with countPairs := sset (fun _ => 0) s.countPairs i ((sget (fun _ => 0) s.countPairs i + n) % 2 ^ 64) }

/-- COUNT. -/
def effCount (t : Tid) (_e : IsaFact) (w : Nat) (s : State) : Eff :=
  let k := tidKey t
  let i := s.arg k w 0
  if 262144 ≤ i then s.callPlain k w .range
  else ((s.countAdd (2 * i) (s.arg k w 1)).countAdd (2 * i + 1) (s.arg k w 2)).callPlain k w .ok

/-! ### ENQ (R224, R241, R459) -/

/-- A copy has been enqueued: COPIES counts it. -/
def copyDone (s : State) (k : Nat) : State :=
  let n := (s.thread k).copies + 1
  (s.setThread k { s.thread k with copies := n }).lmemPut (k / 8) (0x1000 * (k % 8) + 0x1A5) [BitVec.ofNat 8 n]

/-- ENQ of frame `f`: the status and the state, its registers apart. A launch tick too far ahead is out of range (R287), and the
enqueue colour is the worse of the policer's and the argument (R252). -/
def enq (s : State) (k a launch : Nat) (f : Frame) : CallStat × State :=
  let qset := bitsOf a 16 2
  let copy := bitOf a 18
  let cls := bitsOf a 12 3
  if qset = 0 ∨ qsetCount qset ≤ bitsOf a 0 12 ∨ bitsOf a 20 2 = 3 then (.range, s)
  else if bitOf a 19 && decide (2 ^ 33 ≤ (launch + 2 ^ 64 - s.tick) % 2 ^ 64) && decide ((launch + 2 ^ 64 - s.tick) % 2 ^ 64 < 2 ^ 63)
    then (.range, s.bump (timCnt 7))
  else if s.badHead k f then (.badhead, s)
  else if copy && decide (16 ≤ (s.thread k).copies) then (.refused, s)
  else
    let x := { f with data := s.composed k f, user := s.winUser k, ver := none,
                      launch := if bitOf a 19 then some launch else none }
    let r := s.qEnter (qsetBase qset + bitsOf a 0 12) cls x (s.composedHead k f).length
      (max (bitsOf a 20 2) (f.colour.getD 0))
    let st : CallStat := if r.1 = 0 then .ok else .dropped
    if copy then (st, if r.1 = 0 then r.2.copyDone k else r.2)
    else (st, (r.2.frameGone f).passEnd k)

/-- ENQ. -/
def effEnq (t : Tid) (_e : IsaFact) (w : Nat) (s : State) : Eff :=
  let k := tidKey t
  match (s.thread k).frame with
  | none => s.callPlain k w .noframe
  | some f =>
    let r := s.enq k (s.arg k w 0) (s.arg k w 1) f
    r.2.callPlain k w r.1

/-! ### TIME, CSUM, CMAC -/

/-- TIME: time of day, or line ticks. -/
def effTime (t : Tid) (_e : IsaFact) (w : Nat) (s : State) : Eff :=
  let k := tidKey t
  let u := s.todUnits
  if s.arg k w 0 % 2 = 1 then s.callPlain k w .ok [s.tick]
  else s.callPlain k w .ok [todSec u, todNsec u * 65536 + todFrac u]

/-- CSUM over the composed frame. -/
def effCsum (t : Tid) (_e : IsaFact) (w : Nat) (s : State) : Eff :=
  let k := tidKey t
  let o := s.arg k w 0
  let n := s.arg k w 1
  match (s.thread k).frame with
  | none => s.callPlain k w .noframe
  | some f =>
    let len := f.data.length + 0x40 - s.winStart k
    if len < o then s.callPlain k w .range
    else if len < o + n then s.callPlain k w .length
    else if s.badHead k f then s.callPlain k w .badhead
    else s.callPlain k w .ok [csumFrom (s.arg k w 2 % 65536) (((s.composed k f).drop o).take n)]

/-- A CMAC call enters the engine's queue, and its thread waits for it (R208, R372). -/
def cmacQueue (s : State) (k : Nat) (c : CmacCall) : State :=
  let s1 : State := { s with cmacSeq := s.cmacSeq + 1 }
  (s1.modSec fun x => { x with calls := x.calls ++ [c] }).setThread k { s1.thread k with call := some c.seq }

/-- CMAC (R372, R375): refused, or queued with the data its area holds at the issue (log 252). The call has no PADDED argument, so
which subkey the last block takes is free. -/
def effCmac (t : Tid) (_e : IsaFact) (w : Nat) (s : State) : Eff :=
  let k := tidKey t
  let addr := s.arg k w 0
  let n := s.arg k w 1
  let slot := s.arg k w 2
  match thrArea k addr (max n 1) with
  | none => { st := s, fault := some (2, addr, 0) }
  | some a =>
    if a.1 ≠ 1 then { st := s, fault := some (2, addr, 0) }
    else
      let st :=
        if 64 ≤ slot then s.callEnd k w .range
        else if n % 16 ≠ 0 then s.callEnd k w .length
        else if n = 0 then (s.bump (secCnt 9)).callEnd k w .ok [0, 0]
        else if 64 ≤ s.cmacLoad then s.callEnd k w .busy
        else s.freeBit fun s padded =>
          match s.cmacRun slot padded (s.areaBytes k a n) with
          | .ok _ => s.cmacQueue k { thread := k, word := w, slot := slot, padded := padded, data := s.areaBytes k a n,
                                     exp := ((s.thread k).frame.map (·.exp)).getD false, seq := s.cmacSeq }
          | .error c => (s.cmacFail c slot true (16 + t.team.val)).callEnd k w .refused
      { st := st, touch := if n = 0 then none else some { addr := addr, kind := 1, reads := true } }

/-! ### RECIRC, FRD, FWR, DROP -/

/-- The next pass of frame `f` (R204, R215), or its drop at the limit. -/
def recirc (s : State) (k : Nat) (f : Frame) : State :=
  if s.f F.CLS_CFG_MAX_RECIRC < f.pass + 1 then ((s.bump (clsCnt 12)).frameGone f).passEnd k
  else
    let x := { f with data := s.composed k f, user := s.winUser k, pass := f.pass + 1, res := [] }
    (s.passEnd k).modPrt fun p => { p with out := p.out ++ [x] }

/-- RECIRC. -/
def effRecirc (t : Tid) (_e : IsaFact) (w : Nat) (s : State) : Eff :=
  let k := tidKey t
  match (s.thread k).frame with
  | none => s.callPlain k w .noframe
  | some f => if s.badHead k f then s.callPlain k w .badhead else (s.recirc k f).callPlain k w .ok

/-- The argument check of FRD and FWR (R223). -/
def frdStatus (s : State) (k off n : Nat) : CallStat :=
  match (s.thread k).frame with
  | none => .noframe
  | some f =>
    if off < 256 ∨ f.data.length < off then .range
    else if 2048 < n then .length
    else if f.data.length < off + n then .range
    else .ok

/-- FRD: stored bytes into thread memory. -/
def effFrd (t : Tid) (_e : IsaFact) (w : Nat) (s : State) : Eff :=
  let k := tidKey t
  let off := s.arg k w 0
  let n := s.arg k w 2
  s.callOn k (s.arg k w 1) n true fun a =>
    let st := s.frdStatus k off n
    if st = .ok then
      match (s.thread k).frame with
      | some f => (s.areaPut k a ((f.data.drop off).take n)).callEnd k w .ok
      | none => s.callEnd k w .noframe
    else s.callEnd k w st

/-- Bytes into the stored part of a frame whose stored length is `len`, at offset `off` of that length. -/
def storedPatch (len off : Nat) (b : List Byte) (x : Frame) : Frame :=
  { x with data := patch x.data (x.data.length + off - len) b }

/-- Copies of a frame that share its stored bytes and wait in a queue (R459). -/
def sharesStored (f x : Frame) : Bool := x.handle == f.handle && x.pass == f.pass && !x.spilled

/-- FWR: thread memory into the stored bytes, which the frame's copies share. -/
def fwr (s : State) (k : Nat) (f : Frame) (off : Nat) (b : List Byte) : State :=
  let put (x : Frame) : Frame := storedPatch f.data.length off b x
  let s1 := s.setThread k { s.thread k with frame := some (put f) }
  { s1 with queues := s1.queues.map fun q =>
      (q.1, { q.2 with frames := q.2.frames.map fun x => if sharesStored f x then put x else x }) }

/-- FWR. -/
def effFwr (t : Tid) (_e : IsaFact) (w : Nat) (s : State) : Eff :=
  let k := tidKey t
  let off := s.arg k w 0
  let n := s.arg k w 2
  s.callOn k (s.arg k w 1) n false fun a =>
    let st := s.frdStatus k off n
    if st = .ok then
      match (s.thread k).frame with
      | some f => (s.fwr k f off (s.areaBytes k a n)).callEnd k w .ok
      | none => s.callEnd k w .noframe
    else s.callEnd k w st

/-- DROP. -/
def effDrop (t : Tid) (_e : IsaFact) (w : Nat) (s : State) : Eff :=
  let k := tidKey t
  match (s.thread k).frame with
  | none => s.callPlain k w .noframe
  | some f => (((s.bump (crsCnt t.team.val 5)).frameGone f).passEnd k).callPlain k w .ok

end State

/-! ### The commands -/

/-- Call CLS_LOOKUP (R223). -/
def execCallClsLookup (t : Tid) (e : IsaFact) (s : State) : Host.Outcome State Fault Refusal :=
  .next (s.issue t e .clsLookup State.effClsLookup)

/-- Call HASH (R223). -/
def execCallHash (t : Tid) (e : IsaFact) (s : State) : Host.Outcome State Fault Refusal :=
  .next (s.issue t e .hash State.effHash)

/-- Call POLICE (R223). -/
def execCallPolice (t : Tid) (e : IsaFact) (s : State) : Host.Outcome State Fault Refusal :=
  .next (s.issue t e .police State.effPolice)

/-- Call COUNT (R223). -/
def execCallCount (t : Tid) (e : IsaFact) (s : State) : Host.Outcome State Fault Refusal :=
  .next (s.issue t e .count State.effCount)

/-- Call ENQ (R223, R224, R241, R459). -/
def execCallEnq (t : Tid) (e : IsaFact) (s : State) : Host.Outcome State Fault Refusal :=
  .next (s.issue t e .enq State.effEnq)

/-- Call TIME (R223). -/
def execCallTime (t : Tid) (e : IsaFact) (s : State) : Host.Outcome State Fault Refusal :=
  .next (s.issue t e .time State.effTime)

/-- Call CSUM (R223). -/
def execCallCsum (t : Tid) (e : IsaFact) (s : State) : Host.Outcome State Fault Refusal :=
  .next (s.issue t e .csum State.effCsum)

/-- Call CMAC (R223, R372). -/
def execCallCmac (t : Tid) (e : IsaFact) (s : State) : Host.Outcome State Fault Refusal :=
  .next (s.issue t e .cmac State.effCmac)

/-- Call RECIRC (R204, R224). -/
def execCallRecirc (t : Tid) (e : IsaFact) (s : State) : Host.Outcome State Fault Refusal :=
  .next (s.issue t e .recirc State.effRecirc)

/-- Call FRD (R223). -/
def execCallFrd (t : Tid) (e : IsaFact) (s : State) : Host.Outcome State Fault Refusal :=
  .next (s.issue t e .frd State.effFrd)

/-- Call FWR (R223). -/
def execCallFwr (t : Tid) (e : IsaFact) (s : State) : Host.Outcome State Fault Refusal :=
  .next (s.issue t e .fwr State.effFwr)

/-- Call DROP (R224). -/
def execCallDrop (t : Tid) (e : IsaFact) (s : State) : Host.Outcome State Fault Refusal :=
  .next (s.issue t e .drop State.effDrop)

end Sys2Proof.Machine
end

