-- ==== Sys2Proof/Machine/Isa.lean ====
section
/-! DEFINITION. The instructions of R220 and R221, one meaning each. Every one is an issue of the thread's next step
(State.issue) with its own effect. -/

namespace Sys2Proof.Machine

namespace State

/-- An ALU operation of OP 0x00: RD = f RA RB at the width W names. -/
def effAlu (f : (w : Nat) → BitVec w → BitVec w → BitVec w) (t : Tid) (_e : IsaFact) (w : Nat) (s : State) : Eff :=
  let k := tidKey t
  { st := s.setG k (isaRd w) (aluAt (isaW w) f (s.g k (isaRa w)) (s.g k (isaRb w))) }

/-- An operation of RA alone, RD = f RA w. -/
def effImm (f : BitVec 64 → Nat → BitVec 64) (t : Tid) (_e : IsaFact) (w : Nat) (s : State) : Eff :=
  let k := tidKey t
  { st := s.setG k (isaRd w) (f (s.g k (isaRa w)) w) }

/-- Bit-field insertion, whose old value is RD. -/
def effIns (t : Tid) (_e : IsaFact) (w : Nat) (s : State) : Eff :=
  let k := tidKey t
  { st := s.setG k (isaRd w) (fieldIns (s.g k (isaRd w)) (s.g k (isaRa w)) (isaPos w) (isaLen w)) }

/-- Address of a load or store: RA + sext(IMM16). -/
def memAddr (s : State) (k w : Nat) : Nat := (s.g k (isaRa w) + immS w).toNat

/-- An ADDR fault. -/
def effAddr (s : State) (addr : Nat) : Eff := { st := s, fault := some (2, addr, 0) }

/-- A load of `n` bytes whose value is `f` of them. -/
def effLoad (n : Nat) (f : List Byte → BitVec 64) (t : Tid) (_e : IsaFact) (w : Nat) (s : State) : Eff :=
  let k := tidKey t
  let addr := s.memAddr k w
  match thrArea k addr n with
  | none => s.effAddr addr
  | some a => { st := s.setG k (isaRd w) (f (s.areaBytes k a n)), touch := some { addr := addr, kind := a.1, reads := true } }

/-- LW: a load, or a read of the register window (R211, R212). -/
def effLw (t : Tid) (e : IsaFact) (w : Nat) (s : State) : Eff :=
  let k := tidKey t
  let addr := s.memAddr k w
  if inWindow addr then
    let r := s.busRead (.team t.team) (addr - 0x1000000) (if e.silent then .silent else .answers)
    { st := r.2.setG k (isaRd w) ((r.1.getD 0).setWidth 64), touch := some { addr := addr, kind := 3, reads := true } }
  else effLoad 4 (fun b => BitVec.ofNat 64 (leNat b)) t e w s

/-- A store of the `n` bytes `f RD`; one that does not fill whole 8-byte words reads them first (R352). -/
def effStore (n : Nat) (f : Nat → List Byte) (t : Tid) (_e : IsaFact) (w : Nat) (s : State) : Eff :=
  let k := tidKey t
  let addr := s.memAddr k w
  match thrArea k addr n with
  | none => s.effAddr addr
  | some a =>
    if a.1 = 2 then s.effAddr addr
    else { st := s.areaPut k a (f (s.g k (isaRd w)).toNat),
           touch := some { addr := addr, kind := a.1, reads := n != 8 || addr % 8 != 0 } }

/-- SW: a store, or a write of the register window. -/
def effSw (t : Tid) (e : IsaFact) (w : Nat) (s : State) : Eff :=
  let k := tidKey t
  let addr := s.memAddr k w
  if inWindow addr then
    { st := s.busWrite (.team t.team) (addr - 0x1000000) ((s.g k (isaRd w)).setWidth 32) e.silent,
      touch := some { addr := addr, kind := 3, reads := false } }
  else effStore 4 (leBytes 4) t e w s

/-- An atomic: memory becomes `f old RB RD`, RD the old value; 8-byte aligned addresses of shared memory only (R211). -/
def effAmo (f : BitVec 64 → BitVec 64 → BitVec 64 → BitVec 64) (t : Tid) (_e : IsaFact) (w : Nat) (s : State) : Eff :=
  let k := tidKey t
  let addr := (s.g k (isaRa w)).toNat
  match thrArea k addr 8 with
  | none => s.effAddr addr
  | some a =>
    if a.1 ≠ 1 ∨ addr % 8 ≠ 0 then s.effAddr addr
    else
      let old := BitVec.ofNat 64 (leNat (s.areaBytes k a 8))
      { st := (s.areaPut k a (leBytes 8 (f old (s.g k (isaRb w)) (s.g k (isaRd w))).toNat)).setG k (isaRd w) old,
        touch := some { addr := addr, kind := 1, reads := true } }

/-- The address `off` instructions after address `pc`, in 64 bits. -/
def branchTo (pc : Nat) (off : BitVec 64) : Nat := (BitVec.ofNat 64 pc + off <<< 2).toNat

/-- A branch on RA (bits [25:21]) against RB (bits [20:16]). -/
def effBranch (p : BitVec 64 → BitVec 64 → Bool) (t : Tid) (_e : IsaFact) (w : Nat) (s : State) : Eff :=
  let k := tidKey t
  if p (s.g k (isaRd w)) (s.g k (isaRa w)) then { st := s.setPc k (branchTo (s.curPc k) (immS w)), taken := true }
  else { st := s }

/-- JAL. -/
def effJal (t : Tid) (_e : IsaFact) (w : Nat) (s : State) : Eff :=
  let k := tidKey t
  { st := (s.setG k 31 (BitVec.ofNat 64 (s.curPc k + 4))).setPc k (branchTo (s.curPc k) (sext64 26 (isaOff26 w))),
    taken := true }

/-- JALR: the target is formed from RA before RD is written. -/
def effJalr (t : Tid) (_e : IsaFact) (w : Nat) (s : State) : Eff :=
  let k := tidKey t
  { st := (s.setG k (isaRd w) (BitVec.ofNat 64 (s.curPc k + 4))).setPc k (s.memAddr k w / 4 * 4), taken := true }

/-- The special registers of R221; register 3 counts this instruction. -/
def specialReg (s : State) (t : Tid) (n : Nat) : Nat :=
  let x := s.thread (tidKey t)
  match n with
  | 0 => t.thread.val
  | 1 => t.courser.val
  | 2 => t.team.val
  | 3 => x.steps
  | 4 => if (x.frame.map (·.exp)).getD false then 1 else 0
  | 5 => (s.reg (0xC00008 + 0x10000 * t.team.val)).toNat
  | _ => 0

/-- SRD. -/
def effSrd (t : Tid) (_e : IsaFact) (w : Nat) (s : State) : Eff :=
  { st := s.setG (tidKey t) (isaRd w) (BitVec.ofNat 64 (s.specialReg t (isaRb w))) }

/-- YIELD and FENCE: commands complete one by one, so neither holds anything back. -/
def effNone (_t : Tid) (_e : IsaFact) (_w : Nat) (s : State) : Eff := { st := s }

/-- DONE (R221): the thread becomes idle; a frame it still holds is dropped and counted. -/
def effDone (t : Tid) (_e : IsaFact) (_w : Nat) (s : State) : Eff :=
  let k := tidKey t
  let s1 := match (s.thread k).frame with
    | some f => (s.bump (crsCnt t.team.val 4)).frameGone f
    | none => s
  { st := s1.threadIdle k }

/-- TRAP. -/
def effTrap (_t : Tid) (_e : IsaFact) (w : Nat) (s : State) : Eff := { st := s, fault := some (5, 0, isaRb w) }

end State

/-- Little- and big-endian load values, zero- and sign-extended. -/
def ldZ (b : List Byte) : BitVec 64 := BitVec.ofNat 64 (leNat b)
def ldS (b : List Byte) : BitVec 64 := sext64 (8 * b.length) (leNat b)
def ldBe (b : List Byte) : BitVec 64 := BitVec.ofNat 64 (beNat b)

/-! ### The commands -/

/-- ADD (R220). -/
def execIsaAdd (t : Tid) (e : IsaFact) (s : State) : Host.Outcome State Fault Refusal :=
  .next (s.issue t e .add (State.effAlu fun _ x y => x + y))

/-- SUB. -/
def execIsaSub (t : Tid) (e : IsaFact) (s : State) : Host.Outcome State Fault Refusal :=
  .next (s.issue t e .sub (State.effAlu fun _ x y => x - y))

/-- AND. -/
def execIsaAnd (t : Tid) (e : IsaFact) (s : State) : Host.Outcome State Fault Refusal :=
  .next (s.issue t e .and (State.effAlu fun _ x y => x &&& y))

/-- OR. -/
def execIsaOr (t : Tid) (e : IsaFact) (s : State) : Host.Outcome State Fault Refusal :=
  .next (s.issue t e .or (State.effAlu fun _ x y => x ||| y))

/-- XOR. -/
def execIsaXor (t : Tid) (e : IsaFact) (s : State) : Host.Outcome State Fault Refusal :=
  .next (s.issue t e .xor (State.effAlu fun _ x y => x ^^^ y))

/-- SHL. -/
def execIsaShl (t : Tid) (e : IsaFact) (s : State) : Host.Outcome State Fault Refusal :=
  .next (s.issue t e .shl (State.effAlu fun _ => aluShl))

/-- SHR. -/
def execIsaShr (t : Tid) (e : IsaFact) (s : State) : Host.Outcome State Fault Refusal :=
  .next (s.issue t e .shr (State.effAlu fun _ => aluShr))

/-- SRA. -/
def execIsaSra (t : Tid) (e : IsaFact) (s : State) : Host.Outcome State Fault Refusal :=
  .next (s.issue t e .sra (State.effAlu fun _ => aluSra))

/-- MUL: the low half. -/
def execIsaMul (t : Tid) (e : IsaFact) (s : State) : Host.Outcome State Fault Refusal :=
  .next (s.issue t e .mul (State.effAlu fun _ x y => x * y))

/-- MULHU: the high half, unsigned. -/
def execIsaMulhu (t : Tid) (e : IsaFact) (s : State) : Host.Outcome State Fault Refusal :=
  .next (s.issue t e .mulhu (State.effAlu fun _ => aluMulhu))

/-- SLT. -/
def execIsaSlt (t : Tid) (e : IsaFact) (s : State) : Host.Outcome State Fault Refusal :=
  .next (s.issue t e .slt (State.effAlu fun _ => aluSlt))

/-- SLTU. -/
def execIsaSltu (t : Tid) (e : IsaFact) (s : State) : Host.Outcome State Fault Refusal :=
  .next (s.issue t e .sltu (State.effAlu fun _ => aluSltu))

/-- ROTR. -/
def execIsaRotr (t : Tid) (e : IsaFact) (s : State) : Host.Outcome State Fault Refusal :=
  .next (s.issue t e .rotr (State.effAlu fun _ => aluRotr))

/-- CLZ of RA. -/
def execIsaClz (t : Tid) (e : IsaFact) (s : State) : Host.Outcome State Fault Refusal :=
  .next (s.issue t e .clz (State.effAlu fun _ x _ => aluClz x))

/-- POPC of RA. -/
def execIsaPopc (t : Tid) (e : IsaFact) (s : State) : Host.Outcome State Fault Refusal :=
  .next (s.issue t e .popc (State.effAlu fun _ x _ => aluPopc x))

/-- BSWAP of RA. -/
def execIsaBswap (t : Tid) (e : IsaFact) (s : State) : Host.Outcome State Fault Refusal :=
  .next (s.issue t e .bswap (State.effAlu fun _ x _ => aluBswap x))

/-- ADDI. -/
def execIsaAddi (t : Tid) (e : IsaFact) (s : State) : Host.Outcome State Fault Refusal :=
  .next (s.issue t e .addi (State.effImm fun x w => x + immS w))

/-- ANDI. -/
def execIsaAndi (t : Tid) (e : IsaFact) (s : State) : Host.Outcome State Fault Refusal :=
  .next (s.issue t e .andi (State.effImm fun x w => x &&& immZ w))

/-- ORI. -/
def execIsaOri (t : Tid) (e : IsaFact) (s : State) : Host.Outcome State Fault Refusal :=
  .next (s.issue t e .ori (State.effImm fun x w => x ||| immZ w))

/-- XORI. -/
def execIsaXori (t : Tid) (e : IsaFact) (s : State) : Host.Outcome State Fault Refusal :=
  .next (s.issue t e .xori (State.effImm fun x w => x ^^^ immZ w))

/-- Shift immediate: [5:0] amount, [7:6] kind, [8] W. -/
def execIsaShiftImmediate (t : Tid) (e : IsaFact) (s : State) : Host.Outcome State Fault Refusal :=
  .next (s.issue t e .shiftImm (State.effImm fun x w =>
    aluAt (wordBits w 8 1 == 1) (fun v x y => aluShift (wordBits w 6 2) v x y) x (BitVec.ofNat 64 (wordBits w 0 6))))

/-- LUI. -/
def execIsaLui (t : Tid) (e : IsaFact) (s : State) : Host.Outcome State Fault Refusal :=
  .next (s.issue t e .lui (State.effImm fun _ w => sext64 32 (isaImm w * 65536)))

/-- EXTU. -/
def execIsaExtu (t : Tid) (e : IsaFact) (s : State) : Host.Outcome State Fault Refusal :=
  .next (s.issue t e .extu (State.effImm fun x w => fieldExtU x (isaPos w) (isaLen w)))

/-- EXTS. -/
def execIsaExts (t : Tid) (e : IsaFact) (s : State) : Host.Outcome State Fault Refusal :=
  .next (s.issue t e .exts (State.effImm fun x w => fieldExtS x (isaPos w) (isaLen w)))

/-- INS. -/
def execIsaIns (t : Tid) (e : IsaFact) (s : State) : Host.Outcome State Fault Refusal :=
  .next (s.issue t e .ins State.effIns)

/-- LB. -/
def execIsaLb (t : Tid) (e : IsaFact) (s : State) : Host.Outcome State Fault Refusal :=
  .next (s.issue t e .lb (State.effLoad 1 ldZ))

/-- LH. -/
def execIsaLh (t : Tid) (e : IsaFact) (s : State) : Host.Outcome State Fault Refusal :=
  .next (s.issue t e .lh (State.effLoad 2 ldZ))

/-- LW. -/
def execIsaLw (t : Tid) (e : IsaFact) (s : State) : Host.Outcome State Fault Refusal :=
  .next (s.issue t e .lw State.effLw)

/-- LD. -/
def execIsaLd (t : Tid) (e : IsaFact) (s : State) : Host.Outcome State Fault Refusal :=
  .next (s.issue t e .ld (State.effLoad 8 ldZ))

/-- LBS. -/
def execIsaLbs (t : Tid) (e : IsaFact) (s : State) : Host.Outcome State Fault Refusal :=
  .next (s.issue t e .lbs (State.effLoad 1 ldS))

/-- LHS. -/
def execIsaLhs (t : Tid) (e : IsaFact) (s : State) : Host.Outcome State Fault Refusal :=
  .next (s.issue t e .lhs (State.effLoad 2 ldS))

/-- LWS. -/
def execIsaLws (t : Tid) (e : IsaFact) (s : State) : Host.Outcome State Fault Refusal :=
  .next (s.issue t e .lws (State.effLoad 4 ldS))

/-- SB. -/
def execIsaSb (t : Tid) (e : IsaFact) (s : State) : Host.Outcome State Fault Refusal :=
  .next (s.issue t e .sb (State.effStore 1 (leBytes 1)))

/-- SH. -/
def execIsaSh (t : Tid) (e : IsaFact) (s : State) : Host.Outcome State Fault Refusal :=
  .next (s.issue t e .sh (State.effStore 2 (leBytes 2)))

/-- SW. -/
def execIsaSw (t : Tid) (e : IsaFact) (s : State) : Host.Outcome State Fault Refusal :=
  .next (s.issue t e .sw State.effSw)

/-- SD. -/
def execIsaSd (t : Tid) (e : IsaFact) (s : State) : Host.Outcome State Fault Refusal :=
  .next (s.issue t e .sd (State.effStore 8 (leBytes 8)))

/-- LHBE. -/
def execIsaLhbe (t : Tid) (e : IsaFact) (s : State) : Host.Outcome State Fault Refusal :=
  .next (s.issue t e .lhbe (State.effLoad 2 ldBe))

/-- LWBE. -/
def execIsaLwbe (t : Tid) (e : IsaFact) (s : State) : Host.Outcome State Fault Refusal :=
  .next (s.issue t e .lwbe (State.effLoad 4 ldBe))

/-- LDBE. -/
def execIsaLdbe (t : Tid) (e : IsaFact) (s : State) : Host.Outcome State Fault Refusal :=
  .next (s.issue t e .ldbe (State.effLoad 8 ldBe))

/-- SHBE. -/
def execIsaShbe (t : Tid) (e : IsaFact) (s : State) : Host.Outcome State Fault Refusal :=
  .next (s.issue t e .shbe (State.effStore 2 (beBytes 2)))

/-- SWBE. -/
def execIsaSwbe (t : Tid) (e : IsaFact) (s : State) : Host.Outcome State Fault Refusal :=
  .next (s.issue t e .swbe (State.effStore 4 (beBytes 4)))

/-- SDBE. -/
def execIsaSdbe (t : Tid) (e : IsaFact) (s : State) : Host.Outcome State Fault Refusal :=
  .next (s.issue t e .sdbe (State.effStore 8 (beBytes 8)))

/-- AMO ADD. -/
def execIsaAmoAdd (t : Tid) (e : IsaFact) (s : State) : Host.Outcome State Fault Refusal :=
  .next (s.issue t e .amoAdd (State.effAmo fun old rb _ => old + rb))

/-- AMO SWAP. -/
def execIsaAmoSwap (t : Tid) (e : IsaFact) (s : State) : Host.Outcome State Fault Refusal :=
  .next (s.issue t e .amoSwap (State.effAmo fun _ rb _ => rb))

/-- AMO CAS. -/
def execIsaAmoCas (t : Tid) (e : IsaFact) (s : State) : Host.Outcome State Fault Refusal :=
  .next (s.issue t e .amoCas (State.effAmo fun old rb rd => if old = rd then rb else old))

/-- BEQ. -/
def execIsaBeq (t : Tid) (e : IsaFact) (s : State) : Host.Outcome State Fault Refusal :=
  .next (s.issue t e .beq (State.effBranch fun x y => x == y))

/-- BNE. -/
def execIsaBne (t : Tid) (e : IsaFact) (s : State) : Host.Outcome State Fault Refusal :=
  .next (s.issue t e .bne (State.effBranch fun x y => x != y))

/-- BLT. -/
def execIsaBlt (t : Tid) (e : IsaFact) (s : State) : Host.Outcome State Fault Refusal :=
  .next (s.issue t e .blt (State.effBranch fun x y => x.slt y))

/-- BGE. -/
def execIsaBge (t : Tid) (e : IsaFact) (s : State) : Host.Outcome State Fault Refusal :=
  .next (s.issue t e .bge (State.effBranch fun x y => !x.slt y))

/-- BLTU. -/
def execIsaBltu (t : Tid) (e : IsaFact) (s : State) : Host.Outcome State Fault Refusal :=
  .next (s.issue t e .bltu (State.effBranch fun x y => x.ult y))

/-- BGEU. -/
def execIsaBgeu (t : Tid) (e : IsaFact) (s : State) : Host.Outcome State Fault Refusal :=
  .next (s.issue t e .bgeu (State.effBranch fun x y => !x.ult y))

/-- JAL. -/
def execIsaJal (t : Tid) (e : IsaFact) (s : State) : Host.Outcome State Fault Refusal :=
  .next (s.issue t e .jal State.effJal)

/-- JALR. -/
def execIsaJalr (t : Tid) (e : IsaFact) (s : State) : Host.Outcome State Fault Refusal :=
  .next (s.issue t e .jalr State.effJalr)

/-- SRD (R221). -/
def execIsaSrd (t : Tid) (e : IsaFact) (s : State) : Host.Outcome State Fault Refusal :=
  .next (s.issue t e .srd State.effSrd)

/-- YIELD (R208): which thread issues next is the order of the commands. -/
def execIsaYield (t : Tid) (e : IsaFact) (s : State) : Host.Outcome State Fault Refusal :=
  .next (s.issue t e .yield State.effNone)

/-- DONE (R221). -/
def execIsaDone (t : Tid) (e : IsaFact) (s : State) : Host.Outcome State Fault Refusal :=
  .next (s.issue t e .done State.effDone)

/-- FENCE (R220): posted stores and calls complete within their own commands. -/
def execIsaFence (t : Tid) (e : IsaFact) (s : State) : Host.Outcome State Fault Refusal :=
  .next (s.issue t e .fence State.effNone)

/-- TRAP (R232 code 5). -/
def execIsaTrap (t : Tid) (e : IsaFact) (s : State) : Host.Outcome State Fault Refusal :=
  .next (s.issue t e .trap State.effTrap)

end Sys2Proof.Machine
end

