-- ==== Sys2Proof/Machine/Dispatch.lean ====
section
/-! DEFINITION. The dispatch of the commands: one arm per row of the opcode table. -/

namespace Sys2Proof.Machine

/-- The effect of a command on everything but the queue of waiting commands. -/
def exec (i : Instr) (s : State) : Host.Outcome State Fault Refusal :=
  match i with
  | .registerWrite q addr v silent => Sys2Proof.Machine.execRegisterWrite q addr v silent s
  | .counterLoRead q addr => Sys2Proof.Machine.execCounterLoRead q addr s
  | .readClear q addr => Sys2Proof.Machine.execReadClear q addr s
  | .cellFault cell region block inst src info resolved quarOk xngs => Sys2Proof.Machine.execCellFault cell region block inst src info resolved quarOk xngs s
  | .blockResetTimeout region block inst info => Sys2Proof.Machine.execBlockResetTimeout region block inst info s
  | .faultRecordClear q v => Sys2Proof.Machine.execFaultRecordClear q v s
  | .gaitWindowEnd trips => Sys2Proof.Machine.execGaitWindowEnd trips s
  | .crossingResync i1 => Sys2Proof.Machine.execCrossingResync i1 s
  | .crossingTimeout x part => Sys2Proof.Machine.execCrossingTimeout x part s
  | .crossingRefusalEnd i1 => Sys2Proof.Machine.execCrossingRefusalEnd i1 s
  | .receiverStart q x v => Sys2Proof.Machine.execReceiverStart q x v s
  | .receiverStop q x v => Sys2Proof.Machine.execReceiverStop q x v s
  | .lineModeSet q x v => Sys2Proof.Machine.execLineModeSet q x v s
  | .txEnable q x on => Sys2Proof.Machine.execTxEnable q x on s
  | .adcCalibrationDone x => Sys2Proof.Machine.execAdcCalibrationDone x s
  | .cdrLockGained x => Sys2Proof.Machine.execCdrLockGained x s
  | .cdrLockLost x => Sys2Proof.Machine.execCdrLockLost x s
  | .adaptationConverged x steps thresholds => Sys2Proof.Machine.execAdaptationConverged x steps thresholds s
  | .signalDetectChange x pp => Sys2Proof.Machine.execSignalDetectChange x pp s
  | .codewordDecode x idx codes bits iters unc => Sys2Proof.Machine.execCodewordDecode x idx codes bits iters unc s
  | .txfChange x level => Sys2Proof.Machine.execTxfChange x level s
  | .peqLoad q x v => Sys2Proof.Machine.execPeqLoad q x v s
  | .peqDecisionPoint x => Sys2Proof.Machine.execPeqDecisionPoint x s
  | .rxpCalCommit q x k v => Sys2Proof.Machine.execRxpCalCommit q x k v s
  | .i2cTransactionStart q x v => Sys2Proof.Machine.execI2cTransactionStart q x v s
  | .i2cTransactionDone x result bytes => Sys2Proof.Machine.execI2cTransactionDone x result bytes s
  | .i2cBus1Enable q x v => Sys2Proof.Machine.execI2cBus1Enable q x v s
  | .downstreamFrame x f => Sys2Proof.Machine.execDownstreamFrame x f s
  | .psyncMatch x pos f => Sys2Proof.Machine.execPsyncMatch x pos f s
  | .encapFrameReceive x ghec => Sys2Proof.Machine.execEncapFrameReceive x ghec s
  | .mgmtMessageReceive x => Sys2Proof.Machine.execMgmtMessageReceive x s
  | .losDeclare x => Sys2Proof.Machine.execLosDeclare x s
  | .losClear x => Sys2Proof.Machine.execLosClear x s
  | .rangingHoldExpire x => Sys2Proof.Machine.execRangingHoldExpire x s
  | .pmLatch x => Sys2Proof.Machine.execPmLatch x s
  | .odcInsertMultiframe x second bytes => Sys2Proof.Machine.execOdcInsertMultiframe x second bytes s
  | .odc2InputEnable q x v => Sys2Proof.Machine.execOdc2InputEnable q x v s
  | .bwmapEntryReceive x ghec delay => Sys2Proof.Machine.execBwmapEntryReceive x ghec delay s
  | .burstAssemblyStart x bad => Sys2Proof.Machine.execBurstAssemblyStart x bad s
  | .burstTransmit x => Sys2Proof.Machine.execBurstTransmit x s
  | .bridleUnlockStage q x v => Sys2Proof.Machine.execBridleUnlockStage q x v s
  | .bridleUnlockTimeout x => Sys2Proof.Machine.execBridleUnlockTimeout x s
  | .rogueClear q x v => Sys2Proof.Machine.execRogueClear q x v s
  | .upstreamMessagePush q x v => Sys2Proof.Machine.execUpstreamMessagePush q x v s
  | .eqdWrite q x v => Sys2Proof.Machine.execEqdWrite q x v s
  | .upbAssignTid q x => Sys2Proof.Machine.execUpbAssignTid q x s
  | .upbRanged q x => Sys2Proof.Machine.execUpbRanged q x s
  | .upbDeactivate q x => Sys2Proof.Machine.execUpbDeactivate q x s
  | .upbDisable q x => Sys2Proof.Machine.execUpbDisable q x s
  | .upbEnable q x => Sys2Proof.Machine.execUpbEnable q x s
  | .upbSerialNumberEnter x => Sys2Proof.Machine.execUpbSerialNumberEnter x s
  | .to1Expire x => Sys2Proof.Machine.execTo1Expire x s
  | .pairingConfigWrite q v => Sys2Proof.Machine.execPairingConfigWrite q v s
  | .prtManual q => Sys2Proof.Machine.execPrtManual q s
  | .prtLock q => Sys2Proof.Machine.execPrtLock q s
  | .prtUnlock q => Sys2Proof.Machine.execPrtUnlock q s
  | .wtrExpire => Sys2Proof.Machine.execWtrExpire s
  | .reorderArrival x exp => Sys2Proof.Machine.execReorderArrival x exp s
  | .reorderWindowExpire port => Sys2Proof.Machine.execReorderWindowExpire port s
  | .harnessFrameBoundary => Sys2Proof.Machine.execHarnessFrameBoundary s
  | .harnessAlign => Sys2Proof.Machine.execHarnessAlign s
  | .harRealign q => Sys2Proof.Machine.execHarRealign q s
  | .swapDs q => Sys2Proof.Machine.execSwapDs q s
  | .swapUs q => Sys2Proof.Machine.execSwapUs q s
  | .cktForce q => Sys2Proof.Machine.execCktForce q s
  | .pageSwap => Sys2Proof.Machine.execPageSwap s
  | .cmStandbyWrite q us h v => Sys2Proof.Machine.execCmStandbyWrite q us h v s
  | .harnessEnable q v => Sys2Proof.Machine.execHarnessEnable q v s
  | .harnessRxckDetect => Sys2Proof.Machine.execHarnessRxckDetect s
  | .laneBlockLock n => Sys2Proof.Machine.execLaneBlockLock n s
  | .harnessTxTrainEnd => Sys2Proof.Machine.execHarnessTxTrainEnd s
  | .laneAlign n lane skew => Sys2Proof.Machine.execLaneAlign n lane skew s
  | .laneLockLoss n alignment => Sys2Proof.Machine.execLaneLockLoss n alignment s
  | .laneRetrainTimeout n => Sys2Proof.Machine.execLaneRetrainTimeout n s
  | .harRetrain q => Sys2Proof.Machine.execHarRetrain q s
  | .harnessRxckLoss => Sys2Proof.Machine.execHarnessRxckLoss s
  | .rowSlip n drop row => Sys2Proof.Machine.execRowSlip n drop row s
  | .eyeScanStart q v => Sys2Proof.Machine.execEyeScanStart q v s
  | .eyeScanDone points => Sys2Proof.Machine.execEyeScanDone points s
  | .frameClassify x exp unc => Sys2Proof.Machine.execFrameClassify x exp unc s
  | .clsWrite q exact copy prof index => Sys2Proof.Machine.execClsWrite q exact copy prof index s
  | .clsSetvalid q exact copy index => Sys2Proof.Machine.execClsSetvalid q exact copy index s
  | .clsClearvalid q exact copy index => Sys2Proof.Machine.execClsClearvalid q exact copy index s
  | .clsRead q exact copy index => Sys2Proof.Machine.execClsRead q exact copy index s
  | .clsHash q prof => Sys2Proof.Machine.execClsHash q prof s
  | .clsModeChange q v => Sys2Proof.Machine.execClsModeChange q v s
  | .clsCommit q => Sys2Proof.Machine.execClsCommit q s
  | .clsVersionDrained => Sys2Proof.Machine.execClsVersionDrained s
  | .clsStageCopyDone => Sys2Proof.Machine.execClsStageCopyDone s
  | .clsDrainTimeout => Sys2Proof.Machine.execClsDrainTimeout s
  | .frameDispatch exp => Sys2Proof.Machine.execFrameDispatch exp s
  | .isaAdd t e => Sys2Proof.Machine.execIsaAdd t e s
  | .isaSub t e => Sys2Proof.Machine.execIsaSub t e s
  | .isaAnd t e => Sys2Proof.Machine.execIsaAnd t e s
  | .isaOr t e => Sys2Proof.Machine.execIsaOr t e s
  | .isaXor t e => Sys2Proof.Machine.execIsaXor t e s
  | .isaShl t e => Sys2Proof.Machine.execIsaShl t e s
  | .isaShr t e => Sys2Proof.Machine.execIsaShr t e s
  | .isaSra t e => Sys2Proof.Machine.execIsaSra t e s
  | .isaMul t e => Sys2Proof.Machine.execIsaMul t e s
  | .isaMulhu t e => Sys2Proof.Machine.execIsaMulhu t e s
  | .isaSlt t e => Sys2Proof.Machine.execIsaSlt t e s
  | .isaSltu t e => Sys2Proof.Machine.execIsaSltu t e s
  | .isaRotr t e => Sys2Proof.Machine.execIsaRotr t e s
  | .isaClz t e => Sys2Proof.Machine.execIsaClz t e s
  | .isaPopc t e => Sys2Proof.Machine.execIsaPopc t e s
  | .isaBswap t e => Sys2Proof.Machine.execIsaBswap t e s
  | .isaAddi t e => Sys2Proof.Machine.execIsaAddi t e s
  | .isaAndi t e => Sys2Proof.Machine.execIsaAndi t e s
  | .isaOri t e => Sys2Proof.Machine.execIsaOri t e s
  | .isaXori t e => Sys2Proof.Machine.execIsaXori t e s
  | .isaShiftImmediate t e => Sys2Proof.Machine.execIsaShiftImmediate t e s
  | .isaLui t e => Sys2Proof.Machine.execIsaLui t e s
  | .isaExtu t e => Sys2Proof.Machine.execIsaExtu t e s
  | .isaExts t e => Sys2Proof.Machine.execIsaExts t e s
  | .isaIns t e => Sys2Proof.Machine.execIsaIns t e s
  | .isaLb t e => Sys2Proof.Machine.execIsaLb t e s
  | .isaLh t e => Sys2Proof.Machine.execIsaLh t e s
  | .isaLw t e => Sys2Proof.Machine.execIsaLw t e s
  | .isaLd t e => Sys2Proof.Machine.execIsaLd t e s
  | .isaLbs t e => Sys2Proof.Machine.execIsaLbs t e s
  | .isaLhs t e => Sys2Proof.Machine.execIsaLhs t e s
  | .isaLws t e => Sys2Proof.Machine.execIsaLws t e s
  | .isaSb t e => Sys2Proof.Machine.execIsaSb t e s
  | .isaSh t e => Sys2Proof.Machine.execIsaSh t e s
  | .isaSw t e => Sys2Proof.Machine.execIsaSw t e s
  | .isaSd t e => Sys2Proof.Machine.execIsaSd t e s
  | .isaLhbe t e => Sys2Proof.Machine.execIsaLhbe t e s
  | .isaLwbe t e => Sys2Proof.Machine.execIsaLwbe t e s
  | .isaLdbe t e => Sys2Proof.Machine.execIsaLdbe t e s
  | .isaShbe t e => Sys2Proof.Machine.execIsaShbe t e s
  | .isaSwbe t e => Sys2Proof.Machine.execIsaSwbe t e s
  | .isaSdbe t e => Sys2Proof.Machine.execIsaSdbe t e s
  | .isaAmoAdd t e => Sys2Proof.Machine.execIsaAmoAdd t e s
  | .isaAmoSwap t e => Sys2Proof.Machine.execIsaAmoSwap t e s
  | .isaAmoCas t e => Sys2Proof.Machine.execIsaAmoCas t e s
  | .isaBeq t e => Sys2Proof.Machine.execIsaBeq t e s
  | .isaBne t e => Sys2Proof.Machine.execIsaBne t e s
  | .isaBlt t e => Sys2Proof.Machine.execIsaBlt t e s
  | .isaBge t e => Sys2Proof.Machine.execIsaBge t e s
  | .isaBltu t e => Sys2Proof.Machine.execIsaBltu t e s
  | .isaBgeu t e => Sys2Proof.Machine.execIsaBgeu t e s
  | .isaJal t e => Sys2Proof.Machine.execIsaJal t e s
  | .isaJalr t e => Sys2Proof.Machine.execIsaJalr t e s
  | .isaSrd t e => Sys2Proof.Machine.execIsaSrd t e s
  | .isaYield t e => Sys2Proof.Machine.execIsaYield t e s
  | .isaDone t e => Sys2Proof.Machine.execIsaDone t e s
  | .isaFence t e => Sys2Proof.Machine.execIsaFence t e s
  | .isaTrap t e => Sys2Proof.Machine.execIsaTrap t e s
  | .callClsLookup t e => Sys2Proof.Machine.execCallClsLookup t e s
  | .callHash t e => Sys2Proof.Machine.execCallHash t e s
  | .callPolice t e => Sys2Proof.Machine.execCallPolice t e s
  | .callCount t e => Sys2Proof.Machine.execCallCount t e s
  | .callEnq t e => Sys2Proof.Machine.execCallEnq t e s
  | .callTime t e => Sys2Proof.Machine.execCallTime t e s
  | .callCsum t e => Sys2Proof.Machine.execCallCsum t e s
  | .callCmac t e => Sys2Proof.Machine.execCallCmac t e s
  | .callRecirc t e => Sys2Proof.Machine.execCallRecirc t e s
  | .callFrd t e => Sys2Proof.Machine.execCallFrd t e s
  | .callFwr t e => Sys2Proof.Machine.execCallFwr t e s
  | .callDrop t e => Sys2Proof.Machine.execCallDrop t e s
  | .watchdogExpire t => Sys2Proof.Machine.execWatchdogExpire t s
  | .expressBudgetExceeded t => Sys2Proof.Machine.execExpressBudgetExceeded t s
  | .courserQuarantine t c handshake => Sys2Proof.Machine.execCourserQuarantine t c handshake s
  | .teamReset t => Sys2Proof.Machine.execTeamReset t s
  | .samplerRestart q t v => Sys2Proof.Machine.execSamplerRestart q t v s
  | .teamDrain q t => Sys2Proof.Machine.execTeamDrain q t s
  | .teamDrainDone t => Sys2Proof.Machine.execTeamDrainDone t s
  | .teamLoad q t => Sys2Proof.Machine.execTeamLoad q t s
  | .teamLoadEnd t first second => Sys2Proof.Machine.execTeamLoadEnd t first second s
  | .teamRun q t => Sys2Proof.Machine.execTeamRun q t s
  | .teamInitDone t => Sys2Proof.Machine.execTeamInitDone t s
  | .loadCmdMulti q t v => Sys2Proof.Machine.execLoadCmdMulti q t v s
  | .schedulerSelect node => Sys2Proof.Machine.execSchedulerSelect node s
  | .spillReadbackDone queue unc => Sys2Proof.Machine.execSpillReadbackDone queue unc s
  | .queueConfigWrite q queue word v => Sys2Proof.Machine.execQueueConfigWrite q queue word v s
  | .bucketConfigWrite q addr v => Sys2Proof.Machine.execBucketConfigWrite q addr v s
  | .gateCommit q g v => Sys2Proof.Machine.execGateCommit q g v s
  | .gateEntryAdvance g => Sys2Proof.Machine.execGateEntryAdvance g s
  | .queueSampleSweep overrun => Sys2Proof.Machine.execQueueSampleSweep overrun s
  | .todApply q x v => Sys2Proof.Machine.execTodApply q x v s
  | .todHeldCompute x => Sys2Proof.Machine.execTodHeldCompute x s
  | .todSet q v => Sys2Proof.Machine.execTodSet q v s
  | .timeSourceWrite q v => Sys2Proof.Machine.execTimeSourceWrite q v s
  | .todMessageTimeout => Sys2Proof.Machine.execTodMessageTimeout s
  | .extPpsMissing => Sys2Proof.Machine.execExtPpsMissing s
  | .secondTick => Sys2Proof.Machine.execSecondTick s
  | .todNsRead q => Sys2Proof.Machine.execTodNsRead q s
  | .tsqPop q k => Sys2Proof.Machine.execTsqPop q k s
  | .ppsEnable q n v => Sys2Proof.Machine.execPpsEnable q n v s
  | .ppsEdge n => Sys2Proof.Machine.execPpsEdge n s
  | .eventCaptureEnable q n v => Sys2Proof.Machine.execEventCaptureEnable q n v s
  | .eventCaptureEdge n falling phase => Sys2Proof.Machine.execEventCaptureEdge n falling phase s
  | .captureQueuePop q n => Sys2Proof.Machine.execCaptureQueuePop q n s
  | .comparatorArm q n v => Sys2Proof.Machine.execComparatorArm q n v s
  | .comparatorFire n => Sys2Proof.Machine.execComparatorFire n s
  | .clientLayoutWrite q v => Sys2Proof.Machine.execClientLayoutWrite q v s
  | .portEnable q p v => Sys2Proof.Machine.execPortEnable q p v s
  | .portDisable q p v smd rx first => Sys2Proof.Machine.execPortDisable q p v smd rx first s
  | .linkUp p rxLat txLat => Sys2Proof.Machine.execLinkUp p rxLat txLat s
  | .linkDown p lf rf pcs smd rx first => Sys2Proof.Machine.execLinkDown p lf rf pcs smd rx first s
  | .clientFrameReceive p bytes first smd pcsErr abort corr unc => Sys2Proof.Machine.execClientFrameReceive p bytes first smd pcsErr abort corr unc s
  | .ucastCommit q p n v => Sys2Proof.Machine.execUcastCommit q p n v s
  | .clientFrameTransmit p ue => Sys2Proof.Machine.execClientFrameTransmit p ue s
  | .pmpEnable q p v => Sys2Proof.Machine.execPmpEnable q p v s
  | .verifyTimeout p => Sys2Proof.Machine.execVerifyTimeout p s
  | .busMasterChange bme d3hot => Sys2Proof.Machine.execBusMasterChange bme d3hot s
  | .coldPowerUp => Sys2Proof.Machine.execColdPowerUp s
  | .warmReset q v => Sys2Proof.Machine.execWarmReset q v s
  | .hostReset q cause => Sys2Proof.Machine.execHostReset q cause s
  | .resetEnd => Sys2Proof.Machine.execResetEnd s
  | .ringEnable q r v => Sys2Proof.Machine.execRingEnable q r v s
  | .ringDisable q r v => Sys2Proof.Machine.execRingDisable q r v s
  | .ringDisableDone r descs => Sys2Proof.Machine.execRingDisableDone r descs s
  | .doorbell page offset width v => Sys2Proof.Machine.execDoorbell page offset width v s
  | .txDescriptor r d bytes rd => Sys2Proof.Machine.execTxDescriptor r d bytes rd s
  | .hostQueueDeliver hq d ue => Sys2Proof.Machine.execHostQueueDeliver hq d ue s
  | .descriptorFetchError r timeout => Sys2Proof.Machine.execDescriptorFetchError r timeout s
  | .jobNop r d => Sys2Proof.Machine.execJobNop r d s
  | .scrubJob r d => Sys2Proof.Machine.execScrubJob r d s
  | .scrubJobEnd fails stopped => Sys2Proof.Machine.execScrubJobEnd fails stopped s
  | .checkScanJob r d => Sys2Proof.Machine.execCheckScanJob r d s
  | .checkScanEnd u data stop timeout => Sys2Proof.Machine.execCheckScanEnd u data stop timeout s
  | .cmacJob r d => Sys2Proof.Machine.execCmacJob r d s
  | .cmacDone data rd => Sys2Proof.Machine.execCmacDone data rd s
  | .unwrapJob r d => Sys2Proof.Machine.execUnwrapJob r d s
  | .unwrapDone q data rd => Sys2Proof.Machine.execUnwrapDone q data rd s
  | .eventRingEnable q v => Sys2Proof.Machine.execEventRingEnable q v s
  | .eventRingDisable q v => Sys2Proof.Machine.execEventRingDisable q v s
  | .eventRingCiWrite q v => Sys2Proof.Machine.execEventRingCiWrite q v s
  | .eventRaise src level inst info pulses => Sys2Proof.Machine.execEventRaise src level inst info pulses s
  | .msixHoldoffExpire v => Sys2Proof.Machine.execMsixHoldoffExpire v s
  | .msixUnmask v => Sys2Proof.Machine.execMsixUnmask v s
  | .pcieLinkChange up speed width => Sys2Proof.Machine.execPcieLinkChange up speed width s
  | .dramChannelEnable q c v => Sys2Proof.Machine.execDramChannelEnable q c v s
  | .dramTrainingEnd c fail => Sys2Proof.Machine.execDramTrainingEnd c fail s
  | .dramChannelDown c => Sys2Proof.Machine.execDramChannelDown c s
  | .spillAreaWrite q k v => Sys2Proof.Machine.execSpillAreaWrite q k v s
  | .eccWriteBack chip group addr cls req synd cancelled hard => Sys2Proof.Machine.execEccWriteBack chip group addr cls req synd cancelled hard s
  | .remapEntryWrite q c e v => Sys2Proof.Machine.execRemapEntryWrite q c e v s
  | .spareEntryWrite q g e v => Sys2Proof.Machine.execSpareEntryWrite q g e v s
  | .memModeWrite q v fails => Sys2Proof.Machine.execMemModeWrite q v fails s
  | .flipArm q v => Sys2Proof.Machine.execFlipArm q v s
  | .keyLoad q slot size256 => Sys2Proof.Machine.execKeyLoad q slot size256 s
  | .keyErase q slot => Sys2Proof.Machine.execKeyErase q slot s
  | .forceErase q slot => Sys2Proof.Machine.execForceErase q slot s
  | .unwrapStart q v => Sys2Proof.Machine.execUnwrapStart q v s
  | .keySwitchArm q x v => Sys2Proof.Machine.execKeySwitchArm q x v s
  | .entropyHealthFail repetition adaptive => Sys2Proof.Machine.execEntropyHealthFail repetition adaptive s
  | .entropyRestart q passed => Sys2Proof.Machine.execEntropyRestart q passed s
  | .checkFeed q u v => Sys2Proof.Machine.execCheckFeed q u v s
  | .checkScanStart q u v => Sys2Proof.Machine.execCheckScanStart q u v s
  | .railFail pll index skew => Sys2Proof.Machine.execRailFail pll index skew s
  | .powerRetry fails => Sys2Proof.Machine.execPowerRetry fails s
  | .powerGoodLost rail => Sys2Proof.Machine.execPowerGoodLost rail s
  | .pllLockLost i1 => Sys2Proof.Machine.execPllLockLost i1 s
  | .powerSleep q energy wakeN => Sys2Proof.Machine.execPowerSleep q energy wakeN s
  | .powerDoze q energy wakeN => Sys2Proof.Machine.execPowerDoze q energy wakeN s
  | .powerListen q energy wakeN => Sys2Proof.Machine.execPowerListen q energy wakeN s
  | .powerRun q energy wakeN => Sys2Proof.Machine.execPowerRun q energy wakeN s
  | .powerTransitionEnd fails => Sys2Proof.Machine.execPowerTransitionEnd fails s
  | .runMaskWrite q v fails => Sys2Proof.Machine.execRunMaskWrite q v fails s
  | .pwrWake energy wakeN doorbell since => Sys2Proof.Machine.execPwrWake energy wakeN doorbell since s
  | .dozeWindowOpen => Sys2Proof.Machine.execDozeWindowOpen s
  | .dozeWindowClose => Sys2Proof.Machine.execDozeWindowClose s
  | .wakeTimerExpire committed => Sys2Proof.Machine.execWakeTimerExpire committed s
  | .vcoreSet q v => Sys2Proof.Machine.execVcoreSet q v s
  | .vcoreVerifyTimeout => Sys2Proof.Machine.execVcoreVerifyTimeout s
  | .monitorSample k code => Sys2Proof.Machine.execMonitorSample k code s
  | .supplyLossDeclare => Sys2Proof.Machine.execSupplyLossDeclare s
  | .dgHoldExpire => Sys2Proof.Machine.execDgHoldExpire s
  | .energyCheck code => Sys2Proof.Machine.execEnergyCheck code s
  | .stateSaveEnd ok => Sys2Proof.Machine.execStateSaveEnd ok s
  | .pfailRelease => Sys2Proof.Machine.execPfailRelease s
  | .groomImageLoad q v => Sys2Proof.Machine.execGroomImageLoad q v s
  | .groomImageLoadEnd first second => Sys2Proof.Machine.execGroomImageLoadEnd first second s
  | .captureEnable q v => Sys2Proof.Machine.execCaptureEnable q v s
  | .captureRecordWrite => Sys2Proof.Machine.execCaptureRecordWrite s
  | .captureCopyStale => Sys2Proof.Machine.execCaptureCopyStale s
  | .captureResume q v => Sys2Proof.Machine.execCaptureResume q v s
  | .captureReadoutStart q v => Sys2Proof.Machine.execCaptureReadoutStart q v s
  | .captureReadoutEnd ue => Sys2Proof.Machine.execCaptureReadoutEnd ue s
  | .stbNow q v => Sys2Proof.Machine.execStbNow q v s
  | .snapshotPeriod => Sys2Proof.Machine.execSnapshotPeriod s
  | .snapshotWriteEnd r d => Sys2Proof.Machine.execSnapshotWriteEnd r d s
  | .studbookComparatorArm q v => Sys2Proof.Machine.execStudbookComparatorArm q v s
  | .userPageWrite q v => Sys2Proof.Machine.execUserPageWrite q v s
  | .farrierStart q v refOk clearOk => Sys2Proof.Machine.execFarrierStart q v refOk clearOk s
  | .farrierTeamIdle clearOk uncs => Sys2Proof.Machine.execFarrierTeamIdle clearOk uncs s
  | .logicBistDone sig => Sys2Proof.Machine.execLogicBistDone sig s
  | .memoryBistDone fails xngs => Sys2Proof.Machine.execMemoryBistDone fails xngs s
  | .farrierRestoreDone => Sys2Proof.Machine.execFarrierRestoreDone s
  | .fuseBurn q v => Sys2Proof.Machine.execFuseBurn q v s
  | .fuseBurnEnd => Sys2Proof.Machine.execFuseBurnEnd s
  | .harnessRowReceive n row => Sys2Proof.Machine.execHarnessRowReceive n row s
  | .pllLockReturn i1 => Sys2Proof.Machine.execPllLockReturn i1 s
  | .vddAonLoss => Sys2Proof.Machine.execVddAonLoss s
  | .registerRead q addr fact => Sys2Proof.Machine.execRegisterRead q addr fact s
  | .todSlewEnd => Sys2Proof.Machine.execTodSlewEnd s

end Sys2Proof.Machine
end

