-- ==== Sys2Proof/Machine/Tick.lean ====
section
/-! DEFINITION. One tick of time, which a step with no waiting command takes (DESIGN CHOICE, log 2): the tick counter and
the time of day with the SET and the messages it
handles (R267, R268, R276), the programmable counters (R420), the ends of bursts and of frames on the lanes (R119,
R302), the Groom's cycle counter (R393). -/

namespace Sys2Proof.Machine

namespace State

/-- Time of day advances by one tick, and by one fraction unit of a pending slew (R267, R276). -/
def todTick (s : State) : State :=
  let d : Int := if 0 < s.tm.slew then 1 else if s.tm.slew < 0 then -1 else 0
  (s.setTod ((s.tm.tod : Int) + (todPerTick : Nat) + 243 * d)).modTm fun t => { t with slew := t.slew - d }

/-- Level of a signal of R420. -/
def pcLevel (s : State) (sel : Nat) : Bool :=
  let side (x : Side) (k : Nat) : Bool :=
    let i := sideOff x
    match k with
    | 0 => !s.flag F.DSF_STAT_DS_VALID i
    | 1 => s.flag F.DSF_STAT_LOS i
    | 2 => s.flag F.DSF_STAT_LOF i
    | 3 => s.flag F.DSF_STAT_LOM i
    | 4 => s.flag F.LIN_FE_STAT_BEN i
    | 5 => s.rogue x
    | 6 => s.actState x != 3
    | _ => false
  if 0x200 ≤ sel ∧ sel < 0x210 then side .a (sel - 0x200)
  else if 0x210 ≤ sel ∧ sel < 0x220 then side .b (sel - 0x210)
  else match sel with
    | 0x240 => s.flag F.CAP_STAT_FULL
    | 0x241 => !s.cp.capBuf.isEmpty && s.capThrottled
    | 0x242 => s.flag F.EVT_RING_CFG_FULL
    | 0x243 => s.flag F.PRT_STAT_NO_PATH
    | 0x244 => s.f F.TIM_STAT_STATE != 2
    | _ => false

/-- The signals of R420 that have a level. -/
def pcSignals : List Nat :=
  (List.range 7).map (0x200 + ·) ++ (List.range 7).map (0x210 + ·) ++ (List.range 5).map (0x240 + ·)

/-- One programmable counter at a tick: a level counted, or a rise since the last tick; event sources count when raised. -/
def pcTick (s : State) (n : Nat) : State :=
  let sel := s.f F.STB_PC_SEL (4 * n)
  s.bumpIf (s.pcLevel sel && (s.flag F.STB_PC_MODE (4 * n) || !sget (fun _ => false) s.cp.pcPrev sel))
    (0x1400800 + 8 * n)

/-- The programmable counters at a tick of the Host region's copy. -/
def pcTicks (s : State) : State :=
  if !s.regionUp 6 then s
  else
    let s1 := (List.range 8).foldl (fun s n => s.pcTick n) s
    let m := pcSignals.foldl (fun m k => sset (fun _ => false) m k (s1.pcLevel k)) []
    s1.modCp fun c => { c with pcPrev := m }

/-- The Groom's cycle counter: 125/3888 of a cycle a tick (R393). With the Time region off a step is one Groom cycle. -/
def groomTick (s : State) : State :=
  if (s.region 7).on then
    let n := s.pwr.frac + 125
    s.modPwr fun p => { p with cycle := p.cycle + n / 3888, frac := n % 3888 }
  else s.modPwr fun p => { p with cycle := p.cycle + 1, frac := 0 }

/-- One tick: the protection control decides on what has happened since the last one (R137), then the count advances. -/
def tickOp (s : State) : State :=
  let s := s.prtDecide.groomTick
  if !s.regionUp 7 then s
  else
    let s1 : State := { s with tick := (s.tick + 1) % 2 ^ 64 }
    let s2 := ((s1.todTick.todWork.sendTick .a).sendTick .b).spillFlush
    (((List.range 8).foldl (fun s p => s.macTick p) s2.txGo).pcTicks).snapTick

end State

end Sys2Proof.Machine
end

