-- ==== Sys2Proof/Safety.lean ====
section
/-! DEFINITION. What a safe run is, and the invariant that the claims about every step use. -/

namespace Sys2Proof.Machine

/-- A state is safe when its next step neither faults nor is refused. -/
def State.safe (s : State) : Prop := ∃ t, step s = .next t

/-- The registers, the live counters and the byte and word memories (host memory, DRAM, team memories, instruction stores) are
in the canonical form of sparse tables: strictly rising addresses, no entry equal to what an unlisted address reads as. -/
def State.memOk (s : State) : Bool :=
  swf regDefault s.regs && swf (fun _ => 0) s.counters && swf (fun _ => 0) s.hostMem && swf (fun _ => 0) s.dram
    && swf (fun _ => 0) s.lmem && swf (fun _ => 0) s.smem && swf (fun _ => 0xFFFFFFFF#32) s.istore

/-- Every live counter holds a 64-bit value (R11). -/
def State.countersOk (s : State) : Prop := ∀ a, s.counter a < 2 ^ 64

/-- The invariant: a 64-bit tick counter (R268), a time of day below its modulus (R267), 64-bit live counters (R11), and
memories in canonical form. -/
structure State.Inv (s : State) : Prop where
  tick : s.tick < 2 ^ 64
  tod : s.tm.tod < todModulus
  counters : s.countersOk
  mem : s.memOk = true

/-- Registers that reporting an event may write: the ring's PI, CFG (FULL) and LOST, the raise counts, the pending bits. -/
def evtKey (k : Nat) : Bool :=
  k == 0x100010 || k == 0x10000C || k == 0x100018 || (0x102000 ≤ k && k < 0x102800) || k == 0xF8000 || k == 0xF8004

/-- Counters that reporting an event may advance: MSI-X messages sent, and the programmable counters. -/
def evtCounter (a : Nat) : Bool := a == 0xB058 || (0x1400800 ≤ a && a < 0x1400840)

/-- From `s` to `t`, registers outside `ks` and counters outside `cs` are unchanged, but for the reporting of events. -/
structure Only (ks cs : List Nat) (s t : State) : Prop where
  regs : ∀ k, k ∉ ks → evtKey k = false → t.reg k = s.reg k
  counters : ∀ a, a ∉ cs → evtCounter a = false → t.counter a = s.counter a

/-- The entry of an event as the ring and the Groom's mirror hold it (R335): 16 bytes. -/
def evtEntry (s : State) (src level inst info : Nat) : List Byte :=
  leBytes 4 (s.evtWord0 src level inst) ++ leBytes 4 info ++ leBytes 8 s.tick

/-- `t` is a state after one raise of `src` in `s`: the raise count has gone up by one, and the last entry of the Groom's mirror
is the event. -/
def Raised (s t : State) (src level inst info : Nat) : Prop :=
  t.reg (0x102000 + 4 * src) = s.reg (0x102000 + 4 * src) + 1 ∧
    t.pwr.mirror.getLast? = some (evtEntry s src level inst info)

/-- The parts of the machine that the frame statements speak of. -/
inductive Comp where
  | regs | counters | report | shadows | rd | free | link | rings | xings | regions | resets | classifier | paddock
  | pairs | dispatch | teams | threads | istore | lmem | smem | sched | gates | dram | time | tick | capture
  | line (x : Side) | pairing | circuits | keys | memories | farrier | client | power
  deriving DecidableEq, Repr

/-- The power part without the Groom's mirror and the events it holds for the Host region (part of the report). -/
def PwrSt.core (p : PwrSt) : PwrSt := { p with mirror := [], held := [], heldLost := 0 }

/-- A part is the same in two states. The report is what raising an event changes beside its registers and counters: host
memory, the MSI-X vectors, the ring's pass and losses, the last raises, and the Groom's copies of events. -/
def Same : Comp → State → State → Prop
  | .regs, s, t => t.regs = s.regs
  | .counters, s, t => t.counters = s.counters
  | .report, s, t => (t.hostMem, t.vecs, t.evPhase, t.evLost, t.lastRaise, t.pwr.mirror, t.pwr.held, t.pwr.heldLost)
      = (s.hostMem, s.vecs, s.evPhase, s.evLost, s.lastRaise, s.pwr.mirror, s.pwr.held, s.pwr.heldLost)
  | .shadows, s, t => t.shadows = s.shadows
  | .rd, s, t => t.rd = s.rd
  | .free, s, t => t.freeIdx = s.freeIdx
  | .link, s, t => (t.d3hot, t.aer) = (s.d3hot, s.aer)
  | .rings, s, t => (t.rings, t.jobs, t.cmacSeq, t.txSend) = (s.rings, s.jobs, s.cmacSeq, s.txSend)
  | .xings, s, t => t.xings = s.xings
  | .regions, s, t => t.regions = s.regions
  | .resets, s, t => (t.blockResets, t.quarantined, t.faultN) = (s.blockResets, s.quarantined, s.faultN)
  | .classifier, s, t => (t.tc, t.em, t.emDup, t.commitTick, t.drainTold, t.verCopy)
      = (s.tc, s.em, s.emDup, s.commitTick, s.drainTold, s.verCopy)
  | .paddock, s, t => (t.pad, t.nextHandle) = (s.pad, s.nextHandle)
  | .pairs, s, t => t.countPairs = s.countPairs
  | .dispatch, s, t => (t.dispExp, t.dispOther, t.dispNext) = (s.dispExp, s.dispOther, s.dispNext)
  | .teams, s, t => t.teams = s.teams
  | .threads, s, t => (t.threads, t.turns) = (s.threads, s.turns)
  | .istore, s, t => t.istore = s.istore
  | .lmem, s, t => t.lmem = s.lmem
  | .smem, s, t => t.smem = s.smem
  | .sched, s, t => (t.queues, t.groups, t.vtimes, t.buckets, t.promotions, t.sweep)
      = (s.queues, s.groups, s.vtimes, s.buckets, s.promotions, s.sweep)
  | .gates, s, t => (t.gates, t.gateAdm, t.gateOpr) = (s.gates, s.gateAdm, s.gateOpr)
  | .dram, s, t => t.dram = s.dram
  | .time, s, t => t.tm = s.tm
  | .tick, s, t => t.tick = s.tick
  | .capture, s, t => t.cp = s.cp
  | .line .a, s, t => t.lineA = s.lineA
  | .line .b, s, t => t.lineB = s.lineB
  | .pairing, s, t => t.prt = s.prt
  | .circuits, s, t => t.har = s.har
  | .keys, s, t => t.sec = s.sec
  | .memories, s, t => t.mem = s.mem
  | .farrier, s, t => t.far = s.far
  | .client, s, t => t.cli = s.cli
  | .power, s, t => t.pwr.core = s.pwr.core

/-- The parts of the machine a command may change, whatever its operands and the state. -/
def touches : Instr → List Comp
  | .registerWrite _ _ _ _ => [.capture, .circuits, .classifier, .client, .counters, .dispatch, .dram, .farrier, .free, .gates, .istore, .keys, .link, .lmem, .memories, .paddock, .pairing, .pairs, .power, .rd, .regions, .regs, .report, .resets, .rings, .sched, .shadows, .smem, .teams, .threads, .time, .xings, .line .a, .line .b]
  | .counterLoRead _ _ => [.counters, .free, .link, .rd, .regs, .report, .shadows, .time]
  | .readClear _ _ => [.counters, .free, .link, .rd, .regs, .report, .shadows, .time]
  | .cellFault _ _ _ _ _ _ _ _ _ => [.circuits, .counters, .memories, .paddock, .regs, .report, .resets, .xings, .line .a, .line .b]
  | .blockResetTimeout _ _ _ _ => [.counters, .regs, .report, .resets, .line .a, .line .b]
  | .faultRecordClear _ _ => [.counters, .regs, .report, .resets]
  | .gaitWindowEnd _ => [.counters, .regs, .report, .teams, .time]
  | .crossingResync _ => [.regs, .xings]
  | .crossingTimeout _ _ => [.circuits, .client, .counters, .memories, .paddock, .regs, .report, .resets, .xings]
  | .crossingRefusalEnd _ => [.regs]
  | .receiverStart _ x _ => [.capture, .circuits, .counters, .free, .memories, .paddock, .pairing, .regs, .report, .time, .xings, .line x]
  | .receiverStop _ x _ => [.capture, .circuits, .counters, .free, .memories, .paddock, .pairing, .regs, .report, .time, .xings, .line x]
  | .lineModeSet _ x _ => [.capture, .circuits, .counters, .free, .memories, .paddock, .pairing, .regs, .report, .time, .xings, .line x]
  | .txEnable _ x _ => [.capture, .circuits, .counters, .free, .memories, .paddock, .pairing, .regs, .report, .time, .xings, .line x]
  | .adcCalibrationDone _ => [.regs]
  | .cdrLockGained _ => [.counters, .regs, .report]
  | .cdrLockLost x => [.capture, .circuits, .counters, .paddock, .pairing, .regs, .report, .time, .line x]
  | .adaptationConverged x _ _ => [.counters, .regs, .report, .line x]
  | .signalDetectChange x _ => [.capture, .circuits, .counters, .paddock, .pairing, .regs, .report, .time, .line x]
  | .codewordDecode x _ _ _ _ _ => [.circuits, .counters, .free, .line x]
  | .txfChange x _ => [.capture, .counters, .paddock, .regs, .report, .time, .line x]
  | .peqLoad _ x _ => [.counters, .regs, .report, .line x]
  | .peqDecisionPoint x => [.counters, .regs, .report, .line x]
  | .rxpCalCommit _ _ _ _ => [.counters, .regs, .report]
  | .i2cTransactionStart _ _ _ => [.counters, .regs, .report]
  | .i2cTransactionDone _ _ _ => [.counters, .regs, .report]
  | .i2cBus1Enable _ _ _ => [.counters, .regs, .report]
  | .downstreamFrame x _ => [.capture, .circuits, .counters, .free, .memories, .paddock, .pairing, .regs, .report, .time, .xings, .line x]
  | .psyncMatch x _ _ => [.capture, .circuits, .counters, .free, .memories, .paddock, .pairing, .power, .regs, .report, .time, .xings, .line x]
  | .encapFrameReceive x _ => [.counters, .regs, .report, .time, .xings, .line x]
  | .mgmtMessageReceive x => [.counters, .free, .power, .regs, .report, .xings, .line x]
  | .losDeclare x => [.capture, .circuits, .counters, .free, .memories, .paddock, .pairing, .regs, .report, .time, .xings, .line x]
  | .losClear _ => [.counters, .pairing, .regs, .report]
  | .rangingHoldExpire x => [.counters, .pairing, .regs, .report, .line x]
  | .pmLatch x => [.counters, .regs, .report, .time, .line x]
  | .odcInsertMultiframe x _ _ => [.counters, .regs, .report, .line x]
  | .odc2InputEnable _ _ _ => [.counters, .regs, .report]
  | .bwmapEntryReceive x _ _ => [.capture, .counters, .free, .paddock, .regs, .report, .xings, .line x]
  | .burstAssemblyStart x _ => [.counters, .free, .memories, .paddock, .pairing, .regs, .report, .sched, .line x]
  | .burstTransmit x => [.capture, .counters, .free, .memories, .paddock, .pairing, .regs, .report, .sched, .time, .line x]
  | .bridleUnlockStage _ _ _ => [.counters, .regs, .report]
  | .bridleUnlockTimeout _ => [.regs]
  | .rogueClear _ _ _ => [.counters, .pairing, .regs, .report]
  | .upstreamMessagePush _ x _ => [.counters, .regs, .report, .line x]
  | .eqdWrite _ _ _ => [.counters, .regs, .report]
  | .upbAssignTid _ x => [.capture, .counters, .paddock, .pairing, .regs, .report, .time, .line x]
  | .upbRanged _ x => [.capture, .counters, .paddock, .pairing, .regs, .report, .time, .line x]
  | .upbDeactivate _ x => [.capture, .counters, .paddock, .pairing, .regs, .report, .time, .line x]
  | .upbDisable _ x => [.capture, .counters, .paddock, .pairing, .regs, .report, .time, .line x]
  | .upbEnable _ x => [.capture, .counters, .paddock, .pairing, .regs, .report, .time, .line x]
  | .upbSerialNumberEnter _ => [.counters, .pairing, .regs, .report]
  | .to1Expire x => [.counters, .pairing, .regs, .report, .line x]
  | .pairingConfigWrite _ _ => [.counters, .free, .memories, .paddock, .pairing, .regs, .report, .time, .line .a, .line .b]
  | .prtManual _ => [.capture, .circuits, .counters, .free, .memories, .paddock, .pairing, .regs, .report, .time, .line .a, .line .b]
  | .prtLock _ => [.capture, .circuits, .counters, .free, .memories, .paddock, .pairing, .regs, .report, .time, .line .a, .line .b]
  | .prtUnlock _ => [.capture, .circuits, .counters, .free, .memories, .paddock, .pairing, .regs, .report, .time, .line .a, .line .b]
  | .wtrExpire => [.capture, .circuits, .counters, .free, .memories, .paddock, .pairing, .regs, .report, .time, .line .a, .line .b]
  | .reorderArrival _ _ => [.counters, .free, .paddock, .pairing, .regs, .report, .xings]
  | .reorderWindowExpire _ => [.counters, .pairing, .regs]
  | .harnessFrameBoundary => [.circuits, .counters, .free, .regs, .report]
  | .harnessAlign => [.circuits, .counters, .regs, .report]
  | .harRealign _ => [.circuits, .counters, .regs, .report]
  | .swapDs _ => [.circuits, .counters, .regs, .report]
  | .swapUs _ => [.circuits, .counters, .regs, .report]
  | .cktForce _ => [.circuits, .counters, .regs, .report]
  | .pageSwap => [.circuits, .counters, .regs, .report]
  | .cmStandbyWrite _ _ _ _ => [.counters, .regs, .report]
  | .harnessEnable _ _ => [.circuits, .counters, .free, .regs, .report]
  | .harnessRxckDetect => [.circuits, .counters, .regs, .report]
  | .laneBlockLock _ => [.circuits, .free, .regs]
  | .harnessTxTrainEnd => [.regs]
  | .laneAlign _ _ _ => [.circuits, .counters, .free, .regs, .report]
  | .laneLockLoss _ _ => [.circuits, .counters, .free, .regs, .report]
  | .laneRetrainTimeout _ => [.circuits, .counters, .free, .memories, .paddock, .regs, .report, .resets, .xings, .line .a, .line .b]
  | .harRetrain _ => [.circuits, .counters, .free, .regs, .report]
  | .harnessRxckLoss => [.circuits, .counters, .free, .regs, .report]
  | .rowSlip _ _ _ => [.circuits, .counters, .regs, .report]
  | .eyeScanStart _ _ => [.circuits, .counters, .regs, .report]
  | .eyeScanDone _ => [.counters, .regs, .report]
  | .frameClassify _ _ _ => [.capture, .classifier, .client, .counters, .dispatch, .free, .memories, .paddock, .pairing, .regs, .report, .sched, .xings]
  | .clsWrite _ _ _ _ _ => [.classifier, .counters, .regs, .report]
  | .clsSetvalid _ _ _ _ => [.classifier, .counters, .regs, .report]
  | .clsClearvalid _ _ _ _ => [.classifier, .counters, .regs, .report]
  | .clsRead _ _ _ _ => [.counters, .regs, .report]
  | .clsHash _ _ => [.counters, .regs, .report]
  | .clsModeChange _ _ => [.classifier, .counters, .regs, .report]
  | .clsCommit _ => [.classifier, .counters, .regs, .report]
  | .clsVersionDrained => [.counters, .regs, .report]
  | .clsStageCopyDone => [.classifier, .regs]
  | .clsDrainTimeout => [.classifier, .counters, .regs, .report]
  | .frameDispatch _ => [.counters, .dispatch, .free, .lmem, .memories, .paddock, .regs, .report, .threads]
  | .isaAdd _ _ => [.counters, .free, .lmem, .memories, .paddock, .regs, .report, .teams, .threads]
  | .isaSub _ _ => [.counters, .free, .lmem, .memories, .paddock, .regs, .report, .teams, .threads]
  | .isaAnd _ _ => [.counters, .free, .lmem, .memories, .paddock, .regs, .report, .teams, .threads]
  | .isaOr _ _ => [.counters, .free, .lmem, .memories, .paddock, .regs, .report, .teams, .threads]
  | .isaXor _ _ => [.counters, .free, .lmem, .memories, .paddock, .regs, .report, .teams, .threads]
  | .isaShl _ _ => [.counters, .free, .lmem, .memories, .paddock, .regs, .report, .teams, .threads]
  | .isaShr _ _ => [.counters, .free, .lmem, .memories, .paddock, .regs, .report, .teams, .threads]
  | .isaSra _ _ => [.counters, .free, .lmem, .memories, .paddock, .regs, .report, .teams, .threads]
  | .isaMul _ _ => [.counters, .free, .lmem, .memories, .paddock, .regs, .report, .teams, .threads]
  | .isaMulhu _ _ => [.counters, .free, .lmem, .memories, .paddock, .regs, .report, .teams, .threads]
  | .isaSlt _ _ => [.counters, .free, .lmem, .memories, .paddock, .regs, .report, .teams, .threads]
  | .isaSltu _ _ => [.counters, .free, .lmem, .memories, .paddock, .regs, .report, .teams, .threads]
  | .isaRotr _ _ => [.counters, .free, .lmem, .memories, .paddock, .regs, .report, .teams, .threads]
  | .isaClz _ _ => [.counters, .free, .lmem, .memories, .paddock, .regs, .report, .teams, .threads]
  | .isaPopc _ _ => [.counters, .free, .lmem, .memories, .paddock, .regs, .report, .teams, .threads]
  | .isaBswap _ _ => [.counters, .free, .lmem, .memories, .paddock, .regs, .report, .teams, .threads]
  | .isaAddi _ _ => [.counters, .free, .lmem, .memories, .paddock, .regs, .report, .teams, .threads]
  | .isaAndi _ _ => [.counters, .free, .lmem, .memories, .paddock, .regs, .report, .teams, .threads]
  | .isaOri _ _ => [.counters, .free, .lmem, .memories, .paddock, .regs, .report, .teams, .threads]
  | .isaXori _ _ => [.counters, .free, .lmem, .memories, .paddock, .regs, .report, .teams, .threads]
  | .isaShiftImmediate _ _ => [.counters, .free, .lmem, .memories, .paddock, .regs, .report, .teams, .threads]
  | .isaLui _ _ => [.counters, .free, .lmem, .memories, .paddock, .regs, .report, .teams, .threads]
  | .isaExtu _ _ => [.counters, .free, .lmem, .memories, .paddock, .regs, .report, .teams, .threads]
  | .isaExts _ _ => [.counters, .free, .lmem, .memories, .paddock, .regs, .report, .teams, .threads]
  | .isaIns _ _ => [.counters, .free, .lmem, .memories, .paddock, .regs, .report, .teams, .threads]
  | .isaLb _ _ => [.counters, .free, .lmem, .memories, .paddock, .regs, .report, .teams, .threads]
  | .isaLh _ _ => [.counters, .free, .lmem, .memories, .paddock, .regs, .report, .teams, .threads]
  | .isaLw _ _ => [.counters, .free, .link, .lmem, .memories, .paddock, .regs, .report, .shadows, .teams, .threads, .time]
  | .isaLd _ _ => [.counters, .free, .lmem, .memories, .paddock, .regs, .report, .teams, .threads]
  | .isaLbs _ _ => [.counters, .free, .lmem, .memories, .paddock, .regs, .report, .teams, .threads]
  | .isaLhs _ _ => [.counters, .free, .lmem, .memories, .paddock, .regs, .report, .teams, .threads]
  | .isaLws _ _ => [.counters, .free, .lmem, .memories, .paddock, .regs, .report, .teams, .threads]
  | .isaSb _ _ => [.counters, .free, .lmem, .memories, .paddock, .regs, .report, .smem, .teams, .threads]
  | .isaSh _ _ => [.counters, .free, .lmem, .memories, .paddock, .regs, .report, .smem, .teams, .threads]
  | .isaSw _ _ => [.capture, .circuits, .classifier, .client, .counters, .dispatch, .dram, .farrier, .free, .gates, .istore, .keys, .link, .lmem, .memories, .paddock, .pairing, .pairs, .power, .rd, .regions, .regs, .report, .resets, .rings, .sched, .shadows, .smem, .teams, .threads, .time, .xings, .line .a, .line .b]
  | .isaSd _ _ => [.counters, .free, .lmem, .memories, .paddock, .regs, .report, .smem, .teams, .threads]
  | .isaLhbe _ _ => [.counters, .free, .lmem, .memories, .paddock, .regs, .report, .teams, .threads]
  | .isaLwbe _ _ => [.counters, .free, .lmem, .memories, .paddock, .regs, .report, .teams, .threads]
  | .isaLdbe _ _ => [.counters, .free, .lmem, .memories, .paddock, .regs, .report, .teams, .threads]
  | .isaShbe _ _ => [.counters, .free, .lmem, .memories, .paddock, .regs, .report, .smem, .teams, .threads]
  | .isaSwbe _ _ => [.counters, .free, .lmem, .memories, .paddock, .regs, .report, .smem, .teams, .threads]
  | .isaSdbe _ _ => [.counters, .free, .lmem, .memories, .paddock, .regs, .report, .smem, .teams, .threads]
  | .isaAmoAdd _ _ => [.counters, .free, .lmem, .memories, .paddock, .regs, .report, .smem, .teams, .threads]
  | .isaAmoSwap _ _ => [.counters, .free, .lmem, .memories, .paddock, .regs, .report, .smem, .teams, .threads]
  | .isaAmoCas _ _ => [.counters, .free, .lmem, .memories, .paddock, .regs, .report, .smem, .teams, .threads]
  | .isaBeq _ _ => [.counters, .free, .lmem, .memories, .paddock, .regs, .report, .teams, .threads]
  | .isaBne _ _ => [.counters, .free, .lmem, .memories, .paddock, .regs, .report, .teams, .threads]
  | .isaBlt _ _ => [.counters, .free, .lmem, .memories, .paddock, .regs, .report, .teams, .threads]
  | .isaBge _ _ => [.counters, .free, .lmem, .memories, .paddock, .regs, .report, .teams, .threads]
  | .isaBltu _ _ => [.counters, .free, .lmem, .memories, .paddock, .regs, .report, .teams, .threads]
  | .isaBgeu _ _ => [.counters, .free, .lmem, .memories, .paddock, .regs, .report, .teams, .threads]
  | .isaJal _ _ => [.counters, .free, .lmem, .memories, .paddock, .regs, .report, .teams, .threads]
  | .isaJalr _ _ => [.counters, .free, .lmem, .memories, .paddock, .regs, .report, .teams, .threads]
  | .isaSrd _ _ => [.counters, .free, .lmem, .memories, .paddock, .regs, .report, .teams, .threads]
  | .isaYield _ _ => [.counters, .free, .lmem, .memories, .paddock, .regs, .report, .teams, .threads]
  | .isaDone _ _ => [.counters, .free, .lmem, .memories, .paddock, .regs, .report, .teams, .threads]
  | .isaFence _ _ => [.counters, .free, .lmem, .memories, .paddock, .regs, .report, .teams, .threads]
  | .isaTrap _ _ => [.counters, .free, .lmem, .memories, .paddock, .regs, .report, .teams, .threads]
  | .callClsLookup _ _ => [.classifier, .counters, .free, .lmem, .memories, .paddock, .regs, .report, .teams, .threads]
  | .callHash _ _ => [.counters, .free, .lmem, .memories, .paddock, .regs, .report, .teams, .threads]
  | .callPolice _ _ => [.counters, .free, .lmem, .memories, .paddock, .regs, .report, .sched, .teams, .threads]
  | .callCount _ _ => [.counters, .free, .lmem, .memories, .paddock, .pairs, .regs, .report, .teams, .threads]
  | .callEnq _ _ => [.counters, .free, .lmem, .memories, .paddock, .regs, .report, .sched, .teams, .threads]
  | .callTime _ _ => [.counters, .free, .lmem, .memories, .paddock, .regs, .report, .teams, .threads]
  | .callCsum _ _ => [.counters, .free, .lmem, .memories, .paddock, .regs, .report, .teams, .threads]
  | .callCmac _ _ => [.counters, .free, .keys, .lmem, .memories, .paddock, .regs, .report, .rings, .teams, .threads]
  | .callRecirc _ _ => [.counters, .free, .lmem, .memories, .paddock, .pairing, .regs, .report, .teams, .threads]
  | .callFrd _ _ => [.counters, .free, .lmem, .memories, .paddock, .regs, .report, .smem, .teams, .threads]
  | .callFwr _ _ => [.counters, .free, .lmem, .memories, .paddock, .regs, .report, .sched, .teams, .threads]
  | .callDrop _ _ => [.counters, .free, .lmem, .memories, .paddock, .regs, .report, .teams, .threads]
  | .watchdogExpire _ => [.counters, .memories, .paddock, .regs, .report, .teams, .threads]
  | .expressBudgetExceeded _ => [.counters, .lmem, .regs, .report, .threads]
  | .courserQuarantine _ _ _ => [.counters, .free, .lmem, .memories, .paddock, .regs, .report, .resets, .teams, .threads, .line .a, .line .b]
  | .teamReset _ => [.counters, .free, .lmem, .memories, .paddock, .regs, .report, .resets, .teams, .threads, .line .a, .line .b]
  | .samplerRestart _ _ _ => [.counters, .regs, .report]
  | .teamDrain _ _ => [.counters, .regs, .report, .teams]
  | .teamDrainDone _ => [.regs, .teams]
  | .teamLoad _ _ => [.counters, .istore, .lmem, .regs, .report, .smem]
  | .teamLoadEnd _ _ _ => [.counters, .free, .istore, .lmem, .regs, .report, .smem, .teams]
  | .teamRun _ _ => [.counters, .regs, .report, .teams, .threads]
  | .teamInitDone _ => [.regs, .teams]
  | .loadCmdMulti _ _ _ => [.counters, .istore, .lmem, .regs, .report, .smem, .teams, .threads]
  | .schedulerSelect _ => [.counters, .memories, .paddock, .regs, .report, .sched, .xings]
  | .spillReadbackDone _ _ => [.counters, .free, .memories, .paddock, .regs, .report, .sched]
  | .queueConfigWrite _ _ _ _ => [.counters, .regs, .report]
  | .bucketConfigWrite _ _ _ => [.counters, .regs, .report, .sched]
  | .gateCommit _ _ _ => [.counters, .gates, .regs, .report, .time]
  | .gateEntryAdvance _ => [.gates]
  | .queueSampleSweep _ => [.capture, .counters, .paddock, .regs, .report, .sched]
  | .todApply _ _ _ => [.counters, .regs, .report, .time]
  | .todHeldCompute _ => [.counters, .regs, .report, .time]
  | .todSet _ _ => [.counters, .regs, .report, .time]
  | .timeSourceWrite _ _ => [.counters, .free, .pairing, .regs, .report, .time]
  | .todMessageTimeout => [.counters, .free, .regs, .report, .time]
  | .extPpsMissing => [.counters, .free, .regs, .report, .time]
  | .secondTick => [.regs, .time]
  | .todNsRead _ => [.counters, .free, .link, .rd, .regs, .report, .shadows, .time]
  | .tsqPop _ _ => [.counters, .free, .link, .rd, .regs, .report, .shadows, .time]
  | .ppsEnable _ _ _ => [.counters, .regs, .report, .time]
  | .ppsEdge _ => [.free, .time]
  | .eventCaptureEnable _ _ _ => [.counters, .regs, .report]
  | .eventCaptureEdge _ _ _ => [.counters, .regs, .report, .time]
  | .captureQueuePop _ _ => [.counters, .free, .link, .rd, .regs, .report, .shadows, .time]
  | .comparatorArm _ _ _ => [.counters, .regs, .report, .time]
  | .comparatorFire _ => [.capture, .counters, .gates, .regs, .report, .time]
  | .clientLayoutWrite _ _ => [.counters, .regs, .report]
  | .portEnable _ _ _ => [.client, .counters, .memories, .paddock, .regs, .report, .sched, .time, .xings]
  | .portDisable _ _ _ _ _ _ => [.client, .counters, .memories, .paddock, .regs, .report, .sched, .time, .xings]
  | .linkUp _ _ _ => [.client, .counters, .regs, .report]
  | .linkDown _ _ _ _ _ _ _ => [.client, .counters, .memories, .paddock, .regs, .report, .sched, .time, .xings]
  | .clientFrameReceive _ _ _ _ _ _ _ _ => [.client, .counters, .regs, .report, .sched, .time, .xings]
  | .ucastCommit _ _ _ _ => [.client, .counters, .regs, .report]
  | .clientFrameTransmit _ _ => [.client, .counters, .free, .gates, .memories, .paddock, .regs, .report, .time, .xings]
  | .pmpEnable _ _ _ => [.client, .counters, .regs, .report]
  | .verifyTimeout _ => [.client, .counters, .regs, .report]
  | .busMasterChange _ _ => [.circuits, .counters, .free, .link, .memories, .paddock, .regs, .report, .rings, .xings]
  | .coldPowerUp => [.capture, .circuits, .classifier, .client, .counters, .dispatch, .dram, .farrier, .gates, .istore, .keys, .link, .lmem, .memories, .paddock, .pairing, .pairs, .power, .rd, .regions, .regs, .report, .resets, .rings, .sched, .shadows, .smem, .teams, .threads, .tick, .time, .xings, .line .a, .line .b]
  | .warmReset _ _ => [.capture, .circuits, .classifier, .client, .counters, .dispatch, .dram, .farrier, .gates, .istore, .keys, .lmem, .memories, .paddock, .pairing, .pairs, .power, .rd, .regions, .regs, .report, .resets, .rings, .sched, .shadows, .smem, .teams, .threads, .time, .xings, .line .a, .line .b]
  | .hostReset _ _ => [.circuits, .counters, .free, .link, .memories, .paddock, .regs, .report, .rings, .xings]
  | .resetEnd => [.regs, .xings]
  | .ringEnable _ _ _ => [.counters, .regs, .report, .rings]
  | .ringDisable _ _ _ => [.counters, .regs, .report, .rings]
  | .ringDisableDone _ _ => [.counters, .free, .regs, .report, .rings]
  | .doorbell _ _ _ _ => [.counters, .regs, .report, .rings]
  | .txDescriptor _ _ _ _ => [.counters, .regs, .report, .rings, .xings]
  | .hostQueueDeliver _ _ _ => [.counters, .free, .memories, .paddock, .regs, .report, .rings, .xings]
  | .descriptorFetchError _ _ => [.counters, .regs, .report]
  | .jobNop _ _ => [.counters, .regs, .report, .rings]
  | .scrubJob _ _ => [.counters, .regs, .report, .rings]
  | .scrubJobEnd _ _ => [.counters, .dram, .free, .memories, .pairing, .regs, .report, .rings, .sched]
  | .checkScanJob _ _ => [.counters, .regs, .report, .rings]
  | .checkScanEnd _ _ _ _ => [.counters, .dram, .free, .memories, .regs, .report, .rings]
  | .cmacJob _ _ => [.counters, .regs, .report, .rings]
  | .cmacDone _ _ => [.counters, .keys, .regs, .report, .rings, .threads]
  | .unwrapJob _ _ => [.counters, .regs, .report, .rings]
  | .unwrapDone _ _ _ => [.counters, .keys, .regs, .report, .rings]
  | .eventRingEnable _ _ => [.counters, .regs, .report]
  | .eventRingDisable _ _ => [.counters, .regs, .report]
  | .eventRingCiWrite _ _ => [.counters, .regs, .report]
  | .eventRaise _ _ _ _ _ => [.counters, .link, .regs, .report]
  | .msixHoldoffExpire _ => [.counters, .regs, .report]
  | .msixUnmask _ => [.counters, .regs, .report]
  | .pcieLinkChange _ _ _ => [.counters, .regs, .report]
  | .dramChannelEnable _ _ _ => [.capture, .counters, .dram, .free, .memories, .paddock, .pairing, .regs, .report, .rings, .sched]
  | .dramTrainingEnd _ _ => [.counters, .free, .memories, .regs, .report, .sched]
  | .dramChannelDown _ => [.capture, .counters, .dram, .free, .memories, .paddock, .pairing, .regs, .report, .rings, .sched]
  | .spillAreaWrite _ _ _ => [.counters, .regs, .report]
  | .eccWriteBack _ _ _ _ _ _ _ _ => [.counters, .dram, .memories, .regs, .report]
  | .remapEntryWrite _ _ _ _ => [.counters, .dram, .memories, .regs, .report]
  | .spareEntryWrite _ _ _ _ => [.counters, .dram, .memories, .regs, .report]
  | .memModeWrite _ _ _ => [.capture, .counters, .dram, .free, .memories, .paddock, .pairing, .regs, .report, .rings, .sched]
  | .flipArm _ _ => [.counters, .regs, .report]
  | .keyLoad _ _ _ => [.counters, .keys, .regs, .report]
  | .keyErase _ _ => [.counters, .keys, .regs, .report]
  | .forceErase _ _ => [.counters, .keys, .regs, .report, .rings, .sched, .threads, .line .a, .line .b]
  | .unwrapStart _ _ => [.counters, .keys, .regs, .report]
  | .keySwitchArm _ _ _ => [.counters, .keys, .regs, .report]
  | .entropyHealthFail _ _ => [.counters, .regs, .report]
  | .entropyRestart _ _ => [.counters, .regs, .report]
  | .checkFeed _ _ _ => [.counters, .regs, .report]
  | .checkScanStart _ _ _ => [.counters, .regs, .report, .rings]
  | .railFail _ _ _ => [.capture, .circuits, .classifier, .client, .counters, .dispatch, .dram, .farrier, .free, .gates, .istore, .keys, .lmem, .memories, .paddock, .pairing, .pairs, .power, .regions, .regs, .report, .resets, .rings, .sched, .smem, .teams, .threads, .time, .xings, .line .a, .line .b]
  | .powerRetry _ => [.capture, .circuits, .classifier, .client, .counters, .dispatch, .dram, .farrier, .free, .gates, .istore, .keys, .lmem, .memories, .paddock, .pairing, .pairs, .power, .regions, .regs, .report, .resets, .rings, .sched, .smem, .teams, .threads, .time, .xings, .line .a, .line .b]
  | .powerGoodLost _ => [.counters, .power, .regs, .report, .resets, .line .a, .line .b]
  | .pllLockLost _ => [.capture, .circuits, .classifier, .client, .counters, .dispatch, .dram, .farrier, .free, .gates, .istore, .keys, .lmem, .memories, .paddock, .pairing, .pairs, .power, .regions, .regs, .report, .resets, .rings, .sched, .smem, .teams, .threads, .time, .xings, .line .a, .line .b]
  | .powerSleep _ _ _ => [.counters, .power, .regs, .report]
  | .powerDoze _ _ _ => [.counters, .power, .regs, .report]
  | .powerListen _ _ _ => [.counters, .power, .regs, .report]
  | .powerRun _ _ _ => [.counters, .power, .regs, .report]
  | .powerTransitionEnd _ => [.capture, .circuits, .classifier, .client, .counters, .dispatch, .dram, .farrier, .free, .gates, .istore, .keys, .link, .lmem, .memories, .paddock, .pairing, .pairs, .power, .regions, .regs, .report, .resets, .rings, .sched, .smem, .teams, .threads, .tick, .time, .xings, .line .a, .line .b]
  | .runMaskWrite _ _ _ => [.capture, .circuits, .classifier, .client, .counters, .dispatch, .dram, .farrier, .free, .gates, .istore, .keys, .lmem, .memories, .paddock, .pairing, .pairs, .power, .regions, .regs, .report, .resets, .rings, .sched, .smem, .teams, .threads, .time, .xings, .line .a, .line .b]
  | .pwrWake _ _ _ _ => [.capture, .circuits, .classifier, .client, .counters, .dispatch, .dram, .farrier, .free, .gates, .istore, .keys, .lmem, .memories, .paddock, .pairing, .pairs, .power, .regions, .regs, .report, .resets, .rings, .sched, .smem, .teams, .threads, .time, .xings, .line .a, .line .b]
  | .dozeWindowOpen => [.counters, .memories, .power, .regions, .regs, .report, .xings]
  | .dozeWindowClose => [.capture, .circuits, .counters, .memories, .paddock, .pairing, .power, .regions, .regs, .report, .time, .xings, .line .a, .line .b]
  | .wakeTimerExpire _ => [.capture, .circuits, .classifier, .client, .counters, .dispatch, .dram, .farrier, .free, .gates, .istore, .keys, .lmem, .memories, .paddock, .pairing, .pairs, .power, .regions, .regs, .report, .resets, .rings, .sched, .smem, .teams, .threads, .time, .xings, .line .a, .line .b]
  | .vcoreSet _ _ => [.counters, .power, .regs, .report]
  | .vcoreVerifyTimeout => [.counters, .power, .regs, .report]
  | .monitorSample _ _ => [.capture, .circuits, .classifier, .client, .counters, .dispatch, .dram, .farrier, .free, .gates, .istore, .keys, .lmem, .memories, .paddock, .pairing, .pairs, .power, .regs, .report, .resets, .rings, .sched, .smem, .teams, .threads, .time, .xings, .line .a, .line .b]
  | .supplyLossDeclare => [.capture, .circuits, .classifier, .client, .counters, .dispatch, .dram, .farrier, .free, .gates, .istore, .keys, .lmem, .memories, .paddock, .pairing, .pairs, .power, .regs, .report, .resets, .rings, .sched, .smem, .teams, .threads, .time, .xings, .line .a, .line .b]
  | .dgHoldExpire => [.capture, .circuits, .classifier, .client, .counters, .dispatch, .dram, .farrier, .free, .gates, .istore, .keys, .lmem, .memories, .paddock, .pairing, .pairs, .power, .regions, .regs, .report, .resets, .rings, .sched, .smem, .teams, .threads, .time, .xings, .line .a, .line .b]
  | .energyCheck _ => [.counters, .power, .regs, .report]
  | .stateSaveEnd _ => [.counters, .power, .regs, .report]
  | .pfailRelease => [.capture, .circuits, .classifier, .client, .counters, .dispatch, .dram, .farrier, .gates, .istore, .keys, .link, .lmem, .memories, .paddock, .pairing, .pairs, .power, .rd, .regions, .regs, .report, .resets, .rings, .sched, .shadows, .smem, .teams, .threads, .tick, .time, .xings, .line .a, .line .b]
  | .groomImageLoad _ _ => [.counters, .power, .regs, .report]
  | .groomImageLoadEnd _ _ => [.counters, .free, .power, .regs, .report]
  | .captureEnable _ _ => [.capture, .counters, .regs, .report]
  | .captureRecordWrite => [.capture, .counters, .dram, .memories, .paddock, .regs, .report]
  | .captureCopyStale => [.capture, .counters, .memories, .paddock, .regs, .report]
  | .captureResume _ _ => [.capture, .counters, .regs, .report]
  | .captureReadoutStart _ _ => [.capture, .counters, .regs, .report]
  | .captureReadoutEnd _ => [.counters, .dram, .free, .memories, .regs, .report]
  | .stbNow _ _ => [.capture, .counters, .regs, .report]
  | .snapshotPeriod => [.capture, .counters, .regs, .report]
  | .snapshotWriteEnd _ _ => [.capture, .counters, .regs, .report, .rings]
  | .studbookComparatorArm _ _ => [.counters, .regs, .report, .time]
  | .userPageWrite _ _ => [.counters, .regs, .report]
  | .farrierStart _ _ _ _ => [.counters, .farrier, .free, .keys, .regs, .report, .rings, .sched, .threads, .line .a, .line .b]
  | .farrierTeamIdle _ _ => [.counters, .farrier, .free, .keys, .regs, .report, .rings, .sched, .threads, .line .a, .line .b]
  | .logicBistDone _ => [.farrier, .regs]
  | .memoryBistDone _ _ => [.capture, .circuits, .classifier, .client, .counters, .dispatch, .dram, .farrier, .free, .gates, .istore, .keys, .lmem, .memories, .paddock, .pairing, .pairs, .regs, .report, .resets, .rings, .sched, .smem, .teams, .threads, .time, .xings, .line .a, .line .b]
  | .farrierRestoreDone => [.counters, .farrier, .istore, .lmem, .memories, .paddock, .regs, .report, .smem, .threads]
  | .fuseBurn _ _ => [.counters, .regs, .report]
  | .fuseBurnEnd => [.power, .regs, .report]
  | .harnessRowReceive _ _ => [.circuits, .counters, .free, .regs, .report]
  | .pllLockReturn _ => [.counters, .memories, .power, .regions, .regs, .report]
  | .vddAonLoss => [.capture, .circuits, .classifier, .client, .counters, .dispatch, .dram, .farrier, .gates, .istore, .keys, .link, .lmem, .memories, .paddock, .pairing, .pairs, .power, .rd, .regions, .regs, .report, .resets, .rings, .sched, .shadows, .smem, .teams, .threads, .tick, .time, .xings, .line .a, .line .b]
  | .registerRead _ _ _ => [.counters, .free, .link, .rd, .regs, .report, .shadows, .time]
  | .todSlewEnd => [.regs]

/-! ### Words of the statements -/

/-- A requester's register access at `a` reaches its block: the requester has power, no warm reset holds the block off, and the
block's region is up (R318, R320, R387). -/
abbrev Reach (s : State) (q : Req) (a : Nat) : Prop :=
  s.reqUp q = true ∧ (s.warmBusy && decide (0x8000 ≤ a)) = false ∧ s.unavailable a = none

/-- STATE of a team, and the result a load command leaves (R235, R238). -/
def LoadResult (s t : State) (n v r : Nat) : Prop :=
  t.f F.CRS_LOAD_STAT_RESULT (0x10000 * n) = r ∧ t.flag F.CRS_LOAD_STAT_DONE (0x10000 * n) = true ∧
    t.teamState n = v ∧ ∀ m, m < 16 → m ≠ n → t.teamState m = s.teamState m

/-- BAR0 ranges (side A's for the lines) whose registers do more at a write than R9's access codes say: commands, enables, owned
registers and windows. -/
def ownRanges : List (Nat × Nat) := [
  (0x10, 0x14), (0x40, 0x44), (0x9000, 0xA000), (0xA400, 0xA500), (0xD000, 0xD400), (0x100000, 0x100018), (0x101014, 0x101018),
  (0x200000, 0x200004), (0x200008, 0x20000C), (0x200024, 0x200028), (0x200048, 0x20004C), (0x200210, 0x200214),
  (0x200400, 0x200480), (0x201000, 0x202000), (0x400000, 0x400008), (0x400010, 0x400014), (0x400020, 0x400048),
  (0x400084, 0x400088), (0x400090, 0x4000AC), (0x4000D0, 0x4000D8), (0x401030, 0x401034), (0x402000, 0x406000),
  (0x406004, 0x40600C), (0x406020, 0x406024), (0x406040, 0x406144), (0x406184, 0x40618C), (0x407000, 0x407800),
  (0x800000, 0x800008), (0x900004, 0x900008), (0x910000, 0x930000), (0x980000, 0x980008), (0x980040, 0x980044),
  (0xA00000, 0xA00004), (0xA00100, 0xA00200), (0xA00290, 0xA00294), (0xA00300, 0xA00304), (0xC00000, 0xD00000),
  (0xE20000, 0xE38800), (0xE50000, 0xE82110), (0xE90000, 0xE94100), (0xEA0000, 0xEA2000), (0x1000000, 0x1000004),
  (0x100000C, 0x1000010), (0x1000100, 0x1000140), (0x1000200, 0x1000204), (0x1000210, 0x1000214),
  (0x1000240, 0x1000244), (0x1000260, 0x1000264), (0x1000300, 0x1000380), (0x1100000, 0x1100004),
  (0x1110000, 0x1118000), (0x1200000, 0x1200004), (0x1200010, 0x1200020), (0x1200040, 0x120004C),
  (0x1200068, 0x120006C), (0x1200078, 0x120007C), (0x1200090, 0x12000A0), (0x1201000, 0x1203000),
  (0x1300004, 0x1300008), (0x1300010, 0x130006C), (0x1300200, 0x130021C), (0x1308000, 0x1308400),
  (0x1310000, 0x1320000), (0x1400000, 0x1400014), (0x1400094, 0x1400098), (0x1401000, 0x1401018),
  (0x1500004, 0x1500008), (0x1500100, 0x1500180), (0x1500200, 0x1500204), (0x1600140, 0x16003C0)]

/-- A write of the register at `a` does more than R9's access codes say. -/
def ownWrite (a : Nat) : Bool := ownRanges.any fun r => decide (r.1 ≤ canonAddr a) && decide (canonAddr a < r.2)

/-- The circuits and Harness registers are absent from the grade without the Harness link (R2). -/
abbrev HarAbsent (s : State) (a : Nat) : Prop := s.grade = .fbx ∧ 0x900000 ≤ a ∧ a < 0xA00000

/-- The registers of a client port that the mode does not have (R293). -/
abbrev PortAbsent (s : State) (a : Nat) : Prop :=
  0x1110000 ≤ a ∧ a < 0x1118000 ∧ s.portIs ((a - 0x1110000) / 0x1000) = false

/-- The register at `a` reads as its stored word: it is no half of a 64-bit pair, no counter, no queue, no shadow and no word
that another part of the machine gives. -/
structure StoredRead (s : State) (q : Req) (a : Nat) : Prop where
  width : cntWidth a ≠ 32
  pair : s.pairValue q a = none
  half : 4 ≤ a → s.pairValue q (a - 4) = none
  own : a ≠ 0x1000018 ∧ a ≠ 0x1000028 ∧ a ≠ 0xA00304 ∧ (a = 0x200020 → s.pwr.pgOut = 0)
  pop : State.popQueue a = none
  bank : State.pmWord a = none
  live : s.liveWord q a = none

/-- The word a plain register access of requester `q` meets (R9, R36): a bank of its own, or the common word. -/
def wordKey (r : RegRow) (q : Req) (a : Nat) : Nat := if r.bank then bankKey q a else a

/-- Thread `id` runs and its Courser picks it (R208), its next word is `w`, which spells `op`; the word and what it reads are
correctable, no limit of R228 or R232 is due, no macro group of its team is held in reset, and the team's sampler is off. -/
structure Issues (s : State) (id : Tid) (e : IsaFact) (op : IsaOp) (w : Nat) : Prop where
  busy : (s.thread (tidKey id)).busy = true
  turn : s.turnOf (tidKey id / 8) = some (tidKey id % 8)
  up : s.regionUp 2 = true
  free : s.groupHeld (64 + 2 * id.team.val) = false ∧ s.groupHeld (65 + 2 * id.team.val) = false
  low : istoreBase ≤ (s.thread (tidKey id)).pc
  high : (s.thread (tidKey id)).pc < istoreBase + istoreSize
  word : (s.istoreWord id.team.val (s.threadIndex (tidKey id))).toNat = w
  spells : isaDecode w = some op
  correctable : e.unc = false
  watchdog : s.wdogDue (tidKey id) = false
  budget : s.budgetDue (tidKey id) = false
  sampler : s.flag F.CRS_SAMP_CFG_EN (0x10000 * id.team.val) = false

/-- `t` is `s` after one instruction of thread `id` that leaves it at `pc`: its step count and the team's STEPS counter have
gone up by one, the thread is ready again `held` steps after the next one and its Courser's round robin has passed it (R208),
CRS_TEAM_STAT.BUSY shows the threads that run, and a flip mask that waits for a write of macro group `wrote` is used (R360); of
everything else only its general registers and the bytes of local and shared memory may differ. -/
structure Steps (s t : State) (id : Tid) (pc : Nat) (held : Nat := 0) (wrote : Option Nat := none) : Prop where
  thread : t.thread (tidKey id) =
    { s.thread (tidKey id) with
      g := (t.thread (tidKey id)).g, pc := pc, steps := (s.thread (tidKey id)).steps + 1
      wait := s.turnStep (tidKey id / 8) + 1 + held }
  others : ∀ k, k ≠ tidKey id → t.thread k = s.thread k
  turns : t.turns = (s.turnTake (tidKey id / 8) (tidKey id % 8)).turns
  counters : ∀ a, t.counter a =
    if a = crsCnt id.team.val 1 then (s.counter a + 1) % 2 ^ 64 else s.counter a
  regs : ∀ k, t.reg k = if k = 0xC00004 + 0x10000 * id.team.val then
    F.CRS_TEAM_STAT_BUSY.put (s.reg k) (t.threadsHolding id.team.val)
    else if k = F.MEM_FLIP_CFG_ARM.addr ∧ wrote.any (s.flipArmed true) = true then F.MEM_FLIP_CFG_ARM.put (s.reg k) 0
    else s.reg k
  rest : { t with threads := s.threads, turns := s.turns, regs := s.regs, counters := s.counters, lmem := s.lmem,
                  smem := s.smem } = s

/-- In `t` register `r` of a thread holds `v` (g0 keeps reading 0), and its other general registers what they held in `s`. -/
def Writes (s t : State) (id : Tid) (r : Nat) (v : BitVec 64) : Prop :=
  ∀ j, t.g (tidKey id) j = if j = r ∧ r ≠ 0 then v else s.g (tidKey id) j

/-- Every byte of local and shared memory is as it was. -/
def MemKept (s t : State) : Prop := t.lmem = s.lmem ∧ t.smem = s.smem

/-- A row of OP 0x00 with the result `f RA RB`, at 64 bits or, with W = 1, at 32 bits zero-extended. -/
def AluRow (c : Tid → IsaFact → Instr) (op : IsaOp) (f : (n : Nat) → BitVec n → BitVec n → BitVec n) : Prop :=
  ∀ (s : State) (id : Tid) (e : IsaFact) (w : Nat), Issues s id e op w →
    ∃ t, exec (c id e) s = .next t ∧ Steps s t id ((s.thread (tidKey id)).pc + 4) ∧ MemKept s t ∧
      Writes s t id (isaRd w)
        (if isaW w then (f 32 ((s.g (tidKey id) (isaRa w)).setWidth 32) ((s.g (tidKey id) (isaRb w)).setWidth 32)).setWidth 64
         else f 64 (s.g (tidKey id) (isaRa w)) (s.g (tidKey id) (isaRb w)))

/-- A row whose result is a function of the instruction word, RA and the old RD. -/
def ImmRow (c : Tid → IsaFact → Instr) (op : IsaOp) (f : Nat → BitVec 64 → BitVec 64 → BitVec 64) : Prop :=
  ∀ (s : State) (id : Tid) (e : IsaFact) (w : Nat), Issues s id e op w →
    ∃ t, exec (c id e) s = .next t ∧ Steps s t id ((s.thread (tidKey id)).pc + 4) ∧ MemKept s t ∧
      Writes s t id (isaRd w) (f w (s.g (tidKey id) (isaRa w)) (s.g (tidKey id) (isaRd w)))

/-- Address of a load or store (R220): RA + sext(IMM16), 64 bits. -/
def loadAddr (s : State) (id : Tid) (w : Nat) : Nat := (s.g (tidKey id) (isaRa w) + immS w).toNat

/-- Steps for which an access to an area of the address map keeps its thread from being ready (R208): 3 but for local memory. -/
def areaHold (a : Nat × Nat) : Nat := if a.1 = 0 then 0 else 3

/-- The macro group of an area of local or shared memory (R350). -/
def areaGroup (id : Tid) (a : Nat × Nat) : Nat := 64 + 2 * id.team.val + (if a.1 = 0 then 1 else 0)

/-- A row that loads `n` bytes, whose result is `f` of them, lowest address first. -/
def LoadRow (c : Tid → IsaFact → Instr) (op : IsaOp) (n : Nat) (f : List Byte → BitVec 64) : Prop :=
  ∀ (s : State) (id : Tid) (e : IsaFact) (w : Nat) (a : Nat × Nat), Issues s id e op w →
    thrArea (tidKey id) (loadAddr s id w) n = some a →
    ∃ t, exec (c id e) s = .next t ∧ Steps s t id ((s.thread (tidKey id)).pc + 4) (areaHold a) ∧ MemKept s t ∧
      Writes s t id (isaRd w) (f (s.areaBytes (tidKey id) a n))

/-- A byte of local or shared memory as a thread's address map names it: area 0 local, 1 shared, and the offset. -/
def areaByte (s : State) (id : Tid) (a : Nat × Nat) : Byte := (s.areaBytes (tidKey id) a 1).getD 0 0

/-- A row that stores the `n` bytes `f RD`, lowest address first; HEAD_END bytes of local memory keep their value (R214). -/
def StoreRow (c : Tid → IsaFact → Instr) (op : IsaOp) (n : Nat) (f : Nat → List Byte) : Prop :=
  ∀ (s : State) (id : Tid) (e : IsaFact) (w : Nat) (a : Nat × Nat), Issues s id e op w →
    thrArea (tidKey id) (loadAddr s id w) n = some a → a.1 ≠ 2 →
    ∃ t, exec (c id e) s = .next t ∧
      Steps s t id ((s.thread (tidKey id)).pc + 4) (areaHold a) (some (areaGroup id a)) ∧
      (∀ r, t.g (tidKey id) r = s.g (tidKey id) r) ∧
      (∀ i, i < n → (a.1 = 0 → headEndByte (a.2 + i) = false) →
        areaByte t id (a.1, a.2 + i) = (f (s.g (tidKey id) (isaRd w)).toNat).getD i 0) ∧
      (∀ i, i < n → a.1 = 0 → headEndByte (a.2 + i) = true →
        areaByte t id (a.1, a.2 + i) = areaByte s id (a.1, a.2 + i)) ∧
      (a.1 = 0 → t.smem = s.smem ∧ ∀ k, ¬ ((tidKey id / 8) * 2 ^ 15 + a.2 ≤ k ∧ k < (tidKey id / 8) * 2 ^ 15 + a.2 + n) →
        sget (fun _ => 0) t.lmem k = sget (fun _ => 0) s.lmem k) ∧
      (a.1 = 1 → t.lmem = s.lmem ∧ ∀ k, ¬ (id.team.val * 2 ^ 19 + a.2 ≤ k ∧ k < id.team.val * 2 ^ 19 + a.2 + n) →
        sget (fun _ => 0) t.smem k = sget (fun _ => 0) s.smem k)

/-- A shift of R220 OP 0x05 by its kind: 0 SHL, 1 SHR, 2 SRA, 3 ROTR. -/
def shiftKind (kind : Nat) {n : Nat} (x : BitVec n) (k : Nat) : BitVec n :=
  if kind = 0 then x <<< k else if kind = 1 then x >>> k else if kind = 2 then x.sshiftRight k else x.rotateRight k

/-- An atomic of R220 OP 0x1C: memory becomes `f old RB RD`, RD the old value; aligned words of shared memory only (R211). -/
def AmoRow (c : Tid → IsaFact → Instr) (op : IsaOp) (f : BitVec 64 → BitVec 64 → BitVec 64 → BitVec 64) : Prop :=
  ∀ (s : State) (id : Tid) (e : IsaFact) (w a : Nat), Issues s id e op w →
    (s.g (tidKey id) (isaRa w)).toNat = 0x100000 + a → a + 8 ≤ 0x80000 → a % 8 = 0 →
    ∃ t, exec (c id e) s = .next t ∧
      Steps s t id ((s.thread (tidKey id)).pc + 4) 3 (some (64 + 2 * id.team.val)) ∧ t.lmem = s.lmem ∧
      Writes s t id (isaRd w) (BitVec.ofNat 64 (leNat (s.smemBytes id.team.val a 8))) ∧
      t.smemBytes id.team.val a 8 = leBytes 8 (f (BitVec.ofNat 64 (leNat (s.smemBytes id.team.val a 8)))
        (s.g (tidKey id) (isaRb w)) (s.g (tidKey id) (isaRd w))).toNat ∧
      ∀ k, ¬ (id.team.val * 2 ^ 19 + a ≤ k ∧ k < id.team.val * 2 ^ 19 + a + 8) →
        sget (fun _ => 0) t.smem k = sget (fun _ => 0) s.smem k

/-- A branch of R220: bits [25:21] against bits [20:16], to the address of the branch plus 4 × sext(OFF16). -/
def BranchRow (c : Tid → IsaFact → Instr) (op : IsaOp) (p : BitVec 64 → BitVec 64 → Prop) : Prop :=
  ∀ (s : State) (id : Tid) (e : IsaFact) (w : Nat), Issues s id e op w →
    ∃ t, exec (c id e) s = .next t ∧ MemKept s t ∧ (∀ r, t.g (tidKey id) r = s.g (tidKey id) r) ∧
      (p (s.g (tidKey id) (isaRd w)) (s.g (tidKey id) (isaRa w)) →
        Steps s t id (BitVec.ofNat 64 (s.thread (tidKey id)).pc + (sext64 16 (isaImm w)) <<< 2).toNat) ∧
      (¬ p (s.g (tidKey id) (isaRd w)) (s.g (tidKey id) (isaRa w)) → Steps s t id ((s.thread (tidKey id)).pc + 4))

/-- An instruction that only issues: nothing but the step count, STEPS, the pc and the `held` steps its thread is not ready. -/
def IdleRow (c : Tid → IsaFact → Instr) (op : IsaOp) (held : Nat) : Prop :=
  ∀ (s : State) (id : Tid) (e : IsaFact) (w : Nat), Issues s id e op w →
    ∃ t, exec (c id e) s = .next t ∧ Steps s t id ((s.thread (tidKey id)).pc + 4) held ∧ MemKept s t ∧
      ∀ r, t.g (tidKey id) r = s.g (tidKey id) r

/-- Thread `id` has faulted with a cause, an address and a trap code, and the team's fault record, clear before, shows it
(R232). -/
structure Faulted (s t : State) (id : Tid) (cause addr trap : Nat) : Prop where
  idle : (t.thread (tidKey id)).busy = false
  others : ∀ k, k ≠ tidKey id → t.thread k = s.thread k
  valid : t.flag F.CRS_TFLT_INFO_VALID (0x10000 * id.team.val) = true
  cause : t.f F.CRS_TFLT_INFO_CAUSE (0x10000 * id.team.val) = cause
  courser : t.f F.CRS_TFLT_INFO_COURSER (0x10000 * id.team.val) = id.courser.val
  thread : t.f F.CRS_TFLT_INFO_THREAD (0x10000 * id.team.val) = id.thread.val
  trap : t.f F.CRS_TFLT_INFO_TRAP (0x10000 * id.team.val) = trap
  index : t.f F.CRS_TFLT_INFO_INDEX (0x10000 * id.team.val) = s.threadIndex (tidKey id)
  address : t.reg (0xC00064 + 0x10000 * id.team.val) = BitVec.ofNat 32 addr
  memory : MemKept s t

/-- The fault record of the team is clear and its INIT program does not run on the thread. -/
def FaultClear (s : State) (id : Tid) : Prop :=
  (s.thread (tidKey id)).init = false ∧ s.flag F.CRS_TFLT_INFO_VALID (0x10000 * id.team.val) = false

/-- A row whose access of `n` bytes at an address the map does not have, or may not be used so, is an ADDR fault with that
address; `win` says that the row may use the register window. -/
def AddrRow (c : Tid → IsaFact → Instr) (op : IsaOp) (n : Nat) (store win : Bool) : Prop :=
  ∀ (s : State) (id : Tid) (e : IsaFact) (w : Nat), Issues s id e op w → FaultClear s id →
    (win = true → inWindow (loadAddr s id w) = false) →
    (thrArea (tidKey id) (loadAddr s id w) n = none ∨
      store = true ∧ (thrArea (tidKey id) (loadAddr s id w) n).map Prod.fst = some 2) →
    ∃ t, exec (c id e) s = .next t ∧ Faulted s t id 2 (loadAddr s id w) 0

/-- An atomic at an address that is no aligned word of shared memory is an ADDR fault (R211). -/
def AmoFault (c : Tid → IsaFact → Instr) (op : IsaOp) : Prop :=
  ∀ (s : State) (id : Tid) (e : IsaFact) (w a : Nat), Issues s id e op w → FaultClear s id →
    (s.g (tidKey id) (isaRa w)).toNat = a → (a < 0x100000 ∨ 0x180000 < a + 8 ∨ a % 8 ≠ 0) →
    ∃ t, exec (c id e) s = .next t ∧ Faulted s t id 2 a 0

/-- After a call (R222): RD holds the status, RD + 1 and RD + 2 the results there are (a write to g0 is lost), and the other
general registers what they held. -/
def CallRegs (s t : State) (id : Tid) (w status : Nat) (res : List (BitVec 64)) : Prop :=
  ∀ j, t.g (tidKey id) j =
    if j = 0 then 0 else if j = isaRd w then BitVec.ofNat 64 status
    else if j = isaRd w + 1 ∧ 1 ≤ res.length then res.getD 0 0
    else if j = isaRd w + 2 ∧ 2 ≤ res.length then res.getD 1 0 else s.g (tidKey id) j

/-- Argument `i` of a call: register RA + i. -/
def callArg (s : State) (id : Tid) (w i : Nat) : Nat := (s.g (tidKey id) (isaRa w + i)).toNat

/-- Arguments of an ENQ whose launch tick lies 2^33 ticks or more, and less than 2^63, ahead of the present (R287). -/
def launchFar (s : State) (a launch : Nat) : Bool :=
  bitOf a 19 && decide (2 ^ 33 ≤ (launch + 2 ^ 64 - s.tick) % 2 ^ 64 ∧ (launch + 2 ^ 64 - s.tick) % 2 ^ 64 < 2 ^ 63)

/-- From `s` to `t` ring `r` writes one completion (R329): its count of completed descriptors and COMPLETIONS go up by one. -/
def Completed (s t : State) (r : Nat) : Prop :=
  (t.ring r).done = (s.ring r).done + 1 ∧ (t.ring r).taken = (s.ring r).taken ∧
    t.counter (hifCnt 0) = (s.counter (hifCnt 0) + 1) % 2 ^ 64 ∧ ∀ k, k ≠ r → t.ring k = s.ring k

/-- Host memory outside `n` bytes at `a` and the 4 bytes a message of vector `v` goes to is unchanged. -/
def HostKept (s t : State) (a n v : Nat) : Prop :=
  ∀ k, (∀ i, i < n → k ≠ (a + i) % 2 ^ 64) →
    (∀ i, i < 4 → k ≠ ((s.reg (msixTable + 16 * v)).toNat + 2 ^ 32 * (s.reg (msixTable + 16 * v + 4)).toNat + i) % 2 ^ 64) →
    sget (fun _ => 0) t.hostMem k = sget (fun _ => 0) s.hostMem k

/-- A staging command of requester `q` has completed with RESULT `r`: DONE is set in its CLS_STG_STAT. -/
def ClsResult (t : State) (q : Req) (r : Nat) : Prop :=
  bitsOf (t.reg (bankKey q 0xA00294)).toNat 0 4 = r ∧ bitOf (t.reg (bankKey q 0xA00294)).toNat 30 = true

/-- A staging command of `q` is taken (R197): none of its own is in progress, and the classifier is not held in reset. -/
def ClsFree (s : State) (q : Req) : Prop :=
  bitOf (s.reg (bankKey q 0xA00294)).toNat 31 = false ∧ s.groupHeld 96 = false ∧ s.groupHeld 97 = false

/-- The next encapsulated frame of side `x` has its header in the partition (R74, R75): its check has come out as `hec`, the
header as corrected is `h`, and the frame ends at `stop`; `g` is the verdict of the G-mode check. -/
structure EncapAt (s : State) (x : Side) (g hec : Hec) (h stop : Nat) : Prop where
  usable : s.frameUsable x = true
  delineated : (s.line x).delinLost = false
  room : (s.line x).encPos + (if s.drixis x then 12 else Config.gHeaderBytes) ≤ (s.line x).payEnd
  check : hec = if s.drixis x then (crc16Check (s.infoAt x (s.line x).encPos 12)).1 else g
  header : h = if s.drixis x then beNat (crc16Check (s.infoAt x (s.line x).encPos 12)).2
    else Config.gHeader (s.line x).info (s.line x).encPos
  ends : stop = (s.line x).encPos + if s.drixis x then 12 + 4 * ceilDiv (bitsOf h 60 16) 4
    else Config.gEncapBytes (bitsOf h 60 16)

/-- It lies whole in the partition, and its port is one that entry `n` of the side accepts (R76). -/
structure EncapTaken (s : State) (x : Side) (g hec : Hec) (h stop n : Nat) : Prop extends EncapAt s x g hec h stop where
  good : hec ≠ .bad
  whole : stop ≤ (s.line x).payEnd
  client : ¬ (s.drixis x = true ∧ bitsOf h 76 20 = 0xFFFFF)
  taken : (s.pidMatches x (bitsOf h 76 20)).head? = some n

/-- The text of its payload, or the counter of its discard (R368). -/
def encapText (s : State) (x : Side) (h n : Nat) : Except Nat (List Byte) :=
  s.lineOpen x n (bitsOf h 58 2) (s.line x).curSfc (bitsOf h 76 20) (s.line x).encPos (beBytes 10 (h / 2 ^ 16))
    (s.infoAt x ((s.line x).encPos + if s.drixis x then 12 else Config.gHeaderBytes) (bitsOf h 60 16))

/-- It counts as an accepted frame (R76, R99), and the next header is looked for behind it; of the registers only PID_DUP may
change, of the counters those of its acceptance and `cs`. -/
structure EncapCounted (s t : State) (x : Side) (hec : Hec) (h stop : Nat) (cs : List Nat) : Prop where
  next : (t.line x).encPos = stop
  frames : t.counter (dsCnt x 14) = (s.counter (dsCnt x 14) + 1) % 2 ^ 64
  bytes : t.counter (dsCnt x 15) = (s.counter (dsCnt x 15) + bitsOf h 60 16) % 2 ^ 64
  fixed : t.counter (dsCnt x 16) = (s.counter (dsCnt x 16) + (if hec = .corrected then 1 else 0)) % 2 ^ 64
  rest : Only [F.DSF_STAT_PID_DUP.addr + sideOff x] (dsCnt x 14 :: dsCnt x 15 :: dsCnt x 16 :: cs) s t

/-- The whole client frame of its port goes (R77): an open reassembly counts, and fragments up to the last are discarded. -/
structure EncapDropped (s t : State) (x : Side) (h : Nat) : Prop where
  port : (t.reasmOf x (bitsOf h 76 20)).live = false ∧ (t.reasmOf x (bitsOf h 76 20)).bad = !bitOf h 57
  others : ∀ k, k ≠ bitsOf h 76 20 → t.reasmOf x k = s.reasmOf x k
  count : t.counter (dsCnt x 19) =
    (s.counter (dsCnt x 19) + (if (s.reasmOf x (bitsOf h 76 20)).live then 1 else 0)) % 2 ^ 64
  crossings : t.xings = s.xings

/-- What R387 says of a write of PWR_STATE with CMD `t`, `i q e w` being the command with the lanes that have receive energy and
the level of WAKE_N. No level stops a command to RUN (CMD 4). After a failed power-up a command upward is BUSY too (the
model's choice, log 254). -/
def PowerCommand (i : Req → BitVec 8 → Bool → Instr) (t : Nat) : Prop :=
  ∀ (s : State) (q : Req) (e : BitVec 8) (w : Bool), Reach s q 0x200000 →
    (reqCode q ≠ s.f F.PWR_CFG_OWNER → q ≠ .groom → ∃ u, exec (i q e w) s = .next u ∧ u.f F.PWR_STATE_RESULT = 5 ∧
      u.pwr = s.pwr ∧ u.pwrState = s.pwrState ∧ Only [0x200000] [] s u) ∧
    (reqCode q = s.f F.PWR_CFG_OWNER ∨ q = .groom →
      (s.pwrState = t → ∃ u, exec (i q e w) s = .next u ∧ u.f F.PWR_STATE_RESULT = 3 ∧ u.pwr = s.pwr ∧
        Only [0x200000] [] s u) ∧
      (s.pwrState ≠ t → s.pwr.target.isSome = true ∨ s.pwr.loss ≠ 0 ∨ (s.pwr.failed = true ∧ s.pwrState < t) →
        ∃ u, exec (i q e w) s = .next u ∧
        u.f F.PWR_STATE_RESULT = 2 ∧ u.pwr = s.pwr ∧ Only [0x200000] [] s u) ∧
      (s.pwrState ≠ t → s.pwr.target = none → s.pwr.loss = 0 → s.farBusy = false → s.pwr.failed = false ∨ t < s.pwrState →
        (s.wakeLevel t e w = true → ∃ u, exec (i q e w) s = .next u ∧ u.f F.PWR_STATE_RESULT = 4 ∧ u.pwr = s.pwr ∧
          Only [0x200000] [] s u) ∧
        (s.wakeLevel t e w = false → ∃ u, exec (i q e w) s = .next u ∧ u.f F.PWR_STATE_RESULT = 1 ∧
          u.flag F.PWR_STATE_TRANS = true ∧ u.pwrState = s.pwrState ∧ u.pwr.target = some t ∧ u.pwr.prev = s.pwrState ∧
          u.regions = s.regions ∧ Only [0x200000] [] s u)))

end Sys2Proof.Machine
end

