-- ==== Sys2Proof/Certificates/Slice0/Obligations.lean ====
section
/-! DEFINITION. The statements for the provers. -/

open Sys2Proof Sys2Proof.Machine

/-- A step with a command at the front of the queue is that command's effect on the state with the rest of the queue. -/
def Obligations.StepRunsCommand : Prop :=
  ∀ (s : State) (c : Instr), step { s with pending := c :: s.pending } = exec c s

/-- With no command waiting a step is one tick of time (the model's choice, log 2): the tick counter goes up by one while the
Time region runs, and no command appears. -/
def Obligations.IdleStepIsATick : Prop :=
  ∀ (s : State), s.pending = [] → ∃ t, step s = .next t ∧ t = s.tickOp ∧ t.pending = [] ∧ t.grade = s.grade ∧
    (s.regionUp 7 = true → t.tick = (s.tick + 1) % 2 ^ 64)

/-- No command stops the machine: each answers a next state, leaves the waiting commands as they are and never changes the
ordering code's fuses (R2, R12). -/
def Obligations.EveryCommandCompletes : Prop :=
  ∀ (c : Instr) (s : State), ∃ t, exec c s = .next t ∧ t.pending = s.pending ∧ t.grade = s.grade

/-- The frame of every command: a part of the machine that the command's list does not name is the same after it, whatever the
operands and the state. -/
def Obligations.CommandFrame : Prop :=
  ∀ (c : Instr) (s t : State) (k : Comp), exec c s = .next t → k ∉ touches c → Same k s t

/-- The invariant holds after reset, and reset leaves what the spec states: nothing waits, the Host, Time and Groom regions run
and the others are off, and the tick counter and the live counters are 0 (R11, R268, R319). -/
def Obligations.ResetState : Prop :=
  State.reset.Inv ∧ State.reset.pending = [] ∧ State.reset.tick = 0 ∧ (∀ a, State.reset.counter a = 0) ∧
    (∀ r, (State.reset.region r).on = (decide (r = 6) || decide (r = 7) || decide (r = 8))) ∧
    State.reset.pwrState = 4 ∧ State.reset.f F.MEM_MODE_MODE = 0 ∧ State.reset.flag F.GLB_FLT_CAUSE_VALID = false ∧
    (∀ n, n < 64 → State.reset.keyEmpty n = true) ∧ (∀ n, n < 16 → State.reset.teamState n = 0) ∧
    (∀ i, i < 15 → State.reset.resFree i = true)

/-- Every step keeps the invariant: a 64-bit tick counter, a time of day below its modulus, 64-bit live counters, and memories
in their canonical form. -/
def Obligations.StepKeepsInvariant : Prop :=
  ∀ (s t : State), s.Inv → step s = .next t → t.Inv

/-- R2: what the two identity registers read. -/
def Obligations.IdentityRegisters : Prop :=
  ∀ (s : State) (q : Req), Reach s q 0 →
    (∃ t, exec (.registerRead q 0 .answers) s = .next t ∧ t.rd =
      some (match s.grade with | .fb => 0x46019840#32 | .fbi => 0x46119840#32 | .fbx => 0x46419840#32)) ∧
    (∃ t, exec (.registerRead q 4 .answers) s = .next t ∧ t.rd =
      some (match s.grade with | .fb => 0x04446086#32 | .fbi => 0x04446086#32 | .fbx => 0x00446086#32))

/-- R405: the hold-up energy, in integer arithmetic that no field value overflows in 64 bits, and the decision to save. -/
def Obligations.HoldUpEnergy : Prop :=
  ∀ (s : State) (code : Fin 4096) (v d e : Nat), s.pwr.loss = 2 →
    v = code.val * s.f F.GRM_HU_CAL1_SCALE / 4096 →
    d = (if s.f F.GRM_HU_CAL0_VMIN < v then v * v - s.f F.GRM_HU_CAL0_VMIN * s.f F.GRM_HU_CAL0_VMIN else 0) →
    e = s.f F.GRM_HU_CAL0_C * d / 2 →
    code.val * s.f F.GRM_HU_CAL1_SCALE < 2 ^ 64 ∧ v * v < 2 ^ 64 ∧ s.f F.GRM_HU_CAL0_C * d < 2 ^ 64 ∧ 16 * e < 2 ^ 64 ∧
    1000000 * s.f F.GRM_HU_REQ_EREQ * s.f F.GRM_HU_REQ_MARGIN < 2 ^ 64 ∧
    ∃ t, exec (.energyCheck code) s = .next t ∧ t.flag F.GRM_HU_RES_VALID = true ∧ t.f F.GRM_HU_RES_V = v ∧
      (t.reg 0x200064).toNat + 2 ^ 32 * (t.reg 0x200068).toNat = e ∧
      t.flag F.GRM_HU_RES_SUFF = decide (16 * e ≥ 1000000 * s.f F.GRM_HU_REQ_EREQ * s.f F.GRM_HU_REQ_MARGIN) ∧
      (16 * e < 1000000 * s.f F.GRM_HU_REQ_EREQ * s.f F.GRM_HU_REQ_MARGIN →
        t.pwr.loss = 4 ∧ t.pwr.flash = s.pwr.flash) ∧
      (16 * e ≥ 1000000 * s.f F.GRM_HU_REQ_EREQ * s.f F.GRM_HU_REQ_MARGIN → s.flag F.GRM_SAVE_STAT_READY = true →
        t.pwr.loss = 3)

/-- R170: writes and swap requests of a direction whose swap is pending. -/
def Obligations.PendingPages : Prop :=
  (∀ (s : State) (q : Req) (h : Fin 3776) (v : Word), s.grade ≠ .fbx →
    (Reach s q (0x910000 + 4 * h.val) → s.flag F.CKT_STAT_PEND_DS = true →
      ∃ t, exec (.cmStandbyWrite q false h v) s = .next t ∧ t.reg (0x910000 + 4 * h.val) = s.reg (0x910000 + 4 * h.val) ∧
        t.flag F.CKT_STAT_BUSY_WR = true ∧ t.flag F.CKT_STAT_PEND_DS = true ∧ Only [0x900008] [] s t ∧
        Raised s t 225 1 0 h.val) ∧
    (Reach s q (0x920000 + 4 * h.val) → s.flag F.CKT_STAT_PEND_US = true →
      ∃ t, exec (.cmStandbyWrite q true h v) s = .next t ∧ t.reg (0x920000 + 4 * h.val) = s.reg (0x920000 + 4 * h.val) ∧
        t.flag F.CKT_STAT_BUSY_WR = true ∧ t.flag F.CKT_STAT_PEND_US = true ∧ Only [0x900008] [] s t ∧
        Raised s t 225 1 0 (h.val + 4096))) ∧
  (∀ (s : State) (q : Req), Reach s q 0x900004 →
    (s.flag F.CKT_STAT_PEND_DS = true → exec (.swapDs q) s = .next s) ∧
    (s.flag F.CKT_STAT_PEND_US = true → exec (.swapUs q) s = .next s))

/-- R347 and R348: the DRAM code corrects any one stored symbol and detects any two; R349 and R350: the on-chip code corrects
any one stored bit and detects any two. -/
def Obligations.StoredWordCodes : Prop :=
  (∀ (data line : Nat), data < 2 ^ 64 → line < 2 ^ 36 →
    dramChecks data line < 2 ^ 16 ∧ dramDecode data (dramChecks data line) line = .good ∧
    (∀ i e, i < 16 → 1 ≤ e → e < 16 → dramDecode (data ^^^ (e * 16 ^ i)) (dramChecks data line) line =
      .corrected data (dramChecks data line)) ∧
    (∀ i e, i < 4 → 1 ≤ e → e < 16 → dramDecode data (dramChecks data line ^^^ (e * 16 ^ i)) line =
      .corrected data (dramChecks data line)) ∧
    (∀ i j e f, i < j → j < 16 → 1 ≤ e → e < 16 → 1 ≤ f → f < 16 →
      dramDecode (data ^^^ (e * 16 ^ i) ^^^ (f * 16 ^ j)) (dramChecks data line) line = .bad) ∧
    (∀ i j e f, i < 16 → j < 4 → 1 ≤ e → e < 16 → 1 ≤ f → f < 16 →
      dramDecode (data ^^^ (e * 16 ^ i)) (dramChecks data line ^^^ (f * 16 ^ j)) line = .bad) ∧
    (∀ i j e f, i < j → j < 4 → 1 ≤ e → e < 16 → 1 ≤ f → f < 16 →
      dramDecode data (dramChecks data line ^^^ (e * 16 ^ i) ^^^ (f * 16 ^ j)) line = .bad) ∧
    (∀ k e, k < 9 → 1 ≤ e → e < 16 → dramDecode data (dramChecks data line) (line ^^^ (e * 16 ^ k)) = .bad)) ∧
  (∀ (data addr : Nat), data < 2 ^ 64 → addr < 2 ^ 20 →
    chipChecks data addr < 2 ^ 8 ∧ chipDecode data (chipChecks data addr) addr = .good ∧
    (∀ i, i < 64 → chipDecode (data ^^^ 2 ^ i) (chipChecks data addr) addr = .corrected data (chipChecks data addr)) ∧
    (∀ i, i < 8 → chipDecode data (chipChecks data addr ^^^ 2 ^ i) addr = .corrected data (chipChecks data addr)) ∧
    (∀ i j, i < j → j < 64 → chipDecode (data ^^^ 2 ^ i ^^^ 2 ^ j) (chipChecks data addr) addr = .bad) ∧
    (∀ i j, i < 64 → j < 8 → chipDecode (data ^^^ 2 ^ i) (chipChecks data addr ^^^ 2 ^ j) addr = .bad) ∧
    (∀ i j, i < j → j < 8 → chipDecode data (chipChecks data addr ^^^ 2 ^ i ^^^ 2 ^ j) addr = .bad) ∧
    (∀ m, m < 20 → chipDecode data (chipChecks data addr) (addr ^^^ 2 ^ m) = .bad))

/-- R9, R318 and R320: register writes. A register without a command or an owner takes each bit as its access code says: RW, RWL
while unlocked, W1C and W1S, and a field or register of the host from the host alone; an offset without a register discards the
write. A write of any register that can be reached is its block's own operation; a write to a region that cannot be reached is
discarded, counted in UNAVAIL and reported as event 1. -/
def Obligations.RegisterWrites : Prop :=
  (∀ (s : State) (q : Req) (a : Nat) (v : Word), Reach s q a →
    exec (.registerWrite q a v false) s = .next (s.regWrite q a v)) ∧
  (∀ (s : State) (q : Req) (a : Nat) (v : Word) (r : RegRow), Reach s q a → ¬ HarAbsent s a → ownWrite a = false →
    regRow a = some r → (r.host = true → q = .host) →
    ∃ w, exec (.registerWrite q a v false) s = .next (s.setReg (wordKey r q a) w) ∧
      ∀ i, i < 32 → bitOf w.toNat i =
        (if bitOf r.w1s i = true ∧ bitOf v.toNat i = true then true
         else if bitOf r.w1c i = true ∧ bitOf v.toNat i = true then false
         else if (bitOf r.rw i = true ∨ bitOf r.rwl i = true ∧ s.rowLocked r (wordKey r q a) = false) ∧
           ¬ (q ≠ .host ∧ bitOf r.hostF i = true) then bitOf v.toNat i
         else bitOf (s.reg (wordKey r q a)).toNat i)) ∧
  (∀ (s : State) (q : Req) (a : Nat) (v : Word), Reach s q a → ownWrite a = false →
    (regRow a = none ∨ HarAbsent s a ∨ ∃ r, regRow a = some r ∧ r.host = true ∧ q ≠ .host) →
    exec (.registerWrite q a v false) s = .next s) ∧
  (∀ (s : State) (n : Nat) (v : Word), n < 512 → n ≠ 5 → Reach s .host (0x101000 + 4 * n) →
    ∃ t, exec (.registerWrite .host (0x101000 + 4 * n) v false) s = .next t ∧
      t.f F.EVT_SRC_EN (4 * n) = F.EVT_SRC_EN.of v ∧ t.f F.EVT_SRC_VEC (4 * n) = F.EVT_SRC_VEC.of v ∧
      t.f F.EVT_SRC_SEV (4 * n) = F.EVT_SRC_SEV.of v ∧ Only [0x101000 + 4 * n] [] s t ∧ t.hostMem = s.hostMem) ∧
  (∀ (s : State) (q : Req) (a c : Nat) (v : Word) (silent : Bool), s.reqUp q = true →
    (s.warmBusy && decide (0x8000 ≤ a)) = false → s.unavailable a = some c →
    ∃ t, exec (.registerWrite q a v silent) s = .next t ∧ Only [] [0xB050] s t ∧
      t.counter 0xB050 = (s.counter 0xB050 + 1) % 2 ^ 64 ∧
      Raised s t 1 1 (reqCode q) (a % 2 ^ 25 + 2 ^ 25 + c * 2 ^ 26 + regionOf a * 2 ^ 28)) ∧
  (∀ (s : State) (q : Req) (a : Nat) (v : Word), Reach s q a →
    ∃ t, exec (.registerWrite q a v true) s = .next t ∧ Only [] [0xB050] s t ∧
      t.counter 0xB050 = (s.counter 0xB050 + 1) % 2 ^ 64 ∧
      Raised s t 1 1 (reqCode q) (a % 2 ^ 25 + 2 ^ 25 + 3 * 2 ^ 26 + regionOf a * 2 ^ 28)) ∧
  (∀ (s : State) (q : Req) (a : Nat) (v : Word) (silent : Bool), s.warmBusy = true → 0x8000 ≤ a →
    exec (.registerWrite q a v silent) s = .next s)

/-- R9, R10, R318, R320 and R321: register reads, which REGISTER_READ and READ_CLEAR give alike. The completion's word is `rd`: a
stored word without its WO fields, whose RC fields the read clears; the LO word of a 64-bit value, whose upper half the read
keeps for the requester, and the HI word that gives it; 0 of an absent Harness or client port and of a doorbell page; a word of a
user's page; the identity words of configuration space; all ones of a target that cannot be reached; and no word, with a completer
abort, of uncorrectable data. -/
def Obligations.RegisterReads : Prop :=
  (∀ (s : State) (q : Req) (a : Nat), exec (.readClear q a) s = exec (.registerRead q a .answers) s) ∧
  (∀ (s : State) (q : Req) (a : Nat) (r : RegRow), Reach s q a → a < bar4 → ¬ HarAbsent s a → ¬ PortAbsent s a →
    StoredRead s q a → regRow a = some r →
    ∃ t, exec (.readClear q a) s = .next t ∧ t.rd = some (s.reg (wordKey r q a) &&& ~~~ BitVec.ofNat 32 r.wo) ∧
      t.reg (wordKey r q a) = s.reg (wordKey r q a) &&& ~~~ BitVec.ofNat 32 r.rc ∧ Only [wordKey r q a] [] s t ∧
      t.shadows = s.shadows ∧ t.tm = s.tm) ∧
  (∀ (s : State) (q : Req) (a : Nat), Reach s q a → a < bar4 → ¬ HarAbsent s a → ¬ PortAbsent s a →
    StoredRead s q a → regRow a = none → ∃ t, exec (.readClear q a) s = .next t ∧ t.rd = some 0 ∧ t.regs = s.regs) ∧
  (∀ (s : State) (q : Req) (a : Nat), Reach s q a → a < bar4 → HarAbsent s a ∨ PortAbsent s a →
    exec (.counterLoRead q a) s = .next { s with rd := some 0 } ∧ exec (.readClear q a) s = .next { s with rd := some 0 }) ∧
  (∀ (s : State) (q : Req) (n : Nat), n < 512 → Reach s q (0x101000 + 4 * n) →
    ∃ t, exec (.registerRead q (0x101000 + 4 * n) .answers) s = .next t ∧ t.rd = some (s.reg (0x101000 + 4 * n)) ∧
      t.regs = s.regs ∧ t.counters = s.counters ∧ t.shadows = s.shadows) ∧
  (∀ (s : State) (q : Req) (a : Nat) (f : ReadFact), s.reqUp q = true → bar4 ≤ a → a < bar2 →
    exec (.registerRead q a f) s = .next { s with rd := some (BitVec.ofNat 32 (s.userPageWord (a - bar4))) }) ∧
  (∀ (s : State) (q : Req) (a : Nat) (f : ReadFact), s.reqUp q = true → bar2 ≤ a → a < cfgSpace →
    exec (.registerRead q a f) s = .next { s with rd := some 0 }) ∧
  (∀ (s : State) (q : Req) (a : Nat) (v : Word) (f : ReadFact), s.reqUp q = true → cfgSpace ≤ a →
    State.pcieWord (a - cfgSpace) = some v → exec (.registerRead q a f) s = .next { s with rd := some v }) ∧
  (∀ (s : State) (q : Req) (a c : Nat) (f : ReadFact), s.reqUp q = true → a < bar4 → s.warmBusy = false →
    s.unavailable a = some c →
    ∃ t, exec (.registerRead q a f) s = .next t ∧ t.rd = some 0xFFFFFFFF#32 ∧ Only [] [0xB050] s t ∧
      t.counter 0xB050 = (s.counter 0xB050 + 1) % 2 ^ 64 ∧
      Raised s t 1 1 (reqCode q) (a % 2 ^ 25 + c * 2 ^ 26 + regionOf a * 2 ^ 28)) ∧
  (∀ (s : State) (q : Req) (a : Nat), Reach s q a → a < bar4 →
    ∃ t, exec (.registerRead q a .uncorrectable) s = .next t ∧ t.rd = none ∧
      t.reg (0x102000 + 4 * 2) = s.reg (0x102000 + 4 * 2) + 1) ∧
  (∀ (s : State) (q : Req) (a v : Nat), Reach s q a → a < bar4 → ¬ HarAbsent s a → ¬ PortAbsent s a →
    s.pairValue q a = some v →
    ∃ t, exec (.counterLoRead q a) s = .next t ∧ t.rd = some (BitVec.ofNat 32 v) ∧
      t.shadow q (blockOf a) = v / 2 ^ 32 ∧ t.regs = s.regs ∧ t.counters = s.counters ∧
      ∀ x b, (x = q ∧ b = blockOf a) ∨ t.shadow x b = s.shadow x b) ∧
  (∀ (s : State) (q : Req) (a : Nat), cntWidth a = 64 → s.pairValue q a = some (s.cntValue a)) ∧
  (∀ (s : State) (q : Req) (a v : Nat), Reach s q (a + 4) → a + 4 < bar4 → ¬ HarAbsent s (a + 4) → ¬ PortAbsent s (a + 4) →
    s.pairValue q a = some v → s.pairValue q (a + 4) = none →
    exec (.registerRead q (a + 4) .answers) s =
      .next { s with rd := some (BitVec.ofNat 32 (s.shadow q (blockOf (a + 4)))) }) ∧
  (∀ (s : State) (q : Req), Reach s q 0xA00304 →
    ∃ t, exec (.readClear q 0xA00304) s = .next t ∧
      t.rd = some ((s.reg 0xA00304 &&& 0xFFFFFFFC#32) ||| (s.reg (bankKey q 0xA00304) &&& 3#32)) ∧
      t.reg (bankKey q 0xA00304) &&& 3#32 = 0 ∧ Only [bankKey q 0xA00304] [] s t)

/-- R269, R286 and R290: reads of the time of day and of the time-stamp and capture queues. -/
def Obligations.TimeReads : Prop :=
  (∀ (s : State) (q : Req), Reach s q 0x1000018 →
    ∃ t, exec (.todNsRead q) s = .next t ∧ t.rd = some (BitVec.ofNat 32 (s.tm.tod / 243 / 65536 % 1000000000)) ∧
      t.todShadow q 0 = s.tm.tod / 243 ∧ t.todShadow q 1 = s.tick ∧ t.tm.tod = s.tm.tod ∧ Only [] [] s t) ∧
  (∀ (s : State) (q : Req) (k : Fin 8) (e : List Word) (r : List (List Word)), Reach s q (0x1000400 + 32 * k.val) →
    (s.tsQueue k.val).entries = e :: r →
    ∃ t, exec (.tsqPop q k) s = .next t ∧ t.rd = some (e.getD 0 0) ∧ (t.tsQueue k.val).entries = r ∧
      (∀ i, i < 4 → t.popWord q k.val i = e.getD i 0) ∧ ∀ j, j ≠ k.val → t.tsQueue j = s.tsQueue j) ∧
  (∀ (s : State) (q : Req) (k : Fin 8), Reach s q (0x1000400 + 32 * k.val) → (s.tsQueue k.val).entries = [] →
    ∃ t, exec (.tsqPop q k) s = .next t ∧ t.rd = some 0 ∧ (t.tsQueue k.val).entries = []) ∧
  (∀ (s : State) (q : Req) (n : Fin 2) (e : List Word) (r : List (List Word)), Reach s q (0x1000244 + 32 * n.val) →
    (s.tsQueue (8 + n.val)).entries = e :: r →
    ∃ t, exec (.captureQueuePop q n) s = .next t ∧ t.rd = some (e.getD 0 0) ∧ (t.tsQueue (8 + n.val)).entries = r ∧
      Only [] [] s t) ∧
  (∀ (s : State) (q : Req) (n : Fin 2), Reach s q (0x1000244 + 32 * n.val) → (s.tsQueue (8 + n.val)).entries = [] →
    ∃ t, exec (.captureQueuePop q n) s = .next t ∧ t.rd = some 0 ∧ (t.tsQueue (8 + n.val)).entries = [])

/-- R15, R16, R19 and R20: the fault levels, the chip fault record and its clearing. -/
def Obligations.FaultLevels : Prop :=
  (∀ (s : State) (cell : CellKind) (region : Fin 9) (block inst src : Nat) (info : Word) (quarOk : Bool)
    (xngs : List (Fin 30)), src < 512 → src ≠ 5 →
    ∃ t, exec (.cellFault cell region block inst src info true quarOk xngs) s = .next t ∧
      Raised s t src 0 inst info.toNat ∧ Only [] [] s t) ∧
  (∀ (s : State) (cell : CellKind) (region : Fin 9) (block inst src : Nat) (info : Word) (xngs : List (Fin 30)),
    src < 512 → src ≠ 5 → block < 256 →
    ∃ t, exec (.cellFault cell region block inst src info false true xngs) s = .next t ∧ Only [] [] s t ∧
      t.reg (0x102000 + 4 * src) = s.reg (0x102000 + 4 * src) + 2 ∧
      ∀ k, sget (fun _ => 0) t.quarantined k =
        if k = region.val * 256 + block then sget (fun _ => 0) s.quarantined k + 1 else sget (fun _ => 0) s.quarantined k) ∧
  (∀ (s : State) (cell : CellKind) (region : Fin 9) (block inst src : Nat) (info : Word) (xngs : List (Fin 30)),
    block < 256 →
    ∃ t, exec (.cellFault cell region block inst src info false false xngs) s = .next t ∧
      sget (fun _ => 0) t.blockResets (region.val * 256 + block) = s.tick + 1 ∧
      (sget (fun _ => 0) s.blockResets (region.val * 256 + block) ≠ 0 →
        s.tick + 1 < sget (fun _ => 0) s.blockResets (region.val * 256 + block) + ticksPerS →
        t.flag F.GLB_FLT_CAUSE_VALID = true)) ∧
  (∀ (s : State) (region : Fin 9) (block inst : Nat) (info : Word), s.flag F.GLB_FLT_CAUSE_VALID = false →
    ∃ t, exec (.blockResetTimeout region block inst info) s = .next t ∧
      t.reg 0x40 = BitVec.ofNat 32 (2 ^ 31 + region.val * 2 ^ 24 + block % 256 * 2 ^ 16 + 1) ∧ t.reg 0x44 = info ∧
      t.reg 0x48 = BitVec.ofNat 32 s.tick ∧ t.reg 0x4C = BitVec.ofNat 32 (s.tick / 2 ^ 32) ∧ t.faultN = true) ∧
  (∀ (s : State) (region : Fin 9) (block inst : Nat) (info : Word), s.flag F.GLB_FLT_CAUSE_VALID = true →
    ∃ t, exec (.blockResetTimeout region block inst info) s = .next t ∧ t.flag F.GLB_FLT_CAUSE_MORE = true ∧
      t.reg 0x44 = s.reg 0x44 ∧ t.reg 0x48 = s.reg 0x48 ∧ t.reg 0x4C = s.reg 0x4C) ∧
  (∀ (s : State) (q : Req) (v : Word), Reach s q 0x40 → F.GLB_FLT_CAUSE_VALID.of v = 1 →
    ∃ t, exec (.faultRecordClear q v) s = .next t ∧ Only [0x40, 0x44, 0x48, 0x4C] [] s t ∧
      t.reg 0x40 = 0 ∧ t.reg 0x44 = 0 ∧ t.reg 0x48 = 0 ∧ t.reg 0x4C = 0 ∧
      t.faultN = s.flag F.GRM_WAKE_FAIL_VALID) ∧
  (∀ (s : State) (q : Req) (v : Word), Reach s q 0x40 → F.GLB_FLT_CAUSE_VALID.of v = 0 →
    exec (.faultRecordClear q v) s = .next s)

/-- R22 and R30 to R34: the gait window, and the crossings' recovery. -/
def Obligations.GaitAndCrossings : Prop :=
  (∀ (s : State) (trips : List Nat) (n : Fin 16), s.regionUp 2 = true → s.regionUp 7 = true →
    s.xOpen 20 = true → s.tm.gaitTick + 7776 ≤ s.tick →
    ∃ t, exec (.gaitWindowEnd trips) s = .next t ∧
      t.f F.CRS_GAIT_GAIT (0x10000 * n.val) = min (trips.getD n.val 0 * 65536 / 10) 0xFFFFFFFF ∧
      t.tm.gaitTick ≤ s.tick ∧ s.tick < t.tm.gaitTick + 7776) ∧
  (∀ (s : State) (trips : List Nat), s.regionUp 7 = false ∨ s.xOpen 20 = false ∨ s.tick < s.tm.gaitTick + 7776 →
    exec (.gaitWindowEnd trips) s = .next s) ∧
  (∀ (s : State) (i : Fin 30), ∃ t, exec (.crossingResync i) s = .next t ∧
    t.flag F.XNG_STAT_RESYNC_BUSY (0x20 * i.val) = false ∧ Only [F.XNG_STAT_OCC.addr + 0x20 * i.val] [] s t ∧
    t.xing i.val = { s.xing i.val with wSync := false, rSync := false } ∧ ∀ j, j ≠ i.val → t.xing j = s.xing j) ∧
  (∀ (s : State) (i : Fin 30), ∃ t, exec (.crossingRefusalEnd i) s = .next t ∧
    t.flag F.XNG_STAT_REFUSING (0x20 * i.val) = false ∧ Only [F.XNG_STAT_OCC.addr + 0x20 * i.val] [] s t ∧
    t.xings = s.xings) ∧
  (∀ (s : State) (i : Fin 30) (part : Nat), s.flag F.XNG_STAT_REFUSING (0x20 * i.val) = false →
    ∃ t, exec (.crossingTimeout i part) s = .next t ∧ t.flag F.XNG_STAT_REFUSING (0x20 * i.val) = true ∧
      (t.xing i.val).exp = [] ∧ (t.xing i.val).other = [] ∧ (∀ j, j ≠ i.val → t.xing j = s.xing j) ∧
      t.reg (0x160000C + 0x20 * i.val) = s.reg (0x160000C + 0x20 * i.val) + 1 ∧
      t.reg (0x1600008 + 0x20 * i.val) = s.reg (0x1600008 + 0x20 * i.val) +
        BitVec.ofNat 32 (s.f F.XNG_STAT_OCC (0x20 * i.val) + if i.val = 4 then part else 0) ∧
      t.reg (0x102000 + 4 * 8) = s.reg (0x102000 + 4 * 8) + 1 +
        (if ((s.xing i.val).tmos.filter fun k => decide (s.tick < k + ticksPerS)).length < 3 then 0 else 2)) ∧
  (∀ (s : State) (i : Fin 30) (part : Nat), s.flag F.XNG_STAT_REFUSING (0x20 * i.val) = true →
    exec (.crossingTimeout i part) s = .next s)

/-- R48 to R50, R52, R53, R57, R136, R445 and R461: the line mode, the receiver's start and stop, its lock and signal detect. -/
def Obligations.ReceiverStates : Prop :=
  (∀ (s : State) (q : Req) (x : Side) (v : Word), Reach s q (0x400000 + sideOff x) → s.rxEn x = true ∨ s.txEn x = true →
    F.LIN_MODE_MODE.of v ≠ s.f F.LIN_MODE_MODE (sideOff x) ∨ F.LIN_MODE_US_RATE.of v ≠ s.f F.LIN_MODE_US_RATE (sideOff x) →
    F.LIN_MODE_MODE.of v = s.f F.LIN_MODE_MODE (sideOff x) ∨ s.breaksR3 x v = false →
    exec (.lineModeSet q x v) s = .next s) ∧
  (∀ (s : State) (q : Req) (x : Side) (v : Word), Reach s q (0x400000 + sideOff x) →
    F.LIN_MODE_MODE.of v ≠ s.f F.LIN_MODE_MODE (sideOff x) →
    s.prtMode = 1 ∧ (F.LIN_MODE_MODE.of v == 1) ≠ s.drixis (sideOther x) ∨ s.prtMode = 2 ∧ F.LIN_MODE_MODE.of v ≠ 1 →
    ∃ t, exec (.lineModeSet q x v) s = .next t ∧ t.flag F.PRT_STAT_CFG_REFUSED = true ∧
      t.reg (0x400000 + sideOff x) = s.reg (0x400000 + sideOff x) ∧ Only [F.PRT_STAT_CFG_REFUSED.addr] [] s t ∧
      Raised s t 196 1 0 (F.LIN_MODE_MODE.of v + 4)) ∧
  (∀ (s : State) (q : Req) (x : Side) (v : Word), Reach s q (0x400000 + sideOff x) → s.rxEn x = false → s.txEn x = false →
    (s.line x).sending = none → s.prtMode ≠ 1 → s.prtMode ≠ 2 → F.LIN_MODE_RX_EN.of v = 0 →
    ∃ t, exec (.lineModeSet q x v) s = .next t ∧ t.f F.LIN_MODE_MODE (sideOff x) = F.LIN_MODE_MODE.of v ∧
      t.f F.LIN_MODE_US_RATE (sideOff x) = F.LIN_MODE_US_RATE.of v ∧
      t.f F.LIN_MODE_TX_EN (sideOff x) = F.LIN_MODE_TX_EN.of v ∧ t.rxEn x = false ∧
      Only [0x400000 + sideOff x, F.LIN_SNR_0_UPPER.addr + sideOff x, F.LIN_SNR_1_LOWER.addr + sideOff x] [] s t) ∧
  (∀ (s : State) (q : Req) (x : Side) (v : Word), Reach s q (0x400000 + sideOff x) → s.rxEn x = false →
    (s.line x).sending = none → s.lof x = true → F.LIN_MODE_MODE.of v = s.f F.LIN_MODE_MODE (sideOff x) →
    F.LIN_MODE_US_RATE.of v = s.f F.LIN_MODE_US_RATE (sideOff x) →
    ∃ t, exec (.receiverStart q x v) s = .next t ∧ t.rxEn x = true ∧ t.lof x = true ∧
      t.flag F.LIN_DSP_STAT_ADC_CAL (sideOff x) = false ∧ t.flag F.LIN_DSP_STAT_CONV (sideOff x) = false ∧
      Only [0x400000 + sideOff x, F.LIN_DSP_STAT_SD.addr + sideOff x, F.LIN_SNR_0_UPPER.addr + sideOff x,
        F.LIN_SNR_1_LOWER.addr + sideOff x] [] s t) ∧
  (∀ (s : State) (q : Req) (x : Side) (v : Word), Reach s q (0x400000 + sideOff x) → s.rxEn x = true →
    (s.line x).sending = none → s.lof x = true → s.dsValid x = false →
    F.LIN_MODE_MODE.of v = s.f F.LIN_MODE_MODE (sideOff x) → F.LIN_MODE_US_RATE.of v = s.f F.LIN_MODE_US_RATE (sideOff x) →
    ∃ t, exec (.receiverStop q x v) s = .next t ∧ t.rxEn x = false ∧ t.lof x = true ∧
      t.flag F.LIN_DSP_STAT_CDR_LOCK (sideOff x) = false ∧ t.sd x = false ∧ t.f F.DSF_STAT_STATE (sideOff x) = 0 ∧
      t.mfAlign x = false ∧
      Only [0x400000 + sideOff x, F.LIN_DSP_STAT_SD.addr + sideOff x, F.DSF_STAT_STATE.addr + sideOff x,
        F.LIN_SNR_0_UPPER.addr + sideOff x, F.LIN_SNR_1_LOWER.addr + sideOff x] [] s t) ∧
  (∀ (s : State) (q : Req) (x : Side) (on : Bool), Reach s q (0x400000 + sideOff x) → (s.line x).sending = none →
    ∃ t, exec (.txEnable q x on) s = .next t ∧ t.txEn x = on ∧ t.rxEn x = s.rxEn x ∧
      Only [0x400000 + sideOff x, F.LIN_SNR_0_UPPER.addr + sideOff x, F.LIN_SNR_1_LOWER.addr + sideOff x] [] s t) ∧
  (∀ (s : State) (q : Req) (x : Side), Reach s q (0x400000 + sideOff x) →
    ∃ t, exec (.txEnable q x false) s = .next t ∧ (t.line x).sending = none ∧ t.benBall x = none) ∧
  (∀ (s : State) (x : Side), s.rxEn x = true →
    ∃ t, exec (.adcCalibrationDone x) s = .next t ∧ t.flag F.LIN_DSP_STAT_ADC_CAL (sideOff x) = true ∧
      t.flag F.LIN_DSP_STAT_CDR_LOCK (sideOff x) = s.flag F.LIN_DSP_STAT_CDR_LOCK (sideOff x) ∧ t.sd x = s.sd x ∧
      Only [F.LIN_DSP_STAT_SD.addr + sideOff x] [] s t) ∧
  (∀ (s : State) (x : Side), s.rxEn x = true → s.flag F.LIN_DSP_STAT_ADC_CAL (sideOff x) = true →
    s.flag F.LIN_DSP_STAT_CDR_LOCK (sideOff x) = false →
    ∃ t, exec (.cdrLockGained x) s = .next t ∧ t.flag F.LIN_DSP_STAT_CDR_LOCK (sideOff x) = true ∧
      Raised s t (sideEvt x + 1) 1 0 0 ∧ Only [F.LIN_DSP_STAT_SD.addr + sideOff x] [] s t) ∧
  (∀ (s : State) (x : Side), s.flag F.LIN_DSP_STAT_CDR_LOCK (sideOff x) = true → s.dsValid x = false →
    ∃ t, exec (.cdrLockLost x) s = .next t ∧ t.flag F.LIN_DSP_STAT_CDR_LOCK (sideOff x) = false ∧ t.sd x = false ∧
      Raised s t (sideEvt x) 1 0 0 ∧ Only [F.LIN_DSP_STAT_SD.addr + sideOff x] [] s t) ∧
  (∀ (s : State) (x : Side) (steps : List (List Int)) (ts : List Int), s.flag F.LIN_DSP_STAT_CDR_LOCK (sideOff x) = true →
    s.flag F.LIN_DSP_CFG_ADAPT (sideOff x) = true →
    ∃ t, exec (.adaptationConverged x steps ts) s = .next t ∧ t.flag F.LIN_DSP_STAT_CONV (sideOff x) = true ∧
      (t.line x).slicer = (if s.drixis x then [ts.getD 0 0, ts.getD 1 0, ts.getD 2 0]
        else [(s.line x).slicer.getD 0 0, ts.getD 0 0, (s.line x).slicer.getD 2 0]) ∧
      (steps = [] → Only [F.LIN_DSP_STAT_CONV.addr + sideOff x] [] s t)) ∧
  (∀ (s : State) (x : Side) (signs ts : List Int) (n : Nat) (v : Int), s.flag F.LIN_DSP_STAT_CDR_LOCK (sideOff x) = true →
    s.flag F.LIN_DSP_CFG_ADAPT (sideOff x) = true → n < s.tapCount x →
    v = s.tapFine x n + (signs.getD n 0).sign * (2 ^ (15 - max 8 (s.f F.LIN_DSP_CFG_MU (sideOff x))) : Nat) →
    ∃ t, exec (.adaptationConverged x [signs] ts) s = .next t ∧
      t.tapFine x n = (if v < -65536 then -65536 else if 65536 ≤ v then 2047 * 32 else v)) ∧
  (∀ (s : State) (x : Side) (pp : Nat), s.rxEn x = true → s.flag F.LIN_DSP_STAT_CDR_LOCK (sideOff x) = true →
    s.dsValid x = false ∨ s.f F.LIN_DSP_CFG_SD_THR (sideOff x) ≤ pp →
    ∃ t, exec (.signalDetectChange x pp) s = .next t ∧
      t.sd x = decide (s.f F.LIN_DSP_CFG_SD_THR (sideOff x) ≤ pp) ∧ Only [F.LIN_DSP_STAT_SD.addr + sideOff x] [] s t)

/-- R47, R51, R54 to R56, R59 to R65: the decoder's counts, the laser fault, pre-equalisation, receive-power calibration and the
optics buses. -/
def Obligations.LinePhysical : Prop :=
  (∀ (s : State) (x : Side) (idx : Fin 1440) (codes : List Int) (bits iters : Nat) (unc : Bool),
    s.flag F.LIN_DSP_STAT_CDR_LOCK (sideOff x) = true →
    1 ≤ s.f F.LIN_LDPC_CFG_MAX_ITER (sideOff x) → s.f F.LIN_LDPC_CFG_MAX_ITER (sideOff x) ≤ 8 →
    ∃ t bad, exec (.codewordDecode x idx codes bits iters unc) s = .next t ∧
      bad = (unc || decide (s.f F.LIN_LDPC_CFG_MAX_ITER (sideOff x) < iters)) ∧ t.regs = s.regs ∧
      Only [] [dsCnt x 10, dsCnt x 11, dsCnt x 12, dsCnt x 13] s t ∧
      t.counter (dsCnt x 10) = (s.counter (dsCnt x 10) + 1) % 2 ^ 64 ∧
      t.counter (dsCnt x 11) = (s.counter (dsCnt x 11) + bits) % 2 ^ 64 ∧
      t.counter (dsCnt x 12) = (if bad then (s.counter (dsCnt x 12) + 1) % 2 ^ 64 else s.counter (dsCnt x 12)) ∧
      t.counter (dsCnt x 13) = (s.counter (dsCnt x 13) +
        if bad then s.f F.LIN_LDPC_CFG_MAX_ITER (sideOff x) else iters) % 2 ^ 64 ∧
      (t.line x).marks = (if idx.val = 0 then [] else (s.line x).marks) ++ (if bad then [idx.val] else []) ∧
      (t.line x).llr.length = codes.length ∧ (∀ l ∈ (t.line x).llr, -15 ≤ l ∧ l ≤ 15) ∧
      ∀ j d, j < codes.length → nearestDist (s.slicerUse x) (codes.getD j 0) = [d] →
        (t.line x).llr.getD j 0 =
          max (-15) (min 15 (roundAway (d * s.f F.LIN_LDPC_CFG_LLR_SCALE (sideOff x)) 16))) ∧
  (∀ (s : State) (x : Side) (level : Bool), (s.line x).sending = none →
    ∃ t, exec (.txfChange x level) s = .next t ∧ (t.line x).txfPin = level ∧
      t.txf x = (level != s.flag F.LIN_FE_CFG_TXF_POL (sideOff x)) ∧ Only [F.LIN_FE_STAT_TXF.addr + sideOff x] [] s t) ∧
  (∀ (s : State) (x : Side), (s.line x).sending.isSome = true → s.txf x = false →
    ∃ t, exec (.txfChange x (!s.flag F.LIN_FE_CFG_TXF_POL (sideOff x))) s = .next t ∧ (t.line x).sending = none) ∧
  (∀ (raw : List Nat) (id n : Nat), raw.length = 7 → n < 7 →
    peqMin n ≤ signedOf ((peqCheck raw id).taps.getD n 0) 11 ∧ signedOf ((peqCheck raw id).taps.getD n 0) 11 ≤ peqMax n) ∧
  (∀ (s : State) (q : Req) (x : Side) (v : Word), Reach s q (0x400084 + sideOff x) →
    s.f F.LIN_PEQ_CTRL_OWNER (sideOff x) = reqCode q → F.LIN_PEQ_CTRL_LOAD.of v = 1 →
    ∃ t, exec (.peqLoad q x v) s = .next t ∧ t.flag F.LIN_PEQ_STAT_PENDING (sideOff x) = true ∧
      (t.line x).peq = some (peqCheck ((List.range 7).map fun n => s.f F.LIN_PEQ_PEND_RAW (sideOff x + 4 * n))
        (F.LIN_PEQ_CTRL_SET_ID.of v)) ∧
      ∀ n, n < 7 → t.f F.LIN_PEQ_ACT_TAP (sideOff x + 4 * n) = s.f F.LIN_PEQ_ACT_TAP (sideOff x + 4 * n)) ∧
  (∀ (s : State) (q : Req) (x : Side) (v : Word), Reach s q (0x400084 + sideOff x) →
    s.f F.LIN_PEQ_CTRL_OWNER (sideOff x) ≠ reqCode q → F.LIN_PEQ_CTRL_LOAD.of v = 1 →
    ∃ t, exec (.peqLoad q x v) s = .next t ∧ (t.line x).peq = (s.line x).peq ∧
      Raised s t (sideEvt x + 4) 1 0 (256 * reqCode q)) ∧
  (∀ (s : State) (x : Side) (p : PeqSet) (b : Burst), (s.line x).peq = some p → s.peqNext x = some b →
    (s.line x).sending = none → (∀ c ∈ (s.line x).store, b.t0 ≤ c.t0) →
    ∃ t, exec (.peqDecisionPoint x) s = .next t ∧ (t.line x).peq = none ∧ (t.line x).peqMark = b.t0 + 1 ∧
      t.flag F.LIN_PEQ_STAT_PENDING (sideOff x) = false ∧
      ∀ n, n < 7 → t.f F.LIN_PEQ_ACT_TAP (sideOff x + 4 * n) = p.taps.getD n 0 % 2 ^ 11) ∧
  (∀ (s : State) (x : Side) (p : PeqSet) (b : Burst), (s.line x).peq = some p → s.peqNext x = some b →
    ((s.line x).sending.isSome = true ∨ ∃ c ∈ (s.line x).store, c.t0 < b.t0) →
    ∃ t, exec (.peqDecisionPoint x) s = .next t ∧ (t.line x).peq = none ∧ (t.line x).peqMark = b.t0 + 1 ∧
      (t.line x).peqFix = (s.line x).peqFix ++ [(b.t0, p)] ∧ t.regs = s.regs) ∧
  (∀ (s : State) (x : Side) (b : Burst), (s.line x).peq = none → s.peqNext x = some b →
    ∃ t, exec (.peqDecisionPoint x) s = .next t ∧ (t.line x).peqMark = b.t0 + 1 ∧ t.regs = s.regs) ∧
  (∀ (s : State) (x : Side), s.peqNext x = none → exec (.peqDecisionPoint x) s = .next s) ∧
  (∀ (s : State) (q : Req) (x : Side) (k : Fin 8) (v : Word), Reach s q (0x200404 + 0x40 * sideNo x + 8 * k.val) →
    ∃ t, exec (.rxpCalCommit q x k v) s = .next t ∧
      t.reg (0x200400 + 0x40 * sideNo x + 8 * k.val) = s.reg (shadowKey (0x200400 + 0x40 * sideNo x + 8 * k.val)) ∧
      t.reg (0x200404 + 0x40 * sideNo x + 8 * k.val) = v &&& 0xFFFF#32 ∧
      Only [0x200400 + 0x40 * sideNo x + 8 * k.val, 0x200404 + 0x40 * sideNo x + 8 * k.val] [] s t) ∧
  (∀ (s : State) (q : Req) (x : Side) (v : Word), Reach s q (0x4000D4 + sideOff x) →
    s.f F.LIN_I2C_CFG_OWNER (sideOff x) = reqCode q → F.LIN_I2C_CMD_GO.of v = 1 →
    (s.flag F.LIN_I2C_STAT_BUSY (sideOff x) = true → ∃ t, exec (.i2cTransactionStart q x v) s = .next t ∧
      t.flag F.LIN_I2C_STAT_OVERRUN (sideOff x) = true ∧ Only [F.LIN_I2C_STAT_BUSY.addr + sideOff x] [] s t) ∧
    (s.flag F.LIN_I2C_STAT_BUSY (sideOff x) = false →
      F.LIN_I2C_CMD_BUS.of v = 0 ∨ s.flag F.LIN_I2C_CFG_BUS1_EN (sideOff x) = true →
      ∃ t, exec (.i2cTransactionStart q x v) s = .next t ∧ t.flag F.LIN_I2C_STAT_BUSY (sideOff x) = true ∧
        t.f F.LIN_I2C_CMD_LEN (sideOff x) = F.LIN_I2C_CMD_LEN.of v ∧
        Only [F.LIN_I2C_STAT_BUSY.addr + sideOff x, 0x4000D4 + sideOff x] [] s t) ∧
    (s.flag F.LIN_I2C_STAT_BUSY (sideOff x) = false → F.LIN_I2C_CMD_BUS.of v = 1 →
      s.flag F.LIN_I2C_CFG_BUS1_EN (sideOff x) = false →
      ∃ t, exec (.i2cTransactionStart q x v) s = .next t ∧ t.flag F.LIN_I2C_STAT_DONE (sideOff x) = true ∧
        t.f F.LIN_I2C_STAT_RESULT (sideOff x) = 4 ∧ Raised s t (sideEvt x + 5) 1 0 4)) ∧
  (∀ (s : State) (x : Side) (r : Fin 4) (bytes : List Byte), s.flag F.LIN_I2C_STAT_BUSY (sideOff x) = true →
    ∃ t, exec (.i2cTransactionDone x r bytes) s = .next t ∧ t.flag F.LIN_I2C_STAT_BUSY (sideOff x) = false ∧
      t.flag F.LIN_I2C_STAT_DONE (sideOff x) = true ∧ t.f F.LIN_I2C_STAT_RESULT (sideOff x) = r.val ∧
      (r.val = 0 → s.flag F.LIN_I2C_CMD_READ (sideOff x) = true → ∀ i, i ≤ s.f F.LIN_I2C_CMD_LEN (sideOff x) →
        i < 8 → (t.reg (0x4000D8 + 4 * (i / 4) + sideOff x)).toNat / 256 ^ (i % 4) % 256 = (byteAt bytes i).toNat)) ∧
  (∀ (s : State) (q : Req) (x : Side) (v : Word), Reach s q (0x4000D0 + sideOff x) → F.LIN_I2C_CFG_BUS1_EN.of v = 1 →
    s.flag F.LIN_I2C_CFG_BUS1_EN (sideOff x) = false →
    (s.resFree (State.gpRes x) = true → ∃ t, exec (.i2cBus1Enable q x v) s = .next t ∧
      t.flag F.LIN_I2C_CFG_BUS1_EN (sideOff x) = true ∧ t.resFeature (State.gpRes x) = 10) ∧
    (s.resFree (State.gpRes x) = false → ∃ t, exec (.i2cBus1Enable q x v) s = .next t ∧
      t.flag F.LIN_I2C_CFG_BUS1_EN (sideOff x) = false ∧ t.resFeature (State.gpRes x) = s.resFeature (State.gpRes x) ∧
      t.reg (bankKey q 0x180) = BitVec.ofNat 32 (State.gpRes x * 256 + 2) ∧ Only [bankKey q 0x180] [] s t)) ∧
  (∀ (s : State) (q : Req) (x : Side) (v : Word), Reach s q (0x4000D0 + sideOff x) → F.LIN_I2C_CFG_BUS1_EN.of v = 0 →
    s.flag F.LIN_I2C_CFG_BUS1_EN (sideOff x) = true →
    ∃ t, exec (.i2cBus1Enable q x v) s = .next t ∧ t.flag F.LIN_I2C_CFG_BUS1_EN (sideOff x) = false ∧
      t.resFree (State.gpRes x) = true)

/-- R67, R69, R81 to R83: a frame outside SYNC changes nothing. In SYNC the superframe counter advances by one a frame, present or
missing, presets the descrambler, and is followed for one frame when it fails; two failures or two missing frames in a row are
dLOF. A window in HUNT becomes a candidate; one where a candidate expects it confirms it, or discards it and may become one. -/
def Obligations.DownstreamFrames : Prop :=
  (∀ (r : Nat) (bs : List Byte), scramble r (scramble r bs) = bs) ∧
  (∀ (s : State) (x : Side) (f : DsFrame), s.inSync x = false → exec (.downstreamFrame x f) s = .next s) ∧
  (∀ (s : State) (x : Side) (f : DsFrame), s.inSync x = true → dsPsyncErr f (s.drixis x) ≤ s.psyncTol x →
    (hecFix f.sfc).isSome = true → dsCount f = (s.line x).sfcPred →
    ∃ t, exec (.downstreamFrame x f) s = .next t ∧ (t.line x).sfcPred = (dsCount f + 1) % 2 ^ 51 ∧
      (t.line x).curSfc = dsCount f ∧ (t.line x).curTick = s.tick ∧ (t.line x).psyncMiss = 0 ∧ (t.line x).sfcFail = 0 ∧
      (t.line x).info = dsInfo f (s.drixis x) (dsCount f) ∧ t.inSync x = true ∧
      (t.line x).curOk = (!s.drixis x || dsCtlOk (dsInfo f (s.drixis x) (dsCount f))) ∧
      t.counter (dsCnt x 0) = (s.counter (dsCnt x 0) + 1) % 2 ^ 64) ∧
  (∀ (s : State) (x : Side) (f : DsFrame), s.inSync x = true → dsPsyncErr f (s.drixis x) ≤ s.psyncTol x →
    hecFix f.sfc = none ∨ dsCount f ≠ (s.line x).sfcPred →
    ∃ t, exec (.downstreamFrame x f) s = .next t ∧ t.counter (dsCnt x 4) = (s.counter (dsCnt x 4) + 1) % 2 ^ 64 ∧
      (t.line x).curSfc = (s.line x).sfcPred ∧ (t.line x).curTick = s.tick ∧
      ((s.line x).sfcFail = 0 → (t.line x).sfcPred = ((s.line x).sfcPred + 1) % 2 ^ 51 ∧ (t.line x).sfcFail = 1 ∧
        t.inSync x = true ∧ (t.line x).info = dsInfo f (s.drixis x) (s.line x).sfcPred) ∧
      (1 ≤ (s.line x).sfcFail → t.lof x = true ∧ t.inSync x = false ∧ t.dsValid x = false)) ∧
  (∀ (s : State) (x : Side) (f : DsFrame), s.inSync x = true → s.psyncTol x < dsPsyncErr f (s.drixis x) →
    ∃ t, exec (.downstreamFrame x f) s = .next t ∧ t.dsValid x = false ∧ (t.line x).curOk = false ∧
      (t.line x).sfcPred = ((s.line x).sfcPred + 1) % 2 ^ 51 ∧ (t.line x).curSfc = (s.line x).sfcPred ∧
      t.counter (dsCnt x 2) = (s.counter (dsCnt x 2) + 1) % 2 ^ 64 ∧
      ((s.line x).psyncMiss = 0 → (t.line x).psyncMiss = 1 ∧ t.inSync x = true) ∧
      (1 ≤ (s.line x).psyncMiss → t.lof x = true ∧ t.inSync x = false)) ∧
  (∀ (s : State) (x : Side) (pos : Nat) (f : DsFrame), s.inSync x = true ∨ s.rxEn x = false →
    exec (.psyncMatch x pos f) s = .next s) ∧
  (∀ (s : State) (x : Side) (pos : Nat) (f : DsFrame), s.inSync x = false → s.rxEn x = true → s.candAt x pos = none →
    (s.sd x = true → dsPsyncErr f (s.drixis x) ≤ s.psyncTol x → (s.line x).cands.length < 4 →
      ∃ t c, exec (.psyncMatch x pos f) s = .next t ∧ (t.line x).cands = (s.line x).cands ++ [c] ∧ c.pos = pos ∧
        c.sfc = dsCount f ∧ t.f F.DSF_STAT_STATE (sideOff x) = 1 ∧
        t.f F.DSF_STAT_CAND (sideOff x) = (s.line x).cands.length + 1 ∧
        t.counter (dsCnt x 3) = (s.counter (dsCnt x 3) + (if hecFixed f.sfc then 1 else 0)) % 2 ^ 64 ∧
        Only [F.DSF_STAT_STATE.addr + sideOff x] [dsCnt x 3, dsCnt x 5] s t) ∧
    (s.sd x = false ∨ s.psyncTol x < dsPsyncErr f (s.drixis x) ∨ 4 ≤ (s.line x).cands.length →
      exec (.psyncMatch x pos f) s = .next s)) ∧
  (∀ (s : State) (x : Side) (pos : Nat) (f : DsFrame) (c : Cand), s.inSync x = false → s.rxEn x = true →
    s.candAt x pos = some c →
    (dsPsyncErr f (s.drixis x) ≤ s.psyncTol x → c.hecOk = true → (hecFix f.sfc).isSome = true →
      dsCount f = (c.sfc + 1) % 2 ^ 51 →
      ∃ t, exec (.psyncMatch x pos f) s = .next t ∧ t.inSync x = true ∧ t.lof x = false ∧ (t.line x).cands = [] ∧
        (t.line x).curSfc = dsCount f ∧ (t.line x).curTick = s.tick) ∧
    (dsPsyncErr f (s.drixis x) ≤ s.psyncTol x → s.sd x = true → (s.line x).cands.length ≤ 4 →
      c.hecOk = false ∨ hecFix f.sfc = none ∨ dsCount f ≠ (c.sfc + 1) % 2 ^ 51 →
      ∃ t d, exec (.psyncMatch x pos f) s = .next t ∧ (t.line x).cands = (s.line x).cands.erase c ++ [d] ∧ d.pos = pos ∧
        d.sfc = dsCount f ∧ Only [F.DSF_STAT_STATE.addr + sideOff x] [dsCnt x 3, dsCnt x 5] s t) ∧
    (s.psyncTol x < dsPsyncErr f (s.drixis x) ∨ (s.sd x = false ∧
        (c.hecOk = false ∨ hecFix f.sfc = none ∨ dsCount f ≠ (c.sfc + 1) % 2 ^ 51)) →
      ∃ t, exec (.psyncMatch x pos f) s = .next t ∧ (t.line x).cands = (s.line x).cands.erase c ∧
        t.f F.DSF_STAT_STATE (sideOff x) = (if (s.line x).cands.length ≤ 1 then 0 else 1) ∧
        Only [F.DSF_STAT_STATE.addr + sideOff x] [] s t))

/-- R74 to R79 and R96: an encapsulated frame moves the delineation to the next header, or loses it; one of an accepted port
joins the client frame of its port, ends it and delivers it, or is discarded with it; a management message passes the filter
or does not. -/
def Obligations.FramesAndMessages : Prop :=
  (∀ (s : State) (x : Side) (g : Hec), s.frameUsable x = false ∨ (s.line x).delinLost = true ∨
    (s.line x).payEnd < (s.line x).encPos + (if s.drixis x then 12 else Config.gHeaderBytes) →
    exec (.encapFrameReceive x g) s = .next s) ∧
  (∀ (s : State) (x : Side) (g hec : Hec) (h stop : Nat), EncapAt s x g hec h stop →
    hec = .bad ∨ (s.line x).payEnd < stop →
    ∃ t, exec (.encapFrameReceive x g) s = .next t ∧ (t.line x).delinLost = true ∧ t.regs = s.regs ∧
      (t.line x).reasm = (s.line x).reasm.filter (fun e => e.2.bad) ∧ Only [] [dsCnt x 16, dsCnt x 17, dsCnt x 19] s t ∧
      t.counter (dsCnt x 16) = (s.counter (dsCnt x 16) + (if hec = .corrected then 1 else 0)) % 2 ^ 64 ∧
      t.counter (dsCnt x 17) = (s.counter (dsCnt x 17) + 1) % 2 ^ 64) ∧
  (∀ (s : State) (x : Side) (g hec : Hec) (h stop : Nat), EncapAt s x g hec h stop → hec ≠ .bad →
    stop ≤ (s.line x).payEnd → (s.drixis x = true ∧ bitsOf h 76 20 = 0xFFFFF) ∨ s.pidMatches x (bitsOf h 76 20) = [] →
    ∃ t, exec (.encapFrameReceive x g) s = .next t ∧ (t.line x).encPos = stop ∧ (t.line x).reasm = (s.line x).reasm ∧
      t.xings = s.xings ∧ Only [] [dsCnt x 16] s t) ∧
  (∀ (s : State) (x : Side) (g hec : Hec) (h stop n : Nat), EncapTaken s x g hec h stop n →
    s.lineMarked x (s.line x).encPos (stop - (s.line x).encPos) = true →
    ∃ t, exec (.encapFrameReceive x g) s = .next t ∧ EncapCounted s t x hec h stop [dsCnt x 18, dsCnt x 19] ∧
      EncapDropped s t x h ∧ t.counter (dsCnt x 18) = (s.counter (dsCnt x 18) + 1) % 2 ^ 64) ∧
  (∀ (s : State) (x : Side) (g hec : Hec) (h stop n k : Nat), EncapTaken s x g hec h stop n →
    s.lineMarked x (s.line x).encPos (stop - (s.line x).encPos) = false → encapText s x h n = .error k →
    ∃ t, exec (.encapFrameReceive x g) s = .next t ∧ EncapCounted s t x hec h stop [secCnt k, dsCnt x 19] ∧
      EncapDropped s t x h ∧ t.counter (secCnt k) = (s.counter (secCnt k) + 1) % 2 ^ 64) ∧
  (∀ (s : State) (x : Side) (g hec : Hec) (h stop n : Nat) (p : List Byte), EncapTaken s x g hec h stop n →
    s.lineMarked x (s.line x).encPos (stop - (s.line x).encPos) = false → encapText s x h n = .ok p →
    ((s.reasmOf x (bitsOf h 76 20)).bad = true →
      ∃ t, exec (.encapFrameReceive x g) s = .next t ∧ EncapCounted s t x hec h stop [secCnt 11] ∧ t.xings = s.xings ∧
        (t.reasmOf x (bitsOf h 76 20)).bad = !bitOf h 57) ∧
    ((s.reasmOf x (bitsOf h 76 20)).bad = false →
      16384 < (s.reasmOf x (bitsOf h 76 20)).data.length + p.length →
      ∃ t, exec (.encapFrameReceive x g) s = .next t ∧ EncapCounted s t x hec h stop [secCnt 11, dsCnt x 19] ∧
        t.xings = s.xings ∧ (t.reasmOf x (bitsOf h 76 20)).bad = (!bitOf h 57) ∧
        t.counter (dsCnt x 19) = (s.counter (dsCnt x 19) + 1) % 2 ^ 64) ∧
    ((s.reasmOf x (bitsOf h 76 20)).bad = false → bitOf h 57 = false →
      (s.reasmOf x (bitsOf h 76 20)).data.length + p.length ≤ 16384 →
      ∃ t, exec (.encapFrameReceive x g) s = .next t ∧ EncapCounted s t x hec h stop [secCnt 11] ∧ t.xings = s.xings ∧
        (t.reasmOf x (bitsOf h 76 20)).live = true ∧
        (t.reasmOf x (bitsOf h 76 20)).data = (s.reasmOf x (bitsOf h 76 20)).data ++ p ∧
        ∀ k, k ≠ bitsOf h 76 20 → t.reasmOf x k = s.reasmOf x k) ∧
    ((s.reasmOf x (bitsOf h 76 20)).bad = false → bitOf h 57 = true →
      (s.reasmOf x (bitsOf h 76 20)).data.length + p.length ≤ 16384 →
      ∃ t f, exec (.encapFrameReceive x g) s = .next t ∧ (t.line x).encPos = stop ∧
        (t.reasmOf x (bitsOf h 76 20)).live = false ∧ (∀ k, k ≠ bitsOf h 76 20 → t.reasmOf x k = s.reasmOf x k) ∧
        f.data = (s.reasmOf x (bitsOf h 76 20)).data ++ p ∧ f.src = sideNo x ∧ f.port = bitsOf h 76 20 ∧
        f.exp = bitOf h 56 ∧ f.seq = bitsOf h 32 24 ∧
        ∀ i, i = (if x = .a then 0 else 2) →
          (s.xRoom i f.exp f.data.length = true → (t.xing i).exp ++ (t.xing i).other =
            (if f.exp then (s.xing i).exp ++ f :: (s.xing i).other else (s.xing i).exp ++ (s.xing i).other ++ [f])) ∧
          (s.xRoom i f.exp f.data.length = false → t.xings = s.xings ∧
            t.counter (dsCnt x 20) = (s.counter (dsCnt x 20) + 1) % 2 ^ 64))) ∧
  (∀ (s : State) (x : Side) (pos n : Nat), s.frameUsable x = true → (s.line x).msgAt < (s.line x).msgN →
    n = (if s.drixis x then 64 else 48) →
    pos = (if s.drixis x then (s.line x).msgStart + 64 * (s.line x).msgAt
      else Config.gMessageAt (s.line x).info (s.line x).msgAt) →
    ∃ t, exec (.mgmtMessageReceive x) s = .next t ∧ (t.line x).msgAt = (s.line x).msgAt + 1 ∧
      ((s.infoAt x pos n).length = n → s.lineMarked x pos n = true → Only [] [dsCnt x 22] s t ∧ t.xings = s.xings ∧
        t.counter (dsCnt x 22) = (s.counter (dsCnt x 22) + 1) % 2 ^ 64) ∧
      ((s.infoAt x pos n).length = n → s.lineMarked x pos n = false → s.msgAccepted x (s.infoAt x pos n) = false →
        t.regs = s.regs ∧ t.counters = s.counters ∧ t.xings = s.xings) ∧
      ((s.infoAt x pos n).length = n → s.lineMarked x pos n = false → s.msgAccepted x (s.infoAt x pos n) = true →
        t.counter (dsCnt x 21) = (s.counter (dsCnt x 21) + 1) % 2 ^ 64 ∧
        ∀ i, i = (if x = .a then 0 else 2) →
          (s.xRoom i false n = true → ∃ m, (t.xing i).other = (s.xing i).other ++ [m] ∧ m.msg = true ∧
            m.data = s.infoAt x pos n ∧ Only [F.XNG_STAT_OCC.addr + 0x20 * i] [dsCnt x 21] s t) ∧
          (s.xRoom i false n = false → t.xings = s.xings ∧ Only [] [dsCnt x 21, dsCnt x 22] s t ∧
            t.counter (dsCnt x 22) = (s.counter (dsCnt x 22) + 1) % 2 ^ 64))) ∧
  (∀ (s : State) (x : Side), s.frameUsable x = false ∨ (s.line x).msgN ≤ (s.line x).msgAt →
    exec (.mgmtMessageReceive x) s = .next s)

/-- R86 to R88, R92, R95, R97 and R127: loss of signal, the ranging hold timer, the one-second latch and the overhead-channel
inputs. -/
def Obligations.LineSupervision : Prop :=
  (∀ (s : State) (x : Side), s.rxEn x = true → s.flag F.LIN_DSP_STAT_ADC_CAL (sideOff x) = true → s.sd x = false →
    s.los x = false →
    ∃ t, exec (.losDeclare x) s = .next t ∧ t.los x = true ∧ t.lof x = s.lof x ∧
      t.counter (dsCnt x 8) = (s.counter (dsCnt x 8) + 1) % 2 ^ 64 ∧
      (s.lof x = false → s.dsValid x = false → s.actState x ≠ 4 → 1 ≤ s.f F.DSF_HOLD_HOLD (sideOff x) →
        t.actState x = 4 ∧ t.f F.UPB_ACT_RETURN (sideOff x) = s.actState x ∧ (t.line x).holdStart = s.tick + 1)) ∧
  (∀ (s : State) (x : Side), s.rxEn x = true → s.flag F.LIN_DSP_STAT_ADC_CAL (sideOff x) = true → s.sd x = true →
    s.los x = true →
    ∃ t, exec (.losClear x) s = .next t ∧ t.los x = false ∧ t.lof x = s.lof x ∧ t.dsValid x = s.dsValid x ∧
      t.actState x = s.actState x) ∧
  (∀ (s : State) (x : Side), (s.line x).holdStart ≠ 0 →
    ∃ t, exec (.rangingHoldExpire x) s = .next t ∧ (t.line x).holdStart = 0 ∧
      (s.f F.UPB_ACT_RETURN (sideOff x) = 5 → t.actState x = 5) ∧
      (s.f F.UPB_ACT_RETURN (sideOff x) = 0 → t.actState x = 0) ∧
      (s.f F.UPB_ACT_RETURN (sideOff x) ≠ 5 → s.f F.UPB_ACT_RETURN (sideOff x) ≠ 0 → t.actState x = 1 ∧
        t.flag F.DSF_TID_VALID (sideOff x) = false ∧ (t.line x).store = [] ∧ (t.line x).eqdEff = 0)) ∧
  (∀ (s : State) (x : Side), s.secAt x = true →
    ∃ t, exec (.pmLatch x) s = .next t ∧ t.secAt x = false ∧
      t.f F.DSF_PM_SEQ_SEQ (sideOff x) = (s.f F.DSF_PM_SEQ_SEQ (sideOff x) + 1) % 2 ^ 32 ∧
      ∀ i, i < 26 → t.pmBank x ((s.f F.DSF_PM_SEQ_SEQ (sideOff x) + 1) % 2) i =
        s.counter (dsCnt x i) % 2 ^ State.pmWidth i) ∧
  (∀ (s : State) (x : Side) (second : Bool) (bytes : List Byte), s.drixis x = false →
    exec (.odcInsertMultiframe x second bytes) s = .next s) ∧
  (∀ (s : State) (x : Side) (bytes : List Byte), s.drixis x = true → s.flag F.DSF_ODC_CFG_ODC1_IN_EN (sideOff x) = true →
    ∃ t, exec (.odcInsertMultiframe x false bytes) s = .next t ∧ (t.line x).odcIn2 = (s.line x).odcIn2 ∧
      ((s.line x).odcIn1.length < 2 → (t.line x).odcIn1 = (s.line x).odcIn1 ++ [bytesAt bytes 0 64] ∧ t.regs = s.regs) ∧
      (2 ≤ (s.line x).odcIn1.length → (t.line x).odcIn1 = (s.line x).odcIn1.tail ++ [bytesAt bytes 0 64] ∧
        t.flag F.DSF_ODC_STAT_ODC1_OVER (sideOff x) = true ∧ Raised s t (sideEvt x + 18) 1 0 33 ∧
        t.counter (dsCnt x 25) = (s.counter (dsCnt x 25) + 1) % 2 ^ 64)) ∧
  (∀ (s : State) (x : Side) (bytes : List Byte), s.drixis x = true → s.flag F.DSF_ODC_CFG_ODC2_IN_EN (sideOff x) = true →
    (s.line x).odcIn2.length < 2 →
    ∃ t, exec (.odcInsertMultiframe x true bytes) s = .next t ∧ (t.line x).odcIn1 = (s.line x).odcIn1 ∧
      (t.line x).odcIn2 = (s.line x).odcIn2 ++ [bytesAt bytes 0 256] ∧ t.regs = s.regs) ∧
  (∀ (s : State) (x : Side) (bytes : List Byte), s.drixis x = true → s.flag F.DSF_ODC_CFG_ODC2_IN_EN (sideOff x) = true →
    2 ≤ (s.line x).odcIn2.length →
    ∃ t, exec (.odcInsertMultiframe x true bytes) s = .next t ∧ (t.line x).odcIn1 = (s.line x).odcIn1 ∧
      (t.line x).odcIn2 = (s.line x).odcIn2.tail ++ [bytesAt bytes 0 256] ∧
      t.flag F.DSF_ODC_STAT_ODC2_OVER (sideOff x) = true ∧ Raised s t (sideEvt x + 18) 1 0 34) ∧
  (∀ (s : State) (q : Req) (x : Side) (v : Word), Reach s q (0x401030 + sideOff x) → F.DSF_ODC_CFG_ODC2_IN_EN.of v = 1 →
    s.flag F.DSF_ODC_CFG_ODC2_IN_EN (sideOff x) = false →
    (s.resFree (12 + sideNo x) = true → ∃ t, exec (.odc2InputEnable q x v) s = .next t ∧
      t.flag F.DSF_ODC_CFG_ODC2_IN_EN (sideOff x) = true ∧ t.resFeature (12 + sideNo x) = 9) ∧
    (s.resFree (12 + sideNo x) = false → ∃ t, exec (.odc2InputEnable q x v) s = .next t ∧
      t.flag F.DSF_ODC_CFG_ODC2_IN_EN (sideOff x) = false ∧ t.resFeature (12 + sideNo x) = s.resFeature (12 + sideNo x) ∧
      t.reg (bankKey q 0x180) = BitVec.ofNat 32 ((12 + sideNo x) * 256 + 2))) ∧
  (∀ (s : State) (q : Req) (x : Side) (v : Word), Reach s q (0x401030 + sideOff x) → F.DSF_ODC_CFG_ODC2_IN_EN.of v = 0 →
    s.flag F.DSF_ODC_CFG_ODC2_IN_EN (sideOff x) = true →
    ∃ t, exec (.odc2InputEnable q x v) s = .next t ∧ t.flag F.DSF_ODC_CFG_ODC2_IN_EN (sideOff x) = false ∧
      t.resFree (12 + sideNo x) = true ∧ t.f F.DSF_ODC_CFG_ODC1_IN_EN (sideOff x) = F.DSF_ODC_CFG_ODC1_IN_EN.of v)

/-- R46, R79, R103, R105 to R107, R114, R118 to R120: grants, assembly, the burst on the line, messages and EqD. -/
def Obligations.Bursts : Prop :=
  (∀ (s : State) (x : Side) (g : Hec) (d : Nat), s.frameUsable x = false ∨ (s.line x).mapN ≤ (s.line x).mapAt →
    exec (.bwmapEntryReceive x g d) s = .next s) ∧
  (∀ (s : State) (x : Side) (g : Hec) (d : Nat), s.frameUsable x = true → (s.line x).mapAt + 1 = (s.line x).mapN →
    ∃ t, exec (.bwmapEntryReceive x g d) s = .next t ∧ (t.line x).mapAt = (s.line x).mapN ∧ (t.line x).mapBurst = none ∧
      (t.line x).mapCount = 0) ∧
  (∀ (s : State) (x : Side) (g : Hec) (d : Nat), s.frameUsable x = true → (s.line x).mapAt + 1 < (s.line x).mapN →
    s.drixis x = true → s.lineMarked x (mapStart + 16 * (s.line x).mapAt) 16 = true →
    ∃ t, exec (.bwmapEntryReceive x g d) s = .next t ∧ t.regs = s.regs ∧ Only [] [dsCnt x 23] s t ∧
      (t.line x).mapAt = (s.line x).mapAt + 1 ∧ (t.line x).mapBurst = (s.line x).mapBurst ∧
      t.counter (dsCnt x 23) = (s.counter (dsCnt x 23) + 1) % 2 ^ 64) ∧
  (∀ (s : State) (x : Side) (g : Hec) (d : Nat), s.frameUsable x = true →
    (s.line x).mapAt + 1 < (s.line x).mapN → s.drixis x = true →
    s.lineMarked x (mapStart + 16 * (s.line x).mapAt) 16 = false → (s.line x).mapHeld = true →
    ∃ t, exec (.bwmapEntryReceive x g d) s = .next t ∧ (t.line x).mapAt = (s.line x).mapAt + 1 ∧ t.regs = s.regs ∧
      t.counters = s.counters ∧ (t.line x).store = (s.line x).store ∧ (t.line x).mapBurst = (s.line x).mapBurst) ∧
  (∀ (s : State) (x : Side) (e key : Nat) (g : Hec) (d : Nat), s.frameUsable x = true →
    (s.line x).mapAt + 1 < (s.line x).mapN → s.drixis x = true →
    s.lineMarked x (mapStart + 16 * (s.line x).mapAt) 16 = false → (s.line x).mapHeld = false →
    crc16Check (s.infoAt x (mapStart + 16 * (s.line x).mapAt) 16) = (.ok, beBytes 16 e) → e < 2 ^ 128 →
    s.entryTaken x e = some key → key ≠ State.keySerial → (s.line x).mapBurst = none → entType e = 0 → entCkt e = false →
    entOdc e = false → entStart e ≤ 388799 → s.flag F.UPB_PROF_VALID (sideOff x + 0x20 * entProf e) = true →
    1 ≤ entSize e →
    ∃ t b a, exec (.bwmapEntryReceive x g d) s = .next t ∧ t.regs = s.regs ∧ t.counters = s.counters ∧
      (t.line x).mapBurst = some b ∧ b.start = entStart e ∧ b.prof = entProf e ∧ b.msgu = entMsgu e ∧ b.allocs = [a] ∧
      a.key = key ∧ a.id = entAlloc e ∧ a.size = entSize e ∧ a.bsr = entBsr e ∧ (t.line x).store = (s.line x).store) ∧
  (∀ (s : State) (x : Side) (e key : Nat) (g : Hec) (d : Nat), s.frameUsable x = true →
    (s.line x).mapAt + 1 < (s.line x).mapN → s.drixis x = true →
    s.lineMarked x (mapStart + 16 * (s.line x).mapAt) 16 = false → (s.line x).mapHeld = false →
    crc16Check (s.infoAt x (mapStart + 16 * (s.line x).mapAt) 16) = (.bad, beBytes 16 e) → e < 2 ^ 128 →
    s.entryTaken x e = some key → entStart e = 0xFFFFF →
    ∃ t, exec (.bwmapEntryReceive x g d) s = .next t ∧ (t.line x).store = (s.line x).store ∧
      (t.line x).mapBurst = (s.line x).mapBurst ∧ Only [] [usCnt x 5] s t ∧
      t.counter (usCnt x 5) = (s.counter (usCnt x 5) + 1) % 2 ^ 64) ∧
  (∀ (s : State) (x : Side) (bad : List (Fin 6272 × Nat)) (b : Burst), ((s.line x).store.find? fun b => !b.asm) = some b →
    ∃ t b', exec (.burstAssemblyStart x bad) s = .next t ∧ b'.asm = true ∧ b'.rdi = s.rdi x ∧ b'.start = b.start ∧
      b'.w = b.w ∧ b'.t0 = b.t0 ∧ b'.allocs.length = b.allocs.length ∧
      (t.line x).store = (s.line x).store.map fun c => if c == b then b' else c) ∧
  (∀ (s : State) (x : Side), ((s.line x).store.find? fun b => !b.asm) = none →
    exec (.burstAssemblyStart x []) s = .next s) ∧
  (∀ (s : State) (x : Side), (s.line x).sending = none → (s.line x).store.head?.any (s.benWindow x) = false →
    (s.flag F.UPB_BRIDLE_STAT_FAULT_HOLD (sideOff x) = true ∨ s.rogue x = true → exec (.burstTransmit x) s = .next s) ∧
    (s.flag F.UPB_BRIDLE_STAT_FAULT_HOLD (sideOff x) = false → s.rogue x = false → s.txOff = true →
      ∃ t, exec (.burstTransmit x) s = .next t ∧ t.counter (usCnt x 12) = (s.counter (usCnt x 12) + 1) % 2 ^ 64 ∧
        t.regs = s.regs) ∧
    (s.flag F.UPB_BRIDLE_STAT_FAULT_HOLD (sideOff x) = false → s.txOff = false →
      s.rogue x = false → ∃ t, exec (.burstTransmit x) s = .next t ∧ t.rogue x = true)) ∧
  (∀ (s : State) (x : Side) (b : Burst) (r : List Burst), (s.line x).sending = none → (s.line x).store = b :: r →
    s.benWindow x b = true → b.t0 / 128 + 1 < s.tick + s.lead x → exec (.burstTransmit x) s = .next s) ∧
  (∀ (s : State) (x : Side) (b : Burst) (r : List Burst), (s.line x).sending = none → (s.line x).store = b :: r →
    b.asm = true → b.t0 / 128 ≤ s.tick + s.lead x + 1 → s.tick + s.lead x ≤ b.t0 / 128 + 1 →
    s.tick ≤ s.burstEnd x b + 1 →
    (s.flag F.UPB_BRIDLE_STAT_FAULT_HOLD (sideOff x) = false → s.rogue x = false → s.mayTransmit x = true →
      s.txOff = false → s.txf x = false →
      ∃ t, exec (.burstTransmit x) s = .next t ∧ t.flag F.LIN_FE_STAT_BEN (sideOff x) = true ∧
        (t.line x).sending = some b ∧ (t.line x).lastPre = s.burstPre x b ∧ (t.line x).lastBurst = s.burstStream x b ∧
        (t.line x).store = r) ∧
    (s.flag F.UPB_BRIDLE_STAT_FAULT_HOLD (sideOff x) = false → s.rogue x = false →
      s.mayTransmit x = false ∨ s.txOff = true →
      ∃ t, exec (.burstTransmit x) s = .next t ∧ (t.line x).sending = none ∧
        (t.line x).store = r ∧ t.counter (usCnt x 12) = (s.counter (usCnt x 12) + 1) % 2 ^ 64) ∧
    (s.flag F.UPB_BRIDLE_STAT_FAULT_HOLD (sideOff x) = false → s.rogue x = false → s.mayTransmit x = true →
      s.txOff = false → s.txf x = true →
      ∃ t, exec (.burstTransmit x) s = .next t ∧ (t.line x).sending = none ∧
        (t.line x).store = r ∧ t.counter (usCnt x 13) = (s.counter (usCnt x 13) + 1) % 2 ^ 64) ∧
    (s.flag F.UPB_BRIDLE_STAT_FAULT_HOLD (sideOff x) = true ∨ s.rogue x = true →
      ∃ t, exec (.burstTransmit x) s = .next t ∧ (t.line x).sending = none ∧ (t.line x).store = r)) ∧
  (∀ (s : State) (q : Req) (x : Side) (v : Word), Reach s q (0x406140 + sideOff x) →
    s.f F.UPB_CFG_MSG_OWNER (sideOff x) = reqCode q → F.UPB_MSG_PUSH_PUSH.of v = 1 →
    ((s.line x).msgs.length < 16 → ∃ t m, exec (.upstreamMessagePush q x v) s = .next t ∧
      (t.line x).msgs = (s.line x).msgs ++ [m] ∧ m.length = 64 ∧
      (∀ k, k < 16 → bytesAt m (4 * k) 4 = beBytes 4 (s.reg (0x406100 + sideOff x + 4 * k)).toNat) ∧
      t.f F.UPB_MSG_STAT_COUNT (sideOff x) = (s.line x).msgs.length + 1 ∧
      Only [F.UPB_MSG_STAT_COUNT.addr + sideOff x] [] s t) ∧
    (16 ≤ (s.line x).msgs.length → ∃ t, exec (.upstreamMessagePush q x v) s = .next t ∧
      (t.line x).msgs = (s.line x).msgs ∧ t.flag F.UPB_MSG_STAT_OVF (sideOff x) = true)) ∧
  (∀ (s : State) (q : Req) (x : Side) (v : Word), Reach s q (0x406140 + sideOff x) →
    s.f F.UPB_CFG_MSG_OWNER (sideOff x) = reqCode q → F.UPB_MSG_PUSH_PUSH.of v = 0 →
    exec (.upstreamMessagePush q x v) s = .next s) ∧
  (∀ (s : State) (q : Req) (x : Side) (v : Word), Reach s q (0x406020 + sideOff x) →
    (s.f F.UPB_CFG_MSG_OWNER (sideOff x) = reqCode q → ∃ t, exec (.eqdWrite q x v) s = .next t ∧
      t.f F.UPB_EQD_EQD (sideOff x) = F.UPB_EQD_EQD.of v ∧ t.flag F.UPB_EQD_PENDING (sideOff x) = true ∧
      (t.line x).eqdEff = (s.line x).eqdEff ∧ Only [0x406020 + sideOff x] [] s t) ∧
    (s.f F.UPB_CFG_MSG_OWNER (sideOff x) ≠ reqCode q → ∃ t, exec (.eqdWrite q x v) s = .next t ∧ Only [] [] s t ∧
      Raised s t (sideEvt x + 4) 1 0 (2 + 256 * reqCode q)))

/-- R122 to R128: Bridle's unlock sequence and the activation commands. -/
def Obligations.Activation : Prop :=
  (∀ (s : State) (x : Side) (v : Word), Reach s .host (0x406188 + sideOff x) →
    ∃ t, exec (.bridleUnlockStage .host x v) s = .next t ∧ Only [F.UPB_BRIDLE_STAT_ROGUE.addr + sideOff x] [] s t ∧
      t.rogue x = s.rogue x ∧
      t.unlockStage x = if v = 0x0000B1D1#32 then 1
        else if s.unlockStage x = 1 ∧ v = 0x0000E5C0#32 then 2 else 0) ∧
  (∀ (s : State) (q : Req) (x : Side) (v : Word), Reach s q (0x406188 + sideOff x) → q ≠ .host →
    exec (.bridleUnlockStage q x v) s = .next s) ∧
  (∀ (s : State) (x : Side), ∃ t, exec (.bridleUnlockTimeout x) s = .next t ∧ t.unlockStage x = 0 ∧ t.rogue x = s.rogue x ∧
    Only [F.UPB_BRIDLE_STAT_ROGUE.addr + sideOff x] [] s t) ∧
  (∀ (s : State) (x : Side) (v : Word), Reach s .host (0x406184 + sideOff x) → F.UPB_BRIDLE_STAT_ROGUE.of v = 1 →
    (s.unlockStage x = 2 → ∃ t, exec (.rogueClear .host x v) s = .next t ∧ t.rogue x = false ∧ t.unlockStage x = 0) ∧
    (s.unlockStage x ≠ 2 → exec (.rogueClear .host x v) s = .next s)) ∧
  (∀ (s : State) (q : Req) (x : Side) (v : Word), Reach s q (0x406184 + sideOff x) →
    q ≠ .host ∨ F.UPB_BRIDLE_STAT_ROGUE.of v = 0 → exec (.rogueClear q x v) s = .next s) ∧
  (∀ (s : State) (q : Req) (x : Side), Reach s q (0x406004 + sideOff x) →
    s.f F.UPB_CFG_MSG_OWNER (sideOff x) = reqCode q →
    (s.actState x = 1 → s.f F.UPB_TID_TID (sideOff x) ≤ 0xFFFD → ∃ t, exec (.upbAssignTid q x) s = .next t ∧
      t.actState x = 2 ∧ t.f F.DSF_TID_TID (sideOff x) = s.f F.UPB_TID_TID (sideOff x) ∧
      t.flag F.DSF_TID_VALID (sideOff x) = true ∧ (t.line x).eqdEff = 0 ∧ (t.line x).to1 = s.tick + 1) ∧
    (s.actState x ≠ 1 ∨ 0xFFFD < s.f F.UPB_TID_TID (sideOff x) → ∃ t, exec (.upbAssignTid q x) s = .next t ∧
      t.actState x = s.actState x ∧
      t.reg (0x102000 + 4 * (sideEvt x + 27)) = s.reg (0x102000 + 4 * (sideEvt x + 27)) + 1) ∧
    (s.actState x = 2 → s.to1Due x = false →
      ∃ t, exec (.upbRanged q x) s = .next t ∧ t.actState x = 3 ∧ (t.line x).to1 = 0) ∧
    (s.actState x = 2 → (s.line x).to1 ≠ 0 → (s.line x).to1 - 1 + s.f F.UPB_TMR_TO1 (sideOff x) * 777600 ≤ s.tick →
      ∃ t, exec (.upbRanged q x) s = .next t ∧ t.actState x = 1 ∧ (t.line x).to1 = 0 ∧
        t.reg (0x102000 + 4 * (sideEvt x + 27)) = s.reg (0x102000 + 4 * (sideEvt x + 27)) + 1) ∧
    (s.actState x ≠ 2 → ∃ t, exec (.upbRanged q x) s = .next t ∧ t.actState x = s.actState x) ∧
    (s.actState x = 2 ∨ s.actState x = 3 → ∃ t, exec (.upbDeactivate q x) s = .next t ∧ t.actState x = 1 ∧
      t.flag F.DSF_TID_VALID (sideOff x) = false ∧ (t.line x).store = [] ∧ (t.line x).eqdEff = 0 ∧ (t.line x).to1 = 0 ∧
      ∀ n, n < 512 → t.flag F.UPB_ALLOC_VALID (sideOff x + 4 * n) = false) ∧
    (s.actState x ≠ 4 → s.actState x ≠ 5 → ∃ t, exec (.upbDisable q x) s = .next t ∧ t.actState x = 5 ∧
      (t.line x).store = [] ∧ (t.line x).sending = none ∧ (t.line x).to1 = 0) ∧
    (s.actState x = 4 → ∃ t, exec (.upbDisable q x) s = .next t ∧ t.actState x = 4 ∧
      t.f F.UPB_ACT_RETURN (sideOff x) = 5 ∧ (t.line x).store = []) ∧
    (s.actState x = 5 → ∃ t, exec (.upbEnable q x) s = .next t ∧ t.actState x = 0) ∧
    (s.actState x = 4 → s.f F.UPB_ACT_RETURN (sideOff x) = 5 → ∃ t, exec (.upbEnable q x) s = .next t ∧
      t.actState x = 4 ∧ t.f F.UPB_ACT_RETURN (sideOff x) = 0)) ∧
  (∀ (s : State) (x : Side), s.actState x = 0 → s.dsValid x = true → s.anyProfile x = true → s.f F.PWR_STATE_STATE ≠ 2 →
    ∃ t, exec (.upbSerialNumberEnter x) s = .next t ∧ t.actState x = 1 ∧ t.dsValid x = true) ∧
  (∀ (s : State) (x : Side), s.actState x ≠ 0 ∨ s.dsValid x = false ∨ s.anyProfile x = false ∨ s.f F.PWR_STATE_STATE = 2 →
    exec (.upbSerialNumberEnter x) s = .next s) ∧
  (∀ (s : State) (x : Side), s.actState x = 2 → (s.line x).to1 ≠ 0 →
    ∃ t, exec (.to1Expire x) s = .next t ∧ t.actState x = 1 ∧ t.flag F.DSF_TID_VALID (sideOff x) = false ∧
      (t.line x).store = [] ∧ (t.line x).to1 = 0)

/-- R136, R138 to R144, R150: the pairing mode, protection commands and the wait to restore. -/
def Obligations.Protection : Prop :=
  (∀ (s : State) (q : Req) (v : Word), Reach s q 0x800000 →
    (s.pairingRefused v = true → ∃ t, exec (.pairingConfigWrite q v) s = .next t ∧ t.reg 0x800000 = s.reg 0x800000 ∧
      t.flag F.PRT_STAT_CFG_REFUSED = true ∧ t.prt = s.prt ∧ Only [0x800008] [] s t ∧
      Raised s t 196 1 0 (F.PRT_CFG_MODE.of v)) ∧
    (s.pairingRefused v = false → ∃ t, exec (.pairingConfigWrite q v) s = .next t ∧ t.reg 0x800000 = v &&& 0x000FFF0F#32 ∧
      t.prt.expect = [] ∧ (F.PRT_CFG_MODE.of v ≠ s.prtMode → t.prt.held = [] ∧ t.prt.seqCtr = []))) ∧
  (∀ (s : State) (q : Req), Reach s q 0x800004 → s.prtMode = 1 → s.flag F.PRT_STAT_LOCKED = false →
    s.eligible (sideOther s.active) = true → s.flag F.PRT_CFG_REVERT = false → s.prt.autoTick ≠ s.tick + 1 →
    s.autoDue = false → ∃ t, exec (.prtManual q) s = .next t ∧ t.active = sideOther s.active ∧
      t.reg 0x80000C = s.reg 0x80000C + 1 ∧
      t.reg 0x800010 = BitVec.ofNat 32 s.tick ∧ t.reg 0x800014 = BitVec.ofNat 32 (s.tick / 2 ^ 32) ∧
      t.prt.resume = s.tick + 1) ∧
  (∀ (s : State) (q : Req), Reach s q 0x800004 →
    s.prtMode ≠ 1 ∨ s.flag F.PRT_STAT_LOCKED = true ∨ s.eligible (sideOther s.active) = false ∨
      s.prt.autoTick = s.tick + 1 ∨ s.autoDue = true →
    ∃ t, exec (.prtManual q) s = .next t ∧ t.prt = s.prt ∧ Only [] [] s t ∧
      Raised s t 195 1 0 (1 + (if s.flag F.PRT_STAT_LOCKED then 8 else 0) +
        (if s.eligible (sideOther s.active) then 16 else 0))) ∧
  (∀ (s : State) (q : Req), Reach s q 0x800004 → s.prtMode = 1 →
    (∃ t, exec (.prtLock q) s = .next t ∧ t.flag F.PRT_STAT_LOCKED = true ∧ t.active = s.active ∧
      t.reg 0x80000C = s.reg 0x80000C) ∧
    (s.flag F.PRT_STAT_LOCKED = true → ∃ t, exec (.prtUnlock q) s = .next t ∧ t.flag F.PRT_STAT_LOCKED = false) ∧
    (s.flag F.PRT_STAT_LOCKED = false → ∃ t, exec (.prtUnlock q) s = .next t ∧ t.prt = s.prt ∧ Only [] [] s t)) ∧
  (∀ (s : State) (q : Req), Reach s q 0x800004 → s.prtMode ≠ 1 →
    (∃ t, exec (.prtLock q) s = .next t ∧ t.prt = s.prt ∧ Only [] [] s t ∧ Raised s t 195 1 0 (2 +
      (if s.flag F.PRT_STAT_LOCKED then 8 else 0) + (if s.eligible (sideOther s.active) then 16 else 0))) ∧
    ∃ t, exec (.prtUnlock q) s = .next t ∧ t.prt = s.prt ∧ Only [] [] s t) ∧
  (∀ (s : State), s.pending = [] → s.autoDue = true → s.causesOf s.active ≠ [] →
    ∃ t, step s = .next t ∧ t.active = sideOther s.active ∧ t.reg 0x80000C = s.reg 0x80000C + 1 ∧
      t.prt.due = false ∧ t.prt.autoTick = s.tick + 1 ∧ t.prt.resume = s.tick + 1) ∧
  (∀ (s : State), (s.prt.wtr = 0 ∨ s.prt.autoTick = s.tick + 1 ∨ s.autoDue = true ∨ s.eligible s.home = false →
      exec .wtrExpire s = .next s) ∧
    (s.prt.wtr ≠ 0 → s.prt.autoTick ≠ s.tick + 1 → s.autoDue = false → s.eligible s.home = true →
      ∃ t, exec .wtrExpire s = .next t ∧ t.active = s.home ∧ t.prt.wtr = 0 ∧
      t.flag F.PRT_STAT_WTR_RUN = false ∧ t.reg 0x80000C = s.reg 0x80000C + 1 ∧
      t.reg (0x102000 + 4 * 194) = s.reg (0x102000 + 4 * 194) + 1))

/-- R150 to R152: the reorder store delivers a frame with the expected sequence value, holds one ahead of it, discards one
behind it, and gives up a gap when the window of the oldest held frame ends. -/
def Obligations.ReorderStore : Prop :=
  (∀ (s : State) (x : Side) (e : Bool), s.dsHead x e = none → exec (.reorderArrival x e) s = .next s) ∧
  (∀ (s : State) (x : Side) (e : Bool) (f : Frame), s.dsHead x e = some f → s.roFrame x f = true → s.prt.held = [] →
    s.roExpect f.port = none ∨ s.roExpect f.port = some f.seq →
    ∃ t, exec (.reorderArrival x e) s = .next t ∧ t.prt.out = s.prt.out ++ [f] ∧ t.prt.held = [] ∧
      t.roExpect f.port = some ((f.seq + 1) % 2 ^ 24) ∧ t.counters = s.counters ∧
      t.xings = (s.dsTake x e).xings) ∧
  (∀ (s : State) (x : Side) (e : Bool) (f : Frame) (n : Nat), s.dsHead x e = some f → s.roFrame x f = true →
    s.roExpect f.port = some n → 2 ^ 23 ≤ State.roDist f.seq n →
    ∃ t, exec (.reorderArrival x e) s = .next t ∧ t.prt = s.prt ∧ t.xings = (s.dsTake x e).xings ∧
      t.counter (prtCnt 2) = (s.counter (prtCnt 2) + 1) % 2 ^ 64) ∧
  (∀ (s : State) (x : Side) (e : Bool) (f : Frame) (n : Nat), s.dsHead x e = some f → s.roFrame x f = true →
    s.roExpect f.port = some n → 0 < State.roDist f.seq n → State.roDist f.seq n < 2 ^ 23 → s.prt.held.length < 16384 →
    ((s.roHeld f.port).any fun h => h.frame.seq == f.seq) = false → f.handle ≠ 0 →
    ∃ t, exec (.reorderArrival x e) s = .next t ∧ t.prt.held = s.prt.held ++ [{ frame := f, tick := s.tick }] ∧
      t.prt.out = s.prt.out ∧ t.roExpect f.port = some n ∧ t.f F.PRT_RO_OCC_HELD = s.prt.held.length + 1 ∧
      t.counter (prtCnt 0) = (s.counter (prtCnt 0) + 1) % 2 ^ 64) ∧
  (∀ (s : State) (p : Fin 1048576) (e d : Nat), s.roExpect p.val = some e → s.roLowest p.val e = some d →
    (∀ h ∈ s.prt.held, h.frame.seq < 2 ^ 24) →
    ∃ t f l, exec (.reorderWindowExpire p) s = .next t ∧ t.prt.out = s.prt.out ++ f :: l ∧ f.port = p.val ∧
      State.roDist f.seq e = d ∧ t.counter (prtCnt 1) = (s.counter (prtCnt 1) + d) % 2 ^ 64) ∧
  (∀ (s : State) (p : Fin 1048576) (h : HeldFrame) (e : Nat), s.prt.held = [h] → h.frame.port = p.val →
    s.roExpect p.val = some e → e < 2 ^ 24 → h.frame.seq < 2 ^ 24 →
    ∃ t, exec (.reorderWindowExpire p) s = .next t ∧ t.prt.out = s.prt.out ++ [h.frame] ∧ t.prt.held = [] ∧
      t.roExpect p.val = some ((h.frame.seq + 1) % 2 ^ 24) ∧ t.f F.PRT_RO_OCC_HELD = 0 ∧
      t.counter (prtCnt 1) = (s.counter (prtCnt 1) + State.roDist h.frame.seq e) % 2 ^ 64)

/-- R163 to R170 and R180: the Harness frame boundary, alignment, page-swap requests and the standby pages. -/
def Obligations.Circuits : Prop :=
  (∀ (s : State), s.harEn = false → exec .harnessFrameBoundary s = .next s) ∧
  (∀ (s : State) (h : Nat), s.harEn = true → s.regionUp 4 = true → s.har.forceDs = false → s.har.forceUs = false →
    s.har.boundary = h → h ≠ 0 →
    (s.har.rxDone = [] → ∃ t c, exec .harnessFrameBoundary s = .next t ∧
      t.har.boundary = (if h < s.har.alignAt then min (h + 97200) s.har.alignAt else h + 97200) ∧
      t.har.alignAt = (if h < s.har.alignAt then s.har.alignAt else 0) ∧
      t.har.copies = (c :: s.har.copies).take 8 ∧ c.tick = h ∧ c.again = true ∧
      t.counter (cktCnt 7) = (s.counter (cktCnt 7) + 1) % 2 ^ 64) ∧
    (∀ c, s.har.rxDone = [c] → ∃ t d, exec .harnessFrameBoundary s = .next t ∧
      t.har.copies = (d :: s.har.copies).take 8 ∧ d.tick = h ∧ d.rows = c.rows ∧ d.again = false ∧ t.har.rxDone = [] ∧
      t.counter (cktCnt 7) = s.counter (cktCnt 7))) ∧
  (∀ (s : State), s.harEn = true → s.regionUp 4 = true →
    ∃ t, exec .harnessFrameBoundary s = .next t ∧ t.har.forceDs = false ∧ t.har.forceUs = false ∧
      (s.har.alignAt = 0 → t.har.boundary = (if s.har.boundary = 0 then s.tick else s.har.boundary) + 97200) ∧
      (s.har.forceDs = true → t.flag F.CKT_STAT_PEND_DS = false) ∧
      (s.har.forceUs = true → t.flag F.CKT_STAT_PEND_US = false)) ∧
  (∀ (s : State), s.har.wantAlign = true → s.harEn = true → s.dsValid s.harRef = true →
    ∃ t, exec .harnessAlign s = .next t ∧ t.har.alignAt = (s.line s.harRef).curTick + 101088 ∧ t.har.wantAlign = false ∧
      t.har.boundary = (if s.har.boundary = 0 then (s.line s.harRef).curTick + 101088
        else min s.har.boundary ((s.line s.harRef).curTick + 101088)) ∧
      t.flag F.CKT_STAT_ALIGNED = true ∧ Only [0x900008] [] s t ∧
      Raised s t 234 1 0 (sideNo s.harRef + (if s.har.laterAlign then 2 else 0))) ∧
  (∀ (s : State) (q : Req), Reach s q 0x900004 → s.grade ≠ .fbx →
    (∃ t, exec (.harRealign q) s = .next t ∧ t.har.wantAlign = true ∧ t.har.laterAlign = true ∧ t.regs = s.regs) ∧
    (s.flag F.CKT_STAT_PEND_DS = false → ∃ t, exec (.swapDs q) s = .next t ∧ t.flag F.CKT_STAT_PEND_DS = true ∧
      t.har.reqDs = s.tick + 1 ∧ t.flag F.CKT_STAT_PEND_US = s.flag F.CKT_STAT_PEND_US ∧ Only [0x900008] [] s t) ∧
    (s.flag F.CKT_STAT_PEND_DS = true → exec (.swapDs q) s = .next s) ∧
    (s.flag F.CKT_STAT_PEND_US = false → ∃ t, exec (.swapUs q) s = .next t ∧ t.flag F.CKT_STAT_PEND_US = true ∧
      t.har.reqUs = s.tick + 1 ∧ t.flag F.CKT_STAT_PEND_DS = s.flag F.CKT_STAT_PEND_DS ∧ Only [0x900008] [] s t) ∧
    (s.flag F.CKT_STAT_PEND_US = true → exec (.swapUs q) s = .next s) ∧
    (∃ t, exec (.cktForce q) s = .next t ∧ t.regs = s.regs ∧ t.counters = s.counters ∧
      t.har = { s.har with
        forceDs := s.har.forceDs || s.flag F.CKT_STAT_PEND_DS, forceUs := s.har.forceUs || s.flag F.CKT_STAT_PEND_US })) ∧
  (∀ (s : State) (q : Req), Reach s q 0x900004 → s.grade = .fbx →
    exec (.harRealign q) s = .next s ∧ exec (.swapDs q) s = .next s ∧ exec (.swapUs q) s = .next s ∧
      exec (.cktForce q) s = .next s) ∧
  (∀ (s : State) (q : Req) (us : Bool) (h : Fin 3776) (v : Word),
    Reach s q ((if us then 0x920000 else 0x910000) + 4 * h.val) → s.grade ≠ .fbx →
    (s.flag (if us then F.CKT_STAT_PEND_US else F.CKT_STAT_PEND_DS) = false →
      ∃ t, exec (.cmStandbyWrite q us h v) s = .next t ∧
        t.reg ((if us then 0x920000 else 0x910000) + 4 * h.val) = v &&& 0xE0000FFF#32 ∧
        Only [(if us then 0x920000 else 0x910000) + 4 * h.val] [] s t) ∧
    (s.flag (if us then F.CKT_STAT_PEND_US else F.CKT_STAT_PEND_DS) = true →
      ∃ t, exec (.cmStandbyWrite q us h v) s = .next t ∧ t.flag F.CKT_STAT_BUSY_WR = true ∧ Only [0x900008] [] s t ∧
        Raised s t 225 1 0 (h.val + (if us then 4096 else 0))))

/-- R168: at a multiframe boundary of the reference side a pending downstream swap that has waited 2.000 µs exchanges the active
and the standby page, entry by entry; the upstream pages stay. -/
def Obligations.PageExchange : Prop :=
  ∀ (s : State), s.memOk = true → (∀ e ∈ s.regs, 0x910000 ≤ e.1 → e.1 < 0x950000 → e.1 % 4 = 0) →
    s.mfAlign s.harRef = true → s.f F.DSF_STAT_MFI (sideOff s.harRef) = 0 → s.flag F.CKT_STAT_PEND_DS = true →
    s.har.forceDs = false → s.flag F.CKT_STAT_PEND_US = false → s.har.reqDs * 10 + 15552 ≤ ((s.line s.harRef).curTick + 1) * 10 →
    ∃ t, exec .pageSwap s = .next t ∧ t.flag F.CKT_STAT_PEND_DS = false ∧ t.har.reqDs = 0 ∧
      t.counter (cktCnt 8) = (s.counter (cktCnt 8) + 1) % 2 ^ 64 ∧
      (∀ h, h < 3776 → t.reg (0x930000 + 4 * h) = s.reg (0x910000 + 4 * h) ∧
        t.reg (0x910000 + 4 * h) = s.reg (0x930000 + 4 * h)) ∧
      (∀ h, h < 3776 → t.reg (0x940000 + 4 * h) = s.reg (0x940000 + 4 * h) ∧
        t.reg (0x920000 + 4 * h) = s.reg (0x920000 + 4 * h))

/-- R37, R172 to R180: the Harness link. -/
def Obligations.HarnessLink : Prop :=
  (∀ (st : Nat) (ds : List Nat), st < 2 ^ 58 → (∀ d ∈ ds, d < 2 ^ 64) →
    selfDescrambled st (selfScrambled st ds).1 = (ds, (selfScrambled st ds).2)) ∧
  (∀ (s : State) (boundary n k r bip st : Nat), (s.harTxRows boundary n k r bip st).length = 60 * k ∧
    ∀ b ∈ s.harTxRows boundary n k r bip st, headerBad (blockHeader false b) = false) ∧
  (∀ (s : State) (q : Req) (v : Word), Reach s q 0x980000 → s.grade ≠ .fbx → s.harEn = false → s.resFree 14 = true →
    ∃ t, exec (.harnessEnable q v) s = .next t ∧ t.harEn = true ∧ t.resFeature 14 = 11 ∧
      t.f F.HAR_CFG_RX_POL = F.HAR_CFG_RX_POL.of v ∧ t.flag F.HAR_STAT_TX_TRAIN = true ∧
      t.f F.HAR_STAT_LANE_LOCK = 0 ∧ t.f F.HAR_STAT_BLK_LOCK = 0 ∧ t.f F.HAR_STAT_QUAR = 0 ∧
      t.flag F.HAR_STAT_LINK_UP = false) ∧
  (∀ (s : State) (q : Req) (v : Word), Reach s q 0x980000 → s.grade = .fbx →
    ∃ t, exec (.harnessEnable q v) s = .next t ∧ t.harEn = s.harEn ∧ t.har = s.har ∧ Only [bankKey q 0x180] [] s t ∧
      t.reg (bankKey q 0x180) = BitVec.ofNat 32 (14 * 256 + 2) ∧ Raised s t 11 1 0 (14 + 256 * reqCode q)) ∧
  (∀ (s : State), s.harEn = true → s.flag F.HAR_STAT_RXCK_OK = false →
    ∃ t, exec .harnessRxckDetect s = .next t ∧ t.flag F.HAR_STAT_RXCK_OK = true ∧ t.har.rxLost = false ∧
      Only [0x980008] [harCnt 5] s t ∧ (s.har.rxLost = false → t.counters = s.counters) ∧
      (s.har.rxLost = true → Raised s t 230 1 0 0 ∧ ∀ n, n < 8 → s.laneBit F.HAR_STAT_QUAR n = false →
        sget (fun _ => 0) t.har.retrain n = s.tick + 1)) ∧
  (∀ (s : State) (n : Fin 8), s.harEn = true → s.flag F.HAR_STAT_RXCK_OK = true → s.laneBit F.HAR_STAT_QUAR n.val = false →
    ∃ t, exec (.laneBlockLock n) s = .next t ∧ t.laneBit F.HAR_STAT_BLK_LOCK n.val = true ∧
      (∀ m, m < 8 → m ≠ n.val → t.laneBit F.HAR_STAT_BLK_LOCK m = s.laneBit F.HAR_STAT_BLK_LOCK m) ∧
      t.f F.HAR_STAT_LANE_LOCK = s.f F.HAR_STAT_LANE_LOCK ∧ Only [0x980008] [] s t) ∧
  (∀ (s : State), ∃ t, exec .harnessTxTrainEnd s = .next t ∧ t.flag F.HAR_STAT_TX_TRAIN = false ∧
    t.f F.HAR_STAT_LANE_LOCK = s.f F.HAR_STAT_LANE_LOCK ∧ Only [0x980008] [] s t) ∧
  (∀ (s : State) (n lane : Fin 8) (skew : Fin 256), s.harEn = true → s.laneBit F.HAR_STAT_BLK_LOCK n.val = true →
    s.laneBit F.HAR_STAT_QUAR n.val = false → s.laneBit F.HAR_STAT_LANE_LOCK n.val = false → skew.val ≤ 64 →
    (∀ m, m < 8 → s.laneBit F.HAR_STAT_LANE_LOCK m = true → s.laneOf m ≠ lane.val) →
    ∃ t, exec (.laneAlign n lane skew) s = .next t ∧ t.laneBit F.HAR_STAT_LANE_LOCK n.val = true ∧
      t.laneOf n.val = lane.val ∧ t.f F.HAR_LANE_SKEW (4 * n.val) = skew.val ∧
      Only [0x980008, 0x980010 + 4 * n.val] [] s t) ∧
  (∀ (s : State) (n : Fin 8) (al : Bool),
    s.laneBit (if al then F.HAR_STAT_LANE_LOCK else F.HAR_STAT_BLK_LOCK) n.val = true →
    ∃ t, exec (.laneLockLoss n al) s = .next t ∧ t.laneBit F.HAR_STAT_LANE_LOCK n.val = false ∧
      (al = false → t.laneBit F.HAR_STAT_BLK_LOCK n.val = false) ∧
      sget (fun _ => 0) t.har.retrain n.val = s.tick + 1 ∧
      t.counter (harCnt 5) = (s.counter (harCnt 5) + 1) % 2 ^ 64 ∧
      t.reg (0x102000 + 4 * 228) = s.reg (0x102000 + 4 * 228) + 1 ∧
      (s.flag F.HAR_EYE_CFG_BUSY = false → Only [0x980008, 0x980010 + 4 * n.val] [harCnt 5] s t) ∧
      (s.flag F.HAR_EYE_CFG_BUSY = true → s.laneBit F.HAR_STAT_LANE_LOCK n.val = true → s.laneOf n.val = s.har.eyeLane →
        t.flag F.HAR_EYE_CFG_BUSY = false ∧ t.flag F.HAR_EYE_CFG_DONE = true ∧
        t.reg (0x102000 + 4 * 236) = s.reg (0x102000 + 4 * 236) + 1)) ∧
  (∀ (s : State) (n : Fin 8),
    (sget (fun _ => 0) s.har.retrain n.val = 0 → exec (.laneRetrainTimeout n) s = .next s) ∧
    (sget (fun _ => 0) s.har.retrain n.val ≠ 0 → s.f F.HAR_LANE_FAILS (4 * n.val) < 2 →
      ∃ t, exec (.laneRetrainTimeout n) s = .next t ∧
        t.f F.HAR_LANE_FAILS (4 * n.val) = s.f F.HAR_LANE_FAILS (4 * n.val) + 1 ∧
        sget (fun _ => 0) t.har.retrain n.val = s.tick + 1 ∧ Only [0x980010 + 4 * n.val] [harCnt 5] s t) ∧
    (sget (fun _ => 0) s.har.retrain n.val ≠ 0 → s.f F.HAR_LANE_FAILS (4 * n.val) = 2 → s.f F.HAR_STAT_QUAR = 0 →
      ∃ t, exec (.laneRetrainTimeout n) s = .next t ∧ t.f F.HAR_STAT_QUAR = 2 ^ n.val ∧
        t.laneBit F.HAR_STAT_LANE_LOCK n.val = false ∧ t.laneBit F.HAR_STAT_BLK_LOCK n.val = false ∧
        t.reg (0x102000 + 4 * 229) = s.reg (0x102000 + 4 * 229) + 2)) ∧
  (∀ (s : State) (q : Req), Reach s q 0x980004 → s.grade ≠ .fbx → s.harEn = true →
    ∃ t, exec (.harRetrain q) s = .next t ∧ t.flag F.HAR_STAT_TX_TRAIN = true ∧ t.f F.HAR_STAT_QUAR = 0 ∧
      t.f F.HAR_STAT_LANE_LOCK = 0 ∧ t.f F.HAR_STAT_BLK_LOCK = 0 ∧ t.flag F.HAR_STAT_LINK_UP = false ∧
      (∀ n, n < 8 → t.f F.HAR_LANE_FAILS (4 * n) = 0) ∧ t.harEn = true) ∧
  (∀ (s : State), s.flag F.HAR_STAT_RXCK_OK = true →
    ∃ t, exec .harnessRxckLoss s = .next t ∧ t.flag F.HAR_STAT_RXCK_OK = false ∧ t.f F.HAR_STAT_LANE_LOCK = 0 ∧
      t.f F.HAR_STAT_BLK_LOCK = 0 ∧ t.flag F.HAR_STAT_LINK_UP = false ∧ t.har.rxLost = true ∧
      t.reg (0x102000 + 4 * 230) = s.reg (0x102000 + 4 * 230) + 1) ∧
  (∀ (s : State) (n : Fin 8) (drop : Bool) (r : Fin 810), s.laneBit F.HAR_STAT_LANE_LOCK n.val = true →
    ∃ t, exec (.rowSlip n drop r) s = .next t ∧ t.counter (harCnt 4) = (s.counter (harCnt 4) + 1) % 2 ^ 64 ∧
      Only [] [harCnt 4] s t ∧
      ∀ k, sget (fun _ => []) t.har.rx.rows k =
        if k = r.val * 8 + s.laneOf n.val then [] else sget (fun _ => []) s.har.rx.rows k) ∧
  (∀ (s : State) (q : Req) (v : Word), Reach s q 0x980040 → s.grade ≠ .fbx → s.flag F.HAR_EYE_CFG_BUSY = false →
    ∃ t, exec (.eyeScanStart q v) s = .next t ∧ t.flag F.HAR_EYE_CFG_BUSY = true ∧
      t.f F.HAR_EYE_CFG_LANE = F.HAR_EYE_CFG_LANE.of v ∧ t.f F.HAR_EYE_CFG_DWELL = F.HAR_EYE_CFG_DWELL.of v ∧
        t.har.eyeLane = F.HAR_EYE_CFG_LANE.of v ∧
      ∀ k, k < 4096 → t.reg (0x981000 + 4 * k) = 0) ∧
  (∀ (s : State) (ps : List Nat), s.flag F.HAR_EYE_CFG_BUSY = true → ps.length ≤ 4096 →
    ∃ t, exec (.eyeScanDone ps) s = .next t ∧ t.flag F.HAR_EYE_CFG_BUSY = false ∧ t.flag F.HAR_EYE_CFG_DONE = true ∧
      (∀ k, k < ps.length → t.reg (0x981000 + 4 * k) = BitVec.ofNat 32 (2 ^ 31 + min (ps.getD k 0) 0xFFFF)) ∧
      Raised s t 236 1 0 (s.har.eyeLane + (if ps.length < 4096 then 8 else 0))) ∧
  (∀ (s : State) (n : Fin 8) (row : List (BitVec 66)) (oh : Nat) (ps : List Nat), s.rowPayloads n.val row = (oh :: ps,
      (s.rowPayloads n.val row).2) →
    (s.laneBit F.HAR_STAT_BLK_LOCK n.val = false → exec (.harnessRowReceive n row) s = .next s) ∧
    (s.laneBit F.HAR_STAT_BLK_LOCK n.val = true →
      (headersJoin (sget (fun _ => 0) s.har.hdrs n.val) (s.rowHeaders n.val row)).2 = true →
      ∃ t, exec (.harnessRowReceive n row) s = .next t ∧ t.laneBit F.HAR_STAT_BLK_LOCK n.val = false ∧
        sget (fun _ => 0) t.har.retrain n.val = s.tick + 1 ∧
        t.counter (harCnt 0) = (s.counter (harCnt 0) + row.length) % 2 ^ 64) ∧
    (s.laneBit F.HAR_STAT_BLK_LOCK n.val = true → s.laneBit F.HAR_STAT_LANE_LOCK n.val = true →
      (headersJoin (sget (fun _ => 0) s.har.hdrs n.val) (s.rowHeaders n.val row)).2 = false →
      ohCrc oh = oh % 256 → sget (fun _ => 0) s.har.rowNext n.val = ohRow oh + 1 → 0 < ohRow oh → ohRow oh < 809 →
      ∃ t, exec (.harnessRowReceive n row) s = .next t ∧
        sget (fun _ => []) t.har.rx.rows (ohRow oh * 8 + s.laneOf n.val) = ps.flatMap (beBytes 8) ∧
        sget (fun _ => 0) t.har.rowNext n.val = ohRow oh + 2 ∧ t.flag F.HAR_STAT_FAR_RDI = ohRdi oh ∧
        t.counter (harCnt 0) = (s.counter (harCnt 0) + row.length) % 2 ^ 64 ∧
        t.counter (harCnt 1) = (s.counter (harCnt 1) + ((s.rowHeaders n.val row).filter id).length) % 2 ^ 64 ∧
        Only [0x980008] [harCnt 0, harCnt 1, harCnt 3] s t))

/-- R197 to R200: the staging commands, one discarded while the requester's last is in progress (in this model one that reached a
classifier held in reset, log 227), and the table modes. -/
def Obligations.StagingCommands : Prop :=
  (∀ (s : State) (q : Req) (copy : Bool) (p : Fin 8) (i : Fin 262144), Reach s q 0xA00290 → ClsFree s q →
    (s.changeRefused q true copy p.val i.val true = 0 → ∃ t, exec (.clsWrite q true copy p i) s = .next t ∧
      t.emAt (s.cmdCopy true copy) i.val =
        { valid := false, prof := p.val, key := s.stagedKey q 0xA00200, act := s.stagedAct q } ∧
      (∀ c j, c * 2 ^ 18 + j ≠ s.cmdCopy true copy * 2 ^ 18 + i.val → t.emAt c j = s.emAt c j) ∧ t.tc = s.tc ∧
      ClsResult t q 0 ∧ Only [bankKey q 0xA00294, F.MEM_FLIP_CFG_ARM.addr] [] s t) ∧
    (s.changeRefused q false copy p.val i.val true = 0 → ∃ t, exec (.clsWrite q false copy p i) s = .next t ∧
      t.tcAt (s.cmdCopy false copy) i.val =
        { valid := false, key := s.stagedKey q 0xA00200, mask := s.stagedKey q 0xA00240, act := s.stagedAct q, hits := 0 } ∧
      (∀ c j, c * 2 ^ 18 + j ≠ s.cmdCopy false copy * 2 ^ 18 + i.val → t.tcAt c j = s.tcAt c j) ∧ t.em = s.em ∧
      ClsResult t q 0 ∧ Only [bankKey q 0xA00294, F.MEM_FLIP_CFG_ARM.addr] [] s t)) ∧
  (∀ (s : State) (q : Req) (exact copy : Bool) (p : Fin 8) (i : Fin 262144) (r : Nat), Reach s q 0xA00290 → ClsFree s q →
    s.changeRefused q exact copy p.val i.val true = r + 1 → ∃ t, exec (.clsWrite q exact copy p i) s = .next t ∧
      t.tc = s.tc ∧ t.em = s.em ∧ ClsResult t q (r + 1) ∧ Only [bankKey q 0xA00294] [] s t ∧
      Raised s t 262 1 0 (1 + 16 * (r + 1) + 256 * reqCode q)) ∧
  (∀ (s : State) (q : Req) (copy : Bool) (i : Fin 262144), Reach s q 0xA00290 → ClsFree s q →
    s.changeRefused q false copy 0 i.val false = 0 →
    (∃ t, exec (.clsSetvalid q false copy i) s = .next t ∧
      t.tcAt (s.cmdCopy false copy) i.val = { s.tcAt (s.cmdCopy false copy) i.val with valid := true } ∧
      (∀ c j, c * 2 ^ 18 + j ≠ s.cmdCopy false copy * 2 ^ 18 + i.val → t.tcAt c j = s.tcAt c j) ∧ t.em = s.em ∧
      ClsResult t q 0) ∧
    (∃ t, exec (.clsClearvalid q false copy i) s = .next t ∧
      t.tcAt (s.cmdCopy false copy) i.val = { s.tcAt (s.cmdCopy false copy) i.val with valid := false } ∧
      (∀ c j, c * 2 ^ 18 + j ≠ s.cmdCopy false copy * 2 ^ 18 + i.val → t.tcAt c j = s.tcAt c j) ∧ t.em = s.em ∧
      ClsResult t q 0)) ∧
  (∀ (s : State) (q : Req) (copy : Bool) (i : Fin 262144), Reach s q 0xA00290 → ClsFree s q →
    s.changeRefused q true copy 0 i.val false = 0 →
    ∃ t, exec (.clsClearvalid q true copy i) s = .next t ∧
      t.emAt (s.cmdCopy true copy) i.val = { s.emAt (s.cmdCopy true copy) i.val with valid := false } ∧
      (∀ c j, c * 2 ^ 18 + j ≠ s.cmdCopy true copy * 2 ^ 18 + i.val → t.emAt c j = s.emAt c j) ∧ t.tc = s.tc ∧
      ClsResult t q 0) ∧
  (∀ (s : State) (q : Req) (exact copy : Bool) (i : Fin 262144) (r : Nat), Reach s q 0xA00290 → ClsFree s q →
    s.changeRefused q exact copy 0 i.val false = r + 1 →
    (∃ t, exec (.clsSetvalid q exact copy i) s = .next t ∧ t.tc = s.tc ∧ t.em = s.em ∧ ClsResult t q (r + 1) ∧
      Only [bankKey q 0xA00294] [] s t) ∧
    ∃ t, exec (.clsClearvalid q exact copy i) s = .next t ∧ t.tc = s.tc ∧ t.em = s.em ∧ ClsResult t q (r + 1) ∧
      Only [bankKey q 0xA00294] [] s t) ∧
  (∀ (s : State) (q : Req) (copy : Bool) (i : Fin 262144) (e : EmEntry), Reach s q 0xA00290 → ClsFree s q →
    s.changeRefused q true copy 0 i.val false = 0 → s.emAt (s.cmdCopy true copy) i.val = e → 1 ≤ e.prof → e.prof ≤ 4 →
    (i.val / 8 = (s.emBuckets e.prof e.key).1 ∨ i.val / 8 = (s.emBuckets e.prof e.key).2 →
      e.key &&& ~~~ (s.emMask e.prof) = 0 → ∃ t, exec (.clsSetvalid q true copy i) s = .next t ∧
        t.emAt (s.cmdCopy true copy) i.val = { e with valid := true } ∧ t.tc = s.tc ∧ ClsResult t q 0) ∧
    (i.val / 8 ≠ (s.emBuckets e.prof e.key).1 → i.val / 8 ≠ (s.emBuckets e.prof e.key).2 →
      ∃ t, exec (.clsSetvalid q true copy i) s = .next t ∧ t.em = s.em ∧ ClsResult t q 4)) ∧
  (∀ (s : State) (q : Req) (copy : Bool) (i : Fin 262144), Reach s q 0xA00290 → ClsFree s q → i.val < s.tabSize false →
    (copy = true → s.tcVersioned = true) →
    ∃ t, exec (.clsRead q false copy i) s = .next t ∧ t.tc = s.tc ∧ t.em = s.em ∧ ClsResult t q 0 ∧
      t.stagedKey q 0xA00200 = (s.tcAt (s.cmdCopy false copy) i.val).key ∧
      t.stagedKey q 0xA00240 = (s.tcAt (s.cmdCopy false copy) i.val).mask ∧
      t.stagedAct q = (s.tcAt (s.cmdCopy false copy) i.val).act ∧
      bitOf (t.reg (bankKey q 0xA00294)).toNat 8 = (s.tcAt (s.cmdCopy false copy) i.val).valid) ∧
  (∀ (s : State) (q : Req) (copy : Bool) (i : Fin 262144), Reach s q 0xA00290 → ClsFree s q → i.val < s.tabSize true →
    (copy = true → s.emVersioned = true) →
    ∃ t, exec (.clsRead q true copy i) s = .next t ∧ t.tc = s.tc ∧ t.em = s.em ∧ ClsResult t q 0 ∧
      t.stagedKey q 0xA00200 = (s.emAt (s.cmdCopy true copy) i.val).key ∧
      t.stagedAct q = (s.emAt (s.cmdCopy true copy) i.val).act ∧
      bitOf (t.reg (bankKey q 0xA00294)).toNat 8 = (s.emAt (s.cmdCopy true copy) i.val).valid) ∧
  (∀ (s : State) (q : Req) (p : Fin 8), Reach s q 0xA00290 → ClsFree s q →
    (1 ≤ p.val → p.val ≤ 4 → ∃ t, exec (.clsHash q p) s = .next t ∧ ClsResult t q 0 ∧
      t.reg (bankKey q 0xA00298) =
        BitVec.ofNat 32 ((s.emBuckets p.val (s.stagedKey q 0xA00200 &&& s.emMask p.val)).1 +
          65536 * (s.emBuckets p.val (s.stagedKey q 0xA00200 &&& s.emMask p.val)).2) ∧
      Only [bankKey q 0xA00294, bankKey q 0xA00298] [] s t) ∧
    (p.val = 0 ∨ 4 < p.val → ∃ t, exec (.clsHash q p) s = .next t ∧ ClsResult t q 2 ∧ Only [bankKey q 0xA00294] [] s t)) ∧
  (∀ (s : State) (q : Req) (exact copy : Bool) (p : Fin 8) (i : Fin 262144), Reach s q 0xA00290 →
    ∀ c ∈ [Instr.clsWrite q exact copy p i, .clsSetvalid q exact copy i, .clsClearvalid q exact copy i, .clsRead q exact copy i,
        .clsHash q p],
      (bitOf (s.reg (bankKey q 0xA00294)).toNat 31 = true → ∃ t, exec c s = .next t ∧ t.tc = s.tc ∧ t.em = s.em ∧
        t.reg (bankKey q 0xA00294) = s.reg (bankKey q 0xA00294) ||| 0x20000000#32 ∧ Only [bankKey q 0xA00294] [] s t) ∧
      (bitOf (s.reg (bankKey q 0xA00294)).toNat 31 = false → s.groupHeld 96 = true ∨ s.groupHeld 97 = true →
        ∃ t, exec c s = .next t ∧ t.tc = s.tc ∧ t.em = s.em ∧
          t.reg (bankKey q 0xA00294) = s.reg (bankKey q 0xA00294) ||| 0x80000000#32 ∧ Only [bankKey q 0xA00294] [] s t)) ∧
  (∀ (s : State) (q : Req) (v : Word), Reach s q 0xA00000 →
    ∃ t, exec (.clsModeChange q v) s = .next t ∧ t.f F.CLS_CFG_TC_EN = F.CLS_CFG_TC_EN.of v ∧
      (q ≠ .host → t.f F.CLS_CFG_VER_OWNER = s.f F.CLS_CFG_VER_OWNER) ∧ Only [0xA00000] [] s t ∧
      (s.flag F.CLS_CFG_TC_EN = true → t.f F.CLS_CFG_TC_MODE = s.f F.CLS_CFG_TC_MODE ∧ t.tc = s.tc) ∧
      (s.flag F.CLS_CFG_TC_EN = false → t.f F.CLS_CFG_TC_MODE = F.CLS_CFG_TC_MODE.of v ∧
        (F.CLS_CFG_TC_MODE.of v ≠ s.f F.CLS_CFG_TC_MODE → t.tc = [])) ∧
      (s.flag F.CLS_CFG_EM_EN = true → t.f F.CLS_CFG_EM_MODE = s.f F.CLS_CFG_EM_MODE ∧ t.em = s.em) ∧
      (s.flag F.CLS_CFG_EM_EN = false → t.f F.CLS_CFG_EM_MODE = F.CLS_CFG_EM_MODE.of v ∧
        (F.CLS_CFG_EM_MODE.of v ≠ s.f F.CLS_CFG_EM_MODE → t.em = [])))

/-- R201 to R203: versions of the tables. -/
def Obligations.TableVersions : Prop :=
  (∀ (s : State) (q : Req), Reach s q 0xA00300 → s.verOwner q = true → s.flag F.CLS_VER_STAT_OLD_LIVE = false →
    s.flag F.CLS_VER_STAT_STAGE_READY = true →
    ∃ t, exec (.clsCommit q) s = .next t ∧ t.verCur = (s.verCur + 1) % 256 ∧ t.f F.CLS_VER_STAT_OLD = s.verCur ∧
      t.flag F.CLS_VER_STAT_STAGE_READY = false ∧ t.f F.CLS_INFL_OLD_COUNT = s.f F.CLS_INFL_CUR_COUNT ∧
      t.f F.CLS_INFL_CUR_COUNT = 0 ∧ t.verCopy = 1 - s.verCopy ∧ t.tc = s.tc ∧ t.em = s.em ∧
      t.reg (bankKey q 0xA00304) = 1 ∧
      t.flag F.CLS_VER_STAT_OLD_LIVE = decide (s.f F.CLS_INFL_CUR_COUNT ≠ 0) ∧
      (s.f F.CLS_INFL_CUR_COUNT = 0 → t.flag F.CLS_VER_STAT_SYNC_BUSY = true)) ∧
  (∀ (s : State) (q : Req), Reach s q 0xA00300 → s.verOwner q = false →
    ∃ t, exec (.clsCommit q) s = .next t ∧ t.reg (bankKey q 0xA00304) = 3 ∧ Only [bankKey q 0xA00304] [] s t ∧
      t.verCopy = s.verCopy ∧ t.reg (0x102000 + 4 * 257) = s.reg (0x102000 + 4 * 257) + 1) ∧
  (∀ (s : State) (q : Req), Reach s q 0xA00300 → s.verOwner q = true →
    s.flag F.CLS_VER_STAT_OLD_LIVE = true ∨ s.flag F.CLS_VER_STAT_STAGE_READY = false →
    ∃ t, exec (.clsCommit q) s = .next t ∧ t.reg (bankKey q 0xA00304) = 2 ∧ Only [bankKey q 0xA00304] [] s t ∧
      t.verCopy = s.verCopy ∧ t.reg (0x102000 + 4 * 257) = s.reg (0x102000 + 4 * 257) + 1) ∧
  (∀ (s : State),
    (s.flag F.CLS_VER_STAT_OLD_LIVE = true → s.f F.CLS_INFL_OLD_COUNT = 0 →
      ∃ t, exec .clsVersionDrained s = .next t ∧ t.flag F.CLS_VER_STAT_OLD_LIVE = false ∧
        t.flag F.CLS_VER_STAT_SYNC_BUSY = true ∧ Only [0xA00304] [] s t ∧ Raised s t 259 1 0 (s.f F.CLS_VER_STAT_OLD)) ∧
    (s.f F.CLS_INFL_OLD_COUNT ≠ 0 → exec .clsVersionDrained s = .next s)) ∧
  (∀ (s : State), s.flag F.CLS_VER_STAT_SYNC_BUSY = true →
    ∃ t, exec .clsStageCopyDone s = .next t ∧ t.flag F.CLS_VER_STAT_SYNC_BUSY = false ∧
      t.flag F.CLS_VER_STAT_STAGE_READY = true ∧ Only [0xA00304] [] s t ∧
      (s.tcVersioned = false → t.tc = s.tc) ∧ (s.emVersioned = false → t.em = s.em) ∧
      (s.tcVersioned = true → s.verCopy ≤ 1 → (∀ i, i < 2 ^ 18 → t.tcAt s.verCopy i = s.tcAt s.verCopy i) ∧
        (swf (fun _ => ({} : TcEntry)) s.tc = true →
          ∀ i, i < 2 ^ 18 → t.tcAt (1 - s.verCopy) i = { s.tcAt s.verCopy i with hits := 0 })) ∧
      (s.emVersioned = true → s.verCopy ≤ 1 → (∀ i, i < 2 ^ 18 → t.emAt s.verCopy i = s.emAt s.verCopy i) ∧
        (swf (fun _ => ({} : EmEntry)) s.em = true →
          ∀ i, i < 2 ^ 18 → t.emAt (1 - s.verCopy) i = s.emAt s.verCopy i))) ∧
  (∀ (s : State),
    (s.flag F.CLS_VER_STAT_OLD_LIVE = true → s.f F.CLS_VER_CFG_DRAIN_TMO ≠ 0 → s.drainTold = false →
      ∃ t, exec .clsDrainTimeout s = .next t ∧ t.drainTold = true ∧ Only [] [] s t ∧
        Raised s t 258 1 0 (s.f F.CLS_VER_STAT_OLD + 256 * min (s.f F.CLS_INFL_OLD_COUNT) 0xFFFFFF)) ∧
    (s.drainTold = true → exec .clsDrainTimeout s = .next s))

/-- R182, R194 to R196 and R218: the classifier takes a frame. -/
def Obligations.Classification : Prop :=
  (∀ (s : State) (x : Fin 4) (e : Bool) (u : List (Nat × Bool)), s.groupHeld 96 = true ∨ s.groupHeld 97 = true ∨
    s.dispRoom e = false ∨ s.clsOffer x.val e = none → exec (.frameClassify x e u) s = .next s) ∧
  (∀ (s : State) (x : Fin 4) (u : List (Nat × Bool)), s.clsExpWaits = true →
    exec (.frameClassify x false u) s = .next s) ∧
  (∀ (s : State) (x : Fin 4) (e : Bool) (f : Frame) (u : List (Nat × Bool)), s.groupHeld 96 = false →
    s.groupHeld 97 = false → s.dispRoom e = true → (e = true ∧ x.val < 3) ∨ s.clsExpWaits = false →
    s.clsOffer x.val e = some f →
    (f.err = true → ∃ t, exec (.frameClassify x e u) s = .next t ∧ t.dispOther = s.dispOther ∧ t.dispExp = s.dispExp ∧
      t.threads = s.threads ∧ t.counter (clsCnt 0) = s.counter (clsCnt 0)) ∧
    (f.err = false → f.handle = 0 → s.padMay f.exp (max 1 (ceilDiv f.data.length 256)) = false →
      ∃ t, exec (.frameClassify x e u) s = .next t ∧ t.dispOther = s.dispOther ∧ t.dispExp = s.dispExp ∧
        t.counter 0x1200868 = (s.counter 0x1200868 + 1) % 2 ^ 64) ∧
    (f.err = false → f.handle ≠ 0 →
      ∃ t g, exec (.frameClassify x e u) s = .next t ∧ g.exp = f.exp ∧
        g.data = f.data ∧ g.handle = f.handle ∧ g.src = f.src ∧ g.port = f.port ∧ g.seq = f.seq ∧
        g.ver = (if f.pass = 0 then some s.verCur else f.ver) ∧ g.pass = f.pass ∧ t.threads = s.threads ∧
        t.counter (clsCnt 0) = (s.counter (clsCnt 0) + 1) % 2 ^ 64 ∧
        (t.dispExp = (if f.exp then s.dispExp ++ [g] else s.dispExp) ∧
            t.dispOther = (if f.exp then s.dispOther else s.dispOther ++ [g]) ∨
          (t.dispExp = s.dispExp ∧ t.dispOther = s.dispOther ∧
            ∃ n, n < 4096 ∧ s.flag F.SCH_POL_CFG_RED_DROP (32 * n) = true)) ∧
        (s.flag F.CLS_CFG_TC_EN = false → s.flag F.CLS_CFG_EM_EN = false → actPolEn (s.missAct f.src) = false →
          t.dispExp = (if f.exp then s.dispExp ++ [g] else s.dispExp) ∧
            t.dispOther = (if f.exp then s.dispOther else s.dispOther ++ [g]))))

/-- R209 and R213 to R218: a classified frame goes to a thread, or is dropped for want of a team. -/
def Obligations.Dispatch : Prop :=
  (∀ (s : State) (e : Bool), s.groupHeld 99 = true → exec (.frameDispatch e) s = .next s) ∧
  (∀ (s : State) (e : Bool), s.dispPick s.dispExp = none →
    e = true ∨ s.dispExp ≠ [] ∨ s.dispOther.head?.any s.dispCan = false →
    exec (.frameDispatch e) s = .next s) ∧
  (∀ (s : State) (e : Bool) (f : Frame), s.groupHeld 99 = false → s.dispPick s.dispExp = some f →
    ∃ t, exec (.frameDispatch e) s = .next t ∧ t.dispExp = s.dispExp.erase f ∧ t.dispOther = s.dispOther) ∧
  (∀ (s : State) (f : Frame) (l : List Frame), s.groupHeld 99 = false → s.dispExp = [] → s.dispOther = f :: l →
    s.dispCan f = true →
    ∃ t, exec (.frameDispatch false) s = .next t ∧ t.dispExp = [] ∧ t.dispOther = l) ∧
  (∀ (s : State) (e : Bool) (f : Frame) (k n : Nat), s.groupHeld 99 = false →
    s.dispPick s.dispExp = some f ∨ (e = false ∧ s.dispExp = [] ∧ s.dispOther.head? = some f) → s.place f = some (k, n) →
    ∃ t, exec (.frameDispatch e) s = .next t ∧
      (t.thread (64 * k + n)).frame = some f ∧ (t.thread (64 * k + n)).busy = true ∧
      (t.thread (64 * k + n)).pc = 0x200000 + 4 * s.f F.CRS_ENTRY_ENTRY (0x10000 * k + 4 * s.frameProg f) ∧
      sget (fun _ => 0) (t.thread (64 * k + n)).g 1 = BitVec.ofNat 64 (0x10000 + 0x1000 * (n % 8)) ∧
      sget (fun _ => 0) (t.thread (64 * k + n)).g 2 = BitVec.ofNat 64 f.data.length ∧
      sget (fun _ => 0) (t.thread (64 * k + n)).g 3 = BitVec.ofNat 64 (s.frameProg f) ∧
      (∀ i, i ≠ 64 * k + n → t.thread i = s.thread i) ∧
      (∀ i, i < 64 → t.lmemByte ((64 * k + n) / 8) (0x1000 * (n % 8) + i) = 0) ∧
      (∀ i, i < 256 → i < f.data.length →
        t.lmemByte ((64 * k + n) / 8) (0x1000 * (n % 8) + 64 + i) = f.data.getD i 0) ∧
      t.counter (dispCnt 0) = (s.counter (dispCnt 0) + 1) % 2 ^ 64 ∧
      t.counter (crsCnt k 0) = (s.counter (crsCnt k 0) + 1) % 2 ^ 64) ∧
  (∀ (s : State) (e : Bool) (f : Frame), s.groupHeld 99 = false →
    s.dispPick s.dispExp = some f ∨ (e = false ∧ s.dispExp = [] ∧ s.dispOther.head? = some f) → s.hasTeam f = false →
    ∃ t, exec (.frameDispatch e) s = .next t ∧ t.threads = s.threads ∧
      t.counter (dispCnt 2) = (s.counter (dispCnt 2) + 1) % 2 ^ 64) ∧
  (∀ (s : State) (f : Frame) (k n : Nat), s.place f = some (k, n) →
    s.candidate f k = true ∧ s.threadAble f k n = true ∧ (s.thread (64 * k + n)).busy = false ∧
      s.teamState k = 4 ∧ ∀ m, m < n → s.threadAble f k m = false)

/-- R220, OP 0x00: the sixteen ALU instructions, at both operand widths, complete, write RD only and advance the pc. -/
def Obligations.AluResults : Prop :=
  AluRow .isaAdd .add (fun _ x y => x + y) ∧ AluRow .isaSub .sub (fun _ x y => x - y) ∧
  AluRow .isaAnd .and (fun _ x y => x &&& y) ∧ AluRow .isaOr .or (fun _ x y => x ||| y) ∧
  AluRow .isaXor .xor (fun _ x y => x ^^^ y) ∧
  AluRow .isaShl .shl (fun n x y => x <<< (y.toNat % n)) ∧ AluRow .isaShr .shr (fun n x y => x >>> (y.toNat % n)) ∧
  AluRow .isaSra .sra (fun n x y => x.sshiftRight (y.toNat % n)) ∧
  AluRow .isaMul .mul (fun _ x y => x * y) ∧
  AluRow .isaMulhu .mulhu (fun n x y => BitVec.ofNat n (x.toNat * y.toNat / 2 ^ n)) ∧
  AluRow .isaSlt .slt (fun _ x y => if x.toInt < y.toInt then 1 else 0) ∧
  AluRow .isaSltu .sltu (fun _ x y => if x.toNat < y.toNat then 1 else 0) ∧
  AluRow .isaRotr .rotr (fun n x y => x >>> (y.toNat % n) ||| x <<< ((n - y.toNat % n) % n)) ∧
  AluRow .isaClz .clz (fun n x _ => BitVec.ofNat n (if x.toNat = 0 then n else n - 1 - x.toNat.log2)) ∧
  AluRow .isaPopc .popc (fun n x _ => BitVec.ofNat n ((List.range n).filter fun i => x.getLsbD i).length) ∧
  AluRow .isaBswap .bswap (fun n x _ => BitVec.ofNat n (beNat (leBytes (n / 8) x.toNat)))

/-- R220, OP 0x01 to 0x07: the immediate, shift-immediate, upper-immediate and bit-field instructions. -/
def Obligations.ImmediateResults : Prop :=
  ImmRow .isaAddi .addi (fun w ra _ => ra + (BitVec.ofNat 16 (isaImm w)).signExtend 64) ∧
  ImmRow .isaAndi .andi (fun w ra _ => ra &&& BitVec.ofNat 64 (isaImm w)) ∧
  ImmRow .isaOri .ori (fun w ra _ => ra ||| BitVec.ofNat 64 (isaImm w)) ∧
  ImmRow .isaXori .xori (fun w ra _ => ra ^^^ BitVec.ofNat 64 (isaImm w)) ∧
  ImmRow .isaShiftImmediate .shiftImm (fun w ra _ =>
    if wordBits w 8 1 = 1 then (shiftKind (wordBits w 6 2) (ra.setWidth 32) (wordBits w 0 6)).setWidth 64
    else shiftKind (wordBits w 6 2) ra (wordBits w 0 6)) ∧
  ImmRow .isaLui .lui (fun w _ _ => (BitVec.ofNat 32 (isaImm w * 65536)).signExtend 64) ∧
  ImmRow .isaExtu .extu (fun w ra _ => BitVec.ofNat 64 (ra.toNat / 2 ^ isaPos w % 2 ^ isaLen w)) ∧
  ImmRow .isaExts .exts (fun w ra _ => (BitVec.ofNat (isaLen w) (ra.toNat / 2 ^ isaPos w)).signExtend 64) ∧
  ImmRow .isaIns .ins (fun w ra rd =>
    (rd &&& ~~~ BitVec.ofNat 64 ((2 ^ isaLen w - 1) * 2 ^ isaPos w)) |||
      ((ra <<< isaPos w) &&& BitVec.ofNat 64 ((2 ^ isaLen w - 1) * 2 ^ isaPos w)))

/-- R220, OP 0x08 to 0x0E and 0x14 to 0x16: the loads read the bytes the address map names and change nothing but RD. -/
def Obligations.LoadResults : Prop :=
  LoadRow .isaLb .lb 1 (fun b => BitVec.ofNat 64 (leNat b)) ∧ LoadRow .isaLh .lh 2 (fun b => BitVec.ofNat 64 (leNat b)) ∧
  LoadRow .isaLw .lw 4 (fun b => BitVec.ofNat 64 (leNat b)) ∧ LoadRow .isaLd .ld 8 (fun b => BitVec.ofNat 64 (leNat b)) ∧
  LoadRow .isaLbs .lbs 1 (fun b => (BitVec.ofNat 8 (leNat b)).signExtend 64) ∧
  LoadRow .isaLhs .lhs 2 (fun b => (BitVec.ofNat 16 (leNat b)).signExtend 64) ∧
  LoadRow .isaLws .lws 4 (fun b => (BitVec.ofNat 32 (leNat b)).signExtend 64) ∧
  LoadRow .isaLhbe .lhbe 2 (fun b => BitVec.ofNat 64 (beNat b)) ∧
  LoadRow .isaLwbe .lwbe 4 (fun b => BitVec.ofNat 64 (beNat b)) ∧
  LoadRow .isaLdbe .ldbe 8 (fun b => BitVec.ofNat 64 (beNat b))

/-- R220, OP 0x10 to 0x13 and 0x18 to 0x1A: the stores write RD's low bytes and no other byte. -/
def Obligations.StoreResults : Prop :=
  StoreRow .isaSb .sb 1 (leBytes 1) ∧ StoreRow .isaSh .sh 2 (leBytes 2) ∧ StoreRow .isaSw .sw 4 (leBytes 4) ∧
  StoreRow .isaSd .sd 8 (leBytes 8) ∧ StoreRow .isaShbe .shbe 2 (beBytes 2) ∧ StoreRow .isaSwbe .swbe 4 (beBytes 4) ∧
  StoreRow .isaSdbe .sdbe 8 (beBytes 8)

/-- R220, OP 0x1C: the atomics of team shared memory. -/
def Obligations.AtomicResults : Prop :=
  AmoRow .isaAmoAdd .amoAdd (fun old rb _ => old + rb) ∧ AmoRow .isaAmoSwap .amoSwap (fun _ rb _ => rb) ∧
  AmoRow .isaAmoCas .amoCas (fun old rb rd => if old = rd then rb else old)

/-- R220, OP 0x20 to 0x29: branches and jumps. -/
def Obligations.BranchResults : Prop :=
  BranchRow .isaBeq .beq (fun x y => x = y) ∧ BranchRow .isaBne .bne (fun x y => x ≠ y) ∧
  BranchRow .isaBlt .blt (fun x y => x.toInt < y.toInt) ∧ BranchRow .isaBge .bge (fun x y => y.toInt ≤ x.toInt) ∧
  BranchRow .isaBltu .bltu (fun x y => x.toNat < y.toNat) ∧ BranchRow .isaBgeu .bgeu (fun x y => y.toNat ≤ x.toNat) ∧
  (∀ (s : State) (id : Tid) (e : IsaFact) (w : Nat), Issues s id e .jal w →
    ∃ t, exec (.isaJal id e) s = .next t ∧ MemKept s t ∧
      Steps s t id (BitVec.ofNat 64 (s.thread (tidKey id)).pc + (sext64 26 (isaOff26 w)) <<< 2).toNat ∧
      Writes s t id 31 (BitVec.ofNat 64 ((s.thread (tidKey id)).pc + 4))) ∧
  (∀ (s : State) (id : Tid) (e : IsaFact) (w : Nat), Issues s id e .jalr w →
    ∃ t, exec (.isaJalr id e) s = .next t ∧ MemKept s t ∧
      Steps s t id ((s.g (tidKey id) (isaRa w) + sext64 16 (isaImm w)).toNat / 4 * 4) ∧
      Writes s t id (isaRd w) (BitVec.ofNat 64 ((s.thread (tidKey id)).pc + 4)))

/-- R208, R221 and R220, OP 0x30: a Courser with a thread that runs picks a ready one, of an Express frame first, and a thread it
does not pick does not issue; SRD reads the special registers, YIELD and FENCE only issue, YIELD for two steps, DONE makes the
thread idle and counts a frame it still holds in UNDISPOSED, TRAP is fault 5 with its code. -/
def Obligations.SystemResults : Prop :=
  (∀ (s : State) (c : Nat), (∃ n, n < 8 ∧ s.threadRuns c n = true) → ∃ n, s.turnOf c = some n) ∧
  (∀ (s : State) (c n : Nat), s.turnOf c = some n → n < 8 ∧ s.threadRuns c n = true ∧
    (s.thread (8 * c + n)).wait ≤ s.turnStep c ∧
    ∀ m, m < 8 → s.threadRuns c m = true → (s.thread (8 * c + m)).wait ≤ s.turnStep c →
      ((s.thread (8 * c + m)).frame.map (·.exp)).getD false = true →
      ((s.thread (8 * c + n)).frame.map (·.exp)).getD false = true) ∧
  (∀ (s : State) (id : Tid) (e : IsaFact), s.turnOf (tidKey id / 8) ≠ some (tidKey id % 8) →
    ∀ c ∈ [Instr.isaAdd id e, .isaLw id e, .isaSw id e, .isaBeq id e, .isaDone id e, .callEnq id e, .callCmac id e],
      exec c s = .next s) ∧
  (∀ (s : State) (id : Tid) (e : IsaFact) (w : Nat), Issues s id e .srd w →
    ∃ t, exec (.isaSrd id e) s = .next t ∧ Steps s t id ((s.thread (tidKey id)).pc + 4) ∧ MemKept s t ∧
      Writes s t id (isaRd w) (BitVec.ofNat 64 (
        if isaRb w = 0 then id.thread.val else if isaRb w = 1 then id.courser.val else if isaRb w = 2 then id.team.val
        else if isaRb w = 3 then (s.thread (tidKey id)).steps + 1
        else if isaRb w = 4 then (match (s.thread (tidKey id)).frame with | some f => if f.exp then 1 else 0 | none => 0)
        else if isaRb w = 5 then (s.reg (0xC00008 + 0x10000 * id.team.val)).toNat else 0))) ∧
  IdleRow .isaYield .yield 1 ∧ IdleRow .isaFence .fence 0 ∧
  (∀ (s : State) (id : Tid) (e : IsaFact) (w : Nat), Issues s id e .done w →
    ∃ t, exec (.isaDone id e) s = .next t ∧ MemKept s t ∧
      (t.thread (tidKey id)).busy = false ∧ (t.thread (tidKey id)).frame = none ∧
      (t.thread (tidKey id)).g = (s.thread (tidKey id)).g ∧
      t.counter (crsCnt id.team.val 4) = if (s.thread (tidKey id)).frame.isSome then
        (s.counter (crsCnt id.team.val 4) + 1) % 2 ^ 64 else s.counter (crsCnt id.team.val 4)) ∧
  (∀ (s : State) (id : Tid) (e : IsaFact) (w : Nat), Issues s id e .trap w → (s.thread (tidKey id)).init = false →
    s.flag F.CRS_TFLT_INFO_VALID (0x10000 * id.team.val) = false →
    ∃ t, exec (.isaTrap id e) s = .next t ∧ MemKept s t ∧ (t.thread (tidKey id)).busy = false ∧
      t.flag F.CRS_TFLT_INFO_VALID (0x10000 * id.team.val) = true ∧
      t.f F.CRS_TFLT_INFO_CAUSE (0x10000 * id.team.val) = 5 ∧
      t.f F.CRS_TFLT_INFO_COURSER (0x10000 * id.team.val) = id.courser.val ∧
      t.f F.CRS_TFLT_INFO_THREAD (0x10000 * id.team.val) = id.thread.val ∧
      t.f F.CRS_TFLT_INFO_TRAP (0x10000 * id.team.val) = isaRb w ∧
      t.f F.CRS_TFLT_INFO_INDEX (0x10000 * id.team.val) = s.threadIndex (tidKey id))

/-- R211, R212, R220 and R232: LW and SW in the register window have the effect of a register read or write by the team; an
access outside the map, a store to the instruction store, or an atomic that is no aligned word of shared memory is an ADDR
fault; a word of no instruction and a fetch outside the instruction store fault. -/
def Obligations.AddressMap : Prop :=
  (∀ (s u : State) (id : Tid) (e : IsaFact) (w : Nat), Issues s id e .lw w → inWindow (loadAddr s id w) = true →
    exec (.registerRead (.team id.team) (loadAddr s id w - 0x1000000) (if e.silent then .silent else .answers))
      (s.issued (tidKey id)) = .next u → u.flag F.CRS_SAMP_CFG_EN (0x10000 * id.team.val) = false →
    ∃ t, exec (.isaLw id e) s = .next t ∧ Writes u t id (isaRd w) ((u.rd.getD 0).setWidth 64) ∧
      (∀ k, k ≠ 0xC00004 + 0x10000 * id.team.val → t.reg k = u.reg k) ∧
      { t with threads := u.threads, regs := u.regs, rd := u.rd } = u ∧
      (t.thread (tidKey id)).pc = (s.thread (tidKey id)).pc + 4) ∧
  (∀ (s u : State) (id : Tid) (e : IsaFact) (w : Nat), Issues s id e .sw w → inWindow (loadAddr s id w) = true →
    exec (.registerWrite (.team id.team) (loadAddr s id w - 0x1000000) ((s.g (tidKey id) (isaRd w)).setWidth 32) e.silent)
      (s.issued (tidKey id)) = .next u → u.flag F.CRS_SAMP_CFG_EN (0x10000 * id.team.val) = false →
    exec (.isaSw id e) s = .next (u.hold (tidKey id) (e.lat - 1))) ∧
  AddrRow .isaLb .lb 1 false false ∧ AddrRow .isaLh .lh 2 false false ∧ AddrRow .isaLw .lw 4 false true ∧
  AddrRow .isaLd .ld 8 false false ∧ AddrRow .isaLbs .lbs 1 false false ∧ AddrRow .isaLhs .lhs 2 false false ∧
  AddrRow .isaLws .lws 4 false false ∧ AddrRow .isaLhbe .lhbe 2 false false ∧ AddrRow .isaLwbe .lwbe 4 false false ∧
  AddrRow .isaLdbe .ldbe 8 false false ∧
  AddrRow .isaSb .sb 1 true false ∧ AddrRow .isaSh .sh 2 true false ∧ AddrRow .isaSw .sw 4 true true ∧
  AddrRow .isaSd .sd 8 true false ∧ AddrRow .isaShbe .shbe 2 true false ∧ AddrRow .isaSwbe .swbe 4 true false ∧
  AddrRow .isaSdbe .sdbe 8 true false ∧
  AmoFault .isaAmoAdd .amoAdd ∧ AmoFault .isaAmoSwap .amoSwap ∧ AmoFault .isaAmoCas .amoCas ∧
  (∀ (s : State) (id : Tid), (s.thread (tidKey id)).busy = true → s.turnOf (tidKey id / 8) = some (tidKey id % 8) →
    s.regionUp 2 = true → s.groupHeld (64 + 2 * id.team.val) = false → s.groupHeld (65 + 2 * id.team.val) = false →
    istoreBase ≤ (s.thread (tidKey id)).pc → (s.thread (tidKey id)).pc < istoreBase + istoreSize → FaultClear s id →
    isaDecode (s.istoreWord id.team.val (s.threadIndex (tidKey id))).toNat = none → s.wdogDue (tidKey id) = false →
    s.budgetDue (tidKey id) = false → s.flag F.CRS_SAMP_CFG_EN (0x10000 * id.team.val) = false →
    ∃ t, exec (.isaAdd id {}) s = .next t ∧ Faulted s t id 1 0 0) ∧
  (∀ (s : State) (id : Tid), (s.thread (tidKey id)).busy = true → s.turnOf (tidKey id / 8) = some (tidKey id % 8) →
    s.regionUp 2 = true → s.groupHeld (64 + 2 * id.team.val) = false → s.groupHeld (65 + 2 * id.team.val) = false →
    (s.thread (tidKey id)).pc < istoreBase ∨ istoreBase + istoreSize ≤ (s.thread (tidKey id)).pc → FaultClear s id →
    ∃ t, exec (.isaAdd id {}) s = .next t ∧ (t.thread (tidKey id)).busy = false ∧
      t.f F.CRS_TFLT_INFO_CAUSE (0x10000 * id.team.val) = 2 ∧
      t.reg (0xC00064 + 0x10000 * id.team.val) = BitVec.ofNat 32 (s.thread (tidKey id)).pc)

/-- R222, R223 and R372: the calls that compute a value, with arguments in range, complete with OK, return the stated results and
leave every byte of memory; COUNT adds to its pair of counters and to no other; CMAC enters the engine's queue, or is BUSY with
64 requests in it, and its thread waits until the engine ends it. -/
def Obligations.CallValues : Prop :=
  (∀ (s : State) (id : Tid) (e : IsaFact) (w n : Nat) (a : Nat × Nat), Issues s id e .hash w → callArg s id w 1 = n →
    1 ≤ n → n ≤ 64 → thrArea (tidKey id) (callArg s id w 0) n = some a →
    ∃ t, exec (.callHash id e) s = .next t ∧
      Steps s t id ((s.thread (tidKey id)).pc + 4) (max (areaHold a) (e.lat - 1)) ∧ MemKept s t ∧
      CallRegs s t id w 0 [BitVec.ofNat 64 (crcReflected32 (if callArg s id w 3 % 2 = 0 then 0x1EDC6F41 else 0x04C11DB7)
        (reflect 32 (callArg s id w 2 % 2 ^ 32)) (s.areaBytes (tidKey id) a n))]) ∧
  (∀ (s : State) (id : Tid) (e : IsaFact) (w : Nat), Issues s id e .hash w → callArg s id w 1 = 0 →
    ∃ t, exec (.callHash id e) s = .next t ∧ Steps s t id ((s.thread (tidKey id)).pc + 4) (e.lat - 1) ∧ MemKept s t ∧
      CallRegs s t id w 0 [BitVec.ofNat 64 (callArg s id w 2 % 2 ^ 32)]) ∧
  (∀ (s : State) (id : Tid) (e : IsaFact) (w : Nat), Issues s id e .count w → callArg s id w 0 < 262144 →
    ∃ t, exec (.callCount id e) s = .next t ∧
      Steps { s with countPairs := t.countPairs } t id ((s.thread (tidKey id)).pc + 4) (e.lat - 1) ∧ MemKept s t ∧
      CallRegs s t id w 0 [] ∧
      ∀ k, sget (fun _ => 0) t.countPairs k =
        if k = 2 * callArg s id w 0 then (sget (fun _ => 0) s.countPairs k + callArg s id w 1) % 2 ^ 64
        else if k = 2 * callArg s id w 0 + 1 then (sget (fun _ => 0) s.countPairs k + callArg s id w 2) % 2 ^ 64
        else sget (fun _ => 0) s.countPairs k) ∧
  (∀ (s : State) (id : Tid) (e : IsaFact) (w : Nat), Issues s id e .time w →
    ∃ t, exec (.callTime id e) s = .next t ∧ Steps s t id ((s.thread (tidKey id)).pc + 4) (e.lat - 1) ∧ MemKept s t ∧
      CallRegs s t id w 0 (if callArg s id w 0 % 2 = 1 then [BitVec.ofNat 64 s.tick]
        else [BitVec.ofNat 64 (todSec s.todUnits), BitVec.ofNat 64 (todNsec s.todUnits * 65536 + todFrac s.todUnits)])) ∧
  (∀ (s : State) (id : Tid) (e : IsaFact) (w : Nat) (f : Frame), Issues s id e .csum w →
    (s.thread (tidKey id)).frame = some f → s.badHead (tidKey id) f = false →
    callArg s id w 0 + callArg s id w 1 ≤ f.data.length + 0x40 - s.winStart (tidKey id) →
    ∃ t, exec (.callCsum id e) s = .next t ∧ Steps s t id ((s.thread (tidKey id)).pc + 4) (e.lat - 1) ∧ MemKept s t ∧
      CallRegs s t id w 0 [BitVec.ofNat 64 (csumFrom (callArg s id w 2 % 65536)
        (((s.composed (tidKey id) f).drop (callArg s id w 0)).take (callArg s id w 1)))]) ∧
  (∀ (s : State) (id : Tid) (e : IsaFact) (w : Nat), Issues s id e .cmac w → callArg s id w 1 = 0 →
    callArg s id w 2 < 64 → 0x100000 ≤ callArg s id w 0 → callArg s id w 0 < 0x180000 →
    ∃ t, exec (.callCmac id e) s = .next t ∧ MemKept s t ∧ CallRegs s t id w 0 [0, 0] ∧
      t.counter (secCnt 9) = (s.counter (secCnt 9) + 1) % 2 ^ 64) ∧
  (∀ (s : State) (id : Tid) (e : IsaFact) (w : Nat) (a : Nat × Nat), Issues s id e .cmac w → 1 ≤ callArg s id w 1 →
    callArg s id w 1 % 16 = 0 → callArg s id w 2 < 64 →
    thrArea (tidKey id) (callArg s id w 0) (callArg s id w 1) = some a → a.1 = 1 →
    (64 ≤ s.cmacLoad → ∃ t, exec (.callCmac id e) s = .next t ∧ MemKept s t ∧ CallRegs s t id w 3 [] ∧ t.sec = s.sec) ∧
    (s.cmacLoad < 64 → s.flag F.SEC_ENT_STAT_FAIL = false → s.keyEmpty (callArg s id w 2) = false →
      ∃ t c, exec (.callCmac id e) s = .next t ∧ MemKept s t ∧ t.sec.calls = s.sec.calls ++ [c] ∧ c.thread = tidKey id ∧
        c.word = w ∧ c.slot = callArg s id w 2 ∧ c.data = s.areaBytes (tidKey id) a (callArg s id w 1) ∧
        (t.thread (tidKey id)).call = some c.seq ∧ t.threadRuns (tidKey id / 8) (tidKey id % 8) = false ∧
        (t.thread (tidKey id)).pc = (s.thread (tidKey id)).pc + 4 ∧ (∀ r, t.g (tidKey id) r = s.g (tidKey id) r))) ∧
  (∀ (s : State) (id : Tid) (c : CmacCall) (data : List Byte) (rd : HostRead), s.sec.calls = [c] → s.jobs = [] →
    c.thread = tidKey id → (s.thread (tidKey id)).busy = true → (s.thread (tidKey id)).call = some c.seq → c.data ≠ [] →
    s.flag F.SEC_ENT_STAT_FAIL = false → s.keyEmpty c.slot = false →
    ∃ t, exec (.cmacDone data rd) s = .next t ∧ t.sec.calls = [] ∧ MemKept s t ∧ t.hostMem = s.hostMem ∧
      (t.thread (tidKey id)).call = none ∧ (t.thread (tidKey id)).wait = 0 ∧
      CallRegs s t id c.word 0 [BitVec.ofNat 64 (cmacTag (s.keyOf c.slot) c.padded c.data % 2 ^ 64),
        BitVec.ofNat 64 (cmacTag (s.keyOf c.slot) c.padded c.data / 2 ^ 64)] ∧
      t.counter (secCnt 9) = (s.counter (secCnt 9) + 1) % 2 ^ 64 ∧
      Only [0xC00004 + 0x10000 * id.team.val] [secCnt 9] s t) ∧
  (∀ (s : State) (id : Tid) (e : IsaFact) (w : Nat), Issues s id e .police w → callArg s id w 0 < 4096 →
    callArg s id w 1 ≤ 65535 → callArg s id w 2 % 4 ≠ 3 →
    ∃ t colour, exec (.callPolice id e) s = .next t ∧ MemKept s t ∧ colour < 3 ∧
      CallRegs s t id w 0 [BitVec.ofNat 64 colour] ∧ (t.thread (tidKey id)).frame = (s.thread (tidKey id)).frame ∧
      (callArg s id w 1 = 0 → colour = callArg s id w 2 % 4 ∧ t.buckets = s.buckets) ∧
      (1 ≤ callArg s id w 1 → t.counter (polCnt (callArg s id w 0) colour) =
        (s.counter (polCnt (callArg s id w 0) colour) + 1) % 2 ^ 64)) ∧
  (∀ (s : State) (id : Tid) (e : IsaFact) (w : Nat) (a : Nat × Nat), Issues s id e .clsLookup w →
    thrArea (tidKey id) (callArg s id w 0) 40 = some a → callArg s id w 1 % 8 ≤ 3 → callArg s id w 1 / 8 % 8 ≤ 4 →
    s.flag F.CLS_CFG_TC_EN = false → s.flag F.CLS_CFG_EM_EN = false → e.tabUnc = [] →
    ∃ t, exec (.callClsLookup id e) s = .next t ∧ MemKept s t ∧
      t.g (tidKey id) (isaRd w + 1) = BitVec.ofNat 64 (s.missAct (callArg s id w 1 % 8)).toNat ∧
      t.counter (clsCnt 8) = (s.counter (clsCnt 8) + 1) % 2 ^ 64)

/-- R222 to R224: the calls on the frame a thread holds. DROP and an ENQ without COPY end the pass whether the queue takes the
frame (OK) or refuses it (DROPPED), a launch tick 2^33 ticks or more ahead is refused with RANGE and counted (R287), a copy
leaves the frame with the thread, RECIRC offers the composed frame to the classifier as its next pass, FRD and FWR move stored
bytes. -/
def Obligations.FrameCalls : Prop :=
  (∀ (s : State) (id : Tid) (e : IsaFact) (w : Nat) (f : Frame), Issues s id e .drop w →
    (s.thread (tidKey id)).frame = some f →
    ∃ t, exec (.callDrop id e) s = .next t ∧ MemKept s t ∧ CallRegs s t id w 0 [] ∧
      (t.thread (tidKey id)).frame = none ∧ (t.thread (tidKey id)).busy = true ∧
      (∀ k, k ≠ tidKey id → t.thread k = s.thread k) ∧
      t.counter (crsCnt id.team.val 5) = (s.counter (crsCnt id.team.val 5) + 1) % 2 ^ 64) ∧
  (∀ (s : State) (id : Tid) (e : IsaFact) (w : Nat) (f : Frame), Issues s id e .recirc w →
    (s.thread (tidKey id)).frame = some f → s.badHead (tidKey id) f = false → f.pass + 1 ≤ s.f F.CLS_CFG_MAX_RECIRC →
    ∃ t, exec (.callRecirc id e) s = .next t ∧ MemKept s t ∧ CallRegs s t id w 0 [] ∧
      (t.thread (tidKey id)).frame = none ∧
      t.prt.out = s.prt.out ++ [{ f with
        data := s.composed (tidKey id) f, user := s.winUser (tidKey id), pass := f.pass + 1, res := [] }]) ∧
  (∀ (s : State) (id : Tid) (e : IsaFact) (w : Nat) (f : Frame) (a : Nat × Nat), Issues s id e .frd w →
    (s.thread (tidKey id)).frame = some f → 256 ≤ callArg s id w 0 → callArg s id w 2 ≤ 2048 →
    1 ≤ callArg s id w 2 → callArg s id w 0 + callArg s id w 2 ≤ f.data.length →
    thrArea (tidKey id) (callArg s id w 1) (callArg s id w 2) = some a → a.1 ≠ 2 →
    ∃ t, exec (.callFrd id e) s = .next t ∧ CallRegs s t id w 0 [] ∧
      (∀ i, i < callArg s id w 2 → (a.1 = 0 → headEndByte (a.2 + i) = false) →
        areaByte t id (a.1, a.2 + i) = byteAt f.data (callArg s id w 0 + i)) ∧
      (a.1 = 0 → t.smem = s.smem ∧ ∀ k, ¬ (tidKey id / 8 * 2 ^ 15 + a.2 ≤ k ∧
        k < tidKey id / 8 * 2 ^ 15 + a.2 + callArg s id w 2) → sget (fun _ => 0) t.lmem k = sget (fun _ => 0) s.lmem k) ∧
      (a.1 = 1 → t.lmem = s.lmem ∧ ∀ k, ¬ (id.team.val * 2 ^ 19 + a.2 ≤ k ∧
        k < id.team.val * 2 ^ 19 + a.2 + callArg s id w 2) → sget (fun _ => 0) t.smem k = sget (fun _ => 0) s.smem k)) ∧
  (∀ (s : State) (id : Tid) (e : IsaFact) (w : Nat) (f : Frame) (a : Nat × Nat), Issues s id e .fwr w →
    (s.thread (tidKey id)).frame = some f → 256 ≤ callArg s id w 0 → callArg s id w 2 ≤ 2048 →
    1 ≤ callArg s id w 2 → callArg s id w 0 + callArg s id w 2 ≤ f.data.length →
    thrArea (tidKey id) (callArg s id w 1) (callArg s id w 2) = some a →
    ∃ t g, exec (.callFwr id e) s = .next t ∧ MemKept s t ∧ CallRegs s t id w 0 [] ∧
      (t.thread (tidKey id)).frame = some g ∧ g = { f with data := g.data } ∧ g.data.length = f.data.length ∧
      ∀ i, byteAt g.data i = if callArg s id w 0 ≤ i ∧ i < callArg s id w 0 + callArg s id w 2
        then (s.areaBytes (tidKey id) a (callArg s id w 2)).getD (i - callArg s id w 0) 0 else byteAt f.data i) ∧
  (∀ (s : State) (id : Tid) (e : IsaFact) (w : Nat) (f : Frame), Issues s id e .enq w →
    (s.thread (tidKey id)).frame = some f → s.badHead (tidKey id) f = false →
    1 ≤ bitsOf (callArg s id w 0) 16 2 → bitsOf (callArg s id w 0) 0 12 < qsetCount (bitsOf (callArg s id w 0) 16 2) →
    bitsOf (callArg s id w 0) 20 2 ≠ 3 → launchFar s (callArg s id w 0) (callArg s id w 1) = false →
    ∃ t st, exec (.callEnq id e) s = .next t ∧ CallRegs s t id w st [] ∧ t.smem = s.smem ∧
      (∀ k, k ≠ tidKey id → t.thread k = s.thread k) ∧
      (bitOf (callArg s id w 0) 18 = false → (st = 0 ∨ st = 8) ∧ (t.thread (tidKey id)).frame = none ∧ t.lmem = s.lmem) ∧
      (bitOf (callArg s id w 0) 18 = true → (s.thread (tidKey id)).copies < 16 → (st = 0 ∨ st = 8) ∧
        (t.thread (tidKey id)).frame = some f ∧
        (t.thread (tidKey id)).copies = (s.thread (tidKey id)).copies + (if st = 0 then 1 else 0)) ∧
      (bitOf (callArg s id w 0) 18 = true → 16 ≤ (s.thread (tidKey id)).copies → st = 7 ∧
        (t.thread (tidKey id)).frame = some f ∧ t.queues = s.queues)) ∧
  (∀ (s : State) (id : Tid) (e : IsaFact) (w : Nat) (f : Frame), Issues s id e .enq w →
    (s.thread (tidKey id)).frame = some f → launchFar s (callArg s id w 0) (callArg s id w 1) = true →
    1 ≤ bitsOf (callArg s id w 0) 16 2 → bitsOf (callArg s id w 0) 0 12 < qsetCount (bitsOf (callArg s id w 0) 16 2) →
    bitsOf (callArg s id w 0) 20 2 ≠ 3 →
    ∃ t, exec (.callEnq id e) s = .next t ∧ CallRegs s t id w 1 [] ∧ MemKept s t ∧ t.queues = s.queues ∧
      (t.thread (tidKey id)).frame = some f ∧ t.counter (timCnt 7) = (s.counter (timCnt 7) + 1) % 2 ^ 64)

/-- A byte of a team's instruction store, little-endian in its words. -/
def istoreByte (s : State) (n o : Nat) : Nat := bitsOf (s.istoreWord n (o / 4)).toNat (8 * (o % 4)) 8

/-- The first check of R237 that an image fails, of those before the tag: its RESULT, or 0. -/
def imageFailure (len : Nat) (b : List Byte) : Nat :=
  if imgWord b 0 ≠ 0x4B434154 then 3 else if imgWord b 4 % 65536 ≠ 1 then 4
  else if imgWord b 4 / 65536 % 256 ≠ 1 then 5
  else if imgWord b 8 ≠ len ∨ imgWord b 8 % 16 ≠ 0 ∨ 1048576 < imgWord b 8 then 6
  else if sectsBad teamMemSize b then 7 else if imgCrcOf b ≠ imgWord b 24 then 8 else 0

/-- R235 to R238: the load commands of a team in each of its states, the drain, the checks of an image in their order, the
memories, entries and registers a load that passes leaves and those a load that fails leaves, and the run of INIT. -/
def Obligations.TeamLoading : Prop :=
  (∀ (s : State) (n : Fin 16), Reach s .host (0xC00020 + 0x10000 * n.val) →
    (s.teamState n.val = 4 → ∃ t, exec (.teamDrain .host n) s = .next t ∧ t.teamState n.val = 1 ∧
      (∀ m, m < 16 → m ≠ n.val → t.teamState m = s.teamState m)) ∧
    (s.teamState n.val = 0 ∨ s.teamState n.val = 3 → ∃ t, exec (.teamDrain .host n) s = .next t ∧
      LoadResult s t n.val (s.teamState n.val) 1) ∧
    (s.teamState n.val = 1 ∨ s.teamState n.val = 2 ∨ s.teamState n.val = 5 ∨ s.teamState n.val = 6 →
      ∃ t, exec (.teamDrain .host n) s = .next t ∧ LoadResult s t n.val (s.teamState n.val) 2) ∧
    (s.teamState n.val = 7 → ∃ t, exec (.teamDrain .host n) s = .next t ∧ (t.team n.val).drainAfterInit = true ∧
      t.regs = s.regs)) ∧
  (∀ (s : State) (n : Fin 16), s.teamState n.val = 1 → (s.threads.any fun e => e.1 / 64 == n.val && e.2.busy) = false →
    ∃ t, exec (.teamDrainDone n) s = .next t ∧ LoadResult s t n.val 0 1) ∧
  (∀ (s : State) (n : Fin 16), Reach s .host (0xC00020 + 0x10000 * n.val) →
    (s.teamState n.val = 0 ∨ s.teamState n.val = 3 →
      ∃ t, exec (.teamLoad .host n) s = .next t ∧ t.teamState n.val = 2 ∧
        (∀ i, i < 2 ^ 15 → t.istoreWord n.val i = 0xFFFFFFFF#32) ∧
        (∀ o, o < 2 ^ 19 → sget (fun _ => 0) t.smem (n.val * 2 ^ 19 + o) = 0) ∧
        (∀ c o, c < 8 → o < 2 ^ 15 → t.lmemByte (8 * n.val + c) o = 0) ∧
        (∀ m i, m ≠ n.val → i < 2 ^ 15 → t.istoreWord m i = s.istoreWord m i)) ∧
    (s.teamState n.val ≠ 0 → s.teamState n.val ≠ 3 →
      ∃ t, exec (.teamLoad .host n) s = .next t ∧ LoadResult s t n.val (s.teamState n.val) 2 ∧ t.istore = s.istore)) ∧
  (∀ (s : State) (n : Fin 16) (first second : Option (List Byte)), s.teamState n.val ≠ 2 ∨ s.hostOk = false →
    exec (.teamLoadEnd n first second) s = .next s) ∧
  (∀ (s : State) (n : Fin 16) (first second : Option (List Byte)) (r : Nat), s.teamState n.val = 2 → s.hostOk = true →
    (first = none ∧ r = 11 ∨ ∃ b, first = some b ∧
      r = imageFailure (s.f F.CRS_LOAD_LEN_LEN (0x10000 * n.val)) b ∧ r ≠ 0) →
    ∃ t, exec (.teamLoadEnd n first second) s = .next t ∧ LoadResult s t n.val 0 r ∧
      (∀ i, i < 2 ^ 15 → t.istoreWord n.val i = 0xFFFFFFFF#32) ∧
      (∀ p, p < 256 → t.flag F.CRS_ENTRY_VALID (0x10000 * n.val + 4 * p) = false) ∧
      t.reg (0x102000 + 4 * 338) = s.reg (0x102000 + 4 * 338) + 1) ∧
  (∀ (s : State) (n : Fin 16) (b : List Byte) (second : Option (List Byte)), s.teamState n.val = 2 → s.hostOk = true →
    imageFailure (s.f F.CRS_LOAD_LEN_LEN (0x10000 * n.val)) b = 0 → s.flag F.CRS_LOAD_CFG_AUTH (0x10000 * n.val) = true →
    s.flag F.SEC_ENT_STAT_FAIL = false →
    (s.keyEmpty (s.f F.CRS_LOAD_CFG_KEY_SLOT (0x10000 * n.val)) = true →
      ∃ t, exec (.teamLoadEnd n (some b) second) s = .next t ∧ LoadResult s t n.val 0 10) ∧
    (s.keyEmpty (s.f F.CRS_LOAD_CFG_KEY_SLOT (0x10000 * n.val)) = false →
      cmacTag (s.keyOf (s.f F.CRS_LOAD_CFG_KEY_SLOT (0x10000 * n.val))) false (bytesAt b 0 (imgWord b 8 - 16)) ≠
        beAt (b.drop (imgWord b 8 - 16)) 0 16 →
      ∃ t, exec (.teamLoadEnd n (some b) second) s = .next t ∧ LoadResult s t n.val 0 9)) ∧
  (∀ (s : State) (n : Fin 16) (b : List Byte), s.teamState n.val = 2 → s.hostOk = true →
    imageFailure (s.f F.CRS_LOAD_LEN_LEN (0x10000 * n.val)) b = 0 → s.flag F.CRS_LOAD_CFG_AUTH (0x10000 * n.val) = false →
    ∃ t, exec (.teamLoadEnd n (some b) (some b)) s = .next t ∧ LoadResult s t n.val 3 1 ∧
      (∀ x ∈ imgSects b, ∀ o, o < x.size →
        (x.typ = 1 → istoreByte t n.val (x.dest + o) = (byteAt b (x.src + o)).toNat) ∧
        (x.typ = 2 → sget (fun _ => 0) t.smem (n.val * 2 ^ 19 + x.dest + o) = byteAt b (x.src + o)) ∧
        (x.typ = 3 → ∀ c, c < 8 → t.lmemByte (8 * n.val + c) (x.dest + o) = byteAt b (x.src + o))) ∧
      (∀ p, p < 256 → t.reg (0xC00400 + 0x10000 * n.val + 4 * p) = BitVec.ofNat 32 (imgWord b (32 + 4 * p))) ∧
      t.reg (0xC00028 + 0x10000 * n.val) = BitVec.ofNat 32 (imgWord b 12) ∧
      t.reg (0xC0002C + 0x10000 * n.val) = BitVec.ofNat 32 (imgWord b 24) ∧
      t.reg (0xC00030 + 0x10000 * n.val) = BitVec.ofNat 32 (t.istoreCrc n.val) ∧
      (t.team n.val).initEntry = imgWord b 20 % 2 ^ 15 ∧
      t.reg (0x102000 + 4 * 337) = s.reg (0x102000 + 4 * 337) + 1 ∧
      (∀ m i, m ≠ n.val → i < 2 ^ 15 → t.istoreWord m i = s.istoreWord m i)) ∧
  (∀ (s : State) (n : Fin 16) (b c : List Byte), s.teamState n.val = 2 → s.hostOk = true →
    imageFailure (s.f F.CRS_LOAD_LEN_LEN (0x10000 * n.val)) b = 0 → s.flag F.CRS_LOAD_CFG_AUTH (0x10000 * n.val) = false →
    imgCrcOf c ≠ imgWord b 24 → ∃ t, exec (.teamLoadEnd n (some b) (some c)) s = .next t ∧ LoadResult s t n.val 0 8) ∧
  (∀ (s : State) (n : Fin 16), Reach s .host (0xC00020 + 0x10000 * n.val) →
    (s.teamState n.val = 3 → ∃ t, exec (.teamRun .host n) s = .next t ∧ t.teamState n.val = 7 ∧
      (t.thread (64 * n.val)).busy = true ∧ (t.thread (64 * n.val)).init = true ∧
      (t.thread (64 * n.val)).pc = istoreBase + 4 * (s.team n.val).initEntry) ∧
    (s.teamState n.val = 1 ∨ s.teamState n.val = 5 ∨ s.teamState n.val = 6 →
      ∃ t, exec (.teamRun .host n) s = .next t ∧ LoadResult s t n.val (s.teamState n.val) 2) ∧
    (s.teamState n.val = 0 ∨ s.teamState n.val = 2 ∨ s.teamState n.val = 4 ∨ s.teamState n.val = 7 →
      ∃ t, exec (.teamRun .host n) s = .next t ∧ LoadResult s t n.val (s.teamState n.val) 13)) ∧
  (∀ (s : State) (n : Fin 16), s.teamState n.val = 7 → (s.thread (64 * n.val)).busy = false →
    (s.team n.val).drainAfterInit = false →
    ∃ t, exec (.teamInitDone n) s = .next t ∧ t.teamState n.val = 4 ∧
      ((s.team n.val).runCmd = true → t.f F.CRS_LOAD_STAT_RESULT (0x10000 * n.val) = 1 ∧
        t.flag F.CRS_LOAD_STAT_DONE (0x10000 * n.val) = true)) ∧
  (∀ (s : State) (n : Fin 16), s.teamState n.val ≠ 7 ∨ (s.thread (64 * n.val)).busy = true →
    exec (.teamInitDone n) s = .next s) ∧
  (∀ (s : State) (n : Fin 16) (v : Word), Reach s .host (0xC00020 + 0x10000 * n.val) →
    v.toNat % 8 = 3 ∨ v.toNat % 8 = 5 ∨ v.toNat % 8 = 6 ∨ v.toNat % 8 = 7 →
    ∃ t, exec (.loadCmdMulti .host n v) s = .next t ∧ LoadResult s t n.val (s.teamState n.val) 15)

/-- R228, R231 to R234: limits, quarantine, team reset and the sampler's restart. -/
def Obligations.TeamLimits : Prop :=
  (∀ (s : State) (id : Tid), s.wdogDue (tidKey id) = true → (s.thread (tidKey id)).init = false →
    s.flag F.CRS_TFLT_INFO_VALID (0x10000 * id.team.val) = false →
    ∃ t, exec (.watchdogExpire id) s = .next t ∧ (t.thread (tidKey id)).busy = false ∧
      t.counter (crsCnt id.team.val 7) = (s.counter (crsCnt id.team.val 7) + 1) % 2 ^ 64 ∧
      t.f F.CRS_TFLT_INFO_CAUSE (0x10000 * id.team.val) = 4 ∧
      t.f F.CRS_TFLT_INFO_INDEX (0x10000 * id.team.val) = s.threadIndex (tidKey id) ∧
      (∀ k, k ≠ tidKey id → t.thread k = s.thread k)) ∧
  (∀ (s : State) (id : Tid) (f : Frame), s.budgetDue (tidKey id) = true → (s.thread (tidKey id)).frame = some f →
    ∃ t, exec (.expressBudgetExceeded id) s = .next t ∧
      t.thread (tidKey id) = { s.thread (tidKey id) with frame := some { f with exp := false } } ∧
      (∀ k, k ≠ tidKey id → t.thread k = s.thread k) ∧
      t.counter (crsCnt id.team.val 6) = (s.counter (crsCnt id.team.val 6) + 1) % 2 ^ 64) ∧
  (∀ (s : State) (n : Fin 16) (c : Fin 8) (h : Bool), s.quarCause n.val c.val h = true →
    bitOf (s.f F.CRS_TEAM_STAT_QUAR (0x10000 * n.val)) c.val = false → 5 ≤ s.working n.val →
    (s.thread (64 * n.val)).init = false →
    ∃ t, exec (.courserQuarantine n c h) s = .next t ∧
      t.f F.CRS_TEAM_STAT_QUAR (0x10000 * n.val) = s.f F.CRS_TEAM_STAT_QUAR (0x10000 * n.val) + 2 ^ c.val ∧
      (∀ k, k / 8 = 8 * n.val + c.val → (t.thread k).busy = false) ∧
      ∀ k, k / 8 ≠ 8 * n.val + c.val → t.thread k = s.thread k) ∧
  (∀ (s : State) (n : Fin 16), ∃ t, exec (.teamReset n) s = .next t ∧
    (∀ k, k / 64 = n.val → k ≠ 64 * n.val → (t.thread k).busy = false) ∧
    (s.istoreCrc n.val = s.f F.CRS_IMG_ICRC_CRC (0x10000 * n.val) → t.teamState n.val = 7 ∧
      (t.thread (64 * n.val)).init = true ∧ (t.thread (64 * n.val)).busy = true) ∧
    (s.istoreCrc n.val ≠ s.f F.CRS_IMG_ICRC_CRC (0x10000 * n.val) → t.teamState n.val = 0 ∧
      t.f F.CRS_LOAD_STAT_RESULT (0x10000 * n.val) = 14) ∧
    ∀ c o, c < 8 → o < 2 ^ 15 → t.lmemByte (8 * n.val + c) o = 0) ∧
  (∀ (s : State) (n : Fin 16) (v : Word), Reach s .host (0xC00044 + 0x10000 * n.val) → F.CRS_SAMP_STAT_FULL.of v = 1 →
    ∃ t, exec (.samplerRestart .host n v) s = .next t ∧ t.flag F.CRS_SAMP_STAT_FULL (0x10000 * n.val) = false ∧
      t.f F.CRS_SAMP_STAT_WP (0x10000 * n.val) = 0 ∧
      t.f F.CRS_SAMP_STAT_CODE (0x10000 * n.val) = F.CRS_SAMP_STAT_CODE.of v)

/-- A queued frame with the marks of its launch time's judgement (R288) taken off. -/
def unjudged (x : Frame) : Frame := { x with judged := false, late := false }

/-- A frame that is neither unreadable nor too long for its queue's class is not dropped for that at its head. -/
def Sound (s : State) (q : Nat) (x : Frame) : Prop := (x.lost = false ∨ x.back = false) ∧ s.tooLong q x.data.length = false

/-- R242 to R244, R249, R256, R257 and R262: queues, buckets, gate lists and sampling. -/
def Obligations.Scheduling : Prop :=
  (∀ (s : State) (n : Fin 521), n.val < 512 → exec (.schedulerSelect n) s = .next s) ∧
  (∀ (s u : State) (n : Fin 521) (x : Nat) (f : Frame), 512 ≤ n.val → x = (if n.val < 520 then 5 else 7) →
    s.groupHeld 98 = false → s.xRoom x true 1 = true → s.xRoom x false 1 = true →
    (n.val = 520 ∨ s.portServes (n.val - 512) = true) → s.select s.takeNow n.val = (some f, u) →
    ∃ t h r k, exec (.schedulerSelect n) s = .next t ∧ ((s.decide0 s.takeNow n.val).que f.outQ).frames = h :: r ∧
      f = { h with outQ := f.outQ } ∧ (t.que f.outQ).frames.map unjudged = (r.drop k).map unjudged ∧
      ((∀ g ∈ r, g.launch = none ∧ Sound s f.outQ g) → k = 0) ∧
      (∀ q, q ≠ f.outQ → (t.que q).frames = ((s.decide0 s.takeNow n.val).que q).frames) ∧
      (f.exp = false ∨ n.val = 520 → (t.xing x).other = (s.xing x).other ++ [f]) ∧
      (f.exp = true ∧ n.val ≠ 520 → (t.xing x).exp = (s.xing x).exp ++ [f])) ∧
  (∀ (s : State) (q : Fin 6272) (a b : List Frame) (f : Frame), s.xOpen 8 = true →
    s.padMay false (ceilDiv f.body 256) = true → (s.queues.any fun e => e.2.frames.any Frame.unsent) = false →
    (s.que q.val).frames = a ++ f :: b → (∀ g ∈ a, g.spilled = false ∨ g.back = true) →
    f.spilled = true → f.back = false → f.unsent = false → f.flip = 0 → f.lost = false → f.launch = none →
    s.tooLong q.val f.data.length = false → (∀ g ∈ a, g.judged = true ∧ Sound s q.val g) →
    (∃ t, exec (.spillReadbackDone q false) s = .next t ∧
      (t.que q.val).frames.map unjudged = (a ++ { f with back := true } :: b).map unjudged ∧
      (∀ k, k ≠ q.val → t.que k = s.que k) ∧ t.padObj f.handle = { cells := ceilDiv f.body 256, refs := 1 } ∧
      t.counter (memCnt 15) = (s.counter (memCnt 15) + 64 * ceilDiv f.body 64) % 2 ^ 64) ∧
    (a ≠ [] → ∃ t, exec (.spillReadbackDone q true) s = .next t ∧
      (t.que q.val).frames = a ++ { f with back := true, lost := true } :: b) ∧
    (a = [] → b = [] → ∃ t, exec (.spillReadbackDone q true) s = .next t ∧ (t.que q.val).frames = [] ∧
      t.counter (schCnt 7) = (s.counter (schCnt 7) + 1) % 2 ^ 64 ∧
      t.reg (0x102000 + 4 * 361) = s.reg (0x102000 + 4 * 361) + 1)) ∧
  (∀ (s : State) (q : Fin 6272) (unc : Bool), s.xOpen 8 = false →
    (s.queues.any fun e => e.2.frames.any Frame.unsent) = false → exec (.spillReadbackDone q unc) s = .next s) ∧
  (∀ (s : State) (q : Req) (n : Fin 6272) (v : Word), Reach s q (0xE20004 + 16 * n.val) →
    ∃ t, exec (.queueConfigWrite q n 1 v) s = .next t ∧ Only [0xE20004 + 16 * n.val] [] s t ∧
      t.reg (0xE20004 + 16 * n.val) =
        ((s.reg (0xE20004 + 16 * n.val) &&& ~~~ (0xFFFF1FFF#32)) ||| (v &&& 0xFFFF1FFF#32))) ∧
  (∀ (s : State) (q : Req) (n : Fin 6272) (w : Fin 4) (v : Word), 2 ≤ w.val → Reach s q (0xE20000 + 16 * n.val + 4 * w.val) →
    ∃ t, exec (.queueConfigWrite q n w v) s = .next t ∧ t.reg (0xE20000 + 16 * n.val + 4 * w.val) = v ∧
      Only [0xE20000 + 16 * n.val + 4 * w.val] [] s t) ∧
  (∀ (s : State) (q : Req) (n : Fin 6272) (v : Word), Reach s q (0xE20000 + 16 * n.val) →
    s.flag F.SCH_Q_CFG_EN (16 * n.val) = false → s.flag F.SCH_Q_CFG1_HELD (16 * n.val) = false →
    F.SCH_Q_CFG_EN.of v = 0 ∨ 4096 ≤ n.val →
    ∃ t, exec (.queueConfigWrite q n 0 v) s = .next t ∧ t.reg (0xE20000 + 16 * n.val) = v ∧
      Only [0xE20000 + 16 * n.val] [] s t) ∧
  (∀ (s : State) (q : Req) (n : Fin 6272) (v : Word), Reach s q (0xE20000 + 16 * n.val) →
    s.flag F.SCH_Q_CFG_EN (16 * n.val) = true →
    ∃ t, exec (.queueConfigWrite q n 0 v) s = .next t ∧ t.qClass n.val = s.qClass n.val ∧ t.qNode n.val = s.qNode n.val ∧
      t.qGroup n.val = s.qGroup n.val ∧ t.f F.SCH_Q_CFG_EN (16 * n.val) = F.SCH_Q_CFG_EN.of v ∧
      t.f F.SCH_Q_CFG_SHAPER (16 * n.val) = F.SCH_Q_CFG_SHAPER.of v ∧ Only [0xE20000 + 16 * n.val] [] s t) ∧
  (∀ (s : State) (q : Req) (n : Nat) (v : Word), n < 1024 → Reach s q (0xE50000 + 32 * n) →
    ∃ t, exec (.bucketConfigWrite q (0xE50000 + 32 * n) v) s = .next t ∧ t.reg (0xE50000 + 32 * n) = v ∧
      t.bucket (shpC n) = bucketFull s.tick (s.f F.SCH_SHP_CBS_DEPTH (32 * n)) ∧
      (∀ k, k ≠ shpC n → t.bucket k = s.bucket k) ∧ Only [0xE50000 + 32 * n] [] s t) ∧
  (∀ (s : State) (q : Req) (g : Fin 520) (v : Word), Reach s q (0xE90014 + 32 * g.val) →
    F.SCH_GCL_CTRL_COMMIT.of v = 1 →
    (s.gatePending g.val = true → ∃ t, exec (.gateCommit q g v) s = .next t ∧ t.gatePending g.val = true ∧
      t.f F.SCH_GCL_CTRL_RESULT (32 * g.val) = 3 ∧ t.gates = s.gates ∧ Only [0xE90014 + 32 * g.val] [] s t ∧
      Raised s t 355 1 0 (g.val + 3 * 1024)) ∧
    (s.gatePending g.val = false → 1 ≤ s.f F.SCH_GCL_LEN_LEN (32 * g.val) → s.f F.SCH_GCL_LEN_LEN (32 * g.val) ≤ 1024 →
      1 ≤ s.f F.SCH_GCL_CYCLE_NS (32 * g.val) → s.f F.SCH_GCL_CYCLE_NS (32 * g.val) ≤ 1000000000 →
      s.f F.SCH_GCL_BASE_NS_NS (32 * g.val) < 1000000000 → s.resFree (4 + F.SCH_GCL_CTRL_COMP.of v) = true →
      s.todNs + 10000 ≤ s.gateBase g.val →
      ∃ t, exec (.gateCommit q g v) s = .next t ∧ t.gatePending g.val = true ∧
        t.f F.SCH_GCL_CTRL_RESULT (32 * g.val) = 1 ∧ t.resFeature (4 + F.SCH_GCL_CTRL_COMP.of v) = 6 ∧
        (t.gate g.val).pending = some (s.gateBase g.val, F.SCH_GCL_CTRL_COMP.of v) ∧
        ∀ k, k ≠ g.val → t.gate k = s.gate k)) ∧
  (∀ (s : State) (g : Fin 520), s.gateRuns g.val = true → (s.gate g.val).start ≤ s.todNs →
    ∃ t, exec (.gateEntryAdvance g) s = .next t ∧ (t.gate g.val).start ≤ s.todNs ∧
      s.todNs < (t.gate g.val).start + max 1 (s.gate g.val).cycle ∧
      (t.gate g.val).start % max 1 (s.gate g.val).cycle = (s.gate g.val).start % max 1 (s.gate g.val).cycle ∧
      (∀ k, k ≠ g.val → t.gate k = s.gate k) ∧ t.regs = s.regs) ∧
  (∀ (s : State), s.flag F.SCH_SAMP_CFG_EN = true →
    (∃ t, exec (.queueSampleSweep true) s = .next t ∧ t.reg 0xE00048 = s.reg 0xE00048 + 1 ∧ Only [0xE00048] [] s t) ∧
    (∀ q, s.sampleQueues = [q] → s.flag F.SCH_SAMP_CFG_CAP = false → ∃ t, exec (.queueSampleSweep false) s = .next t ∧
      t.f F.SCH_SAMP_STAT_WP = (s.f F.SCH_SAMP_STAT_WP + 1) % 4096 ∧ t.sweep = s.sweep + 1 ∧
      t.reg (0xE10004 + 16 * s.f F.SCH_SAMP_STAT_WP) = BitVec.ofNat 32 (min (s.qBytes q) 0xFFFFFFFF) ∧
      t.reg (0xE1000C + 16 * s.f F.SCH_SAMP_STAT_WP) = BitVec.ofNat 32 s.tick))

/-- R270 to R279: the time-of-day messages, the loop's state and the second tick. -/
def Obligations.TimeOfDay : Prop :=
  (∀ (s : State) (q : Req) (x : Side) (v : Word), Reach s q (0x100011C + 0x20 * sideNo x) →
    s.f F.TIM_CFG_OWNER = reqCode q → F.TIM_TODM_CTRL_APPLY.of v = 1 → 1000000000 ≤ (s.stagedTod x).nsec →
    ∃ t, exec (.todApply q x v) s = .next t ∧ t.f F.TIM_TODM_CTRL_RESULT (0x20 * sideNo x) = 2 ∧
      t.counter (timCnt 1) = (s.counter (timCnt 1) + 1) % 2 ^ 64 ∧ t.heldTod x = none ∧ t.tm.tod = s.tm.tod) ∧
  (∀ (s : State) (q : Req) (x : Side) (v : Word), Reach s q (0x100011C + 0x20 * sideNo x) →
    s.f F.TIM_CFG_OWNER = reqCode q → F.TIM_TODM_CTRL_APPLY.of v = 1 → (s.stagedTod x).nsec < 1000000000 →
    ((s.bounds x).headD {}).sfc < 2 ^ 51 → (s.heldTod x) = none →
    (s.stagedTod x).sfc = (((s.bounds x).headD {}).sfc + 1) % 2 ^ 51 →
    ∃ t, exec (.todApply q x v) s = .next t ∧ t.heldTod x = some (s.stagedTod x) ∧ t.tm.tod = s.tm.tod ∧
      t.flag F.TIM_TODM_CTRL_PEND (0x20 * sideNo x) = true) ∧
  (∀ (s : State) (x : Side) (m : TodMsg) (b : Bound), s.heldTod x = some m →
    (s.bounds x).find? (fun b => b.sfc == m.sfc) = some b →
    (0 < s.todRtd x m b → ∃ t, exec (.todHeldCompute x) s = .next t ∧ t.heldTod x = none ∧
      t.f F.TIM_TODM_CTRL_RESULT (0x20 * sideNo x) = 1 ∧ t.tm.tod = s.tm.tod ∧
      t.tm.jobs = s.tm.jobs ++ [.message x (s.todAtN x m b) b.stamp]) ∧
    (s.todRtd x m b ≤ 0 → ∃ t, exec (.todHeldCompute x) s = .next t ∧ t.heldTod x = none ∧
      t.f F.TIM_TODM_CTRL_RESULT (0x20 * sideNo x) = 2 ∧ t.tm.jobs = s.tm.jobs ∧
      t.counter (timCnt 1) = (s.counter (timCnt 1) + 1) % 2 ^ 64)) ∧
  (∀ (s : State) (x : Side) (n : Int) (st : Nat), s.pending = [] → s.regionUp 7 = true → s.tm.todSet = none →
    s.tm.jobs = [.message x n st] →
    ∃ t, step s = .next t ∧ t.tm.jobs = [] ∧ t.counter (timCnt 0) = (s.counter (timCnt 0) + 1) % 2 ^ 64 ∧
      (s.refSide = some x → s.timState = 0 → t.timState = 1 ∧ t.tm.slew = 0)) ∧
  (∀ (s : State) (q : Req) (v : Word), Reach s q 0x100000C → F.TIM_CTRL_SET.of v = 1 →
    s.f F.TIM_SET_NS_NS < 1000000000 →
    ∃ t, exec (.todSet q v) s = .next t ∧ t.regs = s.regs ∧ t.tm = { s.tm with
      todSet := some (((s.f F.TIM_SET_S_LO_SEC + 2 ^ 32 * s.f F.TIM_SET_S_HI_SEC) * 1000000000 + s.f F.TIM_SET_NS_NS) * 65536) }) ∧
  (∀ (s : State) (u : Nat), s.pending = [] → s.regionUp 7 = true → s.tm.todSet = some u → s.tm.jobs = [] →
    ∃ t, step s = .next t ∧ t.tm.todSet = none ∧ t.tm.slew = 0 ∧ t.tm.tod = u * 243 % todModulus ∧
      t.counter (timCnt 2) = (s.counter (timCnt 2) + 1) % 2 ^ 64) ∧
  (∀ (s : State) (v : Word), Reach s .host 0x1000000 → F.TIM_CFG_SRC.of v = s.f F.TIM_CFG_SRC → s.timSrc < 5 →
    s.timState ≠ 3 → (∀ x, s.refSide = some x →
      s.flag F.DSF_STAT_LOS (sideOff x) = false ∧ s.flag F.DSF_STAT_LOF (sideOff x) = false) →
    ∃ t, exec (.timeSourceWrite .host v) s = .next t ∧ t.f F.TIM_CFG_OWNER = F.TIM_CFG_OWNER.of v ∧
      t.f F.TIM_CFG_GAIN = F.TIM_CFG_GAIN.of v ∧ t.f F.TIM_CFG_LOCK_NS = F.TIM_CFG_LOCK_NS.of v ∧
      t.f F.TIM_CFG_SRC = s.f F.TIM_CFG_SRC ∧ t.timState = s.timState) ∧
  (∀ (s : State), s.f F.TIM_THR_TOD_TMO ≠ 0 → s.refSide.isSome = true → s.timState = 1 ∨ s.timState = 2 →
    (s.tm.lastTod + s.f F.TIM_THR_TOD_TMO * 777600000 ≤ s.tick →
      ∃ t, exec .todMessageTimeout s = .next t ∧ t.timState = 3 ∧ t.f F.TIM_STAT_HOLD_CAUSE = 2 ∧
        Raised s t 384 1 0 (3 + 4 * s.timState + 16 * 2)) ∧
    (s.tick < s.tm.lastTod + s.f F.TIM_THR_TOD_TMO * 777600000 → exec .todMessageTimeout s = .next s)) ∧
  (∀ (s : State) (n : Nat), s.refInput = some n → s.timState = 1 ∨ s.timState = 2 →
    (s.extLast n + 777677760 ≤ s.tick →
      ∃ t, exec .extPpsMissing s = .next t ∧ t.timState = 3 ∧ t.f F.TIM_STAT_HOLD_CAUSE = 4 ∧ t.tm.frozen = true) ∧
    (s.tick < s.extLast n + 777677760 → exec .extPpsMissing s = .next s)) ∧
  (∀ (s : State), s.secTickDue = true →
    ∃ t, exec .secondTick s = .next t ∧ t.tm.lastSec = s.tick ∧ t.tm.lastSecTod = s.tm.tod / 243 / 65536 / 1000000000 ∧
      t.tm.secA = s.xOpen 21 ∧ t.tm.secB = s.xOpen 22 ∧ t.tm.secDue = false ∧ t.tm.tod = s.tm.tod) ∧
  (∀ (s : State), s.timState ≠ 2 → s.tm.secWait = false → s.tm.secDue = false →
    s.secTickDue = decide (s.tm.lastSec + 777600000 ≤ s.tick) ∧
    (s.tick < s.tm.lastSec + 777600000 → exec .secondTick s = .next s)) ∧
  (∀ (s : State), s.timState = 2 → s.tm.secDue = false →
    s.secTickDue = decide (s.tm.lastSecTod < s.tm.tod / 243 / 65536 / 1000000000) ∧
    (s.tm.tod / 243 / 65536 / 1000000000 ≤ s.tm.lastSecTod → exec .secondTick s = .next s)) ∧
  (∀ (s : State), s.tm.slew = 0 →
    ∃ t, exec .todSlewEnd s = .next t ∧ t.flag F.TIM_STAT_SLEWING = false ∧ Only [F.TIM_STAT_SLEWING.addr] [] s t ∧
      t.tm = s.tm)

/-- R289 to R291: PPS outputs, event capture and comparators, with the resources they claim (R36, R37). -/
def Obligations.PpsCaptureCompare : Prop :=
  (∀ (s : State) (q : Req) (n : Fin 2) (v : Word), Reach s q (0x1000200 + 16 * n.val) → F.TIM_PPS_CFG_EN.of v = 1 →
    F.TIM_PPS_CFG_FEATURE.of v ≤ 1 → s.flag F.TIM_PPS_CFG_EN (16 * n.val) = false → s.resFree n.val = true →
    ∃ t, exec (.ppsEnable q n v) s = .next t ∧ t.flag F.TIM_PPS_CFG_EN (16 * n.val) = true ∧
      t.resFeature n.val = 1 ∧ t.f F.GLB_RES_OWNER_REQUESTER (4 * n.val) = reqCode q ∧
        t.reg (bankKey q 0x180) = BitVec.ofNat 32 (n.val * 256 + 1) ∧
      (t.ppsRec n.val).edge = s.tm.tod / 243 / 65536) ∧
  (∀ (s : State) (q : Req) (n : Fin 2) (v : Word), Reach s q (0x1000200 + 16 * n.val) → F.TIM_PPS_CFG_EN.of v = 1 →
    s.flag F.TIM_PPS_CFG_EN (16 * n.val) = false → s.resFree n.val = false →
    ∃ t, exec (.ppsEnable q n v) s = .next t ∧ t.flag F.TIM_PPS_CFG_EN (16 * n.val) = false ∧
      t.reg (bankKey q 0x180) = BitVec.ofNat 32 (n.val * 256 + 2) ∧ t.tm = s.tm ∧
      Only [bankKey q 0x180] [] s t ∧
      t.reg (0x102000 + 4 * 11) = s.reg (0x102000 + 4 * 11) + 1) ∧
  (∀ (s : State) (n : Fin 2), s.ppsDue n.val = true → s.ppsFeature n.val = 1 →
    ∃ t, exec (.ppsEdge n) s = .next t ∧ (t.ppsRec n.val).pulses = (s.ppsRec n.val).pulses + 1 ∧
      (t.ppsRec n.val).edge = s.tm.tod / 243 / 65536 ∧ t.regs = s.regs ∧ t.counters = s.counters) ∧
  (∀ (s : State) (q : Req) (n : Fin 2) (v : Word), Reach s q (0x1000240 + 0x20 * n.val) → F.TIM_CAP_CFG_EN.of v = 1 →
    s.flag F.TIM_CAP_CFG_EN (0x20 * n.val) = false → s.resFree (2 + n.val) = true →
    ∃ t, exec (.eventCaptureEnable q n v) s = .next t ∧ t.flag F.TIM_CAP_CFG_EN (0x20 * n.val) = true ∧
      t.resFeature (2 + n.val) = 4 ∧ t.f F.TIM_CAP_CFG_EDGE (0x20 * n.val) = F.TIM_CAP_CFG_EDGE.of v) ∧
  (∀ (s : State) (n : Fin 2) (falling : Bool) (p : Fin 16), s.edgeChosen n.val falling = true →
    s.resFeature (2 + n.val) = 4 → (s.tsQueue (8 + n.val)).entries.length < 16 →
    ∃ t w, exec (.eventCaptureEdge n falling p) s = .next t ∧
      (t.tsQueue (8 + n.val)).entries = (s.tsQueue (8 + n.val)).entries ++ [w] ∧
      w.getD 1 0 = BitVec.ofNat 32 (todNsec (s.todOfStamp (s.tick * 16 + p.val))) ∧
      w.getD 3 0 = BitVec.ofNat 32 (todSec (s.todOfStamp (s.tick * 16 + p.val))) ∧ t.tm.tod = s.tm.tod) ∧
  (∀ (s : State) (q : Req) (n : Fin 8) (v : Word), Reach s q (0x100030C + 16 * n.val) → F.TIM_CMP_CTRL_ARM.of v = 1 →
    s.resFree (4 + n.val) = true →
    ∃ t, exec (.comparatorArm q n v) s = .next t ∧ t.flag F.TIM_CMP_CTRL_ARM (16 * n.val) = true ∧
      t.resFeature (4 + n.val) = 7 ∧ t.f F.TIM_CMP_CTRL_FEATURE (16 * n.val) = 7 ∧
      t.cmpFlag n.val = if s.cmpDue n.val then 1 else 0) ∧
  (∀ (s : State) (n : Fin 8), s.flag F.TIM_CMP_CTRL_ARM (16 * n.val) = true → s.cmpDue n.val = true →
    s.resFeature (4 + n.val) = 7 →
    ∃ t, exec (.comparatorFire n) s = .next t ∧ t.flag F.TIM_CMP_CTRL_ARM (16 * n.val) = false ∧
      t.flag F.TIM_CMP_CTRL_FIRED (16 * n.val) = true ∧ t.resFeature (4 + n.val) = 0 ∧
      t.reg (0x102000 + 4 * 388) = s.reg (0x102000 + 4 * 388) + 1 ∧
      (s.cmpFlag n.val = 1 → t.flag F.TIM_CMP_CTRL_LATE (16 * n.val) = true))

/-- R293 to R295 and R308: the client layout, and ports and links that come and go. -/
def Obligations.ClientLinks : Prop :=
  (∀ (s : State) (q : Req) (v : Word), Reach s q 0x1100000 →
    (F.CLI_CFG_MODE.of v ≤ 4 → (F.CLI_CFG_MODE.of v = s.f F.CLI_CFG_MODE ∧ F.CLI_CFG_LANE_RATE.of v = s.f F.CLI_CFG_LANE_RATE) ∨
        (∀ p, p < 8 → s.portEn p = false) →
      ∃ t, exec (.clientLayoutWrite q v) s = .next t ∧ t.f F.CLI_CFG_MODE = F.CLI_CFG_MODE.of v ∧
        t.f F.CLI_CFG_LANE_RATE = F.CLI_CFG_LANE_RATE.of v ∧
        (F.CLI_CFG_MODE.of v ≠ 4 → ∀ p, p < 8 → t.flag F.CLI_PORT_CFG_FEC (0x1000 * p) = false) ∧
        Only (0x1100000 :: (List.range 8).map fun p => 0x1110000 + 0x1000 * p) [] s t) ∧
    (5 ≤ F.CLI_CFG_MODE.of v ∨ (F.CLI_CFG_MODE.of v ≠ s.f F.CLI_CFG_MODE ∧ ∃ p, p < 8 ∧ s.portEn p = true) →
      ∃ t, exec (.clientLayoutWrite q v) s = .next t ∧ t.flag F.CLI_CFG_CFG_REFUSED = true ∧
        t.f F.CLI_CFG_MODE = s.f F.CLI_CFG_MODE ∧ Only [0x1100000] [] s t ∧ Raised s t 433 1 0 0)) ∧
  (∀ (s : State) (q : Req) (p : Fin 8) (v : Word), Reach s q (0x1110000 + 0x1000 * p.val) → F.CLI_PORT_CFG_EN.of v = 1 →
    s.portIs p.val = true →
    (s.portEn p.val = false → ∃ t, exec (.portEnable q p v) s = .next t ∧ t.portEn p.val = true ∧
      t.flag F.CLI_PORT_STAT_LOCAL_FAULT (0x1000 * p.val) = true ∧
      t.f F.CLI_PORT_CFG_MAX_LEN (0x1000 * p.val) = F.CLI_PORT_CFG_MAX_LEN.of v ∧
      t.flag F.CLI_PORT_CFG_FEC (0x1000 * p.val) = (F.CLI_PORT_CFG_FEC.of v == 1 && s.f F.CLI_CFG_MODE == 4) ∧
      Only [0x1110000 + 0x1000 * p.val, 0x1110004 + 0x1000 * p.val] [] s t) ∧
    (s.portEn p.val = true → s.f F.CLI_CFG_MODE = 4 → F.CLI_PORT_CFG_FEC.of v ≠ s.f F.CLI_PORT_CFG_FEC (0x1000 * p.val) →
      ∃ t, exec (.portEnable q p v) s = .next t ∧ t.flag F.CLI_CFG_CFG_REFUSED = true ∧ Only [0x1100000] [] s t ∧
        Raised s t 433 1 0 (1 + 2 * p.val))) ∧
  (∀ (s : State) (q : Req) (p : Fin 8) (v : Word), Reach s q (0x1110000 + 0x1000 * p.val) → F.CLI_PORT_CFG_EN.of v = 0 →
    s.portIs p.val = true → s.portEn p.val = true → s.f F.CLI_CFG_MODE ≠ 4 →
    s.flag F.CLI_PORT_CFG_FEC (0x1000 * p.val) = false →
    ∀ (smd : Smd) (rx : List Byte) (first : Nat),
    ∃ t, exec (.portDisable q p v smd rx first) s = .next t ∧ t.portEn p.val = false ∧ t.reg (0x1110004 + 0x1000 * p.val) = 0 ∧
      (s.portLink p.val = false → Only [0x1110000 + 0x1000 * p.val, 0x1110004 + 0x1000 * p.val] [] s t) ∧
      (s.portLink p.val = true → t.reg (0x1110008 + 0x1000 * p.val) = 0 ∧ t.macOf p.val = none ∧ t.cutOf p.val = none ∧
        t.txOf p.val = [] ∧ t.txExpOf p.val = [] ∧ t.openOf p.val = none)) ∧
  (∀ (s : State) (p : Fin 8) (a b : Nat),
    (s.portIs p.val = true → s.portEn p.val = true → s.regionUp 3 = true → s.portLink p.val = false →
      ∃ t, exec (.linkUp p a b) s = .next t ∧ t.portLink p.val = true ∧
        t.flag F.CLI_PORT_STAT_PCS_LOCK (0x1000 * p.val) = true ∧
        t.flag F.CLI_PORT_STAT_FEC_LOCK (0x1000 * p.val) = s.portFec p.val ∧
        t.flag F.CLI_PORT_STAT_LOCAL_FAULT (0x1000 * p.val) = false ∧
        t.f F.CLI_PORT_LAT_RX (0x1000 * p.val) = min a (s.portLatMax p.val).1 ∧
        t.f F.CLI_PORT_LAT_TX (0x1000 * p.val) = min b (s.portLatMax p.val).2 ∧
        t.reg (0x102000 + 4 * (416 + p.val)) = s.reg (0x102000 + 4 * (416 + p.val)) + 1 ∧
        Only [0x1110004 + 0x1000 * p.val, 0x1110008 + 0x1000 * p.val, 0x1110014 + 0x1000 * p.val] [] s t) ∧
    (s.portEn p.val = false ∨ s.portLink p.val = true → exec (.linkUp p a b) s = .next s)) ∧
  (∀ (s : State) (p : Fin 8) (lf rf pcs : Bool) (smd : Smd) (rx : List Byte) (first : Nat), s.portIs p.val = true →
    s.portEn p.val = true → s.regionUp 3 = true →
    ∃ t, exec (.linkDown p lf rf pcs smd rx first) s = .next t ∧ t.portLink p.val = false ∧
      t.flag F.CLI_PORT_STAT_LOCAL_FAULT (0x1000 * p.val) = (lf || !pcs) ∧
      t.flag F.CLI_PORT_STAT_REMOTE_FAULT (0x1000 * p.val) = rf ∧ t.flag F.CLI_PORT_STAT_PCS_LOCK (0x1000 * p.val) = pcs ∧
      t.sendsRemoteFault p.val = (lf || !pcs) ∧
      (s.portLink p.val = false → Only [0x1110004 + 0x1000 * p.val] [] s t) ∧
      (s.portLink p.val = true → t.reg (0x1110008 + 0x1000 * p.val) = 0 ∧ t.macOf p.val = none ∧ t.cutOf p.val = none ∧
        t.txOf p.val = [] ∧ t.txExpOf p.val = [] ∧ t.openOf p.val = none ∧
        t.reg (0x102000 + 4 * (416 + p.val)) = s.reg (0x102000 + 4 * (416 + p.val)) + 1))

/-- R296 to R304: frames of the client ports, their address filter and their preemption. -/
def Obligations.ClientTraffic : Prop :=
  (∀ (s : State) (p : Fin 8) (d : List Byte) (n : Nat) (m : Smd) (a b : Bool) (x y : Nat), s.portLink p.val = false →
    exec (.clientFrameReceive p d n m a b x y) s = .next s) ∧
  (∀ (s : State) (p : Fin 8) (d : List Byte) (n x y : Nat), s.portIs p.val = true → s.portLink p.val = true →
    s.regionUp 3 = true → 64 ≤ d.length → d.length ≤ s.maxLen p.val → beAt d 12 2 ≠ 0x8808 →
    leNat (d.drop (d.length - 4)) = crc32 (d.take (d.length - 4)) →
    s.daAccepted p.val d (s.daTime (s.tick * 16 - n)) = true → s.cli.rx = [] →
    s.rxStored p.val + ceilDiv (d.length - 4) 64 ≤ 1024 →
    (s.rxExpress p.val true (d.take (d.length - 4)) = false → s.xRoom 4 false (d.length - 4) = true →
      ∃ t f, exec (.clientFrameReceive p d n .express false false x y) s = .next t ∧
        (t.xing 4).other = (s.xing 4).other ++ [f] ∧ (t.xing 4).exp = (s.xing 4).exp ∧ f.data = d.take (d.length - 4) ∧
        f.src = 2 ∧ f.port = p.val ∧ f.exp = false ∧ f.err = false ∧ f.arrival = s.tick ∧ t.cli.rx = [] ∧
        t.counter (cliCnt p.val 0) = (s.counter (cliCnt p.val 0) + 1) % 2 ^ 64 ∧
        t.counter (cliCnt p.val 1) = (s.counter (cliCnt p.val 1) + (d.length - 4)) % 2 ^ 64) ∧
    (s.rxExpress p.val true (d.take (d.length - 4)) = true → s.flag F.SCH_XPOL_CFG_EN (16 * (520 + p.val)) = false →
      s.xRoom 4 true (d.length - 4) = true →
      ∃ t f, exec (.clientFrameReceive p d n .express false false x y) s = .next t ∧
        (t.xing 4).exp = (s.xing 4).exp ++ [f] ∧ (t.xing 4).other = (s.xing 4).other ∧ f.data = d.take (d.length - 4) ∧
        f.exp = true ∧ f.err = false ∧ t.counter (cliCnt p.val 9) = (s.counter (cliCnt p.val 9) + 1) % 2 ^ 64)) ∧
  (∀ (s : State) (p : Fin 8) (d : List Byte) (n x y : Nat), s.portIs p.val = true → s.portLink p.val = true →
    s.regionUp 3 = true →
    (s.cli.rx = [] → s.rxStored p.val + ceilDiv d.length 64 < 1024 →
      ∃ t, exec (.clientFrameReceive p d n .express true false x y) s = .next t ∧
        t.counter (cliCnt p.val 2) = (s.counter (cliCnt p.val 2) + 1) % 2 ^ 64 ∧
        t.counter (cliCnt p.val 0) = s.counter (cliCnt p.val 0)) ∧
    (s.cli.rx = [] → s.rxStored p.val = 1024 → s.rxAhead true = 0 → s.rxAhead false = 0 →
      ∃ t, exec (.clientFrameReceive p d n .express true false x y) s = .next t ∧ t.xings = s.xings ∧ t.cli = s.cli ∧
        t.counter (cliCnt p.val 7) = (s.counter (cliCnt p.val 7) + 1) % 2 ^ 64 ∧
        t.counter (cliCnt p.val 2) = s.counter (cliCnt p.val 2)) ∧
    (s.f F.CLI_PMP_STAT_VSTATE (0x1000 * p.val) = 2 →
      ∃ t, exec (.clientFrameReceive p d n .respond false false 0 0) s = .next t ∧ t.pmpActive p.val = true ∧
        t.f F.CLI_PMP_STAT_VSTATE (0x1000 * p.val) = 3 ∧ t.cli = s.cli ∧ Raised s t (424 + p.val) 1 0 3)) ∧
  (∀ (s : State) (p : Fin 8) (d : List Byte) (n : Nat) (c : Fin 4), s.portIs p.val = true → s.portLink p.val = true →
    s.regionUp 3 = true → s.pmpActive p.val = true →
    (s.openOf p.val = none → moreFollow d = true →
      ∃ t o, exec (.clientFrameReceive p d n (.start c) false false 0 0) s = .next t ∧ t.openOf p.val = some o ∧
        o.bytes = d.take (d.length - 4) ∧ o.count = c.val ∧ o.next = 0 ∧ t.xings = s.xings ∧ t.cli.rx = s.cli.rx) ∧
    (∀ o, s.openOf p.val = some o → o.count = c.val → o.next < 4 → moreFollow (o.bytes ++ d) = true →
      ∃ t, exec (.clientFrameReceive p d n (.cont c (Fin.ofNat 4 o.next)) false false 0 0) s = .next t ∧
        t.openOf p.val = some { o with bytes := (o.bytes ++ d).take ((o.bytes ++ d).length - 4), next := (o.next + 1) % 4 } ∧
        t.xings = s.xings ∧ t.cli.rx = s.cli.rx) ∧
    (∀ f : Fin 4, ((s.openOf p.val).all fun o => o.count != c.val || o.next != f.val) = true →
      ∃ t, exec (.clientFrameReceive p d n (.cont c f) false false 0 0) s = .next t ∧ t.openOf p.val = none ∧
        t.counter (cliCnt p.val 10) = (s.counter (cliCnt p.val 10) + 1) % 2 ^ 64 ∧ t.xings = s.xings ∧
        t.cli.rx = s.cli.rx)) ∧
  (∀ (s : State) (q : Req) (p : Fin 8) (n : Fin 16) (v : Word), Reach s q (0x1110044 + 0x1000 * p.val + 8 * n.val) →
    (s.portIs p.val = true → ∃ t, exec (.ucastCommit q p n v) s = .next t ∧
      t.reg (0x1110040 + 0x1000 * p.val + 8 * n.val) = s.ucastLo p.val n.val ∧
      t.reg (0x1110044 + 0x1000 * p.val + 8 * n.val) = v &&& 0x8000FFFF#32 ∧
      Only [0x1110040 + 0x1000 * p.val + 8 * n.val, 0x1110044 + 0x1000 * p.val + 8 * n.val] [] s t) ∧
    (s.portIs p.val = false → exec (.ucastCommit q p n v) s = .next s)) ∧
  (∀ (s : State) (p : Fin 8) (f : Frame), s.portIs p.val = true → s.regionUp 3 = true → (s.xing 5).exp = [] →
    (s.xing 5).other = [] → s.macOf p.val = none → s.portLink p.val = true →
    sget (fun _ => 0) s.cli.free p.val ≤ s.portNow → s.txExpOf p.val = [f] → f.exp = true → f.launch = none → f.flip = 0 →
    State.wireLen f.data ≤ s.maxLen p.val → s.txOf p.val = [] →
    ∃ t m, exec (.clientFrameTransmit p false) s = .next t ∧ t.macOf p.val = some m ∧ m.whole = true ∧ m.pre = false ∧
      m.n = State.wireLen m.frame.data ∧ m.start = s.portNow ∧ m.frame.handle = f.handle ∧ t.txExpOf p.val = []) ∧
  (∀ (s : State) (p : Fin 8) (m : MacTx), s.portIs p.val = true → s.regionUp 3 = true → s.macOf p.val = some m →
    m.whole = true → s.macFin m ≤ s.portNow →
    ∃ t, exec (.clientFrameTransmit p false) s = .next t ∧
      t.counter (cliCnt p.val 11) = (s.counter (cliCnt p.val 11) + 1) % 2 ^ 64 ∧
      t.counter (cliCnt p.val 12) = (s.counter (cliCnt p.val 12) + State.wireLen m.frame.data) % 2 ^ 64) ∧
  (∀ (s : State) (p : Fin 8) (m : MacTx), s.portIs p.val = true → s.regionUp 3 = true → (s.xing 5).exp = [] →
    (s.xing 5).other = [] → s.macOf p.val = some m → s.portNow < s.macFin m → m.pre = true → m.fixed = false → m.due = none →
    s.pmpActive p.val = true → s.gateAlways (512 + p.val) (s.qClass m.frame.outQ) = true →
    (s.gate (512 + p.val)).pending = none → s.expressWaits p.val = true →
    max (s.minFrag p.val) (ceilDiv (s.portNow - m.start) s.portByte - 8) + 64 ≤ State.wireLen m.frame.data - m.off →
    ∃ t, exec (.clientFrameTransmit p false) s = .next t ∧
      t.macOf p.val = some { m with
        n := max (s.minFrag p.val) (ceilDiv (s.portNow - m.start) s.portByte - 8), whole := false, fixed := true }) ∧
  (∀ (s : State) (q : Req) (p : Fin 8) (v : Word), Reach s q (0x1110010 + 0x1000 * p.val) → s.portIs p.val = true →
    ∃ t, exec (.pmpEnable q p v) s = .next t ∧ t.reg (0x1110010 + 0x1000 * p.val) = (v &&& 0xC003FFFF#32 ||| 0x80#32) ∧
      (v &&& 0xC0000000#32 = s.reg (0x1110010 + 0x1000 * p.val) &&& 0xC0000000#32 →
        Only [0x1110010 + 0x1000 * p.val] [] s t) ∧
      (v &&& 0xC0000000#32 ≠ s.reg (0x1110010 + 0x1000 * p.val) &&& 0xC0000000#32 →
        Only [0x1110010 + 0x1000 * p.val, 0x1110014 + 0x1000 * p.val] [] s t ∧
        t.pmpActive p.val = (F.CLI_PMP_CFG_PMP_EN.of v == 1 && F.CLI_PMP_CFG_VERIFY.of v == 0) ∧
        t.f F.CLI_PMP_STAT_VSTATE (0x1000 * p.val) =
          if F.CLI_PMP_CFG_PMP_EN.of v = 1 ∧ F.CLI_PMP_CFG_VERIFY.of v = 1 then
            (if s.portLink p.val then 2 else 1) else 0)) ∧
  (∀ (s : State) (p : Fin 8), (s.f F.CLI_PMP_STAT_VSTATE (0x1000 * p.val) ≠ 2 → exec (.verifyTimeout p) s = .next s) ∧
    (s.f F.CLI_PMP_STAT_VSTATE (0x1000 * p.val) = 2 → sget (fun _ => 0) s.cli.tries p.val < 3 →
      ∃ t, exec (.verifyTimeout p) s = .next t ∧ t.regs = s.regs ∧
        sget (fun _ => 0) t.cli.tries p.val = sget (fun _ => 0) s.cli.tries p.val + 1) ∧
    (s.f F.CLI_PMP_STAT_VSTATE (0x1000 * p.val) = 2 → 3 ≤ sget (fun _ => 0) s.cli.tries p.val →
      ∃ t, exec (.verifyTimeout p) s = .next t ∧ t.f F.CLI_PMP_STAT_VSTATE (0x1000 * p.val) = 4 ∧
        t.pmpActive p.val = false ∧ t.cli = s.cli ∧ Raised s t (424 + p.val) 1 0 4))

/-- R309, R323 to R333: rings, doorbells, descriptors and completions. -/
def Obligations.Rings : Prop :=
  (∀ (s : State) (r : Fin 64) (v : Word), Reach s .host (0x9000 + 0x40 * r.val) →
    s.flag F.HIF_RING_CFG_EN (0x40 * r.val) = false → s.flag F.HIF_RING_ERR_DISABLING (0x40 * r.val) = false →
    (s.ringCheck r.val (F.HIF_RING_CFG_TYPE.of v) = 0 → ∃ t, exec (.ringEnable .host r v) s = .next t ∧
      t.flag F.HIF_RING_CFG_EN (0x40 * r.val) = true ∧ t.f F.HIF_RING_CFG_TYPE (0x40 * r.val) = F.HIF_RING_CFG_TYPE.of v ∧
      t.f F.HIF_RING_IDX_PI (0x40 * r.val) = 0 ∧ t.f F.HIF_RING_IDX_CI (0x40 * r.val) = 0 ∧ (t.ring r.val).taken = 0 ∧
      (t.ring r.val).done = 0 ∧
      Only [0x9000 + 0x40 * r.val, 0x9018 + 0x40 * r.val, 0x901C + 0x40 * r.val] [] s t) ∧
    (∀ c, s.ringCheck r.val (F.HIF_RING_CFG_TYPE.of v) = c + 1 → ∃ t, exec (.ringEnable .host r v) s = .next t ∧
      t.flag F.HIF_RING_CFG_EN (0x40 * r.val) = false ∧ t.f F.HIF_RING_ERR_CODE (0x40 * r.val) = c + 1 ∧
      Raised s t 4 1 0 (r.val + (c + 1) * 256) ∧ t.rings = s.rings)) ∧
  (∀ (s : State) (r : Fin 64) (v : Word), Reach s .host (0x9000 + 0x40 * r.val) →
    s.flag F.HIF_RING_CFG_EN (0x40 * r.val) = true →
    ∃ t, exec (.ringDisable .host r v) s = .next t ∧ t.flag F.HIF_RING_CFG_EN (0x40 * r.val) = false ∧
      t.flag F.HIF_RING_ERR_DISABLING (0x40 * r.val) = true ∧ t.rings = s.rings ∧
      Only [0x9000 + 0x40 * r.val, 0x901C + 0x40 * r.val] [] s t) ∧
  (∀ (s : State) (r : Fin 64) (ds : List Desc), s.flag F.HIF_RING_ERR_DISABLING (0x40 * r.val) = true →
    s.hostOk = true → (s.jobs.any fun j => j.waiting) = false → (s.ring r.val).done ≤ (s.ring r.val).taken →
    ∃ t, exec (.ringDisableDone r ds) s = .next t ∧ t.flag F.HIF_RING_ERR_DISABLING (0x40 * r.val) = false ∧
      t.flag F.HIF_RING_ERR_STOPPED (0x40 * r.val) = false ∧ (t.ring r.val).done = (s.ring r.val).taken ∧
      (t.ring r.val).fetched = [] ∧
      t.jobs = s.jobs.filter fun j => j.ring != r.val) ∧
  (∀ (s : State) (p : Fin 64) (v : Word), s.warmBusy = false → s.flag F.HIF_RING_CFG_EN (0x40 * p.val) = true →
    s.flag F.HIF_RING_ERR_STOPPED (0x40 * p.val) = false → bitsOf v.toNat 16 6 = p.val →
    bitsOf v.toNat 0 16 < s.ringN p.val →
    ∃ t, exec (.doorbell p 0 4 v) s = .next t ∧ t.f F.HIF_RING_IDX_PI (0x40 * p.val) = bitsOf v.toNat 0 16 ∧
      (t.ring p.val).taken = (s.ring p.val).taken +
        (bitsOf v.toNat 0 16 + s.ringN p.val - s.f F.HIF_RING_IDX_PI (0x40 * p.val)) % s.ringN p.val ∧
      (t.ring p.val).done = (s.ring p.val).done ∧ (∀ k, k ≠ p.val → t.ring k = s.ring k) ∧
      Only [0x9018 + 0x40 * p.val] [] s t ∧ t.hostMem = s.hostMem) ∧
  (∀ (s : State) (p : Fin 64) (off width : Nat) (v : Word), s.warmBusy = false →
    s.flag F.HIF_RING_CFG_EN (0x40 * p.val) = false ∨ s.flag F.HIF_RING_ERR_STOPPED (0x40 * p.val) = true →
    ∃ t, exec (.doorbell p off width v) s = .next t ∧ Only [] [hifCnt 9] s t ∧ t.rings = s.rings ∧
      t.counter (hifCnt 9) = (s.counter (hifCnt 9) + 1) % 2 ^ 64 ∧ Raised s t 7 1 0 (p.val + bitsOf v.toNat 16 6 * 64)) ∧
  (∀ (s : State) (r : Fin 64) (d : Desc) (bytes : List Byte), s.ringReady r.val 0 = true → s.txSend = none →
    s.txWaiting = [] → (s.ring r.val).fetched = [] →
    (d.seg = false → 1 ≤ d.txLen → d.txLen ≤ 16380 → d.addr + d.txLen ≤ 2 ^ 64 →
      (s.xRoom 6 false d.txLen = true → ∃ t x, exec (.txDescriptor r d bytes .data) s = .next t ∧
        (t.xing 6).other = (s.xing 6).other ++ [x] ∧ x.data = bytesAt bytes 0 d.txLen ∧ x.exp = d.exp ∧ x.port = r.val ∧
        Completed s t r.val ∧ (t.ring r.val).fetched = [] ∧ t.counter (hifCnt 1) = (s.counter (hifCnt 1) + 1) % 2 ^ 64 ∧
        t.counter (hifCnt 2) = (s.counter (hifCnt 2) + d.txLen) % 2 ^ 64) ∧
      (s.xRoom 6 false d.txLen = false → ∃ t, exec (.txDescriptor r d bytes .data) s = .next t ∧
        (t.ring r.val).fetched = [{ desc := d, bytes := bytes, rd := .data }] ∧ (t.ring r.val).done = (s.ring r.val).done ∧
        t.xings = s.xings ∧ t.hostMem = s.hostMem ∧ t.counters = s.counters)) ∧
    (d.seg = false → 16380 < d.txLen → d.addr + d.txLen ≤ 2 ^ 64 → ∀ e,
      ∃ t, exec (.txDescriptor r d bytes e) s = .next t ∧ t.xings = s.xings ∧ Completed s t r.val ∧
        t.counter (hifCnt 5) = (s.counter (hifCnt 5) + 1) % 2 ^ 64) ∧
    (∀ y, d.seg = true → 1 ≤ d.txLen → d.txLen ≤ d.mss → d.mss + d.hdrLen ≤ 16380 →
      d.addr + d.hdrLen + d.txLen ≤ 2 ^ 64 → parseTemplate (bytesAt bytes 0 d.hdrLen) = some y → s.xRoom 6 false 1 = true →
      ∃ t x, exec (.txDescriptor r d bytes .data) s = .next t ∧ (t.xing 6).other = (s.xing 6).other ++ [x] ∧
        x.data = segment (bytesAt bytes 0 d.hdrLen) (bytesAt (bytes.drop d.hdrLen) 0 d.txLen) y d.mss 0 1 ∧
        Completed s t r.val ∧ t.txSend = none ∧ t.counter (hifCnt 1) = (s.counter (hifCnt 1) + 1) % 2 ^ 64)) ∧
  (∀ (s u : State) (hq : Fin 128) (d : Desc) (x : Frame), s.ringReady (s.f F.HIF_HQ_RING (4 * hq.val)) 1 = true →
    s.flag F.HIF_HQ_EN (4 * hq.val) = true → 1 ≤ d.bufLen → d.addr + d.bufLen ≤ 2 ^ 64 → s.hostTake hq.val = some (x, u) →
    x.data.length ≤ d.bufLen → x.flip = 0 →
    (∃ t, exec (.hostQueueDeliver hq d true) s = .next t ∧ t.xings = u.xings ∧ t.rings = s.rings ∧
      t.counter (memCnt 14) = (s.counter (memCnt 14) + 1) % 2 ^ 64) ∧
    ∃ t, exec (.hostQueueDeliver hq d false) s = .next t ∧ t.xings = u.xings ∧
      Completed s t (s.f F.HIF_HQ_RING (4 * hq.val)) ∧
      t.counter (hifCnt 3) = (s.counter (hifCnt 3) + 1) % 2 ^ 64 ∧
      t.counter (hifCnt 4) = (s.counter (hifCnt 4) + x.data.length) % 2 ^ 64) ∧
  (∀ (s : State) (r : Fin 64) (timeout : Bool), s.flag F.HIF_RING_CFG_EN (0x40 * r.val) = true →
    s.flag F.HIF_RING_ERR_STOPPED (0x40 * r.val) = false →
    ∃ t, exec (.descriptorFetchError r timeout) s = .next t ∧ t.flag F.HIF_RING_ERR_STOPPED (0x40 * r.val) = true ∧
      t.f F.HIF_RING_ERR_CODE (0x40 * r.val) = 4 ∧ t.rings = s.rings ∧ Only [0x901C + 0x40 * r.val] [hifCnt 7] s t ∧
      t.counter (hifCnt 7) = (s.counter (hifCnt 7) + 1) % 2 ^ 64 ∧
      t.reg (0x102000 + 4 * 4) = s.reg (0x102000 + 4 * 4) + 1) ∧
  (∀ (s : State) (r : Fin 64) (d : Desc), s.ringReady r.val 2 = true → State.jobWraps d = false → d.op = 0 → s.jobs = [] →
    ∃ t, exec (.jobNop r d) s = .next t ∧ t.jobs = [] ∧ Completed s t r.val ∧
      HostKept s t ((s.reg (0x9010 + 0x40 * r.val)).toNat + 2 ^ 32 * (s.reg (0x9014 + 0x40 * r.val)).toNat +
        32 * ((s.ring r.val).done % max 1 (s.ringN r.val))) 32 (s.f F.HIF_RING_CFG_VEC (0x40 * r.val)) ∧
      Only [0x9018 + 0x40 * r.val] [hifCnt 0] s t)

/-- R315 to R318, R334 to R338 and R340: the event ring, MSI-X, bus mastering and the host reset. -/
def Obligations.EventsAndHostReset : Prop :=
  (∀ (s : State) (v : Word), Reach s .host 0x10000C → s.flag F.EVT_RING_CFG_EN = false →
    (s.evtCheck = 0 → s.pwr.held = [] → s.pwr.heldLost = 0 → ∃ t, exec (.eventRingEnable .host v) s = .next t ∧
      t.flag F.EVT_RING_CFG_EN = true ∧ t.f F.EVT_RING_PI_PI = 0 ∧ t.f F.EVT_RING_CI_CI = 0 ∧ t.evPhase = true ∧
      Only [0x100014] [] s t) ∧
    (∀ c, s.evtCheck = c + 1 → ∃ t, exec (.eventRingEnable .host v) s = .next t ∧ t.flag F.EVT_RING_CFG_EN = false ∧
      Raised s t 4 1 0 (64 + (c + 1) * 256))) ∧
  (∀ (s : State) (v : Word), Reach s .host 0x10000C →
    ∃ t, exec (.eventRingDisable .host v) s = .next t ∧ t.flag F.EVT_RING_CFG_EN = false ∧ Only [] [] s t ∧
      t.reg 0x100010 = s.reg 0x100010 ∧ t.hostMem = s.hostMem) ∧
  (∀ (s : State) (v : Word), Reach s .host 0x100014 → s.evLost = 0 →
    (F.EVT_RING_CI_CI.of v < s.evtN → ∃ t, exec (.eventRingCiWrite .host v) s = .next t ∧
      t.f F.EVT_RING_CI_CI = F.EVT_RING_CI_CI.of v ∧ t.flag F.EVT_RING_CFG_FULL = t.evtFull ∧ Only [0x100014] [] s t ∧
      t.hostMem = s.hostMem) ∧
    (s.evtN ≤ F.EVT_RING_CI_CI.of v → exec (.eventRingCiWrite .host v) s = .next s)) ∧
  (∀ (s : State) (src : Fin 512) (level : Fin 4) (inst n : Nat) (info : Word),
    (State.evtUsed src.val = false → exec (.eventRaise src level inst info n) s = .next s) ∧
    (State.evtUsed src.val = true → src.val ≠ 5 → src.val ≠ 12 → n ≤ 15 →
      ∃ t, exec (.eventRaise src level inst info n) s = .next t ∧ Only [] [] s t ∧
        t.reg (0x102000 + 4 * src.val) = s.reg (0x102000 + 4 * src.val) + BitVec.ofNat 32 n) ∧
    (src.val = 12 → 1 ≤ n → ∃ t, exec (.eventRaise src level inst info n) s = .next t ∧ Only [] [] s t ∧
      t.aer = (s.aer ||| info.toNat) % 2 ^ 32 ∧
      (sget (fun _ => 0) s.lastRaise (12 * 2 ^ 20) = 0 → Raised s t 12 1 0 t.aer) ∧
      (sget (fun _ => 0) s.lastRaise (12 * 2 ^ 20) = s.tick + 1 → t.reg 0x102030 = s.reg 0x102030))) ∧
  (∀ (s : State) (src : Fin 512) (level : Fin 4) (inst n : Nat) (info : Word), State.evtUsed src.val = true → src.val ≠ 5 →
    src.val ≠ 9 → src.val ≠ 12 → 15 < n →
    ∃ t, exec (.eventRaise src level inst info n) s = .next t ∧
      t.reg (0x102000 + 4 * src.val) = s.reg (0x102000 + 4 * src.val) + 15 ∧
      t.reg (0x102000 + 4 * 9) = s.reg (0x102000 + 4 * 9) + 1 ∧
      bitOf (t.reg (0x1601000 + 4 * (src.val / 32))).toNat (src.val % 32) = true) ∧
  (∀ (s : State) (src : Fin 512) (level : Fin 4) (inst : Nat) (info : Word), State.evtUsed src.val = true → src.val ≠ 12 →
    (s.region 6).on = true → s.flag F.EVT_SRC_EN (4 * src.val) = true → s.flag F.EVT_RING_CFG_EN = true → s.evLost = 0 →
    (s.evtRoom = true → s.evtN ≤ 65536 → s.f F.EVT_RING_PI_PI + 1 < s.evtN →
      ∃ t, exec (.eventRaise src level inst info 1) s = .next t ∧
      t.f F.EVT_RING_PI_PI = s.f F.EVT_RING_PI_PI + 1 ∧ t.evPhase = s.evPhase ∧ t.flag F.EVT_RING_CFG_FULL = t.evtFull ∧
      HostKept s t ((s.reg 0x100000).toNat + 2 ^ 32 * (s.reg 0x100004).toNat + 16 * s.f F.EVT_RING_PI_PI) 16
        (s.f F.EVT_SRC_VEC (4 * src.val)) ∧
      ((s.vec (s.f F.EVT_SRC_VEC (4 * src.val))).causes + 1 < max 1 (s.f F.HIF_VEC_COUNT (4 * s.f F.EVT_SRC_VEC (4 * src.val))) →
          1 ≤ s.f F.HIF_VEC_HOLDOFF (4 * s.f F.EVT_SRC_VEC (4 * src.val)) →
        ∀ i, i < 16 → sget (fun _ => 0) t.hostMem (((s.reg 0x100000).toNat + 2 ^ 32 * (s.reg 0x100004).toNat +
          16 * s.f F.EVT_RING_PI_PI + i) % 2 ^ 64) = (evtEntry s src.val level.val inst info.toNat).getD i 0)) ∧
    (s.evtRoom = false → ∃ t, exec (.eventRaise src level inst info 1) s = .next t ∧ t.hostMem = s.hostMem ∧
      t.reg 0x100018 = s.reg 0x100018 + 1 ∧ t.reg 0x100010 = s.reg 0x100010)) ∧
  (∀ (s : State) (v : Fin 64), (s.vec v.val).causes ≠ 0 →
    (s.tick - (s.vec v.val).since) * 10 < s.f F.HIF_VEC_HOLDOFF (4 * v.val) * 7776 →
    exec (.msixHoldoffExpire v) s = .next s) ∧
  (∀ (s : State) (v : Fin 64), (s.vec v.val).causes ≠ 0 → s.hostOk = true →
    s.f F.HIF_VEC_HOLDOFF (4 * v.val) * 7776 ≤ (s.tick - (s.vec v.val).since) * 10 →
    (s.vecMasked v.val = false → ∃ t, exec (.msixHoldoffExpire v) s = .next t ∧ (t.vec v.val).causes = 0 ∧
      t.counter 0xB058 = (s.counter 0xB058 + 1) % 2 ^ 64 ∧ HostKept s t 0 0 v.val ∧
      ∀ k, k ≠ v.val → t.vec k = s.vec k) ∧
    (s.vecMasked v.val = true → ∃ t, exec (.msixHoldoffExpire v) s = .next t ∧ (t.vec v.val).held = true ∧
      t.hostMem = s.hostMem ∧ t.counters = s.counters ∧ bitOf (t.reg (msixPba + 4 * (v.val / 32))).toNat (v.val % 32) = true)) ∧
  (∀ (s : State) (v : Fin 64), (s.warmBusy = true → exec (.msixUnmask v) s = .next s) ∧
    (s.warmBusy = false → s.hostOk = true →
      ∃ t, exec (.msixUnmask v) s = .next t ∧ t.vecMasked v.val = false ∧
        ((s.vec v.val).held = true → (t.vec v.val).held = false ∧ t.counter 0xB058 = (s.counter 0xB058 + 1) % 2 ^ 64) ∧
        ((s.vec v.val).held = false → t.hostMem = s.hostMem ∧ t.counters = s.counters ∧ t.vecs = s.vecs))) ∧
  (∀ (s : State) (speed width : Nat), speed < 16 → width < 32 →
    ∃ t, exec (.pcieLinkChange true speed width) s = .next t ∧ t.flag F.HIF_STAT_LINK_UP = true ∧
      t.f F.HIF_STAT_SPEED = speed ∧ t.f F.HIF_STAT_WIDTH = width ∧ Only [0x8004] [] s t ∧
      Raised s t 6 1 0 (1 + speed % 8 * 2 + width * 16)) ∧
  (∀ (s : State) (d3 : Bool), s.d3hot = false ∨ d3 = true →
    ∃ t, exec (.busMasterChange false d3) s = .next t ∧ t.flag F.HIF_STAT_BME = false ∧ t.d3hot = d3 ∧
      Only [0x8004] [] s t ∧ t.hostMem = s.hostMem) ∧
  (∀ (s : State), s.d3hot = false → ∃ t, exec (.busMasterChange true false) s = .next t ∧
    t.flag F.HIF_STAT_BME = true ∧ t.d3hot = false ∧ ((s.vecs.any fun e => e.2.held) = false → s.evLost = 0 →
      s.jobs = [] → s.txWaiting = [] → Only [0x8004] [] s t ∧ t.hostMem = s.hostMem)) ∧
  (∀ (s : State) (bme : Bool), s.d3hot = true →
    ∃ t, exec (.busMasterChange bme false) s = .next t ∧ t.d3hot = false ∧ t.flag F.HIF_STAT_BME = bme ∧ t.rings = [] ∧
      t.flag F.GLB_RST_STAT_BUSY = true ∧ t.f F.GLB_RST_STAT_LAST = 6) ∧
  (∀ (s : State) (q : Req) (c : HostResetCause), (∀ v, c ≠ .glbRst v) →
    ∃ t, exec (.hostReset q c) s = .next t ∧ t.rings = [] ∧ t.jobs = [] ∧ t.txSend = none ∧ t.d3hot = false ∧
      t.flag F.GLB_RST_STAT_BUSY = true ∧ t.f F.GLB_RST_STAT_LAST = State.hostResetLast c ∧
      t.flag F.EVT_RING_CFG_EN = false ∧ ∀ r, r < 64 → t.flag F.HIF_RING_CFG_EN (0x40 * r) = false) ∧
  (∀ (s : State) (v : Word), F.GLB_RST_KEY.of v = 0x7A3C → F.GLB_RST_WARM.of v = 0 → F.GLB_RST_HOST.of v = 1 →
    s.flag F.GLB_RST_STAT_BUSY = false →
    ∃ t, exec (.hostReset .host (.glbRst v)) s = .next t ∧ t.rings = [] ∧ t.flag F.GLB_RST_STAT_BUSY = true ∧
      t.f F.GLB_RST_STAT_LAST = 5)

/-- R341 to R345: DRAM channels and the spill area. -/
def Obligations.DramChannels : Prop :=
  (∀ (s : State) (q : Req) (c : Fin 4) (v : Word), Reach s q (0x1200010 + 4 * c.val) →
    (s.flag F.MEM_CH_CFG_EN (4 * c.val) = true → exec (.dramChannelEnable q c v) s = .next s) ∧
    (s.flag F.MEM_CH_CFG_EN (4 * c.val) = false → F.MEM_CH_CFG_DENSITY.of v = 3 →
      ∃ t, exec (.dramChannelEnable q c v) s = .next t ∧ t.f F.MEM_CH_STAT_CAUSE (4 * c.val) = 4 ∧
        t.flag F.MEM_CH_STAT_UP (4 * c.val) = false ∧ t.training c.val = false ∧
        Only [0x1200010 + 4 * c.val, 0x1200020 + 4 * c.val] [] s t ∧ Raised s t 462 1 (2 * c.val) (c.val + 64)) ∧
    ((∀ k, k < 4 → s.flag F.MEM_CH_CFG_EN (4 * k) = false) → F.MEM_CH_CFG_DENSITY.of v ≠ 3 →
      (F.MEM_CH_CFG_RANKS.of v + 1) * (64 / (if F.MEM_CH_CFG_WIDTH.of v = 1 then 8 else 4)) *
        State.chDensity (F.MEM_CH_CFG_DENSITY.of v) / 8 ≤ 32 →
      ∃ t, exec (.dramChannelEnable q c v) s = .next t ∧ t.training c.val = true ∧
        t.flag F.MEM_CH_CFG_EN (4 * c.val) = true ∧ t.flag F.MEM_CH_STAT_UP (4 * c.val) = s.flag F.MEM_CH_STAT_UP (4 * c.val) ∧
        t.reg (0x1200010 + 4 * c.val) = (v ||| 0x80000000#32) &&& 0x80FC0000#32 ∧
        Only [0x1200010 + 4 * c.val] [] s t)) ∧
  (∀ (s : State) (c : Fin 4), s.training c.val = true →
    (∀ k : Fin 4, ∃ t, exec (.dramTrainingEnd c (some k)) s = .next t ∧ t.training c.val = false ∧
      t.flag F.MEM_CH_STAT_UP (4 * c.val) = false ∧ t.f F.MEM_CH_STAT_CAUSE (4 * c.val) = k.val ∧
      Only [0x1200020 + 4 * c.val] [] s t ∧ Raised s t 462 1 (2 * c.val) (c.val + 16 * k.val)) ∧
    (s.chRefused c.val = true → ∃ t, exec (.dramTrainingEnd c none) s = .next t ∧ t.training c.val = false ∧
      t.flag F.MEM_CH_STAT_UP (4 * c.val) = false ∧ t.f F.MEM_CH_STAT_CAUSE (4 * c.val) = 4 ∧
      Only [0x1200020 + 4 * c.val] [] s t ∧ Raised s t 462 1 (2 * c.val) (c.val + 64)) ∧
    (s.chRefused c.val = false → ∃ t, exec (.dramTrainingEnd c none) s = .next t ∧ t.training c.val = false ∧
      t.flag F.MEM_CH_STAT_UP (4 * c.val) =
        (s.flag F.MEM_CH_STAT_UP (4 * c.val) || !s.flag F.MEM_CH_STAT_STEST_FAIL (4 * c.val)) ∧
      t.f F.MEM_CH_STAT_SIZE_GB (4 * c.val) = s.chCapacity c.val ∧ t.f F.MEM_CH_STAT_CAUSE (4 * c.val) = 0 ∧
      Only [0x1200020 + 4 * c.val] [] s t ∧ t.dram = s.dram ∧ t.mem.flips = s.mem.flips ∧ t.mem.tags = s.mem.tags ∧
      t.mem.spares = s.mem.spares ∧
      (s.flag F.MEM_CH_STAT_UP (4 * c.val) = true ∨ s.flag F.MEM_CH_STAT_STEST_FAIL (4 * c.val) = true →
        t.queues = s.queues))) ∧
  (∀ (s : State) (c : Fin 4) (k : Option (Fin 4)), s.training c.val = false →
    exec (.dramTrainingEnd c k) s = .next s) ∧
  (∀ (s : State) (c : Fin 4),
    (s.flag F.MEM_CH_STAT_UP (4 * c.val) = true → ∃ t, exec (.dramChannelDown c) s = .next t ∧
      t.flag F.MEM_CH_STAT_UP (4 * c.val) = false ∧
      (∀ k, k % 4 = c.val → sget (fun _ => 0) t.dram k = 0 ∧ sget (fun _ => 0) t.mem.flips k = 0) ∧
      (s.scrubsOpen = [] → ∀ k, k % 4 ≠ c.val → sget (fun _ => 0) t.dram k = sget (fun _ => 0) s.dram k ∧
        sget (fun _ => 0) t.mem.flips k = sget (fun _ => 0) s.mem.flips k) ∧
      (∀ k, k < 4 → k ≠ c.val → t.flag F.MEM_CH_STAT_UP (4 * k) = s.flag F.MEM_CH_STAT_UP (4 * k)) ∧
      (s.flag F.CAP_CFG_EN = true → t.flag F.CAP_CFG_EN = false ∧ t.flag F.CAP_STAT_MEM_LOST = true)) ∧
    (s.flag F.MEM_CH_STAT_UP (4 * c.val) = false → ∃ t, exec (.dramChannelDown c) s = .next t ∧
      t.training c.val = false ∧ t.regs = s.regs ∧ t.dram = s.dram ∧ t.queues = s.queues)) ∧
  (∀ (s u : State) (q : Req) (k : Fin 3) (v : Word), Reach s q (0x1200040 + 4 * k.val) → s.flag F.CAP_CFG_EN = false →
    u = s.setReg (0x1200040 + 4 * k.val)
      (v &&& (if k.val = 0 then 0xFFF00000#32 else if k.val = 1 then 0xFFFFFFFF#32 else 0x3FFFF#32)) →
    (s.spillHeld = false → u.spillBase + u.spillBytes ≤ u.dramTop → exec (.spillAreaWrite q k v) s = .next u) ∧
    (s.spillHeld = true ∨ u.dramTop < u.spillBase + u.spillBytes →
      ∃ t, exec (.spillAreaWrite q k v) s = .next t ∧ t.flag F.MEM_MODE_AREA_REFUSED = true ∧
        t.f F.MEM_MODE_MODE = s.f F.MEM_MODE_MODE ∧ Only [0x1200000] [] s t))

/-- R351 and R356 to R360: correction, remapping, service modes and the flip mask. -/
def Obligations.MemoryRepair : Prop :=
  (∀ (s : State) (g : Fin 128) (a : Nat) (k : Fin 8) (r y : Nat), s.flipArmed true g.val = false →
    (∃ t, exec (.eccWriteBack true g a k r y true false) s = .next t ∧
      t.counter (memCnt 8) = (s.counter (memCnt 8) + 1) % 2 ^ 64 ∧
      t.counter (memCnt 10) = (s.counter (memCnt 10) + 1) % 2 ^ 64 ∧ t.counter (memCnt 11) = s.counter (memCnt 11) ∧
      Only [0x1200070, 0x1200074, 0x1200078] [memCnt 8, memCnt 10] s t) ∧
    (∃ t, exec (.eccWriteBack true g a k r y false false) s = .next t ∧
      t.counter (memCnt 8) = (s.counter (memCnt 8) + 1) % 2 ^ 64 ∧
      Only [0x1200070, 0x1200074, 0x1200078] [memCnt 8] s t) ∧
    (s.flag F.MEM_RMP_CFG_AUTO = false → ∃ t, exec (.eccWriteBack true g a k r y false true) s = .next t ∧
      t.counter (memCnt 11) = (s.counter (memCnt 11) + 1) % 2 ^ 64 ∧
      Only [0x1200070, 0x1200074, 0x1200078] [memCnt 8, memCnt 11] s t) ∧
    (∀ e, s.flag F.MEM_RMP_CFG_AUTO = true → e < 8 → (∀ i, i < e → bitOf (s.reg (State.mapReg true g.val i)).toNat 31 = true) →
      bitOf (s.reg (State.mapReg true g.val e)).toNat 31 = false →
      ∃ t, exec (.eccWriteBack true g a k r y false true) s = .next t ∧
        t.reg (State.mapReg true g.val e) = BitVec.ofNat 32 (2 ^ 31 + 2 ^ 30 + a % 2 ^ 20) ∧
        t.counter (memCnt 12) = (s.counter (memCnt 12) + 1) % 2 ^ 64 ∧
        t.reg (0x102000 + 4 * 459) = s.reg (0x102000 + 4 * 459) + 1 ∧
        Only [0x1200070, 0x1200074, 0x1200078, State.mapReg true g.val e] [memCnt 8, memCnt 11, memCnt 12] s t)) ∧
  (∀ (s : State) (g : Fin 128) (a : Nat) (k : Fin 8) (r y : Nat), s.flipArmed false (s.dramLine a).1 = false →
    ∃ t, exec (.eccWriteBack false g a k r y false false) s = .next t ∧
      t.counter (memCnt (s.dramLine a).1) = (s.counter (memCnt (s.dramLine a).1) + 1) % 2 ^ 64 ∧
      t.counter (memCnt 15) = (s.counter (memCnt 15) + 64) % 2 ^ 64 ∧
      t.counter (memCnt 16) = (s.counter (memCnt 16) + 64) % 2 ^ 64 ∧ t.wordMask a = 0 ∧
      Only [0x1200070, 0x1200074, 0x1200078] [memCnt (s.dramLine a).1, memCnt 15, memCnt 16] s t) ∧
  (∀ (s : State) (g : Fin 128) (a : Nat) (k : Fin 8) (r y : Nat), s.flipArmed true g.val = true →
    State.maskVerdict true s.flipMask = 0 →
    ∃ t, exec (.eccWriteBack true g a k r y false false) s = .next t ∧ t.flag F.MEM_FLIP_CFG_ARM = false ∧
      t.counter (memCnt 8) = (s.counter (memCnt 8) + 1) % 2 ^ 64 ∧
      Only [0x1200070, 0x1200074, 0x1200078, 0x1200090] [memCnt 8] s t) ∧
  (∀ (s : State) (q : Req) (c : Fin 4) (e : Fin 16) (v : Word), Reach s q (0x1201000 + 0x40 * c.val + 4 * e.val) →
    (F.MEM_RMP_VALID.of v = 1 → s.flag F.MEM_RMP_VALID (0x40 * c.val + 4 * e.val) = false → s.flipArmed false c.val = false →
      ∃ t, exec (.remapEntryWrite q c e v) s = .next t ∧
        t.reg (0x1201000 + 0x40 * c.val + 4 * e.val) = BitVec.ofNat 32 (2 ^ 31 + v.toNat % 2 ^ 29) ∧
        t.counter (memCnt 12) = (s.counter (memCnt 12) + 1) % 2 ^ 64 ∧
        t.counter (memCnt 15) = (s.counter (memCnt 15) + 64) % 2 ^ 64 ∧
        t.counter (memCnt 16) = (s.counter (memCnt 16) + 64) % 2 ^ 64 ∧
        Only [0x1201000 + 0x40 * c.val + 4 * e.val] [memCnt 12, memCnt 15, memCnt 16] s t ∧
        ((∀ i, i < 16 → i ≠ e.val → bitOf (s.reg (State.mapReg false c.val i)).toNat 31 = false) →
          ∀ a n, t.dramRead a n = s.dramRead a n) ∧
        Raised s t 459 1 (2 * c.val + v.toNat % 2 ^ 29 % 2) (2 * e.val)) ∧
    (F.MEM_RMP_VALID.of v = 0 → ∃ t, exec (.remapEntryWrite q c e v) s = .next t ∧
      t.reg (0x1201000 + 0x40 * c.val + 4 * e.val) = BitVec.ofNat 32 (v.toNat % 2 ^ 29) ∧
      Only [0x1201000 + 0x40 * c.val + 4 * e.val] [] s t)) ∧
  (∀ (s : State) (q : Req) (g : Fin 128) (e : Fin 8) (v : Word), Reach s q (0x1202000 + 0x20 * g.val + 4 * e.val) →
    (bitOf v.toNat 31 = true → bitOf (s.reg (0x1202000 + 0x20 * g.val + 4 * e.val)).toNat 31 = false →
      ∃ t, exec (.spareEntryWrite q g e v) s = .next t ∧
        t.reg (0x1202000 + 0x20 * g.val + 4 * e.val) = BitVec.ofNat 32 (2 ^ 31 + v.toNat % 2 ^ 20) ∧
        Only [0x1202000 + 0x20 * g.val + 4 * e.val] [memCnt 12] s t ∧ Raised s t 459 1 g.val (1 + 2 * e.val)) ∧
    (bitOf v.toNat 31 = false → ∃ t, exec (.spareEntryWrite q g e v) s = .next t ∧
      t.reg (0x1202000 + 0x20 * g.val + 4 * e.val) = BitVec.ofNat 32 (v.toNat % 2 ^ 20) ∧
      Only [0x1202000 + 0x20 * g.val + 4 * e.val] [] s t)) ∧
  (∀ (s : State) (q : Req) (v : Word), Reach s q 0x1200000 →
    ∃ t, exec (.memModeWrite q v []) s = .next t ∧ Only [0x1200000] [] s t ∧
      t.f F.MEM_MODE_MODE =
        (if s.f F.MEM_MODE_MODE = 0 ∧ F.MEM_MODE_MODE.of v = 2 then 2
         else if (s.f F.MEM_MODE_MODE = 0 ∨ s.f F.MEM_MODE_MODE = 3) ∧ F.MEM_MODE_MODE.of v = 1 then 1
         else s.f F.MEM_MODE_MODE) ∧
      t.flag F.MEM_MODE_AREA_REFUSED = (s.flag F.MEM_MODE_AREA_REFUSED && F.MEM_MODE_AREA_REFUSED.of v == 0) ∧
      t.flag F.MEM_MODE_FLIP_REFUSED = (s.flag F.MEM_MODE_FLIP_REFUSED && F.MEM_MODE_FLIP_REFUSED.of v == 0)) ∧
  (∀ (s : State) (q : Req) (v : Word) (u k : Nat) (hu : u < 128) (hk : k < 16), Reach s q 0x1200000 →
    s.f F.MEM_MODE_MODE = 0 → F.MEM_MODE_MODE.of v = 1 →
    (48 ≤ u → ∃ t, exec (.memModeWrite q v [(true, ⟨u, hu⟩, ⟨k, hk⟩)]) s = .next t ∧ t.f F.MEM_MODE_MODE = 1 ∧
      t.flag F.MEM_STEST_FAIL = true ∧ t.mem.held.contains u = true ∧ Raised s t 461 1 u (1 + 16 * k)) ∧
    (u < 4 → ∃ t, exec (.memModeWrite q v [(false, ⟨u, hu⟩, ⟨k, hk⟩)]) s = .next t ∧ t.f F.MEM_MODE_MODE = 1 ∧
      t.flag F.MEM_STEST_FAIL = true ∧ t.flag F.MEM_CH_STAT_STEST_FAIL (4 * u) = true ∧
      t.flag F.MEM_CH_STAT_UP (4 * u) = false ∧ bitOf (t.f F.MEM_STEST_CH_FAIL) u = true)) ∧
  (∀ (s : State) (q : Req) (v : Word), Reach s q 0x1200090 →
    (s.f F.MEM_MODE_MODE = 1 → ∃ t, exec (.flipArm q v) s = .next t ∧ t.flag F.MEM_MODE_FLIP_REFUSED = true ∧
      t.f F.MEM_MODE_MODE = 1 ∧ Only [0x1200000] [] s t) ∧
    (s.f F.MEM_MODE_MODE ≠ 1 → ∃ t, exec (.flipArm q v) s = .next t ∧
      t.reg 0x1200090 = (v ||| 0x80000000#32) &&& 0x800000FF#32 ∧ Only [0x1200090] [] s t)) ∧
  (∀ (s : State) (r : Fin 64) (d : Desc), s.ringReady r.val 2 = true → d.op = 1 → State.jobWraps d = false → s.jobs = [] →
    (d.unit = 1 → d.addr + d.jobLen ≤ padBytes → 1 ≤ d.jobLen →
      ∃ t j, exec (.scrubJob r d) s = .next t ∧ t.jobs = [j] ∧ j.ring = r.val ∧ j.op = 1 ∧ j.unit = 1 ∧ j.addr = d.addr ∧
        j.len = d.jobLen ∧ j.res = none ∧ t.regs = s.regs ∧ t.hostMem = s.hostMem) ∧
    (d.unit = 1 → d.addr ≤ padBytes → d.jobLen = 0 → ∃ t, exec (.scrubJob r d) s = .next t ∧ t.jobs = [] ∧
      Completed s t r.val ∧ t.reg (0x102000 + 4 * 458) = s.reg (0x102000 + 4 * 458) + 1) ∧
    (1 < d.unit → ∃ t, exec (.scrubJob r d) s = .next t ∧ t.jobs = [] ∧ Completed s t r.val)) ∧
  (∀ (s : State) (j : Job), s.jobs = [j] → j.op = 1 → j.res = none → j.waiting = false → j.unit = 1 → 1 ≤ j.len →
    s.hostOk = true →
    ∃ t, exec (.scrubJobEnd [] false) s = .next t ∧ t.jobs = [] ∧ Completed s t j.ring ∧
      t.reg (0x102000 + 4 * 458) = s.reg (0x102000 + 4 * 458) + 1) ∧
  (∀ (s : State) (l : List (Nat × Bool)) (b : Bool), s.jobs.any (fun j => j.res.isNone && j.op == 1) = false →
    exec (.scrubJobEnd l b) s = .next s)

/-- R362 to R365, R370, R374 and R376: key slots, the index switch, register unwraps and the entropy source. -/
def Obligations.KeySlots : Prop :=
  (∀ (s : State) (q : Req) (n : Fin 64) (wide : Bool), Reach s q 0x1300030 → s.secOwner q = true →
    s.slotUse n.val = none →
    ∃ t, exec (.keyLoad q n wide) s = .next t ∧ t.keyOf n.val = s.stagedBytes q wide ∧
      (∀ m, m ≠ n.val → t.keyOf m = s.keyOf m) ∧ t.f F.SEC_SLOT_STATE (4 * n.val) = (if wide then 2 else 1) ∧
      t.f F.SEC_SLOT_KCV (4 * n.val) = kcvOf (s.stagedBytes q wide) % 2 ^ 24 ∧ (∀ k, k < 8 → t.keyStaged q k = 0) ∧
      t.reg (bankKey q 0x1300034) = 0x40000000#32 ∧
      Only [0x1300100 + 4 * n.val, bankKey q 0x1300034] [] s t) ∧
  (∀ (s : State) (q : Req) (n : Fin 64) (wide : Bool), Reach s q 0x1300030 → s.secOwner q = false →
    ∃ t, exec (.keyLoad q n wide) s = .next t ∧ t.sec = s.sec ∧ t.reg (bankKey q 0x1300034) = 0x40000002#32 ∧
      Only [bankKey q 0x1300034] [] s t ∧ t.reg (0x102000 + 4 * 472) = s.reg (0x102000 + 4 * 472) + 1) ∧
  (∀ (s : State) (q : Req) (n : Fin 64) (u : Nat), Reach s q 0x1300030 → s.secOwner q = true →
    s.slotUse n.val = some u →
    ∃ t, exec (.keyErase q n) s = .next t ∧ t.sec = s.sec ∧ t.reg (bankKey q 0x1300034) = 0x40000001#32 ∧
      t.reg (0x102000 + 4 * 472) = s.reg (0x102000 + 4 * 472) + 1) ∧
  (∀ (s : State) (q : Req) (n : Fin 64), Reach s q 0x1300030 → s.secOwner q = true → s.slotUse n.val = none →
    ∃ t, exec (.keyErase q n) s = .next t ∧ t.keyOf n.val = [] ∧ (∀ m, m ≠ n.val → t.keyOf m = s.keyOf m) ∧
      t.f F.SEC_SLOT_STATE (4 * n.val) = 0 ∧ t.f F.SEC_SLOT_KCV (4 * n.val) = 0 ∧
      Only [0x1300100 + 4 * n.val, bankKey q 0x1300034] [] s t) ∧
  (∀ (s : State) (q : Req) (n : Fin 64), Reach s q 0x1300030 → s.secOwner q = true →
    ∃ t, exec (.forceErase q n) s = .next t ∧ t.keyOf n.val = [] ∧ (∀ m, m ≠ n.val → t.keyOf m = s.keyOf m) ∧
      t.f F.SEC_SLOT_STATE (4 * n.val) = 0 ∧ t.reg (bankKey q 0x1300034) = 0x40000000#32) ∧
  (∀ (s : State) (q : Req) (v : Word), Reach s q 0x1300068 → s.secOwner q = true →
    (s.sec.unw.any fun u => u.req == reqCode q) = false →
    (s.unwrapRefused (F.SEC_UNW_CMD_KEK.of v) (F.SEC_UNW_CMD_DEST.of v) = 0 → ∃ t u,
      exec (.unwrapStart q v) s = .next t ∧ t.sec.unw = s.sec.unw ++ [u] ∧ u.req = reqCode q ∧
      u.kek = F.SEC_UNW_CMD_KEK.of v ∧ u.dest = F.SEC_UNW_CMD_DEST.of v ∧
      t.reg (bankKey q 0x130006C) = 0x80000000#32 ∧ t.sec.keys = s.sec.keys) ∧
    (∀ c, s.unwrapRefused (F.SEC_UNW_CMD_KEK.of v) (F.SEC_UNW_CMD_DEST.of v) = c + 1 → ∃ t,
      exec (.unwrapStart q v) s = .next t ∧ t.sec = s.sec ∧
      t.reg (bankKey q 0x130006C) = BitVec.ofNat 32 (2 ^ 30 + (c + 1)) ∧
      t.counter (secCnt 10) = (s.counter (secCnt 10) + 1) % 2 ^ 64)) ∧
  (∀ (s : State) (q : Req) (u : Unw) (data : List Byte) (e : HostRead),
    (s.sec.unw.find? fun u => u.req == reqCode q) = some u → s.flag F.SEC_ENT_STAT_FAIL = false →
    (∀ k, keyUnwrap (s.keyOf u.kek) u.data = some k → ∃ t, exec (.unwrapDone (some q) data e) s = .next t ∧
      t.keyOf u.dest = k ∧ (∀ m, m ≠ u.dest → t.keyOf m = s.keyOf m) ∧
      t.reg (u.req * 2 ^ 25 + 0x130006C) = 0x40000000#32 ∧ t.sec.unw = s.sec.unw.erase u) ∧
    (keyUnwrap (s.keyOf u.kek) u.data = none → ∃ t, exec (.unwrapDone (some q) data e) s = .next t ∧
      t.sec.keys = s.sec.keys ∧ t.reg (u.req * 2 ^ 25 + 0x130006C) = BitVec.ofNat 32 (2 ^ 30 + 19) ∧
      t.sec.unw = s.sec.unw.erase u)) ∧
  (∀ (s : State) (q : Req) (x : Side) (v : Word), Reach s q (0x1300200 + 0x10 * sideNo x) → s.secOwner q = true →
    ∃ t, exec (.keySwitchArm q x v) s = .next t ∧ t.flag F.SEC_LSW_PENDING (0x10 * sideNo x) = true ∧
      t.f F.SEC_LSW_NEXT (0x10 * sideNo x) = F.SEC_LSW_NEXT.of v ∧
      t.f F.SEC_LSW_CUR (0x10 * sideNo x) = s.f F.SEC_LSW_CUR (0x10 * sideNo x) ∧
      (sget (fun _ => {}) t.sec.arms (sideNo x)).next = F.SEC_LSW_NEXT.of v ∧
      (sget (fun _ => {}) t.sec.arms (sideNo x)).sfc =
        s.f F.SEC_LSW_SFC_LO_SFC (0x10 * sideNo x) + 2 ^ 32 * s.f F.SEC_LSW_SFC_HI_SFC (0x10 * sideNo x) ∧
      Only [0x1300200 + 0x10 * sideNo x] [] s t) ∧
  (∀ (s : State) (a b : Bool), ∃ t, exec (.entropyHealthFail a b) s = .next t ∧ t.flag F.SEC_ENT_STAT_FAIL = true ∧
    Only [0x1300004] [] s t ∧ Raised s t 477 1 0 ((if a then 1 else 0) + (if b then 2 else 0))) ∧
  (∀ (s : State) (q : Req) (passed : Bool), Reach s q 0x1300004 →
    ∃ t, exec (.entropyRestart q passed) s = .next t ∧ Only [0x1300004] [] s t ∧
      (passed = true → t.flag F.SEC_ENT_STAT_FAIL = false ∧ t.flag F.SEC_ENT_STAT_RESTART = false) ∧
      (passed = false → t.flag F.SEC_ENT_STAT_FAIL = s.flag F.SEC_ENT_STAT_FAIL ∧
        t.flag F.SEC_ENT_STAT_RESTART = true))

/-- R372, R375, R377 to R379: CMAC and unwrap jobs, and the check-value units. -/
def Obligations.CheckJobs : Prop :=
  (∀ (s : State) (r : Fin 64) (d : Desc), s.ringReady r.val 2 = true → d.op = 3 → State.jobWraps d = false →
    d.jobLen % 16 = 0 → 1 ≤ d.jobLen → s.flag F.SEC_ENT_STAT_FAIL = false → s.keyEmpty (d.arg0 % 64) = false →
    s.jobs = [] → s.sec.calls.length < 64 →
    ∃ t j, exec (.cmacJob r d) s = .next t ∧ t.jobs = [j] ∧ j.ring = r.val ∧ j.op = 3 ∧ j.len = d.jobLen ∧ j.arg0 = d.arg0 ∧
      j.res = none ∧ j.waiting = false ∧ t.regs = s.regs ∧ t.hostMem = s.hostMem ∧ t.counters = s.counters) ∧
  (∀ (s : State) (r : Fin 64) (d : Desc), s.ringReady r.val 2 = true → d.op = 3 → State.jobWraps d = false →
    d.jobLen = 0 → s.jobs = [] →
    ∃ t, exec (.cmacJob r d) s = .next t ∧ t.jobs = [] ∧ Completed s t r.val ∧
      t.counter (secCnt 9) = (s.counter (secCnt 9) + 1) % 2 ^ 64) ∧
  (∀ (s : State) (j : Job) (data : List Byte), s.jobs = [j] → j.op = 3 → j.res = none → j.waiting = false → 1 ≤ j.len →
    s.hostOk = true → s.flag F.SEC_ENT_STAT_FAIL = false → s.keyEmpty (j.arg0 % 64) = false → s.sec.calls = [] →
    ∃ t, exec (.cmacDone data .data) s = .next t ∧ t.jobs = [] ∧ Completed s t j.ring ∧ t.sec = s.sec ∧
      t.counter (secCnt 9) = (s.counter (secCnt 9) + 1) % 2 ^ 64) ∧
  (∀ (s : State) (r : Fin 64) (d : Desc), s.ringReady r.val 2 = true → d.op = 4 → State.jobWraps d = false →
    d.jobLen = 24 ∨ d.jobLen = 40 → s.unwrapRefused (d.arg0 % 64) (bitsOf d.arg0 8 6) = 0 → s.jobs = [] →
    s.sec.calls.length < 64 →
    ∃ t j, exec (.unwrapJob r d) s = .next t ∧ t.jobs = [j] ∧ j.ring = r.val ∧ j.op = 4 ∧ j.len = d.jobLen ∧
      j.arg0 = d.arg0 ∧ j.res = none ∧ t.regs = s.regs ∧ t.sec = s.sec) ∧
  (∀ (s : State) (j : Job) (k data : List Byte), s.jobs = [j] → j.op = 4 → j.res = none → j.waiting = false →
    s.hostOk = true →
    s.flag F.SEC_ENT_STAT_FAIL = false → keyUnwrap (s.keyOf (j.arg0 % 64)) (bytesAt data 0 j.len) = some k →
    ∃ t, exec (.unwrapDone none data .data) s = .next t ∧ t.jobs = [] ∧ Completed s t j.ring ∧
      t.keyOf (bitsOf j.arg0 8 6) = k ∧ ∀ m, m ≠ bitsOf j.arg0 8 6 → t.keyOf m = s.keyOf m) ∧
  (∀ (s : State) (q : Req) (u : Fin 4) (v : Word), Reach s q (0x1308028 + 0x100 * u.val) →
    (s.chkBusy u.val = true → ∃ t, exec (.checkFeed q u v) s = .next t ∧
      t.flag F.CHK_SCAN_CTRL_BUSY_WR (State.chkI u.val) = true ∧ t.chkPair u.val 0x18 = s.chkPair u.val 0x18 ∧
      Only [0x130803C + 0x100 * u.val] [] s t) ∧
    (s.chkBusy u.val = false → s.flag F.CHK_CFG_REFIN (State.chkI u.val) = false →
      1 ≤ s.f F.CHK_CFG_NBYTES (State.chkI u.val) → s.f F.CHK_CFG_NBYTES (State.chkI u.val) ≤ 4 →
      ∃ t, exec (.checkFeed q u v) s = .next t ∧
        t.chkPair u.val 0x18 = crcBytes (s.chkWidth u.val) (s.chkPair u.val 8)
          ((beBytes 4 v.toNat).take (s.f F.CHK_CFG_NBYTES (State.chkI u.val))) (s.chkPair u.val 0x18) ∧
        t.counter (secCnt 12) = (s.counter (secCnt 12) + s.f F.CHK_CFG_NBYTES (State.chkI u.val)) % 2 ^ 64 ∧
        Only [0x1308018 + 0x100 * u.val, 0x130801C + 0x100 * u.val] [secCnt 12] s t)) ∧
  (∀ (s : State) (q : Req) (u : Fin 4) (v : Word) (bad : Bool), Reach s q (0x130803C + 0x100 * u.val) →
    s.chkBusy u.val = false →
    s.chkRangeBad (F.CHK_SCAN_CTRL_SRC.of v != 0)
      (s.f F.CHK_SCAN_ADDR_LO_ADDR (State.chkI u.val) + 2 ^ 32 * s.f F.CHK_SCAN_ADDR_HI_ADDR (State.chkI u.val))
      (s.f F.CHK_SCAN_LEN_LEN (State.chkI u.val)) = bad →
    (bad = true → ∃ t, exec (.checkScanStart q u v) s = .next t ∧ t.chkBusy u.val = false ∧
      t.flag F.CHK_SCAN_CTRL_DONE (State.chkI u.val) = true ∧ t.f F.CHK_SCAN_CTRL_RESULT (State.chkI u.val) = 1) ∧
    (bad = false → 1 ≤ s.f F.CHK_SCAN_LEN_LEN (State.chkI u.val) →
      ∃ t, exec (.checkScanStart q u v) s = .next t ∧ t.chkBusy u.val = true ∧
        t.f F.CHK_SCAN_CTRL_RESULT (State.chkI u.val) = 0 ∧
        t.chkPair u.val 0x18 = s.chkPair u.val (if F.CHK_SCAN_CTRL_CONTINUE.of v = 0 then 0x10 else 0x18))) ∧
  (∀ (s : State) (r : Fin 64) (d : Desc), s.ringReady r.val 2 = true → d.op = 2 → d.unit ≤ 3 → bitOf d.arg0 0 = false →
    State.jobWraps d = false → s.chkBusy d.unit = false → 1 ≤ d.jobLen → s.jobs = [] →
    ∃ t j, exec (.checkScanJob r d) s = .next t ∧ t.jobs = [j] ∧ j.ring = r.val ∧ j.op = 2 ∧ j.unit = d.unit ∧
      j.len = d.jobLen ∧ j.res = none ∧ t.chkBusy d.unit = true ∧ t.hostMem = s.hostMem) ∧
  (∀ (s : State) (u : Fin 4) (data : List Byte) (stop : Option Nat) (timeout : Bool), s.chkBusy u.val = false →
    exec (.checkScanEnd u data stop timeout) s = .next s) ∧
  (∀ (s : State) (u : Fin 4) (data : List Byte) (stop : Option Nat) (timeout : Bool), s.hostOk = false →
    s.flag F.CHK_SCAN_CTRL_SRC (State.chkI u.val) = false → s.jobs = [] →
    exec (.checkScanEnd u data stop timeout) s = .next s) ∧
  (∀ (s : State) (u : Fin 4) (data : List Byte), s.chkBusy u.val = true → s.jobs = [] →
    s.flag F.CHK_SCAN_CTRL_SRC (State.chkI u.val) = false → s.hostOk = true →
    (∀ k, k < s.f F.CHK_SCAN_LEN_LEN (State.chkI u.val) → ∃ t, exec (.checkScanEnd u data (some k) false) s = .next t ∧
      t.chkBusy u.val = false ∧ t.flag F.CHK_SCAN_CTRL_DONE (State.chkI u.val) = true ∧
      t.f F.CHK_SCAN_CTRL_RESULT (State.chkI u.val) = 3 ∧ t.reg (0x102000 + 4 * 482) = s.reg (0x102000 + 4 * 482) + 1) ∧
    ∃ t, exec (.checkScanEnd u data none false) s = .next t ∧ t.chkBusy u.val = false ∧
      t.flag F.CHK_SCAN_CTRL_DONE (State.chkI u.val) = true ∧ t.f F.CHK_SCAN_CTRL_RESULT (State.chkI u.val) = 0 ∧
      t.counter (secCnt 12) = (s.counter (secCnt 12) + s.f F.CHK_SCAN_LEN_LEN (State.chkI u.val)) % 2 ^ 64 ∧
      Raised s t (478 + u.val) 1 0 (s.f F.CHK_SCAN_LEN_LEN (State.chkI u.val)))

/-- R386, R387, R394 and R396: power states, the run mask, wakes and listen windows. -/
def Obligations.PowerStates : Prop :=
  PowerCommand .powerSleep 1 ∧ PowerCommand .powerDoze 2 ∧ PowerCommand .powerListen 3 ∧ PowerCommand .powerRun 4 ∧
  (∀ (s : State) (l : List (Bool × Fin 128 × Fin 16)), s.pwr.target = none → exec (.powerTransitionEnd l) s = .next s) ∧
  (∀ (s : State) (n : Nat), s.pwr.target = some n → s.pwr.tries ≠ 1 → n ≤ 4 →
    ∃ t, exec (.powerTransitionEnd []) s = .next t ∧ t.pwrState = n ∧
      (s.pwr.wakeAfter = false → t.pwr.target = none ∧ t.flag F.PWR_STATE_TRANS = false) ∧
      (1 ≤ n → n ≤ 2 → n < s.pwr.prev → (∀ r, r < 7 → (t.region r).on = false) ∧
        t.f F.GRM_RAIL_EN = (if n = 2 then 0xD else 0) ∧
        (s.f F.GRM_RAIL_PG = s.f F.GRM_RAIL_EN → t.f F.GRM_RAIL_PG = t.f F.GRM_RAIL_EN)) ∧
      (n = 1 → n < s.pwr.prev → (t.region 7).on = false)) ∧
  (∀ (s : State) (q : Req) (v : Word), Reach s q 0x200008 →
    ∃ t, exec (.runMaskWrite q v []) s = .next t ∧ t.reg 0x200008 = BitVec.ofNat 32 (v.toNat % 64 + 0x1C0) ∧
      t.pwrState = s.pwrState ∧
      (s.pwrState ≠ 4 ∨ s.pwr.target.isSome = true ∨ s.pwr.loss ≠ 0 → Only [0x200008] [] s t ∧ t.regions = s.regions) ∧
      (s.pwrState = 4 → s.pwr.target = none → s.pwr.loss = 0 → ∀ r, r < 6 → (t.region r).on = bitOf v.toNat r)) ∧
  (∀ (s : State) (e : BitVec 8) (w d : Bool) (c : Option Nat) (m n : Nat), State.wakeBlind c = false → s.pwr.loss = 0 →
    s.pwr.target = none → s.pwr.failed = false → 1 ≤ s.pwrState → s.pwrState ≤ 3 → m = s.wakeSeen s.pwrState e w false d →
    n = min (s.f F.GRM_WAKE_REC_COUNT + 1) 0xFFFF →
    (m = 0 → exec (.pwrWake e w d c) s = .next s) ∧
    (m ≠ 0 → ∃ t, exec (.pwrWake e w d c) s = .next t ∧ t.flag F.PWR_STATE_TRANS = true ∧ t.pwrState = s.pwrState ∧
      t.pwr.target = some (if s.pwrState = 3 then 4 else if s.f F.PWR_CFG_WAKE_STATE = 3 then 3 else 4) ∧
      t.f F.GRM_WAKE_REC_PENDING = m ∧ t.f F.GRM_WAKE_REC_COUNT = n ∧
      t.counter (grmCnt 0) = (s.counter (grmCnt 0) + 1) % 2 ^ 64 ∧
      Only [0x200000, 0x200038, 0x20003C, 0x200040] [grmCnt 0] s t ∧
      ∀ k, k < 6 → bitOf m k = true → (∀ j, j < k → bitOf m j = false) →
        Raised s t 33 1 0 (k + 256 * m + 65536 * n))) ∧
  (∀ (s : State) (e : BitVec 8) (w d : Bool) (n : Nat), s.pwr.loss = 0 → s.pwr.target = some n → n < s.pwr.prev →
    s.pwr.wakeAfter = false → s.wakeSeen n e w false d ≠ 0 →
    (∀ k, 3 ≤ k → ∃ t, exec (.pwrWake e w d (some k)) s = .next t ∧ t.pwr.wakeAfter = true ∧ t.pwr.target = some n ∧
      t.pwrState = s.pwrState) ∧
    ∃ t, exec (.pwrWake e w d none) s = .next t ∧ t.pwr.target = none ∧ t.flag F.PWR_STATE_TRANS = false ∧
      t.pwrState = s.pwrState ∧ t.pwr.wakeInd = s.pwr.wakeInd) ∧
  (∀ (s : State) (e : BitVec 8) (w d : Bool) (k : Nat), k < 3 → exec (.pwrWake e w d (some k)) s = .next s) ∧
  (∀ (s : State) (c : Bool), s.pwr.cycle < s.pwr.entered + 25000 * s.f F.GRM_WAKE_TIMER_MS →
    exec (.wakeTimerExpire c) s = .next s) ∧
  (∀ (s : State) (c : Bool), s.pwr.entered + 25000 * s.f F.GRM_WAKE_TIMER_MS ≤ s.pwr.cycle →
    s.pwr.loss = 0 → s.pwr.target = none → s.pwr.failed = false →
    1 ≤ s.pwrState → s.pwrState ≤ 3 → bitOf (s.f F.GRM_WAKE_CFG_EN) 3 = true →
    s.f F.GRM_WAKE_TIMER_MS ≠ 0 → ∃ t, exec (.wakeTimerExpire c) s = .next t ∧
      t.flag F.PWR_STATE_TRANS = true ∧ bitOf (t.f F.GRM_WAKE_REC_PENDING) 3 = true) ∧
  (∀ (s : State), (s.pwrState ≠ 2 → exec .dozeWindowOpen s = .next s ∧ exec .dozeWindowClose s = .next s) ∧
    (s.pwr.loss ≠ 0 → exec .dozeWindowOpen s = .next s) ∧
    (s.pwrState = 2 → s.pwr.target = none → (s.region (sideNo s.dozeSide)).on = false →
      1 ≤ s.pwr.winStart → s.pwr.cycle < s.pwr.winStart - 1 + 3125 * s.dozeM → exec .dozeWindowOpen s = .next s) ∧
    (s.pwrState = 2 → s.pwr.target = none → s.pwr.loss = 0 → (s.region (sideNo s.dozeSide)).on = false →
      s.pwr.winStart = 0 ∨ s.pwr.winStart - 1 + 3125 * s.dozeM ≤ s.pwr.cycle →
      ∃ t, exec .dozeWindowOpen s = .next t ∧ (t.region (sideNo s.dozeSide)).on = true ∧ t.pwr.dozeSync = false ∧
        t.pwr.winStart = s.pwr.cycle + 1 ∧
        t.counter (grmCnt 1) = (s.counter (grmCnt 1) + 1) % 2 ^ 64 ∧ t.reg 0x200018 = s.reg 0x200018 + 1) ∧
    (s.pwr.cycle < s.pwr.winStart - 1 + 3125 * s.dozeN → exec .dozeWindowClose s = .next s) ∧
    (s.pwrState = 2 → (s.region 1).on = false → (s.region 0).on = true →
      s.pwr.winStart - 1 + 3125 * s.dozeN ≤ s.pwr.cycle →
      ∃ t, exec .dozeWindowClose s = .next t ∧ (t.region 0).on = false ∧ t.pwr.dozeRan = true ∧
        t.counter (grmCnt 2) = if s.pwr.dozeSync then s.counter (grmCnt 2) else (s.counter (grmCnt 2) + 1) % 2 ^ 64))

/-- R316 to R318 and R381 to R385: cold and warm reset, rails and PLLs. -/
def Obligations.ResetsAndSupplies : Prop :=
  (∀ (s : State), s.pwr.flash = [] → s.pwr.fuses = [] →
    ∃ t, exec .coldPowerUp s = .next t ∧ t.pending = s.pending ∧ t.grade = s.grade ∧ t.tick = 0 ∧ t.counters = [] ∧
      t.threads = [] ∧ t.rings = [] ∧ t.queues = [] ∧ t.dram = [] ∧ t.smem = [] ∧ t.istore = [] ∧ t.regions = [] ∧
      (∀ k, k ≠ 0x200074 → t.reg k = regDefault k) ∧ t.flag F.GRM_SAVE_STAT_READY = true ∧
      t.pwr.flash = [] ∧ t.pwr.vWait = true ∧ t.pwr.vSent = some (F.GRM_VCORE_ADDR.of (regDefault 0x200048), 0x21,
        t.vcoreMantissa % 65536)) ∧
  (∀ (s : State), ∃ t, exec .vddAonLoss s = .next t ∧ t.pwrState = 0 ∧ (∀ r, r < 9 → (t.region r).on = false) ∧
    t.threads = [] ∧ t.rings = [] ∧ t.dram = [] ∧ t.pwr.flash = s.pwr.flash ∧
    t.pwr.fuses = s.pwr.fuses ∧ t.hostMem = s.hostMem) ∧
  (∀ (s : State) (q : Req) (v : Word), Reach s q 0x10 →
    (q ≠ .host ∨ F.GLB_RST_KEY.of v ≠ 0x7A3C ∨ F.GLB_RST_WARM.of v = 0 ∨ s.flag F.GLB_RST_STAT_BUSY = true →
      exec (.warmReset q v) s = .next s) ∧
    (q = .host → F.GLB_RST_KEY.of v = 0x7A3C → F.GLB_RST_WARM.of v = 1 → s.flag F.GLB_RST_STAT_BUSY = false →
      ∃ t, exec (.warmReset q v) s = .next t ∧ t.flag F.GLB_RST_STAT_BUSY = true ∧ t.f F.GLB_RST_STAT_LAST = 2 ∧
        t.f F.GLB_RST_STAT_WARM_COUNT = min 255 (s.f F.GLB_RST_STAT_WARM_COUNT + 1) ∧
        t.reg 0x200018 = s.reg 0x200018 + 1 ∧ t.tick = s.tick ∧ t.threads = [] ∧ t.rings = [] ∧ t.queues = [] ∧
        t.hostMem = s.hostMem ∧ t.pwr = s.pwr ∧ (∀ k, k % 4 = 0 → 0x40 ≤ k → k < 0x50 → t.reg k = s.reg k) ∧
        (∀ i, i < 15 → t.resFeature i = 0))) ∧
  (∀ (s : State), (s.flag F.GLB_RST_STAT_BUSY = false → exec .resetEnd s = .next s) ∧
    (s.flag F.GLB_RST_STAT_BUSY = true → s.f F.GLB_RST_STAT_LAST = 2 → ∃ t, exec .resetEnd s = .next t ∧
      t.flag F.GLB_RST_STAT_BUSY = false ∧ t.f F.GLB_RST_STAT_LAST = 2 ∧ Only [0x14] [] s t) ∧
    (s.flag F.GLB_RST_STAT_BUSY = true → s.f F.GLB_RST_STAT_LAST ≠ 2 → ∃ t, exec .resetEnd s = .next t ∧
      t.flag F.GLB_RST_STAT_BUSY = false)) ∧
  (∀ (s : State) (pll skew : Bool) (i : Fin 9) (n : Nat), s.pwr.loss = 0 → s.pwr.target = some n → s.pwr.prev < n →
    s.pwr.prev ≠ 3 → s.pwrState ≠ 0 →
    (pll = false → bitOf (stateRails n) i.val = false ∨ bitOf (s.f F.GRM_RAIL_EN) i.val = true →
      exec (.railFail pll i skew) s = .next s) ∧
    (pll = true → i = 0 → (s.region 7).on = true → exec (.railFail pll i skew) s = .next s) ∧
    (s.pwr.tries = 0 → s.pwr.tryMask = 0 → s.mayFail pll i.val (if skew then 5 else 1) = true →
      ∃ t, exec (.railFail pll i skew) s = .next t ∧ t.pwr.tries = 1 ∧
      t.pwr.target = some n ∧ t.regs = s.regs ∧ t.regions = s.regions) ∧
    (s.pwr.tries = 2 → s.mayFail pll i.val (if skew then 5 else 1) = true → ∃ t, exec (.railFail pll i skew) s = .next t ∧
      t.pwrState = 1 ∧ t.faultN = true ∧
      t.pwr.target = none ∧ t.pwr.failed = true ∧ (∀ r, r < 8 → (t.region r).on = false) ∧
      t.reg 0x200024 = BitVec.ofNat 32
        (2 ^ 31 + 2 ^ 16 + (i.val + 16 * (if pll then 2 else if skew then 5 else 1) + 256 * n)))) ∧
  (∀ (s : State) (pll skew : Bool) (i : Fin 9), s.pwrState = 0 → s.pwr.loss = 0 → s.pwr.tries = 2 →
    (pll = true → i ≠ 0 → exec (.railFail pll i skew) s = .next s) ∧
    (pll = false → bitOf (s.f F.GRM_RAIL_EN) i.val = false →
      (skew = true → i.val < 2 ∧ bitOf (s.f F.GRM_RAIL_EN) 0 = false ∧ bitOf (s.f F.GRM_RAIL_EN) 1 = false) →
      ∃ t, exec (.railFail pll i skew) s = .next t ∧ t.pwrState = 1 ∧ t.faultN = true ∧
        t.reg 0x200024 = BitVec.ofNat 32 (2 ^ 31 + 2 ^ 16 + (i.val + 16 * (if skew then 5 else 1) + 1024)))) ∧
  (∀ (s : State) (pll skew : Bool) (i : Fin 9), (s.pwr.loss ≠ 0 ∧ s.pwr.loss ≠ 4) ∨ s.pwr.tries = 1 →
    exec (.railFail pll i skew) s = .next s) ∧
  (∀ (s : State), (∀ l, s.pwr.tries ≠ 1 → exec (.powerRetry l) s = .next s) ∧
    (s.pwr.tries = 1 → s.pwr.tryMask = 0 → ∃ t, exec (.powerRetry []) s = .next t ∧ t.pwr.tries = 2 ∧ t.regs = s.regs)) ∧
  (∀ (s : State) (i : Fin 9), (bitOf (s.f F.GRM_RAIL_EN) i.val = false → exec (.powerGoodLost i) s = .next s) ∧
    (bitOf (s.f F.GRM_RAIL_EN) i.val = true →
      (s.pwrState ≠ 4 → ∃ t, exec (.powerGoodLost i) s = .next t ∧ bitOf (t.f F.GRM_RAIL_PG) i.val = false ∧
        t.f F.GRM_RAIL_EN = s.f F.GRM_RAIL_EN ∧ Only [0x200020] [] s t ∧ Raised s t 40 3 0 i.val) ∧
      (s.pwrState = 4 → s.flag F.GLB_FLT_CAUSE_VALID = false → ∃ t, exec (.powerGoodLost i) s = .next t ∧
        bitOf (t.f F.GRM_RAIL_PG) i.val = false ∧ t.flag F.GLB_FLT_CAUSE_VALID = true ∧ t.faultN = true ∧
        t.f F.GLB_FLT_CAUSE_REGION = 8 ∧ t.f F.GLB_FLT_CAUSE_CAUSE = 4))) ∧
  (∀ (s : State) (i : Fin 4), (bitOf s.pwr.pll i.val = false → exec (.pllLockLost i) s = .next s) ∧
    ((s.region (State.pllRegion i.val)).on = false → exec (.pllLockLost i) s = .next s ∧ exec (.pllLockReturn i) s = .next s) ∧
    (bitOf s.pwr.pll i.val = true → exec (.pllLockReturn i) s = .next s)) ∧
  (∀ (s : State), (s.region 3).on = true → (bitOf s.pwr.pll 1 = true → ∃ t, exec (.pllLockLost 1) s = .next t ∧
    bitOf t.pwr.pll 1 = false ∧
      (t.region 3).clock = false ∧ (∀ r, r ≠ 3 → t.region r = s.region r) ∧ Only [] [] s t ∧ Raised s t 40 3 0 17) ∧
    (bitOf s.pwr.pll 1 = false → ∃ t, exec (.pllLockReturn 1) s = .next t ∧ bitOf t.pwr.pll 1 = true ∧
      (t.region 3).clock = true ∧ (∀ r, r ≠ 3 → t.region r = s.region r) ∧ t.regs = s.regs))

/-- R398 to R407: the core set point, the monitor, supply loss with its state record, and the Groom's image. -/
def Obligations.SupplyLossAndGroom : Prop :=
  (∀ (s : State) (k : Fin 16) (v : Word), Reach s (.team k) 0x200048 →
    ∃ t, exec (.vcoreSet (.team k) v) s = .next t ∧ t.f F.GRM_VCORE_ADDR = F.GRM_VCORE_ADDR.of v ∧
      t.f F.GRM_VCORE_EXP = F.GRM_VCORE_EXP.of v ∧ t.f F.GRM_VCORE_TARGET = s.f F.GRM_VCORE_TARGET ∧ t.pwr = s.pwr ∧
      Only [0x200048] [] s t) ∧
  (∀ (s : State) (q : Req) (v : Word), Reach s q 0x200048 → q = .host ∨ q = .groom → s.pwr.target = none →
    s.farBusy = false →
    ∃ t, exec (.vcoreSet q v) s = .next t ∧ t.f F.GRM_VCORE_TARGET = F.GRM_VCORE_TARGET.of v ∧
      t.flag F.GRM_VCORE_VERIFIED = false ∧ t.pwr.vPend = false ∧ t.pwr.vWait = true ∧
      t.pwr.vSent = some (F.GRM_VCORE_ADDR.of v, 0x21, t.vcoreMantissa % 65536) ∧ Only [0x200048] [] s t ∧
      t.pwr.mirror = s.pwr.mirror) ∧
  (∀ (s : State), (s.pwr.vWait = false → exec .vcoreVerifyTimeout s = .next s) ∧
    (s.pwr.vWait = true → ∃ t, exec .vcoreVerifyTimeout s = .next t ∧ t.pwr.vWait = false ∧ Only [] [] s t ∧
      Raised s t 38 1 0 (s.vcoreTarget + 1024 + s.vcoreMv % 1024 * 65536))) ∧
  (∀ (s : State) (k : Fin 8) (c : Fin 4096), k.val = 4 ∨ k.val = 5 → sget (fun _ => 0) s.pwr.mon k.val = 0 →
    s.flag F.GRM_MON_CFG_EN (8 * k.val) = false → bitOf s.pwr.cond k.val = false →
    ∃ t, exec (.monitorSample k c) s = .next t ∧ t.f F.GRM_MON_FILT (8 * k.val) = c.val ∧
      t.f F.GRM_MON_RAW (8 * k.val) = c.val ∧ t.flag F.GRM_MON_ABOVE (8 * k.val) = s.flag F.GRM_MON_ABOVE (8 * k.val) ∧
      bitOf t.pwr.cond k.val = false ∧ t.pwr.mirror = s.pwr.mirror ∧ Only [0x200104 + 8 * k.val] [] s t) ∧
  (∀ (s : State) (c : Fin 4096), sget (fun _ => 0) s.pwr.mon 2 = 0 → s.flag F.GRM_MON_CFG_EN 0x10 = true →
    s.flag F.GRM_MON_CFG_POL 0x10 = false → s.flag F.GRM_MON_CFG_SUPPLY 0x10 = true →
    s.f F.GRM_MON_CFG_HI 0x10 < c.val → s.pwr.loss = 0 →
    ∃ t, exec (.monitorSample 2 c) s = .next t ∧ t.pwr.loss = 1 ∧ bitOf t.pwr.cond 2 = true) ∧
  (∀ (s : State), (s.pwr.loss ≠ 0 → exec .supplyLossDeclare s = .next s) ∧
    (s.pwr.loss = 0 → s.farBusy = false →
      (s.pwrState < 3 → ∃ t, exec .supplyLossDeclare s = .next t ∧ t.pwr.loss = 1 ∧ t.pwr.lossCycle = s.pwr.cycle ∧
        t.pwr.target = none ∧ t.flag F.PWR_STATE_TRANS = false ∧ t.pwrState = s.pwrState ∧ Only [0x200000] [] s t ∧
        Raised s t 35 3 0 (2 * s.pwrState)) ∧
      (s.pwrState = 3 ∨ s.pwrState = 4 → ∃ t, exec .supplyLossDeclare s = .next t ∧ t.pwr.loss = 1 ∧
        ∀ x, t.flag F.UPB_BRIDLE_STAT_DG_ACTIVE (sideOff x) = true))) ∧
  (∀ (s : State), (s.pwr.loss ≠ 1 → exec .dgHoldExpire s = .next s) ∧
    (s.pwr.loss = 1 → ∃ t, exec .dgHoldExpire s = .next t ∧ t.pwr.loss = 2 ∧ (∀ r, r < 8 → (t.region r).on = false) ∧
      t.f F.GRM_RAIL_EN = 0x80 ∧ (s.f F.GRM_RAIL_PG = s.f F.GRM_RAIL_EN → t.f F.GRM_RAIL_PG = 0x80))) ∧
  (∀ (s : State) (c : Fin 4096), (s.pwr.loss ≠ 2 → exec (.energyCheck c) s = .next s) ∧
    (s.pwr.loss = 2 →
      (s.holdSuff c.val = true → s.flag F.GRM_SAVE_STAT_READY = true → ∃ t, exec (.energyCheck c) s = .next t ∧
        t.pwr.loss = 3 ∧ t.pwrState = s.pwrState ∧ Only [0x200060, 0x200064, 0x200068] [] s t) ∧
      (s.holdSuff c.val = false ∨ s.flag F.GRM_SAVE_STAT_READY = false → ∃ t, exec (.energyCheck c) s = .next t ∧
        t.pwr.loss = 4 ∧ t.pwrState = 1 ∧ t.f F.GRM_RAIL_EN = 0 ∧
        t.f F.GRM_SAVE_STAT_RESULT = (if s.holdSuff c.val then 3 else 2) ∧
        t.counter (grmCnt 4) = (s.counter (grmCnt 4) + 1) % 2 ^ 64 ∧ t.pwr.flash = s.pwr.flash))) ∧
  (∀ (s : State) (b : Bool), s.pwr.loss ≠ 3 → exec (.stateSaveEnd b) s = .next s) ∧
  (∀ (s : State), s.pwr.loss = 3 →
    (∃ t, exec (.stateSaveEnd false) s = .next t ∧ t.pwr.loss = 4 ∧ t.f F.GRM_SAVE_STAT_RESULT = 4 ∧ t.pwrState = 1 ∧
      t.flag F.GRM_SAVE_STAT_READY = false ∧ t.pwr.flash = s.pwr.flash) ∧
    (s.f F.GRM_SAVE_STAT_SLOT = 0 → s.slotRec 0 = none → ∃ t r, exec (.stateSaveEnd true) s = .next t ∧ t.pwr.loss = 4 ∧
      t.f F.GRM_SAVE_STAT_RESULT = 1 ∧ t.f F.GRM_SAVE_STAT_SLOT = 0 ∧
      (∀ k, sget (fun _ => []) t.pwr.flash k =
        if k = min 4094 (s.f F.GRM_SAVE_CFG_BASE) then r else sget (fun _ => []) s.pwr.flash k) ∧
      leNat (bytesAt r 0 4) = 0x47535631 ∧ State.recSeq r = 0 ∧
      t.counter (grmCnt 3) = (s.counter (grmCnt 3) + 1) % 2 ^ 64)) ∧
  (∀ (s : State), (s.pwr.loss ≠ 4 → exec .pfailRelease s = .next s) ∧
    (s.pwr.loss = 4 → ∃ t u, exec .pfailRelease s = .next t ∧ exec .coldPowerUp s = .next u ∧
      t.reg 0x200024 = s.reg 0x200024 ∧ (∀ k, k ≠ 0x200024 → t.reg k = u.reg k) ∧ t.tick = u.tick ∧ t.regions = u.regions ∧
      t.faultN = s.flag F.GRM_WAKE_FAIL_VALID ∧
      t.pwr = { u.pwr with prog := s.pwr.prog, entry := s.pwr.entry })) ∧
  (∀ (s : State) (q : Req) (v : Word), Reach s q 0x200210 →
    (q ≠ .host ∨ F.GRM_LOAD_CMD_LOAD.of v = 0 → exec (.groomImageLoad q v) s = .next s) ∧
    (q = .host → F.GRM_LOAD_CMD_LOAD.of v ≠ 0 →
      (s.pwr.target = none → s.pwr.imgLoad = false → ∃ t, exec (.groomImageLoad q v) s = .next t ∧ t.pwr.imgLoad = true ∧
        t.regs = s.regs) ∧
      (s.pwr.imgLoad = true → ∃ t, exec (.groomImageLoad q v) s = .next t ∧ t.reg 0x200214 = BitVec.ofNat 32 (2 ^ 31 + 2) ∧
        t.pwr.prog = s.pwr.prog ∧ Only [0x200214] [] s t ∧ Raised s t 39 1 0 2))) ∧
  (∀ (s : State) (a b : Option (List Byte)), s.pwr.imgLoad = false ∨ s.hostOk = false →
    exec (.groomImageLoadEnd a b) s = .next s) ∧
  (∀ (s : State) (b : Option (List Byte)), s.pwr.imgLoad = true → s.hostOk = true →
    ∃ t, exec (.groomImageLoadEnd none b) s = .next t ∧ t.pwr.imgLoad = false ∧
      t.reg 0x200214 = BitVec.ofNat 32 (2 ^ 31 + 11) ∧ t.pwr.prog = s.pwr.prog ∧ t.pwr.entry = s.pwr.entry ∧
      Only [0x200214] [] s t ∧ Raised s t 39 1 0 11)

/-- R409, R412, R413 and R416: the capture store. -/
def Obligations.Capture : Prop :=
  (∀ (s : State) (q : Req) (v : Word), Reach s q 0x1400000 → s.flag F.CAP_CFG_EN = false →
    (s.capBad = false → ∃ t, exec (.captureEnable q v) s = .next t ∧ t.flag F.CAP_CFG_EN = true ∧ t.capWp = 0 ∧
      t.capOldest = 0 ∧ t.f F.CAP_CFG_SRC_EN = F.CAP_CFG_SRC_EN.of v ∧ t.cp.capSeq = 0 ∧ t.dram = s.dram ∧
      Only [0x1400000, 0x1400018, 0x140001C, 0x1400020, 0x1400024] [] s t) ∧
    (s.capBad = true → ∃ t, exec (.captureEnable q v) s = .next t ∧ t.flag F.CAP_CFG_EN = false ∧
      t.flag F.CAP_STAT_REFUSED = true ∧ Raised s t 489 1 0 3)) ∧
  (∀ (s : State) (r : CapRec) (rest : List CapRec), s.cp.capBuf = r :: rest → r.typ ≠ 3 → r.typ ≠ 6 →
    s.xOpen 9 = true → s.capThrottled = false →
    s.flag F.CAP_STAT_FULL = false → s.cp.capLap = false → s.capWp + r.size < s.capBytes → s.flag F.MEM_FLIP_CFG_ARM = false →
    ∃ t, exec .captureRecordWrite s = .next t ∧ t.cp.capBuf = rest ∧ t.capWp = s.capWp + r.size ∧
      t.dramRead (s.capBase + s.capWp) r.size = r.bytes ∧
      (∀ a, ¬ (s.capBase + s.capWp ≤ a ∧ a < s.capBase + s.capWp + r.size) → s.lineSkew a = 0 → s.wordMask a = 0 →
        t.dramByte a = s.dramByte a) ∧
      t.counter (capCnt 8) = (s.counter (capCnt 8) + 1) % 2 ^ 64 ∧
      t.counter (capCnt 9) = (s.counter (capCnt 9) + r.size) % 2 ^ 64) ∧
  (∀ (s : State) (r : CapRec) (rest : List CapRec), s.cp.capBuf = r :: rest → s.flag F.CAP_STAT_FULL = true →
    s.xOpen 9 = true → s.capThrottled = false →
    ∃ t, exec .captureRecordWrite s = .next t ∧ t.cp.capBuf = rest ∧ t.dram = s.dram ∧ t.capWp = s.capWp ∧
      t.counter (capCnt 10) = (s.counter (capCnt 10) + 1) % 2 ^ 64 ∧
      t.counter (capCnt 11) = (s.counter (capCnt 11) + 1) % 2 ^ 64) ∧
  (∀ (s : State), s.cp.capBuf = [] ∨ s.xOpen 9 = false ∨ s.capThrottled = true → exec .captureRecordWrite s = .next s) ∧
  (∀ (s : State) (r : CapRec), (s.cp.capBuf.find? fun r => r.typ == 3 && decide (r.offered + 38880 ≤ s.tick)) = some r →
    ∃ t, exec .captureCopyStale s = .next t ∧ t.cp.capBuf = s.cp.capBuf.erase r ∧ t.cp.capLost = s.cp.capLost + 1 ∧
      t.counter (capCnt 10) = (s.counter (capCnt 10) + 1) % 2 ^ 64 ∧ t.dram = s.dram) ∧
  (∀ (s : State), (∀ r ∈ s.cp.capBuf, r.typ = 3 → s.tick < r.offered + 38880) → exec .captureCopyStale s = .next s) ∧
  (∀ (s : State) (q : Req) (v : Word), Reach s q 0x1400010 → s.flag F.CAP_STAT_FULL = true →
    ∃ t, exec (.captureResume q v) s = .next t ∧ t.flag F.CAP_STAT_FULL = false ∧ t.capWp = 0 ∧ t.capOldest = 0 ∧
      t.cp.capLap = false ∧ Only [0x1400010, 0x1400018, 0x140001C, 0x1400020, 0x1400024] [] s t) ∧
  (∀ (s : State) (q : Req) (v : Word), Reach s q 0x1400094 → s.flag F.CAP_RD_CTRL_BUSY = false →
    (s.capRdOfs % 32 = 0 → s.capRdLen % 32 = 0 → 1 ≤ s.capRdLen → s.capRdOfs + s.capRdLen ≤ s.capBytes →
      ∃ t, exec (.captureReadoutStart q v) s = .next t ∧ t.flag F.CAP_RD_CTRL_BUSY = true ∧
        t.f F.CAP_RD_CTRL_RESULT = 0 ∧ t.cp = { s.cp with capRd := (s.capBase, s.capRdOfs, s.capRdLen, s.capRdDst) } ∧
        Only [0x1400094] [] s t) ∧
    (s.capBytes < s.capRdOfs + s.capRdLen → ∃ t, exec (.captureReadoutStart q v) s = .next t ∧
      t.flag F.CAP_RD_CTRL_BUSY = false ∧ t.flag F.CAP_RD_CTRL_DONE = true ∧ t.f F.CAP_RD_CTRL_RESULT = 2 ∧
      t.reg 0x1400098 = 0 ∧ t.hostMem = s.hostMem)) ∧
  (∀ (s : State) (k : Option Nat), s.flag F.CAP_RD_CTRL_BUSY = false ∨ s.hostOk = false ∨ s.xOpen 8 = false ∨ s.xOpen 9 = false →
    exec (.captureReadoutEnd k) s = .next s) ∧
  (∀ (s : State) (base ofs len dst : Nat), s.flag F.CAP_RD_CTRL_BUSY = true → s.hostOk = true → s.xOpen 8 = true →
    s.xOpen 9 = true → s.cp.capRd = (base, ofs, len, dst) → len < 2 ^ 32 →
      s.heldFails ((base + ofs) / 8) ((base + ofs + len - 1) / 8) = [] →
    ∃ t, exec (.captureReadoutEnd none) s = .next t ∧ t.flag F.CAP_RD_CTRL_BUSY = false ∧
      t.flag F.CAP_RD_CTRL_DONE = true ∧ t.f F.CAP_RD_CTRL_RESULT = 1 ∧ t.reg 0x1400098 = BitVec.ofNat 32 len ∧
      t.dram = s.dram ∧ t.counter (memCnt 15) = (s.counter (memCnt 15) + 64 * ceilDiv len 64) % 2 ^ 64 ∧
      (∀ i, i < len → sget (fun _ => 0) t.hostMem ((dst + i) % 2 ^ 64) = s.dramByte (base + ofs + i)) ∧
      ∀ a, (∀ i, i < len → a ≠ (dst + i) % 2 ^ 64) → sget (fun _ => 0) t.hostMem a = sget (fun _ => 0) s.hostMem a)

/-- R417, R418 and R421: snapshots and the user counter page. -/
def Obligations.Snapshots : Prop :=
  (∀ (s : State) (q : Req) (v : Word), Reach s q 0x1401004 → F.STB_CTRL_NOW.of v = 1 →
    ∃ t, exec (.stbNow q v) s = .next t ∧ t.cp = { s.cp with snapNow := true } ∧ Only [] [] s t) ∧
  (∀ (s : State), s.pending = [] → s.regionUp 7 = true → s.cp.snapNow = true → s.flag F.STB_CFG_EN = true →
    (∀ p ∈ s.cp.userPage, p.tick ≠ (s.tick + 1) % 2 ^ 64) → s.cp.snaps.length < 2 → s.snapRing = true →
    ∃ t x, step s = .next t ∧ t.cp.snaps = s.cp.snaps ++ [x] ∧ t.cp.userPage = some x ∧ t.cp.snapNow = false ∧ x.cause = 4 ∧
      x.tick = t.tick ∧ x.tod = t.todUnits ∧ x.seq = (s.f F.STB_STAT_SEQ + 1) % 2 ^ 32 ∧ t.f F.STB_STAT_SEQ = x.seq) ∧
  (∀ (s : State), s.flag F.STB_CFG_EN = true → (∀ p ∈ s.cp.userPage, p.tick ≠ s.tick) →
    1 ≤ s.f F.STB_CFG_PERIOD → s.cp.stbStart < s.tick → (s.tick - s.cp.stbStart) % s.stbPeriod = 0 →
    (s.cp.snaps.length < 2 → s.snapRing = true → ∃ t x, exec .snapshotPeriod s = .next t ∧ t.cp.snaps = s.cp.snaps ++ [x] ∧
      t.cp.userPage = some x ∧ x.cause = 1 ∧ x.tick = s.tick ∧ x.tod = s.todUnits ∧
      x.seq = (s.f F.STB_STAT_SEQ + 1) % 2 ^ 32 ∧ Only [0x1401010] [] s t) ∧
    (2 ≤ s.cp.snaps.length → ∃ t, exec .snapshotPeriod s = .next t ∧ t.cp.snaps = s.cp.snaps ∧ Only [] [capCnt 13] s t ∧
      t.counter (capCnt 13) = (s.counter (capCnt 13) + 1) % 2 ^ 64)) ∧
  (∀ (s : State), s.f F.STB_CFG_PERIOD = 0 ∨ (s.tick - s.cp.stbStart) % s.stbPeriod ≠ 0 →
    exec .snapshotPeriod s = .next s) ∧
  (∀ (s : State) (r : Fin 64) (d : Desc) (x : Snap) (rest : List Snap), s.ringReady r.val 3 = true →
    16448 ≤ d.bufLen → d.addr + d.bufLen ≤ 2 ^ 64 → s.cp.snaps = x :: rest →
    ∃ t, exec (.snapshotWriteEnd r d) s = .next t ∧ t.cp.snaps = rest ∧ t.cp.stbSkipped = 0 ∧ Completed s t r.val ∧
      t.counter (capCnt 12) = (s.counter (capCnt 12) + 1) % 2 ^ 64) ∧
  (∀ (s : State) (q : Req) (v : Word), Reach s q 0x1401008 → s.flag F.STB_CMP_ARM_ARM = false →
    F.STB_CMP_ARM_ARM.of v = 1 →
    (s.resFree (4 + F.STB_CMP_ARM_COMP.of v) = true → ∃ t, exec (.studbookComparatorArm q v) s = .next t ∧
      t.flag F.STB_CMP_ARM_ARM = true ∧ t.f F.STB_CMP_ARM_COMP = F.STB_CMP_ARM_COMP.of v ∧
      t.resFeature (4 + F.STB_CMP_ARM_COMP.of v) = 8) ∧
    (s.resFree (4 + F.STB_CMP_ARM_COMP.of v) = false → ∃ t, exec (.studbookComparatorArm q v) s = .next t ∧
      t.flag F.STB_CMP_ARM_ARM = false ∧ Only [bankKey q 0x180] [] s t ∧
      t.reg (bankKey q 0x180) = BitVec.ofNat 32 ((4 + F.STB_CMP_ARM_COMP.of v) * 256 + 2))) ∧
  (∀ (s : State) (v : Word), Reach s .host 0x1401014 →
    ∃ t, exec (.userPageWrite .host v) s = .next t ∧ t.f F.STB_UPAGE_UEN = F.STB_UPAGE_UEN.of v ∧
      t.f F.STB_UPAGE_UBASE = F.STB_UPAGE_UBASE.of v ∧ Only [0x1401014] [] s t ∧
      (F.STB_UPAGE_UEN.of v ≠ s.f F.STB_UPAGE_UEN → Raised s t 492 1 0 (F.STB_UPAGE_UEN.of v))) ∧
  (∀ (s : State) (q : Req) (v : Word), Reach s q 0x1401014 → q ≠ .host → exec (.userPageWrite q v) s = .next s)

/-- R423 to R432: Farrier's tests, their phases and results, and the fuses. -/
def Obligations.FarrierTests : Prop :=
  (∀ (s : State) (q : Req) (v : Word) (a b : Bool), Reach s q 0x1500004 →
    (q ≠ .host → exec (.farrierStart q v a b) s = .next s) ∧
    (q = .host → F.FAR_CMD_START.of v = 0 → ∃ t, exec (.farrierStart q v a b) s = .next t ∧
      t.reg 0x1500004 = v &&& 0x03F0FF00#32 ∧ t.far = s.far ∧ Only [0x1500004] [] s t)) ∧
  (∀ (s : State) (v : Word) (a b : Bool) (k r i c : Nat), Reach s .host 0x1500004 → F.FAR_CMD_START.of v = 1 →
    k = F.FAR_CMD_KIND.of v → r = F.FAR_CMD_REGION.of v → i = F.FAR_CMD_INDEX.of v → k ≠ 1 → c = s.farCause k r i true a →
    (c ≠ 0 → ∃ t, exec (.farrierStart .host v a b) s = .next t ∧ t.flag F.FAR_STAT_DONE = true ∧
      t.f F.FAR_STAT_RESULT = 5 ∧ t.f F.FAR_STAT_CAUSE = c ∧ t.farBusy = s.farBusy ∧ t.far = s.far ∧
      Only [0x1500004, 0x1500008] [farCnt 3] s t ∧ t.counter (farCnt 3) = (s.counter (farCnt 3) + 1) % 2 ^ 64 ∧
      Raised s t 506 1 0 (k + 4 * r + 64 * i + 65536 * c)) ∧
    (c = 0 → k = 0 → ∃ t, exec (.farrierStart .host v a b) s = .next t ∧ t.farBusy = true ∧ t.farPhase = 1 ∧
      t.far.kind = 0 ∧ t.far.index = i ∧ t.far.before = s.teamState i ∧ t.teamState i = 5 ∧ t.far.ended = false ∧
      t.threads = s.threads ∧ t.counter (farCnt 0) = (s.counter (farCnt 0) + 1) % 2 ^ 64) ∧
    (c = 0 → k = 3 → ∃ t, exec (.farrierStart .host v a b) s = .next t ∧ t.farBusy = true ∧ t.farPhase = 5 ∧
      t.far.kind = 3 ∧ t.far.index = i ∧ t.sec = s.sec)) ∧
  (∀ (s : State), s.farBusy = false → exec .farrierRestoreDone s = .next s ∧
    (∀ b u, exec (.farrierTeamIdle b u) s = .next s) ∧ (∀ y, exec (.logicBistDone y) s = .next s) ∧
    ∀ f x, exec (.memoryBistDone f x) s = .next s) ∧
  (∀ (s : State), s.farBusy = true → s.far.kind = 0 → s.farPhase = 1 →
    ((s.threads.any fun e => e.1 / 64 == s.far.index && e.2.busy) = true →
      ∀ b u, exec (.farrierTeamIdle b u) s = .next s) ∧
    ((s.threads.any fun e => e.1 / 64 == s.far.index && e.2.busy) = false →
      (∃ t, exec (.farrierTeamIdle true []) s = .next t ∧ t.farPhase = 4 ∧ t.far.cleared = true ∧
        t.far.save = some (s.teamSave s.far.index) ∧ (∀ k, k < 64 → t.keyEmpty k = true) ∧ t.sec.stage = []) ∧
      (s.far.ended = false → ∃ t, exec (.farrierTeamIdle false []) s = .next t ∧ t.farPhase = 6 ∧ t.far.ended = true ∧
        t.f F.FAR_STAT_RESULT = 6 ∧ t.flag F.FAR_STAT_CLEAR_LOCK = true ∧
        t.counter (farCnt 2) = (s.counter (farCnt 2) + 1) % 2 ^ 64))) ∧
  (∀ (s : State) (y : BitVec 64), s.farBusy = true → s.farPhase = 4 →
    ∃ t, exec (.logicBistDone y) s = .next t ∧ t.farPhase = 5 ∧
      (t.reg 0x1500014).toNat * 2 ^ 32 + (t.reg 0x1500010).toNat = y.toNat ∧
      t.far.logicBad = decide ((s.reg 0x150001C).toNat * 2 ^ 32 + (s.reg 0x1500018).toNat ≠ y.toNat) ∧
      Only [0x1500008, 0x1500010, 0x1500014] [] s t) ∧
  (∀ (s : State), s.farBusy = true → s.farPhase = 5 →
    (s.far.kind = 0 → ∃ t, exec (.memoryBistDone [] []) s = .next t ∧ t.farPhase = 6 ∧ t.far = s.far ∧
      Only [0x1500008] [] s t) ∧
    (∀ (g b : Fin 128) (a : Nat), s.far.kind = 0 → g.val / 2 = 32 + s.far.index → a < 2 ^ 20 →
      s.flag F.FAR_CFG_AUTO_REMAP = false → s.flag F.FAR_MBIST_LOG_VALID = false →
      ∃ t, exec (.memoryBistDone [(true, g, b, a)] []) s = .next t ∧ t.farPhase = 6 ∧ t.far.memBad = true ∧
        t.reg 0x1500100 = BitVec.ofNat 32 (2 ^ 31 + g.val * 2 ^ 22 + b.val * 2 ^ 15) ∧
        t.reg 0x1500104 = BitVec.ofNat 32 a ∧ t.counter (farCnt 4) = (s.counter (farCnt 4) + 1) % 2 ^ 64 ∧
        Raised s t 507 1 0 (2 * g.val + 256 * b.val)) ∧
    (s.far.kind = 3 → s.far.logicBad = false → s.far.memBad = false →
      ∃ t, exec (.memoryBistDone [] []) s = .next t ∧ t.farBusy = false ∧ t.flag F.FAR_STAT_DONE = true ∧
        t.f F.FAR_STAT_RESULT = 1 ∧ t.farPhase = 0 ∧
        t.counter (farCnt 1) = (s.counter (farCnt 1) + 1) % 2 ^ 64 ∧
        (∀ x, sget (fun _ => 0) t.dram x = if x % 4 = s.far.index then 0 else sget (fun _ => 0) s.dram x) ∧
        Raised s t 504 1 0 (3 + 4 * s.far.region + 64 * s.far.index))) ∧
  (∀ (s : State), s.farBusy = true → s.farPhase = 6 → s.far.kind = 0 → s.far.index < 16 → s.far.ended = false →
    (s.far.logicBad = true ∨ s.far.memBad = true → ∃ t, exec .farrierRestoreDone s = .next t ∧ t.farBusy = false ∧
      t.flag F.FAR_STAT_DONE = true ∧ t.f F.FAR_STAT_RESULT = (if s.far.logicBad then 2 else 3) ∧
      t.teamState s.far.index = 0 ∧ (∀ k, t.thread (64 * s.far.index + k % 64) = {}) ∧
      t.counter (farCnt 2) = (s.counter (farCnt 2) + 1) % 2 ^ 64) ∧
    (∀ x, s.far.logicBad = false → s.far.memBad = false → s.far.save = some x → s.far.before ≤ 7 →
      (s.teamBack s.far.index x).istoreCrc s.far.index = s.f F.CRS_IMG_ICRC_CRC (0x10000 * s.far.index) →
      ∃ t, exec .farrierRestoreDone s = .next t ∧ t.farBusy = false ∧ t.flag F.FAR_STAT_DONE = true ∧
        t.f F.FAR_STAT_RESULT = 1 ∧ t.teamState s.far.index = s.far.before ∧
        t.smem = (s.teamBack s.far.index x).smem ∧ t.counter (farCnt 1) = (s.counter (farCnt 1) + 1) % 2 ^ 64 ∧
        Raised s t 504 1 0 (4 * s.far.region + 64 * s.far.index))) ∧
  (∀ (s : State) (q : Req) (v : Word), Reach s q 0x1500200 →
    (q ≠ .host ∨ F.FAR_FUSE_CMD_KEY.of v ≠ 0x5EA1 ∨ F.FAR_FUSE_CMD_BURN.of v = 0 ∨ s.flag F.FAR_FUSE_STAT_BUSY = true →
      exec (.fuseBurn q v) s = .next s) ∧
    (q = .host → F.FAR_FUSE_CMD_KEY.of v = 0x5EA1 → F.FAR_FUSE_CMD_BURN.of v = 1 →
      s.flag F.FAR_FUSE_STAT_BUSY = false →
      (s.f F.MEM_MODE_MODE = 0 ∨ s.f F.MEM_MODE_MODE = 2 → ∃ t, exec (.fuseBurn q v) s = .next t ∧
        t.flag F.FAR_FUSE_STAT_BUSY = true ∧ t.pwr = s.pwr ∧ Only [0x1500204] [] s t) ∧
      (s.f F.MEM_MODE_MODE ≠ 0 → s.f F.MEM_MODE_MODE ≠ 2 → ∃ t, exec (.fuseBurn q v) s = .next t ∧
        t.flag F.FAR_FUSE_STAT_BUSY = false ∧ t.flag F.FAR_FUSE_STAT_DONE = true ∧ t.f F.FAR_FUSE_STAT_RESULT = 2 ∧
        Only [0x1500204] [] s t))) ∧
  (∀ (s : State), (s.flag F.FAR_FUSE_STAT_BUSY = false → exec .fuseBurnEnd s = .next s) ∧
    (s.flag F.FAR_FUSE_STAT_BUSY = true → s.pwr.fuses.length ≤ 256 → ∃ t, exec .fuseBurnEnd s = .next t ∧
      t.pwr.fuses = s.pwr.fuses ++ s.unfused.take (256 - s.pwr.fuses.length) ∧
      t.f F.FAR_FUSE_STAT_USED = t.pwr.fuses.length ∧ t.flag F.FAR_FUSE_STAT_BUSY = false ∧
      t.f F.FAR_FUSE_STAT_RESULT = (if s.unfused.length ≤ 256 - s.pwr.fuses.length then 1 else 3) ∧
      Only [0x1500204] [] s t))
end

