-- ==== Sys2Proof/Laws/Sparse.lean ====
section
/-! SUPPORT. Laws of sparse tables: read after write, and that every operation keeps the canonical form. -/

-- One proof at a time: in the package as one text, proofs that wait for each other would each hold a thread.
set_option Elab.async false

namespace Sys2Proof

variable {V : Type}

theorem sget_sinsert (d : Nat → V) (m : SMap V) (k k' : Nat) (v : V) :
    sget d (sinsert m k v) k' = if k = k' then v else sget d m k' := by
  induction m with
  | nil => simp [sinsert, sget]
  | cons e m ih =>
    obtain ⟨j, w⟩ := e
    simp only [sinsert]
    split
    · simp [sget]
    · split
      · rename_i h; subst h; simp only [sget]; split <;> rfl
      · simp only [sget, ih]
        by_cases h1 : j = k'
        · subst h1; simp_all
        · simp [h1]

/-- Keys of a canonical table lie at or above its bound. -/
theorem sget_of_lt [DecidableEq V] (d : Nat → V) (m : SMap V) (lo k : Nat) (h : swfFrom d lo m = true) (hk : k < lo) :
    sget d m k = d k := by
  induction m generalizing lo with
  | nil => rfl
  | cons e m ih =>
    obtain ⟨j, w⟩ := e
    simp only [swfFrom, Bool.and_eq_true, decide_eq_true_eq] at h
    simp only [sget]
    rw [if_neg (by omega)]
    exact ih (j + 1) h.2 (by omega)

theorem sget_serase_ne (d : Nat → V) (m : SMap V) (k k' : Nat) (h : k ≠ k') :
    sget d (serase m k) k' = sget d m k' := by
  induction m with
  | nil => rfl
  | cons e m ih =>
    obtain ⟨j, w⟩ := e
    simp only [serase, List.filter_cons] at ih ⊢
    by_cases hj : j = k
    · subst hj; simpa [sget, h] using ih
    · simp only [bne_iff_ne, ne_eq, hj, not_false_eq_true, if_true, sget]; rw [ih]

theorem sget_serase_self (d : Nat → V) (m : SMap V) (k : Nat) : sget d (serase m k) k = d k := by
  induction m with
  | nil => rfl
  | cons e m ih =>
    obtain ⟨j, w⟩ := e
    simp only [serase, List.filter_cons] at ih ⊢
    by_cases hj : j = k
    · subst hj; simpa using ih
    · simp only [bne_iff_ne, ne_eq, hj, not_false_eq_true, if_true, sget, if_false]; exact ih

/-- A read after a write. -/
@[simp] theorem sget_sset [DecidableEq V] (d : Nat → V) (m : SMap V) (k k' : Nat) (v : V) :
    sget d (sset d m k v) k' = if k = k' then v else sget d m k' := by
  unfold sset
  split
  · rename_i hv
    by_cases h : k = k'
    · subst h; simp [sget_serase_self, hv]
    · simp [h, sget_serase_ne d m k k' h]
  · exact sget_sinsert d m k k' v

/-- A read after keys were dropped. -/
@[simp] theorem sget_sdrop (d : Nat → V) (p : Nat → Bool) (m : SMap V) (k : Nat) :
    sget d (sdrop p m) k = if p k then d k else sget d m k := by
  induction m with
  | nil => simp [sdrop, sget]
  | cons e m ih =>
    obtain ⟨j, w⟩ := e
    simp only [sdrop, List.filter_cons] at ih ⊢
    by_cases hj : j = k
    · subst hj
      by_cases hp : p j <;> simp_all [sget]
    · by_cases hp : p j <;> simp_all [sget]

theorem swfFrom_mono [DecidableEq V] {d : Nat → V} {lo lo' : Nat} {m : SMap V} (h : swfFrom d lo m = true)
    (hl : lo' ≤ lo) : swfFrom d lo' m = true := by
  cases m with
  | nil => rfl
  | cons e m =>
    obtain ⟨j, w⟩ := e
    simp only [swfFrom, Bool.and_eq_true, decide_eq_true_eq] at h ⊢
    exact ⟨⟨by omega, h.1.2⟩, h.2⟩

/-- Leaving entries out keeps the canonical form. -/
theorem swfFrom_filter [DecidableEq V] {d : Nat → V} {lo : Nat} {m : SMap V} (p : Nat × V → Bool)
    (h : swfFrom d lo m = true) : swfFrom d lo (m.filter p) = true := by
  induction m generalizing lo with
  | nil => rfl
  | cons e m ih =>
    obtain ⟨j, w⟩ := e
    simp only [swfFrom, Bool.and_eq_true, decide_eq_true_eq] at h
    simp only [List.filter_cons]
    split
    · simp only [swfFrom, Bool.and_eq_true, decide_eq_true_eq]; exact ⟨h.1, ih h.2⟩
    · exact ih (swfFrom_mono h.2 (by omega))

theorem swfFrom_sinsert [DecidableEq V] {d : Nat → V} {lo : Nat} {m : SMap V} {k : Nat} {v : V}
    (h : swfFrom d lo m = true) (hk : lo ≤ k) (hv : v ≠ d k) : swfFrom d lo (sinsert m k v) = true := by
  induction m generalizing lo with
  | nil => simp [sinsert, swfFrom, hk, hv]
  | cons e m ih =>
    obtain ⟨j, w⟩ := e
    simp only [swfFrom, Bool.and_eq_true, decide_eq_true_eq] at h
    simp only [sinsert]
    split
    · rename_i hlt
      simp only [swfFrom, Bool.and_eq_true, decide_eq_true_eq]
      exact ⟨⟨hk, by simpa using hv⟩, ⟨by omega, h.1.2⟩, h.2⟩
    · split
      · rename_i _ he; subst he
        simp only [swfFrom, Bool.and_eq_true, decide_eq_true_eq]
        exact ⟨⟨hk, by simpa using hv⟩, h.2⟩
      · simp only [swfFrom, Bool.and_eq_true, decide_eq_true_eq]
        exact ⟨h.1, ih h.2 (by omega)⟩

/-- A write keeps the canonical form. -/
theorem swf_sset [DecidableEq V] {d : Nat → V} {m : SMap V} (h : swf d m = true) (k : Nat) (v : V) :
    swf d (sset d m k v) = true := by
  unfold sset
  split
  · exact swfFrom_filter _ h
  · exact swfFrom_sinsert h (Nat.zero_le _) ‹_›

/-- Dropping keys keeps the canonical form. -/
theorem swf_sdrop [DecidableEq V] {d : Nat → V} {m : SMap V} (p : Nat → Bool) (h : swf d m = true) :
    swf d (sdrop p m) = true := swfFrom_filter _ h

theorem swf_filter [DecidableEq V] {d : Nat → V} {m : SMap V} (p : Nat × V → Bool) (h : swf d m = true) :
    swf d (m.filter p) = true := swfFrom_filter p h

@[simp] theorem swf_nil [DecidableEq V] (d : Nat → V) : swf d ([] : SMap V) = true := rfl

/-- Writes of a list of entries keep the canonical form. -/
theorem swf_fold [DecidableEq V] {d : Nat → V} (l : List (Nat × V)) {m : SMap V} (h : swf d m = true) :
    swf d (l.foldl (fun m e => sset d m e.1 e.2) m) = true := by
  induction l generalizing m with
  | nil => exact h
  | cons e l ih => exact ih (swf_sset h e.1 e.2)

end Sys2Proof
end

