-- ==== Sys2Proof/Laws/Keeps.lean ====
section
/-! SUPPORT. What every operation of the model keeps, said once as a relation on states: the fuses, the queue of waiting
commands, the parts of the invariant, and the parts of the machine it has no business with. The files Laws/Keeps*.lean prove it
of each operation; a step's invariant and every command's frame follow. -/

-- One proof at a time: in the package as one text, proofs that wait for each other would each hold a thread.
set_option Elab.async false

namespace Sys2Proof.Machine

/-- A part that an operation may change: it is not among those kept. -/
class Free (K : Comp → Prop) (k : Comp) : Prop where
  out : ¬ K k

/-- The parts outside a list. -/
def Off (l : List Comp) (k : Comp) : Prop := k ∉ l

theorem free_off {l : List Comp} {k : Comp} (h : k ∈ l) : Free (Off l) k := ⟨fun n => n h⟩

theorem Same.refl (k : Comp) (s : State) : Same k s s := by
  cases k with
  | line x => cases x <;> rfl
  | _ => rfl

theorem Same.trans {k : Comp} {s t u : State} (h : Same k s t) (j : Same k t u) : Same k s u := by
  cases k with
  | line x => cases x <;> exact Eq.trans j h
  | _ => exact Eq.trans j h

variable {K : Comp → Prop}

/-- `t` comes from `s` by operations that leave the fuses, the queue and the parts `K` alone and keep the invariant. -/
structure Keeps (K : Comp → Prop) (s t : State) : Prop where
  grade : t.grade = s.grade
  pending : t.pending = s.pending
  inv : s.Inv → t.Inv
  comp : ∀ k, K k → Same k s t

theorem Keeps.refl (s : State) : Keeps K s s := ⟨rfl, rfl, id, fun k _ => Same.refl k s⟩

theorem Keeps.trans {s t u : State} (h : Keeps K s t) (k : Keeps K t u) : Keeps K s u :=
  ⟨k.grade.trans h.grade, k.pending.trans h.pending, fun i => k.inv (h.inv i),
    fun c hc => (h.comp c hc).trans (k.comp c hc)⟩

/-- A change of fields the invariant does not speak of. -/
theorem Keeps.same {s0 s t : State} (h : Keeps K s0 s) (hg : t.grade = s.grade) (hp : t.pending = s.pending)
    (hk : t.tick = s.tick) (ht : t.tm.tod = s.tm.tod) (hr : t.regs = s.regs) (hc : t.counters = s.counters)
    (hh : t.hostMem = s.hostMem) (hd : t.dram = s.dram) (hl : t.lmem = s.lmem) (hs : t.smem = s.smem)
    (hi : t.istore = s.istore)
    (hq : ∀ k, K k → Same k s t := by
      intro k hk
      cases k with
      | line y => cases y <;> first | exact absurd hk Free.out | rfl
      | _ => first | exact absurd hk Free.out | rfl) :
    Keeps K s0 t := by
  refine ⟨hg.trans h.grade, hp.trans h.pending, fun i => ?_, fun c hc => (h.comp c hc).trans (hq c hc)⟩
  have j := h.inv i
  refine ⟨hk ▸ j.tick, ht ▸ j.tod, fun a => ?_, ?_⟩
  · have := j.counters a; simpa only [State.counter, hc] using this
  · have := j.mem; simpa only [State.memOk, hr, hc, hh, hd, hl, hs, hi] using this

/-- A change that keeps each part of the invariant. -/
theorem Keeps.of_parts {s0 s t : State} (h : Keeps K s0 s) (hg : t.grade = s.grade) (hp : t.pending = s.pending)
    (hk : s.tick < 2 ^ 64 → t.tick < 2 ^ 64) (ht : s.tm.tod < todModulus → t.tm.tod < todModulus)
    (hc : s.countersOk → t.countersOk) (hr : swf regDefault s.regs = true → swf regDefault t.regs = true)
    (hn : swf (fun _ => 0) s.counters = true → swf (fun _ => 0) t.counters = true)
    (hh : swf (fun _ => 0) s.hostMem = true → swf (fun _ => 0) t.hostMem = true)
    (hd : swf (fun _ => 0) s.dram = true → swf (fun _ => 0) t.dram = true)
    (hl : swf (fun _ => 0) s.lmem = true → swf (fun _ => 0) t.lmem = true)
    (hs : swf (fun _ => 0) s.smem = true → swf (fun _ => 0) t.smem = true)
    (hi : swf (fun _ => 0xFFFFFFFF#32) s.istore = true → swf (fun _ => 0xFFFFFFFF#32) t.istore = true)
    (hq : ∀ k, K k → Same k s t := by
      intro k hk
      cases k with
      | line y => cases y <;> first | exact absurd hk Free.out | rfl
      | _ => first | exact absurd hk Free.out | rfl) :
    Keeps K s0 t :=
  ⟨hg.trans h.grade, hp.trans h.pending, fun i => by
    have j := h.inv i
    have m := j.mem
    simp only [State.memOk, Bool.and_eq_true] at m
    obtain ⟨⟨⟨⟨⟨⟨r, c⟩, hm⟩, d⟩, l⟩, sm⟩, is⟩ := m
    exact ⟨hk j.tick, ht j.tod, hc j.counters, by
      simp only [State.memOk, Bool.and_eq_true]
      exact ⟨⟨⟨⟨⟨⟨hr r, hn c⟩, hh hm⟩, hd d⟩, hl l⟩, hs sm⟩, hi is⟩⟩, fun c hc => (h.comp c hc).trans (hq c hc)⟩

/-- A change of the memories and counters that keeps their form. -/
theorem Keeps.change {s0 s t : State} (h : Keeps K s0 s) (hg : t.grade = s.grade) (hp : t.pending = s.pending)
    (hk : t.tick = s.tick) (ht : t.tm.tod = s.tm.tod) (hc : s.countersOk → t.countersOk)
    (hm : s.memOk = true → t.memOk = true)
    (hq : ∀ k, K k → Same k s t := by
      intro k hk
      cases k with
      | line y => cases y <;> first | exact absurd hk Free.out | rfl
      | _ => first | exact absurd hk Free.out | rfl) :
    Keeps K s0 t :=
  ⟨hg.trans h.grade, hp.trans h.pending, fun i =>
    have j := h.inv i
    ⟨hk ▸ j.tick, ht ▸ j.tod, hc j.counters, hm j.mem⟩, fun c hc => (h.comp c hc).trans (hq c hc)⟩

/-- The same for a record update, in a form that matches only one. -/
theorem keeps_mk {s0 s : State} (h : Keeps K s0 s)
    {freeIdx : Nat} {shadows : SMap Nat} {lastRaise : SMap Nat} {rd : Option Word} {d3hot : Bool} {aer : Nat} {evPhase :
    Bool} {evLost : Nat} {vecs : SMap Vec} {rings : SMap Ring} {jobs : List Job} {cmacSeq : Nat} {txSend : Option (Nat × Nat)}
    {xings : SMap Xing} {regions : SMap Region} {blockResets : SMap Nat} {quarantined : SMap Nat} {faultN :
    Bool} {tc : SMap TcEntry} {em : SMap EmEntry} {emDup : List (Nat × Nat)} {commitTick : Nat} {drainTold :
    Bool} {verCopy : Nat} {pad : SMap PadObj} {nextHandle : Nat} {countPairs : SMap Nat} {dispExp : List Frame}
    {dispOther : List Frame} {dispNext : Nat} {teams : SMap Team} {threads : SMap Thread} {turns : SMap Turn} {queues : SMap Que}
    {groups : SMap Child} {vtimes : SMap Nat} {buckets : SMap Bucket} {gates : SMap Gate} {gateAdm : SMap Nat}
    {gateOpr : SMap Nat} {promotions : Nat} {sweep : Nat} {cp : CapSt} {lineA : Line} {lineB : Line} {prt :
    PrtSt} {har : HarSt} {sec : SecSt} {pwr : PwrSt} {mem : MemSt} {far : FarSt} {cli : CliSt}
    (hq : ∀ k, K k → Same k s (State.mk
      s.grade s.pending s.tick freeIdx s.regs s.counters shadows lastRaise rd s.hostMem d3hot aer evPhase evLost
      vecs rings jobs cmacSeq txSend xings regions blockResets quarantined faultN tc em emDup commitTick drainTold
      verCopy pad nextHandle countPairs dispExp dispOther dispNext teams threads turns s.istore s.lmem s.smem queues
      groups vtimes buckets gates gateAdm gateOpr promotions sweep s.dram s.tm cp lineA lineB prt har sec pwr
      mem far cli)
      := by
      intro k hk
      cases k with
      | line y => cases y <;> first | exact absurd hk Free.out | rfl
      | _ => first | exact absurd hk Free.out | rfl) :
    Keeps K s0 (State.mk
      s.grade s.pending s.tick freeIdx s.regs s.counters shadows lastRaise rd s.hostMem d3hot aer evPhase evLost
      vecs rings jobs cmacSeq txSend xings regions blockResets quarantined faultN tc em emDup commitTick drainTold
      verCopy pad nextHandle countPairs dispExp dispOther dispNext teams threads turns s.istore s.lmem s.smem queues
      groups vtimes buckets gates gateAdm gateOpr promotions sweep s.dram s.tm cp lineA lineB prt har sec pwr
      mem far cli) :=
  h.same rfl rfl rfl rfl rfl rfl rfl rfl rfl rfl rfl hq

/-- A record update that changes memories too, each in a way that keeps its form. -/
theorem keeps_mem {s0 s : State} (h : Keeps K s0 s)
    {freeIdx : Nat} {regs : SMap Word} {shadows : SMap Nat} {lastRaise : SMap Nat} {rd : Option Word} {hostMem :
    SMap Byte} {d3hot : Bool} {aer : Nat} {evPhase : Bool} {evLost : Nat} {vecs : SMap Vec} {rings : SMap Ring}
    {jobs : List Job} {cmacSeq : Nat} {txSend : Option (Nat × Nat)} {xings : SMap Xing} {regions : SMap Region}
    {blockResets : SMap Nat}
    {quarantined : SMap Nat} {faultN : Bool} {tc : SMap TcEntry} {em : SMap EmEntry} {emDup : List (Nat × Nat)}
    {commitTick : Nat} {drainTold : Bool} {verCopy : Nat} {pad : SMap PadObj} {nextHandle : Nat} {countPairs :
    SMap Nat} {dispExp : List Frame} {dispOther : List Frame} {dispNext : Nat} {teams : SMap Team} {threads :
    SMap Thread} {turns : SMap Turn} {istore : SMap Word} {lmem : SMap Byte} {smem : SMap Byte} {queues : SMap
    Que} {groups : SMap
    Child} {vtimes : SMap Nat} {buckets : SMap Bucket} {gates : SMap Gate} {gateAdm : SMap Nat} {gateOpr : SMap
    Nat} {promotions : Nat} {sweep : Nat} {dram : SMap Byte} {cp : CapSt} {lineA : Line} {lineB : Line} {prt :
    PrtSt} {har : HarSt} {sec : SecSt} {pwr : PwrSt} {mem : MemSt} {far : FarSt} {cli : CliSt}
    (hregs : swf (regDefault) s.regs = true → swf (regDefault) regs = true)
    (hhostMem : swf (fun _ => 0) s.hostMem = true → swf (fun _ => 0) hostMem = true)
    (hdram : swf (fun _ => 0) s.dram = true → swf (fun _ => 0) dram = true)
    (hlmem : swf (fun _ => 0) s.lmem = true → swf (fun _ => 0) lmem = true)
    (hsmem : swf (fun _ => 0) s.smem = true → swf (fun _ => 0) smem = true)
    (histore : swf (fun _ => 0xFFFFFFFF#32) s.istore = true → swf (fun _ => 0xFFFFFFFF#32) istore = true)
    (hq : ∀ k, K k → Same k s (State.mk
      s.grade s.pending s.tick freeIdx regs s.counters shadows lastRaise rd hostMem d3hot aer evPhase evLost vecs
      rings jobs cmacSeq txSend xings regions blockResets quarantined faultN tc em emDup commitTick drainTold verCopy
      pad nextHandle countPairs dispExp dispOther dispNext teams threads turns istore lmem smem queues groups vtimes
      buckets gates gateAdm gateOpr promotions sweep dram s.tm cp lineA lineB prt har sec pwr mem far cli)
      := by
      intro k hk
      cases k with
      | line y => cases y <;> first | exact absurd hk Free.out | rfl
      | _ => first | exact absurd hk Free.out | rfl) :
    Keeps K s0 (State.mk
      s.grade s.pending s.tick freeIdx regs s.counters shadows lastRaise rd hostMem d3hot aer evPhase evLost vecs
      rings jobs cmacSeq txSend xings regions blockResets quarantined faultN tc em emDup commitTick drainTold verCopy
      pad nextHandle countPairs dispExp dispOther dispNext teams threads turns istore lmem smem queues groups vtimes
      buckets gates gateAdm gateOpr promotions sweep dram s.tm cp lineA lineB prt har sec pwr mem far cli) :=
  h.of_parts rfl rfl id id id hregs id hhostMem hdram hlmem hsmem histore hq

theorem keeps_ite {s0 a b : State} {c : Prop} [Decidable c] (h : Keeps K s0 a) (k : Keeps K s0 b) :
    Keeps K s0 (if c then a else b) := by split <;> assumption

theorem keeps_ite_dep {s0 a b : State} {c : Prop} [Decidable c] (h : c → Keeps K s0 a) (k : ¬ c → Keeps K s0 b) :
    Keeps K s0 (if c then a else b) := by
  split
  · exact h ‹_›
  · exact k ‹_›

theorem keeps_ite2 {α : Type} {s0 : State} {a b : α × State} {c : Prop} [Decidable c] (h : Keeps K s0 a.2)
    (k : Keeps K s0 b.2) : Keeps K s0 (if c then a else b).2 := by split <;> assumption

/-- A state named on the way. -/
theorem keeps_cut {s0 v t : State} (h : Keeps K s0 v) (k : Keeps K s0 v → Keeps K s0 t) : Keeps K s0 t := k h

theorem keeps_pair {α : Type} {s0 t : State} {a : α} (h : Keeps K s0 t) : Keeps K s0 (a, t).2 := h

theorem keeps_foldl {α : Type} {s0 : State} {f : State → α → State} (l : List α) {s : State} (h : Keeps K s0 s)
    (hf : ∀ s x, Keeps K s0 s → Keeps K s0 (f s x)) : Keeps K s0 (l.foldl f s) := by
  induction l generalizing s with
  | nil => exact h
  | cons x l ih => exact ih (hf s x h)

/-- An outcome that is a next state coming from `s` by such operations. -/
def Answers (l : List Comp) (s : State) (o : Host.Outcome State Fault Refusal) : Prop := ∃ t, o = .next t ∧ Keeps (Off l) s t

theorem answers_of {l : List Comp} {s : State} {o : Host.Outcome State Fault Refusal}
    (h : ∀ K : Comp → Prop, (∀ k ∈ l, Free K k) → ∃ t, o = .next t ∧ Keeps K s t) : Answers l s o :=
  h _ fun _ hk => free_off hk

theorem answers_next {l : List Comp} {s t : State} (h : Keeps (Off l) s t) : Answers l s (.next t) := ⟨t, rfl, h⟩

theorem keeps_effMk {s0 t : State} {f : Option (Nat × Nat × Nat)} {x : Option Touch} {b : Bool} (h : Keeps K s0 t) :
    Keeps K s0 (Eff.mk t f x b).st := h

theorem keeps_iteE {s0 : State} {a b : Eff} {c : Prop} [Decidable c] (h : Keeps K s0 a.st) (k : Keeps K s0 b.st) :
    Keeps K s0 (if c then a else b).st := by split <;> assumption

end Sys2Proof.Machine
end

