-- ==== Sys2Proof/Laws/KeepsOps.lean ====
section
/-! SUPPORT. What the operations of Machine/Ops.lean keep. -/

-- One proof at a time: in the package as one text, proofs that wait for each other would each hold a thread.
set_option Elab.async false

namespace Sys2Proof.Machine

variable {K : Comp → Prop}

theorem modTm_keeps {s0 s : State} (h : Keeps K s0 s) (g : TimeSt → TimeSt) (hg : ∀ t, (g t).tod = t.tod) [Free K .time] :
    Keeps K s0 (s.modTm g) :=
  h.same rfl rfl rfl (hg _) rfl rfl rfl rfl rfl rfl rfl

theorem modCp_keeps {s0 s : State} (hk0 : Keeps K s0 s) (g : CapSt → CapSt) [Free K .capture] :
    Keeps K s0 (State.modCp s g) := by
  unfold State.modCp
  refine keeps_mk ?_
  exact hk0

theorem modPrt_keeps {s0 s : State} (hk0 : Keeps K s0 s) (g : PrtSt → PrtSt) [Free K .pairing] :
    Keeps K s0 (State.modPrt s g) := by
  unfold State.modPrt
  refine keeps_mk ?_
  exact hk0

theorem modHar_keeps {s0 s : State} (hk0 : Keeps K s0 s) (g : HarSt → HarSt) [Free K .circuits] :
    Keeps K s0 (State.modHar s g) := by
  unfold State.modHar
  refine keeps_mk ?_
  exact hk0

theorem modSec_keeps {s0 s : State} (hk0 : Keeps K s0 s) (g : SecSt → SecSt) [Free K .keys] :
    Keeps K s0 (State.modSec s g) := by
  unfold State.modSec
  refine keeps_mk ?_
  exact hk0

theorem modMem_keeps {s0 s : State} (hk0 : Keeps K s0 s) (g : MemSt → MemSt) [Free K .memories] :
    Keeps K s0 (State.modMem s g) := by
  unfold State.modMem
  refine keeps_mk ?_
  exact hk0

theorem modPwr_keeps {s0 s : State} (hk0 : Keeps K s0 s) (g : PwrSt → PwrSt) [Free K .power] [Free K .report] :
    Keeps K s0 (State.modPwr s g) := by
  unfold State.modPwr
  refine keeps_mk ?_
  exact hk0

theorem modFar_keeps {s0 s : State} (hk0 : Keeps K s0 s) (g : FarSt → FarSt) [Free K .farrier] :
    Keeps K s0 (State.modFar s g) := by
  unfold State.modFar
  refine keeps_mk ?_
  exact hk0

theorem modCli_keeps {s0 s : State} (hk0 : Keeps K s0 s) (g : CliSt → CliSt) [Free K .client] :
    Keeps K s0 (State.modCli s g) := by
  unfold State.modCli
  refine keeps_mk ?_
  exact hk0

theorem modLine_keeps {s0 s : State} (h : Keeps K s0 s) (x : Side) (g : Line → Line) [Free K (.line x)] :
    Keeps K s0 (s.modLine x g) := by
  unfold State.modLine
  cases x <;> refine keeps_mk h (by
    intro k hk
    cases k with
    | line y => cases y <;> first | exact absurd hk Free.out | rfl
    | _ => rfl)

theorem setRegion_keeps {s0 s : State} (hk0 : Keeps K s0 s) (r : Nat) (v : Region) [Free K .regions] :
    Keeps K s0 (State.setRegion s r v) := by
  unfold State.setRegion
  refine keeps_mk ?_
  exact hk0

theorem setReg_keeps {s0 s : State} (h : Keeps K s0 s) (k : Nat) (v : Word) [Free K .regs] : Keeps K s0 (s.setReg k v) :=
  h.change rfl rfl rfl rfl id fun m => by
    simp only [State.memOk, Bool.and_eq_true] at m ⊢
    exact ⟨⟨⟨⟨⟨⟨swf_sset m.1.1.1.1.1.1 k v, m.1.1.1.1.1.2⟩, m.1.1.1.1.2⟩, m.1.1.1.2⟩, m.1.1.2⟩, m.1.2⟩, m.2⟩

theorem setF_keeps {s0 s : State} (hk0 : Keeps K s0 s) (F : Fld) (i : Nat) (v : Nat) [Free K .regs] :
    Keeps K s0 (State.setF s F i v) := by
  unfold State.setF
  apply setReg_keeps
  exact hk0

theorem setFlag_keeps {s0 s : State} (hk0 : Keeps K s0 s) (F : Fld) (i : Nat) (b : Bool) [Free K .regs] :
    Keeps K s0 (State.setFlag s F i b) := by
  unfold State.setFlag
  apply setF_keeps
  exact hk0

theorem addReg_keeps {s0 s : State} (hk0 : Keeps K s0 s) (a n : Nat) [Free K .regs] :
    Keeps K s0 (State.addReg s a n) := by
  unfold State.addReg
  apply setReg_keeps
  exact hk0

theorem satF_keeps {s0 s : State} (hk0 : Keeps K s0 s) (F : Fld) (i : Nat) (n : Nat) [Free K .regs] :
    Keeps K s0 (State.satF s F i n) := by
  unfold State.satF
  apply setF_keeps
  exact hk0

theorem bump_keeps {s0 s : State} (h : Keeps K s0 s) (a n : Nat) [Free K .counters] : Keeps K s0 (s.bump a n) :=
  h.change rfl rfl rfl rfl
    (fun c b => by
      simp only [State.bump, State.counter, sget_sset]
      split
      · exact Nat.mod_lt _ (by decide)
      · exact c b)
    fun m => by
      simp only [State.memOk, State.bump, Bool.and_eq_true] at m ⊢
      exact ⟨⟨⟨⟨⟨⟨m.1.1.1.1.1.1, swf_sset m.1.1.1.1.1.2 _ _⟩, m.1.1.1.1.2⟩, m.1.1.1.2⟩, m.1.1.2⟩, m.1.2⟩, m.2⟩

theorem bumpIf_keeps {s0 s : State} (hk0 : Keeps K s0 s) (b : Bool) (a : Nat) (n : Nat) [Free K .counters] :
    Keeps K s0 (State.bumpIf s b a n) := by
  unfold State.bumpIf
  refine keeps_ite ?_ ?_
  · apply bump_keeps
    exact hk0
  · exact hk0

theorem setShadow_keeps {s0 s : State} (hk0 : Keeps K s0 s) (q : Req) (blk v : Nat) [Free K .shadows] :
    Keeps K s0 (State.setShadow s q blk v) := by
  unfold State.setShadow
  refine keeps_mk ?_
  exact hk0

theorem takeFree_keeps {s0 s : State} (hk0 : Keeps K s0 s) (w : Nat) [Free K .free] :
    Keeps K s0 (State.takeFree s w).2 := by
  unfold State.takeFree
  refine keeps_pair ?_
  refine keeps_mk ?_
  exact hk0

theorem hostMem_keeps {s0 s : State} (h : Keeps K s0 s) (k : Nat) (b : Byte) [Free K .report] :
    Keeps K s0 { s with hostMem := sset (fun _ => 0) s.hostMem k b } :=
  h.change rfl rfl rfl rfl id fun m => by
    simp only [State.memOk, Bool.and_eq_true] at m ⊢
    exact ⟨⟨⟨⟨⟨⟨m.1.1.1.1.1.1, m.1.1.1.1.1.2⟩, swf_sset m.1.1.1.1.2 k b⟩, m.1.1.1.2⟩, m.1.1.2⟩, m.1.2⟩, m.2⟩

theorem hostWrite_keeps {s0 s : State} (h : Keeps K s0 s) (addr : Nat) (bs : List Byte) [Free K .report] :
    Keeps K s0 (s.hostWrite addr bs) := by
  induction bs generalizing s addr with
  | nil => exact h
  | cons b bs ih => exact ih (hostMem_keeps h _ b) (addr + 1)

theorem hostWriteWords_keeps {s0 s : State} (h : Keeps K s0 s) (addr : Nat) (ws : List Word) [Free K .report] :
    Keeps K s0 (s.hostWriteWords addr ws) := by
  induction ws generalizing s addr with
  | nil => exact h
  | cons w ws ih => exact ih (hostWrite_keeps h _ _) (addr + 4)

theorem setVec_keeps {s0 s : State} (hk0 : Keeps K s0 s) (v : Nat) (x : Vec) [Free K .report] :
    Keeps K s0 (State.setVec s v x) := by
  unfold State.setVec
  refine keeps_mk ?_
  exact hk0

theorem setPba_keeps {s0 s : State} (hk0 : Keeps K s0 s) (v : Nat) (b : Bool) [Free K .regs] :
    Keeps K s0 (State.setPba s v b) := by
  unfold State.setPba
  apply setF_keeps
  exact hk0

theorem msixSend_keeps {s0 s : State} (hk0 : Keeps K s0 s) (v : Nat) [Free K .counters] [Free K .regs] [Free K .report] :
    Keeps K s0 (State.msixSend s v) := by
  unfold State.msixSend
  refine keeps_ite ?_ ?_
  · apply setVec_keeps
    apply setPba_keeps
    exact hk0
  · apply bump_keeps
    apply setVec_keeps
    apply setPba_keeps
    apply hostWrite_keeps
    exact hk0

theorem msixCause_keeps {s0 s : State} (hk0 : Keeps K s0 s) (v : Nat) [Free K .counters] [Free K .regs] [Free K .report] :
    Keeps K s0 (State.msixCause s v) := by
  unfold State.msixCause
  refine keeps_ite ?_ ?_
  · apply msixSend_keeps
    exact hk0
  · apply setVec_keeps
    exact hk0

theorem evtWrite_keeps {s0 s : State} (hk0 : Keeps K s0 s) (src level inst : Nat) (info : Word) (at' : Nat) [Free K .counters] [Free K .regs] [Free K .report] :
    Keeps K s0 (State.evtWrite s src level inst info at') := by
  unfold State.evtWrite
  extract_lets +onlyGivenNames pi_0
  clear_value pi_0
  extract_lets +onlyGivenNames base1
  clear_value base1
  extract_lets +onlyGivenNames s1_2
  refine keeps_cut (v := s1_2) ?_ fun hs1_2 => ?_
  · subst s1_2
    apply hostWriteWords_keeps
    exact hk0
  clear_value s1_2
  extract_lets +onlyGivenNames s2_3
  refine keeps_cut (v := s2_3) ?_ fun hs2_3 => ?_
  · subst s2_3
    apply setF_keeps
    exact hs1_2
  clear_value s2_3
  extract_lets +onlyGivenNames s3_4
  refine keeps_cut (v := s3_4) ?_ fun hs3_4 => ?_
  · subst s3_4
    refine keeps_ite ?_ ?_
    · refine keeps_mk ?_
      exact hs2_3
    · exact hs2_3
  clear_value s3_4
  extract_lets +onlyGivenNames s4_5
  refine keeps_cut (v := s4_5) ?_ fun hs4_5 => ?_
  · subst s4_5
    apply setFlag_keeps
    exact hs3_4
  clear_value s4_5
  apply msixCause_keeps
  exact hs4_5

theorem evtReportLost_keeps {s0 s : State} (hk0 : Keeps K s0 s) [Free K .counters] [Free K .regs] [Free K .report] :
    Keeps K s0 (State.evtReportLost s) := by
  unfold State.evtReportLost
  refine keeps_ite ?_ ?_
  · apply evtWrite_keeps
    apply addReg_keeps
    refine keeps_mk ?_
    exact hk0
  · exact hk0

theorem pcRaise_keeps {s0 s : State} (hk0 : Keeps K s0 s) (src : Nat) [Free K .counters] :
    Keeps K s0 (State.pcRaise s src) := by
  unfold State.pcRaise
  refine keeps_foldl _ ?_ ?_
  · exact hk0
  · intro y0 y1 hy2
    apply bumpIf_keeps
    exact hy2

theorem evtRing_keeps {s0 s : State} (hk0 : Keeps K s0 s) (src level inst info at' : Nat) [Free K .counters] [Free K .regs] [Free K .report] :
    Keeps K s0 (State.evtRing s src level inst info at') := by
  unfold State.evtRing
  refine keeps_ite ?_ ?_
  · extract_lets +onlyGivenNames s1_0
    refine keeps_cut (v := s1_0) ?_ fun hs1_0 => ?_
    · subst s1_0
      apply evtReportLost_keeps
      exact hk0
    clear_value s1_0
    refine keeps_ite ?_ ?_
    · apply evtWrite_keeps
      exact hs1_0
    · extract_lets +onlyGivenNames _1
      refine keeps_cut (v := _1) ?_ fun h_1 => ?_
      · subst _1
        apply addReg_keeps
        exact hs1_0
      clear_value _1
      refine keeps_mk ?_
      exact h_1
  · exact hk0

theorem modPwrReport_keeps {s0 s : State} (h : Keeps K s0 s) (g : PwrSt → PwrSt) (hg : ∀ p, (g p).core = p.core) [Free K .report] :
    Keeps K s0 (s.modPwr g) :=
  h.same rfl rfl rfl rfl rfl rfl rfl rfl rfl rfl rfl (by
    intro k hk
    cases k with
    | line y => cases y <;> rfl
    | _ => first | exact absurd hk Free.out | exact hg _ | rfl)

theorem evtMirror_keeps {s0 s : State} (h : Keeps K s0 s) (src level inst info : Nat) [Free K .report] :
    Keeps K s0 (s.evtMirror src level inst info) := by
  unfold State.evtMirror
  exact modPwrReport_keeps h _ fun _ => rfl

theorem raise_keeps {s0 s : State} (hk0 : Keeps K s0 s) (src : Nat) (level : Nat) (inst : Nat) (info : Nat) [Free K .counters] [Free K .regs] [Free K .report] :
    Keeps K s0 (State.raise s src level inst info) := by
  unfold State.raise
  extract_lets +onlyGivenNames s1_0
  refine keeps_cut (v := s1_0) ?_ fun hs1_0 => ?_
  · subst s1_0
    apply pcRaise_keeps
    apply addReg_keeps
    apply evtMirror_keeps
    exact hk0
  clear_value s1_0
  refine keeps_ite ?_ ?_
  · apply evtRing_keeps
    exact hs1_0
  · exact hs1_0

theorem evtRelease_keeps {s0 s : State} (h : Keeps K s0 s) [Free K .counters] [Free K .regs] [Free K .report] : Keeps K s0 s.evtRelease := by
  unfold State.evtRelease
  extract_lets s1
  have h1 : Keeps K s0 s1 :=
    keeps_foldl _ (modPwrReport_keeps h _ fun _ => rfl) fun _ _ k => evtRing_keeps k ..
  exact keeps_ite h1 (keeps_mk (addReg_keeps h1 ..))

theorem raiseIf_keeps {s0 s : State} (hk0 : Keeps K s0 s) (b : Bool) (src : Nat) (level : Nat) (inst : Nat) (info : Nat) [Free K .counters] [Free K .regs] [Free K .report] :
    Keeps K s0 (State.raiseIf s b src level inst info) := by
  unfold State.raiseIf
  refine keeps_ite ?_ ?_
  · apply raise_keeps
    exact hk0
  · exact hk0

theorem raiseLim_keeps {s0 s : State} (hk0 : Keeps K s0 s) (gap key src : Nat) (level : Nat) (inst : Nat) (info : Nat) [Free K .counters] [Free K .regs] [Free K .report] :
    Keeps K s0 (State.raiseLim s gap key src level inst info) := by
  unfold State.raiseLim
  extract_lets +onlyGivenNames last0
  clear_value last0
  refine keeps_ite ?_ ?_
  · exact hk0
  · apply raise_keeps
    refine keeps_mk ?_
    exact hk0

theorem aerLog_keeps {s0 s : State} (hk0 : Keeps K s0 s) (bits : Nat) [Free K .counters] [Free K .link] [Free K .regs] [Free K .report] :
    Keeps K s0 (State.aerLog s bits) := by
  unfold State.aerLog
  apply raiseLim_keeps
  refine keeps_mk ?_
  exact hk0

theorem setThread_keeps {s0 s : State} (hk0 : Keeps K s0 s) (k : Nat) (x : Thread) [Free K .regs] [Free K .threads] :
    Keeps K s0 (State.setThread s k x) := by
  unfold State.setThread
  extract_lets +onlyGivenNames s1_0
  refine keeps_cut (v := s1_0) ?_ fun hs1_0 => ?_
  · subst s1_0
    refine keeps_mk ?_
    exact hk0
  clear_value s1_0
  apply setF_keeps
  exact hs1_0

theorem resTake_keeps {s0 s : State} (hk0 : Keeps K s0 s) (q : Req) (i feature : Nat) [Free K .regs] :
    Keeps K s0 (State.resTake s q i feature) := by
  unfold State.resTake
  apply setReg_keeps
  apply setReg_keeps
  exact hk0

theorem resConflict_keeps {s0 s : State} (hk0 : Keeps K s0 s) (q : Req) (i : Nat) [Free K .counters] [Free K .regs] [Free K .report] :
    Keeps K s0 (State.resConflict s q i) := by
  unfold State.resConflict
  apply raise_keeps
  apply setReg_keeps
  exact hk0

theorem resRelease_keeps {s0 s : State} (hk0 : Keeps K s0 s) (i : Nat) [Free K .regs] :
    Keeps K s0 (State.resRelease s i) := by
  unfold State.resRelease
  apply setReg_keeps
  exact hk0

theorem setPad_keeps {s0 s : State} (hk0 : Keeps K s0 s) (h : Nat) (o : PadObj) [Free K .paddock] :
    Keeps K s0 (State.setPad s h o) := by
  unfold State.setPad
  refine keeps_mk ?_
  exact hk0

theorem padTake_keeps {s0 s : State} (hk0 : Keeps K s0 s) (n : Nat) [Free K .regs] :
    Keeps K s0 (State.padTake s n) := by
  unfold State.padTake
  apply setF_keeps
  exact hk0

theorem padGive_keeps {s0 s : State} (hk0 : Keeps K s0 s) (n : Nat) [Free K .memories] [Free K .regs] :
    Keeps K s0 (State.padGive s n) := by
  unfold State.padGive
  refine keeps_ite ?_ ?_
  · apply setF_keeps
    exact hk0
  · apply modMem_keeps
    apply setF_keeps
    exact hk0

theorem padRef_keeps {s0 s : State} (hk0 : Keeps K s0 s) (h : Nat) [Free K .paddock] :
    Keeps K s0 (State.padRef s h) := by
  unfold State.padRef
  apply setPad_keeps
  exact hk0

theorem padUnref_keeps {s0 s : State} (hk0 : Keeps K s0 s) (h : Nat) [Free K .memories] [Free K .paddock] [Free K .regs] :
    Keeps K s0 (State.padUnref s h) := by
  unfold State.padUnref
  refine keeps_ite ?_ ?_
  · apply setPad_keeps
    apply padGive_keeps
    exact hk0
  · apply setPad_keeps
    exact hk0

theorem padDrop_keeps {s0 s : State} (hk0 : Keeps K s0 s) (x : Frame) [Free K .memories] [Free K .paddock] [Free K .regs] :
    Keeps K s0 (State.padDrop s x) := by
  unfold State.padDrop
  refine keeps_ite ?_ ?_
  · exact hk0
  · apply padUnref_keeps
    apply padGive_keeps
    exact hk0

theorem padStore_keeps {s0 s : State} (hk0 : Keeps K s0 s) (x : Frame) [Free K .paddock] [Free K .regs] :
    Keeps K s0 (State.padStore s x).2 := by
  unfold State.padStore
  extract_lets +onlyGivenNames n_0
  clear_value n_0
  refine keeps_pair ?_
  apply setPad_keeps
  apply padTake_keeps
  refine keeps_mk ?_
  exact hk0

theorem ddrRd_keeps {s0 s : State} (hk0 : Keeps K s0 s) (n : Nat) [Free K .counters] :
    Keeps K s0 (State.ddrRd s n) := by
  unfold State.ddrRd
  apply bump_keeps
  exact hk0

theorem ddrWr_keeps {s0 s : State} (hk0 : Keeps K s0 s) (n : Nat) [Free K .counters] :
    Keeps K s0 (State.ddrWr s n) := by
  unfold State.ddrWr
  apply bump_keeps
  exact hk0

theorem memLog_keeps {s0 s : State} (hk0 : Keeps K s0 s) (i addr : Nat) (chip : Bool) (cls req synd : Nat) [Free K .regs] :
    Keeps K s0 (State.memLog s i addr chip cls req synd) := by
  unfold State.memLog
  apply setReg_keeps
  apply setReg_keeps
  apply setReg_keeps
  exact hk0

theorem memUe_keeps {s0 s : State} (hk0 : Keeps K s0 s) (chip : Bool) (unit word addr cls req synd : Nat) [Free K .counters] [Free K .regs] [Free K .report] :
    Keeps K s0 (State.memUe s chip unit word addr cls req synd) := by
  unfold State.memUe
  extract_lets +onlyGivenNames s1_0
  refine keeps_cut (v := s1_0) ?_ fun hs1_0 => ?_
  · subst s1_0
    refine keeps_ite ?_ ?_
    · apply raise_keeps
      apply bump_keeps
      exact hk0
    · apply raise_keeps
      apply bump_keeps
      exact hk0
  clear_value s1_0
  refine keeps_ite ?_ ?_
  · apply setFlag_keeps
    exact hs1_0
  · apply memLog_keeps
    exact hs1_0

theorem memCe_keeps {s0 s : State} (hk0 : Keeps K s0 s) (chip : Bool) (unit word addr cls req synd : Nat) [Free K .counters] [Free K .regs] [Free K .report] :
    Keeps K s0 (State.memCe s chip unit word addr cls req synd) := by
  unfold State.memCe
  extract_lets +onlyGivenNames s1_0
  refine keeps_cut (v := s1_0) ?_ fun hs1_0 => ?_
  · subst s1_0
    apply bump_keeps
    exact hk0
  clear_value s1_0
  extract_lets +onlyGivenNames s2_1
  refine keeps_cut (v := s2_1) ?_ fun hs2_1 => ?_
  · subst s2_1
    apply memLog_keeps
    exact hs1_0
  clear_value s2_1
  refine keeps_ite ?_ ?_
  · apply raiseLim_keeps
    exact hs2_1
  · apply raiseLim_keeps
    exact hs2_1

theorem memUeChip_keeps {s0 s : State} (hk0 : Keeps K s0 s) (unit cls req : Nat) [Free K .counters] [Free K .free] [Free K .regs] [Free K .report] :
    Keeps K s0 (State.memUeChip s unit cls req) := by
  unfold State.memUeChip
  extract_lets +onlyGivenNames w_0
  refine keeps_cut (v := w_0.2) ?_ fun hw_0 => ?_
  · subst w_0
    apply takeFree_keeps
    exact hk0
  clear_value w_0
  extract_lets +onlyGivenNames y_1
  refine keeps_cut (v := y_1.2) ?_ fun hy_1 => ?_
  · subst y_1
    apply takeFree_keeps
    exact hw_0
  clear_value y_1
  apply memUe_keeps
  exact hy_1

theorem memCeChip_keeps {s0 s : State} (hk0 : Keeps K s0 s) (unit cls req : Nat) [Free K .counters] [Free K .free] [Free K .regs] [Free K .report] :
    Keeps K s0 (State.memCeChip s unit cls req) := by
  unfold State.memCeChip
  extract_lets +onlyGivenNames w_0
  refine keeps_cut (v := w_0.2) ?_ fun hw_0 => ?_
  · subst w_0
    apply takeFree_keeps
    exact hk0
  clear_value w_0
  extract_lets +onlyGivenNames y_1
  refine keeps_cut (v := y_1.2) ?_ fun hy_1 => ?_
  · subst y_1
    apply takeFree_keeps
    exact hw_0
  clear_value y_1
  apply memCe_keeps
  exact hy_1

theorem padRead_keeps {s0 s : State} (hk0 : Keeps K s0 s) (f : Frame) (ue : Bool) [Free K .counters] [Free K .free] [Free K .regs] [Free K .report] :
    Keeps K s0 (State.padRead s f ue).2 := by
  unfold State.padRead
  extract_lets +onlyGivenNames g_0
  refine keeps_cut (v := g_0.2) ?_ fun hg_0 => ?_
  · subst g_0
    apply takeFree_keeps
    exact hk0
  clear_value g_0
  refine keeps_ite2 ?_ ?_
  · refine keeps_pair ?_
    apply bump_keeps
    apply memUeChip_keeps
    exact hg_0
  · refine keeps_pair ?_
    refine keeps_ite ?_ ?_
    · apply memCeChip_keeps
      exact hg_0
    · exact hk0

theorem flipUsed_keeps {s0 s : State} (hk0 : Keeps K s0 s) [Free K .regs] :
    Keeps K s0 (State.flipUsed s) := by
  unfold State.flipUsed
  apply setFlag_keeps
  exact hk0

theorem flipChip_keeps {s0 s : State} (hk0 : Keeps K s0 s) (g : Nat) [Free K .regs] :
    Keeps K s0 (State.flipChip s g) := by
  unfold State.flipChip
  refine keeps_ite ?_ ?_
  · apply flipUsed_keeps
    exact hk0
  · exact hk0

theorem setXing_keeps {s0 s : State} (hk0 : Keeps K s0 s) (i : Nat) (x : Xing) [Free K .regs] [Free K .xings] :
    Keeps K s0 (State.setXing s i x) := by
  unfold State.setXing
  apply setF_keeps
  refine keeps_mk ?_
  exact hk0

theorem xPush_keeps {s0 s : State} (hk0 : Keeps K s0 s) (i : Nat) (x : Frame) [Free K .regs] [Free K .xings] :
    Keeps K s0 (State.xPush s i x) := by
  unfold State.xPush
  refine keeps_ite ?_ ?_
  · apply setXing_keeps
    exact hk0
  · apply setXing_keeps
    exact hk0

theorem xDiscard_keeps {s0 s : State} (hk0 : Keeps K s0 s) (i : Nat) [Free K .memories] [Free K .paddock] [Free K .regs] [Free K .xings] :
    Keeps K s0 (State.xDiscard s i).2 := by
  unfold State.xDiscard
  extract_lets +onlyGivenNames n_0
  clear_value n_0
  extract_lets +onlyGivenNames x_1
  clear_value x_1
  extract_lets +onlyGivenNames s1_2
  refine keeps_cut (v := s1_2) ?_ fun hs1_2 => ?_
  · subst s1_2
    refine keeps_foldl _ ?_ ?_
    · exact hk0
    · intro y3 y4 hy5
      apply padDrop_keeps
      exact hy5
  clear_value s1_2
  refine keeps_pair ?_
  apply addReg_keeps
  apply setXing_keeps
  exact hs1_2

theorem xCut_keeps {s0 s : State} (hk0 : Keeps K s0 s) (i : Nat) [Free K .circuits] :
    Keeps K s0 (State.xCut s i) := by
  unfold State.xCut
  extract_lets +onlyGivenNames cut_0
  clear_value cut_0
  refine keeps_ite ?_ ?_
  · refine keeps_mk ?_
    exact hk0
  · refine keeps_ite ?_ ?_
    · refine keeps_mk ?_
      exact hk0
    · exact hk0

theorem xReset_keeps {s0 s : State} (hk0 : Keeps K s0 s) (i : Nat) (writer : Bool) [Free K .circuits] [Free K .counters] [Free K .memories] [Free K .paddock] [Free K .regs] [Free K .report] [Free K .xings] :
    Keeps K s0 (State.xReset s i writer) := by
  unfold State.xReset
  extract_lets +onlyGivenNames s_0
  refine keeps_cut (v := s_0) ?_ fun hs_0 => ?_
  · subst s_0
    apply xCut_keeps
    exact hk0
  clear_value s_0
  extract_lets +onlyGivenNames s1_1
  refine keeps_cut (v := s1_1) ?_ fun hs1_1 => ?_
  · subst s1_1
    apply setFlag_keeps
    exact hs_0
  clear_value s1_1
  refine keeps_ite ?_ ?_
  · exact hs1_1
  · apply raiseIf_keeps
    apply xDiscard_keeps
    exact hs1_1

theorem xLeave_keeps {s0 s : State} (hk0 : Keeps K s0 s) (i : Nat) (writer : Bool) [Free K .regs] [Free K .xings] :
    Keeps K s0 (State.xLeave s i writer) := by
  unfold State.xLeave
  extract_lets +onlyGivenNames fl_0
  clear_value fl_0
  extract_lets +onlyGivenNames was_1
  clear_value was_1
  extract_lets +onlyGivenNames s1_2
  refine keeps_cut (v := s1_2) ?_ fun hs1_2 => ?_
  · subst s1_2
    apply setFlag_keeps
    exact hk0
  clear_value s1_2
  extract_lets +onlyGivenNames x_3
  clear_value x_3
  refine keeps_ite ?_ ?_
  · apply setFlag_keeps
    apply setXing_keeps
    exact hs1_2
  · exact hs1_2

theorem xSynced_keeps {s0 s : State} (hk0 : Keeps K s0 s) (i : Nat) [Free K .regs] [Free K .xings] :
    Keeps K s0 (State.xSynced s i) := by
  unfold State.xSynced
  apply setFlag_keeps
  apply setXing_keeps
  exact hk0

theorem xRegionReset_keeps {s0 s : State} (hk0 : Keeps K s0 s) (r : Nat) [Free K .circuits] [Free K .counters] [Free K .memories] [Free K .paddock] [Free K .regs] [Free K .report] [Free K .xings] :
    Keeps K s0 (State.xRegionReset s r) := by
  unfold State.xRegionReset
  refine keeps_foldl _ ?_ ?_
  · exact hk0
  · intro y0 y1 hy2
    extract_lets +onlyGivenNames s1_3
    refine keeps_cut (v := s1_3) ?_ fun hs1_3 => ?_
    · subst s1_3
      refine keeps_ite ?_ ?_
      · apply xReset_keeps
        exact hy2
      · exact hy2
    clear_value s1_3
    refine keeps_ite ?_ ?_
    · apply xReset_keeps
      exact hs1_3
    · exact hs1_3

theorem xRegionLeave_keeps {s0 s : State} (hk0 : Keeps K s0 s) (r : Nat) [Free K .regs] [Free K .xings] :
    Keeps K s0 (State.xRegionLeave s r) := by
  unfold State.xRegionLeave
  refine keeps_foldl _ ?_ ?_
  · exact hk0
  · intro y0 y1 hy2
    extract_lets +onlyGivenNames s1_3
    refine keeps_cut (v := s1_3) ?_ fun hs1_3 => ?_
    · subst s1_3
      refine keeps_ite ?_ ?_
      · apply xLeave_keeps
        exact hy2
      · exact hy2
    clear_value s1_3
    refine keeps_ite ?_ ?_
    · apply xLeave_keeps
      exact hs1_3
    · exact hs1_3

theorem reportUnavailable_keeps {s0 s : State} (hk0 : Keeps K s0 s) (q : Req) (a : Nat) (write : Bool) (cause : Nat) [Free K .counters] [Free K .regs] [Free K .report] :
    Keeps K s0 (State.reportUnavailable s q a write cause) := by
  unfold State.reportUnavailable
  apply raise_keeps
  apply bump_keeps
  exact hk0

theorem guardW_keeps {s0 s : State} (h : Keeps K s0 s) (q : Req) (a : Nat) (k : State → State)
    (hk : ∀ t, Keeps K s0 t → Keeps K s0 (k t)) [Free K .counters] [Free K .regs] [Free K .report] : Keeps K s0 (s.guardW q a k) := by
  unfold State.guardW
  refine keeps_ite h ?_
  split
  · exact reportUnavailable_keeps h q a true _
  · exact hk s h

theorem guardHostW_keeps {s0 s : State} (h : Keeps K s0 s) (q : Req) (a : Nat) (k : State → State)
    (hk : ∀ t, Keeps K s0 t → Keeps K s0 (k t)) [Free K .counters] [Free K .regs] [Free K .report] : Keeps K s0 (s.guardHostW q a k) :=
  guardW_keeps h q a _ fun t ht => keeps_ite (hk t ht) ht

end Sys2Proof.Machine
end

