-- ==== Sys2Proof/Laws/KeepsClassifier.lean ====
section
/-! SUPPORT. What the operations of Machine/Classifier.lean keep. -/

-- One proof at a time: in the package as one text, proofs that wait for each other would each hold a thread.
set_option Elab.async false

namespace Sys2Proof.Machine

variable {K : Comp → Prop}

theorem setTc_keeps {s0 s : State} (hk0 : Keeps K s0 s) (copy i : Nat) (e : TcEntry) [Free K .classifier] :
    Keeps K s0 (State.setTc s copy i e) := by
  unfold State.setTc
  refine keeps_mk ?_
  exact hk0

theorem setEm_keeps {s0 s : State} (hk0 : Keeps K s0 s) (copy i : Nat) (e : EmEntry) [Free K .classifier] :
    Keeps K s0 (State.setEm s copy i e) := by
  unfold State.setEm
  refine keeps_mk ?_
  exact hk0

theorem clsUnc_keeps {s0 s : State} (hk0 : Keeps K s0 s) (exact : Bool) (copy i : Nat) [Free K .classifier] [Free K .counters] [Free K .free] [Free K .regs] [Free K .report] :
    Keeps K s0 (State.clsUnc s exact copy i) := by
  unfold State.clsUnc
  extract_lets +onlyGivenNames s1_0
  clear_value s1_0
  extract_lets +onlyGivenNames s1_1
  clear_value s1_1
  extract_lets +onlyGivenNames s1_2
  refine keeps_cut (v := s1_2) ?_ fun hs1_2 => ?_
  · subst s1_2
    refine keeps_ite ?_ ?_
    · apply setEm_keeps
      exact hk0
    · apply setTc_keeps
      exact hk0
  clear_value s1_2
  extract_lets +onlyGivenNames c_3
  refine keeps_cut (v := c_3.2) ?_ fun hc_3 => ?_
  · subst c_3
    apply takeFree_keeps
    exact hs1_2
  clear_value c_3
  apply raise_keeps
  apply memUeChip_keeps
  exact hc_3

theorem clsUncs_keeps {s0 s : State} (h : Keeps K s0 s) (exact' : Bool) (copy : Nat) (l : List Nat) [Free K .classifier] [Free K .counters] [Free K .free] [Free K .regs] [Free K .report] :
    Keeps K s0 (s.clsUncs exact' copy l) := by
  induction l generalizing s with
  | nil => exact h
  | cons i is ih => exact ih (clsUnc_keeps h ..)

theorem clsDup_keeps {s0 s : State} (h : Keeps K s0 s) (l : List (Nat × EmEntry)) [Free K .classifier] [Free K .counters] [Free K .regs] [Free K .report] : Keeps K s0 (s.clsDup l) := by
  unfold State.clsDup
  split
  · refine keeps_ite h ?_
    apply raise_keeps
    refine keeps_mk ?_
    exact h
  · exact h

theorem lookup_keeps {s0 s : State} (hk0 : Keeps K s0 s) (k : BitVec 320) (v src force : Nat) (unc : List (Nat × Bool)) [Free K .classifier] [Free K .counters] [Free K .free] [Free K .regs] [Free K .report] :
    Keeps K s0 (State.lookup s k v src force unc).2 := by
  unfold State.lookup
  extract_lets +onlyGivenNames tcSkip0
  clear_value tcSkip0
  extract_lets +onlyGivenNames emSkip1
  clear_value emSkip1
  extract_lets +onlyGivenNames tcOn2
  clear_value tcOn2
  extract_lets +onlyGivenNames w_3
  clear_value w_3
  extract_lets +onlyGivenNames s1_4
  refine keeps_cut (v := s1_4) ?_ fun hs1_4 => ?_
  · subst s1_4
    refine keeps_ite ?_ ?_
    · apply clsUncs_keeps
      exact hk0
    · exact hk0
  clear_value s1_4
  extract_lets +onlyGivenNames t_5
  clear_value t_5
  extract_lets +onlyGivenNames s2_6
  refine keeps_cut (v := s2_6) ?_ fun hs2_6 => ?_
  · subst s2_6
    refine keeps_ite ?_ ?_
    · apply bump_keeps
      exact hs1_4
    · apply bump_keeps
      exact hs1_4
  clear_value s2_6
  extract_lets +onlyGivenNames p_7
  clear_value p_7
  extract_lets +onlyGivenNames doEm8
  clear_value doEm8
  extract_lets +onlyGivenNames hits9
  clear_value hits9
  extract_lets +onlyGivenNames s3_10
  refine keeps_cut (v := s3_10) ?_ fun hs3_10 => ?_
  · subst s3_10
    refine keeps_ite ?_ ?_
    · apply bumpIf_keeps
      apply bump_keeps
      exact hs2_6
    · exact hs2_6
  clear_value s3_10
  extract_lets +onlyGivenNames s4_11
  refine keeps_cut (v := s4_11) ?_ fun hs4_11 => ?_
  · subst s4_11
    apply clsDup_keeps
    exact hs3_10
  clear_value s4_11
  extract_lets +onlyGivenNames s5_12
  refine keeps_cut (v := s5_12) ?_ fun hs5_12 => ?_
  · subst s5_12
    refine keeps_ite ?_ ?_
    · apply clsUncs_keeps
      exact hs4_11
    · exact hs4_11
  clear_value s5_12
  extract_lets +onlyGivenNames met_13
  clear_value met_13
  extract_lets +onlyGivenNames s5_14
  refine keeps_cut (v := s5_14) ?_ fun hs5_14 => ?_
  · subst s5_14
    apply bumpIf_keeps
    exact hs5_12
  clear_value s5_14
  extract_lets +onlyGivenNames ea_15
  clear_value ea_15
  extract_lets +onlyGivenNames effEm16
  clear_value effEm16
  refine keeps_pair ?_
  exact hs5_14

theorem verHold_keeps {s0 s : State} (hk0 : Keeps K s0 s) [Free K .regs] :
    Keeps K s0 (State.verHold s) := by
  unfold State.verHold
  apply satF_keeps
  exact hk0

theorem verRelease_keeps {s0 s : State} (hk0 : Keeps K s0 s) (x : Frame) [Free K .regs] :
    Keeps K s0 (State.verRelease s x) := by
  unfold State.verRelease
  split
  · exact hk0
  · refine keeps_ite ?_ ?_
    · apply setF_keeps
      exact hk0
    · refine keeps_ite ?_ ?_
      · apply setF_keeps
        exact hk0
      · exact hk0

theorem verDrain_keeps {s0 s : State} (hk0 : Keeps K s0 s) [Free K .counters] [Free K .regs] [Free K .report] :
    Keeps K s0 (State.verDrain s) := by
  unfold State.verDrain
  extract_lets +onlyGivenNames old_0
  clear_value old_0
  apply raise_keeps
  apply setFlag_keeps
  apply setFlag_keeps
  exact hk0

theorem verResult_keeps {s0 s : State} (hk0 : Keeps K s0 s) (q : Req) (r : Nat) [Free K .regs] :
    Keeps K s0 (State.verResult s q r) := by
  unfold State.verResult
  apply setReg_keeps
  exact hk0

theorem commitRefused_keeps {s0 s : State} (hk0 : Keeps K s0 s) (q : Req) (owner : Bool) [Free K .counters] [Free K .regs] [Free K .report] :
    Keeps K s0 (State.commitRefused s q owner) := by
  unfold State.commitRefused
  apply raise_keeps
  exact hk0

theorem commit_keeps {s0 s : State} (hk0 : Keeps K s0 s) (q : Req) [Free K .classifier] [Free K .counters] [Free K .regs] [Free K .report] :
    Keeps K s0 (State.commit s q) := by
  unfold State.commit
  refine keeps_ite ?_ ?_
  · apply commitRefused_keeps
    apply verResult_keeps
    exact hk0
  · refine keeps_ite ?_ ?_
    · apply commitRefused_keeps
      apply verResult_keeps
      exact hk0
    · extract_lets +onlyGivenNames cur_0
      clear_value cur_0
      extract_lets +onlyGivenNames n_1
      clear_value n_1
      extract_lets +onlyGivenNames s1_2
      refine keeps_cut (v := s1_2) ?_ fun hs1_2 => ?_
      · subst s1_2
        apply setFlag_keeps
        apply setFlag_keeps
        apply setF_keeps
        apply setF_keeps
        apply verResult_keeps
        exact hk0
      clear_value s1_2
      extract_lets +onlyGivenNames s2_3
      refine keeps_cut (v := s2_3) ?_ fun hs2_3 => ?_
      · subst s2_3
        apply setF_keeps
        apply setF_keeps
        exact hs1_2
      clear_value s2_3
      extract_lets +onlyGivenNames s3_4
      refine keeps_cut (v := s3_4) ?_ fun hs3_4 => ?_
      · subst s3_4
        apply raise_keeps
        refine keeps_mk ?_
        exact hs2_3
      clear_value s3_4
      refine keeps_ite ?_ ?_
      · apply verDrain_keeps
        exact hs3_4
      · exact hs3_4

theorem stageCopy_keeps {s0 s : State} (hk0 : Keeps K s0 s) [Free K .classifier] :
    Keeps K s0 (State.stageCopy s) := by
  unfold State.stageCopy
  extract_lets +onlyGivenNames c_0
  clear_value c_0
  extract_lets +onlyGivenNames tc_1
  clear_value tc_1
  extract_lets +onlyGivenNames em_2
  clear_value em_2
  refine keeps_mk ?_
  exact hk0

theorem stageKey_keeps {s0 s : State} (hk0 : Keeps K s0 s) (q : Req) (base : Nat) (k : BitVec 320) [Free K .regs] :
    Keeps K s0 (State.stageKey s q base k) := by
  unfold State.stageKey
  refine keeps_foldl _ ?_ ?_
  · exact hk0
  · intro y0 y1 hy2
    apply setReg_keeps
    exact hy2

theorem clsDone_keeps {s0 s : State} (hk0 : Keeps K s0 s) (q : Req) (op res : Nat) [Free K .counters] [Free K .regs] [Free K .report] :
    Keeps K s0 (State.clsDone s q op res) := by
  unfold State.clsDone
  extract_lets +onlyGivenNames w_0
  clear_value w_0
  extract_lets +onlyGivenNames w_1
  clear_value w_1
  extract_lets +onlyGivenNames s1_2
  refine keeps_cut (v := s1_2) ?_ fun hs1_2 => ?_
  · subst s1_2
    apply setReg_keeps
    exact hk0
  clear_value s1_2
  apply raiseIf_keeps
  exact hs1_2

theorem clsTakeCmd_keeps {s0 s : State} (h : Keeps K s0 s) (q : Req) (f : State → State)
    (hf : ∀ t, Keeps K s0 t → Keeps K s0 (f t)) [Free K .regs] : Keeps K s0 (s.clsTakeCmd q f) := by
  unfold State.clsTakeCmd
  exact keeps_ite (setReg_keeps h ..) (keeps_ite (setReg_keeps h ..) (hf s h))

theorem tabFlip_keeps {s0 s : State} (hk0 : Keeps K s0 s) (exact : Bool) [Free K .regs] :
    Keeps K s0 (State.tabFlip s exact) := by
  unfold State.tabFlip
  apply flipChip_keeps
  exact hk0

theorem clsWriteOp_keeps {s0 s : State} (hk0 : Keeps K s0 s) (q : Req) (exact copy : Bool) (prof index : Nat) [Free K .classifier] [Free K .counters] [Free K .regs] [Free K .report] :
    Keeps K s0 (State.clsWriteOp s q exact copy prof index) := by
  unfold State.clsWriteOp
  split
  · extract_lets +onlyGivenNames c_0
    clear_value c_0
    extract_lets +onlyGivenNames s1_1
    refine keeps_cut (v := s1_1) ?_ fun hs1_1 => ?_
    · subst s1_1
      refine keeps_ite ?_ ?_
      · apply setEm_keeps
        exact hk0
      · apply setTc_keeps
        exact hk0
    clear_value s1_1
    apply clsDone_keeps
    apply tabFlip_keeps
    exact hs1_1
  · apply clsDone_keeps
    exact hk0

theorem clsSetvalidOp_keeps {s0 s : State} (hk0 : Keeps K s0 s) (q : Req) (exact copy : Bool) (index : Nat) [Free K .classifier] [Free K .counters] [Free K .regs] [Free K .report] :
    Keeps K s0 (State.clsSetvalidOp s q exact copy index) := by
  unfold State.clsSetvalidOp
  split
  · extract_lets +onlyGivenNames c_0
    clear_value c_0
    refine keeps_ite ?_ ?_
    · extract_lets +onlyGivenNames e_1
      clear_value e_1
      extract_lets +onlyGivenNames b_2
      clear_value b_2
      refine keeps_ite ?_ ?_
      · apply clsDone_keeps
        exact hk0
      · refine keeps_ite ?_ ?_
        · apply clsDone_keeps
          exact hk0
        · refine keeps_ite ?_ ?_
          · apply clsDone_keeps
            exact hk0
          · apply clsDone_keeps
            apply tabFlip_keeps
            apply setEm_keeps
            exact hk0
    · apply clsDone_keeps
      apply tabFlip_keeps
      apply setTc_keeps
      exact hk0
  · apply clsDone_keeps
    exact hk0

theorem clsClearvalidOp_keeps {s0 s : State} (hk0 : Keeps K s0 s) (q : Req) (exact copy : Bool) (index : Nat) [Free K .classifier] [Free K .counters] [Free K .regs] [Free K .report] :
    Keeps K s0 (State.clsClearvalidOp s q exact copy index) := by
  unfold State.clsClearvalidOp
  split
  · extract_lets +onlyGivenNames c_0
    clear_value c_0
    apply clsDone_keeps
    apply tabFlip_keeps
    refine keeps_ite ?_ ?_
    · apply setEm_keeps
      exact hk0
    · apply setTc_keeps
      exact hk0
  · apply clsDone_keeps
    exact hk0

theorem clsReadOp_keeps {s0 s : State} (hk0 : Keeps K s0 s) (q : Req) (exact copy : Bool) (index : Nat) [Free K .counters] [Free K .regs] [Free K .report] :
    Keeps K s0 (State.clsReadOp s q exact copy index) := by
  unfold State.clsReadOp
  refine keeps_ite ?_ ?_
  · apply clsDone_keeps
    exact hk0
  · refine keeps_ite ?_ ?_
    · apply clsDone_keeps
      exact hk0
    · extract_lets +onlyGivenNames c_0
      clear_value c_0
      extract_lets +onlyGivenNames e_1
      clear_value e_1
      extract_lets +onlyGivenNames t_2
      clear_value t_2
      extract_lets +onlyGivenNames act_3
      clear_value act_3
      extract_lets +onlyGivenNames hits4
      clear_value hits4
      extract_lets +onlyGivenNames valid5
      clear_value valid5
      extract_lets +onlyGivenNames prof6
      clear_value prof6
      extract_lets +onlyGivenNames s1_7
      refine keeps_cut (v := s1_7) ?_ fun hs1_7 => ?_
      · subst s1_7
        apply stageKey_keeps
        exact hk0
      clear_value s1_7
      extract_lets +onlyGivenNames s2_8
      refine keeps_cut (v := s2_8) ?_ fun hs2_8 => ?_
      · subst s2_8
        refine keeps_ite ?_ ?_
        · exact hs1_7
        · apply stageKey_keeps
          exact hs1_7
      clear_value s2_8
      extract_lets +onlyGivenNames s3_9
      refine keeps_cut (v := s3_9) ?_ fun hs3_9 => ?_
      · subst s3_9
        apply setReg_keeps
        apply setReg_keeps
        exact hs2_8
      clear_value s3_9
      extract_lets +onlyGivenNames s4_10
      refine keeps_cut (v := s4_10) ?_ fun hs4_10 => ?_
      · subst s4_10
        apply setReg_keeps
        apply setReg_keeps
        exact hs3_9
      clear_value s4_10
      extract_lets +onlyGivenNames w_11
      clear_value w_11
      extract_lets +onlyGivenNames w_12
      clear_value w_12
      apply clsDone_keeps
      apply setReg_keeps
      exact hs4_10

theorem clsHashOp_keeps {s0 s : State} (hk0 : Keeps K s0 s) (q : Req) (prof : Nat) [Free K .counters] [Free K .regs] [Free K .report] :
    Keeps K s0 (State.clsHashOp s q prof) := by
  unfold State.clsHashOp
  refine keeps_ite ?_ ?_
  · apply clsDone_keeps
    exact hk0
  · extract_lets +onlyGivenNames b_0
    clear_value b_0
    apply clsDone_keeps
    apply setReg_keeps
    exact hk0

theorem clsCfgWrite_keeps {s0 s : State} (hk0 : Keeps K s0 s) (q : Req) (v : Word) [Free K .classifier] [Free K .regs] :
    Keeps K s0 (State.clsCfgWrite s q v) := by
  unfold State.clsCfgWrite
  extract_lets +onlyGivenNames owner0
  clear_value owner0
  extract_lets +onlyGivenNames tcm_1
  clear_value tcm_1
  extract_lets +onlyGivenNames emm_2
  clear_value emm_2
  extract_lets +onlyGivenNames s1_3
  refine keeps_cut (v := s1_3) ?_ fun hs1_3 => ?_
  · subst s1_3
    refine keeps_ite ?_ ?_
    · refine keeps_mk ?_
      exact hk0
    · exact hk0
  clear_value s1_3
  extract_lets +onlyGivenNames s2_4
  refine keeps_cut (v := s2_4) ?_ fun hs2_4 => ?_
  · subst s2_4
    refine keeps_ite ?_ ?_
    · refine keeps_mk ?_
      exact hs1_3
    · exact hs1_3
  clear_value s2_4
  apply setF_keeps
  apply setF_keeps
  apply setF_keeps
  apply setF_keeps
  apply setF_keeps
  apply setF_keeps
  exact hs2_4

theorem clsCommand_keeps {s0 s : State} (hk0 : Keeps K s0 s) (q : Req) (v : Word) [Free K .classifier] [Free K .counters] [Free K .regs] [Free K .report] :
    Keeps K s0 (State.clsCommand s q v) := by
  unfold State.clsCommand
  extract_lets +onlyGivenNames n_0
  clear_value n_0
  extract_lets +onlyGivenNames exact1
  clear_value exact1
  extract_lets +onlyGivenNames copy2
  clear_value copy2
  extract_lets +onlyGivenNames prof3
  clear_value prof3
  extract_lets +onlyGivenNames index4
  clear_value index4
  apply clsTakeCmd_keeps
  · exact hk0
  · intro y5 hy6
    split
    · apply clsWriteOp_keeps
      exact hy6
    · apply clsSetvalidOp_keeps
      exact hy6
    · apply clsClearvalidOp_keeps
      exact hy6
    · apply clsReadOp_keeps
      exact hy6
    · apply clsHashOp_keeps
      exact hy6
    · apply clsDone_keeps
      exact hy6

theorem execClsWrite_keeps (q : Req) (exact copy : Bool) (prof : Fin 8) (index : Fin 262144) (s : State) :
    Answers [.classifier, .counters, .regs, .report] s (execClsWrite q exact copy prof index s) := by
  refine answers_of fun K n => ⟨_, rfl, ?_⟩
  have i0 : Free K .classifier := n _ (by simp)
  have i1 : Free K .counters := n _ (by simp)
  have i2 : Free K .regs := n _ (by simp)
  have i3 : Free K .report := n _ (by simp)
  have hk0 := Keeps.refl (K := K) s
  apply guardW_keeps
  · exact hk0
  · intro y0 hy1
    apply clsTakeCmd_keeps
    · exact hy1
    · intro y2 hy3
      apply clsWriteOp_keeps
      exact hy3

theorem execClsSetvalid_keeps (q : Req) (exact copy : Bool) (index : Fin 262144) (s : State) :
    Answers [.classifier, .counters, .regs, .report] s (execClsSetvalid q exact copy index s) := by
  refine answers_of fun K n => ⟨_, rfl, ?_⟩
  have i0 : Free K .classifier := n _ (by simp)
  have i1 : Free K .counters := n _ (by simp)
  have i2 : Free K .regs := n _ (by simp)
  have i3 : Free K .report := n _ (by simp)
  have hk0 := Keeps.refl (K := K) s
  apply guardW_keeps
  · exact hk0
  · intro y0 hy1
    apply clsTakeCmd_keeps
    · exact hy1
    · intro y2 hy3
      apply clsSetvalidOp_keeps
      exact hy3

theorem execClsClearvalid_keeps (q : Req) (exact copy : Bool) (index : Fin 262144) (s : State) :
    Answers [.classifier, .counters, .regs, .report] s (execClsClearvalid q exact copy index s) := by
  refine answers_of fun K n => ⟨_, rfl, ?_⟩
  have i0 : Free K .classifier := n _ (by simp)
  have i1 : Free K .counters := n _ (by simp)
  have i2 : Free K .regs := n _ (by simp)
  have i3 : Free K .report := n _ (by simp)
  have hk0 := Keeps.refl (K := K) s
  apply guardW_keeps
  · exact hk0
  · intro y0 hy1
    apply clsTakeCmd_keeps
    · exact hy1
    · intro y2 hy3
      apply clsClearvalidOp_keeps
      exact hy3

theorem execClsRead_keeps (q : Req) (exact copy : Bool) (index : Fin 262144) (s : State) :
    Answers [.counters, .regs, .report] s (execClsRead q exact copy index s) := by
  refine answers_of fun K n => ⟨_, rfl, ?_⟩
  have i0 : Free K .counters := n _ (by simp)
  have i1 : Free K .regs := n _ (by simp)
  have i2 : Free K .report := n _ (by simp)
  have hk0 := Keeps.refl (K := K) s
  apply guardW_keeps
  · exact hk0
  · intro y0 hy1
    apply clsTakeCmd_keeps
    · exact hy1
    · intro y2 hy3
      apply clsReadOp_keeps
      exact hy3

theorem execClsHash_keeps (q : Req) (prof : Fin 8) (s : State) :
    Answers [.counters, .regs, .report] s (execClsHash q prof s) := by
  refine answers_of fun K n => ⟨_, rfl, ?_⟩
  have i0 : Free K .counters := n _ (by simp)
  have i1 : Free K .regs := n _ (by simp)
  have i2 : Free K .report := n _ (by simp)
  have hk0 := Keeps.refl (K := K) s
  apply guardW_keeps
  · exact hk0
  · intro y0 hy1
    apply clsTakeCmd_keeps
    · exact hy1
    · intro y2 hy3
      apply clsHashOp_keeps
      exact hy3

theorem execClsModeChange_keeps (q : Req) (v : Word) (s : State) :
    Answers [.classifier, .counters, .regs, .report] s (execClsModeChange q v s) := by
  refine answers_of fun K n => ⟨_, rfl, ?_⟩
  have i0 : Free K .classifier := n _ (by simp)
  have i1 : Free K .counters := n _ (by simp)
  have i2 : Free K .regs := n _ (by simp)
  have i3 : Free K .report := n _ (by simp)
  have hk0 := Keeps.refl (K := K) s
  apply guardW_keeps
  · exact hk0
  · intro y0 hy1
    apply clsCfgWrite_keeps
    exact hy1

theorem execClsCommit_keeps (q : Req) (s : State) :
    Answers [.classifier, .counters, .regs, .report] s (execClsCommit q s) := by
  refine answers_of fun K n => ⟨_, rfl, ?_⟩
  have i0 : Free K .classifier := n _ (by simp)
  have i1 : Free K .counters := n _ (by simp)
  have i2 : Free K .regs := n _ (by simp)
  have i3 : Free K .report := n _ (by simp)
  have hk0 := Keeps.refl (K := K) s
  apply guardW_keeps
  · exact hk0
  · intro y0 hy1
    apply commit_keeps
    exact hy1

theorem execClsVersionDrained_keeps (s : State) :
    Answers [.counters, .regs, .report] s (execClsVersionDrained s) := by
  refine answers_of fun K n => ⟨_, rfl, ?_⟩
  have i0 : Free K .counters := n _ (by simp)
  have i1 : Free K .regs := n _ (by simp)
  have i2 : Free K .report := n _ (by simp)
  have hk0 := Keeps.refl (K := K) s
  refine keeps_ite ?_ ?_
  · apply verDrain_keeps
    exact hk0
  · exact hk0

theorem execClsStageCopyDone_keeps (s : State) :
    Answers [.classifier, .regs] s (execClsStageCopyDone s) := by
  refine answers_of fun K n => ⟨_, rfl, ?_⟩
  have i0 : Free K .classifier := n _ (by simp)
  have i1 : Free K .regs := n _ (by simp)
  have hk0 := Keeps.refl (K := K) s
  refine keeps_ite ?_ ?_
  · apply setFlag_keeps
    apply setFlag_keeps
    apply stageCopy_keeps
    exact hk0
  · exact hk0

theorem execClsDrainTimeout_keeps (s : State) :
    Answers [.classifier, .counters, .regs, .report] s (execClsDrainTimeout s) := by
  refine answers_of fun K n => ⟨_, rfl, ?_⟩
  have i0 : Free K .classifier := n _ (by simp)
  have i1 : Free K .counters := n _ (by simp)
  have i2 : Free K .regs := n _ (by simp)
  have i3 : Free K .report := n _ (by simp)
  have hk0 := Keeps.refl (K := K) s
  refine keeps_ite ?_ ?_
  · apply raise_keeps
    refine keeps_mk ?_
    exact hk0
  · exact hk0

end Sys2Proof.Machine
end

