-- ==== Sys2Proof/Laws/KeepsCapture.lean ====
section
/-! SUPPORT. What the operations of Machine/Capture.lean keep. -/

-- One proof at a time: in the package as one text, proofs that wait for each other would each hold a thread.
set_option Elab.async false

namespace Sys2Proof.Machine

variable {K : Comp → Prop}

theorem capDrop_keeps {s0 s : State} (hk0 : Keeps K s0 s) (typ : Nat) (stale : Bool) [Free K .capture] [Free K .counters] [Free K .regs] [Free K .report] :
    Keeps K s0 (State.capDrop s typ stale) := by
  unfold State.capDrop
  extract_lets +onlyGivenNames first0
  clear_value first0
  extract_lets +onlyGivenNames n_1
  clear_value n_1
  extract_lets +onlyGivenNames cp_2
  clear_value cp_2
  extract_lets +onlyGivenNames cp_3
  clear_value cp_3
  extract_lets +onlyGivenNames s1_4
  refine keeps_cut (v := s1_4) ?_ fun hs1_4 => ?_
  · subst s1_4
    apply bump_keeps
    refine keeps_mk ?_
    exact hk0
  clear_value s1_4
  extract_lets +onlyGivenNames s2_5
  refine keeps_cut (v := s2_5) ?_ fun hs2_5 => ?_
  · subst s2_5
    apply raiseLim_keeps
    exact hs1_4
  clear_value s2_5
  refine keeps_ite ?_ ?_
  · exact hs2_5
  · apply modCp_keeps
    exact hs2_5

theorem capOffer_keeps {s0 s : State} (hk0 : Keeps K s0 s) (r : CapRec) [Free K .capture] [Free K .counters] [Free K .paddock] [Free K .regs] [Free K .report] :
    Keeps K s0 (State.capOffer s r) := by
  unfold State.capOffer
  refine keeps_ite ?_ ?_
  · exact hk0
  · extract_lets +onlyGivenNames r_0
    clear_value r_0
    extract_lets +onlyGivenNames s_1
    refine keeps_cut (v := s_1) ?_ fun hs_1 => ?_
    · subst s_1
      apply modCp_keeps
      exact hk0
    clear_value s_1
    refine keeps_ite ?_ ?_
    · apply capDrop_keeps
      apply bump_keeps
      exact hs_1
    · extract_lets +onlyGivenNames mark2
      clear_value mark2
      extract_lets +onlyGivenNames need3
      clear_value need3
      extract_lets +onlyGivenNames room4
      clear_value room4
      refine keeps_ite ?_ ?_
      · apply capDrop_keeps
        exact hs_1
      · extract_lets +onlyGivenNames r_5
        clear_value r_5
        extract_lets +onlyGivenNames mark6
        clear_value mark6
        extract_lets +onlyGivenNames s1_7
        refine keeps_cut (v := s1_7) ?_ fun hs1_7 => ?_
        · subst s1_7
          apply modCp_keeps
          exact hs_1
        clear_value s1_7
        refine keeps_ite ?_ ?_
        · apply padRef_keeps
          exact hs1_7
        · exact hs1_7

theorem capFrame_keeps {s0 s : State} (hk0 : Keeps K s0 s) (x : Frame) (rule version : Nat) [Free K .capture] [Free K .counters] [Free K .paddock] [Free K .regs] [Free K .report] :
    Keeps K s0 (State.capFrame s x rule version) := by
  unfold State.capFrame
  extract_lets +onlyGivenNames i_0
  clear_value i_0
  refine keeps_ite ?_ ?_
  · exact hk0
  · extract_lets +onlyGivenNames n_1
    clear_value n_1
    extract_lets +onlyGivenNames m_2
    clear_value m_2
    extract_lets +onlyGivenNames s1_3
    refine keeps_cut (v := s1_3) ?_ fun hs1_3 => ?_
    · subst s1_3
      apply modCp_keeps
      exact hk0
    clear_value s1_3
    refine keeps_ite ?_ ?_
    · exact hs1_3
    · extract_lets +onlyGivenNames snap4
      clear_value snap4
      apply capOffer_keeps
      exact hs1_3

theorem setCapWp_keeps {s0 s : State} (hk0 : Keeps K s0 s) (v : Nat) [Free K .regs] :
    Keeps K s0 (State.setCapWp s v) := by
  unfold State.setCapWp
  apply setReg_keeps
  apply setReg_keeps
  exact hk0

theorem setCapOldest_keeps {s0 s : State} (hk0 : Keeps K s0 s) (v : Nat) [Free K .regs] :
    Keeps K s0 (State.setCapOldest s v) := by
  unfold State.setCapOldest
  apply setReg_keeps
  apply setReg_keeps
  exact hk0

theorem dram_keeps {s0 s : State} (h : Keeps K s0 s) (k : Nat) (b : Byte) [Free K .dram] :
    Keeps K s0 { s with dram := sset (fun _ => 0) s.dram k b } :=
  h.of_parts rfl rfl id id id id id id (fun m => swf_sset m k b) id id id

theorem dramWrite_keeps {s0 s : State} (h : Keeps K s0 s) (a : Nat) (bs : List Byte) [Free K .dram] : Keeps K s0 (s.dramWrite a bs) := by
  induction bs generalizing s a with
  | nil => exact h
  | cons b bs ih =>
    exact ih (dram_keeps h _ b) (a + 1)

theorem setMask_keeps {s0 s : State} (hk0 : Keeps K s0 s) (k m : Nat) [Free K .memories] :
    Keeps K s0 (State.setMask s k m) := by
  unfold State.setMask
  apply modMem_keeps
  exact hk0

theorem dramStore_keeps {s0 s : State} (hk0 : Keeps K s0 s) (a : Nat) (bs : List Byte) [Free K .counters] [Free K .dram] [Free K .memories] [Free K .regs] :
    Keeps K s0 (State.dramStore s a bs) := by
  unfold State.dramStore
  extract_lets +onlyGivenNames s1_0
  refine keeps_cut (v := s1_0) ?_ fun hs1_0 => ?_
  · subst s1_0
    apply ddrWr_keeps
    apply dramWrite_keeps
    exact hk0
  clear_value s1_0
  extract_lets +onlyGivenNames n_1
  clear_value n_1
  extract_lets +onlyGivenNames ls_2
  clear_value ls_2
  extract_lets +onlyGivenNames ws_3
  clear_value ws_3
  extract_lets +onlyGivenNames s2_4
  refine keeps_cut (v := s2_4) ?_ fun hs2_4 => ?_
  · subst s2_4
    apply modMem_keeps
    exact hs1_0
  clear_value s2_4
  split
  · apply flipUsed_keeps
    apply setMask_keeps
    exact hs2_4
  · exact hs2_4

theorem capPut_keeps {s0 s : State} (hk0 : Keeps K s0 s) (bs : List Byte) [Free K .capture] [Free K .counters] [Free K .dram] [Free K .memories] [Free K .regs] [Free K .report] :
    Keeps K s0 (State.capPut s bs) := by
  unfold State.capPut
  extract_lets +onlyGivenNames wp_0
  clear_value wp_0
  extract_lets +onlyGivenNames e_1
  clear_value e_1
  extract_lets +onlyGivenNames s_2
  refine keeps_cut (v := s_2) ?_ fun hs_2 => ?_
  · subst s_2
    apply modCp_keeps
    exact hk0
  clear_value s_2
  extract_lets +onlyGivenNames s1_3
  refine keeps_cut (v := s1_3) ?_ fun hs1_3 => ?_
  · subst s1_3
    refine keeps_ite ?_ ?_
    · apply raiseLim_keeps
      apply setFlag_keeps
      apply setCapOldest_keeps
      exact hs_2
    · exact hs_2
  clear_value s1_3
  extract_lets +onlyGivenNames s2_4
  refine keeps_cut (v := s2_4) ?_ fun hs2_4 => ?_
  · subst s2_4
    apply dramStore_keeps
    exact hs1_3
  clear_value s2_4
  refine keeps_ite ?_ ?_
  · extract_lets +onlyGivenNames s3_5
    refine keeps_cut (v := s3_5) ?_ fun hs3_5 => ?_
    · subst s3_5
      apply setCapWp_keeps
      exact hs2_4
    clear_value s3_5
    apply modCp_keeps
    exact hs3_5
  · apply setCapWp_keeps
    exact hs2_4

theorem capPad_keeps {s0 s : State} (hk0 : Keeps K s0 s) [Free K .capture] [Free K .counters] [Free K .dram] [Free K .memories] [Free K .regs] [Free K .report] :
    Keeps K s0 (State.capPad s) := by
  unfold State.capPad
  refine keeps_ite ?_ ?_
  · apply modCp_keeps
    apply setCapWp_keeps
    exact hk0
  · apply capPut_keeps
    exact hk0

theorem capWriteFront_keeps {s0 s : State} (hk0 : Keeps K s0 s) [Free K .capture] [Free K .counters] [Free K .dram] [Free K .memories] [Free K .paddock] [Free K .regs] [Free K .report] :
    Keeps K s0 (State.capWriteFront s) := by
  unfold State.capWriteFront
  split
  · exact hk0
  · refine keeps_ite ?_ ?_
    · exact hk0
    · extract_lets +onlyGivenNames s_0
      refine keeps_cut (v := s_0) ?_ fun hs_0 => ?_
      · subst s_0
        apply modCp_keeps
        exact hk0
      clear_value s_0
      extract_lets +onlyGivenNames s_1
      refine keeps_cut (v := s_1) ?_ fun hs_1 => ?_
      · subst s_1
        refine keeps_ite ?_ ?_
        · apply padUnref_keeps
          exact hs_0
        · exact hs_0
      clear_value s_1
      extract_lets +onlyGivenNames cross2
      clear_value cross2
      extract_lets +onlyGivenNames meets3
      clear_value meets3
      refine keeps_ite ?_ ?_
      · apply capDrop_keeps
        apply bump_keeps
        exact hs_1
      · refine keeps_ite ?_ ?_
        · apply capDrop_keeps
          apply bump_keeps
          apply raise_keeps
          apply setFlag_keeps
          exact hs_1
        · extract_lets +onlyGivenNames s2_4
          refine keeps_cut (v := s2_4) ?_ fun hs2_4 => ?_
          · subst s2_4
            apply capPut_keeps
            refine keeps_ite ?_ ?_
            · apply capPad_keeps
              exact hs_1
            · exact hs_1
          clear_value s2_4
          refine keeps_ite ?_ ?_
          · exact hs2_4
          · apply bump_keeps
            apply bump_keeps
            exact hs2_4

theorem capRelease_keeps {s0 s : State} (hk0 : Keeps K s0 s) (rs : List CapRec) [Free K .memories] [Free K .paddock] [Free K .regs] :
    Keeps K s0 (State.capRelease s rs) := by
  unfold State.capRelease
  refine keeps_foldl _ ?_ ?_
  · exact hk0
  · intro y0 y1 hy2
    refine keeps_ite ?_ ?_
    · apply padUnref_keeps
      exact hy2
    · exact hy2

theorem capMemLost_keeps {s0 s : State} (hk0 : Keeps K s0 s) [Free K .capture] [Free K .counters] [Free K .memories] [Free K .paddock] [Free K .regs] [Free K .report] :
    Keeps K s0 (State.capMemLost s) := by
  unfold State.capMemLost
  refine keeps_ite ?_ ?_
  · extract_lets +onlyGivenNames n_0
    clear_value n_0
    extract_lets +onlyGivenNames s1_1
    refine keeps_cut (v := s1_1) ?_ fun hs1_1 => ?_
    · subst s1_1
      apply setFlag_keeps
      apply capRelease_keeps
      exact hk0
    clear_value s1_1
    apply raise_keeps
    apply setFlag_keeps
    apply bump_keeps
    apply modCp_keeps
    exact hs1_1
  · exact hk0

end Sys2Proof.Machine
end

