-- ==== Sys2Proof/Laws/KeepsTimeBase.lean ====
section
/-! SUPPORT. What the operations of Machine/TimeBase.lean keep. -/

-- One proof at a time: in the package as one text, proofs that wait for each other would each hold a thread.
set_option Elab.async false

namespace Sys2Proof.Machine

variable {K : Comp → Prop}

theorem todSeg_keeps {s0 s : State} (hk0 : Keeps K s0 s) [Free K .time] :
    Keeps K s0 (State.todSeg s) := by
  unfold State.todSeg
  extract_lets +onlyGivenNames sg_0
  clear_value sg_0
  extract_lets +onlyGivenNames new_1
  clear_value new_1
  split
  · refine keeps_ite ?_ ?_
    · exact hk0
    · apply modTm_keeps
      · exact hk0
      · intro y2
        rfl
  · apply modTm_keeps
    · exact hk0
    · intro y3
      rfl

theorem setTod_keeps {s0 s : State} (h : Keeps K s0 s) (t : Int) [Free K .time] : Keeps K s0 (s.setTod t) :=
  h.of_parts rfl rfl id (fun _ => by
    simp only [State.setTod, State.modTm]
    have h1 := Int.emod_lt_of_pos t (show (0 : Int) < (todModulus : Int) by decide)
    have h2 := Int.emod_nonneg t (show (todModulus : Int) ≠ 0 by decide)
    omega) id id id id id id id id

theorem setTsQueue_keeps {s0 s : State} (hk0 : Keeps K s0 s) (k : Nat) (x : TsQueue) [Free K .time] :
    Keeps K s0 (State.setTsQueue s k x) := by
  unfold State.setTsQueue
  apply modTm_keeps
  · exact hk0
  · intro y0
    rfl

theorem tsWrite_keeps {s0 s : State} (hk0 : Keeps K s0 s) (k : Nat) (late : Bool) (port msgtype tag tod : Nat) [Free K .counters] [Free K .regs] [Free K .report] [Free K .time] :
    Keeps K s0 (State.tsWrite s k late port msgtype tag tod) := by
  unfold State.tsWrite
  extract_lets +onlyGivenNames x_0
  clear_value x_0
  refine keeps_ite ?_ ?_
  · extract_lets +onlyGivenNames s1_1
    refine keeps_cut (v := s1_1) ?_ fun hs1_1 => ?_
    · subst s1_1
      apply setTsQueue_keeps
      exact hk0
    clear_value s1_1
    refine keeps_ite ?_ ?_
    · apply raiseLim_keeps
      apply addReg_keeps
      exact hs1_1
    · apply raise_keeps
      apply addReg_keeps
      exact hs1_1
  · extract_lets +onlyGivenNames ws_2
    clear_value ws_2
    extract_lets +onlyGivenNames s1_3
    refine keeps_cut (v := s1_3) ?_ fun hs1_3 => ?_
    · subst s1_3
      apply setTsQueue_keeps
      exact hk0
    clear_value s1_3
    refine keeps_ite ?_ ?_
    · apply setF_keeps
      exact hs1_3
    · exact hs1_3

theorem tsPop_keeps {s0 s : State} (hk0 : Keeps K s0 s) (q : Req) (k : Nat) [Free K .regs] [Free K .time] :
    Keeps K s0 (State.tsPop s q k) := by
  unfold State.tsPop
  extract_lets +onlyGivenNames x_0
  clear_value x_0
  extract_lets +onlyGivenNames e_1
  clear_value e_1
  extract_lets +onlyGivenNames key_2
  clear_value key_2
  extract_lets +onlyGivenNames put_3
  clear_value put_3
  extract_lets +onlyGivenNames m_4
  clear_value m_4
  extract_lets +onlyGivenNames s1_5
  refine keeps_cut (v := s1_5) ?_ fun hs1_5 => ?_
  · subst s1_5
    apply modTm_keeps
    · exact hk0
    · intro y6
      rfl
  clear_value s1_5
  extract_lets +onlyGivenNames s2_7
  refine keeps_cut (v := s2_7) ?_ fun hs2_7 => ?_
  · subst s2_7
    apply setTsQueue_keeps
    exact hs1_5
  clear_value s2_7
  refine keeps_ite ?_ ?_
  · apply setF_keeps
    exact hs2_7
  · exact hs2_7

theorem setCmpFlag_keeps {s0 s : State} (hk0 : Keeps K s0 s) (n v : Nat) [Free K .time] :
    Keeps K s0 (State.setCmpFlag s n v) := by
  unfold State.setCmpFlag
  apply modTm_keeps
  · exact hk0
  · intro y0
    rfl

theorem cmpArm_keeps {s0 s : State} (hk0 : Keeps K s0 s) (n feature : Nat) [Free K .regs] [Free K .time] :
    Keeps K s0 (State.cmpArm s n feature) := by
  unfold State.cmpArm
  extract_lets +onlyGivenNames s1_0
  refine keeps_cut (v := s1_0) ?_ fun hs1_0 => ?_
  · subst s1_0
    apply setF_keeps
    apply setFlag_keeps
    exact hk0
  clear_value s1_0
  apply setCmpFlag_keeps
  exact hs1_0

theorem cmpDisarm_keeps {s0 s : State} (hk0 : Keeps K s0 s) (n : Nat) [Free K .regs] :
    Keeps K s0 (State.cmpDisarm s n) := by
  unfold State.cmpDisarm
  apply resRelease_keeps
  apply setF_keeps
  apply setFlag_keeps
  exact hk0

end Sys2Proof.Machine
end

