-- ==== Sys2Proof/Laws/KeepsSched.lean ====
section
/-! SUPPORT. What the operations of Machine/Sched.lean keep. -/

-- One proof at a time: in the package as one text, proofs that wait for each other would each hold a thread.
set_option Elab.async false

namespace Sys2Proof.Machine

variable {K : Comp → Prop}

theorem setQue_keeps {s0 s : State} (hk0 : Keeps K s0 s) (q : Nat) (x : Que) [Free K .regs] [Free K .sched] :
    Keeps K s0 (State.setQue s q x) := by
  unfold State.setQue
  apply setFlag_keeps
  refine keeps_mk ?_
  exact hk0

theorem setBucket_keeps {s0 s : State} (hk0 : Keeps K s0 s) (k : Nat) (b : Bucket) [Free K .sched] :
    Keeps K s0 (State.setBucket s k b) := by
  unfold State.setBucket
  refine keeps_mk ?_
  exact hk0

theorem shpCharge_keeps {s0 s : State} (hk0 : Keeps K s0 s) (n l : Nat) [Free K .sched] :
    Keeps K s0 (State.shpCharge s n l) := by
  unfold State.shpCharge
  extract_lets +onlyGivenNames c_0
  clear_value c_0
  extract_lets +onlyGivenNames p_1
  clear_value p_1
  extract_lets +onlyGivenNames sub_2
  clear_value sub_2
  apply setBucket_keeps
  apply setBucket_keeps
  exact hk0

theorem meter_keeps {s0 s : State} (hk0 : Keeps K s0 s) (p n col : Nat) [Free K .counters] [Free K .sched] :
    Keeps K s0 (State.meter s p n col).2 := by
  unfold State.meter
  extract_lets +onlyGivenNames i_0
  clear_value i_0
  extract_lets +onlyGivenNames b_1
  clear_value b_1
  extract_lets +onlyGivenNames aware2
  clear_value aware2
  extract_lets +onlyGivenNames cbs_3
  clear_value cbs_3
  extract_lets +onlyGivenNames xbs_4
  clear_value xbs_4
  extract_lets +onlyGivenNames c0_5
  clear_value c0_5
  extract_lets +onlyGivenNames x0_6
  clear_value x0_6
  extract_lets +onlyGivenNames r_7
  clear_value r_7
  extract_lets +onlyGivenNames r_8
  clear_value r_8
  extract_lets +onlyGivenNames r_9
  clear_value r_9
  extract_lets +onlyGivenNames r_10
  clear_value r_10
  extract_lets +onlyGivenNames r_11
  clear_value r_11
  extract_lets +onlyGivenNames r_12
  clear_value r_12
  extract_lets +onlyGivenNames r_13
  clear_value r_13
  extract_lets +onlyGivenNames r_14
  clear_value r_14
  extract_lets +onlyGivenNames r_15
  clear_value r_15
  extract_lets +onlyGivenNames r_16
  clear_value r_16
  extract_lets +onlyGivenNames r_17
  clear_value r_17
  extract_lets +onlyGivenNames r_18
  clear_value r_18
  refine keeps_pair ?_
  apply bump_keeps
  apply setBucket_keeps
  apply setBucket_keeps
  exact hk0

theorem xpol_keeps {s0 s : State} (hk0 : Keeps K s0 s) (k n : Nat) [Free K .counters] [Free K .sched] :
    Keeps K s0 (State.xpol s k n).2 := by
  unfold State.xpol
  refine keeps_ite2 ?_ ?_
  · refine keeps_pair ?_
    exact hk0
  · extract_lets +onlyGivenNames b_0
    clear_value b_0
    extract_lets +onlyGivenNames t_1
    clear_value t_1
    refine keeps_ite2 ?_ ?_
    · refine keeps_pair ?_
      apply setBucket_keeps
      exact hk0
    · refine keeps_pair ?_
      apply bump_keeps
      apply setBucket_keeps
      exact hk0

theorem xpolEvent_keeps {s0 s : State} (hk0 : Keeps K s0 s) (k : Nat) (dropped : Bool) [Free K .counters] [Free K .regs] [Free K .report] :
    Keeps K s0 (State.xpolEvent s k dropped) := by
  unfold State.xpolEvent
  apply raiseLim_keeps
  exact hk0

theorem bucketWrite_keeps {s0 s : State} (hk0 : Keeps K s0 s) (a : Nat) (v : Word) [Free K .regs] [Free K .sched] :
    Keeps K s0 (State.bucketWrite s a v) := by
  unfold State.bucketWrite
  extract_lets +onlyGivenNames full0
  subst full0
  split
  · exact hk0
  · extract_lets +onlyGivenNames s1_1
    refine keeps_cut (v := s1_1) ?_ fun hs1_1 => ?_
    · subst s1_1
      apply setReg_keeps
      exact hk0
    clear_value s1_1
    refine keeps_ite ?_ ?_
    · extract_lets +onlyGivenNames n_2
      clear_value n_2
      split
      · dsimp only
        apply setBucket_keeps
        exact hs1_1
      · dsimp only
        apply setBucket_keeps
        exact hs1_1
      · dsimp only
        apply setBucket_keeps
        exact hs1_1
      · dsimp only
        apply setBucket_keeps
        exact hs1_1
      · exact hs1_1
    · refine keeps_ite ?_ ?_
      · extract_lets +onlyGivenNames p_3
        clear_value p_3
        extract_lets +onlyGivenNames fc_4
        subst fc_4
        extract_lets +onlyGivenNames fx_5
        subst fx_5
        split
        · dsimp only
          apply setBucket_keeps
          apply setBucket_keeps
          exact hs1_1
        · dsimp only
          apply setBucket_keeps
          exact hs1_1
        · dsimp only
          apply setBucket_keeps
          exact hs1_1
        · dsimp only
          apply setBucket_keeps
          exact hs1_1
        · dsimp only
          apply setBucket_keeps
          exact hs1_1
        · exact hs1_1
      · refine keeps_ite ?_ ?_
        · extract_lets +onlyGivenNames k_6
          clear_value k_6
          refine keeps_ite ?_ ?_
          · dsimp only
            apply setBucket_keeps
            exact hs1_1
          · exact hs1_1
        · exact hs1_1

theorem setGate_keeps {s0 s : State} (hk0 : Keeps K s0 s) (g : Nat) (x : Gate) [Free K .gates] :
    Keeps K s0 (State.setGate s g x) := by
  unfold State.setGate
  refine keeps_mk ?_
  exact hk0

theorem qRefuse_keeps {s0 s : State} (hk0 : Keeps K s0 s) (q n colour : Nat) (nobuf : Bool) [Free K .counters] [Free K .regs] [Free K .report] :
    Keeps K s0 (State.qRefuse s q n colour nobuf) := by
  unfold State.qRefuse
  apply raiseLim_keeps
  apply bump_keeps
  apply bump_keeps
  apply bumpIf_keeps
  exact hk0

theorem spillFlip_keeps {s0 s : State} (hk0 : Keeps K s0 s) (x : Frame) [Free K .free] [Free K .regs] :
    Keeps K s0 (State.spillFlip s x).2 := by
  unfold State.spillFlip
  refine keeps_ite2 ?_ ?_
  · refine keeps_pair ?_
    exact hk0
  · extract_lets +onlyGivenNames b_0
    refine keeps_cut (v := b_0.2) ?_ fun hb_0 => ?_
    · subst b_0
      apply takeFree_keeps
      exact hk0
    clear_value b_0
    refine keeps_ite2 ?_ ?_
    · refine keeps_pair ?_
      apply flipUsed_keeps
      exact hb_0
    · refine keeps_pair ?_
      exact hb_0

theorem spillOut_keeps {s0 st : State} (hk0 : Keeps K s0 st) (x0 : Frame) [Free K .counters] [Free K .free] [Free K .memories] [Free K .paddock] [Free K .regs] :
    Keeps K s0 (State.spillOut st x0).2 := by
  unfold State.spillOut
  extract_lets +onlyGivenNames r_0
  refine keeps_cut (v := r_0.2) ?_ fun hr_0 => ?_
  · subst r_0
    apply spillFlip_keeps
    exact hk0
  clear_value r_0
  extract_lets +onlyGivenNames x_1
  clear_value x_1
  extract_lets +onlyGivenNames s1_2
  refine keeps_cut (v := s1_2) ?_ fun hs1_2 => ?_
  · subst s1_2
    apply ddrWr_keeps
    apply padUnref_keeps
    exact hr_0
  clear_value s1_2
  refine keeps_pair ?_
  apply setPad_keeps
  refine keeps_mk ?_
  exact hs1_2

theorem spillQueue_keeps {s0 s : State} (h : Keeps K s0 s) (l : List Frame) [Free K .counters] [Free K .free] [Free K .memories] [Free K .paddock] [Free K .regs] : Keeps K s0 (s.spillQueue l).2 := by
  induction l generalizing s with
  | nil => exact h
  | cons x xs ih => exact ih (keeps_ite2 (spillOut_keeps h x) h)

theorem spillFlush_keeps {s0 s : State} (hk0 : Keeps K s0 s) [Free K .counters] [Free K .free] [Free K .memories] [Free K .paddock] [Free K .regs] [Free K .sched] :
    Keeps K s0 (State.spillFlush s) := by
  unfold State.spillFlush
  refine keeps_ite ?_ ?_
  · exact hk0
  · refine keeps_foldl _ ?_ ?_
    · exact hk0
    · intro y0 y1 hy2
      extract_lets +onlyGivenNames z_3
      refine keeps_cut (v := z_3.2) ?_ fun hz_3 => ?_
      · subst z_3
        apply spillQueue_keeps
        exact hy2
      clear_value z_3
      apply setQue_keeps
      exact hz_3

theorem qHead_keeps {s0 s : State} (h : Keeps K s0 s) (q n : Nat) [Free K .counters] [Free K .memories] [Free K .paddock] [Free K .regs] [Free K .report] [Free K .sched] : Keeps K s0 (s.qHead q n) := by
  induction n generalizing s with
  | zero => exact h
  | succ n ih =>
    unfold State.qHead
    split
    · exact h
    · rename_i x rest _
      have hd : Keeps K s0 ((s.setQue q { s.que q with frames := rest }).padDrop x) := padDrop_keeps (setQue_keeps h ..) _
      refine keeps_ite (ih (raise_keeps (bump_keeps hd ..) ..)) (keeps_ite
        (ih (raise_keeps (bump_keeps (bump_keeps (bump_keeps hd ..) ..) ..) ..)) (keeps_ite h
        (keeps_ite (ih (raiseLim_keeps (bump_keeps hd ..) ..)) ?_)))
      exact keeps_ite (raiseLim_keeps (bump_keeps (setQue_keeps h ..) ..) ..) (setQue_keeps h ..)

theorem setFrames_keeps {s0 s : State} (hk0 : Keeps K s0 s) (q : Nat) (fs : List Frame) [Free K .counters] [Free K .memories] [Free K .paddock] [Free K .regs] [Free K .report] [Free K .sched] :
    Keeps K s0 (State.setFrames s q fs) := by
  unfold State.setFrames
  apply qHead_keeps
  apply setQue_keeps
  exact hk0

theorem qAppend_keeps {s0 s : State} (hk0 : Keeps K s0 s) (q : Nat) (x : Frame) [Free K .counters] [Free K .free] [Free K .memories] [Free K .paddock] [Free K .regs] [Free K .report] [Free K .sched] :
    Keeps K s0 (State.qAppend s q x) := by
  unfold State.qAppend
  extract_lets +onlyGivenNames x_0
  clear_value x_0
  extract_lets +onlyGivenNames spill1
  clear_value spill1
  refine keeps_ite ?_ ?_
  · apply setFrames_keeps
    exact hk0
  · extract_lets +onlyGivenNames s1_2
    refine keeps_cut (v := s1_2) ?_ fun hs1_2 => ?_
    · subst s1_2
      apply bump_keeps
      exact hk0
    clear_value s1_2
    apply spillFlush_keeps
    apply setFrames_keeps
    exact hs1_2

theorem qAdmit_keeps {s0 s : State} (hk0 : Keeps K s0 s) (q : Nat) (x : Frame) (head colour : Nat) [Free K .counters] [Free K .free] [Free K .memories] [Free K .paddock] [Free K .regs] [Free K .report] [Free K .sched] :
    Keeps K s0 (State.qAdmit s q x head colour).2 := by
  unfold State.qAdmit
  extract_lets +onlyGivenNames n_0
  clear_value n_0
  refine keeps_ite2 ?_ ?_
  · refine keeps_pair ?_
    exact hk0
  · refine keeps_ite2 ?_ ?_
    · refine keeps_pair ?_
      apply qRefuse_keeps
      exact hk0
    · refine keeps_ite2 ?_ ?_
      · refine keeps_pair ?_
        apply bump_keeps
        apply bump_keeps
        apply raise_keeps
        apply bump_keeps
        exact hk0
      · refine keeps_ite2 ?_ ?_
        · refine keeps_pair ?_
          apply qRefuse_keeps
          exact hk0
        · refine keeps_ite2 ?_ ?_
          · refine keeps_pair ?_
            apply qRefuse_keeps
            exact hk0
          · refine keeps_pair ?_
            apply qAppend_keeps
            apply padRef_keeps
            apply padTake_keeps
            apply flipChip_keeps
            exact hk0

theorem qDemote_keeps {s0 s : State} (hk0 : Keeps K s0 s) (q : Nat) (x : Frame) (head colour : Nat) [Free K .counters] [Free K .free] [Free K .memories] [Free K .paddock] [Free K .regs] [Free K .report] [Free K .sched] :
    Keeps K s0 (State.qDemote s q x head colour).2 := by
  unfold State.qDemote
  split
  · refine keeps_pair ?_
    apply raise_keeps
    apply bump_keeps
    exact hk0
  · apply qAdmit_keeps
    apply bump_keeps
    exact hk0

theorem qEnter_keeps {s0 s : State} (hk0 : Keeps K s0 s) (q cls : Nat) (x : Frame) (head colour : Nat) [Free K .counters] [Free K .free] [Free K .memories] [Free K .paddock] [Free K .regs] [Free K .report] [Free K .sched] :
    Keeps K s0 (State.qEnter s q cls x head colour).2 := by
  unfold State.qEnter
  refine keeps_ite2 ?_ ?_
  · apply qAdmit_keeps
    exact hk0
  · refine keeps_ite2 ?_ ?_
    · extract_lets +onlyGivenNames k_0
      clear_value k_0
      extract_lets +onlyGivenNames r_1
      refine keeps_cut (v := r_1.2) ?_ fun hr_1 => ?_
      · subst r_1
        apply xpol_keeps
        exact hk0
      clear_value r_1
      refine keeps_ite2 ?_ ?_
      · apply qAdmit_keeps
        exact hr_1
      · refine keeps_ite2 ?_ ?_
        · refine keeps_pair ?_
          apply xpolEvent_keeps
          apply bump_keeps
          apply bump_keeps
          exact hr_1
        · apply qDemote_keeps
          apply xpolEvent_keeps
          exact hr_1
    · apply qDemote_keeps
      exact hk0

theorem setVtime_keeps {s0 s : State} (hk0 : Keeps K s0 s) (k v : Nat) [Free K .sched] :
    Keeps K s0 (State.setVtime s k v) := by
  unfold State.setVtime
  refine keeps_mk ?_
  exact hk0

theorem setGrp_keeps {s0 s : State} (hk0 : Keeps K s0 s) (c : Nat) (x : Child) [Free K .sched] :
    Keeps K s0 (State.setGrp s c x) := by
  unfold State.setGrp
  refine keeps_mk ?_
  exact hk0

theorem nodeHeads_keeps {s0 s : State} (hk0 : Keeps K s0 s) (node : Nat) [Free K .counters] [Free K .memories] [Free K .paddock] [Free K .regs] [Free K .report] [Free K .sched] :
    Keeps K s0 (State.nodeHeads s node) := by
  unfold State.nodeHeads
  refine keeps_foldl _ ?_ ?_
  · exact hk0
  · intro y0 y1 hy2
    apply qHead_keeps
    exact hy2

theorem vtWake_keeps {s0 s : State} (hk0 : Keeps K s0 s) (ctx : TakeCtx) (node : Nat) [Free K .regs] [Free K .sched] :
    Keeps K s0 (State.vtWake s ctx node) := by
  unfold State.vtWake
  extract_lets +onlyGivenNames s1_0
  refine keeps_cut (v := s1_0) ?_ fun hs1_0 => ?_
  · subst s1_0
    refine keeps_foldl _ ?_ ?_
    · exact hk0
    · intro y1 y2 hy3
      refine keeps_ite ?_ ?_
      · extract_lets +onlyGivenNames x_4
        clear_value x_4
        refine keeps_ite ?_ ?_
        · apply setQue_keeps
          exact hy3
        · refine keeps_ite ?_ ?_
          · apply setQue_keeps
            exact hy3
          · exact hy3
      · exact hy3
  clear_value s1_0
  refine keeps_foldl _ ?_ ?_
  · exact hs1_0
  · intro y5 y6 hy7
    extract_lets +onlyGivenNames c_8
    clear_value c_8
    extract_lets +onlyGivenNames qs_9
    clear_value qs_9
    extract_lets +onlyGivenNames x_10
    clear_value x_10
    refine keeps_ite ?_ ?_
    · apply setGrp_keeps
      exact hy7
    · refine keeps_ite ?_ ?_
      · apply setGrp_keeps
        exact hy7
      · exact hy7

theorem vtAge_keeps {s0 s : State} (hk0 : Keeps K s0 s) (node : Nat) [Free K .counters] [Free K .regs] [Free K .report] [Free K .sched] :
    Keeps K s0 (State.vtAge s node) := by
  unfold State.vtAge
  refine keeps_ite ?_ ?_
  · exact hk0
  · refine keeps_foldl _ ?_ ?_
    · exact hk0
    · intro y0 y1 hy2
      extract_lets +onlyGivenNames x_3
      clear_value x_3
      extract_lets +onlyGivenNames thr_4
      clear_value thr_4
      split
      · refine keeps_ite ?_ ?_
        · apply raiseLim_keeps
          apply bump_keeps
          apply setQue_keeps
          refine keeps_mk ?_
          exact hy2
        · exact hy2
      · exact hy2

theorem chargePath_keeps {s0 s : State} (hk0 : Keeps K s0 s) (q l : Nat) [Free K .sched] :
    Keeps K s0 (State.chargePath s q l) := by
  unfold State.chargePath
  extract_lets +onlyGivenNames ex_0
  clear_value ex_0
  extract_lets +onlyGivenNames node1
  clear_value node1
  extract_lets +onlyGivenNames c_2
  clear_value c_2
  extract_lets +onlyGivenNames s1_3
  refine keeps_cut (v := s1_3) ?_ fun hs1_3 => ?_
  · subst s1_3
    refine keeps_ite ?_ ?_
    · apply shpCharge_keeps
      exact hk0
    · exact hk0
  clear_value s1_3
  extract_lets +onlyGivenNames s2_4
  refine keeps_cut (v := s2_4) ?_ fun hs2_4 => ?_
  · subst s2_4
    refine keeps_ite ?_ ?_
    · apply shpCharge_keeps
      exact hs1_3
    · exact hs1_3
  clear_value s2_4
  refine keeps_ite ?_ ?_
  · apply shpCharge_keeps
    exact hs2_4
  · exact hs2_4

theorem chargeTags_keeps {s0 s : State} (hk0 : Keeps K s0 s) (q l : Nat) (aged : Bool) [Free K .regs] [Free K .sched] :
    Keeps K s0 (State.chargeTags s q l aged) := by
  unfold State.chargeTags
  extract_lets +onlyGivenNames node0
  clear_value node0
  extract_lets +onlyGivenNames x_1
  clear_value x_1
  extract_lets +onlyGivenNames w_2
  clear_value w_2
  refine keeps_ite ?_ ?_
  · extract_lets +onlyGivenNames n_3
    clear_value n_3
    apply setQue_keeps
    apply setVtime_keeps
    exact hk0
  · extract_lets +onlyGivenNames c_4
    clear_value c_4
    refine keeps_ite ?_ ?_
    · apply setQue_keeps
      exact hk0
    · extract_lets +onlyGivenNames y_5
      clear_value y_5
      extract_lets +onlyGivenNames n_6
      clear_value n_6
      extract_lets +onlyGivenNames m_7
      clear_value m_7
      apply setGrp_keeps
      apply setVtime_keeps
      apply setQue_keeps
      apply setVtime_keeps
      exact hk0

theorem decide0_keeps {s0 s : State} (hk0 : Keeps K s0 s) (ctx : TakeCtx) (node : Nat) [Free K .counters] [Free K .memories] [Free K .paddock] [Free K .regs] [Free K .report] [Free K .sched] :
    Keeps K s0 (State.decide0 s ctx node) := by
  unfold State.decide0
  apply vtAge_keeps
  apply vtWake_keeps
  apply nodeHeads_keeps
  exact hk0

theorem select_keeps {s0 s : State} (hk0 : Keeps K s0 s) (ctx : TakeCtx) (node : Nat) [Free K .counters] [Free K .memories] [Free K .paddock] [Free K .regs] [Free K .report] [Free K .sched] :
    Keeps K s0 (State.select s ctx node).2 := by
  unfold State.select
  extract_lets +onlyGivenNames s1_0
  refine keeps_cut (v := s1_0) ?_ fun hs1_0 => ?_
  · subst s1_0
    apply decide0_keeps
    exact hk0
  clear_value s1_0
  split
  · refine keeps_pair ?_
    exact hs1_0
  · split
    · refine keeps_pair ?_
      exact hs1_0
    · extract_lets +onlyGivenNames l_1
      clear_value l_1
      extract_lets +onlyGivenNames s2_2
      refine keeps_cut (v := s2_2) ?_ fun hs2_2 => ?_
      · subst s2_2
        apply chargePath_keeps
        apply chargeTags_keeps
        exact hs1_0
      clear_value s2_2
      extract_lets +onlyGivenNames s3_3
      refine keeps_cut (v := s3_3) ?_ fun hs3_3 => ?_
      · subst s3_3
        apply setFrames_keeps
        exact hs2_2
      clear_value s3_3
      refine keeps_pair ?_
      apply bump_keeps
      apply bump_keeps
      exact hs3_3

theorem queueCfgWrite_keeps {s0 s : State} (hk0 : Keeps K s0 s) (q word : Nat) (v : Word) [Free K .counters] [Free K .regs] [Free K .report] :
    Keeps K s0 (State.queueCfgWrite s q word v) := by
  unfold State.queueCfgWrite
  extract_lets +onlyGivenNames a_0
  clear_value a_0
  split
  · extract_lets +onlyGivenNames old_1
    clear_value old_1
    extract_lets +onlyGivenNames locked2
    clear_value locked2
    extract_lets +onlyGivenNames keep3
    clear_value keep3
    extract_lets +onlyGivenNames w_4
    clear_value w_4
    refine keeps_ite ?_ ?_
    · apply raise_keeps
      exact hk0
    · apply setReg_keeps
      exact hk0
  · extract_lets +onlyGivenNames m_5
    clear_value m_5
    apply setReg_keeps
    exact hk0
  · apply setReg_keeps
    exact hk0

theorem gateRefuse_keeps {s0 s : State} (hk0 : Keeps K s0 s) (g r : Nat) [Free K .counters] [Free K .regs] [Free K .report] :
    Keeps K s0 (State.gateRefuse s g r) := by
  unfold State.gateRefuse
  apply raise_keeps
  apply setF_keeps
  exact hk0

theorem gateCommit_keeps {s0 s : State} (hk0 : Keeps K s0 s) (q : Req) (g comp : Nat) [Free K .counters] [Free K .gates] [Free K .regs] [Free K .report] [Free K .time] :
    Keeps K s0 (State.gateCommit s q g comp) := by
  unfold State.gateCommit
  extract_lets +onlyGivenNames len_0
  clear_value len_0
  extract_lets +onlyGivenNames cyc_1
  clear_value cyc_1
  refine keeps_ite ?_ ?_
  · apply gateRefuse_keeps
    exact hk0
  · refine keeps_ite ?_ ?_
    · apply gateRefuse_keeps
      exact hk0
    · refine keeps_ite ?_ ?_
      · apply gateRefuse_keeps
        apply resConflict_keeps
        exact hk0
      · extract_lets +onlyGivenNames need2
        clear_value need2
        extract_lets +onlyGivenNames base3
        clear_value base3
        extract_lets +onlyGivenNames n_4
        clear_value n_4
        extract_lets +onlyGivenNames t_5
        clear_value t_5
        extract_lets +onlyGivenNames s1_6
        refine keeps_cut (v := s1_6) ?_ fun hs1_6 => ?_
        · subst s1_6
          apply setF_keeps
          apply resTake_keeps
          exact hk0
        clear_value s1_6
        extract_lets +onlyGivenNames s2_7
        clear_value s2_7
        extract_lets +onlyGivenNames s2_8
        refine keeps_cut (v := s2_8) ?_ fun hs2_8 => ?_
        · subst s2_8
          apply setGate_keeps
          apply setFlag_keeps
          exact hs1_6
        clear_value s2_8
        extract_lets +onlyGivenNames s3_9
        refine keeps_cut (v := s3_9) ?_ fun hs3_9 => ?_
        · subst s3_9
          apply setReg_keeps
          apply setReg_keeps
          apply setReg_keeps
          exact hs2_8
        clear_value s3_9
        extract_lets +onlyGivenNames s4_10
        refine keeps_cut (v := s4_10) ?_ fun hs4_10 => ?_
        · subst s4_10
          apply cmpArm_keeps
          exact hs3_9
        clear_value s4_10
        refine keeps_ite ?_ ?_
        · exact hs4_10
        · apply raise_keeps
          apply setFlag_keeps
          exact hs4_10

theorem gateTakeover_keeps {s0 s : State} (hk0 : Keeps K s0 s) (g : Nat) [Free K .counters] [Free K .gates] [Free K .regs] [Free K .report] :
    Keeps K s0 (State.gateTakeover s g) := by
  unfold State.gateTakeover
  split
  · exact hk0
  · extract_lets +onlyGivenNames len_0
    clear_value len_0
    extract_lets +onlyGivenNames opr_1
    clear_value opr_1
    extract_lets +onlyGivenNames s1_2
    refine keeps_cut (v := s1_2) ?_ fun hs1_2 => ?_
    · subst s1_2
      apply setGate_keeps
      refine keeps_mk ?_
      exact hk0
    clear_value s1_2
    apply raise_keeps
    apply setFlag_keeps
    apply setFlag_keeps
    exact hs1_2

theorem sampleOne_keeps {s0 s : State} (hk0 : Keeps K s0 s) (q : Nat) [Free K .capture] [Free K .counters] [Free K .paddock] [Free K .regs] [Free K .report] :
    Keeps K s0 (State.sampleOne s q) := by
  unfold State.sampleOne
  extract_lets +onlyGivenNames x_0
  clear_value x_0
  extract_lets +onlyGivenNames delay1
  clear_value delay1
  extract_lets +onlyGivenNames w0_2
  clear_value w0_2
  extract_lets +onlyGivenNames w1_3
  clear_value w1_3
  extract_lets +onlyGivenNames wp_4
  clear_value wp_4
  extract_lets +onlyGivenNames a_5
  clear_value a_5
  extract_lets +onlyGivenNames s1_6
  refine keeps_cut (v := s1_6) ?_ fun hs1_6 => ?_
  · subst s1_6
    apply setReg_keeps
    apply setReg_keeps
    apply setReg_keeps
    apply setReg_keeps
    exact hk0
  clear_value s1_6
  extract_lets +onlyGivenNames s2_7
  refine keeps_cut (v := s2_7) ?_ fun hs2_7 => ?_
  · subst s2_7
    apply setF_keeps
    exact hs1_6
  clear_value s2_7
  extract_lets +onlyGivenNames s3_8
  refine keeps_cut (v := s3_8) ?_ fun hs3_8 => ?_
  · subst s3_8
    refine keeps_ite ?_ ?_
    · apply setFlag_keeps
      exact hs2_7
    · exact hs2_7
  clear_value s3_8
  refine keeps_ite ?_ ?_
  · apply capOffer_keeps
    exact hs3_8
  · exact hs3_8

theorem spillWord_keeps {s0 s : State} (hk0 : Keeps K s0 s) [Free K .free] :
    Keeps K s0 (State.spillWord s).2 := by
  unfold State.spillWord
  extract_lets +onlyGivenNames b_0
  refine keeps_cut (v := b_0.2) ?_ fun hb_0 => ?_
  · subst b_0
    apply takeFree_keeps
    exact hk0
  clear_value b_0
  extract_lets +onlyGivenNames y_1
  refine keeps_cut (v := y_1.2) ?_ fun hy_1 => ?_
  · subst y_1
    apply takeFree_keeps
    exact hb_0
  clear_value y_1
  refine keeps_pair ?_
  exact hy_1

theorem memUeSpill_keeps {s0 s : State} (hk0 : Keeps K s0 s) [Free K .counters] [Free K .free] [Free K .regs] [Free K .report] :
    Keeps K s0 (State.memUeSpill s) := by
  unfold State.memUeSpill
  extract_lets +onlyGivenNames w_0
  refine keeps_cut (v := w_0.2) ?_ fun hw_0 => ?_
  · subst w_0
    apply spillWord_keeps
    exact hk0
  clear_value w_0
  apply memUe_keeps
  exact hw_0

theorem memCeSpill_keeps {s0 s : State} (hk0 : Keeps K s0 s) [Free K .counters] [Free K .free] [Free K .regs] [Free K .report] :
    Keeps K s0 (State.memCeSpill s) := by
  unfold State.memCeSpill
  extract_lets +onlyGivenNames w_0
  refine keeps_cut (v := w_0.2) ?_ fun hw_0 => ?_
  · subst w_0
    apply spillWord_keeps
    exact hk0
  clear_value w_0
  apply memCe_keeps
  exact hw_0

theorem spillBack_keeps {s0 st : State} (hk0 : Keeps K s0 st) (q : Nat) (unc : Bool) [Free K .counters] [Free K .free] [Free K .memories] [Free K .paddock] [Free K .regs] [Free K .report] [Free K .sched] :
    Keeps K s0 (State.spillBack st q unc) := by
  unfold State.spillBack
  extract_lets +onlyGivenNames s_0
  refine keeps_cut (v := s_0) ?_ fun hs_0 => ?_
  · subst s_0
    apply spillFlush_keeps
    exact hk0
  clear_value s_0
  extract_lets +onlyGivenNames x_1
  clear_value x_1
  split
  · exact hs_0
  · extract_lets +onlyGivenNames n_2
    clear_value n_2
    refine keeps_ite ?_ ?_
    · exact hs_0
    · extract_lets +onlyGivenNames s1_3
      refine keeps_cut (v := s1_3) ?_ fun hs1_3 => ?_
      · subst s1_3
        apply ddrRd_keeps
        apply setPad_keeps
        apply padTake_keeps
        exact hs_0
      clear_value s1_3
      extract_lets +onlyGivenNames s2_4
      refine keeps_cut (v := s2_4) ?_ fun hs2_4 => ?_
      · subst s2_4
        refine keeps_ite ?_ ?_
        · apply memUeSpill_keeps
          exact hs1_3
        · refine keeps_ite ?_ ?_
          · apply memCeSpill_keeps
            exact hs1_3
          · exact hs1_3
      clear_value s2_4
      apply setFrames_keeps
      exact hs2_4

theorem gateCtrlWrite_keeps {s0 s : State} (hk0 : Keeps K s0 s) (q : Req) (g : Nat) (v : Word) [Free K .counters] [Free K .gates] [Free K .regs] [Free K .report] [Free K .time] :
    Keeps K s0 (State.gateCtrlWrite s q g v) := by
  unfold State.gateCtrlWrite
  extract_lets +onlyGivenNames comp0
  clear_value comp0
  extract_lets +onlyGivenNames s1_1
  refine keeps_cut (v := s1_1) ?_ fun hs1_1 => ?_
  · subst s1_1
    refine keeps_ite ?_ ?_
    · apply setFlag_keeps
      exact hk0
    · exact hk0
  clear_value s1_1
  extract_lets +onlyGivenNames put_2
  subst put_2
  refine keeps_ite ?_ ?_
  · refine keeps_ite ?_ ?_
    · exact hs1_1
    · dsimp only
      apply setF_keeps
      exact hs1_1
  · extract_lets +onlyGivenNames s2_3
    refine keeps_cut (v := s2_3) ?_ fun hs2_3 => ?_
    · subst s2_3
      apply gateCommit_keeps
      exact hs1_1
    clear_value s2_3
    refine keeps_ite ?_ ?_
    · exact hs2_3
    · dsimp only
      apply setF_keeps
      exact hs2_3

theorem execSchedulerSelect_keeps (node : Fin 521) (s : State) :
    Answers [.counters, .memories, .paddock, .regs, .report, .sched, .xings] s (execSchedulerSelect node s) := by
  refine answers_of fun K n => ⟨_, rfl, ?_⟩
  have i0 : Free K .counters := n _ (by simp)
  have i1 : Free K .memories := n _ (by simp)
  have i2 : Free K .paddock := n _ (by simp)
  have i3 : Free K .regs := n _ (by simp)
  have i4 : Free K .report := n _ (by simp)
  have i5 : Free K .sched := n _ (by simp)
  have i6 : Free K .xings := n _ (by simp)
  have hk0 := Keeps.refl (K := K) s
  refine keeps_ite ?_ ?_
  · exact hk0
  · extract_lets +onlyGivenNames x_0
    clear_value x_0
    extract_lets +onlyGivenNames s0_1
    refine keeps_cut (v := s0_1) ?_ fun hs0_1 => ?_
    · subst s0_1
      apply decide0_keeps
      exact hk0
    clear_value s0_1
    split
    · exact hs0_1
    · refine keeps_ite ?_ ?_
      · exact hk0
      · refine keeps_cut (v := (s.select s.takeNow ↑node).2) ?_ fun hq2 => ?_
        · apply select_keeps
          exact hk0
        split
        · rename_i he2
          rw [he2] at hq2
          dsimp only at hq2
          exact hq2
        · rename_i he2
          rw [he2] at hq2
          dsimp only at hq2
          apply xPush_keeps
          exact hq2

theorem execSpillReadbackDone_keeps (queue : Fin 6272) (unc : Bool) (s : State) :
    Answers [.counters, .free, .memories, .paddock, .regs, .report, .sched] s (execSpillReadbackDone queue unc s) := by
  refine answers_of fun K n => ⟨_, rfl, ?_⟩
  have i0 : Free K .counters := n _ (by simp)
  have i1 : Free K .free := n _ (by simp)
  have i2 : Free K .memories := n _ (by simp)
  have i3 : Free K .paddock := n _ (by simp)
  have i4 : Free K .regs := n _ (by simp)
  have i5 : Free K .report := n _ (by simp)
  have i6 : Free K .sched := n _ (by simp)
  have hk0 := Keeps.refl (K := K) s
  apply spillBack_keeps
  exact hk0

theorem execQueueConfigWrite_keeps (q : Req) (queue : Fin 6272) (word : Fin 4) (v : Word) (s : State) :
    Answers [.counters, .regs, .report] s (execQueueConfigWrite q queue word v s) := by
  refine answers_of fun K n => ⟨_, rfl, ?_⟩
  have i0 : Free K .counters := n _ (by simp)
  have i1 : Free K .regs := n _ (by simp)
  have i2 : Free K .report := n _ (by simp)
  have hk0 := Keeps.refl (K := K) s
  apply guardW_keeps
  · exact hk0
  · intro y0 hy1
    apply queueCfgWrite_keeps
    exact hy1

theorem execBucketConfigWrite_keeps (q : Req) (addr : Nat) (v : Word) (s : State) :
    Answers [.counters, .regs, .report, .sched] s (execBucketConfigWrite q addr v s) := by
  refine answers_of fun K n => ⟨_, rfl, ?_⟩
  have i0 : Free K .counters := n _ (by simp)
  have i1 : Free K .regs := n _ (by simp)
  have i2 : Free K .report := n _ (by simp)
  have i3 : Free K .sched := n _ (by simp)
  have hk0 := Keeps.refl (K := K) s
  apply guardW_keeps
  · exact hk0
  · intro y0 hy1
    refine keeps_ite ?_ ?_
    · apply bucketWrite_keeps
      exact hy1
    · exact hy1

theorem execGateCommit_keeps (q : Req) (g : Fin 520) (v : Word) (s : State) :
    Answers [.counters, .gates, .regs, .report, .time] s (execGateCommit q g v s) := by
  refine answers_of fun K n => ⟨_, rfl, ?_⟩
  have i0 : Free K .counters := n _ (by simp)
  have i1 : Free K .gates := n _ (by simp)
  have i2 : Free K .regs := n _ (by simp)
  have i3 : Free K .report := n _ (by simp)
  have i4 : Free K .time := n _ (by simp)
  have hk0 := Keeps.refl (K := K) s
  apply guardW_keeps
  · exact hk0
  · intro y0 hy1
    apply gateCtrlWrite_keeps
    exact hy1

theorem execGateEntryAdvance_keeps (g : Fin 520) (s : State) :
    Answers [.gates] s (execGateEntryAdvance g s) := by
  refine answers_of fun K n => ⟨_, rfl, ?_⟩
  have i0 : Free K .gates := n _ (by simp)
  have hk0 := Keeps.refl (K := K) s
  refine keeps_ite ?_ ?_
  · extract_lets +onlyGivenNames t_0
    clear_value t_0
    extract_lets +onlyGivenNames c_1
    clear_value c_1
    apply setGate_keeps
    exact hk0
  · exact hk0

theorem execQueueSampleSweep_keeps (overrun : Bool) (s : State) :
    Answers [.capture, .counters, .paddock, .regs, .report, .sched] s (execQueueSampleSweep overrun s) := by
  refine answers_of fun K n => ⟨_, rfl, ?_⟩
  have i0 : Free K .capture := n _ (by simp)
  have i1 : Free K .counters := n _ (by simp)
  have i2 : Free K .paddock := n _ (by simp)
  have i3 : Free K .regs := n _ (by simp)
  have i4 : Free K .report := n _ (by simp)
  have i5 : Free K .sched := n _ (by simp)
  have hk0 := Keeps.refl (K := K) s
  refine keeps_ite ?_ ?_
  · exact hk0
  · refine keeps_ite ?_ ?_
    · extract_lets +onlyGivenNames s1_0
      refine keeps_cut (v := s1_0) ?_ fun hs1_0 => ?_
      · subst s1_0
        apply addReg_keeps
        exact hk0
      clear_value s1_0
      apply raiseLim_keeps
      exact hs1_0
    · extract_lets +onlyGivenNames s1_1
      refine keeps_cut (v := s1_1) ?_ fun hs1_1 => ?_
      · subst s1_1
        refine keeps_foldl _ ?_ ?_
        · exact hk0
        · intro y2 y3 hy4
          apply sampleOne_keeps
          exact hy4
      clear_value s1_1
      refine keeps_mk ?_
      exact hs1_1

end Sys2Proof.Machine
end

