-- ==== Sys2Proof/Laws/KeepsHost.lean ====
section
/-! SUPPORT. What the operations of Machine/Host.lean keep. -/

-- One proof at a time: in the package as one text, proofs that wait for each other would each hold a thread.
set_option Elab.async false

namespace Sys2Proof.Machine

variable {K : Comp → Prop}

theorem setRing_keeps {s0 s : State} (hk0 : Keeps K s0 s) (r : Nat) (x : Ring) [Free K .rings] :
    Keeps K s0 (State.setRing s r x) := by
  unfold State.setRing
  refine keeps_mk ?_
  exact hk0

theorem complete_keeps {s0 s : State} (hk0 : Keeps K s0 s) (r tag status hi8 len res0 res1 info : Nat) [Free K .counters] [Free K .regs] [Free K .report] [Free K .rings] :
    Keeps K s0 (State.complete s r tag status hi8 len res0 res1 info) := by
  unfold State.complete
  extract_lets +onlyGivenNames n_0
  clear_value n_0
  extract_lets +onlyGivenNames k_1
  clear_value k_1
  extract_lets +onlyGivenNames base2
  clear_value base2
  extract_lets +onlyGivenNames w_3
  clear_value w_3
  extract_lets +onlyGivenNames s1_4
  refine keeps_cut (v := s1_4) ?_ fun hs1_4 => ?_
  · subst s1_4
    apply hostWriteWords_keeps
    exact hk0
  clear_value s1_4
  extract_lets +onlyGivenNames s2_5
  clear_value s2_5
  extract_lets +onlyGivenNames s2_6
  refine keeps_cut (v := s2_6) ?_ fun hs2_6 => ?_
  · subst s2_6
    apply setF_keeps
    apply setRing_keeps
    exact hs1_4
  clear_value s2_6
  extract_lets +onlyGivenNames s3_7
  refine keeps_cut (v := s3_7) ?_ fun hs3_7 => ?_
  · subst s3_7
    apply bump_keeps
    exact hs2_6
  clear_value s3_7
  extract_lets +onlyGivenNames s4_8
  refine keeps_cut (v := s4_8) ?_ fun hs4_8 => ?_
  · subst s4_8
    split
    · apply bump_keeps
      exact hs3_7
    · apply bump_keeps
      exact hs3_7
    · apply bump_keeps
      exact hs3_7
    · apply bump_keeps
      exact hs3_7
    · exact hs3_7
  clear_value s4_8
  apply msixCause_keeps
  exact hs4_8

theorem descEvent_keeps {s0 s : State} (hk0 : Keeps K s0 s) (r reason : Nat) [Free K .counters] [Free K .regs] [Free K .report] :
    Keeps K s0 (State.descEvent s r reason) := by
  unfold State.descEvent
  apply raise_keeps
  exact hk0

theorem readTimeout_keeps {s0 s : State} (hk0 : Keeps K s0 s) (rd : HostRead) (r : Nat) [Free K .counters] [Free K .regs] [Free K .report] :
    Keeps K s0 (State.readTimeout s rd r) := by
  unfold State.readTimeout
  apply raiseIf_keeps
  exact hk0

theorem jobFlush_keeps {s0 s : State} (h : Keeps K s0 s) (n : Nat) [Free K .counters] [Free K .regs] [Free K .report] [Free K .rings] : Keeps K s0 (s.jobFlush n) := by
  induction n generalizing s with
  | zero => exact h
  | succ n ih =>
    unfold State.jobFlush
    refine keeps_ite h ?_
    split
    · exact h
    · split
      · exact h
      · exact ih (complete_keeps (keeps_mk h) ..)

theorem jobAdd_keeps {s0 s : State} (hk0 : Keeps K s0 s) (r : Nat) (d : Desc) (res : Option (Nat × Nat × Nat × Nat × Nat)) (waiting : Bool) [Free K .counters] [Free K .regs] [Free K .report] [Free K .rings] :
    Keeps K s0 (State.jobAdd s r d res waiting) := by
  unfold State.jobAdd
  extract_lets +onlyGivenNames j_0
  clear_value j_0
  apply jobFlush_keeps
  refine keeps_mk ?_
  exact hk0

theorem jobErr_keeps {s0 s : State} (hk0 : Keeps K s0 s) (r : Nat) (d : Desc) (reason : Nat) [Free K .counters] [Free K .regs] [Free K .report] [Free K .rings] :
    Keeps K s0 (State.jobErr s r d reason) := by
  unfold State.jobErr
  apply jobAdd_keeps
  apply descEvent_keeps
  exact hk0

theorem jobEnd_keeps {s0 s : State} (hk0 : Keeps K s0 s) (p : Job → Bool) (res : Nat × Nat × Nat × Nat × Nat) [Free K .counters] [Free K .regs] [Free K .report] [Free K .rings] :
    Keeps K s0 (State.jobEnd s p res) := by
  unfold State.jobEnd
  split
  · exact hk0
  · apply jobFlush_keeps
    refine keeps_mk ?_
    exact hk0

theorem ringCfgFields_keeps {s0 s : State} (hk0 : Keeps K s0 s) (r : Nat) (v : Word) [Free K .regs] :
    Keeps K s0 (State.ringCfgFields s r v) := by
  unfold State.ringCfgFields
  extract_lets +onlyGivenNames i_0
  clear_value i_0
  extract_lets +onlyGivenNames s1_1
  refine keeps_cut (v := s1_1) ?_ fun hs1_1 => ?_
  · subst s1_1
    apply setF_keeps
    exact hk0
  clear_value s1_1
  extract_lets +onlyGivenNames s2_2
  refine keeps_cut (v := s2_2) ?_ fun hs2_2 => ?_
  · subst s2_2
    refine keeps_ite ?_ ?_
    · exact hs1_1
    · apply setF_keeps
      exact hs1_1
  clear_value s2_2
  refine keeps_ite ?_ ?_
  · exact hs2_2
  · apply setF_keeps
    exact hs2_2

theorem ringCfgWrite_keeps {s0 s : State} (hk0 : Keeps K s0 s) (r : Nat) (v : Word) [Free K .counters] [Free K .regs] [Free K .report] [Free K .rings] :
    Keeps K s0 (State.ringCfgWrite s r v) := by
  unfold State.ringCfgWrite
  extract_lets +onlyGivenNames i_0
  clear_value i_0
  extract_lets +onlyGivenNames en_1
  clear_value en_1
  extract_lets +onlyGivenNames was_2
  clear_value was_2
  extract_lets +onlyGivenNames s1_3
  refine keeps_cut (v := s1_3) ?_ fun hs1_3 => ?_
  · subst s1_3
    apply ringCfgFields_keeps
    exact hk0
  clear_value s1_3
  refine keeps_ite ?_ ?_
  · split
    · apply setRing_keeps
      apply setReg_keeps
      apply setReg_keeps
      apply setFlag_keeps
      exact hs1_3
    · apply raise_keeps
      apply setF_keeps
      exact hs1_3
  · refine keeps_ite ?_ ?_
    · apply setFlag_keeps
      apply setFlag_keeps
      exact hs1_3
    · exact hs1_3

theorem ringFlush_keeps {s0 s : State} (h : Keeps K s0 s) (r n : Nat) (ds : List Desc) [Free K .counters] [Free K .regs] [Free K .report] [Free K .rings] : Keeps K s0 (s.ringFlush r n ds) := by
  induction n generalizing s ds with
  | zero => exact h
  | succ n ih => exact ih (complete_keeps h ..) _

theorem dbDiscard_keeps {s0 s : State} (hk0 : Keeps K s0 s) (page rf cause : Nat) [Free K .counters] [Free K .regs] [Free K .report] :
    Keeps K s0 (State.dbDiscard s page rf cause) := by
  unfold State.dbDiscard
  apply raise_keeps
  apply bump_keeps
  exact hk0

theorem doorbellOp_keeps {s0 s : State} (hk0 : Keeps K s0 s) (page offset width : Nat) (v : Word) [Free K .counters] [Free K .regs] [Free K .report] [Free K .rings] :
    Keeps K s0 (State.doorbellOp s page offset width v) := by
  unfold State.doorbellOp
  extract_lets +onlyGivenNames rf_0
  clear_value rf_0
  extract_lets +onlyGivenNames pi_1
  clear_value pi_1
  extract_lets +onlyGivenNames i_2
  clear_value i_2
  refine keeps_ite ?_ ?_
  · apply dbDiscard_keeps
    exact hk0
  · refine keeps_ite ?_ ?_
    · apply dbDiscard_keeps
      exact hk0
    · refine keeps_ite ?_ ?_
      · apply dbDiscard_keeps
        exact hk0
      · refine keeps_ite ?_ ?_
        · apply dbDiscard_keeps
          exact hk0
        · extract_lets +onlyGivenNames n_3
          clear_value n_3
          extract_lets +onlyGivenNames new_4
          clear_value new_4
          apply setRing_keeps
          apply setF_keeps
          exact hk0

theorem hostPush_keeps {s0 s : State} (hk0 : Keeps K s0 s) (x : Frame) [Free K .counters] [Free K .regs] [Free K .xings] :
    Keeps K s0 (State.hostPush s x) := by
  unfold State.hostPush
  apply bump_keeps
  apply xPush_keeps
  exact hk0

theorem txComplete_keeps {s0 s : State} (hk0 : Keeps K s0 s) (r : Nat) (d : Desc) (status len : Nat) [Free K .counters] [Free K .regs] [Free K .report] [Free K .rings] :
    Keeps K s0 (State.txComplete s r d status len) := by
  unfold State.txComplete
  apply complete_keeps
  exact hk0

theorem txSegments_keeps {s0 s : State} (h : Keeps K s0 s) (r : Nat) (d : Desc) (t pay : List Byte) (x : Template)
    (n fuel k : Nat) [Free K .counters] [Free K .regs] [Free K .report] [Free K .rings] [Free K .xings] : Keeps K s0 (s.txSegments r d t pay x n fuel k) := by
  induction fuel generalizing s k with
  | zero => exact keeps_mk h
  | succ fuel ih =>
    unfold State.txSegments
    refine keeps_ite (txComplete_keeps (bump_keeps (keeps_mk h) ..) ..) ?_
    exact keeps_ite (ih (hostPush_keeps h ..) _) (keeps_mk h)

theorem txRun_keeps {s0 s : State} (hk0 : Keeps K s0 s) (r : Nat) (x : TxWait) [Free K .counters] [Free K .regs] [Free K .report] [Free K .rings] [Free K .xings] :
    Keeps K s0 (State.txRun s r x) := by
  unfold State.txRun
  extract_lets +onlyGivenNames d_0
  clear_value d_0
  refine keeps_ite ?_ ?_
  · refine keeps_ite ?_ ?_
    · apply txComplete_keeps
      exact hk0
    · refine keeps_ite ?_ ?_
      · apply txComplete_keeps
        apply descEvent_keeps
        exact hk0
      · refine keeps_ite ?_ ?_
        · apply txComplete_keeps
          apply descEvent_keeps
          exact hk0
        · refine keeps_ite ?_ ?_
          · apply txComplete_keeps
            apply readTimeout_keeps
            exact hk0
          · extract_lets +onlyGivenNames bs_1
            clear_value bs_1
            refine keeps_ite ?_ ?_
            · apply txComplete_keeps
              apply bump_keeps
              apply hostPush_keeps
              exact hk0
            · exact hk0
  · extract_lets +onlyGivenNames t_2
    clear_value t_2
    extract_lets +onlyGivenNames pay_3
    clear_value pay_3
    refine keeps_ite ?_ ?_
    · apply txComplete_keeps
      apply descEvent_keeps
      exact hk0
    · refine keeps_ite ?_ ?_
      · apply txComplete_keeps
        apply descEvent_keeps
        exact hk0
      · refine keeps_ite ?_ ?_
        · apply txComplete_keeps
          apply readTimeout_keeps
          exact hk0
        · split
          · apply txComplete_keeps
            apply descEvent_keeps
            exact hk0
          · refine keeps_ite ?_ ?_
            · apply txComplete_keeps
              exact hk0
            · extract_lets +onlyGivenNames n_4
              clear_value n_4
              apply txSegments_keeps
              exact hk0

theorem txRound_keeps {s0 s : State} (hk0 : Keeps K s0 s) [Free K .rings] :
    Keeps K s0 (State.txRound s) := by
  unfold State.txRound
  extract_lets +onlyGivenNames rs_0
  clear_value rs_0
  refine keeps_ite ?_ ?_
  · exact hk0
  · refine keeps_foldl _ ?_ ?_
    · exact hk0
    · intro y1 y2 hy3
      apply setRing_keeps
      exact hy3

theorem txDrain_keeps {s0 s : State} (h : Keeps K s0 s) (n : Nat) [Free K .counters] [Free K .regs] [Free K .report] [Free K .rings] [Free K .xings] : Keeps K s0 (s.txDrain n) := by
  induction n generalizing s with
  | zero => exact h
  | succ n ih =>
    unfold State.txDrain
    split
    · exact h
    · split
      · exact h
      · rename_i r _ _ x _ _
        have k := txRun_keeps (txRound_keeps h) r x
        exact keeps_ite k (ih (setRing_keeps k ..))

theorem txGo_keeps {s0 s : State} (hk0 : Keeps K s0 s) [Free K .counters] [Free K .regs] [Free K .report] [Free K .rings] [Free K .xings] :
    Keeps K s0 (State.txGo s) := by
  unfold State.txGo
  apply txDrain_keeps
  exact hk0

theorem txDescOp_keeps {s0 s : State} (hk0 : Keeps K s0 s) (r : Nat) (d : Desc) (bytes : List Byte) (rd : HostRead) [Free K .counters] [Free K .regs] [Free K .report] [Free K .rings] [Free K .xings] :
    Keeps K s0 (State.txDescOp s r d bytes rd) := by
  unfold State.txDescOp
  refine keeps_ite ?_ ?_
  · exact hk0
  · apply txGo_keeps
    apply setRing_keeps
    exact hk0

theorem hostTake_keeps {s0 s : State} (h : Keeps K s0 s) (hq : Nat) {x : Frame × State} (he : s.hostTake hq = some x) [Free K .regs] [Free K .xings] :
    Keeps K s0 x.2 := by
  unfold State.hostTake at he
  split at he
  · cases he
  · cases he; exact setXing_keeps h ..  

theorem rxComplete_keeps {s0 s : State} (hk0 : Keeps K s0 s) (r hq : Nat) (d : Desc) (x : Frame) (status : Nat) [Free K .counters] [Free K .regs] [Free K .report] [Free K .rings] :
    Keeps K s0 (State.rxComplete s r hq d x status) := by
  unfold State.rxComplete
  extract_lets +onlyGivenNames t_0
  clear_value t_0
  apply complete_keeps
  exact hk0

theorem hostDeliver_keeps {s0 s : State} (h : Keeps K s0 s) (hq : Nat) (d : Desc) (ue : Bool) [Free K .counters] [Free K .free] [Free K .memories] [Free K .paddock] [Free K .regs] [Free K .report] [Free K .rings] [Free K .xings] :
    Keeps K s0 (s.hostDeliver hq d ue) := by
  unfold State.hostDeliver
  refine keeps_ite h (keeps_ite (complete_keeps h ..) (keeps_ite (complete_keeps (descEvent_keeps h ..) ..) ?_))
  split
  · exact h
  · rename_i x st he
    have k := padRead_keeps (hostTake_keeps h _ he) x ue
    exact keeps_ite (padDrop_keeps k _) (keeps_ite (rxComplete_keeps (padDrop_keeps k _) ..)
      (rxComplete_keeps (bump_keeps (bump_keeps (hostWrite_keeps (padDrop_keeps k _) ..) ..) ..) ..))

theorem evtCfgWrite_keeps {s0 s : State} (hk0 : Keeps K s0 s) (v : Word) [Free K .counters] [Free K .regs] [Free K .report] :
    Keeps K s0 (State.evtCfgWrite s v) := by
  unfold State.evtCfgWrite
  refine keeps_ite ?_ ?_
  · refine keeps_ite ?_ ?_
    · exact hk0
    · split
      · extract_lets +onlyGivenNames s1_0
        refine keeps_cut (v := s1_0) ?_ fun hs1_0 => ?_
        · subst s1_0
          apply setReg_keeps
          apply setF_keeps
          apply setF_keeps
          exact hk0
        clear_value s1_0
        apply evtRelease_keeps
        refine keeps_mk ?_
        exact hs1_0
      · apply raise_keeps
        exact hk0
  · apply setFlag_keeps
    exact hk0

theorem evtCiWrite_keeps {s0 s : State} (hk0 : Keeps K s0 s) (v : Word) [Free K .counters] [Free K .regs] [Free K .report] :
    Keeps K s0 (State.evtCiWrite s v) := by
  unfold State.evtCiWrite
  extract_lets +onlyGivenNames ci_0
  clear_value ci_0
  refine keeps_ite ?_ ?_
  · exact hk0
  · extract_lets +onlyGivenNames s1_1
    refine keeps_cut (v := s1_1) ?_ fun hs1_1 => ?_
    · subst s1_1
      apply setF_keeps
      exact hk0
    clear_value s1_1
    extract_lets +onlyGivenNames s2_2
    refine keeps_cut (v := s2_2) ?_ fun hs2_2 => ?_
    · subst s2_2
      apply setFlag_keeps
      exact hs1_1
    clear_value s2_2
    refine keeps_ite ?_ ?_
    · apply evtReportLost_keeps
      exact hs2_2
    · exact hs2_2

theorem pulses_keeps {s0 s : State} (h : Keeps K s0 s) (src level inst info n : Nat) [Free K .counters] [Free K .regs] [Free K .report] :
    Keeps K s0 (s.pulses src level inst info n) := by
  induction n generalizing s with
  | zero => exact h
  | succ n ih => exact ih (raise_keeps h ..)

theorem eventRaiseOp_keeps {s0 s : State} (hk0 : Keeps K s0 s) (src level inst info n : Nat) [Free K .counters] [Free K .link] [Free K .regs] [Free K .report] :
    Keeps K s0 (State.eventRaiseOp s src level inst info n) := by
  unfold State.eventRaiseOp
  refine keeps_ite ?_ ?_
  · exact hk0
  · refine keeps_ite ?_ ?_
    · refine keeps_ite ?_ ?_
      · exact hk0
      · apply aerLog_keeps
        exact hk0
    · extract_lets +onlyGivenNames s1_0
      refine keeps_cut (v := s1_0) ?_ fun hs1_0 => ?_
      · subst s1_0
        apply pulses_keeps
        exact hk0
      clear_value s1_0
      refine keeps_ite ?_ ?_
      · apply raise_keeps
        apply setFlag_keeps
        exact hs1_0
      · exact hs1_0

theorem msixResume_keeps {s0 s : State} (hk0 : Keeps K s0 s) [Free K .counters] [Free K .regs] [Free K .report] :
    Keeps K s0 (State.msixResume s) := by
  unfold State.msixResume
  refine keeps_foldl _ ?_ ?_
  · exact hk0
  · intro y0 y1 hy2
    refine keeps_ite ?_ ?_
    · apply msixSend_keeps
      exact hy2
    · exact hy2

theorem scanLeave_keeps {s0 s : State} (hk0 : Keeps K s0 s) (u : Nat) [Free K .free] [Free K .regs] :
    Keeps K s0 (State.scanLeave s u) := by
  unfold State.scanLeave
  extract_lets +onlyGivenNames v_0
  refine keeps_cut (v := v_0.2) ?_ fun hv_0 => ?_
  · subst v_0
    apply takeFree_keeps
    exact hk0
  clear_value v_0
  apply setFlag_keeps
  apply setReg_keeps
  apply setReg_keeps
  exact hv_0

theorem hostResetClear_keeps {s0 s : State} (h : Keeps K s0 s) (p c : Nat → Bool) [Free K .regs] [Free K .counters] [Free K .report] [Free K .rings] : Keeps K s0 { s with
    regs := sdrop p s.regs, counters := sdrop c s.counters,
    rings := [], jobs := [], txSend := none, vecs := [], evPhase := true, evLost := 0 } :=
  h.of_parts rfl rfl id id (fun k a => by
    simp only [State.counter, sget_sdrop]
    split
    · decide
    · exact k a) (fun m => swf_sdrop _ m) (fun m => swf_sdrop _ m) id id id id id

theorem hostResetCore_keeps {s0 s : State} (h : Keeps K s0 s) [Free K .circuits] [Free K .counters] [Free K .free] [Free K .memories] [Free K .paddock] [Free K .regs] [Free K .report] [Free K .rings] [Free K .xings] : Keeps K s0 s.hostResetCore := by
  unfold State.hostResetCore
  have h2 := setFlag_keeps (hostResetClear_keeps h s.hostResetReg fun a => 0xB000 ≤ a && a < 0xC000) F.HIF_CFG_RO_EN 0 false
  refine xReset_keeps (xReset_keeps (keeps_foldl _ (setFlag_keeps (addReg_keeps (keeps_ite ?_ h2) ..) ..)
    fun t u ht => scanLeave_keeps ht u) ..) ..
  exact keeps_foldl _ h2 fun t r ht => setF_keeps (setReg_keeps ht ..) ..

theorem hostResetOp_keeps {s0 s : State} (hk0 : Keeps K s0 s) (c : HostResetCause) [Free K .circuits] [Free K .counters] [Free K .free] [Free K .link] [Free K .memories] [Free K .paddock] [Free K .regs] [Free K .report] [Free K .rings] [Free K .xings] :
    Keeps K s0 (State.hostResetOp s c) := by
  unfold State.hostResetOp
  extract_lets +onlyGivenNames s1_0
  refine keeps_cut (v := s1_0) ?_ fun hs1_0 => ?_
  · subst s1_0
    apply hostResetCore_keeps
    exact hk0
  clear_value s1_0
  extract_lets +onlyGivenNames s2_1
  refine keeps_cut (v := s2_1) ?_ fun hs2_1 => ?_
  · subst s2_1
    split
    · apply setReg_keeps
      refine keeps_mk ?_
      exact hs1_0
    · apply setFlag_keeps
      refine keeps_mk ?_
      exact hs1_0
    · exact hs1_0
  clear_value s2_1
  apply setF_keeps
  apply setFlag_keeps
  refine keeps_mk ?_
  exact hs2_1

theorem execBusMasterChange_keeps (bme d3hot : Bool) (s : State) :
    Answers [.circuits, .counters, .free, .link, .memories, .paddock, .regs, .report, .rings, .xings] s (execBusMasterChange bme d3hot s) := by
  refine answers_of fun K n => ⟨_, rfl, ?_⟩
  have i0 : Free K .circuits := n _ (by simp)
  have i1 : Free K .counters := n _ (by simp)
  have i2 : Free K .free := n _ (by simp)
  have i3 : Free K .link := n _ (by simp)
  have i4 : Free K .memories := n _ (by simp)
  have i5 : Free K .paddock := n _ (by simp)
  have i6 : Free K .regs := n _ (by simp)
  have i7 : Free K .report := n _ (by simp)
  have i8 : Free K .rings := n _ (by simp)
  have i9 : Free K .xings := n _ (by simp)
  have hk0 := Keeps.refl (K := K) s
  refine keeps_ite ?_ ?_
  · apply setFlag_keeps
    apply hostResetOp_keeps
    exact hk0
  · extract_lets +onlyGivenNames s1_0
    refine keeps_cut (v := s1_0) ?_ fun hs1_0 => ?_
    · subst s1_0
      apply setFlag_keeps
      refine keeps_mk ?_
      exact hk0
    clear_value s1_0
    refine keeps_ite ?_ ?_
    · apply txGo_keeps
      apply msixResume_keeps
      apply jobFlush_keeps
      refine keeps_ite ?_ ?_
      · apply evtReportLost_keeps
        exact hs1_0
      · exact hs1_0
    · exact hs1_0

theorem execHostReset_keeps (q : Req) (cause : HostResetCause) (s : State) :
    Answers [.circuits, .counters, .free, .link, .memories, .paddock, .regs, .report, .rings, .xings] s (execHostReset q cause s) := by
  refine answers_of fun K n => ⟨_, rfl, ?_⟩
  have i0 : Free K .circuits := n _ (by simp)
  have i1 : Free K .counters := n _ (by simp)
  have i2 : Free K .free := n _ (by simp)
  have i3 : Free K .link := n _ (by simp)
  have i4 : Free K .memories := n _ (by simp)
  have i5 : Free K .paddock := n _ (by simp)
  have i6 : Free K .regs := n _ (by simp)
  have i7 : Free K .report := n _ (by simp)
  have i8 : Free K .rings := n _ (by simp)
  have i9 : Free K .xings := n _ (by simp)
  have hk0 := Keeps.refl (K := K) s
  split
  · refine keeps_ite ?_ ?_
    · apply hostResetOp_keeps
      exact hk0
    · exact hk0
  · apply hostResetOp_keeps
    exact hk0

theorem execRingEnable_keeps (q : Req) (r : Fin 64) (v : Word) (s : State) :
    Answers [.counters, .regs, .report, .rings] s (execRingEnable q r v s) := by
  refine answers_of fun K n => ⟨_, rfl, ?_⟩
  have i0 : Free K .counters := n _ (by simp)
  have i1 : Free K .regs := n _ (by simp)
  have i2 : Free K .report := n _ (by simp)
  have i3 : Free K .rings := n _ (by simp)
  have hk0 := Keeps.refl (K := K) s
  apply guardHostW_keeps
  · exact hk0
  · intro y0 hy1
    apply ringCfgWrite_keeps
    exact hy1

theorem execRingDisable_keeps (q : Req) (r : Fin 64) (v : Word) (s : State) :
    Answers [.counters, .regs, .report, .rings] s (execRingDisable q r v s) := by
  refine answers_of fun K n => ⟨_, rfl, ?_⟩
  have i0 : Free K .counters := n _ (by simp)
  have i1 : Free K .regs := n _ (by simp)
  have i2 : Free K .report := n _ (by simp)
  have i3 : Free K .rings := n _ (by simp)
  have hk0 := Keeps.refl (K := K) s
  apply guardHostW_keeps
  · exact hk0
  · intro y0 hy1
    apply ringCfgWrite_keeps
    exact hy1

theorem execDoorbell_keeps (page : Fin 64) (offset width : Nat) (v : Word) (s : State) :
    Answers [.counters, .regs, .report, .rings] s (execDoorbell page offset width v s) := by
  refine answers_of fun K n => ⟨_, rfl, ?_⟩
  have i0 : Free K .counters := n _ (by simp)
  have i1 : Free K .regs := n _ (by simp)
  have i2 : Free K .report := n _ (by simp)
  have i3 : Free K .rings := n _ (by simp)
  have hk0 := Keeps.refl (K := K) s
  refine keeps_ite ?_ ?_
  · exact hk0
  · apply doorbellOp_keeps
    exact hk0

theorem execTxDescriptor_keeps (r : Fin 64) (d : Desc) (bytes : List Byte) (rd : HostRead) (s : State) :
    Answers [.counters, .regs, .report, .rings, .xings] s (execTxDescriptor r d bytes rd s) := by
  refine answers_of fun K n => ⟨_, rfl, ?_⟩
  have i0 : Free K .counters := n _ (by simp)
  have i1 : Free K .regs := n _ (by simp)
  have i2 : Free K .report := n _ (by simp)
  have i3 : Free K .rings := n _ (by simp)
  have i4 : Free K .xings := n _ (by simp)
  have hk0 := Keeps.refl (K := K) s
  apply txDescOp_keeps
  exact hk0

theorem execHostQueueDeliver_keeps (hq : Fin 128) (d : Desc) (ue : Bool) (s : State) :
    Answers [.counters, .free, .memories, .paddock, .regs, .report, .rings, .xings] s (execHostQueueDeliver hq d ue s) := by
  refine answers_of fun K n => ⟨_, rfl, ?_⟩
  have i0 : Free K .counters := n _ (by simp)
  have i1 : Free K .free := n _ (by simp)
  have i2 : Free K .memories := n _ (by simp)
  have i3 : Free K .paddock := n _ (by simp)
  have i4 : Free K .regs := n _ (by simp)
  have i5 : Free K .report := n _ (by simp)
  have i6 : Free K .rings := n _ (by simp)
  have i7 : Free K .xings := n _ (by simp)
  have hk0 := Keeps.refl (K := K) s
  apply hostDeliver_keeps
  exact hk0

theorem execDescriptorFetchError_keeps (r : Fin 64) (timeout : Bool) (s : State) :
    Answers [.counters, .regs, .report] s (execDescriptorFetchError r timeout s) := by
  refine answers_of fun K n => ⟨_, rfl, ?_⟩
  have i0 : Free K .counters := n _ (by simp)
  have i1 : Free K .regs := n _ (by simp)
  have i2 : Free K .report := n _ (by simp)
  have hk0 := Keeps.refl (K := K) s
  refine keeps_ite ?_ ?_
  · apply raiseIf_keeps
    apply raise_keeps
    apply bump_keeps
    apply setF_keeps
    apply setFlag_keeps
    exact hk0
  · exact hk0

theorem execJobNop_keeps (r : Fin 64) (d : Desc) (s : State) :
    Answers [.counters, .regs, .report, .rings] s (execJobNop r d s) := by
  refine answers_of fun K n => ⟨_, rfl, ?_⟩
  have i0 : Free K .counters := n _ (by simp)
  have i1 : Free K .regs := n _ (by simp)
  have i2 : Free K .report := n _ (by simp)
  have i3 : Free K .rings := n _ (by simp)
  have hk0 := Keeps.refl (K := K) s
  refine keeps_ite ?_ ?_
  · refine keeps_ite ?_ ?_
    · apply jobErr_keeps
      exact hk0
    · refine keeps_ite ?_ ?_
      · apply jobAdd_keeps
        exact hk0
      · refine keeps_ite ?_ ?_
        · apply jobErr_keeps
          exact hk0
        · exact hk0
  · exact hk0

theorem execEventRingEnable_keeps (q : Req) (v : Word) (s : State) :
    Answers [.counters, .regs, .report] s (execEventRingEnable q v s) := by
  refine answers_of fun K n => ⟨_, rfl, ?_⟩
  have i0 : Free K .counters := n _ (by simp)
  have i1 : Free K .regs := n _ (by simp)
  have i2 : Free K .report := n _ (by simp)
  have hk0 := Keeps.refl (K := K) s
  apply guardHostW_keeps
  · exact hk0
  · intro y0 hy1
    apply evtCfgWrite_keeps
    exact hy1

theorem execEventRingDisable_keeps (q : Req) (v : Word) (s : State) :
    Answers [.counters, .regs, .report] s (execEventRingDisable q v s) := by
  refine answers_of fun K n => ⟨_, rfl, ?_⟩
  have i0 : Free K .counters := n _ (by simp)
  have i1 : Free K .regs := n _ (by simp)
  have i2 : Free K .report := n _ (by simp)
  have hk0 := Keeps.refl (K := K) s
  apply guardHostW_keeps
  · exact hk0
  · intro y0 hy1
    apply evtCfgWrite_keeps
    exact hy1

theorem execEventRingCiWrite_keeps (q : Req) (v : Word) (s : State) :
    Answers [.counters, .regs, .report] s (execEventRingCiWrite q v s) := by
  refine answers_of fun K n => ⟨_, rfl, ?_⟩
  have i0 : Free K .counters := n _ (by simp)
  have i1 : Free K .regs := n _ (by simp)
  have i2 : Free K .report := n _ (by simp)
  have hk0 := Keeps.refl (K := K) s
  apply guardHostW_keeps
  · exact hk0
  · intro y0 hy1
    apply evtCiWrite_keeps
    exact hy1

theorem execEventRaise_keeps (src : Fin 512) (level : Fin 4) (inst : Nat) (info : Word) (pulses : Nat) (s : State) :
    Answers [.counters, .link, .regs, .report] s (execEventRaise src level inst info pulses s) := by
  refine answers_of fun K n => ⟨_, rfl, ?_⟩
  have i0 : Free K .counters := n _ (by simp)
  have i1 : Free K .link := n _ (by simp)
  have i2 : Free K .regs := n _ (by simp)
  have i3 : Free K .report := n _ (by simp)
  have hk0 := Keeps.refl (K := K) s
  apply eventRaiseOp_keeps
  exact hk0

theorem execMsixHoldoffExpire_keeps (v : Fin 64) (s : State) :
    Answers [.counters, .regs, .report] s (execMsixHoldoffExpire v s) := by
  refine answers_of fun K n => ⟨_, rfl, ?_⟩
  have i0 : Free K .counters := n _ (by simp)
  have i1 : Free K .regs := n _ (by simp)
  have i2 : Free K .report := n _ (by simp)
  have hk0 := Keeps.refl (K := K) s
  refine keeps_ite ?_ ?_
  · apply msixSend_keeps
    exact hk0
  · exact hk0

theorem execMsixUnmask_keeps (v : Fin 64) (s : State) :
    Answers [.counters, .regs, .report] s (execMsixUnmask v s) := by
  refine answers_of fun K n => ⟨_, rfl, ?_⟩
  have i0 : Free K .counters := n _ (by simp)
  have i1 : Free K .regs := n _ (by simp)
  have i2 : Free K .report := n _ (by simp)
  have hk0 := Keeps.refl (K := K) s
  refine keeps_ite ?_ ?_
  · exact hk0
  · refine keeps_ite ?_ ?_
    · apply msixSend_keeps
      apply setF_keeps
      exact hk0
    · apply setF_keeps
      exact hk0

theorem execPcieLinkChange_keeps (up : Bool) (speed width : Nat) (s : State) :
    Answers [.counters, .regs, .report] s (execPcieLinkChange up speed width s) := by
  refine answers_of fun K n => ⟨_, rfl, ?_⟩
  have i0 : Free K .counters := n _ (by simp)
  have i1 : Free K .regs := n _ (by simp)
  have i2 : Free K .report := n _ (by simp)
  have hk0 := Keeps.refl (K := K) s
  apply raise_keeps
  apply setF_keeps
  apply setF_keeps
  apply setFlag_keeps
  exact hk0

end Sys2Proof.Machine
end

