-- ==== Sys2Proof/Laws/KeepsStudbook.lean ====
section
/-! SUPPORT. What the operations of Machine/Studbook.lean keep. -/

-- One proof at a time: in the package as one text, proofs that wait for each other would each hold a thread.
set_option Elab.async false

namespace Sys2Proof.Machine

variable {K : Comp → Prop}

theorem capCfgWrite_keeps {s0 s : State} (hk0 : Keeps K s0 s) (v : Word) [Free K .capture] [Free K .counters] [Free K .regs] [Free K .report] :
    Keeps K s0 (State.capCfgWrite s v) := by
  unfold State.capCfgWrite
  extract_lets +onlyGivenNames s1_0
  refine keeps_cut (v := s1_0) ?_ fun hs1_0 => ?_
  · subst s1_0
    apply setF_keeps
    apply setF_keeps
    exact hk0
  clear_value s1_0
  refine keeps_ite ?_ ?_
  · apply setFlag_keeps
    exact hs1_0
  · refine keeps_ite ?_ ?_
    · exact hs1_0
    · refine keeps_ite ?_ ?_
      · apply raise_keeps
        apply setFlag_keeps
        exact hs1_0
      · extract_lets +onlyGivenNames s2_1
        refine keeps_cut (v := s2_1) ?_ fun hs2_1 => ?_
        · subst s2_1
          apply setCapOldest_keeps
          apply setCapWp_keeps
          apply setFlag_keeps
          exact hs1_0
        clear_value s2_1
        apply modCp_keeps
        exact hs2_1

theorem capStatWrite_keeps {s0 s : State} (hk0 : Keeps K s0 s) (v : Word) [Free K .capture] [Free K .regs] :
    Keeps K s0 (State.capStatWrite s v) := by
  unfold State.capStatWrite
  extract_lets +onlyGivenNames s1_0
  refine keeps_cut (v := s1_0) ?_ fun hs1_0 => ?_
  · subst s1_0
    apply setReg_keeps
    exact hk0
  clear_value s1_0
  refine keeps_ite ?_ ?_
  · extract_lets +onlyGivenNames s2_1
    refine keeps_cut (v := s2_1) ?_ fun hs2_1 => ?_
    · subst s2_1
      apply setCapOldest_keeps
      apply setCapWp_keeps
      exact hs1_0
    clear_value s2_1
    apply modCp_keeps
    exact hs2_1
  · exact hs1_0

theorem capStale_keeps {s0 s : State} (hk0 : Keeps K s0 s) [Free K .capture] [Free K .counters] [Free K .memories] [Free K .paddock] [Free K .regs] [Free K .report] :
    Keeps K s0 (State.capStale s) := by
  unfold State.capStale
  split
  · exact hk0
  · apply capDrop_keeps
    apply padUnref_keeps
    apply modCp_keeps
    exact hk0

theorem capRdEnd_keeps {s0 s : State} (hk0 : Keeps K s0 s) (result bytes : Nat) [Free K .regs] :
    Keeps K s0 (State.capRdEnd s result bytes) := by
  unfold State.capRdEnd
  apply setReg_keeps
  apply setF_keeps
  apply setFlag_keeps
  apply setFlag_keeps
  exact hk0

theorem capRdWrite_keeps {s0 s : State} (hk0 : Keeps K s0 s) (v : Word) [Free K .capture] [Free K .regs] :
    Keeps K s0 (State.capRdWrite s v) := by
  unfold State.capRdWrite
  extract_lets +onlyGivenNames s1_0
  refine keeps_cut (v := s1_0) ?_ fun hs1_0 => ?_
  · subst s1_0
    refine keeps_ite ?_ ?_
    · apply setFlag_keeps
      exact hk0
    · exact hk0
  clear_value s1_0
  refine keeps_ite ?_ ?_
  · exact hs1_0
  · refine keeps_ite ?_ ?_
    · apply capRdEnd_keeps
      exact hs1_0
    · refine keeps_ite ?_ ?_
      · apply capRdEnd_keeps
        exact hs1_0
      · apply modCp_keeps
        apply setF_keeps
        apply setFlag_keeps
        exact hs1_0

theorem snapSkip_keeps {s0 s : State} (hk0 : Keeps K s0 s) (cause : Nat) [Free K .capture] [Free K .counters] [Free K .regs] [Free K .report] :
    Keeps K s0 (State.snapSkip s cause) := by
  unfold State.snapSkip
  extract_lets +onlyGivenNames s1_0
  refine keeps_cut (v := s1_0) ?_ fun hs1_0 => ?_
  · subst s1_0
    apply bump_keeps
    apply modCp_keeps
    exact hk0
  clear_value s1_0
  apply raise_keeps
  exact hs1_0

theorem snapLatch_keeps {s0 s : State} (hk0 : Keeps K s0 s) (cause : Nat) [Free K .capture] [Free K .counters] [Free K .regs] [Free K .report] :
    Keeps K s0 (State.snapLatch s cause) := by
  unfold State.snapLatch
  refine keeps_ite ?_ ?_
  · apply snapSkip_keeps
    exact hk0
  · extract_lets +onlyGivenNames seq_0
    clear_value seq_0
    extract_lets +onlyGivenNames x_1
    clear_value x_1
    extract_lets +onlyGivenNames s1_2
    refine keeps_cut (v := s1_2) ?_ fun hs1_2 => ?_
    · subst s1_2
      apply setF_keeps
      apply modCp_keeps
      exact hk0
    clear_value s1_2
    refine keeps_ite ?_ ?_
    · apply modCp_keeps
      exact hs1_2
    · apply snapSkip_keeps
      exact hs1_2

theorem snapTake_keeps {s0 s : State} (hk0 : Keeps K s0 s) (cause : Nat) [Free K .capture] [Free K .counters] [Free K .regs] [Free K .report] :
    Keeps K s0 (State.snapTake s cause) := by
  unfold State.snapTake
  refine keeps_ite ?_ ?_
  · exact hk0
  · split
    · refine keeps_ite ?_ ?_
      · extract_lets +onlyGivenNames m_0
        clear_value m_0
        apply modCp_keeps
        exact hk0
      · apply snapLatch_keeps
        exact hk0
    · apply snapLatch_keeps
      exact hk0

theorem snapWrite_keeps {s0 s : State} (hk0 : Keeps K s0 s) (r : Nat) (d : Desc) [Free K .capture] [Free K .counters] [Free K .regs] [Free K .report] [Free K .rings] :
    Keeps K s0 (State.snapWrite s r d) := by
  unfold State.snapWrite
  refine keeps_ite ?_ ?_
  · exact hk0
  · refine keeps_ite ?_ ?_
    · apply complete_keeps
      exact hk0
    · refine keeps_ite ?_ ?_
      · apply complete_keeps
        apply descEvent_keeps
        exact hk0
      · split
        · exact hk0
        · extract_lets +onlyGivenNames s_0
          refine keeps_cut (v := s_0) ?_ fun hs_0 => ?_
          · subst s_0
            apply modCp_keeps
            exact hk0
          clear_value s_0
          extract_lets +onlyGivenNames r0_1
          clear_value r0_1
          refine keeps_ite ?_ ?_
          · apply complete_keeps
            apply snapSkip_keeps
            exact hs_0
          · extract_lets +onlyGivenNames s1_2
            refine keeps_cut (v := s1_2) ?_ fun hs1_2 => ?_
            · subst s1_2
              apply hostWrite_keeps
              apply modCp_keeps
              exact hs_0
            clear_value s1_2
            apply raise_keeps
            apply bump_keeps
            apply complete_keeps
            exact hs1_2

theorem stbCfgWrite_keeps {s0 s : State} (hk0 : Keeps K s0 s) (v : Word) [Free K .capture] [Free K .regs] :
    Keeps K s0 (State.stbCfgWrite s v) := by
  unfold State.stbCfgWrite
  extract_lets +onlyGivenNames rise0
  clear_value rise0
  extract_lets +onlyGivenNames s1_1
  refine keeps_cut (v := s1_1) ?_ fun hs1_1 => ?_
  · subst s1_1
    apply setReg_keeps
    exact hk0
  clear_value s1_1
  refine keeps_ite ?_ ?_
  · apply setReg_keeps
    apply modCp_keeps
    exact hs1_1
  · exact hs1_1

theorem stbArmWrite_keeps {s0 s : State} (hk0 : Keeps K s0 s) (q : Req) (v : Word) [Free K .counters] [Free K .regs] [Free K .report] [Free K .time] :
    Keeps K s0 (State.stbArmWrite s q v) := by
  unfold State.stbArmWrite
  extract_lets +onlyGivenNames n_0
  clear_value n_0
  refine keeps_ite ?_ ?_
  · refine keeps_ite ?_ ?_
    · exact hk0
    · apply setF_keeps
      apply setFlag_keeps
      apply cmpDisarm_keeps
      exact hk0
  · refine keeps_ite ?_ ?_
    · apply setF_keeps
      exact hk0
    · refine keeps_ite ?_ ?_
      · apply resConflict_keeps
        exact hk0
      · apply setFlag_keeps
        apply setF_keeps
        apply cmpArm_keeps
        apply resTake_keeps
        exact hk0

theorem stbNow_keeps {s0 s : State} (hk0 : Keeps K s0 s) (v : Word) [Free K .capture] :
    Keeps K s0 (State.stbNow s v) := by
  unfold State.stbNow
  refine keeps_ite ?_ ?_
  · apply modCp_keeps
    exact hk0
  · exact hk0

theorem snapTick_keeps {s0 s : State} (hk0 : Keeps K s0 s) [Free K .capture] [Free K .counters] [Free K .regs] [Free K .report] :
    Keeps K s0 (State.snapTick s) := by
  unfold State.snapTick
  refine keeps_ite ?_ ?_
  · apply snapTake_keeps
    apply modCp_keeps
    exact hk0
  · exact hk0

theorem upageWrite_keeps {s0 s : State} (hk0 : Keeps K s0 s) (v : Word) [Free K .counters] [Free K .regs] [Free K .report] :
    Keeps K s0 (State.upageWrite s v) := by
  unfold State.upageWrite
  apply raiseIf_keeps
  apply setReg_keeps
  exact hk0

theorem execCaptureEnable_keeps (q : Req) (v : Word) (s : State) :
    Answers [.capture, .counters, .regs, .report] s (execCaptureEnable q v s) := by
  refine answers_of fun K n => ⟨_, rfl, ?_⟩
  have i0 : Free K .capture := n _ (by simp)
  have i1 : Free K .counters := n _ (by simp)
  have i2 : Free K .regs := n _ (by simp)
  have i3 : Free K .report := n _ (by simp)
  have hk0 := Keeps.refl (K := K) s
  apply guardW_keeps
  · exact hk0
  · intro y0 hy1
    apply capCfgWrite_keeps
    exact hy1

theorem execCaptureRecordWrite_keeps (s : State) :
    Answers [.capture, .counters, .dram, .memories, .paddock, .regs, .report] s (execCaptureRecordWrite s) := by
  refine answers_of fun K n => ⟨_, rfl, ?_⟩
  have i0 : Free K .capture := n _ (by simp)
  have i1 : Free K .counters := n _ (by simp)
  have i2 : Free K .dram := n _ (by simp)
  have i3 : Free K .memories := n _ (by simp)
  have i4 : Free K .paddock := n _ (by simp)
  have i5 : Free K .regs := n _ (by simp)
  have i6 : Free K .report := n _ (by simp)
  have hk0 := Keeps.refl (K := K) s
  apply capWriteFront_keeps
  exact hk0

theorem execCaptureCopyStale_keeps (s : State) :
    Answers [.capture, .counters, .memories, .paddock, .regs, .report] s (execCaptureCopyStale s) := by
  refine answers_of fun K n => ⟨_, rfl, ?_⟩
  have i0 : Free K .capture := n _ (by simp)
  have i1 : Free K .counters := n _ (by simp)
  have i2 : Free K .memories := n _ (by simp)
  have i3 : Free K .paddock := n _ (by simp)
  have i4 : Free K .regs := n _ (by simp)
  have i5 : Free K .report := n _ (by simp)
  have hk0 := Keeps.refl (K := K) s
  apply capStale_keeps
  exact hk0

theorem execCaptureResume_keeps (q : Req) (v : Word) (s : State) :
    Answers [.capture, .counters, .regs, .report] s (execCaptureResume q v s) := by
  refine answers_of fun K n => ⟨_, rfl, ?_⟩
  have i0 : Free K .capture := n _ (by simp)
  have i1 : Free K .counters := n _ (by simp)
  have i2 : Free K .regs := n _ (by simp)
  have i3 : Free K .report := n _ (by simp)
  have hk0 := Keeps.refl (K := K) s
  apply guardW_keeps
  · exact hk0
  · intro y0 hy1
    apply capStatWrite_keeps
    exact hy1

theorem execCaptureReadoutStart_keeps (q : Req) (v : Word) (s : State) :
    Answers [.capture, .counters, .regs, .report] s (execCaptureReadoutStart q v s) := by
  refine answers_of fun K n => ⟨_, rfl, ?_⟩
  have i0 : Free K .capture := n _ (by simp)
  have i1 : Free K .counters := n _ (by simp)
  have i2 : Free K .regs := n _ (by simp)
  have i3 : Free K .report := n _ (by simp)
  have hk0 := Keeps.refl (K := K) s
  apply guardW_keeps
  · exact hk0
  · intro y0 hy1
    apply capRdWrite_keeps
    exact hy1

theorem execStbNow_keeps (q : Req) (v : Word) (s : State) :
    Answers [.capture, .counters, .regs, .report] s (execStbNow q v s) := by
  refine answers_of fun K n => ⟨_, rfl, ?_⟩
  have i0 : Free K .capture := n _ (by simp)
  have i1 : Free K .counters := n _ (by simp)
  have i2 : Free K .regs := n _ (by simp)
  have i3 : Free K .report := n _ (by simp)
  have hk0 := Keeps.refl (K := K) s
  apply guardW_keeps
  · exact hk0
  · intro y0 hy1
    apply stbNow_keeps
    exact hy1

theorem execSnapshotPeriod_keeps (s : State) :
    Answers [.capture, .counters, .regs, .report] s (execSnapshotPeriod s) := by
  refine answers_of fun K n => ⟨_, rfl, ?_⟩
  have i0 : Free K .capture := n _ (by simp)
  have i1 : Free K .counters := n _ (by simp)
  have i2 : Free K .regs := n _ (by simp)
  have i3 : Free K .report := n _ (by simp)
  have hk0 := Keeps.refl (K := K) s
  refine keeps_ite ?_ ?_
  · apply snapTake_keeps
    exact hk0
  · exact hk0

theorem execSnapshotWriteEnd_keeps (r : Fin 64) (d : Desc) (s : State) :
    Answers [.capture, .counters, .regs, .report, .rings] s (execSnapshotWriteEnd r d s) := by
  refine answers_of fun K n => ⟨_, rfl, ?_⟩
  have i0 : Free K .capture := n _ (by simp)
  have i1 : Free K .counters := n _ (by simp)
  have i2 : Free K .regs := n _ (by simp)
  have i3 : Free K .report := n _ (by simp)
  have i4 : Free K .rings := n _ (by simp)
  have hk0 := Keeps.refl (K := K) s
  apply snapWrite_keeps
  exact hk0

theorem execStudbookComparatorArm_keeps (q : Req) (v : Word) (s : State) :
    Answers [.counters, .regs, .report, .time] s (execStudbookComparatorArm q v s) := by
  refine answers_of fun K n => ⟨_, rfl, ?_⟩
  have i0 : Free K .counters := n _ (by simp)
  have i1 : Free K .regs := n _ (by simp)
  have i2 : Free K .report := n _ (by simp)
  have i3 : Free K .time := n _ (by simp)
  have hk0 := Keeps.refl (K := K) s
  apply guardW_keeps
  · exact hk0
  · intro y0 hy1
    apply stbArmWrite_keeps
    exact hy1

theorem execUserPageWrite_keeps (q : Req) (v : Word) (s : State) :
    Answers [.counters, .regs, .report] s (execUserPageWrite q v s) := by
  refine answers_of fun K n => ⟨_, rfl, ?_⟩
  have i0 : Free K .counters := n _ (by simp)
  have i1 : Free K .regs := n _ (by simp)
  have i2 : Free K .report := n _ (by simp)
  have hk0 := Keeps.refl (K := K) s
  apply guardHostW_keeps
  · exact hk0
  · intro y0 hy1
    apply upageWrite_keeps
    exact hy1

end Sys2Proof.Machine
end

