-- ==== Sys2Proof/Laws/KeepsTime.lean ====
section
/-! SUPPORT. What the operations of Machine/Time.lean keep. -/

-- One proof at a time: in the package as one text, proofs that wait for each other would each hold a thread.
set_option Elab.async false

namespace Sys2Proof.Machine

variable {K : Comp → Prop}

theorem timGo_keeps {s0 s : State} (hk0 : Keeps K s0 s) (new cause : Nat) [Free K .counters] [Free K .regs] [Free K .report] [Free K .time] :
    Keeps K s0 (State.timGo s new cause) := by
  unfold State.timGo
  extract_lets +onlyGivenNames old_0
  clear_value old_0
  refine keeps_ite ?_ ?_
  · exact hk0
  · extract_lets +onlyGivenNames s1_1
    refine keeps_cut (v := s1_1) ?_ fun hs1_1 => ?_
    · subst s1_1
      apply setF_keeps
      exact hk0
    clear_value s1_1
    extract_lets +onlyGivenNames s2_2
    refine keeps_cut (v := s2_2) ?_ fun hs2_2 => ?_
    · subst s2_2
      refine keeps_ite ?_ ?_
      · apply setF_keeps
        exact hs1_1
      · exact hs1_1
    clear_value s2_2
    extract_lets +onlyGivenNames s3_3
    refine keeps_cut (v := s3_3) ?_ fun hs3_3 => ?_
    · subst s3_3
      refine keeps_ite ?_ ?_
      · apply modTm_keeps
        · exact hs2_2
        · intro y4
          rfl
      · exact hs2_2
    clear_value s3_3
    extract_lets +onlyGivenNames s4_5
    clear_value s4_5
    extract_lets +onlyGivenNames s4_6
    clear_value s4_6
    extract_lets +onlyGivenNames s4_7
    refine keeps_cut (v := s4_7) ?_ fun hs4_7 => ?_
    · subst s4_7
      refine keeps_ite ?_ ?_
      · apply modTm_keeps
        · exact hs3_3
        · intro y8
          rfl
      · exact hs3_3
    clear_value s4_7
    apply raise_keeps
    exact hs4_7

theorem timFreeze_keeps {s0 s : State} (hk0 : Keeps K s0 s) [Free K .free] [Free K .regs] [Free K .time] :
    Keeps K s0 (State.timFreeze s) := by
  unfold State.timFreeze
  refine keeps_ite ?_ ?_
  · exact hk0
  · refine keeps_cut (v := (if 5 ≤ s.timSrc then (BitVec.toNat (s.reg 16777260), s) else s.takeFree 32).2) ?_ fun hq0 => ?_
    · refine keeps_ite2 ?_ ?_
      · refine keeps_pair ?_
        exact hk0
      · apply takeFree_keeps
        exact hk0
    split
    · rename_i he0
      rw [he0] at hq0
      dsimp only at hq0
      apply setReg_keeps
      apply modTm_keeps
      · exact hq0
      · intro y1
        rfl

theorem timThaw_keeps {s0 s : State} (hk0 : Keeps K s0 s) [Free K .time] :
    Keeps K s0 (State.timThaw s) := by
  unfold State.timThaw
  apply modTm_keeps
  · exact hk0
  · intro y0
    rfl

theorem timHold_keeps {s0 s : State} (hk0 : Keeps K s0 s) (cause : Nat) [Free K .counters] [Free K .free] [Free K .regs] [Free K .report] [Free K .time] :
    Keeps K s0 (State.timHold s cause) := by
  unfold State.timHold
  refine keeps_ite ?_ ?_
  · apply timGo_keeps
    refine keeps_ite ?_ ?_
    · exact hk0
    · apply timFreeze_keeps
      exact hk0
  · refine keeps_ite ?_ ?_
    · apply setF_keeps
      apply timFreeze_keeps
      exact hk0
    · exact hk0

theorem timLost_keeps {s0 s : State} (hk0 : Keeps K s0 s) [Free K .counters] [Free K .free] [Free K .pairing] [Free K .regs] [Free K .report] [Free K .time] :
    Keeps K s0 (State.timLost s) := by
  unfold State.timLost
  refine keeps_ite ?_ ?_
  · apply modPrt_keeps
    exact hk0
  · split
    · refine keeps_ite ?_ ?_
      · apply timHold_keeps
        exact hk0
      · exact hk0
    · exact hk0

theorem timSideLost_keeps {s0 s : State} (hk0 : Keeps K s0 s) (x : Side) [Free K .counters] [Free K .free] [Free K .regs] [Free K .report] [Free K .time] :
    Keeps K s0 (State.timSideLost s x) := by
  unfold State.timSideLost
  refine keeps_ite ?_ ?_
  · exact hk0
  · refine keeps_ite ?_ ?_
    · apply timHold_keeps
      exact hk0
    · exact hk0

theorem timSideBack_keeps {s0 s : State} (hk0 : Keeps K s0 s) (x : Side) [Free K .time] :
    Keeps K s0 (State.timSideBack s x) := by
  unfold State.timSideBack
  refine keeps_ite ?_ ?_
  · apply timThaw_keeps
    exact hk0
  · exact hk0

theorem timMove_keeps {s0 s : State} (hk0 : Keeps K s0 s) (switch : Bool) [Free K .counters] [Free K .free] [Free K .pairing] [Free K .regs] [Free K .report] [Free K .time] :
    Keeps K s0 (State.timMove s switch) := by
  unfold State.timMove
  extract_lets +onlyGivenNames b_0
  clear_value b_0
  extract_lets +onlyGivenNames s1_1
  refine keeps_cut (v := s1_1) ?_ fun hs1_1 => ?_
  · subst s1_1
    apply setF_keeps
    exact hk0
  clear_value s1_1
  refine keeps_ite ?_ ?_
  · extract_lets +onlyGivenNames s2_2
    refine keeps_cut (v := s2_2) ?_ fun hs2_2 => ?_
    · subst s2_2
      apply raise_keeps
      exact hs1_1
    clear_value s2_2
    extract_lets +onlyGivenNames s3_3
    refine keeps_cut (v := s3_3) ?_ fun hs3_3 => ?_
    · subst s3_3
      refine keeps_ite ?_ ?_
      · apply timSideBack_keeps
        exact hs2_2
      · exact hs2_2
    clear_value s3_3
    apply timLost_keeps
    exact hs3_3
  · exact hs1_1

theorem cmpStep_keeps {s0 s : State} (hk0 : Keeps K s0 s) (u0 u1 : Nat) [Free K .time] :
    Keeps K s0 (State.cmpStep s u0 u1) := by
  unfold State.cmpStep
  refine keeps_foldl _ ?_ ?_
  · exact hk0
  · intro y0 y1 hy2
    refine keeps_ite ?_ ?_
    · apply setCmpFlag_keeps
      exact hy2
    · exact hy2

theorem ppsStep_keeps {s0 s : State} (hk0 : Keeps K s0 s) (ns : Nat) [Free K .time] :
    Keeps K s0 (State.ppsStep s ns) := by
  unfold State.ppsStep
  extract_lets +onlyGivenNames g_0
  clear_value g_0
  extract_lets +onlyGivenNames m_1
  clear_value m_1
  apply modTm_keeps
  · exact hk0
  · intro y2
    rfl

theorem todStep_keeps {s0 s : State} (hk0 : Keeps K s0 s) (e : Int) (new cause : Nat) [Free K .counters] [Free K .regs] [Free K .report] [Free K .time] :
    Keeps K s0 (State.todStep s e new cause) := by
  unfold State.todStep
  extract_lets +onlyGivenNames u0_0
  clear_value u0_0
  extract_lets +onlyGivenNames s1_1
  refine keeps_cut (v := s1_1) ?_ fun hs1_1 => ?_
  · subst s1_1
    apply setTod_keeps
    exact hk0
  clear_value s1_1
  extract_lets +onlyGivenNames u1_2
  clear_value u1_2
  extract_lets +onlyGivenNames s2_3
  refine keeps_cut (v := s2_3) ?_ fun hs2_3 => ?_
  · subst s2_3
    apply modTm_keeps
    · exact hs1_1
    · intro y4
      rfl
  clear_value s2_3
  extract_lets +onlyGivenNames s3_5
  refine keeps_cut (v := s3_5) ?_ fun hs3_5 => ?_
  · subst s3_5
    apply setFlag_keeps
    exact hs2_3
  clear_value s3_5
  extract_lets +onlyGivenNames ns_6
  clear_value ns_6
  extract_lets +onlyGivenNames s4_7
  refine keeps_cut (v := s4_7) ?_ fun hs4_7 => ?_
  · subst s4_7
    apply bump_keeps
    apply ppsStep_keeps
    apply cmpStep_keeps
    exact hs3_5
  clear_value s4_7
  apply timGo_keeps
  apply raise_keeps
  exact hs4_7

theorem timDrive_keeps {s0 s : State} (hk0 : Keeps K s0 s) (e : Int) [Free K .counters] [Free K .regs] [Free K .report] [Free K .time] :
    Keeps K s0 (State.timDrive s e) := by
  unfold State.timDrive
  extract_lets +onlyGivenNames s_0
  refine keeps_cut (v := s_0) ?_ fun hs_0 => ?_
  · subst s_0
    apply timThaw_keeps
    apply modTm_keeps
    · exact hk0
    · intro y1
      rfl
  clear_value s_0
  extract_lets +onlyGivenNames c_2
  clear_value c_2
  refine keeps_ite ?_ ?_
  · apply todStep_keeps
    apply modTm_keeps
    · exact hs_0
    · intro y3
      rfl
  · refine keeps_ite ?_ ?_
    · apply todStep_keeps
      exact hs_0
    · extract_lets +onlyGivenNames s1_4
      refine keeps_cut (v := s1_4) ?_ fun hs1_4 => ?_
      · subst s1_4
        apply setFlag_keeps
        apply modTm_keeps
        · exact hs_0
        · intro y5
          rfl
      clear_value s1_4
      extract_lets +onlyGivenNames s2_6
      refine keeps_cut (v := s2_6) ?_ fun hs2_6 => ?_
      · subst s2_6
        refine keeps_ite ?_ ?_
        · apply timGo_keeps
          exact hs1_4
        · exact hs1_4
      clear_value s2_6
      extract_lets +onlyGivenNames near7
      clear_value near7
      extract_lets +onlyGivenNames good8
      clear_value good8
      extract_lets +onlyGivenNames bad_9
      clear_value bad_9
      extract_lets +onlyGivenNames s3_10
      refine keeps_cut (v := s3_10) ?_ fun hs3_10 => ?_
      · subst s3_10
        apply modTm_keeps
        · exact hs2_6
        · intro y11
          rfl
      clear_value s3_10
      refine keeps_ite ?_ ?_
      · apply timGo_keeps
        exact hs3_10
      · refine keeps_ite ?_ ?_
        · apply timGo_keeps
          apply modTm_keeps
          · exact hs3_10
          · intro y12
            rfl
        · exact hs3_10

theorem setHeldTod_keeps {s0 s : State} (hk0 : Keeps K s0 s) (x : Side) (m : Option TodMsg) [Free K .regs] [Free K .time] :
    Keeps K s0 (State.setHeldTod s x m) := by
  unfold State.setHeldTod
  apply setFlag_keeps
  split
  · apply modTm_keeps
    · exact hk0
    · intro y0
      rfl
  · apply modTm_keeps
    · exact hk0
    · intro y1
      rfl

theorem addBound_keeps {s0 s : State} (hk0 : Keeps K s0 s) (x : Side) (b : Bound) [Free K .time] :
    Keeps K s0 (State.addBound s x b) := by
  unfold State.addBound
  split
  · apply modTm_keeps
    · exact hk0
    · intro y0
      rfl
  · apply modTm_keeps
    · exact hk0
    · intro y1
      rfl

theorem todResult_keeps {s0 s : State} (hk0 : Keeps K s0 s) (x : Side) (r : Nat) [Free K .regs] :
    Keeps K s0 (State.todResult s x r) := by
  unfold State.todResult
  apply setF_keeps
  exact hk0

theorem todRefuse_keeps {s0 s : State} (hk0 : Keeps K s0 s) (x : Side) (cause : Nat) [Free K .counters] [Free K .regs] [Free K .report] :
    Keeps K s0 (State.todRefuse s x cause) := by
  unfold State.todRefuse
  apply raise_keeps
  apply bump_keeps
  apply todResult_keeps
  exact hk0

theorem todCompute_keeps {s0 s : State} (hk0 : Keeps K s0 s) (x : Side) (m : TodMsg) (b : Bound) [Free K .counters] [Free K .regs] [Free K .report] [Free K .time] :
    Keeps K s0 (State.todCompute s x m b) := by
  unfold State.todCompute
  refine keeps_ite ?_ ?_
  · apply todRefuse_keeps
    exact hk0
  · apply modTm_keeps
    · exact hk0
    · intro y0
      rfl

theorem todError_keeps {s0 s : State} (hk0 : Keeps K s0 s) (x : Side) (todN : Int) (stamp : Nat) [Free K .counters] [Free K .regs] [Free K .report] [Free K .time] :
    Keeps K s0 (State.todError s x todN stamp) := by
  unfold State.todError
  extract_lets +onlyGivenNames e_0
  clear_value e_0
  extract_lets +onlyGivenNames es_1
  clear_value es_1
  extract_lets +onlyGivenNames s1_2
  refine keeps_cut (v := s1_2) ?_ fun hs1_2 => ?_
  · subst s1_2
    apply bump_keeps
    apply setReg_keeps
    apply setReg_keeps
    exact hk0
  clear_value s1_2
  refine keeps_ite ?_ ?_
  · apply timDrive_keeps
    exact hs1_2
  · exact hs1_2

theorem todApplyOp_keeps {s0 s : State} (hk0 : Keeps K s0 s) (x : Side) [Free K .counters] [Free K .regs] [Free K .report] [Free K .time] :
    Keeps K s0 (State.todApplyOp s x) := by
  unfold State.todApplyOp
  extract_lets +onlyGivenNames m_0
  clear_value m_0
  extract_lets +onlyGivenNames had_1
  clear_value had_1
  extract_lets +onlyGivenNames s_2
  refine keeps_cut (v := s_2) ?_ fun hs_2 => ?_
  · subst s_2
    apply setHeldTod_keeps
    exact hk0
  clear_value s_2
  extract_lets +onlyGivenNames l_3
  clear_value l_3
  extract_lets +onlyGivenNames back4
  clear_value back4
  extract_lets +onlyGivenNames ahead5
  clear_value ahead5
  refine keeps_ite ?_ ?_
  · apply todRefuse_keeps
    exact hs_2
  · refine keeps_ite ?_ ?_
    · split
      · apply todCompute_keeps
        apply todResult_keeps
        exact hs_2
      · apply todRefuse_keeps
        exact hs_2
    · refine keeps_ite ?_ ?_
      · extract_lets +onlyGivenNames s1_6
        refine keeps_cut (v := s1_6) ?_ fun hs1_6 => ?_
        · subst s1_6
          apply setHeldTod_keeps
          exact hs_2
        clear_value s1_6
        refine keeps_ite ?_ ?_
        · apply todResult_keeps
          exact hs1_6
        · exact hs1_6
      · apply todRefuse_keeps
        exact hs_2

theorem todHeldOp_keeps {s0 s : State} (hk0 : Keeps K s0 s) (x : Side) [Free K .counters] [Free K .regs] [Free K .report] [Free K .time] :
    Keeps K s0 (State.todHeldOp s x) := by
  unfold State.todHeldOp
  split
  · exact hk0
  · split
    · exact hk0
    · apply todCompute_keeps
      apply todResult_keeps
      apply setHeldTod_keeps
      exact hk0

theorem todDsLost_keeps {s0 s : State} (hk0 : Keeps K s0 s) (x : Side) [Free K .counters] [Free K .regs] [Free K .report] [Free K .time] :
    Keeps K s0 (State.todDsLost s x) := by
  unfold State.todDsLost
  refine keeps_ite ?_ ?_
  · apply todRefuse_keeps
    apply setHeldTod_keeps
    exact hk0
  · exact hk0

theorem todHeadChange_keeps {s0 s : State} (hk0 : Keeps K s0 s) (x : Side) [Free K .counters] [Free K .free] [Free K .regs] [Free K .report] [Free K .time] :
    Keeps K s0 (State.todHeadChange s x) := by
  unfold State.todHeadChange
  refine keeps_ite ?_ ?_
  · extract_lets +onlyGivenNames s1_0
    refine keeps_cut (v := s1_0) ?_ fun hs1_0 => ?_
    · subst s1_0
      apply setHeldTod_keeps
      exact hk0
    clear_value s1_0
    apply timHold_keeps
    apply modTm_keeps
    · exact hs1_0
    · intro y1
      rfl
  · exact hk0

theorem todSetOp_keeps {s0 s : State} (hk0 : Keeps K s0 s) [Free K .time] :
    Keeps K s0 (State.todSetOp s) := by
  unfold State.todSetOp
  extract_lets +onlyGivenNames ns_0
  clear_value ns_0
  refine keeps_ite ?_ ?_
  · exact hk0
  · apply modTm_keeps
    · exact hk0
    · intro y1
      rfl

theorem todSetTake_keeps {s0 s : State} (hk0 : Keeps K s0 s) (u : Nat) [Free K .counters] [Free K .regs] [Free K .report] [Free K .time] :
    Keeps K s0 (State.todSetTake s u) := by
  unfold State.todSetTake
  extract_lets +onlyGivenNames st_0
  clear_value st_0
  extract_lets +onlyGivenNames s1_1
  refine keeps_cut (v := s1_1) ?_ fun hs1_1 => ?_
  · subst s1_1
    apply setTod_keeps
    exact hk0
  clear_value s1_1
  apply todStep_keeps
  exact hs1_1

theorem extError_keeps {s0 s : State} (hk0 : Keeps K s0 s) (stamp : Nat) [Free K .counters] [Free K .regs] [Free K .report] [Free K .time] :
    Keeps K s0 (State.extError s stamp) := by
  unfold State.extError
  extract_lets +onlyGivenNames t_0
  clear_value t_0
  extract_lets +onlyGivenNames sec_1
  clear_value sec_1
  extract_lets +onlyGivenNames o_2
  clear_value o_2
  extract_lets +onlyGivenNames d_3
  clear_value d_3
  apply timDrive_keeps
  exact hk0

theorem todWork_keeps {s0 s : State} (hk0 : Keeps K s0 s) [Free K .counters] [Free K .regs] [Free K .report] [Free K .time] :
    Keeps K s0 (State.todWork s) := by
  unfold State.todWork
  extract_lets +onlyGivenNames s1_0
  refine keeps_cut (v := s1_0) ?_ fun hs1_0 => ?_
  · subst s1_0
    split
    · exact hk0
    · apply todSetTake_keeps
      apply modTm_keeps
      · exact hk0
      · intro y1
        rfl
  clear_value s1_0
  extract_lets +onlyGivenNames s2_2
  refine keeps_cut (v := s2_2) ?_ fun hs2_2 => ?_
  · subst s2_2
    refine keeps_foldl _ ?_ ?_
    · apply modTm_keeps
      · exact hs1_0
      · intro y3
        rfl
    · intro y4 y5 hy6
      split
      · apply todError_keeps
        exact hy6
      · apply extError_keeps
        exact hy6
  clear_value s2_2
  apply todSeg_keeps
  exact hs2_2

theorem srcRelease_keeps {s0 s : State} (hk0 : Keeps K s0 s) (src : Nat) [Free K .regs] :
    Keeps K s0 (State.srcRelease s src) := by
  unfold State.srcRelease
  refine keeps_ite ?_ ?_
  · apply resRelease_keeps
    exact hk0
  · refine keeps_ite ?_ ?_
    · apply resRelease_keeps
      exact hk0
    · exact hk0

theorem srcSet_keeps {s0 s : State} (hk0 : Keeps K s0 s) (src ref0 : Nat) [Free K .counters] [Free K .free] [Free K .pairing] [Free K .regs] [Free K .report] [Free K .time] :
    Keeps K s0 (State.srcSet s src ref0) := by
  unfold State.srcSet
  extract_lets +onlyGivenNames s1_0
  refine keeps_cut (v := s1_0) ?_ fun hs1_0 => ?_
  · subst s1_0
    refine keeps_ite ?_ ?_
    · refine keeps_ite ?_ ?_
      · apply timGo_keeps
        apply timThaw_keeps
        exact hk0
      · apply timThaw_keeps
        exact hk0
    · refine keeps_ite ?_ ?_
      · apply timGo_keeps
        apply timThaw_keeps
        exact hk0
      · exact hk0
  clear_value s1_0
  extract_lets +onlyGivenNames s2_1
  refine keeps_cut (v := s2_1) ?_ fun hs2_1 => ?_
  · subst s2_1
    apply setF_keeps
    exact hs1_0
  clear_value s2_1
  apply timLost_keeps
  apply raiseIf_keeps
  exact hs2_1

theorem timCfgWrite_keeps {s0 s : State} (hk0 : Keeps K s0 s) (q : Req) (v : Word) [Free K .counters] [Free K .free] [Free K .pairing] [Free K .regs] [Free K .report] [Free K .time] :
    Keeps K s0 (State.timCfgWrite s q v) := by
  unfold State.timCfgWrite
  extract_lets +onlyGivenNames old_0
  clear_value old_0
  extract_lets +onlyGivenNames src_1
  clear_value src_1
  extract_lets +onlyGivenNames ref02
  clear_value ref02
  extract_lets +onlyGivenNames need3
  clear_value need3
  extract_lets +onlyGivenNames s1_4
  refine keeps_cut (v := s1_4) ?_ fun hs1_4 => ?_
  · subst s1_4
    refine keeps_ite ?_ ?_
    · apply setF_keeps
      exact hk0
    · exact hk0
  clear_value s1_4
  extract_lets +onlyGivenNames s2_5
  refine keeps_cut (v := s2_5) ?_ fun hs2_5 => ?_
  · subst s2_5
    apply setF_keeps
    apply setF_keeps
    apply setF_keeps
    exact hs1_4
  clear_value s2_5
  split
  · refine keeps_ite ?_ ?_
    · apply resConflict_keeps
      exact hk0
    · apply srcSet_keeps
      apply resTake_keeps
      apply srcRelease_keeps
      exact hs2_5
  · apply srcSet_keeps
    refine keeps_ite ?_ ?_
    · exact hs2_5
    · apply srcRelease_keeps
      exact hs2_5

theorem secTick_keeps {s0 s : State} (hk0 : Keeps K s0 s) [Free K .regs] [Free K .time] :
    Keeps K s0 (State.secTick s) := by
  unfold State.secTick
  extract_lets +onlyGivenNames aligned0
  clear_value aligned0
  apply setFlag_keeps
  apply modTm_keeps
  · exact hk0
  · intro y1
    rfl

theorem todLatch_keeps {s0 s : State} (hk0 : Keeps K s0 s) (q : Req) [Free K .time] :
    Keeps K s0 (State.todLatch s q) := by
  unfold State.todLatch
  extract_lets +onlyGivenNames put_0
  clear_value put_0
  apply modTm_keeps
  · exact hk0
  · intro y1
    rfl

theorem setPps_keeps {s0 s : State} (hk0 : Keeps K s0 s) (n : Nat) (x : Pps) [Free K .time] :
    Keeps K s0 (State.setPps s n x) := by
  unfold State.setPps
  apply modTm_keeps
  · exact hk0
  · intro y0
    rfl

theorem ppsPulse_keeps {s0 s : State} (hk0 : Keeps K s0 s) (n : Nat) [Free K .free] [Free K .time] :
    Keeps K s0 (State.ppsPulse s n) := by
  unfold State.ppsPulse
  extract_lets +onlyGivenNames back0
  clear_value back0
  extract_lets +onlyGivenNames place1
  clear_value place1
  extract_lets +onlyGivenNames w_2
  clear_value w_2
  extract_lets +onlyGivenNames r_3
  refine keeps_cut (v := r_3.2) ?_ fun hr_3 => ?_
  · subst r_3
    refine keeps_ite2 ?_ ?_
    · refine keeps_ite2 ?_ ?_
      · apply takeFree_keeps
        exact hk0
      · refine keeps_pair ?_
        exact hk0
    · refine keeps_pair ?_
      exact hk0
  clear_value r_3
  apply setPps_keeps
  exact hr_3

theorem ppsWrite_keeps {s0 s : State} (hk0 : Keeps K s0 s) (q : Req) (n : Nat) (v : Word) [Free K .counters] [Free K .regs] [Free K .report] [Free K .time] :
    Keeps K s0 (State.ppsWrite s q n v) := by
  unfold State.ppsWrite
  extract_lets +onlyGivenNames i_0
  clear_value i_0
  extract_lets +onlyGivenNames en_1
  clear_value en_1
  extract_lets +onlyGivenNames was_2
  clear_value was_2
  extract_lets +onlyGivenNames ft_3
  clear_value ft_3
  extract_lets +onlyGivenNames c_4
  clear_value c_4
  extract_lets +onlyGivenNames w_5
  clear_value w_5
  refine keeps_ite ?_ ?_
  · refine keeps_ite ?_ ?_
    · apply resConflict_keeps
      exact hk0
    · refine keeps_ite ?_ ?_
      · apply resConflict_keeps
        exact hk0
      · extract_lets +onlyGivenNames s1_6
        refine keeps_cut (v := s1_6) ?_ fun hs1_6 => ?_
        · subst s1_6
          refine keeps_ite ?_ ?_
          · apply setF_keeps
            apply resTake_keeps
            exact hk0
          · exact hk0
        clear_value s1_6
        apply setPps_keeps
        apply setReg_keeps
        apply resTake_keeps
        exact hs1_6
  · refine keeps_ite ?_ ?_
    · extract_lets +onlyGivenNames c0_7
      clear_value c0_7
      extract_lets +onlyGivenNames s1_8
      refine keeps_cut (v := s1_8) ?_ fun hs1_8 => ?_
      · subst s1_8
        refine keeps_ite ?_ ?_
        · apply cmpDisarm_keeps
          exact hk0
        · exact hk0
      clear_value s1_8
      apply setReg_keeps
      apply resRelease_keeps
      exact hs1_8
    · refine keeps_ite ?_ ?_
      · extract_lets +onlyGivenNames keep9
        clear_value keep9
        apply setReg_keeps
        exact hk0
      · apply setReg_keeps
        exact hk0

theorem capInWrite_keeps {s0 s : State} (hk0 : Keeps K s0 s) (q : Req) (n : Nat) (v : Word) [Free K .counters] [Free K .regs] [Free K .report] :
    Keeps K s0 (State.capInWrite s q n v) := by
  unfold State.capInWrite
  extract_lets +onlyGivenNames i_0
  clear_value i_0
  extract_lets +onlyGivenNames en_1
  clear_value en_1
  extract_lets +onlyGivenNames was_2
  clear_value was_2
  extract_lets +onlyGivenNames w_3
  clear_value w_3
  refine keeps_ite ?_ ?_
  · refine keeps_ite ?_ ?_
    · apply resConflict_keeps
      exact hk0
    · apply setReg_keeps
      apply resTake_keeps
      exact hk0
  · refine keeps_ite ?_ ?_
    · apply setReg_keeps
      apply resRelease_keeps
      exact hk0
    · apply setReg_keeps
      exact hk0

theorem capEdge_keeps {s0 s : State} (hk0 : Keeps K s0 s) (n : Nat) (falling : Bool) (stamp : Nat) [Free K .counters] [Free K .regs] [Free K .report] [Free K .time] :
    Keeps K s0 (State.capEdge s n falling stamp) := by
  unfold State.capEdge
  extract_lets +onlyGivenNames c_0
  clear_value c_0
  extract_lets +onlyGivenNames s1_1
  refine keeps_cut (v := s1_1) ?_ fun hs1_1 => ?_
  · subst s1_1
    apply modTm_keeps
    · exact hk0
    · intro y2
      rfl
  clear_value s1_1
  extract_lets +onlyGivenNames s2_3
  refine keeps_cut (v := s2_3) ?_ fun hs2_3 => ?_
  · subst s2_3
    apply tsWrite_keeps
    exact hs1_1
  clear_value s2_3
  apply raiseLim_keeps
  exact hs2_3

theorem extEdge_keeps {s0 s : State} (hk0 : Keeps K s0 s) (n : Nat) (stamp : Nat) [Free K .time] :
    Keeps K s0 (State.extEdge s n stamp) := by
  unfold State.extEdge
  apply modTm_keeps
  · exact hk0
  · intro y0
    rfl

theorem cmpWrite_keeps {s0 s : State} (hk0 : Keeps K s0 s) (q : Req) (n : Nat) (v : Word) [Free K .counters] [Free K .regs] [Free K .report] [Free K .time] :
    Keeps K s0 (State.cmpWrite s q n v) := by
  unfold State.cmpWrite
  extract_lets +onlyGivenNames i_0
  clear_value i_0
  extract_lets +onlyGivenNames s1_1
  refine keeps_cut (v := s1_1) ?_ fun hs1_1 => ?_
  · subst s1_1
    apply setReg_keeps
    exact hk0
  clear_value s1_1
  extract_lets +onlyGivenNames owner2
  clear_value owner2
  refine keeps_ite ?_ ?_
  · refine keeps_ite ?_ ?_
    · apply cmpArm_keeps
      exact hs1_1
    · refine keeps_ite ?_ ?_
      · apply resConflict_keeps
        exact hk0
      · apply cmpArm_keeps
        apply resTake_keeps
        exact hs1_1
  · refine keeps_ite ?_ ?_
    · apply cmpDisarm_keeps
      exact hs1_1
    · refine keeps_ite ?_ ?_
      · apply setFlag_keeps
        exact hs1_1
      · exact hs1_1

theorem cmpTargetWrite_keeps {s0 s : State} (hk0 : Keeps K s0 s) (a : Nat) (v : Word) [Free K .regs] :
    Keeps K s0 (State.cmpTargetWrite s a v) := by
  unfold State.cmpTargetWrite
  extract_lets +onlyGivenNames o_0
  clear_value o_0
  refine keeps_ite ?_ ?_
  · apply setReg_keeps
    exact hk0
  · exact hk0

theorem cmpFire_keeps {s0 s : State} (hk0 : Keeps K s0 s) (n : Nat) [Free K .capture] [Free K .counters] [Free K .gates] [Free K .regs] [Free K .report] [Free K .time] :
    Keeps K s0 (State.cmpFire s n) := by
  unfold State.cmpFire
  extract_lets +onlyGivenNames i_0
  clear_value i_0
  extract_lets +onlyGivenNames fl_1
  clear_value fl_1
  extract_lets +onlyGivenNames owner2
  clear_value owner2
  extract_lets +onlyGivenNames s1_3
  refine keeps_cut (v := s1_3) ?_ fun hs1_3 => ?_
  · subst s1_3
    apply setFlag_keeps
    apply setFlag_keeps
    apply setFlag_keeps
    exact hk0
  clear_value s1_3
  extract_lets +onlyGivenNames s2_4
  refine keeps_cut (v := s2_4) ?_ fun hs2_4 => ?_
  · subst s2_4
    apply setCmpFlag_keeps
    apply cmpDisarm_keeps
    exact hs1_3
  clear_value s2_4
  refine keeps_ite ?_ ?_
  · split
    · apply gateTakeover_keeps
      exact hs2_4
    · exact hs2_4
  · refine keeps_ite ?_ ?_
    · apply raise_keeps
      exact hs2_4
    · refine keeps_ite ?_ ?_
      · apply snapTake_keeps
        apply setFlag_keeps
        exact hs2_4
      · refine keeps_ite ?_ ?_
        · refine keeps_foldl _ ?_ ?_
          · exact hs2_4
          · intro y5 y6 hy7
            refine keeps_ite ?_ ?_
            · apply setPps_keeps
              exact hy7
            · exact hy7
        · exact hs2_4

theorem execTodApply_keeps (q : Req) (x : Side) (v : Word) (s : State) :
    Answers [.counters, .regs, .report, .time] s (execTodApply q x v s) := by
  refine answers_of fun K n => ⟨_, rfl, ?_⟩
  have i0 : Free K .counters := n _ (by simp)
  have i1 : Free K .regs := n _ (by simp)
  have i2 : Free K .report := n _ (by simp)
  have i3 : Free K .time := n _ (by simp)
  have hk0 := Keeps.refl (K := K) s
  apply guardW_keeps
  · exact hk0
  · intro y0 hy1
    refine keeps_ite ?_ ?_
    · apply todApplyOp_keeps
      exact hy1
    · exact hy1

theorem execTodHeldCompute_keeps (x : Side) (s : State) :
    Answers [.counters, .regs, .report, .time] s (execTodHeldCompute x s) := by
  refine answers_of fun K n => ⟨_, rfl, ?_⟩
  have i0 : Free K .counters := n _ (by simp)
  have i1 : Free K .regs := n _ (by simp)
  have i2 : Free K .report := n _ (by simp)
  have i3 : Free K .time := n _ (by simp)
  have hk0 := Keeps.refl (K := K) s
  apply todHeldOp_keeps
  exact hk0

theorem execTodSet_keeps (q : Req) (v : Word) (s : State) :
    Answers [.counters, .regs, .report, .time] s (execTodSet q v s) := by
  refine answers_of fun K n => ⟨_, rfl, ?_⟩
  have i0 : Free K .counters := n _ (by simp)
  have i1 : Free K .regs := n _ (by simp)
  have i2 : Free K .report := n _ (by simp)
  have i3 : Free K .time := n _ (by simp)
  have hk0 := Keeps.refl (K := K) s
  apply guardW_keeps
  · exact hk0
  · intro y0 hy1
    refine keeps_ite ?_ ?_
    · apply todSetOp_keeps
      exact hy1
    · exact hy1

theorem execTimeSourceWrite_keeps (q : Req) (v : Word) (s : State) :
    Answers [.counters, .free, .pairing, .regs, .report, .time] s (execTimeSourceWrite q v s) := by
  refine answers_of fun K n => ⟨_, rfl, ?_⟩
  have i0 : Free K .counters := n _ (by simp)
  have i1 : Free K .free := n _ (by simp)
  have i2 : Free K .pairing := n _ (by simp)
  have i3 : Free K .regs := n _ (by simp)
  have i4 : Free K .report := n _ (by simp)
  have i5 : Free K .time := n _ (by simp)
  have hk0 := Keeps.refl (K := K) s
  apply guardW_keeps
  · exact hk0
  · intro y0 hy1
    apply timCfgWrite_keeps
    exact hy1

theorem execTodMessageTimeout_keeps (s : State) :
    Answers [.counters, .free, .regs, .report, .time] s (execTodMessageTimeout s) := by
  refine answers_of fun K n => ⟨_, rfl, ?_⟩
  have i0 : Free K .counters := n _ (by simp)
  have i1 : Free K .free := n _ (by simp)
  have i2 : Free K .regs := n _ (by simp)
  have i3 : Free K .report := n _ (by simp)
  have i4 : Free K .time := n _ (by simp)
  have hk0 := Keeps.refl (K := K) s
  refine keeps_ite ?_ ?_
  · apply timHold_keeps
    exact hk0
  · exact hk0

theorem execExtPpsMissing_keeps (s : State) :
    Answers [.counters, .free, .regs, .report, .time] s (execExtPpsMissing s) := by
  refine answers_of fun K n => ⟨_, rfl, ?_⟩
  have i0 : Free K .counters := n _ (by simp)
  have i1 : Free K .free := n _ (by simp)
  have i2 : Free K .regs := n _ (by simp)
  have i3 : Free K .report := n _ (by simp)
  have i4 : Free K .time := n _ (by simp)
  have hk0 := Keeps.refl (K := K) s
  split
  · refine keeps_ite ?_ ?_
    · apply raise_keeps
      apply timHold_keeps
      exact hk0
    · exact hk0
  · exact hk0

theorem execSecondTick_keeps (s : State) :
    Answers [.regs, .time] s (execSecondTick s) := by
  refine answers_of fun K n => ⟨_, rfl, ?_⟩
  have i0 : Free K .regs := n _ (by simp)
  have i1 : Free K .time := n _ (by simp)
  have hk0 := Keeps.refl (K := K) s
  refine keeps_ite ?_ ?_
  · apply secTick_keeps
    exact hk0
  · exact hk0

theorem execPpsEnable_keeps (q : Req) (n : Fin 2) (v : Word) (s : State) :
    Answers [.counters, .regs, .report, .time] s (execPpsEnable q n v s) := by
  refine answers_of fun K n => ⟨_, rfl, ?_⟩
  have i0 : Free K .counters := n _ (by simp)
  have i1 : Free K .regs := n _ (by simp)
  have i2 : Free K .report := n _ (by simp)
  have i3 : Free K .time := n _ (by simp)
  have hk0 := Keeps.refl (K := K) s
  apply guardW_keeps
  · exact hk0
  · intro y0 hy1
    apply ppsWrite_keeps
    exact hy1

theorem execPpsEdge_keeps (n : Fin 2) (s : State) :
    Answers [.free, .time] s (execPpsEdge n s) := by
  refine answers_of fun K n => ⟨_, rfl, ?_⟩
  have i0 : Free K .free := n _ (by simp)
  have i1 : Free K .time := n _ (by simp)
  have hk0 := Keeps.refl (K := K) s
  refine keeps_ite ?_ ?_
  · apply ppsPulse_keeps
    exact hk0
  · exact hk0

theorem execEventCaptureEnable_keeps (q : Req) (n : Fin 2) (v : Word) (s : State) :
    Answers [.counters, .regs, .report] s (execEventCaptureEnable q n v s) := by
  refine answers_of fun K n => ⟨_, rfl, ?_⟩
  have i0 : Free K .counters := n _ (by simp)
  have i1 : Free K .regs := n _ (by simp)
  have i2 : Free K .report := n _ (by simp)
  have hk0 := Keeps.refl (K := K) s
  apply guardW_keeps
  · exact hk0
  · intro y0 hy1
    apply capInWrite_keeps
    exact hy1

theorem execEventCaptureEdge_keeps (n : Fin 2) (falling : Bool) (phase : Fin 16) (s : State) :
    Answers [.counters, .regs, .report, .time] s (execEventCaptureEdge n falling phase s) := by
  refine answers_of fun K n => ⟨_, rfl, ?_⟩
  have i0 : Free K .counters := n _ (by simp)
  have i1 : Free K .regs := n _ (by simp)
  have i2 : Free K .report := n _ (by simp)
  have i3 : Free K .time := n _ (by simp)
  have hk0 := Keeps.refl (K := K) s
  refine keeps_ite ?_ ?_
  · exact hk0
  · refine keeps_ite ?_ ?_
    · apply capEdge_keeps
      exact hk0
    · refine keeps_ite ?_ ?_
      · apply extEdge_keeps
        exact hk0
      · exact hk0

theorem execComparatorArm_keeps (q : Req) (n : Fin 8) (v : Word) (s : State) :
    Answers [.counters, .regs, .report, .time] s (execComparatorArm q n v s) := by
  refine answers_of fun K n => ⟨_, rfl, ?_⟩
  have i0 : Free K .counters := n _ (by simp)
  have i1 : Free K .regs := n _ (by simp)
  have i2 : Free K .report := n _ (by simp)
  have i3 : Free K .time := n _ (by simp)
  have hk0 := Keeps.refl (K := K) s
  apply guardW_keeps
  · exact hk0
  · intro y0 hy1
    apply cmpWrite_keeps
    exact hy1

theorem execComparatorFire_keeps (n : Fin 8) (s : State) :
    Answers [.capture, .counters, .gates, .regs, .report, .time] s (execComparatorFire n s) := by
  refine answers_of fun K n => ⟨_, rfl, ?_⟩
  have i0 : Free K .capture := n _ (by simp)
  have i1 : Free K .counters := n _ (by simp)
  have i2 : Free K .gates := n _ (by simp)
  have i3 : Free K .regs := n _ (by simp)
  have i4 : Free K .report := n _ (by simp)
  have i5 : Free K .time := n _ (by simp)
  have hk0 := Keeps.refl (K := K) s
  refine keeps_ite ?_ ?_
  · apply cmpFire_keeps
    exact hk0
  · exact hk0

theorem execTodSlewEnd_keeps (s : State) :
    Answers [.regs] s (execTodSlewEnd s) := by
  refine answers_of fun K n => ⟨_, rfl, ?_⟩
  have i0 : Free K .regs := n _ (by simp)
  have hk0 := Keeps.refl (K := K) s
  refine keeps_ite ?_ ?_
  · apply setFlag_keeps
    exact hk0
  · exact hk0

end Sys2Proof.Machine
end

