-- ==== Sys2Proof/Laws/KeepsLineBase.lean ====
section
/-! SUPPORT. What the operations of Machine/LineBase.lean keep. -/

-- One proof at a time: in the package as one text, proofs that wait for each other would each hold a thread.
set_option Elab.async false

namespace Sys2Proof.Machine

variable {K : Comp → Prop}

theorem ptpCount_keeps {s0 s : State} (hk0 : Keeps K s0 s) (cs : List Nat) [Free K .counters] :
    Keeps K s0 (State.ptpCount s cs) := by
  unfold State.ptpCount
  refine keeps_foldl _ ?_ ?_
  · exact hk0
  · intro y0 y1 hy2
    apply bump_keeps
    exact hy2

theorem tsReceive_keeps {s0 s : State} (hk0 : Keeps K s0 s) (g port : Nat) (x : Frame) [Free K .counters] [Free K .regs] [Free K .report] [Free K .time] :
    Keeps K s0 (State.tsReceive s g port x) := by
  unfold State.tsReceive
  split
  · exact hk0
  · refine keeps_ite ?_ ?_
    · apply tsWrite_keeps
      exact hk0
    · exact hk0

theorem stageReg_keeps {s0 s : State} (hk0 : Keeps K s0 s) (x : Side) (a : Nat) (v : Word) [Free K .regs] [Free K (.line x)] :
    Keeps K s0 (State.stageReg s x a v) := by
  unfold State.stageReg
  extract_lets +onlyGivenNames l_0
  clear_value l_0
  extract_lets +onlyGivenNames l_1
  clear_value l_1
  apply setReg_keeps
  apply modLine_keeps
  exact hk0

theorem lineEvent_keeps {s0 s : State} (hk0 : Keeps K s0 s) (x : Side) (off info : Nat) (level : Nat) [Free K .counters] [Free K .regs] [Free K .report] :
    Keeps K s0 (State.lineEvent s x off info level) := by
  unfold State.lineEvent
  apply raise_keeps
  exact hk0

end Sys2Proof.Machine
end

