-- ==== Sys2Proof/Laws/KeepsLineCore.lean ====
section
/-! SUPPORT. What the operations of Machine/LineCore.lean keep. -/

-- One proof at a time: in the package as one text, proofs that wait for each other would each hold a thread.
set_option Elab.async false

namespace Sys2Proof.Machine

variable {K : Comp → Prop}

theorem benShow_keeps {s0 s : State} (hk0 : Keeps K s0 s) (x : Side) [Free K (.line x)] :
    Keeps K s0 (State.benShow s x) := by
  unfold State.benShow
  extract_lets +onlyGivenNames i_0
  clear_value i_0
  extract_lets +onlyGivenNames v_1
  clear_value v_1
  apply modLine_keeps
  exact hk0

theorem benSet_keeps {s0 s : State} (hk0 : Keeps K s0 s) (x : Side) (b : Bool) [Free K .regs] [Free K (.line x)] :
    Keeps K s0 (State.benSet s x b) := by
  unfold State.benSet
  extract_lets +onlyGivenNames was_0
  clear_value was_0
  extract_lets +onlyGivenNames s1_1
  refine keeps_cut (v := s1_1) ?_ fun hs1_1 => ?_
  · subst s1_1
    apply benShow_keeps
    apply setFlag_keeps
    exact hk0
  clear_value s1_1
  refine keeps_ite ?_ ?_
  · apply modLine_keeps
    exact hs1_1
  · exact hs1_1

theorem peqApply_keeps {s0 s : State} (hk0 : Keeps K s0 s) (x : Side) (p : PeqSet) [Free K .counters] [Free K .regs] [Free K .report] :
    Keeps K s0 (State.peqApply s x p) := by
  unfold State.peqApply
  extract_lets +onlyGivenNames i_0
  clear_value i_0
  extract_lets +onlyGivenNames s1_1
  refine keeps_cut (v := s1_1) ?_ fun hs1_1 => ?_
  · subst s1_1
    refine keeps_foldl _ ?_ ?_
    · exact hk0
    · intro y2 y3 hy4
      apply setF_keeps
      exact hy4
  clear_value s1_1
  extract_lets +onlyGivenNames s2_5
  refine keeps_cut (v := s2_5) ?_ fun hs2_5 => ?_
  · subst s2_5
    apply setF_keeps
    apply setFlag_keeps
    exact hs1_1
  clear_value s2_5
  extract_lets +onlyGivenNames s3_6
  refine keeps_cut (v := s3_6) ?_ fun hs3_6 => ?_
  · subst s3_6
    apply setFlag_keeps
    apply setF_keeps
    exact hs2_5
  clear_value s3_6
  refine keeps_ite ?_ ?_
  · exact hs3_6
  · apply raise_keeps
    exact hs3_6

theorem peqUse_keeps {s0 s : State} (hk0 : Keeps K s0 s) (x : Side) (t0 : Nat) [Free K .counters] [Free K .regs] [Free K .report] [Free K (.line x)] :
    Keeps K s0 (State.peqUse s x t0) := by
  unfold State.peqUse
  extract_lets +onlyGivenNames fixed0
  clear_value fixed0
  split
  · exact hk0
  · apply peqApply_keeps
    apply modLine_keeps
    exact hk0

theorem peqDecide_keeps {s0 s : State} (hk0 : Keeps K s0 s) (x : Side) [Free K .counters] [Free K .regs] [Free K .report] [Free K (.line x)] :
    Keeps K s0 (State.peqDecide s x) := by
  unfold State.peqDecide
  split
  · exact hk0
  · extract_lets +onlyGivenNames s1_0
    refine keeps_cut (v := s1_0) ?_ fun hs1_0 => ?_
    · subst s1_0
      apply modLine_keeps
      exact hk0
    clear_value s1_0
    split
    · exact hs1_0
    · extract_lets +onlyGivenNames s2_1
      refine keeps_cut (v := s2_1) ?_ fun hs2_1 => ?_
      · subst s2_1
        apply modLine_keeps
        exact hs1_0
      clear_value s2_1
      refine keeps_ite ?_ ?_
      · apply peqApply_keeps
        exact hs2_1
      · apply modLine_keeps
        exact hs2_1

theorem peqEnd_keeps {s0 s : State} (hk0 : Keeps K s0 s) (x : Side) [Free K .counters] [Free K .regs] [Free K .report] [Free K (.line x)] :
    Keeps K s0 (State.peqEnd s x) := by
  unfold State.peqEnd
  split
  · exact hk0
  · apply peqUse_keeps
    exact hk0

theorem setPartial_keeps {s0 s : State} (hk0 : Keeps K s0 s) (x : Side) (key : Nat) (p : Option Partial) [Free K (.line x)] :
    Keeps K s0 (State.setPartial s x key p) := by
  unfold State.setPartial
  apply modLine_keeps
  exact hk0

theorem setBuffered_keeps {s0 s : State} (hk0 : Keeps K s0 s) (x : Side) (key : Nat) (ps : List Partial) [Free K (.line x)] :
    Keeps K s0 (State.setBuffered s x key ps) := by
  unfold State.setBuffered
  apply modLine_keeps
  exact hk0

theorem unassemble_keeps {s0 s : State} (h : Keeps K s0 s) (x : Side) (seen : List Nat) (as : List Alloc) [Free K (.line x)] :
    Keeps K s0 (s.unassemble x seen as) := by
  induction as generalizing s seen with
  | nil => exact h
  | cons a as ih =>
    unfold State.unassemble
    exact keeps_ite (ih h _) (ih (setBuffered_keeps (keeps_ite h (setPartial_keeps h ..)) ..) _)

theorem faultSettle_keeps {s0 s : State} (hk0 : Keeps K s0 s) (x : Side) [Free K .regs] [Free K (.line x)] :
    Keeps K s0 (State.faultSettle s x) := by
  unfold State.faultSettle
  extract_lets +onlyGivenNames l_0
  clear_value l_0
  refine keeps_ite ?_ ?_
  · apply modLine_keeps
    apply setFlag_keeps
    exact hk0
  · exact hk0

theorem storeEmpty_keeps {s0 s : State} (hk0 : Keeps K s0 s) (x : Side) [Free K .regs] [Free K (.line x)] :
    Keeps K s0 (State.storeEmpty s x) := by
  unfold State.storeEmpty
  apply faultSettle_keeps
  apply modLine_keeps
  apply unassemble_keeps
  exact hk0

theorem txLeft_keeps {s0 s : State} (hk0 : Keeps K s0 s) (x : Side) (t : TxStamp) [Free K .counters] [Free K .regs] [Free K .report] [Free K .time] :
    Keeps K s0 (State.txLeft s x t) := by
  unfold State.txLeft
  extract_lets +onlyGivenNames s1_0
  refine keeps_cut (v := s1_0) ?_ fun hs1_0 => ?_
  · subst s1_0
    apply ptpCount_keeps
    exact hk0
  clear_value s1_0
  refine keeps_ite ?_ ?_
  · apply tsWrite_keeps
    exact hs1_0
  · exact hs1_0

theorem burstDone_keeps {s0 s : State} (hk0 : Keeps K s0 s) (x : Side) (b : Burst) (stopped : Bool) [Free K .capture] [Free K .counters] [Free K .paddock] [Free K .regs] [Free K .report] [Free K .time] [Free K (.line x)] :
    Keeps K s0 (State.burstDone s x b stopped) := by
  unfold State.burstDone
  extract_lets +onlyGivenNames i_0
  clear_value i_0
  extract_lets +onlyGivenNames s0_1
  refine keeps_cut (v := s0_1) ?_ fun hs0_1 => ?_
  · subst s0_1
    apply modLine_keeps
    apply benSet_keeps
    exact hk0
  clear_value s0_1
  extract_lets +onlyGivenNames gone2
  clear_value gone2
  extract_lets +onlyGivenNames s1_3
  refine keeps_cut (v := s1_3) ?_ fun hs1_3 => ?_
  · subst s1_3
    apply peqEnd_keeps
    refine keeps_foldl _ ?_ ?_
    · exact hs0_1
    · intro y4 y5 hy6
      apply txLeft_keeps
      exact hy6
  clear_value s1_3
  extract_lets +onlyGivenNames hdr_7
  clear_value hdr_7
  extract_lets +onlyGivenNames s2_8
  refine keeps_cut (v := s2_8) ?_ fun hs2_8 => ?_
  · subst s2_8
    refine keeps_ite ?_ ?_
    · apply capOffer_keeps
      exact hs1_3
    · exact hs1_3
  clear_value s2_8
  refine keeps_ite ?_ ?_
  · exact hs2_8
  · refine keeps_ite ?_ ?_
    · apply modLine_keeps
      exact hs2_8
    · apply modLine_keeps
      apply setFlag_keeps
      exact hs2_8

theorem unsend_keeps {s0 s : State} (h : Keeps K s0 s) (x : Side) (w : Nat) (as : List Alloc) [Free K (.line x)] :
    Keeps K s0 (s.unsend x w as) := by
  induction as generalizing s with
  | nil => exact h
  | cons a as ih =>
    unfold State.unsend
    split
    · exact ih h
    · exact ih (setBuffered_keeps (keeps_ite (setPartial_keeps h ..) (setPartial_keeps h ..)) ..)

theorem stopBurst_keeps {s0 s : State} (hk0 : Keeps K s0 s) (x : Side) [Free K .capture] [Free K .counters] [Free K .paddock] [Free K .regs] [Free K .report] [Free K .time] [Free K (.line x)] :
    Keeps K s0 (State.stopBurst s x) := by
  unfold State.stopBurst
  split
  · exact hk0
  · extract_lets +onlyGivenNames out_0
    clear_value out_0
    extract_lets +onlyGivenNames first1
    clear_value first1
    extract_lets +onlyGivenNames n_2
    clear_value n_2
    extract_lets +onlyGivenNames s1_3
    refine keeps_cut (v := s1_3) ?_ fun hs1_3 => ?_
    · subst s1_3
      apply modLine_keeps
      exact hk0
    clear_value s1_3
    apply burstDone_keeps
    apply unsend_keeps
    apply bump_keeps
    exact hs1_3

theorem dgRequest_keeps {s0 s : State} (hk0 : Keeps K s0 s) (x : Side) [Free K .counters] [Free K .regs] [Free K .report] [Free K (.line x)] :
    Keeps K s0 (State.dgRequest s x) := by
  unfold State.dgRequest
  extract_lets +onlyGivenNames s_0
  refine keeps_cut (v := s_0) ?_ fun hs_0 => ?_
  · subst s_0
    apply setFlag_keeps
    exact hk0
  clear_value s_0
  split
  · exact hs_0
  · refine keeps_ite ?_ ?_
    · extract_lets +onlyGivenNames sent1
      clear_value sent1
      extract_lets +onlyGivenNames s1_2
      refine keeps_cut (v := s1_2) ?_ fun hs1_2 => ?_
      · subst s1_2
        apply modLine_keeps
        exact hs_0
      clear_value s1_2
      apply raiseIf_keeps
      apply bump_keeps
      exact hs1_2
    · exact hs_0

theorem fill_keeps {s0 s : State} (hk0 : Keeps K s0 s) (n : Nat) [Free K .free] :
    Keeps K s0 (State.fill s n).2 := by
  unfold State.fill
  extract_lets +onlyGivenNames r_0
  refine keeps_cut (v := r_0.2) ?_ fun hr_0 => ?_
  · subst r_0
    apply takeFree_keeps
    exact hk0
  clear_value r_0
  refine keeps_pair ?_
  exact hr_0

theorem setDsFrames_keeps {s0 s : State} (hk0 : Keeps K s0 s) (x : Side) (l : List DsCkt) [Free K .circuits] :
    Keeps K s0 (State.setDsFrames s x l) := by
  unfold State.setDsFrames
  split
  · apply modHar_keeps
    exact hk0
  · apply modHar_keeps
    exact hk0

theorem frameCut_keeps {s0 s : State} (hk0 : Keeps K s0 s) (x : Side) [Free K .circuits] [Free K (.line x)] :
    Keeps K s0 (State.frameCut s x) := by
  unfold State.frameCut
  extract_lets +onlyGivenNames s1_0
  refine keeps_cut (v := s1_0) ?_ fun hs1_0 => ?_
  · subst s1_0
    refine keeps_ite ?_ ?_
    · split
      · apply setDsFrames_keeps
        exact hk0
      · assumption
    · exact hk0
  clear_value s1_0
  apply modLine_keeps
  exact hs1_0

theorem frameDiscard_keeps {s0 s : State} (hk0 : Keeps K s0 s) (x : Side) [Free K .circuits] [Free K (.line x)] :
    Keeps K s0 (State.frameDiscard s x) := by
  unfold State.frameDiscard
  extract_lets +onlyGivenNames s1_0
  refine keeps_cut (v := s1_0) ?_ fun hs1_0 => ?_
  · subst s1_0
    split
    · refine keeps_ite ?_ ?_
      · apply setDsFrames_keeps
        exact hk0
      · exact hk0
    · assumption
  clear_value s1_0
  apply modLine_keeps
  exact hs1_0

theorem idleAlloc_keeps {s0 s : State} (hk0 : Keeps K s0 s) (a : Alloc) [Free K .free] :
    Keeps K s0 (State.idleAlloc s a).2 := by
  unfold State.idleAlloc
  refine keeps_ite2 ?_ ?_
  · refine keeps_pair ?_
    exact hk0
  · extract_lets +onlyGivenNames head0
    clear_value head0
    extract_lets +onlyGivenNames z_1
    refine keeps_cut (v := z_1.2) ?_ fun hz_1 => ?_
    · subst z_1
      apply fill_keeps
      exact hk0
    clear_value z_1
    refine keeps_pair ?_
    exact hz_1

theorem idleAllocs_keeps {s0 s : State} (h : Keeps K s0 s) (l : List Alloc) [Free K .free] : Keeps K s0 (s.idleAllocs l).2 := by
  induction l generalizing s with
  | nil => exact h
  | cons a as ih => exact ih (idleAlloc_keeps h a)

theorem idleBursts_keeps {s0 s : State} (h : Keeps K s0 s) (l : List Burst) [Free K .free] : Keeps K s0 (s.idleBursts l).2 := by
  induction l generalizing s with
  | nil => exact h
  | cons b bs ih => exact ih (keeps_ite2 (idleAllocs_keeps h _) h)

theorem idleRest_keeps {s0 s : State} (h : Keeps K s0 s) (x : Side) (out : Nat) (l : List (Nat × Alloc)) [Free K .free] [Free K (.line x)] :
    Keeps K s0 (s.idleRest x out l) := by
  induction l generalizing s with
  | nil => exact h
  | cons e l ih =>
    obtain ⟨k, a⟩ := e
    unfold State.idleRest
    exact keeps_ite (ih h) (ih (modLine_keeps (fill_keeps h _) ..))

theorem switchLine_keeps {s0 s : State} (hk0 : Keeps K s0 s) (x : Side) [Free K .free] [Free K (.line x)] :
    Keeps K s0 (State.switchLine s x) := by
  unfold State.switchLine
  split
  · exact hk0
  · extract_lets +onlyGivenNames w_0
    clear_value w_0
    extract_lets +onlyGivenNames s1_1
    refine keeps_cut (v := s1_1) ?_ fun hs1_1 => ?_
    · subst s1_1
      apply idleRest_keeps
      exact hk0
    clear_value s1_1
    extract_lets +onlyGivenNames b_2
    clear_value b_2
    apply modLine_keeps
    exact hs1_1

theorem switchAway_keeps {s0 s : State} (hk0 : Keeps K s0 s) (x : Side) [Free K .counters] [Free K .free] [Free K .memories] [Free K .paddock] [Free K .regs] [Free K (.line x)] :
    Keeps K s0 (State.switchAway s x) := by
  unfold State.switchAway
  extract_lets +onlyGivenNames s_0
  refine keeps_cut (v := s_0) ?_ fun hs_0 => ?_
  · subst s_0
    apply unassemble_keeps
    exact hk0
  clear_value s_0
  extract_lets +onlyGivenNames ps_1
  clear_value ps_1
  extract_lets +onlyGivenNames bs_2
  clear_value bs_2
  extract_lets +onlyGivenNames l_3
  clear_value l_3
  extract_lets +onlyGivenNames whole4
  clear_value whole4
  extract_lets +onlyGivenNames begun5
  clear_value begun5
  extract_lets +onlyGivenNames frag6
  clear_value frag6
  extract_lets +onlyGivenNames buf_7
  clear_value buf_7
  extract_lets +onlyGivenNames s1_8
  refine keeps_cut (v := s1_8) ?_ fun hs1_8 => ?_
  · subst s1_8
    refine keeps_foldl _ ?_ ?_
    · exact hs_0
    · intro y9 y10 hy11
      apply padDrop_keeps
      exact hy11
  clear_value s1_8
  extract_lets +onlyGivenNames z_12
  refine keeps_cut (v := z_12.2) ?_ fun hz_12 => ?_
  · subst z_12
    apply idleBursts_keeps
    exact hs1_8
  clear_value z_12
  extract_lets +onlyGivenNames s2_13
  refine keeps_cut (v := s2_13) ?_ fun hs2_13 => ?_
  · subst s2_13
    apply modLine_keeps
    exact hz_12
  clear_value s2_13
  apply bump_keeps
  apply bump_keeps
  apply switchLine_keeps
  exact hs2_13

theorem prtSwitch_keeps {s0 s : State} (hk0 : Keeps K s0 s) (x : Side) (cause : Nat) [Free K .capture] [Free K .circuits] [Free K .counters] [Free K .free] [Free K .memories] [Free K .paddock] [Free K .pairing] [Free K .regs] [Free K .report] [Free K .time] [∀ x, Free K (.line x)] :
    Keeps K s0 (State.prtSwitch s x cause) := by
  unfold State.prtSwitch
  extract_lets +onlyGivenNames old_0
  clear_value old_0
  extract_lets +onlyGivenNames s1_1
  refine keeps_cut (v := s1_1) ?_ fun hs1_1 => ?_
  · subst s1_1
    apply addReg_keeps
    apply setFlag_keeps
    apply setFlag_keeps
    exact hk0
  clear_value s1_1
  extract_lets +onlyGivenNames s2_2
  refine keeps_cut (v := s2_2) ?_ fun hs2_2 => ?_
  · subst s2_2
    apply setReg_keeps
    apply setReg_keeps
    apply setReg_keeps
    exact hs1_1
  clear_value s2_2
  extract_lets +onlyGivenNames s3_3
  refine keeps_cut (v := s3_3) ?_ fun hs3_3 => ?_
  · subst s3_3
    refine keeps_ite ?_ ?_
    · exact hs2_2
    · apply modHar_keeps
      apply switchAway_keeps
      exact hs2_2
  clear_value s3_3
  extract_lets +onlyGivenNames s4_4
  refine keeps_cut (v := s4_4) ?_ fun hs4_4 => ?_
  · subst s4_4
    apply timMove_keeps
    apply modPrt_keeps
    exact hs3_3
  clear_value s4_4
  extract_lets +onlyGivenNames s5_5
  refine keeps_cut (v := s5_5) ?_ fun hs5_5 => ?_
  · subst s5_5
    apply capOffer_keeps
    exact hs4_4
  clear_value s5_5
  apply raise_keeps
  exact hs5_5

theorem wtrEval_keeps {s0 s : State} (hk0 : Keeps K s0 s) [Free K .capture] [Free K .circuits] [Free K .counters] [Free K .free] [Free K .memories] [Free K .paddock] [Free K .pairing] [Free K .regs] [Free K .report] [Free K .time] [∀ x, Free K (.line x)] :
    Keeps K s0 (State.wtrEval s) := by
  unfold State.wtrEval
  extract_lets +onlyGivenNames want0
  subst want0
  refine keeps_ite ?_ ?_
  · apply setFlag_keeps
    apply modPrt_keeps
    exact hk0
  · refine keeps_ite ?_ ?_
    · apply raise_keeps
      apply prtSwitch_keeps
      apply setFlag_keeps
      exact hk0
    · refine keeps_ite ?_ ?_
      · exact hk0
      · apply setFlag_keeps
        apply modPrt_keeps
        exact hk0

theorem autoTo_keeps {s0 s : State} (hk0 : Keeps K s0 s) (x : Side) (cause : Nat) [Free K .capture] [Free K .circuits] [Free K .counters] [Free K .free] [Free K .memories] [Free K .paddock] [Free K .pairing] [Free K .regs] [Free K .report] [Free K .time] [∀ x, Free K (.line x)] :
    Keeps K s0 (State.autoTo s x cause) := by
  unfold State.autoTo
  apply modPrt_keeps
  apply prtSwitch_keeps
  exact hk0

theorem autoSwitch_keeps {s0 s : State} (hk0 : Keeps K s0 s) [Free K .capture] [Free K .circuits] [Free K .counters] [Free K .free] [Free K .memories] [Free K .paddock] [Free K .pairing] [Free K .regs] [Free K .report] [Free K .time] [∀ x, Free K (.line x)] :
    Keeps K s0 (State.autoSwitch s) := by
  unfold State.autoSwitch
  extract_lets +onlyGivenNames cur_0
  clear_value cur_0
  extract_lets +onlyGivenNames oth_1
  clear_value oth_1
  refine keeps_ite ?_ ?_
  · exact hk0
  · refine keeps_ite ?_ ?_
    · refine keeps_ite ?_ ?_
      · apply raise_keeps
        apply setFlag_keeps
        exact hk0
      · refine keeps_ite ?_ ?_
        · apply autoTo_keeps
          exact hk0
        · exact hk0
    · refine keeps_ite ?_ ?_
      · exact hk0
      · split
        · exact hk0
        · refine keeps_ite ?_ ?_
          · apply autoTo_keeps
            exact hk0
          · apply raise_keeps
            apply setFlag_keeps
            exact hk0

theorem timSides_keeps {s0 s : State} (hk0 : Keeps K s0 s) [Free K .counters] [Free K .free] [Free K .regs] [Free K .report] [Free K .time] :
    Keeps K s0 (State.timSides s) := by
  unfold State.timSides
  extract_lets +onlyGivenNames both0
  clear_value both0
  refine keeps_ite ?_ ?_
  · apply timHold_keeps
    exact hk0
  · exact hk0

theorem prtEval_keeps {s0 s : State} (hk0 : Keeps K s0 s) [Free K .pairing] [Free K .regs] :
    Keeps K s0 (State.prtEval s) := by
  unfold State.prtEval
  extract_lets +onlyGivenNames s1_0
  refine keeps_cut (v := s1_0) ?_ fun hs1_0 => ?_
  · subst s1_0
    apply setFlag_keeps
    apply setFlag_keeps
    exact hk0
  clear_value s1_0
  extract_lets +onlyGivenNames lost1
  clear_value lost1
  apply modPrt_keeps
  exact hs1_0

theorem prtDecide_keeps {s0 s : State} (hk0 : Keeps K s0 s) [Free K .capture] [Free K .circuits] [Free K .counters] [Free K .free] [Free K .memories] [Free K .paddock] [Free K .pairing] [Free K .regs] [Free K .report] [Free K .time] [∀ x, Free K (.line x)] :
    Keeps K s0 (State.prtDecide s) := by
  unfold State.prtDecide
  refine keeps_ite ?_ ?_
  · apply timSides_keeps
    apply wtrEval_keeps
    apply autoSwitch_keeps
    apply modPrt_keeps
    exact hk0
  · exact hk0

theorem actGo_keeps {s0 s : State} (hk0 : Keeps K s0 s) (x : Side) (new cause : Nat) [Free K .counters] [Free K .regs] [Free K .report] :
    Keeps K s0 (State.actGo s x new cause) := by
  unfold State.actGo
  extract_lets +onlyGivenNames old_0
  clear_value old_0
  refine keeps_ite ?_ ?_
  · exact hk0
  · apply lineEvent_keeps
    apply setF_keeps
    exact hk0

theorem eqdShow_keeps {s0 s : State} (hk0 : Keeps K s0 s) (x : Side) [Free K .regs] :
    Keeps K s0 (State.eqdShow s x) := by
  unfold State.eqdShow
  extract_lets +onlyGivenNames e_0
  clear_value e_0
  extract_lets +onlyGivenNames b_1
  clear_value b_1
  extract_lets +onlyGivenNames resid2
  clear_value resid2
  apply setReg_keeps
  exact hk0

theorem eqdZero_keeps {s0 s : State} (hk0 : Keeps K s0 s) (x : Side) [Free K .regs] [Free K (.line x)] :
    Keeps K s0 (State.eqdZero s x) := by
  unfold State.eqdZero
  apply eqdShow_keeps
  apply modLine_keeps
  apply setReg_keeps
  exact hk0

theorem deactivate_keeps {s0 s : State} (hk0 : Keeps K s0 s) (x : Side) [Free K .regs] [Free K (.line x)] :
    Keeps K s0 (State.deactivate s x) := by
  unfold State.deactivate
  extract_lets +onlyGivenNames s1_0
  refine keeps_cut (v := s1_0) ?_ fun hs1_0 => ?_
  · subst s1_0
    apply setFlag_keeps
    exact hk0
  clear_value s1_0
  extract_lets +onlyGivenNames s2_1
  refine keeps_cut (v := s2_1) ?_ fun hs2_1 => ?_
  · subst s2_1
    refine keeps_foldl _ ?_ ?_
    · exact hs1_0
    · intro y2 y3 hy4
      apply setReg_keeps
      exact hy4
  clear_value s2_1
  apply modLine_keeps
  apply storeEmpty_keeps
  apply eqdZero_keeps
  exact hs2_1

theorem holdExpire_keeps {s0 s : State} (hk0 : Keeps K s0 s) (x : Side) [Free K .counters] [Free K .regs] [Free K .report] [Free K (.line x)] :
    Keeps K s0 (State.holdExpire s x) := by
  unfold State.holdExpire
  extract_lets +onlyGivenNames s1_0
  refine keeps_cut (v := s1_0) ?_ fun hs1_0 => ?_
  · subst s1_0
    apply lineEvent_keeps
    apply modLine_keeps
    exact hk0
  clear_value s1_0
  split
  · apply actGo_keeps
    exact hs1_0
  · apply actGo_keeps
    exact hs1_0
  · apply actGo_keeps
    apply deactivate_keeps
    exact hs1_0

theorem actReturn_keeps {s0 s : State} (hk0 : Keeps K s0 s) (x : Side) [Free K .counters] [Free K .regs] [Free K .report] [Free K (.line x)] :
    Keeps K s0 (State.actReturn s x) := by
  unfold State.actReturn
  extract_lets +onlyGivenNames r_0
  clear_value r_0
  extract_lets +onlyGivenNames s1_1
  refine keeps_cut (v := s1_1) ?_ fun hs1_1 => ?_
  · subst s1_1
    refine keeps_ite ?_ ?_
    · apply modLine_keeps
      exact hk0
    · exact hk0
  clear_value s1_1
  apply actGo_keeps
  exact hs1_1

theorem reasmDrop_keeps {s0 s : State} (hk0 : Keeps K s0 s) (x : Side) [Free K .counters] [Free K (.line x)] :
    Keeps K s0 (State.reasmDrop s x) := by
  unfold State.reasmDrop
  extract_lets +onlyGivenNames n_0
  clear_value n_0
  apply modLine_keeps
  apply bump_keeps
  exact hk0

theorem dsValidFall_keeps {s0 s : State} (hk0 : Keeps K s0 s) (x : Side) [Free K .capture] [Free K .circuits] [Free K .counters] [Free K .paddock] [Free K .pairing] [Free K .regs] [Free K .report] [Free K .time] [Free K (.line x)] :
    Keeps K s0 (State.dsValidFall s x) := by
  unfold State.dsValidFall
  refine keeps_ite ?_ ?_
  · exact hk0
  · extract_lets +onlyGivenNames s1_0
    refine keeps_cut (v := s1_0) ?_ fun hs1_0 => ?_
    · subst s1_0
      apply frameCut_keeps
      apply setFlag_keeps
      exact hk0
    clear_value s1_0
    extract_lets +onlyGivenNames s2_1
    refine keeps_cut (v := s2_1) ?_ fun hs2_1 => ?_
    · subst s2_1
      apply storeEmpty_keeps
      apply stopBurst_keeps
      exact hs1_0
    clear_value s2_1
    apply prtEval_keeps
    apply todDsLost_keeps
    apply modLine_keeps
    apply reasmDrop_keeps
    exact hs2_1

theorem dsValidRise_keeps {s0 st : State} (hk0 : Keeps K s0 st) (x : Side) [Free K .counters] [Free K .pairing] [Free K .regs] [Free K .report] [Free K .time] [Free K (.line x)] :
    Keeps K s0 (State.dsValidRise st x) := by
  unfold State.dsValidRise
  refine keeps_ite ?_ ?_
  · exact hk0
  · extract_lets +onlyGivenNames s_0
    refine keeps_cut (v := s_0) ?_ fun hs_0 => ?_
    · subst s_0
      refine keeps_ite ?_ ?_
      · apply holdExpire_keeps
        exact hk0
      · exact hk0
    clear_value s_0
    extract_lets +onlyGivenNames h_1
    clear_value h_1
    extract_lets +onlyGivenNames s1_2
    refine keeps_cut (v := s1_2) ?_ fun hs1_2 => ?_
    · subst s1_2
      apply setFlag_keeps
      exact hs_0
    clear_value s1_2
    extract_lets +onlyGivenNames s2_3
    refine keeps_cut (v := s2_3) ?_ fun hs2_3 => ?_
    · subst s2_3
      refine keeps_ite ?_ ?_
      · exact hs1_2
      · apply lineEvent_keeps
        apply modLine_keeps
        exact hs1_2
    clear_value s2_3
    extract_lets +onlyGivenNames s3_4
    refine keeps_cut (v := s3_4) ?_ fun hs3_4 => ?_
    · subst s3_4
      refine keeps_ite ?_ ?_
      · apply actReturn_keeps
        exact hs2_3
      · exact hs2_3
    clear_value s3_4
    apply prtEval_keeps
    apply timSideBack_keeps
    exact hs3_4

theorem xFlush_keeps {s0 s : State} (hk0 : Keeps K s0 s) (i : Nat) [Free K .counters] [Free K .memories] [Free K .paddock] [Free K .regs] [Free K .report] [Free K .xings] :
    Keeps K s0 (State.xFlush s i) := by
  unfold State.xFlush
  extract_lets +onlyGivenNames r_0
  refine keeps_cut (v := r_0.2) ?_ fun hr_0 => ?_
  · subst r_0
    apply xDiscard_keeps
    exact hk0
  clear_value r_0
  apply raiseIf_keeps
  exact hr_0

theorem lossActions_keeps {s0 s : State} (hk0 : Keeps K s0 s) (x : Side) [Free K .capture] [Free K .circuits] [Free K .counters] [Free K .free] [Free K .memories] [Free K .paddock] [Free K .pairing] [Free K .regs] [Free K .report] [Free K .time] [Free K .xings] [Free K (.line x)] :
    Keeps K s0 (State.lossActions s x) := by
  unfold State.lossActions
  extract_lets +onlyGivenNames s1_0
  refine keeps_cut (v := s1_0) ?_ fun hs1_0 => ?_
  · subst s1_0
    apply frameDiscard_keeps
    apply dsValidFall_keeps
    exact hk0
  clear_value s1_0
  extract_lets +onlyGivenNames s2_1
  refine keeps_cut (v := s2_1) ?_ fun hs2_1 => ?_
  · subst s2_1
    apply stopBurst_keeps
    refine keeps_foldl _ ?_ ?_
    · exact hs1_0
    · intro y2 y3 hy4
      apply xFlush_keeps
      exact hy4
  clear_value s2_1
  extract_lets +onlyGivenNames s3_5
  refine keeps_cut (v := s3_5) ?_ fun hs3_5 => ?_
  · subst s3_5
    refine keeps_ite ?_ ?_
    · exact hs2_1
    · apply actGo_keeps
      apply modLine_keeps
      apply setF_keeps
      exact hs2_1
  clear_value s3_5
  extract_lets +onlyGivenNames s4_6
  refine keeps_cut (v := s4_6) ?_ fun hs4_6 => ?_
  · subst s4_6
    apply timSideLost_keeps
    exact hs3_5
  clear_value s4_6
  extract_lets +onlyGivenNames s5_7
  refine keeps_cut (v := s5_7) ?_ fun hs5_7 => ?_
  · subst s5_7
    refine keeps_ite ?_ ?_
    · apply holdExpire_keeps
      exact hs4_6
    · exact hs4_6
  clear_value s5_7
  apply prtEval_keeps
  exact hs5_7

theorem pmFlag_keeps {s0 s : State} (hk0 : Keeps K s0 s) (x : Side) (i : Nat) [Free K (.line x)] :
    Keeps K s0 (State.pmFlag s x i) := by
  unfold State.pmFlag
  apply modLine_keeps
  exact hk0

theorem lomClear_keeps {s0 s : State} (hk0 : Keeps K s0 s) (x : Side) [Free K .counters] [Free K .regs] [Free K .report] :
    Keeps K s0 (State.lomClear s x) := by
  unfold State.lomClear
  refine keeps_ite ?_ ?_
  · apply lineEvent_keeps
    apply setFlag_keeps
    exact hk0
  · exact hk0

theorem lofDeclare_keeps {s0 s : State} (hk0 : Keeps K s0 s) (x : Side) (cause : Nat) [Free K .capture] [Free K .circuits] [Free K .counters] [Free K .free] [Free K .memories] [Free K .paddock] [Free K .pairing] [Free K .regs] [Free K .report] [Free K .time] [Free K .xings] [Free K (.line x)] :
    Keeps K s0 (State.lofDeclare s x cause) := by
  unfold State.lofDeclare
  refine keeps_ite ?_ ?_
  · apply lomClear_keeps
    exact hk0
  · extract_lets +onlyGivenNames was_0
    clear_value was_0
    extract_lets +onlyGivenNames s1_1
    refine keeps_cut (v := s1_1) ?_ fun hs1_1 => ?_
    · subst s1_1
      apply lineEvent_keeps
      apply bump_keeps
      apply pmFlag_keeps
      apply setFlag_keeps
      exact hk0
    clear_value s1_1
    apply lomClear_keeps
    refine keeps_ite ?_ ?_
    · apply prtEval_keeps
      exact hs1_1
    · apply lossActions_keeps
      exact hs1_1

theorem losDeclareOp_keeps {s0 s : State} (hk0 : Keeps K s0 s) (x : Side) [Free K .capture] [Free K .circuits] [Free K .counters] [Free K .free] [Free K .memories] [Free K .paddock] [Free K .pairing] [Free K .regs] [Free K .report] [Free K .time] [Free K .xings] [Free K (.line x)] :
    Keeps K s0 (State.losDeclareOp s x) := by
  unfold State.losDeclareOp
  refine keeps_ite ?_ ?_
  · exact hk0
  · extract_lets +onlyGivenNames was_0
    clear_value was_0
    extract_lets +onlyGivenNames s1_1
    refine keeps_cut (v := s1_1) ?_ fun hs1_1 => ?_
    · subst s1_1
      apply lineEvent_keeps
      apply bump_keeps
      apply pmFlag_keeps
      apply setFlag_keeps
      exact hk0
    clear_value s1_1
    refine keeps_ite ?_ ?_
    · apply prtEval_keeps
      exact hs1_1
    · apply lossActions_keeps
      exact hs1_1

theorem framerHunt_keeps {s0 s : State} (hk0 : Keeps K s0 s) (x : Side) [Free K .capture] [Free K .circuits] [Free K .counters] [Free K .paddock] [Free K .pairing] [Free K .regs] [Free K .report] [Free K .time] [Free K (.line x)] :
    Keeps K s0 (State.framerHunt s x) := by
  unfold State.framerHunt
  extract_lets +onlyGivenNames i_0
  clear_value i_0
  extract_lets +onlyGivenNames s1_1
  refine keeps_cut (v := s1_1) ?_ fun hs1_1 => ?_
  · subst s1_1
    apply dsValidFall_keeps
    exact hk0
  clear_value s1_1
  apply modLine_keeps
  apply frameCut_keeps
  apply setFlag_keeps
  apply setF_keeps
  apply setF_keeps
  exact hs1_1

theorem rogueLatch_keeps {s0 s : State} (hk0 : Keeps K s0 s) (x : Side) (cause : Nat) [Free K .capture] [Free K .counters] [Free K .paddock] [Free K .pairing] [Free K .regs] [Free K .report] [Free K .time] [Free K (.line x)] :
    Keeps K s0 (State.rogueLatch s x cause) := by
  unfold State.rogueLatch
  refine keeps_ite ?_ ?_
  · exact hk0
  · extract_lets +onlyGivenNames i_0
    clear_value i_0
    extract_lets +onlyGivenNames s1_1
    refine keeps_cut (v := s1_1) ?_ fun hs1_1 => ?_
    · subst s1_1
      apply lineEvent_keeps
      apply setF_keeps
      apply setFlag_keeps
      exact hk0
    clear_value s1_1
    extract_lets +onlyGivenNames s2_2
    refine keeps_cut (v := s2_2) ?_ fun hs2_2 => ?_
    · subst s2_2
      apply stopBurst_keeps
      exact hs1_1
    clear_value s2_2
    extract_lets +onlyGivenNames s3_3
    refine keeps_cut (v := s3_3) ?_ fun hs3_3 => ?_
    · subst s3_3
      refine keeps_ite ?_ ?_
      · apply modLine_keeps
        apply setFlag_keeps
        exact hs2_2
      · exact hs2_2
    clear_value s3_3
    apply prtEval_keeps
    exact hs3_3

theorem faultSide_keeps {s0 s : State} (hk0 : Keeps K s0 s) (x : Side) [Free K .counters] [Free K .regs] [Free K .report] [Free K (.line x)] :
    Keeps K s0 (State.faultSide s x) := by
  unfold State.faultSide
  extract_lets +onlyGivenNames s1_0
  refine keeps_cut (v := s1_0) ?_ fun hs1_0 => ?_
  · subst s1_0
    apply dgRequest_keeps
    exact hk0
  clear_value s1_0
  extract_lets +onlyGivenNames l_1
  clear_value l_1
  refine keeps_ite ?_ ?_
  · exact hs1_0
  · refine keeps_ite ?_ ?_
    · apply setFlag_keeps
      exact hs1_0
    · extract_lets +onlyGivenNames old_2
      clear_value old_2
      apply modLine_keeps
      exact hs1_0

theorem ownerWrite_keeps {s0 s : State} (h : Keeps K s0 s) (x : Side) (q : Req) (owner blk : Nat) (k : State → State)
    (hk : ∀ t, Keeps K s0 t → Keeps K s0 (k t)) [Free K .counters] [Free K .regs] [Free K .report] : Keeps K s0 (s.ownerWrite x q owner blk k) :=
  keeps_ite (hk s h) (lineEvent_keeps h ..)

theorem msgOwnerWrite_keeps {s0 s : State} (h : Keeps K s0 s) (x : Side) (q : Req) (k : State → State)
    (hk : ∀ t, Keeps K s0 t → Keeps K s0 (k t)) [Free K .counters] [Free K .regs] [Free K .report] : Keeps K s0 (s.msgOwnerWrite x q k) := ownerWrite_keeps h x q _ _ k hk

end Sys2Proof.Machine
end

