-- ==== Sys2Proof/Laws/KeepsGrants.lean ====
section
/-! SUPPORT. What the operations of Machine/Grants.lean keep. -/

-- One proof at a time: in the package as one text, proofs that wait for each other would each hold a thread.
set_option Elab.async false

namespace Sys2Proof.Machine

variable {K : Comp → Prop}

theorem grantRefuse_keeps {s0 s : State} (hk0 : Keeps K s0 s) (x : Side) (counter bits : Nat) [Free K .counters] [Free K (.line x)] :
    Keeps K s0 (State.grantRefuse s x counter bits) := by
  unfold State.grantRefuse
  apply modLine_keeps
  apply bump_keeps
  exact hk0

theorem mapUndo_keeps {s0 s : State} (hk0 : Keeps K s0 s) (x : Side) (b : Burst) [Free K (.line x)] :
    Keeps K s0 (State.mapUndo s x b) := by
  unfold State.mapUndo
  apply modLine_keeps
  exact hk0

theorem burstClose_keeps {s0 s : State} (hk0 : Keeps K s0 s) (x : Side) (delay : Nat) [Free K .counters] [Free K (.line x)] :
    Keeps K s0 (State.burstClose s x delay) := by
  unfold State.burstClose
  split
  · exact hk0
  · extract_lets +onlyGivenNames s_0
    refine keeps_cut (v := s_0) ?_ fun hs_0 => ?_
    · subst s_0
      apply modLine_keeps
      exact hk0
    clear_value s_0
    extract_lets +onlyGivenNames w_1
    clear_value w_1
    extract_lets +onlyGivenNames b1_2
    clear_value b1_2
    extract_lets +onlyGivenNames late3
    clear_value late3
    extract_lets +onlyGivenNames b2_4
    clear_value b2_4
    extract_lets +onlyGivenNames b_5
    clear_value b_5
    refine keeps_ite ?_ ?_
    · apply bump_keeps
      apply mapUndo_keeps
      exact hs_0
    · split
      · apply grantRefuse_keeps
        apply modLine_keeps
        apply mapUndo_keeps
        exact hs_0
      · apply bump_keeps
        apply modLine_keeps
        exact hs_0

theorem mapEnd_keeps {s0 s : State} (hk0 : Keeps K s0 s) (x : Side) [Free K .counters] [Free K .regs] [Free K .report] [Free K (.line x)] :
    Keeps K s0 (State.mapEnd s x) := by
  unfold State.mapEnd
  extract_lets +onlyGivenNames d_0
  clear_value d_0
  extract_lets +onlyGivenNames s1_1
  refine keeps_cut (v := s1_1) ?_ fun hs1_1 => ?_
  · subst s1_1
    apply burstClose_keeps
    exact hk0
  clear_value s1_1
  extract_lets +onlyGivenNames l_2
  clear_value l_2
  extract_lets +onlyGivenNames s2_3
  refine keeps_cut (v := s2_3) ?_ fun hs2_3 => ?_
  · subst s2_3
    refine keeps_ite ?_ ?_
    · exact hs1_1
    · apply lineEvent_keeps
      exact hs1_1
  clear_value s2_3
  apply modLine_keeps
  exact hs2_3

theorem entryJoin_keeps {s0 s : State} (hk0 : Keeps K s0 s) (x : Side) (key e : Nat) (delay : Nat) (first : Bool) [Free K (.line x)] :
    Keeps K s0 (State.entryJoin s x key e delay first) := by
  unfold State.entryJoin
  extract_lets +onlyGivenNames odc_0
  clear_value odc_0
  extract_lets +onlyGivenNames mfi_1
  clear_value mfi_1
  extract_lets +onlyGivenNames od_2
  clear_value od_2
  extract_lets +onlyGivenNames a_3
  clear_value a_3
  extract_lets +onlyGivenNames s1_4
  refine keeps_cut (v := s1_4) ?_ fun hs1_4 => ?_
  · subst s1_4
    apply modLine_keeps
    exact hk0
  clear_value s1_4
  refine keeps_ite ?_ ?_
  · extract_lets +onlyGivenNames b_5
    clear_value b_5
    apply modLine_keeps
    exact hs1_4
  · apply modLine_keeps
    exact hs1_4

theorem entryCheck_keeps {s0 s : State} (hk0 : Keeps K s0 s) (x : Side) (key e : Nat) (hec : Hec) (delay : Nat) [Free K .counters] [Free K (.line x)] :
    Keeps K s0 (State.entryCheck s x key e hec delay) := by
  unfold State.entryCheck
  extract_lets +onlyGivenNames first0
  clear_value first0
  extract_lets +onlyGivenNames s_1
  refine keeps_cut (v := s_1) ?_ fun hs_1 => ?_
  · subst s_1
    refine keeps_ite ?_ ?_
    · apply burstClose_keeps
      exact hk0
    · exact hk0
  clear_value s_1
  extract_lets +onlyGivenNames refuse2
  subst refuse2
  extract_lets +onlyGivenNames odc_3
  clear_value odc_3
  refine keeps_ite ?_ ?_
  · dsimp only
    apply modLine_keeps
    apply grantRefuse_keeps
    exact hs_1
  · refine keeps_ite ?_ ?_
    · dsimp only
      apply modLine_keeps
      apply grantRefuse_keeps
      exact hs_1
    · refine keeps_ite ?_ ?_
      · dsimp only
        apply modLine_keeps
        apply grantRefuse_keeps
        exact hs_1
      · refine keeps_ite ?_ ?_
        · dsimp only
          apply modLine_keeps
          apply grantRefuse_keeps
          exact hs_1
        · refine keeps_ite ?_ ?_
          · dsimp only
            apply modLine_keeps
            apply grantRefuse_keeps
            exact hs_1
          · refine keeps_ite ?_ ?_
            · apply modLine_keeps
              exact hs_1
            · apply entryJoin_keeps
              exact hs_1

theorem entryOp_keeps {s0 s : State} (hk0 : Keeps K s0 s) (x : Side) (k : Nat) (bytes : List Byte) (marked : Bool) (ghec : Hec) (delay : Nat) [Free K .counters] [Free K (.line x)] :
    Keeps K s0 (State.entryOp s x k bytes marked ghec delay) := by
  unfold State.entryOp
  refine keeps_ite ?_ ?_
  · apply bump_keeps
    exact hk0
  · refine keeps_ite ?_ ?_
    · exact hk0
    · extract_lets +onlyGivenNames c_0
      clear_value c_0
      extract_lets +onlyGivenNames hec_1
      clear_value hec_1
      extract_lets +onlyGivenNames e_2
      clear_value e_2
      split
      · exact hk0
      · apply entryCheck_keeps
        exact hk0

end Sys2Proof.Machine
end

