-- ==== Sys2Proof/Laws/KeepsKeyBase.lean ====
section
/-! SUPPORT. What the operations of Machine/KeyBase.lean keep. -/

-- One proof at a time: in the package as one text, proofs that wait for each other would each hold a thread.
set_option Elab.async false

namespace Sys2Proof.Machine

variable {K : Comp → Prop}

theorem setG_keeps {s0 s : State} (hk0 : Keeps K s0 s) (k r : Nat) (v : BitVec 64) [Free K .regs] [Free K .threads] :
    Keeps K s0 (State.setG s k r v) := by
  unfold State.setG
  refine keeps_ite ?_ ?_
  · exact hk0
  · apply setThread_keeps
    exact hk0

theorem callEnd_keeps {s0 s : State} (hk0 : Keeps K s0 s) (k w : Nat) (c : CallStat) (res : List Nat) [Free K .regs] [Free K .threads] :
    Keeps K s0 (State.callEnd s k w c res) := by
  unfold State.callEnd
  extract_lets +onlyGivenNames s1_0
  refine keeps_cut (v := s1_0) ?_ fun hs1_0 => ?_
  · subst s1_0
    apply setG_keeps
    exact hk0
  clear_value s1_0
  split
  · exact hs1_0
  · apply setG_keeps
    exact hs1_0
  · apply setG_keeps
    apply setG_keeps
    exact hs1_0

theorem keySet_keeps {s0 s : State} (hk0 : Keeps K s0 s) (slot : Nat) (k : List Byte) [Free K .keys] [Free K .regs] :
    Keeps K s0 (State.keySet s slot k) := by
  unfold State.keySet
  extract_lets +onlyGivenNames s1_0
  refine keeps_cut (v := s1_0) ?_ fun hs1_0 => ?_
  · subst s1_0
    apply modSec_keeps
    exact hk0
  clear_value s1_0
  apply setF_keeps
  apply setF_keeps
  exact hs1_0

theorem keySwitch_keeps {s0 s : State} (hk0 : Keeps K s0 s) (x : Side) (sfc : Nat) [Free K .counters] [Free K .regs] [Free K .report] [Free K (.line x)] :
    Keeps K s0 (State.keySwitch s x sfc) := by
  unfold State.keySwitch
  extract_lets +onlyGivenNames i_0
  clear_value i_0
  extract_lets +onlyGivenNames arm_1
  refine keeps_ite ?_ ?_
  · extract_lets +onlyGivenNames old_2
    clear_value old_2
    apply raise_keeps
    apply setFlag_keeps
    apply setF_keeps
    apply modLine_keeps
    exact hk0
  · exact hk0

end Sys2Proof.Machine
end

