-- ==== Sys2Proof/Laws/KeepsDownstream.lean ====
section
/-! SUPPORT. What the operations of Machine/Downstream.lean keep. -/

-- One proof at a time: in the package as one text, proofs that wait for each other would each hold a thread.
set_option Elab.async false

namespace Sys2Proof.Machine

variable {K : Comp → Prop}

theorem snrUpdate_keeps {s0 s : State} (hk0 : Keeps K s0 s) (x : Side) (f : DsFrame) [Free K .counters] [Free K .regs] [Free K .report] :
    Keeps K s0 (State.snrUpdate s x f) := by
  unfold State.snrUpdate
  extract_lets +onlyGivenNames i_0
  clear_value i_0
  extract_lets +onlyGivenNames fl_1
  clear_value fl_1
  extract_lets +onlyGivenNames step2
  subst step2
  refine keeps_ite ?_ ?_
  · dsimp only
    apply raiseIf_keeps
    apply setF_keeps
    apply raiseIf_keeps
    apply setF_keeps
    apply raiseIf_keeps
    apply setF_keeps
    exact hk0
  · apply setF_keeps
    apply setF_keeps
    dsimp only
    apply raiseIf_keeps
    apply setF_keeps
    exact hk0

theorem mfiStep_keeps {s0 s : State} (hk0 : Keeps K s0 s) (x : Side) (ok : Bool) (mfi : Nat) [Free K .counters] [Free K .regs] [Free K .report] [Free K (.line x)] :
    Keeps K s0 (State.mfiStep s x ok mfi) := by
  unfold State.mfiStep
  extract_lets +onlyGivenNames i_0
  clear_value i_0
  refine keeps_ite ?_ ?_
  · extract_lets +onlyGivenNames e_1
    clear_value e_1
    extract_lets +onlyGivenNames s1_2
    refine keeps_cut (v := s1_2) ?_ fun hs1_2 => ?_
    · subst s1_2
      apply setF_keeps
      exact hk0
    clear_value s1_2
    refine keeps_ite ?_ ?_
    · apply modLine_keeps
      exact hs1_2
    · extract_lets +onlyGivenNames n_3
      clear_value n_3
      extract_lets +onlyGivenNames s2_4
      refine keeps_cut (v := s2_4) ?_ fun hs2_4 => ?_
      · subst s2_4
        apply modLine_keeps
        apply bump_keeps
        exact hs1_2
      clear_value s2_4
      refine keeps_ite ?_ ?_
      · exact hs2_4
      · extract_lets +onlyGivenNames s3_5
        refine keeps_cut (v := s3_5) ?_ fun hs3_5 => ?_
        · subst s3_5
          apply modLine_keeps
          apply setFlag_keeps
          exact hs2_4
        clear_value s3_5
        refine keeps_ite ?_ ?_
        · exact hs3_5
        · apply lineEvent_keeps
          apply pmFlag_keeps
          apply setFlag_keeps
          exact hs3_5
  · refine keeps_ite ?_ ?_
    · apply modLine_keeps
      exact hk0
    · extract_lets +onlyGivenNames n_6
      clear_value n_6
      extract_lets +onlyGivenNames s1_7
      refine keeps_cut (v := s1_7) ?_ fun hs1_7 => ?_
      · subst s1_7
        apply modLine_keeps
        exact hk0
      clear_value s1_7
      refine keeps_ite ?_ ?_
      · exact hs1_7
      · apply lomClear_keeps
        apply modLine_keeps
        apply setF_keeps
        apply setFlag_keeps
        exact hs1_7

theorem mfiSkip_keeps {s0 s : State} (hk0 : Keeps K s0 s) (x : Side) [Free K .regs] [Free K (.line x)] :
    Keeps K s0 (State.mfiSkip s x) := by
  unfold State.mfiSkip
  refine keeps_ite ?_ ?_
  · apply setF_keeps
    exact hk0
  · apply modLine_keeps
    exact hk0

theorem odcFetch_keeps {s0 s : State} (hk0 : Keeps K s0 s) (x : Side) (second : Bool) [Free K .counters] [Free K .regs] [Free K .report] [Free K (.line x)] :
    Keeps K s0 (State.odcFetch s x second) := by
  unfold State.odcFetch
  extract_lets +onlyGivenNames i_0
  clear_value i_0
  extract_lets +onlyGivenNames q_1
  clear_value q_1
  extract_lets +onlyGivenNames on_2
  clear_value on_2
  extract_lets +onlyGivenNames d_3
  clear_value d_3
  extract_lets +onlyGivenNames s1_4
  refine keeps_cut (v := s1_4) ?_ fun hs1_4 => ?_
  · subst s1_4
    apply modLine_keeps
    exact hk0
  clear_value s1_4
  refine keeps_ite ?_ ?_
  · apply lineEvent_keeps
    apply bump_keeps
    apply setFlag_keeps
    exact hs1_4
  · exact hs1_4

theorem odcGather_keeps {s0 s : State} (hk0 : Keeps K s0 s) (x : Side) [Free K (.line x)] :
    Keeps K s0 (State.odcGather s x) := by
  unfold State.odcGather
  extract_lets +onlyGivenNames l_0
  clear_value l_0
  split
  · apply modLine_keeps
    exact hk0
  · extract_lets +onlyGivenNames ones1
    clear_value ones1
    extract_lets +onlyGivenNames d_2
    clear_value d_2
    extract_lets +onlyGivenNames pad_3
    clear_value pad_3
    apply modLine_keeps
    exact hk0

theorem odcTurn_keeps {s0 s : State} (hk0 : Keeps K s0 s) (x : Side) [Free K .counters] [Free K .regs] [Free K .report] [Free K (.line x)] :
    Keeps K s0 (State.odcTurn s x) := by
  unfold State.odcTurn
  refine keeps_ite ?_ ?_
  · extract_lets +onlyGivenNames pad_0
    clear_value pad_0
    apply odcFetch_keeps
    apply odcFetch_keeps
    apply modLine_keeps
    exact hk0
  · exact hk0

theorem slotsMissed_keeps {s0 s : State} (hk0 : Keeps K s0 s) (x : Side) [Free K .counters] [Free K .regs] [Free K .report] :
    Keeps K s0 (State.slotsMissed s x) := by
  unfold State.slotsMissed
  extract_lets +onlyGivenNames n_0
  clear_value n_0
  refine keeps_ite ?_ ?_
  · exact hk0
  · apply raiseLim_keeps
    apply bump_keeps
    exact hk0

theorem mapTurn_keeps {s0 s : State} (hk0 : Keeps K s0 s) (x : Side) [Free K .counters] [Free K .regs] [Free K .report] [Free K (.line x)] :
    Keeps K s0 (State.mapTurn s x) := by
  unfold State.mapTurn
  extract_lets +onlyGivenNames s1_0
  refine keeps_cut (v := s1_0) ?_ fun hs1_0 => ?_
  · subst s1_0
    apply mapEnd_keeps
    exact hk0
  clear_value s1_0
  extract_lets +onlyGivenNames l_1
  clear_value l_1
  extract_lets +onlyGivenNames s2_2
  refine keeps_cut (v := s2_2) ?_ fun hs2_2 => ?_
  · subst s2_2
    apply bumpIf_keeps
    exact hs1_0
  clear_value s2_2
  extract_lets +onlyGivenNames s3_3
  refine keeps_cut (v := s3_3) ?_ fun hs3_3 => ?_
  · subst s3_3
    refine keeps_ite ?_ ?_
    · apply slotsMissed_keeps
      exact hs2_2
    · exact hs2_2
  clear_value s3_3
  apply modLine_keeps
  exact hs3_3

theorem cktFrame_keeps {s0 s : State} (hk0 : Keeps K s0 s) (x : Side) (c : DsCkt) [Free K .circuits] :
    Keeps K s0 (State.cktFrame s x c) := by
  unfold State.cktFrame
  apply setDsFrames_keeps
  exact hk0

theorem boundaryEffects_keeps {s0 s : State} (hk0 : Keeps K s0 s) (x : Side) [Free K .regs] [Free K (.line x)] :
    Keeps K s0 (State.boundaryEffects s x) := by
  unfold State.boundaryEffects
  extract_lets +onlyGivenNames e_0
  clear_value e_0
  apply eqdShow_keeps
  apply modLine_keeps
  apply setFlag_keeps
  exact hk0

theorem ponUpdate_keeps {s0 s : State} (hk0 : Keeps K s0 s) (x : Side) (pon : Option Nat) [Free K .counters] [Free K .free] [Free K .regs] [Free K .report] [Free K .time] :
    Keeps K s0 (State.ponUpdate s x pon) := by
  unfold State.ponUpdate
  extract_lets +onlyGivenNames i_0
  clear_value i_0
  split
  · exact hk0
  · refine keeps_ite ?_ ?_
    · exact hk0
    · apply todHeadChange_keeps
      apply lineEvent_keeps
      apply setF_keeps
      apply setF_keeps
      exact hk0

theorem coursersSend_keeps {s0 s : State} (hk0 : Keeps K s0 s) (x : Side) (bytes : List Byte) (pos : Nat) [Free K .free] [Free K .regs] [Free K .xings] :
    Keeps K s0 (State.coursersSend s x bytes pos).2 := by
  unfold State.coursersSend
  extract_lets +onlyGivenNames i_0
  clear_value i_0
  refine keeps_ite2 ?_ ?_
  · extract_lets +onlyGivenNames p_1
    refine keeps_cut (v := p_1.2) ?_ fun hp_1 => ?_
    · subst p_1
      apply takeFree_keeps
      exact hk0
    clear_value p_1
    extract_lets +onlyGivenNames st_2
    clear_value st_2
    refine keeps_pair ?_
    apply xPush_keeps
    exact hp_1
  · refine keeps_pair ?_
    exact hk0

theorem mapCopy_keeps {s0 s : State} (hk0 : Keeps K s0 s) (x : Side) (ok : Bool) [Free K .capture] [Free K .counters] [Free K .free] [Free K .paddock] [Free K .regs] [Free K .report] [Free K .xings] :
    Keeps K s0 (State.mapCopy s x ok) := by
  unfold State.mapCopy
  extract_lets +onlyGivenNames l_0
  clear_value l_0
  extract_lets +onlyGivenNames s1_1
  refine keeps_cut (v := s1_1) ?_ fun hs1_1 => ?_
  · subst s1_1
    apply capOffer_keeps
    exact hk0
  clear_value s1_1
  refine keeps_ite ?_ ?_
  · exact hs1_1
  · apply coursersSend_keeps
    exact hs1_1

theorem frameTurn_keeps {s0 s : State} (hk0 : Keeps K s0 s) (x : Side) [Free K .counters] [Free K .regs] [Free K .report] [Free K (.line x)] :
    Keeps K s0 (State.frameTurn s x) := by
  unfold State.frameTurn
  apply odcGather_keeps
  apply mapTurn_keeps
  exact hk0

theorem frameMissing_keeps {s0 s : State} (hk0 : Keeps K s0 s) (x : Side) (f : DsFrame) [Free K .capture] [Free K .circuits] [Free K .counters] [Free K .free] [Free K .memories] [Free K .paddock] [Free K .pairing] [Free K .regs] [Free K .report] [Free K .time] [Free K .xings] [Free K (.line x)] :
    Keeps K s0 (State.frameMissing s x f) := by
  unfold State.frameMissing
  extract_lets +onlyGivenNames n_0
  clear_value n_0
  extract_lets +onlyGivenNames s1_1
  refine keeps_cut (v := s1_1) ?_ fun hs1_1 => ?_
  · subst s1_1
    apply dsValidFall_keeps
    apply modLine_keeps
    apply bump_keeps
    apply frameTurn_keeps
    exact hk0
  clear_value s1_1
  extract_lets +onlyGivenNames pred2
  clear_value pred2
  extract_lets +onlyGivenNames s2_3
  refine keeps_cut (v := s2_3) ?_ fun hs2_3 => ?_
  · subst s2_3
    apply modLine_keeps
    apply mfiSkip_keeps
    exact hs1_1
  clear_value s2_3
  extract_lets +onlyGivenNames mfi_4
  clear_value mfi_4
  extract_lets +onlyGivenNames al_5
  clear_value al_5
  extract_lets +onlyGivenNames s3_6
  refine keeps_cut (v := s3_6) ?_ fun hs3_6 => ?_
  · subst s3_6
    apply modLine_keeps
    apply cktFrame_keeps
    exact hs2_3
  clear_value s3_6
  extract_lets +onlyGivenNames s3_7
  refine keeps_cut (v := s3_7) ?_ fun hs3_7 => ?_
  · subst s3_7
    apply addBound_keeps
    exact hs3_6
  clear_value s3_7
  extract_lets +onlyGivenNames s4_8
  refine keeps_cut (v := s4_8) ?_ fun hs4_8 => ?_
  · subst s4_8
    apply mapCopy_keeps
    apply snrUpdate_keeps
    apply boundaryEffects_keeps
    refine keeps_ite ?_ ?_
    · apply odcTurn_keeps
      exact hs3_7
    · exact hs3_7
  clear_value s4_8
  refine keeps_ite ?_ ?_
  · exact hs4_8
  · apply lofDeclare_keeps
    apply framerHunt_keeps
    exact hs4_8

theorem frameLay_keeps {s0 s : State} (hk0 : Keeps K s0 s) (x : Side) (info : List Byte) (d : Nat) (ok : Bool) [Free K (.line x)] :
    Keeps K s0 (State.frameLay s x info d ok) := by
  unfold State.frameLay
  extract_lets +onlyGivenNames dx_0
  clear_value dx_0
  apply modLine_keeps
  exact hk0

theorem frameProcess_keeps {s0 s : State} (hk0 : Keeps K s0 s) (x : Side) (f : DsFrame) (sfc : Nat) (pon : Option Nat) [Free K .capture] [Free K .circuits] [Free K .counters] [Free K .free] [Free K .paddock] [Free K .pairing] [Free K .regs] [Free K .report] [Free K .time] [Free K .xings] [Free K (.line x)] :
    Keeps K s0 (State.frameProcess s x f sfc pon) := by
  unfold State.frameProcess
  extract_lets +onlyGivenNames i_0
  clear_value i_0
  extract_lets +onlyGivenNames dx_1
  clear_value dx_1
  extract_lets +onlyGivenNames info2
  clear_value info2
  extract_lets +onlyGivenNames d_3
  clear_value d_3
  extract_lets +onlyGivenNames dcs_4
  clear_value dcs_4
  extract_lets +onlyGivenNames s1_5
  refine keeps_cut (v := s1_5) ?_ fun hs1_5 => ?_
  · subst s1_5
    apply frameLay_keeps
    apply modLine_keeps
    apply setF_keeps
    apply setF_keeps
    apply bump_keeps
    apply frameTurn_keeps
    exact hk0
  clear_value s1_5
  extract_lets +onlyGivenNames s2_6
  refine keeps_cut (v := s2_6) ?_ fun hs2_6 => ?_
  · subst s2_6
    apply snrUpdate_keeps
    apply boundaryEffects_keeps
    exact hs1_5
  clear_value s2_6
  extract_lets +onlyGivenNames s3_7
  refine keeps_cut (v := s3_7) ?_ fun hs3_7 => ?_
  · subst s3_7
    refine keeps_ite ?_ ?_
    · apply dsValidRise_keeps
      exact hs2_6
    · exact hs2_6
  clear_value s3_7
  extract_lets +onlyGivenNames resid8
  clear_value resid8
  extract_lets +onlyGivenNames s4_9
  refine keeps_cut (v := s4_9) ?_ fun hs4_9 => ?_
  · subst s4_9
    apply addBound_keeps
    exact hs3_7
  clear_value s4_9
  extract_lets +onlyGivenNames s5_10
  refine keeps_cut (v := s5_10) ?_ fun hs5_10 => ?_
  · subst s5_10
    apply bumpIf_keeps
    apply bumpIf_keeps
    apply bumpIf_keeps
    exact hs4_9
  clear_value s5_10
  extract_lets +onlyGivenNames s6_11
  refine keeps_cut (v := s6_11) ?_ fun hs6_11 => ?_
  · subst s6_11
    refine keeps_ite ?_ ?_
    · apply mfiStep_keeps
      exact hs5_10
    · exact hs5_10
  clear_value s6_11
  extract_lets +onlyGivenNames s7_12
  refine keeps_cut (v := s7_12) ?_ fun hs7_12 => ?_
  · subst s7_12
    apply ponUpdate_keeps
    exact hs6_11
  clear_value s7_12
  extract_lets +onlyGivenNames valid13
  clear_value valid13
  extract_lets +onlyGivenNames al_14
  clear_value al_14
  extract_lets +onlyGivenNames mfi_15
  clear_value mfi_15
  extract_lets +onlyGivenNames s8_16
  refine keeps_cut (v := s8_16) ?_ fun hs8_16 => ?_
  · subst s8_16
    refine keeps_ite ?_ ?_
    · exact hs7_12
    · apply odcTurn_keeps
      apply modLine_keeps
      exact hs7_12
  clear_value s8_16
  extract_lets +onlyGivenNames ok_17
  clear_value ok_17
  extract_lets +onlyGivenNames s9_18
  refine keeps_cut (v := s9_18) ?_ fun hs9_18 => ?_
  · subst s9_18
    apply cktFrame_keeps
    exact hs8_16
  clear_value s9_18
  extract_lets +onlyGivenNames s10_19
  refine keeps_cut (v := s10_19) ?_ fun hs10_19 => ?_
  · subst s10_19
    apply modLine_keeps
    exact hs9_18
  clear_value s10_19
  extract_lets +onlyGivenNames s11_20
  refine keeps_cut (v := s11_20) ?_ fun hs11_20 => ?_
  · subst s11_20
    refine keeps_ite ?_ ?_
    · apply mapCopy_keeps
      exact hs10_19
    · exact hs10_19
  clear_value s11_20
  refine keeps_ite ?_ ?_
  · apply keySwitch_keeps
    exact hs11_20
  · exact hs11_20

theorem frameJudge_keeps {s0 s : State} (hk0 : Keeps K s0 s) (x : Side) (f : DsFrame) (pon : Option Nat) [Free K .capture] [Free K .circuits] [Free K .counters] [Free K .free] [Free K .memories] [Free K .paddock] [Free K .pairing] [Free K .regs] [Free K .report] [Free K .time] [Free K .xings] [Free K (.line x)] :
    Keeps K s0 (State.frameJudge s x f pon) := by
  unfold State.frameJudge
  extract_lets +onlyGivenNames pred0
  clear_value pred0
  extract_lets +onlyGivenNames s1_1
  refine keeps_cut (v := s1_1) ?_ fun hs1_1 => ?_
  · subst s1_1
    apply modLine_keeps
    apply bumpIf_keeps
    apply bump_keeps
    exact hk0
  clear_value s1_1
  refine keeps_ite ?_ ?_
  · extract_lets +onlyGivenNames n_2
    clear_value n_2
    extract_lets +onlyGivenNames s2_3
    refine keeps_cut (v := s2_3) ?_ fun hs2_3 => ?_
    · subst s2_3
      apply modLine_keeps
      apply bump_keeps
      exact hs1_1
    clear_value s2_3
    refine keeps_ite ?_ ?_
    · apply frameProcess_keeps
      exact hs2_3
    · extract_lets +onlyGivenNames s3_4
      refine keeps_cut (v := s3_4) ?_ fun hs3_4 => ?_
      · subst s3_4
        apply modLine_keeps
        apply frameTurn_keeps
        exact hs2_3
      clear_value s3_4
      apply lofDeclare_keeps
      apply framerHunt_keeps
      apply mapCopy_keeps
      apply snrUpdate_keeps
      apply boundaryEffects_keeps
      exact hs3_4
  · apply frameProcess_keeps
    apply modLine_keeps
    exact hs1_1

theorem setCands_keeps {s0 s : State} (hk0 : Keeps K s0 s) (x : Side) (cs : List Cand) [Free K .regs] [Free K (.line x)] :
    Keeps K s0 (State.setCands s x cs) := by
  unfold State.setCands
  apply setF_keeps
  apply setF_keeps
  apply modLine_keeps
  exact hk0

theorem candAdd_keeps {s0 s : State} (hk0 : Keeps K s0 s) (x : Side) (pos : Nat) (f : DsFrame) [Free K .counters] [Free K .regs] [Free K (.line x)] :
    Keeps K s0 (State.candAdd s x pos f) := by
  unfold State.candAdd
  extract_lets +onlyGivenNames cs_0
  clear_value cs_0
  refine keeps_ite ?_ ?_
  · exact hk0
  · extract_lets +onlyGivenNames dx_1
    clear_value dx_1
    extract_lets +onlyGivenNames info2
    clear_value info2
    extract_lets +onlyGivenNames c_3
    clear_value c_3
    apply setCands_keeps
    apply bumpIf_keeps
    apply bumpIf_keeps
    exact hk0

theorem syncEnter_keeps {s0 s : State} (hk0 : Keeps K s0 s) (x : Side) (c : Cand) (f : DsFrame) [Free K .capture] [Free K .circuits] [Free K .counters] [Free K .free] [Free K .memories] [Free K .paddock] [Free K .pairing] [Free K .power] [Free K .regs] [Free K .report] [Free K .time] [Free K .xings] [Free K (.line x)] :
    Keeps K s0 (State.syncEnter s x c f) := by
  unfold State.syncEnter
  extract_lets +onlyGivenNames i_0
  clear_value i_0
  extract_lets +onlyGivenNames s1_1
  refine keeps_cut (v := s1_1) ?_ fun hs1_1 => ?_
  · subst s1_1
    apply modLine_keeps
    apply setF_keeps
    apply setCands_keeps
    exact hk0
  clear_value s1_1
  extract_lets +onlyGivenNames s1_2
  refine keeps_cut (v := s1_2) ?_ fun hs1_2 => ?_
  · subst s1_2
    apply modPwr_keeps
    exact hs1_1
  clear_value s1_2
  extract_lets +onlyGivenNames s2_3
  refine keeps_cut (v := s2_3) ?_ fun hs2_3 => ?_
  · subst s2_3
    refine keeps_ite ?_ ?_
    · apply lineEvent_keeps
      apply setFlag_keeps
      exact hs1_2
    · exact hs1_2
  clear_value s2_3
  extract_lets +onlyGivenNames s3_4
  refine keeps_cut (v := s3_4) ?_ fun hs3_4 => ?_
  · subst s3_4
    apply lineEvent_keeps
    exact hs2_3
  clear_value s3_4
  apply prtEval_keeps
  apply frameJudge_keeps
  exact hs3_4

theorem psyncOp_keeps {s0 s : State} (hk0 : Keeps K s0 s) (x : Side) (pos : Nat) (f : DsFrame) [Free K .capture] [Free K .circuits] [Free K .counters] [Free K .free] [Free K .memories] [Free K .paddock] [Free K .pairing] [Free K .power] [Free K .regs] [Free K .report] [Free K .time] [Free K .xings] [Free K (.line x)] :
    Keeps K s0 (State.psyncOp s x pos f) := by
  unfold State.psyncOp
  refine keeps_ite ?_ ?_
  · exact hk0
  · extract_lets +onlyGivenNames hit_0
    clear_value hit_0
    split
    · refine keeps_ite ?_ ?_
      · apply candAdd_keeps
        exact hk0
      · exact hk0
    · refine keeps_ite ?_ ?_
      · apply syncEnter_keeps
        exact hk0
      · extract_lets +onlyGivenNames s1_1
        refine keeps_cut (v := s1_1) ?_ fun hs1_1 => ?_
        · subst s1_1
          apply setCands_keeps
          exact hk0
        clear_value s1_1
        refine keeps_ite ?_ ?_
        · apply candAdd_keeps
          exact hs1_1
        · exact hs1_1

theorem setReasm_keeps {s0 s : State} (hk0 : Keeps K s0 s) (x : Side) (p : Nat) (r : Reasm) [Free K (.line x)] :
    Keeps K s0 (State.setReasm s x p r) := by
  unfold State.setReasm
  apply modLine_keeps
  exact hk0

theorem delineation_keeps {s0 s : State} (hk0 : Keeps K s0 s) (x : Side) [Free K .counters] [Free K (.line x)] :
    Keeps K s0 (State.delineation s x) := by
  unfold State.delineation
  apply modLine_keeps
  apply reasmDrop_keeps
  apply bump_keeps
  exact hk0

theorem fragDiscard_keeps {s0 s : State} (hk0 : Keeps K s0 s) (x : Side) (port : Nat) (lf : Bool) [Free K .counters] [Free K (.line x)] :
    Keeps K s0 (State.fragDiscard s x port lf) := by
  unfold State.fragDiscard
  apply setReasm_keeps
  apply bumpIf_keeps
  exact hk0

theorem clientDeliver_keeps {s0 s : State} (hk0 : Keeps K s0 s) (x : Side) (fr : Frame) [Free K .counters] [Free K .regs] [Free K .report] [Free K .time] [Free K .xings] :
    Keeps K s0 (State.clientDeliver s x fr) := by
  unfold State.clientDeliver
  extract_lets +onlyGivenNames i_0
  clear_value i_0
  extract_lets +onlyGivenNames s1_1
  refine keeps_cut (v := s1_1) ?_ fun hs1_1 => ?_
  · subst s1_1
    apply tsReceive_keeps
    exact hk0
  clear_value s1_1
  refine keeps_ite ?_ ?_
  · apply xPush_keeps
    exact hs1_1
  · apply bump_keeps
    exact hs1_1

theorem fragJoin_keeps {s0 s : State} (hk0 : Keeps K s0 s) (x : Side) (pos stop port seq : Nat) (exp lf : Bool) (data : List Byte) [Free K .counters] [Free K .regs] [Free K .report] [Free K .time] [Free K .xings] [Free K (.line x)] :
    Keeps K s0 (State.fragJoin s x pos stop port seq exp lf data) := by
  unfold State.fragJoin
  extract_lets +onlyGivenNames r_0
  clear_value r_0
  refine keeps_ite ?_ ?_
  · apply setReasm_keeps
    exact hk0
  · extract_lets +onlyGivenNames stamp1
    clear_value stamp1
    extract_lets +onlyGivenNames all_2
    clear_value all_2
    refine keeps_ite ?_ ?_
    · apply fragDiscard_keeps
      apply bumpIf_keeps
      exact hk0
    · refine keeps_ite ?_ ?_
      · apply setReasm_keeps
        exact hk0
      · apply clientDeliver_keeps
        apply setReasm_keeps
        exact hk0

theorem pidDup_keeps {s0 s : State} (hk0 : Keeps K s0 s) (x : Side) (ns : List Nat) [Free K .counters] [Free K .regs] [Free K .report] :
    Keeps K s0 (State.pidDup s x ns) := by
  unfold State.pidDup
  split
  · refine keeps_ite ?_ ?_
    · exact hk0
    · apply lineEvent_keeps
      apply setFlag_keeps
      exact hk0
  · exact hk0

theorem encapOp_keeps {s0 s : State} (hk0 : Keeps K s0 s) (x : Side) (ghec : Hec) [Free K .counters] [Free K .regs] [Free K .report] [Free K .time] [Free K .xings] [Free K (.line x)] :
    Keeps K s0 (State.encapOp s x ghec) := by
  unfold State.encapOp
  extract_lets +onlyGivenNames l_0
  clear_value l_0
  extract_lets +onlyGivenNames pos_1
  clear_value pos_1
  extract_lets +onlyGivenNames dx_2
  clear_value dx_2
  extract_lets +onlyGivenNames head3
  clear_value head3
  extract_lets +onlyGivenNames c_4
  clear_value c_4
  extract_lets +onlyGivenNames hec_5
  clear_value hec_5
  extract_lets +onlyGivenNames h_6
  clear_value h_6
  extract_lets +onlyGivenNames pli_7
  clear_value pli_7
  extract_lets +onlyGivenNames stop8
  clear_value stop8
  refine keeps_ite ?_ ?_
  · exact hk0
  · refine keeps_ite ?_ ?_
    · apply delineation_keeps
      exact hk0
    · refine keeps_ite ?_ ?_
      · apply delineation_keeps
        apply bumpIf_keeps
        exact hk0
      · extract_lets +onlyGivenNames s_9
        refine keeps_cut (v := s_9) ?_ fun hs_9 => ?_
        · subst s_9
          apply modLine_keeps
          apply bumpIf_keeps
          exact hk0
        clear_value s_9
        extract_lets +onlyGivenNames port10
        clear_value port10
        extract_lets +onlyGivenNames idx_11
        clear_value idx_11
        extract_lets +onlyGivenNames lf_12
        clear_value lf_12
        refine keeps_ite ?_ ?_
        · exact hs_9
        · split
          · exact hs_9
          · extract_lets +onlyGivenNames s_13
            refine keeps_cut (v := s_13) ?_ fun hs_13 => ?_
            · subst s_13
              apply bump_keeps
              apply bump_keeps
              apply pidDup_keeps
              exact hs_9
            clear_value s_13
            refine keeps_ite ?_ ?_
            · apply fragDiscard_keeps
              apply bump_keeps
              exact hs_13
            · split
              · apply fragDiscard_keeps
                apply bump_keeps
                exact hs_13
              · apply fragJoin_keeps
                apply bumpIf_keeps
                exact hs_13

theorem msgOp_keeps {s0 s : State} (hk0 : Keeps K s0 s) (x : Side) (pos : Nat) (bytes : List Byte) [Free K .counters] [Free K .free] [Free K .power] [Free K .regs] [Free K .report] [Free K .xings] :
    Keeps K s0 (State.msgOp s x pos bytes) := by
  unfold State.msgOp
  refine keeps_ite ?_ ?_
  · apply bump_keeps
    exact hk0
  · extract_lets +onlyGivenNames s_0
    refine keeps_cut (v := s_0) ?_ fun hs_0 => ?_
    · subst s_0
      refine keeps_ite ?_ ?_
      · apply modPwr_keeps
        exact hk0
      · exact hk0
    clear_value s_0
    refine keeps_ite ?_ ?_
    · exact hs_0
    · extract_lets +onlyGivenNames r_1
      refine keeps_cut (v := r_1.2) ?_ fun hr_1 => ?_
      · subst r_1
        apply coursersSend_keeps
        apply bump_keeps
        exact hs_0
      clear_value r_1
      apply bumpIf_keeps
      exact hr_1

theorem msgNext_keeps {s0 s : State} (hk0 : Keeps K s0 s) (x : Side) [Free K .counters] [Free K .free] [Free K .power] [Free K .regs] [Free K .report] [Free K .xings] [Free K (.line x)] :
    Keeps K s0 (State.msgNext s x) := by
  unfold State.msgNext
  extract_lets +onlyGivenNames l_0
  clear_value l_0
  extract_lets +onlyGivenNames k_1
  clear_value k_1
  refine keeps_ite ?_ ?_
  · exact hk0
  · extract_lets +onlyGivenNames pos_2
    clear_value pos_2
    apply msgOp_keeps
    apply modLine_keeps
    exact hk0

theorem setPm_keeps {s0 s : State} (hk0 : Keeps K s0 s) (x : Side) (b i v : Nat) [Free K (.line x)] :
    Keeps K s0 (State.setPm s x b i v) := by
  unfold State.setPm
  apply modLine_keeps
  exact hk0

theorem sdEval_keeps {s0 s : State} (hk0 : Keeps K s0 s) (x : Side) (d : Nat) [Free K .counters] [Free K .regs] [Free K .report] [Free K (.line x)] :
    Keeps K s0 (State.sdEval s x d) := by
  unfold State.sdEval
  extract_lets +onlyGivenNames i_0
  clear_value i_0
  refine keeps_ite ?_ ?_
  · refine keeps_ite ?_ ?_
    · apply lineEvent_keeps
      apply modLine_keeps
      apply pmFlag_keeps
      apply setFlag_keeps
      exact hk0
    · exact hk0
  · refine keeps_ite ?_ ?_
    · refine keeps_ite ?_ ?_
      · apply modLine_keeps
        exact hk0
      · apply lineEvent_keeps
        apply modLine_keeps
        apply setFlag_keeps
        exact hk0
    · apply modLine_keeps
      exact hk0

theorem uncEval_keeps {s0 s : State} (hk0 : Keeps K s0 s) (x : Side) (d : Nat) [Free K .counters] [Free K .regs] [Free K .report] [Free K (.line x)] :
    Keeps K s0 (State.uncEval s x d) := by
  unfold State.uncEval
  extract_lets +onlyGivenNames i_0
  clear_value i_0
  extract_lets +onlyGivenNames thr_1
  clear_value thr_1
  extract_lets +onlyGivenNames info2
  clear_value info2
  refine keeps_ite ?_ ?_
  · refine keeps_ite ?_ ?_
    · apply lineEvent_keeps
      apply pmFlag_keeps
      apply setFlag_keeps
      exact hk0
    · exact hk0
  · refine keeps_ite ?_ ?_
    · apply lineEvent_keeps
      apply setFlag_keeps
      exact hk0
    · exact hk0

theorem pmLatchOp_keeps {s0 s : State} (hk0 : Keeps K s0 s) (x : Side) [Free K .counters] [Free K .regs] [Free K .report] [Free K (.line x)] :
    Keeps K s0 (State.pmLatchOp s x) := by
  unfold State.pmLatchOp
  extract_lets +onlyGivenNames old_0
  clear_value old_0
  extract_lets +onlyGivenNames seq_1
  clear_value seq_1
  extract_lets +onlyGivenNames b_2
  clear_value b_2
  extract_lets +onlyGivenNames flags3
  clear_value flags3
  extract_lets +onlyGivenNames dc_4
  clear_value dc_4
  extract_lets +onlyGivenNames s1_5
  refine keeps_cut (v := s1_5) ?_ fun hs1_5 => ?_
  · subst s1_5
    refine keeps_foldl _ ?_ ?_
    · exact hk0
    · intro y6 y7 hy8
      apply setPm_keeps
      exact hy8
  clear_value s1_5
  extract_lets +onlyGivenNames al_9
  clear_value al_9
  extract_lets +onlyGivenNames s2_10
  refine keeps_cut (v := s2_10) ?_ fun hs2_10 => ?_
  · subst s2_10
    apply setPm_keeps
    apply setPm_keeps
    exact hs1_5
  clear_value s2_10
  extract_lets +onlyGivenNames s3_11
  refine keeps_cut (v := s3_11) ?_ fun hs3_11 => ?_
  · subst s3_11
    apply lineEvent_keeps
    apply setF_keeps
    exact hs2_10
  clear_value s3_11
  extract_lets +onlyGivenNames s4_12
  refine keeps_cut (v := s4_12) ?_ fun hs4_12 => ?_
  · subst s4_12
    apply modLine_keeps
    exact hs3_11
  clear_value s4_12
  extract_lets +onlyGivenNames s5_13
  refine keeps_cut (v := s5_13) ?_ fun hs5_13 => ?_
  · subst s5_13
    refine keeps_ite ?_ ?_
    · apply uncEval_keeps
      apply sdEval_keeps
      exact hs4_12
    · apply modLine_keeps
      exact hs4_12
  clear_value s5_13
  exact hs5_13

theorem secTaken_keeps {s0 s : State} (h : Keeps K s0 s) (x : Side) [Free K .time] : Keeps K s0 (s.secTaken x) := by
  unfold State.secTaken
  split
  · exact modTm_keeps h _ fun _ => rfl
  · exact modTm_keeps h _ fun _ => rfl

theorem odcInsertOp_keeps {s0 s : State} (hk0 : Keeps K s0 s) (x : Side) (second : Bool) (bytes : List Byte) [Free K .counters] [Free K .regs] [Free K .report] [Free K (.line x)] :
    Keeps K s0 (State.odcInsertOp s x second bytes) := by
  unfold State.odcInsertOp
  extract_lets +onlyGivenNames i_0
  clear_value i_0
  extract_lets +onlyGivenNames q_1
  clear_value q_1
  extract_lets +onlyGivenNames d_2
  clear_value d_2
  extract_lets +onlyGivenNames full3
  clear_value full3
  extract_lets +onlyGivenNames q_4
  clear_value q_4
  extract_lets +onlyGivenNames s1_5
  refine keeps_cut (v := s1_5) ?_ fun hs1_5 => ?_
  · subst s1_5
    apply modLine_keeps
    exact hk0
  clear_value s1_5
  refine keeps_ite ?_ ?_
  · apply lineEvent_keeps
    apply bump_keeps
    apply setFlag_keeps
    exact hs1_5
  · exact hs1_5

theorem odcCfgWrite_keeps {s0 s : State} (hk0 : Keeps K s0 s) (x : Side) (q : Req) (v : Word) [Free K .counters] [Free K .regs] [Free K .report] :
    Keeps K s0 (State.odcCfgWrite s x q v) := by
  unfold State.odcCfgWrite
  extract_lets +onlyGivenNames i_0
  clear_value i_0
  extract_lets +onlyGivenNames r_1
  clear_value r_1
  extract_lets +onlyGivenNames en_2
  clear_value en_2
  extract_lets +onlyGivenNames was_3
  clear_value was_3
  refine keeps_ite ?_ ?_
  · apply resConflict_keeps
    exact hk0
  · extract_lets +onlyGivenNames s1_4
    refine keeps_cut (v := s1_4) ?_ fun hs1_4 => ?_
    · subst s1_4
      apply setF_keeps
      apply setF_keeps
      exact hk0
    clear_value s1_4
    refine keeps_ite ?_ ?_
    · apply setFlag_keeps
      apply resTake_keeps
      exact hs1_4
    · refine keeps_ite ?_ ?_
      · apply setFlag_keeps
        apply resRelease_keeps
        exact hs1_4
      · exact hs1_4

theorem execDownstreamFrame_keeps (x : Side) (f : DsFrame) (s : State) :
    Answers [.capture, .circuits, .counters, .free, .memories, .paddock, .pairing, .regs, .report, .time, .xings, .line x] s (execDownstreamFrame x f s) := by
  refine answers_of fun K n => ⟨_, rfl, ?_⟩
  have i0 : Free K .capture := n _ (by simp)
  have i1 : Free K .circuits := n _ (by simp)
  have i2 : Free K .counters := n _ (by simp)
  have i3 : Free K .free := n _ (by simp)
  have i4 : Free K .memories := n _ (by simp)
  have i5 : Free K .paddock := n _ (by simp)
  have i6 : Free K .pairing := n _ (by simp)
  have i7 : Free K .regs := n _ (by simp)
  have i8 : Free K .report := n _ (by simp)
  have i9 : Free K .time := n _ (by simp)
  have i10 : Free K .xings := n _ (by simp)
  have i11 : Free K (.line x) := n _ (by simp)
  have hk0 := Keeps.refl (K := K) s
  refine keeps_ite ?_ ?_
  · exact hk0
  · refine keeps_ite ?_ ?_
    · apply frameMissing_keeps
      exact hk0
    · apply frameJudge_keeps
      exact hk0

theorem execPsyncMatch_keeps (x : Side) (pos : Nat) (f : DsFrame) (s : State) :
    Answers [.capture, .circuits, .counters, .free, .memories, .paddock, .pairing, .power, .regs, .report, .time, .xings, .line x] s (execPsyncMatch x pos f s) := by
  refine answers_of fun K n => ⟨_, rfl, ?_⟩
  have i0 : Free K .capture := n _ (by simp)
  have i1 : Free K .circuits := n _ (by simp)
  have i2 : Free K .counters := n _ (by simp)
  have i3 : Free K .free := n _ (by simp)
  have i4 : Free K .memories := n _ (by simp)
  have i5 : Free K .paddock := n _ (by simp)
  have i6 : Free K .pairing := n _ (by simp)
  have i7 : Free K .power := n _ (by simp)
  have i8 : Free K .regs := n _ (by simp)
  have i9 : Free K .report := n _ (by simp)
  have i10 : Free K .time := n _ (by simp)
  have i11 : Free K .xings := n _ (by simp)
  have i12 : Free K (.line x) := n _ (by simp)
  have hk0 := Keeps.refl (K := K) s
  apply psyncOp_keeps
  exact hk0

theorem execEncapFrameReceive_keeps (x : Side) (ghec : Hec) (s : State) :
    Answers [.counters, .regs, .report, .time, .xings, .line x] s (execEncapFrameReceive x ghec s) := by
  refine answers_of fun K n => ⟨_, rfl, ?_⟩
  have i0 : Free K .counters := n _ (by simp)
  have i1 : Free K .regs := n _ (by simp)
  have i2 : Free K .report := n _ (by simp)
  have i3 : Free K .time := n _ (by simp)
  have i4 : Free K .xings := n _ (by simp)
  have i5 : Free K (.line x) := n _ (by simp)
  have hk0 := Keeps.refl (K := K) s
  refine keeps_ite ?_ ?_
  · apply encapOp_keeps
    exact hk0
  · exact hk0

theorem execMgmtMessageReceive_keeps (x : Side) (s : State) :
    Answers [.counters, .free, .power, .regs, .report, .xings, .line x] s (execMgmtMessageReceive x s) := by
  refine answers_of fun K n => ⟨_, rfl, ?_⟩
  have i0 : Free K .counters := n _ (by simp)
  have i1 : Free K .free := n _ (by simp)
  have i2 : Free K .power := n _ (by simp)
  have i3 : Free K .regs := n _ (by simp)
  have i4 : Free K .report := n _ (by simp)
  have i5 : Free K .xings := n _ (by simp)
  have i6 : Free K (.line x) := n _ (by simp)
  have hk0 := Keeps.refl (K := K) s
  refine keeps_ite ?_ ?_
  · apply msgNext_keeps
    exact hk0
  · exact hk0

theorem execLosDeclare_keeps (x : Side) (s : State) :
    Answers [.capture, .circuits, .counters, .free, .memories, .paddock, .pairing, .regs, .report, .time, .xings, .line x] s (execLosDeclare x s) := by
  refine answers_of fun K n => ⟨_, rfl, ?_⟩
  have i0 : Free K .capture := n _ (by simp)
  have i1 : Free K .circuits := n _ (by simp)
  have i2 : Free K .counters := n _ (by simp)
  have i3 : Free K .free := n _ (by simp)
  have i4 : Free K .memories := n _ (by simp)
  have i5 : Free K .paddock := n _ (by simp)
  have i6 : Free K .pairing := n _ (by simp)
  have i7 : Free K .regs := n _ (by simp)
  have i8 : Free K .report := n _ (by simp)
  have i9 : Free K .time := n _ (by simp)
  have i10 : Free K .xings := n _ (by simp)
  have i11 : Free K (.line x) := n _ (by simp)
  have hk0 := Keeps.refl (K := K) s
  refine keeps_ite ?_ ?_
  · apply losDeclareOp_keeps
    exact hk0
  · exact hk0

theorem execLosClear_keeps (x : Side) (s : State) :
    Answers [.counters, .pairing, .regs, .report] s (execLosClear x s) := by
  refine answers_of fun K n => ⟨_, rfl, ?_⟩
  have i0 : Free K .counters := n _ (by simp)
  have i1 : Free K .pairing := n _ (by simp)
  have i2 : Free K .regs := n _ (by simp)
  have i3 : Free K .report := n _ (by simp)
  have hk0 := Keeps.refl (K := K) s
  refine keeps_ite ?_ ?_
  · apply prtEval_keeps
    apply lineEvent_keeps
    apply setFlag_keeps
    exact hk0
  · exact hk0

theorem execRangingHoldExpire_keeps (x : Side) (s : State) :
    Answers [.counters, .pairing, .regs, .report, .line x] s (execRangingHoldExpire x s) := by
  refine answers_of fun K n => ⟨_, rfl, ?_⟩
  have i0 : Free K .counters := n _ (by simp)
  have i1 : Free K .pairing := n _ (by simp)
  have i2 : Free K .regs := n _ (by simp)
  have i3 : Free K .report := n _ (by simp)
  have i4 : Free K (.line x) := n _ (by simp)
  have hk0 := Keeps.refl (K := K) s
  refine keeps_ite ?_ ?_
  · apply prtEval_keeps
    apply holdExpire_keeps
    exact hk0
  · exact hk0

theorem execPmLatch_keeps (x : Side) (s : State) :
    Answers [.counters, .regs, .report, .time, .line x] s (execPmLatch x s) := by
  refine answers_of fun K n => ⟨_, rfl, ?_⟩
  have i0 : Free K .counters := n _ (by simp)
  have i1 : Free K .regs := n _ (by simp)
  have i2 : Free K .report := n _ (by simp)
  have i3 : Free K .time := n _ (by simp)
  have i4 : Free K (.line x) := n _ (by simp)
  have hk0 := Keeps.refl (K := K) s
  refine keeps_ite ?_ ?_
  · apply pmLatchOp_keeps
    apply secTaken_keeps
    exact hk0
  · exact hk0

theorem execOdcInsertMultiframe_keeps (x : Side) (second : Bool) (bytes : List Byte) (s : State) :
    Answers [.counters, .regs, .report, .line x] s (execOdcInsertMultiframe x second bytes s) := by
  refine answers_of fun K n => ⟨_, rfl, ?_⟩
  have i0 : Free K .counters := n _ (by simp)
  have i1 : Free K .regs := n _ (by simp)
  have i2 : Free K .report := n _ (by simp)
  have i3 : Free K (.line x) := n _ (by simp)
  have hk0 := Keeps.refl (K := K) s
  refine keeps_ite ?_ ?_
  · apply odcInsertOp_keeps
    exact hk0
  · exact hk0

theorem execOdc2InputEnable_keeps (q : Req) (x : Side) (v : Word) (s : State) :
    Answers [.counters, .regs, .report] s (execOdc2InputEnable q x v s) := by
  refine answers_of fun K n => ⟨_, rfl, ?_⟩
  have i0 : Free K .counters := n _ (by simp)
  have i1 : Free K .regs := n _ (by simp)
  have i2 : Free K .report := n _ (by simp)
  have hk0 := Keeps.refl (K := K) s
  apply guardW_keeps
  · exact hk0
  · intro y0 hy1
    apply odcCfgWrite_keeps
    exact hy1

end Sys2Proof.Machine
end

