-- ==== Sys2Proof/Laws/KeepsBursts.lean ====
section
/-! SUPPORT. What the operations of Machine/Bursts.lean keep. -/

-- One proof at a time: in the package as one text, proofs that wait for each other would each hold a thread.
set_option Elab.async false

namespace Sys2Proof.Machine

variable {K : Comp → Prop}

theorem frameTake_keeps {s0 s : State} (hk0 : Keeps K s0 s) (x : Side) (fr : Frame) [Free K .memories] [Free K .paddock] [Free K .regs] :
    Keeps K s0 (State.frameTake s x fr).2 := by
  unfold State.frameTake
  refine keeps_pair ?_
  apply padDrop_keeps
  exact hk0

theorem seqTake_keeps {s0 s : State} (hk0 : Keeps K s0 s) (p : Partial) [Free K .pairing] :
    Keeps K s0 (State.seqTake s p).2 := by
  unfold State.seqTake
  refine keeps_ite2 ?_ ?_
  · refine keeps_pair ?_
    exact hk0
  · extract_lets +onlyGivenNames port0
    clear_value port0
    refine keeps_ite2 ?_ ?_
    · extract_lets +onlyGivenNames c_1
      clear_value c_1
      extract_lets +onlyGivenNames v_2
      clear_value v_2
      refine keeps_pair ?_
      apply modPrt_keeps
      exact hk0
    · refine keeps_pair ?_
      exact hk0

theorem placeFrame_keeps {s0 s : State} (h : Keeps K s0 s) (x : Side) (b : Burst) (key word room : Nat) (p : Partial)
    (f : Fill) [Free K .counters] [Free K .free] [Free K (.line x)] : Keeps K s0 (s.placeFrame x b key word room p f).2.2 := by
  unfold State.placeFrame
  extract_lets q line es r fr rest
  split
  extract_lets
  split
  · exact bump_keeps (fill_keeps (setPartial_keeps h ..) _) ..
  · exact setPartial_keeps h ..

theorem nextFrame_keeps {s0 s : State} (hk0 : Keeps K s0 s) (x : Side) (b : Burst) (key g word : Nat) [Free K .counters] [Free K .memories] [Free K .paddock] [Free K .regs] [Free K .report] [Free K .sched] [Free K (.line x)] :
    Keeps K s0 (State.nextFrame s x b key g word).2 := by
  unfold State.nextFrame
  split
  · refine keeps_pair ?_
    exact hk0
  · split
    · refine keeps_pair ?_
      apply setBuffered_keeps
      exact hk0
    · refine keeps_ite2 ?_ ?_
      · refine keeps_pair ?_
        exact hk0
      · extract_lets +onlyGivenNames line0
        clear_value line0
        extract_lets +onlyGivenNames r_1
        refine keeps_cut (v := r_1.2) ?_ fun hr_1 => ?_
        · subst r_1
          apply select_keeps
          exact hk0
        clear_value r_1
        split
        · refine keeps_pair ?_
          exact hr_1
        · extract_lets +onlyGivenNames t_2
          refine keeps_cut (v := t_2.2) ?_ fun ht_2 => ?_
          · subst t_2
            apply frameTake_keeps
            exact hr_1
          clear_value t_2
          refine keeps_pair ?_
          exact ht_2

theorem fillLoop_keeps {s0 s : State} (h : Keeps K s0 s) (x : Side) (b : Burst) (key g word0 size limit n : Nat) (f : Fill) [Free K .counters] [Free K .free] [Free K .memories] [Free K .paddock] [Free K .pairing] [Free K .regs] [Free K .report] [Free K .sched] [Free K (.line x)] :
    Keeps K s0 (s.fillLoop x b key g word0 size limit n f).2 := by
  induction n generalizing s limit f with
  | zero => exact h
  | succ n ih =>
    unfold State.fillLoop
    extract_lets room word s1 r
    have h1 : Keeps K s0 s1 := nodeHeads_keeps h g
    have hr : Keeps K s0 r.2 := nextFrame_keeps h1 ..
    clear_value r s1
    split
    · exact hr
    · rename_i p fresh _
      extract_lets need tag may m y f1 r2 fr p2 f2 z
      have hp : Keeps K s0 (r.2.padRead p.frame false).2 := padRead_keeps hr ..
      have hy : Keeps K s0 y.2 := fill_keeps hp m
      have h2 : Keeps K s0 r2 := keeps_ite hp hr
      clear_value r2 y
      have h3 : Keeps K s0 p2.2 := seqTake_keeps h2 _
      clear_value p2
      have hz : Keeps K s0 z.2.2 := placeFrame_keeps h3 ..
      clear_value z
      exact keeps_ite2 h1 (keeps_ite2 h1 (keeps_ite2 (keeps_ite2 (ih hy ..) hy) (keeps_ite2 (ih hz ..) hz)))

theorem fillFrames_keeps {s0 s : State} (h : Keeps K s0 s) (x : Side) (b : Burst) (key word size : Nat) [Free K .counters] [Free K .free] [Free K .memories] [Free K .paddock] [Free K .pairing] [Free K .regs] [Free K .report] [Free K .sched] [Free K (.line x)] :
    Keeps K s0 (s.fillFrames x b key word size).2 := by
  unfold State.fillFrames
  extract_lets limit r n z
  have hr : Keeps K s0 r.2 := by
    refine keeps_ite2 h ?_
    split
    · exact h
    · exact fillLoop_keeps h ..
  exact fill_keeps hr n

theorem fillCircuits_keeps {s0 s : State} (hk0 : Keeps K s0 s) (x : Side) (b : Burst) (a : Alloc) [Free K .counters] :
    Keeps K s0 (State.fillCircuits s x b a).2 := by
  unfold State.fillCircuits
  extract_lets +onlyGivenNames c_0
  clear_value c_0
  refine keeps_ite2 ?_ ?_
  · refine keeps_pair ?_
    exact hk0
  · extract_lets +onlyGivenNames n_1
    clear_value n_1
    extract_lets +onlyGivenNames slots2
    clear_value slots2
    extract_lets +onlyGivenNames bytes3
    clear_value bytes3
    refine keeps_pair ?_
    apply bump_keeps
    exact hk0

theorem takeMessage_keeps {s0 s : State} (hk0 : Keeps K s0 s) (x : Side) (b : Burst) [Free K .regs] [Free K (.line x)] :
    Keeps K s0 (State.takeMessage s x b).2 := by
  unfold State.takeMessage
  extract_lets +onlyGivenNames i_0
  clear_value i_0
  split
  · refine keeps_pair ?_
    apply modLine_keeps
    exact hk0
  · split
    · refine keeps_pair ?_
      apply setF_keeps
      apply modLine_keeps
      exact hk0
    · refine keeps_pair ?_
      exact hk0

theorem fillAlloc_keeps {s0 s : State} (h : Keeps K s0 s) (x : Side) (b : Burst) (word : Nat) (a : Alloc) (bsr : List Byte) [Free K .counters] [Free K .free] [Free K .memories] [Free K .paddock] [Free K .pairing] [Free K .regs] [Free K .report] [Free K .sched] [Free K (.line x)] :
    Keeps K s0 (s.fillAlloc x b word a bsr).2.2 := by
  unfold State.fillAlloc
  extract_lets
  split
  · exact fillCircuits_keeps h ..
  · exact fillFrames_keeps h ..

theorem fillAllocs_keeps {s0 s : State} (h : Keeps K s0 s) (x : Side) (b : Burst) (w : Nat)
    (as : List (Alloc × List Byte)) [Free K .counters] [Free K .free] [Free K .memories] [Free K .paddock] [Free K .pairing] [Free K .regs] [Free K .report] [Free K .sched] [Free K (.line x)] : Keeps K s0 (s.fillAllocs x b w as).2.2 := by
  induction as generalizing s w with
  | nil => exact h
  | cons a as ih => exact ih (fillAlloc_keeps h ..) _

theorem assemble_keeps {s0 s : State} (h : Keeps K s0 s) (x : Side) (b : Burst) [Free K .counters] [Free K .free] [Free K .memories] [Free K .paddock] [Free K .pairing] [Free K .regs] [Free K .report] [Free K .sched] [Free K (.line x)] : Keeps K s0 (s.assemble x b).2 :=
  fillAllocs_keeps (keeps_ite2 (takeMessage_keeps h ..) h) ..

theorem markBad_keeps {s0 s : State} (hk0 : Keeps K s0 s) (q i : Nat) [Free K .regs] [Free K .sched] :
    Keeps K s0 (State.markBad s q i) := by
  unfold State.markBad
  apply setQue_keeps
  exact hk0

theorem asmFirst_keeps {s0 s : State} (hk0 : Keeps K s0 s) (x : Side) [Free K .counters] [Free K .free] [Free K .memories] [Free K .paddock] [Free K .pairing] [Free K .regs] [Free K .report] [Free K .sched] [Free K (.line x)] :
    Keeps K s0 (State.asmFirst s x) := by
  unfold State.asmFirst
  split
  · exact hk0
  · extract_lets +onlyGivenNames r_0
    refine keeps_cut (v := r_0.2) ?_ fun hr_0 => ?_
    · subst r_0
      apply assemble_keeps
      exact hk0
    clear_value r_0
    apply modLine_keeps
    exact hr_0

theorem burstCount_keeps {s0 s : State} (hk0 : Keeps K s0 s) (x : Side) (b : Burst) [Free K .counters] :
    Keeps K s0 (State.burstCount s x b) := by
  unfold State.burstCount
  extract_lets +onlyGivenNames s1_0
  refine keeps_cut (v := s1_0) ?_ fun hs1_0 => ?_
  · subst s1_0
    apply bump_keeps
    apply bump_keeps
    apply bump_keeps
    apply bump_keeps
    apply bump_keeps
    exact hk0
  clear_value s1_0
  apply bump_keeps
  apply bumpIf_keeps
  exact hs1_0

theorem resumeMark_keeps {s0 s : State} (hk0 : Keeps K s0 s) (x : Side) (b : Burst) [Free K .pairing] [Free K .regs] :
    Keeps K s0 (State.resumeMark s x b) := by
  unfold State.resumeMark
  refine keeps_ite ?_ ?_
  · exact hk0
  · apply setF_keeps
    apply modPrt_keeps
    exact hk0

theorem burstSend_keeps {s0 s : State} (hk0 : Keeps K s0 s) (x : Side) (b : Burst) [Free K .counters] [Free K .pairing] [Free K .regs] [Free K .report] [Free K (.line x)] :
    Keeps K s0 (State.burstSend s x b) := by
  unfold State.burstSend
  extract_lets +onlyGivenNames st_0
  clear_value st_0
  extract_lets +onlyGivenNames s_1
  refine keeps_cut (v := s_1) ?_ fun hs_1 => ?_
  · subst s_1
    apply peqUse_keeps
    exact hk0
  clear_value s_1
  extract_lets +onlyGivenNames s1_2
  refine keeps_cut (v := s1_2) ?_ fun hs1_2 => ?_
  · subst s1_2
    apply burstCount_keeps
    apply modLine_keeps
    apply benSet_keeps
    exact hs_1
  clear_value s1_2
  extract_lets +onlyGivenNames dg_3
  clear_value dg_3
  extract_lets +onlyGivenNames first4
  clear_value first4
  extract_lets +onlyGivenNames s2_5
  refine keeps_cut (v := s2_5) ?_ fun hs2_5 => ?_
  · subst s2_5
    apply modLine_keeps
    apply bumpIf_keeps
    exact hs1_2
  clear_value s2_5
  apply resumeMark_keeps
  apply raiseIf_keeps
  exact hs2_5

theorem sendTick_keeps {s0 s : State} (hk0 : Keeps K s0 s) (x : Side) [Free K .capture] [Free K .counters] [Free K .paddock] [Free K .pairing] [Free K .regs] [Free K .report] [Free K .time] [Free K (.line x)] :
    Keeps K s0 (State.sendTick s x) := by
  unfold State.sendTick
  split
  · exact hk0
  · refine keeps_ite ?_ ?_
    · apply burstDone_keeps
      exact hk0
    · refine keeps_ite ?_ ?_
      · apply rogueLatch_keeps
        exact hk0
      · exact hk0

theorem burstRow_keeps {s0 s : State} (hk0 : Keeps K s0 s) (x : Side) (b : Burst) [Free K .counters] [Free K .pairing] [Free K .regs] [Free K .report] [Free K (.line x)] :
    Keeps K s0 (State.burstRow s x b) := by
  unfold State.burstRow
  refine keeps_ite ?_ ?_
  · exact hk0
  · refine keeps_ite ?_ ?_
    · apply bump_keeps
      exact hk0
    · refine keeps_ite ?_ ?_
      · apply lineEvent_keeps
        apply bump_keeps
        exact hk0
      · apply burstSend_keeps
        exact hk0

theorem transmitOp_keeps {s0 s : State} (hk0 : Keeps K s0 s) (x : Side) [Free K .capture] [Free K .counters] [Free K .free] [Free K .memories] [Free K .paddock] [Free K .pairing] [Free K .regs] [Free K .report] [Free K .sched] [Free K .time] [Free K (.line x)] :
    Keeps K s0 (State.transmitOp s x) := by
  unfold State.transmitOp
  extract_lets +onlyGivenNames s_0
  refine keeps_cut (v := s_0) ?_ fun hs_0 => ?_
  · subst s_0
    apply sendTick_keeps
    exact hk0
  clear_value s_0
  extract_lets +onlyGivenNames stray1
  subst stray1
  split
  · dsimp only
    refine keeps_ite ?_ ?_
    · exact hs_0
    · refine keeps_ite ?_ ?_
      · apply bump_keeps
        exact hs_0
      · apply rogueLatch_keeps
        exact hs_0
  · refine keeps_ite ?_ ?_
    · dsimp only
      refine keeps_ite ?_ ?_
      · exact hs_0
      · refine keeps_ite ?_ ?_
        · apply bump_keeps
          exact hs_0
        · apply rogueLatch_keeps
          exact hs_0
    · refine keeps_ite ?_ ?_
      · exact hs_0
      · extract_lets +onlyGivenNames s1_2
        refine keeps_cut (v := s1_2) ?_ fun hs1_2 => ?_
        · subst s1_2
          refine keeps_ite ?_ ?_
          · exact hs_0
          · apply asmFirst_keeps
            exact hs_0
        clear_value s1_2
        split
        · exact hs1_2
        · apply faultSettle_keeps
          apply burstRow_keeps
          apply modLine_keeps
          exact hs1_2

theorem unlockWrite_keeps {s0 s : State} (hk0 : Keeps K s0 s) (x : Side) (v : Word) [Free K .regs] :
    Keeps K s0 (State.unlockWrite s x v) := by
  unfold State.unlockWrite
  apply setF_keeps
  exact hk0

theorem rogueClearOp_keeps {s0 s : State} (hk0 : Keeps K s0 s) (x : Side) (v : Word) [Free K .counters] [Free K .pairing] [Free K .regs] [Free K .report] :
    Keeps K s0 (State.rogueClearOp s x v) := by
  unfold State.rogueClearOp
  refine keeps_ite ?_ ?_
  · exact hk0
  · extract_lets +onlyGivenNames was_0
    clear_value was_0
    extract_lets +onlyGivenNames s1_1
    refine keeps_cut (v := s1_1) ?_ fun hs1_1 => ?_
    · subst s1_1
      apply setF_keeps
      apply setFlag_keeps
      exact hk0
    clear_value s1_1
    apply prtEval_keeps
    refine keeps_ite ?_ ?_
    · apply lineEvent_keeps
      exact hs1_1
    · exact hs1_1

theorem msgPush_keeps {s0 s : State} (hk0 : Keeps K s0 s) (x : Side) (v : Word) [Free K .regs] [Free K (.line x)] :
    Keeps K s0 (State.msgPush s x v) := by
  unfold State.msgPush
  extract_lets +onlyGivenNames i_0
  clear_value i_0
  refine keeps_ite ?_ ?_
  · exact hk0
  · refine keeps_ite ?_ ?_
    · apply setFlag_keeps
      exact hk0
    · extract_lets +onlyGivenNames m_1
      clear_value m_1
      apply setF_keeps
      apply modLine_keeps
      exact hk0

theorem eqdWriteOp_keeps {s0 s : State} (hk0 : Keeps K s0 s) (x : Side) (v : Word) [Free K .regs] :
    Keeps K s0 (State.eqdWriteOp s x v) := by
  unfold State.eqdWriteOp
  apply setFlag_keeps
  apply setF_keeps
  exact hk0

theorem actRefuse_keeps {s0 s : State} (hk0 : Keeps K s0 s) (x : Side) (cmd : Nat) [Free K .counters] [Free K .regs] [Free K .report] :
    Keeps K s0 (State.actRefuse s x cmd) := by
  unfold State.actRefuse
  apply lineEvent_keeps
  exact hk0

theorem actAssign_keeps {s0 s : State} (hk0 : Keeps K s0 s) (x : Side) [Free K .counters] [Free K .regs] [Free K .report] [Free K (.line x)] :
    Keeps K s0 (State.actAssign s x) := by
  unfold State.actAssign
  extract_lets +onlyGivenNames i_0
  clear_value i_0
  extract_lets +onlyGivenNames tid_1
  clear_value tid_1
  refine keeps_ite ?_ ?_
  · apply actRefuse_keeps
    exact hk0
  · extract_lets +onlyGivenNames s1_2
    refine keeps_cut (v := s1_2) ?_ fun hs1_2 => ?_
    · subst s1_2
      apply setFlag_keeps
      apply setF_keeps
      exact hk0
    clear_value s1_2
    apply actGo_keeps
    apply modLine_keeps
    apply eqdZero_keeps
    exact hs1_2

theorem to1Expire_keeps {s0 s : State} (hk0 : Keeps K s0 s) (x : Side) [Free K .counters] [Free K .pairing] [Free K .regs] [Free K .report] [Free K (.line x)] :
    Keeps K s0 (State.to1Expire s x) := by
  unfold State.to1Expire
  refine keeps_ite ?_ ?_
  · apply prtEval_keeps
    apply lineEvent_keeps
    apply actGo_keeps
    apply deactivate_keeps
    exact hk0
  · exact hk0

theorem actRanged_keeps {s0 s : State} (hk0 : Keeps K s0 s) (x : Side) [Free K .counters] [Free K .pairing] [Free K .regs] [Free K .report] [Free K (.line x)] :
    Keeps K s0 (State.actRanged s x) := by
  unfold State.actRanged
  extract_lets +onlyGivenNames s_0
  refine keeps_cut (v := s_0) ?_ fun hs_0 => ?_
  · subst s_0
    refine keeps_ite ?_ ?_
    · apply to1Expire_keeps
      exact hk0
    · exact hk0
  clear_value s_0
  refine keeps_ite ?_ ?_
  · apply actRefuse_keeps
    exact hs_0
  · apply actGo_keeps
    apply modLine_keeps
    exact hs_0

theorem actDeactivate_keeps {s0 s : State} (hk0 : Keeps K s0 s) (x : Side) [Free K .counters] [Free K .regs] [Free K .report] [Free K (.line x)] :
    Keeps K s0 (State.actDeactivate s x) := by
  unfold State.actDeactivate
  refine keeps_ite ?_ ?_
  · apply actRefuse_keeps
    exact hk0
  · apply actGo_keeps
    apply deactivate_keeps
    exact hk0

theorem actDisable_keeps {s0 s : State} (hk0 : Keeps K s0 s) (x : Side) [Free K .capture] [Free K .counters] [Free K .paddock] [Free K .regs] [Free K .report] [Free K .time] [Free K (.line x)] :
    Keeps K s0 (State.actDisable s x) := by
  unfold State.actDisable
  split
  · apply actRefuse_keeps
    exact hk0
  · apply setF_keeps
    apply storeEmpty_keeps
    exact hk0
  · apply actGo_keeps
    apply stopBurst_keeps
    apply modLine_keeps
    apply storeEmpty_keeps
    exact hk0

theorem actEnable_keeps {s0 s : State} (hk0 : Keeps K s0 s) (x : Side) [Free K .counters] [Free K .regs] [Free K .report] :
    Keeps K s0 (State.actEnable s x) := by
  unfold State.actEnable
  split
  · apply actGo_keeps
    exact hk0
  · refine keeps_ite ?_ ?_
    · apply setF_keeps
      exact hk0
    · apply actRefuse_keeps
      exact hk0
  · apply actRefuse_keeps
    exact hk0

theorem actCmd_keeps {s0 s : State} (hk0 : Keeps K s0 s) (x : Side) (cmd : Nat) [Free K .capture] [Free K .counters] [Free K .paddock] [Free K .pairing] [Free K .regs] [Free K .report] [Free K .time] [Free K (.line x)] :
    Keeps K s0 (State.actCmd s x cmd) := by
  unfold State.actCmd
  apply prtEval_keeps
  split
  · apply actAssign_keeps
    exact hk0
  · apply actRanged_keeps
    exact hk0
  · apply actDeactivate_keeps
    exact hk0
  · apply actDisable_keeps
    exact hk0
  · apply actEnable_keeps
    exact hk0
  · apply actRefuse_keeps
    exact hk0

theorem actWrite_keeps {s0 s : State} (hk0 : Keeps K s0 s) (q : Req) (x : Side) (cmd : Nat) [Free K .capture] [Free K .counters] [Free K .paddock] [Free K .pairing] [Free K .regs] [Free K .report] [Free K .time] [Free K (.line x)] :
    Keeps K s0 (State.actWrite s q x cmd) := by
  unfold State.actWrite
  apply guardW_keeps
  · exact hk0
  · intro y0 hy1
    apply msgOwnerWrite_keeps
    · exact hy1
    · intro y2 hy3
      apply actCmd_keeps
      exact hy3

theorem execBwmapEntryReceive_keeps (x : Side) (ghec : Hec) (delay : Nat) (s : State) :
    Answers [.capture, .counters, .free, .paddock, .regs, .report, .xings, .line x] s (execBwmapEntryReceive x ghec delay s) := by
  refine answers_of fun K n => ⟨_, rfl, ?_⟩
  have i0 : Free K .capture := n _ (by simp)
  have i1 : Free K .counters := n _ (by simp)
  have i2 : Free K .free := n _ (by simp)
  have i3 : Free K .paddock := n _ (by simp)
  have i4 : Free K .regs := n _ (by simp)
  have i5 : Free K .report := n _ (by simp)
  have i6 : Free K .xings := n _ (by simp)
  have i7 : Free K (.line x) := n _ (by simp)
  have hk0 := Keeps.refl (K := K) s
  refine keeps_ite ?_ ?_
  · extract_lets +onlyGivenNames pos_0
    clear_value pos_0
    extract_lets +onlyGivenNames bytes1
    clear_value bytes1
    extract_lets +onlyGivenNames marked2
    clear_value marked2
    extract_lets +onlyGivenNames s1_3
    refine keeps_cut (v := s1_3) ?_ fun hs1_3 => ?_
    · subst s1_3
      apply entryOp_keeps
      apply modLine_keeps
      exact hk0
    clear_value s1_3
    refine keeps_ite ?_ ?_
    · apply mapCopy_keeps
      apply mapEnd_keeps
      exact hs1_3
    · exact hs1_3
  · exact hk0

theorem execBurstAssemblyStart_keeps (x : Side) (bad : List (Fin 6272 × Nat)) (s : State) :
    Answers [.counters, .free, .memories, .paddock, .pairing, .regs, .report, .sched, .line x] s (execBurstAssemblyStart x bad s) := by
  refine answers_of fun K n => ⟨_, rfl, ?_⟩
  have i0 : Free K .counters := n _ (by simp)
  have i1 : Free K .free := n _ (by simp)
  have i2 : Free K .memories := n _ (by simp)
  have i3 : Free K .paddock := n _ (by simp)
  have i4 : Free K .pairing := n _ (by simp)
  have i5 : Free K .regs := n _ (by simp)
  have i6 : Free K .report := n _ (by simp)
  have i7 : Free K .sched := n _ (by simp)
  have i8 : Free K (.line x) := n _ (by simp)
  have hk0 := Keeps.refl (K := K) s
  apply asmFirst_keeps
  refine keeps_foldl _ ?_ ?_
  · exact hk0
  · intro y0 y1 hy2
    apply markBad_keeps
    exact hy2

theorem execBurstTransmit_keeps (x : Side) (s : State) :
    Answers [.capture, .counters, .free, .memories, .paddock, .pairing, .regs, .report, .sched, .time, .line x] s (execBurstTransmit x s) := by
  refine answers_of fun K n => ⟨_, rfl, ?_⟩
  have i0 : Free K .capture := n _ (by simp)
  have i1 : Free K .counters := n _ (by simp)
  have i2 : Free K .free := n _ (by simp)
  have i3 : Free K .memories := n _ (by simp)
  have i4 : Free K .paddock := n _ (by simp)
  have i5 : Free K .pairing := n _ (by simp)
  have i6 : Free K .regs := n _ (by simp)
  have i7 : Free K .report := n _ (by simp)
  have i8 : Free K .sched := n _ (by simp)
  have i9 : Free K .time := n _ (by simp)
  have i10 : Free K (.line x) := n _ (by simp)
  have hk0 := Keeps.refl (K := K) s
  apply transmitOp_keeps
  exact hk0

theorem execBridleUnlockStage_keeps (q : Req) (x : Side) (v : Word) (s : State) :
    Answers [.counters, .regs, .report] s (execBridleUnlockStage q x v s) := by
  refine answers_of fun K n => ⟨_, rfl, ?_⟩
  have i0 : Free K .counters := n _ (by simp)
  have i1 : Free K .regs := n _ (by simp)
  have i2 : Free K .report := n _ (by simp)
  have hk0 := Keeps.refl (K := K) s
  apply guardHostW_keeps
  · exact hk0
  · intro y0 hy1
    apply unlockWrite_keeps
    exact hy1

theorem execBridleUnlockTimeout_keeps (x : Side) (s : State) :
    Answers [.regs] s (execBridleUnlockTimeout x s) := by
  refine answers_of fun K n => ⟨_, rfl, ?_⟩
  have i0 : Free K .regs := n _ (by simp)
  have hk0 := Keeps.refl (K := K) s
  apply setF_keeps
  exact hk0

theorem execRogueClear_keeps (q : Req) (x : Side) (v : Word) (s : State) :
    Answers [.counters, .pairing, .regs, .report] s (execRogueClear q x v s) := by
  refine answers_of fun K n => ⟨_, rfl, ?_⟩
  have i0 : Free K .counters := n _ (by simp)
  have i1 : Free K .pairing := n _ (by simp)
  have i2 : Free K .regs := n _ (by simp)
  have i3 : Free K .report := n _ (by simp)
  have hk0 := Keeps.refl (K := K) s
  apply guardHostW_keeps
  · exact hk0
  · intro y0 hy1
    apply rogueClearOp_keeps
    exact hy1

theorem execUpstreamMessagePush_keeps (q : Req) (x : Side) (v : Word) (s : State) :
    Answers [.counters, .regs, .report, .line x] s (execUpstreamMessagePush q x v s) := by
  refine answers_of fun K n => ⟨_, rfl, ?_⟩
  have i0 : Free K .counters := n _ (by simp)
  have i1 : Free K .regs := n _ (by simp)
  have i2 : Free K .report := n _ (by simp)
  have i3 : Free K (.line x) := n _ (by simp)
  have hk0 := Keeps.refl (K := K) s
  apply guardW_keeps
  · exact hk0
  · intro y0 hy1
    apply msgOwnerWrite_keeps
    · exact hy1
    · intro y2 hy3
      apply msgPush_keeps
      exact hy3

theorem execEqdWrite_keeps (q : Req) (x : Side) (v : Word) (s : State) :
    Answers [.counters, .regs, .report] s (execEqdWrite q x v s) := by
  refine answers_of fun K n => ⟨_, rfl, ?_⟩
  have i0 : Free K .counters := n _ (by simp)
  have i1 : Free K .regs := n _ (by simp)
  have i2 : Free K .report := n _ (by simp)
  have hk0 := Keeps.refl (K := K) s
  apply guardW_keeps
  · exact hk0
  · intro y0 hy1
    apply msgOwnerWrite_keeps
    · exact hy1
    · intro y2 hy3
      apply eqdWriteOp_keeps
      exact hy3

theorem execUpbAssignTid_keeps (q : Req) (x : Side) (s : State) :
    Answers [.capture, .counters, .paddock, .pairing, .regs, .report, .time, .line x] s (execUpbAssignTid q x s) := by
  refine answers_of fun K n => ⟨_, rfl, ?_⟩
  have i0 : Free K .capture := n _ (by simp)
  have i1 : Free K .counters := n _ (by simp)
  have i2 : Free K .paddock := n _ (by simp)
  have i3 : Free K .pairing := n _ (by simp)
  have i4 : Free K .regs := n _ (by simp)
  have i5 : Free K .report := n _ (by simp)
  have i6 : Free K .time := n _ (by simp)
  have i7 : Free K (.line x) := n _ (by simp)
  have hk0 := Keeps.refl (K := K) s
  apply actWrite_keeps
  exact hk0

theorem execUpbRanged_keeps (q : Req) (x : Side) (s : State) :
    Answers [.capture, .counters, .paddock, .pairing, .regs, .report, .time, .line x] s (execUpbRanged q x s) := by
  refine answers_of fun K n => ⟨_, rfl, ?_⟩
  have i0 : Free K .capture := n _ (by simp)
  have i1 : Free K .counters := n _ (by simp)
  have i2 : Free K .paddock := n _ (by simp)
  have i3 : Free K .pairing := n _ (by simp)
  have i4 : Free K .regs := n _ (by simp)
  have i5 : Free K .report := n _ (by simp)
  have i6 : Free K .time := n _ (by simp)
  have i7 : Free K (.line x) := n _ (by simp)
  have hk0 := Keeps.refl (K := K) s
  apply actWrite_keeps
  exact hk0

theorem execUpbDeactivate_keeps (q : Req) (x : Side) (s : State) :
    Answers [.capture, .counters, .paddock, .pairing, .regs, .report, .time, .line x] s (execUpbDeactivate q x s) := by
  refine answers_of fun K n => ⟨_, rfl, ?_⟩
  have i0 : Free K .capture := n _ (by simp)
  have i1 : Free K .counters := n _ (by simp)
  have i2 : Free K .paddock := n _ (by simp)
  have i3 : Free K .pairing := n _ (by simp)
  have i4 : Free K .regs := n _ (by simp)
  have i5 : Free K .report := n _ (by simp)
  have i6 : Free K .time := n _ (by simp)
  have i7 : Free K (.line x) := n _ (by simp)
  have hk0 := Keeps.refl (K := K) s
  apply actWrite_keeps
  exact hk0

theorem execUpbDisable_keeps (q : Req) (x : Side) (s : State) :
    Answers [.capture, .counters, .paddock, .pairing, .regs, .report, .time, .line x] s (execUpbDisable q x s) := by
  refine answers_of fun K n => ⟨_, rfl, ?_⟩
  have i0 : Free K .capture := n _ (by simp)
  have i1 : Free K .counters := n _ (by simp)
  have i2 : Free K .paddock := n _ (by simp)
  have i3 : Free K .pairing := n _ (by simp)
  have i4 : Free K .regs := n _ (by simp)
  have i5 : Free K .report := n _ (by simp)
  have i6 : Free K .time := n _ (by simp)
  have i7 : Free K (.line x) := n _ (by simp)
  have hk0 := Keeps.refl (K := K) s
  apply actWrite_keeps
  exact hk0

theorem execUpbEnable_keeps (q : Req) (x : Side) (s : State) :
    Answers [.capture, .counters, .paddock, .pairing, .regs, .report, .time, .line x] s (execUpbEnable q x s) := by
  refine answers_of fun K n => ⟨_, rfl, ?_⟩
  have i0 : Free K .capture := n _ (by simp)
  have i1 : Free K .counters := n _ (by simp)
  have i2 : Free K .paddock := n _ (by simp)
  have i3 : Free K .pairing := n _ (by simp)
  have i4 : Free K .regs := n _ (by simp)
  have i5 : Free K .report := n _ (by simp)
  have i6 : Free K .time := n _ (by simp)
  have i7 : Free K (.line x) := n _ (by simp)
  have hk0 := Keeps.refl (K := K) s
  apply actWrite_keeps
  exact hk0

theorem execUpbSerialNumberEnter_keeps (x : Side) (s : State) :
    Answers [.counters, .pairing, .regs, .report] s (execUpbSerialNumberEnter x s) := by
  refine answers_of fun K n => ⟨_, rfl, ?_⟩
  have i0 : Free K .counters := n _ (by simp)
  have i1 : Free K .pairing := n _ (by simp)
  have i2 : Free K .regs := n _ (by simp)
  have i3 : Free K .report := n _ (by simp)
  have hk0 := Keeps.refl (K := K) s
  refine keeps_ite ?_ ?_
  · apply prtEval_keeps
    apply actGo_keeps
    exact hk0
  · exact hk0

theorem execTo1Expire_keeps (x : Side) (s : State) :
    Answers [.counters, .pairing, .regs, .report, .line x] s (execTo1Expire x s) := by
  refine answers_of fun K n => ⟨_, rfl, ?_⟩
  have i0 : Free K .counters := n _ (by simp)
  have i1 : Free K .pairing := n _ (by simp)
  have i2 : Free K .regs := n _ (by simp)
  have i3 : Free K .report := n _ (by simp)
  have i4 : Free K (.line x) := n _ (by simp)
  have hk0 := Keeps.refl (K := K) s
  apply to1Expire_keeps
  exact hk0

end Sys2Proof.Machine
end

