-- ==== Sys2Proof/Laws/KeepsClient.lean ====
section
/-! SUPPORT. What the operations of Machine/Client.lean keep. -/

-- One proof at a time: in the package as one text, proofs that wait for each other would each hold a thread.
set_option Elab.async false

namespace Sys2Proof.Machine

variable {K : Comp → Prop}

theorem cliRefuse_keeps {s0 s : State} (hk0 : Keeps K s0 s) (fec : Bool) (p : Nat) [Free K .counters] [Free K .regs] [Free K .report] :
    Keeps K s0 (State.cliRefuse s fec p) := by
  unfold State.cliRefuse
  apply raise_keeps
  apply setFlag_keeps
  exact hk0

theorem cliCfgWrite_keeps {s0 s : State} (hk0 : Keeps K s0 s) (v : Word) [Free K .counters] [Free K .regs] [Free K .report] :
    Keeps K s0 (State.cliCfgWrite s v) := by
  unfold State.cliCfgWrite
  extract_lets +onlyGivenNames m_0
  clear_value m_0
  extract_lets +onlyGivenNames r_1
  clear_value r_1
  extract_lets +onlyGivenNames change2
  clear_value change2
  refine keeps_ite ?_ ?_
  · apply cliRefuse_keeps
    exact hk0
  · extract_lets +onlyGivenNames s1_3
    refine keeps_cut (v := s1_3) ?_ fun hs1_3 => ?_
    · subst s1_3
      apply setF_keeps
      apply setF_keeps
      exact hk0
    clear_value s1_3
    extract_lets +onlyGivenNames s2_4
    refine keeps_cut (v := s2_4) ?_ fun hs2_4 => ?_
    · subst s2_4
      refine keeps_ite ?_ ?_
      · apply setFlag_keeps
        exact hs1_3
      · exact hs1_3
    clear_value s2_4
    refine keeps_ite ?_ ?_
    · exact hs2_4
    · refine keeps_foldl _ ?_ ?_
      · exact hs2_4
      · intro y5 y6 hy7
        apply setFlag_keeps
        exact hy7

theorem cliFill_keeps {s0 s : State} (h : Keeps K s0 s) (n : Nat) [Free K .client] [Free K .counters] [Free K .regs] [Free K .xings] : Keeps K s0 (s.cliFill n) := by
  induction n generalizing s with
  | zero => exact h
  | succ n ih =>
    unfold State.cliFill
    simp only
    split
    · exact h
    · exact ih (bumpIf_keeps (xPush_keeps (modCli_keeps h _) ..) ..)

theorem cliDrainRx_keeps {s0 s : State} (hk0 : Keeps K s0 s) [Free K .client] [Free K .counters] [Free K .regs] [Free K .xings] :
    Keeps K s0 (State.cliDrainRx s) := by
  unfold State.cliDrainRx
  apply cliFill_keeps
  exact hk0

theorem rxEnter_keeps {s0 s : State} (hk0 : Keeps K s0 s) (c : Option Nat) (f : Frame) [Free K .client] [Free K .counters] [Free K .regs] [Free K .report] [Free K .xings] :
    Keeps K s0 (State.rxEnter s c f) := by
  unfold State.rxEnter
  extract_lets +onlyGivenNames s1_0
  refine keeps_cut (v := s1_0) ?_ fun hs1_0 => ?_
  · subst s1_0
    apply cliDrainRx_keeps
    exact hk0
  clear_value s1_0
  extract_lets +onlyGivenNames room1
  clear_value room1
  extract_lets +onlyGivenNames n_2
  clear_value n_2
  extract_lets +onlyGivenNames put_3
  subst put_3
  refine keeps_ite ?_ ?_
  · extract_lets +onlyGivenNames s2_4
    refine keeps_cut (v := s2_4) ?_ fun hs2_4 => ?_
    · subst s2_4
      split
      · apply bump_keeps
        exact hs1_0
      · apply bump_keeps
        apply bump_keeps
        exact hs1_0
    clear_value s2_4
    apply cliDrainRx_keeps
    dsimp only
    apply modCli_keeps
    exact hs2_4
  · extract_lets +onlyGivenNames g_5
    clear_value g_5
    extract_lets +onlyGivenNames s2_6
    refine keeps_cut (v := s2_6) ?_ fun hs2_6 => ?_
    · subst s2_6
      refine keeps_ite ?_ ?_
      · exact hs1_0
      · dsimp only
        apply modCli_keeps
        exact hs1_0
    clear_value s2_6
    apply cliDrainRx_keeps
    apply raiseLim_keeps
    apply bump_keeps
    exact hs2_6

theorem rxFrame_keeps {s0 s : State} (hk0 : Keeps K s0 s) (p : Nat) (bytes : List Byte) (t0 : Nat) (accepted emac abort pcsErr : Bool) [Free K .client] [Free K .counters] [Free K .regs] [Free K .report] [Free K .sched] [Free K .time] [Free K .xings] :
    Keeps K s0 (State.rxFrame s p bytes t0 accepted emac abort pcsErr) := by
  unfold State.rxFrame
  extract_lets +onlyGivenNames stamp0
  clear_value stamp0
  extract_lets +onlyGivenNames c_1
  clear_value c_1
  extract_lets +onlyGivenNames d_2
  clear_value d_2
  extract_lets +onlyGivenNames f_3
  clear_value f_3
  extract_lets +onlyGivenNames chosen4
  clear_value chosen4
  extract_lets +onlyGivenNames m_5
  refine keeps_cut (v := m_5.2) ?_ fun hm_5 => ?_
  · subst m_5
    refine keeps_ite2 ?_ ?_
    · apply xpol_keeps
      exact hk0
    · refine keeps_pair ?_
      exact hk0
  clear_value m_5
  extract_lets +onlyGivenNames s1_6
  refine keeps_cut (v := s1_6) ?_ fun hs1_6 => ?_
  · subst s1_6
    refine keeps_ite ?_ ?_
    · apply xpolEvent_keeps
      exact hm_5
    · exact hm_5
  clear_value s1_6
  extract_lets +onlyGivenNames s2_7
  refine keeps_cut (v := s2_7) ?_ fun hs2_7 => ?_
  · subst s2_7
    apply rxEnter_keeps
    exact hs1_6
  clear_value s2_7
  refine keeps_ite ?_ ?_
  · apply tsReceive_keeps
    exact hs2_7
  · exact hs2_7

theorem setOpen_keeps {s0 s : State} (hk0 : Keeps K s0 s) (p : Nat) (o : Option RxOpen) [Free K .client] :
    Keeps K s0 (State.setOpen s p o) := by
  unfold State.setOpen
  apply modCli_keeps
  exact hk0

theorem assyErr_keeps {s0 s : State} (hk0 : Keeps K s0 s) (p : Nat) [Free K .counters] [Free K .regs] [Free K .report] :
    Keeps K s0 (State.assyErr s p) := by
  unfold State.assyErr
  apply raiseLim_keeps
  apply bump_keeps
  exact hk0

theorem rxFirst_keeps {s0 s : State} (hk0 : Keeps K s0 s) (p count : Nat) (bytes : List Byte) (t0 : Nat) (abort pcsErr : Bool) [Free K .client] [Free K .counters] [Free K .regs] [Free K .report] [Free K .sched] [Free K .time] [Free K .xings] :
    Keeps K s0 (State.rxFirst s p count bytes t0 abort pcsErr) := by
  unfold State.rxFirst
  extract_lets +onlyGivenNames s1_0
  refine keeps_cut (v := s1_0) ?_ fun hs1_0 => ?_
  · subst s1_0
    refine keeps_ite ?_ ?_
    · apply assyErr_keeps
      apply setOpen_keeps
      exact hk0
    · exact hk0
  clear_value s1_0
  extract_lets +onlyGivenNames ok_1
  clear_value ok_1
  refine keeps_ite ?_ ?_
  · apply setOpen_keeps
    exact hs1_0
  · apply rxFrame_keeps
    exact hs1_0

theorem rxCont_keeps {s0 s : State} (hk0 : Keeps K s0 s) (p count frag : Nat) (bytes : List Byte) (abort pcsErr : Bool) [Free K .client] [Free K .counters] [Free K .regs] [Free K .report] [Free K .sched] [Free K .time] [Free K .xings] :
    Keeps K s0 (State.rxCont s p count frag bytes abort pcsErr) := by
  unfold State.rxCont
  split
  · apply assyErr_keeps
    exact hk0
  · extract_lets +onlyGivenNames all_0
    clear_value all_0
    refine keeps_ite ?_ ?_
    · apply assyErr_keeps
      apply setOpen_keeps
      exact hk0
    · refine keeps_ite ?_ ?_
      · apply setOpen_keeps
        exact hk0
      · apply rxFrame_keeps
        apply setOpen_keeps
        exact hk0

theorem rxPart_keeps {s0 s : State} (hk0 : Keeps K s0 s) (p : Nat) (smd : Smd) (bytes : List Byte) (first : Nat) (abort pcsErr : Bool) [Free K .client] [Free K .counters] [Free K .regs] [Free K .report] [Free K .sched] [Free K .time] [Free K .xings] :
    Keeps K s0 (State.rxPart s p smd bytes first abort pcsErr) := by
  unfold State.rxPart
  extract_lets +onlyGivenNames t0_0
  clear_value t0_0
  split
  · apply rxFrame_keeps
    exact hk0
  · apply rxFirst_keeps
    exact hk0
  · refine keeps_ite ?_ ?_
    · apply rxCont_keeps
      exact hk0
    · exact hk0
  · exact hk0

theorem rxAbort_keeps {s0 s : State} (hk0 : Keeps K s0 s) (p : Nat) (smd : Smd) (bytes : List Byte) (first : Nat) [Free K .client] [Free K .counters] [Free K .regs] [Free K .report] [Free K .sched] [Free K .time] [Free K .xings] :
    Keeps K s0 (State.rxAbort s p smd bytes first) := by
  unfold State.rxAbort
  extract_lets +onlyGivenNames s1_0
  refine keeps_cut (v := s1_0) ?_ fun hs1_0 => ?_
  · subst s1_0
    refine keeps_ite ?_ ?_
    · exact hk0
    · apply rxPart_keeps
      exact hk0
  clear_value s1_0
  split
  · apply rxFrame_keeps
    apply setOpen_keeps
    exact hs1_0
  · exact hs1_0

theorem pmpGo_keeps {s0 s : State} (hk0 : Keeps K s0 s) (p v : Nat) (act : Bool) [Free K .counters] [Free K .regs] [Free K .report] :
    Keeps K s0 (State.pmpGo s p v act) := by
  unfold State.pmpGo
  extract_lets +onlyGivenNames ch_0
  clear_value ch_0
  apply raiseIf_keeps
  apply setFlag_keeps
  apply setF_keeps
  exact hk0

theorem pmpStart_keeps {s0 s : State} (hk0 : Keeps K s0 s) (p : Nat) [Free K .client] [Free K .counters] [Free K .regs] [Free K .report] :
    Keeps K s0 (State.pmpStart s p) := by
  unfold State.pmpStart
  refine keeps_ite ?_ ?_
  · apply pmpGo_keeps
    apply modCli_keeps
    exact hk0
  · apply pmpGo_keeps
    exact hk0

theorem pmpEval_keeps {s0 s : State} (hk0 : Keeps K s0 s) (p : Nat) [Free K .client] [Free K .counters] [Free K .regs] [Free K .report] :
    Keeps K s0 (State.pmpEval s p) := by
  unfold State.pmpEval
  refine keeps_ite ?_ ?_
  · apply pmpGo_keeps
    exact hk0
  · refine keeps_ite ?_ ?_
    · apply pmpStart_keeps
      exact hk0
    · apply pmpGo_keeps
      exact hk0

theorem pmpLink_keeps {s0 s : State} (hk0 : Keeps K s0 s) (p : Nat) [Free K .client] [Free K .counters] [Free K .regs] [Free K .report] :
    Keeps K s0 (State.pmpLink s p) := by
  unfold State.pmpLink
  refine keeps_ite ?_ ?_
  · apply pmpStart_keeps
    exact hk0
  · exact hk0

theorem pmpWrite_keeps {s0 s : State} (hk0 : Keeps K s0 s) (p : Nat) (v : Word) [Free K .client] [Free K .counters] [Free K .regs] [Free K .report] :
    Keeps K s0 (State.pmpWrite s p v) := by
  unfold State.pmpWrite
  refine keeps_ite ?_ ?_
  · exact hk0
  · extract_lets +onlyGivenNames a_0
    clear_value a_0
    extract_lets +onlyGivenNames old_1
    clear_value old_1
    extract_lets +onlyGivenNames s1_2
    refine keeps_cut (v := s1_2) ?_ fun hs1_2 => ?_
    · subst s1_2
      apply setReg_keeps
      exact hk0
    clear_value s1_2
    refine keeps_ite ?_ ?_
    · exact hs1_2
    · apply pmpEval_keeps
      exact hs1_2

theorem pmpResponse_keeps {s0 s : State} (hk0 : Keeps K s0 s) (p : Nat) [Free K .counters] [Free K .regs] [Free K .report] :
    Keeps K s0 (State.pmpResponse s p) := by
  unfold State.pmpResponse
  refine keeps_ite ?_ ?_
  · apply pmpGo_keeps
    exact hk0
  · exact hk0

theorem pmpTimeout_keeps {s0 s : State} (hk0 : Keeps K s0 s) (p : Nat) [Free K .client] [Free K .counters] [Free K .regs] [Free K .report] :
    Keeps K s0 (State.pmpTimeout s p) := by
  unfold State.pmpTimeout
  refine keeps_ite ?_ ?_
  · exact hk0
  · extract_lets +onlyGivenNames n_0
    clear_value n_0
    refine keeps_ite ?_ ?_
    · apply modCli_keeps
      exact hk0
    · apply pmpGo_keeps
      exact hk0

theorem setTx_keeps {s0 s : State} (hk0 : Keeps K s0 s) (p : Nat) (l : List Frame) [Free K .client] :
    Keeps K s0 (State.setTx s p l) := by
  unfold State.setTx
  apply modCli_keeps
  exact hk0

theorem setTxExp_keeps {s0 s : State} (hk0 : Keeps K s0 s) (p : Nat) (l : List Frame) [Free K .client] :
    Keeps K s0 (State.setTxExp s p l) := by
  unfold State.setTxExp
  apply modCli_keeps
  exact hk0

theorem setMac_keeps {s0 s : State} (hk0 : Keeps K s0 s) (p : Nat) (m : Option MacTx) [Free K .client] :
    Keeps K s0 (State.setMac s p m) := by
  unfold State.setMac
  apply modCli_keeps
  exact hk0

theorem setCut_keeps {s0 s : State} (hk0 : Keeps K s0 s) (p : Nat) (m : Option MacTx) [Free K .client] :
    Keeps K s0 (State.setCut s p m) := by
  unfold State.setCut
  apply modCli_keeps
  exact hk0

theorem txDrop_keeps {s0 s : State} (hk0 : Keeps K s0 s) (a : Nat) (f : Frame) [Free K .counters] [Free K .memories] [Free K .paddock] [Free K .regs] :
    Keeps K s0 (State.txDrop s a f) := by
  unfold State.txDrop
  apply padDrop_keeps
  apply bump_keeps
  exact hk0

theorem cliArrive_keeps {s0 s : State} (hk0 : Keeps K s0 s) (f : Frame) [Free K .client] [Free K .counters] [Free K .memories] [Free K .paddock] [Free K .regs] :
    Keeps K s0 (State.cliArrive s f) := by
  unfold State.cliArrive
  extract_lets +onlyGivenNames p_0
  clear_value p_0
  refine keeps_ite ?_ ?_
  · apply txDrop_keeps
    exact hk0
  · refine keeps_ite ?_ ?_
    · apply setTxExp_keeps
      exact hk0
    · apply setTx_keeps
      exact hk0

theorem cliDrainTx_keeps {s0 s : State} (hk0 : Keeps K s0 s) [Free K .client] [Free K .counters] [Free K .memories] [Free K .paddock] [Free K .regs] [Free K .xings] :
    Keeps K s0 (State.cliDrainTx s) := by
  unfold State.cliDrainTx
  refine keeps_ite ?_ ?_
  · extract_lets +onlyGivenNames x_0
    clear_value x_0
    refine keeps_foldl _ ?_ ?_
    · apply setXing_keeps
      exact hk0
    · intro y1 y2 hy3
      apply cliArrive_keeps
      exact hy3
  · exact hk0

theorem setSent_keeps {s0 s : State} (hk0 : Keeps K s0 s) (p : Nat) (bs : List Byte) [Free K .client] :
    Keeps K s0 (State.setSent s p bs) := by
  unfold State.setSent
  apply modCli_keeps
  exact hk0

theorem txDone_keeps {s0 s : State} (hk0 : Keeps K s0 s) (p : Nat) (m : MacTx) [Free K .client] [Free K .counters] [Free K .memories] [Free K .paddock] [Free K .regs] [Free K .report] [Free K .time] :
    Keeps K s0 (State.txDone s p m) := by
  unfold State.txDone
  extract_lets +onlyGivenNames s1_0
  refine keeps_cut (v := s1_0) ?_ fun hs1_0 => ?_
  · subst s1_0
    apply setSent_keeps
    apply bump_keeps
    apply bump_keeps
    exact hk0
  clear_value s1_0
  extract_lets +onlyGivenNames s1_1
  refine keeps_cut (v := s1_1) ?_ fun hs1_1 => ?_
  · subst s1_1
    apply ptpCount_keeps
    exact hs1_0
  clear_value s1_1
  extract_lets +onlyGivenNames s2_2
  refine keeps_cut (v := s2_2) ?_ fun hs2_2 => ?_
  · subst s2_2
    refine keeps_ite ?_ ?_
    · apply tsWrite_keeps
      exact hs1_1
    · exact hs1_1
  clear_value s2_2
  apply padDrop_keeps
  exact hs2_2

theorem macSettle_keeps {s0 s : State} (hk0 : Keeps K s0 s) (p : Nat) [Free K .client] [Free K .counters] [Free K .memories] [Free K .paddock] [Free K .regs] [Free K .report] [Free K .time] :
    Keeps K s0 (State.macSettle s p) := by
  unfold State.macSettle
  split
  · exact hk0
  · refine keeps_ite ?_ ?_
    · exact hk0
    · extract_lets +onlyGivenNames s1_0
      refine keeps_cut (v := s1_0) ?_ fun hs1_0 => ?_
      · subst s1_0
        apply modCli_keeps
        apply setMac_keeps
        exact hk0
      clear_value s1_0
      refine keeps_ite ?_ ?_
      · apply txDone_keeps
        exact hs1_0
      · apply setCut_keeps
        apply setSent_keeps
        apply bump_keeps
        exact hs1_0

theorem macAbort_keeps {s0 s : State} (hk0 : Keeps K s0 s) (p : Nat) (m : MacTx) (a : Nat) [Free K .client] [Free K .counters] [Free K .memories] [Free K .paddock] [Free K .regs] :
    Keeps K s0 (State.macAbort s p m a) := by
  unfold State.macAbort
  apply txDrop_keeps
  apply setSent_keeps
  apply setCut_keeps
  apply setMac_keeps
  exact hk0

theorem macCut_keeps {s0 s : State} (hk0 : Keeps K s0 s) (p : Nat) [Free K .client] :
    Keeps K s0 (State.macCut s p) := by
  unfold State.macCut
  split
  · exact hk0
  · extract_lets +onlyGivenNames rest0
    clear_value rest0
    extract_lets +onlyGivenNames n_1
    clear_value n_1
    refine keeps_ite ?_ ?_
    · apply setMac_keeps
      exact hk0
    · exact hk0

theorem macTick_keeps {s0 s : State} (hk0 : Keeps K s0 s) (p : Nat) [Free K .client] [Free K .counters] [Free K .gates] [Free K .memories] [Free K .paddock] [Free K .regs] [Free K .report] [Free K .time] :
    Keeps K s0 (State.macTick s p) := by
  unfold State.macTick
  extract_lets +onlyGivenNames s1_0
  refine keeps_cut (v := s1_0) ?_ fun hs1_0 => ?_
  · subst s1_0
    apply macSettle_keeps
    exact hk0
  clear_value s1_0
  split
  · apply setMac_keeps
    exact hs1_0
  · exact hs1_0

theorem dropLong_keeps {s0 s : State} (hk0 : Keeps K s0 s) (p : Nat) [Free K .client] [Free K .counters] [Free K .memories] [Free K .paddock] [Free K .regs] :
    Keeps K s0 (State.dropLong s p) := by
  unfold State.dropLong
  extract_lets +onlyGivenNames bad_0
  clear_value bad_0
  extract_lets +onlyGivenNames s1_1
  refine keeps_cut (v := s1_1) ?_ fun hs1_1 => ?_
  · subst s1_1
    apply setTx_keeps
    apply setTxExp_keeps
    exact hk0
  clear_value s1_1
  refine keeps_foldl _ ?_ ?_
  · exact hs1_1
  · intro y2 y3 hy4
    refine keeps_ite ?_ ?_
    · apply txDrop_keeps
      exact hy4
    · exact hy4

theorem macStart_keeps {s0 s : State} (hk0 : Keeps K s0 s) (p : Nat) (f : Frame) (ue : Bool) [Free K .client] [Free K .counters] [Free K .free] [Free K .gates] [Free K .memories] [Free K .paddock] [Free K .regs] [Free K .report] :
    Keeps K s0 (State.macStart s p f ue) := by
  unfold State.macStart
  extract_lets +onlyGivenNames s1_0
  refine keeps_cut (v := s1_0) ?_ fun hs1_0 => ?_
  · subst s1_0
    refine keeps_ite ?_ ?_
    · apply setTxExp_keeps
      exact hk0
    · apply setTx_keeps
      exact hk0
  clear_value s1_0
  extract_lets +onlyGivenNames u_1
  refine keeps_cut (v := u_1.2) ?_ fun hu_1 => ?_
  · subst u_1
    apply padRead_keeps
    exact hs1_0
  clear_value u_1
  refine keeps_ite ?_ ?_
  · apply padDrop_keeps
    exact hu_1
  · extract_lets +onlyGivenNames s1_2
    refine keeps_cut (v := s1_2) ?_ fun hs1_2 => ?_
    · subst s1_2
      exact hu_1
    clear_value s1_2
    extract_lets +onlyGivenNames es_3
    clear_value es_3
    extract_lets +onlyGivenNames pre_4
    clear_value pre_4
    extract_lets +onlyGivenNames e_5
    clear_value e_5
    extract_lets +onlyGivenNames d_6
    clear_value d_6
    apply setMac_keeps
    exact hs1_2

theorem macResume_keeps {s0 s : State} (hk0 : Keeps K s0 s) (p : Nat) [Free K .client] [Free K .counters] [Free K .gates] [Free K .regs] [Free K .report] :
    Keeps K s0 (State.macResume s p) := by
  unfold State.macResume
  split
  · exact hk0
  · refine keeps_ite ?_ ?_
    · apply setMac_keeps
      apply setCut_keeps
      exact hk0
    · exact hk0

theorem macOp_keeps {s0 s : State} (hk0 : Keeps K s0 s) (p : Nat) (ue : Bool) [Free K .client] [Free K .counters] [Free K .free] [Free K .gates] [Free K .memories] [Free K .paddock] [Free K .regs] [Free K .report] [Free K .time] [Free K .xings] :
    Keeps K s0 (State.macOp s p ue) := by
  unfold State.macOp
  refine keeps_ite ?_ ?_
  · exact hk0
  · extract_lets +onlyGivenNames s1_0
    refine keeps_cut (v := s1_0) ?_ fun hs1_0 => ?_
    · subst s1_0
      apply macTick_keeps
      apply cliDrainTx_keeps
      exact hk0
    clear_value s1_0
    split
    · refine keeps_ite ?_ ?_
      · extract_lets +onlyGivenNames g_1
        refine keeps_cut (v := g_1.2) ?_ fun hg_1 => ?_
        · subst g_1
          apply takeFree_keeps
          exact hs1_0
        clear_value g_1
        apply macAbort_keeps
        apply memUeChip_keeps
        exact hg_1
      · apply macCut_keeps
        exact hs1_0
    · refine keeps_ite ?_ ?_
      · exact hs1_0
      · extract_lets +onlyGivenNames s2_2
        refine keeps_cut (v := s2_2) ?_ fun hs2_2 => ?_
        · subst s2_2
          apply dropLong_keeps
          exact hs1_0
        clear_value s2_2
        split
        · refine keeps_ite ?_ ?_
          · exact hs2_2
          · apply macStart_keeps
            exact hs2_2
        · apply macResume_keeps
          exact hs2_2

theorem txDown_keeps {s0 s : State} (hk0 : Keeps K s0 s) (p : Nat) [Free K .client] [Free K .counters] [Free K .memories] [Free K .paddock] [Free K .regs] [Free K .report] [Free K .time] [Free K .xings] :
    Keeps K s0 (State.txDown s p) := by
  unfold State.txDown
  extract_lets +onlyGivenNames s1_0
  refine keeps_cut (v := s1_0) ?_ fun hs1_0 => ?_
  · subst s1_0
    apply macSettle_keeps
    apply cliDrainTx_keeps
    exact hk0
  clear_value s1_0
  extract_lets +onlyGivenNames s2_1
  refine keeps_cut (v := s2_1) ?_ fun hs2_1 => ?_
  · subst s2_1
    split
    · apply macAbort_keeps
      exact hs1_0
    · assumption
  clear_value s2_1
  extract_lets +onlyGivenNames s2_2
  refine keeps_cut (v := s2_2) ?_ fun hs2_2 => ?_
  · subst s2_2
    split
    · apply txDrop_keeps
      apply setCut_keeps
      exact hs2_1
    · assumption
  clear_value s2_2
  refine keeps_foldl _ ?_ ?_
  · apply setTx_keeps
    apply setTxExp_keeps
    exact hs2_2
  · intro y3 y4 hy5
    apply txDrop_keeps
    exact hy5

theorem linkEvent_keeps {s0 s : State} (hk0 : Keeps K s0 s) (p : Nat) [Free K .counters] [Free K .regs] [Free K .report] :
    Keeps K s0 (State.linkEvent s p) := by
  unfold State.linkEvent
  apply raise_keeps
  exact hk0

theorem linkFall_keeps {s0 s : State} (hk0 : Keeps K s0 s) (p : Nat) [Free K .client] [Free K .counters] [Free K .memories] [Free K .paddock] [Free K .regs] [Free K .report] [Free K .time] [Free K .xings] :
    Keeps K s0 (State.linkFall s p) := by
  unfold State.linkFall
  refine keeps_ite ?_ ?_
  · extract_lets +onlyGivenNames s1_0
    refine keeps_cut (v := s1_0) ?_ fun hs1_0 => ?_
    · subst s1_0
      apply setReg_keeps
      apply setFlag_keeps
      exact hk0
    clear_value s1_0
    apply pmpLink_keeps
    apply linkEvent_keeps
    apply txDown_keeps
    exact hs1_0
  · exact hk0

theorem portCfgWrite_keeps {s0 s : State} (hk0 : Keeps K s0 s) (p : Nat) (v : Word) (smd : Smd) (rx : List Byte) (first : Nat) [Free K .client] [Free K .counters] [Free K .memories] [Free K .paddock] [Free K .regs] [Free K .report] [Free K .sched] [Free K .time] [Free K .xings] :
    Keeps K s0 (State.portCfgWrite s p v smd rx first) := by
  unfold State.portCfgWrite
  refine keeps_ite ?_ ?_
  · exact hk0
  · extract_lets +onlyGivenNames o_0
    clear_value o_0
    extract_lets +onlyGivenNames fec_1
    clear_value fec_1
    refine keeps_ite ?_ ?_
    · apply cliRefuse_keeps
      exact hk0
    · extract_lets +onlyGivenNames was_2
      clear_value was_2
      extract_lets +onlyGivenNames en_3
      subst en_3
      extract_lets +onlyGivenNames s0_4
      refine keeps_cut (v := s0_4) ?_ fun hs0_4 => ?_
      · subst s0_4
        refine keeps_ite ?_ ?_
        · apply rxAbort_keeps
          exact hk0
        · exact hk0
      clear_value s0_4
      extract_lets +onlyGivenNames s1_5
      refine keeps_cut (v := s1_5) ?_ fun hs1_5 => ?_
      · subst s1_5
        apply setFlag_keeps
        apply setReg_keeps
        exact hs0_4
      clear_value s1_5
      refine keeps_ite ?_ ?_
      · apply setFlag_keeps
        exact hs1_5
      · refine keeps_ite ?_ ?_
        · extract_lets +onlyGivenNames s2_6
          refine keeps_cut (v := s2_6) ?_ fun hs2_6 => ?_
          · subst s2_6
            apply setReg_keeps
            exact hs1_5
          clear_value s2_6
          apply linkFall_keeps
          exact hs2_6
        · exact hs1_5

theorem linkRise_keeps {s0 s : State} (hk0 : Keeps K s0 s) (p rxLat txLat : Nat) [Free K .client] [Free K .counters] [Free K .regs] [Free K .report] :
    Keeps K s0 (State.linkRise s p rxLat txLat) := by
  unfold State.linkRise
  extract_lets +onlyGivenNames o_0
  clear_value o_0
  refine keeps_ite ?_ ?_
  · extract_lets +onlyGivenNames m_1
    clear_value m_1
    extract_lets +onlyGivenNames s1_2
    refine keeps_cut (v := s1_2) ?_ fun hs1_2 => ?_
    · subst s1_2
      apply setReg_keeps
      exact hk0
    clear_value s1_2
    extract_lets +onlyGivenNames s2_3
    refine keeps_cut (v := s2_3) ?_ fun hs2_3 => ?_
    · subst s2_3
      apply setF_keeps
      apply setF_keeps
      exact hs1_2
    clear_value s2_3
    apply pmpLink_keeps
    apply linkEvent_keeps
    exact hs2_3
  · exact hk0

theorem linkFail_keeps {s0 s : State} (hk0 : Keeps K s0 s) (p : Nat) (lf rf pcs : Bool) (smd : Smd) (rx : List Byte) (first : Nat) [Free K .client] [Free K .counters] [Free K .memories] [Free K .paddock] [Free K .regs] [Free K .report] [Free K .sched] [Free K .time] [Free K .xings] :
    Keeps K s0 (State.linkFail s p lf rf pcs smd rx first) := by
  unfold State.linkFail
  extract_lets +onlyGivenNames o_0
  clear_value o_0
  refine keeps_ite ?_ ?_
  · extract_lets +onlyGivenNames s0_1
    refine keeps_cut (v := s0_1) ?_ fun hs0_1 => ?_
    · subst s0_1
      refine keeps_ite ?_ ?_
      · apply rxAbort_keeps
        exact hk0
      · exact hk0
    clear_value s0_1
    extract_lets +onlyGivenNames s1_2
    refine keeps_cut (v := s1_2) ?_ fun hs1_2 => ?_
    · subst s1_2
      apply setFlag_keeps
      apply setFlag_keeps
      exact hs0_1
    clear_value s1_2
    extract_lets +onlyGivenNames s2_3
    refine keeps_cut (v := s2_3) ?_ fun hs2_3 => ?_
    · subst s2_3
      apply setFlag_keeps
      apply setFlag_keeps
      exact hs1_2
    clear_value s2_3
    apply linkFall_keeps
    exact hs2_3
  · exact hk0

theorem ucastLoWrite_keeps {s0 s : State} (hk0 : Keeps K s0 s) (p n : Nat) (v : Word) [Free K .client] :
    Keeps K s0 (State.ucastLoWrite s p n v) := by
  unfold State.ucastLoWrite
  refine keeps_ite ?_ ?_
  · apply modCli_keeps
    exact hk0
  · exact hk0

theorem ucastCommit_keeps {s0 s : State} (hk0 : Keeps K s0 s) (p n : Nat) (v : Word) [Free K .client] [Free K .regs] :
    Keeps K s0 (State.ucastCommit s p n v) := by
  unfold State.ucastCommit
  extract_lets +onlyGivenNames a_0
  clear_value a_0
  refine keeps_ite ?_ ?_
  · extract_lets +onlyGivenNames old_1
    clear_value old_1
    extract_lets +onlyGivenNames s1_2
    refine keeps_cut (v := s1_2) ?_ fun hs1_2 => ?_
    · subst s1_2
      apply modCli_keeps
      exact hk0
    clear_value s1_2
    apply setReg_keeps
    apply setReg_keeps
    exact hs1_2
  · exact hk0

theorem execClientLayoutWrite_keeps (q : Req) (v : Word) (s : State) :
    Answers [.counters, .regs, .report] s (execClientLayoutWrite q v s) := by
  refine answers_of fun K n => ⟨_, rfl, ?_⟩
  have i0 : Free K .counters := n _ (by simp)
  have i1 : Free K .regs := n _ (by simp)
  have i2 : Free K .report := n _ (by simp)
  have hk0 := Keeps.refl (K := K) s
  apply guardW_keeps
  · exact hk0
  · intro y0 hy1
    apply cliCfgWrite_keeps
    exact hy1

theorem execPortEnable_keeps (q : Req) (p : Fin 8) (v : Word) (s : State) :
    Answers [.client, .counters, .memories, .paddock, .regs, .report, .sched, .time, .xings] s (execPortEnable q p v s) := by
  refine answers_of fun K n => ⟨_, rfl, ?_⟩
  have i0 : Free K .client := n _ (by simp)
  have i1 : Free K .counters := n _ (by simp)
  have i2 : Free K .memories := n _ (by simp)
  have i3 : Free K .paddock := n _ (by simp)
  have i4 : Free K .regs := n _ (by simp)
  have i5 : Free K .report := n _ (by simp)
  have i6 : Free K .sched := n _ (by simp)
  have i7 : Free K .time := n _ (by simp)
  have i8 : Free K .xings := n _ (by simp)
  have hk0 := Keeps.refl (K := K) s
  apply guardW_keeps
  · exact hk0
  · intro y0 hy1
    refine keeps_ite ?_ ?_
    · apply portCfgWrite_keeps
      exact hy1
    · exact hy1

theorem execPortDisable_keeps (q : Req) (p : Fin 8) (v : Word) (smd : Smd) (rx : List Byte) (first : Nat) (s : State) :
    Answers [.client, .counters, .memories, .paddock, .regs, .report, .sched, .time, .xings] s (execPortDisable q p v smd rx first s) := by
  refine answers_of fun K n => ⟨_, rfl, ?_⟩
  have i0 : Free K .client := n _ (by simp)
  have i1 : Free K .counters := n _ (by simp)
  have i2 : Free K .memories := n _ (by simp)
  have i3 : Free K .paddock := n _ (by simp)
  have i4 : Free K .regs := n _ (by simp)
  have i5 : Free K .report := n _ (by simp)
  have i6 : Free K .sched := n _ (by simp)
  have i7 : Free K .time := n _ (by simp)
  have i8 : Free K .xings := n _ (by simp)
  have hk0 := Keeps.refl (K := K) s
  apply guardW_keeps
  · exact hk0
  · intro y0 hy1
    refine keeps_ite ?_ ?_
    · apply portCfgWrite_keeps
      exact hy1
    · exact hy1

theorem execLinkUp_keeps (p : Fin 8) (rxLat txLat : Nat) (s : State) :
    Answers [.client, .counters, .regs, .report] s (execLinkUp p rxLat txLat s) := by
  refine answers_of fun K n => ⟨_, rfl, ?_⟩
  have i0 : Free K .client := n _ (by simp)
  have i1 : Free K .counters := n _ (by simp)
  have i2 : Free K .regs := n _ (by simp)
  have i3 : Free K .report := n _ (by simp)
  have hk0 := Keeps.refl (K := K) s
  apply linkRise_keeps
  exact hk0

theorem execLinkDown_keeps (p : Fin 8) (lf rf pcs : Bool) (smd : Smd) (rx : List Byte) (first : Nat) (s : State) :
    Answers [.client, .counters, .memories, .paddock, .regs, .report, .sched, .time, .xings] s (execLinkDown p lf rf pcs smd rx first s) := by
  refine answers_of fun K n => ⟨_, rfl, ?_⟩
  have i0 : Free K .client := n _ (by simp)
  have i1 : Free K .counters := n _ (by simp)
  have i2 : Free K .memories := n _ (by simp)
  have i3 : Free K .paddock := n _ (by simp)
  have i4 : Free K .regs := n _ (by simp)
  have i5 : Free K .report := n _ (by simp)
  have i6 : Free K .sched := n _ (by simp)
  have i7 : Free K .time := n _ (by simp)
  have i8 : Free K .xings := n _ (by simp)
  have hk0 := Keeps.refl (K := K) s
  apply linkFail_keeps
  exact hk0

theorem execClientFrameReceive_keeps (p : Fin 8) (bytes : List Byte) (first : Nat) (smd : Smd) (pcsErr abort : Bool) (corr unc : Nat) (s : State) :
    Answers [.client, .counters, .regs, .report, .sched, .time, .xings] s (execClientFrameReceive p bytes first smd pcsErr abort corr unc s) := by
  refine answers_of fun K n => ⟨_, rfl, ?_⟩
  have i0 : Free K .client := n _ (by simp)
  have i1 : Free K .counters := n _ (by simp)
  have i2 : Free K .regs := n _ (by simp)
  have i3 : Free K .report := n _ (by simp)
  have i4 : Free K .sched := n _ (by simp)
  have i5 : Free K .time := n _ (by simp)
  have i6 : Free K .xings := n _ (by simp)
  have hk0 := Keeps.refl (K := K) s
  refine keeps_ite ?_ ?_
  · exact hk0
  · extract_lets +onlyGivenNames s1_0
    refine keeps_cut (v := s1_0) ?_ fun hs1_0 => ?_
    · subst s1_0
      apply bumpIf_keeps
      apply bumpIf_keeps
      exact hk0
    clear_value s1_0
    split
    · apply pmpResponse_keeps
      exact hs1_0
    · apply rxPart_keeps
      exact hs1_0

theorem execUcastCommit_keeps (q : Req) (p : Fin 8) (n : Fin 16) (v : Word) (s : State) :
    Answers [.client, .counters, .regs, .report] s (execUcastCommit q p n v s) := by
  refine answers_of fun K n => ⟨_, rfl, ?_⟩
  have i0 : Free K .client := n _ (by simp)
  have i1 : Free K .counters := n _ (by simp)
  have i2 : Free K .regs := n _ (by simp)
  have i3 : Free K .report := n _ (by simp)
  have hk0 := Keeps.refl (K := K) s
  apply guardW_keeps
  · exact hk0
  · intro y0 hy1
    apply ucastCommit_keeps
    exact hy1

theorem execClientFrameTransmit_keeps (p : Fin 8) (ue : Bool) (s : State) :
    Answers [.client, .counters, .free, .gates, .memories, .paddock, .regs, .report, .time, .xings] s (execClientFrameTransmit p ue s) := by
  refine answers_of fun K n => ⟨_, rfl, ?_⟩
  have i0 : Free K .client := n _ (by simp)
  have i1 : Free K .counters := n _ (by simp)
  have i2 : Free K .free := n _ (by simp)
  have i3 : Free K .gates := n _ (by simp)
  have i4 : Free K .memories := n _ (by simp)
  have i5 : Free K .paddock := n _ (by simp)
  have i6 : Free K .regs := n _ (by simp)
  have i7 : Free K .report := n _ (by simp)
  have i8 : Free K .time := n _ (by simp)
  have i9 : Free K .xings := n _ (by simp)
  have hk0 := Keeps.refl (K := K) s
  apply macOp_keeps
  exact hk0

theorem execPmpEnable_keeps (q : Req) (p : Fin 8) (v : Word) (s : State) :
    Answers [.client, .counters, .regs, .report] s (execPmpEnable q p v s) := by
  refine answers_of fun K n => ⟨_, rfl, ?_⟩
  have i0 : Free K .client := n _ (by simp)
  have i1 : Free K .counters := n _ (by simp)
  have i2 : Free K .regs := n _ (by simp)
  have i3 : Free K .report := n _ (by simp)
  have hk0 := Keeps.refl (K := K) s
  apply guardW_keeps
  · exact hk0
  · intro y0 hy1
    apply pmpWrite_keeps
    exact hy1

theorem execVerifyTimeout_keeps (p : Fin 8) (s : State) :
    Answers [.client, .counters, .regs, .report] s (execVerifyTimeout p s) := by
  refine answers_of fun K n => ⟨_, rfl, ?_⟩
  have i0 : Free K .client := n _ (by simp)
  have i1 : Free K .counters := n _ (by simp)
  have i2 : Free K .regs := n _ (by simp)
  have i3 : Free K .report := n _ (by simp)
  have hk0 := Keeps.refl (K := K) s
  apply pmpTimeout_keeps
  exact hk0

end Sys2Proof.Machine
end

