-- ==== Sys2Proof/Laws/KeepsChip.lean ====
section
/-! SUPPORT. What the operations of Machine/Chip.lean keep. -/

-- One proof at a time: in the package as one text, proofs that wait for each other would each hold a thread.
set_option Elab.async false

namespace Sys2Proof.Machine

variable {K : Comp → Prop}

theorem faultLines_keeps {s0 s : State} (hk0 : Keeps K s0 s) [Free K .counters] [Free K .regs] [Free K .report] [∀ x, Free K (.line x)] :
    Keeps K s0 (State.faultLines s) := by
  unfold State.faultLines
  refine keeps_ite ?_ ?_
  · exact hk0
  · extract_lets +onlyGivenNames s1_0
    refine keeps_cut (v := s1_0) ?_ fun hs1_0 => ?_
    · subst s1_0
      refine keeps_ite ?_ ?_
      · exact hk0
      · apply faultSide_keeps
        exact hk0
    clear_value s1_0
    refine keeps_ite ?_ ?_
    · exact hs1_0
    · apply faultSide_keeps
      exact hs1_0

theorem chipFault_keeps {s0 s : State} (hk0 : Keeps K s0 s) (cause region block info : Nat) [Free K .counters] [Free K .regs] [Free K .report] [Free K .resets] [∀ x, Free K (.line x)] :
    Keeps K s0 (State.chipFault s cause region block info) := by
  unfold State.chipFault
  refine keeps_ite ?_ ?_
  · apply faultLines_keeps
    apply setFlag_keeps
    exact hk0
  · extract_lets +onlyGivenNames w_0
    clear_value w_0
    extract_lets +onlyGivenNames s1_1
    refine keeps_cut (v := s1_1) ?_ fun hs1_1 => ?_
    · subst s1_1
      apply setReg_keeps
      apply setReg_keeps
      apply setReg_keeps
      apply setReg_keeps
      exact hk0
    clear_value s1_1
    extract_lets +onlyGivenNames s2_2
    refine keeps_cut (v := s2_2) ?_ fun hs2_2 => ?_
    · subst s2_2
      refine keeps_mk ?_
      exact hs1_1
    clear_value s2_2
    apply raise_keeps
    apply faultLines_keeps
    exact hs2_2

theorem faultClear_keeps {s0 s : State} (hk0 : Keeps K s0 s) (v : Word) [Free K .regs] [Free K .resets] :
    Keeps K s0 (State.faultClear s v) := by
  unfold State.faultClear
  refine keeps_ite ?_ ?_
  · extract_lets +onlyGivenNames s1_0
    refine keeps_cut (v := s1_0) ?_ fun hs1_0 => ?_
    · subst s1_0
      apply setReg_keeps
      apply setReg_keeps
      apply setReg_keeps
      apply setReg_keeps
      exact hk0
    clear_value s1_0
    refine keeps_mk ?_
    exact hs1_0
  · exact hk0

theorem blockCrossings_keeps {s0 s : State} (h : Keeps K s0 s) (r : Nat) (l : List Nat) [Free K .circuits] [Free K .counters] [Free K .memories] [Free K .paddock] [Free K .regs] [Free K .report] [Free K .xings] : Keeps K s0 (s.blockCrossings r l) := by
  induction l generalizing s with
  | nil => exact h
  | cons i l ih => exact ih (keeps_ite (xLeave_keeps (xReset_keeps h ..) ..) h)

theorem blockReset_keeps {s0 s : State} (hk0 : Keeps K s0 s) (r block inst src info : Nat) (xngs : List Nat) [Free K .circuits] [Free K .counters] [Free K .memories] [Free K .paddock] [Free K .regs] [Free K .report] [Free K .resets] [Free K .xings] [∀ x, Free K (.line x)] :
    Keeps K s0 (State.blockReset s r block inst src info xngs) := by
  unfold State.blockReset
  extract_lets +onlyGivenNames k_0
  clear_value k_0
  extract_lets +onlyGivenNames last1
  clear_value last1
  extract_lets +onlyGivenNames s1_2
  refine keeps_cut (v := s1_2) ?_ fun hs1_2 => ?_
  · subst s1_2
    apply raise_keeps
    exact hk0
  clear_value s1_2
  extract_lets +onlyGivenNames s2_3
  refine keeps_cut (v := s2_3) ?_ fun hs2_3 => ?_
  · subst s2_3
    refine keeps_mk ?_
    exact hs1_2
  clear_value s2_3
  extract_lets +onlyGivenNames s3_4
  refine keeps_cut (v := s3_4) ?_ fun hs3_4 => ?_
  · subst s3_4
    apply blockCrossings_keeps
    exact hs2_3
  clear_value s3_4
  refine keeps_ite ?_ ?_
  · apply chipFault_keeps
    exact hs3_4
  · exact hs3_4

theorem cellQuar_keeps {s0 s : State} (hk0 : Keeps K s0 s) (k : Nat) [Free K .resets] :
    Keeps K s0 (State.cellQuar s k) := by
  unfold State.cellQuar
  refine keeps_mk ?_
  exact hk0

theorem cellFaultOp_keeps {s0 s : State} (hk0 : Keeps K s0 s) (r block inst src info : Nat) (resolved quarOk : Bool) (xngs : List Nat) [Free K .circuits] [Free K .counters] [Free K .memories] [Free K .paddock] [Free K .regs] [Free K .report] [Free K .resets] [Free K .xings] [∀ x, Free K (.line x)] :
    Keeps K s0 (State.cellFaultOp s r block inst src info resolved quarOk xngs) := by
  unfold State.cellFaultOp
  extract_lets +onlyGivenNames s1_0
  refine keeps_cut (v := s1_0) ?_ fun hs1_0 => ?_
  · subst s1_0
    apply raise_keeps
    exact hk0
  clear_value s1_0
  refine keeps_ite ?_ ?_
  · exact hs1_0
  · extract_lets +onlyGivenNames s2_1
    refine keeps_cut (v := s2_1) ?_ fun hs2_1 => ?_
    · subst s2_1
      apply raise_keeps
      exact hs1_0
    clear_value s2_1
    refine keeps_ite ?_ ?_
    · apply cellQuar_keeps
      exact hs2_1
    · apply blockReset_keeps
      exact hs2_1

theorem setTeam_keeps {s0 s : State} (hk0 : Keeps K s0 s) (t : Nat) (v : Team) [Free K .teams] :
    Keeps K s0 (State.setTeam s t v) := by
  unfold State.setTeam
  refine keeps_mk ?_
  exact hk0

theorem gaitTeam_keeps {s0 s : State} (hk0 : Keeps K s0 s) (t n : Nat) [Free K .counters] [Free K .regs] [Free K .report] [Free K .teams] :
    Keeps K s0 (State.gaitTeam s t n) := by
  unfold State.gaitTeam
  extract_lets +onlyGivenNames i_0
  clear_value i_0
  extract_lets +onlyGivenNames s1_1
  refine keeps_cut (v := s1_1) ?_ fun hs1_1 => ?_
  · subst s1_1
    apply setF_keeps
    exact hk0
  clear_value s1_1
  extract_lets +onlyGivenNames floor2
  clear_value floor2
  extract_lets +onlyGivenNames below3
  clear_value below3
  extract_lets +onlyGivenNames s2_4
  refine keeps_cut (v := s2_4) ?_ fun hs2_4 => ?_
  · subst s2_4
    apply raiseIf_keeps
    exact hs1_1
  clear_value s2_4
  apply setTeam_keeps
  exact hs2_4

theorem gaitFloorWrite_keeps {s0 s : State} (hk0 : Keeps K s0 s) (t : Nat) (v : Word) [Free K .regs] [Free K .teams] :
    Keeps K s0 (State.gaitFloorWrite s t v) := by
  unfold State.gaitFloorWrite
  apply setTeam_keeps
  apply setReg_keeps
  exact hk0

theorem xTimeoutOnce_keeps {s0 s : State} (hk0 : Keeps K s0 s) (i part : Nat) [Free K .circuits] [Free K .client] [Free K .counters] [Free K .memories] [Free K .paddock] [Free K .regs] [Free K .report] [Free K .xings] :
    Keeps K s0 (State.xTimeoutOnce s i part) := by
  unfold State.xTimeoutOnce
  extract_lets +onlyGivenNames w_0
  clear_value w_0
  extract_lets +onlyGivenNames s_1
  refine keeps_cut (v := s_1) ?_ fun hs_1 => ?_
  · subst s_1
    refine keeps_ite ?_ ?_
    · apply modCli_keeps
      exact hk0
    · exact hk0
  clear_value s_1
  extract_lets +onlyGivenNames d_2
  refine keeps_cut (v := d_2.2) ?_ fun hd_2 => ?_
  · subst d_2
    apply xDiscard_keeps
    apply xCut_keeps
    exact hs_1
  clear_value d_2
  apply raise_keeps
  apply setFlag_keeps
  apply addReg_keeps
  apply addReg_keeps
  exact hd_2

theorem xTimeout_keeps {s0 s : State} (hk0 : Keeps K s0 s) (i part : Nat) [Free K .circuits] [Free K .client] [Free K .counters] [Free K .memories] [Free K .paddock] [Free K .regs] [Free K .report] [Free K .resets] [Free K .xings] :
    Keeps K s0 (State.xTimeout s i part) := by
  unfold State.xTimeout
  refine keeps_ite ?_ ?_
  · exact hk0
  · extract_lets +onlyGivenNames s1_0
    refine keeps_cut (v := s1_0) ?_ fun hs1_0 => ?_
    · subst s1_0
      apply xTimeoutOnce_keeps
      exact hk0
    clear_value s1_0
    extract_lets +onlyGivenNames old_1
    clear_value old_1
    extract_lets +onlyGivenNames s2_2
    clear_value s2_2
    extract_lets +onlyGivenNames s2_3
    refine keeps_cut (v := s2_3) ?_ fun hs2_3 => ?_
    · subst s2_3
      apply setXing_keeps
      exact hs1_0
    clear_value s2_3
    refine keeps_ite ?_ ?_
    · exact hs2_3
    · apply cellQuar_keeps
      apply raise_keeps
      apply raise_keeps
      exact hs2_3

theorem execCellFault_keeps (_cell : CellKind) (region : Fin 9) (block inst src : Nat) (info : Word) (resolved quarOk : Bool) (xngs : List (Fin 30)) (s : State) :
    Answers [.circuits, .counters, .memories, .paddock, .regs, .report, .resets, .xings, .line .a, .line .b] s (execCellFault _cell region block inst src info resolved quarOk xngs s) := by
  refine answers_of fun K n => ⟨_, rfl, ?_⟩
  have i0 : Free K .circuits := n _ (by simp)
  have i1 : Free K .counters := n _ (by simp)
  have i2 : Free K .memories := n _ (by simp)
  have i3 : Free K .paddock := n _ (by simp)
  have i4 : Free K .regs := n _ (by simp)
  have i5 : Free K .report := n _ (by simp)
  have i6 : Free K .resets := n _ (by simp)
  have i7 : Free K .xings := n _ (by simp)
  have i8 : ∀ x, Free K (.line x) := fun x => by cases x <;> exact n _ (by simp)
  have hk0 := Keeps.refl (K := K) s
  apply cellFaultOp_keeps
  exact hk0

theorem execBlockResetTimeout_keeps (region : Fin 9) (block _inst : Nat) (info : Word) (s : State) :
    Answers [.counters, .regs, .report, .resets, .line .a, .line .b] s (execBlockResetTimeout region block _inst info s) := by
  refine answers_of fun K n => ⟨_, rfl, ?_⟩
  have i0 : Free K .counters := n _ (by simp)
  have i1 : Free K .regs := n _ (by simp)
  have i2 : Free K .report := n _ (by simp)
  have i3 : Free K .resets := n _ (by simp)
  have i4 : ∀ x, Free K (.line x) := fun x => by cases x <;> exact n _ (by simp)
  have hk0 := Keeps.refl (K := K) s
  apply chipFault_keeps
  exact hk0

theorem execFaultRecordClear_keeps (q : Req) (v : Word) (s : State) :
    Answers [.counters, .regs, .report, .resets] s (execFaultRecordClear q v s) := by
  refine answers_of fun K n => ⟨_, rfl, ?_⟩
  have i0 : Free K .counters := n _ (by simp)
  have i1 : Free K .regs := n _ (by simp)
  have i2 : Free K .report := n _ (by simp)
  have i3 : Free K .resets := n _ (by simp)
  have hk0 := Keeps.refl (K := K) s
  apply guardW_keeps
  · exact hk0
  · intro y0 hy1
    apply faultClear_keeps
    exact hy1

theorem gaitNext_keeps {s0 s : State} (hk0 : Keeps K s0 s) [Free K .time] :
    Keeps K s0 (State.gaitNext s) := by
  unfold State.gaitNext
  apply modTm_keeps
  · exact hk0
  · intro y0
    rfl

theorem execGaitWindowEnd_keeps (trips : List Nat) (s : State) :
    Answers [.counters, .regs, .report, .teams, .time] s (execGaitWindowEnd trips s) := by
  refine answers_of fun K n => ⟨_, rfl, ?_⟩
  have i0 : Free K .counters := n _ (by simp)
  have i1 : Free K .regs := n _ (by simp)
  have i2 : Free K .report := n _ (by simp)
  have i3 : Free K .teams := n _ (by simp)
  have i4 : Free K .time := n _ (by simp)
  have hk0 := Keeps.refl (K := K) s
  refine keeps_ite ?_ ?_
  · refine keeps_foldl _ ?_ ?_
    · apply gaitNext_keeps
      exact hk0
    · intro y0 y1 hy2
      apply gaitTeam_keeps
      exact hy2
  · exact hk0

theorem execCrossingResync_keeps (i : Fin 30) (s : State) :
    Answers [.regs, .xings] s (execCrossingResync i s) := by
  refine answers_of fun K n => ⟨_, rfl, ?_⟩
  have i0 : Free K .regs := n _ (by simp)
  have i1 : Free K .xings := n _ (by simp)
  have hk0 := Keeps.refl (K := K) s
  apply xSynced_keeps
  exact hk0

theorem execCrossingTimeout_keeps (i : Fin 30) (part : Nat) (s : State) :
    Answers [.circuits, .client, .counters, .memories, .paddock, .regs, .report, .resets, .xings] s (execCrossingTimeout i part s) := by
  refine answers_of fun K n => ⟨_, rfl, ?_⟩
  have i0 : Free K .circuits := n _ (by simp)
  have i1 : Free K .client := n _ (by simp)
  have i2 : Free K .counters := n _ (by simp)
  have i3 : Free K .memories := n _ (by simp)
  have i4 : Free K .paddock := n _ (by simp)
  have i5 : Free K .regs := n _ (by simp)
  have i6 : Free K .report := n _ (by simp)
  have i7 : Free K .resets := n _ (by simp)
  have i8 : Free K .xings := n _ (by simp)
  have hk0 := Keeps.refl (K := K) s
  apply xTimeout_keeps
  exact hk0

theorem execCrossingRefusalEnd_keeps (i : Fin 30) (s : State) :
    Answers [.regs] s (execCrossingRefusalEnd i s) := by
  refine answers_of fun K n => ⟨_, rfl, ?_⟩
  have i0 : Free K .regs := n _ (by simp)
  have hk0 := Keeps.refl (K := K) s
  apply setFlag_keeps
  exact hk0

end Sys2Proof.Machine
end

