-- ==== Sys2Proof/Laws/KeepsCircuits.lean ====
section
/-! SUPPORT. What the operations of Machine/Circuits.lean keep. -/

-- One proof at a time: in the package as one text, proofs that wait for each other would each hold a thread.
set_option Elab.async false

namespace Sys2Proof.Machine

variable {K : Comp → Prop}

theorem harW_keeps {s0 s : State} (h : Keeps K s0 s) (k : State → State) (hk : ∀ t, Keeps K s0 t → Keeps K s0 (k t)) :
    Keeps K s0 (s.harW k) := keeps_ite h (hk s h)

theorem harPlace_keeps {s0 s : State} (hk0 : Keeps K s0 s) (b : Nat) (later : Bool) [Free K .circuits] [Free K .counters] [Free K .regs] [Free K .report] :
    Keeps K s0 (State.harPlace s b later) := by
  unfold State.harPlace
  extract_lets +onlyGivenNames x_0
  clear_value x_0
  extract_lets +onlyGivenNames s1_1
  refine keeps_cut (v := s1_1) ?_ fun hs1_1 => ?_
  · subst s1_1
    apply modHar_keeps
    exact hk0
  clear_value s1_1
  apply raise_keeps
  apply setFlag_keeps
  exact hs1_1

theorem harWant_keeps {s0 s : State} (hk0 : Keeps K s0 s) [Free K .circuits] :
    Keeps K s0 (State.harWant s) := by
  unfold State.harWant
  apply modHar_keeps
  exact hk0

theorem associate_keeps {s0 s : State} (hk0 : Keeps K s0 s) (x : Side) (h : Nat) [Free K .circuits] [Free K .counters] [Free K .regs] [Free K .report] :
    Keeps K s0 (State.associate s x h) := by
  unfold State.associate
  extract_lets +onlyGivenNames r_0
  clear_value r_0
  extract_lets +onlyGivenNames s1_1
  refine keeps_cut (v := s1_1) ?_ fun hs1_1 => ?_
  · subst s1_1
    split
    · apply modHar_keeps
      exact hk0
    · apply modHar_keeps
      exact hk0
  clear_value s1_1
  extract_lets +onlyGivenNames s2_2
  refine keeps_cut (v := s2_2) ?_ fun hs2_2 => ?_
  · subst s2_2
    split
    · apply setReg_keeps
      exact hs1_1
    · apply setFlag_keeps
      exact hs1_1
  clear_value s2_2
  refine keeps_ite ?_ ?_
  · apply raise_keeps
    apply bump_keeps
    exact hs2_2
  · exact hs2_2

theorem dsFillCount_keeps {s0 s : State} (hk0 : Keeps K s0 s) (h : Nat) [Free K .counters] [Free K .free] :
    Keeps K s0 (State.dsFillCount s h) := by
  unfold State.dsFillCount
  extract_lets +onlyGivenNames page0
  clear_value page0
  extract_lets +onlyGivenNames fills1
  clear_value fills1
  extract_lets +onlyGivenNames a_2
  clear_value a_2
  extract_lets +onlyGivenNames b_3
  clear_value b_3
  extract_lets +onlyGivenNames none34
  clear_value none34
  extract_lets +onlyGivenNames r_5
  refine keeps_cut (v := r_5.2) ?_ fun hr_5 => ?_
  · subst r_5
    apply takeFree_keeps
    exact hk0
  clear_value r_5
  extract_lets +onlyGivenNames s1_6
  refine keeps_cut (v := s1_6) ?_ fun hs1_6 => ?_
  · subst s1_6
    refine keeps_ite ?_ ?_
    · exact hk0
    · exact hr_5
  clear_value s1_6
  apply bump_keeps
  apply bump_keeps
  exact hs1_6

theorem harTxEnd_keeps {s0 s : State} (hk0 : Keeps K s0 s) (h : Nat) [Free K .circuits] :
    Keeps K s0 (State.harTxEnd s h) := by
  unfold State.harTxEnd
  extract_lets +onlyGivenNames b_0
  clear_value b_0
  extract_lets +onlyGivenNames k_1
  clear_value k_1
  refine keeps_ite ?_ ?_
  · exact hk0
  · apply modHar_keeps
    exact hk0

theorem usCopy_keeps {s0 s : State} (hk0 : Keeps K s0 s) (h : Nat) [Free K .circuits] [Free K .counters] [Free K .regs] [Free K .report] :
    Keeps K s0 (State.usCopy s h) := by
  unfold State.usCopy
  split
  · extract_lets +onlyGivenNames rows0
    clear_value rows0
    apply raise_keeps
    apply bump_keeps
    apply modHar_keeps
    exact hk0
  · extract_lets +onlyGivenNames skip1
    clear_value skip1
    extract_lets +onlyGivenNames s1_2
    refine keeps_cut (v := s1_2) ?_ fun hs1_2 => ?_
    · subst s1_2
      apply setF_keeps
      apply modHar_keeps
      exact hk0
    clear_value s1_2
    refine keeps_ite ?_ ?_
    · apply raise_keeps
      apply bump_keeps
      exact hs1_2
    · exact hs1_2

theorem pageExchange_keeps {s0 s : State} (hk0 : Keeps K s0 s) (us : Bool) [Free K .regs] :
    Keeps K s0 (State.pageExchange s us) := by
  unfold State.pageExchange
  extract_lets +onlyGivenNames sb_0
  clear_value sb_0
  extract_lets +onlyGivenNames ac_1
  clear_value ac_1
  extract_lets +onlyGivenNames ps_2
  clear_value ps_2
  extract_lets +onlyGivenNames pa_3
  clear_value pa_3
  extract_lets +onlyGivenNames clear4
  subst clear4
  extract_lets +onlyGivenNames fill5
  subst fill5
  dsimp only
  refine keeps_foldl _ ?_ ?_
  · refine keeps_foldl _ ?_ ?_
    · refine keeps_foldl _ ?_ ?_
      · refine keeps_foldl _ ?_ ?_
        · exact hk0
        · intro y6 y7 hy8
          apply setReg_keeps
          exact hy8
      · intro y9 y10 hy11
        apply setReg_keeps
        exact hy11
    · intro y12 y13 hy14
      apply setReg_keeps
      exact hy14
  · intro y15 y16 hy17
    apply setReg_keeps
    exact hy17

theorem swapTake_keeps {s0 s : State} (hk0 : Keeps K s0 s) (ds us forced : Bool) (bd bu : Nat) [Free K .circuits] [Free K .counters] [Free K .regs] [Free K .report] :
    Keeps K s0 (State.swapTake s ds us forced bd bu) := by
  unfold State.swapTake
  extract_lets +onlyGivenNames late0
  clear_value late0
  extract_lets +onlyGivenNames s1_1
  refine keeps_cut (v := s1_1) ?_ fun hs1_1 => ?_
  · subst s1_1
    refine keeps_ite ?_ ?_
    · apply bump_keeps
      apply setFlag_keeps
      apply pageExchange_keeps
      apply modHar_keeps
      exact hk0
    · exact hk0
  clear_value s1_1
  extract_lets +onlyGivenNames s2_2
  refine keeps_cut (v := s2_2) ?_ fun hs2_2 => ?_
  · subst s2_2
    refine keeps_ite ?_ ?_
    · apply bump_keeps
      apply setFlag_keeps
      apply pageExchange_keeps
      apply modHar_keeps
      exact hs1_1
    · exact hs1_1
  clear_value s2_2
  extract_lets +onlyGivenNames dups3
  clear_value dups3
  extract_lets +onlyGivenNames s3_4
  refine keeps_cut (v := s3_4) ?_ fun hs3_4 => ?_
  · subst s3_4
    refine keeps_ite ?_ ?_
    · exact hs2_2
    · apply raise_keeps
      apply setFlag_keeps
      exact hs2_2
  clear_value s3_4
  apply raise_keeps
  exact hs3_4

theorem swapBoundary_keeps {s0 s : State} (hk0 : Keeps K s0 s) (b : Nat) [Free K .circuits] [Free K .counters] [Free K .regs] [Free K .report] :
    Keeps K s0 (State.swapBoundary s b) := by
  unfold State.swapBoundary
  extract_lets +onlyGivenNames ds_0
  clear_value ds_0
  extract_lets +onlyGivenNames us_1
  clear_value us_1
  extract_lets +onlyGivenNames ok_2
  clear_value ok_2
  extract_lets +onlyGivenNames s1_3
  refine keeps_cut (v := s1_3) ?_ fun hs1_3 => ?_
  · subst s1_3
    apply modHar_keeps
    exact hk0
  clear_value s1_3
  extract_lets +onlyGivenNames td_4
  clear_value td_4
  extract_lets +onlyGivenNames tu_5
  clear_value tu_5
  refine keeps_ite ?_ ?_
  · apply swapTake_keeps
    exact hs1_3
  · exact hs1_3

theorem swapRequest_keeps {s0 s : State} (hk0 : Keeps K s0 s) (us : Bool) [Free K .circuits] [Free K .regs] :
    Keeps K s0 (State.swapRequest s us) := by
  unfold State.swapRequest
  extract_lets +onlyGivenNames fl_0
  clear_value fl_0
  refine keeps_ite ?_ ?_
  · exact hk0
  · apply modHar_keeps
    apply setFlag_keeps
    exact hk0

theorem swapForce_keeps {s0 s : State} (hk0 : Keeps K s0 s) [Free K .circuits] :
    Keeps K s0 (State.swapForce s) := by
  unfold State.swapForce
  apply modHar_keeps
  exact hk0

theorem cktCtrlWrite_keeps {s0 s : State} (hk0 : Keeps K s0 s) (v : Word) [Free K .circuits] [Free K .regs] :
    Keeps K s0 (State.cktCtrlWrite s v) := by
  unfold State.cktCtrlWrite
  extract_lets +onlyGivenNames s1_0
  refine keeps_cut (v := s1_0) ?_ fun hs1_0 => ?_
  · subst s1_0
    refine keeps_ite ?_ ?_
    · apply swapRequest_keeps
      exact hk0
    · exact hk0
  clear_value s1_0
  extract_lets +onlyGivenNames s2_1
  refine keeps_cut (v := s2_1) ?_ fun hs2_1 => ?_
  · subst s2_1
    refine keeps_ite ?_ ?_
    · apply swapRequest_keeps
      exact hs1_0
    · exact hs1_0
  clear_value s2_1
  extract_lets +onlyGivenNames s3_2
  refine keeps_cut (v := s3_2) ?_ fun hs3_2 => ?_
  · subst s3_2
    refine keeps_ite ?_ ?_
    · apply swapForce_keeps
      exact hs2_1
    · exact hs2_1
  clear_value s3_2
  refine keeps_ite ?_ ?_
  · apply harWant_keeps
    exact hs3_2
  · exact hs3_2

theorem cmWrite_keeps {s0 s : State} (hk0 : Keeps K s0 s) (us : Bool) (h : Nat) (v : Word) [Free K .counters] [Free K .regs] [Free K .report] :
    Keeps K s0 (State.cmWrite s us h v) := by
  unfold State.cmWrite
  refine keeps_ite ?_ ?_
  · apply raise_keeps
    apply setFlag_keeps
    exact hk0
  · apply setReg_keeps
    exact hk0

theorem harBoundary_keeps {s0 s : State} (hk0 : Keeps K s0 s) (h : Nat) [Free K .circuits] [Free K .counters] [Free K .free] [Free K .regs] [Free K .report] :
    Keeps K s0 (State.harBoundary s h) := by
  unfold State.harBoundary
  extract_lets +onlyGivenNames al_0
  clear_value al_0
  extract_lets +onlyGivenNames train1
  clear_value train1
  extract_lets +onlyGivenNames s0_2
  refine keeps_cut (v := s0_2) ?_ fun hs0_2 => ?_
  · subst s0_2
    apply harTxEnd_keeps
    exact hk0
  clear_value s0_2
  extract_lets +onlyGivenNames s1_3
  refine keeps_cut (v := s1_3) ?_ fun hs1_3 => ?_
  · subst s1_3
    apply modHar_keeps
    exact hs0_2
  clear_value s1_3
  extract_lets +onlyGivenNames s2_4
  refine keeps_cut (v := s2_4) ?_ fun hs2_4 => ?_
  · subst s2_4
    refine keeps_ite ?_ ?_
    · apply swapTake_keeps
      exact hs1_3
    · exact hs1_3
  clear_value s2_4
  apply usCopy_keeps
  apply dsFillCount_keeps
  apply associate_keeps
  apply associate_keeps
  exact hs2_4

theorem execHarnessFrameBoundary_keeps (s : State) :
    Answers [.circuits, .counters, .free, .regs, .report] s (execHarnessFrameBoundary s) := by
  refine answers_of fun K n => ⟨_, rfl, ?_⟩
  have i0 : Free K .circuits := n _ (by simp)
  have i1 : Free K .counters := n _ (by simp)
  have i2 : Free K .free := n _ (by simp)
  have i3 : Free K .regs := n _ (by simp)
  have i4 : Free K .report := n _ (by simp)
  have hk0 := Keeps.refl (K := K) s
  refine keeps_ite ?_ ?_
  · apply harBoundary_keeps
    exact hk0
  · exact hk0

theorem execHarnessAlign_keeps (s : State) :
    Answers [.circuits, .counters, .regs, .report] s (execHarnessAlign s) := by
  refine answers_of fun K n => ⟨_, rfl, ?_⟩
  have i0 : Free K .circuits := n _ (by simp)
  have i1 : Free K .counters := n _ (by simp)
  have i2 : Free K .regs := n _ (by simp)
  have i3 : Free K .report := n _ (by simp)
  have hk0 := Keeps.refl (K := K) s
  refine keeps_ite ?_ ?_
  · apply harPlace_keeps
    exact hk0
  · exact hk0

theorem execHarRealign_keeps (q : Req) (s : State) :
    Answers [.circuits, .counters, .regs, .report] s (execHarRealign q s) := by
  refine answers_of fun K n => ⟨_, rfl, ?_⟩
  have i0 : Free K .circuits := n _ (by simp)
  have i1 : Free K .counters := n _ (by simp)
  have i2 : Free K .regs := n _ (by simp)
  have i3 : Free K .report := n _ (by simp)
  have hk0 := Keeps.refl (K := K) s
  apply guardW_keeps
  · exact hk0
  · intro y0 hy1
    apply harW_keeps
    · exact hy1
    · intro y2 hy3
      apply harWant_keeps
      exact hy3

theorem execSwapDs_keeps (q : Req) (s : State) :
    Answers [.circuits, .counters, .regs, .report] s (execSwapDs q s) := by
  refine answers_of fun K n => ⟨_, rfl, ?_⟩
  have i0 : Free K .circuits := n _ (by simp)
  have i1 : Free K .counters := n _ (by simp)
  have i2 : Free K .regs := n _ (by simp)
  have i3 : Free K .report := n _ (by simp)
  have hk0 := Keeps.refl (K := K) s
  apply guardW_keeps
  · exact hk0
  · intro y0 hy1
    apply harW_keeps
    · exact hy1
    · intro y2 hy3
      apply swapRequest_keeps
      exact hy3

theorem execSwapUs_keeps (q : Req) (s : State) :
    Answers [.circuits, .counters, .regs, .report] s (execSwapUs q s) := by
  refine answers_of fun K n => ⟨_, rfl, ?_⟩
  have i0 : Free K .circuits := n _ (by simp)
  have i1 : Free K .counters := n _ (by simp)
  have i2 : Free K .regs := n _ (by simp)
  have i3 : Free K .report := n _ (by simp)
  have hk0 := Keeps.refl (K := K) s
  apply guardW_keeps
  · exact hk0
  · intro y0 hy1
    apply harW_keeps
    · exact hy1
    · intro y2 hy3
      apply swapRequest_keeps
      exact hy3

theorem execCktForce_keeps (q : Req) (s : State) :
    Answers [.circuits, .counters, .regs, .report] s (execCktForce q s) := by
  refine answers_of fun K n => ⟨_, rfl, ?_⟩
  have i0 : Free K .circuits := n _ (by simp)
  have i1 : Free K .counters := n _ (by simp)
  have i2 : Free K .regs := n _ (by simp)
  have i3 : Free K .report := n _ (by simp)
  have hk0 := Keeps.refl (K := K) s
  apply guardW_keeps
  · exact hk0
  · intro y0 hy1
    apply harW_keeps
    · exact hy1
    · intro y2 hy3
      apply swapForce_keeps
      exact hy3

theorem execPageSwap_keeps (s : State) :
    Answers [.circuits, .counters, .regs, .report] s (execPageSwap s) := by
  refine answers_of fun K n => ⟨_, rfl, ?_⟩
  have i0 : Free K .circuits := n _ (by simp)
  have i1 : Free K .counters := n _ (by simp)
  have i2 : Free K .regs := n _ (by simp)
  have i3 : Free K .report := n _ (by simp)
  have hk0 := Keeps.refl (K := K) s
  refine keeps_ite ?_ ?_
  · apply swapBoundary_keeps
    exact hk0
  · exact hk0

theorem execCmStandbyWrite_keeps (q : Req) (us : Bool) (h : Fin 3776) (v : Word) (s : State) :
    Answers [.counters, .regs, .report] s (execCmStandbyWrite q us h v s) := by
  refine answers_of fun K n => ⟨_, rfl, ?_⟩
  have i0 : Free K .counters := n _ (by simp)
  have i1 : Free K .regs := n _ (by simp)
  have i2 : Free K .report := n _ (by simp)
  have hk0 := Keeps.refl (K := K) s
  apply guardW_keeps
  · exact hk0
  · intro y0 hy1
    apply harW_keeps
    · exact hy1
    · intro y2 hy3
      apply cmWrite_keeps
      exact hy3

end Sys2Proof.Machine
end

