-- ==== Sys2Proof/Laws/KeepsHarness.lean ====
section
/-! SUPPORT. What the operations of Machine/Harness.lean keep. -/

-- One proof at a time: in the package as one text, proofs that wait for each other would each hold a thread.
set_option Elab.async false

namespace Sys2Proof.Machine

variable {K : Comp → Prop}

theorem setLaneBit_keeps {s0 s : State} (hk0 : Keeps K s0 s) (F : Fld) (n : Nat) (b : Bool) [Free K .regs] :
    Keeps K s0 (State.setLaneBit s F n b) := by
  unfold State.setLaneBit
  apply setF_keeps
  exact hk0

theorem linkEval_keeps {s0 s : State} (hk0 : Keeps K s0 s) [Free K .counters] [Free K .regs] [Free K .report] :
    Keeps K s0 (State.linkEval s) := by
  unfold State.linkEval
  extract_lets +onlyGivenNames up_0
  extract_lets +onlyGivenNames was_1
  clear_value was_1
  apply raiseIf_keeps
  apply setFlag_keeps
  apply setFlag_keeps
  exact hk0

theorem eyeWrite_keeps {s0 s : State} (hk0 : Keeps K s0 s) (v : Word) [Free K .circuits] [Free K .regs] :
    Keeps K s0 (State.eyeWrite s v) := by
  unfold State.eyeWrite
  extract_lets +onlyGivenNames s1_0
  refine keeps_cut (v := s1_0) ?_ fun hs1_0 => ?_
  · subst s1_0
    refine keeps_ite ?_ ?_
    · apply setFlag_keeps
      exact hk0
    · exact hk0
  clear_value s1_0
  extract_lets +onlyGivenNames s2_1
  refine keeps_cut (v := s2_1) ?_ fun hs2_1 => ?_
  · subst s2_1
    apply setF_keeps
    apply setF_keeps
    exact hs1_0
  clear_value s2_1
  refine keeps_ite ?_ ?_
  · extract_lets +onlyGivenNames s3_2
    refine keeps_cut (v := s3_2) ?_ fun hs3_2 => ?_
    · subst s3_2
      refine keeps_mem ?_ ?_ ?_ ?_ ?_ ?_ ?_
      · exact hs2_1
      · exact fun m => swf_sdrop _ m
      · exact id
      · exact id
      · exact id
      · exact id
      · exact id
    clear_value s3_2
    apply modHar_keeps
    apply setFlag_keeps
    exact hs3_2
  · exact hs2_1

theorem eyeFill_keeps {s0 s : State} (h : Keeps K s0 s) (k : Nat) (l : List Nat) [Free K .regs] : Keeps K s0 (s.eyeFill k l) := by
  induction l generalizing s k with
  | nil => exact h
  | cons n l ih =>
    unfold State.eyeFill
    exact keeps_ite h (ih (setReg_keeps h ..) _)

theorem eyeEnd_keeps {s0 s : State} (hk0 : Keeps K s0 s) (points : List Nat) [Free K .counters] [Free K .regs] [Free K .report] :
    Keeps K s0 (State.eyeEnd s points) := by
  unfold State.eyeEnd
  refine keeps_ite ?_ ?_
  · exact hk0
  · extract_lets +onlyGivenNames s1_0
    refine keeps_cut (v := s1_0) ?_ fun hs1_0 => ?_
    · subst s1_0
      apply setFlag_keeps
      apply setFlag_keeps
      apply eyeFill_keeps
      exact hk0
    clear_value s1_0
    apply raise_keeps
    exact hs1_0

theorem eyeReached_keeps {s0 s : State} (h : Keeps K s0 s) (n : Nat) [Free K .free] : Keeps K s0 (s.eyeReached n).2 := by
  induction n generalizing s with
  | zero => exact h
  | succ n ih => exact ih (takeFree_keeps h _)

theorem eyeLost_keeps {s0 s : State} (hk0 : Keeps K s0 s) (n : Nat) [Free K .counters] [Free K .free] [Free K .regs] [Free K .report] :
    Keeps K s0 (State.eyeLost s n) := by
  unfold State.eyeLost
  refine keeps_ite ?_ ?_
  · extract_lets +onlyGivenNames r_0
    refine keeps_cut (v := r_0.2) ?_ fun hr_0 => ?_
    · subst r_0
      apply eyeReached_keeps
      exact hk0
    clear_value r_0
    apply eyeEnd_keeps
    exact hr_0
  · exact hk0

theorem laneDown_keeps {s0 st : State} (hk0 : Keeps K s0 st) (n : Nat) [Free K .circuits] [Free K .counters] [Free K .free] [Free K .regs] [Free K .report] :
    Keeps K s0 (State.laneDown st n) := by
  unfold State.laneDown
  extract_lets +onlyGivenNames s_0
  refine keeps_cut (v := s_0) ?_ fun hs_0 => ?_
  · subst s_0
    apply eyeLost_keeps
    exact hk0
  clear_value s_0
  apply modHar_keeps
  apply setFlag_keeps
  apply setLaneBit_keeps
  exact hs_0

theorem laneRetrain_keeps {s0 s : State} (hk0 : Keeps K s0 s) (n : Nat) [Free K .circuits] [Free K .counters] :
    Keeps K s0 (State.laneRetrain s n) := by
  unfold State.laneRetrain
  apply bump_keeps
  apply modHar_keeps
  exact hk0

theorem lanesDown_keeps {s0 s : State} (hk0 : Keeps K s0 s) [Free K .circuits] [Free K .counters] [Free K .free] [Free K .regs] [Free K .report] :
    Keeps K s0 (State.lanesDown s) := by
  unfold State.lanesDown
  apply modHar_keeps
  apply setF_keeps
  refine keeps_foldl _ ?_ ?_
  · exact hk0
  · intro y0 y1 hy2
    apply laneDown_keeps
    exact hy2

theorem trainStart_keeps {s0 s : State} (hk0 : Keeps K s0 s) [Free K .circuits] [Free K .counters] [Free K .free] [Free K .regs] [Free K .report] :
    Keeps K s0 (State.trainStart s) := by
  unfold State.trainStart
  extract_lets +onlyGivenNames s1_0
  refine keeps_cut (v := s1_0) ?_ fun hs1_0 => ?_
  · subst s1_0
    apply modHar_keeps
    apply setFlag_keeps
    apply setF_keeps
    apply lanesDown_keeps
    exact hk0
  clear_value s1_0
  apply linkEval_keeps
  refine keeps_foldl _ ?_ ?_
  · exact hs1_0
  · intro y1 y2 hy3
    apply setF_keeps
    exact hy3

theorem harStop_keeps {s0 s : State} (hk0 : Keeps K s0 s) [Free K .circuits] [Free K .counters] [Free K .free] [Free K .regs] [Free K .report] :
    Keeps K s0 (State.harStop s) := by
  unfold State.harStop
  extract_lets +onlyGivenNames s1_0
  refine keeps_cut (v := s1_0) ?_ fun hs1_0 => ?_
  · subst s1_0
    apply setFlag_keeps
    apply setFlag_keeps
    apply setFlag_keeps
    apply setF_keeps
    apply lanesDown_keeps
    exact hk0
  clear_value s1_0
  apply resRelease_keeps
  apply linkEval_keeps
  apply modHar_keeps
  apply setFlag_keeps
  exact hs1_0

theorem harCfgWrite_keeps {s0 s : State} (hk0 : Keeps K s0 s) (q : Req) (v : Word) [Free K .circuits] [Free K .counters] [Free K .free] [Free K .regs] [Free K .report] :
    Keeps K s0 (State.harCfgWrite s q v) := by
  unfold State.harCfgWrite
  extract_lets +onlyGivenNames on_0
  clear_value on_0
  refine keeps_ite ?_ ?_
  · refine keeps_ite ?_ ?_
    · apply resConflict_keeps
      exact hk0
    · exact hk0
  · refine keeps_ite ?_ ?_
    · apply resConflict_keeps
      exact hk0
    · extract_lets +onlyGivenNames s_1
      refine keeps_cut (v := s_1) ?_ fun hs_1 => ?_
      · subst s_1
        apply setF_keeps
        exact hk0
      clear_value s_1
      refine keeps_ite ?_ ?_
      · extract_lets +onlyGivenNames s1_2
        refine keeps_cut (v := s1_2) ?_ fun hs1_2 => ?_
        · subst s1_2
          apply trainStart_keeps
          apply setFlag_keeps
          apply resTake_keeps
          exact hs_1
        clear_value s1_2
        refine keeps_ite ?_ ?_
        · apply harPlace_keeps
          exact hs1_2
        · apply harWant_keeps
          exact hs1_2
      · refine keeps_ite ?_ ?_
        · apply harStop_keeps
          exact hs_1
        · exact hs_1

theorem laneAlignOp_keeps {s0 s : State} (hk0 : Keeps K s0 s) (n lane skew : Nat) [Free K .circuits] [Free K .counters] [Free K .free] [Free K .regs] [Free K .report] :
    Keeps K s0 (State.laneAlignOp s n lane skew) := by
  unfold State.laneAlignOp
  refine keeps_ite ?_ ?_
  · exact hk0
  · extract_lets +onlyGivenNames dup_0
    clear_value dup_0
    extract_lets +onlyGivenNames up_1
    subst up_1
    split
    · apply linkEval_keeps
      dsimp only
      apply modHar_keeps
      apply setReg_keeps
      apply setLaneBit_keeps
      exact hk0
    · refine keeps_ite ?_ ?_
      · apply raise_keeps
        exact hk0
      · apply linkEval_keeps
        apply raise_keeps
        dsimp only
        apply modHar_keeps
        apply setReg_keeps
        apply setLaneBit_keeps
        apply laneDown_keeps
        exact hk0

theorem laneLoss_keeps {s0 s : State} (hk0 : Keeps K s0 s) (n : Nat) (alignment : Bool) [Free K .circuits] [Free K .counters] [Free K .free] [Free K .regs] [Free K .report] :
    Keeps K s0 (State.laneLoss s n alignment) := by
  unfold State.laneLoss
  refine keeps_ite ?_ ?_
  · exact hk0
  · extract_lets +onlyGivenNames s1_0
    refine keeps_cut (v := s1_0) ?_ fun hs1_0 => ?_
    · subst s1_0
      refine keeps_ite ?_ ?_
      · exact hk0
      · apply setLaneBit_keeps
        exact hk0
    clear_value s1_0
    apply linkEval_keeps
    apply laneRetrain_keeps
    apply raise_keeps
    apply laneDown_keeps
    exact hs1_0

theorem laneRetrainFail_keeps {s0 s : State} (hk0 : Keeps K s0 s) (n : Nat) [Free K .circuits] [Free K .counters] [Free K .free] [Free K .memories] [Free K .paddock] [Free K .regs] [Free K .report] [Free K .resets] [Free K .xings] [∀ x, Free K (.line x)] :
    Keeps K s0 (State.laneRetrainFail s n) := by
  unfold State.laneRetrainFail
  refine keeps_ite ?_ ?_
  · exact hk0
  · extract_lets +onlyGivenNames fails0
    clear_value fails0
    extract_lets +onlyGivenNames s1_1
    refine keeps_cut (v := s1_1) ?_ fun hs1_1 => ?_
    · subst s1_1
      apply setF_keeps
      exact hk0
    clear_value s1_1
    refine keeps_ite ?_ ?_
    · apply laneRetrain_keeps
      exact hs1_1
    · extract_lets +onlyGivenNames s2_2
      refine keeps_cut (v := s2_2) ?_ fun hs2_2 => ?_
      · subst s2_2
        apply setLaneBit_keeps
        apply laneDown_keeps
        apply modHar_keeps
        exact hs1_1
      clear_value s2_2
      extract_lets +onlyGivenNames s3_3
      refine keeps_cut (v := s3_3) ?_ fun hs3_3 => ?_
      · subst s3_3
        apply raise_keeps
        apply raise_keeps
        apply setLaneBit_keeps
        exact hs2_2
      clear_value s3_3
      refine keeps_ite ?_ ?_
      · apply trainStart_keeps
        apply blockReset_keeps
        exact hs3_3
      · apply linkEval_keeps
        exact hs3_3

theorem rxckDetect_keeps {s0 s : State} (hk0 : Keeps K s0 s) [Free K .circuits] [Free K .counters] [Free K .regs] [Free K .report] :
    Keeps K s0 (State.rxckDetect s) := by
  unfold State.rxckDetect
  refine keeps_ite ?_ ?_
  · exact hk0
  · extract_lets +onlyGivenNames s1_0
    refine keeps_cut (v := s1_0) ?_ fun hs1_0 => ?_
    · subst s1_0
      apply setFlag_keeps
      exact hk0
    clear_value s1_0
    refine keeps_ite ?_ ?_
    · apply raise_keeps
      refine keeps_foldl _ ?_ ?_
      · apply modHar_keeps
        exact hs1_0
      · intro y1 y2 hy3
        refine keeps_ite ?_ ?_
        · exact hy3
        · apply laneRetrain_keeps
          exact hy3
    · exact hs1_0

theorem rxckLoss_keeps {s0 s : State} (hk0 : Keeps K s0 s) [Free K .circuits] [Free K .counters] [Free K .free] [Free K .regs] [Free K .report] :
    Keeps K s0 (State.rxckLoss s) := by
  unfold State.rxckLoss
  refine keeps_ite ?_ ?_
  · exact hk0
  · apply raise_keeps
    apply linkEval_keeps
    apply modHar_keeps
    apply setFlag_keeps
    apply lanesDown_keeps
    exact hk0

theorem rxEnd_keeps {s0 s : State} (hk0 : Keeps K s0 s) [Free K .circuits] :
    Keeps K s0 (State.rxEnd s) := by
  unfold State.rxEnd
  apply modHar_keeps
  exact hk0

theorem rowStore_keeps {s0 s : State} (hk0 : Keeps K s0 s) (n r : Nat) (data : List Byte) [Free K .circuits] :
    Keeps K s0 (State.rowStore s n r data) := by
  unfold State.rowStore
  extract_lets +onlyGivenNames k_0
  clear_value k_0
  extract_lets +onlyGivenNames s0_1
  refine keeps_cut (v := s0_1) ?_ fun hs0_1 => ?_
  · subst s0_1
    refine keeps_ite ?_ ?_
    · apply rxEnd_keeps
      exact hk0
    · exact hk0
  clear_value s0_1
  extract_lets +onlyGivenNames s1_2
  refine keeps_cut (v := s1_2) ?_ fun hs1_2 => ?_
  · subst s1_2
    apply modHar_keeps
    exact hs0_1
  clear_value s1_2
  extract_lets +onlyGivenNames all_3
  clear_value all_3
  refine keeps_ite ?_ ?_
  · apply rxEnd_keeps
    exact hs1_2
  · exact hs1_2

theorem rowTake_keeps {s0 s : State} (hk0 : Keeps K s0 s) (n oh : Nat) (data : List Byte) [Free K .circuits] [Free K .counters] [Free K .free] [Free K .regs] [Free K .report] :
    Keeps K s0 (State.rowTake s n oh data) := by
  unfold State.rowTake
  extract_lets +onlyGivenNames crcOk0
  clear_value crcOk0
  extract_lets +onlyGivenNames next1
  clear_value next1
  extract_lets +onlyGivenNames row_2
  clear_value row_2
  refine keeps_ite ?_ ?_
  · extract_lets +onlyGivenNames b_3
    clear_value b_3
    extract_lets +onlyGivenNames diff4
    clear_value diff4
    extract_lets +onlyGivenNames s2_5
    refine keeps_cut (v := s2_5) ?_ fun hs2_5 => ?_
    · subst s2_5
      apply modHar_keeps
      apply setFlag_keeps
      apply bump_keeps
      exact hk0
    clear_value s2_5
    apply rowStore_keeps
    exact hs2_5
  · extract_lets +onlyGivenNames k_6
    clear_value k_6
    refine keeps_ite ?_ ?_
    · apply laneLoss_keeps
      exact hk0
    · extract_lets +onlyGivenNames s2_7
      refine keeps_cut (v := s2_7) ?_ fun hs2_7 => ?_
      · subst s2_7
        apply modHar_keeps
        exact hk0
      clear_value s2_7
      refine keeps_ite ?_ ?_
      · exact hs2_7
      · apply rowStore_keeps
        exact hs2_7

theorem rowArrive_keeps {s0 s : State} (hk0 : Keeps K s0 s) (n : Nat) (row : List (BitVec 66)) [Free K .circuits] [Free K .counters] [Free K .free] [Free K .regs] [Free K .report] :
    Keeps K s0 (State.rowArrive s n row) := by
  unfold State.rowArrive
  refine keeps_ite ?_ ?_
  · exact hk0
  · extract_lets +onlyGivenNames z_0
    clear_value z_0
    extract_lets +onlyGivenNames bad_1
    clear_value bad_1
    extract_lets +onlyGivenNames w_2
    clear_value w_2
    extract_lets +onlyGivenNames oh_3
    clear_value oh_3
    extract_lets +onlyGivenNames s1_4
    refine keeps_cut (v := s1_4) ?_ fun hs1_4 => ?_
    · subst s1_4
      apply modHar_keeps
      apply bumpIf_keeps
      apply bump_keeps
      apply bump_keeps
      exact hk0
    clear_value s1_4
    refine keeps_ite ?_ ?_
    · apply laneLoss_keeps
      exact hs1_4
    · refine keeps_ite ?_ ?_
      · apply rowTake_keeps
        exact hs1_4
      · exact hs1_4

theorem blockLock_keeps {s0 s : State} (hk0 : Keeps K s0 s) (n : Nat) [Free K .circuits] [Free K .free] [Free K .regs] :
    Keeps K s0 (State.blockLock s n) := by
  unfold State.blockLock
  extract_lets +onlyGivenNames r_0
  refine keeps_cut (v := r_0.2) ?_ fun hr_0 => ?_
  · subst r_0
    apply takeFree_keeps
    exact hk0
  clear_value r_0
  extract_lets +onlyGivenNames re_1
  clear_value re_1
  apply modHar_keeps
  apply setLaneBit_keeps
  refine keeps_ite ?_ ?_
  · exact hr_0
  · exact hk0

theorem rowSlipOp_keeps {s0 s : State} (hk0 : Keeps K s0 s) (n : Nat) (drop : Bool) (r : Nat) [Free K .circuits] [Free K .counters] [Free K .regs] [Free K .report] :
    Keeps K s0 (State.rowSlipOp s n drop r) := by
  unfold State.rowSlipOp
  refine keeps_ite ?_ ?_
  · exact hk0
  · extract_lets +onlyGivenNames k_0
    clear_value k_0
    apply raiseLim_keeps
    apply bump_keeps
    apply modHar_keeps
    exact hk0

theorem execHarnessEnable_keeps (q : Req) (v : Word) (s : State) :
    Answers [.circuits, .counters, .free, .regs, .report] s (execHarnessEnable q v s) := by
  refine answers_of fun K n => ⟨_, rfl, ?_⟩
  have i0 : Free K .circuits := n _ (by simp)
  have i1 : Free K .counters := n _ (by simp)
  have i2 : Free K .free := n _ (by simp)
  have i3 : Free K .regs := n _ (by simp)
  have i4 : Free K .report := n _ (by simp)
  have hk0 := Keeps.refl (K := K) s
  apply guardW_keeps
  · exact hk0
  · intro y0 hy1
    apply harCfgWrite_keeps
    exact hy1

theorem execHarnessRxckDetect_keeps (s : State) :
    Answers [.circuits, .counters, .regs, .report] s (execHarnessRxckDetect s) := by
  refine answers_of fun K n => ⟨_, rfl, ?_⟩
  have i0 : Free K .circuits := n _ (by simp)
  have i1 : Free K .counters := n _ (by simp)
  have i2 : Free K .regs := n _ (by simp)
  have i3 : Free K .report := n _ (by simp)
  have hk0 := Keeps.refl (K := K) s
  apply rxckDetect_keeps
  exact hk0

theorem execLaneBlockLock_keeps (n : Fin 8) (s : State) :
    Answers [.circuits, .free, .regs] s (execLaneBlockLock n s) := by
  refine answers_of fun K n => ⟨_, rfl, ?_⟩
  have i0 : Free K .circuits := n _ (by simp)
  have i1 : Free K .free := n _ (by simp)
  have i2 : Free K .regs := n _ (by simp)
  have hk0 := Keeps.refl (K := K) s
  refine keeps_ite ?_ ?_
  · apply blockLock_keeps
    exact hk0
  · exact hk0

theorem execHarnessTxTrainEnd_keeps (s : State) :
    Answers [.regs] s (execHarnessTxTrainEnd s) := by
  refine answers_of fun K n => ⟨_, rfl, ?_⟩
  have i0 : Free K .regs := n _ (by simp)
  have hk0 := Keeps.refl (K := K) s
  apply setFlag_keeps
  exact hk0

theorem execLaneAlign_keeps (n lane : Fin 8) (skew : Fin 256) (s : State) :
    Answers [.circuits, .counters, .free, .regs, .report] s (execLaneAlign n lane skew s) := by
  refine answers_of fun K n => ⟨_, rfl, ?_⟩
  have i0 : Free K .circuits := n _ (by simp)
  have i1 : Free K .counters := n _ (by simp)
  have i2 : Free K .free := n _ (by simp)
  have i3 : Free K .regs := n _ (by simp)
  have i4 : Free K .report := n _ (by simp)
  have hk0 := Keeps.refl (K := K) s
  apply laneAlignOp_keeps
  exact hk0

theorem execLaneLockLoss_keeps (n : Fin 8) (alignment : Bool) (s : State) :
    Answers [.circuits, .counters, .free, .regs, .report] s (execLaneLockLoss n alignment s) := by
  refine answers_of fun K n => ⟨_, rfl, ?_⟩
  have i0 : Free K .circuits := n _ (by simp)
  have i1 : Free K .counters := n _ (by simp)
  have i2 : Free K .free := n _ (by simp)
  have i3 : Free K .regs := n _ (by simp)
  have i4 : Free K .report := n _ (by simp)
  have hk0 := Keeps.refl (K := K) s
  apply laneLoss_keeps
  exact hk0

theorem execLaneRetrainTimeout_keeps (n : Fin 8) (s : State) :
    Answers [.circuits, .counters, .free, .memories, .paddock, .regs, .report, .resets, .xings, .line .a, .line .b] s (execLaneRetrainTimeout n s) := by
  refine answers_of fun K n => ⟨_, rfl, ?_⟩
  have i0 : Free K .circuits := n _ (by simp)
  have i1 : Free K .counters := n _ (by simp)
  have i2 : Free K .free := n _ (by simp)
  have i3 : Free K .memories := n _ (by simp)
  have i4 : Free K .paddock := n _ (by simp)
  have i5 : Free K .regs := n _ (by simp)
  have i6 : Free K .report := n _ (by simp)
  have i7 : Free K .resets := n _ (by simp)
  have i8 : Free K .xings := n _ (by simp)
  have i9 : ∀ x, Free K (.line x) := fun x => by cases x <;> exact n _ (by simp)
  have hk0 := Keeps.refl (K := K) s
  apply laneRetrainFail_keeps
  exact hk0

theorem execHarRetrain_keeps (q : Req) (s : State) :
    Answers [.circuits, .counters, .free, .regs, .report] s (execHarRetrain q s) := by
  refine answers_of fun K n => ⟨_, rfl, ?_⟩
  have i0 : Free K .circuits := n _ (by simp)
  have i1 : Free K .counters := n _ (by simp)
  have i2 : Free K .free := n _ (by simp)
  have i3 : Free K .regs := n _ (by simp)
  have i4 : Free K .report := n _ (by simp)
  have hk0 := Keeps.refl (K := K) s
  apply guardW_keeps
  · exact hk0
  · intro y0 hy1
    apply harW_keeps
    · exact hy1
    · intro y2 hy3
      refine keeps_ite ?_ ?_
      · apply trainStart_keeps
        exact hy3
      · exact hy3

theorem execHarnessRxckLoss_keeps (s : State) :
    Answers [.circuits, .counters, .free, .regs, .report] s (execHarnessRxckLoss s) := by
  refine answers_of fun K n => ⟨_, rfl, ?_⟩
  have i0 : Free K .circuits := n _ (by simp)
  have i1 : Free K .counters := n _ (by simp)
  have i2 : Free K .free := n _ (by simp)
  have i3 : Free K .regs := n _ (by simp)
  have i4 : Free K .report := n _ (by simp)
  have hk0 := Keeps.refl (K := K) s
  apply rxckLoss_keeps
  exact hk0

theorem execRowSlip_keeps (n : Fin 8) (drop : Bool) (row : Fin 810) (s : State) :
    Answers [.circuits, .counters, .regs, .report] s (execRowSlip n drop row s) := by
  refine answers_of fun K n => ⟨_, rfl, ?_⟩
  have i0 : Free K .circuits := n _ (by simp)
  have i1 : Free K .counters := n _ (by simp)
  have i2 : Free K .regs := n _ (by simp)
  have i3 : Free K .report := n _ (by simp)
  have hk0 := Keeps.refl (K := K) s
  apply rowSlipOp_keeps
  exact hk0

theorem execEyeScanStart_keeps (q : Req) (v : Word) (s : State) :
    Answers [.circuits, .counters, .regs, .report] s (execEyeScanStart q v s) := by
  refine answers_of fun K n => ⟨_, rfl, ?_⟩
  have i0 : Free K .circuits := n _ (by simp)
  have i1 : Free K .counters := n _ (by simp)
  have i2 : Free K .regs := n _ (by simp)
  have i3 : Free K .report := n _ (by simp)
  have hk0 := Keeps.refl (K := K) s
  apply guardW_keeps
  · exact hk0
  · intro y0 hy1
    apply harW_keeps
    · exact hy1
    · intro y2 hy3
      apply eyeWrite_keeps
      exact hy3

theorem execEyeScanDone_keeps (points : List Nat) (s : State) :
    Answers [.counters, .regs, .report] s (execEyeScanDone points s) := by
  refine answers_of fun K n => ⟨_, rfl, ?_⟩
  have i0 : Free K .counters := n _ (by simp)
  have i1 : Free K .regs := n _ (by simp)
  have i2 : Free K .report := n _ (by simp)
  have hk0 := Keeps.refl (K := K) s
  apply eyeEnd_keeps
  exact hk0

theorem execHarnessRowReceive_keeps (n : Fin 8) (row : List (BitVec 66)) (s : State) :
    Answers [.circuits, .counters, .free, .regs, .report] s (execHarnessRowReceive n row s) := by
  refine answers_of fun K n => ⟨_, rfl, ?_⟩
  have i0 : Free K .circuits := n _ (by simp)
  have i1 : Free K .counters := n _ (by simp)
  have i2 : Free K .free := n _ (by simp)
  have i3 : Free K .regs := n _ (by simp)
  have i4 : Free K .report := n _ (by simp)
  have hk0 := Keeps.refl (K := K) s
  apply rowArrive_keeps
  exact hk0

end Sys2Proof.Machine
end

