-- ==== Sys2Proof/Laws/KeepsMemory.lean ====
section
/-! SUPPORT. What the operations of Machine/Memory.lean keep. -/

-- One proof at a time: in the package as one text, proofs that wait for each other would each hold a thread.
set_option Elab.async false

namespace Sys2Proof.Machine

variable {K : Comp → Prop}

theorem setTraining_keeps {s0 s : State} (hk0 : Keeps K s0 s) (c : Nat) (b : Bool) [Free K .memories] :
    Keeps K s0 (State.setTraining s c b) := by
  unfold State.setTraining
  apply modMem_keeps
  exact hk0

theorem chFail_keeps {s0 s : State} (hk0 : Keeps K s0 s) (c cause : Nat) [Free K .counters] [Free K .memories] [Free K .regs] [Free K .report] :
    Keeps K s0 (State.chFail s c cause) := by
  unfold State.chFail
  apply raise_keeps
  apply setF_keeps
  apply setFlag_keeps
  apply setTraining_keeps
  exact hk0

theorem chTrain_keeps {s0 s : State} (hk0 : Keeps K s0 s) (c : Nat) [Free K .counters] [Free K .memories] [Free K .regs] [Free K .report] :
    Keeps K s0 (State.chTrain s c) := by
  unfold State.chTrain
  refine keeps_ite ?_ ?_
  · apply chFail_keeps
    exact hk0
  · apply setTraining_keeps
    exact hk0

theorem spillLose_keeps {s0 s : State} (h : Keeps K s0 s) (n : Nat) (l : List Frame) [Free K .free] : Keeps K s0 (s.spillLose n l).2 := by
  induction l generalizing s with
  | nil => exact h
  | cons f l ih =>
    unfold State.spillLose
    exact keeps_ite2 (ih h) (ih (takeFree_keeps h _))

theorem dramDrop_keeps {s0 s : State} (h : Keeps K s0 s) (p : Nat → Bool) [Free K .dram] : Keeps K s0 { s with dram := sdrop p s.dram } :=
  h.of_parts rfl rfl id id id id id id (fun m => swf_sdrop p m) id id id

theorem dramForget_keeps {s0 s : State} (h : Keeps K s0 s) (c : Nat) [Free K .dram] [Free K .memories] : Keeps K s0 (s.dramForget c) := by
  unfold State.dramForget
  extract_lets p s1
  exact modMem_keeps (dramDrop_keeps h p) _

theorem queuesLose_keeps {s0 s : State} (hk0 : Keeps K s0 s) (n : Nat) [Free K .free] [Free K .regs] [Free K .sched] :
    Keeps K s0 (State.queuesLose s n) := by
  unfold State.queuesLose
  refine keeps_foldl _ ?_ ?_
  · exact hk0
  · intro y0 y1 hy2
    extract_lets +onlyGivenNames r_3
    refine keeps_cut (v := r_3.2) ?_ fun hr_3 => ?_
    · subst r_3
      apply spillLose_keeps
      exact hy2
    clear_value r_3
    apply setQue_keeps
    exact hr_3

theorem spillWrite_keeps {s0 s : State} (hk0 : Keeps K s0 s) (k : Nat) (v : Word) [Free K .regs] :
    Keeps K s0 (State.spillWrite s k v) := by
  unfold State.spillWrite
  extract_lets +onlyGivenNames m_0
  clear_value m_0
  extract_lets +onlyGivenNames s1_1
  refine keeps_cut (v := s1_1) ?_ fun hs1_1 => ?_
  · subst s1_1
    apply setReg_keeps
    exact hk0
  clear_value s1_1
  extract_lets +onlyGivenNames bad_2
  clear_value bad_2
  refine keeps_ite ?_ ?_
  · apply setFlag_keeps
    exact hk0
  · exact hs1_1

theorem spareSet_keeps {s0 s : State} (hk0 : Keeps K s0 s) (x : Spare) [Free K .memories] :
    Keeps K s0 (State.spareSet s x) := by
  unfold State.spareSet
  apply modMem_keeps
  exact hk0

theorem swf_puts {α : Type} (l : List α) (k : α → Nat) (v : α → Byte) {d : SMap Byte} (h : swf (fun _ => 0) d = true) :
    swf (fun _ => 0) (l.foldl (fun d x => sset (fun _ => 0) d (k x) (v x)) d) = true := by
  induction l generalizing d with
  | nil => exact h
  | cons x l ih => exact ih (swf_sset h _ _)

theorem linePut_keeps {s0 s : State} (h : Keeps K s0 s) (c line : Nat) (x : Spare) [Free K .dram] [Free K .memories] : Keeps K s0 (s.linePut c line x) := by
  unfold State.linePut
  extract_lets d s1
  have h1 : Keeps K s0 s1 := h.of_parts rfl rfl id id id id id id (fun m => swf_puts _ _ _ m) id id id
  exact modMem_keeps h1 _

theorem lineServe_keeps {s0 s : State} (hk0 : Keeps K s0 s) (c line : Nat) (was now : Option Nat) [Free K .dram] [Free K .memories] :
    Keeps K s0 (State.lineServe s c line was now) := by
  unfold State.lineServe
  refine keeps_ite ?_ ?_
  · exact hk0
  · extract_lets +onlyGivenNames s1_0
    refine keeps_cut (v := s1_0) ?_ fun hs1_0 => ?_
    · subst s1_0
      apply spareSet_keeps
      exact hk0
    clear_value s1_0
    apply modMem_keeps
    apply linePut_keeps
    exact hs1_0

theorem mapMove_keeps {s0 s : State} (h : Keeps K s0 s) (chip : Bool) (unit e new : Nat) (f : State → State)
    (hf : ∀ t, Keeps K s0 t → Keeps K s0 (f t)) [Free K .counters] [Free K .dram] [Free K .memories] [Free K .regs] : Keeps K s0 (s.mapMove chip unit e new f) := by
  unfold State.mapMove
  refine keeps_ite (hf s h) ?_
  extract_lets w old st z s1 s2
  have h1 : Keeps K s0 s1 := by
    refine keeps_ite ?_ (hf s h)
    have hz : Keeps K s0 z := spareSet_keeps (hf s h) _
    exact ddrWr_keeps (ddrRd_keeps (keeps_ite (flipUsed_keeps hz) hz) _) _
  have h2 : Keeps K s0 s2 := lineServe_keeps h1 ..
  clear_value s2
  exact keeps_ite h2 (lineServe_keeps h2 ..)

theorem mapUse_keeps {s0 s : State} (hk0 : Keeps K s0 s) (chip : Bool) (unit e addr : Nat) (auto : Bool) [Free K .counters] [Free K .dram] [Free K .memories] [Free K .regs] [Free K .report] :
    Keeps K s0 (State.mapUse s chip unit e addr auto) := by
  unfold State.mapUse
  extract_lets +onlyGivenNames w_0
  clear_value w_0
  apply raise_keeps
  apply bump_keeps
  apply mapMove_keeps
  · exact hk0
  · intro y1 hy2
    apply setReg_keeps
    exact hy2

theorem mapAuto_keeps {s0 s : State} (hk0 : Keeps K s0 s) (chip : Bool) (unit addr : Nat) [Free K .counters] [Free K .dram] [Free K .memories] [Free K .regs] [Free K .report] :
    Keeps K s0 (State.mapAuto s chip unit addr) := by
  unfold State.mapAuto
  split
  · apply mapUse_keeps
    exact hk0
  · apply raise_keeps
    exact hk0

theorem mapWrite_keeps {s0 s : State} (hk0 : Keeps K s0 s) (chip : Bool) (unit e : Nat) (v : Word) [Free K .counters] [Free K .dram] [Free K .memories] [Free K .regs] [Free K .report] :
    Keeps K s0 (State.mapWrite s chip unit e v) := by
  unfold State.mapWrite
  extract_lets +onlyGivenNames a_0
  clear_value a_0
  extract_lets +onlyGivenNames addr1
  clear_value addr1
  extract_lets +onlyGivenNames was_2
  clear_value was_2
  extract_lets +onlyGivenNames put_3
  subst put_3
  refine keeps_ite ?_ ?_
  · dsimp only
    apply mapMove_keeps
    · exact hk0
    · intro y4 hy5
      apply setReg_keeps
      exact hy5
  · refine keeps_ite ?_ ?_
    · dsimp only
      apply mapMove_keeps
      · exact hk0
      · intro y6 hy7
        apply setReg_keeps
        exact hy7
    · apply mapUse_keeps
      exact hk0

theorem hardWord_keeps {s0 s : State} (hk0 : Keeps K s0 s) (chip : Bool) (unit word : Nat) [Free K .counters] [Free K .dram] [Free K .memories] [Free K .regs] [Free K .report] :
    Keeps K s0 (State.hardWord s chip unit word) := by
  unfold State.hardWord
  extract_lets +onlyGivenNames s1_0
  refine keeps_cut (v := s1_0) ?_ fun hs1_0 => ?_
  · subst s1_0
    apply bump_keeps
    exact hk0
  clear_value s1_0
  refine keeps_ite ?_ ?_
  · apply mapAuto_keeps
    exact hs1_0
  · exact hs1_0

theorem writeBack_keeps {s0 s : State} (hk0 : Keeps K s0 s) (chip : Bool) (unit word key : Nat) (cancelled hard : Bool) [Free K .counters] [Free K .dram] [Free K .memories] [Free K .regs] [Free K .report] :
    Keeps K s0 (State.writeBack s chip unit word key cancelled hard) := by
  unfold State.writeBack
  refine keeps_ite ?_ ?_
  · apply bump_keeps
    exact hk0
  · extract_lets +onlyGivenNames s1_0
    refine keeps_cut (v := s1_0) ?_ fun hs1_0 => ?_
    · subst s1_0
      refine keeps_ite ?_ ?_
      · exact hk0
      · apply ddrWr_keeps
        apply setMask_keeps
        exact hk0
    clear_value s1_0
    extract_lets +onlyGivenNames arm_1
    clear_value arm_1
    extract_lets +onlyGivenNames s2_2
    refine keeps_cut (v := s2_2) ?_ fun hs2_2 => ?_
    · subst s2_2
      refine keeps_ite ?_ ?_
      · apply flipUsed_keeps
        refine keeps_ite ?_ ?_
        · exact hs1_0
        · apply setMask_keeps
          exact hs1_0
      · exact hs1_0
    clear_value s2_2
    extract_lets +onlyGivenNames s3_3
    refine keeps_cut (v := s3_3) ?_ fun hs3_3 => ?_
    · subst s3_3
      refine keeps_ite ?_ ?_
      · exact hs2_2
      · apply ddrRd_keeps
        exact hs2_2
    clear_value s3_3
    refine keeps_ite ?_ ?_
    · apply hardWord_keeps
      exact hs3_3
    · exact hs3_3

theorem wordRight_keeps {s0 s : State} (hk0 : Keeps K s0 s) (a : Nat) [Free K .dram] [Free K .memories] :
    Keeps K s0 (State.wordRight s a) := by
  unfold State.wordRight
  extract_lets +onlyGivenNames w_0
  clear_value w_0
  extract_lets +onlyGivenNames bs_1
  clear_value bs_1
  apply modMem_keeps
  apply setMask_keeps
  apply dramWrite_keeps
  exact hk0

theorem eccOp_keeps {s0 s : State} (hk0 : Keeps K s0 s) (chip : Bool) (group addr cls req synd : Nat) (cancelled hard : Bool) [Free K .counters] [Free K .dram] [Free K .memories] [Free K .regs] [Free K .report] :
    Keeps K s0 (State.eccOp s chip group addr cls req synd cancelled hard) := by
  unfold State.eccOp
  refine keeps_ite ?_ ?_
  · apply writeBack_keeps
    apply memCe_keeps
    exact hk0
  · extract_lets +onlyGivenNames p_0
    clear_value p_0
    apply writeBack_keeps
    apply wordRight_keeps
    apply memCe_keeps
    exact hk0

theorem failWord_keeps {s0 s : State} (hk0 : Keeps K s0 s) (chip : Bool) (cls a synd : Nat) (ue cancelled hard : Bool) [Free K .counters] [Free K .dram] [Free K .memories] [Free K .regs] [Free K .report] :
    Keeps K s0 (State.failWord s chip cls a synd ue cancelled hard) := by
  unfold State.failWord
  extract_lets +onlyGivenNames g_0
  clear_value g_0
  extract_lets +onlyGivenNames w_1
  clear_value w_1
  refine keeps_ite ?_ ?_
  · apply eccOp_keeps
    exact hk0
  · refine keeps_ite ?_ ?_
    · apply memUe_keeps
      exact hk0
    · apply memUe_keeps
      exact hk0

theorem heldWord_keeps {s0 s : State} (hk0 : Keeps K s0 s) (cls a : Nat) [Free K .counters] [Free K .dram] [Free K .memories] [Free K .regs] [Free K .report] :
    Keeps K s0 (State.heldWord s cls a) := by
  unfold State.heldWord
  apply failWord_keeps
  exact hk0

theorem hiddenWord_keeps {s0 s : State} (hk0 : Keeps K s0 s) (chip : Bool) (cls a : Nat) (ue : Bool) [Free K .counters] [Free K .dram] [Free K .free] [Free K .memories] [Free K .regs] [Free K .report] :
    Keeps K s0 (State.hiddenWord s chip cls a ue) := by
  unfold State.hiddenWord
  extract_lets +onlyGivenNames y_0
  refine keeps_cut (v := y_0.2) ?_ fun hy_0 => ?_
  · subst y_0
    apply takeFree_keeps
    exact hk0
  clear_value y_0
  extract_lets +onlyGivenNames z_1
  refine keeps_cut (v := z_1.2) ?_ fun hz_1 => ?_
  · subst z_1
    apply takeFree_keeps
    exact hy_0
  clear_value z_1
  apply failWord_keeps
  exact hz_1

theorem dramMeet_keeps {s0 s : State} (hk0 : Keeps K s0 s) (cls a n : Nat) (stop : Option Nat) [Free K .counters] [Free K .dram] [Free K .free] [Free K .memories] [Free K .regs] [Free K .report] :
    Keeps K s0 (State.dramMeet s cls a n stop).2 := by
  unfold State.dramMeet
  extract_lets +onlyGivenNames m_0
  clear_value m_0
  extract_lets +onlyGivenNames fs_1
  clear_value fs_1
  extract_lets +onlyGivenNames s1_2
  refine keeps_cut (v := s1_2) ?_ fun hs1_2 => ?_
  · subst s1_2
    refine keeps_foldl _ ?_ ?_
    · exact hk0
    · intro y3 y4 hy5
      apply heldWord_keeps
      exact hy5
  clear_value s1_2
  split
  · refine keeps_pair ?_
    apply heldWord_keeps
    exact hs1_2
  · refine keeps_ite2 ?_ ?_
    · refine keeps_pair ?_
      apply hiddenWord_keeps
      exact hs1_2
    · refine keeps_pair ?_
      exact hs1_2

theorem scrubEvent_keeps {s0 s : State} (hk0 : Keeps K s0 s) (ring idx unit : Nat) (ue : Bool) [Free K .counters] [Free K .regs] [Free K .report] :
    Keeps K s0 (State.scrubEvent s ring idx unit ue) := by
  unfold State.scrubEvent
  apply raise_keeps
  exact hk0

theorem scrubOver_keeps {s0 s : State} (hk0 : Keeps K s0 s) (r : Nat) (d : Desc) (status : Nat) [Free K .counters] [Free K .regs] [Free K .report] [Free K .rings] :
    Keeps K s0 (State.scrubOver s r d status) := by
  unfold State.scrubOver
  apply scrubEvent_keeps
  apply jobAdd_keeps
  exact hk0

theorem scrubJobOp_keeps {s0 s : State} (hk0 : Keeps K s0 s) (r : Nat) (d : Desc) [Free K .counters] [Free K .regs] [Free K .report] [Free K .rings] :
    Keeps K s0 (State.scrubJobOp s r d) := by
  unfold State.scrubJobOp
  refine keeps_ite ?_ ?_
  · exact hk0
  · refine keeps_ite ?_ ?_
    · apply jobErr_keeps
      exact hk0
    · refine keeps_ite ?_ ?_
      · apply jobErr_keeps
        exact hk0
      · refine keeps_ite ?_ ?_
        · apply scrubOver_keeps
          exact hk0
        · refine keeps_ite ?_ ?_
          · apply scrubOver_keeps
            exact hk0
          · refine keeps_ite ?_ ?_
            · apply jobErr_keeps
              exact hk0
            · apply jobAdd_keeps
              exact hk0

theorem scrubFrame_keeps {s0 : State} {z : State.Scrub} (h : Keeps K s0 z.2) (unit first last : Nat) (all none : Bool) (f : Frame) [Free K .counters] [Free K .dram] [Free K .free] [Free K .memories] [Free K .regs] [Free K .report] :
    Keeps K s0 (State.scrubFrame unit first last all none f z).2.2 := by
  unfold State.scrubFrame
  split
  · exact h
  · extract_lets b w a ue s1
    have hb : Keeps K s0 b.2 := takeFree_keeps h _
    split
    · exact hb
    · exact hiddenWord_keeps (takeFree_keeps hb _) ..

theorem scrubFrames_keeps {s0 : State} {z : State.Scrub} (h : Keeps K s0 z.2) (unit first last : Nat) (all none : Bool)
    (fs : List Frame) [Free K .counters] [Free K .dram] [Free K .free] [Free K .memories] [Free K .regs] [Free K .report] : Keeps K s0 (State.scrubFrames unit first last all none fs z).2.2 := by
  induction fs generalizing z with
  | nil => exact h
  | cons f fs ih => exact ih (scrubFrame_keeps h ..)

theorem keeps_foldl2 {α β : Type} {s0 : State} {f : α × State → β → α × State} (l : List β) {z : α × State}
    (h : Keeps K s0 z.2) (hf : ∀ z x, Keeps K s0 z.2 → Keeps K s0 (f z x).2) : Keeps K s0 (l.foldl f z).2 := by
  induction l generalizing z with
  | nil => exact h
  | cons x l ih => exact ih (hf z x h)

theorem scrubStored_keeps {s0 : State} {z : State.Scrub} (h : Keeps K s0 z.2) (unit first last : Nat) (all none : Bool) [Free K .counters] [Free K .dram] [Free K .free] [Free K .memories] [Free K .pairing] [Free K .regs] [Free K .report] [Free K .sched] :
    Keeps K s0 (State.scrubStored unit first last all none z).2 := by
  unfold State.scrubStored
  extract_lets q h1
  have hq : Keeps K s0 q.2 := 
    keeps_foldl2 _ h fun t e ht => setQue_keeps (scrubFrames_keeps ht ..) ..
  exact keeps_pair (modPrt_keeps (scrubFrames_keeps hq ..) _)

theorem scrubWords_keeps {s0 s : State} (h : Keeps K s0 s) (j : Job) (n : Nat) (fails : List (Nat × Bool)) [Free K .counters] [Free K .dram] [Free K .free] [Free K .memories] [Free K .pairing] [Free K .regs] [Free K .report] [Free K .sched] :
    Keeps K s0 (s.scrubWords j n fails).2 := by
  unfold State.scrubWords
  refine keeps_ite2 h ?_
  extract_lets first last dram own held found s1 s2 all none
  have h1 : Keeps K s0 s1 := keeps_foldl _ (keeps_ite (ddrRd_keeps h _) h) fun t f ht => hiddenWord_keeps ht ..
  have h2 : Keeps K s0 s2 := keeps_foldl _ h1 fun t f ht => heldWord_keeps ht ..
  exact scrubStored_keeps h2 ..

theorem scrubClose_keeps {s0 s : State} (h : Keeps K s0 s) (j : Job) (n status : Nat) (fails : List (Nat × Bool)) [Free K .counters] [Free K .dram] [Free K .free] [Free K .memories] [Free K .pairing] [Free K .regs] [Free K .report] [Free K .rings] [Free K .sched] :
    Keeps K s0 (s.scrubClose j n status fails) :=
  scrubEvent_keeps (jobEnd_keeps (scrubWords_keeps h j n fails) ..) ..

theorem scrubCovered_keeps {s0 s : State} (hk0 : Keeps K s0 s) (j : Job) [Free K .free] :
    Keeps K s0 (State.scrubCovered s j).2 := by
  unfold State.scrubCovered
  extract_lets +onlyGivenNames c_0
  refine keeps_cut (v := c_0.2) ?_ fun hc_0 => ?_
  · subst c_0
    apply takeFree_keeps
    exact hk0
  clear_value c_0
  refine keeps_pair ?_
  exact hc_0

theorem scrubStop_keeps {s0 s : State} (hk0 : Keeps K s0 s) [Free K .counters] [Free K .dram] [Free K .free] [Free K .memories] [Free K .pairing] [Free K .regs] [Free K .report] [Free K .rings] [Free K .sched] :
    Keeps K s0 (State.scrubStop s) := by
  unfold State.scrubStop
  split
  · exact hk0
  · extract_lets +onlyGivenNames s1_0
    refine keeps_cut (v := s1_0.2) ?_ fun hs1_0 => ?_
    · subst s1_0
      apply scrubCovered_keeps
      exact hk0
    clear_value s1_0
    extract_lets +onlyGivenNames s1_1
    refine keeps_cut (v := s1_1) ?_ fun hs1_1 => ?_
    · subst s1_1
      refine keeps_ite ?_ ?_
      · apply scrubClose_keeps
        exact hs1_0
      · exact hk0
    clear_value s1_1
    refine keeps_foldl _ ?_ ?_
    · exact hs1_1
    · intro y2 y3 hy4
      apply scrubClose_keeps
      exact hy4

theorem scrubEnd_keeps {s0 s : State} (hk0 : Keeps K s0 s) (fails : List (Nat × Bool)) (stopped : Bool) [Free K .counters] [Free K .dram] [Free K .free] [Free K .memories] [Free K .pairing] [Free K .regs] [Free K .report] [Free K .rings] [Free K .sched] :
    Keeps K s0 (State.scrubEnd s fails stopped) := by
  unfold State.scrubEnd
  split
  · exact hk0
  · refine keeps_ite ?_ ?_
    · extract_lets +onlyGivenNames c_0
      refine keeps_cut (v := c_0.2) ?_ fun hc_0 => ?_
      · subst c_0
        apply scrubCovered_keeps
        exact hk0
      clear_value c_0
      apply scrubClose_keeps
      exact hc_0
    · apply scrubClose_keeps
      exact hk0

theorem chDown_keeps {s0 s : State} (hk0 : Keeps K s0 s) (c : Nat) [Free K .capture] [Free K .counters] [Free K .dram] [Free K .free] [Free K .memories] [Free K .paddock] [Free K .pairing] [Free K .regs] [Free K .report] [Free K .rings] [Free K .sched] :
    Keeps K s0 (State.chDown s c) := by
  unfold State.chDown
  refine keeps_ite ?_ ?_
  · apply setTraining_keeps
    exact hk0
  · apply capMemLost_keeps
    apply setFlag_keeps
    apply dramForget_keeps
    apply queuesLose_keeps
    apply scrubStop_keeps
    exact hk0

theorem chCfgWrite_keeps {s0 s : State} (hk0 : Keeps K s0 s) (c : Nat) (v : Word) [Free K .capture] [Free K .counters] [Free K .dram] [Free K .free] [Free K .memories] [Free K .paddock] [Free K .pairing] [Free K .regs] [Free K .report] [Free K .rings] [Free K .sched] :
    Keeps K s0 (State.chCfgWrite s c v) := by
  unfold State.chCfgWrite
  extract_lets +onlyGivenNames i_0
  clear_value i_0
  extract_lets +onlyGivenNames on_1
  clear_value on_1
  refine keeps_ite ?_ ?_
  · refine keeps_ite ?_ ?_
    · exact hk0
    · apply chDown_keeps
      apply setFlag_keeps
      exact hk0
  · extract_lets +onlyGivenNames s1_2
    refine keeps_cut (v := s1_2) ?_ fun hs1_2 => ?_
    · subst s1_2
      apply setReg_keeps
      exact hk0
    clear_value s1_2
    refine keeps_ite ?_ ?_
    · apply chTrain_keeps
      exact hs1_2
    · exact hs1_2

theorem chTrained_keeps {s0 s : State} (hk0 : Keeps K s0 s) (c : Nat) (fail : Option Nat) [Free K .counters] [Free K .free] [Free K .memories] [Free K .regs] [Free K .report] [Free K .sched] :
    Keeps K s0 (State.chTrained s c fail) := by
  unfold State.chTrained
  refine keeps_ite ?_ ?_
  · exact hk0
  · split
    · apply chFail_keeps
      exact hk0
    · extract_lets +onlyGivenNames i_0
      clear_value i_0
      extract_lets +onlyGivenNames s1_1
      refine keeps_cut (v := s1_1) ?_ fun hs1_1 => ?_
      · subst s1_1
        apply setF_keeps
        apply setF_keeps
        apply setTraining_keeps
        exact hk0
      clear_value s1_1
      refine keeps_ite ?_ ?_
      · apply chFail_keeps
        exact hk0
      · refine keeps_ite ?_ ?_
        · exact hs1_1
        · apply setFlag_keeps
          apply queuesLose_keeps
          exact hs1_1

theorem stestOne_keeps {s0 s : State} (hk0 : Keeps K s0 s) (x : StestFail) [Free K .capture] [Free K .counters] [Free K .dram] [Free K .free] [Free K .memories] [Free K .paddock] [Free K .pairing] [Free K .regs] [Free K .report] [Free K .rings] [Free K .sched] :
    Keeps K s0 (State.stestOne s x) := by
  unfold State.stestOne
  extract_lets +onlyGivenNames s1_0
  refine keeps_cut (v := s1_0) ?_ fun hs1_0 => ?_
  · subst s1_0
    apply setFlag_keeps
    exact hk0
  clear_value s1_0
  extract_lets +onlyGivenNames e_1
  subst e_1
  refine keeps_ite ?_ ?_
  · extract_lets +onlyGivenNames s2_2
    refine keeps_cut (v := s2_2) ?_ fun hs2_2 => ?_
    · subst s2_2
      apply satF_keeps
      exact hs1_0
    clear_value s2_2
    refine keeps_ite ?_ ?_
    · extract_lets +onlyGivenNames n_3
      clear_value n_3
      dsimp only
      apply raise_keeps
      apply modMem_keeps
      apply padTake_keeps
      exact hs2_2
    · dsimp only
      apply raise_keeps
      apply modMem_keeps
      exact hs2_2
  · extract_lets +onlyGivenNames c_4
    clear_value c_4
    extract_lets +onlyGivenNames m_5
    clear_value m_5
    extract_lets +onlyGivenNames s2_6
    refine keeps_cut (v := s2_6) ?_ fun hs2_6 => ?_
    · subst s2_6
      apply setFlag_keeps
      apply setF_keeps
      exact hs1_0
    clear_value s2_6
    dsimp only
    apply raise_keeps
    apply chDown_keeps
    exact hs2_6

theorem stest_keeps {s0 s : State} (hk0 : Keeps K s0 s) (fails : List StestFail) [Free K .capture] [Free K .counters] [Free K .dram] [Free K .free] [Free K .memories] [Free K .paddock] [Free K .pairing] [Free K .regs] [Free K .report] [Free K .rings] [Free K .sched] :
    Keeps K s0 (State.stest s fails) := by
  unfold State.stest
  refine keeps_foldl _ ?_ ?_
  · exact hk0
  · intro y0 y1 hy2
    apply stestOne_keeps
    exact hy2

theorem stestFree_keeps {s0 s : State} (hk0 : Keeps K s0 s) [Free K .free] :
    Keeps K s0 (State.stestFree s).2 := by
  unfold State.stestFree
  extract_lets +onlyGivenNames m_0
  refine keeps_cut (v := m_0.2) ?_ fun hm_0 => ?_
  · subst m_0
    apply takeFree_keeps
    exact hk0
  clear_value m_0
  extract_lets +onlyGivenNames c_1
  refine keeps_cut (v := c_1.2) ?_ fun hc_1 => ?_
  · subst c_1
    apply takeFree_keeps
    exact hm_0
  clear_value c_1
  refine keeps_pair ?_
  exact hc_1

theorem memModeW_keeps {s0 s : State} (hk0 : Keeps K s0 s) (v : Word) (fails : List StestFail) [Free K .capture] [Free K .counters] [Free K .dram] [Free K .free] [Free K .memories] [Free K .paddock] [Free K .pairing] [Free K .regs] [Free K .report] [Free K .rings] [Free K .sched] :
    Keeps K s0 (State.memModeW s v fails) := by
  unfold State.memModeW
  extract_lets +onlyGivenNames s1_0
  refine keeps_cut (v := s1_0) ?_ fun hs1_0 => ?_
  · subst s1_0
    refine keeps_ite ?_ ?_
    · apply setFlag_keeps
      exact hk0
    · exact hk0
  clear_value s1_0
  extract_lets +onlyGivenNames s2_1
  refine keeps_cut (v := s2_1) ?_ fun hs2_1 => ?_
  · subst s2_1
    refine keeps_ite ?_ ?_
    · apply setFlag_keeps
      exact hs1_0
    · exact hs1_0
  clear_value s2_1
  split
  · apply stest_keeps
    apply setF_keeps
    exact hs2_1
  · apply setF_keeps
    exact hs2_1
  · apply stest_keeps
    apply setF_keeps
    exact hs2_1
  · exact hs2_1

theorem memModeWrite_keeps {s0 s : State} (hk0 : Keeps K s0 s) (v : Word) [Free K .capture] [Free K .counters] [Free K .dram] [Free K .free] [Free K .memories] [Free K .paddock] [Free K .pairing] [Free K .regs] [Free K .report] [Free K .rings] [Free K .sched] :
    Keeps K s0 (State.memModeWrite s v) := by
  unfold State.memModeWrite
  refine keeps_ite ?_ ?_
  · apply memModeW_keeps
    exact hk0
  · apply memModeW_keeps
    apply stestFree_keeps
    exact hk0

theorem flipWrite_keeps {s0 s : State} (hk0 : Keeps K s0 s) (k : Nat) (v : Word) [Free K .regs] :
    Keeps K s0 (State.flipWrite s k v) := by
  unfold State.flipWrite
  refine keeps_ite ?_ ?_
  · apply setFlag_keeps
    exact hk0
  · apply setReg_keeps
    exact hk0

theorem execDramChannelEnable_keeps (q : Req) (c : Fin 4) (v : Word) (s : State) :
    Answers [.capture, .counters, .dram, .free, .memories, .paddock, .pairing, .regs, .report, .rings, .sched] s (execDramChannelEnable q c v s) := by
  refine answers_of fun K n => ⟨_, rfl, ?_⟩
  have i0 : Free K .capture := n _ (by simp)
  have i1 : Free K .counters := n _ (by simp)
  have i2 : Free K .dram := n _ (by simp)
  have i3 : Free K .free := n _ (by simp)
  have i4 : Free K .memories := n _ (by simp)
  have i5 : Free K .paddock := n _ (by simp)
  have i6 : Free K .pairing := n _ (by simp)
  have i7 : Free K .regs := n _ (by simp)
  have i8 : Free K .report := n _ (by simp)
  have i9 : Free K .rings := n _ (by simp)
  have i10 : Free K .sched := n _ (by simp)
  have hk0 := Keeps.refl (K := K) s
  apply guardW_keeps
  · exact hk0
  · intro y0 hy1
    apply chCfgWrite_keeps
    exact hy1

theorem execDramTrainingEnd_keeps (c : Fin 4) (fail : Option (Fin 4)) (s : State) :
    Answers [.counters, .free, .memories, .regs, .report, .sched] s (execDramTrainingEnd c fail s) := by
  refine answers_of fun K n => ⟨_, rfl, ?_⟩
  have i0 : Free K .counters := n _ (by simp)
  have i1 : Free K .free := n _ (by simp)
  have i2 : Free K .memories := n _ (by simp)
  have i3 : Free K .regs := n _ (by simp)
  have i4 : Free K .report := n _ (by simp)
  have i5 : Free K .sched := n _ (by simp)
  have hk0 := Keeps.refl (K := K) s
  apply chTrained_keeps
  exact hk0

theorem execDramChannelDown_keeps (c : Fin 4) (s : State) :
    Answers [.capture, .counters, .dram, .free, .memories, .paddock, .pairing, .regs, .report, .rings, .sched] s (execDramChannelDown c s) := by
  refine answers_of fun K n => ⟨_, rfl, ?_⟩
  have i0 : Free K .capture := n _ (by simp)
  have i1 : Free K .counters := n _ (by simp)
  have i2 : Free K .dram := n _ (by simp)
  have i3 : Free K .free := n _ (by simp)
  have i4 : Free K .memories := n _ (by simp)
  have i5 : Free K .paddock := n _ (by simp)
  have i6 : Free K .pairing := n _ (by simp)
  have i7 : Free K .regs := n _ (by simp)
  have i8 : Free K .report := n _ (by simp)
  have i9 : Free K .rings := n _ (by simp)
  have i10 : Free K .sched := n _ (by simp)
  have hk0 := Keeps.refl (K := K) s
  apply chDown_keeps
  exact hk0

theorem execSpillAreaWrite_keeps (q : Req) (k : Fin 3) (v : Word) (s : State) :
    Answers [.counters, .regs, .report] s (execSpillAreaWrite q k v s) := by
  refine answers_of fun K n => ⟨_, rfl, ?_⟩
  have i0 : Free K .counters := n _ (by simp)
  have i1 : Free K .regs := n _ (by simp)
  have i2 : Free K .report := n _ (by simp)
  have hk0 := Keeps.refl (K := K) s
  apply guardW_keeps
  · exact hk0
  · intro y0 hy1
    apply spillWrite_keeps
    exact hy1

theorem execEccWriteBack_keeps (chip : Bool) (group : Fin 128) (addr : Nat) (cls : Fin 8) (req : Nat) (synd : Nat) (cancelled hard : Bool) (s : State) :
    Answers [.counters, .dram, .memories, .regs, .report] s (execEccWriteBack chip group addr cls req synd cancelled hard s) := by
  refine answers_of fun K n => ⟨_, rfl, ?_⟩
  have i0 : Free K .counters := n _ (by simp)
  have i1 : Free K .dram := n _ (by simp)
  have i2 : Free K .memories := n _ (by simp)
  have i3 : Free K .regs := n _ (by simp)
  have i4 : Free K .report := n _ (by simp)
  have hk0 := Keeps.refl (K := K) s
  apply eccOp_keeps
  exact hk0

theorem execRemapEntryWrite_keeps (q : Req) (c : Fin 4) (e : Fin 16) (v : Word) (s : State) :
    Answers [.counters, .dram, .memories, .regs, .report] s (execRemapEntryWrite q c e v s) := by
  refine answers_of fun K n => ⟨_, rfl, ?_⟩
  have i0 : Free K .counters := n _ (by simp)
  have i1 : Free K .dram := n _ (by simp)
  have i2 : Free K .memories := n _ (by simp)
  have i3 : Free K .regs := n _ (by simp)
  have i4 : Free K .report := n _ (by simp)
  have hk0 := Keeps.refl (K := K) s
  apply guardW_keeps
  · exact hk0
  · intro y0 hy1
    apply mapWrite_keeps
    exact hy1

theorem execSpareEntryWrite_keeps (q : Req) (g : Fin 128) (e : Fin 8) (v : Word) (s : State) :
    Answers [.counters, .dram, .memories, .regs, .report] s (execSpareEntryWrite q g e v s) := by
  refine answers_of fun K n => ⟨_, rfl, ?_⟩
  have i0 : Free K .counters := n _ (by simp)
  have i1 : Free K .dram := n _ (by simp)
  have i2 : Free K .memories := n _ (by simp)
  have i3 : Free K .regs := n _ (by simp)
  have i4 : Free K .report := n _ (by simp)
  have hk0 := Keeps.refl (K := K) s
  apply guardW_keeps
  · exact hk0
  · intro y0 hy1
    apply mapWrite_keeps
    exact hy1

theorem execMemModeWrite_keeps (q : Req) (v : Word) (fails : List (Bool × Fin 128 × Fin 16)) (s : State) :
    Answers [.capture, .counters, .dram, .free, .memories, .paddock, .pairing, .regs, .report, .rings, .sched] s (execMemModeWrite q v fails s) := by
  refine answers_of fun K n => ⟨_, rfl, ?_⟩
  have i0 : Free K .capture := n _ (by simp)
  have i1 : Free K .counters := n _ (by simp)
  have i2 : Free K .dram := n _ (by simp)
  have i3 : Free K .free := n _ (by simp)
  have i4 : Free K .memories := n _ (by simp)
  have i5 : Free K .paddock := n _ (by simp)
  have i6 : Free K .pairing := n _ (by simp)
  have i7 : Free K .regs := n _ (by simp)
  have i8 : Free K .report := n _ (by simp)
  have i9 : Free K .rings := n _ (by simp)
  have i10 : Free K .sched := n _ (by simp)
  have hk0 := Keeps.refl (K := K) s
  apply guardW_keeps
  · exact hk0
  · intro y0 hy1
    apply memModeW_keeps
    exact hy1

theorem execFlipArm_keeps (q : Req) (v : Word) (s : State) :
    Answers [.counters, .regs, .report] s (execFlipArm q v s) := by
  refine answers_of fun K n => ⟨_, rfl, ?_⟩
  have i0 : Free K .counters := n _ (by simp)
  have i1 : Free K .regs := n _ (by simp)
  have i2 : Free K .report := n _ (by simp)
  have hk0 := Keeps.refl (K := K) s
  apply guardW_keeps
  · exact hk0
  · intro y0 hy1
    apply flipWrite_keeps
    exact hy1

theorem execScrubJob_keeps (r : Fin 64) (d : Desc) (s : State) :
    Answers [.counters, .regs, .report, .rings] s (execScrubJob r d s) := by
  refine answers_of fun K n => ⟨_, rfl, ?_⟩
  have i0 : Free K .counters := n _ (by simp)
  have i1 : Free K .regs := n _ (by simp)
  have i2 : Free K .report := n _ (by simp)
  have i3 : Free K .rings := n _ (by simp)
  have hk0 := Keeps.refl (K := K) s
  apply scrubJobOp_keeps
  exact hk0

theorem execScrubJobEnd_keeps (fails : List (Nat × Bool)) (stopped : Bool) (s : State) :
    Answers [.counters, .dram, .free, .memories, .pairing, .regs, .report, .rings, .sched] s (execScrubJobEnd fails stopped s) := by
  refine answers_of fun K n => ⟨_, rfl, ?_⟩
  have i0 : Free K .counters := n _ (by simp)
  have i1 : Free K .dram := n _ (by simp)
  have i2 : Free K .free := n _ (by simp)
  have i3 : Free K .memories := n _ (by simp)
  have i4 : Free K .pairing := n _ (by simp)
  have i5 : Free K .regs := n _ (by simp)
  have i6 : Free K .report := n _ (by simp)
  have i7 : Free K .rings := n _ (by simp)
  have i8 : Free K .sched := n _ (by simp)
  have hk0 := Keeps.refl (K := K) s
  apply scrubEnd_keeps
  exact hk0

theorem execCaptureReadoutEnd_keeps (ue : Option Nat) (s : State) :
    Answers [.counters, .dram, .free, .memories, .regs, .report] s (execCaptureReadoutEnd ue s) := by
  refine answers_of fun K n => ⟨_, rfl, ?_⟩
  have i0 : Free K .counters := n _ (by simp)
  have i1 : Free K .dram := n _ (by simp)
  have i2 : Free K .free := n _ (by simp)
  have i3 : Free K .memories := n _ (by simp)
  have i4 : Free K .regs := n _ (by simp)
  have i5 : Free K .report := n _ (by simp)
  have hk0 := Keeps.refl (K := K) s
  refine keeps_ite ?_ ?_
  · split
    · extract_lets +onlyGivenNames m_0
      refine keeps_cut (v := m_0.2) ?_ fun hm_0 => ?_
      · subst m_0
        apply dramMeet_keeps
        exact hk0
      clear_value m_0
      extract_lets +onlyGivenNames n_1
      clear_value n_1
      apply capRdEnd_keeps
      apply ddrRd_keeps
      apply hostWrite_keeps
      exact hm_0
  · exact hk0

end Sys2Proof.Machine
end

