-- ==== Sys2Proof/Laws/KeepsKeys.lean ====
section
/-! SUPPORT. What the operations of Machine/Keys.lean keep. -/

-- One proof at a time: in the package as one text, proofs that wait for each other would each hold a thread.
set_option Elab.async false

namespace Sys2Proof.Machine

variable {K : Comp → Prop}

theorem setKeyStaged_keeps {s0 s : State} (hk0 : Keeps K s0 s) (q : Req) (k : Nat) (v : Word) [Free K .keys] :
    Keeps K s0 (State.setKeyStaged s q k v) := by
  unfold State.setKeyStaged
  apply modSec_keeps
  exact hk0

theorem setUnwStaged_keeps {s0 s : State} (hk0 : Keeps K s0 s) (q : Req) (k : Nat) (v : Word) [Free K .keys] :
    Keeps K s0 (State.setUnwStaged s q k v) := by
  unfold State.setUnwStaged
  apply modSec_keeps
  exact hk0

theorem keyDone_keeps {s0 s : State} (hk0 : Keeps K s0 s) (q : Req) (res : Nat) [Free K .regs] :
    Keeps K s0 (State.keyDone s q res) := by
  unfold State.keyDone
  apply setReg_keeps
  exact hk0

theorem keyRefused_keeps {s0 s : State} (hk0 : Keeps K s0 s) (q : Req) (slot op use : Nat) [Free K .counters] [Free K .regs] [Free K .report] :
    Keeps K s0 (State.keyRefused s q slot op use) := by
  unfold State.keyRefused
  apply raise_keeps
  exact hk0

theorem keyChange_keeps {s0 s : State} (hk0 : Keeps K s0 s) (q : Req) (op slot : Nat) (k : List Byte) [Free K .counters] [Free K .keys] [Free K .regs] [Free K .report] :
    Keeps K s0 (State.keyChange s q op slot k) := by
  unfold State.keyChange
  refine keeps_ite ?_ ?_
  · apply keyRefused_keeps
    apply keyDone_keeps
    exact hk0
  · split
    · apply keyRefused_keeps
      apply keyDone_keeps
      exact hk0
    · extract_lets +onlyGivenNames s1_0
      refine keeps_cut (v := s1_0) ?_ fun hs1_0 => ?_
      · subst s1_0
        apply keySet_keeps
        exact hk0
      clear_value s1_0
      extract_lets +onlyGivenNames s2_1
      refine keeps_cut (v := s2_1) ?_ fun hs2_1 => ?_
      · subst s2_1
        refine keeps_ite ?_ ?_
        · refine keeps_foldl _ ?_ ?_
          · exact hs1_0
          · intro y2 y3 hy4
            apply setKeyStaged_keeps
            exact hy4
        · exact hs1_0
      clear_value s2_1
      apply keyDone_keeps
      exact hs2_1

theorem cmacFail_keeps {s0 s : State} (hk0 : Keeps K s0 s) (status slot : Nat) (call : Bool) (req : Nat) [Free K .counters] [Free K .regs] [Free K .report] :
    Keeps K s0 (State.cmacFail s status slot call req) := by
  unfold State.cmacFail
  apply raise_keeps
  apply bump_keeps
  exact hk0

theorem setRun_keeps {s0 s : State} (hk0 : Keeps K s0 s) (u v : Nat) [Free K .regs] :
    Keeps K s0 (State.setRun s u v) := by
  unfold State.setRun
  apply setReg_keeps
  apply setReg_keeps
  exact hk0

theorem chkInit_keeps {s0 s : State} (hk0 : Keeps K s0 s) (u : Nat) [Free K .regs] :
    Keeps K s0 (State.chkInit s u) := by
  unfold State.chkInit
  apply setRun_keeps
  exact hk0

theorem chkBytes_keeps {s0 s : State} (hk0 : Keeps K s0 s) (u : Nat) (bs : List Byte) [Free K .counters] [Free K .regs] :
    Keeps K s0 (State.chkBytes s u bs) := by
  unfold State.chkBytes
  extract_lets +onlyGivenNames bs_0
  clear_value bs_0
  apply bump_keeps
  apply setRun_keeps
  exact hk0

theorem jobTake_keeps {s0 s : State} (hk0 : Keeps K s0 s) (j : Job) (res : Option (Nat × Nat × Nat × Nat × Nat)) [Free K .counters] [Free K .regs] [Free K .report] [Free K .rings] :
    Keeps K s0 (State.jobTake s j res) := by
  unfold State.jobTake
  apply jobFlush_keeps
  refine keeps_mk ?_
  exact hk0

theorem cmacTake_keeps {s0 s : State} (hk0 : Keeps K s0 s) (j : Job) [Free K .counters] [Free K .regs] [Free K .report] [Free K .rings] :
    Keeps K s0 (State.cmacTake s j) := by
  unfold State.cmacTake
  extract_lets +onlyGivenNames slot0
  clear_value slot0
  refine keeps_ite ?_ ?_
  · apply jobTake_keeps
    apply cmacFail_keeps
    exact hk0
  · refine keeps_ite ?_ ?_
    · apply jobTake_keeps
      apply cmacFail_keeps
      exact hk0
    · apply jobTake_keeps
      exact hk0

theorem chkTake_keeps {s0 s : State} (hk0 : Keeps K s0 s) (j : Job) [Free K .counters] [Free K .regs] [Free K .report] [Free K .rings] :
    Keeps K s0 (State.chkTake s j) := by
  unfold State.chkTake
  extract_lets +onlyGivenNames u_0
  clear_value u_0
  extract_lets +onlyGivenNames s1_1
  refine keeps_cut (v := s1_1) ?_ fun hs1_1 => ?_
  · subst s1_1
    refine keeps_ite ?_ ?_
    · exact hk0
    · apply chkInit_keeps
      exact hk0
  clear_value s1_1
  refine keeps_ite ?_ ?_
  · apply jobTake_keeps
    exact hs1_1
  · apply jobTake_keeps
    apply setFlag_keeps
    exact hs1_1

theorem unwrapTake_keeps {s0 s : State} (hk0 : Keeps K s0 s) (j : Job) [Free K .counters] [Free K .regs] [Free K .report] [Free K .rings] :
    Keeps K s0 (State.unwrapTake s j) := by
  unfold State.unwrapTake
  split
  · apply jobTake_keeps
    exact hk0
  · apply jobTake_keeps
    apply cmacFail_keeps
    exact hk0

theorem jobsGo_keeps {s0 s : State} (hk0 : Keeps K s0 s) [Free K .counters] [Free K .regs] [Free K .report] [Free K .rings] :
    Keeps K s0 (State.jobsGo s) := by
  unfold State.jobsGo
  refine keeps_foldl _ ?_ ?_
  · exact hk0
  · intro y0 y1 hy2
    refine keeps_ite ?_ ?_
    · exact hy2
    · refine keeps_ite ?_ ?_
      · apply cmacTake_keeps
        exact hy2
      · refine keeps_ite ?_ ?_
        · apply unwrapTake_keeps
          exact hy2
        · apply chkTake_keeps
          exact hy2

theorem callDone_keeps {s0 s : State} (hk0 : Keeps K s0 s) (c : CmacCall) (st : CallStat) (res : List Nat) [Free K .keys] [Free K .regs] [Free K .threads] :
    Keeps K s0 (State.callDone s c st res) := by
  unfold State.callDone
  extract_lets +onlyGivenNames s1_0
  refine keeps_cut (v := s1_0) ?_ fun hs1_0 => ?_
  · subst s1_0
    apply modSec_keeps
    exact hk0
  clear_value s1_0
  refine keeps_ite ?_ ?_
  · extract_lets +onlyGivenNames s2_1
    refine keeps_cut (v := s2_1) ?_ fun hs2_1 => ?_
    · subst s2_1
      apply callEnd_keeps
      exact hs1_0
    clear_value s2_1
    apply setThread_keeps
    exact hs2_1
  · exact hs1_0

theorem callsKill_keeps {s0 s : State} (hk0 : Keeps K s0 s) (slot : Nat) [Free K .counters] [Free K .keys] [Free K .regs] [Free K .report] [Free K .threads] :
    Keeps K s0 (State.callsKill s slot) := by
  unfold State.callsKill
  refine keeps_foldl _ ?_ ?_
  · exact hk0
  · intro y0 y1 hy2
    apply callDone_keeps
    apply cmacFail_keeps
    exact hy2

theorem jobsKill_keeps {s0 s : State} (hk0 : Keeps K s0 s) (p : Job → Bool) (status : Nat) [Free K .counters] [Free K .regs] [Free K .report] [Free K .rings] :
    Keeps K s0 (State.jobsKill s p status) := by
  unfold State.jobsKill
  extract_lets +onlyGivenNames s1_0
  refine keeps_cut (v := s1_0) ?_ fun hs1_0 => ?_
  · subst s1_0
    refine keeps_foldl _ ?_ ?_
    · exact hk0
    · intro y1 y2 hy3
      apply cmacFail_keeps
      exact hy3
  clear_value s1_0
  apply jobFlush_keeps
  refine keeps_mk ?_
  exact hs1_0

theorem unwEnd_keeps {s0 s : State} (hk0 : Keeps K s0 s) (u : Unw) (status : Nat) [Free K .keys] [Free K .regs] :
    Keeps K s0 (State.unwEnd s u status) := by
  unfold State.unwEnd
  apply setReg_keeps
  apply modSec_keeps
  exact hk0

theorem lineErase_keeps {s0 s : State} (hk0 : Keeps K s0 s) (x : Side) (slot : Nat) [Free K .sched] [Free K (.line x)] :
    Keeps K s0 (State.lineErase s x slot) := by
  unfold State.lineErase
  extract_lets +onlyGivenNames hit_0
  clear_value hit_0
  extract_lets +onlyGivenNames s1_1
  refine keeps_cut (v := s1_1) ?_ fun hs1_1 => ?_
  · subst s1_1
    apply modLine_keeps
    exact hk0
  clear_value s1_1
  extract_lets +onlyGivenNames mark2
  clear_value mark2
  refine keeps_mk ?_
  exact hs1_1

theorem eraseSlot_keeps {s0 s : State} (hk0 : Keeps K s0 s) (slot code : Nat) [Free K .counters] [Free K .keys] [Free K .regs] [Free K .report] [Free K .rings] [Free K .sched] [Free K .threads] [∀ x, Free K (.line x)] :
    Keeps K s0 (State.eraseSlot s slot code) := by
  unfold State.eraseSlot
  extract_lets +onlyGivenNames n_0
  clear_value n_0
  extract_lets +onlyGivenNames s1_1
  refine keeps_cut (v := s1_1) ?_ fun hs1_1 => ?_
  · subst s1_1
    apply raise_keeps
    apply keySet_keeps
    apply lineErase_keeps
    apply lineErase_keeps
    exact hk0
  clear_value s1_1
  extract_lets +onlyGivenNames s2_2
  refine keeps_cut (v := s2_2) ?_ fun hs2_2 => ?_
  · subst s2_2
    apply jobsKill_keeps
    apply callsKill_keeps
    apply jobsKill_keeps
    exact hs1_1
  clear_value s2_2
  extract_lets +onlyGivenNames us_3
  clear_value us_3
  apply jobsGo_keeps
  refine keeps_foldl _ ?_ ?_
  · exact hs2_2
  · intro y4 y5 hy6
    apply cmacFail_keeps
    apply unwEnd_keeps
    exact hy6

theorem keyForce_keeps {s0 s : State} (hk0 : Keeps K s0 s) (q : Req) (slot : Nat) [Free K .counters] [Free K .keys] [Free K .regs] [Free K .report] [Free K .rings] [Free K .sched] [Free K .threads] [∀ x, Free K (.line x)] :
    Keeps K s0 (State.keyForce s q slot) := by
  unfold State.keyForce
  refine keeps_ite ?_ ?_
  · apply keyDone_keeps
    exact hk0
  · apply keyDone_keeps
    apply eraseSlot_keeps
    exact hk0

theorem keyCommand_keeps {s0 s : State} (hk0 : Keeps K s0 s) (q : Req) (v : Word) [Free K .counters] [Free K .keys] [Free K .regs] [Free K .report] [Free K .rings] [Free K .sched] [Free K .threads] [∀ x, Free K (.line x)] :
    Keeps K s0 (State.keyCommand s q v) := by
  unfold State.keyCommand
  extract_lets +onlyGivenNames slot0
  clear_value slot0
  split
  · apply keyChange_keeps
    exact hk0
  · apply keyChange_keeps
    exact hk0
  · apply keyForce_keeps
    exact hk0
  · refine keeps_ite ?_ ?_
    · exact hk0
    · apply keyDone_keeps
      exact hk0

theorem lineKeyWrite_keeps {s0 s : State} (hk0 : Keeps K s0 s) (q : Req) (x : Side) (up : Bool) (n : Nat) (v : Word) [Free K .regs] [Free K (.line x)] :
    Keeps K s0 (State.lineKeyWrite s q x up n v) := by
  unfold State.lineKeyWrite
  refine keeps_ite ?_ ?_
  · exact hk0
  · refine keeps_ite ?_ ?_
    · apply setReg_keeps
      exact hk0
    · apply stageReg_keeps
      exact hk0

theorem lswWrite_keeps {s0 s : State} (h : Keeps K s0 s) (q : Req) (x : Side) (v : Word) [Free K .keys] [Free K .regs] : Keeps K s0 (s.lswWrite q x v) := by
  unfold State.lswWrite
  extract_lets i s1 s2 n passed arm s3
  have h1 : Keeps K s0 s1 := keeps_ite (setFlag_keeps h ..) h
  have h2 : Keeps K s0 s2 := setF_keeps h1 ..
  have h3 : Keeps K s0 s3 := setFlag_keeps (modSec_keeps h2 _) ..
  clear_value s3
  clear_value passed n
  exact keeps_ite h1 (keeps_ite h2 (keeps_ite (setFlag_keeps h3 ..) h3))

theorem cmacJobOp_keeps {s0 s : State} (hk0 : Keeps K s0 s) (r : Nat) (d : Desc) [Free K .counters] [Free K .regs] [Free K .report] [Free K .rings] :
    Keeps K s0 (State.cmacJobOp s r d) := by
  unfold State.cmacJobOp
  refine keeps_ite ?_ ?_
  · exact hk0
  · refine keeps_ite ?_ ?_
    · apply jobErr_keeps
      exact hk0
    · refine keeps_ite ?_ ?_
      · apply jobErr_keeps
        exact hk0
      · refine keeps_ite ?_ ?_
        · apply jobAdd_keeps
          apply bump_keeps
          exact hk0
        · apply jobsGo_keeps
          apply jobAdd_keeps
          exact hk0

theorem cmacCallEnd_keeps {s0 s : State} (hk0 : Keeps K s0 s) (c : CmacCall) [Free K .counters] [Free K .keys] [Free K .regs] [Free K .report] [Free K .threads] :
    Keeps K s0 (State.cmacCallEnd s c) := by
  unfold State.cmacCallEnd
  split
  · apply callDone_keeps
    apply bump_keeps
    exact hk0
  · apply callDone_keeps
    apply cmacFail_keeps
    exact hk0

theorem cmacJobEnd_keeps {s0 s : State} (hk0 : Keeps K s0 s) (data : List Byte) (rd : HostRead) [Free K .counters] [Free K .regs] [Free K .report] [Free K .rings] :
    Keeps K s0 (State.cmacJobEnd s data rd) := by
  unfold State.cmacJobEnd
  split
  · exact hk0
  · extract_lets +onlyGivenNames p_0
    clear_value p_0
    refine keeps_ite ?_ ?_
    · exact hk0
    · refine keeps_ite ?_ ?_
      · apply jobEnd_keeps
        apply readTimeout_keeps
        exact hk0
      · split
        · apply jobEnd_keeps
          apply bump_keeps
          exact hk0
        · apply jobEnd_keeps
          apply cmacFail_keeps
          exact hk0

theorem cmacEnd_keeps {s0 s : State} (hk0 : Keeps K s0 s) (data : List Byte) (rd : HostRead) [Free K .counters] [Free K .keys] [Free K .regs] [Free K .report] [Free K .rings] [Free K .threads] :
    Keeps K s0 (State.cmacEnd s data rd) := by
  unfold State.cmacEnd
  apply jobsGo_keeps
  split
  · apply cmacCallEnd_keeps
    exact hk0
  · apply cmacJobEnd_keeps
    exact hk0

theorem unwrapJobOp_keeps {s0 s : State} (hk0 : Keeps K s0 s) (r : Nat) (d : Desc) [Free K .counters] [Free K .regs] [Free K .report] [Free K .rings] :
    Keeps K s0 (State.unwrapJobOp s r d) := by
  unfold State.unwrapJobOp
  refine keeps_ite ?_ ?_
  · exact hk0
  · refine keeps_ite ?_ ?_
    · apply jobErr_keeps
      exact hk0
    · refine keeps_ite ?_ ?_
      · apply jobAdd_keeps
        exact hk0
      · refine keeps_ite ?_ ?_
        · apply jobErr_keeps
          exact hk0
        · apply jobsGo_keeps
          apply jobAdd_keeps
          exact hk0

theorem unwrapRun_keeps {s0 s : State} (hk0 : Keeps K s0 s) (kek dest : Nat) (data : List Byte) [Free K .keys] [Free K .regs] :
    Keeps K s0 (State.unwrapRun s kek dest data).2 := by
  unfold State.unwrapRun
  refine keeps_ite2 ?_ ?_
  · refine keeps_pair ?_
    exact hk0
  · split
    · refine keeps_pair ?_
      apply keySet_keeps
      exact hk0
    · refine keeps_pair ?_
      exact hk0

theorem unwrapJobEnd_keeps {s0 s : State} (hk0 : Keeps K s0 s) (data : List Byte) (rd : HostRead) [Free K .counters] [Free K .keys] [Free K .regs] [Free K .report] [Free K .rings] :
    Keeps K s0 (State.unwrapJobEnd s data rd) := by
  unfold State.unwrapJobEnd
  split
  · exact hk0
  · extract_lets +onlyGivenNames p_0
    clear_value p_0
    apply jobsGo_keeps
    refine keeps_ite ?_ ?_
    · apply jobEnd_keeps
      apply readTimeout_keeps
      exact hk0
    · extract_lets +onlyGivenNames kek_1
      clear_value kek_1
      extract_lets +onlyGivenNames dest2
      clear_value dest2
      extract_lets +onlyGivenNames z_3
      refine keeps_cut (v := z_3.2) ?_ fun hz_3 => ?_
      · subst z_3
        apply unwrapRun_keeps
        exact hk0
      clear_value z_3
      refine keeps_ite ?_ ?_
      · apply jobEnd_keeps
        exact hz_3
      · apply jobEnd_keeps
        apply cmacFail_keeps
        exact hz_3

theorem unwCommand_keeps {s0 s : State} (hk0 : Keeps K s0 s) (q : Req) (v : Word) [Free K .counters] [Free K .keys] [Free K .regs] [Free K .report] :
    Keeps K s0 (State.unwCommand s q v) := by
  unfold State.unwCommand
  extract_lets +onlyGivenNames kek_0
  clear_value kek_0
  extract_lets +onlyGivenNames dest1
  clear_value dest1
  extract_lets +onlyGivenNames busy2
  clear_value busy2
  refine keeps_ite ?_ ?_
  · exact hk0
  · split
    · extract_lets +onlyGivenNames n_3
      clear_value n_3
      extract_lets +onlyGivenNames data4
      clear_value data4
      apply setReg_keeps
      apply modSec_keeps
      exact hk0
    · apply setReg_keeps
      apply cmacFail_keeps
      exact hk0

theorem unwrapRegEnd_keeps {s0 s : State} (hk0 : Keeps K s0 s) (q : Req) [Free K .counters] [Free K .keys] [Free K .regs] [Free K .report] :
    Keeps K s0 (State.unwrapRegEnd s q) := by
  unfold State.unwrapRegEnd
  split
  · exact hk0
  · extract_lets +onlyGivenNames z_0
    refine keeps_cut (v := z_0.2) ?_ fun hz_0 => ?_
    · subst z_0
      apply unwrapRun_keeps
      exact hk0
    clear_value z_0
    refine keeps_ite ?_ ?_
    · apply unwEnd_keeps
      exact hz_0
    · apply unwEnd_keeps
      apply cmacFail_keeps
      exact hz_0

theorem chkFeed_keeps {s0 s : State} (hk0 : Keeps K s0 s) (u : Nat) (v : Word) [Free K .counters] [Free K .regs] :
    Keeps K s0 (State.chkFeed s u v) := by
  unfold State.chkFeed
  refine keeps_ite ?_ ?_
  · apply setFlag_keeps
    exact hk0
  · extract_lets +onlyGivenNames n_0
    clear_value n_0
    apply chkBytes_keeps
    exact hk0

theorem chkRegEnd_keeps {s0 s : State} (hk0 : Keeps K s0 s) (u res n : Nat) [Free K .counters] [Free K .regs] [Free K .report] [Free K .rings] :
    Keeps K s0 (State.chkRegEnd s u res n) := by
  unfold State.chkRegEnd
  extract_lets +onlyGivenNames i_0
  clear_value i_0
  extract_lets +onlyGivenNames s1_1
  refine keeps_cut (v := s1_1) ?_ fun hs1_1 => ?_
  · subst s1_1
    apply setF_keeps
    apply setFlag_keeps
    apply setFlag_keeps
    exact hk0
  clear_value s1_1
  extract_lets +onlyGivenNames s2_2
  refine keeps_cut (v := s2_2) ?_ fun hs2_2 => ?_
  · subst s2_2
    apply raise_keeps
    exact hs1_1
  clear_value s2_2
  apply jobsGo_keeps
  apply raiseIf_keeps
  exact hs2_2

theorem chkCtrl_keeps {s0 s : State} (hk0 : Keeps K s0 s) (u : Nat) (v : Word) [Free K .counters] [Free K .regs] [Free K .report] [Free K .rings] :
    Keeps K s0 (State.chkCtrl s u v) := by
  unfold State.chkCtrl
  extract_lets +onlyGivenNames i_0
  clear_value i_0
  extract_lets +onlyGivenNames s1_1
  refine keeps_cut (v := s1_1) ?_ fun hs1_1 => ?_
  · subst s1_1
    refine keeps_ite ?_ ?_
    · apply setFlag_keeps
      exact hk0
    · exact hk0
  clear_value s1_1
  extract_lets +onlyGivenNames s2_2
  refine keeps_cut (v := s2_2) ?_ fun hs2_2 => ?_
  · subst s2_2
    refine keeps_ite ?_ ?_
    · apply setFlag_keeps
      exact hs1_1
    · exact hs1_1
  clear_value s2_2
  refine keeps_ite ?_ ?_
  · apply setFlag_keeps
    exact hs2_2
  · extract_lets +onlyGivenNames s3_3
    refine keeps_cut (v := s3_3) ?_ fun hs3_3 => ?_
    · subst s3_3
      apply setF_keeps
      apply setF_keeps
      exact hs2_2
    clear_value s3_3
    refine keeps_ite ?_ ?_
    · exact hs3_3
    · extract_lets +onlyGivenNames addr4
      clear_value addr4
      extract_lets +onlyGivenNames len_5
      clear_value len_5
      refine keeps_ite ?_ ?_
      · apply chkRegEnd_keeps
        exact hs3_3
      · extract_lets +onlyGivenNames s4_6
        refine keeps_cut (v := s4_6) ?_ fun hs4_6 => ?_
        · subst s4_6
          refine keeps_ite ?_ ?_
          · exact hs3_3
          · apply chkInit_keeps
            exact hs3_3
        clear_value s4_6
        refine keeps_ite ?_ ?_
        · apply chkRegEnd_keeps
          exact hs4_6
        · apply setF_keeps
          apply setFlag_keeps
          exact hs4_6

theorem chkJobOp_keeps {s0 s : State} (hk0 : Keeps K s0 s) (r : Nat) (d : Desc) [Free K .counters] [Free K .regs] [Free K .report] [Free K .rings] :
    Keeps K s0 (State.chkJobOp s r d) := by
  unfold State.chkJobOp
  extract_lets +onlyGivenNames u_0
  clear_value u_0
  refine keeps_ite ?_ ?_
  · exact hk0
  · refine keeps_ite ?_ ?_
    · apply jobErr_keeps
      exact hk0
    · refine keeps_ite ?_ ?_
      · apply jobErr_keeps
        exact hk0
      · refine keeps_ite ?_ ?_
        · apply jobErr_keeps
          exact hk0
        · apply jobsGo_keeps
          apply jobAdd_keeps
          exact hk0

theorem jobsFlushed_keeps {s0 s : State} (hk0 : Keeps K s0 s) (r : Nat) [Free K .counters] [Free K .free] [Free K .regs] [Free K .report] [Free K .rings] :
    Keeps K s0 (State.jobsFlushed s r) := by
  unfold State.jobsFlushed
  refine keeps_foldl _ ?_ ?_
  · refine keeps_mk ?_
    exact hk0
  · intro y0 y1 hy2
    refine keeps_ite ?_ ?_
    · apply scanLeave_keeps
      exact hy2
    · refine keeps_ite ?_ ?_
      · apply scrubEvent_keeps
        exact hy2
      · exact hy2

theorem chkEnd_keeps {s0 s : State} (hk0 : Keeps K s0 s) (u : Nat) (data : List Byte) (stop : Option Nat) (timeout : Bool) [Free K .counters] [Free K .dram] [Free K .free] [Free K .memories] [Free K .regs] [Free K .report] [Free K .rings] :
    Keeps K s0 (State.chkEnd s u data stop timeout) := by
  unfold State.chkEnd
  extract_lets +onlyGivenNames i_0
  clear_value i_0
  refine keeps_ite ?_ ?_
  · exact hk0
  · extract_lets +onlyGivenNames job_1
    clear_value job_1
    extract_lets +onlyGivenNames dram2
    clear_value dram2
    extract_lets +onlyGivenNames addr3
    clear_value addr3
    extract_lets +onlyGivenNames len_4
    clear_value len_4
    refine keeps_ite ?_ ?_
    · exact hk0
    · extract_lets +onlyGivenNames m_5
      refine keeps_cut (v := m_5.2) ?_ fun hm_5 => ?_
      · subst m_5
        refine keeps_ite2 ?_ ?_
        · apply dramMeet_keeps
          exact hk0
        · refine keeps_pair ?_
          apply raiseIf_keeps
          exact hk0
      clear_value m_5
      extract_lets +onlyGivenNames n_6
      clear_value n_6
      extract_lets +onlyGivenNames s0_7
      refine keeps_cut (v := s0_7) ?_ fun hs0_7 => ?_
      · subst s0_7
        refine keeps_ite ?_ ?_
        · apply ddrRd_keeps
          exact hm_5
        · exact hm_5
      clear_value s0_7
      extract_lets +onlyGivenNames s1_8
      refine keeps_cut (v := s1_8) ?_ fun hs1_8 => ?_
      · subst s1_8
        apply chkBytes_keeps
        exact hs0_7
      clear_value s1_8
      split
      · extract_lets +onlyGivenNames s2_9
        refine keeps_cut (v := s2_9) ?_ fun hs2_9 => ?_
        · subst s2_9
          apply setFlag_keeps
          exact hs1_8
        clear_value s2_9
        apply jobsGo_keeps
        apply jobEnd_keeps
        exact hs2_9
      · apply chkRegEnd_keeps
        exact hs1_8

theorem execKeyLoad_keeps (q : Req) (slot : Fin 64) (size256 : Bool) (s : State) :
    Answers [.counters, .keys, .regs, .report] s (execKeyLoad q slot size256 s) := by
  refine answers_of fun K n => ⟨_, rfl, ?_⟩
  have i0 : Free K .counters := n _ (by simp)
  have i1 : Free K .keys := n _ (by simp)
  have i2 : Free K .regs := n _ (by simp)
  have i3 : Free K .report := n _ (by simp)
  have hk0 := Keeps.refl (K := K) s
  apply guardW_keeps
  · exact hk0
  · intro y0 hy1
    apply keyChange_keeps
    exact hy1

theorem execKeyErase_keeps (q : Req) (slot : Fin 64) (s : State) :
    Answers [.counters, .keys, .regs, .report] s (execKeyErase q slot s) := by
  refine answers_of fun K n => ⟨_, rfl, ?_⟩
  have i0 : Free K .counters := n _ (by simp)
  have i1 : Free K .keys := n _ (by simp)
  have i2 : Free K .regs := n _ (by simp)
  have i3 : Free K .report := n _ (by simp)
  have hk0 := Keeps.refl (K := K) s
  apply guardW_keeps
  · exact hk0
  · intro y0 hy1
    apply keyChange_keeps
    exact hy1

theorem execForceErase_keeps (q : Req) (slot : Fin 64) (s : State) :
    Answers [.counters, .keys, .regs, .report, .rings, .sched, .threads, .line .a, .line .b] s (execForceErase q slot s) := by
  refine answers_of fun K n => ⟨_, rfl, ?_⟩
  have i0 : Free K .counters := n _ (by simp)
  have i1 : Free K .keys := n _ (by simp)
  have i2 : Free K .regs := n _ (by simp)
  have i3 : Free K .report := n _ (by simp)
  have i4 : Free K .rings := n _ (by simp)
  have i5 : Free K .sched := n _ (by simp)
  have i6 : Free K .threads := n _ (by simp)
  have i7 : ∀ x, Free K (.line x) := fun x => by cases x <;> exact n _ (by simp)
  have hk0 := Keeps.refl (K := K) s
  apply guardW_keeps
  · exact hk0
  · intro y0 hy1
    apply keyForce_keeps
    exact hy1

theorem execUnwrapStart_keeps (q : Req) (v : Word) (s : State) :
    Answers [.counters, .keys, .regs, .report] s (execUnwrapStart q v s) := by
  refine answers_of fun K n => ⟨_, rfl, ?_⟩
  have i0 : Free K .counters := n _ (by simp)
  have i1 : Free K .keys := n _ (by simp)
  have i2 : Free K .regs := n _ (by simp)
  have i3 : Free K .report := n _ (by simp)
  have hk0 := Keeps.refl (K := K) s
  apply guardW_keeps
  · exact hk0
  · intro y0 hy1
    apply unwCommand_keeps
    exact hy1

theorem execUnwrapDone_keeps (q : Option Req) (data : List Byte) (rd : HostRead) (s : State) :
    Answers [.counters, .keys, .regs, .report, .rings] s (execUnwrapDone q data rd s) := by
  refine answers_of fun K n => ⟨_, rfl, ?_⟩
  have i0 : Free K .counters := n _ (by simp)
  have i1 : Free K .keys := n _ (by simp)
  have i2 : Free K .regs := n _ (by simp)
  have i3 : Free K .report := n _ (by simp)
  have i4 : Free K .rings := n _ (by simp)
  have hk0 := Keeps.refl (K := K) s
  split
  · apply unwrapRegEnd_keeps
    exact hk0
  · apply unwrapJobEnd_keeps
    exact hk0

theorem execCmacJob_keeps (r : Fin 64) (d : Desc) (s : State) :
    Answers [.counters, .regs, .report, .rings] s (execCmacJob r d s) := by
  refine answers_of fun K n => ⟨_, rfl, ?_⟩
  have i0 : Free K .counters := n _ (by simp)
  have i1 : Free K .regs := n _ (by simp)
  have i2 : Free K .report := n _ (by simp)
  have i3 : Free K .rings := n _ (by simp)
  have hk0 := Keeps.refl (K := K) s
  apply cmacJobOp_keeps
  exact hk0

theorem execCmacDone_keeps (data : List Byte) (rd : HostRead) (s : State) :
    Answers [.counters, .keys, .regs, .report, .rings, .threads] s (execCmacDone data rd s) := by
  refine answers_of fun K n => ⟨_, rfl, ?_⟩
  have i0 : Free K .counters := n _ (by simp)
  have i1 : Free K .keys := n _ (by simp)
  have i2 : Free K .regs := n _ (by simp)
  have i3 : Free K .report := n _ (by simp)
  have i4 : Free K .rings := n _ (by simp)
  have i5 : Free K .threads := n _ (by simp)
  have hk0 := Keeps.refl (K := K) s
  apply cmacEnd_keeps
  exact hk0

theorem execUnwrapJob_keeps (r : Fin 64) (d : Desc) (s : State) :
    Answers [.counters, .regs, .report, .rings] s (execUnwrapJob r d s) := by
  refine answers_of fun K n => ⟨_, rfl, ?_⟩
  have i0 : Free K .counters := n _ (by simp)
  have i1 : Free K .regs := n _ (by simp)
  have i2 : Free K .report := n _ (by simp)
  have i3 : Free K .rings := n _ (by simp)
  have hk0 := Keeps.refl (K := K) s
  apply unwrapJobOp_keeps
  exact hk0

theorem execKeySwitchArm_keeps (q : Req) (x : Side) (v : Word) (s : State) :
    Answers [.counters, .keys, .regs, .report] s (execKeySwitchArm q x v s) := by
  refine answers_of fun K n => ⟨_, rfl, ?_⟩
  have i0 : Free K .counters := n _ (by simp)
  have i1 : Free K .keys := n _ (by simp)
  have i2 : Free K .regs := n _ (by simp)
  have i3 : Free K .report := n _ (by simp)
  have hk0 := Keeps.refl (K := K) s
  apply guardW_keeps
  · exact hk0
  · intro y0 hy1
    apply lswWrite_keeps
    exact hy1

theorem execEntropyHealthFail_keeps (repetition adaptive : Bool) (s : State) :
    Answers [.counters, .regs, .report] s (execEntropyHealthFail repetition adaptive s) := by
  refine answers_of fun K n => ⟨_, rfl, ?_⟩
  have i0 : Free K .counters := n _ (by simp)
  have i1 : Free K .regs := n _ (by simp)
  have i2 : Free K .report := n _ (by simp)
  have hk0 := Keeps.refl (K := K) s
  apply raise_keeps
  apply setFlag_keeps
  exact hk0

theorem execEntropyRestart_keeps (q : Req) (passed : Bool) (s : State) :
    Answers [.counters, .regs, .report] s (execEntropyRestart q passed s) := by
  refine answers_of fun K n => ⟨_, rfl, ?_⟩
  have i0 : Free K .counters := n _ (by simp)
  have i1 : Free K .regs := n _ (by simp)
  have i2 : Free K .report := n _ (by simp)
  have hk0 := Keeps.refl (K := K) s
  apply guardW_keeps
  · exact hk0
  · intro y0 hy1
    refine keeps_ite ?_ ?_
    · apply setFlag_keeps
      apply setFlag_keeps
      exact hy1
    · apply setFlag_keeps
      exact hy1

theorem execCheckFeed_keeps (q : Req) (u : Fin 4) (v : Word) (s : State) :
    Answers [.counters, .regs, .report] s (execCheckFeed q u v s) := by
  refine answers_of fun K n => ⟨_, rfl, ?_⟩
  have i0 : Free K .counters := n _ (by simp)
  have i1 : Free K .regs := n _ (by simp)
  have i2 : Free K .report := n _ (by simp)
  have hk0 := Keeps.refl (K := K) s
  apply guardW_keeps
  · exact hk0
  · intro y0 hy1
    apply chkFeed_keeps
    exact hy1

theorem execCheckScanStart_keeps (q : Req) (u : Fin 4) (v : Word) (s : State) :
    Answers [.counters, .regs, .report, .rings] s (execCheckScanStart q u v s) := by
  refine answers_of fun K n => ⟨_, rfl, ?_⟩
  have i0 : Free K .counters := n _ (by simp)
  have i1 : Free K .regs := n _ (by simp)
  have i2 : Free K .report := n _ (by simp)
  have i3 : Free K .rings := n _ (by simp)
  have hk0 := Keeps.refl (K := K) s
  apply guardW_keeps
  · exact hk0
  · intro y0 hy1
    apply chkCtrl_keeps
    exact hy1

theorem execCheckScanJob_keeps (r : Fin 64) (d : Desc) (s : State) :
    Answers [.counters, .regs, .report, .rings] s (execCheckScanJob r d s) := by
  refine answers_of fun K n => ⟨_, rfl, ?_⟩
  have i0 : Free K .counters := n _ (by simp)
  have i1 : Free K .regs := n _ (by simp)
  have i2 : Free K .report := n _ (by simp)
  have i3 : Free K .rings := n _ (by simp)
  have hk0 := Keeps.refl (K := K) s
  apply chkJobOp_keeps
  exact hk0

theorem execCheckScanEnd_keeps (u : Fin 4) (data : List Byte) (stop : Option Nat) (timeout : Bool) (s : State) :
    Answers [.counters, .dram, .free, .memories, .regs, .report, .rings] s (execCheckScanEnd u data stop timeout s) := by
  refine answers_of fun K n => ⟨_, rfl, ?_⟩
  have i0 : Free K .counters := n _ (by simp)
  have i1 : Free K .dram := n _ (by simp)
  have i2 : Free K .free := n _ (by simp)
  have i3 : Free K .memories := n _ (by simp)
  have i4 : Free K .regs := n _ (by simp)
  have i5 : Free K .report := n _ (by simp)
  have i6 : Free K .rings := n _ (by simp)
  have hk0 := Keeps.refl (K := K) s
  apply chkEnd_keeps
  exact hk0

theorem execRingDisableDone_keeps (r : Fin 64) (descs : List Desc) (s : State) :
    Answers [.counters, .free, .regs, .report, .rings] s (execRingDisableDone r descs s) := by
  refine answers_of fun K n => ⟨_, rfl, ?_⟩
  have i0 : Free K .counters := n _ (by simp)
  have i1 : Free K .free := n _ (by simp)
  have i2 : Free K .regs := n _ (by simp)
  have i3 : Free K .report := n _ (by simp)
  have i4 : Free K .rings := n _ (by simp)
  have hk0 := Keeps.refl (K := K) s
  refine keeps_ite ?_ ?_
  · extract_lets +onlyGivenNames x_0
    clear_value x_0
    extract_lets +onlyGivenNames s0_1
    refine keeps_cut (v := s0_1) ?_ fun hs0_1 => ?_
    · subst s0_1
      apply jobsFlushed_keeps
      exact hk0
    clear_value s0_1
    extract_lets +onlyGivenNames s1_2
    refine keeps_cut (v := s1_2) ?_ fun hs1_2 => ?_
    · subst s1_2
      refine keeps_mk ?_
      exact hs0_1
    clear_value s1_2
    apply jobsGo_keeps
    apply setFlag_keeps
    apply setFlag_keeps
    apply ringFlush_keeps
    apply setRing_keeps
    exact hs1_2
  · exact hk0

end Sys2Proof.Machine
end

