-- ==== Sys2Proof/Laws/KeepsLinePhys.lean ====
section
/-! SUPPORT. What the operations of Machine/LinePhys.lean keep. -/

-- One proof at a time: in the package as one text, proofs that wait for each other would each hold a thread.
set_option Elab.async false

namespace Sys2Proof.Machine

variable {K : Comp → Prop}

theorem rxStop_keeps {s0 s : State} (hk0 : Keeps K s0 s) (x : Side) [Free K .capture] [Free K .circuits] [Free K .counters] [Free K .free] [Free K .memories] [Free K .paddock] [Free K .pairing] [Free K .regs] [Free K .report] [Free K .time] [Free K .xings] [Free K (.line x)] :
    Keeps K s0 (State.rxStop s x) := by
  unfold State.rxStop
  extract_lets +onlyGivenNames i_0
  clear_value i_0
  extract_lets +onlyGivenNames s1_1
  refine keeps_cut (v := s1_1) ?_ fun hs1_1 => ?_
  · subst s1_1
    apply setFlag_keeps
    apply setFlag_keeps
    apply setFlag_keeps
    exact hk0
  clear_value s1_1
  apply lofDeclare_keeps
  apply framerHunt_keeps
  exact hs1_1

theorem rxStart_keeps {s0 s : State} (hk0 : Keeps K s0 s) (x : Side) [Free K .capture] [Free K .circuits] [Free K .counters] [Free K .free] [Free K .memories] [Free K .paddock] [Free K .pairing] [Free K .regs] [Free K .report] [Free K .time] [Free K .xings] [Free K (.line x)] :
    Keeps K s0 (State.rxStart s x) := by
  unfold State.rxStart
  extract_lets +onlyGivenNames i_0
  clear_value i_0
  extract_lets +onlyGivenNames s1_1
  refine keeps_cut (v := s1_1) ?_ fun hs1_1 => ?_
  · subst s1_1
    apply setFlag_keeps
    apply setFlag_keeps
    apply setFlag_keeps
    exact hk0
  clear_value s1_1
  refine keeps_ite ?_ ?_
  · exact hs1_1
  · apply lofDeclare_keeps
    exact hs1_1

theorem linModeWrite_keeps {s0 s : State} (hk0 : Keeps K s0 s) (x : Side) (v : Word) [Free K .capture] [Free K .circuits] [Free K .counters] [Free K .free] [Free K .memories] [Free K .paddock] [Free K .pairing] [Free K .regs] [Free K .report] [Free K .time] [Free K .xings] [Free K (.line x)] :
    Keeps K s0 (State.linModeWrite s x v) := by
  unfold State.linModeWrite
  extract_lets +onlyGivenNames i_0
  clear_value i_0
  extract_lets +onlyGivenNames changes1
  clear_value changes1
  refine keeps_ite ?_ ?_
  · apply raise_keeps
    apply setFlag_keeps
    exact hk0
  · refine keeps_ite ?_ ?_
    · exact hk0
    · extract_lets +onlyGivenNames s0_2
      refine keeps_cut (v := s0_2) ?_ fun hs0_2 => ?_
      · subst s0_2
        apply setF_keeps
        apply setF_keeps
        apply setF_keeps
        exact hk0
      clear_value s0_2
      extract_lets +onlyGivenNames s1_3
      refine keeps_cut (v := s1_3) ?_ fun hs1_3 => ?_
      · subst s1_3
        refine keeps_ite ?_ ?_
        · exact hs0_2
        · apply setF_keeps
          apply setF_keeps
          exact hs0_2
      clear_value s1_3
      extract_lets +onlyGivenNames s2_4
      refine keeps_cut (v := s2_4) ?_ fun hs2_4 => ?_
      · subst s2_4
        refine keeps_ite ?_ ?_
        · exact hs1_3
        · apply stopBurst_keeps
          exact hs1_3
      clear_value s2_4
      extract_lets +onlyGivenNames on_5
      clear_value on_5
      refine keeps_ite ?_ ?_
      · apply rxStart_keeps
        exact hs2_4
      · refine keeps_ite ?_ ?_
        · apply rxStop_keeps
          exact hs2_4
        · exact hs2_4

theorem txfShow_keeps {s0 s : State} (hk0 : Keeps K s0 s) (x : Side) [Free K .capture] [Free K .counters] [Free K .paddock] [Free K .regs] [Free K .report] [Free K .time] [Free K (.line x)] :
    Keeps K s0 (State.txfShow s x) := by
  unfold State.txfShow
  extract_lets +onlyGivenNames fault0
  clear_value fault0
  extract_lets +onlyGivenNames rise1
  clear_value rise1
  extract_lets +onlyGivenNames s1_2
  refine keeps_cut (v := s1_2) ?_ fun hs1_2 => ?_
  · subst s1_2
    apply setFlag_keeps
    exact hk0
  clear_value s1_2
  refine keeps_ite ?_ ?_
  · apply stopBurst_keeps
    apply lineEvent_keeps
    apply bump_keeps
    exact hs1_2
  · exact hs1_2

theorem feCfgWrite_keeps {s0 s : State} (hk0 : Keeps K s0 s) (x : Side) (v : Word) [Free K .capture] [Free K .counters] [Free K .paddock] [Free K .regs] [Free K .report] [Free K .time] [Free K (.line x)] :
    Keeps K s0 (State.feCfgWrite s x v) := by
  unfold State.feCfgWrite
  apply txfShow_keeps
  apply benShow_keeps
  apply setReg_keeps
  exact hk0

theorem sdSet_keeps {s0 s : State} (hk0 : Keeps K s0 s) (x : Side) (b : Bool) [Free K .capture] [Free K .circuits] [Free K .counters] [Free K .paddock] [Free K .pairing] [Free K .regs] [Free K .report] [Free K .time] [Free K (.line x)] :
    Keeps K s0 (State.sdSet s x b) := by
  unfold State.sdSet
  extract_lets +onlyGivenNames s1_0
  refine keeps_cut (v := s1_0) ?_ fun hs1_0 => ?_
  · subst s1_0
    apply setFlag_keeps
    exact hk0
  clear_value s1_0
  refine keeps_ite ?_ ?_
  · exact hs1_0
  · apply dsValidFall_keeps
    exact hs1_0

theorem setTapFine_keeps {s0 s : State} (hk0 : Keeps K s0 s) (x : Side) (n : Nat) (v : Int) [Free K .regs] [Free K (.line x)] :
    Keeps K s0 (State.setTapFine s x n v) := by
  unfold State.setTapFine
  apply modLine_keeps
  apply setReg_keeps
  exact hk0

theorem tapStep_keeps {s0 s : State} (hk0 : Keeps K s0 s) (x : Side) (n : Nat) (sign : Int) [Free K .counters] [Free K .regs] [Free K .report] [Free K (.line x)] :
    Keeps K s0 (State.tapStep s x n sign) := by
  unfold State.tapStep
  extract_lets +onlyGivenNames mu_0
  clear_value mu_0
  extract_lets +onlyGivenNames v_1
  clear_value v_1
  refine keeps_ite ?_ ?_
  · apply lineEvent_keeps
    apply setTapFine_keeps
    exact hk0
  · refine keeps_ite ?_ ?_
    · apply lineEvent_keeps
      apply setTapFine_keeps
      exact hk0
    · apply setTapFine_keeps
      exact hk0

theorem lmsStep_keeps {s0 s : State} (hk0 : Keeps K s0 s) (x : Side) (signs : List Int) [Free K .counters] [Free K .regs] [Free K .report] [Free K (.line x)] :
    Keeps K s0 (State.lmsStep s x signs) := by
  unfold State.lmsStep
  refine keeps_foldl _ ?_ ?_
  · exact hk0
  · intro y0 y1 hy2
    apply tapStep_keeps
    exact hy2

theorem tapWrite_keeps {s0 s : State} (hk0 : Keeps K s0 s) (x : Side) (a : Nat) (v : Word) [Free K .regs] [Free K (.line x)] :
    Keeps K s0 (State.tapWrite s x a v) := by
  unfold State.tapWrite
  extract_lets +onlyGivenNames n_0
  clear_value n_0
  refine keeps_ite ?_ ?_
  · exact hk0
  · apply setTapFine_keeps
    exact hk0

theorem dspCfgWrite_keeps {s0 s : State} (hk0 : Keeps K s0 s) (x : Side) (v : Word) [Free K .regs] [Free K (.line x)] :
    Keeps K s0 (State.dspCfgWrite s x v) := by
  unfold State.dspCfgWrite
  extract_lets +onlyGivenNames s1_0
  refine keeps_cut (v := s1_0) ?_ fun hs1_0 => ?_
  · subst s1_0
    apply setReg_keeps
    exact hk0
  clear_value s1_0
  refine keeps_ite ?_ ?_
  · exact hs1_0
  · apply setTapFine_keeps
    apply setTapFine_keeps
    exact hs1_0

theorem peqCtrlWrite_keeps {s0 s : State} (hk0 : Keeps K s0 s) (x : Side) (q : Req) (v : Word) [Free K .counters] [Free K .regs] [Free K .report] [Free K (.line x)] :
    Keeps K s0 (State.peqCtrlWrite s x q v) := by
  unfold State.peqCtrlWrite
  extract_lets +onlyGivenNames i_0
  clear_value i_0
  extract_lets +onlyGivenNames owner1
  clear_value owner1
  extract_lets +onlyGivenNames s1_2
  refine keeps_cut (v := s1_2) ?_ fun hs1_2 => ?_
  · subst s1_2
    refine keeps_ite ?_ ?_
    · apply setF_keeps
      exact hk0
    · exact hk0
  clear_value s1_2
  extract_lets +onlyGivenNames s2_3
  refine keeps_cut (v := s2_3) ?_ fun hs2_3 => ?_
  · subst s2_3
    apply setF_keeps
    exact hs1_2
  clear_value s2_3
  refine keeps_ite ?_ ?_
  · exact hs2_3
  · apply ownerWrite_keeps
    · exact hs2_3
    · intro y4 hy5
      extract_lets +onlyGivenNames set_6
      clear_value set_6
      extract_lets +onlyGivenNames s1_7
      refine keeps_cut (v := s1_7) ?_ fun hs1_7 => ?_
      · subst s1_7
        refine keeps_ite ?_ ?_
        · apply setF_keeps
          exact hy5
        · exact hy5
      clear_value s1_7
      apply setFlag_keeps
      apply modLine_keeps
      exact hs1_7

theorem i2cEnd_keeps {s0 s : State} (hk0 : Keeps K s0 s) (x : Side) (result : Nat) [Free K .counters] [Free K .regs] [Free K .report] :
    Keeps K s0 (State.i2cEnd s x result) := by
  unfold State.i2cEnd
  extract_lets +onlyGivenNames i_0
  clear_value i_0
  extract_lets +onlyGivenNames s1_1
  refine keeps_cut (v := s1_1) ?_ fun hs1_1 => ?_
  · subst s1_1
    apply setF_keeps
    apply setFlag_keeps
    apply setFlag_keeps
    exact hk0
  clear_value s1_1
  refine keeps_ite ?_ ?_
  · exact hs1_1
  · apply lineEvent_keeps
    exact hs1_1

theorem i2cCmdWrite_keeps {s0 s : State} (hk0 : Keeps K s0 s) (x : Side) (q : Req) (v : Word) [Free K .counters] [Free K .regs] [Free K .report] :
    Keeps K s0 (State.i2cCmdWrite s x q v) := by
  unfold State.i2cCmdWrite
  extract_lets +onlyGivenNames i_0
  clear_value i_0
  apply ownerWrite_keeps
  · exact hk0
  · intro y1 hy2
    extract_lets +onlyGivenNames go_3
    clear_value go_3
    refine keeps_ite ?_ ?_
    · apply setFlag_keeps
      exact hy2
    · extract_lets +onlyGivenNames s1_4
      refine keeps_cut (v := s1_4) ?_ fun hs1_4 => ?_
      · subst s1_4
        apply setReg_keeps
        exact hy2
      clear_value s1_4
      refine keeps_ite ?_ ?_
      · exact hs1_4
      · refine keeps_ite ?_ ?_
        · apply i2cEnd_keeps
          exact hs1_4
        · apply setFlag_keeps
          exact hs1_4

theorem i2cCfgWrite_keeps {s0 s : State} (hk0 : Keeps K s0 s) (x : Side) (q : Req) (v : Word) [Free K .counters] [Free K .regs] [Free K .report] :
    Keeps K s0 (State.i2cCfgWrite s x q v) := by
  unfold State.i2cCfgWrite
  extract_lets +onlyGivenNames i_0
  clear_value i_0
  extract_lets +onlyGivenNames en_1
  clear_value en_1
  extract_lets +onlyGivenNames was_2
  clear_value was_2
  refine keeps_ite ?_ ?_
  · apply resConflict_keeps
    exact hk0
  · extract_lets +onlyGivenNames s1_3
    refine keeps_cut (v := s1_3) ?_ fun hs1_3 => ?_
    · subst s1_3
      refine keeps_ite ?_ ?_
      · apply setF_keeps
        exact hk0
      · exact hk0
    clear_value s1_3
    extract_lets +onlyGivenNames s2_4
    refine keeps_cut (v := s2_4) ?_ fun hs2_4 => ?_
    · subst s2_4
      apply setF_keeps
      exact hs1_3
    clear_value s2_4
    refine keeps_ite ?_ ?_
    · apply setFlag_keeps
      apply resTake_keeps
      exact hs2_4
    · refine keeps_ite ?_ ?_
      · apply setFlag_keeps
        apply resRelease_keeps
        exact hs2_4
      · exact hs2_4

theorem codewordMark_keeps {s0 s : State} (hk0 : Keeps K s0 s) (x : Side) (idx : Nat) (bad : Bool) [Free K .circuits] [Free K (.line x)] :
    Keeps K s0 (State.codewordMark s x idx bad) := by
  unfold State.codewordMark
  extract_lets +onlyGivenNames s1_0
  refine keeps_cut (v := s1_0) ?_ fun hs1_0 => ?_
  · subst s1_0
    refine keeps_ite ?_ ?_
    · apply modLine_keeps
      exact hk0
    · exact hk0
  clear_value s1_0
  refine keeps_ite ?_ ?_
  · exact hs1_0
  · extract_lets +onlyGivenNames s2_1
    refine keeps_cut (v := s2_1) ?_ fun hs2_1 => ?_
    · subst s2_1
      apply modLine_keeps
      exact hs1_0
    clear_value s2_1
    extract_lets +onlyGivenNames add_2
    clear_value add_2
    split
    · apply setDsFrames_keeps
      exact hs2_1
    · apply setDsFrames_keeps
      exact hs2_1
    · exact hs2_1

theorem rxpCommit_keeps {s0 s : State} (hk0 : Keeps K s0 s) (side k : Nat) (v : Word) [Free K .regs] :
    Keeps K s0 (State.rxpCommit s side k v) := by
  unfold State.rxpCommit
  extract_lets +onlyGivenNames a_0
  clear_value a_0
  apply setReg_keeps
  apply setReg_keeps
  exact hk0

theorem rxpShadow_keeps {s0 s : State} (hk0 : Keeps K s0 s) (a : Nat) (v : Word) [Free K .regs] :
    Keeps K s0 (State.rxpShadow s a v) := by
  unfold State.rxpShadow
  apply setReg_keeps
  exact hk0

theorem execReceiverStart_keeps (q : Req) (x : Side) (v : Word) (s : State) :
    Answers [.capture, .circuits, .counters, .free, .memories, .paddock, .pairing, .regs, .report, .time, .xings, .line x] s (execReceiverStart q x v s) := by
  refine answers_of fun K n => ⟨_, rfl, ?_⟩
  have i0 : Free K .capture := n _ (by simp)
  have i1 : Free K .circuits := n _ (by simp)
  have i2 : Free K .counters := n _ (by simp)
  have i3 : Free K .free := n _ (by simp)
  have i4 : Free K .memories := n _ (by simp)
  have i5 : Free K .paddock := n _ (by simp)
  have i6 : Free K .pairing := n _ (by simp)
  have i7 : Free K .regs := n _ (by simp)
  have i8 : Free K .report := n _ (by simp)
  have i9 : Free K .time := n _ (by simp)
  have i10 : Free K .xings := n _ (by simp)
  have i11 : Free K (.line x) := n _ (by simp)
  have hk0 := Keeps.refl (K := K) s
  apply guardW_keeps
  · exact hk0
  · intro y0 hy1
    apply linModeWrite_keeps
    exact hy1

theorem execReceiverStop_keeps (q : Req) (x : Side) (v : Word) (s : State) :
    Answers [.capture, .circuits, .counters, .free, .memories, .paddock, .pairing, .regs, .report, .time, .xings, .line x] s (execReceiverStop q x v s) := by
  refine answers_of fun K n => ⟨_, rfl, ?_⟩
  have i0 : Free K .capture := n _ (by simp)
  have i1 : Free K .circuits := n _ (by simp)
  have i2 : Free K .counters := n _ (by simp)
  have i3 : Free K .free := n _ (by simp)
  have i4 : Free K .memories := n _ (by simp)
  have i5 : Free K .paddock := n _ (by simp)
  have i6 : Free K .pairing := n _ (by simp)
  have i7 : Free K .regs := n _ (by simp)
  have i8 : Free K .report := n _ (by simp)
  have i9 : Free K .time := n _ (by simp)
  have i10 : Free K .xings := n _ (by simp)
  have i11 : Free K (.line x) := n _ (by simp)
  have hk0 := Keeps.refl (K := K) s
  apply guardW_keeps
  · exact hk0
  · intro y0 hy1
    apply linModeWrite_keeps
    exact hy1

theorem execLineModeSet_keeps (q : Req) (x : Side) (v : Word) (s : State) :
    Answers [.capture, .circuits, .counters, .free, .memories, .paddock, .pairing, .regs, .report, .time, .xings, .line x] s (execLineModeSet q x v s) := by
  refine answers_of fun K n => ⟨_, rfl, ?_⟩
  have i0 : Free K .capture := n _ (by simp)
  have i1 : Free K .circuits := n _ (by simp)
  have i2 : Free K .counters := n _ (by simp)
  have i3 : Free K .free := n _ (by simp)
  have i4 : Free K .memories := n _ (by simp)
  have i5 : Free K .paddock := n _ (by simp)
  have i6 : Free K .pairing := n _ (by simp)
  have i7 : Free K .regs := n _ (by simp)
  have i8 : Free K .report := n _ (by simp)
  have i9 : Free K .time := n _ (by simp)
  have i10 : Free K .xings := n _ (by simp)
  have i11 : Free K (.line x) := n _ (by simp)
  have hk0 := Keeps.refl (K := K) s
  apply guardW_keeps
  · exact hk0
  · intro y0 hy1
    apply linModeWrite_keeps
    exact hy1

theorem execTxEnable_keeps (q : Req) (x : Side) (on : Bool) (s : State) :
    Answers [.capture, .circuits, .counters, .free, .memories, .paddock, .pairing, .regs, .report, .time, .xings, .line x] s (execTxEnable q x on s) := by
  refine answers_of fun K n => ⟨_, rfl, ?_⟩
  have i0 : Free K .capture := n _ (by simp)
  have i1 : Free K .circuits := n _ (by simp)
  have i2 : Free K .counters := n _ (by simp)
  have i3 : Free K .free := n _ (by simp)
  have i4 : Free K .memories := n _ (by simp)
  have i5 : Free K .paddock := n _ (by simp)
  have i6 : Free K .pairing := n _ (by simp)
  have i7 : Free K .regs := n _ (by simp)
  have i8 : Free K .report := n _ (by simp)
  have i9 : Free K .time := n _ (by simp)
  have i10 : Free K .xings := n _ (by simp)
  have i11 : Free K (.line x) := n _ (by simp)
  have hk0 := Keeps.refl (K := K) s
  apply guardW_keeps
  · exact hk0
  · intro y0 hy1
    apply linModeWrite_keeps
    exact hy1

theorem execAdcCalibrationDone_keeps (x : Side) (s : State) :
    Answers [.regs] s (execAdcCalibrationDone x s) := by
  refine answers_of fun K n => ⟨_, rfl, ?_⟩
  have i0 : Free K .regs := n _ (by simp)
  have hk0 := Keeps.refl (K := K) s
  refine keeps_ite ?_ ?_
  · apply setFlag_keeps
    exact hk0
  · exact hk0

theorem execCdrLockGained_keeps (x : Side) (s : State) :
    Answers [.counters, .regs, .report] s (execCdrLockGained x s) := by
  refine answers_of fun K n => ⟨_, rfl, ?_⟩
  have i0 : Free K .counters := n _ (by simp)
  have i1 : Free K .regs := n _ (by simp)
  have i2 : Free K .report := n _ (by simp)
  have hk0 := Keeps.refl (K := K) s
  refine keeps_ite ?_ ?_
  · apply lineEvent_keeps
    apply setFlag_keeps
    exact hk0
  · exact hk0

theorem execCdrLockLost_keeps (x : Side) (s : State) :
    Answers [.capture, .circuits, .counters, .paddock, .pairing, .regs, .report, .time, .line x] s (execCdrLockLost x s) := by
  refine answers_of fun K n => ⟨_, rfl, ?_⟩
  have i0 : Free K .capture := n _ (by simp)
  have i1 : Free K .circuits := n _ (by simp)
  have i2 : Free K .counters := n _ (by simp)
  have i3 : Free K .paddock := n _ (by simp)
  have i4 : Free K .pairing := n _ (by simp)
  have i5 : Free K .regs := n _ (by simp)
  have i6 : Free K .report := n _ (by simp)
  have i7 : Free K .time := n _ (by simp)
  have i8 : Free K (.line x) := n _ (by simp)
  have hk0 := Keeps.refl (K := K) s
  refine keeps_ite ?_ ?_
  · apply sdSet_keeps
    apply lineEvent_keeps
    apply setFlag_keeps
    exact hk0
  · exact hk0

theorem execAdaptationConverged_keeps (x : Side) (steps : List (List Int)) (thresholds : List Int) (s : State) :
    Answers [.counters, .regs, .report, .line x] s (execAdaptationConverged x steps thresholds s) := by
  refine answers_of fun K n => ⟨_, rfl, ?_⟩
  have i0 : Free K .counters := n _ (by simp)
  have i1 : Free K .regs := n _ (by simp)
  have i2 : Free K .report := n _ (by simp)
  have i3 : Free K (.line x) := n _ (by simp)
  have hk0 := Keeps.refl (K := K) s
  refine keeps_ite ?_ ?_
  · apply setFlag_keeps
    refine keeps_foldl _ ?_ ?_
    · apply modLine_keeps
      exact hk0
    · intro y0 y1 hy2
      apply lmsStep_keeps
      exact hy2
  · exact hk0

theorem execSignalDetectChange_keeps (x : Side) (pp : Nat) (s : State) :
    Answers [.capture, .circuits, .counters, .paddock, .pairing, .regs, .report, .time, .line x] s (execSignalDetectChange x pp s) := by
  refine answers_of fun K n => ⟨_, rfl, ?_⟩
  have i0 : Free K .capture := n _ (by simp)
  have i1 : Free K .circuits := n _ (by simp)
  have i2 : Free K .counters := n _ (by simp)
  have i3 : Free K .paddock := n _ (by simp)
  have i4 : Free K .pairing := n _ (by simp)
  have i5 : Free K .regs := n _ (by simp)
  have i6 : Free K .report := n _ (by simp)
  have i7 : Free K .time := n _ (by simp)
  have i8 : Free K (.line x) := n _ (by simp)
  have hk0 := Keeps.refl (K := K) s
  refine keeps_ite ?_ ?_
  · apply sdSet_keeps
    exact hk0
  · exact hk0

theorem execCodewordDecode_keeps (x : Side) (idx : Fin 1440) (codes : List Int) (bits iters : Nat) (unc : Bool) (s : State) :
    Answers [.circuits, .counters, .free, .line x] s (execCodewordDecode x idx codes bits iters unc s) := by
  refine answers_of fun K n => ⟨_, rfl, ?_⟩
  have i0 : Free K .circuits := n _ (by simp)
  have i1 : Free K .counters := n _ (by simp)
  have i2 : Free K .free := n _ (by simp)
  have i3 : Free K (.line x) := n _ (by simp)
  have hk0 := Keeps.refl (K := K) s
  refine keeps_ite ?_ ?_
  · extract_lets +onlyGivenNames tie_0
    refine keeps_cut (v := tie_0.2) ?_ fun htie_0 => ?_
    · subst tie_0
      apply takeFree_keeps
      exact hk0
    clear_value tie_0
    extract_lets +onlyGivenNames llr_1
    clear_value llr_1
    extract_lets +onlyGivenNames s1_2
    refine keeps_cut (v := s1_2) ?_ fun hs1_2 => ?_
    · subst s1_2
      apply bump_keeps
      apply bumpIf_keeps
      apply bump_keeps
      apply bump_keeps
      exact htie_0
    clear_value s1_2
    apply codewordMark_keeps
    apply modLine_keeps
    exact hs1_2
  · exact hk0

theorem execTxfChange_keeps (x : Side) (level : Bool) (s : State) :
    Answers [.capture, .counters, .paddock, .regs, .report, .time, .line x] s (execTxfChange x level s) := by
  refine answers_of fun K n => ⟨_, rfl, ?_⟩
  have i0 : Free K .capture := n _ (by simp)
  have i1 : Free K .counters := n _ (by simp)
  have i2 : Free K .paddock := n _ (by simp)
  have i3 : Free K .regs := n _ (by simp)
  have i4 : Free K .report := n _ (by simp)
  have i5 : Free K .time := n _ (by simp)
  have i6 : Free K (.line x) := n _ (by simp)
  have hk0 := Keeps.refl (K := K) s
  apply txfShow_keeps
  apply modLine_keeps
  exact hk0

theorem execPeqLoad_keeps (q : Req) (x : Side) (v : Word) (s : State) :
    Answers [.counters, .regs, .report, .line x] s (execPeqLoad q x v s) := by
  refine answers_of fun K n => ⟨_, rfl, ?_⟩
  have i0 : Free K .counters := n _ (by simp)
  have i1 : Free K .regs := n _ (by simp)
  have i2 : Free K .report := n _ (by simp)
  have i3 : Free K (.line x) := n _ (by simp)
  have hk0 := Keeps.refl (K := K) s
  apply guardW_keeps
  · exact hk0
  · intro y0 hy1
    apply peqCtrlWrite_keeps
    exact hy1

theorem execPeqDecisionPoint_keeps (x : Side) (s : State) :
    Answers [.counters, .regs, .report, .line x] s (execPeqDecisionPoint x s) := by
  refine answers_of fun K n => ⟨_, rfl, ?_⟩
  have i0 : Free K .counters := n _ (by simp)
  have i1 : Free K .regs := n _ (by simp)
  have i2 : Free K .report := n _ (by simp)
  have i3 : Free K (.line x) := n _ (by simp)
  have hk0 := Keeps.refl (K := K) s
  apply peqDecide_keeps
  exact hk0

theorem execRxpCalCommit_keeps (q : Req) (x : Side) (k : Fin 8) (v : Word) (s : State) :
    Answers [.counters, .regs, .report] s (execRxpCalCommit q x k v s) := by
  refine answers_of fun K n => ⟨_, rfl, ?_⟩
  have i0 : Free K .counters := n _ (by simp)
  have i1 : Free K .regs := n _ (by simp)
  have i2 : Free K .report := n _ (by simp)
  have hk0 := Keeps.refl (K := K) s
  apply guardW_keeps
  · exact hk0
  · intro y0 hy1
    apply rxpCommit_keeps
    exact hy1

theorem execI2cTransactionStart_keeps (q : Req) (x : Side) (v : Word) (s : State) :
    Answers [.counters, .regs, .report] s (execI2cTransactionStart q x v s) := by
  refine answers_of fun K n => ⟨_, rfl, ?_⟩
  have i0 : Free K .counters := n _ (by simp)
  have i1 : Free K .regs := n _ (by simp)
  have i2 : Free K .report := n _ (by simp)
  have hk0 := Keeps.refl (K := K) s
  apply guardW_keeps
  · exact hk0
  · intro y0 hy1
    apply i2cCmdWrite_keeps
    exact hy1

theorem execI2cTransactionDone_keeps (x : Side) (result : Fin 4) (bytes : List Byte) (s : State) :
    Answers [.counters, .regs, .report] s (execI2cTransactionDone x result bytes s) := by
  refine answers_of fun K n => ⟨_, rfl, ?_⟩
  have i0 : Free K .counters := n _ (by simp)
  have i1 : Free K .regs := n _ (by simp)
  have i2 : Free K .report := n _ (by simp)
  have hk0 := Keeps.refl (K := K) s
  refine keeps_ite ?_ ?_
  · extract_lets +onlyGivenNames n_0
    clear_value n_0
    extract_lets +onlyGivenNames old_1
    clear_value old_1
    extract_lets +onlyGivenNames new_2
    clear_value new_2
    extract_lets +onlyGivenNames s1_3
    refine keeps_cut (v := s1_3) ?_ fun hs1_3 => ?_
    · subst s1_3
      refine keeps_ite ?_ ?_
      · apply setReg_keeps
        apply setReg_keeps
        exact hk0
      · exact hk0
    clear_value s1_3
    apply i2cEnd_keeps
    exact hs1_3
  · exact hk0

theorem execI2cBus1Enable_keeps (q : Req) (x : Side) (v : Word) (s : State) :
    Answers [.counters, .regs, .report] s (execI2cBus1Enable q x v s) := by
  refine answers_of fun K n => ⟨_, rfl, ?_⟩
  have i0 : Free K .counters := n _ (by simp)
  have i1 : Free K .regs := n _ (by simp)
  have i2 : Free K .report := n _ (by simp)
  have hk0 := Keeps.refl (K := K) s
  apply guardW_keeps
  · exact hk0
  · intro y0 hy1
    apply i2cCfgWrite_keeps
    exact hy1

end Sys2Proof.Machine
end

