-- ==== Sys2Proof/Laws/KeepsImage.lean ====
section
/-! SUPPORT. What the operations of Machine/Image.lean keep. -/

-- One proof at a time: in the package as one text, proofs that wait for each other would each hold a thread.
set_option Elab.async false

namespace Sys2Proof.Machine

variable {K : Comp → Prop}

theorem imgAuth_keeps {s0 s : State} (hk0 : Keeps K s0 s) (slot : Nat) (b : List Byte) [Free K .free] :
    Keeps K s0 (State.imgAuth s slot b).2 := by
  unfold State.imgAuth
  extract_lets +onlyGivenNames n_0
  clear_value n_0
  refine keeps_ite2 ?_ ?_
  · refine keeps_pair ?_
    apply takeFree_keeps
    exact hk0
  · refine keeps_ite2 ?_ ?_
    · refine keeps_pair ?_
      exact hk0
    · refine keeps_ite2 ?_ ?_
      · refine keeps_pair ?_
        exact hk0
      · refine keeps_pair ?_
        exact hk0

theorem imgCheck_keeps {s0 s : State} (hk0 : Keeps K s0 s) (target len : Nat) (auth : Bool) (slot : Nat) (b : List Byte) [Free K .free] :
    Keeps K s0 (State.imgCheck s target len auth slot b).2 := by
  unfold State.imgCheck
  refine keeps_ite2 ?_ ?_
  · refine keeps_pair ?_
    exact hk0
  · refine keeps_ite2 ?_ ?_
    · refine keeps_pair ?_
      exact hk0
    · refine keeps_ite2 ?_ ?_
      · refine keeps_pair ?_
        exact hk0
      · refine keeps_ite2 ?_ ?_
        · refine keeps_pair ?_
          exact hk0
        · refine keeps_ite2 ?_ ?_
          · refine keeps_pair ?_
            exact hk0
          · refine keeps_ite2 ?_ ?_
            · refine keeps_pair ?_
              exact hk0
            · refine keeps_ite2 ?_ ?_
              · apply imgAuth_keeps
                exact hk0
              · refine keeps_pair ?_
                exact hk0

theorem imgReads_keeps {s0 s : State} (h : Keeps K s0 s) (target len : Nat) (auth : Bool) (slot : Nat)
    (first second : Option (List Byte)) [Free K .free] : Keeps K s0 (s.imgReads target len auth slot first second).2.2 := by
  unfold State.imgReads
  split
  · exact h
  · rename_i b
    have k := imgCheck_keeps h target len auth slot b
    split
    · rename_i he
      rw [he] at k
      split
      · exact k
      · split <;> exact k
    · rename_i he
      rw [he] at k
      exact k

theorem imgTimeout_keeps {s0 s : State} (hk0 : Keeps K s0 s) (r : Nat) [Free K .counters] [Free K .free] [Free K .regs] [Free K .report] :
    Keeps K s0 (State.imgTimeout s r) := by
  unfold State.imgTimeout
  refine keeps_ite ?_ ?_
  · apply raiseIf_keeps
    apply takeFree_keeps
    exact hk0
  · exact hk0

end Sys2Proof.Machine
end

