-- ==== Sys2Proof/Laws/KeepsProtection.lean ====
section
/-! SUPPORT. What the operations of Machine/Protection.lean keep. -/

-- One proof at a time: in the package as one text, proofs that wait for each other would each hold a thread.
set_option Elab.async false

namespace Sys2Proof.Machine

variable {K : Comp → Prop}

theorem roShow_keeps {s0 s : State} (hk0 : Keeps K s0 s) [Free K .regs] :
    Keeps K s0 (State.roShow s) := by
  unfold State.roShow
  apply setF_keeps
  exact hk0

theorem seqForget_keeps {s0 s : State} (hk0 : Keeps K s0 s) (x : Side) [Free K (.line x)] :
    Keeps K s0 (State.seqForget s x) := by
  unfold State.seqForget
  extract_lets +onlyGivenNames anew0
  clear_value anew0
  apply modLine_keeps
  exact hk0

theorem burstsUnfill_keeps {s0 s : State} (hk0 : Keeps K s0 s) (x : Side) [Free K .free] [Free K (.line x)] :
    Keeps K s0 (State.burstsUnfill s x) := by
  unfold State.burstsUnfill
  extract_lets +onlyGivenNames s1_0
  refine keeps_cut (v := s1_0) ?_ fun hs1_0 => ?_
  · subst s1_0
    apply unassemble_keeps
    exact hk0
  clear_value s1_0
  extract_lets +onlyGivenNames z_1
  refine keeps_cut (v := z_1.2) ?_ fun hz_1 => ?_
  · subst z_1
    apply idleBursts_keeps
    exact hs1_0
  clear_value z_1
  apply modLine_keeps
  exact hz_1

theorem pairingClear_keeps {s0 s : State} (hk0 : Keeps K s0 s) [Free K .counters] [Free K .free] [Free K .memories] [Free K .paddock] [Free K .pairing] [Free K .regs] [∀ x, Free K (.line x)] :
    Keeps K s0 (State.pairingClear s) := by
  unfold State.pairingClear
  extract_lets +onlyGivenNames n_0
  clear_value n_0
  extract_lets +onlyGivenNames s1_1
  refine keeps_cut (v := s1_1) ?_ fun hs1_1 => ?_
  · subst s1_1
    refine keeps_foldl _ ?_ ?_
    · apply burstsUnfill_keeps
      apply burstsUnfill_keeps
      exact hk0
    · intro y2 y3 hy4
      apply padDrop_keeps
      exact hy4
  clear_value s1_1
  apply roShow_keeps
  apply setFlag_keeps
  apply bump_keeps
  apply seqForget_keeps
  apply seqForget_keeps
  apply modPrt_keeps
  exact hs1_1

theorem pairingWrite_keeps {s0 s : State} (hk0 : Keeps K s0 s) (v : Word) [Free K .counters] [Free K .free] [Free K .memories] [Free K .paddock] [Free K .pairing] [Free K .regs] [Free K .report] [Free K .time] [∀ x, Free K (.line x)] :
    Keeps K s0 (State.pairingWrite s v) := by
  unfold State.pairingWrite
  refine keeps_ite ?_ ?_
  · apply raise_keeps
    apply setFlag_keeps
    exact hk0
  · extract_lets +onlyGivenNames change0
    clear_value change0
    extract_lets +onlyGivenNames s1_1
    refine keeps_cut (v := s1_1) ?_ fun hs1_1 => ?_
    · subst s1_1
      apply modPrt_keeps
      apply setReg_keeps
      exact hk0
    clear_value s1_1
    apply prtEval_keeps
    refine keeps_ite ?_ ?_
    · apply timMove_keeps
      apply pairingClear_keeps
      exact hs1_1
    · exact hs1_1

theorem prtRefuse_keeps {s0 s : State} (hk0 : Keeps K s0 s) (cmd : Nat) [Free K .counters] [Free K .regs] [Free K .report] :
    Keeps K s0 (State.prtRefuse s cmd) := by
  unfold State.prtRefuse
  apply raise_keeps
  exact hk0

theorem prtCommand_keeps {s0 s : State} (hk0 : Keeps K s0 s) (cmd : Nat) [Free K .capture] [Free K .circuits] [Free K .counters] [Free K .free] [Free K .memories] [Free K .paddock] [Free K .pairing] [Free K .regs] [Free K .report] [Free K .time] [∀ x, Free K (.line x)] :
    Keeps K s0 (State.prtCommand s cmd) := by
  unfold State.prtCommand
  extract_lets +onlyGivenNames locked0
  clear_value locked0
  split
  · refine keeps_ite ?_ ?_
    · apply prtEval_keeps
      apply prtSwitch_keeps
      exact hk0
    · apply prtRefuse_keeps
      exact hk0
  · refine keeps_ite ?_ ?_
    · apply prtEval_keeps
      apply setFlag_keeps
      exact hk0
    · apply prtRefuse_keeps
      exact hk0
  · refine keeps_ite ?_ ?_
    · apply prtDecide_keeps
      apply prtEval_keeps
      apply setFlag_keeps
      exact hk0
    · apply prtRefuse_keeps
      exact hk0
  · apply prtRefuse_keeps
    exact hk0

theorem wtrDone_keeps {s0 s : State} (hk0 : Keeps K s0 s) [Free K .capture] [Free K .circuits] [Free K .counters] [Free K .free] [Free K .memories] [Free K .paddock] [Free K .pairing] [Free K .regs] [Free K .report] [Free K .time] [∀ x, Free K (.line x)] :
    Keeps K s0 (State.wtrDone s) := by
  unfold State.wtrDone
  refine keeps_ite ?_ ?_
  · exact hk0
  · apply raise_keeps
    apply prtSwitch_keeps
    apply setFlag_keeps
    exact hk0

theorem padFlip_keeps {s0 s : State} (hk0 : Keeps K s0 s) (x : Frame) [Free K .free] [Free K .regs] :
    Keeps K s0 (State.padFlip s x).2 := by
  unfold State.padFlip
  refine keeps_ite2 ?_ ?_
  · extract_lets +onlyGivenNames b_0
    refine keeps_cut (v := b_0.2) ?_ fun hb_0 => ?_
    · subst b_0
      apply takeFree_keeps
      exact hk0
    clear_value b_0
    refine keeps_ite2 ?_ ?_
    · refine keeps_pair ?_
      apply flipUsed_keeps
      exact hb_0
    · refine keeps_pair ?_
      exact hb_0
  · refine keeps_pair ?_
    exact hk0

theorem padArrive_keeps {s0 s : State} (hk0 : Keeps K s0 s) (x : Frame) [Free K .counters] [Free K .free] [Free K .paddock] [Free K .regs] :
    Keeps K s0 (State.padArrive s x).2 := by
  unfold State.padArrive
  refine keeps_ite2 ?_ ?_
  · refine keeps_pair ?_
    exact hk0
  · refine keeps_ite2 ?_ ?_
    · extract_lets +onlyGivenNames r_0
      refine keeps_cut (v := r_0.2) ?_ fun hr_0 => ?_
      · subst r_0
        apply padStore_keeps
        exact hk0
      clear_value r_0
      extract_lets +onlyGivenNames z_1
      refine keeps_cut (v := z_1.2) ?_ fun hz_1 => ?_
      · subst z_1
        apply padFlip_keeps
        exact hr_0
      clear_value z_1
      refine keeps_pair ?_
      exact hz_1
    · refine keeps_pair ?_
      apply bump_keeps
      exact hk0

theorem dsTake_keeps {s0 s : State} (hk0 : Keeps K s0 s) (x : Side) (exp : Bool) [Free K .regs] [Free K .xings] :
    Keeps K s0 (State.dsTake s x exp) := by
  unfold State.dsTake
  extract_lets +onlyGivenNames i_0
  clear_value i_0
  extract_lets +onlyGivenNames q_1
  clear_value q_1
  apply setXing_keeps
  exact hk0

theorem setExpect_keeps {s0 s : State} (hk0 : Keeps K s0 s) (port e : Nat) [Free K .pairing] :
    Keeps K s0 (State.setExpect s port e) := by
  unfold State.setExpect
  apply modPrt_keeps
  exact hk0

theorem roPass_keeps {s0 s : State} (hk0 : Keeps K s0 s) (f : Frame) [Free K .pairing] :
    Keeps K s0 (State.roPass s f) := by
  unfold State.roPass
  apply modPrt_keeps
  exact hk0

theorem roDrain_keeps {s0 s : State} (h : Keeps K s0 s) (port n e : Nat) [Free K .pairing] : Keeps K s0 (s.roDrain port n e) := by
  induction n generalizing s e with
  | zero => exact setExpect_keeps h ..
  | succ n ih =>
    unfold State.roDrain
    split
    · exact setExpect_keeps h ..
    · exact ih (roPass_keeps (modPrt_keeps h _) _) _

theorem roDeliver_keeps {s0 s : State} (hk0 : Keeps K s0 s) (port : Nat) (f : Frame) [Free K .pairing] :
    Keeps K s0 (State.roDeliver s port f) := by
  unfold State.roDeliver
  apply roDrain_keeps
  apply roPass_keeps
  exact hk0

theorem roExpire_keeps {s0 s : State} (hk0 : Keeps K s0 s) (port : Nat) [Free K .counters] [Free K .pairing] :
    Keeps K s0 (State.roExpire s port) := by
  unfold State.roExpire
  extract_lets +onlyGivenNames e_0
  clear_value e_0
  split
  · exact hk0
  · apply roDrain_keeps
    apply bumpIf_keeps
    exact hk0

theorem roFull_keeps {s0 s : State} (hk0 : Keeps K s0 s) (port : Nat) (f : Frame) [Free K .counters] [Free K .pairing] [Free K .regs] [Free K .report] :
    Keeps K s0 (State.roFull s port f) := by
  unfold State.roFull
  extract_lets +onlyGivenNames s1_0
  refine keeps_cut (v := s1_0) ?_ fun hs1_0 => ?_
  · subst s1_0
    apply roExpire_keeps
    apply raiseLim_keeps
    apply bump_keeps
    exact hk0
  clear_value s1_0
  extract_lets +onlyGivenNames d_1
  clear_value d_1
  apply roDeliver_keeps
  apply bumpIf_keeps
  exact hs1_0

theorem roArrive_keeps {s0 s : State} (hk0 : Keeps K s0 s) (f : Frame) [Free K .counters] [Free K .free] [Free K .paddock] [Free K .pairing] [Free K .regs] [Free K .report] :
    Keeps K s0 (State.roArrive s f) := by
  unfold State.roArrive
  extract_lets +onlyGivenNames e_0
  clear_value e_0
  extract_lets +onlyGivenNames d_1
  clear_value d_1
  refine keeps_ite ?_ ?_
  · apply roDeliver_keeps
    exact hk0
  · refine keeps_ite ?_ ?_
    · refine keeps_ite ?_ ?_
      · apply roFull_keeps
        exact hk0
      · refine keeps_cut (v := (s.padArrive f).2) ?_ fun hq2 => ?_
        · apply padArrive_keeps
          exact hk0
        split
        · rename_i he2
          rw [he2] at hq2
          dsimp only at hq2
          exact hq2
        · rename_i he2
          rw [he2] at hq2
          dsimp only at hq2
          apply bump_keeps
          apply modPrt_keeps
          exact hq2
    · apply bump_keeps
      exact hk0

theorem pidWrite_keeps {s0 s : State} (hk0 : Keeps K s0 s) (x : Side) (n : Nat) (v : Word) [Free K .pairing] [Free K .regs] [Free K (.line x)] :
    Keeps K s0 (State.pidWrite s x n v) := by
  unfold State.pidWrite
  extract_lets +onlyGivenNames a_0
  clear_value a_0
  extract_lets +onlyGivenNames s1_1
  refine keeps_cut (v := s1_1) ?_ fun hs1_1 => ?_
  · subst s1_1
    refine keeps_ite ?_ ?_
    · apply modPrt_keeps
      exact hk0
    · exact hk0
  clear_value s1_1
  apply stageReg_keeps
  exact hs1_1

theorem execPairingConfigWrite_keeps (q : Req) (v : Word) (s : State) :
    Answers [.counters, .free, .memories, .paddock, .pairing, .regs, .report, .time, .line .a, .line .b] s (execPairingConfigWrite q v s) := by
  refine answers_of fun K n => ⟨_, rfl, ?_⟩
  have i0 : Free K .counters := n _ (by simp)
  have i1 : Free K .free := n _ (by simp)
  have i2 : Free K .memories := n _ (by simp)
  have i3 : Free K .paddock := n _ (by simp)
  have i4 : Free K .pairing := n _ (by simp)
  have i5 : Free K .regs := n _ (by simp)
  have i6 : Free K .report := n _ (by simp)
  have i7 : Free K .time := n _ (by simp)
  have i8 : ∀ x, Free K (.line x) := fun x => by cases x <;> exact n _ (by simp)
  have hk0 := Keeps.refl (K := K) s
  apply guardW_keeps
  · exact hk0
  · intro y0 hy1
    apply pairingWrite_keeps
    exact hy1

theorem execPrtManual_keeps (q : Req) (s : State) :
    Answers [.capture, .circuits, .counters, .free, .memories, .paddock, .pairing, .regs, .report, .time, .line .a, .line .b] s (execPrtManual q s) := by
  refine answers_of fun K n => ⟨_, rfl, ?_⟩
  have i0 : Free K .capture := n _ (by simp)
  have i1 : Free K .circuits := n _ (by simp)
  have i2 : Free K .counters := n _ (by simp)
  have i3 : Free K .free := n _ (by simp)
  have i4 : Free K .memories := n _ (by simp)
  have i5 : Free K .paddock := n _ (by simp)
  have i6 : Free K .pairing := n _ (by simp)
  have i7 : Free K .regs := n _ (by simp)
  have i8 : Free K .report := n _ (by simp)
  have i9 : Free K .time := n _ (by simp)
  have i10 : ∀ x, Free K (.line x) := fun x => by cases x <;> exact n _ (by simp)
  have hk0 := Keeps.refl (K := K) s
  apply guardW_keeps
  · exact hk0
  · intro y0 hy1
    apply prtCommand_keeps
    exact hy1

theorem execPrtLock_keeps (q : Req) (s : State) :
    Answers [.capture, .circuits, .counters, .free, .memories, .paddock, .pairing, .regs, .report, .time, .line .a, .line .b] s (execPrtLock q s) := by
  refine answers_of fun K n => ⟨_, rfl, ?_⟩
  have i0 : Free K .capture := n _ (by simp)
  have i1 : Free K .circuits := n _ (by simp)
  have i2 : Free K .counters := n _ (by simp)
  have i3 : Free K .free := n _ (by simp)
  have i4 : Free K .memories := n _ (by simp)
  have i5 : Free K .paddock := n _ (by simp)
  have i6 : Free K .pairing := n _ (by simp)
  have i7 : Free K .regs := n _ (by simp)
  have i8 : Free K .report := n _ (by simp)
  have i9 : Free K .time := n _ (by simp)
  have i10 : ∀ x, Free K (.line x) := fun x => by cases x <;> exact n _ (by simp)
  have hk0 := Keeps.refl (K := K) s
  apply guardW_keeps
  · exact hk0
  · intro y0 hy1
    apply prtCommand_keeps
    exact hy1

theorem execPrtUnlock_keeps (q : Req) (s : State) :
    Answers [.capture, .circuits, .counters, .free, .memories, .paddock, .pairing, .regs, .report, .time, .line .a, .line .b] s (execPrtUnlock q s) := by
  refine answers_of fun K n => ⟨_, rfl, ?_⟩
  have i0 : Free K .capture := n _ (by simp)
  have i1 : Free K .circuits := n _ (by simp)
  have i2 : Free K .counters := n _ (by simp)
  have i3 : Free K .free := n _ (by simp)
  have i4 : Free K .memories := n _ (by simp)
  have i5 : Free K .paddock := n _ (by simp)
  have i6 : Free K .pairing := n _ (by simp)
  have i7 : Free K .regs := n _ (by simp)
  have i8 : Free K .report := n _ (by simp)
  have i9 : Free K .time := n _ (by simp)
  have i10 : ∀ x, Free K (.line x) := fun x => by cases x <;> exact n _ (by simp)
  have hk0 := Keeps.refl (K := K) s
  apply guardW_keeps
  · exact hk0
  · intro y0 hy1
    apply prtCommand_keeps
    exact hy1

theorem execWtrExpire_keeps (s : State) :
    Answers [.capture, .circuits, .counters, .free, .memories, .paddock, .pairing, .regs, .report, .time, .line .a, .line .b] s (execWtrExpire s) := by
  refine answers_of fun K n => ⟨_, rfl, ?_⟩
  have i0 : Free K .capture := n _ (by simp)
  have i1 : Free K .circuits := n _ (by simp)
  have i2 : Free K .counters := n _ (by simp)
  have i3 : Free K .free := n _ (by simp)
  have i4 : Free K .memories := n _ (by simp)
  have i5 : Free K .paddock := n _ (by simp)
  have i6 : Free K .pairing := n _ (by simp)
  have i7 : Free K .regs := n _ (by simp)
  have i8 : Free K .report := n _ (by simp)
  have i9 : Free K .time := n _ (by simp)
  have i10 : ∀ x, Free K (.line x) := fun x => by cases x <;> exact n _ (by simp)
  have hk0 := Keeps.refl (K := K) s
  apply wtrDone_keeps
  exact hk0

theorem execReorderArrival_keeps (x : Side) (exp : Bool) (s : State) :
    Answers [.counters, .free, .paddock, .pairing, .regs, .report, .xings] s (execReorderArrival x exp s) := by
  refine answers_of fun K n => ⟨_, rfl, ?_⟩
  have i0 : Free K .counters := n _ (by simp)
  have i1 : Free K .free := n _ (by simp)
  have i2 : Free K .paddock := n _ (by simp)
  have i3 : Free K .pairing := n _ (by simp)
  have i4 : Free K .regs := n _ (by simp)
  have i5 : Free K .report := n _ (by simp)
  have i6 : Free K .xings := n _ (by simp)
  have hk0 := Keeps.refl (K := K) s
  split
  · exact hk0
  · refine keeps_ite ?_ ?_
    · apply roShow_keeps
      apply roArrive_keeps
      apply dsTake_keeps
      exact hk0
    · exact hk0

theorem execReorderWindowExpire_keeps (port : Fin 1048576) (s : State) :
    Answers [.counters, .pairing, .regs] s (execReorderWindowExpire port s) := by
  refine answers_of fun K n => ⟨_, rfl, ?_⟩
  have i0 : Free K .counters := n _ (by simp)
  have i1 : Free K .pairing := n _ (by simp)
  have i2 : Free K .regs := n _ (by simp)
  have hk0 := Keeps.refl (K := K) s
  apply roShow_keeps
  apply roExpire_keeps
  exact hk0

end Sys2Proof.Machine
end

