-- ==== Sys2Proof/Laws/KeepsIngress.lean ====
section
/-! SUPPORT. What the operations of Machine/Ingress.lean keep. -/

-- One proof at a time: in the package as one text, proofs that wait for each other would each hold a thread.
set_option Elab.async false

namespace Sys2Proof.Machine

variable {K : Comp → Prop}

theorem lmem_keeps {s0 s : State} (h : Keeps K s0 s) (k : Nat) (b : Byte) [Free K .lmem] :
    Keeps K s0 { s with lmem := sset (fun _ => 0) s.lmem k b } :=
  h.of_parts rfl rfl id id id id id id id (fun m => swf_sset m k b) id id

theorem lmemPut_keeps {s0 s : State} (h : Keeps K s0 s) (k o : Nat) (bs : List Byte) [Free K .lmem] : Keeps K s0 (s.lmemPut k o bs) := by
  induction bs generalizing s o with
  | nil => exact h
  | cons b bs ih =>
    exact ih (lmem_keeps h _ b) (o + 1)

theorem setTeamState_keeps {s0 s : State} (hk0 : Keeps K s0 s) (t v : Nat) [Free K .regs] :
    Keeps K s0 (State.setTeamState s t v) := by
  unfold State.setTeamState
  apply setF_keeps
  exact hk0

theorem frameGone_keeps {s0 s : State} (hk0 : Keeps K s0 s) (x : Frame) [Free K .memories] [Free K .paddock] [Free K .regs] :
    Keeps K s0 (State.frameGone s x) := by
  unfold State.frameGone
  apply padDrop_keeps
  apply verRelease_keeps
  exact hk0

theorem clsTake_keeps {s0 s : State} (hk0 : Keeps K s0 s) (x : Nat) (exp : Bool) (f : Frame) [Free K .client] [Free K .counters] [Free K .pairing] [Free K .regs] [Free K .xings] :
    Keeps K s0 (State.clsTake s x exp f) := by
  unfold State.clsTake
  refine keeps_ite ?_ ?_
  · apply modPrt_keeps
    exact hk0
  · extract_lets +onlyGivenNames q_0
    clear_value q_0
    extract_lets +onlyGivenNames s1_1
    refine keeps_cut (v := s1_1) ?_ fun hs1_1 => ?_
    · subst s1_1
      apply setXing_keeps
      exact hk0
    clear_value s1_1
    refine keeps_ite ?_ ?_
    · apply cliDrainRx_keeps
      exact hs1_1
    · exact hs1_1

theorem clsCount_keeps {s0 s : State} (hk0 : Keeps K s0 s) (fl pass : Nat) [Free K .counters] :
    Keeps K s0 (State.clsCount s fl pass) := by
  unfold State.clsCount
  apply bumpIf_keeps
  apply bumpIf_keeps
  apply bumpIf_keeps
  apply bumpIf_keeps
  apply bumpIf_keeps
  apply bumpIf_keeps
  apply bumpIf_keeps
  apply bump_keeps
  exact hk0

theorem tcHitCount_keeps {s0 s : State} (hk0 : Keeps K s0 s) (v : Nat) (l : Lookup) [Free K .classifier] :
    Keeps K s0 (State.tcHitCount s v l) := by
  unfold State.tcHitCount
  refine keeps_ite ?_ ?_
  · extract_lets +onlyGivenNames c_0
    clear_value c_0
    extract_lets +onlyGivenNames e_1
    clear_value e_1
    apply setTc_keeps
    exact hk0
  · exact hk0

theorem polBefore_keeps {s0 s : State} (hk0 : Keeps K s0 s) (act : BitVec 64) (n : Nat) [Free K .counters] [Free K .sched] :
    Keeps K s0 (State.polBefore s act n).2 := by
  unfold State.polBefore
  refine keeps_ite2 ?_ ?_
  · refine keeps_pair ?_
    exact hk0
  · extract_lets +onlyGivenNames m_0
    refine keeps_cut (v := m_0.2) ?_ fun hm_0 => ?_
    · subst m_0
      apply meter_keeps
      exact hk0
    clear_value m_0
    refine keeps_ite2 ?_ ?_
    · refine keeps_pair ?_
      exact hm_0
    · refine keeps_pair ?_
      exact hm_0

theorem classify_keeps {s0 s : State} (hk0 : Keeps K s0 s) (f : Frame) (unc : List (Nat × Bool)) [Free K .capture] [Free K .classifier] [Free K .counters] [Free K .dispatch] [Free K .free] [Free K .memories] [Free K .paddock] [Free K .regs] [Free K .report] [Free K .sched] :
    Keeps K s0 (State.classify s f unc) := by
  unfold State.classify
  extract_lets +onlyGivenNames first0
  clear_value first0
  extract_lets +onlyGivenNames v_1
  clear_value v_1
  extract_lets +onlyGivenNames s1_2
  refine keeps_cut (v := s1_2) ?_ fun hs1_2 => ?_
  · subst s1_2
    refine keeps_ite ?_ ?_
    · apply verHold_keeps
      exact hk0
    · exact hk0
  clear_value s1_2
  extract_lets +onlyGivenNames k_3
  clear_value k_3
  extract_lets +onlyGivenNames l_4
  refine keeps_cut (v := l_4.2) ?_ fun hl_4 => ?_
  · subst l_4
    apply lookup_keeps
    apply clsCount_keeps
    exact hs1_2
  clear_value l_4
  extract_lets +onlyGivenNames g_5
  clear_value g_5
  extract_lets +onlyGivenNames s2_6
  refine keeps_cut (v := s2_6) ?_ fun hs2_6 => ?_
  · subst s2_6
    apply capFrame_keeps
    apply tcHitCount_keeps
    exact hl_4
  clear_value s2_6
  refine keeps_cut (v := (s2_6.polBefore l_4.fst.eff g_5.data.length).2) ?_ fun hq7 => ?_
  · apply polBefore_keeps
    exact hs2_6
  split
  · rename_i he7
    rw [he7] at hq7
    dsimp only at hq7
    apply frameGone_keeps
    exact hq7
  · rename_i he7
    rw [he7] at hq7
    dsimp only at hq7
    extract_lets +onlyGivenNames g_8
    clear_value g_8
    refine keeps_ite ?_ ?_
    · refine keeps_mk ?_
      exact hq7
    · refine keeps_mk ?_
      exact hq7

theorem classifyFrom_keeps {s0 s : State} (h : Keeps K s0 s) (x : Nat) (exp : Bool) (unc : List (Nat × Bool)) [Free K .capture] [Free K .classifier] [Free K .client] [Free K .counters] [Free K .dispatch] [Free K .free] [Free K .memories] [Free K .paddock] [Free K .pairing] [Free K .regs] [Free K .report] [Free K .sched] [Free K .xings] :
    Keeps K s0 (s.classifyFrom x exp unc) := by
  unfold State.classifyFrom
  refine keeps_ite h ?_
  split
  · exact h
  · rename_i f _
    have k := clsTake_keeps h x exp f
    refine keeps_ite (frameGone_keeps k f) ?_
    have p := padArrive_keeps k f
    split
    · rename_i he
      rw [he] at p
      exact p
    · rename_i he
      rw [he] at p
      exact classify_keeps p ..

theorem startThread_keeps {s0 s : State} (hk0 : Keeps K s0 s) (k entry : Nat) (x : Thread) (len prog : Nat) [Free K .regs] [Free K .threads] :
    Keeps K s0 (State.startThread s k entry x len prog) := by
  unfold State.startThread
  extract_lets +onlyGivenNames base0
  clear_value base0
  extract_lets +onlyGivenNames g_1
  clear_value g_1
  apply setThread_keeps
  exact hk0

theorem dispatch_keeps {s0 s : State} (hk0 : Keeps K s0 s) (f : Frame) (t n : Nat) [Free K .counters] [Free K .dispatch] [Free K .free] [Free K .lmem] [Free K .regs] [Free K .threads] :
    Keeps K s0 (State.dispatch s f t n) := by
  unfold State.dispatch
  extract_lets +onlyGivenNames p_0
  clear_value p_0
  extract_lets +onlyGivenNames k_1
  clear_value k_1
  extract_lets +onlyGivenNames h_2
  refine keeps_cut (v := h_2.2) ?_ fun hh_2 => ?_
  · subst h_2
    apply takeFree_keeps
    exact hk0
  clear_value h_2
  extract_lets +onlyGivenNames s1_3
  refine keeps_cut (v := s1_3) ?_ fun hs1_3 => ?_
  · subst s1_3
    apply lmemPut_keeps
    exact hh_2
  clear_value s1_3
  extract_lets +onlyGivenNames s2_4
  refine keeps_cut (v := s2_4) ?_ fun hs2_4 => ?_
  · subst s2_4
    apply startThread_keeps
    exact hs1_3
  clear_value s2_4
  extract_lets +onlyGivenNames s3_5
  refine keeps_cut (v := s3_5) ?_ fun hs3_5 => ?_
  · subst s3_5
    refine keeps_mk ?_
    exact hs2_4
  clear_value s3_5
  apply bumpIf_keeps
  apply bump_keeps
  apply bumpIf_keeps
  apply bump_keeps
  exact hs3_5

theorem noTeam_keeps {s0 s : State} (hk0 : Keeps K s0 s) (f : Frame) [Free K .counters] [Free K .memories] [Free K .paddock] [Free K .regs] [Free K .report] :
    Keeps K s0 (State.noTeam s f) := by
  unfold State.noTeam
  apply raiseLim_keeps
  apply frameGone_keeps
  apply bump_keeps
  exact hk0

theorem dispOne_keeps {s0 s : State} (hk0 : Keeps K s0 s) (f : Frame) [Free K .counters] [Free K .dispatch] [Free K .free] [Free K .lmem] [Free K .memories] [Free K .paddock] [Free K .regs] [Free K .report] [Free K .threads] :
    Keeps K s0 (State.dispOne s f) := by
  unfold State.dispOne
  split
  · apply dispatch_keeps
    exact hk0
  · apply noTeam_keeps
    exact hk0

theorem dispatchOp_keeps {s0 s : State} (hk0 : Keeps K s0 s) (exp : Bool) [Free K .counters] [Free K .dispatch] [Free K .free] [Free K .lmem] [Free K .memories] [Free K .paddock] [Free K .regs] [Free K .report] [Free K .threads] :
    Keeps K s0 (State.dispatchOp s exp) := by
  unfold State.dispatchOp
  refine keeps_ite ?_ ?_
  · exact hk0
  · split
    · apply dispOne_keeps
      refine keeps_mk ?_
      exact hk0
    · refine keeps_ite ?_ ?_
      · exact hk0
      · split
        · refine keeps_ite ?_ ?_
          · apply dispOne_keeps
            refine keeps_mk ?_
            exact hk0
          · exact hk0
        · exact hk0

theorem execFrameClassify_keeps (x : Fin 4) (exp : Bool) (unc : List (Nat × Bool)) (s : State) :
    Answers [.capture, .classifier, .client, .counters, .dispatch, .free, .memories, .paddock, .pairing, .regs, .report, .sched, .xings] s (execFrameClassify x exp unc s) := by
  refine answers_of fun K n => ⟨_, rfl, ?_⟩
  have i0 : Free K .capture := n _ (by simp)
  have i1 : Free K .classifier := n _ (by simp)
  have i2 : Free K .client := n _ (by simp)
  have i3 : Free K .counters := n _ (by simp)
  have i4 : Free K .dispatch := n _ (by simp)
  have i5 : Free K .free := n _ (by simp)
  have i6 : Free K .memories := n _ (by simp)
  have i7 : Free K .paddock := n _ (by simp)
  have i8 : Free K .pairing := n _ (by simp)
  have i9 : Free K .regs := n _ (by simp)
  have i10 : Free K .report := n _ (by simp)
  have i11 : Free K .sched := n _ (by simp)
  have i12 : Free K .xings := n _ (by simp)
  have hk0 := Keeps.refl (K := K) s
  apply classifyFrom_keeps
  exact hk0

theorem execFrameDispatch_keeps (exp : Bool) (s : State) :
    Answers [.counters, .dispatch, .free, .lmem, .memories, .paddock, .regs, .report, .threads] s (execFrameDispatch exp s) := by
  refine answers_of fun K n => ⟨_, rfl, ?_⟩
  have i0 : Free K .counters := n _ (by simp)
  have i1 : Free K .dispatch := n _ (by simp)
  have i2 : Free K .free := n _ (by simp)
  have i3 : Free K .lmem := n _ (by simp)
  have i4 : Free K .memories := n _ (by simp)
  have i5 : Free K .paddock := n _ (by simp)
  have i6 : Free K .regs := n _ (by simp)
  have i7 : Free K .report := n _ (by simp)
  have i8 : Free K .threads := n _ (by simp)
  have hk0 := Keeps.refl (K := K) s
  apply dispatchOp_keeps
  exact hk0

end Sys2Proof.Machine
end

