-- ==== Sys2Proof/Laws/KeepsTeams.lean ====
section
/-! SUPPORT. What the operations of Machine/Teams.lean keep. -/

-- One proof at a time: in the package as one text, proofs that wait for each other would each hold a thread.
set_option Elab.async false

namespace Sys2Proof.Machine

variable {K : Comp → Prop}

theorem threadIdle_keeps {s0 s : State} (hk0 : Keeps K s0 s) (k : Nat) [Free K .regs] [Free K .threads] :
    Keeps K s0 (State.threadIdle s k) := by
  unfold State.threadIdle
  apply setThread_keeps
  exact hk0

theorem faultRecord_keeps {s0 s : State} (hk0 : Keeps K s0 s) (k cause index addr trap : Nat) [Free K .regs] :
    Keeps K s0 (State.faultRecord s k cause index addr trap) := by
  unfold State.faultRecord
  extract_lets +onlyGivenNames i_0
  clear_value i_0
  refine keeps_ite ?_ ?_
  · apply setFlag_keeps
    exact hk0
  · apply setReg_keeps
    apply setReg_keeps
    apply setReg_keeps
    apply setReg_keeps
    exact hk0

theorem loadDone_keeps {s0 s : State} (hk0 : Keeps K s0 s) (t r : Nat) [Free K .regs] :
    Keeps K s0 (State.loadDone s t r) := by
  unfold State.loadDone
  apply setF_keeps
  apply setFlag_keeps
  exact hk0

theorem loadFail_keeps {s0 s : State} (hk0 : Keeps K s0 s) (t r : Nat) [Free K .counters] [Free K .regs] [Free K .report] :
    Keeps K s0 (State.loadFail s t r) := by
  unfold State.loadFail
  apply raise_keeps
  apply loadDone_keeps
  apply setTeamState_keeps
  exact hk0

theorem drainAfter_keeps {s0 s : State} (hk0 : Keeps K s0 s) (t : Nat) [Free K .regs] [Free K .teams] :
    Keeps K s0 (State.drainAfter s t) := by
  unfold State.drainAfter
  refine keeps_ite ?_ ?_
  · exact hk0
  · extract_lets +onlyGivenNames s1_0
    clear_value s1_0
    extract_lets +onlyGivenNames s1_1
    refine keeps_cut (v := s1_1) ?_ fun hs1_1 => ?_
    · subst s1_1
      apply setTeam_keeps
      exact hk0
    clear_value s1_1
    refine keeps_ite ?_ ?_
    · apply setTeamState_keeps
      apply setTeam_keeps
      exact hs1_1
    · apply loadDone_keeps
      exact hs1_1

theorem initFault_keeps {s0 s : State} (hk0 : Keeps K s0 s) (t : Nat) [Free K .counters] [Free K .regs] [Free K .report] [Free K .teams] :
    Keeps K s0 (State.initFault s t) := by
  unfold State.initFault
  apply drainAfter_keeps
  apply loadFail_keeps
  apply setTeam_keeps
  exact hk0

theorem threadDrop_keeps {s0 s : State} (hk0 : Keeps K s0 s) (k cause index addr trap : Nat) [Free K .counters] [Free K .memories] [Free K .paddock] [Free K .regs] [Free K .report] [Free K .threads] :
    Keeps K s0 (State.threadDrop s k cause index addr trap) := by
  unfold State.threadDrop
  extract_lets +onlyGivenNames t_0
  clear_value t_0
  extract_lets +onlyGivenNames x_1
  clear_value x_1
  extract_lets +onlyGivenNames s1_2
  refine keeps_cut (v := s1_2) ?_ fun hs1_2 => ?_
  · subst s1_2
    split
    · apply frameGone_keeps
      apply bump_keeps
      exact hk0
    · exact hk0
  clear_value s1_2
  extract_lets +onlyGivenNames s2_3
  refine keeps_cut (v := s2_3) ?_ fun hs2_3 => ?_
  · subst s2_3
    apply faultRecord_keeps
    apply threadIdle_keeps
    apply bumpIf_keeps
    exact hs1_2
  clear_value s2_3
  apply raise_keeps
  exact hs2_3

theorem threadFault_keeps {s0 s : State} (hk0 : Keeps K s0 s) (k cause index addr trap : Nat) [Free K .counters] [Free K .memories] [Free K .paddock] [Free K .regs] [Free K .report] [Free K .teams] [Free K .threads] :
    Keeps K s0 (State.threadFault s k cause index addr trap) := by
  unfold State.threadFault
  extract_lets +onlyGivenNames s1_0
  refine keeps_cut (v := s1_0) ?_ fun hs1_0 => ?_
  · subst s1_0
    apply threadDrop_keeps
    exact hk0
  clear_value s1_0
  refine keeps_ite ?_ ?_
  · apply initFault_keeps
    exact hs1_0
  · exact hs1_0

theorem uncLocal_keeps {s0 s : State} (hk0 : Keeps K s0 s) (k : Nat) [Free K .teams] :
    Keeps K s0 (State.uncLocal s k) := by
  unfold State.uncLocal
  extract_lets +onlyGivenNames t_0
  clear_value t_0
  extract_lets +onlyGivenNames old_1
  clear_value old_1
  apply setTeam_keeps
  exact hk0

theorem budgetOver_keeps {s0 s : State} (hk0 : Keeps K s0 s) (k : Nat) [Free K .counters] [Free K .lmem] [Free K .regs] [Free K .report] [Free K .threads] :
    Keeps K s0 (State.budgetOver s k) := by
  unfold State.budgetOver
  extract_lets +onlyGivenNames t_0
  clear_value t_0
  extract_lets +onlyGivenNames x_1
  clear_value x_1
  extract_lets +onlyGivenNames o_2
  clear_value o_2
  extract_lets +onlyGivenNames s1_3
  refine keeps_cut (v := s1_3) ?_ fun hs1_3 => ?_
  · subst s1_3
    apply setThread_keeps
    exact hk0
  clear_value s1_3
  extract_lets +onlyGivenNames s2_4
  refine keeps_cut (v := s2_4) ?_ fun hs2_4 => ?_
  · subst s2_4
    apply lmemPut_keeps
    exact hs1_3
  clear_value s2_4
  apply raise_keeps
  apply bump_keeps
  exact hs2_4

theorem startInit_keeps {s0 s : State} (hk0 : Keeps K s0 s) (t : Nat) [Free K .regs] [Free K .threads] :
    Keeps K s0 (State.startInit s t) := by
  unfold State.startInit
  apply setTeamState_keeps
  apply setThread_keeps
  exact hk0

theorem dropThreads_keeps {s0 s : State} (hk0 : Keeps K s0 s) (cause : Nat) (p : Nat → Bool) [Free K .counters] [Free K .memories] [Free K .paddock] [Free K .regs] [Free K .report] [Free K .threads] :
    Keeps K s0 (State.dropThreads s cause p) := by
  unfold State.dropThreads
  refine keeps_foldl _ ?_ ?_
  · exact hk0
  · intro y0 y1 hy2
    apply threadDrop_keeps
    exact hy2

theorem resetTeam_keeps {s0 s : State} (hk0 : Keeps K s0 s) (t : Nat) (cell : Option Nat) [Free K .counters] [Free K .free] [Free K .lmem] [Free K .memories] [Free K .paddock] [Free K .regs] [Free K .report] [Free K .resets] [Free K .teams] [Free K .threads] [∀ x, Free K (.line x)] :
    Keeps K s0 (State.resetTeam s t cell) := by
  unfold State.resetTeam
  extract_lets +onlyGivenNames s1_0
  refine keeps_cut (v := s1_0) ?_ fun hs1_0 => ?_
  · subst s1_0
    apply dropThreads_keeps
    exact hk0
  clear_value s1_0
  extract_lets +onlyGivenNames s2_1
  refine keeps_cut (v := s2_1) ?_ fun hs2_1 => ?_
  · subst s2_1
    refine keeps_mem ?_ ?_ ?_ ?_ ?_ ?_ ?_
    · exact hs1_0
    · exact id
    · exact id
    · exact id
    · exact fun m => swf_sdrop _ m
    · exact id
    · exact id
  clear_value s2_1
  extract_lets +onlyGivenNames s3_2
  refine keeps_cut (v := s3_2) ?_ fun hs3_2 => ?_
  · subst s3_2
    apply setF_keeps
    exact hs2_1
  clear_value s3_2
  extract_lets +onlyGivenNames ok_3
  clear_value ok_3
  extract_lets +onlyGivenNames info4
  clear_value info4
  extract_lets +onlyGivenNames x_5
  clear_value x_5
  extract_lets +onlyGivenNames s4_6
  refine keeps_cut (v := s4_6) ?_ fun hs4_6 => ?_
  · subst s4_6
    apply setTeam_keeps
    exact hs3_2
  clear_value s4_6
  extract_lets +onlyGivenNames s5_7
  refine keeps_cut (v := s5_7) ?_ fun hs5_7 => ?_
  · subst s5_7
    refine keeps_ite ?_ ?_
    · apply startInit_keeps
      exact hs4_6
    · apply setF_keeps
      apply setTeamState_keeps
      exact hs4_6
  clear_value s5_7
  extract_lets +onlyGivenNames s6_8
  refine keeps_cut (v := s6_8) ?_ fun hs6_8 => ?_
  · subst s6_8
    split
    · apply raise_keeps
      apply raise_keeps
      exact hs5_7
    · apply raise_keeps
      exact hs5_7
  clear_value s6_8
  split
  · refine keeps_ite ?_ ?_
    · apply chipFault_keeps
      apply takeFree_keeps
      exact hs6_8
    · exact hs6_8
  · exact hs6_8

theorem quarantine_keeps {s0 s : State} (hk0 : Keeps K s0 s) (t c : Nat) (handshake : Bool) [Free K .counters] [Free K .free] [Free K .lmem] [Free K .memories] [Free K .paddock] [Free K .regs] [Free K .report] [Free K .resets] [Free K .teams] [Free K .threads] [∀ x, Free K (.line x)] :
    Keeps K s0 (State.quarantine s t c handshake) := by
  unfold State.quarantine
  extract_lets +onlyGivenNames q_0
  clear_value q_0
  refine keeps_ite ?_ ?_
  · exact hk0
  · refine keeps_ite ?_ ?_
    · apply resetTeam_keeps
      exact hk0
    · extract_lets +onlyGivenNames inInit1
      clear_value inInit1
      extract_lets +onlyGivenNames s1_2
      refine keeps_cut (v := s1_2) ?_ fun hs1_2 => ?_
      · subst s1_2
        apply dropThreads_keeps
        exact hk0
      clear_value s1_2
      extract_lets +onlyGivenNames s2_3
      refine keeps_cut (v := s2_3) ?_ fun hs2_3 => ?_
      · subst s2_3
        refine keeps_ite ?_ ?_
        · apply initFault_keeps
          exact hs1_2
        · exact hs1_2
      clear_value s2_3
      extract_lets +onlyGivenNames s3_4
      clear_value s3_4
      extract_lets +onlyGivenNames s3_5
      refine keeps_cut (v := s3_5) ?_ fun hs3_5 => ?_
      · subst s3_5
        apply setTeam_keeps
        exact hs2_3
      clear_value s3_5
      apply raise_keeps
      apply setF_keeps
      exact hs3_5

theorem drainCmd_keeps {s0 s : State} (hk0 : Keeps K s0 s) (t : Nat) [Free K .regs] [Free K .teams] :
    Keeps K s0 (State.drainCmd s t) := by
  unfold State.drainCmd
  split
  · apply setTeamState_keeps
    apply setTeam_keeps
    exact hk0
  · apply setTeam_keeps
    exact hk0
  · apply loadDone_keeps
    exact hk0
  · apply loadDone_keeps
    exact hk0
  · apply loadDone_keeps
    exact hk0

theorem drainEnd_keeps {s0 s : State} (hk0 : Keeps K s0 s) (t : Nat) [Free K .regs] [Free K .teams] :
    Keeps K s0 (State.drainEnd s t) := by
  unfold State.drainEnd
  refine keeps_ite ?_ ?_
  · apply loadDone_keeps
    apply setTeamState_keeps
    apply setTeam_keeps
    exact hk0
  · exact hk0

theorem istoreClear_keeps {s0 s : State} (hk0 : Keeps K s0 s) (t : Nat) [Free K .istore] :
    Keeps K s0 (State.istoreClear s t) := by
  unfold State.istoreClear
  refine keeps_mem ?_ ?_ ?_ ?_ ?_ ?_ ?_
  · exact hk0
  · exact id
  · exact id
  · exact id
  · exact id
  · exact id
  · exact fun m => swf_sdrop _ m

theorem loadCmd_keeps {s0 s : State} (hk0 : Keeps K s0 s) (t : Nat) [Free K .istore] [Free K .lmem] [Free K .regs] [Free K .smem] :
    Keeps K s0 (State.loadCmd s t) := by
  unfold State.loadCmd
  refine keeps_ite ?_ ?_
  · extract_lets +onlyGivenNames s1_0
    refine keeps_cut (v := s1_0) ?_ fun hs1_0 => ?_
    · subst s1_0
      apply istoreClear_keeps
      exact hk0
    clear_value s1_0
    apply setTeamState_keeps
    refine keeps_mem ?_ ?_ ?_ ?_ ?_ ?_ ?_
    · exact hs1_0
    · exact id
    · exact id
    · exact id
    · exact fun m => swf_sdrop _ m
    · exact fun m => swf_sdrop _ m
    · exact id
  · apply loadDone_keeps
    exact hk0

theorem runCmdOp_keeps {s0 s : State} (hk0 : Keeps K s0 s) (t : Nat) [Free K .regs] [Free K .teams] [Free K .threads] :
    Keeps K s0 (State.runCmdOp s t) := by
  unfold State.runCmdOp
  split
  · apply startInit_keeps
    apply setTeam_keeps
    exact hk0
  · apply loadDone_keeps
    exact hk0
  · apply loadDone_keeps
    exact hk0
  · apply loadDone_keeps
    exact hk0
  · apply loadDone_keeps
    exact hk0

theorem loadCmdWrite_keeps {s0 s : State} (hk0 : Keeps K s0 s) (t : Nat) (v : Word) [Free K .istore] [Free K .lmem] [Free K .regs] [Free K .smem] [Free K .teams] [Free K .threads] :
    Keeps K s0 (State.loadCmdWrite s t v) := by
  unfold State.loadCmdWrite
  split
  · exact hk0
  · apply drainCmd_keeps
    exact hk0
  · apply loadCmd_keeps
    exact hk0
  · apply runCmdOp_keeps
    exact hk0
  · apply loadDone_keeps
    exact hk0

theorem istore_keeps {s0 s : State} (h : Keeps K s0 s) (k : Nat) (b : Word) [Free K .istore] :
    Keeps K s0 { s with istore := sset (fun _ => 0xFFFFFFFF#32) s.istore k b } :=
  h.of_parts rfl rfl id id id id id id id id id (fun m => swf_sset m k b)

theorem istorePut_keeps {s0 s : State} (h : Keeps K s0 s) (t o : Nat) (bs : List Byte) [Free K .istore] : Keeps K s0 (s.istorePut t o bs) := by
  induction bs generalizing s o with
  | nil => exact h
  | cons b bs ih =>
    exact ih (istore_keeps h _ _) (o + 1)

theorem smem_keeps {s0 s : State} (h : Keeps K s0 s) (k : Nat) (b : Byte) [Free K .smem] :
    Keeps K s0 { s with smem := sset (fun _ => 0) s.smem k b } :=
  h.of_parts rfl rfl id id id id id id id id (fun m => swf_sset m k b) id

theorem smemPut_keeps {s0 s : State} (h : Keeps K s0 s) (t o : Nat) (bs : List Byte) [Free K .smem] : Keeps K s0 (s.smemPut t o bs) := by
  induction bs generalizing s o with
  | nil => exact h
  | cons b bs ih =>
    exact ih (smem_keeps h _ b) (o + 1)

theorem sectPut_keeps {s0 s : State} (hk0 : Keeps K s0 s) (t : Nat) (x : Sect) (b : List Byte) [Free K .istore] [Free K .lmem] [Free K .smem] :
    Keeps K s0 (State.sectPut s t x b) := by
  unfold State.sectPut
  split
  · apply istorePut_keeps
    exact hk0
  · apply smemPut_keeps
    exact hk0
  · refine keeps_foldl _ ?_ ?_
    · exact hk0
    · intro y0 y1 hy2
      apply lmemPut_keeps
      exact hy2

theorem loadOk_keeps {s0 s : State} (hk0 : Keeps K s0 s) (t : Nat) (b : List Byte) [Free K .counters] [Free K .istore] [Free K .lmem] [Free K .regs] [Free K .report] [Free K .smem] [Free K .teams] :
    Keeps K s0 (State.loadOk s t b) := by
  unfold State.loadOk
  extract_lets +onlyGivenNames i_0
  clear_value i_0
  extract_lets +onlyGivenNames s1_1
  refine keeps_cut (v := s1_1) ?_ fun hs1_1 => ?_
  · subst s1_1
    refine keeps_foldl _ ?_ ?_
    · exact hk0
    · intro y2 y3 hy4
      apply sectPut_keeps
      exact hy4
  clear_value s1_1
  extract_lets +onlyGivenNames s2_5
  refine keeps_cut (v := s2_5) ?_ fun hs2_5 => ?_
  · subst s2_5
    refine keeps_foldl _ ?_ ?_
    · exact hs1_1
    · intro y6 y7 hy8
      apply setReg_keeps
      exact hy8
  clear_value s2_5
  extract_lets +onlyGivenNames s3_9
  refine keeps_cut (v := s3_9) ?_ fun hs3_9 => ?_
  · subst s3_9
    apply setReg_keeps
    apply setReg_keeps
    apply setReg_keeps
    exact hs2_5
  clear_value s3_9
  extract_lets +onlyGivenNames s4_10
  clear_value s4_10
  extract_lets +onlyGivenNames s4_11
  refine keeps_cut (v := s4_11) ?_ fun hs4_11 => ?_
  · subst s4_11
    apply setTeam_keeps
    exact hs3_9
  clear_value s4_11
  apply raise_keeps
  apply loadDone_keeps
  apply setTeamState_keeps
  exact hs4_11

theorem loadBad_keeps {s0 s : State} (hk0 : Keeps K s0 s) (t r : Nat) [Free K .counters] [Free K .istore] [Free K .regs] [Free K .report] :
    Keeps K s0 (State.loadBad s t r) := by
  unfold State.loadBad
  extract_lets +onlyGivenNames s1_0
  refine keeps_cut (v := s1_0) ?_ fun hs1_0 => ?_
  · subst s1_0
    apply istoreClear_keeps
    exact hk0
  clear_value s1_0
  apply loadFail_keeps
  refine keeps_foldl _ ?_ ?_
  · exact hs1_0
  · intro y1 y2 hy3
    apply setFlag_keeps
    exact hy3

theorem loadEnd_keeps {s0 s : State} (h : Keeps K s0 s) (t : Nat) (first second : Option (List Byte)) [Free K .counters] [Free K .free] [Free K .istore] [Free K .lmem] [Free K .regs] [Free K .report] [Free K .smem] [Free K .teams] :
    Keeps K s0 (s.loadEnd t first second) := by
  unfold State.loadEnd
  refine keeps_ite h ?_
  extract_lets i
  have k := imgReads_keeps h 1 (s.f F.CRS_LOAD_LEN_LEN i) (s.flag F.CRS_LOAD_CFG_AUTH i)
    (s.f F.CRS_LOAD_CFG_KEY_SLOT i) first second
  split
  · rename_i he
    rw [he] at k
    exact loadOk_keeps k ..
  · rename_i he
    rw [he] at k
    exact loadBad_keeps (imgTimeout_keeps k _) ..

theorem initEnd_keeps {s0 s : State} (hk0 : Keeps K s0 s) (t : Nat) [Free K .regs] [Free K .teams] :
    Keeps K s0 (State.initEnd s t) := by
  unfold State.initEnd
  refine keeps_ite ?_ ?_
  · exact hk0
  · extract_lets +onlyGivenNames s1_0
    refine keeps_cut (v := s1_0) ?_ fun hs1_0 => ?_
    · subst s1_0
      apply setTeamState_keeps
      exact hk0
    clear_value s1_0
    extract_lets +onlyGivenNames s2_1
    clear_value s2_1
    extract_lets +onlyGivenNames s2_2
    refine keeps_cut (v := s2_2) ?_ fun hs2_2 => ?_
    · subst s2_2
      refine keeps_ite ?_ ?_
      · apply setTeam_keeps
        apply loadDone_keeps
        exact hs1_0
      · exact hs1_0
    clear_value s2_2
    apply drainAfter_keeps
    exact hs2_2

theorem sampStatWrite_keeps {s0 s : State} (hk0 : Keeps K s0 s) (t : Nat) (v : Word) [Free K .regs] :
    Keeps K s0 (State.sampStatWrite s t v) := by
  unfold State.sampStatWrite
  extract_lets +onlyGivenNames i_0
  clear_value i_0
  extract_lets +onlyGivenNames s1_1
  refine keeps_cut (v := s1_1) ?_ fun hs1_1 => ?_
  · subst s1_1
    apply setF_keeps
    exact hk0
  clear_value s1_1
  extract_lets +onlyGivenNames s2_2
  refine keeps_cut (v := s2_2) ?_ fun hs2_2 => ?_
  · subst s2_2
    refine keeps_ite ?_ ?_
    · apply setFlag_keeps
      exact hs1_1
    · exact hs1_1
  clear_value s2_2
  refine keeps_ite ?_ ?_
  · apply setF_keeps
    apply setFlag_keeps
    exact hs2_2
  · exact hs2_2

theorem execWatchdogExpire_keeps (t : Tid) (s : State) :
    Answers [.counters, .memories, .paddock, .regs, .report, .teams, .threads] s (execWatchdogExpire t s) := by
  refine answers_of fun K n => ⟨_, rfl, ?_⟩
  have i0 : Free K .counters := n _ (by simp)
  have i1 : Free K .memories := n _ (by simp)
  have i2 : Free K .paddock := n _ (by simp)
  have i3 : Free K .regs := n _ (by simp)
  have i4 : Free K .report := n _ (by simp)
  have i5 : Free K .teams := n _ (by simp)
  have i6 : Free K .threads := n _ (by simp)
  have hk0 := Keeps.refl (K := K) s
  refine keeps_ite ?_ ?_
  · apply threadFault_keeps
    exact hk0
  · exact hk0

theorem execExpressBudgetExceeded_keeps (t : Tid) (s : State) :
    Answers [.counters, .lmem, .regs, .report, .threads] s (execExpressBudgetExceeded t s) := by
  refine answers_of fun K n => ⟨_, rfl, ?_⟩
  have i0 : Free K .counters := n _ (by simp)
  have i1 : Free K .lmem := n _ (by simp)
  have i2 : Free K .regs := n _ (by simp)
  have i3 : Free K .report := n _ (by simp)
  have i4 : Free K .threads := n _ (by simp)
  have hk0 := Keeps.refl (K := K) s
  refine keeps_ite ?_ ?_
  · apply budgetOver_keeps
    exact hk0
  · exact hk0

theorem execCourserQuarantine_keeps (t : Fin 16) (c : Fin 8) (handshake : Bool) (s : State) :
    Answers [.counters, .free, .lmem, .memories, .paddock, .regs, .report, .resets, .teams, .threads, .line .a, .line .b] s (execCourserQuarantine t c handshake s) := by
  refine answers_of fun K n => ⟨_, rfl, ?_⟩
  have i0 : Free K .counters := n _ (by simp)
  have i1 : Free K .free := n _ (by simp)
  have i2 : Free K .lmem := n _ (by simp)
  have i3 : Free K .memories := n _ (by simp)
  have i4 : Free K .paddock := n _ (by simp)
  have i5 : Free K .regs := n _ (by simp)
  have i6 : Free K .report := n _ (by simp)
  have i7 : Free K .resets := n _ (by simp)
  have i8 : Free K .teams := n _ (by simp)
  have i9 : Free K .threads := n _ (by simp)
  have i10 : ∀ x, Free K (.line x) := fun x => by cases x <;> exact n _ (by simp)
  have hk0 := Keeps.refl (K := K) s
  apply quarantine_keeps
  exact hk0

theorem execTeamReset_keeps (t : Fin 16) (s : State) :
    Answers [.counters, .free, .lmem, .memories, .paddock, .regs, .report, .resets, .teams, .threads, .line .a, .line .b] s (execTeamReset t s) := by
  refine answers_of fun K n => ⟨_, rfl, ?_⟩
  have i0 : Free K .counters := n _ (by simp)
  have i1 : Free K .free := n _ (by simp)
  have i2 : Free K .lmem := n _ (by simp)
  have i3 : Free K .memories := n _ (by simp)
  have i4 : Free K .paddock := n _ (by simp)
  have i5 : Free K .regs := n _ (by simp)
  have i6 : Free K .report := n _ (by simp)
  have i7 : Free K .resets := n _ (by simp)
  have i8 : Free K .teams := n _ (by simp)
  have i9 : Free K .threads := n _ (by simp)
  have i10 : ∀ x, Free K (.line x) := fun x => by cases x <;> exact n _ (by simp)
  have hk0 := Keeps.refl (K := K) s
  apply resetTeam_keeps
  exact hk0

theorem execSamplerRestart_keeps (q : Req) (t : Fin 16) (v : Word) (s : State) :
    Answers [.counters, .regs, .report] s (execSamplerRestart q t v s) := by
  refine answers_of fun K n => ⟨_, rfl, ?_⟩
  have i0 : Free K .counters := n _ (by simp)
  have i1 : Free K .regs := n _ (by simp)
  have i2 : Free K .report := n _ (by simp)
  have hk0 := Keeps.refl (K := K) s
  apply guardHostW_keeps
  · exact hk0
  · intro y0 hy1
    apply sampStatWrite_keeps
    exact hy1

theorem execTeamDrain_keeps (q : Req) (t : Fin 16) (s : State) :
    Answers [.counters, .regs, .report, .teams] s (execTeamDrain q t s) := by
  refine answers_of fun K n => ⟨_, rfl, ?_⟩
  have i0 : Free K .counters := n _ (by simp)
  have i1 : Free K .regs := n _ (by simp)
  have i2 : Free K .report := n _ (by simp)
  have i3 : Free K .teams := n _ (by simp)
  have hk0 := Keeps.refl (K := K) s
  apply guardHostW_keeps
  · exact hk0
  · intro y0 hy1
    apply drainCmd_keeps
    exact hy1

theorem execTeamDrainDone_keeps (t : Fin 16) (s : State) :
    Answers [.regs, .teams] s (execTeamDrainDone t s) := by
  refine answers_of fun K n => ⟨_, rfl, ?_⟩
  have i0 : Free K .regs := n _ (by simp)
  have i1 : Free K .teams := n _ (by simp)
  have hk0 := Keeps.refl (K := K) s
  apply drainEnd_keeps
  exact hk0

theorem execTeamLoad_keeps (q : Req) (t : Fin 16) (s : State) :
    Answers [.counters, .istore, .lmem, .regs, .report, .smem] s (execTeamLoad q t s) := by
  refine answers_of fun K n => ⟨_, rfl, ?_⟩
  have i0 : Free K .counters := n _ (by simp)
  have i1 : Free K .istore := n _ (by simp)
  have i2 : Free K .lmem := n _ (by simp)
  have i3 : Free K .regs := n _ (by simp)
  have i4 : Free K .report := n _ (by simp)
  have i5 : Free K .smem := n _ (by simp)
  have hk0 := Keeps.refl (K := K) s
  apply guardHostW_keeps
  · exact hk0
  · intro y0 hy1
    apply loadCmd_keeps
    exact hy1

theorem execTeamLoadEnd_keeps (t : Fin 16) (first second : Option (List Byte)) (s : State) :
    Answers [.counters, .free, .istore, .lmem, .regs, .report, .smem, .teams] s (execTeamLoadEnd t first second s) := by
  refine answers_of fun K n => ⟨_, rfl, ?_⟩
  have i0 : Free K .counters := n _ (by simp)
  have i1 : Free K .free := n _ (by simp)
  have i2 : Free K .istore := n _ (by simp)
  have i3 : Free K .lmem := n _ (by simp)
  have i4 : Free K .regs := n _ (by simp)
  have i5 : Free K .report := n _ (by simp)
  have i6 : Free K .smem := n _ (by simp)
  have i7 : Free K .teams := n _ (by simp)
  have hk0 := Keeps.refl (K := K) s
  apply loadEnd_keeps
  exact hk0

theorem execTeamRun_keeps (q : Req) (t : Fin 16) (s : State) :
    Answers [.counters, .regs, .report, .teams, .threads] s (execTeamRun q t s) := by
  refine answers_of fun K n => ⟨_, rfl, ?_⟩
  have i0 : Free K .counters := n _ (by simp)
  have i1 : Free K .regs := n _ (by simp)
  have i2 : Free K .report := n _ (by simp)
  have i3 : Free K .teams := n _ (by simp)
  have i4 : Free K .threads := n _ (by simp)
  have hk0 := Keeps.refl (K := K) s
  apply guardHostW_keeps
  · exact hk0
  · intro y0 hy1
    apply runCmdOp_keeps
    exact hy1

theorem execTeamInitDone_keeps (t : Fin 16) (s : State) :
    Answers [.regs, .teams] s (execTeamInitDone t s) := by
  refine answers_of fun K n => ⟨_, rfl, ?_⟩
  have i0 : Free K .regs := n _ (by simp)
  have i1 : Free K .teams := n _ (by simp)
  have hk0 := Keeps.refl (K := K) s
  apply initEnd_keeps
  exact hk0

theorem execLoadCmdMulti_keeps (q : Req) (t : Fin 16) (v : Word) (s : State) :
    Answers [.counters, .istore, .lmem, .regs, .report, .smem, .teams, .threads] s (execLoadCmdMulti q t v s) := by
  refine answers_of fun K n => ⟨_, rfl, ?_⟩
  have i0 : Free K .counters := n _ (by simp)
  have i1 : Free K .istore := n _ (by simp)
  have i2 : Free K .lmem := n _ (by simp)
  have i3 : Free K .regs := n _ (by simp)
  have i4 : Free K .report := n _ (by simp)
  have i5 : Free K .smem := n _ (by simp)
  have i6 : Free K .teams := n _ (by simp)
  have i7 : Free K .threads := n _ (by simp)
  have hk0 := Keeps.refl (K := K) s
  apply guardHostW_keeps
  · exact hk0
  · intro y0 hy1
    apply loadCmdWrite_keeps
    exact hy1

end Sys2Proof.Machine
end

