-- ==== Sys2Proof/Laws/KeepsRegion.lean ====
section
/-! SUPPORT. What the operations of Machine/Region.lean keep. -/

-- One proof at a time: in the package as one text, proofs that wait for each other would each hold a thread.
set_option Elab.async false

namespace Sys2Proof.Machine

variable {K : Comp → Prop}

theorem regsDrop_keeps {s0 s : State} (h : Keeps K s0 s) (p : Nat → Bool) [Free K .regs] : Keeps K s0 { s with regs := sdrop p s.regs } :=
  h.of_parts rfl rfl id id id (fun m => swf_sdrop p m) id id id id id id

theorem dropRegs_keeps {s0 s : State} (h : Keeps K s0 s) (p : Nat → Bool) (more : List (Nat × Word)) [Free K .regs] :
    Keeps K s0 (s.dropRegs p more) :=
  keeps_foldl _ (regsDrop_keeps h _) fun _ _ ht => setReg_keeps ht ..

theorem dropCounters_keeps {s0 s : State} (h : Keeps K s0 s) (p : Nat → Bool) [Free K .counters] : Keeps K s0 (s.dropCounters p) :=
  h.of_parts rfl rfl id id (fun c a => by
    simp only [State.dropCounters, State.counter, sget_sdrop]
    split
    · decide
    · exact c a) id (fun m => swf_sdrop p m) id id id id id

theorem coreMem_keeps {s0 s : State} (h : Keeps K s0 s) [Free K .teams] [Free K .threads] [Free K .istore] [Free K .lmem] [Free K .smem] [Free K .sched] : Keeps K s0 { s with
    teams := [], threads := [], turns := [], istore := [], lmem := [], smem := [], queues := [], groups := [] } :=
  h.of_parts rfl rfl id id id id id id id (fun _ => rfl) (fun _ => rfl) fun _ => rfl

theorem coreLost_keeps {s0 s : State} (h : Keeps K s0 s) [Free K .classifier] [Free K .dispatch] [Free K .gates] [Free K .istore] [Free K .lmem] [Free K .memories] [Free K .paddock] [Free K .pairing] [Free K .pairs] [Free K .regs] [Free K .sched] [Free K .smem] [Free K .teams] [Free K .threads] : Keeps K s0 s.coreLost := by
  unfold State.coreLost
  extract_lets s1 s2 s3
  have h1 : Keeps K s0 s1 := keeps_mk h
  have h2 : Keeps K s0 s2 := coreMem_keeps h1
  clear_value s2
  have h3 : Keeps K s0 s3 := keeps_mk h2
  clear_value s3
  exact setReg_keeps (modMem_keeps (modPrt_keeps h3 _) _) ..

theorem hostLost_keeps {s0 s : State} (hk0 : Keeps K s0 s) [Free K .capture] [Free K .farrier] [Free K .keys] [Free K .report] [Free K .rings] :
    Keeps K s0 (State.hostLost s) := by
  unfold State.hostLost
  extract_lets +onlyGivenNames s1_0
  refine keeps_cut (v := s1_0) ?_ fun hs1_0 => ?_
  · subst s1_0
    refine keeps_mk ?_
    exact hk0
  clear_value s1_0
  apply modFar_keeps
  apply modCp_keeps
  apply modSec_keeps
  exact hs1_0

theorem timeLost_keeps {s0 s : State} (h : Keeps K s0 s) [Free K .time] : Keeps K s0 (s.modTm fun _ => {}) :=
  h.of_parts rfl rfl id (fun _ => show 0 < todModulus by decide) id id id id id id id id

theorem regionLost_keeps {s0 s : State} (h : Keeps K s0 s) (r : Nat) [Free K .capture] [Free K .circuits] [Free K .classifier] [Free K .client] [Free K .dispatch] [Free K .farrier] [Free K .gates] [Free K .istore] [Free K .keys] [Free K .lmem] [Free K .memories] [Free K .paddock] [Free K .pairing] [Free K .pairs] [Free K .regs] [Free K .report] [Free K .rings] [Free K .sched] [Free K .smem] [Free K .teams] [Free K .threads] [Free K .time] [∀ x, Free K (.line x)] : Keeps K s0 (s.regionLost r) := by
  unfold State.regionLost
  split
  · exact modLine_keeps h ..
  · exact modLine_keeps h ..
  · exact coreLost_keeps h
  · exact modCli_keeps (keeps_foldl _ h fun _ _ k => padDrop_keeps k _) _
  · exact modHar_keeps h _
  · exact modMem_keeps h _
  · exact hostLost_keeps h
  · exact modPrt_keeps (timeLost_keeps (keeps_foldl _ h fun _ _ k => padDrop_keeps k _)) _
  · exact h

theorem resDrop_keeps {s0 s : State} (hk0 : Keeps K s0 s) (r : Nat) [Free K .regs] :
    Keeps K s0 (State.resDrop s r) := by
  unfold State.resDrop
  refine keeps_foldl _ ?_ ?_
  · exact hk0
  · intro y0 y1 hy2
    refine keeps_ite ?_ ?_
    · apply resRelease_keeps
      exact hy2
    · exact hy2

theorem blocksDrop_keeps {s0 s : State} (hk0 : Keeps K s0 s) (r : Nat) [Free K .resets] :
    Keeps K s0 (State.blocksDrop s r) := by
  unfold State.blocksDrop
  refine keeps_mk ?_
  exact hk0

theorem showOn_keeps {s0 s : State} (hk0 : Keeps K s0 s) (r : Nat) (b : Bool) [Free K .regs] :
    Keeps K s0 (State.showOn s r b) := by
  unfold State.showOn
  apply setF_keeps
  exact hk0

theorem lineGone_keeps {s0 s : State} (h : Keeps K s0 s) (old : State) (x : Side) [Free K .counters] [Free K .free] [Free K .pairing] [Free K .regs] [Free K .report] [Free K .time] : Keeps K s0 (State.lineGone old s x) := by
  unfold State.lineGone
  exact prtEval_keeps (timSideLost_keeps (todDsLost_keeps (keeps_ite (setFlag_keeps h ..) h) _) _)

theorem regionClear_keeps {s0 s : State} (hk0 : Keeps K s0 s) (r : Nat) [Free K .capture] [Free K .circuits] [Free K .classifier] [Free K .client] [Free K .counters] [Free K .dispatch] [Free K .dram] [Free K .farrier] [Free K .free] [Free K .gates] [Free K .istore] [Free K .keys] [Free K .lmem] [Free K .memories] [Free K .paddock] [Free K .pairing] [Free K .pairs] [Free K .regs] [Free K .report] [Free K .resets] [Free K .rings] [Free K .sched] [Free K .smem] [Free K .teams] [Free K .threads] [Free K .time] [Free K .xings] [∀ x, Free K (.line x)] :
    Keeps K s0 (State.regionClear s r) := by
  unfold State.regionClear
  extract_lets +onlyGivenNames s0_0
  refine keeps_cut (v := s0_0) ?_ fun hs0_0 => ?_
  · subst s0_0
    refine keeps_ite ?_ ?_
    · refine keeps_foldl _ ?_ ?_
      · exact hk0
      · intro y1 y2 hy3
        apply chDown_keeps
        exact hy3
    · exact hk0
  clear_value s0_0
  extract_lets +onlyGivenNames s1_4
  refine keeps_cut (v := s1_4) ?_ fun hs1_4 => ?_
  · subst s1_4
    apply blocksDrop_keeps
    apply resDrop_keeps
    apply regionLost_keeps
    apply xRegionReset_keeps
    exact hs0_0
  clear_value s1_4
  extract_lets +onlyGivenNames s2_5
  refine keeps_cut (v := s2_5) ?_ fun hs2_5 => ?_
  · subst s2_5
    apply dropRegs_keeps
    exact hs1_4
  clear_value s2_5
  refine keeps_ite ?_ ?_
  · apply lineGone_keeps
    exact hs2_5
  · refine keeps_ite ?_ ?_
    · apply lineGone_keeps
      exact hs2_5
    · exact hs2_5

theorem regionReset_keeps {s0 s : State} (hk0 : Keeps K s0 s) (r : Nat) [Free K .capture] [Free K .circuits] [Free K .classifier] [Free K .client] [Free K .counters] [Free K .dispatch] [Free K .dram] [Free K .farrier] [Free K .free] [Free K .gates] [Free K .istore] [Free K .keys] [Free K .lmem] [Free K .memories] [Free K .paddock] [Free K .pairing] [Free K .pairs] [Free K .regs] [Free K .report] [Free K .resets] [Free K .rings] [Free K .sched] [Free K .smem] [Free K .teams] [Free K .threads] [Free K .time] [Free K .xings] [∀ x, Free K (.line x)] :
    Keeps K s0 (State.regionReset s r) := by
  unfold State.regionReset
  apply xRegionLeave_keeps
  apply regionClear_keeps
  exact hk0

theorem chKeep_keeps {s0 s : State} (hk0 : Keeps K s0 s) (old : State) [Free K .regs] :
    Keeps K s0 (State.chKeep s old) := by
  unfold State.chKeep
  refine keeps_foldl _ ?_ ?_
  · exact hk0
  · intro y0 y1 hy2
    apply setReg_keeps
    exact hy2

theorem chsTrain_keeps {s0 s : State} (hk0 : Keeps K s0 s) [Free K .counters] [Free K .memories] [Free K .regs] [Free K .report] :
    Keeps K s0 (State.chsTrain s) := by
  unfold State.chsTrain
  refine keeps_foldl _ ?_ ?_
  · exact hk0
  · intro y0 y1 hy2
    refine keeps_ite ?_ ?_
    · apply chTrain_keeps
      exact hy2
    · exact hy2

theorem regionOff_keeps {s0 s : State} (hk0 : Keeps K s0 s) (r : Nat) [Free K .capture] [Free K .circuits] [Free K .classifier] [Free K .client] [Free K .counters] [Free K .dispatch] [Free K .dram] [Free K .farrier] [Free K .free] [Free K .gates] [Free K .istore] [Free K .keys] [Free K .lmem] [Free K .memories] [Free K .paddock] [Free K .pairing] [Free K .pairs] [Free K .regions] [Free K .regs] [Free K .report] [Free K .resets] [Free K .rings] [Free K .sched] [Free K .smem] [Free K .teams] [Free K .threads] [Free K .time] [Free K .xings] [∀ x, Free K (.line x)] :
    Keeps K s0 (State.regionOff s r) := by
  unfold State.regionOff
  refine keeps_ite ?_ ?_
  · extract_lets +onlyGivenNames s1_0
    refine keeps_cut (v := s1_0) ?_ fun hs1_0 => ?_
    · subst s1_0
      apply showOn_keeps
      apply setRegion_keeps
      apply regionClear_keeps
      exact hk0
    clear_value s1_0
    refine keeps_ite ?_ ?_
    · apply chKeep_keeps
      exact hs1_0
    · exact hs1_0
  · exact hk0

theorem regionOn_keeps {s0 s : State} (hk0 : Keeps K s0 s) (r : Nat) [Free K .counters] [Free K .memories] [Free K .regions] [Free K .regs] [Free K .report] [Free K .xings] :
    Keeps K s0 (State.regionOn s r) := by
  unfold State.regionOn
  refine keeps_ite ?_ ?_
  · exact hk0
  · extract_lets +onlyGivenNames s1_0
    refine keeps_cut (v := s1_0) ?_ fun hs1_0 => ?_
    · subst s1_0
      apply addReg_keeps
      apply showOn_keeps
      apply setRegion_keeps
      exact hk0
    clear_value s1_0
    extract_lets +onlyGivenNames s2_1
    refine keeps_cut (v := s2_1) ?_ fun hs2_1 => ?_
    · subst s2_1
      apply dropCounters_keeps
      exact hs1_0
    clear_value s2_1
    extract_lets +onlyGivenNames s3_2
    refine keeps_cut (v := s3_2) ?_ fun hs3_2 => ?_
    · subst s3_2
      apply xRegionLeave_keeps
      refine keeps_ite ?_ ?_
      · refine keeps_mem ?_ ?_ ?_ ?_ ?_ ?_ ?_
        · exact hs2_1
        · exact fun m => swf_sdrop _ m
        · exact id
        · exact id
        · exact id
        · exact id
        · exact id
      · exact hs2_1
    clear_value s3_2
    refine keeps_ite ?_ ?_
    · apply chsTrain_keeps
      exact hs3_2
    · exact hs3_2

theorem lineGate_keeps {s0 s : State} (hk0 : Keeps K s0 s) (x : Side) (keepCal : Bool) [Free K .capture] [Free K .circuits] [Free K .counters] [Free K .paddock] [Free K .pairing] [Free K .regs] [Free K .report] [Free K .time] [Free K (.line x)] :
    Keeps K s0 (State.lineGate s x keepCal) := by
  unfold State.lineGate
  extract_lets +onlyGivenNames i_0
  clear_value i_0
  extract_lets +onlyGivenNames s1_1
  refine keeps_cut (v := s1_1) ?_ fun hs1_1 => ?_
  · subst s1_1
    apply setFlag_keeps
    apply setFlag_keeps
    apply framerHunt_keeps
    exact hk0
  clear_value s1_1
  refine keeps_ite ?_ ?_
  · exact hs1_1
  · apply setFlag_keeps
    apply setFlag_keeps
    exact hs1_1

theorem lineLoss_keeps {s0 s : State} (hk0 : Keeps K s0 s) (x : Side) [Free K .counters] [Free K .regs] [Free K .report] [Free K (.line x)] :
    Keeps K s0 (State.lineLoss s x) := by
  unfold State.lineLoss
  extract_lets +onlyGivenNames i_0
  clear_value i_0
  extract_lets +onlyGivenNames st_1
  clear_value st_1
  extract_lets +onlyGivenNames s1_2
  refine keeps_cut (v := s1_2) ?_ fun hs1_2 => ?_
  · subst s1_2
    apply modLine_keeps
    exact hk0
  clear_value s1_2
  refine keeps_ite ?_ ?_
  · apply actGo_keeps
    apply setF_keeps
    exact hs1_2
  · exact hs1_2

theorem stestUp_keeps {s0 s : State} (hk0 : Keeps K s0 s) (old : State) (fails : List StestFail) [Free K .capture] [Free K .counters] [Free K .dram] [Free K .free] [Free K .memories] [Free K .paddock] [Free K .pairing] [Free K .regs] [Free K .report] [Free K .rings] [Free K .sched] :
    Keeps K s0 (State.stestUp s old fails) := by
  unfold State.stestUp
  extract_lets +onlyGivenNames up_0
  refine keeps_ite ?_ ?_
  · apply stest_keeps
    exact hk0
  · exact hk0

theorem lineSleep_keeps {s0 s : State} (hk0 : Keeps K s0 s) (x : Side) [Free K .capture] [Free K .circuits] [Free K .counters] [Free K .memories] [Free K .paddock] [Free K .pairing] [Free K .regions] [Free K .regs] [Free K .report] [Free K .time] [Free K .xings] [Free K (.line x)] :
    Keeps K s0 (State.lineSleep s x) := by
  unfold State.lineSleep
  extract_lets +onlyGivenNames r_0
  clear_value r_0
  refine keeps_ite ?_ ?_
  · apply showOn_keeps
    apply setRegion_keeps
    apply xRegionReset_keeps
    apply lineGate_keeps
    exact hk0
  · exact hk0

theorem windowOn_keeps {s0 s : State} (hk0 : Keeps K s0 s) (x : Side) [Free K .counters] [Free K .memories] [Free K .regions] [Free K .regs] [Free K .report] [Free K .xings] :
    Keeps K s0 (State.windowOn s x) := by
  unfold State.windowOn
  apply regionOn_keeps
  exact hk0

theorem windowOff_keeps {s0 s : State} (hk0 : Keeps K s0 s) (x : Side) [Free K .capture] [Free K .circuits] [Free K .counters] [Free K .memories] [Free K .paddock] [Free K .pairing] [Free K .regions] [Free K .regs] [Free K .report] [Free K .time] [Free K .xings] [Free K (.line x)] :
    Keeps K s0 (State.windowOff s x) := by
  unfold State.windowOff
  apply showOn_keeps
  apply setRegion_keeps
  apply xRegionReset_keeps
  apply lineGate_keeps
  exact hk0

theorem warmBase_keeps {s0 s : State} (h : Keeps K s0 s) (q : State) (hg : q.grade = s.grade) (hp : q.pending = s.pending)
    (ht : q.tick = s.tick) (hm : q.tm = {}) (hr : q.regs = s.regs) (hc : q.counters = s.counters)
    (hh : q.hostMem = s.hostMem) (hd : q.dram = []) (hl : q.lmem = []) (hs : q.smem = []) (hi : q.istore = [])
    (hq : ∀ k, K k → Same k s q) : Keeps K s0 q :=
  h.of_parts hg hp (fun a => ht ▸ a) (fun _ => by rw [hm]; decide)
    (fun c a => by simpa only [State.counter, hc] using c a) (fun a => hr ▸ a) (fun a => hc ▸ a) (fun a => hh ▸ a)
    (fun _ => by rw [hd]; rfl) (fun _ => by rw [hl]; rfl) (fun _ => by rw [hs]; rfl) (fun _ => by rw [hi]; rfl) hq

theorem warmCore_keeps {s0 s : State} (h : Keeps K s0 s) [Free K .capture] [Free K .circuits] [Free K .classifier] [Free K .client] [Free K .counters] [Free K .dispatch] [Free K .dram] [Free K .farrier] [Free K .gates] [Free K .istore] [Free K .keys] [Free K .lmem] [Free K .memories] [Free K .paddock] [Free K .pairing] [Free K .pairs] [Free K .power] [Free K .rd] [Free K .regions] [Free K .regs] [Free K .report] [Free K .resets] [Free K .rings] [Free K .sched] [Free K .shadows] [Free K .smem] [Free K .teams] [Free K .threads] [Free K .time] [Free K .xings] [∀ x, Free K (.line x)] : Keeps K s0 s.warmCore := by
  unfold State.warmCore
  extract_lets src q q1 q2 q2' q3 q3' q4
  have h1 : Keeps K s0 q1 := warmBase_keeps h q1 rfl rfl rfl rfl rfl rfl rfl rfl rfl rfl rfl (by
    intro k hk
    cases k with
    | line y => cases y <;> first | exact absurd hk Free.out | rfl
    | _ => first | exact absurd hk Free.out | rfl)
  have h2 : Keeps K s0 q2 := dropCounters_keeps (dropRegs_keeps h1 _ _) _
  have h2' : Keeps K s0 q2' := setFlag_keeps (setFlag_keeps h2 ..) ..
  have h3 : Keeps K s0 q3 := setReg_keeps (setReg_keeps h2' ..) ..
  have h4 : Keeps K s0 q3' := keeps_foldl _ h3 fun _ _ k => resRelease_keeps k _
  exact addReg_keeps (satF_keeps (setF_keeps (setFlag_keeps h4 ..) ..) ..) ..

end Sys2Proof.Machine
end

