-- ==== Sys2Proof/Laws/KeepsFarrier.lean ====
section
/-! SUPPORT. What the operations of Machine/Farrier.lean keep. -/

-- One proof at a time: in the package as one text, proofs that wait for each other would each hold a thread.
set_option Elab.async false

namespace Sys2Proof.Machine

variable {K : Comp → Prop}

theorem setPhase_keeps {s0 s : State} (hk0 : Keeps K s0 s) (v : Nat) [Free K .regs] :
    Keeps K s0 (State.setPhase s v) := by
  unfold State.setPhase
  apply setF_keeps
  exact hk0

theorem clearSecrets_keeps {s0 s : State} (hk0 : Keeps K s0 s) [Free K .counters] [Free K .free] [Free K .keys] [Free K .regs] [Free K .report] [Free K .rings] [Free K .sched] [Free K .threads] [∀ x, Free K (.line x)] :
    Keeps K s0 (State.clearSecrets s) := by
  unfold State.clearSecrets
  extract_lets +onlyGivenNames s1_0
  refine keeps_cut (v := s1_0) ?_ fun hs1_0 => ?_
  · subst s1_0
    refine keeps_foldl _ ?_ ?_
    · exact hk0
    · intro y1 y2 hy3
      refine keeps_ite ?_ ?_
      · exact hy3
      · apply eraseSlot_keeps
        exact hy3
  clear_value s1_0
  extract_lets +onlyGivenNames s2_4
  refine keeps_cut (v := s2_4) ?_ fun hs2_4 => ?_
  · subst s2_4
    apply modSec_keeps
    exact hs1_0
  clear_value s2_4
  refine keeps_ite ?_ ?_
  · extract_lets +onlyGivenNames b_5
    refine keeps_cut (v := b_5.2) ?_ fun hb_5 => ?_
    · subst b_5
      apply takeFree_keeps
      exact hs2_4
    clear_value b_5
    apply setFlag_keeps
    exact hb_5
  · exact hs2_4

theorem farFail_keeps {s0 s : State} (hk0 : Keeps K s0 s) (r : Nat) [Free K .counters] [Free K .regs] [Free K .report] :
    Keeps K s0 (State.farFail s r) := by
  unfold State.farFail
  extract_lets +onlyGivenNames s1_0
  refine keeps_cut (v := s1_0) ?_ fun hs1_0 => ?_
  · subst s1_0
    apply setF_keeps
    apply bumpIf_keeps
    exact hk0
  clear_value s1_0
  extract_lets +onlyGivenNames s2_1
  refine keeps_cut (v := s2_1) ?_ fun hs2_1 => ?_
  · subst s2_1
    refine keeps_ite ?_ ?_
    · apply setFlag_keeps
      exact hs1_0
    · exact hs1_0
  clear_value s2_1
  refine keeps_ite ?_ ?_
  · apply raise_keeps
    exact hs2_1
  · apply raise_keeps
    exact hs2_1

theorem farDone_keeps {s0 s : State} (hk0 : Keeps K s0 s) [Free K .farrier] [Free K .regs] :
    Keeps K s0 (State.farDone s) := by
  unfold State.farDone
  apply modFar_keeps
  apply setPhase_keeps
  apply setFlag_keeps
  apply setFlag_keeps
  exact hk0

theorem farClear_keeps {s0 s : State} (hk0 : Keeps K s0 s) (ok : Bool) [Free K .counters] [Free K .farrier] [Free K .free] [Free K .keys] [Free K .regs] [Free K .report] [Free K .rings] [Free K .sched] [Free K .threads] [∀ x, Free K (.line x)] :
    Keeps K s0 (State.farClear s ok) := by
  unfold State.farClear
  extract_lets +onlyGivenNames s1_0
  refine keeps_cut (v := s1_0) ?_ fun hs1_0 => ?_
  · subst s1_0
    apply clearSecrets_keeps
    exact hk0
  clear_value s1_0
  refine keeps_ite ?_ ?_
  · apply setPhase_keeps
    apply modFar_keeps
    exact hs1_0
  · extract_lets +onlyGivenNames s2_1
    refine keeps_cut (v := s2_1) ?_ fun hs2_1 => ?_
    · subst s2_1
      apply farFail_keeps
      exact hs1_0
    clear_value s2_1
    refine keeps_ite ?_ ?_
    · apply setPhase_keeps
      apply modFar_keeps
      exact hs2_1
    · apply farDone_keeps
      exact hs2_1

theorem farBegin_keeps {s0 s : State} (hk0 : Keeps K s0 s) (kind region index : Nat) (clearOk : Bool) [Free K .counters] [Free K .farrier] [Free K .free] [Free K .keys] [Free K .regs] [Free K .report] [Free K .rings] [Free K .sched] [Free K .threads] [∀ x, Free K (.line x)] :
    Keeps K s0 (State.farBegin s kind region index clearOk) := by
  unfold State.farBegin
  extract_lets +onlyGivenNames p_0
  clear_value p_0
  extract_lets +onlyGivenNames sig_1
  clear_value sig_1
  extract_lets +onlyGivenNames s1_2
  refine keeps_cut (v := s1_2) ?_ fun hs1_2 => ?_
  · subst s1_2
    apply modFar_keeps
    exact hk0
  clear_value s1_2
  extract_lets +onlyGivenNames s2_3
  refine keeps_cut (v := s2_3) ?_ fun hs2_3 => ?_
  · subst s2_3
    apply setReg_keeps
    apply setReg_keeps
    apply setReg_keeps
    exact hs1_2
  clear_value s2_3
  extract_lets +onlyGivenNames s3_4
  refine keeps_cut (v := s3_4) ?_ fun hs3_4 => ?_
  · subst s3_4
    apply bump_keeps
    apply setF_keeps
    exact hs2_3
  clear_value s3_4
  split
  · apply setPhase_keeps
    apply setTeamState_keeps
    exact hs3_4
  · apply setPhase_keeps
    exact hs3_4
  · apply farClear_keeps
    exact hs3_4

theorem farCommand_keeps {s0 s : State} (hk0 : Keeps K s0 s) (v : Word) (refOk clearOk : Bool) [Free K .counters] [Free K .farrier] [Free K .free] [Free K .keys] [Free K .regs] [Free K .report] [Free K .rings] [Free K .sched] [Free K .threads] [∀ x, Free K (.line x)] :
    Keeps K s0 (State.farCommand s v refOk clearOk) := by
  unfold State.farCommand
  extract_lets +onlyGivenNames s1_0
  refine keeps_cut (v := s1_0) ?_ fun hs1_0 => ?_
  · subst s1_0
    apply setReg_keeps
    exact hk0
  clear_value s1_0
  refine keeps_ite ?_ ?_
  · exact hs1_0
  · extract_lets +onlyGivenNames k_1
    clear_value k_1
    extract_lets +onlyGivenNames r_2
    clear_value r_2
    extract_lets +onlyGivenNames i_3
    clear_value i_3
    extract_lets +onlyGivenNames nm_4
    refine keeps_cut (v := nm_4.2) ?_ fun hnm_4 => ?_
    · subst nm_4
      refine keeps_ite2 ?_ ?_
      · apply takeFree_keeps
        exact hs1_0
      · refine keeps_pair ?_
        exact hs1_0
    clear_value nm_4
    split
    · apply farBegin_keeps
      exact hnm_4
    · apply raise_keeps
      apply bump_keeps
      apply setF_keeps
      apply setF_keeps
      apply setFlag_keeps
      exact hnm_4

theorem teamBlank_keeps {s0 s : State} (hk0 : Keeps K s0 s) (t : Nat) [Free K .istore] [Free K .lmem] [Free K .smem] [Free K .threads] :
    Keeps K s0 (State.teamBlank s t) := by
  unfold State.teamBlank
  extract_lets +onlyGivenNames s1_0
  refine keeps_cut (v := s1_0) ?_ fun hs1_0 => ?_
  · subst s1_0
    refine keeps_mem ?_ ?_ ?_ ?_ ?_ ?_ ?_
    · exact hk0
    · exact id
    · exact id
    · exact id
    · exact id
    · exact fun m => swf_sdrop _ m
    · exact fun m => swf_sdrop _ m
  clear_value s1_0
  refine keeps_mem ?_ ?_ ?_ ?_ ?_ ?_ ?_
  · exact hs1_0
  · exact id
  · exact id
  · exact id
  · exact fun m => swf_sdrop _ m
  · exact id
  · exact id

theorem teamBack_keeps {s0 s : State} (hk0 : Keeps K s0 s) (t : Nat) (x : TeamSave) [Free K .istore] [Free K .lmem] [Free K .smem] [Free K .threads] :
    Keeps K s0 (State.teamBack s t x) := by
  unfold State.teamBack
  extract_lets +onlyGivenNames s1_0
  refine keeps_cut (v := s1_0) ?_ fun hs1_0 => ?_
  · subst s1_0
    apply teamBlank_keeps
    exact hk0
  clear_value s1_0
  extract_lets +onlyGivenNames s2_1
  refine keeps_cut (v := s2_1) ?_ fun hs2_1 => ?_
  · subst s2_1
    refine keeps_mem ?_ ?_ ?_ ?_ ?_ ?_ ?_
    · exact hs1_0
    · exact id
    · exact id
    · exact id
    · exact id
    · exact fun m => swf_fold _ m
    · exact fun m => swf_fold _ m
  clear_value s2_1
  refine keeps_mem ?_ ?_ ?_ ?_ ?_ ?_ ?_
  · exact hs2_1
  · exact id
  · exact id
  · exact id
  · exact fun m => swf_fold _ m
  · exact id
  · exact id

theorem farTeamIdle_keeps {s0 s : State} (hk0 : Keeps K s0 s) (clearOk : Bool) (uncs : List (Nat × Nat)) [Free K .counters] [Free K .farrier] [Free K .free] [Free K .keys] [Free K .regs] [Free K .report] [Free K .rings] [Free K .sched] [Free K .threads] [∀ x, Free K (.line x)] :
    Keeps K s0 (State.farTeamIdle s clearOk uncs) := by
  unfold State.farTeamIdle
  extract_lets +onlyGivenNames t_0
  clear_value t_0
  extract_lets +onlyGivenNames idle1
  clear_value idle1
  refine keeps_ite ?_ ?_
  · extract_lets +onlyGivenNames s1_2
    refine keeps_cut (v := s1_2) ?_ fun hs1_2 => ?_
    · subst s1_2
      refine keeps_foldl _ ?_ ?_
      · exact hk0
      · intro y3 y4 hy5
        extract_lets +onlyGivenNames y_6
        refine keeps_cut (v := y_6.2) ?_ fun hy_6 => ?_
        · subst y_6
          apply takeFree_keeps
          exact hy5
        clear_value y_6
        apply memUe_keeps
        exact hy_6
    clear_value s1_2
    apply farClear_keeps
    apply modFar_keeps
    exact hs1_2
  · exact hk0

theorem farRestore_keeps {s0 s : State} (hk0 : Keeps K s0 s) [Free K .counters] [Free K .farrier] [Free K .istore] [Free K .lmem] [Free K .memories] [Free K .paddock] [Free K .regs] [Free K .report] [Free K .smem] [Free K .threads] :
    Keeps K s0 (State.farRestore s) := by
  unfold State.farRestore
  extract_lets +onlyGivenNames t_0
  clear_value t_0
  refine keeps_ite ?_ ?_
  · exact hk0
  · extract_lets +onlyGivenNames bad_1
    clear_value bad_1
    split
    · extract_lets +onlyGivenNames s1_2
      refine keeps_cut (v := s1_2) ?_ fun hs1_2 => ?_
      · subst s1_2
        apply teamBack_keeps
        exact hk0
      clear_value s1_2
      refine keeps_ite ?_ ?_
      · extract_lets +onlyGivenNames s2_3
        refine keeps_cut (v := s2_3) ?_ fun hs2_3 => ?_
        · subst s2_3
          apply setTeamState_keeps
          exact hs1_2
        clear_value s2_3
        apply farDone_keeps
        refine keeps_ite ?_ ?_
        · exact hs2_3
        · apply raise_keeps
          apply bump_keeps
          apply setF_keeps
          exact hs2_3
      · apply farDone_keeps
        apply farFail_keeps
        apply setF_keeps
        apply setTeamState_keeps
        exact hs1_2
    · extract_lets +onlyGivenNames s1_4
      refine keeps_cut (v := s1_4) ?_ fun hs1_4 => ?_
      · subst s1_4
        apply setTeamState_keeps
        apply teamBlank_keeps
        apply dropThreads_keeps
        exact hk0
      clear_value s1_4
      apply farDone_keeps
      refine keeps_ite ?_ ?_
      · exact hs1_4
      · apply farFail_keeps
        exact hs1_4

theorem farLogic_keeps {s0 s : State} (hk0 : Keeps K s0 s) (sig : BitVec 64) [Free K .farrier] [Free K .regs] :
    Keeps K s0 (State.farLogic s sig) := by
  unfold State.farLogic
  refine keeps_ite ?_ ?_
  · exact hk0
  · extract_lets +onlyGivenNames s1_0
    refine keeps_cut (v := s1_0) ?_ fun hs1_0 => ?_
    · subst s1_0
      apply setReg_keeps
      apply setReg_keeps
      exact hk0
    clear_value s1_0
    extract_lets +onlyGivenNames bad_1
    clear_value bad_1
    apply setPhase_keeps
    apply modFar_keeps
    exact hs1_0

theorem farSpare_keeps {s0 s : State} (hk0 : Keeps K s0 s) (x : BistFail) [Free K .counters] [Free K .dram] [Free K .memories] [Free K .regs] [Free K .report] :
    Keeps K s0 (State.farSpare s x).2 := by
  unfold State.farSpare
  refine keeps_ite2 ?_ ?_
  · refine keeps_pair ?_
    exact hk0
  · refine keeps_ite2 ?_ ?_
    · refine keeps_pair ?_
      exact hk0
    · split
      · refine keeps_pair ?_
        exact hk0
      · refine keeps_pair ?_
        apply raise_keeps
        apply bump_keeps
        apply mapUse_keeps
        exact hk0

theorem farBit_keeps {s0 s : State} (hk0 : Keeps K s0 s) (x : BistFail) [Free K .counters] [Free K .dram] [Free K .farrier] [Free K .memories] [Free K .regs] [Free K .report] :
    Keeps K s0 (State.farBit s x) := by
  unfold State.farBit
  extract_lets +onlyGivenNames r_0
  refine keeps_cut (v := r_0.2) ?_ fun hr_0 => ?_
  · subst r_0
    apply farSpare_keeps
    exact hk0
  clear_value r_0
  extract_lets +onlyGivenNames s1_1
  refine keeps_cut (v := s1_1) ?_ fun hs1_1 => ?_
  · subst s1_1
    refine keeps_ite ?_ ?_
    · exact hr_0
    · apply modFar_keeps
      exact hr_0
  clear_value s1_1
  extract_lets +onlyGivenNames rep_2
  clear_value rep_2
  extract_lets +onlyGivenNames s2_3
  refine keeps_cut (v := s2_3) ?_ fun hs2_3 => ?_
  · subst s2_3
    split
    · apply bump_keeps
      exact hs1_1
    · apply setReg_keeps
      apply setReg_keeps
      exact hs1_1
  clear_value s2_3
  apply raise_keeps
  apply bump_keeps
  exact hs2_3

theorem farTargetReset_keeps {s0 s : State} (hk0 : Keeps K s0 s) (xngs : List Nat) [Free K .capture] [Free K .circuits] [Free K .classifier] [Free K .client] [Free K .counters] [Free K .dispatch] [Free K .dram] [Free K .farrier] [Free K .free] [Free K .gates] [Free K .istore] [Free K .keys] [Free K .lmem] [Free K .memories] [Free K .paddock] [Free K .pairing] [Free K .pairs] [Free K .regs] [Free K .report] [Free K .resets] [Free K .rings] [Free K .sched] [Free K .smem] [Free K .teams] [Free K .threads] [Free K .time] [Free K .xings] [∀ x, Free K (.line x)] :
    Keeps K s0 (State.farTargetReset s xngs) := by
  unfold State.farTargetReset
  split
  · apply blockCrossings_keeps
    exact hk0
  · apply regionReset_keeps
    exact hk0
  · apply dramForget_keeps
    apply queuesLose_keeps
    exact hk0
  · exact hk0

theorem farMemory_keeps {s0 s : State} (hk0 : Keeps K s0 s) (fails : List BistFail) (xngs : List Nat) [Free K .capture] [Free K .circuits] [Free K .classifier] [Free K .client] [Free K .counters] [Free K .dispatch] [Free K .dram] [Free K .farrier] [Free K .free] [Free K .gates] [Free K .istore] [Free K .keys] [Free K .lmem] [Free K .memories] [Free K .paddock] [Free K .pairing] [Free K .pairs] [Free K .regs] [Free K .report] [Free K .resets] [Free K .rings] [Free K .sched] [Free K .smem] [Free K .teams] [Free K .threads] [Free K .time] [Free K .xings] [∀ x, Free K (.line x)] :
    Keeps K s0 (State.farMemory s fails xngs) := by
  unfold State.farMemory
  refine keeps_ite ?_ ?_
  · exact hk0
  · extract_lets +onlyGivenNames s1_0
    refine keeps_cut (v := s1_0) ?_ fun hs1_0 => ?_
    · subst s1_0
      refine keeps_foldl _ ?_ ?_
      · exact hk0
      · intro y1 y2 hy3
        apply farBit_keeps
        exact hy3
    clear_value s1_0
    refine keeps_ite ?_ ?_
    · apply setPhase_keeps
      exact hs1_0
    · extract_lets +onlyGivenNames s2_4
      refine keeps_cut (v := s2_4) ?_ fun hs2_4 => ?_
      · subst s2_4
        refine keeps_ite ?_ ?_
        · apply farFail_keeps
          exact hs1_0
        · refine keeps_ite ?_ ?_
          · apply farFail_keeps
            exact hs1_0
          · apply raise_keeps
            apply bump_keeps
            apply setF_keeps
            exact hs1_0
      clear_value s2_4
      apply farDone_keeps
      apply farTargetReset_keeps
      exact hs2_4

theorem farAbort_keeps {s0 s : State} (hk0 : Keeps K s0 s) [Free K .capture] [Free K .circuits] [Free K .classifier] [Free K .client] [Free K .counters] [Free K .dispatch] [Free K .dram] [Free K .farrier] [Free K .free] [Free K .gates] [Free K .istore] [Free K .keys] [Free K .lmem] [Free K .memories] [Free K .paddock] [Free K .pairing] [Free K .pairs] [Free K .regs] [Free K .report] [Free K .resets] [Free K .rings] [Free K .sched] [Free K .smem] [Free K .teams] [Free K .threads] [Free K .time] [Free K .xings] [∀ x, Free K (.line x)] :
    Keeps K s0 (State.farAbort s) := by
  unfold State.farAbort
  refine keeps_ite ?_ ?_
  · exact hk0
  · extract_lets +onlyGivenNames s1_0
    refine keeps_cut (v := s1_0) ?_ fun hs1_0 => ?_
    · subst s1_0
      apply farFail_keeps
      exact hk0
    clear_value s1_0
    refine keeps_ite ?_ ?_
    · apply setPhase_keeps
      apply modFar_keeps
      exact hs1_0
    · extract_lets +onlyGivenNames m_1
      refine keeps_cut (v := m_1.2) ?_ fun hm_1 => ?_
      · subst m_1
        apply takeFree_keeps
        exact hs1_0
      clear_value m_1
      apply farDone_keeps
      apply farTargetReset_keeps
      exact hm_1

theorem fuseCommand_keeps {s0 s : State} (hk0 : Keeps K s0 s) (v : Word) [Free K .regs] :
    Keeps K s0 (State.fuseCommand s v) := by
  unfold State.fuseCommand
  refine keeps_ite ?_ ?_
  · exact hk0
  · refine keeps_ite ?_ ?_
    · apply setF_keeps
      apply setFlag_keeps
      exact hk0
    · apply setF_keeps
      apply setFlag_keeps
      exact hk0

theorem fuseEnd_keeps {s0 s : State} (hk0 : Keeps K s0 s) [Free K .power] [Free K .regs] [Free K .report] :
    Keeps K s0 (State.fuseEnd s) := by
  unfold State.fuseEnd
  refine keeps_ite ?_ ?_
  · exact hk0
  · extract_lets +onlyGivenNames new_0
    clear_value new_0
    extract_lets +onlyGivenNames room1
    clear_value room1
    extract_lets +onlyGivenNames s1_2
    refine keeps_cut (v := s1_2) ?_ fun hs1_2 => ?_
    · subst s1_2
      apply modPwr_keeps
      exact hk0
    clear_value s1_2
    apply setReg_keeps
    exact hs1_2

theorem execFarrierStart_keeps (q : Req) (v : Word) (refOk clearOk : Bool) (s : State) :
    Answers [.counters, .farrier, .free, .keys, .regs, .report, .rings, .sched, .threads, .line .a, .line .b] s (execFarrierStart q v refOk clearOk s) := by
  refine answers_of fun K n => ⟨_, rfl, ?_⟩
  have i0 : Free K .counters := n _ (by simp)
  have i1 : Free K .farrier := n _ (by simp)
  have i2 : Free K .free := n _ (by simp)
  have i3 : Free K .keys := n _ (by simp)
  have i4 : Free K .regs := n _ (by simp)
  have i5 : Free K .report := n _ (by simp)
  have i6 : Free K .rings := n _ (by simp)
  have i7 : Free K .sched := n _ (by simp)
  have i8 : Free K .threads := n _ (by simp)
  have i9 : ∀ x, Free K (.line x) := fun x => by cases x <;> exact n _ (by simp)
  have hk0 := Keeps.refl (K := K) s
  apply guardHostW_keeps
  · exact hk0
  · intro y0 hy1
    apply farCommand_keeps
    exact hy1

theorem execFarrierTeamIdle_keeps (clearOk : Bool) (uncs : List (Nat × Nat)) (s : State) :
    Answers [.counters, .farrier, .free, .keys, .regs, .report, .rings, .sched, .threads, .line .a, .line .b] s (execFarrierTeamIdle clearOk uncs s) := by
  refine answers_of fun K n => ⟨_, rfl, ?_⟩
  have i0 : Free K .counters := n _ (by simp)
  have i1 : Free K .farrier := n _ (by simp)
  have i2 : Free K .free := n _ (by simp)
  have i3 : Free K .keys := n _ (by simp)
  have i4 : Free K .regs := n _ (by simp)
  have i5 : Free K .report := n _ (by simp)
  have i6 : Free K .rings := n _ (by simp)
  have i7 : Free K .sched := n _ (by simp)
  have i8 : Free K .threads := n _ (by simp)
  have i9 : ∀ x, Free K (.line x) := fun x => by cases x <;> exact n _ (by simp)
  have hk0 := Keeps.refl (K := K) s
  apply farTeamIdle_keeps
  exact hk0

theorem execLogicBistDone_keeps (sig : BitVec 64) (s : State) :
    Answers [.farrier, .regs] s (execLogicBistDone sig s) := by
  refine answers_of fun K n => ⟨_, rfl, ?_⟩
  have i0 : Free K .farrier := n _ (by simp)
  have i1 : Free K .regs := n _ (by simp)
  have hk0 := Keeps.refl (K := K) s
  apply farLogic_keeps
  exact hk0

theorem execMemoryBistDone_keeps (fails : List (Bool × Fin 128 × Fin 128 × Nat)) (xngs : List (Fin 30)) (s : State) :
    Answers [.capture, .circuits, .classifier, .client, .counters, .dispatch, .dram, .farrier, .free, .gates, .istore, .keys, .lmem, .memories, .paddock, .pairing, .pairs, .regs, .report, .resets, .rings, .sched, .smem, .teams, .threads, .time, .xings, .line .a, .line .b] s (execMemoryBistDone fails xngs s) := by
  refine answers_of fun K n => ⟨_, rfl, ?_⟩
  have i0 : Free K .capture := n _ (by simp)
  have i1 : Free K .circuits := n _ (by simp)
  have i2 : Free K .classifier := n _ (by simp)
  have i3 : Free K .client := n _ (by simp)
  have i4 : Free K .counters := n _ (by simp)
  have i5 : Free K .dispatch := n _ (by simp)
  have i6 : Free K .dram := n _ (by simp)
  have i7 : Free K .farrier := n _ (by simp)
  have i8 : Free K .free := n _ (by simp)
  have i9 : Free K .gates := n _ (by simp)
  have i10 : Free K .istore := n _ (by simp)
  have i11 : Free K .keys := n _ (by simp)
  have i12 : Free K .lmem := n _ (by simp)
  have i13 : Free K .memories := n _ (by simp)
  have i14 : Free K .paddock := n _ (by simp)
  have i15 : Free K .pairing := n _ (by simp)
  have i16 : Free K .pairs := n _ (by simp)
  have i17 : Free K .regs := n _ (by simp)
  have i18 : Free K .report := n _ (by simp)
  have i19 : Free K .resets := n _ (by simp)
  have i20 : Free K .rings := n _ (by simp)
  have i21 : Free K .sched := n _ (by simp)
  have i22 : Free K .smem := n _ (by simp)
  have i23 : Free K .teams := n _ (by simp)
  have i24 : Free K .threads := n _ (by simp)
  have i25 : Free K .time := n _ (by simp)
  have i26 : Free K .xings := n _ (by simp)
  have i27 : ∀ x, Free K (.line x) := fun x => by cases x <;> exact n _ (by simp)
  have hk0 := Keeps.refl (K := K) s
  apply farMemory_keeps
  exact hk0

theorem execFarrierRestoreDone_keeps (s : State) :
    Answers [.counters, .farrier, .istore, .lmem, .memories, .paddock, .regs, .report, .smem, .threads] s (execFarrierRestoreDone s) := by
  refine answers_of fun K n => ⟨_, rfl, ?_⟩
  have i0 : Free K .counters := n _ (by simp)
  have i1 : Free K .farrier := n _ (by simp)
  have i2 : Free K .istore := n _ (by simp)
  have i3 : Free K .lmem := n _ (by simp)
  have i4 : Free K .memories := n _ (by simp)
  have i5 : Free K .paddock := n _ (by simp)
  have i6 : Free K .regs := n _ (by simp)
  have i7 : Free K .report := n _ (by simp)
  have i8 : Free K .smem := n _ (by simp)
  have i9 : Free K .threads := n _ (by simp)
  have hk0 := Keeps.refl (K := K) s
  apply farRestore_keeps
  exact hk0

theorem execFuseBurn_keeps (q : Req) (v : Word) (s : State) :
    Answers [.counters, .regs, .report] s (execFuseBurn q v s) := by
  refine answers_of fun K n => ⟨_, rfl, ?_⟩
  have i0 : Free K .counters := n _ (by simp)
  have i1 : Free K .regs := n _ (by simp)
  have i2 : Free K .report := n _ (by simp)
  have hk0 := Keeps.refl (K := K) s
  apply guardHostW_keeps
  · exact hk0
  · intro y0 hy1
    apply fuseCommand_keeps
    exact hy1

theorem execFuseBurnEnd_keeps (s : State) :
    Answers [.power, .regs, .report] s (execFuseBurnEnd s) := by
  refine answers_of fun K n => ⟨_, rfl, ?_⟩
  have i0 : Free K .power := n _ (by simp)
  have i1 : Free K .regs := n _ (by simp)
  have i2 : Free K .report := n _ (by simp)
  have hk0 := Keeps.refl (K := K) s
  apply fuseEnd_keeps
  exact hk0

end Sys2Proof.Machine
end

