-- ==== Sys2Proof/Laws/KeepsPower.lean ====
section
/-! SUPPORT. What the operations of Machine/Power.lean keep. -/

-- One proof at a time: in the package as one text, proofs that wait for each other would each hold a thread.
set_option Elab.async false

namespace Sys2Proof.Machine

variable {K : Comp → Prop}

theorem railsPut_keeps {s0 s : State} (hk0 : Keeps K s0 s) (en pg : Nat) [Free K .regs] :
    Keeps K s0 (State.railsPut s en pg) := by
  unfold State.railsPut
  apply setReg_keeps
  exact hk0

theorem groupRaise_keeps {s0 s : State} (hk0 : Keeps K s0 s) (m g : Nat) [Free K .regs] :
    Keeps K s0 (State.groupRaise s m g) := by
  unfold State.groupRaise
  extract_lets +onlyGivenNames up_0
  apply railsPut_keeps
  exact hk0

theorem groupLower_keeps {s0 s : State} (hk0 : Keeps K s0 s) (m g : Nat) [Free K .regs] :
    Keeps K s0 (State.groupLower s m g) := by
  unfold State.groupLower
  extract_lets +onlyGivenNames down0
  clear_value down0
  apply railsPut_keeps
  exact hk0

theorem setRails_keeps {s0 s : State} (hk0 : Keeps K s0 s) (m : Nat) [Free K .power] [Free K .regs] [Free K .report] :
    Keeps K s0 (State.setRails s m) := by
  unfold State.setRails
  refine keeps_foldl _ ?_ ?_
  · refine keeps_foldl _ ?_ ?_
    · apply modPwr_keeps
      exact hk0
    · intro y0 y1 hy2
      apply groupLower_keeps
      exact hy2
  · intro y3 y4 hy5
    apply groupRaise_keeps
    exact hy5

theorem setPll_keeps {s0 s : State} (hk0 : Keeps K s0 s) (i : Nat) (b : Bool) [Free K .power] [Free K .report] :
    Keeps K s0 (State.setPll s i b) := by
  unfold State.setPll
  apply modPwr_keeps
  exact hk0

theorem powerRegion_keeps {s0 s : State} (hk0 : Keeps K s0 s) (r : Nat) (b : Bool) [Free K .capture] [Free K .circuits] [Free K .classifier] [Free K .client] [Free K .counters] [Free K .dispatch] [Free K .dram] [Free K .farrier] [Free K .free] [Free K .gates] [Free K .istore] [Free K .keys] [Free K .lmem] [Free K .memories] [Free K .paddock] [Free K .pairing] [Free K .pairs] [Free K .power] [Free K .regions] [Free K .regs] [Free K .report] [Free K .resets] [Free K .rings] [Free K .sched] [Free K .smem] [Free K .teams] [Free K .threads] [Free K .time] [Free K .xings] [∀ x, Free K (.line x)] :
    Keeps K s0 (State.powerRegion s r b) := by
  unfold State.powerRegion
  extract_lets +onlyGivenNames s1_0
  refine keeps_cut (v := s1_0) ?_ fun hs1_0 => ?_
  · subst s1_0
    split
    · apply setPll_keeps
      exact hk0
    · assumption
  clear_value s1_0
  refine keeps_ite ?_ ?_
  · apply regionOn_keeps
    exact hs1_0
  · apply regionOff_keeps
    exact hs1_0

theorem vcoreEvent_keeps {s0 s : State} (hk0 : Keeps K s0 s) (late : Bool) [Free K .counters] [Free K .regs] [Free K .report] :
    Keeps K s0 (State.vcoreEvent s late) := by
  unfold State.vcoreEvent
  apply raise_keeps
  exact hk0

theorem vcoreSend_keeps {s0 s : State} (hk0 : Keeps K s0 s) [Free K .power] [Free K .report] :
    Keeps K s0 (State.vcoreSend s) := by
  unfold State.vcoreSend
  refine keeps_ite ?_ ?_
  · exact hk0
  · apply modPwr_keeps
    exact hk0

theorem vcoreWrite_keeps {s0 s : State} (hk0 : Keeps K s0 s) (q : Req) (v : Word) [Free K .power] [Free K .regs] [Free K .report] :
    Keeps K s0 (State.vcoreWrite s q v) := by
  unfold State.vcoreWrite
  extract_lets +onlyGivenNames s1_0
  refine keeps_cut (v := s1_0) ?_ fun hs1_0 => ?_
  · subst s1_0
    apply setF_keeps
    apply setF_keeps
    exact hk0
  clear_value s1_0
  split
  · exact hs1_0
  · extract_lets +onlyGivenNames s2_1
    refine keeps_cut (v := s2_1) ?_ fun hs2_1 => ?_
    · subst s2_1
      apply setFlag_keeps
      apply setF_keeps
      exact hs1_0
    clear_value s2_1
    apply vcoreSend_keeps
    apply modPwr_keeps
    exact hs2_1

theorem applyMask_keeps {s0 s : State} (hk0 : Keeps K s0 s) [Free K .capture] [Free K .circuits] [Free K .classifier] [Free K .client] [Free K .counters] [Free K .dispatch] [Free K .dram] [Free K .farrier] [Free K .free] [Free K .gates] [Free K .istore] [Free K .keys] [Free K .lmem] [Free K .memories] [Free K .paddock] [Free K .pairing] [Free K .pairs] [Free K .power] [Free K .regions] [Free K .regs] [Free K .report] [Free K .resets] [Free K .rings] [Free K .sched] [Free K .smem] [Free K .teams] [Free K .threads] [Free K .time] [Free K .xings] [∀ x, Free K (.line x)] :
    Keeps K s0 (State.applyMask s) := by
  unfold State.applyMask
  refine keeps_foldl _ ?_ ?_
  · exact hk0
  · intro y0 y1 hy2
    apply powerRegion_keeps
    exact hy2

theorem teamSleep_keeps {s0 s : State} (hk0 : Keeps K s0 s) (t : Nat) [Free K .lmem] [Free K .memories] [Free K .paddock] [Free K .power] [Free K .regs] [Free K .report] [Free K .threads] :
    Keeps K s0 (State.teamSleep s t) := by
  unfold State.teamSleep
  refine keeps_ite ?_ ?_
  · exact hk0
  · extract_lets +onlyGivenNames run_0
    clear_value run_0
    extract_lets +onlyGivenNames fs_1
    clear_value fs_1
    extract_lets +onlyGivenNames s1_2
    refine keeps_cut (v := s1_2) ?_ fun hs1_2 => ?_
    · subst s1_2
      refine keeps_foldl _ ?_ ?_
      · exact hk0
      · intro y3 y4 hy5
        apply frameGone_keeps
        exact hy5
    clear_value s1_2
    extract_lets +onlyGivenNames s2_6
    refine keeps_cut (v := s2_6) ?_ fun hs2_6 => ?_
    · subst s2_6
      refine keeps_mem ?_ ?_ ?_ ?_ ?_ ?_ ?_
      · exact hs1_2
      · exact id
      · exact id
      · exact id
      · exact fun m => swf_sdrop _ m
      · exact id
      · exact id
    clear_value s2_6
    extract_lets +onlyGivenNames s3_7
    refine keeps_cut (v := s3_7) ?_ fun hs3_7 => ?_
    · subst s3_7
      apply setTeamState_keeps
      apply setF_keeps
      exact hs2_6
    clear_value s3_7
    refine keeps_ite ?_ ?_
    · apply modPwr_keeps
      exact hs3_7
    · exact hs3_7

theorem teamsSleep_keeps {s0 s : State} (hk0 : Keeps K s0 s) [Free K .lmem] [Free K .memories] [Free K .paddock] [Free K .power] [Free K .regs] [Free K .report] [Free K .threads] :
    Keeps K s0 (State.teamsSleep s) := by
  unfold State.teamsSleep
  refine keeps_foldl _ ?_ ?_
  · exact hk0
  · intro y0 y1 hy2
    apply teamSleep_keeps
    exact hy2

theorem teamWake_keeps {s0 s : State} (hk0 : Keeps K s0 s) (t : Nat) [Free K .counters] [Free K .free] [Free K .lmem] [Free K .memories] [Free K .paddock] [Free K .regs] [Free K .report] [Free K .resets] [Free K .teams] [Free K .threads] [∀ x, Free K (.line x)] :
    Keeps K s0 (State.teamWake s t) := by
  unfold State.teamWake
  refine keeps_ite ?_ ?_
  · apply resetTeam_keeps
    apply setTeamState_keeps
    apply setTeam_keeps
    exact hk0
  · exact hk0

theorem timeOff_keeps {s0 s : State} (hk0 : Keeps K s0 s) [Free K .circuits] [Free K .counters] [Free K .memories] [Free K .paddock] [Free K .power] [Free K .regions] [Free K .regs] [Free K .report] [Free K .xings] :
    Keeps K s0 (State.timeOff s) := by
  unfold State.timeOff
  apply showOn_keeps
  apply setRegion_keeps
  apply modPwr_keeps
  apply setPll_keeps
  apply xRegionReset_keeps
  exact hk0

theorem tickSet_keeps {s0 s : State} (h : Keeps K s0 s) (n : Nat) [Free K .tick] : Keeps K s0 { s with tick := n % 2 ^ 64 } :=
  h.of_parts rfl rfl (fun _ => Nat.mod_lt _ (by decide)) id id id id id id id id id

theorem todSet_keeps {s0 s : State} (h : Keeps K s0 s) (f : TimeSt → Nat) [Free K .time] :
    Keeps K s0 (s.modTm fun t => { t with tod := f t % todModulus }) :=
  h.of_parts rfl rfl id (fun _ => Nat.mod_lt _ (by decide)) id id id id id id id id

theorem timeOn_keeps {s0 s : State} (h : Keeps K s0 s) [Free K .counters] [Free K .free] [Free K .power] [Free K .regions] [Free K .regs] [Free K .report] [Free K .tick] [Free K .time] [Free K .xings] : Keeps K s0 s.timeOn := by
  unfold State.timeOn
  refine keeps_ite h ?_
  extract_lets n s1 s2 s3
  have h1 : Keeps K s0 s1 := addReg_keeps (showOn_keeps (setRegion_keeps (setPll_keeps h ..) ..) ..) ..
  clear_value s1
  have h2 : Keeps K s0 s2 := xRegionLeave_keeps (dropCounters_keeps h1 _) _
  clear_value s2
  have h3 : Keeps K s0 s3 := tickSet_keeps h2 _
  clear_value s3
  exact timHold_keeps (todSet_keeps h3 _) _

theorem goDown_keeps {s0 s : State} (hk0 : Keeps K s0 s) (t : Nat) [Free K .capture] [Free K .circuits] [Free K .classifier] [Free K .client] [Free K .counters] [Free K .dispatch] [Free K .dram] [Free K .farrier] [Free K .free] [Free K .gates] [Free K .istore] [Free K .keys] [Free K .lmem] [Free K .memories] [Free K .paddock] [Free K .pairing] [Free K .pairs] [Free K .power] [Free K .regions] [Free K .regs] [Free K .report] [Free K .resets] [Free K .rings] [Free K .sched] [Free K .smem] [Free K .teams] [Free K .threads] [Free K .time] [Free K .xings] [∀ x, Free K (.line x)] :
    Keeps K s0 (State.goDown s t) := by
  unfold State.goDown
  extract_lets +onlyGivenNames s1_0
  refine keeps_cut (v := s1_0) ?_ fun hs1_0 => ?_
  · subst s1_0
    refine keeps_ite ?_ ?_
    · apply timHold_keeps
      exact hk0
    · exact hk0
  clear_value s1_0
  extract_lets +onlyGivenNames s2_1
  refine keeps_cut (v := s2_1) ?_ fun hs2_1 => ?_
  · subst s2_1
    apply lineLoss_keeps
    apply lineLoss_keeps
    exact hs1_0
  clear_value s2_1
  extract_lets +onlyGivenNames s3_2
  refine keeps_cut (v := s3_2) ?_ fun hs3_2 => ?_
  · subst s3_2
    apply lineSleep_keeps
    apply lineSleep_keeps
    exact hs2_1
  clear_value s3_2
  extract_lets +onlyGivenNames s4_3
  refine keeps_cut (v := s4_3) ?_ fun hs4_3 => ?_
  · subst s4_3
    refine keeps_foldl _ ?_ ?_
    · exact hs3_2
    · intro y4 y5 hy6
      apply powerRegion_keeps
      exact hy6
  clear_value s4_3
  extract_lets +onlyGivenNames s5_7
  refine keeps_cut (v := s5_7) ?_ fun hs5_7 => ?_
  · subst s5_7
    refine keeps_ite ?_ ?_
    · exact hs4_3
    · refine keeps_ite ?_ ?_
      · apply timeOff_keeps
        exact hs4_3
      · exact hs4_3
  clear_value s5_7
  apply modPwr_keeps
  apply setRails_keeps
  exact hs5_7

theorem lineUp_keeps {s0 s : State} (hk0 : Keeps K s0 s) (x : Side) [Free K .counters] [Free K .memories] [Free K .regions] [Free K .regs] [Free K .report] [Free K .xings] [Free K (.line x)] :
    Keeps K s0 (State.lineUp s x) := by
  unfold State.lineUp
  extract_lets +onlyGivenNames s1_0
  refine keeps_cut (v := s1_0) ?_ fun hs1_0 => ?_
  · subst s1_0
    apply regionOn_keeps
    exact hk0
  clear_value s1_0
  refine keeps_ite ?_ ?_
  · apply modLine_keeps
    exact hs1_0
  · exact hs1_0

theorem goUp_keeps {s0 s : State} (hk0 : Keeps K s0 s) (t : Nat) [Free K .capture] [Free K .circuits] [Free K .classifier] [Free K .client] [Free K .counters] [Free K .dispatch] [Free K .dram] [Free K .farrier] [Free K .free] [Free K .gates] [Free K .istore] [Free K .keys] [Free K .link] [Free K .lmem] [Free K .memories] [Free K .paddock] [Free K .pairing] [Free K .pairs] [Free K .power] [Free K .regions] [Free K .regs] [Free K .report] [Free K .resets] [Free K .rings] [Free K .sched] [Free K .smem] [Free K .teams] [Free K .threads] [Free K .tick] [Free K .time] [Free K .xings] [∀ x, Free K (.line x)] :
    Keeps K s0 (State.goUp s t) := by
  unfold State.goUp
  extract_lets +onlyGivenNames s1_0
  refine keeps_cut (v := s1_0) ?_ fun hs1_0 => ?_
  · subst s1_0
    apply timeOn_keeps
    apply setRails_keeps
    exact hk0
  clear_value s1_0
  refine keeps_ite ?_ ?_
  · exact hs1_0
  · extract_lets +onlyGivenNames m_1
    clear_value m_1
    extract_lets +onlyGivenNames s2_2
    refine keeps_cut (v := s2_2) ?_ fun hs2_2 => ?_
    · subst s2_2
      refine keeps_ite ?_ ?_
      · apply lineUp_keeps
        exact hs1_0
      · exact hs1_0
    clear_value s2_2
    extract_lets +onlyGivenNames s3_3
    refine keeps_cut (v := s3_3) ?_ fun hs3_3 => ?_
    · subst s3_3
      refine keeps_ite ?_ ?_
      · apply lineUp_keeps
        exact hs2_2
      · exact hs2_2
    clear_value s3_3
    extract_lets +onlyGivenNames s4_4
    refine keeps_cut (v := s4_4) ?_ fun hs4_4 => ?_
    · subst s4_4
      refine keeps_foldl _ ?_ ?_
      · exact hs3_3
      · intro y5 y6 hy7
        refine keeps_ite ?_ ?_
        · apply powerRegion_keeps
          exact hy7
        · exact hy7
    clear_value s4_4
    extract_lets +onlyGivenNames s5_8
    refine keeps_cut (v := s5_8) ?_ fun hs5_8 => ?_
    · subst s5_8
      refine keeps_ite ?_ ?_
      · exact hs4_4
      · apply hostResetOp_keeps
        apply regionOn_keeps
        exact hs4_4
    clear_value s5_8
    refine keeps_ite ?_ ?_
    · apply teamsSleep_keeps
      exact hs5_8
    · exact hs5_8

theorem stateEvent_keeps {s0 s : State} (hk0 : Keeps K s0 s) (new old : Nat) (aborted : Bool) [Free K .counters] [Free K .regs] [Free K .report] :
    Keeps K s0 (State.stateEvent s new old aborted) := by
  unfold State.stateEvent
  apply raise_keeps
  exact hk0

theorem setState_keeps {s0 s : State} (hk0 : Keeps K s0 s) (v : Nat) [Free K .regs] :
    Keeps K s0 (State.setState s v) := by
  unfold State.setState
  apply setF_keeps
  exact hk0

theorem startTrans_keeps {s0 s : State} (hk0 : Keeps K s0 s) (t : Nat) [Free K .power] [Free K .regs] [Free K .report] :
    Keeps K s0 (State.startTrans s t) := by
  unfold State.startTrans
  extract_lets +onlyGivenNames old_0
  clear_value old_0
  apply modPwr_keeps
  apply setFlag_keeps
  exact hk0

theorem endTrans_keeps {s0 s : State} (hk0 : Keeps K s0 s) [Free K .power] [Free K .regs] [Free K .report] :
    Keeps K s0 (State.endTrans s) := by
  unfold State.endTrans
  apply modPwr_keeps
  apply setFlag_keeps
  exact hk0

theorem transEnd_keeps {s0 s : State} (hk0 : Keeps K s0 s) [Free K .capture] [Free K .circuits] [Free K .classifier] [Free K .client] [Free K .counters] [Free K .dispatch] [Free K .dram] [Free K .farrier] [Free K .free] [Free K .gates] [Free K .istore] [Free K .keys] [Free K .link] [Free K .lmem] [Free K .memories] [Free K .paddock] [Free K .pairing] [Free K .pairs] [Free K .power] [Free K .regions] [Free K .regs] [Free K .report] [Free K .resets] [Free K .rings] [Free K .sched] [Free K .smem] [Free K .teams] [Free K .threads] [Free K .tick] [Free K .time] [Free K .xings] [∀ x, Free K (.line x)] :
    Keeps K s0 (State.transEnd s) := by
  unfold State.transEnd
  split
  · exact hk0
  · refine keeps_ite ?_ ?_
    · exact hk0
    · extract_lets +onlyGivenNames old_0
      clear_value old_0
      extract_lets +onlyGivenNames s1_1
      refine keeps_cut (v := s1_1) ?_ fun hs1_1 => ?_
      · subst s1_1
        refine keeps_ite ?_ ?_
        · refine keeps_ite ?_ ?_
          · apply teamsSleep_keeps
            exact hk0
          · apply goDown_keeps
            exact hk0
        · refine keeps_ite ?_ ?_
          · apply modPwr_keeps
            refine keeps_foldl _ ?_ ?_
            · exact hk0
            · intro y2 y3 hy4
              apply teamWake_keeps
              exact hy4
          · apply goUp_keeps
            exact hk0
      clear_value s1_1
      extract_lets +onlyGivenNames again5
      clear_value again5
      extract_lets +onlyGivenNames s2_6
      refine keeps_cut (v := s2_6) ?_ fun hs2_6 => ?_
      · subst s2_6
        apply vcoreSend_keeps
        apply stateEvent_keeps
        apply endTrans_keeps
        apply modPwr_keeps
        apply setState_keeps
        exact hs1_1
      clear_value s2_6
      extract_lets +onlyGivenNames s3_7
      refine keeps_cut (v := s3_7) ?_ fun hs3_7 => ?_
      · subst s3_7
        refine keeps_ite ?_ ?_
        · apply applyMask_keeps
          exact hs2_6
        · exact hs2_6
      clear_value s3_7
      refine keeps_ite ?_ ?_
      · apply startTrans_keeps
        exact hs3_7
      · exact hs3_7

theorem pwrCmd_keeps {s0 s : State} (hk0 : Keeps K s0 s) (q : Req) (v : Word) (energy : BitVec 8) (wakeN : Bool) [Free K .power] [Free K .regs] [Free K .report] :
    Keeps K s0 (State.pwrCmd s q v energy wakeN) := by
  unfold State.pwrCmd
  extract_lets +onlyGivenNames t_0
  clear_value t_0
  extract_lets +onlyGivenNames now_1
  clear_value now_1
  extract_lets +onlyGivenNames offTeam2
  clear_value offTeam2
  extract_lets +onlyGivenNames r_3
  clear_value r_3
  extract_lets +onlyGivenNames s1_4
  refine keeps_cut (v := s1_4) ?_ fun hs1_4 => ?_
  · subst s1_4
    apply setF_keeps
    exact hk0
  clear_value s1_4
  refine keeps_ite ?_ ?_
  · apply startTrans_keeps
    exact hs1_4
  · exact hs1_4

theorem wakeRecord_keeps {s0 s : State} (hk0 : Keeps K s0 s) (m : Nat) [Free K .counters] [Free K .regs] [Free K .report] :
    Keeps K s0 (State.wakeRecord s m) := by
  unfold State.wakeRecord
  extract_lets +onlyGivenNames src_0
  clear_value src_0
  extract_lets +onlyGivenNames n_1
  clear_value n_1
  extract_lets +onlyGivenNames s1_2
  refine keeps_cut (v := s1_2) ?_ fun hs1_2 => ?_
  · subst s1_2
    apply bump_keeps
    apply setReg_keeps
    exact hk0
  clear_value s1_2
  extract_lets +onlyGivenNames s2_3
  refine keeps_cut (v := s2_3) ?_ fun hs2_3 => ?_
  · subst s2_3
    apply setReg_keeps
    apply setReg_keeps
    exact hs1_2
  clear_value s2_3
  apply raise_keeps
  exact hs2_3

theorem wakeOp_keeps {s0 s : State} (hk0 : Keeps K s0 s) (energy : BitVec 8) (wakeN timer doorbell committed : Bool) [Free K .capture] [Free K .circuits] [Free K .classifier] [Free K .client] [Free K .counters] [Free K .dispatch] [Free K .dram] [Free K .farrier] [Free K .free] [Free K .gates] [Free K .istore] [Free K .keys] [Free K .lmem] [Free K .memories] [Free K .paddock] [Free K .pairing] [Free K .pairs] [Free K .power] [Free K .regions] [Free K .regs] [Free K .report] [Free K .resets] [Free K .rings] [Free K .sched] [Free K .smem] [Free K .teams] [Free K .threads] [Free K .time] [Free K .xings] [∀ x, Free K (.line x)] :
    Keeps K s0 (State.wakeOp s energy wakeN timer doorbell committed) := by
  unfold State.wakeOp
  refine keeps_ite ?_ ?_
  · exact hk0
  · split
    · extract_lets +onlyGivenNames m_0
      clear_value m_0
      refine keeps_ite ?_ ?_
      · exact hk0
      · extract_lets +onlyGivenNames s1_1
        refine keeps_cut (v := s1_1) ?_ fun hs1_1 => ?_
        · subst s1_1
          apply wakeRecord_keeps
          exact hk0
        clear_value s1_1
        refine keeps_ite ?_ ?_
        · apply modPwr_keeps
          exact hs1_1
        · extract_lets +onlyGivenNames old_2
          clear_value old_2
          extract_lets +onlyGivenNames s2_3
          refine keeps_cut (v := s2_3) ?_ fun hs2_3 => ?_
          · subst s2_3
            apply vcoreSend_keeps
            apply stateEvent_keeps
            apply endTrans_keeps
            exact hs1_1
          clear_value s2_3
          refine keeps_ite ?_ ?_
          · apply applyMask_keeps
            exact hs2_3
          · exact hs2_3
    · extract_lets +onlyGivenNames now_4
      clear_value now_4
      extract_lets +onlyGivenNames m_5
      clear_value m_5
      refine keeps_ite ?_ ?_
      · exact hk0
      · apply startTrans_keeps
        apply modPwr_keeps
        apply wakeRecord_keeps
        exact hk0

theorem wakeFail_keeps {s0 s : State} (hk0 : Keeps K s0 s) (code : Nat) [Free K .capture] [Free K .circuits] [Free K .classifier] [Free K .client] [Free K .counters] [Free K .dispatch] [Free K .dram] [Free K .farrier] [Free K .free] [Free K .gates] [Free K .istore] [Free K .keys] [Free K .lmem] [Free K .memories] [Free K .paddock] [Free K .pairing] [Free K .pairs] [Free K .power] [Free K .regions] [Free K .regs] [Free K .report] [Free K .resets] [Free K .rings] [Free K .sched] [Free K .smem] [Free K .teams] [Free K .threads] [Free K .time] [Free K .xings] [∀ x, Free K (.line x)] :
    Keeps K s0 (State.wakeFail s code) := by
  unfold State.wakeFail
  extract_lets +onlyGivenNames old_0
  clear_value old_0
  extract_lets +onlyGivenNames s0_1
  refine keeps_cut (v := s0_1) ?_ fun hs0_1 => ?_
  · subst s0_1
    apply modPwr_keeps
    apply goDown_keeps
    exact hk0
  clear_value s0_1
  extract_lets +onlyGivenNames s0_2
  refine keeps_cut (v := s0_2) ?_ fun hs0_2 => ?_
  · subst s0_2
    refine keeps_ite ?_ ?_
    · exact hs0_1
    · apply showOn_keeps
      apply setRegion_keeps
      exact hs0_1
  clear_value s0_2
  extract_lets +onlyGivenNames s1_3
  refine keeps_cut (v := s1_3) ?_ fun hs1_3 => ?_
  · subst s1_3
    apply endTrans_keeps
    apply setState_keeps
    exact hs0_2
  clear_value s1_3
  extract_lets +onlyGivenNames s2_4
  refine keeps_cut (v := s2_4) ?_ fun hs2_4 => ?_
  · subst s2_4
    apply setReg_keeps
    exact hs1_3
  clear_value s2_4
  extract_lets +onlyGivenNames s3_5
  refine keeps_cut (v := s3_5) ?_ fun hs3_5 => ?_
  · subst s3_5
    refine keeps_mk ?_
    exact hs2_4
  clear_value s3_5
  apply raise_keeps
  apply stateEvent_keeps
  apply modPwr_keeps
  exact hs3_5

theorem railFailOp_keeps {s0 s : State} (hk0 : Keeps K s0 s) (pll : Bool) (index kind : Nat) [Free K .capture] [Free K .circuits] [Free K .classifier] [Free K .client] [Free K .counters] [Free K .dispatch] [Free K .dram] [Free K .farrier] [Free K .free] [Free K .gates] [Free K .istore] [Free K .keys] [Free K .lmem] [Free K .memories] [Free K .paddock] [Free K .pairing] [Free K .pairs] [Free K .power] [Free K .regions] [Free K .regs] [Free K .report] [Free K .resets] [Free K .rings] [Free K .sched] [Free K .smem] [Free K .teams] [Free K .threads] [Free K .time] [Free K .xings] [∀ x, Free K (.line x)] :
    Keeps K s0 (State.railFailOp s pll index kind) := by
  unfold State.railFailOp
  refine keeps_ite ?_ ?_
  · exact hk0
  · extract_lets +onlyGivenNames code0
    clear_value code0
    refine keeps_ite ?_ ?_
    · apply wakeFail_keeps
      exact hk0
    · extract_lets +onlyGivenNames s1_1
      refine keeps_cut (v := s1_1) ?_ fun hs1_1 => ?_
      · subst s1_1
        refine keeps_foldl _ ?_ ?_
        · exact hk0
        · intro y2 y3 hy4
          refine keeps_ite ?_ ?_
          · apply powerRegion_keeps
            exact hy4
          · exact hy4
      clear_value s1_1
      apply modPwr_keeps
      exact hs1_1

theorem powerRetryOp_keeps {s0 s : State} (hk0 : Keeps K s0 s) [Free K .capture] [Free K .circuits] [Free K .classifier] [Free K .client] [Free K .counters] [Free K .dispatch] [Free K .dram] [Free K .farrier] [Free K .free] [Free K .gates] [Free K .istore] [Free K .keys] [Free K .lmem] [Free K .memories] [Free K .paddock] [Free K .pairing] [Free K .pairs] [Free K .power] [Free K .regions] [Free K .regs] [Free K .report] [Free K .resets] [Free K .rings] [Free K .sched] [Free K .smem] [Free K .teams] [Free K .threads] [Free K .time] [Free K .xings] [∀ x, Free K (.line x)] :
    Keeps K s0 (State.powerRetryOp s) := by
  unfold State.powerRetryOp
  refine keeps_ite ?_ ?_
  · exact hk0
  · extract_lets +onlyGivenNames s1_0
    refine keeps_cut (v := s1_0) ?_ fun hs1_0 => ?_
    · subst s1_0
      apply modPwr_keeps
      exact hk0
    clear_value s1_0
    refine keeps_foldl _ ?_ ?_
    · exact hs1_0
    · intro y1 y2 hy3
      refine keeps_ite ?_ ?_
      · apply powerRegion_keeps
        exact hy3
      · exact hy3

theorem pgLost_keeps {s0 s : State} (hk0 : Keeps K s0 s) (rail : Nat) [Free K .counters] [Free K .power] [Free K .regs] [Free K .report] [Free K .resets] [∀ x, Free K (.line x)] :
    Keeps K s0 (State.pgLost s rail) := by
  unfold State.pgLost
  refine keeps_ite ?_ ?_
  · exact hk0
  · extract_lets +onlyGivenNames s1_0
    refine keeps_cut (v := s1_0) ?_ fun hs1_0 => ?_
    · subst s1_0
      apply raise_keeps
      apply modPwr_keeps
      apply setF_keeps
      exact hk0
    clear_value s1_0
    refine keeps_ite ?_ ?_
    · apply chipFault_keeps
      exact hs1_0
    · exact hs1_0

theorem clockSet_keeps {s0 s : State} (hk0 : Keeps K s0 s) (i : Nat) (b : Bool) [Free K .regions] :
    Keeps K s0 (State.clockSet s i b) := by
  unfold State.clockSet
  refine keeps_foldl _ ?_ ?_
  · exact hk0
  · intro y0 y1 hy2
    apply setRegion_keeps
    exact hy2

theorem lockLost_keeps {s0 s : State} (hk0 : Keeps K s0 s) (i : Nat) [Free K .capture] [Free K .circuits] [Free K .classifier] [Free K .client] [Free K .counters] [Free K .dispatch] [Free K .dram] [Free K .farrier] [Free K .free] [Free K .gates] [Free K .istore] [Free K .keys] [Free K .lmem] [Free K .memories] [Free K .paddock] [Free K .pairing] [Free K .pairs] [Free K .power] [Free K .regions] [Free K .regs] [Free K .report] [Free K .resets] [Free K .rings] [Free K .sched] [Free K .smem] [Free K .teams] [Free K .threads] [Free K .time] [Free K .xings] [∀ x, Free K (.line x)] :
    Keeps K s0 (State.lockLost s i) := by
  unfold State.lockLost
  refine keeps_ite ?_ ?_
  · exact hk0
  · extract_lets +onlyGivenNames s1_0
    refine keeps_cut (v := s1_0) ?_ fun hs1_0 => ?_
    · subst s1_0
      apply raise_keeps
      apply clockSet_keeps
      apply setPll_keeps
      exact hk0
    clear_value s1_0
    extract_lets +onlyGivenNames s2_1
    refine keeps_cut (v := s2_1) ?_ fun hs2_1 => ?_
    · subst s2_1
      refine keeps_ite ?_ ?_
      · refine keeps_foldl _ ?_ ?_
        · exact hs1_0
        · intro y2 y3 hy4
          apply chDown_keeps
          exact hy4
      · exact hs1_0
    clear_value s2_1
    extract_lets +onlyGivenNames s3_5
    refine keeps_cut (v := s3_5) ?_ fun hs3_5 => ?_
    · subst s3_5
      refine keeps_ite ?_ ?_
      · apply farAbort_keeps
        exact hs2_1
      · exact hs2_1
    clear_value s3_5
    refine keeps_ite ?_ ?_
    · apply chipFault_keeps
      exact hs3_5
    · exact hs3_5

theorem lockBack_keeps {s0 s : State} (hk0 : Keeps K s0 s) (i : Nat) [Free K .counters] [Free K .memories] [Free K .power] [Free K .regions] [Free K .regs] [Free K .report] :
    Keeps K s0 (State.lockBack s i) := by
  unfold State.lockBack
  refine keeps_ite ?_ ?_
  · exact hk0
  · extract_lets +onlyGivenNames s1_0
    refine keeps_cut (v := s1_0) ?_ fun hs1_0 => ?_
    · subst s1_0
      apply clockSet_keeps
      apply setPll_keeps
      exact hk0
    clear_value s1_0
    refine keeps_ite ?_ ?_
    · apply chsTrain_keeps
      exact hs1_0
    · exact hs1_0

theorem runMaskOp_keeps {s0 s : State} (hk0 : Keeps K s0 s) (v : Word) [Free K .capture] [Free K .circuits] [Free K .classifier] [Free K .client] [Free K .counters] [Free K .dispatch] [Free K .dram] [Free K .farrier] [Free K .free] [Free K .gates] [Free K .istore] [Free K .keys] [Free K .lmem] [Free K .memories] [Free K .paddock] [Free K .pairing] [Free K .pairs] [Free K .power] [Free K .regions] [Free K .regs] [Free K .report] [Free K .resets] [Free K .rings] [Free K .sched] [Free K .smem] [Free K .teams] [Free K .threads] [Free K .time] [Free K .xings] [∀ x, Free K (.line x)] :
    Keeps K s0 (State.runMaskOp s v) := by
  unfold State.runMaskOp
  extract_lets +onlyGivenNames m_0
  clear_value m_0
  extract_lets +onlyGivenNames s1_1
  refine keeps_cut (v := s1_1) ?_ fun hs1_1 => ?_
  · subst s1_1
    apply setReg_keeps
    exact hk0
  clear_value s1_1
  refine keeps_ite ?_ ?_
  · extract_lets +onlyGivenNames on_2
    clear_value on_2
    apply applyMask_keeps
    apply modPwr_keeps
    exact hs1_1
  · exact hs1_1

theorem windowOpenOp_keeps {s0 s : State} (hk0 : Keeps K s0 s) [Free K .counters] [Free K .memories] [Free K .power] [Free K .regions] [Free K .regs] [Free K .report] [Free K .xings] :
    Keeps K s0 (State.windowOpenOp s) := by
  unfold State.windowOpenOp
  refine keeps_ite ?_ ?_
  · apply bump_keeps
    apply modPwr_keeps
    apply windowOn_keeps
    exact hk0
  · exact hk0

theorem windowCloseOp_keeps {s0 s : State} (hk0 : Keeps K s0 s) [Free K .capture] [Free K .circuits] [Free K .counters] [Free K .memories] [Free K .paddock] [Free K .pairing] [Free K .power] [Free K .regions] [Free K .regs] [Free K .report] [Free K .time] [Free K .xings] [∀ x, Free K (.line x)] :
    Keeps K s0 (State.windowCloseOp s) := by
  unfold State.windowCloseOp
  extract_lets +onlyGivenNames x_0
  clear_value x_0
  refine keeps_ite ?_ ?_
  · apply modPwr_keeps
    apply bumpIf_keeps
    apply windowOff_keeps
    exact hk0
  · exact hk0

theorem lossDeclare_keeps {s0 s : State} (hk0 : Keeps K s0 s) (ch2 : Bool) [Free K .capture] [Free K .circuits] [Free K .classifier] [Free K .client] [Free K .counters] [Free K .dispatch] [Free K .dram] [Free K .farrier] [Free K .free] [Free K .gates] [Free K .istore] [Free K .keys] [Free K .lmem] [Free K .memories] [Free K .paddock] [Free K .pairing] [Free K .pairs] [Free K .power] [Free K .regs] [Free K .report] [Free K .resets] [Free K .rings] [Free K .sched] [Free K .smem] [Free K .teams] [Free K .threads] [Free K .time] [Free K .xings] [∀ x, Free K (.line x)] :
    Keeps K s0 (State.lossDeclare s ch2) := by
  unfold State.lossDeclare
  refine keeps_ite ?_ ?_
  · exact hk0
  · extract_lets +onlyGivenNames st_0
    clear_value st_0
    extract_lets +onlyGivenNames s1_1
    refine keeps_cut (v := s1_1) ?_ fun hs1_1 => ?_
    · subst s1_1
      apply farAbort_keeps
      apply raise_keeps
      apply endTrans_keeps
      exact hk0
    clear_value s1_1
    extract_lets +onlyGivenNames s2_2
    refine keeps_cut (v := s2_2) ?_ fun hs2_2 => ?_
    · subst s2_2
      apply modPwr_keeps
      exact hs1_1
    clear_value s2_2
    refine keeps_ite ?_ ?_
    · apply dgRequest_keeps
      apply dgRequest_keeps
      exact hs2_2
    · exact hs2_2

theorem lossIsolate_keeps {s0 s : State} (hk0 : Keeps K s0 s) [Free K .capture] [Free K .circuits] [Free K .classifier] [Free K .client] [Free K .counters] [Free K .dispatch] [Free K .dram] [Free K .farrier] [Free K .free] [Free K .gates] [Free K .istore] [Free K .keys] [Free K .lmem] [Free K .memories] [Free K .paddock] [Free K .pairing] [Free K .pairs] [Free K .power] [Free K .regions] [Free K .regs] [Free K .report] [Free K .resets] [Free K .rings] [Free K .sched] [Free K .smem] [Free K .teams] [Free K .threads] [Free K .time] [Free K .xings] [∀ x, Free K (.line x)] :
    Keeps K s0 (State.lossIsolate s) := by
  unfold State.lossIsolate
  refine keeps_ite ?_ ?_
  · exact hk0
  · extract_lets +onlyGivenNames s1_0
    refine keeps_cut (v := s1_0) ?_ fun hs1_0 => ?_
    · subst s1_0
      refine keeps_foldl _ ?_ ?_
      · exact hk0
      · intro y1 y2 hy3
        apply powerRegion_keeps
        exact hy3
    clear_value s1_0
    extract_lets +onlyGivenNames s2_4
    refine keeps_cut (v := s2_4) ?_ fun hs2_4 => ?_
    · subst s2_4
      refine keeps_ite ?_ ?_
      · apply timeOff_keeps
        exact hs1_0
      · exact hs1_0
    clear_value s2_4
    apply modPwr_keeps
    apply setRails_keeps
    exact hs2_4

theorem lossEnd_keeps {s0 s : State} (hk0 : Keeps K s0 s) (result : Nat) [Free K .counters] [Free K .power] [Free K .regs] [Free K .report] :
    Keeps K s0 (State.lossEnd s result) := by
  unfold State.lossEnd
  extract_lets +onlyGivenNames e_0
  clear_value e_0
  extract_lets +onlyGivenNames s1_1
  refine keeps_cut (v := s1_1) ?_ fun hs1_1 => ?_
  · subst s1_1
    apply modPwr_keeps
    apply setState_keeps
    apply setRails_keeps
    apply setF_keeps
    exact hk0
  clear_value s1_1
  apply raise_keeps
  exact hs1_1

theorem energyOp_keeps {s0 s : State} (hk0 : Keeps K s0 s) (code : Nat) [Free K .counters] [Free K .power] [Free K .regs] [Free K .report] :
    Keeps K s0 (State.energyOp s code) := by
  unfold State.energyOp
  refine keeps_ite ?_ ?_
  · exact hk0
  · extract_lets +onlyGivenNames suff0
    clear_value suff0
    extract_lets +onlyGivenNames e_1
    clear_value e_1
    extract_lets +onlyGivenNames s1_2
    refine keeps_cut (v := s1_2) ?_ fun hs1_2 => ?_
    · subst s1_2
      apply setReg_keeps
      apply setReg_keeps
      apply setReg_keeps
      exact hk0
    clear_value s1_2
    refine keeps_ite ?_ ?_
    · apply lossEnd_keeps
      apply bump_keeps
      exact hs1_2
    · refine keeps_ite ?_ ?_
      · apply lossEnd_keeps
        apply bump_keeps
        exact hs1_2
      · apply modPwr_keeps
        exact hs1_2

theorem setSlot_keeps {s0 s : State} (hk0 : Keeps K s0 s) (i : Nat) (r : Option (List Byte)) [Free K .power] [Free K .report] :
    Keeps K s0 (State.setSlot s i r) := by
  unfold State.setSlot
  apply modPwr_keeps
  exact hk0

theorem saveEnd_keeps {s0 s : State} (hk0 : Keeps K s0 s) (ok : Bool) [Free K .counters] [Free K .power] [Free K .regs] [Free K .report] :
    Keeps K s0 (State.saveEnd s ok) := by
  unfold State.saveEnd
  refine keeps_ite ?_ ?_
  · exact hk0
  · extract_lets +onlyGivenNames cur_0
    clear_value cur_0
    extract_lets +onlyGivenNames new_1
    clear_value new_1
    extract_lets +onlyGivenNames s1_2
    refine keeps_cut (v := s1_2) ?_ fun hs1_2 => ?_
    · subst s1_2
      apply setFlag_keeps
      exact hk0
    clear_value s1_2
    refine keeps_ite ?_ ?_
    · extract_lets +onlyGivenNames b_3
      clear_value b_3
      apply lossEnd_keeps
      apply bump_keeps
      apply setF_keeps
      apply setSlot_keeps
      exact hs1_2
    · apply lossEnd_keeps
      apply bump_keeps
      exact hs1_2

theorem flashPrep_keeps {s0 s : State} (hk0 : Keeps K s0 s) [Free K .power] [Free K .regs] [Free K .report] :
    Keeps K s0 (State.flashPrep s) := by
  unfold State.flashPrep
  split
  · apply setFlag_keeps
    apply setSlot_keeps
    exact hk0
  · extract_lets +onlyGivenNames b_0
    clear_value b_0
    extract_lets +onlyGivenNames s1_1
    refine keeps_cut (v := s1_1) ?_ fun hs1_1 => ?_
    · subst s1_1
      refine keeps_foldl _ ?_ ?_
      · exact hk0
      · intro y2 y3 hy4
        apply setReg_keeps
        exact hy4
    clear_value s1_1
    apply setFlag_keeps
    apply setF_keeps
    apply setSlot_keeps
    exact hs1_1

theorem fuseLoad_keeps {s0 s : State} (hk0 : Keeps K s0 s) [Free K .counters] [Free K .regs] [Free K .report] :
    Keeps K s0 (State.fuseLoad s) := by
  unfold State.fuseLoad
  extract_lets +onlyGivenNames put_0
  subst put_0
  extract_lets +onlyGivenNames n_1
  clear_value n_1
  apply raiseIf_keeps
  apply setF_keeps
  refine keeps_foldl _ ?_ ?_
  · exact hk0
  · intro y2 y3 hy4
    split
    · exact hy4
    · apply setReg_keeps
      exact hy4

theorem coldBase_keeps {s0 s : State} (h : Keeps K s0 s) [Free K .capture] [Free K .circuits] [Free K .classifier] [Free K .client] [Free K .counters] [Free K .dispatch] [Free K .dram] [Free K .farrier] [Free K .gates] [Free K .istore] [Free K .keys] [Free K .link] [Free K .lmem] [Free K .memories] [Free K .paddock] [Free K .pairing] [Free K .pairs] [Free K .power] [Free K .rd] [Free K .regions] [Free K .regs] [Free K .report] [Free K .resets] [Free K .rings] [Free K .sched] [Free K .shadows] [Free K .smem] [Free K .teams] [Free K .threads] [Free K .tick] [Free K .time] [Free K .xings] [∀ x, Free K (.line x)] : Keeps K s0 s.coldBase :=
  h.of_parts rfl rfl (fun _ => show 0 < 2 ^ 64 by decide) (fun _ => show 0 < todModulus by decide)
    (fun _ _ => show 0 < 2 ^ 64 by decide) (fun _ => rfl) (fun _ => rfl) id
    (fun _ => rfl) (fun _ => rfl) (fun _ => rfl) fun _ => rfl

theorem coldUp_keeps {s0 s : State} (hk0 : Keeps K s0 s) [Free K .capture] [Free K .circuits] [Free K .classifier] [Free K .client] [Free K .counters] [Free K .dispatch] [Free K .dram] [Free K .farrier] [Free K .gates] [Free K .istore] [Free K .keys] [Free K .link] [Free K .lmem] [Free K .memories] [Free K .paddock] [Free K .pairing] [Free K .pairs] [Free K .power] [Free K .rd] [Free K .regions] [Free K .regs] [Free K .report] [Free K .resets] [Free K .rings] [Free K .sched] [Free K .shadows] [Free K .smem] [Free K .teams] [Free K .threads] [Free K .tick] [Free K .time] [Free K .xings] [∀ x, Free K (.line x)] :
    Keeps K s0 (State.coldUp s) := by
  unfold State.coldUp
  extract_lets +onlyGivenNames s1_0
  refine keeps_cut (v := s1_0) ?_ fun hs1_0 => ?_
  · subst s1_0
    apply coldBase_keeps
    exact hk0
  clear_value s1_0
  extract_lets +onlyGivenNames s2_1
  refine keeps_cut (v := s2_1) ?_ fun hs2_1 => ?_
  · subst s2_1
    apply modPwr_keeps
    exact hs1_0
  clear_value s2_1
  apply flashPrep_keeps
  apply fuseLoad_keeps
  exact hs2_1

theorem aonLost_keeps {s0 s : State} (hk0 : Keeps K s0 s) [Free K .capture] [Free K .circuits] [Free K .classifier] [Free K .client] [Free K .counters] [Free K .dispatch] [Free K .dram] [Free K .farrier] [Free K .gates] [Free K .istore] [Free K .keys] [Free K .link] [Free K .lmem] [Free K .memories] [Free K .paddock] [Free K .pairing] [Free K .pairs] [Free K .power] [Free K .rd] [Free K .regions] [Free K .regs] [Free K .report] [Free K .resets] [Free K .rings] [Free K .sched] [Free K .shadows] [Free K .smem] [Free K .teams] [Free K .threads] [Free K .tick] [Free K .time] [Free K .xings] [∀ x, Free K (.line x)] :
    Keeps K s0 (State.aonLost s) := by
  unfold State.aonLost
  extract_lets +onlyGivenNames s1_0
  refine keeps_cut (v := s1_0) ?_ fun hs1_0 => ?_
  · subst s1_0
    apply coldBase_keeps
    exact hk0
  clear_value s1_0
  extract_lets +onlyGivenNames s2_1
  refine keeps_cut (v := s2_1) ?_ fun hs2_1 => ?_
  · subst s2_1
    refine keeps_foldl _ ?_ ?_
    · exact hs1_0
    · intro y2 y3 hy4
      apply showOn_keeps
      apply setRegion_keeps
      exact hy4
  clear_value s2_1
  apply setRails_keeps
  apply setState_keeps
  exact hs2_1

theorem pfailBack_keeps {s0 s : State} (hk0 : Keeps K s0 s) [Free K .capture] [Free K .circuits] [Free K .classifier] [Free K .client] [Free K .counters] [Free K .dispatch] [Free K .dram] [Free K .farrier] [Free K .gates] [Free K .istore] [Free K .keys] [Free K .link] [Free K .lmem] [Free K .memories] [Free K .paddock] [Free K .pairing] [Free K .pairs] [Free K .power] [Free K .rd] [Free K .regions] [Free K .regs] [Free K .report] [Free K .resets] [Free K .rings] [Free K .sched] [Free K .shadows] [Free K .smem] [Free K .teams] [Free K .threads] [Free K .tick] [Free K .time] [Free K .xings] [∀ x, Free K (.line x)] :
    Keeps K s0 (State.pfailBack s) := by
  unfold State.pfailBack
  refine keeps_ite ?_ ?_
  · extract_lets +onlyGivenNames s1_0
    refine keeps_cut (v := s1_0) ?_ fun hs1_0 => ?_
    · subst s1_0
      apply coldUp_keeps
      exact hk0
    clear_value s1_0
    extract_lets +onlyGivenNames s1_1
    refine keeps_cut (v := s1_1) ?_ fun hs1_1 => ?_
    · subst s1_1
      refine keeps_mk ?_
      exact hs1_0
    clear_value s1_1
    apply modPwr_keeps
    apply setReg_keeps
    exact hs1_1
  · exact hk0

theorem warmOp_keeps {s0 s : State} (hk0 : Keeps K s0 s) (q : Req) (v : Word) [Free K .capture] [Free K .circuits] [Free K .classifier] [Free K .client] [Free K .counters] [Free K .dispatch] [Free K .dram] [Free K .farrier] [Free K .gates] [Free K .istore] [Free K .keys] [Free K .lmem] [Free K .memories] [Free K .paddock] [Free K .pairing] [Free K .pairs] [Free K .power] [Free K .rd] [Free K .regions] [Free K .regs] [Free K .report] [Free K .resets] [Free K .rings] [Free K .sched] [Free K .shadows] [Free K .smem] [Free K .teams] [Free K .threads] [Free K .time] [Free K .xings] [∀ x, Free K (.line x)] :
    Keeps K s0 (State.warmOp s q v) := by
  unfold State.warmOp
  refine keeps_ite ?_ ?_
  · apply warmCore_keeps
    exact hk0
  · exact hk0

theorem resetDone_keeps {s0 s : State} (hk0 : Keeps K s0 s) [Free K .regs] [Free K .xings] :
    Keeps K s0 (State.resetDone s) := by
  unfold State.resetDone
  refine keeps_ite ?_ ?_
  · exact hk0
  · extract_lets +onlyGivenNames s1_0
    refine keeps_cut (v := s1_0) ?_ fun hs1_0 => ?_
    · subst s1_0
      apply setFlag_keeps
      exact hk0
    clear_value s1_0
    refine keeps_ite ?_ ?_
    · exact hs1_0
    · apply xLeave_keeps
      apply xLeave_keeps
      exact hs1_0

theorem rxpShow_keeps {s0 s : State} (hk0 : Keeps K s0 s) (side code : Nat) [Free K .regs] :
    Keeps K s0 (State.rxpShow s side code) := by
  unfold State.rxpShow
  apply setReg_keeps
  exact hk0

theorem darkLight_keeps {s0 s : State} (hk0 : Keeps K s0 s) (x : Side) (code : Nat) [Free K .capture] [Free K .counters] [Free K .paddock] [Free K .pairing] [Free K .power] [Free K .regs] [Free K .report] [Free K .time] [Free K (.line x)] :
    Keeps K s0 (State.darkLight s x code) := by
  unfold State.darkLight
  extract_lets +onlyGivenNames i_0
  clear_value i_0
  extract_lets +onlyGivenNames dark1
  clear_value dark1
  extract_lets +onlyGivenNames thr_2
  clear_value thr_2
  extract_lets +onlyGivenNames n_3
  clear_value n_3
  extract_lets +onlyGivenNames s1_4
  refine keeps_cut (v := s1_4) ?_ fun hs1_4 => ?_
  · subst s1_4
    apply modPwr_keeps
    exact hk0
  clear_value s1_4
  refine keeps_ite ?_ ?_
  · apply rogueLatch_keeps
    exact hs1_4
  · exact hs1_4

theorem monFilter_keeps {s0 s : State} (hk0 : Keeps K s0 s) (k x : Nat) [Free K .counters] [Free K .power] [Free K .regs] [Free K .report] :
    Keeps K s0 (State.monFilter s k x) := by
  unfold State.monFilter
  extract_lets +onlyGivenNames i_0
  clear_value i_0
  extract_lets +onlyGivenNames y0_1
  clear_value y0_1
  extract_lets +onlyGivenNames sh_2
  clear_value sh_2
  extract_lets +onlyGivenNames y_3
  clear_value y_3
  extract_lets +onlyGivenNames filt4
  clear_value filt4
  extract_lets +onlyGivenNames was_5
  clear_value was_5
  extract_lets +onlyGivenNames en_6
  clear_value en_6
  extract_lets +onlyGivenNames above7
  clear_value above7
  extract_lets +onlyGivenNames cond8
  clear_value cond8
  extract_lets +onlyGivenNames s1_9
  refine keeps_cut (v := s1_9) ?_ fun hs1_9 => ?_
  · subst s1_9
    apply setReg_keeps
    exact hk0
  clear_value s1_9
  extract_lets +onlyGivenNames s2_10
  refine keeps_cut (v := s2_10) ?_ fun hs2_10 => ?_
  · subst s2_10
    apply modPwr_keeps
    exact hs1_9
  clear_value s2_10
  refine keeps_ite ?_ ?_
  · exact hs2_10
  · apply raiseLim_keeps
    exact hs2_10

theorem monSample_keeps {s0 s : State} (hk0 : Keeps K s0 s) (k x : Nat) [Free K .capture] [Free K .circuits] [Free K .classifier] [Free K .client] [Free K .counters] [Free K .dispatch] [Free K .dram] [Free K .farrier] [Free K .free] [Free K .gates] [Free K .istore] [Free K .keys] [Free K .lmem] [Free K .memories] [Free K .paddock] [Free K .pairing] [Free K .pairs] [Free K .power] [Free K .regs] [Free K .report] [Free K .resets] [Free K .rings] [Free K .sched] [Free K .smem] [Free K .teams] [Free K .threads] [Free K .time] [Free K .xings] [∀ x, Free K (.line x)] :
    Keeps K s0 (State.monSample s k x) := by
  unfold State.monSample
  extract_lets +onlyGivenNames s1_0
  refine keeps_cut (v := s1_0) ?_ fun hs1_0 => ?_
  · subst s1_0
    apply monFilter_keeps
    exact hk0
  clear_value s1_0
  extract_lets +onlyGivenNames c_1
  clear_value c_1
  split
  · apply rxpShow_keeps
    exact hs1_0
  · apply rxpShow_keeps
    exact hs1_0
  · refine keeps_ite ?_ ?_
    · apply lossDeclare_keeps
      exact hs1_0
    · exact hs1_0
  · extract_lets +onlyGivenNames near2
    clear_value near2
    extract_lets +onlyGivenNames s2_3
    refine keeps_cut (v := s2_3) ?_ fun hs2_3 => ?_
    · subst s2_3
      refine keeps_ite ?_ ?_
      · apply vcoreEvent_keeps
        apply setFlag_keeps
        apply modPwr_keeps
        exact hs1_0
      · exact hs1_0
    clear_value s2_3
    apply vcoreSend_keeps
    refine keeps_ite ?_ ?_
    · apply farAbort_keeps
      exact hs2_3
    · exact hs2_3
  · apply darkLight_keeps
    exact hs1_0
  · apply darkLight_keeps
    exact hs1_0
  · exact hs1_0

theorem vcoreTimeout_keeps {s0 s : State} (hk0 : Keeps K s0 s) [Free K .counters] [Free K .power] [Free K .regs] [Free K .report] :
    Keeps K s0 (State.vcoreTimeout s) := by
  unfold State.vcoreTimeout
  refine keeps_ite ?_ ?_
  · apply vcoreEvent_keeps
    apply modPwr_keeps
    exact hk0
  · exact hk0

theorem grmLoadEnd_keeps {s0 s : State} (hk0 : Keeps K s0 s) (r : Nat) [Free K .counters] [Free K .power] [Free K .regs] [Free K .report] :
    Keeps K s0 (State.grmLoadEnd s r) := by
  unfold State.grmLoadEnd
  apply raise_keeps
  apply modPwr_keeps
  apply setReg_keeps
  exact hk0

theorem grmLoad_keeps {s0 s : State} (hk0 : Keeps K s0 s) (v : Word) [Free K .counters] [Free K .power] [Free K .regs] [Free K .report] :
    Keeps K s0 (State.grmLoad s v) := by
  unfold State.grmLoad
  refine keeps_ite ?_ ?_
  · exact hk0
  · refine keeps_ite ?_ ?_
    · apply raise_keeps
      apply setReg_keeps
      exact hk0
    · apply modPwr_keeps
      exact hk0

theorem grmLoaded_keeps {s0 s : State} (h : Keeps K s0 s) (first second : Option (List Byte)) [Free K .counters] [Free K .free] [Free K .power] [Free K .regs] [Free K .report] :
    Keeps K s0 (s.grmLoaded first second) := by
  unfold State.grmLoaded
  refine keeps_ite h ?_
  have k := imgReads_keeps h 2 (s.f F.GRM_LOAD_LEN_LEN) (s.flag F.GRM_LOAD_CFG_AUTH) (s.f F.GRM_LOAD_CFG_KEY_SLOT)
    first second
  split
  · rename_i he
    rw [he] at k
    exact grmLoadEnd_keeps (modPwr_keeps k _) _
  · rename_i he
    rw [he] at k
    exact grmLoadEnd_keeps (imgTimeout_keeps k _) _

theorem execColdPowerUp_keeps (s : State) :
    Answers [.capture, .circuits, .classifier, .client, .counters, .dispatch, .dram, .farrier, .gates, .istore, .keys, .link, .lmem, .memories, .paddock, .pairing, .pairs, .power, .rd, .regions, .regs, .report, .resets, .rings, .sched, .shadows, .smem, .teams, .threads, .tick, .time, .xings, .line .a, .line .b] s (execColdPowerUp s) := by
  refine answers_of fun K n => ⟨_, rfl, ?_⟩
  have i0 : Free K .capture := n _ (by simp)
  have i1 : Free K .circuits := n _ (by simp)
  have i2 : Free K .classifier := n _ (by simp)
  have i3 : Free K .client := n _ (by simp)
  have i4 : Free K .counters := n _ (by simp)
  have i5 : Free K .dispatch := n _ (by simp)
  have i6 : Free K .dram := n _ (by simp)
  have i7 : Free K .farrier := n _ (by simp)
  have i8 : Free K .gates := n _ (by simp)
  have i9 : Free K .istore := n _ (by simp)
  have i10 : Free K .keys := n _ (by simp)
  have i11 : Free K .link := n _ (by simp)
  have i12 : Free K .lmem := n _ (by simp)
  have i13 : Free K .memories := n _ (by simp)
  have i14 : Free K .paddock := n _ (by simp)
  have i15 : Free K .pairing := n _ (by simp)
  have i16 : Free K .pairs := n _ (by simp)
  have i17 : Free K .power := n _ (by simp)
  have i18 : Free K .rd := n _ (by simp)
  have i19 : Free K .regions := n _ (by simp)
  have i20 : Free K .regs := n _ (by simp)
  have i21 : Free K .report := n _ (by simp)
  have i22 : Free K .resets := n _ (by simp)
  have i23 : Free K .rings := n _ (by simp)
  have i24 : Free K .sched := n _ (by simp)
  have i25 : Free K .shadows := n _ (by simp)
  have i26 : Free K .smem := n _ (by simp)
  have i27 : Free K .teams := n _ (by simp)
  have i28 : Free K .threads := n _ (by simp)
  have i29 : Free K .tick := n _ (by simp)
  have i30 : Free K .time := n _ (by simp)
  have i31 : Free K .xings := n _ (by simp)
  have i32 : ∀ x, Free K (.line x) := fun x => by cases x <;> exact n _ (by simp)
  have hk0 := Keeps.refl (K := K) s
  apply coldUp_keeps
  exact hk0

theorem execVddAonLoss_keeps (s : State) :
    Answers [.capture, .circuits, .classifier, .client, .counters, .dispatch, .dram, .farrier, .gates, .istore, .keys, .link, .lmem, .memories, .paddock, .pairing, .pairs, .power, .rd, .regions, .regs, .report, .resets, .rings, .sched, .shadows, .smem, .teams, .threads, .tick, .time, .xings, .line .a, .line .b] s (execVddAonLoss s) := by
  refine answers_of fun K n => ⟨_, rfl, ?_⟩
  have i0 : Free K .capture := n _ (by simp)
  have i1 : Free K .circuits := n _ (by simp)
  have i2 : Free K .classifier := n _ (by simp)
  have i3 : Free K .client := n _ (by simp)
  have i4 : Free K .counters := n _ (by simp)
  have i5 : Free K .dispatch := n _ (by simp)
  have i6 : Free K .dram := n _ (by simp)
  have i7 : Free K .farrier := n _ (by simp)
  have i8 : Free K .gates := n _ (by simp)
  have i9 : Free K .istore := n _ (by simp)
  have i10 : Free K .keys := n _ (by simp)
  have i11 : Free K .link := n _ (by simp)
  have i12 : Free K .lmem := n _ (by simp)
  have i13 : Free K .memories := n _ (by simp)
  have i14 : Free K .paddock := n _ (by simp)
  have i15 : Free K .pairing := n _ (by simp)
  have i16 : Free K .pairs := n _ (by simp)
  have i17 : Free K .power := n _ (by simp)
  have i18 : Free K .rd := n _ (by simp)
  have i19 : Free K .regions := n _ (by simp)
  have i20 : Free K .regs := n _ (by simp)
  have i21 : Free K .report := n _ (by simp)
  have i22 : Free K .resets := n _ (by simp)
  have i23 : Free K .rings := n _ (by simp)
  have i24 : Free K .sched := n _ (by simp)
  have i25 : Free K .shadows := n _ (by simp)
  have i26 : Free K .smem := n _ (by simp)
  have i27 : Free K .teams := n _ (by simp)
  have i28 : Free K .threads := n _ (by simp)
  have i29 : Free K .tick := n _ (by simp)
  have i30 : Free K .time := n _ (by simp)
  have i31 : Free K .xings := n _ (by simp)
  have i32 : ∀ x, Free K (.line x) := fun x => by cases x <;> exact n _ (by simp)
  have hk0 := Keeps.refl (K := K) s
  apply aonLost_keeps
  exact hk0

theorem execWarmReset_keeps (q : Req) (v : Word) (s : State) :
    Answers [.capture, .circuits, .classifier, .client, .counters, .dispatch, .dram, .farrier, .gates, .istore, .keys, .lmem, .memories, .paddock, .pairing, .pairs, .power, .rd, .regions, .regs, .report, .resets, .rings, .sched, .shadows, .smem, .teams, .threads, .time, .xings, .line .a, .line .b] s (execWarmReset q v s) := by
  refine answers_of fun K n => ⟨_, rfl, ?_⟩
  have i0 : Free K .capture := n _ (by simp)
  have i1 : Free K .circuits := n _ (by simp)
  have i2 : Free K .classifier := n _ (by simp)
  have i3 : Free K .client := n _ (by simp)
  have i4 : Free K .counters := n _ (by simp)
  have i5 : Free K .dispatch := n _ (by simp)
  have i6 : Free K .dram := n _ (by simp)
  have i7 : Free K .farrier := n _ (by simp)
  have i8 : Free K .gates := n _ (by simp)
  have i9 : Free K .istore := n _ (by simp)
  have i10 : Free K .keys := n _ (by simp)
  have i11 : Free K .lmem := n _ (by simp)
  have i12 : Free K .memories := n _ (by simp)
  have i13 : Free K .paddock := n _ (by simp)
  have i14 : Free K .pairing := n _ (by simp)
  have i15 : Free K .pairs := n _ (by simp)
  have i16 : Free K .power := n _ (by simp)
  have i17 : Free K .rd := n _ (by simp)
  have i18 : Free K .regions := n _ (by simp)
  have i19 : Free K .regs := n _ (by simp)
  have i20 : Free K .report := n _ (by simp)
  have i21 : Free K .resets := n _ (by simp)
  have i22 : Free K .rings := n _ (by simp)
  have i23 : Free K .sched := n _ (by simp)
  have i24 : Free K .shadows := n _ (by simp)
  have i25 : Free K .smem := n _ (by simp)
  have i26 : Free K .teams := n _ (by simp)
  have i27 : Free K .threads := n _ (by simp)
  have i28 : Free K .time := n _ (by simp)
  have i29 : Free K .xings := n _ (by simp)
  have i30 : ∀ x, Free K (.line x) := fun x => by cases x <;> exact n _ (by simp)
  have hk0 := Keeps.refl (K := K) s
  apply guardW_keeps
  · exact hk0
  · intro y0 hy1
    apply warmOp_keeps
    exact hy1

theorem execResetEnd_keeps (s : State) :
    Answers [.regs, .xings] s (execResetEnd s) := by
  refine answers_of fun K n => ⟨_, rfl, ?_⟩
  have i0 : Free K .regs := n _ (by simp)
  have i1 : Free K .xings := n _ (by simp)
  have hk0 := Keeps.refl (K := K) s
  apply resetDone_keeps
  exact hk0

theorem execRailFail_keeps (pll : Bool) (index : Fin 9) (skew : Bool) (s : State) :
    Answers [.capture, .circuits, .classifier, .client, .counters, .dispatch, .dram, .farrier, .free, .gates, .istore, .keys, .lmem, .memories, .paddock, .pairing, .pairs, .power, .regions, .regs, .report, .resets, .rings, .sched, .smem, .teams, .threads, .time, .xings, .line .a, .line .b] s (execRailFail pll index skew s) := by
  refine answers_of fun K n => ⟨_, rfl, ?_⟩
  have i0 : Free K .capture := n _ (by simp)
  have i1 : Free K .circuits := n _ (by simp)
  have i2 : Free K .classifier := n _ (by simp)
  have i3 : Free K .client := n _ (by simp)
  have i4 : Free K .counters := n _ (by simp)
  have i5 : Free K .dispatch := n _ (by simp)
  have i6 : Free K .dram := n _ (by simp)
  have i7 : Free K .farrier := n _ (by simp)
  have i8 : Free K .free := n _ (by simp)
  have i9 : Free K .gates := n _ (by simp)
  have i10 : Free K .istore := n _ (by simp)
  have i11 : Free K .keys := n _ (by simp)
  have i12 : Free K .lmem := n _ (by simp)
  have i13 : Free K .memories := n _ (by simp)
  have i14 : Free K .paddock := n _ (by simp)
  have i15 : Free K .pairing := n _ (by simp)
  have i16 : Free K .pairs := n _ (by simp)
  have i17 : Free K .power := n _ (by simp)
  have i18 : Free K .regions := n _ (by simp)
  have i19 : Free K .regs := n _ (by simp)
  have i20 : Free K .report := n _ (by simp)
  have i21 : Free K .resets := n _ (by simp)
  have i22 : Free K .rings := n _ (by simp)
  have i23 : Free K .sched := n _ (by simp)
  have i24 : Free K .smem := n _ (by simp)
  have i25 : Free K .teams := n _ (by simp)
  have i26 : Free K .threads := n _ (by simp)
  have i27 : Free K .time := n _ (by simp)
  have i28 : Free K .xings := n _ (by simp)
  have i29 : ∀ x, Free K (.line x) := fun x => by cases x <;> exact n _ (by simp)
  have hk0 := Keeps.refl (K := K) s
  apply railFailOp_keeps
  exact hk0

theorem execPowerRetry_keeps (fails : List (Bool × Fin 128 × Fin 16)) (s : State) :
    Answers [.capture, .circuits, .classifier, .client, .counters, .dispatch, .dram, .farrier, .free, .gates, .istore, .keys, .lmem, .memories, .paddock, .pairing, .pairs, .power, .regions, .regs, .report, .resets, .rings, .sched, .smem, .teams, .threads, .time, .xings, .line .a, .line .b] s (execPowerRetry fails s) := by
  refine answers_of fun K n => ⟨_, rfl, ?_⟩
  have i0 : Free K .capture := n _ (by simp)
  have i1 : Free K .circuits := n _ (by simp)
  have i2 : Free K .classifier := n _ (by simp)
  have i3 : Free K .client := n _ (by simp)
  have i4 : Free K .counters := n _ (by simp)
  have i5 : Free K .dispatch := n _ (by simp)
  have i6 : Free K .dram := n _ (by simp)
  have i7 : Free K .farrier := n _ (by simp)
  have i8 : Free K .free := n _ (by simp)
  have i9 : Free K .gates := n _ (by simp)
  have i10 : Free K .istore := n _ (by simp)
  have i11 : Free K .keys := n _ (by simp)
  have i12 : Free K .lmem := n _ (by simp)
  have i13 : Free K .memories := n _ (by simp)
  have i14 : Free K .paddock := n _ (by simp)
  have i15 : Free K .pairing := n _ (by simp)
  have i16 : Free K .pairs := n _ (by simp)
  have i17 : Free K .power := n _ (by simp)
  have i18 : Free K .regions := n _ (by simp)
  have i19 : Free K .regs := n _ (by simp)
  have i20 : Free K .report := n _ (by simp)
  have i21 : Free K .resets := n _ (by simp)
  have i22 : Free K .rings := n _ (by simp)
  have i23 : Free K .sched := n _ (by simp)
  have i24 : Free K .smem := n _ (by simp)
  have i25 : Free K .teams := n _ (by simp)
  have i26 : Free K .threads := n _ (by simp)
  have i27 : Free K .time := n _ (by simp)
  have i28 : Free K .xings := n _ (by simp)
  have i29 : ∀ x, Free K (.line x) := fun x => by cases x <;> exact n _ (by simp)
  have hk0 := Keeps.refl (K := K) s
  apply stestUp_keeps
  apply powerRetryOp_keeps
  exact hk0

theorem execPowerGoodLost_keeps (rail : Fin 9) (s : State) :
    Answers [.counters, .power, .regs, .report, .resets, .line .a, .line .b] s (execPowerGoodLost rail s) := by
  refine answers_of fun K n => ⟨_, rfl, ?_⟩
  have i0 : Free K .counters := n _ (by simp)
  have i1 : Free K .power := n _ (by simp)
  have i2 : Free K .regs := n _ (by simp)
  have i3 : Free K .report := n _ (by simp)
  have i4 : Free K .resets := n _ (by simp)
  have i5 : ∀ x, Free K (.line x) := fun x => by cases x <;> exact n _ (by simp)
  have hk0 := Keeps.refl (K := K) s
  apply pgLost_keeps
  exact hk0

theorem execPllLockLost_keeps (i : Fin 4) (s : State) :
    Answers [.capture, .circuits, .classifier, .client, .counters, .dispatch, .dram, .farrier, .free, .gates, .istore, .keys, .lmem, .memories, .paddock, .pairing, .pairs, .power, .regions, .regs, .report, .resets, .rings, .sched, .smem, .teams, .threads, .time, .xings, .line .a, .line .b] s (execPllLockLost i s) := by
  refine answers_of fun K n => ⟨_, rfl, ?_⟩
  have i0 : Free K .capture := n _ (by simp)
  have i1 : Free K .circuits := n _ (by simp)
  have i2 : Free K .classifier := n _ (by simp)
  have i3 : Free K .client := n _ (by simp)
  have i4 : Free K .counters := n _ (by simp)
  have i5 : Free K .dispatch := n _ (by simp)
  have i6 : Free K .dram := n _ (by simp)
  have i7 : Free K .farrier := n _ (by simp)
  have i8 : Free K .free := n _ (by simp)
  have i9 : Free K .gates := n _ (by simp)
  have i10 : Free K .istore := n _ (by simp)
  have i11 : Free K .keys := n _ (by simp)
  have i12 : Free K .lmem := n _ (by simp)
  have i13 : Free K .memories := n _ (by simp)
  have i14 : Free K .paddock := n _ (by simp)
  have i15 : Free K .pairing := n _ (by simp)
  have i16 : Free K .pairs := n _ (by simp)
  have i17 : Free K .power := n _ (by simp)
  have i18 : Free K .regions := n _ (by simp)
  have i19 : Free K .regs := n _ (by simp)
  have i20 : Free K .report := n _ (by simp)
  have i21 : Free K .resets := n _ (by simp)
  have i22 : Free K .rings := n _ (by simp)
  have i23 : Free K .sched := n _ (by simp)
  have i24 : Free K .smem := n _ (by simp)
  have i25 : Free K .teams := n _ (by simp)
  have i26 : Free K .threads := n _ (by simp)
  have i27 : Free K .time := n _ (by simp)
  have i28 : Free K .xings := n _ (by simp)
  have i29 : ∀ x, Free K (.line x) := fun x => by cases x <;> exact n _ (by simp)
  have hk0 := Keeps.refl (K := K) s
  apply lockLost_keeps
  exact hk0

theorem execPllLockReturn_keeps (i : Fin 4) (s : State) :
    Answers [.counters, .memories, .power, .regions, .regs, .report] s (execPllLockReturn i s) := by
  refine answers_of fun K n => ⟨_, rfl, ?_⟩
  have i0 : Free K .counters := n _ (by simp)
  have i1 : Free K .memories := n _ (by simp)
  have i2 : Free K .power := n _ (by simp)
  have i3 : Free K .regions := n _ (by simp)
  have i4 : Free K .regs := n _ (by simp)
  have i5 : Free K .report := n _ (by simp)
  have hk0 := Keeps.refl (K := K) s
  apply lockBack_keeps
  exact hk0

theorem pwrWrite_keeps {s0 s : State} (hk0 : Keeps K s0 s) (q : Req) (t : Nat) (energy : BitVec 8) (wakeN : Bool) [Free K .counters] [Free K .power] [Free K .regs] [Free K .report] :
    Keeps K s0 (State.pwrWrite s q t energy wakeN) := by
  unfold State.pwrWrite
  apply guardW_keeps
  · exact hk0
  · intro y0 hy1
    apply pwrCmd_keeps
    exact hy1

theorem execPowerSleep_keeps (q : Req) (energy : BitVec 8) (wakeN : Bool) (s : State) :
    Answers [.counters, .power, .regs, .report] s (execPowerSleep q energy wakeN s) := by
  refine answers_of fun K n => ⟨_, rfl, ?_⟩
  have i0 : Free K .counters := n _ (by simp)
  have i1 : Free K .power := n _ (by simp)
  have i2 : Free K .regs := n _ (by simp)
  have i3 : Free K .report := n _ (by simp)
  have hk0 := Keeps.refl (K := K) s
  apply pwrWrite_keeps
  exact hk0

theorem execPowerDoze_keeps (q : Req) (energy : BitVec 8) (wakeN : Bool) (s : State) :
    Answers [.counters, .power, .regs, .report] s (execPowerDoze q energy wakeN s) := by
  refine answers_of fun K n => ⟨_, rfl, ?_⟩
  have i0 : Free K .counters := n _ (by simp)
  have i1 : Free K .power := n _ (by simp)
  have i2 : Free K .regs := n _ (by simp)
  have i3 : Free K .report := n _ (by simp)
  have hk0 := Keeps.refl (K := K) s
  apply pwrWrite_keeps
  exact hk0

theorem execPowerListen_keeps (q : Req) (energy : BitVec 8) (wakeN : Bool) (s : State) :
    Answers [.counters, .power, .regs, .report] s (execPowerListen q energy wakeN s) := by
  refine answers_of fun K n => ⟨_, rfl, ?_⟩
  have i0 : Free K .counters := n _ (by simp)
  have i1 : Free K .power := n _ (by simp)
  have i2 : Free K .regs := n _ (by simp)
  have i3 : Free K .report := n _ (by simp)
  have hk0 := Keeps.refl (K := K) s
  apply pwrWrite_keeps
  exact hk0

theorem execPowerRun_keeps (q : Req) (energy : BitVec 8) (wakeN : Bool) (s : State) :
    Answers [.counters, .power, .regs, .report] s (execPowerRun q energy wakeN s) := by
  refine answers_of fun K n => ⟨_, rfl, ?_⟩
  have i0 : Free K .counters := n _ (by simp)
  have i1 : Free K .power := n _ (by simp)
  have i2 : Free K .regs := n _ (by simp)
  have i3 : Free K .report := n _ (by simp)
  have hk0 := Keeps.refl (K := K) s
  apply pwrWrite_keeps
  exact hk0

theorem execPowerTransitionEnd_keeps (fails : List (Bool × Fin 128 × Fin 16)) (s : State) :
    Answers [.capture, .circuits, .classifier, .client, .counters, .dispatch, .dram, .farrier, .free, .gates, .istore, .keys, .link, .lmem, .memories, .paddock, .pairing, .pairs, .power, .regions, .regs, .report, .resets, .rings, .sched, .smem, .teams, .threads, .tick, .time, .xings, .line .a, .line .b] s (execPowerTransitionEnd fails s) := by
  refine answers_of fun K n => ⟨_, rfl, ?_⟩
  have i0 : Free K .capture := n _ (by simp)
  have i1 : Free K .circuits := n _ (by simp)
  have i2 : Free K .classifier := n _ (by simp)
  have i3 : Free K .client := n _ (by simp)
  have i4 : Free K .counters := n _ (by simp)
  have i5 : Free K .dispatch := n _ (by simp)
  have i6 : Free K .dram := n _ (by simp)
  have i7 : Free K .farrier := n _ (by simp)
  have i8 : Free K .free := n _ (by simp)
  have i9 : Free K .gates := n _ (by simp)
  have i10 : Free K .istore := n _ (by simp)
  have i11 : Free K .keys := n _ (by simp)
  have i12 : Free K .link := n _ (by simp)
  have i13 : Free K .lmem := n _ (by simp)
  have i14 : Free K .memories := n _ (by simp)
  have i15 : Free K .paddock := n _ (by simp)
  have i16 : Free K .pairing := n _ (by simp)
  have i17 : Free K .pairs := n _ (by simp)
  have i18 : Free K .power := n _ (by simp)
  have i19 : Free K .regions := n _ (by simp)
  have i20 : Free K .regs := n _ (by simp)
  have i21 : Free K .report := n _ (by simp)
  have i22 : Free K .resets := n _ (by simp)
  have i23 : Free K .rings := n _ (by simp)
  have i24 : Free K .sched := n _ (by simp)
  have i25 : Free K .smem := n _ (by simp)
  have i26 : Free K .teams := n _ (by simp)
  have i27 : Free K .threads := n _ (by simp)
  have i28 : Free K .tick := n _ (by simp)
  have i29 : Free K .time := n _ (by simp)
  have i30 : Free K .xings := n _ (by simp)
  have i31 : ∀ x, Free K (.line x) := fun x => by cases x <;> exact n _ (by simp)
  have hk0 := Keeps.refl (K := K) s
  apply stestUp_keeps
  apply transEnd_keeps
  exact hk0

theorem execRunMaskWrite_keeps (q : Req) (v : Word) (fails : List (Bool × Fin 128 × Fin 16)) (s : State) :
    Answers [.capture, .circuits, .classifier, .client, .counters, .dispatch, .dram, .farrier, .free, .gates, .istore, .keys, .lmem, .memories, .paddock, .pairing, .pairs, .power, .regions, .regs, .report, .resets, .rings, .sched, .smem, .teams, .threads, .time, .xings, .line .a, .line .b] s (execRunMaskWrite q v fails s) := by
  refine answers_of fun K n => ⟨_, rfl, ?_⟩
  have i0 : Free K .capture := n _ (by simp)
  have i1 : Free K .circuits := n _ (by simp)
  have i2 : Free K .classifier := n _ (by simp)
  have i3 : Free K .client := n _ (by simp)
  have i4 : Free K .counters := n _ (by simp)
  have i5 : Free K .dispatch := n _ (by simp)
  have i6 : Free K .dram := n _ (by simp)
  have i7 : Free K .farrier := n _ (by simp)
  have i8 : Free K .free := n _ (by simp)
  have i9 : Free K .gates := n _ (by simp)
  have i10 : Free K .istore := n _ (by simp)
  have i11 : Free K .keys := n _ (by simp)
  have i12 : Free K .lmem := n _ (by simp)
  have i13 : Free K .memories := n _ (by simp)
  have i14 : Free K .paddock := n _ (by simp)
  have i15 : Free K .pairing := n _ (by simp)
  have i16 : Free K .pairs := n _ (by simp)
  have i17 : Free K .power := n _ (by simp)
  have i18 : Free K .regions := n _ (by simp)
  have i19 : Free K .regs := n _ (by simp)
  have i20 : Free K .report := n _ (by simp)
  have i21 : Free K .resets := n _ (by simp)
  have i22 : Free K .rings := n _ (by simp)
  have i23 : Free K .sched := n _ (by simp)
  have i24 : Free K .smem := n _ (by simp)
  have i25 : Free K .teams := n _ (by simp)
  have i26 : Free K .threads := n _ (by simp)
  have i27 : Free K .time := n _ (by simp)
  have i28 : Free K .xings := n _ (by simp)
  have i29 : ∀ x, Free K (.line x) := fun x => by cases x <;> exact n _ (by simp)
  have hk0 := Keeps.refl (K := K) s
  apply guardW_keeps
  · exact hk0
  · intro y0 hy1
    apply stestUp_keeps
    apply runMaskOp_keeps
    exact hy1

theorem execPwrWake_keeps (energy : BitVec 8) (wakeN doorbell : Bool) (since : Option Nat) (s : State) :
    Answers [.capture, .circuits, .classifier, .client, .counters, .dispatch, .dram, .farrier, .free, .gates, .istore, .keys, .lmem, .memories, .paddock, .pairing, .pairs, .power, .regions, .regs, .report, .resets, .rings, .sched, .smem, .teams, .threads, .time, .xings, .line .a, .line .b] s (execPwrWake energy wakeN doorbell since s) := by
  refine answers_of fun K n => ⟨_, rfl, ?_⟩
  have i0 : Free K .capture := n _ (by simp)
  have i1 : Free K .circuits := n _ (by simp)
  have i2 : Free K .classifier := n _ (by simp)
  have i3 : Free K .client := n _ (by simp)
  have i4 : Free K .counters := n _ (by simp)
  have i5 : Free K .dispatch := n _ (by simp)
  have i6 : Free K .dram := n _ (by simp)
  have i7 : Free K .farrier := n _ (by simp)
  have i8 : Free K .free := n _ (by simp)
  have i9 : Free K .gates := n _ (by simp)
  have i10 : Free K .istore := n _ (by simp)
  have i11 : Free K .keys := n _ (by simp)
  have i12 : Free K .lmem := n _ (by simp)
  have i13 : Free K .memories := n _ (by simp)
  have i14 : Free K .paddock := n _ (by simp)
  have i15 : Free K .pairing := n _ (by simp)
  have i16 : Free K .pairs := n _ (by simp)
  have i17 : Free K .power := n _ (by simp)
  have i18 : Free K .regions := n _ (by simp)
  have i19 : Free K .regs := n _ (by simp)
  have i20 : Free K .report := n _ (by simp)
  have i21 : Free K .resets := n _ (by simp)
  have i22 : Free K .rings := n _ (by simp)
  have i23 : Free K .sched := n _ (by simp)
  have i24 : Free K .smem := n _ (by simp)
  have i25 : Free K .teams := n _ (by simp)
  have i26 : Free K .threads := n _ (by simp)
  have i27 : Free K .time := n _ (by simp)
  have i28 : Free K .xings := n _ (by simp)
  have i29 : ∀ x, Free K (.line x) := fun x => by cases x <;> exact n _ (by simp)
  have hk0 := Keeps.refl (K := K) s
  refine keeps_ite ?_ ?_
  · exact hk0
  · apply wakeOp_keeps
    exact hk0

theorem execWakeTimerExpire_keeps (committed : Bool) (s : State) :
    Answers [.capture, .circuits, .classifier, .client, .counters, .dispatch, .dram, .farrier, .free, .gates, .istore, .keys, .lmem, .memories, .paddock, .pairing, .pairs, .power, .regions, .regs, .report, .resets, .rings, .sched, .smem, .teams, .threads, .time, .xings, .line .a, .line .b] s (execWakeTimerExpire committed s) := by
  refine answers_of fun K n => ⟨_, rfl, ?_⟩
  have i0 : Free K .capture := n _ (by simp)
  have i1 : Free K .circuits := n _ (by simp)
  have i2 : Free K .classifier := n _ (by simp)
  have i3 : Free K .client := n _ (by simp)
  have i4 : Free K .counters := n _ (by simp)
  have i5 : Free K .dispatch := n _ (by simp)
  have i6 : Free K .dram := n _ (by simp)
  have i7 : Free K .farrier := n _ (by simp)
  have i8 : Free K .free := n _ (by simp)
  have i9 : Free K .gates := n _ (by simp)
  have i10 : Free K .istore := n _ (by simp)
  have i11 : Free K .keys := n _ (by simp)
  have i12 : Free K .lmem := n _ (by simp)
  have i13 : Free K .memories := n _ (by simp)
  have i14 : Free K .paddock := n _ (by simp)
  have i15 : Free K .pairing := n _ (by simp)
  have i16 : Free K .pairs := n _ (by simp)
  have i17 : Free K .power := n _ (by simp)
  have i18 : Free K .regions := n _ (by simp)
  have i19 : Free K .regs := n _ (by simp)
  have i20 : Free K .report := n _ (by simp)
  have i21 : Free K .resets := n _ (by simp)
  have i22 : Free K .rings := n _ (by simp)
  have i23 : Free K .sched := n _ (by simp)
  have i24 : Free K .smem := n _ (by simp)
  have i25 : Free K .teams := n _ (by simp)
  have i26 : Free K .threads := n _ (by simp)
  have i27 : Free K .time := n _ (by simp)
  have i28 : Free K .xings := n _ (by simp)
  have i29 : ∀ x, Free K (.line x) := fun x => by cases x <;> exact n _ (by simp)
  have hk0 := Keeps.refl (K := K) s
  refine keeps_ite ?_ ?_
  · exact hk0
  · apply wakeOp_keeps
    exact hk0

theorem execDozeWindowOpen_keeps (s : State) :
    Answers [.counters, .memories, .power, .regions, .regs, .report, .xings] s (execDozeWindowOpen s) := by
  refine answers_of fun K n => ⟨_, rfl, ?_⟩
  have i0 : Free K .counters := n _ (by simp)
  have i1 : Free K .memories := n _ (by simp)
  have i2 : Free K .power := n _ (by simp)
  have i3 : Free K .regions := n _ (by simp)
  have i4 : Free K .regs := n _ (by simp)
  have i5 : Free K .report := n _ (by simp)
  have i6 : Free K .xings := n _ (by simp)
  have hk0 := Keeps.refl (K := K) s
  apply windowOpenOp_keeps
  exact hk0

theorem execDozeWindowClose_keeps (s : State) :
    Answers [.capture, .circuits, .counters, .memories, .paddock, .pairing, .power, .regions, .regs, .report, .time, .xings, .line .a, .line .b] s (execDozeWindowClose s) := by
  refine answers_of fun K n => ⟨_, rfl, ?_⟩
  have i0 : Free K .capture := n _ (by simp)
  have i1 : Free K .circuits := n _ (by simp)
  have i2 : Free K .counters := n _ (by simp)
  have i3 : Free K .memories := n _ (by simp)
  have i4 : Free K .paddock := n _ (by simp)
  have i5 : Free K .pairing := n _ (by simp)
  have i6 : Free K .power := n _ (by simp)
  have i7 : Free K .regions := n _ (by simp)
  have i8 : Free K .regs := n _ (by simp)
  have i9 : Free K .report := n _ (by simp)
  have i10 : Free K .time := n _ (by simp)
  have i11 : Free K .xings := n _ (by simp)
  have i12 : ∀ x, Free K (.line x) := fun x => by cases x <;> exact n _ (by simp)
  have hk0 := Keeps.refl (K := K) s
  apply windowCloseOp_keeps
  exact hk0

theorem execVcoreSet_keeps (q : Req) (v : Word) (s : State) :
    Answers [.counters, .power, .regs, .report] s (execVcoreSet q v s) := by
  refine answers_of fun K n => ⟨_, rfl, ?_⟩
  have i0 : Free K .counters := n _ (by simp)
  have i1 : Free K .power := n _ (by simp)
  have i2 : Free K .regs := n _ (by simp)
  have i3 : Free K .report := n _ (by simp)
  have hk0 := Keeps.refl (K := K) s
  apply guardW_keeps
  · exact hk0
  · intro y0 hy1
    apply vcoreWrite_keeps
    exact hy1

theorem execVcoreVerifyTimeout_keeps (s : State) :
    Answers [.counters, .power, .regs, .report] s (execVcoreVerifyTimeout s) := by
  refine answers_of fun K n => ⟨_, rfl, ?_⟩
  have i0 : Free K .counters := n _ (by simp)
  have i1 : Free K .power := n _ (by simp)
  have i2 : Free K .regs := n _ (by simp)
  have i3 : Free K .report := n _ (by simp)
  have hk0 := Keeps.refl (K := K) s
  apply vcoreTimeout_keeps
  exact hk0

theorem execMonitorSample_keeps (k : Fin 8) (code : Fin 4096) (s : State) :
    Answers [.capture, .circuits, .classifier, .client, .counters, .dispatch, .dram, .farrier, .free, .gates, .istore, .keys, .lmem, .memories, .paddock, .pairing, .pairs, .power, .regs, .report, .resets, .rings, .sched, .smem, .teams, .threads, .time, .xings, .line .a, .line .b] s (execMonitorSample k code s) := by
  refine answers_of fun K n => ⟨_, rfl, ?_⟩
  have i0 : Free K .capture := n _ (by simp)
  have i1 : Free K .circuits := n _ (by simp)
  have i2 : Free K .classifier := n _ (by simp)
  have i3 : Free K .client := n _ (by simp)
  have i4 : Free K .counters := n _ (by simp)
  have i5 : Free K .dispatch := n _ (by simp)
  have i6 : Free K .dram := n _ (by simp)
  have i7 : Free K .farrier := n _ (by simp)
  have i8 : Free K .free := n _ (by simp)
  have i9 : Free K .gates := n _ (by simp)
  have i10 : Free K .istore := n _ (by simp)
  have i11 : Free K .keys := n _ (by simp)
  have i12 : Free K .lmem := n _ (by simp)
  have i13 : Free K .memories := n _ (by simp)
  have i14 : Free K .paddock := n _ (by simp)
  have i15 : Free K .pairing := n _ (by simp)
  have i16 : Free K .pairs := n _ (by simp)
  have i17 : Free K .power := n _ (by simp)
  have i18 : Free K .regs := n _ (by simp)
  have i19 : Free K .report := n _ (by simp)
  have i20 : Free K .resets := n _ (by simp)
  have i21 : Free K .rings := n _ (by simp)
  have i22 : Free K .sched := n _ (by simp)
  have i23 : Free K .smem := n _ (by simp)
  have i24 : Free K .teams := n _ (by simp)
  have i25 : Free K .threads := n _ (by simp)
  have i26 : Free K .time := n _ (by simp)
  have i27 : Free K .xings := n _ (by simp)
  have i28 : ∀ x, Free K (.line x) := fun x => by cases x <;> exact n _ (by simp)
  have hk0 := Keeps.refl (K := K) s
  apply monSample_keeps
  exact hk0

theorem execSupplyLossDeclare_keeps (s : State) :
    Answers [.capture, .circuits, .classifier, .client, .counters, .dispatch, .dram, .farrier, .free, .gates, .istore, .keys, .lmem, .memories, .paddock, .pairing, .pairs, .power, .regs, .report, .resets, .rings, .sched, .smem, .teams, .threads, .time, .xings, .line .a, .line .b] s (execSupplyLossDeclare s) := by
  refine answers_of fun K n => ⟨_, rfl, ?_⟩
  have i0 : Free K .capture := n _ (by simp)
  have i1 : Free K .circuits := n _ (by simp)
  have i2 : Free K .classifier := n _ (by simp)
  have i3 : Free K .client := n _ (by simp)
  have i4 : Free K .counters := n _ (by simp)
  have i5 : Free K .dispatch := n _ (by simp)
  have i6 : Free K .dram := n _ (by simp)
  have i7 : Free K .farrier := n _ (by simp)
  have i8 : Free K .free := n _ (by simp)
  have i9 : Free K .gates := n _ (by simp)
  have i10 : Free K .istore := n _ (by simp)
  have i11 : Free K .keys := n _ (by simp)
  have i12 : Free K .lmem := n _ (by simp)
  have i13 : Free K .memories := n _ (by simp)
  have i14 : Free K .paddock := n _ (by simp)
  have i15 : Free K .pairing := n _ (by simp)
  have i16 : Free K .pairs := n _ (by simp)
  have i17 : Free K .power := n _ (by simp)
  have i18 : Free K .regs := n _ (by simp)
  have i19 : Free K .report := n _ (by simp)
  have i20 : Free K .resets := n _ (by simp)
  have i21 : Free K .rings := n _ (by simp)
  have i22 : Free K .sched := n _ (by simp)
  have i23 : Free K .smem := n _ (by simp)
  have i24 : Free K .teams := n _ (by simp)
  have i25 : Free K .threads := n _ (by simp)
  have i26 : Free K .time := n _ (by simp)
  have i27 : Free K .xings := n _ (by simp)
  have i28 : ∀ x, Free K (.line x) := fun x => by cases x <;> exact n _ (by simp)
  have hk0 := Keeps.refl (K := K) s
  apply lossDeclare_keeps
  exact hk0

theorem execDgHoldExpire_keeps (s : State) :
    Answers [.capture, .circuits, .classifier, .client, .counters, .dispatch, .dram, .farrier, .free, .gates, .istore, .keys, .lmem, .memories, .paddock, .pairing, .pairs, .power, .regions, .regs, .report, .resets, .rings, .sched, .smem, .teams, .threads, .time, .xings, .line .a, .line .b] s (execDgHoldExpire s) := by
  refine answers_of fun K n => ⟨_, rfl, ?_⟩
  have i0 : Free K .capture := n _ (by simp)
  have i1 : Free K .circuits := n _ (by simp)
  have i2 : Free K .classifier := n _ (by simp)
  have i3 : Free K .client := n _ (by simp)
  have i4 : Free K .counters := n _ (by simp)
  have i5 : Free K .dispatch := n _ (by simp)
  have i6 : Free K .dram := n _ (by simp)
  have i7 : Free K .farrier := n _ (by simp)
  have i8 : Free K .free := n _ (by simp)
  have i9 : Free K .gates := n _ (by simp)
  have i10 : Free K .istore := n _ (by simp)
  have i11 : Free K .keys := n _ (by simp)
  have i12 : Free K .lmem := n _ (by simp)
  have i13 : Free K .memories := n _ (by simp)
  have i14 : Free K .paddock := n _ (by simp)
  have i15 : Free K .pairing := n _ (by simp)
  have i16 : Free K .pairs := n _ (by simp)
  have i17 : Free K .power := n _ (by simp)
  have i18 : Free K .regions := n _ (by simp)
  have i19 : Free K .regs := n _ (by simp)
  have i20 : Free K .report := n _ (by simp)
  have i21 : Free K .resets := n _ (by simp)
  have i22 : Free K .rings := n _ (by simp)
  have i23 : Free K .sched := n _ (by simp)
  have i24 : Free K .smem := n _ (by simp)
  have i25 : Free K .teams := n _ (by simp)
  have i26 : Free K .threads := n _ (by simp)
  have i27 : Free K .time := n _ (by simp)
  have i28 : Free K .xings := n _ (by simp)
  have i29 : ∀ x, Free K (.line x) := fun x => by cases x <;> exact n _ (by simp)
  have hk0 := Keeps.refl (K := K) s
  apply lossIsolate_keeps
  exact hk0

theorem execEnergyCheck_keeps (code : Fin 4096) (s : State) :
    Answers [.counters, .power, .regs, .report] s (execEnergyCheck code s) := by
  refine answers_of fun K n => ⟨_, rfl, ?_⟩
  have i0 : Free K .counters := n _ (by simp)
  have i1 : Free K .power := n _ (by simp)
  have i2 : Free K .regs := n _ (by simp)
  have i3 : Free K .report := n _ (by simp)
  have hk0 := Keeps.refl (K := K) s
  apply energyOp_keeps
  exact hk0

theorem execStateSaveEnd_keeps (ok : Bool) (s : State) :
    Answers [.counters, .power, .regs, .report] s (execStateSaveEnd ok s) := by
  refine answers_of fun K n => ⟨_, rfl, ?_⟩
  have i0 : Free K .counters := n _ (by simp)
  have i1 : Free K .power := n _ (by simp)
  have i2 : Free K .regs := n _ (by simp)
  have i3 : Free K .report := n _ (by simp)
  have hk0 := Keeps.refl (K := K) s
  apply saveEnd_keeps
  exact hk0

theorem execPfailRelease_keeps (s : State) :
    Answers [.capture, .circuits, .classifier, .client, .counters, .dispatch, .dram, .farrier, .gates, .istore, .keys, .link, .lmem, .memories, .paddock, .pairing, .pairs, .power, .rd, .regions, .regs, .report, .resets, .rings, .sched, .shadows, .smem, .teams, .threads, .tick, .time, .xings, .line .a, .line .b] s (execPfailRelease s) := by
  refine answers_of fun K n => ⟨_, rfl, ?_⟩
  have i0 : Free K .capture := n _ (by simp)
  have i1 : Free K .circuits := n _ (by simp)
  have i2 : Free K .classifier := n _ (by simp)
  have i3 : Free K .client := n _ (by simp)
  have i4 : Free K .counters := n _ (by simp)
  have i5 : Free K .dispatch := n _ (by simp)
  have i6 : Free K .dram := n _ (by simp)
  have i7 : Free K .farrier := n _ (by simp)
  have i8 : Free K .gates := n _ (by simp)
  have i9 : Free K .istore := n _ (by simp)
  have i10 : Free K .keys := n _ (by simp)
  have i11 : Free K .link := n _ (by simp)
  have i12 : Free K .lmem := n _ (by simp)
  have i13 : Free K .memories := n _ (by simp)
  have i14 : Free K .paddock := n _ (by simp)
  have i15 : Free K .pairing := n _ (by simp)
  have i16 : Free K .pairs := n _ (by simp)
  have i17 : Free K .power := n _ (by simp)
  have i18 : Free K .rd := n _ (by simp)
  have i19 : Free K .regions := n _ (by simp)
  have i20 : Free K .regs := n _ (by simp)
  have i21 : Free K .report := n _ (by simp)
  have i22 : Free K .resets := n _ (by simp)
  have i23 : Free K .rings := n _ (by simp)
  have i24 : Free K .sched := n _ (by simp)
  have i25 : Free K .shadows := n _ (by simp)
  have i26 : Free K .smem := n _ (by simp)
  have i27 : Free K .teams := n _ (by simp)
  have i28 : Free K .threads := n _ (by simp)
  have i29 : Free K .tick := n _ (by simp)
  have i30 : Free K .time := n _ (by simp)
  have i31 : Free K .xings := n _ (by simp)
  have i32 : ∀ x, Free K (.line x) := fun x => by cases x <;> exact n _ (by simp)
  have hk0 := Keeps.refl (K := K) s
  apply pfailBack_keeps
  exact hk0

theorem execGroomImageLoad_keeps (q : Req) (v : Word) (s : State) :
    Answers [.counters, .power, .regs, .report] s (execGroomImageLoad q v s) := by
  refine answers_of fun K n => ⟨_, rfl, ?_⟩
  have i0 : Free K .counters := n _ (by simp)
  have i1 : Free K .power := n _ (by simp)
  have i2 : Free K .regs := n _ (by simp)
  have i3 : Free K .report := n _ (by simp)
  have hk0 := Keeps.refl (K := K) s
  apply guardHostW_keeps
  · exact hk0
  · intro y0 hy1
    apply grmLoad_keeps
    exact hy1

theorem execGroomImageLoadEnd_keeps (first second : Option (List Byte)) (s : State) :
    Answers [.counters, .free, .power, .regs, .report] s (execGroomImageLoadEnd first second s) := by
  refine answers_of fun K n => ⟨_, rfl, ?_⟩
  have i0 : Free K .counters := n _ (by simp)
  have i1 : Free K .free := n _ (by simp)
  have i2 : Free K .power := n _ (by simp)
  have i3 : Free K .regs := n _ (by simp)
  have i4 : Free K .report := n _ (by simp)
  have hk0 := Keeps.refl (K := K) s
  apply grmLoaded_keeps
  exact hk0

end Sys2Proof.Machine
end

