-- ==== Sys2Proof/Laws/KeepsBus.lean ====
section
/-! SUPPORT. What the operations of Machine/Bus.lean keep. -/

-- One proof at a time: in the package as one text, proofs that wait for each other would each hold a thread.
set_option Elab.async false

namespace Sys2Proof.Machine

variable {K : Comp → Prop}

theorem maskedWrite_keeps {s0 s : State} (hk0 : Keeps K s0 s) (k : Nat) (r : RegRow) (hostOnly : Nat) (v : Word) [Free K .regs] :
    Keeps K s0 (State.maskedWrite s k r hostOnly v) := by
  unfold State.maskedWrite
  extract_lets +onlyGivenNames rw_0
  clear_value rw_0
  extract_lets +onlyGivenNames w_1
  clear_value w_1
  apply setReg_keeps
  exact hk0

theorem plainWrite_keeps {s0 s : State} (hk0 : Keeps K s0 s) (q : Req) (a : Nat) (v : Word) [Free K .regs] :
    Keeps K s0 (State.plainWrite s q a v) := by
  unfold State.plainWrite
  split
  · exact hk0
  · refine keeps_ite ?_ ?_
    · exact hk0
    · apply maskedWrite_keeps
      exact hk0

theorem groomWrite_keeps {s0 s : State} (hk0 : Keeps K s0 s) (q : Req) (a : Nat) (v : Word) [Free K .regs] :
    Keeps K s0 (State.groomWrite s q a v) := by
  unfold State.groomWrite
  apply plainWrite_keeps
  exact hk0

theorem freeBit_keeps {s0 s : State} (h : Keeps K s0 s) (k : State → Bool → State)
    (hk : ∀ t b, Keeps K s0 t → Keeps K s0 (k t b)) [Free K .free] : Keeps K s0 (s.freeBit k) := hk _ _ (takeFree_keeps h _)

theorem rstWrite_keeps {s0 s : State} (hk0 : Keeps K s0 s) (q : Req) (v : Word) [Free K .capture] [Free K .circuits] [Free K .classifier] [Free K .client] [Free K .counters] [Free K .dispatch] [Free K .dram] [Free K .farrier] [Free K .free] [Free K .gates] [Free K .istore] [Free K .keys] [Free K .link] [Free K .lmem] [Free K .memories] [Free K .paddock] [Free K .pairing] [Free K .pairs] [Free K .power] [Free K .rd] [Free K .regions] [Free K .regs] [Free K .report] [Free K .resets] [Free K .rings] [Free K .sched] [Free K .shadows] [Free K .smem] [Free K .teams] [Free K .threads] [Free K .time] [Free K .xings] [∀ x, Free K (.line x)] :
    Keeps K s0 (State.rstWrite s q v) := by
  unfold State.rstWrite
  refine keeps_ite ?_ ?_
  · apply warmOp_keeps
    exact hk0
  · refine keeps_ite ?_ ?_
    · apply hostResetOp_keeps
      exact hk0
    · exact hk0

theorem vecCtrlWrite_keeps {s0 s : State} (hk0 : Keeps K s0 s) (q : Req) (vec : Nat) (v : Word) [Free K .counters] [Free K .regs] [Free K .report] :
    Keeps K s0 (State.vecCtrlWrite s q vec v) := by
  unfold State.vecCtrlWrite
  extract_lets +onlyGivenNames s1_0
  refine keeps_cut (v := s1_0) ?_ fun hs1_0 => ?_
  · subst s1_0
    apply plainWrite_keeps
    exact hk0
  clear_value s1_0
  refine keeps_ite ?_ ?_
  · apply msixSend_keeps
    exact hs1_0
  · exact hs1_0

theorem vecCfgWrite_keeps {s0 s : State} (hk0 : Keeps K s0 s) (q : Req) (vec : Nat) (v : Word) [Free K .counters] [Free K .regs] [Free K .report] :
    Keeps K s0 (State.vecCfgWrite s q vec v) := by
  unfold State.vecCfgWrite
  extract_lets +onlyGivenNames s1_0
  refine keeps_cut (v := s1_0) ?_ fun hs1_0 => ?_
  · subst s1_0
    apply plainWrite_keeps
    exact hk0
  clear_value s1_0
  refine keeps_ite ?_ ?_
  · apply msixSend_keeps
    exact hs1_0
  · exact hs1_0

theorem hostBlockWrite_keeps {s0 s : State} (hk0 : Keeps K s0 s) (q : Req) (a : Nat) (v : Word) [Free K .capture] [Free K .circuits] [Free K .classifier] [Free K .client] [Free K .counters] [Free K .dispatch] [Free K .dram] [Free K .farrier] [Free K .free] [Free K .gates] [Free K .istore] [Free K .keys] [Free K .link] [Free K .lmem] [Free K .memories] [Free K .paddock] [Free K .pairing] [Free K .pairs] [Free K .power] [Free K .rd] [Free K .regions] [Free K .regs] [Free K .report] [Free K .resets] [Free K .rings] [Free K .sched] [Free K .shadows] [Free K .smem] [Free K .teams] [Free K .threads] [Free K .time] [Free K .xings] [∀ x, Free K (.line x)] :
    Keeps K s0 (State.hostBlockWrite s q a v) := by
  unfold State.hostBlockWrite
  extract_lets +onlyGivenNames host0
  subst host0
  refine keeps_ite ?_ ?_
  · apply rstWrite_keeps
    exact hk0
  · refine keeps_ite ?_ ?_
    · apply faultClear_keeps
      exact hk0
    · refine keeps_ite ?_ ?_
      · extract_lets +onlyGivenNames r_1
        clear_value r_1
        extract_lets +onlyGivenNames o_2
        clear_value o_2
        refine keeps_ite ?_ ?_
        · dsimp only
          refine keeps_ite ?_ ?_
          · apply ringCfgWrite_keeps
            exact hk0
          · exact hk0
        · refine keeps_ite ?_ ?_
          · exact hk0
          · apply plainWrite_keeps
            exact hk0
      · refine keeps_ite ?_ ?_
        · dsimp only
          refine keeps_ite ?_ ?_
          · apply vecCtrlWrite_keeps
            exact hk0
          · exact hk0
        · refine keeps_ite ?_ ?_
          · dsimp only
            refine keeps_ite ?_ ?_
            · apply vecCfgWrite_keeps
              exact hk0
            · exact hk0
          · refine keeps_ite ?_ ?_
            · refine keeps_ite ?_ ?_
              · exact hk0
              · apply plainWrite_keeps
                exact hk0
            · refine keeps_ite ?_ ?_
              · dsimp only
                refine keeps_ite ?_ ?_
                · apply evtCfgWrite_keeps
                  exact hk0
                · exact hk0
              · refine keeps_ite ?_ ?_
                · dsimp only
                  refine keeps_ite ?_ ?_
                  · apply evtCiWrite_keeps
                    exact hk0
                  · exact hk0
                · refine keeps_ite ?_ ?_
                  · apply plainWrite_keeps
                    exact hk0
                  · apply plainWrite_keeps
                    exact hk0

theorem groomBlockWrite_keeps {s0 s : State} (hk0 : Keeps K s0 s) (q : Req) (a : Nat) (v : Word) [Free K .capture] [Free K .circuits] [Free K .classifier] [Free K .client] [Free K .counters] [Free K .dispatch] [Free K .dram] [Free K .farrier] [Free K .free] [Free K .gates] [Free K .istore] [Free K .keys] [Free K .lmem] [Free K .memories] [Free K .paddock] [Free K .pairing] [Free K .pairs] [Free K .power] [Free K .regions] [Free K .regs] [Free K .report] [Free K .resets] [Free K .rings] [Free K .sched] [Free K .smem] [Free K .teams] [Free K .threads] [Free K .time] [Free K .xings] [∀ x, Free K (.line x)] :
    Keeps K s0 (State.groomBlockWrite s q a v) := by
  unfold State.groomBlockWrite
  refine keeps_ite ?_ ?_
  · apply freeBit_keeps
    · exact hk0
    · intro y0 y1 hy2
      apply pwrCmd_keeps
      apply takeFree_keeps
      exact hy2
  · refine keeps_ite ?_ ?_
    · apply runMaskOp_keeps
      exact hk0
    · refine keeps_ite ?_ ?_
      · extract_lets +onlyGivenNames s1_3
        refine keeps_cut (v := s1_3) ?_ fun hs1_3 => ?_
        · subst s1_3
          apply plainWrite_keeps
          exact hk0
        clear_value s1_3
        refine keeps_mk ?_
        exact hs1_3
      · refine keeps_ite ?_ ?_
        · apply vcoreWrite_keeps
          exact hk0
        · refine keeps_ite ?_ ?_
          · refine keeps_ite ?_ ?_
            · apply grmLoad_keeps
              exact hk0
            · exact hk0
          · refine keeps_ite ?_ ?_
            · apply groomWrite_keeps
              exact hk0
            · refine keeps_ite ?_ ?_
              · extract_lets +onlyGivenNames side4
                clear_value side4
                extract_lets +onlyGivenNames k_5
                clear_value k_5
                refine keeps_ite ?_ ?_
                · apply rxpShadow_keeps
                  exact hk0
                · refine keeps_ite ?_ ?_
                  · apply rxpCommit_keeps
                    exact hk0
                  · exact hk0
              · apply plainWrite_keeps
                exact hk0

theorem lineBlockWrite_keeps {s0 s : State} (hk0 : Keeps K s0 s) (q : Req) (a : Nat) (v : Word) [Free K .capture] [Free K .circuits] [Free K .counters] [Free K .free] [Free K .memories] [Free K .paddock] [Free K .pairing] [Free K .regs] [Free K .report] [Free K .time] [Free K .xings] [∀ x, Free K (.line x)] :
    Keeps K s0 (State.lineBlockWrite s q a v) := by
  unfold State.lineBlockWrite
  extract_lets +onlyGivenNames x_0
  clear_value x_0
  extract_lets +onlyGivenNames o_1
  clear_value o_1
  refine keeps_ite ?_ ?_
  · apply linModeWrite_keeps
    exact hk0
  · refine keeps_ite ?_ ?_
    · apply feCfgWrite_keeps
      exact hk0
    · refine keeps_ite ?_ ?_
      · apply dspCfgWrite_keeps
        exact hk0
      · refine keeps_ite ?_ ?_
        · refine keeps_ite ?_ ?_
          · apply tapWrite_keeps
            exact hk0
          · exact hk0
        · refine keeps_ite ?_ ?_
          · apply peqCtrlWrite_keeps
            exact hk0
          · refine keeps_ite ?_ ?_
            · apply ownerWrite_keeps
              · exact hk0
              · intro y2 hy3
                apply plainWrite_keeps
                exact hy3
            · refine keeps_ite ?_ ?_
              · apply i2cCfgWrite_keeps
                exact hk0
              · refine keeps_ite ?_ ?_
                · apply i2cCmdWrite_keeps
                  exact hk0
                · refine keeps_ite ?_ ?_
                  · apply odcCfgWrite_keeps
                    exact hk0
                  · refine keeps_ite ?_ ?_
                    · apply pidWrite_keeps
                      exact hk0
                    · refine keeps_ite ?_ ?_
                      · apply msgOwnerWrite_keeps
                        · exact hk0
                        · intro y4 hy5
                          apply actCmd_keeps
                          exact hy5
                      · refine keeps_ite ?_ ?_
                        · apply msgOwnerWrite_keeps
                          · exact hk0
                          · intro y6 hy7
                            apply eqdWriteOp_keeps
                            exact hy7
                        · refine keeps_ite ?_ ?_
                          · apply msgOwnerWrite_keeps
                            · exact hk0
                            · intro y8 hy9
                              apply msgPush_keeps
                              exact hy9
                          · refine keeps_ite ?_ ?_
                            · apply msgOwnerWrite_keeps
                              · exact hk0
                              · intro y10 hy11
                                apply setReg_keeps
                                exact hy11
                            · refine keeps_ite ?_ ?_
                              · apply msgOwnerWrite_keeps
                                · exact hk0
                                · intro y12 hy13
                                  apply plainWrite_keeps
                                  exact hy13
                              · refine keeps_ite ?_ ?_
                                · apply msgOwnerWrite_keeps
                                  · exact hk0
                                  · intro y14 hy15
                                    apply stageReg_keeps
                                    exact hy15
                                · refine keeps_ite ?_ ?_
                                  · refine keeps_ite ?_ ?_
                                    · apply rogueClearOp_keeps
                                      exact hk0
                                    · exact hk0
                                  · refine keeps_ite ?_ ?_
                                    · refine keeps_ite ?_ ?_
                                      · apply unlockWrite_keeps
                                        exact hk0
                                      · exact hk0
                                    · apply plainWrite_keeps
                                      exact hk0

theorem linkBlockWrite_keeps {s0 s : State} (hk0 : Keeps K s0 s) (q : Req) (a : Nat) (v : Word) [Free K .capture] [Free K .circuits] [Free K .counters] [Free K .free] [Free K .memories] [Free K .paddock] [Free K .pairing] [Free K .regs] [Free K .report] [Free K .time] [∀ x, Free K (.line x)] :
    Keeps K s0 (State.linkBlockWrite s q a v) := by
  unfold State.linkBlockWrite
  refine keeps_ite ?_ ?_
  · apply pairingWrite_keeps
    exact hk0
  · refine keeps_ite ?_ ?_
    · apply prtCommand_keeps
      exact hk0
    · refine keeps_ite ?_ ?_
      · apply plainWrite_keeps
        exact hk0
      · refine keeps_ite ?_ ?_
        · apply harCfgWrite_keeps
          exact hk0
        · apply harW_keeps
          · exact hk0
          · intro y0 hy1
            refine keeps_ite ?_ ?_
            · apply cktCtrlWrite_keeps
              exact hy1
            · refine keeps_ite ?_ ?_
              · apply cmWrite_keeps
                exact hy1
              · refine keeps_ite ?_ ?_
                · apply cmWrite_keeps
                  exact hy1
                · refine keeps_ite ?_ ?_
                  · refine keeps_ite ?_ ?_
                    · apply trainStart_keeps
                      exact hy1
                    · exact hy1
                  · refine keeps_ite ?_ ?_
                    · apply eyeWrite_keeps
                      exact hy1
                    · apply plainWrite_keeps
                      exact hy1

theorem gateEntryWrite_keeps {s0 s : State} (hk0 : Keeps K s0 s) (word : Nat) (v : Word) [Free K .gates] :
    Keeps K s0 (State.gateEntryWrite s word v) := by
  unfold State.gateEntryWrite
  extract_lets +onlyGivenNames g_0
  clear_value g_0
  refine keeps_ite ?_ ?_
  · exact hk0
  · refine keeps_mk ?_
    exact hk0

theorem recordClear_keeps {s0 s : State} (hk0 : Keeps K s0 s) (v : Word) (words : List Nat) [Free K .regs] :
    Keeps K s0 (State.recordClear s v words) := by
  unfold State.recordClear
  refine keeps_ite ?_ ?_
  · refine keeps_foldl _ ?_ ?_
    · exact hk0
    · intro y0 y1 hy2
      apply setReg_keeps
      exact hy2
  · exact hk0

theorem teamWrite_keeps {s0 s : State} (hk0 : Keeps K s0 s) (t o : Nat) (v : Word) [Free K .istore] [Free K .lmem] [Free K .regs] [Free K .smem] [Free K .teams] [Free K .threads] :
    Keeps K s0 (State.teamWrite s t o v) := by
  unfold State.teamWrite
  refine keeps_ite ?_ ?_
  · refine keeps_ite ?_ ?_
    · exact hk0
    · apply plainWrite_keeps
      exact hk0
  · refine keeps_ite ?_ ?_
    · apply gaitFloorWrite_keeps
      exact hk0
    · refine keeps_ite ?_ ?_
      · apply loadCmdWrite_keeps
        exact hk0
      · refine keeps_ite ?_ ?_
        · apply sampStatWrite_keeps
          exact hk0
        · refine keeps_ite ?_ ?_
          · apply recordClear_keeps
            exact hk0
          · apply plainWrite_keeps
            exact hk0

theorem coreBlockWrite_keeps {s0 s : State} (hk0 : Keeps K s0 s) (q : Req) (a : Nat) (v : Word) [Free K .classifier] [Free K .counters] [Free K .gates] [Free K .istore] [Free K .lmem] [Free K .regs] [Free K .report] [Free K .sched] [Free K .smem] [Free K .teams] [Free K .threads] [Free K .time] :
    Keeps K s0 (State.coreBlockWrite s q a v) := by
  unfold State.coreBlockWrite
  refine keeps_ite ?_ ?_
  · apply clsCfgWrite_keeps
    exact hk0
  · refine keeps_ite ?_ ?_
    · refine keeps_ite ?_ ?_
      · exact hk0
      · apply plainWrite_keeps
        exact hk0
    · refine keeps_ite ?_ ?_
      · apply clsCommand_keeps
        exact hk0
      · refine keeps_ite ?_ ?_
        · refine keeps_ite ?_ ?_
          · apply commit_keeps
            exact hk0
          · exact hk0
        · refine keeps_ite ?_ ?_
          · refine keeps_ite ?_ ?_
            · apply teamWrite_keeps
              exact hk0
            · exact hk0
          · refine keeps_ite ?_ ?_
            · apply queueCfgWrite_keeps
              exact hk0
            · refine keeps_ite ?_ ?_
              · apply bucketWrite_keeps
                exact hk0
              · refine keeps_ite ?_ ?_
                · extract_lets +onlyGivenNames g_0
                  clear_value g_0
                  refine keeps_ite ?_ ?_
                  · apply gateCtrlWrite_keeps
                    exact hk0
                  · refine keeps_ite ?_ ?_
                    · exact hk0
                    · apply plainWrite_keeps
                      exact hk0
                · refine keeps_ite ?_ ?_
                  · apply gateEntryWrite_keeps
                    exact hk0
                  · apply plainWrite_keeps
                    exact hk0

theorem timeBlockWrite_keeps {s0 s : State} (hk0 : Keeps K s0 s) (q : Req) (a : Nat) (v : Word) [Free K .counters] [Free K .free] [Free K .pairing] [Free K .regs] [Free K .report] [Free K .time] :
    Keeps K s0 (State.timeBlockWrite s q a v) := by
  unfold State.timeBlockWrite
  refine keeps_ite ?_ ?_
  · apply timCfgWrite_keeps
    exact hk0
  · refine keeps_ite ?_ ?_
    · refine keeps_ite ?_ ?_
      · apply todSetOp_keeps
        exact hk0
      · exact hk0
    · refine keeps_ite ?_ ?_
      · refine keeps_ite ?_ ?_
        · exact hk0
        · refine keeps_ite ?_ ?_
          · refine keeps_ite ?_ ?_
            · apply todApplyOp_keeps
              exact hk0
            · exact hk0
          · apply plainWrite_keeps
            exact hk0
      · refine keeps_ite ?_ ?_
        · apply ppsWrite_keeps
          exact hk0
        · refine keeps_ite ?_ ?_
          · apply capInWrite_keeps
            exact hk0
          · refine keeps_ite ?_ ?_
            · refine keeps_ite ?_ ?_
              · apply cmpWrite_keeps
                exact hk0
              · refine keeps_ite ?_ ?_
                · apply cmpTargetWrite_keeps
                  exact hk0
                · exact hk0
            · apply plainWrite_keeps
              exact hk0

theorem clientBlockWrite_keeps {s0 s : State} (hk0 : Keeps K s0 s) (q : Req) (a : Nat) (v : Word) [Free K .client] [Free K .counters] [Free K .memories] [Free K .paddock] [Free K .regs] [Free K .report] [Free K .sched] [Free K .time] [Free K .xings] :
    Keeps K s0 (State.clientBlockWrite s q a v) := by
  unfold State.clientBlockWrite
  refine keeps_ite ?_ ?_
  · apply cliCfgWrite_keeps
    exact hk0
  · refine keeps_ite ?_ ?_
    · extract_lets +onlyGivenNames p_0
      clear_value p_0
      extract_lets +onlyGivenNames o_1
      clear_value o_1
      refine keeps_ite ?_ ?_
      · exact hk0
      · refine keeps_ite ?_ ?_
        · apply portCfgWrite_keeps
          exact hk0
        · refine keeps_ite ?_ ?_
          · apply pmpWrite_keeps
            exact hk0
          · refine keeps_ite ?_ ?_
            · apply ucastLoWrite_keeps
              exact hk0
            · refine keeps_ite ?_ ?_
              · apply ucastCommit_keeps
                exact hk0
              · apply plainWrite_keeps
                exact hk0
    · apply plainWrite_keeps
      exact hk0

theorem memBlockWrite_keeps {s0 s : State} (hk0 : Keeps K s0 s) (q : Req) (a : Nat) (v : Word) [Free K .capture] [Free K .counters] [Free K .dram] [Free K .free] [Free K .memories] [Free K .paddock] [Free K .pairing] [Free K .regs] [Free K .report] [Free K .rings] [Free K .sched] :
    Keeps K s0 (State.memBlockWrite s q a v) := by
  unfold State.memBlockWrite
  refine keeps_ite ?_ ?_
  · apply memModeWrite_keeps
    exact hk0
  · refine keeps_ite ?_ ?_
    · apply chCfgWrite_keeps
      exact hk0
    · refine keeps_ite ?_ ?_
      · apply spillWrite_keeps
        exact hk0
      · refine keeps_ite ?_ ?_
        · apply recordClear_keeps
          exact hk0
        · refine keeps_ite ?_ ?_
          · apply flipWrite_keeps
            exact hk0
          · refine keeps_ite ?_ ?_
            · apply mapWrite_keeps
              exact hk0
            · refine keeps_ite ?_ ?_
              · apply mapWrite_keeps
                exact hk0
              · apply plainWrite_keeps
                exact hk0

theorem entropyWrite_keeps {s0 s : State} (hk0 : Keeps K s0 s) (v : Word) [Free K .free] [Free K .regs] :
    Keeps K s0 (State.entropyWrite s v) := by
  unfold State.entropyWrite
  refine keeps_ite ?_ ?_
  · exact hk0
  · apply freeBit_keeps
    · exact hk0
    · intro y0 y1 hy2
      refine keeps_ite ?_ ?_
      · apply setFlag_keeps
        apply setFlag_keeps
        exact hy2
      · apply setFlag_keeps
        exact hy2

theorem secBlockWrite_keeps {s0 s : State} (hk0 : Keeps K s0 s) (q : Req) (a : Nat) (v : Word) [Free K .counters] [Free K .free] [Free K .keys] [Free K .regs] [Free K .report] [Free K .rings] [Free K .sched] [Free K .threads] [∀ x, Free K (.line x)] :
    Keeps K s0 (State.secBlockWrite s q a v) := by
  unfold State.secBlockWrite
  refine keeps_ite ?_ ?_
  · apply entropyWrite_keeps
    exact hk0
  · refine keeps_ite ?_ ?_
    · refine keeps_ite ?_ ?_
      · exact hk0
      · apply setKeyStaged_keeps
        exact hk0
    · refine keeps_ite ?_ ?_
      · apply keyCommand_keeps
        exact hk0
      · refine keeps_ite ?_ ?_
        · refine keeps_ite ?_ ?_
          · exact hk0
          · apply setUnwStaged_keeps
            exact hk0
        · refine keeps_ite ?_ ?_
          · apply unwCommand_keeps
            exact hk0
          · refine keeps_ite ?_ ?_
            · apply lswWrite_keeps
              exact hk0
            · refine keeps_ite ?_ ?_
              · refine keeps_ite ?_ ?_
                · apply plainWrite_keeps
                  exact hk0
                · exact hk0
              · refine keeps_ite ?_ ?_
                · apply lineKeyWrite_keeps
                  exact hk0
                · refine keeps_ite ?_ ?_
                  · extract_lets +onlyGivenNames u_0
                    clear_value u_0
                    extract_lets +onlyGivenNames o_1
                    clear_value o_1
                    refine keeps_ite ?_ ?_
                    · apply chkFeed_keeps
                      exact hk0
                    · refine keeps_ite ?_ ?_
                      · apply chkCtrl_keeps
                        exact hk0
                      · refine keeps_ite ?_ ?_
                        · apply setFlag_keeps
                          exact hk0
                        · apply plainWrite_keeps
                          exact hk0
                  · apply plainWrite_keeps
                    exact hk0

theorem obsBlockWrite_keeps {s0 s : State} (hk0 : Keeps K s0 s) (q : Req) (a : Nat) (v : Word) [Free K .capture] [Free K .counters] [Free K .farrier] [Free K .free] [Free K .keys] [Free K .regs] [Free K .report] [Free K .rings] [Free K .sched] [Free K .threads] [Free K .time] [∀ x, Free K (.line x)] :
    Keeps K s0 (State.obsBlockWrite s q a v) := by
  unfold State.obsBlockWrite
  refine keeps_ite ?_ ?_
  · apply capCfgWrite_keeps
    exact hk0
  · refine keeps_ite ?_ ?_
    · refine keeps_ite ?_ ?_
      · exact hk0
      · apply plainWrite_keeps
        exact hk0
    · refine keeps_ite ?_ ?_
      · apply capStatWrite_keeps
        exact hk0
      · refine keeps_ite ?_ ?_
        · apply capRdWrite_keeps
          exact hk0
        · refine keeps_ite ?_ ?_
          · apply stbCfgWrite_keeps
            exact hk0
          · refine keeps_ite ?_ ?_
            · apply stbNow_keeps
              exact hk0
            · refine keeps_ite ?_ ?_
              · apply stbArmWrite_keeps
                exact hk0
              · refine keeps_ite ?_ ?_
                · refine keeps_ite ?_ ?_
                  · apply upageWrite_keeps
                    exact hk0
                  · exact hk0
                · refine keeps_ite ?_ ?_
                  · refine keeps_ite ?_ ?_
                    · apply freeBit_keeps
                      · exact hk0
                      · intro y0 y1 hy2
                        apply freeBit_keeps
                        · exact hy2
                        · intro y3 y4 hy5
                          apply farCommand_keeps
                          exact hy5
                    · exact hk0
                  · refine keeps_ite ?_ ?_
                    · refine keeps_ite ?_ ?_
                      · apply fuseCommand_keeps
                        exact hk0
                      · exact hk0
                    · refine keeps_ite ?_ ?_
                      · refine keeps_ite ?_ ?_
                        · apply recordClear_keeps
                          exact hk0
                        · exact hk0
                      · refine keeps_ite ?_ ?_
                        · exact hk0
                        · apply plainWrite_keeps
                          exact hk0

theorem regWrite_keeps {s0 s : State} (hk0 : Keeps K s0 s) (q : Req) (a : Nat) (v : Word) [Free K .capture] [Free K .circuits] [Free K .classifier] [Free K .client] [Free K .counters] [Free K .dispatch] [Free K .dram] [Free K .farrier] [Free K .free] [Free K .gates] [Free K .istore] [Free K .keys] [Free K .link] [Free K .lmem] [Free K .memories] [Free K .paddock] [Free K .pairing] [Free K .pairs] [Free K .power] [Free K .rd] [Free K .regions] [Free K .regs] [Free K .report] [Free K .resets] [Free K .rings] [Free K .sched] [Free K .shadows] [Free K .smem] [Free K .teams] [Free K .threads] [Free K .time] [Free K .xings] [∀ x, Free K (.line x)] :
    Keeps K s0 (State.regWrite s q a v) := by
  unfold State.regWrite
  refine keeps_ite ?_ ?_
  · apply hostBlockWrite_keeps
    exact hk0
  · refine keeps_ite ?_ ?_
    · apply groomBlockWrite_keeps
      exact hk0
    · refine keeps_ite ?_ ?_
      · apply lineBlockWrite_keeps
        exact hk0
      · refine keeps_ite ?_ ?_
        · apply linkBlockWrite_keeps
          exact hk0
        · refine keeps_ite ?_ ?_
          · apply coreBlockWrite_keeps
            exact hk0
          · refine keeps_ite ?_ ?_
            · apply timeBlockWrite_keeps
              exact hk0
            · refine keeps_ite ?_ ?_
              · apply clientBlockWrite_keeps
                exact hk0
              · refine keeps_ite ?_ ?_
                · apply memBlockWrite_keeps
                  exact hk0
                · refine keeps_ite ?_ ?_
                  · apply secBlockWrite_keeps
                    exact hk0
                  · apply obsBlockWrite_keeps
                    exact hk0

theorem busWrite_keeps {s0 s : State} (hk0 : Keeps K s0 s) (q : Req) (a : Nat) (v : Word) (silent : Bool) [Free K .capture] [Free K .circuits] [Free K .classifier] [Free K .client] [Free K .counters] [Free K .dispatch] [Free K .dram] [Free K .farrier] [Free K .free] [Free K .gates] [Free K .istore] [Free K .keys] [Free K .link] [Free K .lmem] [Free K .memories] [Free K .paddock] [Free K .pairing] [Free K .pairs] [Free K .power] [Free K .rd] [Free K .regions] [Free K .regs] [Free K .report] [Free K .resets] [Free K .rings] [Free K .sched] [Free K .shadows] [Free K .smem] [Free K .teams] [Free K .threads] [Free K .time] [Free K .xings] [∀ x, Free K (.line x)] :
    Keeps K s0 (State.busWrite s q a v silent) := by
  unfold State.busWrite
  apply guardW_keeps
  · exact hk0
  · intro y0 hy1
    refine keeps_ite ?_ ?_
    · apply reportUnavailable_keeps
      exact hy1
    · apply regWrite_keeps
      exact hy1

theorem freqRead_keeps {s0 s : State} (hk0 : Keeps K s0 s) [Free K .free] :
    Keeps K s0 (State.freqRead s).2 := by
  unfold State.freqRead
  refine keeps_ite2 ?_ ?_
  · refine keeps_pair ?_
    exact hk0
  · refine keeps_ite2 ?_ ?_
    · refine keeps_pair ?_
      exact hk0
    · refine keeps_pair ?_
      apply takeFree_keeps
      exact hk0

theorem plainRead_keeps {s0 s : State} (hk0 : Keeps K s0 s) (q : Req) (a : Nat) [Free K .regs] :
    Keeps K s0 (State.plainRead s q a).2 := by
  unfold State.plainRead
  split
  · refine keeps_pair ?_
    exact hk0
  · extract_lets +onlyGivenNames k_0
    clear_value k_0
    extract_lets +onlyGivenNames w_1
    clear_value w_1
    refine keeps_pair ?_
    refine keeps_ite ?_ ?_
    · exact hk0
    · apply setReg_keeps
      exact hk0

theorem verStatRead_keeps {s0 s : State} (hk0 : Keeps K s0 s) (q : Req) [Free K .regs] :
    Keeps K s0 (State.verStatRead s q).2 := by
  unfold State.verStatRead
  extract_lets +onlyGivenNames k_0
  clear_value k_0
  refine keeps_pair ?_
  apply setReg_keeps
  exact hk0

theorem railRead_keeps {s0 s : State} (hk0 : Keeps K s0 s) [Free K .free] :
    Keeps K s0 (State.railRead s).2 := by
  unfold State.railRead
  refine keeps_pair ?_
  apply takeFree_keeps
  exact hk0

theorem regRead_keeps {s0 s : State} (hk0 : Keeps K s0 s) (q : Req) (a : Nat) [Free K .free] [Free K .regs] [Free K .shadows] [Free K .time] :
    Keeps K s0 (State.regRead s q a).2 := by
  unfold State.regRead
  refine keeps_ite2 ?_ ?_
  · refine keeps_pair ?_
    exact hk0
  · refine keeps_ite2 ?_ ?_
    · refine keeps_pair ?_
      exact hk0
    · split
      · refine keeps_pair ?_
        apply setShadow_keeps
        exact hk0
      · refine keeps_ite2 ?_ ?_
        · refine keeps_pair ?_
          exact hk0
        · refine keeps_ite2 ?_ ?_
          · refine keeps_pair ?_
            exact hk0
          · refine keeps_ite2 ?_ ?_
            · refine keeps_pair ?_
              apply todLatch_keeps
              exact hk0
            · refine keeps_ite2 ?_ ?_
              · apply freqRead_keeps
                exact hk0
              · refine keeps_ite2 ?_ ?_
                · apply railRead_keeps
                  exact hk0
                · refine keeps_ite2 ?_ ?_
                  · apply verStatRead_keeps
                    exact hk0
                  · split
                    · refine keeps_pair ?_
                      apply tsPop_keeps
                      exact hk0
                    · refine keeps_pair ?_
                      exact hk0
                    · refine keeps_pair ?_
                      exact hk0
                    · refine keeps_pair ?_
                      exact hk0
                    · apply plainRead_keeps
                      exact hk0

theorem readUe_keeps {s0 s : State} (hk0 : Keeps K s0 s) (q : Req) (a : Nat) [Free K .counters] [Free K .free] [Free K .link] [Free K .regs] [Free K .report] :
    Keeps K s0 (State.readUe s q a) := by
  unfold State.readUe
  extract_lets +onlyGivenNames g_0
  refine keeps_cut (v := g_0.2) ?_ fun hg_0 => ?_
  · subst g_0
    apply takeFree_keeps
    exact hk0
  clear_value g_0
  extract_lets +onlyGivenNames s1_1
  refine keeps_cut (v := s1_1) ?_ fun hs1_1 => ?_
  · subst s1_1
    apply raise_keeps
    exact hg_0
  clear_value s1_1
  apply memUeChip_keeps
  refine keeps_ite ?_ ?_
  · apply aerLog_keeps
    exact hs1_1
  · exact hs1_1

theorem pageRead_keeps {s0 s : State} (hk0 : Keeps K s0 s) (a : Nat) [Free K .free] :
    Keeps K s0 (State.pageRead s a).2 := by
  unfold State.pageRead
  refine keeps_ite2 ?_ ?_
  · refine keeps_pair ?_
    exact hk0
  · refine keeps_ite2 ?_ ?_
    · refine keeps_pair ?_
      exact hk0
    · split
      · refine keeps_pair ?_
        exact hk0
      · refine keeps_pair ?_
        apply takeFree_keeps
        exact hk0

theorem busRead_keeps {s0 s : State} (hk0 : Keeps K s0 s) (q : Req) (a : Nat) (fact : ReadFact) [Free K .counters] [Free K .free] [Free K .link] [Free K .regs] [Free K .report] [Free K .shadows] [Free K .time] :
    Keeps K s0 (State.busRead s q a fact).2 := by
  unfold State.busRead
  refine keeps_ite2 ?_ ?_
  · refine keeps_pair ?_
    apply pageRead_keeps
    exact hk0
  · refine keeps_ite2 ?_ ?_
    · refine keeps_pair ?_
      exact hk0
    · split
      · refine keeps_pair ?_
        apply reportUnavailable_keeps
        exact hk0
      · split
        · refine keeps_pair ?_
          apply regRead_keeps
          exact hk0
        · refine keeps_pair ?_
          apply reportUnavailable_keeps
          exact hk0
        · refine keeps_pair ?_
          apply readUe_keeps
          exact hk0

theorem readOp_keeps {s0 s : State} (hk0 : Keeps K s0 s) (q : Req) (a : Nat) (fact : ReadFact) [Free K .counters] [Free K .free] [Free K .link] [Free K .rd] [Free K .regs] [Free K .report] [Free K .shadows] [Free K .time] :
    Keeps K s0 (State.readOp s q a fact) := by
  unfold State.readOp
  refine keeps_ite ?_ ?_
  · extract_lets +onlyGivenNames r_0
    refine keeps_cut (v := r_0.2) ?_ fun hr_0 => ?_
    · subst r_0
      apply busRead_keeps
      exact hk0
    clear_value r_0
    extract_lets +onlyGivenNames _1
    refine keeps_cut (v := _1) ?_ fun h_1 => ?_
    · subst _1
      exact hr_0
    clear_value _1
    refine keeps_mk ?_
    exact h_1
  · exact hk0

theorem execRegisterWrite_keeps (q : Req) (addr : Nat) (v : Word) (silent : Bool) (s : State) :
    Answers [.capture, .circuits, .classifier, .client, .counters, .dispatch, .dram, .farrier, .free, .gates, .istore, .keys, .link, .lmem, .memories, .paddock, .pairing, .pairs, .power, .rd, .regions, .regs, .report, .resets, .rings, .sched, .shadows, .smem, .teams, .threads, .time, .xings, .line .a, .line .b] s (execRegisterWrite q addr v silent s) := by
  refine answers_of fun K n => ⟨_, rfl, ?_⟩
  have i0 : Free K .capture := n _ (by simp)
  have i1 : Free K .circuits := n _ (by simp)
  have i2 : Free K .classifier := n _ (by simp)
  have i3 : Free K .client := n _ (by simp)
  have i4 : Free K .counters := n _ (by simp)
  have i5 : Free K .dispatch := n _ (by simp)
  have i6 : Free K .dram := n _ (by simp)
  have i7 : Free K .farrier := n _ (by simp)
  have i8 : Free K .free := n _ (by simp)
  have i9 : Free K .gates := n _ (by simp)
  have i10 : Free K .istore := n _ (by simp)
  have i11 : Free K .keys := n _ (by simp)
  have i12 : Free K .link := n _ (by simp)
  have i13 : Free K .lmem := n _ (by simp)
  have i14 : Free K .memories := n _ (by simp)
  have i15 : Free K .paddock := n _ (by simp)
  have i16 : Free K .pairing := n _ (by simp)
  have i17 : Free K .pairs := n _ (by simp)
  have i18 : Free K .power := n _ (by simp)
  have i19 : Free K .rd := n _ (by simp)
  have i20 : Free K .regions := n _ (by simp)
  have i21 : Free K .regs := n _ (by simp)
  have i22 : Free K .report := n _ (by simp)
  have i23 : Free K .resets := n _ (by simp)
  have i24 : Free K .rings := n _ (by simp)
  have i25 : Free K .sched := n _ (by simp)
  have i26 : Free K .shadows := n _ (by simp)
  have i27 : Free K .smem := n _ (by simp)
  have i28 : Free K .teams := n _ (by simp)
  have i29 : Free K .threads := n _ (by simp)
  have i30 : Free K .time := n _ (by simp)
  have i31 : Free K .xings := n _ (by simp)
  have i32 : ∀ x, Free K (.line x) := fun x => by cases x <;> exact n _ (by simp)
  have hk0 := Keeps.refl (K := K) s
  apply busWrite_keeps
  exact hk0

theorem execRegisterRead_keeps (q : Req) (addr : Nat) (fact : ReadFact) (s : State) :
    Answers [.counters, .free, .link, .rd, .regs, .report, .shadows, .time] s (execRegisterRead q addr fact s) := by
  refine answers_of fun K n => ⟨_, rfl, ?_⟩
  have i0 : Free K .counters := n _ (by simp)
  have i1 : Free K .free := n _ (by simp)
  have i2 : Free K .link := n _ (by simp)
  have i3 : Free K .rd := n _ (by simp)
  have i4 : Free K .regs := n _ (by simp)
  have i5 : Free K .report := n _ (by simp)
  have i6 : Free K .shadows := n _ (by simp)
  have i7 : Free K .time := n _ (by simp)
  have hk0 := Keeps.refl (K := K) s
  apply readOp_keeps
  exact hk0

theorem execCounterLoRead_keeps (q : Req) (addr : Nat) (s : State) :
    Answers [.counters, .free, .link, .rd, .regs, .report, .shadows, .time] s (execCounterLoRead q addr s) := by
  refine answers_of fun K n => ⟨_, rfl, ?_⟩
  have i0 : Free K .counters := n _ (by simp)
  have i1 : Free K .free := n _ (by simp)
  have i2 : Free K .link := n _ (by simp)
  have i3 : Free K .rd := n _ (by simp)
  have i4 : Free K .regs := n _ (by simp)
  have i5 : Free K .report := n _ (by simp)
  have i6 : Free K .shadows := n _ (by simp)
  have i7 : Free K .time := n _ (by simp)
  have hk0 := Keeps.refl (K := K) s
  apply readOp_keeps
  exact hk0

theorem execReadClear_keeps (q : Req) (addr : Nat) (s : State) :
    Answers [.counters, .free, .link, .rd, .regs, .report, .shadows, .time] s (execReadClear q addr s) := by
  refine answers_of fun K n => ⟨_, rfl, ?_⟩
  have i0 : Free K .counters := n _ (by simp)
  have i1 : Free K .free := n _ (by simp)
  have i2 : Free K .link := n _ (by simp)
  have i3 : Free K .rd := n _ (by simp)
  have i4 : Free K .regs := n _ (by simp)
  have i5 : Free K .report := n _ (by simp)
  have i6 : Free K .shadows := n _ (by simp)
  have i7 : Free K .time := n _ (by simp)
  have hk0 := Keeps.refl (K := K) s
  apply readOp_keeps
  exact hk0

theorem execTodNsRead_keeps (q : Req) (s : State) :
    Answers [.counters, .free, .link, .rd, .regs, .report, .shadows, .time] s (execTodNsRead q s) := by
  refine answers_of fun K n => ⟨_, rfl, ?_⟩
  have i0 : Free K .counters := n _ (by simp)
  have i1 : Free K .free := n _ (by simp)
  have i2 : Free K .link := n _ (by simp)
  have i3 : Free K .rd := n _ (by simp)
  have i4 : Free K .regs := n _ (by simp)
  have i5 : Free K .report := n _ (by simp)
  have i6 : Free K .shadows := n _ (by simp)
  have i7 : Free K .time := n _ (by simp)
  have hk0 := Keeps.refl (K := K) s
  apply readOp_keeps
  exact hk0

theorem execTsqPop_keeps (q : Req) (k : Fin 8) (s : State) :
    Answers [.counters, .free, .link, .rd, .regs, .report, .shadows, .time] s (execTsqPop q k s) := by
  refine answers_of fun K n => ⟨_, rfl, ?_⟩
  have i0 : Free K .counters := n _ (by simp)
  have i1 : Free K .free := n _ (by simp)
  have i2 : Free K .link := n _ (by simp)
  have i3 : Free K .rd := n _ (by simp)
  have i4 : Free K .regs := n _ (by simp)
  have i5 : Free K .report := n _ (by simp)
  have i6 : Free K .shadows := n _ (by simp)
  have i7 : Free K .time := n _ (by simp)
  have hk0 := Keeps.refl (K := K) s
  apply readOp_keeps
  exact hk0

theorem execCaptureQueuePop_keeps (q : Req) (n : Fin 2) (s : State) :
    Answers [.counters, .free, .link, .rd, .regs, .report, .shadows, .time] s (execCaptureQueuePop q n s) := by
  refine answers_of fun K n => ⟨_, rfl, ?_⟩
  have i0 : Free K .counters := n _ (by simp)
  have i1 : Free K .free := n _ (by simp)
  have i2 : Free K .link := n _ (by simp)
  have i3 : Free K .rd := n _ (by simp)
  have i4 : Free K .regs := n _ (by simp)
  have i5 : Free K .report := n _ (by simp)
  have i6 : Free K .shadows := n _ (by simp)
  have i7 : Free K .time := n _ (by simp)
  have hk0 := Keeps.refl (K := K) s
  apply readOp_keeps
  exact hk0

end Sys2Proof.Machine
end

