-- ==== Sys2Proof/Laws/KeepsIsaBase.lean ====
section
/-! SUPPORT. What the operations of Machine/IsaBase.lean keep. -/

-- One proof at a time: in the package as one text, proofs that wait for each other would each hold a thread.
set_option Elab.async false

namespace Sys2Proof.Machine

variable {K : Comp → Prop}

theorem setPc_keeps {s0 s : State} (hk0 : Keeps K s0 s) (k pc : Nat) [Free K .regs] [Free K .threads] :
    Keeps K s0 (State.setPc s k pc) := by
  unfold State.setPc
  apply setThread_keeps
  exact hk0

theorem lmemStore_keeps {s0 s : State} (h : Keeps K s0 s) (c o : Nat) (bs : List Byte) [Free K .lmem] : Keeps K s0 (s.lmemStore c o bs) := by
  induction bs generalizing s o with
  | nil => exact h
  | cons b bs ih => exact ih (keeps_ite h (lmemPut_keeps h ..)) _

theorem areaPut_keeps {s0 s : State} (hk0 : Keeps K s0 s) (k : Nat) (a : Nat × Nat) (b : List Byte) [Free K .lmem] [Free K .regs] [Free K .smem] :
    Keeps K s0 (State.areaPut s k a b) := by
  unfold State.areaPut
  refine keeps_ite ?_ ?_
  · apply flipChip_keeps
    apply lmemStore_keeps
    exact hk0
  · apply flipChip_keeps
    apply smemPut_keeps
    exact hk0

theorem sampStore_keeps {s0 s : State} (hk0 : Keeps K s0 s) (t rec : Nat) [Free K .counters] [Free K .free] [Free K .regs] [Free K .report] :
    Keeps K s0 (State.sampStore s t rec) := by
  unfold State.sampStore
  extract_lets +onlyGivenNames i_0
  clear_value i_0
  refine keeps_ite ?_ ?_
  · apply addReg_keeps
    exact hk0
  · extract_lets +onlyGivenNames wp_1
    clear_value wp_1
    extract_lets +onlyGivenNames s1_2
    refine keeps_cut (v := s1_2) ?_ fun hs1_2 => ?_
    · subst s1_2
      apply setReg_keeps
      apply setReg_keeps
      exact hk0
    clear_value s1_2
    refine keeps_ite ?_ ?_
    · apply setF_keeps
      exact hs1_2
    · refine keeps_ite ?_ ?_
      · extract_lets +onlyGivenNames w_3
        refine keeps_cut (v := w_3.2) ?_ fun hw_3 => ?_
        · subst w_3
          apply takeFree_keeps
          exact hs1_2
        clear_value w_3
        apply raise_keeps
        apply setF_keeps
        apply setFlag_keeps
        exact hw_3
      · apply raiseLim_keeps
        apply setFlag_keeps
        apply setF_keeps
        exact hs1_2

theorem sample_keeps {s0 s : State} (hk0 : Keeps K s0 s) (t : Tid) (w index lat : Nat) (mem taken exp fault : Bool) [Free K .counters] [Free K .free] [Free K .regs] [Free K .report] [Free K .teams] :
    Keeps K s0 (State.sample s t w index lat mem taken exp fault) := by
  unfold State.sample
  extract_lets +onlyGivenNames tm_0
  clear_value tm_0
  extract_lets +onlyGivenNames i_1
  clear_value i_1
  refine keeps_ite ?_ ?_
  · exact hk0
  · refine keeps_ite ?_ ?_
    · refine keeps_ite ?_ ?_
      · apply sampStore_keeps
        exact hk0
      · exact hk0
    · extract_lets +onlyGivenNames p_2
      clear_value p_2
      extract_lets +onlyGivenNames n_3
      clear_value n_3
      refine keeps_ite ?_ ?_
      · apply sampStore_keeps
        apply setTeam_keeps
        exact hk0
      · apply setTeam_keeps
        exact hk0

theorem turnTake_keeps {s0 s : State} (hk0 : Keeps K s0 s) (c n : Nat) [Free K .threads] :
    Keeps K s0 (State.turnTake s c n) := by
  unfold State.turnTake
  extract_lets +onlyGivenNames x_0
  clear_value x_0
  extract_lets +onlyGivenNames y_1
  clear_value y_1
  refine keeps_mk ?_
  exact hk0

theorem hold_keeps {s0 s : State} (hk0 : Keeps K s0 s) (k n : Nat) [Free K .regs] [Free K .threads] :
    Keeps K s0 (State.hold s k n) := by
  unfold State.hold
  refine keeps_ite ?_ ?_
  · exact hk0
  · apply setThread_keeps
    exact hk0

theorem issued_keeps {s0 s : State} (hk0 : Keeps K s0 s) (k : Nat) [Free K .counters] [Free K .lmem] [Free K .regs] [Free K .report] [Free K .threads] :
    Keeps K s0 (State.issued s k) := by
  unfold State.issued
  extract_lets +onlyGivenNames x_0
  clear_value x_0
  extract_lets +onlyGivenNames s1_1
  refine keeps_cut (v := s1_1) ?_ fun hs1_1 => ?_
  · subst s1_1
    apply bump_keeps
    apply setThread_keeps
    apply turnTake_keeps
    exact hk0
  clear_value s1_1
  refine keeps_ite ?_ ?_
  · apply budgetOver_keeps
    exact hs1_1
  · exact hs1_1

theorem uncLog_keeps {s0 s : State} (hk0 : Keeps K s0 s) (k kind : Nat) [Free K .counters] [Free K .free] [Free K .regs] [Free K .report] [Free K .teams] :
    Keeps K s0 (State.uncLog s k kind) := by
  unfold State.uncLog
  extract_lets +onlyGivenNames t_0
  clear_value t_0
  extract_lets +onlyGivenNames s1_1
  refine keeps_cut (v := s1_1) ?_ fun hs1_1 => ?_
  · subst s1_1
    refine keeps_ite ?_ ?_
    · apply memUeChip_keeps
      apply takeFree_keeps
      exact hk0
    · apply memUeChip_keeps
      exact hk0
  clear_value s1_1
  refine keeps_ite ?_ ?_
  · apply uncLocal_keeps
    exact hs1_1
  · exact hs1_1

theorem retire_keeps {s00 s : State} (h : Keeps K s00 s) (s0 : State) (t : Tid) (e : IsaFact) (w : Nat) (r : Eff)
    (hr : Keeps K s00 r.st) [Free K .counters] [Free K .free] [Free K .memories] [Free K .paddock] [Free K .regs] [Free K .report] [Free K .teams] [Free K .threads] : Keeps K s00 (s0.retire s t e w r) := by
  unfold State.retire
  extract_lets k index exp fault mem s1
  refine sample_keeps ?_ ..
  have key : ∀ f : Option (Nat × Nat × Nat), Keeps K s00 (match f with
      | some (c, a, trap) =>
        (if c = 3 then s.uncLog k (s.uncTouch k r).kind else s).threadFault k c index (a % 2 ^ 32) trap
      | none => r.st.hold k (State.heldSteps w e r.touch)) := by
    intro f
    rcases f with _ | ⟨c, a, trap⟩
    · exact hold_keeps hr ..
    · exact threadFault_keeps (keeps_ite (uncLog_keeps h ..) h) ..
  exact key fault

theorem issue_keeps {s0 s : State} (h : Keeps K s0 s) (t : Tid) (e : IsaFact) (op : IsaOp)
    (eff : Tid → IsaFact → Nat → State → Eff) (he : ∀ w u, Keeps K s0 u → Keeps K s0 (eff t e w u).st) [Free K .counters] [Free K .free] [Free K .lmem] [Free K .memories] [Free K .paddock] [Free K .regs] [Free K .report] [Free K .teams] [Free K .threads] :
    Keeps K s0 (s.issue t e op eff) := by
  unfold State.issue
  extract_lets k x i w s1
  have h1 : Keeps K s0 s1 := issued_keeps h _
  clear_value s1
  refine keeps_ite h (keeps_ite (threadFault_keeps (takeFree_keeps h _) ..) ?_)
  split
  · exact retire_keeps h1 _ _ _ _ _ h1
  · exact keeps_ite (retire_keeps h1 _ _ _ _ _ (he _ _ h1)) h

end Sys2Proof.Machine
end

