-- ==== Sys2Proof/Laws/KeepsCalls.lean ====
section
/-! SUPPORT. What the operations of Machine/Calls.lean keep. -/

-- One proof at a time: in the package as one text, proofs that wait for each other would each hold a thread.
set_option Elab.async false

namespace Sys2Proof.Machine

variable {K : Comp → Prop}

theorem callPlain_keeps {s0 s : State} (hk0 : Keeps K s0 s) (k w : Nat) (c : CallStat) (res : List Nat) [Free K .regs] [Free K .threads] :
    Keeps K s0 (State.callPlain s k w c res).st := by
  unfold State.callPlain
  refine keeps_effMk ?_
  apply callEnd_keeps
  exact hk0

theorem callOn_keeps {s0 s : State} (h : Keeps K s0 s) (k addr n : Nat) (write : Bool) (body : Nat × Nat → State)
    (hb : ∀ a, Keeps K s0 (body a)) : Keeps K s0 (s.callOn k addr n write body).st := by
  unfold State.callOn
  split
  · exact h
  · exact hb _

theorem passEnd_keeps {s0 s : State} (hk0 : Keeps K s0 s) (k : Nat) [Free K .regs] [Free K .threads] :
    Keeps K s0 (State.passEnd s k) := by
  unfold State.passEnd
  apply setThread_keeps
  exact hk0

theorem effClsLookup_keeps {s0 s : State} (hk0 : Keeps K s0 s) (t : Tid) (e : IsaFact) (w : Nat) [Free K .classifier] [Free K .counters] [Free K .free] [Free K .regs] [Free K .report] [Free K .threads] :
    Keeps K s0 (State.effClsLookup t e w s).st := by
  unfold State.effClsLookup
  extract_lets +onlyGivenNames k_0
  clear_value k_0
  extract_lets +onlyGivenNames sel_1
  clear_value sel_1
  apply callOn_keeps
  · exact hk0
  · intro y2
    refine keeps_ite ?_ ?_
    · apply callEnd_keeps
      exact hk0
    · extract_lets +onlyGivenNames fr_3
      clear_value fr_3
      extract_lets +onlyGivenNames v_4
      clear_value v_4
      extract_lets +onlyGivenNames l_5
      refine keeps_cut (v := l_5.2) ?_ fun hl_5 => ?_
      · subst l_5
        apply lookup_keeps
        exact hk0
      clear_value l_5
      apply callEnd_keeps
      exact hl_5

theorem effHash_keeps {s0 s : State} (hk0 : Keeps K s0 s) (t : Tid) (_e : IsaFact) (w : Nat) [Free K .regs] [Free K .threads] :
    Keeps K s0 (State.effHash t _e w s).st := by
  unfold State.effHash
  extract_lets +onlyGivenNames k_0
  clear_value k_0
  extract_lets +onlyGivenNames n_1
  clear_value n_1
  extract_lets +onlyGivenNames preset2
  clear_value preset2
  apply callOn_keeps
  · exact hk0
  · intro y3
    refine keeps_ite ?_ ?_
    · apply callEnd_keeps
      exact hk0
    · refine keeps_ite ?_ ?_
      · apply callEnd_keeps
        exact hk0
      · apply callEnd_keeps
        exact hk0

theorem effPolice_keeps {s0 s : State} (hk0 : Keeps K s0 s) (t : Tid) (_e : IsaFact) (w : Nat) [Free K .counters] [Free K .regs] [Free K .sched] [Free K .threads] :
    Keeps K s0 (State.effPolice t _e w s).st := by
  unfold State.effPolice
  extract_lets +onlyGivenNames k_0
  clear_value k_0
  extract_lets +onlyGivenNames p_1
  clear_value p_1
  extract_lets +onlyGivenNames n_2
  clear_value n_2
  extract_lets +onlyGivenNames col_3
  clear_value col_3
  refine keeps_iteE ?_ ?_
  · apply callPlain_keeps
    exact hk0
  · refine keeps_iteE ?_ ?_
    · apply callPlain_keeps
      exact hk0
    · refine keeps_iteE ?_ ?_
      · apply callPlain_keeps
        exact hk0
      · extract_lets +onlyGivenNames m_4
        refine keeps_cut (v := m_4.2) ?_ fun hm_4 => ?_
        · subst m_4
          apply meter_keeps
          exact hk0
        clear_value m_4
        apply callPlain_keeps
        exact hm_4

theorem countAdd_keeps {s0 s : State} (hk0 : Keeps K s0 s) (i n : Nat) [Free K .pairs] :
    Keeps K s0 (State.countAdd s i n) := by
  unfold State.countAdd
  refine keeps_mk ?_
  exact hk0

theorem effCount_keeps {s0 s : State} (hk0 : Keeps K s0 s) (t : Tid) (_e : IsaFact) (w : Nat) [Free K .pairs] [Free K .regs] [Free K .threads] :
    Keeps K s0 (State.effCount t _e w s).st := by
  unfold State.effCount
  extract_lets +onlyGivenNames k_0
  clear_value k_0
  extract_lets +onlyGivenNames i_1
  clear_value i_1
  refine keeps_iteE ?_ ?_
  · apply callPlain_keeps
    exact hk0
  · apply callPlain_keeps
    apply countAdd_keeps
    apply countAdd_keeps
    exact hk0

theorem copyDone_keeps {s0 s : State} (hk0 : Keeps K s0 s) (k : Nat) [Free K .lmem] [Free K .regs] [Free K .threads] :
    Keeps K s0 (State.copyDone s k) := by
  unfold State.copyDone
  extract_lets +onlyGivenNames n_0
  clear_value n_0
  apply lmemPut_keeps
  apply setThread_keeps
  exact hk0

theorem enq_keeps {s0 s : State} (hk0 : Keeps K s0 s) (k a launch : Nat) (f : Frame) [Free K .counters] [Free K .free] [Free K .lmem] [Free K .memories] [Free K .paddock] [Free K .regs] [Free K .report] [Free K .sched] [Free K .threads] :
    Keeps K s0 (State.enq s k a launch f).2 := by
  unfold State.enq
  extract_lets +onlyGivenNames qset0
  clear_value qset0
  extract_lets +onlyGivenNames copy1
  clear_value copy1
  extract_lets +onlyGivenNames cls_2
  clear_value cls_2
  refine keeps_ite2 ?_ ?_
  · refine keeps_pair ?_
    exact hk0
  · refine keeps_ite2 ?_ ?_
    · refine keeps_pair ?_
      apply bump_keeps
      exact hk0
    · refine keeps_ite2 ?_ ?_
      · refine keeps_pair ?_
        exact hk0
      · refine keeps_ite2 ?_ ?_
        · refine keeps_pair ?_
          exact hk0
        · extract_lets +onlyGivenNames x_3
          clear_value x_3
          extract_lets +onlyGivenNames r_4
          refine keeps_cut (v := r_4.2) ?_ fun hr_4 => ?_
          · subst r_4
            apply qEnter_keeps
            exact hk0
          clear_value r_4
          extract_lets +onlyGivenNames st_5
          clear_value st_5
          refine keeps_ite2 ?_ ?_
          · refine keeps_pair ?_
            refine keeps_ite ?_ ?_
            · apply copyDone_keeps
              exact hr_4
            · exact hr_4
          · refine keeps_pair ?_
            apply passEnd_keeps
            apply frameGone_keeps
            exact hr_4

theorem effEnq_keeps {s0 s : State} (hk0 : Keeps K s0 s) (t : Tid) (_e : IsaFact) (w : Nat) [Free K .counters] [Free K .free] [Free K .lmem] [Free K .memories] [Free K .paddock] [Free K .regs] [Free K .report] [Free K .sched] [Free K .threads] :
    Keeps K s0 (State.effEnq t _e w s).st := by
  unfold State.effEnq
  extract_lets +onlyGivenNames k_0
  clear_value k_0
  split
  · apply callPlain_keeps
    exact hk0
  · extract_lets +onlyGivenNames r_1
    refine keeps_cut (v := r_1.2) ?_ fun hr_1 => ?_
    · subst r_1
      apply enq_keeps
      exact hk0
    clear_value r_1
    apply callPlain_keeps
    exact hr_1

theorem effTime_keeps {s0 s : State} (hk0 : Keeps K s0 s) (t : Tid) (_e : IsaFact) (w : Nat) [Free K .regs] [Free K .threads] :
    Keeps K s0 (State.effTime t _e w s).st := by
  unfold State.effTime
  extract_lets +onlyGivenNames k_0
  clear_value k_0
  extract_lets +onlyGivenNames u_1
  clear_value u_1
  refine keeps_iteE ?_ ?_
  · apply callPlain_keeps
    exact hk0
  · apply callPlain_keeps
    exact hk0

theorem effCsum_keeps {s0 s : State} (hk0 : Keeps K s0 s) (t : Tid) (_e : IsaFact) (w : Nat) [Free K .regs] [Free K .threads] :
    Keeps K s0 (State.effCsum t _e w s).st := by
  unfold State.effCsum
  extract_lets +onlyGivenNames k_0
  clear_value k_0
  extract_lets +onlyGivenNames o_1
  clear_value o_1
  extract_lets +onlyGivenNames n_2
  clear_value n_2
  split
  · apply callPlain_keeps
    exact hk0
  · extract_lets +onlyGivenNames len_3
    clear_value len_3
    refine keeps_iteE ?_ ?_
    · apply callPlain_keeps
      exact hk0
    · refine keeps_iteE ?_ ?_
      · apply callPlain_keeps
        exact hk0
      · refine keeps_iteE ?_ ?_
        · apply callPlain_keeps
          exact hk0
        · apply callPlain_keeps
          exact hk0

theorem cmacQueue_keeps {s0 s : State} (hk0 : Keeps K s0 s) (k : Nat) (c : CmacCall) [Free K .keys] [Free K .regs] [Free K .rings] [Free K .threads] :
    Keeps K s0 (State.cmacQueue s k c) := by
  unfold State.cmacQueue
  extract_lets +onlyGivenNames s1_0
  refine keeps_cut (v := s1_0) ?_ fun hs1_0 => ?_
  · subst s1_0
    refine keeps_mk ?_
    exact hk0
  clear_value s1_0
  apply setThread_keeps
  apply modSec_keeps
  exact hs1_0

theorem effCmac_keeps {s0 s : State} (hk0 : Keeps K s0 s) (t : Tid) (_e : IsaFact) (w : Nat) [Free K .counters] [Free K .free] [Free K .keys] [Free K .regs] [Free K .report] [Free K .rings] [Free K .threads] :
    Keeps K s0 (State.effCmac t _e w s).st := by
  unfold State.effCmac
  extract_lets +onlyGivenNames k_0
  clear_value k_0
  extract_lets +onlyGivenNames addr1
  clear_value addr1
  extract_lets +onlyGivenNames n_2
  clear_value n_2
  extract_lets +onlyGivenNames slot3
  clear_value slot3
  split
  · refine keeps_effMk ?_
    exact hk0
  · refine keeps_iteE ?_ ?_
    · refine keeps_effMk ?_
      exact hk0
    · extract_lets +onlyGivenNames st_4
      refine keeps_cut (v := st_4) ?_ fun hst_4 => ?_
      · subst st_4
        refine keeps_ite ?_ ?_
        · apply callEnd_keeps
          exact hk0
        · refine keeps_ite ?_ ?_
          · apply callEnd_keeps
            exact hk0
          · refine keeps_ite ?_ ?_
            · apply callEnd_keeps
              apply bump_keeps
              exact hk0
            · refine keeps_ite ?_ ?_
              · apply callEnd_keeps
                exact hk0
              · apply freeBit_keeps
                · exact hk0
                · intro y5 y6 hy7
                  split
                  · apply cmacQueue_keeps
                    exact hy7
                  · apply callEnd_keeps
                    apply cmacFail_keeps
                    exact hy7
      clear_value st_4
      refine keeps_effMk ?_
      exact hst_4

theorem recirc_keeps {s0 s : State} (hk0 : Keeps K s0 s) (k : Nat) (f : Frame) [Free K .counters] [Free K .memories] [Free K .paddock] [Free K .pairing] [Free K .regs] [Free K .threads] :
    Keeps K s0 (State.recirc s k f) := by
  unfold State.recirc
  refine keeps_ite ?_ ?_
  · apply passEnd_keeps
    apply frameGone_keeps
    apply bump_keeps
    exact hk0
  · extract_lets +onlyGivenNames x_0
    clear_value x_0
    apply modPrt_keeps
    apply passEnd_keeps
    exact hk0

theorem effRecirc_keeps {s0 s : State} (hk0 : Keeps K s0 s) (t : Tid) (_e : IsaFact) (w : Nat) [Free K .counters] [Free K .memories] [Free K .paddock] [Free K .pairing] [Free K .regs] [Free K .threads] :
    Keeps K s0 (State.effRecirc t _e w s).st := by
  unfold State.effRecirc
  extract_lets +onlyGivenNames k_0
  clear_value k_0
  split
  · apply callPlain_keeps
    exact hk0
  · refine keeps_iteE ?_ ?_
    · apply callPlain_keeps
      exact hk0
    · apply callPlain_keeps
      apply recirc_keeps
      exact hk0

theorem effFrd_keeps {s0 s : State} (hk0 : Keeps K s0 s) (t : Tid) (_e : IsaFact) (w : Nat) [Free K .lmem] [Free K .regs] [Free K .smem] [Free K .threads] :
    Keeps K s0 (State.effFrd t _e w s).st := by
  unfold State.effFrd
  extract_lets +onlyGivenNames k_0
  clear_value k_0
  extract_lets +onlyGivenNames off_1
  clear_value off_1
  extract_lets +onlyGivenNames n_2
  clear_value n_2
  apply callOn_keeps
  · exact hk0
  · intro y3
    extract_lets +onlyGivenNames st_4
    clear_value st_4
    refine keeps_ite ?_ ?_
    · split
      · apply callEnd_keeps
        apply areaPut_keeps
        exact hk0
      · apply callEnd_keeps
        exact hk0
    · apply callEnd_keeps
      exact hk0

theorem fwr_keeps {s0 s : State} (hk0 : Keeps K s0 s) (k : Nat) (f : Frame) (off : Nat) (b : List Byte) [Free K .regs] [Free K .sched] [Free K .threads] :
    Keeps K s0 (State.fwr s k f off b) := by
  unfold State.fwr
  extract_lets +onlyGivenNames put_0
  clear_value put_0
  extract_lets +onlyGivenNames s1_1
  clear_value s1_1
  extract_lets +onlyGivenNames s1_2
  refine keeps_cut (v := s1_2) ?_ fun hs1_2 => ?_
  · subst s1_2
    apply setThread_keeps
    exact hk0
  clear_value s1_2
  refine keeps_mk ?_
  exact hs1_2

theorem effFwr_keeps {s0 s : State} (hk0 : Keeps K s0 s) (t : Tid) (_e : IsaFact) (w : Nat) [Free K .regs] [Free K .sched] [Free K .threads] :
    Keeps K s0 (State.effFwr t _e w s).st := by
  unfold State.effFwr
  extract_lets +onlyGivenNames k_0
  clear_value k_0
  extract_lets +onlyGivenNames off_1
  clear_value off_1
  extract_lets +onlyGivenNames n_2
  clear_value n_2
  apply callOn_keeps
  · exact hk0
  · intro y3
    extract_lets +onlyGivenNames st_4
    clear_value st_4
    refine keeps_ite ?_ ?_
    · split
      · apply callEnd_keeps
        apply fwr_keeps
        exact hk0
      · apply callEnd_keeps
        exact hk0
    · apply callEnd_keeps
      exact hk0

theorem effDrop_keeps {s0 s : State} (hk0 : Keeps K s0 s) (t : Tid) (_e : IsaFact) (w : Nat) [Free K .counters] [Free K .memories] [Free K .paddock] [Free K .regs] [Free K .threads] :
    Keeps K s0 (State.effDrop t _e w s).st := by
  unfold State.effDrop
  extract_lets +onlyGivenNames k_0
  clear_value k_0
  split
  · apply callPlain_keeps
    exact hk0
  · apply callPlain_keeps
    apply passEnd_keeps
    apply frameGone_keeps
    apply bump_keeps
    exact hk0

theorem execCallClsLookup_keeps (t : Tid) (e : IsaFact) (s : State) :
    Answers [.classifier, .counters, .free, .lmem, .memories, .paddock, .regs, .report, .teams, .threads] s (execCallClsLookup t e s) := by
  refine answers_of fun K n => ⟨_, rfl, ?_⟩
  have i0 : Free K .classifier := n _ (by simp)
  have i1 : Free K .counters := n _ (by simp)
  have i2 : Free K .free := n _ (by simp)
  have i3 : Free K .lmem := n _ (by simp)
  have i4 : Free K .memories := n _ (by simp)
  have i5 : Free K .paddock := n _ (by simp)
  have i6 : Free K .regs := n _ (by simp)
  have i7 : Free K .report := n _ (by simp)
  have i8 : Free K .teams := n _ (by simp)
  have i9 : Free K .threads := n _ (by simp)
  have hk0 := Keeps.refl (K := K) s
  apply issue_keeps
  · exact hk0
  · intro y0 y1 hy2
    apply effClsLookup_keeps
    exact hy2

theorem execCallHash_keeps (t : Tid) (e : IsaFact) (s : State) :
    Answers [.counters, .free, .lmem, .memories, .paddock, .regs, .report, .teams, .threads] s (execCallHash t e s) := by
  refine answers_of fun K n => ⟨_, rfl, ?_⟩
  have i0 : Free K .counters := n _ (by simp)
  have i1 : Free K .free := n _ (by simp)
  have i2 : Free K .lmem := n _ (by simp)
  have i3 : Free K .memories := n _ (by simp)
  have i4 : Free K .paddock := n _ (by simp)
  have i5 : Free K .regs := n _ (by simp)
  have i6 : Free K .report := n _ (by simp)
  have i7 : Free K .teams := n _ (by simp)
  have i8 : Free K .threads := n _ (by simp)
  have hk0 := Keeps.refl (K := K) s
  apply issue_keeps
  · exact hk0
  · intro y0 y1 hy2
    apply effHash_keeps
    exact hy2

theorem execCallPolice_keeps (t : Tid) (e : IsaFact) (s : State) :
    Answers [.counters, .free, .lmem, .memories, .paddock, .regs, .report, .sched, .teams, .threads] s (execCallPolice t e s) := by
  refine answers_of fun K n => ⟨_, rfl, ?_⟩
  have i0 : Free K .counters := n _ (by simp)
  have i1 : Free K .free := n _ (by simp)
  have i2 : Free K .lmem := n _ (by simp)
  have i3 : Free K .memories := n _ (by simp)
  have i4 : Free K .paddock := n _ (by simp)
  have i5 : Free K .regs := n _ (by simp)
  have i6 : Free K .report := n _ (by simp)
  have i7 : Free K .sched := n _ (by simp)
  have i8 : Free K .teams := n _ (by simp)
  have i9 : Free K .threads := n _ (by simp)
  have hk0 := Keeps.refl (K := K) s
  apply issue_keeps
  · exact hk0
  · intro y0 y1 hy2
    apply effPolice_keeps
    exact hy2

theorem execCallCount_keeps (t : Tid) (e : IsaFact) (s : State) :
    Answers [.counters, .free, .lmem, .memories, .paddock, .pairs, .regs, .report, .teams, .threads] s (execCallCount t e s) := by
  refine answers_of fun K n => ⟨_, rfl, ?_⟩
  have i0 : Free K .counters := n _ (by simp)
  have i1 : Free K .free := n _ (by simp)
  have i2 : Free K .lmem := n _ (by simp)
  have i3 : Free K .memories := n _ (by simp)
  have i4 : Free K .paddock := n _ (by simp)
  have i5 : Free K .pairs := n _ (by simp)
  have i6 : Free K .regs := n _ (by simp)
  have i7 : Free K .report := n _ (by simp)
  have i8 : Free K .teams := n _ (by simp)
  have i9 : Free K .threads := n _ (by simp)
  have hk0 := Keeps.refl (K := K) s
  apply issue_keeps
  · exact hk0
  · intro y0 y1 hy2
    apply effCount_keeps
    exact hy2

theorem execCallEnq_keeps (t : Tid) (e : IsaFact) (s : State) :
    Answers [.counters, .free, .lmem, .memories, .paddock, .regs, .report, .sched, .teams, .threads] s (execCallEnq t e s) := by
  refine answers_of fun K n => ⟨_, rfl, ?_⟩
  have i0 : Free K .counters := n _ (by simp)
  have i1 : Free K .free := n _ (by simp)
  have i2 : Free K .lmem := n _ (by simp)
  have i3 : Free K .memories := n _ (by simp)
  have i4 : Free K .paddock := n _ (by simp)
  have i5 : Free K .regs := n _ (by simp)
  have i6 : Free K .report := n _ (by simp)
  have i7 : Free K .sched := n _ (by simp)
  have i8 : Free K .teams := n _ (by simp)
  have i9 : Free K .threads := n _ (by simp)
  have hk0 := Keeps.refl (K := K) s
  apply issue_keeps
  · exact hk0
  · intro y0 y1 hy2
    apply effEnq_keeps
    exact hy2

theorem execCallTime_keeps (t : Tid) (e : IsaFact) (s : State) :
    Answers [.counters, .free, .lmem, .memories, .paddock, .regs, .report, .teams, .threads] s (execCallTime t e s) := by
  refine answers_of fun K n => ⟨_, rfl, ?_⟩
  have i0 : Free K .counters := n _ (by simp)
  have i1 : Free K .free := n _ (by simp)
  have i2 : Free K .lmem := n _ (by simp)
  have i3 : Free K .memories := n _ (by simp)
  have i4 : Free K .paddock := n _ (by simp)
  have i5 : Free K .regs := n _ (by simp)
  have i6 : Free K .report := n _ (by simp)
  have i7 : Free K .teams := n _ (by simp)
  have i8 : Free K .threads := n _ (by simp)
  have hk0 := Keeps.refl (K := K) s
  apply issue_keeps
  · exact hk0
  · intro y0 y1 hy2
    apply effTime_keeps
    exact hy2

theorem execCallCsum_keeps (t : Tid) (e : IsaFact) (s : State) :
    Answers [.counters, .free, .lmem, .memories, .paddock, .regs, .report, .teams, .threads] s (execCallCsum t e s) := by
  refine answers_of fun K n => ⟨_, rfl, ?_⟩
  have i0 : Free K .counters := n _ (by simp)
  have i1 : Free K .free := n _ (by simp)
  have i2 : Free K .lmem := n _ (by simp)
  have i3 : Free K .memories := n _ (by simp)
  have i4 : Free K .paddock := n _ (by simp)
  have i5 : Free K .regs := n _ (by simp)
  have i6 : Free K .report := n _ (by simp)
  have i7 : Free K .teams := n _ (by simp)
  have i8 : Free K .threads := n _ (by simp)
  have hk0 := Keeps.refl (K := K) s
  apply issue_keeps
  · exact hk0
  · intro y0 y1 hy2
    apply effCsum_keeps
    exact hy2

theorem execCallCmac_keeps (t : Tid) (e : IsaFact) (s : State) :
    Answers [.counters, .free, .keys, .lmem, .memories, .paddock, .regs, .report, .rings, .teams, .threads] s (execCallCmac t e s) := by
  refine answers_of fun K n => ⟨_, rfl, ?_⟩
  have i0 : Free K .counters := n _ (by simp)
  have i1 : Free K .free := n _ (by simp)
  have i2 : Free K .keys := n _ (by simp)
  have i3 : Free K .lmem := n _ (by simp)
  have i4 : Free K .memories := n _ (by simp)
  have i5 : Free K .paddock := n _ (by simp)
  have i6 : Free K .regs := n _ (by simp)
  have i7 : Free K .report := n _ (by simp)
  have i8 : Free K .rings := n _ (by simp)
  have i9 : Free K .teams := n _ (by simp)
  have i10 : Free K .threads := n _ (by simp)
  have hk0 := Keeps.refl (K := K) s
  apply issue_keeps
  · exact hk0
  · intro y0 y1 hy2
    apply effCmac_keeps
    exact hy2

theorem execCallRecirc_keeps (t : Tid) (e : IsaFact) (s : State) :
    Answers [.counters, .free, .lmem, .memories, .paddock, .pairing, .regs, .report, .teams, .threads] s (execCallRecirc t e s) := by
  refine answers_of fun K n => ⟨_, rfl, ?_⟩
  have i0 : Free K .counters := n _ (by simp)
  have i1 : Free K .free := n _ (by simp)
  have i2 : Free K .lmem := n _ (by simp)
  have i3 : Free K .memories := n _ (by simp)
  have i4 : Free K .paddock := n _ (by simp)
  have i5 : Free K .pairing := n _ (by simp)
  have i6 : Free K .regs := n _ (by simp)
  have i7 : Free K .report := n _ (by simp)
  have i8 : Free K .teams := n _ (by simp)
  have i9 : Free K .threads := n _ (by simp)
  have hk0 := Keeps.refl (K := K) s
  apply issue_keeps
  · exact hk0
  · intro y0 y1 hy2
    apply effRecirc_keeps
    exact hy2

theorem execCallFrd_keeps (t : Tid) (e : IsaFact) (s : State) :
    Answers [.counters, .free, .lmem, .memories, .paddock, .regs, .report, .smem, .teams, .threads] s (execCallFrd t e s) := by
  refine answers_of fun K n => ⟨_, rfl, ?_⟩
  have i0 : Free K .counters := n _ (by simp)
  have i1 : Free K .free := n _ (by simp)
  have i2 : Free K .lmem := n _ (by simp)
  have i3 : Free K .memories := n _ (by simp)
  have i4 : Free K .paddock := n _ (by simp)
  have i5 : Free K .regs := n _ (by simp)
  have i6 : Free K .report := n _ (by simp)
  have i7 : Free K .smem := n _ (by simp)
  have i8 : Free K .teams := n _ (by simp)
  have i9 : Free K .threads := n _ (by simp)
  have hk0 := Keeps.refl (K := K) s
  apply issue_keeps
  · exact hk0
  · intro y0 y1 hy2
    apply effFrd_keeps
    exact hy2

theorem execCallFwr_keeps (t : Tid) (e : IsaFact) (s : State) :
    Answers [.counters, .free, .lmem, .memories, .paddock, .regs, .report, .sched, .teams, .threads] s (execCallFwr t e s) := by
  refine answers_of fun K n => ⟨_, rfl, ?_⟩
  have i0 : Free K .counters := n _ (by simp)
  have i1 : Free K .free := n _ (by simp)
  have i2 : Free K .lmem := n _ (by simp)
  have i3 : Free K .memories := n _ (by simp)
  have i4 : Free K .paddock := n _ (by simp)
  have i5 : Free K .regs := n _ (by simp)
  have i6 : Free K .report := n _ (by simp)
  have i7 : Free K .sched := n _ (by simp)
  have i8 : Free K .teams := n _ (by simp)
  have i9 : Free K .threads := n _ (by simp)
  have hk0 := Keeps.refl (K := K) s
  apply issue_keeps
  · exact hk0
  · intro y0 y1 hy2
    apply effFwr_keeps
    exact hy2

theorem execCallDrop_keeps (t : Tid) (e : IsaFact) (s : State) :
    Answers [.counters, .free, .lmem, .memories, .paddock, .regs, .report, .teams, .threads] s (execCallDrop t e s) := by
  refine answers_of fun K n => ⟨_, rfl, ?_⟩
  have i0 : Free K .counters := n _ (by simp)
  have i1 : Free K .free := n _ (by simp)
  have i2 : Free K .lmem := n _ (by simp)
  have i3 : Free K .memories := n _ (by simp)
  have i4 : Free K .paddock := n _ (by simp)
  have i5 : Free K .regs := n _ (by simp)
  have i6 : Free K .report := n _ (by simp)
  have i7 : Free K .teams := n _ (by simp)
  have i8 : Free K .threads := n _ (by simp)
  have hk0 := Keeps.refl (K := K) s
  apply issue_keeps
  · exact hk0
  · intro y0 y1 hy2
    apply effDrop_keeps
    exact hy2

end Sys2Proof.Machine
end

