-- ==== Sys2Proof/Laws/KeepsIsa.lean ====
section
/-! SUPPORT. What the operations of Machine/Isa.lean keep. -/

-- One proof at a time: in the package as one text, proofs that wait for each other would each hold a thread.
set_option Elab.async false

namespace Sys2Proof.Machine

variable {K : Comp → Prop}

theorem effAlu_keeps {s0 s : State} (hk0 : Keeps K s0 s) (f : (w : Nat) → BitVec w → BitVec w → BitVec w) (t : Tid) (_e : IsaFact) (w : Nat) [Free K .regs] [Free K .threads] :
    Keeps K s0 (State.effAlu f t _e w s).st := by
  unfold State.effAlu
  extract_lets +onlyGivenNames k_0
  clear_value k_0
  refine keeps_effMk ?_
  apply setG_keeps
  exact hk0

theorem effImm_keeps {s0 s : State} (hk0 : Keeps K s0 s) (f : BitVec 64 → Nat → BitVec 64) (t : Tid) (_e : IsaFact) (w : Nat) [Free K .regs] [Free K .threads] :
    Keeps K s0 (State.effImm f t _e w s).st := by
  unfold State.effImm
  extract_lets +onlyGivenNames k_0
  clear_value k_0
  refine keeps_effMk ?_
  apply setG_keeps
  exact hk0

theorem effIns_keeps {s0 s : State} (hk0 : Keeps K s0 s) (t : Tid) (_e : IsaFact) (w : Nat) [Free K .regs] [Free K .threads] :
    Keeps K s0 (State.effIns t _e w s).st := by
  unfold State.effIns
  extract_lets +onlyGivenNames k_0
  clear_value k_0
  refine keeps_effMk ?_
  apply setG_keeps
  exact hk0

theorem effAddr_keeps {s0 s : State} (hk0 : Keeps K s0 s) (addr : Nat) :
    Keeps K s0 (State.effAddr s addr).st := by
  unfold State.effAddr
  refine keeps_effMk ?_
  exact hk0

theorem effLoad_keeps {s0 s : State} (hk0 : Keeps K s0 s) (n : Nat) (f : List Byte → BitVec 64) (t : Tid) (_e : IsaFact) (w : Nat) [Free K .regs] [Free K .threads] :
    Keeps K s0 (State.effLoad n f t _e w s).st := by
  unfold State.effLoad
  extract_lets +onlyGivenNames k_0
  clear_value k_0
  extract_lets +onlyGivenNames addr1
  clear_value addr1
  split
  · apply effAddr_keeps
    exact hk0
  · refine keeps_effMk ?_
    apply setG_keeps
    exact hk0

theorem windowRead_keeps {s0 s : State} (h : Keeps K s0 s) (k r : Nat) (q : Req) (a : Nat) (fact : ReadFact) [Free K .counters] [Free K .free] [Free K .link] [Free K .regs] [Free K .report] [Free K .shadows] [Free K .threads] [Free K .time] :
    Keeps K s0 ((s.busRead q a fact).2.setG k r (((s.busRead q a fact).1.getD 0).setWidth 64)) :=
  setG_keeps (busRead_keeps h ..) ..

theorem effLw_keeps {s0 s : State} (h : Keeps K s0 s) (t : Tid) (e : IsaFact) (w : Nat) [Free K .counters] [Free K .free] [Free K .link] [Free K .regs] [Free K .report] [Free K .shadows] [Free K .threads] [Free K .time] :
    Keeps K s0 (State.effLw t e w s).st := by
  unfold State.effLw
  generalize hw : 0x1000000 = base
  exact keeps_iteE (keeps_effMk (windowRead_keeps h ..)) (effLoad_keeps h ..)

theorem effStore_keeps {s0 s : State} (hk0 : Keeps K s0 s) (n : Nat) (f : Nat → List Byte) (t : Tid) (_e : IsaFact) (w : Nat) [Free K .lmem] [Free K .regs] [Free K .smem] :
    Keeps K s0 (State.effStore n f t _e w s).st := by
  unfold State.effStore
  extract_lets +onlyGivenNames k_0
  clear_value k_0
  extract_lets +onlyGivenNames addr1
  clear_value addr1
  split
  · apply effAddr_keeps
    exact hk0
  · refine keeps_iteE ?_ ?_
    · apply effAddr_keeps
      exact hk0
    · refine keeps_effMk ?_
      apply areaPut_keeps
      exact hk0

theorem effSw_keeps {s0 s : State} (hk0 : Keeps K s0 s) (t : Tid) (e : IsaFact) (w : Nat) [Free K .capture] [Free K .circuits] [Free K .classifier] [Free K .client] [Free K .counters] [Free K .dispatch] [Free K .dram] [Free K .farrier] [Free K .free] [Free K .gates] [Free K .istore] [Free K .keys] [Free K .link] [Free K .lmem] [Free K .memories] [Free K .paddock] [Free K .pairing] [Free K .pairs] [Free K .power] [Free K .rd] [Free K .regions] [Free K .regs] [Free K .report] [Free K .resets] [Free K .rings] [Free K .sched] [Free K .shadows] [Free K .smem] [Free K .teams] [Free K .threads] [Free K .time] [Free K .xings] [∀ x, Free K (.line x)] :
    Keeps K s0 (State.effSw t e w s).st := by
  unfold State.effSw
  extract_lets +onlyGivenNames k_0
  clear_value k_0
  extract_lets +onlyGivenNames addr1
  clear_value addr1
  refine keeps_iteE ?_ ?_
  · refine keeps_effMk ?_
    apply busWrite_keeps
    exact hk0
  · apply effStore_keeps
    exact hk0

theorem effAmo_keeps {s0 s : State} (hk0 : Keeps K s0 s) (f : BitVec 64 → BitVec 64 → BitVec 64 → BitVec 64) (t : Tid) (_e : IsaFact) (w : Nat) [Free K .lmem] [Free K .regs] [Free K .smem] [Free K .threads] :
    Keeps K s0 (State.effAmo f t _e w s).st := by
  unfold State.effAmo
  extract_lets +onlyGivenNames k_0
  clear_value k_0
  extract_lets +onlyGivenNames addr1
  clear_value addr1
  split
  · apply effAddr_keeps
    exact hk0
  · refine keeps_iteE ?_ ?_
    · apply effAddr_keeps
      exact hk0
    · extract_lets +onlyGivenNames old_2
      clear_value old_2
      refine keeps_effMk ?_
      apply setG_keeps
      apply areaPut_keeps
      exact hk0

theorem effBranch_keeps {s0 s : State} (hk0 : Keeps K s0 s) (p : BitVec 64 → BitVec 64 → Bool) (t : Tid) (_e : IsaFact) (w : Nat) [Free K .regs] [Free K .threads] :
    Keeps K s0 (State.effBranch p t _e w s).st := by
  unfold State.effBranch
  extract_lets +onlyGivenNames k_0
  clear_value k_0
  refine keeps_iteE ?_ ?_
  · refine keeps_effMk ?_
    apply setPc_keeps
    exact hk0
  · refine keeps_effMk ?_
    exact hk0

theorem effJal_keeps {s0 s : State} (hk0 : Keeps K s0 s) (t : Tid) (_e : IsaFact) (w : Nat) [Free K .regs] [Free K .threads] :
    Keeps K s0 (State.effJal t _e w s).st := by
  unfold State.effJal
  extract_lets +onlyGivenNames k_0
  clear_value k_0
  refine keeps_effMk ?_
  apply setPc_keeps
  apply setG_keeps
  exact hk0

theorem effJalr_keeps {s0 s : State} (hk0 : Keeps K s0 s) (t : Tid) (_e : IsaFact) (w : Nat) [Free K .regs] [Free K .threads] :
    Keeps K s0 (State.effJalr t _e w s).st := by
  unfold State.effJalr
  extract_lets +onlyGivenNames k_0
  clear_value k_0
  refine keeps_effMk ?_
  apply setPc_keeps
  apply setG_keeps
  exact hk0

theorem effSrd_keeps {s0 s : State} (hk0 : Keeps K s0 s) (t : Tid) (_e : IsaFact) (w : Nat) [Free K .regs] [Free K .threads] :
    Keeps K s0 (State.effSrd t _e w s).st := by
  unfold State.effSrd
  refine keeps_effMk ?_
  apply setG_keeps
  exact hk0

theorem effNone_keeps {s0 s : State} (hk0 : Keeps K s0 s) (_t : Tid) (_e : IsaFact) (_w : Nat) :
    Keeps K s0 (State.effNone _t _e _w s).st := by
  unfold State.effNone
  refine keeps_effMk ?_
  exact hk0

theorem effDone_keeps {s0 s : State} (hk0 : Keeps K s0 s) (t : Tid) (_e : IsaFact) (_w : Nat) [Free K .counters] [Free K .memories] [Free K .paddock] [Free K .regs] [Free K .threads] :
    Keeps K s0 (State.effDone t _e _w s).st := by
  unfold State.effDone
  extract_lets +onlyGivenNames k_0
  clear_value k_0
  extract_lets +onlyGivenNames s1_1
  refine keeps_cut (v := s1_1) ?_ fun hs1_1 => ?_
  · subst s1_1
    split
    · apply frameGone_keeps
      apply bump_keeps
      exact hk0
    · assumption
  clear_value s1_1
  refine keeps_effMk ?_
  apply threadIdle_keeps
  exact hs1_1

theorem effTrap_keeps {s0 s : State} (hk0 : Keeps K s0 s) (_t : Tid) (_e : IsaFact) (w : Nat) :
    Keeps K s0 (State.effTrap _t _e w s).st := by
  unfold State.effTrap
  refine keeps_effMk ?_
  exact hk0

theorem execIsaAdd_keeps (t : Tid) (e : IsaFact) (s : State) :
    Answers [.counters, .free, .lmem, .memories, .paddock, .regs, .report, .teams, .threads] s (execIsaAdd t e s) := by
  refine answers_of fun K n => ⟨_, rfl, ?_⟩
  have i0 : Free K .counters := n _ (by simp)
  have i1 : Free K .free := n _ (by simp)
  have i2 : Free K .lmem := n _ (by simp)
  have i3 : Free K .memories := n _ (by simp)
  have i4 : Free K .paddock := n _ (by simp)
  have i5 : Free K .regs := n _ (by simp)
  have i6 : Free K .report := n _ (by simp)
  have i7 : Free K .teams := n _ (by simp)
  have i8 : Free K .threads := n _ (by simp)
  have hk0 := Keeps.refl (K := K) s
  apply issue_keeps
  · exact hk0
  · intro y0 y1 hy2
    apply effAlu_keeps
    exact hy2

theorem execIsaSub_keeps (t : Tid) (e : IsaFact) (s : State) :
    Answers [.counters, .free, .lmem, .memories, .paddock, .regs, .report, .teams, .threads] s (execIsaSub t e s) := by
  refine answers_of fun K n => ⟨_, rfl, ?_⟩
  have i0 : Free K .counters := n _ (by simp)
  have i1 : Free K .free := n _ (by simp)
  have i2 : Free K .lmem := n _ (by simp)
  have i3 : Free K .memories := n _ (by simp)
  have i4 : Free K .paddock := n _ (by simp)
  have i5 : Free K .regs := n _ (by simp)
  have i6 : Free K .report := n _ (by simp)
  have i7 : Free K .teams := n _ (by simp)
  have i8 : Free K .threads := n _ (by simp)
  have hk0 := Keeps.refl (K := K) s
  apply issue_keeps
  · exact hk0
  · intro y0 y1 hy2
    apply effAlu_keeps
    exact hy2

theorem execIsaAnd_keeps (t : Tid) (e : IsaFact) (s : State) :
    Answers [.counters, .free, .lmem, .memories, .paddock, .regs, .report, .teams, .threads] s (execIsaAnd t e s) := by
  refine answers_of fun K n => ⟨_, rfl, ?_⟩
  have i0 : Free K .counters := n _ (by simp)
  have i1 : Free K .free := n _ (by simp)
  have i2 : Free K .lmem := n _ (by simp)
  have i3 : Free K .memories := n _ (by simp)
  have i4 : Free K .paddock := n _ (by simp)
  have i5 : Free K .regs := n _ (by simp)
  have i6 : Free K .report := n _ (by simp)
  have i7 : Free K .teams := n _ (by simp)
  have i8 : Free K .threads := n _ (by simp)
  have hk0 := Keeps.refl (K := K) s
  apply issue_keeps
  · exact hk0
  · intro y0 y1 hy2
    apply effAlu_keeps
    exact hy2

theorem execIsaOr_keeps (t : Tid) (e : IsaFact) (s : State) :
    Answers [.counters, .free, .lmem, .memories, .paddock, .regs, .report, .teams, .threads] s (execIsaOr t e s) := by
  refine answers_of fun K n => ⟨_, rfl, ?_⟩
  have i0 : Free K .counters := n _ (by simp)
  have i1 : Free K .free := n _ (by simp)
  have i2 : Free K .lmem := n _ (by simp)
  have i3 : Free K .memories := n _ (by simp)
  have i4 : Free K .paddock := n _ (by simp)
  have i5 : Free K .regs := n _ (by simp)
  have i6 : Free K .report := n _ (by simp)
  have i7 : Free K .teams := n _ (by simp)
  have i8 : Free K .threads := n _ (by simp)
  have hk0 := Keeps.refl (K := K) s
  apply issue_keeps
  · exact hk0
  · intro y0 y1 hy2
    apply effAlu_keeps
    exact hy2

theorem execIsaXor_keeps (t : Tid) (e : IsaFact) (s : State) :
    Answers [.counters, .free, .lmem, .memories, .paddock, .regs, .report, .teams, .threads] s (execIsaXor t e s) := by
  refine answers_of fun K n => ⟨_, rfl, ?_⟩
  have i0 : Free K .counters := n _ (by simp)
  have i1 : Free K .free := n _ (by simp)
  have i2 : Free K .lmem := n _ (by simp)
  have i3 : Free K .memories := n _ (by simp)
  have i4 : Free K .paddock := n _ (by simp)
  have i5 : Free K .regs := n _ (by simp)
  have i6 : Free K .report := n _ (by simp)
  have i7 : Free K .teams := n _ (by simp)
  have i8 : Free K .threads := n _ (by simp)
  have hk0 := Keeps.refl (K := K) s
  apply issue_keeps
  · exact hk0
  · intro y0 y1 hy2
    apply effAlu_keeps
    exact hy2

theorem execIsaShl_keeps (t : Tid) (e : IsaFact) (s : State) :
    Answers [.counters, .free, .lmem, .memories, .paddock, .regs, .report, .teams, .threads] s (execIsaShl t e s) := by
  refine answers_of fun K n => ⟨_, rfl, ?_⟩
  have i0 : Free K .counters := n _ (by simp)
  have i1 : Free K .free := n _ (by simp)
  have i2 : Free K .lmem := n _ (by simp)
  have i3 : Free K .memories := n _ (by simp)
  have i4 : Free K .paddock := n _ (by simp)
  have i5 : Free K .regs := n _ (by simp)
  have i6 : Free K .report := n _ (by simp)
  have i7 : Free K .teams := n _ (by simp)
  have i8 : Free K .threads := n _ (by simp)
  have hk0 := Keeps.refl (K := K) s
  apply issue_keeps
  · exact hk0
  · intro y0 y1 hy2
    apply effAlu_keeps
    exact hy2

theorem execIsaShr_keeps (t : Tid) (e : IsaFact) (s : State) :
    Answers [.counters, .free, .lmem, .memories, .paddock, .regs, .report, .teams, .threads] s (execIsaShr t e s) := by
  refine answers_of fun K n => ⟨_, rfl, ?_⟩
  have i0 : Free K .counters := n _ (by simp)
  have i1 : Free K .free := n _ (by simp)
  have i2 : Free K .lmem := n _ (by simp)
  have i3 : Free K .memories := n _ (by simp)
  have i4 : Free K .paddock := n _ (by simp)
  have i5 : Free K .regs := n _ (by simp)
  have i6 : Free K .report := n _ (by simp)
  have i7 : Free K .teams := n _ (by simp)
  have i8 : Free K .threads := n _ (by simp)
  have hk0 := Keeps.refl (K := K) s
  apply issue_keeps
  · exact hk0
  · intro y0 y1 hy2
    apply effAlu_keeps
    exact hy2

theorem execIsaSra_keeps (t : Tid) (e : IsaFact) (s : State) :
    Answers [.counters, .free, .lmem, .memories, .paddock, .regs, .report, .teams, .threads] s (execIsaSra t e s) := by
  refine answers_of fun K n => ⟨_, rfl, ?_⟩
  have i0 : Free K .counters := n _ (by simp)
  have i1 : Free K .free := n _ (by simp)
  have i2 : Free K .lmem := n _ (by simp)
  have i3 : Free K .memories := n _ (by simp)
  have i4 : Free K .paddock := n _ (by simp)
  have i5 : Free K .regs := n _ (by simp)
  have i6 : Free K .report := n _ (by simp)
  have i7 : Free K .teams := n _ (by simp)
  have i8 : Free K .threads := n _ (by simp)
  have hk0 := Keeps.refl (K := K) s
  apply issue_keeps
  · exact hk0
  · intro y0 y1 hy2
    apply effAlu_keeps
    exact hy2

theorem execIsaMul_keeps (t : Tid) (e : IsaFact) (s : State) :
    Answers [.counters, .free, .lmem, .memories, .paddock, .regs, .report, .teams, .threads] s (execIsaMul t e s) := by
  refine answers_of fun K n => ⟨_, rfl, ?_⟩
  have i0 : Free K .counters := n _ (by simp)
  have i1 : Free K .free := n _ (by simp)
  have i2 : Free K .lmem := n _ (by simp)
  have i3 : Free K .memories := n _ (by simp)
  have i4 : Free K .paddock := n _ (by simp)
  have i5 : Free K .regs := n _ (by simp)
  have i6 : Free K .report := n _ (by simp)
  have i7 : Free K .teams := n _ (by simp)
  have i8 : Free K .threads := n _ (by simp)
  have hk0 := Keeps.refl (K := K) s
  apply issue_keeps
  · exact hk0
  · intro y0 y1 hy2
    apply effAlu_keeps
    exact hy2

theorem execIsaMulhu_keeps (t : Tid) (e : IsaFact) (s : State) :
    Answers [.counters, .free, .lmem, .memories, .paddock, .regs, .report, .teams, .threads] s (execIsaMulhu t e s) := by
  refine answers_of fun K n => ⟨_, rfl, ?_⟩
  have i0 : Free K .counters := n _ (by simp)
  have i1 : Free K .free := n _ (by simp)
  have i2 : Free K .lmem := n _ (by simp)
  have i3 : Free K .memories := n _ (by simp)
  have i4 : Free K .paddock := n _ (by simp)
  have i5 : Free K .regs := n _ (by simp)
  have i6 : Free K .report := n _ (by simp)
  have i7 : Free K .teams := n _ (by simp)
  have i8 : Free K .threads := n _ (by simp)
  have hk0 := Keeps.refl (K := K) s
  apply issue_keeps
  · exact hk0
  · intro y0 y1 hy2
    apply effAlu_keeps
    exact hy2

theorem execIsaSlt_keeps (t : Tid) (e : IsaFact) (s : State) :
    Answers [.counters, .free, .lmem, .memories, .paddock, .regs, .report, .teams, .threads] s (execIsaSlt t e s) := by
  refine answers_of fun K n => ⟨_, rfl, ?_⟩
  have i0 : Free K .counters := n _ (by simp)
  have i1 : Free K .free := n _ (by simp)
  have i2 : Free K .lmem := n _ (by simp)
  have i3 : Free K .memories := n _ (by simp)
  have i4 : Free K .paddock := n _ (by simp)
  have i5 : Free K .regs := n _ (by simp)
  have i6 : Free K .report := n _ (by simp)
  have i7 : Free K .teams := n _ (by simp)
  have i8 : Free K .threads := n _ (by simp)
  have hk0 := Keeps.refl (K := K) s
  apply issue_keeps
  · exact hk0
  · intro y0 y1 hy2
    apply effAlu_keeps
    exact hy2

theorem execIsaSltu_keeps (t : Tid) (e : IsaFact) (s : State) :
    Answers [.counters, .free, .lmem, .memories, .paddock, .regs, .report, .teams, .threads] s (execIsaSltu t e s) := by
  refine answers_of fun K n => ⟨_, rfl, ?_⟩
  have i0 : Free K .counters := n _ (by simp)
  have i1 : Free K .free := n _ (by simp)
  have i2 : Free K .lmem := n _ (by simp)
  have i3 : Free K .memories := n _ (by simp)
  have i4 : Free K .paddock := n _ (by simp)
  have i5 : Free K .regs := n _ (by simp)
  have i6 : Free K .report := n _ (by simp)
  have i7 : Free K .teams := n _ (by simp)
  have i8 : Free K .threads := n _ (by simp)
  have hk0 := Keeps.refl (K := K) s
  apply issue_keeps
  · exact hk0
  · intro y0 y1 hy2
    apply effAlu_keeps
    exact hy2

theorem execIsaRotr_keeps (t : Tid) (e : IsaFact) (s : State) :
    Answers [.counters, .free, .lmem, .memories, .paddock, .regs, .report, .teams, .threads] s (execIsaRotr t e s) := by
  refine answers_of fun K n => ⟨_, rfl, ?_⟩
  have i0 : Free K .counters := n _ (by simp)
  have i1 : Free K .free := n _ (by simp)
  have i2 : Free K .lmem := n _ (by simp)
  have i3 : Free K .memories := n _ (by simp)
  have i4 : Free K .paddock := n _ (by simp)
  have i5 : Free K .regs := n _ (by simp)
  have i6 : Free K .report := n _ (by simp)
  have i7 : Free K .teams := n _ (by simp)
  have i8 : Free K .threads := n _ (by simp)
  have hk0 := Keeps.refl (K := K) s
  apply issue_keeps
  · exact hk0
  · intro y0 y1 hy2
    apply effAlu_keeps
    exact hy2

theorem execIsaClz_keeps (t : Tid) (e : IsaFact) (s : State) :
    Answers [.counters, .free, .lmem, .memories, .paddock, .regs, .report, .teams, .threads] s (execIsaClz t e s) := by
  refine answers_of fun K n => ⟨_, rfl, ?_⟩
  have i0 : Free K .counters := n _ (by simp)
  have i1 : Free K .free := n _ (by simp)
  have i2 : Free K .lmem := n _ (by simp)
  have i3 : Free K .memories := n _ (by simp)
  have i4 : Free K .paddock := n _ (by simp)
  have i5 : Free K .regs := n _ (by simp)
  have i6 : Free K .report := n _ (by simp)
  have i7 : Free K .teams := n _ (by simp)
  have i8 : Free K .threads := n _ (by simp)
  have hk0 := Keeps.refl (K := K) s
  apply issue_keeps
  · exact hk0
  · intro y0 y1 hy2
    apply effAlu_keeps
    exact hy2

theorem execIsaPopc_keeps (t : Tid) (e : IsaFact) (s : State) :
    Answers [.counters, .free, .lmem, .memories, .paddock, .regs, .report, .teams, .threads] s (execIsaPopc t e s) := by
  refine answers_of fun K n => ⟨_, rfl, ?_⟩
  have i0 : Free K .counters := n _ (by simp)
  have i1 : Free K .free := n _ (by simp)
  have i2 : Free K .lmem := n _ (by simp)
  have i3 : Free K .memories := n _ (by simp)
  have i4 : Free K .paddock := n _ (by simp)
  have i5 : Free K .regs := n _ (by simp)
  have i6 : Free K .report := n _ (by simp)
  have i7 : Free K .teams := n _ (by simp)
  have i8 : Free K .threads := n _ (by simp)
  have hk0 := Keeps.refl (K := K) s
  apply issue_keeps
  · exact hk0
  · intro y0 y1 hy2
    apply effAlu_keeps
    exact hy2

theorem execIsaBswap_keeps (t : Tid) (e : IsaFact) (s : State) :
    Answers [.counters, .free, .lmem, .memories, .paddock, .regs, .report, .teams, .threads] s (execIsaBswap t e s) := by
  refine answers_of fun K n => ⟨_, rfl, ?_⟩
  have i0 : Free K .counters := n _ (by simp)
  have i1 : Free K .free := n _ (by simp)
  have i2 : Free K .lmem := n _ (by simp)
  have i3 : Free K .memories := n _ (by simp)
  have i4 : Free K .paddock := n _ (by simp)
  have i5 : Free K .regs := n _ (by simp)
  have i6 : Free K .report := n _ (by simp)
  have i7 : Free K .teams := n _ (by simp)
  have i8 : Free K .threads := n _ (by simp)
  have hk0 := Keeps.refl (K := K) s
  apply issue_keeps
  · exact hk0
  · intro y0 y1 hy2
    apply effAlu_keeps
    exact hy2

theorem execIsaAddi_keeps (t : Tid) (e : IsaFact) (s : State) :
    Answers [.counters, .free, .lmem, .memories, .paddock, .regs, .report, .teams, .threads] s (execIsaAddi t e s) := by
  refine answers_of fun K n => ⟨_, rfl, ?_⟩
  have i0 : Free K .counters := n _ (by simp)
  have i1 : Free K .free := n _ (by simp)
  have i2 : Free K .lmem := n _ (by simp)
  have i3 : Free K .memories := n _ (by simp)
  have i4 : Free K .paddock := n _ (by simp)
  have i5 : Free K .regs := n _ (by simp)
  have i6 : Free K .report := n _ (by simp)
  have i7 : Free K .teams := n _ (by simp)
  have i8 : Free K .threads := n _ (by simp)
  have hk0 := Keeps.refl (K := K) s
  apply issue_keeps
  · exact hk0
  · intro y0 y1 hy2
    apply effImm_keeps
    exact hy2

theorem execIsaAndi_keeps (t : Tid) (e : IsaFact) (s : State) :
    Answers [.counters, .free, .lmem, .memories, .paddock, .regs, .report, .teams, .threads] s (execIsaAndi t e s) := by
  refine answers_of fun K n => ⟨_, rfl, ?_⟩
  have i0 : Free K .counters := n _ (by simp)
  have i1 : Free K .free := n _ (by simp)
  have i2 : Free K .lmem := n _ (by simp)
  have i3 : Free K .memories := n _ (by simp)
  have i4 : Free K .paddock := n _ (by simp)
  have i5 : Free K .regs := n _ (by simp)
  have i6 : Free K .report := n _ (by simp)
  have i7 : Free K .teams := n _ (by simp)
  have i8 : Free K .threads := n _ (by simp)
  have hk0 := Keeps.refl (K := K) s
  apply issue_keeps
  · exact hk0
  · intro y0 y1 hy2
    apply effImm_keeps
    exact hy2

theorem execIsaOri_keeps (t : Tid) (e : IsaFact) (s : State) :
    Answers [.counters, .free, .lmem, .memories, .paddock, .regs, .report, .teams, .threads] s (execIsaOri t e s) := by
  refine answers_of fun K n => ⟨_, rfl, ?_⟩
  have i0 : Free K .counters := n _ (by simp)
  have i1 : Free K .free := n _ (by simp)
  have i2 : Free K .lmem := n _ (by simp)
  have i3 : Free K .memories := n _ (by simp)
  have i4 : Free K .paddock := n _ (by simp)
  have i5 : Free K .regs := n _ (by simp)
  have i6 : Free K .report := n _ (by simp)
  have i7 : Free K .teams := n _ (by simp)
  have i8 : Free K .threads := n _ (by simp)
  have hk0 := Keeps.refl (K := K) s
  apply issue_keeps
  · exact hk0
  · intro y0 y1 hy2
    apply effImm_keeps
    exact hy2

theorem execIsaXori_keeps (t : Tid) (e : IsaFact) (s : State) :
    Answers [.counters, .free, .lmem, .memories, .paddock, .regs, .report, .teams, .threads] s (execIsaXori t e s) := by
  refine answers_of fun K n => ⟨_, rfl, ?_⟩
  have i0 : Free K .counters := n _ (by simp)
  have i1 : Free K .free := n _ (by simp)
  have i2 : Free K .lmem := n _ (by simp)
  have i3 : Free K .memories := n _ (by simp)
  have i4 : Free K .paddock := n _ (by simp)
  have i5 : Free K .regs := n _ (by simp)
  have i6 : Free K .report := n _ (by simp)
  have i7 : Free K .teams := n _ (by simp)
  have i8 : Free K .threads := n _ (by simp)
  have hk0 := Keeps.refl (K := K) s
  apply issue_keeps
  · exact hk0
  · intro y0 y1 hy2
    apply effImm_keeps
    exact hy2

theorem execIsaShiftImmediate_keeps (t : Tid) (e : IsaFact) (s : State) :
    Answers [.counters, .free, .lmem, .memories, .paddock, .regs, .report, .teams, .threads] s (execIsaShiftImmediate t e s) := by
  refine answers_of fun K n => ⟨_, rfl, ?_⟩
  have i0 : Free K .counters := n _ (by simp)
  have i1 : Free K .free := n _ (by simp)
  have i2 : Free K .lmem := n _ (by simp)
  have i3 : Free K .memories := n _ (by simp)
  have i4 : Free K .paddock := n _ (by simp)
  have i5 : Free K .regs := n _ (by simp)
  have i6 : Free K .report := n _ (by simp)
  have i7 : Free K .teams := n _ (by simp)
  have i8 : Free K .threads := n _ (by simp)
  have hk0 := Keeps.refl (K := K) s
  apply issue_keeps
  · exact hk0
  · intro y0 y1 hy2
    apply effImm_keeps
    exact hy2

theorem execIsaLui_keeps (t : Tid) (e : IsaFact) (s : State) :
    Answers [.counters, .free, .lmem, .memories, .paddock, .regs, .report, .teams, .threads] s (execIsaLui t e s) := by
  refine answers_of fun K n => ⟨_, rfl, ?_⟩
  have i0 : Free K .counters := n _ (by simp)
  have i1 : Free K .free := n _ (by simp)
  have i2 : Free K .lmem := n _ (by simp)
  have i3 : Free K .memories := n _ (by simp)
  have i4 : Free K .paddock := n _ (by simp)
  have i5 : Free K .regs := n _ (by simp)
  have i6 : Free K .report := n _ (by simp)
  have i7 : Free K .teams := n _ (by simp)
  have i8 : Free K .threads := n _ (by simp)
  have hk0 := Keeps.refl (K := K) s
  apply issue_keeps
  · exact hk0
  · intro y0 y1 hy2
    apply effImm_keeps
    exact hy2

theorem execIsaExtu_keeps (t : Tid) (e : IsaFact) (s : State) :
    Answers [.counters, .free, .lmem, .memories, .paddock, .regs, .report, .teams, .threads] s (execIsaExtu t e s) := by
  refine answers_of fun K n => ⟨_, rfl, ?_⟩
  have i0 : Free K .counters := n _ (by simp)
  have i1 : Free K .free := n _ (by simp)
  have i2 : Free K .lmem := n _ (by simp)
  have i3 : Free K .memories := n _ (by simp)
  have i4 : Free K .paddock := n _ (by simp)
  have i5 : Free K .regs := n _ (by simp)
  have i6 : Free K .report := n _ (by simp)
  have i7 : Free K .teams := n _ (by simp)
  have i8 : Free K .threads := n _ (by simp)
  have hk0 := Keeps.refl (K := K) s
  apply issue_keeps
  · exact hk0
  · intro y0 y1 hy2
    apply effImm_keeps
    exact hy2

theorem execIsaExts_keeps (t : Tid) (e : IsaFact) (s : State) :
    Answers [.counters, .free, .lmem, .memories, .paddock, .regs, .report, .teams, .threads] s (execIsaExts t e s) := by
  refine answers_of fun K n => ⟨_, rfl, ?_⟩
  have i0 : Free K .counters := n _ (by simp)
  have i1 : Free K .free := n _ (by simp)
  have i2 : Free K .lmem := n _ (by simp)
  have i3 : Free K .memories := n _ (by simp)
  have i4 : Free K .paddock := n _ (by simp)
  have i5 : Free K .regs := n _ (by simp)
  have i6 : Free K .report := n _ (by simp)
  have i7 : Free K .teams := n _ (by simp)
  have i8 : Free K .threads := n _ (by simp)
  have hk0 := Keeps.refl (K := K) s
  apply issue_keeps
  · exact hk0
  · intro y0 y1 hy2
    apply effImm_keeps
    exact hy2

theorem execIsaIns_keeps (t : Tid) (e : IsaFact) (s : State) :
    Answers [.counters, .free, .lmem, .memories, .paddock, .regs, .report, .teams, .threads] s (execIsaIns t e s) := by
  refine answers_of fun K n => ⟨_, rfl, ?_⟩
  have i0 : Free K .counters := n _ (by simp)
  have i1 : Free K .free := n _ (by simp)
  have i2 : Free K .lmem := n _ (by simp)
  have i3 : Free K .memories := n _ (by simp)
  have i4 : Free K .paddock := n _ (by simp)
  have i5 : Free K .regs := n _ (by simp)
  have i6 : Free K .report := n _ (by simp)
  have i7 : Free K .teams := n _ (by simp)
  have i8 : Free K .threads := n _ (by simp)
  have hk0 := Keeps.refl (K := K) s
  apply issue_keeps
  · exact hk0
  · intro y0 y1 hy2
    apply effIns_keeps
    exact hy2

theorem execIsaLb_keeps (t : Tid) (e : IsaFact) (s : State) :
    Answers [.counters, .free, .lmem, .memories, .paddock, .regs, .report, .teams, .threads] s (execIsaLb t e s) := by
  refine answers_of fun K n => ⟨_, rfl, ?_⟩
  have i0 : Free K .counters := n _ (by simp)
  have i1 : Free K .free := n _ (by simp)
  have i2 : Free K .lmem := n _ (by simp)
  have i3 : Free K .memories := n _ (by simp)
  have i4 : Free K .paddock := n _ (by simp)
  have i5 : Free K .regs := n _ (by simp)
  have i6 : Free K .report := n _ (by simp)
  have i7 : Free K .teams := n _ (by simp)
  have i8 : Free K .threads := n _ (by simp)
  have hk0 := Keeps.refl (K := K) s
  apply issue_keeps
  · exact hk0
  · intro y0 y1 hy2
    apply effLoad_keeps
    exact hy2

theorem execIsaLh_keeps (t : Tid) (e : IsaFact) (s : State) :
    Answers [.counters, .free, .lmem, .memories, .paddock, .regs, .report, .teams, .threads] s (execIsaLh t e s) := by
  refine answers_of fun K n => ⟨_, rfl, ?_⟩
  have i0 : Free K .counters := n _ (by simp)
  have i1 : Free K .free := n _ (by simp)
  have i2 : Free K .lmem := n _ (by simp)
  have i3 : Free K .memories := n _ (by simp)
  have i4 : Free K .paddock := n _ (by simp)
  have i5 : Free K .regs := n _ (by simp)
  have i6 : Free K .report := n _ (by simp)
  have i7 : Free K .teams := n _ (by simp)
  have i8 : Free K .threads := n _ (by simp)
  have hk0 := Keeps.refl (K := K) s
  apply issue_keeps
  · exact hk0
  · intro y0 y1 hy2
    apply effLoad_keeps
    exact hy2

theorem execIsaLw_keeps (t : Tid) (e : IsaFact) (s : State) :
    Answers [.counters, .free, .link, .lmem, .memories, .paddock, .regs, .report, .shadows, .teams, .threads, .time] s (execIsaLw t e s) := by
  refine answers_of fun K n => ⟨_, rfl, ?_⟩
  have i0 : Free K .counters := n _ (by simp)
  have i1 : Free K .free := n _ (by simp)
  have i2 : Free K .link := n _ (by simp)
  have i3 : Free K .lmem := n _ (by simp)
  have i4 : Free K .memories := n _ (by simp)
  have i5 : Free K .paddock := n _ (by simp)
  have i6 : Free K .regs := n _ (by simp)
  have i7 : Free K .report := n _ (by simp)
  have i8 : Free K .shadows := n _ (by simp)
  have i9 : Free K .teams := n _ (by simp)
  have i10 : Free K .threads := n _ (by simp)
  have i11 : Free K .time := n _ (by simp)
  have hk0 := Keeps.refl (K := K) s
  apply issue_keeps
  · exact hk0
  · intro y0 y1 hy2
    apply effLw_keeps
    exact hy2

theorem execIsaLd_keeps (t : Tid) (e : IsaFact) (s : State) :
    Answers [.counters, .free, .lmem, .memories, .paddock, .regs, .report, .teams, .threads] s (execIsaLd t e s) := by
  refine answers_of fun K n => ⟨_, rfl, ?_⟩
  have i0 : Free K .counters := n _ (by simp)
  have i1 : Free K .free := n _ (by simp)
  have i2 : Free K .lmem := n _ (by simp)
  have i3 : Free K .memories := n _ (by simp)
  have i4 : Free K .paddock := n _ (by simp)
  have i5 : Free K .regs := n _ (by simp)
  have i6 : Free K .report := n _ (by simp)
  have i7 : Free K .teams := n _ (by simp)
  have i8 : Free K .threads := n _ (by simp)
  have hk0 := Keeps.refl (K := K) s
  apply issue_keeps
  · exact hk0
  · intro y0 y1 hy2
    apply effLoad_keeps
    exact hy2

theorem execIsaLbs_keeps (t : Tid) (e : IsaFact) (s : State) :
    Answers [.counters, .free, .lmem, .memories, .paddock, .regs, .report, .teams, .threads] s (execIsaLbs t e s) := by
  refine answers_of fun K n => ⟨_, rfl, ?_⟩
  have i0 : Free K .counters := n _ (by simp)
  have i1 : Free K .free := n _ (by simp)
  have i2 : Free K .lmem := n _ (by simp)
  have i3 : Free K .memories := n _ (by simp)
  have i4 : Free K .paddock := n _ (by simp)
  have i5 : Free K .regs := n _ (by simp)
  have i6 : Free K .report := n _ (by simp)
  have i7 : Free K .teams := n _ (by simp)
  have i8 : Free K .threads := n _ (by simp)
  have hk0 := Keeps.refl (K := K) s
  apply issue_keeps
  · exact hk0
  · intro y0 y1 hy2
    apply effLoad_keeps
    exact hy2

theorem execIsaLhs_keeps (t : Tid) (e : IsaFact) (s : State) :
    Answers [.counters, .free, .lmem, .memories, .paddock, .regs, .report, .teams, .threads] s (execIsaLhs t e s) := by
  refine answers_of fun K n => ⟨_, rfl, ?_⟩
  have i0 : Free K .counters := n _ (by simp)
  have i1 : Free K .free := n _ (by simp)
  have i2 : Free K .lmem := n _ (by simp)
  have i3 : Free K .memories := n _ (by simp)
  have i4 : Free K .paddock := n _ (by simp)
  have i5 : Free K .regs := n _ (by simp)
  have i6 : Free K .report := n _ (by simp)
  have i7 : Free K .teams := n _ (by simp)
  have i8 : Free K .threads := n _ (by simp)
  have hk0 := Keeps.refl (K := K) s
  apply issue_keeps
  · exact hk0
  · intro y0 y1 hy2
    apply effLoad_keeps
    exact hy2

theorem execIsaLws_keeps (t : Tid) (e : IsaFact) (s : State) :
    Answers [.counters, .free, .lmem, .memories, .paddock, .regs, .report, .teams, .threads] s (execIsaLws t e s) := by
  refine answers_of fun K n => ⟨_, rfl, ?_⟩
  have i0 : Free K .counters := n _ (by simp)
  have i1 : Free K .free := n _ (by simp)
  have i2 : Free K .lmem := n _ (by simp)
  have i3 : Free K .memories := n _ (by simp)
  have i4 : Free K .paddock := n _ (by simp)
  have i5 : Free K .regs := n _ (by simp)
  have i6 : Free K .report := n _ (by simp)
  have i7 : Free K .teams := n _ (by simp)
  have i8 : Free K .threads := n _ (by simp)
  have hk0 := Keeps.refl (K := K) s
  apply issue_keeps
  · exact hk0
  · intro y0 y1 hy2
    apply effLoad_keeps
    exact hy2

theorem execIsaSb_keeps (t : Tid) (e : IsaFact) (s : State) :
    Answers [.counters, .free, .lmem, .memories, .paddock, .regs, .report, .smem, .teams, .threads] s (execIsaSb t e s) := by
  refine answers_of fun K n => ⟨_, rfl, ?_⟩
  have i0 : Free K .counters := n _ (by simp)
  have i1 : Free K .free := n _ (by simp)
  have i2 : Free K .lmem := n _ (by simp)
  have i3 : Free K .memories := n _ (by simp)
  have i4 : Free K .paddock := n _ (by simp)
  have i5 : Free K .regs := n _ (by simp)
  have i6 : Free K .report := n _ (by simp)
  have i7 : Free K .smem := n _ (by simp)
  have i8 : Free K .teams := n _ (by simp)
  have i9 : Free K .threads := n _ (by simp)
  have hk0 := Keeps.refl (K := K) s
  apply issue_keeps
  · exact hk0
  · intro y0 y1 hy2
    apply effStore_keeps
    exact hy2

theorem execIsaSh_keeps (t : Tid) (e : IsaFact) (s : State) :
    Answers [.counters, .free, .lmem, .memories, .paddock, .regs, .report, .smem, .teams, .threads] s (execIsaSh t e s) := by
  refine answers_of fun K n => ⟨_, rfl, ?_⟩
  have i0 : Free K .counters := n _ (by simp)
  have i1 : Free K .free := n _ (by simp)
  have i2 : Free K .lmem := n _ (by simp)
  have i3 : Free K .memories := n _ (by simp)
  have i4 : Free K .paddock := n _ (by simp)
  have i5 : Free K .regs := n _ (by simp)
  have i6 : Free K .report := n _ (by simp)
  have i7 : Free K .smem := n _ (by simp)
  have i8 : Free K .teams := n _ (by simp)
  have i9 : Free K .threads := n _ (by simp)
  have hk0 := Keeps.refl (K := K) s
  apply issue_keeps
  · exact hk0
  · intro y0 y1 hy2
    apply effStore_keeps
    exact hy2

theorem execIsaSw_keeps (t : Tid) (e : IsaFact) (s : State) :
    Answers [.capture, .circuits, .classifier, .client, .counters, .dispatch, .dram, .farrier, .free, .gates, .istore, .keys, .link, .lmem, .memories, .paddock, .pairing, .pairs, .power, .rd, .regions, .regs, .report, .resets, .rings, .sched, .shadows, .smem, .teams, .threads, .time, .xings, .line .a, .line .b] s (execIsaSw t e s) := by
  refine answers_of fun K n => ⟨_, rfl, ?_⟩
  have i0 : Free K .capture := n _ (by simp)
  have i1 : Free K .circuits := n _ (by simp)
  have i2 : Free K .classifier := n _ (by simp)
  have i3 : Free K .client := n _ (by simp)
  have i4 : Free K .counters := n _ (by simp)
  have i5 : Free K .dispatch := n _ (by simp)
  have i6 : Free K .dram := n _ (by simp)
  have i7 : Free K .farrier := n _ (by simp)
  have i8 : Free K .free := n _ (by simp)
  have i9 : Free K .gates := n _ (by simp)
  have i10 : Free K .istore := n _ (by simp)
  have i11 : Free K .keys := n _ (by simp)
  have i12 : Free K .link := n _ (by simp)
  have i13 : Free K .lmem := n _ (by simp)
  have i14 : Free K .memories := n _ (by simp)
  have i15 : Free K .paddock := n _ (by simp)
  have i16 : Free K .pairing := n _ (by simp)
  have i17 : Free K .pairs := n _ (by simp)
  have i18 : Free K .power := n _ (by simp)
  have i19 : Free K .rd := n _ (by simp)
  have i20 : Free K .regions := n _ (by simp)
  have i21 : Free K .regs := n _ (by simp)
  have i22 : Free K .report := n _ (by simp)
  have i23 : Free K .resets := n _ (by simp)
  have i24 : Free K .rings := n _ (by simp)
  have i25 : Free K .sched := n _ (by simp)
  have i26 : Free K .shadows := n _ (by simp)
  have i27 : Free K .smem := n _ (by simp)
  have i28 : Free K .teams := n _ (by simp)
  have i29 : Free K .threads := n _ (by simp)
  have i30 : Free K .time := n _ (by simp)
  have i31 : Free K .xings := n _ (by simp)
  have i32 : ∀ x, Free K (.line x) := fun x => by cases x <;> exact n _ (by simp)
  have hk0 := Keeps.refl (K := K) s
  apply issue_keeps
  · exact hk0
  · intro y0 y1 hy2
    apply effSw_keeps
    exact hy2

theorem execIsaSd_keeps (t : Tid) (e : IsaFact) (s : State) :
    Answers [.counters, .free, .lmem, .memories, .paddock, .regs, .report, .smem, .teams, .threads] s (execIsaSd t e s) := by
  refine answers_of fun K n => ⟨_, rfl, ?_⟩
  have i0 : Free K .counters := n _ (by simp)
  have i1 : Free K .free := n _ (by simp)
  have i2 : Free K .lmem := n _ (by simp)
  have i3 : Free K .memories := n _ (by simp)
  have i4 : Free K .paddock := n _ (by simp)
  have i5 : Free K .regs := n _ (by simp)
  have i6 : Free K .report := n _ (by simp)
  have i7 : Free K .smem := n _ (by simp)
  have i8 : Free K .teams := n _ (by simp)
  have i9 : Free K .threads := n _ (by simp)
  have hk0 := Keeps.refl (K := K) s
  apply issue_keeps
  · exact hk0
  · intro y0 y1 hy2
    apply effStore_keeps
    exact hy2

theorem execIsaLhbe_keeps (t : Tid) (e : IsaFact) (s : State) :
    Answers [.counters, .free, .lmem, .memories, .paddock, .regs, .report, .teams, .threads] s (execIsaLhbe t e s) := by
  refine answers_of fun K n => ⟨_, rfl, ?_⟩
  have i0 : Free K .counters := n _ (by simp)
  have i1 : Free K .free := n _ (by simp)
  have i2 : Free K .lmem := n _ (by simp)
  have i3 : Free K .memories := n _ (by simp)
  have i4 : Free K .paddock := n _ (by simp)
  have i5 : Free K .regs := n _ (by simp)
  have i6 : Free K .report := n _ (by simp)
  have i7 : Free K .teams := n _ (by simp)
  have i8 : Free K .threads := n _ (by simp)
  have hk0 := Keeps.refl (K := K) s
  apply issue_keeps
  · exact hk0
  · intro y0 y1 hy2
    apply effLoad_keeps
    exact hy2

theorem execIsaLwbe_keeps (t : Tid) (e : IsaFact) (s : State) :
    Answers [.counters, .free, .lmem, .memories, .paddock, .regs, .report, .teams, .threads] s (execIsaLwbe t e s) := by
  refine answers_of fun K n => ⟨_, rfl, ?_⟩
  have i0 : Free K .counters := n _ (by simp)
  have i1 : Free K .free := n _ (by simp)
  have i2 : Free K .lmem := n _ (by simp)
  have i3 : Free K .memories := n _ (by simp)
  have i4 : Free K .paddock := n _ (by simp)
  have i5 : Free K .regs := n _ (by simp)
  have i6 : Free K .report := n _ (by simp)
  have i7 : Free K .teams := n _ (by simp)
  have i8 : Free K .threads := n _ (by simp)
  have hk0 := Keeps.refl (K := K) s
  apply issue_keeps
  · exact hk0
  · intro y0 y1 hy2
    apply effLoad_keeps
    exact hy2

theorem execIsaLdbe_keeps (t : Tid) (e : IsaFact) (s : State) :
    Answers [.counters, .free, .lmem, .memories, .paddock, .regs, .report, .teams, .threads] s (execIsaLdbe t e s) := by
  refine answers_of fun K n => ⟨_, rfl, ?_⟩
  have i0 : Free K .counters := n _ (by simp)
  have i1 : Free K .free := n _ (by simp)
  have i2 : Free K .lmem := n _ (by simp)
  have i3 : Free K .memories := n _ (by simp)
  have i4 : Free K .paddock := n _ (by simp)
  have i5 : Free K .regs := n _ (by simp)
  have i6 : Free K .report := n _ (by simp)
  have i7 : Free K .teams := n _ (by simp)
  have i8 : Free K .threads := n _ (by simp)
  have hk0 := Keeps.refl (K := K) s
  apply issue_keeps
  · exact hk0
  · intro y0 y1 hy2
    apply effLoad_keeps
    exact hy2

theorem execIsaShbe_keeps (t : Tid) (e : IsaFact) (s : State) :
    Answers [.counters, .free, .lmem, .memories, .paddock, .regs, .report, .smem, .teams, .threads] s (execIsaShbe t e s) := by
  refine answers_of fun K n => ⟨_, rfl, ?_⟩
  have i0 : Free K .counters := n _ (by simp)
  have i1 : Free K .free := n _ (by simp)
  have i2 : Free K .lmem := n _ (by simp)
  have i3 : Free K .memories := n _ (by simp)
  have i4 : Free K .paddock := n _ (by simp)
  have i5 : Free K .regs := n _ (by simp)
  have i6 : Free K .report := n _ (by simp)
  have i7 : Free K .smem := n _ (by simp)
  have i8 : Free K .teams := n _ (by simp)
  have i9 : Free K .threads := n _ (by simp)
  have hk0 := Keeps.refl (K := K) s
  apply issue_keeps
  · exact hk0
  · intro y0 y1 hy2
    apply effStore_keeps
    exact hy2

theorem execIsaSwbe_keeps (t : Tid) (e : IsaFact) (s : State) :
    Answers [.counters, .free, .lmem, .memories, .paddock, .regs, .report, .smem, .teams, .threads] s (execIsaSwbe t e s) := by
  refine answers_of fun K n => ⟨_, rfl, ?_⟩
  have i0 : Free K .counters := n _ (by simp)
  have i1 : Free K .free := n _ (by simp)
  have i2 : Free K .lmem := n _ (by simp)
  have i3 : Free K .memories := n _ (by simp)
  have i4 : Free K .paddock := n _ (by simp)
  have i5 : Free K .regs := n _ (by simp)
  have i6 : Free K .report := n _ (by simp)
  have i7 : Free K .smem := n _ (by simp)
  have i8 : Free K .teams := n _ (by simp)
  have i9 : Free K .threads := n _ (by simp)
  have hk0 := Keeps.refl (K := K) s
  apply issue_keeps
  · exact hk0
  · intro y0 y1 hy2
    apply effStore_keeps
    exact hy2

theorem execIsaSdbe_keeps (t : Tid) (e : IsaFact) (s : State) :
    Answers [.counters, .free, .lmem, .memories, .paddock, .regs, .report, .smem, .teams, .threads] s (execIsaSdbe t e s) := by
  refine answers_of fun K n => ⟨_, rfl, ?_⟩
  have i0 : Free K .counters := n _ (by simp)
  have i1 : Free K .free := n _ (by simp)
  have i2 : Free K .lmem := n _ (by simp)
  have i3 : Free K .memories := n _ (by simp)
  have i4 : Free K .paddock := n _ (by simp)
  have i5 : Free K .regs := n _ (by simp)
  have i6 : Free K .report := n _ (by simp)
  have i7 : Free K .smem := n _ (by simp)
  have i8 : Free K .teams := n _ (by simp)
  have i9 : Free K .threads := n _ (by simp)
  have hk0 := Keeps.refl (K := K) s
  apply issue_keeps
  · exact hk0
  · intro y0 y1 hy2
    apply effStore_keeps
    exact hy2

theorem execIsaAmoAdd_keeps (t : Tid) (e : IsaFact) (s : State) :
    Answers [.counters, .free, .lmem, .memories, .paddock, .regs, .report, .smem, .teams, .threads] s (execIsaAmoAdd t e s) := by
  refine answers_of fun K n => ⟨_, rfl, ?_⟩
  have i0 : Free K .counters := n _ (by simp)
  have i1 : Free K .free := n _ (by simp)
  have i2 : Free K .lmem := n _ (by simp)
  have i3 : Free K .memories := n _ (by simp)
  have i4 : Free K .paddock := n _ (by simp)
  have i5 : Free K .regs := n _ (by simp)
  have i6 : Free K .report := n _ (by simp)
  have i7 : Free K .smem := n _ (by simp)
  have i8 : Free K .teams := n _ (by simp)
  have i9 : Free K .threads := n _ (by simp)
  have hk0 := Keeps.refl (K := K) s
  apply issue_keeps
  · exact hk0
  · intro y0 y1 hy2
    apply effAmo_keeps
    exact hy2

theorem execIsaAmoSwap_keeps (t : Tid) (e : IsaFact) (s : State) :
    Answers [.counters, .free, .lmem, .memories, .paddock, .regs, .report, .smem, .teams, .threads] s (execIsaAmoSwap t e s) := by
  refine answers_of fun K n => ⟨_, rfl, ?_⟩
  have i0 : Free K .counters := n _ (by simp)
  have i1 : Free K .free := n _ (by simp)
  have i2 : Free K .lmem := n _ (by simp)
  have i3 : Free K .memories := n _ (by simp)
  have i4 : Free K .paddock := n _ (by simp)
  have i5 : Free K .regs := n _ (by simp)
  have i6 : Free K .report := n _ (by simp)
  have i7 : Free K .smem := n _ (by simp)
  have i8 : Free K .teams := n _ (by simp)
  have i9 : Free K .threads := n _ (by simp)
  have hk0 := Keeps.refl (K := K) s
  apply issue_keeps
  · exact hk0
  · intro y0 y1 hy2
    apply effAmo_keeps
    exact hy2

theorem execIsaAmoCas_keeps (t : Tid) (e : IsaFact) (s : State) :
    Answers [.counters, .free, .lmem, .memories, .paddock, .regs, .report, .smem, .teams, .threads] s (execIsaAmoCas t e s) := by
  refine answers_of fun K n => ⟨_, rfl, ?_⟩
  have i0 : Free K .counters := n _ (by simp)
  have i1 : Free K .free := n _ (by simp)
  have i2 : Free K .lmem := n _ (by simp)
  have i3 : Free K .memories := n _ (by simp)
  have i4 : Free K .paddock := n _ (by simp)
  have i5 : Free K .regs := n _ (by simp)
  have i6 : Free K .report := n _ (by simp)
  have i7 : Free K .smem := n _ (by simp)
  have i8 : Free K .teams := n _ (by simp)
  have i9 : Free K .threads := n _ (by simp)
  have hk0 := Keeps.refl (K := K) s
  apply issue_keeps
  · exact hk0
  · intro y0 y1 hy2
    apply effAmo_keeps
    exact hy2

theorem execIsaBeq_keeps (t : Tid) (e : IsaFact) (s : State) :
    Answers [.counters, .free, .lmem, .memories, .paddock, .regs, .report, .teams, .threads] s (execIsaBeq t e s) := by
  refine answers_of fun K n => ⟨_, rfl, ?_⟩
  have i0 : Free K .counters := n _ (by simp)
  have i1 : Free K .free := n _ (by simp)
  have i2 : Free K .lmem := n _ (by simp)
  have i3 : Free K .memories := n _ (by simp)
  have i4 : Free K .paddock := n _ (by simp)
  have i5 : Free K .regs := n _ (by simp)
  have i6 : Free K .report := n _ (by simp)
  have i7 : Free K .teams := n _ (by simp)
  have i8 : Free K .threads := n _ (by simp)
  have hk0 := Keeps.refl (K := K) s
  apply issue_keeps
  · exact hk0
  · intro y0 y1 hy2
    apply effBranch_keeps
    exact hy2

theorem execIsaBne_keeps (t : Tid) (e : IsaFact) (s : State) :
    Answers [.counters, .free, .lmem, .memories, .paddock, .regs, .report, .teams, .threads] s (execIsaBne t e s) := by
  refine answers_of fun K n => ⟨_, rfl, ?_⟩
  have i0 : Free K .counters := n _ (by simp)
  have i1 : Free K .free := n _ (by simp)
  have i2 : Free K .lmem := n _ (by simp)
  have i3 : Free K .memories := n _ (by simp)
  have i4 : Free K .paddock := n _ (by simp)
  have i5 : Free K .regs := n _ (by simp)
  have i6 : Free K .report := n _ (by simp)
  have i7 : Free K .teams := n _ (by simp)
  have i8 : Free K .threads := n _ (by simp)
  have hk0 := Keeps.refl (K := K) s
  apply issue_keeps
  · exact hk0
  · intro y0 y1 hy2
    apply effBranch_keeps
    exact hy2

theorem execIsaBlt_keeps (t : Tid) (e : IsaFact) (s : State) :
    Answers [.counters, .free, .lmem, .memories, .paddock, .regs, .report, .teams, .threads] s (execIsaBlt t e s) := by
  refine answers_of fun K n => ⟨_, rfl, ?_⟩
  have i0 : Free K .counters := n _ (by simp)
  have i1 : Free K .free := n _ (by simp)
  have i2 : Free K .lmem := n _ (by simp)
  have i3 : Free K .memories := n _ (by simp)
  have i4 : Free K .paddock := n _ (by simp)
  have i5 : Free K .regs := n _ (by simp)
  have i6 : Free K .report := n _ (by simp)
  have i7 : Free K .teams := n _ (by simp)
  have i8 : Free K .threads := n _ (by simp)
  have hk0 := Keeps.refl (K := K) s
  apply issue_keeps
  · exact hk0
  · intro y0 y1 hy2
    apply effBranch_keeps
    exact hy2

theorem execIsaBge_keeps (t : Tid) (e : IsaFact) (s : State) :
    Answers [.counters, .free, .lmem, .memories, .paddock, .regs, .report, .teams, .threads] s (execIsaBge t e s) := by
  refine answers_of fun K n => ⟨_, rfl, ?_⟩
  have i0 : Free K .counters := n _ (by simp)
  have i1 : Free K .free := n _ (by simp)
  have i2 : Free K .lmem := n _ (by simp)
  have i3 : Free K .memories := n _ (by simp)
  have i4 : Free K .paddock := n _ (by simp)
  have i5 : Free K .regs := n _ (by simp)
  have i6 : Free K .report := n _ (by simp)
  have i7 : Free K .teams := n _ (by simp)
  have i8 : Free K .threads := n _ (by simp)
  have hk0 := Keeps.refl (K := K) s
  apply issue_keeps
  · exact hk0
  · intro y0 y1 hy2
    apply effBranch_keeps
    exact hy2

theorem execIsaBltu_keeps (t : Tid) (e : IsaFact) (s : State) :
    Answers [.counters, .free, .lmem, .memories, .paddock, .regs, .report, .teams, .threads] s (execIsaBltu t e s) := by
  refine answers_of fun K n => ⟨_, rfl, ?_⟩
  have i0 : Free K .counters := n _ (by simp)
  have i1 : Free K .free := n _ (by simp)
  have i2 : Free K .lmem := n _ (by simp)
  have i3 : Free K .memories := n _ (by simp)
  have i4 : Free K .paddock := n _ (by simp)
  have i5 : Free K .regs := n _ (by simp)
  have i6 : Free K .report := n _ (by simp)
  have i7 : Free K .teams := n _ (by simp)
  have i8 : Free K .threads := n _ (by simp)
  have hk0 := Keeps.refl (K := K) s
  apply issue_keeps
  · exact hk0
  · intro y0 y1 hy2
    apply effBranch_keeps
    exact hy2

theorem execIsaBgeu_keeps (t : Tid) (e : IsaFact) (s : State) :
    Answers [.counters, .free, .lmem, .memories, .paddock, .regs, .report, .teams, .threads] s (execIsaBgeu t e s) := by
  refine answers_of fun K n => ⟨_, rfl, ?_⟩
  have i0 : Free K .counters := n _ (by simp)
  have i1 : Free K .free := n _ (by simp)
  have i2 : Free K .lmem := n _ (by simp)
  have i3 : Free K .memories := n _ (by simp)
  have i4 : Free K .paddock := n _ (by simp)
  have i5 : Free K .regs := n _ (by simp)
  have i6 : Free K .report := n _ (by simp)
  have i7 : Free K .teams := n _ (by simp)
  have i8 : Free K .threads := n _ (by simp)
  have hk0 := Keeps.refl (K := K) s
  apply issue_keeps
  · exact hk0
  · intro y0 y1 hy2
    apply effBranch_keeps
    exact hy2

theorem execIsaJal_keeps (t : Tid) (e : IsaFact) (s : State) :
    Answers [.counters, .free, .lmem, .memories, .paddock, .regs, .report, .teams, .threads] s (execIsaJal t e s) := by
  refine answers_of fun K n => ⟨_, rfl, ?_⟩
  have i0 : Free K .counters := n _ (by simp)
  have i1 : Free K .free := n _ (by simp)
  have i2 : Free K .lmem := n _ (by simp)
  have i3 : Free K .memories := n _ (by simp)
  have i4 : Free K .paddock := n _ (by simp)
  have i5 : Free K .regs := n _ (by simp)
  have i6 : Free K .report := n _ (by simp)
  have i7 : Free K .teams := n _ (by simp)
  have i8 : Free K .threads := n _ (by simp)
  have hk0 := Keeps.refl (K := K) s
  apply issue_keeps
  · exact hk0
  · intro y0 y1 hy2
    apply effJal_keeps
    exact hy2

theorem execIsaJalr_keeps (t : Tid) (e : IsaFact) (s : State) :
    Answers [.counters, .free, .lmem, .memories, .paddock, .regs, .report, .teams, .threads] s (execIsaJalr t e s) := by
  refine answers_of fun K n => ⟨_, rfl, ?_⟩
  have i0 : Free K .counters := n _ (by simp)
  have i1 : Free K .free := n _ (by simp)
  have i2 : Free K .lmem := n _ (by simp)
  have i3 : Free K .memories := n _ (by simp)
  have i4 : Free K .paddock := n _ (by simp)
  have i5 : Free K .regs := n _ (by simp)
  have i6 : Free K .report := n _ (by simp)
  have i7 : Free K .teams := n _ (by simp)
  have i8 : Free K .threads := n _ (by simp)
  have hk0 := Keeps.refl (K := K) s
  apply issue_keeps
  · exact hk0
  · intro y0 y1 hy2
    apply effJalr_keeps
    exact hy2

theorem execIsaSrd_keeps (t : Tid) (e : IsaFact) (s : State) :
    Answers [.counters, .free, .lmem, .memories, .paddock, .regs, .report, .teams, .threads] s (execIsaSrd t e s) := by
  refine answers_of fun K n => ⟨_, rfl, ?_⟩
  have i0 : Free K .counters := n _ (by simp)
  have i1 : Free K .free := n _ (by simp)
  have i2 : Free K .lmem := n _ (by simp)
  have i3 : Free K .memories := n _ (by simp)
  have i4 : Free K .paddock := n _ (by simp)
  have i5 : Free K .regs := n _ (by simp)
  have i6 : Free K .report := n _ (by simp)
  have i7 : Free K .teams := n _ (by simp)
  have i8 : Free K .threads := n _ (by simp)
  have hk0 := Keeps.refl (K := K) s
  apply issue_keeps
  · exact hk0
  · intro y0 y1 hy2
    apply effSrd_keeps
    exact hy2

theorem execIsaYield_keeps (t : Tid) (e : IsaFact) (s : State) :
    Answers [.counters, .free, .lmem, .memories, .paddock, .regs, .report, .teams, .threads] s (execIsaYield t e s) := by
  refine answers_of fun K n => ⟨_, rfl, ?_⟩
  have i0 : Free K .counters := n _ (by simp)
  have i1 : Free K .free := n _ (by simp)
  have i2 : Free K .lmem := n _ (by simp)
  have i3 : Free K .memories := n _ (by simp)
  have i4 : Free K .paddock := n _ (by simp)
  have i5 : Free K .regs := n _ (by simp)
  have i6 : Free K .report := n _ (by simp)
  have i7 : Free K .teams := n _ (by simp)
  have i8 : Free K .threads := n _ (by simp)
  have hk0 := Keeps.refl (K := K) s
  apply issue_keeps
  · exact hk0
  · intro y0 y1 hy2
    apply effNone_keeps
    exact hy2

theorem execIsaDone_keeps (t : Tid) (e : IsaFact) (s : State) :
    Answers [.counters, .free, .lmem, .memories, .paddock, .regs, .report, .teams, .threads] s (execIsaDone t e s) := by
  refine answers_of fun K n => ⟨_, rfl, ?_⟩
  have i0 : Free K .counters := n _ (by simp)
  have i1 : Free K .free := n _ (by simp)
  have i2 : Free K .lmem := n _ (by simp)
  have i3 : Free K .memories := n _ (by simp)
  have i4 : Free K .paddock := n _ (by simp)
  have i5 : Free K .regs := n _ (by simp)
  have i6 : Free K .report := n _ (by simp)
  have i7 : Free K .teams := n _ (by simp)
  have i8 : Free K .threads := n _ (by simp)
  have hk0 := Keeps.refl (K := K) s
  apply issue_keeps
  · exact hk0
  · intro y0 y1 hy2
    apply effDone_keeps
    exact hy2

theorem execIsaFence_keeps (t : Tid) (e : IsaFact) (s : State) :
    Answers [.counters, .free, .lmem, .memories, .paddock, .regs, .report, .teams, .threads] s (execIsaFence t e s) := by
  refine answers_of fun K n => ⟨_, rfl, ?_⟩
  have i0 : Free K .counters := n _ (by simp)
  have i1 : Free K .free := n _ (by simp)
  have i2 : Free K .lmem := n _ (by simp)
  have i3 : Free K .memories := n _ (by simp)
  have i4 : Free K .paddock := n _ (by simp)
  have i5 : Free K .regs := n _ (by simp)
  have i6 : Free K .report := n _ (by simp)
  have i7 : Free K .teams := n _ (by simp)
  have i8 : Free K .threads := n _ (by simp)
  have hk0 := Keeps.refl (K := K) s
  apply issue_keeps
  · exact hk0
  · intro y0 y1 hy2
    apply effNone_keeps
    exact hy2

theorem execIsaTrap_keeps (t : Tid) (e : IsaFact) (s : State) :
    Answers [.counters, .free, .lmem, .memories, .paddock, .regs, .report, .teams, .threads] s (execIsaTrap t e s) := by
  refine answers_of fun K n => ⟨_, rfl, ?_⟩
  have i0 : Free K .counters := n _ (by simp)
  have i1 : Free K .free := n _ (by simp)
  have i2 : Free K .lmem := n _ (by simp)
  have i3 : Free K .memories := n _ (by simp)
  have i4 : Free K .paddock := n _ (by simp)
  have i5 : Free K .regs := n _ (by simp)
  have i6 : Free K .report := n _ (by simp)
  have i7 : Free K .teams := n _ (by simp)
  have i8 : Free K .threads := n _ (by simp)
  have hk0 := Keeps.refl (K := K) s
  apply issue_keeps
  · exact hk0
  · intro y0 y1 hy2
    apply effTrap_keeps
    exact hy2

end Sys2Proof.Machine
end

