-- ==== Sys2Proof/Laws/KeepsTick.lean ====
section
/-! SUPPORT. What the operations of Machine/Tick.lean keep. -/

-- One proof at a time: in the package as one text, proofs that wait for each other would each hold a thread.
set_option Elab.async false

namespace Sys2Proof.Machine

variable {K : Comp → Prop}

theorem todTick_keeps {s0 s : State} (hk0 : Keeps K s0 s) [Free K .time] :
    Keeps K s0 (State.todTick s) := by
  unfold State.todTick
  extract_lets +onlyGivenNames d_0
  clear_value d_0
  apply modTm_keeps
  · apply setTod_keeps
    exact hk0
  · intro y1
    rfl

theorem pcTick_keeps {s0 s : State} (hk0 : Keeps K s0 s) (n : Nat) [Free K .counters] :
    Keeps K s0 (State.pcTick s n) := by
  unfold State.pcTick
  extract_lets +onlyGivenNames sel_0
  clear_value sel_0
  apply bumpIf_keeps
  exact hk0

theorem pcTicks_keeps {s0 s : State} (hk0 : Keeps K s0 s) [Free K .capture] [Free K .counters] :
    Keeps K s0 (State.pcTicks s) := by
  unfold State.pcTicks
  refine keeps_ite ?_ ?_
  · exact hk0
  · extract_lets +onlyGivenNames s1_0
    refine keeps_cut (v := s1_0) ?_ fun hs1_0 => ?_
    · subst s1_0
      refine keeps_foldl _ ?_ ?_
      · exact hk0
      · intro y1 y2 hy3
        apply pcTick_keeps
        exact hy3
    clear_value s1_0
    extract_lets +onlyGivenNames m_4
    clear_value m_4
    apply modCp_keeps
    exact hs1_0

theorem groomTick_keeps {s0 s : State} (hk0 : Keeps K s0 s) [Free K .power] [Free K .report] :
    Keeps K s0 (State.groomTick s) := by
  unfold State.groomTick
  refine keeps_ite ?_ ?_
  · extract_lets +onlyGivenNames n_0
    clear_value n_0
    apply modPwr_keeps
    exact hk0
  · apply modPwr_keeps
    exact hk0

theorem tickSucc_keeps {s0 s : State} (h : Keeps K s0 s) [Free K .tick] : Keeps K s0 { s with tick := (s.tick + 1) % 2 ^ 64 } :=
  h.of_parts rfl rfl (fun _ => Nat.mod_lt _ (by decide)) id id id id id id id id id

theorem tickOp_keeps {s0 s : State} (h : Keeps K s0 s) [Free K .capture] [Free K .circuits] [Free K .client] [Free K .counters] [Free K .free] [Free K .gates] [Free K .memories] [Free K .paddock] [Free K .pairing] [Free K .power] [Free K .regs] [Free K .report] [Free K .rings] [Free K .sched] [Free K .tick] [Free K .time] [Free K .xings] [∀ x, Free K (.line x)] : Keeps K s0 s.tickOp := by
  unfold State.tickOp
  have h1 := groomTick_keeps (prtDecide_keeps h)
  refine keeps_ite h1 (snapTick_keeps (pcTicks_keeps (keeps_foldl _ (txGo_keeps ?_) fun _ p ht => macTick_keeps ht p)))
  exact spillFlush_keeps (sendTick_keeps (sendTick_keeps (todWork_keeps (todTick_keeps (tickSucc_keeps h1))) _) _)

end Sys2Proof.Machine
end

