-- ==== Sys2Proof/Laws/State.lean ====
section
/-! SUPPORT. What each update of one part of the state leaves: one lemma per field per update. -/

namespace Sys2Proof.Machine

@[simp] theorem State.setReg_grade (s : State) (k : Nat) (v : Word) : (s.setReg k v).grade = s.grade := rfl
@[simp] theorem State.setReg_pending (s : State) (k : Nat) (v : Word) : (s.setReg k v).pending = s.pending := rfl
@[simp] theorem State.setReg_tick (s : State) (k : Nat) (v : Word) : (s.setReg k v).tick = s.tick := rfl
@[simp] theorem State.setReg_freeIdx (s : State) (k : Nat) (v : Word) : (s.setReg k v).freeIdx = s.freeIdx := rfl
@[simp] theorem State.setReg_counters (s : State) (k : Nat) (v : Word) : (s.setReg k v).counters = s.counters := rfl
@[simp] theorem State.setReg_shadows (s : State) (k : Nat) (v : Word) : (s.setReg k v).shadows = s.shadows := rfl
@[simp] theorem State.setReg_lastRaise (s : State) (k : Nat) (v : Word) : (s.setReg k v).lastRaise = s.lastRaise := rfl
@[simp] theorem State.setReg_rd (s : State) (k : Nat) (v : Word) : (s.setReg k v).rd = s.rd := rfl
@[simp] theorem State.setReg_hostMem (s : State) (k : Nat) (v : Word) : (s.setReg k v).hostMem = s.hostMem := rfl
@[simp] theorem State.setReg_d3hot (s : State) (k : Nat) (v : Word) : (s.setReg k v).d3hot = s.d3hot := rfl
@[simp] theorem State.setReg_aer (s : State) (k : Nat) (v : Word) : (s.setReg k v).aer = s.aer := rfl
@[simp] theorem State.setReg_evPhase (s : State) (k : Nat) (v : Word) : (s.setReg k v).evPhase = s.evPhase := rfl
@[simp] theorem State.setReg_evLost (s : State) (k : Nat) (v : Word) : (s.setReg k v).evLost = s.evLost := rfl
@[simp] theorem State.setReg_vecs (s : State) (k : Nat) (v : Word) : (s.setReg k v).vecs = s.vecs := rfl
@[simp] theorem State.setReg_rings (s : State) (k : Nat) (v : Word) : (s.setReg k v).rings = s.rings := rfl
@[simp] theorem State.setReg_jobs (s : State) (k : Nat) (v : Word) : (s.setReg k v).jobs = s.jobs := rfl
@[simp] theorem State.setReg_cmacSeq (s : State) (k : Nat) (v : Word) : (s.setReg k v).cmacSeq = s.cmacSeq := rfl
@[simp] theorem State.setReg_txSend (s : State) (k : Nat) (v : Word) : (s.setReg k v).txSend = s.txSend := rfl
@[simp] theorem State.setReg_xings (s : State) (k : Nat) (v : Word) : (s.setReg k v).xings = s.xings := rfl
@[simp] theorem State.setReg_regions (s : State) (k : Nat) (v : Word) : (s.setReg k v).regions = s.regions := rfl
@[simp] theorem State.setReg_blockResets (s : State) (k : Nat) (v : Word) : (s.setReg k v).blockResets = s.blockResets := rfl
@[simp] theorem State.setReg_quarantined (s : State) (k : Nat) (v : Word) : (s.setReg k v).quarantined = s.quarantined := rfl
@[simp] theorem State.setReg_faultN (s : State) (k : Nat) (v : Word) : (s.setReg k v).faultN = s.faultN := rfl
@[simp] theorem State.setReg_tc (s : State) (k : Nat) (v : Word) : (s.setReg k v).tc = s.tc := rfl
@[simp] theorem State.setReg_em (s : State) (k : Nat) (v : Word) : (s.setReg k v).em = s.em := rfl
@[simp] theorem State.setReg_emDup (s : State) (k : Nat) (v : Word) : (s.setReg k v).emDup = s.emDup := rfl
@[simp] theorem State.setReg_commitTick (s : State) (k : Nat) (v : Word) : (s.setReg k v).commitTick = s.commitTick := rfl
@[simp] theorem State.setReg_drainTold (s : State) (k : Nat) (v : Word) : (s.setReg k v).drainTold = s.drainTold := rfl
@[simp] theorem State.setReg_verCopy (s : State) (k : Nat) (v : Word) : (s.setReg k v).verCopy = s.verCopy := rfl
@[simp] theorem State.setReg_pad (s : State) (k : Nat) (v : Word) : (s.setReg k v).pad = s.pad := rfl
@[simp] theorem State.setReg_nextHandle (s : State) (k : Nat) (v : Word) : (s.setReg k v).nextHandle = s.nextHandle := rfl
@[simp] theorem State.setReg_countPairs (s : State) (k : Nat) (v : Word) : (s.setReg k v).countPairs = s.countPairs := rfl
@[simp] theorem State.setReg_dispExp (s : State) (k : Nat) (v : Word) : (s.setReg k v).dispExp = s.dispExp := rfl
@[simp] theorem State.setReg_dispOther (s : State) (k : Nat) (v : Word) : (s.setReg k v).dispOther = s.dispOther := rfl
@[simp] theorem State.setReg_dispNext (s : State) (k : Nat) (v : Word) : (s.setReg k v).dispNext = s.dispNext := rfl
@[simp] theorem State.setReg_teams (s : State) (k : Nat) (v : Word) : (s.setReg k v).teams = s.teams := rfl
@[simp] theorem State.setReg_threads (s : State) (k : Nat) (v : Word) : (s.setReg k v).threads = s.threads := rfl
@[simp] theorem State.setReg_turns (s : State) (k : Nat) (v : Word) : (s.setReg k v).turns = s.turns := rfl
@[simp] theorem State.setReg_istore (s : State) (k : Nat) (v : Word) : (s.setReg k v).istore = s.istore := rfl
@[simp] theorem State.setReg_lmem (s : State) (k : Nat) (v : Word) : (s.setReg k v).lmem = s.lmem := rfl
@[simp] theorem State.setReg_smem (s : State) (k : Nat) (v : Word) : (s.setReg k v).smem = s.smem := rfl
@[simp] theorem State.setReg_queues (s : State) (k : Nat) (v : Word) : (s.setReg k v).queues = s.queues := rfl
@[simp] theorem State.setReg_groups (s : State) (k : Nat) (v : Word) : (s.setReg k v).groups = s.groups := rfl
@[simp] theorem State.setReg_vtimes (s : State) (k : Nat) (v : Word) : (s.setReg k v).vtimes = s.vtimes := rfl
@[simp] theorem State.setReg_buckets (s : State) (k : Nat) (v : Word) : (s.setReg k v).buckets = s.buckets := rfl
@[simp] theorem State.setReg_gates (s : State) (k : Nat) (v : Word) : (s.setReg k v).gates = s.gates := rfl
@[simp] theorem State.setReg_gateAdm (s : State) (k : Nat) (v : Word) : (s.setReg k v).gateAdm = s.gateAdm := rfl
@[simp] theorem State.setReg_gateOpr (s : State) (k : Nat) (v : Word) : (s.setReg k v).gateOpr = s.gateOpr := rfl
@[simp] theorem State.setReg_promotions (s : State) (k : Nat) (v : Word) : (s.setReg k v).promotions = s.promotions := rfl
@[simp] theorem State.setReg_sweep (s : State) (k : Nat) (v : Word) : (s.setReg k v).sweep = s.sweep := rfl
@[simp] theorem State.setReg_dram (s : State) (k : Nat) (v : Word) : (s.setReg k v).dram = s.dram := rfl
@[simp] theorem State.setReg_tm (s : State) (k : Nat) (v : Word) : (s.setReg k v).tm = s.tm := rfl
@[simp] theorem State.setReg_cp (s : State) (k : Nat) (v : Word) : (s.setReg k v).cp = s.cp := rfl
@[simp] theorem State.setReg_lineA (s : State) (k : Nat) (v : Word) : (s.setReg k v).lineA = s.lineA := rfl
@[simp] theorem State.setReg_lineB (s : State) (k : Nat) (v : Word) : (s.setReg k v).lineB = s.lineB := rfl
@[simp] theorem State.setReg_prt (s : State) (k : Nat) (v : Word) : (s.setReg k v).prt = s.prt := rfl
@[simp] theorem State.setReg_har (s : State) (k : Nat) (v : Word) : (s.setReg k v).har = s.har := rfl
@[simp] theorem State.setReg_sec (s : State) (k : Nat) (v : Word) : (s.setReg k v).sec = s.sec := rfl
@[simp] theorem State.setReg_pwr (s : State) (k : Nat) (v : Word) : (s.setReg k v).pwr = s.pwr := rfl
@[simp] theorem State.setReg_mem (s : State) (k : Nat) (v : Word) : (s.setReg k v).mem = s.mem := rfl
@[simp] theorem State.setReg_far (s : State) (k : Nat) (v : Word) : (s.setReg k v).far = s.far := rfl
@[simp] theorem State.setReg_cli (s : State) (k : Nat) (v : Word) : (s.setReg k v).cli = s.cli := rfl

@[simp] theorem State.bump_grade (s : State) (a n : Nat) : (s.bump a n).grade = s.grade := rfl
@[simp] theorem State.bump_pending (s : State) (a n : Nat) : (s.bump a n).pending = s.pending := rfl
@[simp] theorem State.bump_tick (s : State) (a n : Nat) : (s.bump a n).tick = s.tick := rfl
@[simp] theorem State.bump_freeIdx (s : State) (a n : Nat) : (s.bump a n).freeIdx = s.freeIdx := rfl
@[simp] theorem State.bump_regs (s : State) (a n : Nat) : (s.bump a n).regs = s.regs := rfl
@[simp] theorem State.bump_shadows (s : State) (a n : Nat) : (s.bump a n).shadows = s.shadows := rfl
@[simp] theorem State.bump_lastRaise (s : State) (a n : Nat) : (s.bump a n).lastRaise = s.lastRaise := rfl
@[simp] theorem State.bump_rd (s : State) (a n : Nat) : (s.bump a n).rd = s.rd := rfl
@[simp] theorem State.bump_hostMem (s : State) (a n : Nat) : (s.bump a n).hostMem = s.hostMem := rfl
@[simp] theorem State.bump_d3hot (s : State) (a n : Nat) : (s.bump a n).d3hot = s.d3hot := rfl
@[simp] theorem State.bump_aer (s : State) (a n : Nat) : (s.bump a n).aer = s.aer := rfl
@[simp] theorem State.bump_evPhase (s : State) (a n : Nat) : (s.bump a n).evPhase = s.evPhase := rfl
@[simp] theorem State.bump_evLost (s : State) (a n : Nat) : (s.bump a n).evLost = s.evLost := rfl
@[simp] theorem State.bump_vecs (s : State) (a n : Nat) : (s.bump a n).vecs = s.vecs := rfl
@[simp] theorem State.bump_rings (s : State) (a n : Nat) : (s.bump a n).rings = s.rings := rfl
@[simp] theorem State.bump_jobs (s : State) (a n : Nat) : (s.bump a n).jobs = s.jobs := rfl
@[simp] theorem State.bump_cmacSeq (s : State) (a n : Nat) : (s.bump a n).cmacSeq = s.cmacSeq := rfl
@[simp] theorem State.bump_txSend (s : State) (a n : Nat) : (s.bump a n).txSend = s.txSend := rfl
@[simp] theorem State.bump_xings (s : State) (a n : Nat) : (s.bump a n).xings = s.xings := rfl
@[simp] theorem State.bump_regions (s : State) (a n : Nat) : (s.bump a n).regions = s.regions := rfl
@[simp] theorem State.bump_blockResets (s : State) (a n : Nat) : (s.bump a n).blockResets = s.blockResets := rfl
@[simp] theorem State.bump_quarantined (s : State) (a n : Nat) : (s.bump a n).quarantined = s.quarantined := rfl
@[simp] theorem State.bump_faultN (s : State) (a n : Nat) : (s.bump a n).faultN = s.faultN := rfl
@[simp] theorem State.bump_tc (s : State) (a n : Nat) : (s.bump a n).tc = s.tc := rfl
@[simp] theorem State.bump_em (s : State) (a n : Nat) : (s.bump a n).em = s.em := rfl
@[simp] theorem State.bump_emDup (s : State) (a n : Nat) : (s.bump a n).emDup = s.emDup := rfl
@[simp] theorem State.bump_commitTick (s : State) (a n : Nat) : (s.bump a n).commitTick = s.commitTick := rfl
@[simp] theorem State.bump_drainTold (s : State) (a n : Nat) : (s.bump a n).drainTold = s.drainTold := rfl
@[simp] theorem State.bump_verCopy (s : State) (a n : Nat) : (s.bump a n).verCopy = s.verCopy := rfl
@[simp] theorem State.bump_pad (s : State) (a n : Nat) : (s.bump a n).pad = s.pad := rfl
@[simp] theorem State.bump_nextHandle (s : State) (a n : Nat) : (s.bump a n).nextHandle = s.nextHandle := rfl
@[simp] theorem State.bump_countPairs (s : State) (a n : Nat) : (s.bump a n).countPairs = s.countPairs := rfl
@[simp] theorem State.bump_dispExp (s : State) (a n : Nat) : (s.bump a n).dispExp = s.dispExp := rfl
@[simp] theorem State.bump_dispOther (s : State) (a n : Nat) : (s.bump a n).dispOther = s.dispOther := rfl
@[simp] theorem State.bump_dispNext (s : State) (a n : Nat) : (s.bump a n).dispNext = s.dispNext := rfl
@[simp] theorem State.bump_teams (s : State) (a n : Nat) : (s.bump a n).teams = s.teams := rfl
@[simp] theorem State.bump_threads (s : State) (a n : Nat) : (s.bump a n).threads = s.threads := rfl
@[simp] theorem State.bump_turns (s : State) (a n : Nat) : (s.bump a n).turns = s.turns := rfl
@[simp] theorem State.bump_istore (s : State) (a n : Nat) : (s.bump a n).istore = s.istore := rfl
@[simp] theorem State.bump_lmem (s : State) (a n : Nat) : (s.bump a n).lmem = s.lmem := rfl
@[simp] theorem State.bump_smem (s : State) (a n : Nat) : (s.bump a n).smem = s.smem := rfl
@[simp] theorem State.bump_queues (s : State) (a n : Nat) : (s.bump a n).queues = s.queues := rfl
@[simp] theorem State.bump_groups (s : State) (a n : Nat) : (s.bump a n).groups = s.groups := rfl
@[simp] theorem State.bump_vtimes (s : State) (a n : Nat) : (s.bump a n).vtimes = s.vtimes := rfl
@[simp] theorem State.bump_buckets (s : State) (a n : Nat) : (s.bump a n).buckets = s.buckets := rfl
@[simp] theorem State.bump_gates (s : State) (a n : Nat) : (s.bump a n).gates = s.gates := rfl
@[simp] theorem State.bump_gateAdm (s : State) (a n : Nat) : (s.bump a n).gateAdm = s.gateAdm := rfl
@[simp] theorem State.bump_gateOpr (s : State) (a n : Nat) : (s.bump a n).gateOpr = s.gateOpr := rfl
@[simp] theorem State.bump_promotions (s : State) (a n : Nat) : (s.bump a n).promotions = s.promotions := rfl
@[simp] theorem State.bump_sweep (s : State) (a n : Nat) : (s.bump a n).sweep = s.sweep := rfl
@[simp] theorem State.bump_dram (s : State) (a n : Nat) : (s.bump a n).dram = s.dram := rfl
@[simp] theorem State.bump_tm (s : State) (a n : Nat) : (s.bump a n).tm = s.tm := rfl
@[simp] theorem State.bump_cp (s : State) (a n : Nat) : (s.bump a n).cp = s.cp := rfl
@[simp] theorem State.bump_lineA (s : State) (a n : Nat) : (s.bump a n).lineA = s.lineA := rfl
@[simp] theorem State.bump_lineB (s : State) (a n : Nat) : (s.bump a n).lineB = s.lineB := rfl
@[simp] theorem State.bump_prt (s : State) (a n : Nat) : (s.bump a n).prt = s.prt := rfl
@[simp] theorem State.bump_har (s : State) (a n : Nat) : (s.bump a n).har = s.har := rfl
@[simp] theorem State.bump_sec (s : State) (a n : Nat) : (s.bump a n).sec = s.sec := rfl
@[simp] theorem State.bump_pwr (s : State) (a n : Nat) : (s.bump a n).pwr = s.pwr := rfl
@[simp] theorem State.bump_mem (s : State) (a n : Nat) : (s.bump a n).mem = s.mem := rfl
@[simp] theorem State.bump_far (s : State) (a n : Nat) : (s.bump a n).far = s.far := rfl
@[simp] theorem State.bump_cli (s : State) (a n : Nat) : (s.bump a n).cli = s.cli := rfl

@[simp] theorem State.modTm_grade (s : State) (g : TimeSt → TimeSt) : (s.modTm g).grade = s.grade := rfl
@[simp] theorem State.modTm_pending (s : State) (g : TimeSt → TimeSt) : (s.modTm g).pending = s.pending := rfl
@[simp] theorem State.modTm_tick (s : State) (g : TimeSt → TimeSt) : (s.modTm g).tick = s.tick := rfl
@[simp] theorem State.modTm_freeIdx (s : State) (g : TimeSt → TimeSt) : (s.modTm g).freeIdx = s.freeIdx := rfl
@[simp] theorem State.modTm_regs (s : State) (g : TimeSt → TimeSt) : (s.modTm g).regs = s.regs := rfl
@[simp] theorem State.modTm_counters (s : State) (g : TimeSt → TimeSt) : (s.modTm g).counters = s.counters := rfl
@[simp] theorem State.modTm_shadows (s : State) (g : TimeSt → TimeSt) : (s.modTm g).shadows = s.shadows := rfl
@[simp] theorem State.modTm_lastRaise (s : State) (g : TimeSt → TimeSt) : (s.modTm g).lastRaise = s.lastRaise := rfl
@[simp] theorem State.modTm_rd (s : State) (g : TimeSt → TimeSt) : (s.modTm g).rd = s.rd := rfl
@[simp] theorem State.modTm_hostMem (s : State) (g : TimeSt → TimeSt) : (s.modTm g).hostMem = s.hostMem := rfl
@[simp] theorem State.modTm_d3hot (s : State) (g : TimeSt → TimeSt) : (s.modTm g).d3hot = s.d3hot := rfl
@[simp] theorem State.modTm_aer (s : State) (g : TimeSt → TimeSt) : (s.modTm g).aer = s.aer := rfl
@[simp] theorem State.modTm_evPhase (s : State) (g : TimeSt → TimeSt) : (s.modTm g).evPhase = s.evPhase := rfl
@[simp] theorem State.modTm_evLost (s : State) (g : TimeSt → TimeSt) : (s.modTm g).evLost = s.evLost := rfl
@[simp] theorem State.modTm_vecs (s : State) (g : TimeSt → TimeSt) : (s.modTm g).vecs = s.vecs := rfl
@[simp] theorem State.modTm_rings (s : State) (g : TimeSt → TimeSt) : (s.modTm g).rings = s.rings := rfl
@[simp] theorem State.modTm_jobs (s : State) (g : TimeSt → TimeSt) : (s.modTm g).jobs = s.jobs := rfl
@[simp] theorem State.modTm_cmacSeq (s : State) (g : TimeSt → TimeSt) : (s.modTm g).cmacSeq = s.cmacSeq := rfl
@[simp] theorem State.modTm_txSend (s : State) (g : TimeSt → TimeSt) : (s.modTm g).txSend = s.txSend := rfl
@[simp] theorem State.modTm_xings (s : State) (g : TimeSt → TimeSt) : (s.modTm g).xings = s.xings := rfl
@[simp] theorem State.modTm_regions (s : State) (g : TimeSt → TimeSt) : (s.modTm g).regions = s.regions := rfl
@[simp] theorem State.modTm_blockResets (s : State) (g : TimeSt → TimeSt) : (s.modTm g).blockResets = s.blockResets := rfl
@[simp] theorem State.modTm_quarantined (s : State) (g : TimeSt → TimeSt) : (s.modTm g).quarantined = s.quarantined := rfl
@[simp] theorem State.modTm_faultN (s : State) (g : TimeSt → TimeSt) : (s.modTm g).faultN = s.faultN := rfl
@[simp] theorem State.modTm_tc (s : State) (g : TimeSt → TimeSt) : (s.modTm g).tc = s.tc := rfl
@[simp] theorem State.modTm_em (s : State) (g : TimeSt → TimeSt) : (s.modTm g).em = s.em := rfl
@[simp] theorem State.modTm_emDup (s : State) (g : TimeSt → TimeSt) : (s.modTm g).emDup = s.emDup := rfl
@[simp] theorem State.modTm_commitTick (s : State) (g : TimeSt → TimeSt) : (s.modTm g).commitTick = s.commitTick := rfl
@[simp] theorem State.modTm_drainTold (s : State) (g : TimeSt → TimeSt) : (s.modTm g).drainTold = s.drainTold := rfl
@[simp] theorem State.modTm_verCopy (s : State) (g : TimeSt → TimeSt) : (s.modTm g).verCopy = s.verCopy := rfl
@[simp] theorem State.modTm_pad (s : State) (g : TimeSt → TimeSt) : (s.modTm g).pad = s.pad := rfl
@[simp] theorem State.modTm_nextHandle (s : State) (g : TimeSt → TimeSt) : (s.modTm g).nextHandle = s.nextHandle := rfl
@[simp] theorem State.modTm_countPairs (s : State) (g : TimeSt → TimeSt) : (s.modTm g).countPairs = s.countPairs := rfl
@[simp] theorem State.modTm_dispExp (s : State) (g : TimeSt → TimeSt) : (s.modTm g).dispExp = s.dispExp := rfl
@[simp] theorem State.modTm_dispOther (s : State) (g : TimeSt → TimeSt) : (s.modTm g).dispOther = s.dispOther := rfl
@[simp] theorem State.modTm_dispNext (s : State) (g : TimeSt → TimeSt) : (s.modTm g).dispNext = s.dispNext := rfl
@[simp] theorem State.modTm_teams (s : State) (g : TimeSt → TimeSt) : (s.modTm g).teams = s.teams := rfl
@[simp] theorem State.modTm_threads (s : State) (g : TimeSt → TimeSt) : (s.modTm g).threads = s.threads := rfl
@[simp] theorem State.modTm_turns (s : State) (g : TimeSt → TimeSt) : (s.modTm g).turns = s.turns := rfl
@[simp] theorem State.modTm_istore (s : State) (g : TimeSt → TimeSt) : (s.modTm g).istore = s.istore := rfl
@[simp] theorem State.modTm_lmem (s : State) (g : TimeSt → TimeSt) : (s.modTm g).lmem = s.lmem := rfl
@[simp] theorem State.modTm_smem (s : State) (g : TimeSt → TimeSt) : (s.modTm g).smem = s.smem := rfl
@[simp] theorem State.modTm_queues (s : State) (g : TimeSt → TimeSt) : (s.modTm g).queues = s.queues := rfl
@[simp] theorem State.modTm_groups (s : State) (g : TimeSt → TimeSt) : (s.modTm g).groups = s.groups := rfl
@[simp] theorem State.modTm_vtimes (s : State) (g : TimeSt → TimeSt) : (s.modTm g).vtimes = s.vtimes := rfl
@[simp] theorem State.modTm_buckets (s : State) (g : TimeSt → TimeSt) : (s.modTm g).buckets = s.buckets := rfl
@[simp] theorem State.modTm_gates (s : State) (g : TimeSt → TimeSt) : (s.modTm g).gates = s.gates := rfl
@[simp] theorem State.modTm_gateAdm (s : State) (g : TimeSt → TimeSt) : (s.modTm g).gateAdm = s.gateAdm := rfl
@[simp] theorem State.modTm_gateOpr (s : State) (g : TimeSt → TimeSt) : (s.modTm g).gateOpr = s.gateOpr := rfl
@[simp] theorem State.modTm_promotions (s : State) (g : TimeSt → TimeSt) : (s.modTm g).promotions = s.promotions := rfl
@[simp] theorem State.modTm_sweep (s : State) (g : TimeSt → TimeSt) : (s.modTm g).sweep = s.sweep := rfl
@[simp] theorem State.modTm_dram (s : State) (g : TimeSt → TimeSt) : (s.modTm g).dram = s.dram := rfl
@[simp] theorem State.modTm_cp (s : State) (g : TimeSt → TimeSt) : (s.modTm g).cp = s.cp := rfl
@[simp] theorem State.modTm_lineA (s : State) (g : TimeSt → TimeSt) : (s.modTm g).lineA = s.lineA := rfl
@[simp] theorem State.modTm_lineB (s : State) (g : TimeSt → TimeSt) : (s.modTm g).lineB = s.lineB := rfl
@[simp] theorem State.modTm_prt (s : State) (g : TimeSt → TimeSt) : (s.modTm g).prt = s.prt := rfl
@[simp] theorem State.modTm_har (s : State) (g : TimeSt → TimeSt) : (s.modTm g).har = s.har := rfl
@[simp] theorem State.modTm_sec (s : State) (g : TimeSt → TimeSt) : (s.modTm g).sec = s.sec := rfl
@[simp] theorem State.modTm_pwr (s : State) (g : TimeSt → TimeSt) : (s.modTm g).pwr = s.pwr := rfl
@[simp] theorem State.modTm_mem (s : State) (g : TimeSt → TimeSt) : (s.modTm g).mem = s.mem := rfl
@[simp] theorem State.modTm_far (s : State) (g : TimeSt → TimeSt) : (s.modTm g).far = s.far := rfl
@[simp] theorem State.modTm_cli (s : State) (g : TimeSt → TimeSt) : (s.modTm g).cli = s.cli := rfl

@[simp] theorem State.modTm_tm (s : State) (g : TimeSt → TimeSt) : (s.modTm g).tm = g s.tm := rfl

@[simp] theorem State.modCp_grade (s : State) (g : CapSt → CapSt) : (s.modCp g).grade = s.grade := rfl
@[simp] theorem State.modCp_pending (s : State) (g : CapSt → CapSt) : (s.modCp g).pending = s.pending := rfl
@[simp] theorem State.modCp_tick (s : State) (g : CapSt → CapSt) : (s.modCp g).tick = s.tick := rfl
@[simp] theorem State.modCp_freeIdx (s : State) (g : CapSt → CapSt) : (s.modCp g).freeIdx = s.freeIdx := rfl
@[simp] theorem State.modCp_regs (s : State) (g : CapSt → CapSt) : (s.modCp g).regs = s.regs := rfl
@[simp] theorem State.modCp_counters (s : State) (g : CapSt → CapSt) : (s.modCp g).counters = s.counters := rfl
@[simp] theorem State.modCp_shadows (s : State) (g : CapSt → CapSt) : (s.modCp g).shadows = s.shadows := rfl
@[simp] theorem State.modCp_lastRaise (s : State) (g : CapSt → CapSt) : (s.modCp g).lastRaise = s.lastRaise := rfl
@[simp] theorem State.modCp_rd (s : State) (g : CapSt → CapSt) : (s.modCp g).rd = s.rd := rfl
@[simp] theorem State.modCp_hostMem (s : State) (g : CapSt → CapSt) : (s.modCp g).hostMem = s.hostMem := rfl
@[simp] theorem State.modCp_d3hot (s : State) (g : CapSt → CapSt) : (s.modCp g).d3hot = s.d3hot := rfl
@[simp] theorem State.modCp_aer (s : State) (g : CapSt → CapSt) : (s.modCp g).aer = s.aer := rfl
@[simp] theorem State.modCp_evPhase (s : State) (g : CapSt → CapSt) : (s.modCp g).evPhase = s.evPhase := rfl
@[simp] theorem State.modCp_evLost (s : State) (g : CapSt → CapSt) : (s.modCp g).evLost = s.evLost := rfl
@[simp] theorem State.modCp_vecs (s : State) (g : CapSt → CapSt) : (s.modCp g).vecs = s.vecs := rfl
@[simp] theorem State.modCp_rings (s : State) (g : CapSt → CapSt) : (s.modCp g).rings = s.rings := rfl
@[simp] theorem State.modCp_jobs (s : State) (g : CapSt → CapSt) : (s.modCp g).jobs = s.jobs := rfl
@[simp] theorem State.modCp_cmacSeq (s : State) (g : CapSt → CapSt) : (s.modCp g).cmacSeq = s.cmacSeq := rfl
@[simp] theorem State.modCp_txSend (s : State) (g : CapSt → CapSt) : (s.modCp g).txSend = s.txSend := rfl
@[simp] theorem State.modCp_xings (s : State) (g : CapSt → CapSt) : (s.modCp g).xings = s.xings := rfl
@[simp] theorem State.modCp_regions (s : State) (g : CapSt → CapSt) : (s.modCp g).regions = s.regions := rfl
@[simp] theorem State.modCp_blockResets (s : State) (g : CapSt → CapSt) : (s.modCp g).blockResets = s.blockResets := rfl
@[simp] theorem State.modCp_quarantined (s : State) (g : CapSt → CapSt) : (s.modCp g).quarantined = s.quarantined := rfl
@[simp] theorem State.modCp_faultN (s : State) (g : CapSt → CapSt) : (s.modCp g).faultN = s.faultN := rfl
@[simp] theorem State.modCp_tc (s : State) (g : CapSt → CapSt) : (s.modCp g).tc = s.tc := rfl
@[simp] theorem State.modCp_em (s : State) (g : CapSt → CapSt) : (s.modCp g).em = s.em := rfl
@[simp] theorem State.modCp_emDup (s : State) (g : CapSt → CapSt) : (s.modCp g).emDup = s.emDup := rfl
@[simp] theorem State.modCp_commitTick (s : State) (g : CapSt → CapSt) : (s.modCp g).commitTick = s.commitTick := rfl
@[simp] theorem State.modCp_drainTold (s : State) (g : CapSt → CapSt) : (s.modCp g).drainTold = s.drainTold := rfl
@[simp] theorem State.modCp_verCopy (s : State) (g : CapSt → CapSt) : (s.modCp g).verCopy = s.verCopy := rfl
@[simp] theorem State.modCp_pad (s : State) (g : CapSt → CapSt) : (s.modCp g).pad = s.pad := rfl
@[simp] theorem State.modCp_nextHandle (s : State) (g : CapSt → CapSt) : (s.modCp g).nextHandle = s.nextHandle := rfl
@[simp] theorem State.modCp_countPairs (s : State) (g : CapSt → CapSt) : (s.modCp g).countPairs = s.countPairs := rfl
@[simp] theorem State.modCp_dispExp (s : State) (g : CapSt → CapSt) : (s.modCp g).dispExp = s.dispExp := rfl
@[simp] theorem State.modCp_dispOther (s : State) (g : CapSt → CapSt) : (s.modCp g).dispOther = s.dispOther := rfl
@[simp] theorem State.modCp_dispNext (s : State) (g : CapSt → CapSt) : (s.modCp g).dispNext = s.dispNext := rfl
@[simp] theorem State.modCp_teams (s : State) (g : CapSt → CapSt) : (s.modCp g).teams = s.teams := rfl
@[simp] theorem State.modCp_threads (s : State) (g : CapSt → CapSt) : (s.modCp g).threads = s.threads := rfl
@[simp] theorem State.modCp_turns (s : State) (g : CapSt → CapSt) : (s.modCp g).turns = s.turns := rfl
@[simp] theorem State.modCp_istore (s : State) (g : CapSt → CapSt) : (s.modCp g).istore = s.istore := rfl
@[simp] theorem State.modCp_lmem (s : State) (g : CapSt → CapSt) : (s.modCp g).lmem = s.lmem := rfl
@[simp] theorem State.modCp_smem (s : State) (g : CapSt → CapSt) : (s.modCp g).smem = s.smem := rfl
@[simp] theorem State.modCp_queues (s : State) (g : CapSt → CapSt) : (s.modCp g).queues = s.queues := rfl
@[simp] theorem State.modCp_groups (s : State) (g : CapSt → CapSt) : (s.modCp g).groups = s.groups := rfl
@[simp] theorem State.modCp_vtimes (s : State) (g : CapSt → CapSt) : (s.modCp g).vtimes = s.vtimes := rfl
@[simp] theorem State.modCp_buckets (s : State) (g : CapSt → CapSt) : (s.modCp g).buckets = s.buckets := rfl
@[simp] theorem State.modCp_gates (s : State) (g : CapSt → CapSt) : (s.modCp g).gates = s.gates := rfl
@[simp] theorem State.modCp_gateAdm (s : State) (g : CapSt → CapSt) : (s.modCp g).gateAdm = s.gateAdm := rfl
@[simp] theorem State.modCp_gateOpr (s : State) (g : CapSt → CapSt) : (s.modCp g).gateOpr = s.gateOpr := rfl
@[simp] theorem State.modCp_promotions (s : State) (g : CapSt → CapSt) : (s.modCp g).promotions = s.promotions := rfl
@[simp] theorem State.modCp_sweep (s : State) (g : CapSt → CapSt) : (s.modCp g).sweep = s.sweep := rfl
@[simp] theorem State.modCp_dram (s : State) (g : CapSt → CapSt) : (s.modCp g).dram = s.dram := rfl
@[simp] theorem State.modCp_tm (s : State) (g : CapSt → CapSt) : (s.modCp g).tm = s.tm := rfl
@[simp] theorem State.modCp_lineA (s : State) (g : CapSt → CapSt) : (s.modCp g).lineA = s.lineA := rfl
@[simp] theorem State.modCp_lineB (s : State) (g : CapSt → CapSt) : (s.modCp g).lineB = s.lineB := rfl
@[simp] theorem State.modCp_prt (s : State) (g : CapSt → CapSt) : (s.modCp g).prt = s.prt := rfl
@[simp] theorem State.modCp_har (s : State) (g : CapSt → CapSt) : (s.modCp g).har = s.har := rfl
@[simp] theorem State.modCp_sec (s : State) (g : CapSt → CapSt) : (s.modCp g).sec = s.sec := rfl
@[simp] theorem State.modCp_pwr (s : State) (g : CapSt → CapSt) : (s.modCp g).pwr = s.pwr := rfl
@[simp] theorem State.modCp_mem (s : State) (g : CapSt → CapSt) : (s.modCp g).mem = s.mem := rfl
@[simp] theorem State.modCp_far (s : State) (g : CapSt → CapSt) : (s.modCp g).far = s.far := rfl
@[simp] theorem State.modCp_cli (s : State) (g : CapSt → CapSt) : (s.modCp g).cli = s.cli := rfl

@[simp] theorem State.modCp_cp (s : State) (g : CapSt → CapSt) : (s.modCp g).cp = g s.cp := rfl

@[simp] theorem State.modPrt_grade (s : State) (g : PrtSt → PrtSt) : (s.modPrt g).grade = s.grade := rfl
@[simp] theorem State.modPrt_pending (s : State) (g : PrtSt → PrtSt) : (s.modPrt g).pending = s.pending := rfl
@[simp] theorem State.modPrt_tick (s : State) (g : PrtSt → PrtSt) : (s.modPrt g).tick = s.tick := rfl
@[simp] theorem State.modPrt_freeIdx (s : State) (g : PrtSt → PrtSt) : (s.modPrt g).freeIdx = s.freeIdx := rfl
@[simp] theorem State.modPrt_regs (s : State) (g : PrtSt → PrtSt) : (s.modPrt g).regs = s.regs := rfl
@[simp] theorem State.modPrt_counters (s : State) (g : PrtSt → PrtSt) : (s.modPrt g).counters = s.counters := rfl
@[simp] theorem State.modPrt_shadows (s : State) (g : PrtSt → PrtSt) : (s.modPrt g).shadows = s.shadows := rfl
@[simp] theorem State.modPrt_lastRaise (s : State) (g : PrtSt → PrtSt) : (s.modPrt g).lastRaise = s.lastRaise := rfl
@[simp] theorem State.modPrt_rd (s : State) (g : PrtSt → PrtSt) : (s.modPrt g).rd = s.rd := rfl
@[simp] theorem State.modPrt_hostMem (s : State) (g : PrtSt → PrtSt) : (s.modPrt g).hostMem = s.hostMem := rfl
@[simp] theorem State.modPrt_d3hot (s : State) (g : PrtSt → PrtSt) : (s.modPrt g).d3hot = s.d3hot := rfl
@[simp] theorem State.modPrt_aer (s : State) (g : PrtSt → PrtSt) : (s.modPrt g).aer = s.aer := rfl
@[simp] theorem State.modPrt_evPhase (s : State) (g : PrtSt → PrtSt) : (s.modPrt g).evPhase = s.evPhase := rfl
@[simp] theorem State.modPrt_evLost (s : State) (g : PrtSt → PrtSt) : (s.modPrt g).evLost = s.evLost := rfl
@[simp] theorem State.modPrt_vecs (s : State) (g : PrtSt → PrtSt) : (s.modPrt g).vecs = s.vecs := rfl
@[simp] theorem State.modPrt_rings (s : State) (g : PrtSt → PrtSt) : (s.modPrt g).rings = s.rings := rfl
@[simp] theorem State.modPrt_jobs (s : State) (g : PrtSt → PrtSt) : (s.modPrt g).jobs = s.jobs := rfl
@[simp] theorem State.modPrt_cmacSeq (s : State) (g : PrtSt → PrtSt) : (s.modPrt g).cmacSeq = s.cmacSeq := rfl
@[simp] theorem State.modPrt_txSend (s : State) (g : PrtSt → PrtSt) : (s.modPrt g).txSend = s.txSend := rfl
@[simp] theorem State.modPrt_xings (s : State) (g : PrtSt → PrtSt) : (s.modPrt g).xings = s.xings := rfl
@[simp] theorem State.modPrt_regions (s : State) (g : PrtSt → PrtSt) : (s.modPrt g).regions = s.regions := rfl
@[simp] theorem State.modPrt_blockResets (s : State) (g : PrtSt → PrtSt) : (s.modPrt g).blockResets = s.blockResets := rfl
@[simp] theorem State.modPrt_quarantined (s : State) (g : PrtSt → PrtSt) : (s.modPrt g).quarantined = s.quarantined := rfl
@[simp] theorem State.modPrt_faultN (s : State) (g : PrtSt → PrtSt) : (s.modPrt g).faultN = s.faultN := rfl
@[simp] theorem State.modPrt_tc (s : State) (g : PrtSt → PrtSt) : (s.modPrt g).tc = s.tc := rfl
@[simp] theorem State.modPrt_em (s : State) (g : PrtSt → PrtSt) : (s.modPrt g).em = s.em := rfl
@[simp] theorem State.modPrt_emDup (s : State) (g : PrtSt → PrtSt) : (s.modPrt g).emDup = s.emDup := rfl
@[simp] theorem State.modPrt_commitTick (s : State) (g : PrtSt → PrtSt) : (s.modPrt g).commitTick = s.commitTick := rfl
@[simp] theorem State.modPrt_drainTold (s : State) (g : PrtSt → PrtSt) : (s.modPrt g).drainTold = s.drainTold := rfl
@[simp] theorem State.modPrt_verCopy (s : State) (g : PrtSt → PrtSt) : (s.modPrt g).verCopy = s.verCopy := rfl
@[simp] theorem State.modPrt_pad (s : State) (g : PrtSt → PrtSt) : (s.modPrt g).pad = s.pad := rfl
@[simp] theorem State.modPrt_nextHandle (s : State) (g : PrtSt → PrtSt) : (s.modPrt g).nextHandle = s.nextHandle := rfl
@[simp] theorem State.modPrt_countPairs (s : State) (g : PrtSt → PrtSt) : (s.modPrt g).countPairs = s.countPairs := rfl
@[simp] theorem State.modPrt_dispExp (s : State) (g : PrtSt → PrtSt) : (s.modPrt g).dispExp = s.dispExp := rfl
@[simp] theorem State.modPrt_dispOther (s : State) (g : PrtSt → PrtSt) : (s.modPrt g).dispOther = s.dispOther := rfl
@[simp] theorem State.modPrt_dispNext (s : State) (g : PrtSt → PrtSt) : (s.modPrt g).dispNext = s.dispNext := rfl
@[simp] theorem State.modPrt_teams (s : State) (g : PrtSt → PrtSt) : (s.modPrt g).teams = s.teams := rfl
@[simp] theorem State.modPrt_threads (s : State) (g : PrtSt → PrtSt) : (s.modPrt g).threads = s.threads := rfl
@[simp] theorem State.modPrt_turns (s : State) (g : PrtSt → PrtSt) : (s.modPrt g).turns = s.turns := rfl
@[simp] theorem State.modPrt_istore (s : State) (g : PrtSt → PrtSt) : (s.modPrt g).istore = s.istore := rfl
@[simp] theorem State.modPrt_lmem (s : State) (g : PrtSt → PrtSt) : (s.modPrt g).lmem = s.lmem := rfl
@[simp] theorem State.modPrt_smem (s : State) (g : PrtSt → PrtSt) : (s.modPrt g).smem = s.smem := rfl
@[simp] theorem State.modPrt_queues (s : State) (g : PrtSt → PrtSt) : (s.modPrt g).queues = s.queues := rfl
@[simp] theorem State.modPrt_groups (s : State) (g : PrtSt → PrtSt) : (s.modPrt g).groups = s.groups := rfl
@[simp] theorem State.modPrt_vtimes (s : State) (g : PrtSt → PrtSt) : (s.modPrt g).vtimes = s.vtimes := rfl
@[simp] theorem State.modPrt_buckets (s : State) (g : PrtSt → PrtSt) : (s.modPrt g).buckets = s.buckets := rfl
@[simp] theorem State.modPrt_gates (s : State) (g : PrtSt → PrtSt) : (s.modPrt g).gates = s.gates := rfl
@[simp] theorem State.modPrt_gateAdm (s : State) (g : PrtSt → PrtSt) : (s.modPrt g).gateAdm = s.gateAdm := rfl
@[simp] theorem State.modPrt_gateOpr (s : State) (g : PrtSt → PrtSt) : (s.modPrt g).gateOpr = s.gateOpr := rfl
@[simp] theorem State.modPrt_promotions (s : State) (g : PrtSt → PrtSt) : (s.modPrt g).promotions = s.promotions := rfl
@[simp] theorem State.modPrt_sweep (s : State) (g : PrtSt → PrtSt) : (s.modPrt g).sweep = s.sweep := rfl
@[simp] theorem State.modPrt_dram (s : State) (g : PrtSt → PrtSt) : (s.modPrt g).dram = s.dram := rfl
@[simp] theorem State.modPrt_tm (s : State) (g : PrtSt → PrtSt) : (s.modPrt g).tm = s.tm := rfl
@[simp] theorem State.modPrt_cp (s : State) (g : PrtSt → PrtSt) : (s.modPrt g).cp = s.cp := rfl
@[simp] theorem State.modPrt_lineA (s : State) (g : PrtSt → PrtSt) : (s.modPrt g).lineA = s.lineA := rfl
@[simp] theorem State.modPrt_lineB (s : State) (g : PrtSt → PrtSt) : (s.modPrt g).lineB = s.lineB := rfl
@[simp] theorem State.modPrt_har (s : State) (g : PrtSt → PrtSt) : (s.modPrt g).har = s.har := rfl
@[simp] theorem State.modPrt_sec (s : State) (g : PrtSt → PrtSt) : (s.modPrt g).sec = s.sec := rfl
@[simp] theorem State.modPrt_pwr (s : State) (g : PrtSt → PrtSt) : (s.modPrt g).pwr = s.pwr := rfl
@[simp] theorem State.modPrt_mem (s : State) (g : PrtSt → PrtSt) : (s.modPrt g).mem = s.mem := rfl
@[simp] theorem State.modPrt_far (s : State) (g : PrtSt → PrtSt) : (s.modPrt g).far = s.far := rfl
@[simp] theorem State.modPrt_cli (s : State) (g : PrtSt → PrtSt) : (s.modPrt g).cli = s.cli := rfl

@[simp] theorem State.modPrt_prt (s : State) (g : PrtSt → PrtSt) : (s.modPrt g).prt = g s.prt := rfl

@[simp] theorem State.modHar_grade (s : State) (g : HarSt → HarSt) : (s.modHar g).grade = s.grade := rfl
@[simp] theorem State.modHar_pending (s : State) (g : HarSt → HarSt) : (s.modHar g).pending = s.pending := rfl
@[simp] theorem State.modHar_tick (s : State) (g : HarSt → HarSt) : (s.modHar g).tick = s.tick := rfl
@[simp] theorem State.modHar_freeIdx (s : State) (g : HarSt → HarSt) : (s.modHar g).freeIdx = s.freeIdx := rfl
@[simp] theorem State.modHar_regs (s : State) (g : HarSt → HarSt) : (s.modHar g).regs = s.regs := rfl
@[simp] theorem State.modHar_counters (s : State) (g : HarSt → HarSt) : (s.modHar g).counters = s.counters := rfl
@[simp] theorem State.modHar_shadows (s : State) (g : HarSt → HarSt) : (s.modHar g).shadows = s.shadows := rfl
@[simp] theorem State.modHar_lastRaise (s : State) (g : HarSt → HarSt) : (s.modHar g).lastRaise = s.lastRaise := rfl
@[simp] theorem State.modHar_rd (s : State) (g : HarSt → HarSt) : (s.modHar g).rd = s.rd := rfl
@[simp] theorem State.modHar_hostMem (s : State) (g : HarSt → HarSt) : (s.modHar g).hostMem = s.hostMem := rfl
@[simp] theorem State.modHar_d3hot (s : State) (g : HarSt → HarSt) : (s.modHar g).d3hot = s.d3hot := rfl
@[simp] theorem State.modHar_aer (s : State) (g : HarSt → HarSt) : (s.modHar g).aer = s.aer := rfl
@[simp] theorem State.modHar_evPhase (s : State) (g : HarSt → HarSt) : (s.modHar g).evPhase = s.evPhase := rfl
@[simp] theorem State.modHar_evLost (s : State) (g : HarSt → HarSt) : (s.modHar g).evLost = s.evLost := rfl
@[simp] theorem State.modHar_vecs (s : State) (g : HarSt → HarSt) : (s.modHar g).vecs = s.vecs := rfl
@[simp] theorem State.modHar_rings (s : State) (g : HarSt → HarSt) : (s.modHar g).rings = s.rings := rfl
@[simp] theorem State.modHar_jobs (s : State) (g : HarSt → HarSt) : (s.modHar g).jobs = s.jobs := rfl
@[simp] theorem State.modHar_cmacSeq (s : State) (g : HarSt → HarSt) : (s.modHar g).cmacSeq = s.cmacSeq := rfl
@[simp] theorem State.modHar_txSend (s : State) (g : HarSt → HarSt) : (s.modHar g).txSend = s.txSend := rfl
@[simp] theorem State.modHar_xings (s : State) (g : HarSt → HarSt) : (s.modHar g).xings = s.xings := rfl
@[simp] theorem State.modHar_regions (s : State) (g : HarSt → HarSt) : (s.modHar g).regions = s.regions := rfl
@[simp] theorem State.modHar_blockResets (s : State) (g : HarSt → HarSt) : (s.modHar g).blockResets = s.blockResets := rfl
@[simp] theorem State.modHar_quarantined (s : State) (g : HarSt → HarSt) : (s.modHar g).quarantined = s.quarantined := rfl
@[simp] theorem State.modHar_faultN (s : State) (g : HarSt → HarSt) : (s.modHar g).faultN = s.faultN := rfl
@[simp] theorem State.modHar_tc (s : State) (g : HarSt → HarSt) : (s.modHar g).tc = s.tc := rfl
@[simp] theorem State.modHar_em (s : State) (g : HarSt → HarSt) : (s.modHar g).em = s.em := rfl
@[simp] theorem State.modHar_emDup (s : State) (g : HarSt → HarSt) : (s.modHar g).emDup = s.emDup := rfl
@[simp] theorem State.modHar_commitTick (s : State) (g : HarSt → HarSt) : (s.modHar g).commitTick = s.commitTick := rfl
@[simp] theorem State.modHar_drainTold (s : State) (g : HarSt → HarSt) : (s.modHar g).drainTold = s.drainTold := rfl
@[simp] theorem State.modHar_verCopy (s : State) (g : HarSt → HarSt) : (s.modHar g).verCopy = s.verCopy := rfl
@[simp] theorem State.modHar_pad (s : State) (g : HarSt → HarSt) : (s.modHar g).pad = s.pad := rfl
@[simp] theorem State.modHar_nextHandle (s : State) (g : HarSt → HarSt) : (s.modHar g).nextHandle = s.nextHandle := rfl
@[simp] theorem State.modHar_countPairs (s : State) (g : HarSt → HarSt) : (s.modHar g).countPairs = s.countPairs := rfl
@[simp] theorem State.modHar_dispExp (s : State) (g : HarSt → HarSt) : (s.modHar g).dispExp = s.dispExp := rfl
@[simp] theorem State.modHar_dispOther (s : State) (g : HarSt → HarSt) : (s.modHar g).dispOther = s.dispOther := rfl
@[simp] theorem State.modHar_dispNext (s : State) (g : HarSt → HarSt) : (s.modHar g).dispNext = s.dispNext := rfl
@[simp] theorem State.modHar_teams (s : State) (g : HarSt → HarSt) : (s.modHar g).teams = s.teams := rfl
@[simp] theorem State.modHar_threads (s : State) (g : HarSt → HarSt) : (s.modHar g).threads = s.threads := rfl
@[simp] theorem State.modHar_turns (s : State) (g : HarSt → HarSt) : (s.modHar g).turns = s.turns := rfl
@[simp] theorem State.modHar_istore (s : State) (g : HarSt → HarSt) : (s.modHar g).istore = s.istore := rfl
@[simp] theorem State.modHar_lmem (s : State) (g : HarSt → HarSt) : (s.modHar g).lmem = s.lmem := rfl
@[simp] theorem State.modHar_smem (s : State) (g : HarSt → HarSt) : (s.modHar g).smem = s.smem := rfl
@[simp] theorem State.modHar_queues (s : State) (g : HarSt → HarSt) : (s.modHar g).queues = s.queues := rfl
@[simp] theorem State.modHar_groups (s : State) (g : HarSt → HarSt) : (s.modHar g).groups = s.groups := rfl
@[simp] theorem State.modHar_vtimes (s : State) (g : HarSt → HarSt) : (s.modHar g).vtimes = s.vtimes := rfl
@[simp] theorem State.modHar_buckets (s : State) (g : HarSt → HarSt) : (s.modHar g).buckets = s.buckets := rfl
@[simp] theorem State.modHar_gates (s : State) (g : HarSt → HarSt) : (s.modHar g).gates = s.gates := rfl
@[simp] theorem State.modHar_gateAdm (s : State) (g : HarSt → HarSt) : (s.modHar g).gateAdm = s.gateAdm := rfl
@[simp] theorem State.modHar_gateOpr (s : State) (g : HarSt → HarSt) : (s.modHar g).gateOpr = s.gateOpr := rfl
@[simp] theorem State.modHar_promotions (s : State) (g : HarSt → HarSt) : (s.modHar g).promotions = s.promotions := rfl
@[simp] theorem State.modHar_sweep (s : State) (g : HarSt → HarSt) : (s.modHar g).sweep = s.sweep := rfl
@[simp] theorem State.modHar_dram (s : State) (g : HarSt → HarSt) : (s.modHar g).dram = s.dram := rfl
@[simp] theorem State.modHar_tm (s : State) (g : HarSt → HarSt) : (s.modHar g).tm = s.tm := rfl
@[simp] theorem State.modHar_cp (s : State) (g : HarSt → HarSt) : (s.modHar g).cp = s.cp := rfl
@[simp] theorem State.modHar_lineA (s : State) (g : HarSt → HarSt) : (s.modHar g).lineA = s.lineA := rfl
@[simp] theorem State.modHar_lineB (s : State) (g : HarSt → HarSt) : (s.modHar g).lineB = s.lineB := rfl
@[simp] theorem State.modHar_prt (s : State) (g : HarSt → HarSt) : (s.modHar g).prt = s.prt := rfl
@[simp] theorem State.modHar_sec (s : State) (g : HarSt → HarSt) : (s.modHar g).sec = s.sec := rfl
@[simp] theorem State.modHar_pwr (s : State) (g : HarSt → HarSt) : (s.modHar g).pwr = s.pwr := rfl
@[simp] theorem State.modHar_mem (s : State) (g : HarSt → HarSt) : (s.modHar g).mem = s.mem := rfl
@[simp] theorem State.modHar_far (s : State) (g : HarSt → HarSt) : (s.modHar g).far = s.far := rfl
@[simp] theorem State.modHar_cli (s : State) (g : HarSt → HarSt) : (s.modHar g).cli = s.cli := rfl

@[simp] theorem State.modHar_har (s : State) (g : HarSt → HarSt) : (s.modHar g).har = g s.har := rfl

@[simp] theorem State.modSec_grade (s : State) (g : SecSt → SecSt) : (s.modSec g).grade = s.grade := rfl
@[simp] theorem State.modSec_pending (s : State) (g : SecSt → SecSt) : (s.modSec g).pending = s.pending := rfl
@[simp] theorem State.modSec_tick (s : State) (g : SecSt → SecSt) : (s.modSec g).tick = s.tick := rfl
@[simp] theorem State.modSec_freeIdx (s : State) (g : SecSt → SecSt) : (s.modSec g).freeIdx = s.freeIdx := rfl
@[simp] theorem State.modSec_regs (s : State) (g : SecSt → SecSt) : (s.modSec g).regs = s.regs := rfl
@[simp] theorem State.modSec_counters (s : State) (g : SecSt → SecSt) : (s.modSec g).counters = s.counters := rfl
@[simp] theorem State.modSec_shadows (s : State) (g : SecSt → SecSt) : (s.modSec g).shadows = s.shadows := rfl
@[simp] theorem State.modSec_lastRaise (s : State) (g : SecSt → SecSt) : (s.modSec g).lastRaise = s.lastRaise := rfl
@[simp] theorem State.modSec_rd (s : State) (g : SecSt → SecSt) : (s.modSec g).rd = s.rd := rfl
@[simp] theorem State.modSec_hostMem (s : State) (g : SecSt → SecSt) : (s.modSec g).hostMem = s.hostMem := rfl
@[simp] theorem State.modSec_d3hot (s : State) (g : SecSt → SecSt) : (s.modSec g).d3hot = s.d3hot := rfl
@[simp] theorem State.modSec_aer (s : State) (g : SecSt → SecSt) : (s.modSec g).aer = s.aer := rfl
@[simp] theorem State.modSec_evPhase (s : State) (g : SecSt → SecSt) : (s.modSec g).evPhase = s.evPhase := rfl
@[simp] theorem State.modSec_evLost (s : State) (g : SecSt → SecSt) : (s.modSec g).evLost = s.evLost := rfl
@[simp] theorem State.modSec_vecs (s : State) (g : SecSt → SecSt) : (s.modSec g).vecs = s.vecs := rfl
@[simp] theorem State.modSec_rings (s : State) (g : SecSt → SecSt) : (s.modSec g).rings = s.rings := rfl
@[simp] theorem State.modSec_jobs (s : State) (g : SecSt → SecSt) : (s.modSec g).jobs = s.jobs := rfl
@[simp] theorem State.modSec_cmacSeq (s : State) (g : SecSt → SecSt) : (s.modSec g).cmacSeq = s.cmacSeq := rfl
@[simp] theorem State.modSec_txSend (s : State) (g : SecSt → SecSt) : (s.modSec g).txSend = s.txSend := rfl
@[simp] theorem State.modSec_xings (s : State) (g : SecSt → SecSt) : (s.modSec g).xings = s.xings := rfl
@[simp] theorem State.modSec_regions (s : State) (g : SecSt → SecSt) : (s.modSec g).regions = s.regions := rfl
@[simp] theorem State.modSec_blockResets (s : State) (g : SecSt → SecSt) : (s.modSec g).blockResets = s.blockResets := rfl
@[simp] theorem State.modSec_quarantined (s : State) (g : SecSt → SecSt) : (s.modSec g).quarantined = s.quarantined := rfl
@[simp] theorem State.modSec_faultN (s : State) (g : SecSt → SecSt) : (s.modSec g).faultN = s.faultN := rfl
@[simp] theorem State.modSec_tc (s : State) (g : SecSt → SecSt) : (s.modSec g).tc = s.tc := rfl
@[simp] theorem State.modSec_em (s : State) (g : SecSt → SecSt) : (s.modSec g).em = s.em := rfl
@[simp] theorem State.modSec_emDup (s : State) (g : SecSt → SecSt) : (s.modSec g).emDup = s.emDup := rfl
@[simp] theorem State.modSec_commitTick (s : State) (g : SecSt → SecSt) : (s.modSec g).commitTick = s.commitTick := rfl
@[simp] theorem State.modSec_drainTold (s : State) (g : SecSt → SecSt) : (s.modSec g).drainTold = s.drainTold := rfl
@[simp] theorem State.modSec_verCopy (s : State) (g : SecSt → SecSt) : (s.modSec g).verCopy = s.verCopy := rfl
@[simp] theorem State.modSec_pad (s : State) (g : SecSt → SecSt) : (s.modSec g).pad = s.pad := rfl
@[simp] theorem State.modSec_nextHandle (s : State) (g : SecSt → SecSt) : (s.modSec g).nextHandle = s.nextHandle := rfl
@[simp] theorem State.modSec_countPairs (s : State) (g : SecSt → SecSt) : (s.modSec g).countPairs = s.countPairs := rfl
@[simp] theorem State.modSec_dispExp (s : State) (g : SecSt → SecSt) : (s.modSec g).dispExp = s.dispExp := rfl
@[simp] theorem State.modSec_dispOther (s : State) (g : SecSt → SecSt) : (s.modSec g).dispOther = s.dispOther := rfl
@[simp] theorem State.modSec_dispNext (s : State) (g : SecSt → SecSt) : (s.modSec g).dispNext = s.dispNext := rfl
@[simp] theorem State.modSec_teams (s : State) (g : SecSt → SecSt) : (s.modSec g).teams = s.teams := rfl
@[simp] theorem State.modSec_threads (s : State) (g : SecSt → SecSt) : (s.modSec g).threads = s.threads := rfl
@[simp] theorem State.modSec_turns (s : State) (g : SecSt → SecSt) : (s.modSec g).turns = s.turns := rfl
@[simp] theorem State.modSec_istore (s : State) (g : SecSt → SecSt) : (s.modSec g).istore = s.istore := rfl
@[simp] theorem State.modSec_lmem (s : State) (g : SecSt → SecSt) : (s.modSec g).lmem = s.lmem := rfl
@[simp] theorem State.modSec_smem (s : State) (g : SecSt → SecSt) : (s.modSec g).smem = s.smem := rfl
@[simp] theorem State.modSec_queues (s : State) (g : SecSt → SecSt) : (s.modSec g).queues = s.queues := rfl
@[simp] theorem State.modSec_groups (s : State) (g : SecSt → SecSt) : (s.modSec g).groups = s.groups := rfl
@[simp] theorem State.modSec_vtimes (s : State) (g : SecSt → SecSt) : (s.modSec g).vtimes = s.vtimes := rfl
@[simp] theorem State.modSec_buckets (s : State) (g : SecSt → SecSt) : (s.modSec g).buckets = s.buckets := rfl
@[simp] theorem State.modSec_gates (s : State) (g : SecSt → SecSt) : (s.modSec g).gates = s.gates := rfl
@[simp] theorem State.modSec_gateAdm (s : State) (g : SecSt → SecSt) : (s.modSec g).gateAdm = s.gateAdm := rfl
@[simp] theorem State.modSec_gateOpr (s : State) (g : SecSt → SecSt) : (s.modSec g).gateOpr = s.gateOpr := rfl
@[simp] theorem State.modSec_promotions (s : State) (g : SecSt → SecSt) : (s.modSec g).promotions = s.promotions := rfl
@[simp] theorem State.modSec_sweep (s : State) (g : SecSt → SecSt) : (s.modSec g).sweep = s.sweep := rfl
@[simp] theorem State.modSec_dram (s : State) (g : SecSt → SecSt) : (s.modSec g).dram = s.dram := rfl
@[simp] theorem State.modSec_tm (s : State) (g : SecSt → SecSt) : (s.modSec g).tm = s.tm := rfl
@[simp] theorem State.modSec_cp (s : State) (g : SecSt → SecSt) : (s.modSec g).cp = s.cp := rfl
@[simp] theorem State.modSec_lineA (s : State) (g : SecSt → SecSt) : (s.modSec g).lineA = s.lineA := rfl
@[simp] theorem State.modSec_lineB (s : State) (g : SecSt → SecSt) : (s.modSec g).lineB = s.lineB := rfl
@[simp] theorem State.modSec_prt (s : State) (g : SecSt → SecSt) : (s.modSec g).prt = s.prt := rfl
@[simp] theorem State.modSec_har (s : State) (g : SecSt → SecSt) : (s.modSec g).har = s.har := rfl
@[simp] theorem State.modSec_pwr (s : State) (g : SecSt → SecSt) : (s.modSec g).pwr = s.pwr := rfl
@[simp] theorem State.modSec_mem (s : State) (g : SecSt → SecSt) : (s.modSec g).mem = s.mem := rfl
@[simp] theorem State.modSec_far (s : State) (g : SecSt → SecSt) : (s.modSec g).far = s.far := rfl
@[simp] theorem State.modSec_cli (s : State) (g : SecSt → SecSt) : (s.modSec g).cli = s.cli := rfl

@[simp] theorem State.modSec_sec (s : State) (g : SecSt → SecSt) : (s.modSec g).sec = g s.sec := rfl

@[simp] theorem State.modMem_grade (s : State) (g : MemSt → MemSt) : (s.modMem g).grade = s.grade := rfl
@[simp] theorem State.modMem_pending (s : State) (g : MemSt → MemSt) : (s.modMem g).pending = s.pending := rfl
@[simp] theorem State.modMem_tick (s : State) (g : MemSt → MemSt) : (s.modMem g).tick = s.tick := rfl
@[simp] theorem State.modMem_freeIdx (s : State) (g : MemSt → MemSt) : (s.modMem g).freeIdx = s.freeIdx := rfl
@[simp] theorem State.modMem_regs (s : State) (g : MemSt → MemSt) : (s.modMem g).regs = s.regs := rfl
@[simp] theorem State.modMem_counters (s : State) (g : MemSt → MemSt) : (s.modMem g).counters = s.counters := rfl
@[simp] theorem State.modMem_shadows (s : State) (g : MemSt → MemSt) : (s.modMem g).shadows = s.shadows := rfl
@[simp] theorem State.modMem_lastRaise (s : State) (g : MemSt → MemSt) : (s.modMem g).lastRaise = s.lastRaise := rfl
@[simp] theorem State.modMem_rd (s : State) (g : MemSt → MemSt) : (s.modMem g).rd = s.rd := rfl
@[simp] theorem State.modMem_hostMem (s : State) (g : MemSt → MemSt) : (s.modMem g).hostMem = s.hostMem := rfl
@[simp] theorem State.modMem_d3hot (s : State) (g : MemSt → MemSt) : (s.modMem g).d3hot = s.d3hot := rfl
@[simp] theorem State.modMem_aer (s : State) (g : MemSt → MemSt) : (s.modMem g).aer = s.aer := rfl
@[simp] theorem State.modMem_evPhase (s : State) (g : MemSt → MemSt) : (s.modMem g).evPhase = s.evPhase := rfl
@[simp] theorem State.modMem_evLost (s : State) (g : MemSt → MemSt) : (s.modMem g).evLost = s.evLost := rfl
@[simp] theorem State.modMem_vecs (s : State) (g : MemSt → MemSt) : (s.modMem g).vecs = s.vecs := rfl
@[simp] theorem State.modMem_rings (s : State) (g : MemSt → MemSt) : (s.modMem g).rings = s.rings := rfl
@[simp] theorem State.modMem_jobs (s : State) (g : MemSt → MemSt) : (s.modMem g).jobs = s.jobs := rfl
@[simp] theorem State.modMem_cmacSeq (s : State) (g : MemSt → MemSt) : (s.modMem g).cmacSeq = s.cmacSeq := rfl
@[simp] theorem State.modMem_txSend (s : State) (g : MemSt → MemSt) : (s.modMem g).txSend = s.txSend := rfl
@[simp] theorem State.modMem_xings (s : State) (g : MemSt → MemSt) : (s.modMem g).xings = s.xings := rfl
@[simp] theorem State.modMem_regions (s : State) (g : MemSt → MemSt) : (s.modMem g).regions = s.regions := rfl
@[simp] theorem State.modMem_blockResets (s : State) (g : MemSt → MemSt) : (s.modMem g).blockResets = s.blockResets := rfl
@[simp] theorem State.modMem_quarantined (s : State) (g : MemSt → MemSt) : (s.modMem g).quarantined = s.quarantined := rfl
@[simp] theorem State.modMem_faultN (s : State) (g : MemSt → MemSt) : (s.modMem g).faultN = s.faultN := rfl
@[simp] theorem State.modMem_tc (s : State) (g : MemSt → MemSt) : (s.modMem g).tc = s.tc := rfl
@[simp] theorem State.modMem_em (s : State) (g : MemSt → MemSt) : (s.modMem g).em = s.em := rfl
@[simp] theorem State.modMem_emDup (s : State) (g : MemSt → MemSt) : (s.modMem g).emDup = s.emDup := rfl
@[simp] theorem State.modMem_commitTick (s : State) (g : MemSt → MemSt) : (s.modMem g).commitTick = s.commitTick := rfl
@[simp] theorem State.modMem_drainTold (s : State) (g : MemSt → MemSt) : (s.modMem g).drainTold = s.drainTold := rfl
@[simp] theorem State.modMem_verCopy (s : State) (g : MemSt → MemSt) : (s.modMem g).verCopy = s.verCopy := rfl
@[simp] theorem State.modMem_pad (s : State) (g : MemSt → MemSt) : (s.modMem g).pad = s.pad := rfl
@[simp] theorem State.modMem_nextHandle (s : State) (g : MemSt → MemSt) : (s.modMem g).nextHandle = s.nextHandle := rfl
@[simp] theorem State.modMem_countPairs (s : State) (g : MemSt → MemSt) : (s.modMem g).countPairs = s.countPairs := rfl
@[simp] theorem State.modMem_dispExp (s : State) (g : MemSt → MemSt) : (s.modMem g).dispExp = s.dispExp := rfl
@[simp] theorem State.modMem_dispOther (s : State) (g : MemSt → MemSt) : (s.modMem g).dispOther = s.dispOther := rfl
@[simp] theorem State.modMem_dispNext (s : State) (g : MemSt → MemSt) : (s.modMem g).dispNext = s.dispNext := rfl
@[simp] theorem State.modMem_teams (s : State) (g : MemSt → MemSt) : (s.modMem g).teams = s.teams := rfl
@[simp] theorem State.modMem_threads (s : State) (g : MemSt → MemSt) : (s.modMem g).threads = s.threads := rfl
@[simp] theorem State.modMem_turns (s : State) (g : MemSt → MemSt) : (s.modMem g).turns = s.turns := rfl
@[simp] theorem State.modMem_istore (s : State) (g : MemSt → MemSt) : (s.modMem g).istore = s.istore := rfl
@[simp] theorem State.modMem_lmem (s : State) (g : MemSt → MemSt) : (s.modMem g).lmem = s.lmem := rfl
@[simp] theorem State.modMem_smem (s : State) (g : MemSt → MemSt) : (s.modMem g).smem = s.smem := rfl
@[simp] theorem State.modMem_queues (s : State) (g : MemSt → MemSt) : (s.modMem g).queues = s.queues := rfl
@[simp] theorem State.modMem_groups (s : State) (g : MemSt → MemSt) : (s.modMem g).groups = s.groups := rfl
@[simp] theorem State.modMem_vtimes (s : State) (g : MemSt → MemSt) : (s.modMem g).vtimes = s.vtimes := rfl
@[simp] theorem State.modMem_buckets (s : State) (g : MemSt → MemSt) : (s.modMem g).buckets = s.buckets := rfl
@[simp] theorem State.modMem_gates (s : State) (g : MemSt → MemSt) : (s.modMem g).gates = s.gates := rfl
@[simp] theorem State.modMem_gateAdm (s : State) (g : MemSt → MemSt) : (s.modMem g).gateAdm = s.gateAdm := rfl
@[simp] theorem State.modMem_gateOpr (s : State) (g : MemSt → MemSt) : (s.modMem g).gateOpr = s.gateOpr := rfl
@[simp] theorem State.modMem_promotions (s : State) (g : MemSt → MemSt) : (s.modMem g).promotions = s.promotions := rfl
@[simp] theorem State.modMem_sweep (s : State) (g : MemSt → MemSt) : (s.modMem g).sweep = s.sweep := rfl
@[simp] theorem State.modMem_dram (s : State) (g : MemSt → MemSt) : (s.modMem g).dram = s.dram := rfl
@[simp] theorem State.modMem_tm (s : State) (g : MemSt → MemSt) : (s.modMem g).tm = s.tm := rfl
@[simp] theorem State.modMem_cp (s : State) (g : MemSt → MemSt) : (s.modMem g).cp = s.cp := rfl
@[simp] theorem State.modMem_lineA (s : State) (g : MemSt → MemSt) : (s.modMem g).lineA = s.lineA := rfl
@[simp] theorem State.modMem_lineB (s : State) (g : MemSt → MemSt) : (s.modMem g).lineB = s.lineB := rfl
@[simp] theorem State.modMem_prt (s : State) (g : MemSt → MemSt) : (s.modMem g).prt = s.prt := rfl
@[simp] theorem State.modMem_har (s : State) (g : MemSt → MemSt) : (s.modMem g).har = s.har := rfl
@[simp] theorem State.modMem_sec (s : State) (g : MemSt → MemSt) : (s.modMem g).sec = s.sec := rfl
@[simp] theorem State.modMem_pwr (s : State) (g : MemSt → MemSt) : (s.modMem g).pwr = s.pwr := rfl
@[simp] theorem State.modMem_far (s : State) (g : MemSt → MemSt) : (s.modMem g).far = s.far := rfl
@[simp] theorem State.modMem_cli (s : State) (g : MemSt → MemSt) : (s.modMem g).cli = s.cli := rfl

@[simp] theorem State.modMem_mem (s : State) (g : MemSt → MemSt) : (s.modMem g).mem = g s.mem := rfl

@[simp] theorem State.modPwr_grade (s : State) (g : PwrSt → PwrSt) : (s.modPwr g).grade = s.grade := rfl
@[simp] theorem State.modPwr_pending (s : State) (g : PwrSt → PwrSt) : (s.modPwr g).pending = s.pending := rfl
@[simp] theorem State.modPwr_tick (s : State) (g : PwrSt → PwrSt) : (s.modPwr g).tick = s.tick := rfl
@[simp] theorem State.modPwr_freeIdx (s : State) (g : PwrSt → PwrSt) : (s.modPwr g).freeIdx = s.freeIdx := rfl
@[simp] theorem State.modPwr_regs (s : State) (g : PwrSt → PwrSt) : (s.modPwr g).regs = s.regs := rfl
@[simp] theorem State.modPwr_counters (s : State) (g : PwrSt → PwrSt) : (s.modPwr g).counters = s.counters := rfl
@[simp] theorem State.modPwr_shadows (s : State) (g : PwrSt → PwrSt) : (s.modPwr g).shadows = s.shadows := rfl
@[simp] theorem State.modPwr_lastRaise (s : State) (g : PwrSt → PwrSt) : (s.modPwr g).lastRaise = s.lastRaise := rfl
@[simp] theorem State.modPwr_rd (s : State) (g : PwrSt → PwrSt) : (s.modPwr g).rd = s.rd := rfl
@[simp] theorem State.modPwr_hostMem (s : State) (g : PwrSt → PwrSt) : (s.modPwr g).hostMem = s.hostMem := rfl
@[simp] theorem State.modPwr_d3hot (s : State) (g : PwrSt → PwrSt) : (s.modPwr g).d3hot = s.d3hot := rfl
@[simp] theorem State.modPwr_aer (s : State) (g : PwrSt → PwrSt) : (s.modPwr g).aer = s.aer := rfl
@[simp] theorem State.modPwr_evPhase (s : State) (g : PwrSt → PwrSt) : (s.modPwr g).evPhase = s.evPhase := rfl
@[simp] theorem State.modPwr_evLost (s : State) (g : PwrSt → PwrSt) : (s.modPwr g).evLost = s.evLost := rfl
@[simp] theorem State.modPwr_vecs (s : State) (g : PwrSt → PwrSt) : (s.modPwr g).vecs = s.vecs := rfl
@[simp] theorem State.modPwr_rings (s : State) (g : PwrSt → PwrSt) : (s.modPwr g).rings = s.rings := rfl
@[simp] theorem State.modPwr_jobs (s : State) (g : PwrSt → PwrSt) : (s.modPwr g).jobs = s.jobs := rfl
@[simp] theorem State.modPwr_cmacSeq (s : State) (g : PwrSt → PwrSt) : (s.modPwr g).cmacSeq = s.cmacSeq := rfl
@[simp] theorem State.modPwr_txSend (s : State) (g : PwrSt → PwrSt) : (s.modPwr g).txSend = s.txSend := rfl
@[simp] theorem State.modPwr_xings (s : State) (g : PwrSt → PwrSt) : (s.modPwr g).xings = s.xings := rfl
@[simp] theorem State.modPwr_regions (s : State) (g : PwrSt → PwrSt) : (s.modPwr g).regions = s.regions := rfl
@[simp] theorem State.modPwr_blockResets (s : State) (g : PwrSt → PwrSt) : (s.modPwr g).blockResets = s.blockResets := rfl
@[simp] theorem State.modPwr_quarantined (s : State) (g : PwrSt → PwrSt) : (s.modPwr g).quarantined = s.quarantined := rfl
@[simp] theorem State.modPwr_faultN (s : State) (g : PwrSt → PwrSt) : (s.modPwr g).faultN = s.faultN := rfl
@[simp] theorem State.modPwr_tc (s : State) (g : PwrSt → PwrSt) : (s.modPwr g).tc = s.tc := rfl
@[simp] theorem State.modPwr_em (s : State) (g : PwrSt → PwrSt) : (s.modPwr g).em = s.em := rfl
@[simp] theorem State.modPwr_emDup (s : State) (g : PwrSt → PwrSt) : (s.modPwr g).emDup = s.emDup := rfl
@[simp] theorem State.modPwr_commitTick (s : State) (g : PwrSt → PwrSt) : (s.modPwr g).commitTick = s.commitTick := rfl
@[simp] theorem State.modPwr_drainTold (s : State) (g : PwrSt → PwrSt) : (s.modPwr g).drainTold = s.drainTold := rfl
@[simp] theorem State.modPwr_verCopy (s : State) (g : PwrSt → PwrSt) : (s.modPwr g).verCopy = s.verCopy := rfl
@[simp] theorem State.modPwr_pad (s : State) (g : PwrSt → PwrSt) : (s.modPwr g).pad = s.pad := rfl
@[simp] theorem State.modPwr_nextHandle (s : State) (g : PwrSt → PwrSt) : (s.modPwr g).nextHandle = s.nextHandle := rfl
@[simp] theorem State.modPwr_countPairs (s : State) (g : PwrSt → PwrSt) : (s.modPwr g).countPairs = s.countPairs := rfl
@[simp] theorem State.modPwr_dispExp (s : State) (g : PwrSt → PwrSt) : (s.modPwr g).dispExp = s.dispExp := rfl
@[simp] theorem State.modPwr_dispOther (s : State) (g : PwrSt → PwrSt) : (s.modPwr g).dispOther = s.dispOther := rfl
@[simp] theorem State.modPwr_dispNext (s : State) (g : PwrSt → PwrSt) : (s.modPwr g).dispNext = s.dispNext := rfl
@[simp] theorem State.modPwr_teams (s : State) (g : PwrSt → PwrSt) : (s.modPwr g).teams = s.teams := rfl
@[simp] theorem State.modPwr_threads (s : State) (g : PwrSt → PwrSt) : (s.modPwr g).threads = s.threads := rfl
@[simp] theorem State.modPwr_turns (s : State) (g : PwrSt → PwrSt) : (s.modPwr g).turns = s.turns := rfl
@[simp] theorem State.modPwr_istore (s : State) (g : PwrSt → PwrSt) : (s.modPwr g).istore = s.istore := rfl
@[simp] theorem State.modPwr_lmem (s : State) (g : PwrSt → PwrSt) : (s.modPwr g).lmem = s.lmem := rfl
@[simp] theorem State.modPwr_smem (s : State) (g : PwrSt → PwrSt) : (s.modPwr g).smem = s.smem := rfl
@[simp] theorem State.modPwr_queues (s : State) (g : PwrSt → PwrSt) : (s.modPwr g).queues = s.queues := rfl
@[simp] theorem State.modPwr_groups (s : State) (g : PwrSt → PwrSt) : (s.modPwr g).groups = s.groups := rfl
@[simp] theorem State.modPwr_vtimes (s : State) (g : PwrSt → PwrSt) : (s.modPwr g).vtimes = s.vtimes := rfl
@[simp] theorem State.modPwr_buckets (s : State) (g : PwrSt → PwrSt) : (s.modPwr g).buckets = s.buckets := rfl
@[simp] theorem State.modPwr_gates (s : State) (g : PwrSt → PwrSt) : (s.modPwr g).gates = s.gates := rfl
@[simp] theorem State.modPwr_gateAdm (s : State) (g : PwrSt → PwrSt) : (s.modPwr g).gateAdm = s.gateAdm := rfl
@[simp] theorem State.modPwr_gateOpr (s : State) (g : PwrSt → PwrSt) : (s.modPwr g).gateOpr = s.gateOpr := rfl
@[simp] theorem State.modPwr_promotions (s : State) (g : PwrSt → PwrSt) : (s.modPwr g).promotions = s.promotions := rfl
@[simp] theorem State.modPwr_sweep (s : State) (g : PwrSt → PwrSt) : (s.modPwr g).sweep = s.sweep := rfl
@[simp] theorem State.modPwr_dram (s : State) (g : PwrSt → PwrSt) : (s.modPwr g).dram = s.dram := rfl
@[simp] theorem State.modPwr_tm (s : State) (g : PwrSt → PwrSt) : (s.modPwr g).tm = s.tm := rfl
@[simp] theorem State.modPwr_cp (s : State) (g : PwrSt → PwrSt) : (s.modPwr g).cp = s.cp := rfl
@[simp] theorem State.modPwr_lineA (s : State) (g : PwrSt → PwrSt) : (s.modPwr g).lineA = s.lineA := rfl
@[simp] theorem State.modPwr_lineB (s : State) (g : PwrSt → PwrSt) : (s.modPwr g).lineB = s.lineB := rfl
@[simp] theorem State.modPwr_prt (s : State) (g : PwrSt → PwrSt) : (s.modPwr g).prt = s.prt := rfl
@[simp] theorem State.modPwr_har (s : State) (g : PwrSt → PwrSt) : (s.modPwr g).har = s.har := rfl
@[simp] theorem State.modPwr_sec (s : State) (g : PwrSt → PwrSt) : (s.modPwr g).sec = s.sec := rfl
@[simp] theorem State.modPwr_mem (s : State) (g : PwrSt → PwrSt) : (s.modPwr g).mem = s.mem := rfl
@[simp] theorem State.modPwr_far (s : State) (g : PwrSt → PwrSt) : (s.modPwr g).far = s.far := rfl
@[simp] theorem State.modPwr_cli (s : State) (g : PwrSt → PwrSt) : (s.modPwr g).cli = s.cli := rfl

@[simp] theorem State.modPwr_pwr (s : State) (g : PwrSt → PwrSt) : (s.modPwr g).pwr = g s.pwr := rfl

@[simp] theorem State.modFar_grade (s : State) (g : FarSt → FarSt) : (s.modFar g).grade = s.grade := rfl
@[simp] theorem State.modFar_pending (s : State) (g : FarSt → FarSt) : (s.modFar g).pending = s.pending := rfl
@[simp] theorem State.modFar_tick (s : State) (g : FarSt → FarSt) : (s.modFar g).tick = s.tick := rfl
@[simp] theorem State.modFar_freeIdx (s : State) (g : FarSt → FarSt) : (s.modFar g).freeIdx = s.freeIdx := rfl
@[simp] theorem State.modFar_regs (s : State) (g : FarSt → FarSt) : (s.modFar g).regs = s.regs := rfl
@[simp] theorem State.modFar_counters (s : State) (g : FarSt → FarSt) : (s.modFar g).counters = s.counters := rfl
@[simp] theorem State.modFar_shadows (s : State) (g : FarSt → FarSt) : (s.modFar g).shadows = s.shadows := rfl
@[simp] theorem State.modFar_lastRaise (s : State) (g : FarSt → FarSt) : (s.modFar g).lastRaise = s.lastRaise := rfl
@[simp] theorem State.modFar_rd (s : State) (g : FarSt → FarSt) : (s.modFar g).rd = s.rd := rfl
@[simp] theorem State.modFar_hostMem (s : State) (g : FarSt → FarSt) : (s.modFar g).hostMem = s.hostMem := rfl
@[simp] theorem State.modFar_d3hot (s : State) (g : FarSt → FarSt) : (s.modFar g).d3hot = s.d3hot := rfl
@[simp] theorem State.modFar_aer (s : State) (g : FarSt → FarSt) : (s.modFar g).aer = s.aer := rfl
@[simp] theorem State.modFar_evPhase (s : State) (g : FarSt → FarSt) : (s.modFar g).evPhase = s.evPhase := rfl
@[simp] theorem State.modFar_evLost (s : State) (g : FarSt → FarSt) : (s.modFar g).evLost = s.evLost := rfl
@[simp] theorem State.modFar_vecs (s : State) (g : FarSt → FarSt) : (s.modFar g).vecs = s.vecs := rfl
@[simp] theorem State.modFar_rings (s : State) (g : FarSt → FarSt) : (s.modFar g).rings = s.rings := rfl
@[simp] theorem State.modFar_jobs (s : State) (g : FarSt → FarSt) : (s.modFar g).jobs = s.jobs := rfl
@[simp] theorem State.modFar_cmacSeq (s : State) (g : FarSt → FarSt) : (s.modFar g).cmacSeq = s.cmacSeq := rfl
@[simp] theorem State.modFar_txSend (s : State) (g : FarSt → FarSt) : (s.modFar g).txSend = s.txSend := rfl
@[simp] theorem State.modFar_xings (s : State) (g : FarSt → FarSt) : (s.modFar g).xings = s.xings := rfl
@[simp] theorem State.modFar_regions (s : State) (g : FarSt → FarSt) : (s.modFar g).regions = s.regions := rfl
@[simp] theorem State.modFar_blockResets (s : State) (g : FarSt → FarSt) : (s.modFar g).blockResets = s.blockResets := rfl
@[simp] theorem State.modFar_quarantined (s : State) (g : FarSt → FarSt) : (s.modFar g).quarantined = s.quarantined := rfl
@[simp] theorem State.modFar_faultN (s : State) (g : FarSt → FarSt) : (s.modFar g).faultN = s.faultN := rfl
@[simp] theorem State.modFar_tc (s : State) (g : FarSt → FarSt) : (s.modFar g).tc = s.tc := rfl
@[simp] theorem State.modFar_em (s : State) (g : FarSt → FarSt) : (s.modFar g).em = s.em := rfl
@[simp] theorem State.modFar_emDup (s : State) (g : FarSt → FarSt) : (s.modFar g).emDup = s.emDup := rfl
@[simp] theorem State.modFar_commitTick (s : State) (g : FarSt → FarSt) : (s.modFar g).commitTick = s.commitTick := rfl
@[simp] theorem State.modFar_drainTold (s : State) (g : FarSt → FarSt) : (s.modFar g).drainTold = s.drainTold := rfl
@[simp] theorem State.modFar_verCopy (s : State) (g : FarSt → FarSt) : (s.modFar g).verCopy = s.verCopy := rfl
@[simp] theorem State.modFar_pad (s : State) (g : FarSt → FarSt) : (s.modFar g).pad = s.pad := rfl
@[simp] theorem State.modFar_nextHandle (s : State) (g : FarSt → FarSt) : (s.modFar g).nextHandle = s.nextHandle := rfl
@[simp] theorem State.modFar_countPairs (s : State) (g : FarSt → FarSt) : (s.modFar g).countPairs = s.countPairs := rfl
@[simp] theorem State.modFar_dispExp (s : State) (g : FarSt → FarSt) : (s.modFar g).dispExp = s.dispExp := rfl
@[simp] theorem State.modFar_dispOther (s : State) (g : FarSt → FarSt) : (s.modFar g).dispOther = s.dispOther := rfl
@[simp] theorem State.modFar_dispNext (s : State) (g : FarSt → FarSt) : (s.modFar g).dispNext = s.dispNext := rfl
@[simp] theorem State.modFar_teams (s : State) (g : FarSt → FarSt) : (s.modFar g).teams = s.teams := rfl
@[simp] theorem State.modFar_threads (s : State) (g : FarSt → FarSt) : (s.modFar g).threads = s.threads := rfl
@[simp] theorem State.modFar_turns (s : State) (g : FarSt → FarSt) : (s.modFar g).turns = s.turns := rfl
@[simp] theorem State.modFar_istore (s : State) (g : FarSt → FarSt) : (s.modFar g).istore = s.istore := rfl
@[simp] theorem State.modFar_lmem (s : State) (g : FarSt → FarSt) : (s.modFar g).lmem = s.lmem := rfl
@[simp] theorem State.modFar_smem (s : State) (g : FarSt → FarSt) : (s.modFar g).smem = s.smem := rfl
@[simp] theorem State.modFar_queues (s : State) (g : FarSt → FarSt) : (s.modFar g).queues = s.queues := rfl
@[simp] theorem State.modFar_groups (s : State) (g : FarSt → FarSt) : (s.modFar g).groups = s.groups := rfl
@[simp] theorem State.modFar_vtimes (s : State) (g : FarSt → FarSt) : (s.modFar g).vtimes = s.vtimes := rfl
@[simp] theorem State.modFar_buckets (s : State) (g : FarSt → FarSt) : (s.modFar g).buckets = s.buckets := rfl
@[simp] theorem State.modFar_gates (s : State) (g : FarSt → FarSt) : (s.modFar g).gates = s.gates := rfl
@[simp] theorem State.modFar_gateAdm (s : State) (g : FarSt → FarSt) : (s.modFar g).gateAdm = s.gateAdm := rfl
@[simp] theorem State.modFar_gateOpr (s : State) (g : FarSt → FarSt) : (s.modFar g).gateOpr = s.gateOpr := rfl
@[simp] theorem State.modFar_promotions (s : State) (g : FarSt → FarSt) : (s.modFar g).promotions = s.promotions := rfl
@[simp] theorem State.modFar_sweep (s : State) (g : FarSt → FarSt) : (s.modFar g).sweep = s.sweep := rfl
@[simp] theorem State.modFar_dram (s : State) (g : FarSt → FarSt) : (s.modFar g).dram = s.dram := rfl
@[simp] theorem State.modFar_tm (s : State) (g : FarSt → FarSt) : (s.modFar g).tm = s.tm := rfl
@[simp] theorem State.modFar_cp (s : State) (g : FarSt → FarSt) : (s.modFar g).cp = s.cp := rfl
@[simp] theorem State.modFar_lineA (s : State) (g : FarSt → FarSt) : (s.modFar g).lineA = s.lineA := rfl
@[simp] theorem State.modFar_lineB (s : State) (g : FarSt → FarSt) : (s.modFar g).lineB = s.lineB := rfl
@[simp] theorem State.modFar_prt (s : State) (g : FarSt → FarSt) : (s.modFar g).prt = s.prt := rfl
@[simp] theorem State.modFar_har (s : State) (g : FarSt → FarSt) : (s.modFar g).har = s.har := rfl
@[simp] theorem State.modFar_sec (s : State) (g : FarSt → FarSt) : (s.modFar g).sec = s.sec := rfl
@[simp] theorem State.modFar_pwr (s : State) (g : FarSt → FarSt) : (s.modFar g).pwr = s.pwr := rfl
@[simp] theorem State.modFar_mem (s : State) (g : FarSt → FarSt) : (s.modFar g).mem = s.mem := rfl
@[simp] theorem State.modFar_cli (s : State) (g : FarSt → FarSt) : (s.modFar g).cli = s.cli := rfl

@[simp] theorem State.modFar_far (s : State) (g : FarSt → FarSt) : (s.modFar g).far = g s.far := rfl

@[simp] theorem State.modCli_grade (s : State) (g : CliSt → CliSt) : (s.modCli g).grade = s.grade := rfl
@[simp] theorem State.modCli_pending (s : State) (g : CliSt → CliSt) : (s.modCli g).pending = s.pending := rfl
@[simp] theorem State.modCli_tick (s : State) (g : CliSt → CliSt) : (s.modCli g).tick = s.tick := rfl
@[simp] theorem State.modCli_freeIdx (s : State) (g : CliSt → CliSt) : (s.modCli g).freeIdx = s.freeIdx := rfl
@[simp] theorem State.modCli_regs (s : State) (g : CliSt → CliSt) : (s.modCli g).regs = s.regs := rfl
@[simp] theorem State.modCli_counters (s : State) (g : CliSt → CliSt) : (s.modCli g).counters = s.counters := rfl
@[simp] theorem State.modCli_shadows (s : State) (g : CliSt → CliSt) : (s.modCli g).shadows = s.shadows := rfl
@[simp] theorem State.modCli_lastRaise (s : State) (g : CliSt → CliSt) : (s.modCli g).lastRaise = s.lastRaise := rfl
@[simp] theorem State.modCli_rd (s : State) (g : CliSt → CliSt) : (s.modCli g).rd = s.rd := rfl
@[simp] theorem State.modCli_hostMem (s : State) (g : CliSt → CliSt) : (s.modCli g).hostMem = s.hostMem := rfl
@[simp] theorem State.modCli_d3hot (s : State) (g : CliSt → CliSt) : (s.modCli g).d3hot = s.d3hot := rfl
@[simp] theorem State.modCli_aer (s : State) (g : CliSt → CliSt) : (s.modCli g).aer = s.aer := rfl
@[simp] theorem State.modCli_evPhase (s : State) (g : CliSt → CliSt) : (s.modCli g).evPhase = s.evPhase := rfl
@[simp] theorem State.modCli_evLost (s : State) (g : CliSt → CliSt) : (s.modCli g).evLost = s.evLost := rfl
@[simp] theorem State.modCli_vecs (s : State) (g : CliSt → CliSt) : (s.modCli g).vecs = s.vecs := rfl
@[simp] theorem State.modCli_rings (s : State) (g : CliSt → CliSt) : (s.modCli g).rings = s.rings := rfl
@[simp] theorem State.modCli_jobs (s : State) (g : CliSt → CliSt) : (s.modCli g).jobs = s.jobs := rfl
@[simp] theorem State.modCli_cmacSeq (s : State) (g : CliSt → CliSt) : (s.modCli g).cmacSeq = s.cmacSeq := rfl
@[simp] theorem State.modCli_txSend (s : State) (g : CliSt → CliSt) : (s.modCli g).txSend = s.txSend := rfl
@[simp] theorem State.modCli_xings (s : State) (g : CliSt → CliSt) : (s.modCli g).xings = s.xings := rfl
@[simp] theorem State.modCli_regions (s : State) (g : CliSt → CliSt) : (s.modCli g).regions = s.regions := rfl
@[simp] theorem State.modCli_blockResets (s : State) (g : CliSt → CliSt) : (s.modCli g).blockResets = s.blockResets := rfl
@[simp] theorem State.modCli_quarantined (s : State) (g : CliSt → CliSt) : (s.modCli g).quarantined = s.quarantined := rfl
@[simp] theorem State.modCli_faultN (s : State) (g : CliSt → CliSt) : (s.modCli g).faultN = s.faultN := rfl
@[simp] theorem State.modCli_tc (s : State) (g : CliSt → CliSt) : (s.modCli g).tc = s.tc := rfl
@[simp] theorem State.modCli_em (s : State) (g : CliSt → CliSt) : (s.modCli g).em = s.em := rfl
@[simp] theorem State.modCli_emDup (s : State) (g : CliSt → CliSt) : (s.modCli g).emDup = s.emDup := rfl
@[simp] theorem State.modCli_commitTick (s : State) (g : CliSt → CliSt) : (s.modCli g).commitTick = s.commitTick := rfl
@[simp] theorem State.modCli_drainTold (s : State) (g : CliSt → CliSt) : (s.modCli g).drainTold = s.drainTold := rfl
@[simp] theorem State.modCli_verCopy (s : State) (g : CliSt → CliSt) : (s.modCli g).verCopy = s.verCopy := rfl
@[simp] theorem State.modCli_pad (s : State) (g : CliSt → CliSt) : (s.modCli g).pad = s.pad := rfl
@[simp] theorem State.modCli_nextHandle (s : State) (g : CliSt → CliSt) : (s.modCli g).nextHandle = s.nextHandle := rfl
@[simp] theorem State.modCli_countPairs (s : State) (g : CliSt → CliSt) : (s.modCli g).countPairs = s.countPairs := rfl
@[simp] theorem State.modCli_dispExp (s : State) (g : CliSt → CliSt) : (s.modCli g).dispExp = s.dispExp := rfl
@[simp] theorem State.modCli_dispOther (s : State) (g : CliSt → CliSt) : (s.modCli g).dispOther = s.dispOther := rfl
@[simp] theorem State.modCli_dispNext (s : State) (g : CliSt → CliSt) : (s.modCli g).dispNext = s.dispNext := rfl
@[simp] theorem State.modCli_teams (s : State) (g : CliSt → CliSt) : (s.modCli g).teams = s.teams := rfl
@[simp] theorem State.modCli_threads (s : State) (g : CliSt → CliSt) : (s.modCli g).threads = s.threads := rfl
@[simp] theorem State.modCli_turns (s : State) (g : CliSt → CliSt) : (s.modCli g).turns = s.turns := rfl
@[simp] theorem State.modCli_istore (s : State) (g : CliSt → CliSt) : (s.modCli g).istore = s.istore := rfl
@[simp] theorem State.modCli_lmem (s : State) (g : CliSt → CliSt) : (s.modCli g).lmem = s.lmem := rfl
@[simp] theorem State.modCli_smem (s : State) (g : CliSt → CliSt) : (s.modCli g).smem = s.smem := rfl
@[simp] theorem State.modCli_queues (s : State) (g : CliSt → CliSt) : (s.modCli g).queues = s.queues := rfl
@[simp] theorem State.modCli_groups (s : State) (g : CliSt → CliSt) : (s.modCli g).groups = s.groups := rfl
@[simp] theorem State.modCli_vtimes (s : State) (g : CliSt → CliSt) : (s.modCli g).vtimes = s.vtimes := rfl
@[simp] theorem State.modCli_buckets (s : State) (g : CliSt → CliSt) : (s.modCli g).buckets = s.buckets := rfl
@[simp] theorem State.modCli_gates (s : State) (g : CliSt → CliSt) : (s.modCli g).gates = s.gates := rfl
@[simp] theorem State.modCli_gateAdm (s : State) (g : CliSt → CliSt) : (s.modCli g).gateAdm = s.gateAdm := rfl
@[simp] theorem State.modCli_gateOpr (s : State) (g : CliSt → CliSt) : (s.modCli g).gateOpr = s.gateOpr := rfl
@[simp] theorem State.modCli_promotions (s : State) (g : CliSt → CliSt) : (s.modCli g).promotions = s.promotions := rfl
@[simp] theorem State.modCli_sweep (s : State) (g : CliSt → CliSt) : (s.modCli g).sweep = s.sweep := rfl
@[simp] theorem State.modCli_dram (s : State) (g : CliSt → CliSt) : (s.modCli g).dram = s.dram := rfl
@[simp] theorem State.modCli_tm (s : State) (g : CliSt → CliSt) : (s.modCli g).tm = s.tm := rfl
@[simp] theorem State.modCli_cp (s : State) (g : CliSt → CliSt) : (s.modCli g).cp = s.cp := rfl
@[simp] theorem State.modCli_lineA (s : State) (g : CliSt → CliSt) : (s.modCli g).lineA = s.lineA := rfl
@[simp] theorem State.modCli_lineB (s : State) (g : CliSt → CliSt) : (s.modCli g).lineB = s.lineB := rfl
@[simp] theorem State.modCli_prt (s : State) (g : CliSt → CliSt) : (s.modCli g).prt = s.prt := rfl
@[simp] theorem State.modCli_har (s : State) (g : CliSt → CliSt) : (s.modCli g).har = s.har := rfl
@[simp] theorem State.modCli_sec (s : State) (g : CliSt → CliSt) : (s.modCli g).sec = s.sec := rfl
@[simp] theorem State.modCli_pwr (s : State) (g : CliSt → CliSt) : (s.modCli g).pwr = s.pwr := rfl
@[simp] theorem State.modCli_mem (s : State) (g : CliSt → CliSt) : (s.modCli g).mem = s.mem := rfl
@[simp] theorem State.modCli_far (s : State) (g : CliSt → CliSt) : (s.modCli g).far = s.far := rfl

@[simp] theorem State.modCli_cli (s : State) (g : CliSt → CliSt) : (s.modCli g).cli = g s.cli := rfl

@[simp] theorem State.modLine_grade (s : State) (x : Side) (g : Line → Line) : (s.modLine x g).grade = s.grade := by cases x <;> rfl
@[simp] theorem State.modLine_pending (s : State) (x : Side) (g : Line → Line) : (s.modLine x g).pending = s.pending := by cases x <;> rfl
@[simp] theorem State.modLine_tick (s : State) (x : Side) (g : Line → Line) : (s.modLine x g).tick = s.tick := by cases x <;> rfl
@[simp] theorem State.modLine_freeIdx (s : State) (x : Side) (g : Line → Line) : (s.modLine x g).freeIdx = s.freeIdx := by cases x <;> rfl
@[simp] theorem State.modLine_regs (s : State) (x : Side) (g : Line → Line) : (s.modLine x g).regs = s.regs := by cases x <;> rfl
@[simp] theorem State.modLine_counters (s : State) (x : Side) (g : Line → Line) : (s.modLine x g).counters = s.counters := by cases x <;> rfl
@[simp] theorem State.modLine_shadows (s : State) (x : Side) (g : Line → Line) : (s.modLine x g).shadows = s.shadows := by cases x <;> rfl
@[simp] theorem State.modLine_lastRaise (s : State) (x : Side) (g : Line → Line) : (s.modLine x g).lastRaise = s.lastRaise := by cases x <;> rfl
@[simp] theorem State.modLine_rd (s : State) (x : Side) (g : Line → Line) : (s.modLine x g).rd = s.rd := by cases x <;> rfl
@[simp] theorem State.modLine_hostMem (s : State) (x : Side) (g : Line → Line) : (s.modLine x g).hostMem = s.hostMem := by cases x <;> rfl
@[simp] theorem State.modLine_d3hot (s : State) (x : Side) (g : Line → Line) : (s.modLine x g).d3hot = s.d3hot := by cases x <;> rfl
@[simp] theorem State.modLine_aer (s : State) (x : Side) (g : Line → Line) : (s.modLine x g).aer = s.aer := by cases x <;> rfl
@[simp] theorem State.modLine_evPhase (s : State) (x : Side) (g : Line → Line) : (s.modLine x g).evPhase = s.evPhase := by cases x <;> rfl
@[simp] theorem State.modLine_evLost (s : State) (x : Side) (g : Line → Line) : (s.modLine x g).evLost = s.evLost := by cases x <;> rfl
@[simp] theorem State.modLine_vecs (s : State) (x : Side) (g : Line → Line) : (s.modLine x g).vecs = s.vecs := by cases x <;> rfl
@[simp] theorem State.modLine_rings (s : State) (x : Side) (g : Line → Line) : (s.modLine x g).rings = s.rings := by cases x <;> rfl
@[simp] theorem State.modLine_jobs (s : State) (x : Side) (g : Line → Line) : (s.modLine x g).jobs = s.jobs := by cases x <;> rfl
@[simp] theorem State.modLine_cmacSeq (s : State) (x : Side) (g : Line → Line) : (s.modLine x g).cmacSeq = s.cmacSeq := by cases x <;> rfl
@[simp] theorem State.modLine_txSend (s : State) (x : Side) (g : Line → Line) : (s.modLine x g).txSend = s.txSend := by cases x <;> rfl
@[simp] theorem State.modLine_xings (s : State) (x : Side) (g : Line → Line) : (s.modLine x g).xings = s.xings := by cases x <;> rfl
@[simp] theorem State.modLine_regions (s : State) (x : Side) (g : Line → Line) : (s.modLine x g).regions = s.regions := by cases x <;> rfl
@[simp] theorem State.modLine_blockResets (s : State) (x : Side) (g : Line → Line) : (s.modLine x g).blockResets = s.blockResets := by cases x <;> rfl
@[simp] theorem State.modLine_quarantined (s : State) (x : Side) (g : Line → Line) : (s.modLine x g).quarantined = s.quarantined := by cases x <;> rfl
@[simp] theorem State.modLine_faultN (s : State) (x : Side) (g : Line → Line) : (s.modLine x g).faultN = s.faultN := by cases x <;> rfl
@[simp] theorem State.modLine_tc (s : State) (x : Side) (g : Line → Line) : (s.modLine x g).tc = s.tc := by cases x <;> rfl
@[simp] theorem State.modLine_em (s : State) (x : Side) (g : Line → Line) : (s.modLine x g).em = s.em := by cases x <;> rfl
@[simp] theorem State.modLine_emDup (s : State) (x : Side) (g : Line → Line) : (s.modLine x g).emDup = s.emDup := by cases x <;> rfl
@[simp] theorem State.modLine_commitTick (s : State) (x : Side) (g : Line → Line) : (s.modLine x g).commitTick = s.commitTick := by cases x <;> rfl
@[simp] theorem State.modLine_drainTold (s : State) (x : Side) (g : Line → Line) : (s.modLine x g).drainTold = s.drainTold := by cases x <;> rfl
@[simp] theorem State.modLine_verCopy (s : State) (x : Side) (g : Line → Line) : (s.modLine x g).verCopy = s.verCopy := by cases x <;> rfl
@[simp] theorem State.modLine_pad (s : State) (x : Side) (g : Line → Line) : (s.modLine x g).pad = s.pad := by cases x <;> rfl
@[simp] theorem State.modLine_nextHandle (s : State) (x : Side) (g : Line → Line) : (s.modLine x g).nextHandle = s.nextHandle := by cases x <;> rfl
@[simp] theorem State.modLine_countPairs (s : State) (x : Side) (g : Line → Line) : (s.modLine x g).countPairs = s.countPairs := by cases x <;> rfl
@[simp] theorem State.modLine_dispExp (s : State) (x : Side) (g : Line → Line) : (s.modLine x g).dispExp = s.dispExp := by cases x <;> rfl
@[simp] theorem State.modLine_dispOther (s : State) (x : Side) (g : Line → Line) : (s.modLine x g).dispOther = s.dispOther := by cases x <;> rfl
@[simp] theorem State.modLine_dispNext (s : State) (x : Side) (g : Line → Line) : (s.modLine x g).dispNext = s.dispNext := by cases x <;> rfl
@[simp] theorem State.modLine_teams (s : State) (x : Side) (g : Line → Line) : (s.modLine x g).teams = s.teams := by cases x <;> rfl
@[simp] theorem State.modLine_threads (s : State) (x : Side) (g : Line → Line) : (s.modLine x g).threads = s.threads := by cases x <;> rfl
@[simp] theorem State.modLine_turns (s : State) (x : Side) (g : Line → Line) : (s.modLine x g).turns = s.turns := by cases x <;> rfl
@[simp] theorem State.modLine_istore (s : State) (x : Side) (g : Line → Line) : (s.modLine x g).istore = s.istore := by cases x <;> rfl
@[simp] theorem State.modLine_lmem (s : State) (x : Side) (g : Line → Line) : (s.modLine x g).lmem = s.lmem := by cases x <;> rfl
@[simp] theorem State.modLine_smem (s : State) (x : Side) (g : Line → Line) : (s.modLine x g).smem = s.smem := by cases x <;> rfl
@[simp] theorem State.modLine_queues (s : State) (x : Side) (g : Line → Line) : (s.modLine x g).queues = s.queues := by cases x <;> rfl
@[simp] theorem State.modLine_groups (s : State) (x : Side) (g : Line → Line) : (s.modLine x g).groups = s.groups := by cases x <;> rfl
@[simp] theorem State.modLine_vtimes (s : State) (x : Side) (g : Line → Line) : (s.modLine x g).vtimes = s.vtimes := by cases x <;> rfl
@[simp] theorem State.modLine_buckets (s : State) (x : Side) (g : Line → Line) : (s.modLine x g).buckets = s.buckets := by cases x <;> rfl
@[simp] theorem State.modLine_gates (s : State) (x : Side) (g : Line → Line) : (s.modLine x g).gates = s.gates := by cases x <;> rfl
@[simp] theorem State.modLine_gateAdm (s : State) (x : Side) (g : Line → Line) : (s.modLine x g).gateAdm = s.gateAdm := by cases x <;> rfl
@[simp] theorem State.modLine_gateOpr (s : State) (x : Side) (g : Line → Line) : (s.modLine x g).gateOpr = s.gateOpr := by cases x <;> rfl
@[simp] theorem State.modLine_promotions (s : State) (x : Side) (g : Line → Line) : (s.modLine x g).promotions = s.promotions := by cases x <;> rfl
@[simp] theorem State.modLine_sweep (s : State) (x : Side) (g : Line → Line) : (s.modLine x g).sweep = s.sweep := by cases x <;> rfl
@[simp] theorem State.modLine_dram (s : State) (x : Side) (g : Line → Line) : (s.modLine x g).dram = s.dram := by cases x <;> rfl
@[simp] theorem State.modLine_tm (s : State) (x : Side) (g : Line → Line) : (s.modLine x g).tm = s.tm := by cases x <;> rfl
@[simp] theorem State.modLine_cp (s : State) (x : Side) (g : Line → Line) : (s.modLine x g).cp = s.cp := by cases x <;> rfl
@[simp] theorem State.modLine_prt (s : State) (x : Side) (g : Line → Line) : (s.modLine x g).prt = s.prt := by cases x <;> rfl
@[simp] theorem State.modLine_har (s : State) (x : Side) (g : Line → Line) : (s.modLine x g).har = s.har := by cases x <;> rfl
@[simp] theorem State.modLine_sec (s : State) (x : Side) (g : Line → Line) : (s.modLine x g).sec = s.sec := by cases x <;> rfl
@[simp] theorem State.modLine_pwr (s : State) (x : Side) (g : Line → Line) : (s.modLine x g).pwr = s.pwr := by cases x <;> rfl
@[simp] theorem State.modLine_mem (s : State) (x : Side) (g : Line → Line) : (s.modLine x g).mem = s.mem := by cases x <;> rfl
@[simp] theorem State.modLine_far (s : State) (x : Side) (g : Line → Line) : (s.modLine x g).far = s.far := by cases x <;> rfl
@[simp] theorem State.modLine_cli (s : State) (x : Side) (g : Line → Line) : (s.modLine x g).cli = s.cli := by cases x <;> rfl

@[simp] theorem State.modLine_line (s : State) (x : Side) (g : Line → Line) (y : Side) :
    (s.modLine x g).line y = if x = y then g (s.line y) else s.line y := by cases x <;> cases y <;> rfl

end Sys2Proof.Machine
end

