-- ==== Sys2Proof/Laws/Ops.lean ====
section
/-! SUPPORT. What the named operations do, read through registers, fields and counters, and what raising an event leaves. -/

-- One proof at a time: in the package as one text, proofs that wait for each other would each hold a thread.
set_option Elab.async false

namespace Sys2Proof.Machine

/-! ### Registers, fields, counters -/

theorem State.reg_setReg (s : State) (k j : Nat) (v : Word) : (s.setReg k v).reg j = if k = j then v else s.reg j := by
  simp [State.setReg, State.reg]

@[simp] theorem State.reg_setReg_self (s : State) (k : Nat) (v : Word) : (s.setReg k v).reg k = v := by
  simp [State.reg_setReg]

theorem State.reg_setReg_ne (s : State) {k j : Nat} (h : k ≠ j) (v : Word) : (s.setReg k v).reg j = s.reg j := by
  simp [State.reg_setReg, h]

theorem State.counter_bump (s : State) (a b n : Nat) :
    (s.bump a n).counter b = if a = b then (s.counter b + n) % 2 ^ 64 else s.counter b := by
  simp only [State.bump, State.counter, sget_sset]; split
  · rename_i h; rw [h]
  · rfl

@[simp] theorem State.counter_setReg (s : State) (k a : Nat) (v : Word) : (s.setReg k v).counter a = s.counter a := rfl
@[simp] theorem State.reg_bump (s : State) (a n k : Nat) : (s.bump a n).reg k = s.reg k := rfl

theorem Fld.testBit_of (F : Fld) (w : Word) (i : Nat) : (F.of w).testBit i = (decide (i < F.w) && w.getLsbD (F.lo + i)) := by
  simp [Fld.of, bitsOf, Nat.testBit_mod_two_pow, Nat.testBit_div_two_pow, BitVec.testBit_toNat, Nat.add_comm]

theorem Fld.getLsbD_put (F : Fld) (w : Word) (v j : Nat) (h : F.lo + F.w ≤ 32) :
    (F.put w v).getLsbD j = if F.lo ≤ j ∧ j < F.lo + F.w then v.testBit (j - F.lo) else w.getLsbD j := by
  by_cases hj : j < 32
  · simp only [Fld.put, Fld.mask, BitVec.getLsbD_or, BitVec.getLsbD_and, BitVec.getLsbD_not, BitVec.getLsbD_ofNat, hj,
      decide_true, Bool.true_and, Nat.testBit_mul_two_pow, Nat.testBit_two_pow_sub_one, Nat.testBit_mod_two_pow]
    by_cases h1 : F.lo ≤ j
    · by_cases h2 : j < F.lo + F.w
      · have : j - F.lo < F.w := by omega
        simp [h1, h2, this]
      · have : ¬ j - F.lo < F.w := by omega
        simp [h1, h2, this]
    · simp [h1]
  · rw [BitVec.getLsbD_of_ge _ _ (by omega), if_neg (by omega), BitVec.getLsbD_of_ge _ _ (by omega)]

/-- A field reads what was put there, cut to its width. -/
theorem Fld.of_put (F : Fld) (w : Word) (v : Nat) (h : F.lo + F.w ≤ 32) : F.of (F.put w v) = v % 2 ^ F.w := by
  apply Nat.eq_of_testBit_eq
  intro i
  rw [Fld.testBit_of, Fld.getLsbD_put _ _ _ _ h, Nat.testBit_mod_two_pow]
  by_cases hi : i < F.w
  · rw [if_pos (by omega)]; simp
  · simp [hi]

/-- Putting a field leaves another one that shares no bit with it. -/
theorem Fld.of_put_ne (F G : Fld) (w : Word) (v : Nat) (hG : G.lo + G.w ≤ 32)
    (h : F.lo + F.w ≤ G.lo ∨ G.lo + G.w ≤ F.lo) : F.of (G.put w v) = F.of w := by
  apply Nat.eq_of_testBit_eq
  intro i
  rw [Fld.testBit_of, Fld.testBit_of, Fld.getLsbD_put _ _ _ _ hG]
  by_cases hi : i < F.w
  · rw [if_neg (by omega)]
  · simp [hi]
/-! ### Raising an event -/

theorem State.reg_hostWrite (s : State) (a : Nat) (bs : List Byte) (k : Nat) : (s.hostWrite a bs).reg k = s.reg k := by
  induction bs generalizing s a with
  | nil => rfl
  | cons b bs ih => exact ih _ _

theorem State.counter_hostWrite (s : State) (a : Nat) (bs : List Byte) (k : Nat) :
    (s.hostWrite a bs).counter k = s.counter k := by
  induction bs generalizing s a with
  | nil => rfl
  | cons b bs ih => exact ih _ _

theorem State.reg_hostWriteWords (s : State) (a : Nat) (ws : List Word) (k : Nat) :
    (s.hostWriteWords a ws).reg k = s.reg k := by
  induction ws generalizing s a with
  | nil => rfl
  | cons w ws ih => exact (ih _ _).trans (s.reg_hostWrite _ _ _)

theorem State.counter_hostWriteWords (s : State) (a : Nat) (ws : List Word) (k : Nat) :
    (s.hostWriteWords a ws).counter k = s.counter k := by
  induction ws generalizing s a with
  | nil => rfl
  | cons w ws ih => exact (ih _ _).trans (s.counter_hostWrite _ _ _)

theorem State.pwr_hostWrite (s : State) (a : Nat) (bs : List Byte) : (s.hostWrite a bs).pwr = s.pwr := by
  induction bs generalizing s a with
  | nil => rfl
  | cons b bs ih => exact ih _ _

theorem State.pwr_hostWriteWords (s : State) (a : Nat) (ws : List Word) : (s.hostWriteWords a ws).pwr = s.pwr := by
  induction ws generalizing s a with
  | nil => rfl
  | cons w ws ih => exact (ih _ _).trans (s.pwr_hostWrite _ _)

/-- Registers the ring writes when it takes an entry, and the raise count of event 5. -/
def ringKeys : List Nat := [0x100010, 0x10000C, 0x100018, 0xF8000, 0xF8004, 0x102014]

/-- Outside the registers `P` and the counters of event reporting, two states read alike, and have the same power part. -/
structure Quiet (P : Nat → Bool) (s t : State) : Prop where
  pwr : t.pwr = s.pwr
  regs : ∀ k, P k = false → t.reg k = s.reg k
  counters : ∀ a, evtCounter a = false → t.counter a = s.counter a

variable {P : Nat → Bool}

theorem Quiet.refl (s : State) : Quiet P s s := ⟨rfl, fun _ _ => rfl, fun _ _ => rfl⟩

theorem Quiet.trans {s t u : State} (h : Quiet P s t) (j : Quiet P t u) : Quiet P s u :=
  ⟨j.pwr.trans h.pwr, fun k e => (j.regs k e).trans (h.regs k e), fun k e => (j.counters k e).trans (h.counters k e)⟩

theorem Quiet.same {s t u : State} (h : Quiet P s t) (hp : u.pwr = t.pwr) (hr : u.regs = t.regs) (hc : u.counters = t.counters) : Quiet P s u :=
  h.trans ⟨hp, fun k _ => by simp only [State.reg, hr], fun k _ => by simp only [State.counter, hc]⟩

theorem Quiet.setReg {s t : State} (h : Quiet P s t) (k : Nat) (v : Word) (hk : P k = true) : Quiet P s (t.setReg k v) :=
  h.trans ⟨rfl, fun j hj => State.reg_setReg_ne _ (fun e => by subst e; simp_all) _, fun _ _ => rfl⟩

theorem Quiet.bump {s t : State} (h : Quiet P s t) (a n : Nat) (ha : evtCounter a = true) : Quiet P s (t.bump a n) :=
  h.trans ⟨rfl, fun _ _ => rfl, fun b hb => by
    rw [State.counter_bump, if_neg (fun e => by subst e; simp_all)]⟩

theorem Quiet.hostWrite {s t : State} (h : Quiet P s t) (a : Nat) (bs : List Byte) : Quiet P s (t.hostWrite a bs) :=
  h.trans ⟨t.pwr_hostWrite a bs, fun k _ => t.reg_hostWrite a bs k, fun k _ => t.counter_hostWrite a bs k⟩

theorem Quiet.hostWriteWords {s t : State} (h : Quiet P s t) (a : Nat) (ws : List Word) : Quiet P s (t.hostWriteWords a ws) :=
  h.trans ⟨t.pwr_hostWriteWords a ws, fun k _ => t.reg_hostWriteWords a ws k, fun k _ => t.counter_hostWriteWords a ws k⟩

theorem Quiet.setPba {s t : State} (h : Quiet P s t) (v : Nat) (hv : v < 64) (b : Bool) (hP : ∀ k ∈ ringKeys, P k = true) :
    Quiet P s (t.setPba v b) :=
  h.setReg _ _ (hP _ (by
    have : v / 32 = 0 ∨ v / 32 = 1 := by omega
    rcases this with e | e <;> simp only [e] <;> decide))

theorem State.f_lt (s : State) (F : Fld) (i : Nat) : s.f F i < 2 ^ F.w := Nat.mod_lt _ (Nat.two_pow_pos _)

theorem Quiet.msixCause {s t : State} (h : Quiet P s t) (v : Nat) (hv : v < 64) (hP : ∀ k ∈ ringKeys, P k = true) :
    Quiet P s (t.msixCause v) := by
  unfold State.msixCause
  split
  · unfold State.msixSend
    split
    · exact (h.setPba v hv true hP).same rfl rfl rfl
    · refine Quiet.bump ?_ 0xB058 1 (by decide)
      exact ((h.hostWrite _ _).setPba v hv false hP).same rfl rfl rfl
  · exact h.same rfl rfl rfl

theorem Quiet.evtWrite {s t : State} (h : Quiet P s t) (src level inst : Nat) (info : Word) (a : Nat)
    (hP : ∀ k ∈ ringKeys, P k = true) : Quiet P s (t.evtWrite src level inst info a) := by
  unfold State.evtWrite
  extract_lets pi base s1 s2 s3 s4
  have h2 : Quiet P s s2 := (h.hostWriteWords _ _).setReg _ _ (hP _ (by decide))
  have h3 : Quiet P s s3 := by
    show Quiet P s (if _ then _ else _)
    split
    · exact h2.same rfl rfl rfl
    · exact h2
  have h4 : Quiet P s s4 := h3.setReg _ _ (hP _ (by decide))
  exact h4.msixCause _ (State.f_lt s4 F.EVT_SRC_VEC _) hP

theorem Quiet.evtReportLost {s t : State} (h : Quiet P s t) (hP : ∀ k ∈ ringKeys, P k = true) :
    Quiet P s t.evtReportLost := by
  unfold State.evtReportLost
  split
  · refine Quiet.evtWrite ?_ _ _ _ _ _ hP
    exact (h.same (u := { t with evLost := 0 }) rfl rfl rfl).setReg _ _ (hP _ (by decide))
  · exact h

theorem Quiet.evtRing {s t : State} (h : Quiet P s t) (src level inst info a : Nat)
    (hP : ∀ k ∈ ringKeys, P k = true) : Quiet P s (t.evtRing src level inst info a) := by
  unfold State.evtRing
  split
  · extract_lets s1
    have h1 : Quiet P s s1 := h.evtReportLost hP
    split
    · exact h1.evtWrite _ _ _ _ _ hP
    · exact (h1.setReg 0x100018 _ (hP _ (by decide))).same (u := { s1.addReg 0x100018 1 with evLost := s1.evLost + 1 }) rfl rfl rfl
  · exact h

theorem Quiet.pcRaise {s t : State} (h : Quiet P s t) (src : Nat) : Quiet P s (t.pcRaise src) := by
  unfold State.pcRaise
  have : ∀ l : List Nat, (∀ n ∈ l, n < 8) → ∀ t, Quiet P s t → Quiet P s (l.foldl (fun s n =>
      s.bumpIf (s.f F.STB_PC_SEL (4 * n) == src) (0x1400800 + 8 * n)) t) := by
    intro l
    induction l with
    | nil => exact fun _ _ h => h
    | cons n l ih =>
      intro hl t ht
      refine ih (fun m hm => hl m (.tail _ hm)) _ ?_
      simp only [State.bumpIf]
      split
      · have := hl n (.head _)
        exact ht.bump _ _ (by simp [evtCounter]; omega)
      · exact ht
  exact this _ (fun n hn => List.mem_range.mp hn) _ h

theorem evtKey_count (src : Nat) (h : src < 512) : evtKey (0x102000 + 4 * src) = true := by
  simp [evtKey]; omega

theorem Quiet.raise {s : State} (src level inst info : Nat) (hP : ∀ k ∈ ringKeys, P k = true)
    (hs : P (0x102000 + 4 * src) = true) : Quiet P (s.evtMirror src level inst info) (s.raise src level inst info) := by
  unfold State.raise
  extract_lets s1
  have h1 : Quiet P (s.evtMirror src level inst info) s1 := ((Quiet.refl _).setReg _ _ hs).pcRaise src
  split
  · exact h1.evtRing _ _ _ _ _ hP
  · exact h1


theorem evtKey_ring : ∀ k ∈ ringKeys, evtKey k = true := by decide

/-- A raise changes no register but those of event reporting. -/
theorem State.reg_raise (s : State) (src level inst info k : Nat) (hs : src < 512) (hk : evtKey k = false) :
    (s.raise src level inst info).reg k = s.reg k :=
  (Quiet.raise src level inst info evtKey_ring (evtKey_count src hs)).regs k hk

/-- A raise changes no counter but those of event reporting. -/
theorem State.counter_raise (s : State) (src level inst info a : Nat) (hs : src < 512) (ha : evtCounter a = false) :
    (s.raise src level inst info).counter a = s.counter a :=
  (Quiet.raise src level inst info evtKey_ring (evtKey_count src hs)).counters a ha

theorem State.pcRaise_regs (s : State) (src : Nat) : (s.pcRaise src).regs = s.regs := by
  unfold State.pcRaise
  generalize List.range 8 = l
  induction l generalizing s with
  | nil => rfl
  | cons n l ih =>
    refine (ih _).trans ?_
    simp only [State.bumpIf]
    split <;> rfl

/-- A raise is counted, and the last event of the Groom's mirror is it. -/
theorem State.raised (s : State) (src level inst info : Nat) (hs : src ≠ 5) (hs2 : src < 512) :
    Raised s (s.raise src level inst info) src level inst info := by
  constructor
  · have h : ∀ t : State, Quiet (fun k => ringKeys.contains k) t (t.evtRing src level inst info t.tick) :=
      fun t => (Quiet.refl t).evtRing _ _ _ _ _ (by decide)
    have hk : (ringKeys.contains (0x102000 + 4 * src)) = false := by
      simp [ringKeys]; omega
    have e : ∀ t : State, (t.evtRing src level inst info t.tick).reg (0x102000 + 4 * src) = t.reg (0x102000 + 4 * src) :=
      fun t => (h t).regs _ hk
    unfold State.raise
    extract_lets s1
    have e1 : s1.reg (0x102000 + 4 * src) = s.reg (0x102000 + 4 * src) + 1 := by
      show sget regDefault s1.regs _ = _
      rw [show s1.regs = _ from State.pcRaise_regs _ _]
      exact State.reg_setReg_self ..
    split
    · rw [e, e1]
    · exact e1
  · rw [(Quiet.raise (P := fun _ => true) src level inst info (fun _ _ => rfl) rfl).pwr]
    simp only [State.evtMirror, State.modPwr, evtEntry]
    rw [List.getLast?_drop]
    simp <;> omega


/-- The parts of the machine a raise leaves. -/
theorem State.raise_comp (s : State) (src level inst info : Nat) (k : Comp) (h : k ∉ [.counters, .regs, .report]) :
    Same k s (s.raise src level inst info) := by
  have i0 : Free (Off [.counters, .regs, .report]) .counters := free_off (by simp)
  have i1 : Free (Off [.counters, .regs, .report]) .regs := free_off (by simp)
  have i2 : Free (Off [.counters, .regs, .report]) .report := free_off (by simp)
  exact (raise_keeps (K := Off [.counters, .regs, .report]) (Keeps.refl s) src level inst info).comp k h

@[simp] theorem State.raise_shadows (s : State) (src l i n : Nat) : (s.raise src l i n).shadows = s.shadows :=
  s.raise_comp _ _ _ _ (.shadows) (by decide)
@[simp] theorem State.raise_rd (s : State) (src l i n : Nat) : (s.raise src l i n).rd = s.rd :=
  s.raise_comp _ _ _ _ (.rd) (by decide)
@[simp] theorem State.raise_freeIdx (s : State) (src l i n : Nat) : (s.raise src l i n).freeIdx = s.freeIdx :=
  s.raise_comp _ _ _ _ (.free) (by decide)
@[simp] theorem State.raise_d3hot (s : State) (src l i n : Nat) : (s.raise src l i n).d3hot = s.d3hot :=
  congrArg (·.1) (s.raise_comp _ _ _ _ (.link) (by decide))
@[simp] theorem State.raise_aer (s : State) (src l i n : Nat) : (s.raise src l i n).aer = s.aer :=
  congrArg (·.2) (s.raise_comp _ _ _ _ (.link) (by decide))
@[simp] theorem State.raise_rings (s : State) (src l i n : Nat) : (s.raise src l i n).rings = s.rings :=
  congrArg (·.1) (s.raise_comp _ _ _ _ (.rings) (by decide))
@[simp] theorem State.raise_jobs (s : State) (src l i n : Nat) : (s.raise src l i n).jobs = s.jobs :=
  congrArg (·.2.1) (s.raise_comp _ _ _ _ (.rings) (by decide))
@[simp] theorem State.raise_cmacSeq (s : State) (src l i n : Nat) : (s.raise src l i n).cmacSeq = s.cmacSeq :=
  congrArg (·.2.2.1) (s.raise_comp _ _ _ _ (.rings) (by decide))
@[simp] theorem State.raise_txSend (s : State) (src l i n : Nat) : (s.raise src l i n).txSend = s.txSend :=
  congrArg (·.2.2.2) (s.raise_comp _ _ _ _ (.rings) (by decide))
@[simp] theorem State.raise_xings (s : State) (src l i n : Nat) : (s.raise src l i n).xings = s.xings :=
  s.raise_comp _ _ _ _ (.xings) (by decide)
@[simp] theorem State.raise_regions (s : State) (src l i n : Nat) : (s.raise src l i n).regions = s.regions :=
  s.raise_comp _ _ _ _ (.regions) (by decide)
@[simp] theorem State.raise_blockResets (s : State) (src l i n : Nat) : (s.raise src l i n).blockResets = s.blockResets :=
  congrArg (·.1) (s.raise_comp _ _ _ _ (.resets) (by decide))
@[simp] theorem State.raise_quarantined (s : State) (src l i n : Nat) : (s.raise src l i n).quarantined = s.quarantined :=
  congrArg (·.2.1) (s.raise_comp _ _ _ _ (.resets) (by decide))
@[simp] theorem State.raise_faultN (s : State) (src l i n : Nat) : (s.raise src l i n).faultN = s.faultN :=
  congrArg (·.2.2) (s.raise_comp _ _ _ _ (.resets) (by decide))
@[simp] theorem State.raise_tc (s : State) (src l i n : Nat) : (s.raise src l i n).tc = s.tc :=
  congrArg (·.1) (s.raise_comp _ _ _ _ (.classifier) (by decide))
@[simp] theorem State.raise_em (s : State) (src l i n : Nat) : (s.raise src l i n).em = s.em :=
  congrArg (·.2.1) (s.raise_comp _ _ _ _ (.classifier) (by decide))
@[simp] theorem State.raise_emDup (s : State) (src l i n : Nat) : (s.raise src l i n).emDup = s.emDup :=
  congrArg (·.2.2.1) (s.raise_comp _ _ _ _ (.classifier) (by decide))
@[simp] theorem State.raise_commitTick (s : State) (src l i n : Nat) : (s.raise src l i n).commitTick = s.commitTick :=
  congrArg (·.2.2.2.1) (s.raise_comp _ _ _ _ (.classifier) (by decide))
@[simp] theorem State.raise_drainTold (s : State) (src l i n : Nat) : (s.raise src l i n).drainTold = s.drainTold :=
  congrArg (·.2.2.2.2.1) (s.raise_comp _ _ _ _ (.classifier) (by decide))
@[simp] theorem State.raise_verCopy (s : State) (src l i n : Nat) : (s.raise src l i n).verCopy = s.verCopy :=
  congrArg (·.2.2.2.2.2) (s.raise_comp _ _ _ _ (.classifier) (by decide))
@[simp] theorem State.raise_pad (s : State) (src l i n : Nat) : (s.raise src l i n).pad = s.pad :=
  congrArg (·.1) (s.raise_comp _ _ _ _ (.paddock) (by decide))
@[simp] theorem State.raise_nextHandle (s : State) (src l i n : Nat) : (s.raise src l i n).nextHandle = s.nextHandle :=
  congrArg (·.2) (s.raise_comp _ _ _ _ (.paddock) (by decide))
@[simp] theorem State.raise_countPairs (s : State) (src l i n : Nat) : (s.raise src l i n).countPairs = s.countPairs :=
  s.raise_comp _ _ _ _ (.pairs) (by decide)
@[simp] theorem State.raise_dispExp (s : State) (src l i n : Nat) : (s.raise src l i n).dispExp = s.dispExp :=
  congrArg (·.1) (s.raise_comp _ _ _ _ (.dispatch) (by decide))
@[simp] theorem State.raise_dispOther (s : State) (src l i n : Nat) : (s.raise src l i n).dispOther = s.dispOther :=
  congrArg (·.2.1) (s.raise_comp _ _ _ _ (.dispatch) (by decide))
@[simp] theorem State.raise_dispNext (s : State) (src l i n : Nat) : (s.raise src l i n).dispNext = s.dispNext :=
  congrArg (·.2.2) (s.raise_comp _ _ _ _ (.dispatch) (by decide))
@[simp] theorem State.raise_teams (s : State) (src l i n : Nat) : (s.raise src l i n).teams = s.teams :=
  s.raise_comp _ _ _ _ (.teams) (by decide)
@[simp] theorem State.raise_threads (s : State) (src l i n : Nat) : (s.raise src l i n).threads = s.threads :=
  congrArg (·.1) (s.raise_comp _ _ _ _ (.threads) (by decide))
@[simp] theorem State.raise_turns (s : State) (src l i n : Nat) : (s.raise src l i n).turns = s.turns :=
  congrArg (·.2) (s.raise_comp _ _ _ _ (.threads) (by decide))
@[simp] theorem State.raise_istore (s : State) (src l i n : Nat) : (s.raise src l i n).istore = s.istore :=
  s.raise_comp _ _ _ _ (.istore) (by decide)
@[simp] theorem State.raise_lmem (s : State) (src l i n : Nat) : (s.raise src l i n).lmem = s.lmem :=
  s.raise_comp _ _ _ _ (.lmem) (by decide)
@[simp] theorem State.raise_smem (s : State) (src l i n : Nat) : (s.raise src l i n).smem = s.smem :=
  s.raise_comp _ _ _ _ (.smem) (by decide)
@[simp] theorem State.raise_queues (s : State) (src l i n : Nat) : (s.raise src l i n).queues = s.queues :=
  congrArg (·.1) (s.raise_comp _ _ _ _ (.sched) (by decide))
@[simp] theorem State.raise_groups (s : State) (src l i n : Nat) : (s.raise src l i n).groups = s.groups :=
  congrArg (·.2.1) (s.raise_comp _ _ _ _ (.sched) (by decide))
@[simp] theorem State.raise_vtimes (s : State) (src l i n : Nat) : (s.raise src l i n).vtimes = s.vtimes :=
  congrArg (·.2.2.1) (s.raise_comp _ _ _ _ (.sched) (by decide))
@[simp] theorem State.raise_buckets (s : State) (src l i n : Nat) : (s.raise src l i n).buckets = s.buckets :=
  congrArg (·.2.2.2.1) (s.raise_comp _ _ _ _ (.sched) (by decide))
@[simp] theorem State.raise_promotions (s : State) (src l i n : Nat) : (s.raise src l i n).promotions = s.promotions :=
  congrArg (·.2.2.2.2.1) (s.raise_comp _ _ _ _ (.sched) (by decide))
@[simp] theorem State.raise_sweep (s : State) (src l i n : Nat) : (s.raise src l i n).sweep = s.sweep :=
  congrArg (·.2.2.2.2.2) (s.raise_comp _ _ _ _ (.sched) (by decide))
@[simp] theorem State.raise_gates (s : State) (src l i n : Nat) : (s.raise src l i n).gates = s.gates :=
  congrArg (·.1) (s.raise_comp _ _ _ _ (.gates) (by decide))
@[simp] theorem State.raise_gateAdm (s : State) (src l i n : Nat) : (s.raise src l i n).gateAdm = s.gateAdm :=
  congrArg (·.2.1) (s.raise_comp _ _ _ _ (.gates) (by decide))
@[simp] theorem State.raise_gateOpr (s : State) (src l i n : Nat) : (s.raise src l i n).gateOpr = s.gateOpr :=
  congrArg (·.2.2) (s.raise_comp _ _ _ _ (.gates) (by decide))
@[simp] theorem State.raise_dram (s : State) (src l i n : Nat) : (s.raise src l i n).dram = s.dram :=
  s.raise_comp _ _ _ _ (.dram) (by decide)
@[simp] theorem State.raise_tm (s : State) (src l i n : Nat) : (s.raise src l i n).tm = s.tm :=
  s.raise_comp _ _ _ _ (.time) (by decide)
@[simp] theorem State.raise_tick (s : State) (src l i n : Nat) : (s.raise src l i n).tick = s.tick :=
  s.raise_comp _ _ _ _ (.tick) (by decide)
@[simp] theorem State.raise_cp (s : State) (src l i n : Nat) : (s.raise src l i n).cp = s.cp :=
  s.raise_comp _ _ _ _ (.capture) (by decide)
@[simp] theorem State.raise_lineA (s : State) (src l i n : Nat) : (s.raise src l i n).lineA = s.lineA :=
  s.raise_comp _ _ _ _ (.line .a) (by decide)
@[simp] theorem State.raise_lineB (s : State) (src l i n : Nat) : (s.raise src l i n).lineB = s.lineB :=
  s.raise_comp _ _ _ _ (.line .b) (by decide)
@[simp] theorem State.raise_prt (s : State) (src l i n : Nat) : (s.raise src l i n).prt = s.prt :=
  s.raise_comp _ _ _ _ (.pairing) (by decide)
@[simp] theorem State.raise_har (s : State) (src l i n : Nat) : (s.raise src l i n).har = s.har :=
  s.raise_comp _ _ _ _ (.circuits) (by decide)
@[simp] theorem State.raise_sec (s : State) (src l i n : Nat) : (s.raise src l i n).sec = s.sec :=
  s.raise_comp _ _ _ _ (.keys) (by decide)
@[simp] theorem State.raise_mem (s : State) (src l i n : Nat) : (s.raise src l i n).mem = s.mem :=
  s.raise_comp _ _ _ _ (.memories) (by decide)
@[simp] theorem State.raise_far (s : State) (src l i n : Nat) : (s.raise src l i n).far = s.far :=
  s.raise_comp _ _ _ _ (.farrier) (by decide)
@[simp] theorem State.raise_cli (s : State) (src l i n : Nat) : (s.raise src l i n).cli = s.cli :=
  s.raise_comp _ _ _ _ (.client) (by decide)

@[simp] theorem State.raise_line (s : State) (src l i n : Nat) (x : Side) : (s.raise src l i n).line x = s.line x := by
  cases x <;> simp [State.line]

theorem State.raise_core (s : State) (src l i n : Nat) : (s.raise src l i n).pwr.core = s.pwr.core :=
  s.raise_comp _ _ _ _ .power (by decide)

@[simp] theorem State.raise_pwr_target (s : State) (src l i n : Nat) : (s.raise src l i n).pwr.target = s.pwr.target :=
  show (s.raise src l i n).pwr.core.target = _ by rw [s.raise_core]; rfl
@[simp] theorem State.raise_pwr_prev (s : State) (src l i n : Nat) : (s.raise src l i n).pwr.prev = s.pwr.prev :=
  show (s.raise src l i n).pwr.core.prev = _ by rw [s.raise_core]; rfl
@[simp] theorem State.raise_pwr_wakeAfter (s : State) (src l i n : Nat) : (s.raise src l i n).pwr.wakeAfter = s.pwr.wakeAfter :=
  show (s.raise src l i n).pwr.core.wakeAfter = _ by rw [s.raise_core]; rfl
@[simp] theorem State.raise_pwr_tries (s : State) (src l i n : Nat) : (s.raise src l i n).pwr.tries = s.pwr.tries :=
  show (s.raise src l i n).pwr.core.tries = _ by rw [s.raise_core]; rfl
@[simp] theorem State.raise_pwr_tryMask (s : State) (src l i n : Nat) : (s.raise src l i n).pwr.tryMask = s.pwr.tryMask :=
  show (s.raise src l i n).pwr.core.tryMask = _ by rw [s.raise_core]; rfl
@[simp] theorem State.raise_pwr_failed (s : State) (src l i n : Nat) : (s.raise src l i n).pwr.failed = s.pwr.failed :=
  show (s.raise src l i n).pwr.core.failed = _ by rw [s.raise_core]; rfl
@[simp] theorem State.raise_pwr_pll (s : State) (src l i n : Nat) : (s.raise src l i n).pwr.pll = s.pwr.pll :=
  show (s.raise src l i n).pwr.core.pll = _ by rw [s.raise_core]; rfl
@[simp] theorem State.raise_pwr_tryCycle (s : State) (src l i n : Nat) : (s.raise src l i n).pwr.tryCycle = s.pwr.tryCycle :=
  show (s.raise src l i n).pwr.core.tryCycle = _ by rw [s.raise_core]; rfl
@[simp] theorem State.raise_pwr_pgOut (s : State) (src l i n : Nat) : (s.raise src l i n).pwr.pgOut = s.pwr.pgOut :=
  show (s.raise src l i n).pwr.core.pgOut = _ by rw [s.raise_core]; rfl
@[simp] theorem State.raise_pwr_entered (s : State) (src l i n : Nat) : (s.raise src l i n).pwr.entered = s.pwr.entered :=
  show (s.raise src l i n).pwr.core.entered = _ by rw [s.raise_core]; rfl
@[simp] theorem State.raise_pwr_winStart (s : State) (src l i n : Nat) : (s.raise src l i n).pwr.winStart = s.pwr.winStart :=
  show (s.raise src l i n).pwr.core.winStart = _ by rw [s.raise_core]; rfl
@[simp] theorem State.raise_pwr_cycle (s : State) (src l i n : Nat) : (s.raise src l i n).pwr.cycle = s.pwr.cycle :=
  show (s.raise src l i n).pwr.core.cycle = _ by rw [s.raise_core]; rfl
@[simp] theorem State.raise_pwr_frac (s : State) (src l i n : Nat) : (s.raise src l i n).pwr.frac = s.pwr.frac :=
  show (s.raise src l i n).pwr.core.frac = _ by rw [s.raise_core]; rfl
@[simp] theorem State.raise_pwr_offCycle (s : State) (src l i n : Nat) : (s.raise src l i n).pwr.offCycle = s.pwr.offCycle :=
  show (s.raise src l i n).pwr.core.offCycle = _ by rw [s.raise_core]; rfl
@[simp] theorem State.raise_pwr_vPend (s : State) (src l i n : Nat) : (s.raise src l i n).pwr.vPend = s.pwr.vPend :=
  show (s.raise src l i n).pwr.core.vPend = _ by rw [s.raise_core]; rfl
@[simp] theorem State.raise_pwr_vWait (s : State) (src l i n : Nat) : (s.raise src l i n).pwr.vWait = s.pwr.vWait :=
  show (s.raise src l i n).pwr.core.vWait = _ by rw [s.raise_core]; rfl
@[simp] theorem State.raise_pwr_vSent (s : State) (src l i n : Nat) : (s.raise src l i n).pwr.vSent = s.pwr.vSent :=
  show (s.raise src l i n).pwr.core.vSent = _ by rw [s.raise_core]; rfl
@[simp] theorem State.raise_pwr_mon (s : State) (src l i n : Nat) : (s.raise src l i n).pwr.mon = s.pwr.mon :=
  show (s.raise src l i n).pwr.core.mon = _ by rw [s.raise_core]; rfl
@[simp] theorem State.raise_pwr_cond (s : State) (src l i n : Nat) : (s.raise src l i n).pwr.cond = s.pwr.cond :=
  show (s.raise src l i n).pwr.core.cond = _ by rw [s.raise_core]; rfl
@[simp] theorem State.raise_pwr_dark (s : State) (src l i n : Nat) : (s.raise src l i n).pwr.dark = s.pwr.dark :=
  show (s.raise src l i n).pwr.core.dark = _ by rw [s.raise_core]; rfl
@[simp] theorem State.raise_pwr_wakeInd (s : State) (src l i n : Nat) : (s.raise src l i n).pwr.wakeInd = s.pwr.wakeInd :=
  show (s.raise src l i n).pwr.core.wakeInd = _ by rw [s.raise_core]; rfl
@[simp] theorem State.raise_pwr_dozeRan (s : State) (src l i n : Nat) : (s.raise src l i n).pwr.dozeRan = s.pwr.dozeRan :=
  show (s.raise src l i n).pwr.core.dozeRan = _ by rw [s.raise_core]; rfl
@[simp] theorem State.raise_pwr_dozeSync (s : State) (src l i n : Nat) : (s.raise src l i n).pwr.dozeSync = s.pwr.dozeSync :=
  show (s.raise src l i n).pwr.core.dozeSync = _ by rw [s.raise_core]; rfl
@[simp] theorem State.raise_pwr_loss (s : State) (src l i n : Nat) : (s.raise src l i n).pwr.loss = s.pwr.loss :=
  show (s.raise src l i n).pwr.core.loss = _ by rw [s.raise_core]; rfl
@[simp] theorem State.raise_pwr_lossCycle (s : State) (src l i n : Nat) : (s.raise src l i n).pwr.lossCycle = s.pwr.lossCycle :=
  show (s.raise src l i n).pwr.core.lossCycle = _ by rw [s.raise_core]; rfl
@[simp] theorem State.raise_pwr_flash (s : State) (src l i n : Nat) : (s.raise src l i n).pwr.flash = s.pwr.flash :=
  show (s.raise src l i n).pwr.core.flash = _ by rw [s.raise_core]; rfl
@[simp] theorem State.raise_pwr_fuses (s : State) (src l i n : Nat) : (s.raise src l i n).pwr.fuses = s.pwr.fuses :=
  show (s.raise src l i n).pwr.core.fuses = _ by rw [s.raise_core]; rfl
@[simp] theorem State.raise_pwr_listenOff (s : State) (src l i n : Nat) : (s.raise src l i n).pwr.listenOff = s.pwr.listenOff :=
  show (s.raise src l i n).pwr.core.listenOff = _ by rw [s.raise_core]; rfl
@[simp] theorem State.raise_pwr_prog (s : State) (src l i n : Nat) : (s.raise src l i n).pwr.prog = s.pwr.prog :=
  show (s.raise src l i n).pwr.core.prog = _ by rw [s.raise_core]; rfl
@[simp] theorem State.raise_pwr_entry (s : State) (src l i n : Nat) : (s.raise src l i n).pwr.entry = s.pwr.entry :=
  show (s.raise src l i n).pwr.core.entry = _ by rw [s.raise_core]; rfl
@[simp] theorem State.raise_pwr_imgLoad (s : State) (src l i n : Nat) : (s.raise src l i n).pwr.imgLoad = s.pwr.imgLoad :=
  show (s.raise src l i n).pwr.core.imgLoad = _ by rw [s.raise_core]; rfl

/-! ### Registers and counters under updates of other parts -/

@[simp] theorem State.reg_modTm (s : State) (g : TimeSt → TimeSt) (k : Nat) : (s.modTm g).reg k = s.reg k := rfl
@[simp] theorem State.counter_modTm (s : State) (g : TimeSt → TimeSt) (a : Nat) : (s.modTm g).counter a = s.counter a := rfl
@[simp] theorem State.reg_modCp (s : State) (g : CapSt → CapSt) (k : Nat) : (s.modCp g).reg k = s.reg k := rfl
@[simp] theorem State.counter_modCp (s : State) (g : CapSt → CapSt) (a : Nat) : (s.modCp g).counter a = s.counter a := rfl
@[simp] theorem State.reg_modPrt (s : State) (g : PrtSt → PrtSt) (k : Nat) : (s.modPrt g).reg k = s.reg k := rfl
@[simp] theorem State.counter_modPrt (s : State) (g : PrtSt → PrtSt) (a : Nat) : (s.modPrt g).counter a = s.counter a := rfl
@[simp] theorem State.reg_modHar (s : State) (g : HarSt → HarSt) (k : Nat) : (s.modHar g).reg k = s.reg k := rfl
@[simp] theorem State.counter_modHar (s : State) (g : HarSt → HarSt) (a : Nat) : (s.modHar g).counter a = s.counter a := rfl
@[simp] theorem State.reg_modSec (s : State) (g : SecSt → SecSt) (k : Nat) : (s.modSec g).reg k = s.reg k := rfl
@[simp] theorem State.counter_modSec (s : State) (g : SecSt → SecSt) (a : Nat) : (s.modSec g).counter a = s.counter a := rfl
@[simp] theorem State.reg_modMem (s : State) (g : MemSt → MemSt) (k : Nat) : (s.modMem g).reg k = s.reg k := rfl
@[simp] theorem State.counter_modMem (s : State) (g : MemSt → MemSt) (a : Nat) : (s.modMem g).counter a = s.counter a := rfl
@[simp] theorem State.reg_modPwr (s : State) (g : PwrSt → PwrSt) (k : Nat) : (s.modPwr g).reg k = s.reg k := rfl
@[simp] theorem State.counter_modPwr (s : State) (g : PwrSt → PwrSt) (a : Nat) : (s.modPwr g).counter a = s.counter a := rfl
@[simp] theorem State.reg_modFar (s : State) (g : FarSt → FarSt) (k : Nat) : (s.modFar g).reg k = s.reg k := rfl
@[simp] theorem State.counter_modFar (s : State) (g : FarSt → FarSt) (a : Nat) : (s.modFar g).counter a = s.counter a := rfl
@[simp] theorem State.reg_modCli (s : State) (g : CliSt → CliSt) (k : Nat) : (s.modCli g).reg k = s.reg k := rfl
@[simp] theorem State.counter_modCli (s : State) (g : CliSt → CliSt) (a : Nat) : (s.modCli g).counter a = s.counter a := rfl
@[simp] theorem State.reg_modLine (s : State) (x : Side) (g : Line → Line) (k : Nat) : (s.modLine x g).reg k = s.reg k := by
  cases x <;> rfl
@[simp] theorem State.counter_modLine (s : State) (x : Side) (g : Line → Line) (a : Nat) :
    (s.modLine x g).counter a = s.counter a := by cases x <;> rfl
@[simp] theorem State.line_setReg (s : State) (k : Nat) (v : Word) (x : Side) : (s.setReg k v).line x = s.line x := by
  cases x <;> rfl
@[simp] theorem State.line_bump (s : State) (a n : Nat) (x : Side) : (s.bump a n).line x = s.line x := by cases x <;> rfl


end Sys2Proof.Machine
end

