-- ==== Sys2Proof/WellFormed.lean ====
section
/-! DEFINITION. Which commands are well formed: operands a sender outside the chip can give. `exec` answers every command;
these checks say which of them the spec's own words describe. -/

namespace Sys2Proof

/-- A 4-byte aligned BAR0 offset of the register space (R314). -/
def regAddrOk (a : Nat) : Bool := a % 4 == 0 && decide (a < 2 ^ 25)

/-- A 4-byte aligned address of the user counter page, BAR4 behind the register space (R314, R421). -/
def pageAddrOk (a : Nat) : Bool := a % 4 == 0 && decide (2 ^ 25 ≤ a) && decide (a < 2 ^ 25 + 0x42000)

/-- An access to a doorbell page: 1, 2, 4 or 8 bytes, within the page (R325). -/
def doorbellOk (o w : Nat) : Bool := [1, 2, 4, 8].contains w && decide (o + w ≤ 4096)

/-- A frame has no more information bytes than a Drixis frame (R67), and a PSync of 64 bits. -/
def frameOk (f : DsFrame) : Bool := decide (f.gPsyncErr ≤ 64) && decide (f.body.length ≤ 2626544)

/-- A well-formed command. -/
def Instr.wf : Instr → Bool
  | .registerWrite _ a _ _ => regAddrOk a
  | .counterLoRead _ a => regAddrOk a
  | .readClear _ a => regAddrOk a
  | .cellFault _ _ b _ src _ _ _ _ => decide (b < 256) && decide (src < 512)
  | .blockResetTimeout _ b _ _ => decide (b < 256)
  | .gaitWindowEnd trips => trips.length == 16
  | .adaptationConverged _ steps _ => steps.all fun v => v.length == 9 && v.all fun c => decide (-1 ≤ c) && decide (c ≤ 1)
  | .downstreamFrame _ f => frameOk f
  | .psyncMatch _ _ f => frameOk f
  | .odcInsertMultiframe _ two b => b.length == (if two then 256 else 64)
  | .bucketConfigWrite _ a _ => regAddrOk a
  | .doorbell _ o w _ => doorbellOk o w
  | .harnessRowReceive _ r => r.length == 60
  | .registerRead _ a _ => regAddrOk a || pageAddrOk a
  | .faultRecordClear .. | .crossingResync .. | .crossingTimeout .. | .crossingRefusalEnd .. | .receiverStart ..
  | .receiverStop .. | .lineModeSet .. | .txEnable .. | .adcCalibrationDone .. | .cdrLockGained .. | .cdrLockLost ..
  | .signalDetectChange .. | .codewordDecode .. | .txfChange .. | .peqLoad .. | .peqDecisionPoint ..
  | .rxpCalCommit .. | .i2cTransactionStart .. | .i2cTransactionDone .. | .i2cBus1Enable .. | .encapFrameReceive ..
  | .mgmtMessageReceive .. | .bwmapEntryReceive .. | .losDeclare .. | .losClear .. | .rangingHoldExpire .. | .pmLatch .. | .odc2InputEnable ..
  | .burstAssemblyStart .. | .burstTransmit .. | .bridleUnlockStage .. | .bridleUnlockTimeout .. | .rogueClear ..
  | .upstreamMessagePush .. | .eqdWrite .. | .upbAssignTid .. | .upbRanged .. | .upbDeactivate .. | .upbDisable ..
  | .upbEnable .. | .upbSerialNumberEnter .. | .to1Expire .. | .pairingConfigWrite .. | .prtManual .. | .prtLock ..
  | .prtUnlock .. | .wtrExpire .. | .reorderArrival .. | .reorderWindowExpire .. | .harnessFrameBoundary ..
  | .harnessAlign .. | .harRealign .. | .swapDs .. | .swapUs .. | .cktForce .. | .pageSwap .. | .cmStandbyWrite ..
  | .harnessEnable .. | .harnessRxckDetect .. | .laneBlockLock .. | .harnessTxTrainEnd .. | .laneAlign ..
  | .laneLockLoss .. | .laneRetrainTimeout .. | .harRetrain .. | .harnessRxckLoss .. | .rowSlip .. | .eyeScanStart ..
  | .eyeScanDone .. | .frameClassify .. | .clsWrite .. | .clsSetvalid .. | .clsClearvalid .. | .clsRead ..
  | .clsHash .. | .clsModeChange .. | .clsCommit .. | .clsVersionDrained .. | .clsStageCopyDone ..
  | .clsDrainTimeout .. | .frameDispatch .. | .isaAdd .. | .isaSub .. | .isaAnd .. | .isaOr .. | .isaXor ..
  | .isaShl .. | .isaShr .. | .isaSra .. | .isaMul .. | .isaMulhu .. | .isaSlt .. | .isaSltu .. | .isaRotr ..
  | .isaClz .. | .isaPopc .. | .isaBswap .. | .isaAddi .. | .isaAndi .. | .isaOri .. | .isaXori ..
  | .isaShiftImmediate .. | .isaLui .. | .isaExtu .. | .isaExts .. | .isaIns .. | .isaLb .. | .isaLh .. | .isaLw ..
  | .isaLd .. | .isaLbs .. | .isaLhs .. | .isaLws .. | .isaSb .. | .isaSh .. | .isaSw .. | .isaSd .. | .isaLhbe ..
  | .isaLwbe .. | .isaLdbe .. | .isaShbe .. | .isaSwbe .. | .isaSdbe .. | .isaAmoAdd .. | .isaAmoSwap ..
  | .isaAmoCas .. | .isaBeq .. | .isaBne .. | .isaBlt .. | .isaBge .. | .isaBltu .. | .isaBgeu .. | .isaJal ..
  | .isaJalr .. | .isaSrd .. | .isaYield .. | .isaDone .. | .isaFence .. | .isaTrap .. | .callClsLookup ..
  | .callHash .. | .callPolice .. | .callCount .. | .callEnq .. | .callTime .. | .callCsum .. | .callCmac ..
  | .callRecirc .. | .callFrd .. | .callFwr .. | .callDrop .. | .watchdogExpire .. | .expressBudgetExceeded ..
  | .courserQuarantine .. | .teamReset .. | .samplerRestart .. | .teamDrain .. | .teamDrainDone .. | .teamLoad ..
  | .teamLoadEnd .. | .teamRun .. | .teamInitDone .. | .loadCmdMulti .. | .schedulerSelect .. | .spillReadbackDone ..
  | .queueConfigWrite .. | .gateCommit .. | .gateEntryAdvance .. | .queueSampleSweep .. | .todApply ..
  | .todHeldCompute .. | .todSet .. | .timeSourceWrite .. | .todMessageTimeout .. | .extPpsMissing ..
  | .secondTick .. | .todNsRead .. | .tsqPop .. | .ppsEnable .. | .ppsEdge .. | .eventCaptureEnable ..
  | .eventCaptureEdge .. | .captureQueuePop .. | .comparatorArm .. | .comparatorFire .. | .clientLayoutWrite ..
  | .portEnable .. | .portDisable .. | .linkUp .. | .linkDown .. | .clientFrameReceive .. | .ucastCommit ..
  | .clientFrameTransmit .. | .pmpEnable .. | .verifyTimeout .. | .busMasterChange .. | .coldPowerUp ..
  | .warmReset .. | .hostReset .. | .resetEnd .. | .ringEnable .. | .ringDisable .. | .ringDisableDone ..
  | .txDescriptor .. | .hostQueueDeliver .. | .descriptorFetchError .. | .jobNop .. | .scrubJob .. | .scrubJobEnd ..
  | .checkScanJob .. | .checkScanEnd .. | .cmacJob .. | .cmacDone .. | .unwrapJob .. | .unwrapDone ..
  | .eventRingEnable .. | .eventRingDisable .. | .eventRingCiWrite .. | .eventRaise .. | .msixHoldoffExpire ..
  | .msixUnmask .. | .pcieLinkChange .. | .dramChannelEnable .. | .dramTrainingEnd .. | .dramChannelDown ..
  | .spillAreaWrite .. | .eccWriteBack .. | .remapEntryWrite .. | .spareEntryWrite .. | .memModeWrite ..
  | .flipArm .. | .keyLoad .. | .keyErase .. | .forceErase .. | .unwrapStart .. | .keySwitchArm ..
  | .entropyHealthFail .. | .entropyRestart .. | .checkFeed .. | .checkScanStart .. | .railFail .. | .powerRetry ..
  | .powerGoodLost .. | .pllLockLost .. | .powerSleep .. | .powerDoze .. | .powerListen .. | .powerRun ..
  | .powerTransitionEnd .. | .runMaskWrite .. | .pwrWake .. | .dozeWindowOpen .. | .dozeWindowClose ..
  | .wakeTimerExpire .. | .vcoreSet .. | .vcoreVerifyTimeout .. | .monitorSample .. | .supplyLossDeclare ..
  | .dgHoldExpire .. | .energyCheck .. | .stateSaveEnd .. | .pfailRelease .. | .groomImageLoad ..
  | .groomImageLoadEnd .. | .captureEnable .. | .captureRecordWrite .. | .captureCopyStale .. | .captureResume ..
  | .captureReadoutStart .. | .captureReadoutEnd .. | .stbNow .. | .snapshotPeriod .. | .snapshotWriteEnd ..
  | .studbookComparatorArm .. | .userPageWrite .. | .farrierStart .. | .farrierTeamIdle .. | .logicBistDone ..
  | .memoryBistDone .. | .farrierRestoreDone .. | .fuseBurn .. | .fuseBurnEnd .. | .pllLockReturn .. | .vddAonLoss ..
  | .todSlewEnd .. => true

end Sys2Proof
end

