-- ==== Sys2Proof/Tests/Slice0.lean ====
section
/-! SUPPORT. Tests: the well-formedness checks, instruction words and examples written out from the spec, and for each statement
concrete states and operands that meet its hypotheses (test_met_<statement>_<clause>). -/

set_option Elab.async false
set_option maxRecDepth 100000

open Sys2Proof Sys2Proof.Machine Sys2Proof.Machine.F

namespace Sys2Proof.Tests

/-! ### Small states: fields, registers and regions set on a state -/

def fs (s : State) (l : List (Fld × Nat × Nat)) : State := l.foldl (fun s e => s.setF e.1 e.2.1 e.2.2) s
def rs (s : State) (l : List (Nat × Word)) : State := l.foldl (fun s e => s.setReg e.1 e.2) s
def on (s : State) (l : List Nat) : State := l.foldl (fun s r => s.setRegion r { on := true }) s
def wd (l : List (Fld × Nat)) : Word := BitVec.ofNat 32 (l.foldl (fun a e => a + e.2 * 2 ^ e.1.lo) 0)
def ln (s : State) (x : Side) (g : Line → Line) : State := s.modLine x g
def fuzz : State := {}
def all : State := on {} [0, 1, 2, 3, 4, 5]
def getN (o : Host.Outcome State Fault Refusal) : State := match o with | .next t => t | _ => {}

def lcg (x : Nat) : Nat := (x * 6364136223846793005 + 1442695040888963407) % 2 ^ 64

theorem getN_eq {o : Host.Outcome State Fault Refusal} (h : (match o with | .next _ => true | _ => false) = true) :
    o = .next (getN o) := by
  cases o <;> simp_all [getN]

theorem ok_of {α ε : Type} [DecidableEq α] {o : Except ε α} {w : α} (h : (match o with | .ok x => decide (x = w) | _ => false) = true) :
    o = .ok w := by
  cases o <;> simp_all

theorem err_of {α ε : Type} [DecidableEq ε] {o : Except ε α} {w : ε} (h : (match o with | .error x => decide (x = w) | _ => false) = true) :
    o = .error w := by
  cases o <;> simp_all

theorem faultClear_of {s : State} {id : Tid}
    (h : (s.thread (tidKey id)).init = false ∧ s.flag F.CRS_TFLT_INFO_VALID (0x10000 * id.team.val) = false) :
    FaultClear s id := h

theorem issues_of {s : State} {id : Tid} {e : IsaFact} {op : IsaOp} {w : Nat}
    (h : (s.thread (tidKey id)).busy = true ∧ s.turnOf (tidKey id / 8) = some (tidKey id % 8) ∧ s.regionUp 2 = true ∧
      (s.groupHeld (64 + 2 * id.team.val) = false ∧ s.groupHeld (65 + 2 * id.team.val) = false) ∧
      istoreBase ≤ (s.thread (tidKey id)).pc ∧ (s.thread (tidKey id)).pc < istoreBase + istoreSize ∧
      (s.istoreWord id.team.val (s.threadIndex (tidKey id))).toNat = w ∧ isaDecode w = some op ∧ e.unc = false ∧
      s.wdogDue (tidKey id) = false ∧ s.budgetDue (tidKey id) = false ∧
      s.flag F.CRS_SAMP_CFG_EN (0x10000 * id.team.val) = false) : Issues s id e op w :=
  let ⟨a, b, c, d, f, g, h, i, j, k, l, m⟩ := h
  ⟨a, b, c, d, f, g, h, i, j, k, l, m⟩

theorem clsFree_of {s : State} {q : Req}
    (h : bitOf (s.reg (bankKey q 0xA00294)).toNat 31 = false ∧ s.groupHeld 96 = false ∧ s.groupHeld 97 = false) : ClsFree s q := h

theorem encapAt_of {s : State} {x : Side} {g hec : Hec} {h stop : Nat}
    (e : s.frameUsable x = true ∧ (s.line x).delinLost = false ∧
      (s.line x).encPos + (if s.drixis x then 12 else Config.gHeaderBytes) ≤ (s.line x).payEnd ∧
      hec = (if s.drixis x then (crc16Check (s.infoAt x (s.line x).encPos 12)).1 else g) ∧
      h = (if s.drixis x then beNat (crc16Check (s.infoAt x (s.line x).encPos 12)).2
        else Config.gHeader (s.line x).info (s.line x).encPos) ∧
      stop = (s.line x).encPos + if s.drixis x then 12 + 4 * ceilDiv (bitsOf h 60 16) 4
        else Config.gEncapBytes (bitsOf h 60 16)) : EncapAt s x g hec h stop :=
  let ⟨a, b, c, d, e, f⟩ := e
  ⟨a, b, c, d, e, f⟩

theorem encapTaken_of {s : State} {x : Side} {g hec : Hec} {h stop n : Nat}
    (e : (s.frameUsable x = true ∧ (s.line x).delinLost = false ∧
      (s.line x).encPos + (if s.drixis x then 12 else Config.gHeaderBytes) ≤ (s.line x).payEnd ∧
      hec = (if s.drixis x then (crc16Check (s.infoAt x (s.line x).encPos 12)).1 else g) ∧
      h = (if s.drixis x then beNat (crc16Check (s.infoAt x (s.line x).encPos 12)).2
        else Config.gHeader (s.line x).info (s.line x).encPos) ∧
      stop = (s.line x).encPos + if s.drixis x then 12 + 4 * ceilDiv (bitsOf h 60 16) 4
        else Config.gEncapBytes (bitsOf h 60 16)) ∧
      hec ≠ .bad ∧ stop ≤ (s.line x).payEnd ∧ ¬ (s.drixis x = true ∧ bitsOf h 76 20 = 0xFFFFF) ∧
      (s.pidMatches x (bitsOf h 76 20)).head? = some n) : EncapTaken s x g hec h stop n :=
  let ⟨a, b, c, d, e⟩ := e
  ⟨encapAt_of a, b, c, d, e⟩

/-! ### Structures with their HEC, whatever the code (R71) -/

def hw (d : Nat) : Nat := d * 2 ^ 13 + Config.hec13 d % 2 ^ 13
def sf (n : Nat) : BitVec 64 := BitVec.ofNat 64 (hw n)

theorem sf_nat {n : Nat} (h : n < 2 ^ 51) : (sf n).toNat = hw n := by
  have := Nat.mod_lt (Config.hec13 n) (by decide : 0 < 2 ^ 13)
  exact Nat.mod_eq_of_lt (by unfold hw; omega)

theorem fix_of {w : BitVec 64} {n : Nat} (e : w = sf n) (h : n < 2 ^ 51) : hecFix w = some 0 := by
  have m := Nat.mod_lt (Config.hec13 n) (by decide : 0 < 2 ^ 13)
  have d : hw n / 2 ^ 13 = n := by unfold hw; omega
  have r : hw n % 2 ^ 13 = Config.hec13 n % 2 ^ 13 := by unfold hw; omega
  have k : hecOk (sf n ^^^ 0) = true := by
    rw [show sf n ^^^ 0 = sf n from BitVec.xor_zero]
    unfold hecOk
    exact beq_iff_eq.mpr (by rw [sf_nat h, d, r])
  subst e
  exact List.find?_cons_of_pos k

theorem isSome_of {α : Type} {o : Option α} {x : α} (h : o = some x) : o.isSome = true := by simp [h]

theorem count_of {f : DsFrame} {n : Nat} (e : f.sfc = sf n) (h : n < 2 ^ 51) : dsCount f = n := by
  have m := Nat.mod_lt (Config.hec13 n) (by decide : 0 < 2 ^ 13)
  have d : hw n / 2 ^ 13 = n := by unfold hw; omega
  rw [dsCount, hecData, fix_of e h, e]
  simpa [sf_nat h] using d

theorem count_ne {f : DsFrame} {n m : Nat} (h : dsCount f = n) (k : n ≠ m) : dsCount f ≠ m := h ▸ k

/-! ### Well-formedness: a term each check refuses -/

theorem test_wf_register_address : (Instr.registerWrite .host 2 0 false).wf = false ∧ (Instr.registerWrite .host (2 ^ 25) 0 false).wf = false ∧
    (Instr.counterLoRead .host 6).wf = false ∧ (Instr.readClear .host 1).wf = false ∧ (Instr.bucketConfigWrite .host 3 0).wf = false := by
  decide

theorem test_wf_read_address : (Instr.registerRead .host (cfgSpace + 4096) .answers).wf = false ∧
    (Instr.registerRead .host (2 ^ 25 + 2) .answers).wf = false ∧ (Instr.registerRead .host (2 ^ 25) .answers).wf = true := by decide

theorem test_wf_cell_fault : (Instr.cellFault .lane 0 256 0 0 0 true true []).wf = false ∧
    (Instr.cellFault .lane 0 0 0 512 0 true true []).wf = false ∧ (Instr.blockResetTimeout 0 256 0 0).wf = false := by decide

theorem test_wf_lengths : (Instr.gaitWindowEnd [1]).wf = false ∧ (Instr.adaptationConverged .a [[0]] []).wf = false ∧
    (Instr.adaptationConverged .a [[2, 0, 0, 0, 0, 0, 0, 0, 0]] []).wf = false ∧
    (Instr.odcInsertMultiframe .a true [0]).wf = false ∧ (Instr.odcInsertMultiframe .a false []).wf = false ∧
    (Instr.harnessRowReceive 0 []).wf = false := by decide

theorem test_wf_frame : (Instr.downstreamFrame .a { gPsyncErr := 65 }).wf = false ∧
    (Instr.psyncMatch .a 0 { gPsyncErr := 65 }).wf = false := by decide

theorem test_wf_entry_and_doorbell : (Instr.doorbell 0 0 3 0).wf = false ∧ (Instr.doorbell 0 4093 4 0).wf = false := by decide

/-! ### The program of 08_coursers.md, "a small program": each word decodes to the instruction beside it -/

theorem test_decode_program : isaDecode 0x50A1004C = some .lhbe ∧ isaDecode 0x04C00800 = some .addi ∧ isaDecode 0x84A60005 = some .bne ∧
    isaDecode 0x19000002 = some .lui ∧ isaDecode 0x0D083025 = some .ori ∧ isaDecode 0xF1480500 = some .enq ∧
    isaDecode 0xC0000003 = some .done ∧ isaDecode 0xF0000C00 = some .drop := by decide +kernel

theorem test_decode_fields : isaRd 0x50A1004C = 5 ∧ isaRa 0x50A1004C = 1 ∧ immS 0x50A1004C = 0x4C ∧ isaRd 0x84A60005 = 5 ∧
    isaRa 0x84A60005 = 6 ∧ immS 0x84A60005 = 5 := by decide +kernel

/-- R220, OP 0: FN 0 is ADD, FN 15 BSWAP, FN 16 is not listed; a bit in [9:6], shown as 0, spells none. OP 0x1C FN 2 is CAS;
OP 0x30 FN 0 is SRD and FN 1 is not listed; ACC with SUB 0 is not listed; the fill word 0xFFFF_FFFF is illegal. -/
theorem test_decode_fn : isaDecode 0 = some .add ∧ isaDecode 15 = some .bswap ∧ isaDecode 16 = none ∧ isaDecode (15 * 2 ^ 6) = none ∧
    isaDecode 0x70000002 = some .amoCas ∧ isaDecode 0xC0000000 = some .srd ∧ isaDecode 0xC0000001 = none ∧ isaDecode 0xFFFFFFFF = none := by
  decide +kernel

/-! ### Worked examples of the spec -/

/-- 01_architecture.md, "a gait reading". -/
theorem test_gait : State.gaitOf 5317 = 34845491 := by decide

/-- 00_scope.md, Check codes: the CRC-8 of 0x01, 0x02. -/
theorem test_crc8 : crc8 [1, 2] = 0x1B := by decide +kernel

/-- 02_line_physical.md, "a set that needs clamping". -/
theorem test_peq : ((peqCheck [0x0010, 0xFFA0, 0x00C8, 0x0390, 0xFF80, 0x0030, 0x0850] 0x17).taps.map fun t => signedOf t 11) =
    [16, -64, 160, 576, -128, 48, 32] := by decide +kernel

/-- 02_line_physical.md, "one conversion": -14.65 dBm in segment 3. -/
theorem test_rx_power : State.rxPower (fs {} ([(GRM_RXP_CAL_A_BREAK, 24, 1200), (GRM_RXP_CAL_A_OFFSET, 24, 65536 - 1850),
    (GRM_RXP_CAL_B_SLOPE, 24, 0x1A0)] ++ [4, 5, 6, 7].map fun k => (GRM_RXP_CAL_A_BREAK, 8 * k, 1500))) 0 1437 = -1465 := by
  decide +kernel

/-- 05_protection_bonding.md, "a gap across the wrap". -/
theorem test_reorder_distance : State.roDist 0x000001 0xFFFFFE = 3 ∧ State.roDist 0xFFFFFE 0xFFFFFE = 0 ∧ State.roDist 0 2 = 0xFFFFFE := by decide

/-- 13_memory.md, "a word, an error and a wrong address": the checks, and d5 restored. -/
theorem test_dram_code : dramChecks 0xA00000 2 = 0x145D ∧ dramDecode 0x300000 0x145D 2 = .corrected 0xA00000 0x145D := by decide +kernel

/-- 14_keys_checks.md: the IV of a downstream frame. -/
theorem test_line_iv : State.lineIv (fs {} [(LIN_MODE_MODE, 0, 1)]) .a 0x100000003 0 0x04A2C 0x4C8 = 0x000020000000604A2C0004C8 := by
  decide +kernel

/-- 15_power_groom.md, "the energy check". -/
theorem test_energy : State.holdE (fs {} [(GRM_HU_CAL0_C, 0, 1000), (GRM_HU_CAL0_VMIN, 0, 9000), (GRM_HU_CAL1_SCALE, 0, 0x3000)]) 3500 =
    14625000000 := by decide +kernel

/-- 10_time.md, "one Time_of_Day message": rtd, and tod_N in 2^-16 ns. -/
def todState : State := fs {} [(LIN_MODE_MODE, 0, 1), (TIM_DLY_DTX, 0, 0x340), (TIM_DLY_DRX, 0, 0x280), (TIM_ASYM_ASYM, 0, 0x40088000)]
def todMsg : TodMsg := { sec := 1700000123, nsec := 999900000, frac := 0, teqd := 26214400000 }

theorem test_tod_message : todState.todRtd .a todMsg { eqd := 1234567, resid := 1 } = 14915380205 ∧
    todState.todAtN .a todMsg { eqd := 1234567, resid := 1 } = (1700000124 * 1000000000 + 13768) * 65536 + 0x4F34 := by decide +kernel

/-- 12_host_interface.md, "a doorbell across the wrap": the fields of slot 253's descriptor. -/
theorem test_descriptor : let d : Desc := { w0 := 0x23401FA0, w1 := 1, w2 := 0x422986A0, w3 := 0x012322F4 }
    d.txLen = 100000 ∧ d.hdrLen = 66 ∧ d.tsReq = true ∧ d.seg = true ∧ d.exp = false ∧ d.mss = 8948 ∧ d.txTag = 0x123 := by decide

/-- R69: descrambling is scrambling again from the same preset. -/
theorem test_scramble : scramble (scrPreset 5) (scramble (scrPreset 5) [1, 2, 3, 4]) = [1, 2, 3, 4] := by decide +kernel

/-! ### Statements that compare the CRC of an instruction store -/

theorem reflect_lt (w n : Nat) : reflect w n < 2 ^ w := by
  induction w with
  | zero => simp [reflect]
  | succ k ih =>
    have h : reflect (k + 1) n = reflect k n * 2 + (if bitOf n k then 1 else 0) := by simp [reflect, List.range_succ]
    rw [h, Nat.pow_succ]
    split <;> omega

theorem crc32c_lt (b : List Byte) : crc32c b < 2 ^ 32 := Nat.xor_lt_two_pow (reflect_lt 32 _) (by decide)

/-- A state whose ICRC of team 0 holds `v`. -/
def icrc (s : State) (v : Word) : State := s.setReg 0xC00030 v

theorem icrc_f (s : State) (c : Nat) (h : c < 2 ^ 32) : (icrc s (BitVec.ofNat 32 c)).f F.CRS_IMG_ICRC_CRC 0 = c := by
  have e : (icrc s (BitVec.ofNat 32 c)).reg (F.CRS_IMG_ICRC_CRC.addr + 0) = BitVec.ofNat 32 c := State.reg_setReg_self _ _ _
  unfold State.f
  rw [e]
  simp [Fld.of, bitsOf, F.CRS_IMG_ICRC_CRC]
  omega

theorem istoreCrc_congr {s t : State} (n : Nat) (h : s.istore = t.istore) : s.istoreCrc n = t.istoreCrc n := by
  simp only [State.istoreCrc, State.istoreWord, h]

theorem icrc_crc (s : State) (v : Word) (n : Nat) : (icrc s v).istoreCrc n = s.istoreCrc n := istoreCrc_congr n rfl

theorem test_met_TeamReset : (∃ s : State, s.istoreCrc 0 = s.f F.CRS_IMG_ICRC_CRC (0x10000 * 0)) ∧
    ∃ s : State, s.istoreCrc 0 ≠ s.f F.CRS_IMG_ICRC_CRC (0x10000 * 0) := by
  refine ⟨⟨icrc {} (BitVec.ofNat 32 (State.istoreCrc {} 0)), ?_⟩, ?_⟩
  · rw [icrc_crc]
    exact (icrc_f {} _ (crc32c_lt _)).symm
  · by_cases h : State.istoreCrc {} 0 = 5
    · exact ⟨icrc {} (BitVec.ofNat 32 6), by rw [icrc_crc, h]; exact fun e => absurd (e.trans (icrc_f {} 6 (by decide))) (by decide)⟩
    · exact ⟨icrc {} (BitVec.ofNat 32 5), by rw [icrc_crc]; exact fun e => h (e.trans (icrc_f {} 5 (by decide)))⟩

/-- A finished test of team 0 whose saved state is put back and whose instruction store has its CRC. -/
def farBase : State := ((fs all [(FAR_STAT_BUSY, 0, 1), (FAR_STAT_PHASE, 0, 6)]).modFar fun x =>
  { x with kind := 0, index := 0, before := 3, save := some {} })

def farDone : State := icrc farBase (BitVec.ofNat 32 ((farBase.teamBack 0 {}).istoreCrc 0))

theorem test_met_FarrierRestore : farDone.farBusy = true ∧ farDone.farPhase = 6 ∧ farDone.far.kind = 0 ∧
    farDone.far.index < 16 ∧ farDone.far.ended = false ∧ farDone.far.logicBad = false ∧ farDone.far.memBad = false ∧
    farDone.far.save = some {} ∧ farDone.far.before ≤ 7 ∧
    (farDone.teamBack 0 {}).istoreCrc 0 = farDone.f F.CRS_IMG_ICRC_CRC (0x10000 * 0) := by
  have r : ∀ k, k ≠ 0xC00030 → farDone.reg k = farBase.reg k := fun k h => State.reg_setReg_ne _ (Ne.symm h) _
  have b : farDone.farBusy = farBase.farBusy := by simp only [State.farBusy, State.flag, State.f, r _ (by decide : F.FAR_STAT_BUSY.addr + 0 ≠ 0xC00030)]
  have p : farDone.farPhase = farBase.farPhase := by simp only [State.farPhase, State.f, r _ (by decide : F.FAR_STAT_PHASE.addr + 0 ≠ 0xC00030)]
  have f : farDone.far = farBase.far := rfl
  rw [b, p, f]
  have e : (farDone.teamBack 0 {}).istoreCrc 0 = (farBase.teamBack 0 {}).istoreCrc 0 := by
    refine istoreCrc_congr 0 ?_
    have i : farDone.istore = farBase.istore := rfl
    simp only [State.teamBack, State.teamBlank, i]
  refine ⟨?_, ?_, ?_, ?_, ?_, ?_, ?_, ?_, ?_, e.trans (icrc_f farBase _ (crc32c_lt _)).symm⟩ <;> decide +kernel

/-! ### A whole image: its checks pass (R236, R237) -/

/-- An image of one section (one instruction word for offset 0), LENGTH 1,104, with `c` as its CRC and `t` in each byte of the
tag. -/
def imgHead : List Byte := [0x4B434154, 0x10001, 1104, 0xABCD, 1, 2].flatMap (leBytes 4)
def imgBody : List Byte := List.replicate 1028 0 ++ [1, 0, 4, 1072, 0x12345678].flatMap (leBytes 4) ++ List.replicate 12 0
def img (c : Nat) (t : Byte) : List Byte := imgHead ++ (leBytes 4 c ++ (imgBody ++ List.replicate 16 t))

theorem leBytes_len (k n : Nat) : (leBytes k n).length = k := by
  induction k generalizing n with
  | zero => rfl
  | succ k ih => simp [leBytes, ih]

theorem bytesAt_drop (b : List Byte) (n i : Nat) (h : i + n ≤ b.length) : bytesAt b i n = (b.drop i).take n := by
  induction n generalizing i with
  | zero => simp [bytesAt]
  | succ k ih =>
    rw [bytesAt, ih (i + 1) (by omega), List.drop_eq_getElem_cons (by omega : i < b.length), List.take_succ_cons]
    simp [byteAt, List.getElem?_eq_getElem (by omega : i < b.length)]

theorem imgHead_len : imgHead.length = 24 := by decide
theorem imgBody_len : imgBody.length = 1060 := by decide +kernel
theorem img_len (c : Nat) (t : Byte) : (img c t).length = 1104 := by simp [img, imgHead_len, imgBody_len, leBytes_len]

theorem img_head (c : Nat) (t : Byte) (i : Nat) (h : i + 4 ≤ 24) : imgWord (img c t) i = imgWord imgHead i := by
  unfold imgWord
  rw [bytesAt_drop _ _ _ (by rw [img_len]; omega), bytesAt_drop _ _ _ (by rw [imgHead_len]; omega), img,
    List.drop_append_of_le_length (by rw [imgHead_len]; omega), List.take_append_of_le_length (by rw [List.length_drop, imgHead_len]; omega)]

theorem img_body (c : Nat) (t : Byte) (i : Nat) (h : i + 4 ≤ 1060) : imgWord (img c t) (28 + i) = imgWord imgBody i := by
  unfold imgWord
  have e : (img c t).drop (28 + i) = imgBody.drop i ++ List.replicate 16 t := by
    rw [img, ← List.append_assoc, ← List.drop_drop,
      show 28 = (imgHead ++ leBytes 4 c).length by simp [imgHead_len, leBytes_len], List.drop_left,
      List.drop_append_of_le_length (by rw [imgBody_len]; omega)]
  rw [bytesAt_drop _ _ _ (by rw [img_len]; omega), bytesAt_drop _ _ _ (by rw [imgBody_len]; omega), e,
    List.take_append_of_le_length (by rw [List.length_drop, imgBody_len]; omega)]

theorem img_length (c : Nat) (t : Byte) : imgWord (img c t) 8 = 1104 := (img_head c t 8 (by decide)).trans (by decide)

theorem img_bytes (c : Nat) (t : Byte) : bytesAt (img c t) 0 1088 = imgHead ++ (leBytes 4 c ++ imgBody) := by
  rw [bytesAt_drop _ _ _ (by rw [img_len]; decide), img]
  simp [List.take_append, imgHead_len, imgBody_len, leBytes_len, List.take_of_length_le]

theorem img_crcOf (c : Nat) (t : Byte) : imgCrcOf (img c t) = crc32c (imgHead ++ ([0, 0, 0, 0] ++ imgBody)) := by
  rw [imgCrcOf, imgLength, img_length, img_bytes, patch, show 24 = imgHead.length from imgHead_len.symm, List.take_left,
    ← List.drop_drop, List.drop_left, show ([0, 0, 0, 0] : List Byte).length = (leBytes 4 c).length from (leBytes_len 4 c).symm,
    List.drop_left, List.append_assoc]

theorem img_crc (c : Nat) (t : Byte) (h : c < 2 ^ 32) : imgWord (img c t) 24 = c := by
  have e : bytesAt (img c t) 24 4 = leBytes 4 c := by
    rw [bytesAt_drop _ _ _ (by rw [img_len]; decide), img, show 24 = imgHead.length from imgHead_len.symm, List.drop_left]
    exact List.take_left' (leBytes_len 4 c)
  rw [imgWord, e]
  simp [leBytes, leNat]
  omega

theorem img_sects (c : Nat) (t : Byte) : sectsBad teamMemSize (img c t) = false := by
  have n : imgWord (img c t) 16 % 65536 = 1 := by rw [img_head c t 16 (by decide)]; decide
  have a := (img_body c t 1028 (by decide)).trans (by decide +kernel : _ = 1)
  have b := (img_body c t 1032 (by decide)).trans (by decide +kernel : _ = 0)
  have d := (img_body c t 1036 (by decide)).trans (by decide +kernel : _ = 4)
  have e := (img_body c t 1040 (by decide)).trans (by decide +kernel : _ = 1072)
  have l : imgLength (img c t) = 1104 := img_length c t
  simp [sectsBad, imgSects, n, a, b, d, e, l, sectsOverlap, teamMemSize]

/-- The CRC of the bytes before the tag, CRC field 0. -/
def imgSum : Nat := crc32c (imgHead ++ ([0, 0, 0, 0] ++ imgBody))

theorem imgSum_lt : imgSum < 2 ^ 32 := crc32c_lt _

/-- Such an image fails at its CRC alone, and with the right one nowhere before its tag. -/
theorem img_failure (c : Nat) (t : Byte) (h : c < 2 ^ 32) : imageFailure 1104 (img c t) = if imgSum ≠ c then 8 else 0 := by
  have a := (img_head c t 0 (by decide)).trans (by decide : _ = 0x4B434154)
  have b := (img_head c t 4 (by decide)).trans (by decide : _ = 0x10001)
  have l := img_length c t
  have s := img_sects c t
  have k : imgCrcOf (img c t) = imgSum := img_crcOf c t
  have w := img_crc c t h
  generalize img c t = x at *
  simp [imageFailure, a, b, l, s, k, w]

/-- Team 3 is loading an image of 1,104 bytes, and host memory is reachable. -/
def loading (l : List (Fld × Nat × Nat)) : State :=
  on (fs {} ([(CRS_TEAM_STAT_STATE, 0x30000, 2), (CRS_LOAD_LEN_LEN, 0x30000, 1104), (CRS_LOAD_CFG_AUTH, 0x30000, 0),
    (HIF_STAT_BME, 0, 1)] ++ l)) [2, 6]

/-- The same, its tag under the key of slot 5. -/
def loadingKey (k : List Byte) : State :=
  (loading [(CRS_LOAD_CFG_AUTH, 0x30000, 1), (CRS_LOAD_CFG_KEY_SLOT, 0x30000, 5), (SEC_SLOT_STATE, 20, if k.isEmpty then 0 else 1)]).modSec
    fun c => { c with keys := [(5, k)] }

theorem test_met_TeamLoading_failure : (loading []).teamState 3 = 2 ∧ (loading []).hostOk = true ∧
    imageFailure ((loading []).f CRS_LOAD_LEN_LEN 0x30000) (leBytes 4 0x4B434154) = 4 ∧ ∃ b,
      imageFailure ((loading []).f CRS_LOAD_LEN_LEN 0x30000) b = 8 := by
  refine ⟨by decide +kernel, by decide +kernel, by decide +kernel, ?_⟩
  rw [show (loading []).f CRS_LOAD_LEN_LEN 0x30000 = 1104 by decide +kernel]
  have h := imgSum_lt
  by_cases e : imgSum = 5
  · exact ⟨img 6 0, by rw [img_failure 6 0 (by decide), e]; decide⟩
  · exact ⟨img 5 0, by rw [img_failure 5 0 (by decide), if_pos e]⟩

theorem test_met_TeamLoading_tag : (loadingKey []).teamState 3 = 2 ∧ (loadingKey []).hostOk = true ∧
    (loadingKey []).flag CRS_LOAD_CFG_AUTH 0x30000 = true ∧ (loadingKey []).flag SEC_ENT_STAT_FAIL = false ∧
    (loadingKey []).keyEmpty ((loadingKey []).f CRS_LOAD_CFG_KEY_SLOT 0x30000) = true ∧
    (loadingKey [1]).teamState 3 = 2 ∧ (loadingKey [1]).hostOk = true ∧
    (loadingKey [1]).flag CRS_LOAD_CFG_AUTH 0x30000 = true ∧ (loadingKey [1]).flag SEC_ENT_STAT_FAIL = false ∧
    (loadingKey [1]).keyEmpty ((loadingKey [1]).f CRS_LOAD_CFG_KEY_SLOT 0x30000) = false ∧
    (loadingKey []).f CRS_LOAD_LEN_LEN 0x30000 = 1104 ∧ (loadingKey [1]).f CRS_LOAD_LEN_LEN 0x30000 = 1104 := by
  decide +kernel

/-- Whatever the key, one of two images does not carry the right tag. -/
theorem test_met_TeamLoading_wrong_tag (k : List Byte) : ∃ b, imageFailure 1104 b = 0 ∧
    cmacTag k false (bytesAt b 0 (imgWord b 8 - 16)) ≠ beAt (b.drop (imgWord b 8 - 16)) 0 16 := by
  have h := imgSum_lt
  have p (t : Byte) : imageFailure 1104 (img imgSum t) = 0 := by rw [img_failure _ _ h]; simp
  have l (t : Byte) : imgWord (img imgSum t) 8 - 16 = 1088 := by rw [img_length]
  have d (t : Byte) : (img imgSum t).drop 1088 = List.replicate 16 t := by
    rw [img, ← List.append_assoc, ← List.append_assoc,
      show 1088 = (imgHead ++ leBytes 4 imgSum ++ imgBody).length by simp [imgHead_len, imgBody_len, leBytes_len], List.drop_left]
  by_cases e : cmacTag k false (imgHead ++ (leBytes 4 imgSum ++ imgBody)) = beAt (List.replicate 16 (0 : Byte)) 0 16
  · refine ⟨img imgSum 1, p 1, ?_⟩
    rw [l, img_bytes, d, e]
    decide +kernel
  · refine ⟨img imgSum 0, p 0, ?_⟩
    rw [l, img_bytes, d]
    exact e

theorem test_met_TeamLoading_loaded : (loading []).teamState 3 = 2 ∧ (loading []).hostOk = true ∧
    (loading []).flag CRS_LOAD_CFG_AUTH 0x30000 = false ∧ (loading []).f CRS_LOAD_LEN_LEN 0x30000 = 1104 ∧
    ∃ b, imageFailure 1104 b = 0 := by
  refine ⟨by decide +kernel, by decide +kernel, by decide +kernel, by decide +kernel, img imgSum 0, ?_⟩
  rw [img_failure _ _ imgSum_lt]
  simp

/-- A second read that differs: one of two short ones has another CRC. -/
theorem test_met_TeamLoading_second : ∃ b c, imageFailure 1104 b = 0 ∧ imgCrcOf c ≠ imgWord b 24 := by
  have h := imgSum_lt
  have p : imageFailure 1104 (img imgSum 0) = 0 := by rw [img_failure _ _ h]; simp
  have q : imgCrcOf [] ≠ imgCrcOf (List.replicate 8 0 ++ leBytes 4 18) := by decide +kernel
  by_cases e : imgCrcOf [] = imgWord (img imgSum 0) 24
  · exact ⟨img imgSum 0, _, p, fun k => q (e.trans k.symm)⟩
  · exact ⟨img imgSum 0, [], p, e⟩

/-! ### Hypotheses of the statements about every state -/

theorem test_met_StepRunsCommand : ∃ (s : State) (c : Instr), s.pending = [] ∧ c = .resetEnd := ⟨{}, .resetEnd, rfl, rfl⟩

theorem test_met_IdleStepIsATick : (State.reset.pending = []) ∧ (State.reset.regionUp 7 = true) := by decide +kernel

theorem test_met_StepKeepsInvariant : State.reset.memOk = true ∧ State.reset.tick < 2 ^ 64 ∧ State.reset.tm.tod < todModulus := by
  decide +kernel

theorem test_met_CommandFrame : (exec .resetEnd State.reset = .next (getN (exec .resetEnd State.reset)) ∧
    Comp.threads ∉ touches .resetEnd) ∧
    exec (.txEnable .host .a true) all = .next (getN (exec (.txEnable .host .a true) all)) ∧ Comp.dram ∉ touches (.txEnable .host .a true) :=
  ⟨⟨getN_eq (by decide +kernel), by decide +kernel⟩, getN_eq (by decide +kernel), by decide +kernel⟩

/-! ### Hypotheses of the statements: concrete states and operands -/

namespace K1

def tsq (k : Nat) : State := (all.setTsQueue k {entries := [[1,2,3,4,5,6,7,8],[9]]}).setTsQueue 2 {entries := [[7]]}
def w1 : State := all
noncomputable def w2 : State := getN (exec (.registerWrite .host 0x600014 0x12345678 false) all)
def w3 : RegRow := (regRow 0x600014).getD {base := 0}
def w4 : State := fuzz
def w5 : State := {}
def w6 : State := fs {} [(F.GLB_RST_STAT_BUSY,0,1),(F.GLB_RST_STAT_LAST,0,2)]
def w7 : RegRow := (regRow 0xC00000).getD {base := 0}
def w8 : State := fs all [(F.CLI_CFG_MODE,0,0)]
def w9 : State := tsq 7
def w10 : Fin 8 := 7
def w11 : List Word := [1,2,3,4,5,6,7,8]
def w12 : List (List Word) := [[9]]
def w13 : State := tsq 5
def w14 : Fin 8 := 6
def w15 : State := tsq 8
def w16 : Fin 2 := 0
def w17 : State := tsq 9
def w18 : Fin 2 := 0

theorem test_met_RegisterWrites :
    /- clause 0 -/ ((Reach w1 Req.host 12582912)) ∧
    /- clause 1 -/ ((Reach w2 Req.host 6291476) ∧ (¬HarAbsent w2 6291476) ∧ (ownWrite 6291476 = false) ∧ (regRow 6291476 = some w3) ∧ (w3.host = true → Req.host = Req.host)) ∧
    /- clause 2 -/ ((Reach w4 Req.host 32764) ∧ (ownWrite 32764 = false) ∧ (regRow 32764 = none ∨ HarAbsent w4 32764 ∨ ∃ r, regRow 32764 = some r ∧ r.host = true ∧ Req.host ≠ Req.host)) ∧
    /- clause 3 -/ ((511 < 512) ∧ (511 ≠ 5) ∧ (Reach w4 Req.host (1052672 + 4 * 511))) ∧
    /- clause 4 -/ ((w5.reqUp Req.groom = true) ∧ ((w5.warmBusy && decide (32768 ≤ 14680064)) = false) ∧ (w5.unavailable 14680064 = some 0)) ∧
    /- clause 5 -/ ((Reach w4 Req.host 16)) ∧
    /- clause 6 -/ (w6.warmBusy = true) ∧ (32768 ≤ 32768) := by
  refine ⟨?_, ?_, ?_, ?_, ?_, ?_, ?_⟩ <;> decide +kernel

theorem test_met_RegisterReads :
    /- clause 1 -/ ((StoredRead w1 Req.host 12582912) ∧
    (Reach w1 Req.host 12582912) ∧ (12582912 < bar4) ∧ (¬HarAbsent w1 12582912) ∧ (¬PortAbsent w1 12582912) ∧ (regRow 12582912 = some w7)) ∧
    /- clause 2 -/ ((StoredRead w4 Req.host 32764) ∧
    (Reach w4 Req.host 32764) ∧ (32764 < bar4) ∧ (¬HarAbsent w4 32764) ∧ (¬PortAbsent w4 32764) ∧ (regRow 32764 = none)) ∧
    /- clause 3 -/ ((Reach w8 Req.host 17920000) ∧ (17920000 < bar4) ∧ (HarAbsent w8 17920000 ∨ PortAbsent w8 17920000)) ∧
    /- clause 4 -/ ((511 < 512) ∧ (Reach w4 Req.host (1052672 + 4 * 511))) ∧
    /- clause 5 -/ ((w1.reqUp Req.host = true) ∧ (bar4 ≤ bar4) ∧ (bar4 < bar2)) ∧
    /- clause 6 -/ ((w1.reqUp Req.host = true) ∧ (bar2 ≤ bar2 + 8) ∧ (bar2 + 8 < cfgSpace)) ∧
    /- clause 7 -/ ((w1.reqUp Req.host = true) ∧ (cfgSpace ≤ cfgSpace) ∧ (State.pcieWord (cfgSpace - cfgSpace) = some ((State.pcieWord 0).getD 0))) ∧
    /- clause 8 -/ ((w5.reqUp Req.host = true) ∧ (6291456 < bar4) ∧ (w5.warmBusy = false) ∧ (w5.unavailable 6291456 = some 0)) ∧
    /- clause 9 -/ ((Reach w4 Req.host 16) ∧ (16 < bar4)) ∧
    /- clause 10 -/ ((Reach w1 Req.host 45056) ∧ (45056 < bar4) ∧ (¬HarAbsent w1 45056) ∧ (¬PortAbsent w1 45056) ∧ (w1.pairValue Req.host 45056 = some 0)) ∧
    /- clause 11 -/ ((cntWidth 45056 = 64)) ∧
    /- clause 12 -/ ((Reach w1 Req.host (45056 + 4)) ∧ (45056 + 4 < bar4) ∧ (¬HarAbsent w1 (45056 + 4)) ∧ (¬PortAbsent w1 (45056 + 4)) ∧ (w1.pairValue Req.host 45056 = some 0) ∧ (w1.pairValue Req.host (45056 + 4) = none)) ∧
    /- clause 13 -/ (Reach w1 Req.host 10486532) := by
  and_intros <;> first
    | decide +kernel
    | exact (by constructor <;> decide +kernel)

theorem test_met_IdentityRegisters :
    /- clause 0 -/ (Reach w4 Req.groom 0) := by decide +kernel

theorem test_met_StoredWordCodes :
    /- clause 0 -/ ((5 < 2 ^ 64) ∧ (7 < 2 ^ 36)) ∧
    /- clause 1 -/ (5 < 2 ^ 64) ∧ (7 < 2 ^ 20) := by
  refine ⟨?_, ?_⟩ <;> decide +kernel

theorem test_met_TimeReads :
    /- clause 0 -/ ((Reach w4 Req.host 16777240)) ∧
    /- clause 1 -/ ((Reach w9 (Req.team 3) (16778240 + 32 * ↑w10)) ∧ ((w9.tsQueue ↑w10).entries = w11 :: w12)) ∧
    /- clause 2 -/ ((Reach w13 Req.host (16778240 + 32 * ↑w14)) ∧ ((w13.tsQueue ↑w14).entries = [])) ∧
    /- clause 3 -/ ((Reach w15 (Req.team 4) (16777796 + 32 * ↑w16)) ∧ ((w15.tsQueue (8 + ↑w16)).entries = w11 :: w12)) ∧
    /- clause 4 -/ (Reach w17 Req.host (16777796 + 32 * ↑w18)) ∧ ((w17.tsQueue (8 + ↑w18)).entries = []) := by
  refine ⟨?_, ?_, ?_, ?_, ?_⟩ <;> decide +kernel

end K1

namespace K2

def gw : State := {all with tick := 10000}
def rxa := fs all [(LIN_MODE_RX_EN,0x200000,1),(LIN_MODE_TX_EN,0x200000,1),(LIN_DSP_STAT_ADC_CAL,0x200000,1),(LIN_DSP_STAT_CONV,0x200000,1),(PRT_CFG_MODE,0,0),(DSF_STAT_LOF,0x200000,1),(DSF_STAT_STATE,0x200000,0),(LIN_MODE_MODE,0x200000,0),(LIN_MODE_US_RATE,0x200000,0)]
def rxl := fs rxa [(LIN_DSP_STAT_CDR_LOCK,0x200000,1),(LIN_DSP_STAT_SD,0x200000,1)]
def rxo := fs rxa [(LIN_MODE_RX_EN,0x200000,0),(LIN_MODE_TX_EN,0x200000,0)]
def i2 := fs all [(LIN_I2C_CFG_OWNER,0x200000,reqCode .host),(LIN_I2C_STAT_BUSY,0x200000,0),(LIN_I2C_CFG_BUS1_EN,0x200000,0)]
def w1 : State := fs ((fuzz).modPwr fun p => {p with loss := 2}) [(GRM_HU_CAL0_C,0,1000),(GRM_HU_CAL0_VMIN,0,9000),(GRM_HU_CAL1_SCALE,0,0x3000),(GRM_HU_REQ_EREQ,0,6000),(GRM_HU_REQ_MARGIN,0,0x20),(GRM_SAVE_STAT_READY,0,1)]
def w2 : Fin 4096 := 3500
def w3 : Fin 4096 := 3415
def w4 : State := fs all [(CKT_STAT_PEND_DS,0,1)]
def w5 : Fin 3776 := 5
def w6 : State := fs all [(CKT_STAT_PEND_US,0,1)]
def w7 : State := fs all [(CKT_STAT_PEND_US,0,1),(CKT_STAT_PEND_DS,0,1)]
def w8 : State := fuzz
def w9 : State := fs {} [(GLB_FLT_CAUSE_VALID,0,1)]
def w10 : State := gw
def w11 : State := {all with tick := 7775}
def w12 : State := fs all [(XNG_STAT_REFUSING,0x20*3,1)]
def w13 : Fin 30 := 3
def w14 : State := rxa
def w15 : State := fs rxo [(PRT_CFG_MODE,0,2),(LIN_MODE_MODE,0x200000,1)]
def w16 : State := rxo
def w17 : State := rxl
def w18 : State := ln rxa .b (fun l => {l with sending := some {}})
def w19 : State := fs rxa [(LIN_DSP_STAT_CDR_LOCK,0x200000,0)]
def w20 : State := fs rxl [(LIN_DSP_CFG_ADAPT,0x200000,1),(LIN_MODE_MODE,0x200000,1)]
def w21 : State := fs rxl [(LIN_DSP_CFG_ADAPT,0x200000,1)]
def w22 : List (List Int) := []
def w23 : State := fs (rs rxl [(0x400020+0x200000,0x800)]) [(LIN_DSP_CFG_ADAPT,0x200000,1),(LIN_DSP_CFG_DFE_EN,0x200000,1),(LIN_DSP_CFG_MU,0x200000,3)]
def w24 : Int := -65664
def w25 : List Int := [-5]
def w26 : State := ln (fs rxl [(LIN_MODE_MODE,0x200000,1),(LIN_LDPC_CFG_LLR_SCALE,0x200000,40)]) .b (fun l => {l with slicer := [20,0,-20], marks := [3]})
def w27 : State := fs all [(LIN_FE_CFG_TXF_POL,0x200000,1)]
def w28 : State := fs (ln all .b (fun l => {l with sending := some {}})) [(LIN_FE_STAT_TXF,0x200000,0)]
def w29 : List Nat := [0x7FF,0x400,0x3FF,0,1,0x1FF,0x200]
def w30 : State := fs all [(LIN_PEQ_PEND_RAW,0x200000,5),(LIN_PEQ_PEND_RAW,0x20000C,700),(LIN_PEQ_CTRL_OWNER,0x200000,reqCode .host)]
def w31 : State := fs all [(LIN_PEQ_PEND_RAW,0x200000,5),(LIN_PEQ_CTRL_OWNER,0x200000,reqCode .host)]
def w32 : State := ln all .b (fun l => {l with peq := some {taps := [1,2,3,4,5,6,7]}, store := [{t0 := 500}, {t0 := 800}]})
def w33 : PeqSet := {taps := [1,2,3,4,5,6,7]}
def w34 : Burst := {t0 := 500}
def w35 : State := ln all .b (fun l => {l with peq := some {taps := [1,2,3,4,5,6,7]}, sending := some {}, store := [{t0 := 500}, {t0 := 800}], peqMark := 501})
def w36 : Burst := {t0 := 800}
def w37 : State := ln all .b (fun l => {l with peq := none, store := [{t0 := 500}, {t0 := 800}], peqMark := 501})
def w38 : State := ln all .b (fun l => {l with store := [{t0 := 500}], peqMark := 501})
def w39 : State := rs all [(shadowKey (0x200400+0x40+8*3), 77)]
def w40 : Fin 8 := 3
def w41 : State := fs i2 [(LIN_I2C_STAT_BUSY,0x200000,1)]
def w42 : State := i2
def w43 : State := fs all [(LIN_I2C_STAT_BUSY,0x200000,1),(LIN_I2C_CMD_READ,0x200000,1),(LIN_I2C_CMD_LEN,0x200000,2)]
def w44 : Fin 4 := 0
def w45 : State := fs i2 [(GLB_RES_OWNER_FEATURE,4*(State.gpRes .b),0)]
def w46 : State := fs i2 [(GLB_RES_OWNER_FEATURE,4*(State.gpRes .b),3)]
def w47 : State := fs i2 [(LIN_I2C_CFG_BUS1_EN,0x200000,1),(GLB_RES_OWNER_FEATURE,4*(State.gpRes .b),10)]

theorem test_met_HoldUpEnergy :
    /- clause 0 -/ (w1.pwr.loss = 2) ∧ (10500 = ↑w2 * w1.f GRM_HU_CAL1_SCALE / 4096) ∧ (29250000 = if w1.f GRM_HU_CAL0_VMIN < 10500 then 10500 * 10500 - w1.f GRM_HU_CAL0_VMIN * w1.f GRM_HU_CAL0_VMIN else 0) ∧ (14625000000 = w1.f GRM_HU_CAL0_C * 29250000 / 2) ∧ (16 * 14625000000 ≥ 1000000 * w1.f GRM_HU_REQ_EREQ * w1.f GRM_HU_REQ_MARGIN) ∧ (w1.flag GRM_SAVE_STAT_READY = true) ∧ (10245 = ↑w3 * w1.f GRM_HU_CAL1_SCALE / 4096) ∧ (23960025 = if w1.f GRM_HU_CAL0_VMIN < 10245 then 10245 * 10245 - w1.f GRM_HU_CAL0_VMIN * w1.f GRM_HU_CAL0_VMIN else 0) ∧ (11980012500 = w1.f GRM_HU_CAL0_C * 23960025 / 2) ∧ (16 * 11980012500 < 1000000 * w1.f GRM_HU_REQ_EREQ * w1.f GRM_HU_REQ_MARGIN) := by decide +kernel

theorem test_met_PendingPages :
    /- clause 0 -/ ((w4.grade ≠ Grade.fbx) ∧ (Reach w4 Req.host (9502720 + 4 * ↑w5)) ∧ (w4.flag CKT_STAT_PEND_DS = true) ∧ (w6.grade ≠ Grade.fbx) ∧ (Reach w6 Req.host (9568256 + 4 * ↑w5)) ∧ (w6.flag CKT_STAT_PEND_US = true)) ∧
    /- clause 1 -/ (Reach w7 (Req.team 3) 9437188) ∧ (w7.flag CKT_STAT_PEND_DS = true) ∧ (w7.flag CKT_STAT_PEND_US = true) := by
  refine ⟨?_, ?_⟩ <;> decide +kernel

theorem test_met_FaultLevels :
    /- clause 3 -/ ((w8.flag GLB_FLT_CAUSE_VALID = false)) ∧
    /- clause 4 -/ ((w9.flag GLB_FLT_CAUSE_VALID = true)) ∧
    /- clause 5 -/ ((Reach w9 Req.host 64) ∧ (GLB_FLT_CAUSE_VALID.of 2147483648 = 1)) ∧
    /- clause 6 -/ (Reach w9 Req.host 64) ∧ (GLB_FLT_CAUSE_VALID.of 2147483647 = 0) := by
  refine ⟨?_, ?_, ?_, ?_⟩ <;> decide +kernel

theorem test_met_GaitAndCrossings :
    /- clause 0 -/ ((w10.regionUp 2 = true) ∧ (w10.regionUp 7 = true) ∧ (w10.xOpen 20 = true) ∧ (w10.tm.gaitTick + 7776 ≤ w10.tick)) ∧
    /- clause 1 -/ ((w11.regionUp 7 = false ∨ w11.xOpen 20 = false ∨ w11.tick < w11.tm.gaitTick + 7776)) ∧
    /- clause 5 -/ (w12.flag XNG_STAT_REFUSING (32 * ↑w13) = true) := by
  refine ⟨?_, ?_, ?_⟩ <;> decide +kernel

theorem test_met_ReceiverStates :
    /- clause 0 -/ ((Reach w14 Req.host (4194304 + sideOff Side.b)) ∧ (w14.rxEn Side.b = true ∨ w14.txEn Side.b = true) ∧ (LIN_MODE_MODE.of (wd [(LIN_MODE_MODE, 1)]) ≠ w14.f LIN_MODE_MODE (sideOff Side.b) ∨ LIN_MODE_US_RATE.of (wd [(LIN_MODE_MODE, 1)]) ≠ w14.f LIN_MODE_US_RATE (sideOff Side.b)) ∧ (LIN_MODE_MODE.of (wd [(LIN_MODE_MODE, 1)]) = w14.f LIN_MODE_MODE (sideOff Side.b) ∨ w14.breaksR3 Side.b (wd [(LIN_MODE_MODE, 1)]) = false)) ∧
    /- clause 1 -/ ((Reach w15 Req.host (4194304 + sideOff Side.b)) ∧ (LIN_MODE_MODE.of (wd [(LIN_MODE_MODE, 2)]) ≠ w15.f LIN_MODE_MODE (sideOff Side.b)) ∧ (w15.prtMode = 1 ∧ (LIN_MODE_MODE.of (wd [(LIN_MODE_MODE, 2)]) == 1) ≠ w15.drixis (sideOther Side.b) ∨ w15.prtMode = 2 ∧ LIN_MODE_MODE.of (wd [(LIN_MODE_MODE, 2)]) ≠ 1)) ∧
    /- clause 2 -/ ((Reach w16 Req.host (4194304 + sideOff Side.b)) ∧ (w16.rxEn Side.b = false) ∧ (w16.txEn Side.b = false) ∧ ((w16.line Side.b).sending = none) ∧ (w16.prtMode ≠ 1) ∧ (w16.prtMode ≠ 2) ∧ (LIN_MODE_RX_EN.of (wd [(LIN_MODE_MODE, 1), (LIN_MODE_TX_EN, 1), (LIN_MODE_US_RATE, 1)]) = 0)) ∧
    /- clause 3 -/ ((Reach w16 Req.host (4194304 + sideOff Side.b)) ∧ (w16.rxEn Side.b = false) ∧ ((w16.line Side.b).sending = none) ∧ (w16.lof Side.b = true) ∧ (LIN_MODE_MODE.of (wd [(LIN_MODE_RX_EN, 1)]) = w16.f LIN_MODE_MODE (sideOff Side.b)) ∧ (LIN_MODE_US_RATE.of (wd [(LIN_MODE_RX_EN, 1)]) = w16.f LIN_MODE_US_RATE (sideOff Side.b))) ∧
    /- clause 4 -/ ((Reach w17 Req.host (4194304 + sideOff Side.b)) ∧ (w17.rxEn Side.b = true) ∧ ((w17.line Side.b).sending = none) ∧ (w17.lof Side.b = true) ∧ (w17.dsValid Side.b = false) ∧ (LIN_MODE_MODE.of (wd [(LIN_MODE_RX_EN, 0)]) = w17.f LIN_MODE_MODE (sideOff Side.b)) ∧ (LIN_MODE_US_RATE.of (wd [(LIN_MODE_RX_EN, 0)]) = w17.f LIN_MODE_US_RATE (sideOff Side.b))) ∧
    /- clause 5 -/ ((Reach w14 Req.host (4194304 + sideOff Side.b)) ∧ ((w14.line Side.b).sending = none)) ∧
    /- clause 6 -/ ((Reach w18 Req.host (4194304 + sideOff Side.b))) ∧
    /- clause 7 -/ ((w14.rxEn Side.b = true)) ∧
    /- clause 8 -/ ((w19.rxEn Side.b = true) ∧ (w19.flag LIN_DSP_STAT_ADC_CAL (sideOff Side.b) = true) ∧ (w19.flag LIN_DSP_STAT_CDR_LOCK (sideOff Side.b) = false)) ∧
    /- clause 9 -/ ((w17.flag LIN_DSP_STAT_CDR_LOCK (sideOff Side.b) = true) ∧ (w17.dsValid Side.b = false)) ∧
    /- clause 10 -/ ((w20.flag LIN_DSP_STAT_CDR_LOCK (sideOff Side.b) = true) ∧ (w20.flag LIN_DSP_CFG_ADAPT (sideOff Side.b) = true) ∧ (w21.flag LIN_DSP_STAT_CDR_LOCK (sideOff Side.b) = true) ∧ (w21.flag LIN_DSP_CFG_ADAPT (sideOff Side.b) = true) ∧ (w22 = [])) ∧
    /- clause 11 -/ ((w23.flag LIN_DSP_STAT_CDR_LOCK (sideOff Side.b) = true) ∧ (w23.flag LIN_DSP_CFG_ADAPT (sideOff Side.b) = true) ∧ (0 < w23.tapCount Side.b) ∧ (w24 = w23.tapFine Side.b 0 + (w25.getD 0 0).sign * ↑(2 ^ (15 - max 8 (w23.f LIN_DSP_CFG_MU (sideOff Side.b)))))) ∧
    /- clause 12 -/ (w17.rxEn Side.b = true) ∧ (w17.flag LIN_DSP_STAT_CDR_LOCK (sideOff Side.b) = true) ∧ (w17.dsValid Side.b = false ∨ w17.f LIN_DSP_CFG_SD_THR (sideOff Side.b) ≤ 5000) := by
  refine ⟨?_, ?_, ?_, ?_, ?_, ?_, ?rest⟩
  case rest => refine ⟨?_, ?_, ?_, ?_, ?_, ?_, ?_⟩ <;> decide +kernel
  all_goals decide +kernel

theorem test_met_LinePhysical :
    /- clause 0 -/ ((w26.flag LIN_DSP_STAT_CDR_LOCK (sideOff Side.b) = true) ∧ (1 ≤ w26.f LIN_LDPC_CFG_MAX_ITER (sideOff Side.b)) ∧ (w26.f LIN_LDPC_CFG_MAX_ITER (sideOff Side.b) ≤ 8)) ∧
    /- clause 1 -/ (((w27.line Side.b).sending = none)) ∧
    /- clause 2 -/ (((w28.line Side.b).sending.isSome = true) ∧ (w28.txf Side.b = false)) ∧
    /- clause 3 -/ ((w29.length = 7) ∧ (3 < 7)) ∧
    /- clause 4 -/ ((Reach w30 Req.host (4194436 + sideOff Side.b)) ∧ (w30.f LIN_PEQ_CTRL_OWNER (sideOff Side.b) = reqCode Req.host) ∧ (LIN_PEQ_CTRL_LOAD.of (wd [(LIN_PEQ_CTRL_LOAD, 1), (LIN_PEQ_CTRL_SET_ID, 9), (LIN_PEQ_CTRL_OWNER, 3)]) = 1)) ∧
    /- clause 5 -/ ((Reach w31 (Req.team 2) (4194436 + sideOff Side.b)) ∧ (w31.f LIN_PEQ_CTRL_OWNER (sideOff Side.b) ≠ reqCode (Req.team 2)) ∧ (LIN_PEQ_CTRL_LOAD.of (wd [(LIN_PEQ_CTRL_LOAD, 1), (LIN_PEQ_CTRL_SET_ID, 9)]) = 1)) ∧
    /- clause 6 -/ (((w32.line Side.b).peq = some w33) ∧ (w32.peqNext Side.b = some w34) ∧ ((w32.line Side.b).sending = none) ∧ (∀ c ∈ (w32.line Side.b).store, w34.t0 ≤ c.t0)) ∧
    /- clause 7 -/ (((w35.line Side.b).peq = some w33) ∧ (w35.peqNext Side.b = some w36) ∧ ((w35.line Side.b).sending.isSome = true ∨ ∃ c ∈ (w35.line Side.b).store, c.t0 < w36.t0)) ∧
    /- clause 8 -/ (((w37.line Side.b).peq = none) ∧ (w37.peqNext Side.b = some w36)) ∧
    /- clause 9 -/ ((w38.peqNext Side.b = none)) ∧
    /- clause 10 -/ ((Reach w39 Req.host (2098180 + 64 * sideNo Side.b + 8 * ↑w40))) ∧
    /- clause 11 -/ ((Reach w41 Req.host (4194516 + sideOff Side.b)) ∧ (w41.f LIN_I2C_CFG_OWNER (sideOff Side.b) = reqCode Req.host) ∧ (LIN_I2C_CMD_GO.of (wd [(LIN_I2C_CMD_GO, 1)]) = 1) ∧ (w41.flag LIN_I2C_STAT_BUSY (sideOff Side.b) = true) ∧ (Reach w42 Req.host (4194516 + sideOff Side.b)) ∧ (w42.f LIN_I2C_CFG_OWNER (sideOff Side.b) = reqCode Req.host) ∧ (LIN_I2C_CMD_GO.of (wd [(LIN_I2C_CMD_GO, 1), (LIN_I2C_CMD_LEN, 5)]) = 1) ∧ (w42.flag LIN_I2C_STAT_BUSY (sideOff Side.b) = false) ∧ (LIN_I2C_CMD_BUS.of (wd [(LIN_I2C_CMD_GO, 1), (LIN_I2C_CMD_LEN, 5)]) = 0 ∨ w42.flag LIN_I2C_CFG_BUS1_EN (sideOff Side.b) = true) ∧ (LIN_I2C_CMD_GO.of (wd [(LIN_I2C_CMD_GO, 1), (LIN_I2C_CMD_BUS, 1)]) = 1) ∧ (LIN_I2C_CMD_BUS.of (wd [(LIN_I2C_CMD_GO, 1), (LIN_I2C_CMD_BUS, 1)]) = 1) ∧ (w42.flag LIN_I2C_CFG_BUS1_EN (sideOff Side.b) = false)) ∧
    /- clause 12 -/ ((w43.flag LIN_I2C_STAT_BUSY (sideOff Side.b) = true) ∧ (↑w44 = 0) ∧ (w43.flag LIN_I2C_CMD_READ (sideOff Side.b) = true)) ∧
    /- clause 13 -/ ((Reach w45 Req.host (4194512 + sideOff Side.b)) ∧ (LIN_I2C_CFG_BUS1_EN.of (wd [(LIN_I2C_CFG_BUS1_EN, 1)]) = 1) ∧ (w45.flag LIN_I2C_CFG_BUS1_EN (sideOff Side.b) = false) ∧ (w45.resFree (State.gpRes Side.b) = true) ∧ (Reach w46 Req.host (4194512 + sideOff Side.b)) ∧ (w46.flag LIN_I2C_CFG_BUS1_EN (sideOff Side.b) = false) ∧ (w46.resFree (State.gpRes Side.b) = false)) ∧
    /- clause 14 -/ (Reach w47 Req.host (4194512 + sideOff Side.b)) ∧ (LIN_I2C_CFG_BUS1_EN.of 0 = 0) ∧ (w47.flag LIN_I2C_CFG_BUS1_EN (sideOff Side.b) = true) := by
  refine ⟨?_, ?_, ?_, ?_, ?_, ?_, ?rest⟩
  case rest => refine ⟨?_, ?_, ?_, ?_, ?_, ?_, ?_, ?_, ?_⟩ <;> decide +kernel
  all_goals decide +kernel

end K2

namespace K7

def O := 0x200000
def rl := fs all [(LIN_MODE_RX_EN,O,1),(LIN_MODE_TX_EN,O,1),(LIN_DSP_STAT_ADC_CAL,O,1),(LIN_DSP_STAT_CONV,O,1),(LIN_DSP_STAT_CDR_LOCK,O,1),(LIN_DSP_STAT_SD,O,1)]
def sy := ln (fs rl [(DSF_STAT_STATE,O,2),(DSF_STAT_DS_VALID,O,1),(DSF_STAT_LOF,O,0),(DSF_STAT_LOS,O,0)]) .b fun l => {l with sfcPred := 100, curOk := true, payEnd := 5000}
def en := fs all [(HAR_CFG_EN,0,1),(HAR_STAT_RXCK_OK,0,1),(HAR_STAT_QUAR,0,0)]
def hb := en.modHar fun h => {h with boundary := 1000, copies := List.replicate 8 {tick := 5, rows := [(4,[1])]}, dsA := [{tick := 20, bytes := [1,2]}]}
def hw := (fs sy [(HAR_CFG_EN,0,1),(CKT_CFG_REF,0,1)]).modHar fun h => {h with wantAlign := true, laterAlign := true}
def pg := (fs (rs sy [(0x910000,7),(0x913AFC,9),(0x930000,17),(0x933AFC,19)]) [(CKT_CFG_REF,0,1),(CKT_STAT_PEND_DS,0,1),(CKT_STAT_PEND_US,0,0),(DSF_STAT_MF_ALIGN,O,1),(DSF_STAT_MFI,O,0)]).modHar fun h => {h with reqDs := 5}
def rt := fs (en.modHar fun h => {h with retrain := [(2,5)]}) [(HAR_LANE_FAILS,8,1)]
def oh0 : Nat := 7 * 2^46 + 2^38
def oh1 : Nat := oh0 + ohCrc oh0
def rowp : List Nat := oh1 :: (List.range 59).map fun k => k * 1000003
def rowb (pol : Bool) (st : Nat) (bad : Nat) : List (BitVec 66) := (selfScrambled st rowp).1.zipIdx.map fun p =>
  let b : BitVec 66 := BitVec.ofNat 66 ((if p.2 < bad then 3 else if p.2 = 0 then 2 else 1) * 2 ^ 64 + p.1)
  if pol then ~~~ b else b
def rw := (fs en [(HAR_STAT_LANE_LOCK,0,0xFF),(HAR_STAT_BLK_LOCK,0,0xFF),(HAR_LANE_LANE,4*3,6),(HAR_CFG_RX_POL,0,8)]).modHar (fun h => {h with rowNext := [(3,8)], desc := [(3,12345)]})
def w1 : State := { all with tick := 1000, blockResets := [(2*256+5, 999)] }
def w2 : Fin 9 := 2
def w3 : State := fs (all.xPush 3 {data := [1,2,3]}) [(XNG_STAT_REFUSING,0x20*3,0)]
def w4 : Fin 30 := 3
def w5 : State := fs all [(HAR_CFG_EN,0,0)]
def w6 : State := hb
def w7 : State := hb.modHar (fun h => {h with rxDone := [{tick := 4, rows := [(7,[2])]}]})
def w8 : UsCopy := {tick := 4, rows := [(7,[2])]}
def w9 : State := (fs hb [(CKT_STAT_PEND_US,0,1)]).modHar (fun h => {h with forceUs := true, boundary := 0})
def w10 : State := (fs hb [(CKT_STAT_PEND_DS,0,1)]).modHar (fun h => {h with forceDs := true})
def w11 : State := hw
def w12 : State := fs all [(CKT_STAT_PEND_DS,0,0),(CKT_STAT_PEND_US,0,1)]
def w13 : State := fs all [(CKT_STAT_PEND_DS,0,1),(CKT_STAT_PEND_US,0,0)]
def w14 : State := {all with grade := .fbx}
def w15 : Fin 3776 := 3775
def w16 : State := ln pg .b (fun l => {l with curTick := 1560})
def w17 : State := fs all [(GLB_RES_OWNER_FEATURE,4*14,0),(HAR_CFG_EN,0,0)]
def w18 : State := fs en [(HAR_STAT_RXCK_OK,0,0)]
def w19 : State := (fs en [(HAR_STAT_RXCK_OK,0,0)]).modHar fun h => {h with rxLost := true}
def w20 : State := en
def w21 : Fin 8 := 7
def w22 : State := fs en [(HAR_STAT_BLK_LOCK,0,4),(HAR_STAT_LANE_LOCK,0,1),(HAR_LANE_LANE,0,2)]
def w23 : Fin 8 := 2
def w24 : Fin 256 := 64
def w25 : Fin 8 := 5
def w26 : State := fs en [(HAR_STAT_LANE_LOCK,0,0x4),(HAR_STAT_LINK_UP,0,1),(HAR_STAT_RX_ALIGNED,0,1)]
def w27 : State := fs en [(HAR_STAT_LANE_LOCK,0,0x4),(HAR_STAT_BLK_LOCK,0,4),(HAR_EYE_CFG_BUSY,0,1),(HAR_LANE_LANE,8,0)]
def w28 : Fin 8 := 2
def w29 : State := rt
def w30 : State := fs rt [(HAR_LANE_FAILS,8,2)]
def w31 : State := rt
def w32 : State := (fs en [(HAR_STAT_LANE_LOCK,0,0xF7),(HAR_LANE_LANE,4,6)]).modHar (fun h => {h with rx := {rows := [(14,[1]),(2,[3])]}})
def w33 : Fin 8 := 1
def w34 : State := fs all [(HAR_EYE_CFG_BUSY,0,1),(HAR_EYE_CFG_LANE,0,5)]
def w35 : List Nat := [1,70000,3]
def w36 : State := fs en [(HAR_EYE_CFG_BUSY,0,0)]
def w37 : List Nat := [1, 0xFFFFFFFFFFFFFFFF, 0x8000000000000000, 77]
def w38 : State := fs rw [(HAR_STAT_BLK_LOCK,0,0)]
def w39 : Fin 8 := 3
def w40 : List (BitVec 66) := rowb true 12345 0
def w41 : List Nat := rowp.tail
def w42 : State := rw
def w43 : List (BitVec 66) := rowb true 12345 15
def w44 : List (BitVec 66) := rowb true 12345 16

theorem test_met_FaultLevels_t7 :
    /- clause 0 -/ ((7 < 512) ∧ (7 ≠ 5)) ∧
    /- clause 1 -/ ((7 < 512) ∧ (7 ≠ 5) ∧ (5 < 256)) ∧
    /- clause 2 -/ (5 < 256) ∧ (sget (fun x => 0) w1.blockResets (↑w2 * 256 + 5) ≠ 0) ∧ (w1.tick + 1 < sget (fun x => 0) w1.blockResets (↑w2 * 256 + 5) + ticksPerS) := by
  refine ⟨?_, ?_, ?_⟩ <;> decide +kernel

theorem test_met_GaitAndCrossings_t7 :
    /- clause 4 -/ (w3.flag XNG_STAT_REFUSING (32 * ↑w4) = false) := by decide +kernel

theorem test_met_Circuits :
    /- clause 0 -/ ((w5.harEn = false)) ∧
    /- clause 1 -/ ((w6.harEn = true) ∧ (w6.regionUp 4 = true) ∧ (w6.har.forceDs = false) ∧ (w6.har.forceUs = false) ∧ (w6.har.boundary = 1000) ∧ (1000 ≠ 0) ∧ (w6.har.rxDone = []) ∧ (w7.harEn = true) ∧ (w7.regionUp 4 = true) ∧ (w7.har.forceDs = false) ∧ (w7.har.forceUs = false) ∧ (w7.har.boundary = 1000) ∧ (w7.har.rxDone = [w8])) ∧
    /- clause 2 -/ ((w9.harEn = true) ∧ (w9.regionUp 4 = true) ∧ (w9.har.alignAt = 0) ∧ (w10.harEn = true) ∧ (w10.regionUp 4 = true) ∧ (w10.har.forceDs = true) ∧ (w9.har.forceUs = true)) ∧
    /- clause 3 -/ ((w11.har.wantAlign = true) ∧ (w11.harEn = true) ∧ (w11.dsValid w11.harRef = true)) ∧
    /- clause 4 -/ ((Reach w12 (Req.team 3) 9437188) ∧ (w12.grade ≠ Grade.fbx) ∧ (w12.flag CKT_STAT_PEND_DS = false) ∧ (Reach w13 (Req.team 3) 9437188) ∧ (w13.grade ≠ Grade.fbx) ∧ (w13.flag CKT_STAT_PEND_US = false) ∧ (w13.flag CKT_STAT_PEND_DS = true) ∧ (w12.flag CKT_STAT_PEND_US = true)) ∧
    /- clause 5 -/ ((Reach w14 (Req.team 3) 9437188) ∧ (w14.grade = Grade.fbx)) ∧
    /- clause 6 -/ (Reach w12 (Req.team 3) ((if true = true then 9568256 else 9502720) + 4 * ↑w15)) ∧ (w12.grade ≠ Grade.fbx) ∧ (w12.flag (if true = true then CKT_STAT_PEND_US else CKT_STAT_PEND_DS) = true) ∧ (Reach w12 (Req.team 3) ((if false = true then 9568256 else 9502720) + 4 * ↑w15)) ∧ (w12.flag (if false = true then CKT_STAT_PEND_US else CKT_STAT_PEND_DS) = false) := by
  refine ⟨?_, ?_, ?_, ?_, ?_, ?_, ?_⟩ <;> decide +kernel

theorem test_met_PageExchange :
    /- clause 0 -/ (w16.memOk = true) ∧ (∀ e ∈ w16.regs, 9502720 ≤ e.1 → e.1 < 9764864 → e.1 % 4 = 0) ∧ (w16.mfAlign w16.harRef = true) ∧ (w16.f DSF_STAT_MFI (sideOff w16.harRef) = 0) ∧ (w16.flag CKT_STAT_PEND_DS = true) ∧ (w16.har.forceDs = false) ∧ (w16.flag CKT_STAT_PEND_US = false) ∧ (w16.har.reqDs * 10 + 15552 ≤ ((w16.line w16.harRef).curTick + 1) * 10) := by decide +kernel

theorem test_met_HarnessLink :
    /- clause 2 -/ ((Reach w17 (Req.team 4) 9961472) ∧ (w17.grade ≠ Grade.fbx) ∧ (w17.harEn = false) ∧ (w17.resFree 14 = true)) ∧
    /- clause 3 -/ ((Reach w14 (Req.team 4) 9961472) ∧ (w14.grade = Grade.fbx)) ∧
    /- clause 4 -/ ((w18.harEn = true) ∧ (w18.flag HAR_STAT_RXCK_OK = false) ∧ (w18.har.rxLost = false) ∧ (w19.harEn = true) ∧ (w19.flag HAR_STAT_RXCK_OK = false) ∧ (w19.har.rxLost = true)) ∧
    /- clause 5 -/ ((w20.harEn = true) ∧ (w20.flag HAR_STAT_RXCK_OK = true) ∧ (w20.laneBit HAR_STAT_QUAR ↑w21 = false)) ∧
    /- clause 7 -/ ((w22.harEn = true) ∧ (w22.laneBit HAR_STAT_BLK_LOCK ↑w23 = true) ∧ (w22.laneBit HAR_STAT_QUAR ↑w23 = false) ∧ (w22.laneBit HAR_STAT_LANE_LOCK ↑w23 = false) ∧ (↑w24 ≤ 64) ∧ (∀ m < 8, w22.laneBit HAR_STAT_LANE_LOCK m = true → w22.laneOf m ≠ ↑w25)) ∧
    /- clause 8 -/ ((w26.laneBit (if true = true then HAR_STAT_LANE_LOCK else HAR_STAT_BLK_LOCK) ↑w23 = true) ∧ (w26.flag HAR_EYE_CFG_BUSY = false) ∧ (w27.laneBit (if false = true then HAR_STAT_LANE_LOCK else HAR_STAT_BLK_LOCK) ↑w23 = true) ∧ (false = false) ∧ (w27.flag HAR_EYE_CFG_BUSY = true) ∧ (w27.laneBit HAR_STAT_LANE_LOCK ↑w23 = true) ∧ (w27.laneOf ↑w23 = w27.har.eyeLane)) ∧
    /- clause 9 -/ ((sget (fun x => 0) w20.har.retrain ↑w28 = 0) ∧ (sget (fun x => 0) w29.har.retrain ↑w28 ≠ 0) ∧ (w29.f HAR_LANE_FAILS (4 * ↑w28) < 2) ∧ (sget (fun x => 0) w30.har.retrain ↑w28 ≠ 0) ∧ (w30.f HAR_LANE_FAILS (4 * ↑w28) = 2) ∧ (w30.f HAR_STAT_QUAR = 0)) ∧
    /- clause 10 -/ ((Reach w29 Req.host 9961476) ∧ (w29.grade ≠ Grade.fbx) ∧ (w29.harEn = true)) ∧
    /- clause 11 -/ ((w31.flag HAR_STAT_RXCK_OK = true)) ∧
    /- clause 12 -/ ((w32.laneBit HAR_STAT_LANE_LOCK ↑w33 = true)) ∧
    /- clause 14 -/ ((w34.flag HAR_EYE_CFG_BUSY = true) ∧ (w35.length ≤ 4096)) ∧
    /- clause 13 -/ ((Reach w36 Req.host 9961536) ∧ (w36.grade ≠ Grade.fbx) ∧ (w36.flag HAR_EYE_CFG_BUSY = false)) ∧
    /- clause 0 -/ ((5124095576030430 < 2 ^ 58) ∧ (∀ d ∈ w37, d < 2 ^ 64)) ∧
    /- clause 15 -/ (w38.rowPayloads (↑w39) w40 = (oh1 :: w41, (w38.rowPayloads (↑w39) w40).2)) ∧ (w38.laneBit HAR_STAT_BLK_LOCK ↑w39 = false) ∧ (w42.rowPayloads (↑w39) w43 = (oh1 :: w41, (w42.rowPayloads (↑w39) w43).2)) ∧ (w42.laneBit HAR_STAT_BLK_LOCK ↑w39 = true) ∧ (w42.laneBit HAR_STAT_LANE_LOCK ↑w39 = true) ∧ ((headersJoin (sget (fun x => 0) w42.har.hdrs ↑w39) (w42.rowHeaders (↑w39) w43)).2 = false) ∧ (ohCrc oh1 = oh1 % 256) ∧ (sget (fun x => 0) w42.har.rowNext ↑w39 = ohRow oh1 + 1) ∧ (0 < ohRow oh1) ∧ (ohRow oh1 < 809) ∧ (w42.rowPayloads (↑w39) w44 = (oh1 :: w41, (w42.rowPayloads (↑w39) w44).2)) ∧ ((headersJoin (sget (fun x => 0) w42.har.hdrs ↑w39) (w42.rowHeaders (↑w39) w44)).2 = true) := by
  refine ⟨?_, ?_, ?_, ?_, ?_, ?_, ?rest⟩
  case rest => refine ⟨?_, ?_, ?_, ?_, ?_, ?_, ?_, ?_⟩ <;> decide +kernel
  all_goals decide +kernel

end K7

namespace K3

def O := 0x200000
def rl := fs all [(LIN_MODE_RX_EN,O,1),(LIN_MODE_TX_EN,O,1),(LIN_DSP_STAT_ADC_CAL,O,1),(LIN_DSP_STAT_CONV,O,1),(LIN_DSP_STAT_CDR_LOCK,O,1),(LIN_DSP_STAT_SD,O,1)]
def sy := ln (fs rl [(DSF_STAT_STATE,O,2),(DSF_STAT_DS_VALID,O,1),(DSF_STAT_LOF,O,0),(DSF_STAT_LOS,O,0)]) .b fun l => {l with sfcPred := 100, curOk := true, payEnd := 5000}
def mk16 (bs : List Byte) : List Byte := bs ++ beBytes 2 (crc16 bs)
def ctl (d : Nat) : List Byte := beBytes 8 (hw d)
def bd (n : Nat) (bs : List Byte) : List Byte := scramble (scrPreset n) bs
def body0 (n : Nat) : List Byte := bd n (ctl (2^48*3 + 5) ++ ctl 77 ++ List.replicate 60 9)
def dx := fs sy [(LIN_MODE_MODE,O,1)]
def hu := fs rl [(DSF_STAT_STATE,O,0),(LIN_MODE_MODE,O,1)]
def ca : Cand := {pos := 7, sfc := 9, hecOk := true}
def hc := {(ln (fs hu [(DSF_STAT_STATE,O,1)]) .b (fun l => {l with cands := [{},ca]})) with tick := 97200 + 7 / 256}
def ie (bs : List Byte) (s : State) := ln s .b fun l => {l with info := bs, encPos := 40, payEnd := 5000, delinLost := false}
def hz (pli port : Nat) (last exp : Nat) (seq : Nat) : List Byte := (mk16 (beBytes 10 ((pli * 2 ^ 60 + last * 2 ^ 57 + exp * 2 ^ 56 + seq * 2 ^ 32 + port * 2 ^ 76) / 2 ^ 16)))
def hd (pli port last exp seq : Nat) : Nat := beNat (crc16Check (hz pli port last exp seq)).2
def px (pli port last exp seq : Nat) : State := ie (List.replicate 24 0 ++ hz pli port last exp seq ++ (List.range 400).map fun i => BitVec.ofNat 8 (i * 5 + 1)) (fs dx [(DSF_PID_VALID,O+4*9,1),(DSF_PID_PORT_ID,O+4*9,5),(SEC_DKEY_VALID,State.dkey .b 9,0),(SEC_DKEY_CLEAR_OK,State.dkey .b 9,1)])
def sp (pli : Nat) : Nat := 52 + 4 * ceilDiv pli 4
def er (s : State) : State := fs s [(SEC_DKEY_CLEAR_OK,State.dkey .b 9,0)]
def kof (s : State) (h : Nat) : Nat := match encapText s .b h 9 with | .error k => k | .ok _ => 999
def pof (s : State) (h : Nat) : List Byte := match encapText s .b h 9 with | .error _ => [] | .ok p => p
def mg : List Byte := [0xff,0xff,1,2,3] ++ List.replicate 59 4
def im (bs : List Byte) (s : State) := ln s .b fun l => {l with info := bs, msgStart := 40, msgAt := 1, msgN := 2}
def los0 := fs rl [(LIN_DSP_STAT_SD,O,0),(UPB_ACT_STATE,O,3),(DSF_HOLD_HOLD,O,5)]
def hs (n : Nat) := ln (fs rl [(UPB_ACT_STATE,O,4),(UPB_ACT_RETURN,O,n),(DSF_TID_VALID,O,1)]) .b fun l => {l with holdStart := 4, eqdEff := 4}
def od2 := ln (fs rl [(DSF_ODC_CFG_ODC2_IN_EN,O,1),(LIN_MODE_MODE,O,1)]) .b (fun l => {l with odcIn2 := [[1],[2]]})
def w1 : State := rl
def w2 : State := ln dx .b (fun l => {l with sfcPred := 2^51-1})
def w3 : DsFrame := {sfc := sf (2^51-1), body := body0 (2^51-1)}
def w4 : State := dx
def w5 : DsFrame := {sfc := sf 5, body := body0 100}
def w6 : State := ln dx .b (fun l => {l with sfcFail := 1})
def w7 : DsFrame := {psync := 0, sfc := sf 5}
def w8 : State := ln sy .b (fun l => {l with psyncMiss := 1})
def w9 : DsFrame := {gPsyncErr := 60}
def w10 : State := all
def w11 : State := hu
def w12 : DsFrame := {sfc := sf 9}
def w13 : State := fs hu [(LIN_DSP_STAT_SD,O,0)]
def w14 : State := hc
def w15 : Cand := ca
def w16 : DsFrame := {sfc := sf 10, body := body0 10}
def w17 : State := ln hc .b (fun l => {l with cands := [ca]})
def w18 : DsFrame := {psync := 0}
def w19 : DsFrame := {sfc := sf 11, body := body0 10}
def w20 : State := ln (ie [] dx) .b (fun l => {l with payEnd := 45})
def w21 : State := ln (px 90 5 1 0 7) .b (fun l => {l with payEnd := 100, reasm := [(5,{live := true}),(6,{bad := true})]})
def w22 : Hec := .bad
def w23 : Hec := .ok
def w24 : State := px 90 0xFFFFF 1 0 7
def w25 : State := ln (px 90 5 0 0 7) .b (fun l => {l with marks := [0]})
def w26 : State := ln (er (px 90 5 0 1 7)) .b (fun l => {l with reasm := [(5,{live := true, data := [1]})]})
def w27 : State := ln (px 90 5 1 0 7) .b (fun l => {l with reasm := [(5,{live := true, data := [1,2]})]})
def w28 : List Byte := pof (px 90 5 1 0 7) (hd 90 5 1 0 7)
def w29 : State := ln (px 90 5 0 0 7) .b (fun l => {l with reasm := [(5,{live := true, data := [1,2]}),(8,{live := true})]})
def w30 : List Byte := pof (px 90 5 0 0 7) (hd 90 5 0 0 7)
def w31 : State := ln (px 90 5 0 0 7) .b (fun l => {l with reasm := [(5,{live := true, data := List.replicate 16300 1})]})
def w32 : State := ln (px 90 5 1 0 7) .b (fun l => {l with reasm := [(5,{bad := true})]})
def w33 : State := fs (im (List.replicate 88 0 ++ mg) dx) [(XNG_STAT_OCC,0x40,0)]
def w34 : State := fs (ln (im (List.replicate 88 0 ++ mg) dx) .b fun l => {l with marks := [0]}) [(XNG_STAT_OCC,0x40,0)]
def w35 : State := im (List.replicate 88 0 ++ List.replicate 64 1) dx
def w36 : State := fs (im (List.replicate 88 0 ++ mg) dx) [(XNG_STAT_REFUSING,0x40,1)]
def w37 : State := fs los0 [(DSF_STAT_LOF,O,0),(DSF_STAT_DS_VALID,O,0)]
def w38 : State := fs rl [(DSF_STAT_LOS,O,1),(DSF_STAT_LOF,O,1),(UPB_ACT_STATE,O,4)]
def w39 : State := hs 5
def w40 : State := hs 0
def w41 : State := fs (hs 3) [(DSF_STAT_LOF,O,1)]
def w42 : State := {(fs rl [(DSF_PM_SEQ_SEQ,O,0xFFFFFFFF)]) with tm := {secB := true}, counters := [(dsCnt .b 3, 2^40+5)]}
def w43 : State := fs rl [(DSF_ODC_CFG_ODC1_IN_EN,O,1),(LIN_MODE_MODE,O,1)]
def w44 : State := ln (fs rl [(DSF_ODC_CFG_ODC1_IN_EN,O,1),(LIN_MODE_MODE,O,1)]) .b (fun l => {l with odcIn1 := [[1],[2]]})
def w45 : State := fs rl [(DSF_ODC_CFG_ODC2_IN_EN,O,1),(LIN_MODE_MODE,O,1)]
def w46 : State := od2
def w47 : State := fs rl [(GLB_RES_OWNER_FEATURE,4*13,0)]
def w48 : State := fs rl [(GLB_RES_OWNER_FEATURE,4*13,3)]
def w49 : State := fs rl [(DSF_ODC_CFG_ODC2_IN_EN,O,1),(GLB_RES_OWNER_FEATURE,4*13,9)]
def w50 : State := fs rl [(DSF_ODC_CFG_ODC1_IN_EN,O,1),(LIN_MODE_MODE,O,0)]

theorem test_met_DownstreamFrames :
    /- clause 1 -/ ((w1.inSync Side.b = false)) ∧
    /- clause 2 -/ (((hecFix w3.sfc).isSome = true) ∧
    (dsCount w3 = (w2.line Side.b).sfcPred) ∧
    (w2.inSync Side.b = true) ∧ (dsPsyncErr w3 (w2.drixis Side.b) ≤ w2.psyncTol Side.b)) ∧
    /- clause 3 -/ ((hecFix w5.sfc = none ∨ dsCount w5 ≠ (w4.line Side.b).sfcPred) ∧
    (hecFix w5.sfc = none ∨ dsCount w5 ≠ (w6.line Side.b).sfcPred) ∧
    (w4.inSync Side.b = true) ∧ (dsPsyncErr w5 (w4.drixis Side.b) ≤ w4.psyncTol Side.b) ∧ ((w4.line Side.b).sfcFail = 0) ∧ (w6.inSync Side.b = true) ∧ (dsPsyncErr w5 (w6.drixis Side.b) ≤ w6.psyncTol Side.b) ∧ (1 ≤ (w6.line Side.b).sfcFail)) ∧
    /- clause 4 -/ ((w2.inSync Side.b = true) ∧ (w2.psyncTol Side.b < dsPsyncErr w7 (w2.drixis Side.b)) ∧ ((w2.line Side.b).psyncMiss = 0) ∧ (w8.inSync Side.b = true) ∧ (w8.psyncTol Side.b < dsPsyncErr w9 (w8.drixis Side.b)) ∧ (1 ≤ (w8.line Side.b).psyncMiss)) ∧
    /- clause 5 -/ ((w10.inSync Side.b = true ∨ w10.rxEn Side.b = false)) ∧
    /- clause 6 -/ ((w11.inSync Side.b = false) ∧ (w11.rxEn Side.b = true) ∧ (w11.candAt Side.b 77 = none) ∧ (w11.sd Side.b = true) ∧ (dsPsyncErr w12 (w11.drixis Side.b) ≤ w11.psyncTol Side.b) ∧ ((w11.line Side.b).cands.length < 4) ∧ (w13.inSync Side.b = false) ∧ (w13.rxEn Side.b = true) ∧ (w13.candAt Side.b 77 = none) ∧ (w13.sd Side.b = false ∨ w13.psyncTol Side.b < dsPsyncErr w12 (w13.drixis Side.b) ∨ 4 ≤ (w13.line Side.b).cands.length)) ∧
    /- clause 7 -/ ((hecFix w16.sfc).isSome = true) ∧
    (dsCount w16 = (w15.sfc + 1) % 2 ^ 51) ∧
    (w17.psyncTol Side.b < dsPsyncErr w18 (w17.drixis Side.b) ∨ w17.sd Side.b = false ∧ (w15.hecOk = false ∨ hecFix w18.sfc = none ∨ dsCount w18 ≠ (w15.sfc + 1) % 2 ^ 51)) ∧
    (w15.hecOk = false ∨ hecFix w19.sfc = none ∨ dsCount w19 ≠ (w15.sfc + 1) % 2 ^ 51) ∧
    (w14.inSync Side.b = false) ∧ (w14.rxEn Side.b = true) ∧ (w14.candAt Side.b (7 + frameBits true) = some w15) ∧ (dsPsyncErr w16 (w14.drixis Side.b) ≤ w14.psyncTol Side.b) ∧ (w15.hecOk = true) ∧ (w17.inSync Side.b = false) ∧ (w17.rxEn Side.b = true) ∧ (w17.candAt Side.b (7 + frameBits true) = some w15) ∧ (dsPsyncErr w19 (w14.drixis Side.b) ≤ w14.psyncTol Side.b) ∧ (w14.sd Side.b = true) ∧ ((w14.line Side.b).cands.length ≤ 4) := ⟨by decide +kernel,
   ⟨isSome_of (fix_of (n := (2^51-1)) rfl (by decide)), (count_of (n := (2^51-1)) rfl (by decide)).trans (by decide +kernel), by decide +kernel⟩,
   ⟨.inr <| count_ne (count_of (n := 5) rfl (by decide)) (by decide +kernel), .inr <| count_ne (count_of (n := 5) rfl (by decide)) (by decide +kernel), by decide +kernel⟩,
   by decide +kernel,
   by decide +kernel,
   by decide +kernel,
   isSome_of (fix_of (n := 10) rfl (by decide)),
   (count_of (n := 10) rfl (by decide)).trans (by decide +kernel),
   .inl (by decide +kernel),
   .inr <| .inr <| count_ne (count_of (n := 11) rfl (by decide)) (by decide +kernel),
   by decide +kernel⟩

theorem test_met_FramesAndMessages :
    /- clause 0 -/ ((w20.frameUsable Side.b = false ∨ (w20.line Side.b).delinLost = true ∨ (w20.line Side.b).payEnd < (w20.line Side.b).encPos + if w20.drixis Side.b = true then 12 else Config.gHeaderBytes)) ∧
    /- clause 1 -/ ((EncapAt w21 Side.b w22 w23 (hd 90 5 1 0 7) (sp 90)) ∧
    (w23 = Hec.bad ∨ (w21.line Side.b).payEnd < sp 90)) ∧
    /- clause 2 -/ ((EncapAt w24 Side.b w22 w23 (hd 90 1048575 1 0 7) (sp 90)) ∧
    (w23 ≠ Hec.bad) ∧ (sp 90 ≤ (w24.line Side.b).payEnd) ∧ (w24.drixis Side.b = true ∧ bitsOf (hd 90 1048575 1 0 7) 76 20 = 1048575 ∨ w24.pidMatches Side.b (bitsOf (hd 90 1048575 1 0 7) 76 20) = [])) ∧
    /- clause 3 -/ ((EncapTaken w25 Side.b w22 w23 (hd 90 5 0 0 7) (sp 90) 9) ∧
    (w25.lineMarked Side.b (w25.line Side.b).encPos (sp 90 - (w25.line Side.b).encPos) = true)) ∧
    /- clause 4 -/ ((EncapTaken w26 Side.b w22 w23 (hd 90 5 0 1 7) (sp 90) 9) ∧
    (encapText w26 Side.b (hd 90 5 0 1 7) 9 = Except.error (kof (er (px 90 5 0 1 7)) (hd 90 5 0 1 7))) ∧
    (w26.lineMarked Side.b (w26.line Side.b).encPos (sp 90 - (w26.line Side.b).encPos) = false)) ∧
    /- clause 5 -/ ((EncapTaken w27 Side.b w22 w23 (hd 90 5 1 0 7) (sp 90) 9) ∧
    (encapText w27 Side.b (hd 90 5 1 0 7) 9 = Except.ok w28) ∧
    (EncapTaken w29 Side.b w22 w23 (hd 90 5 0 0 7) (sp 90) 9) ∧
    (encapText w29 Side.b (hd 90 5 0 0 7) 9 = Except.ok w30) ∧
    (EncapTaken w31 Side.b w22 w23 (hd 90 5 0 0 7) (sp 90) 9) ∧
    (encapText w31 Side.b (hd 90 5 0 0 7) 9 = Except.ok w30) ∧
    (EncapTaken w32 Side.b w22 w23 (hd 90 5 1 0 7) (sp 90) 9) ∧
    (encapText w32 Side.b (hd 90 5 1 0 7) 9 = Except.ok w28) ∧
    (w27.lineMarked Side.b (w27.line Side.b).encPos (sp 90 - (w27.line Side.b).encPos) = false) ∧ ((w27.reasmOf Side.b (bitsOf (hd 90 5 1 0 7) 76 20)).bad = false) ∧ (bitOf (hd 90 5 1 0 7) 57 = true) ∧ ((w27.reasmOf Side.b (bitsOf (hd 90 5 1 0 7) 76 20)).data.length + w28.length ≤ 16384) ∧ (w29.lineMarked Side.b (w29.line Side.b).encPos (sp 90 - (w29.line Side.b).encPos) = false) ∧ ((w29.reasmOf Side.b (bitsOf (hd 90 5 0 0 7) 76 20)).bad = false) ∧ (bitOf (hd 90 5 0 0 7) 57 = false) ∧ ((w29.reasmOf Side.b (bitsOf (hd 90 5 0 0 7) 76 20)).data.length + w30.length ≤ 16384) ∧ (w31.lineMarked Side.b (w31.line Side.b).encPos (sp 90 - (w31.line Side.b).encPos) = false) ∧ ((w31.reasmOf Side.b (bitsOf (hd 90 5 0 0 7) 76 20)).bad = false) ∧ (16384 < (w31.reasmOf Side.b (bitsOf (hd 90 5 0 0 7) 76 20)).data.length + w30.length) ∧ (w32.lineMarked Side.b (w32.line Side.b).encPos (sp 90 - (w32.line Side.b).encPos) = false) ∧ ((w32.reasmOf Side.b (bitsOf (hd 90 5 1 0 7) 76 20)).bad = true)) ∧
    /- clause 6 -/ ((w33.frameUsable Side.b = true) ∧ ((w33.line Side.b).msgAt < (w33.line Side.b).msgN) ∧ (64 = if w33.drixis Side.b = true then 64 else 48) ∧ (104 = if w33.drixis Side.b = true then (w33.line Side.b).msgStart + 64 * (w33.line Side.b).msgAt else Config.gMessageAt (w33.line Side.b).info (w33.line Side.b).msgAt) ∧ ((w33.infoAt Side.b 104 64).length = 64) ∧ (w33.lineMarked Side.b 104 64 = false) ∧ (w33.msgAccepted Side.b (w33.infoAt Side.b 104 64) = true) ∧ ((if Side.b = Side.a then 0 else 2) = if Side.b = Side.a then 0 else 2) ∧ (w33.xRoom (if Side.b = Side.a then 0 else 2) false 64 = true) ∧ (w34.frameUsable Side.b = true) ∧ ((w34.line Side.b).msgAt < (w34.line Side.b).msgN) ∧ (64 = if w34.drixis Side.b = true then 64 else 48) ∧ (104 = if w34.drixis Side.b = true then (w34.line Side.b).msgStart + 64 * (w34.line Side.b).msgAt else Config.gMessageAt (w34.line Side.b).info (w34.line Side.b).msgAt) ∧ ((w34.infoAt Side.b 104 64).length = 64) ∧ (w34.lineMarked Side.b 104 64 = true) ∧ (w35.frameUsable Side.b = true) ∧ ((w35.line Side.b).msgAt < (w35.line Side.b).msgN) ∧ (64 = if w35.drixis Side.b = true then 64 else 48) ∧ (104 = if w35.drixis Side.b = true then (w35.line Side.b).msgStart + 64 * (w35.line Side.b).msgAt else Config.gMessageAt (w35.line Side.b).info (w35.line Side.b).msgAt) ∧ ((w35.infoAt Side.b 104 64).length = 64) ∧ (w35.lineMarked Side.b 104 64 = false) ∧ (w35.msgAccepted Side.b (w35.infoAt Side.b 104 64) = false) ∧ (w36.frameUsable Side.b = true) ∧ ((w36.line Side.b).msgAt < (w36.line Side.b).msgN) ∧ (64 = if w36.drixis Side.b = true then 64 else 48) ∧ (104 = if w36.drixis Side.b = true then (w36.line Side.b).msgStart + 64 * (w36.line Side.b).msgAt else Config.gMessageAt (w36.line Side.b).info (w36.line Side.b).msgAt) ∧ ((w36.infoAt Side.b 104 64).length = 64) ∧ (w36.lineMarked Side.b 104 64 = false) ∧ (w36.msgAccepted Side.b (w36.infoAt Side.b 104 64) = true) ∧ (w36.xRoom (if Side.b = Side.a then 0 else 2) false 64 = false)) ∧
    /- clause 7 -/ (w4.frameUsable Side.b = false ∨ (w4.line Side.b).msgN ≤ (w4.line Side.b).msgAt) := by
  and_intros <;> first
    | decide +kernel
    | exact encapAt_of (by decide +kernel)
    | exact encapTaken_of (by decide +kernel)
    | exact err_of (by decide +kernel)
    | exact ok_of (by decide +kernel)

theorem test_met_LineSupervision :
    /- clause 0 -/ ((w37.rxEn Side.b = true) ∧ (w37.flag LIN_DSP_STAT_ADC_CAL (sideOff Side.b) = true) ∧ (w37.sd Side.b = false) ∧ (w37.los Side.b = false) ∧ (w37.lof Side.b = false) ∧ (w37.dsValid Side.b = false) ∧ (w37.actState Side.b ≠ 4) ∧ (1 ≤ w37.f DSF_HOLD_HOLD (sideOff Side.b))) ∧
    /- clause 1 -/ ((w38.rxEn Side.b = true) ∧ (w38.flag LIN_DSP_STAT_ADC_CAL (sideOff Side.b) = true) ∧ (w38.sd Side.b = true) ∧ (w38.los Side.b = true)) ∧
    /- clause 2 -/ (((w39.line Side.b).holdStart ≠ 0) ∧ (w39.f UPB_ACT_RETURN (sideOff Side.b) = 5) ∧ ((w40.line Side.b).holdStart ≠ 0) ∧ (w40.f UPB_ACT_RETURN (sideOff Side.b) = 0) ∧ ((w41.line Side.b).holdStart ≠ 0) ∧ (w41.f UPB_ACT_RETURN (sideOff Side.b) ≠ 5) ∧ (w41.f UPB_ACT_RETURN (sideOff Side.b) ≠ 0)) ∧
    /- clause 3 -/ ((w42.secAt Side.b = true)) ∧
    /- clause 5 -/ ((w43.drixis Side.b = true) ∧ (w43.flag DSF_ODC_CFG_ODC1_IN_EN (sideOff Side.b) = true) ∧ ((w43.line Side.b).odcIn1.length < 2) ∧ (w44.drixis Side.b = true) ∧ (w44.flag DSF_ODC_CFG_ODC1_IN_EN (sideOff Side.b) = true) ∧ (2 ≤ (w44.line Side.b).odcIn1.length)) ∧
    /- clause 6 -/ ((w45.drixis Side.b = true) ∧ (w45.flag DSF_ODC_CFG_ODC2_IN_EN (sideOff Side.b) = true) ∧ ((w45.line Side.b).odcIn2.length < 2)) ∧
    /- clause 7 -/ ((w46.drixis Side.b = true) ∧ (w46.flag DSF_ODC_CFG_ODC2_IN_EN (sideOff Side.b) = true) ∧ (2 ≤ (w46.line Side.b).odcIn2.length)) ∧
    /- clause 8 -/ ((Reach w47 (Req.team 2) (4198448 + sideOff Side.b)) ∧ (DSF_ODC_CFG_ODC2_IN_EN.of (wd [(DSF_ODC_CFG_ODC2_IN_EN, 1)]) = 1) ∧ (w47.flag DSF_ODC_CFG_ODC2_IN_EN (sideOff Side.b) = false) ∧ (w47.resFree (12 + sideNo Side.b) = true) ∧ (Reach w48 Req.host (4198448 + sideOff Side.b)) ∧ (w48.flag DSF_ODC_CFG_ODC2_IN_EN (sideOff Side.b) = false) ∧ (w48.resFree (12 + sideNo Side.b) = false)) ∧
    /- clause 9 -/ ((Reach w49 Req.host (4198448 + sideOff Side.b)) ∧ (DSF_ODC_CFG_ODC2_IN_EN.of (wd [(DSF_ODC_CFG_ODC1_IN_EN, 1)]) = 0) ∧ (w49.flag DSF_ODC_CFG_ODC2_IN_EN (sideOff Side.b) = true)) ∧
    /- clause 4 -/ (w50.drixis Side.b = false) := by
  refine ⟨?_, ?_, ?_, ?_, ?_, ?_, ?rest⟩
  case rest => refine ⟨?_, ?_, ?_, ?_⟩ <;> decide +kernel
  all_goals decide +kernel

end K3

namespace K4

def O := 0x200000
def rl := fs all [(LIN_MODE_RX_EN,O,1),(LIN_MODE_TX_EN,O,1),(LIN_DSP_STAT_ADC_CAL,O,1),(LIN_DSP_STAT_CONV,O,1),(LIN_DSP_STAT_CDR_LOCK,O,1),(LIN_DSP_STAT_SD,O,1)]
def sy := ln (fs rl [(DSF_STAT_STATE,O,2),(DSF_STAT_DS_VALID,O,1),(DSF_STAT_LOF,O,0),(DSF_STAT_LOS,O,0)]) .b fun l => {l with sfcPred := 100, curOk := true, payEnd := 5000}
def dx := fs sy [(LIN_MODE_MODE,O,1)]
def e1 : Nat := 24197145284128486208412699633186251340
def e2 : Nat := 9922540143985580637148964734579557297
def us := fs dx [(UPB_ACT_STATE,O,3),(UPB_TID_TID,O,0x777),(UPB_ALLOC_VALID,O+4*300,1),(UPB_ALLOC_ALLOC_ID,O+4*300,0x1234),(UPB_PROF_VALID,O+0x20*3,1)]
def mp (s : State) (e at1 n : Nat) := ln s .b fun l => {l with info := List.replicate 64 0 ++ beBytes 16 e, mapAt := at1, mapN := n, mapCount := 5}
def mpAt : Nat := 4 - (mapStart - 16) / 16
def bad := (e1 ^^^ 0x3 ^^^ (1 <<< 20) ) ||| (0xFFFFF <<< 84)
def b0 : Burst := {t0 := 1000000, w := 100, start := 5, prof := 3, msgu := true, allocs := [{key:=7,id:=0x1234,size:=90,bsr:=true}]}
def st := ln us .b fun l => {l with store := [{b0 with asm := true, t0 := 3}, b0, {b0 with t0 := 9}]}
def bt (x : Nat) := {(ln us .b fun l => {l with store := [{b0 with asm := true, t0 := 128 * (x+2000)}, b0]}) with tick := x+2000}
def bh := {b0 with asm := true, t0 := 128 * 2000}
def ok0 := let s := fs (bt 0) [(UPB_BRIDLE_STAT_FAULT_HOLD,O,0),(UPB_BRIDLE_STAT_ROGUE,O,0),(PWR_STATE_STATE,0,4),(LIN_FE_STAT_TXF,O,0)]; {s with tick := 2000 - s.lead .b}
def ac (n : Nat) := ln (fs us [(UPB_ACT_STATE,O,n),(UPB_CFG_MSG_OWNER,O,1),(UPB_ACT_RETURN,O,2),(DSF_TID_VALID,O,1)]) .b fun l => {l with eqdEff := 5, to1 := 4, store := [b0], sending := if n == 2 then some b0 else none}
def w1 : State := mp us e1 4 4
def w2 : State := mp us e1 mpAt (mpAt+1)
def w3 : State := ln (mp us e1 mpAt (mpAt+2)) .b (fun l => {l with marks := [0]})
def w4 : State := mp us e2 mpAt (mpAt+2)
def w5 : State := mp us bad mpAt (mpAt+2)
def w6 : State := ln st .b (fun l => {l with partials := [(7,some {frame := {data := List.replicate 70 4}})]})
def w7 : Burst := b0
def w8 : State := us
def w9 : State := {st with tick := 90000000}
def w10 : State := fs us [(UPB_BRIDLE_STAT_ROGUE,O,1)]
def w11 : State := fs us [(PWR_STATE_STATE,0,3)]
def w12 : State := ok0
def w13 : Burst := bh
def w14 : List Burst := [b0]
def w15 : State := fs ok0 [(PWR_STATE_STATE,0,3)]
def w16 : State := fs ok0 [(LIN_FE_STAT_TXF,O,1)]
def w17 : State := fs ok0 [(UPB_BRIDLE_STAT_ROGUE,O,1)]
def w18 : State := fs (rs us [(0x606100+12, 0xA1B2C3D4)]) [(UPB_CFG_MSG_OWNER,O,0x12)]
def w19 : State := fs (ln (rs us [(0x606100+12, 0xA1B2C3D4)]) .b fun l => {l with msgs := List.replicate 16 []}) [(UPB_CFG_MSG_OWNER,O,0x12)]
def w20 : State := fs us [(UPB_CFG_MSG_OWNER,O,0x12)]
def w21 : State := ln (mp us e1 mpAt (mpAt+2)) .b (fun l => {l with mapHeld := true})
def w22 : State := {ok0 with tick := ok0.tick + 9}
def w23 : State := fs us [(UPB_BRIDLE_STAT_UNLOCK_STAGE,O,2),(UPB_BRIDLE_STAT_ROGUE,O,1)]
def w24 : State := fs us [(UPB_BRIDLE_STAT_UNLOCK_STAGE,O,1),(UPB_BRIDLE_STAT_ROGUE,O,1)]
def w25 : State := fs (ac 1) [(UPB_TID_TID,O,0xFFFE)]
def w26 : State := fs (ac 1) [(UPB_TID_TID,O,0xFFFD)]
def w27 : State := ac 2
def w28 : State := {ac 2 with tick := 2 ^ 40}
def w29 : State := ac 5
def w30 : State := fs (ac 4) [(UPB_ACT_RETURN,O,5)]
def w31 : State := ac 0
def w32 : State := rl

theorem test_met_Bursts :
    /- clause 0 -/ ((w1.frameUsable Side.b = false ∨ (w1.line Side.b).mapN ≤ (w1.line Side.b).mapAt)) ∧
    /- clause 1 -/ ((w2.frameUsable Side.b = true) ∧ ((w2.line Side.b).mapAt + 1 = (w2.line Side.b).mapN)) ∧
    /- clause 2 -/ ((w3.frameUsable Side.b = true) ∧ ((w3.line Side.b).mapAt + 1 < (w3.line Side.b).mapN) ∧ (w3.drixis Side.b = true) ∧ (w3.lineMarked Side.b (mapStart + 16 * (w3.line Side.b).mapAt) 16 = true)) ∧
    /- clause 4 -/ ((w4.frameUsable Side.b = true) ∧ ((w4.line Side.b).mapAt + 1 < (w4.line Side.b).mapN) ∧ (w4.drixis Side.b = true) ∧ (w4.lineMarked Side.b (mapStart + 16 * (w4.line Side.b).mapAt) 16 = false) ∧ ((w4.line Side.b).mapHeld = false) ∧ (crc16Check (w4.infoAt Side.b (mapStart + 16 * (w4.line Side.b).mapAt) 16) = (Hec.ok, beBytes 16 (beNat (crc16Check (beBytes 16 e2)).2))) ∧ (beNat (crc16Check (beBytes 16 e2)).2 < 2 ^ 128) ∧ (w4.entryTaken Side.b (beNat (crc16Check (beBytes 16 e2)).2) = some 512) ∧ (512 ≠ State.keySerial) ∧ ((w4.line Side.b).mapBurst = none) ∧ (entType (beNat (crc16Check (beBytes 16 e2)).2) = 0) ∧ (entCkt (beNat (crc16Check (beBytes 16 e2)).2) = false) ∧ (entOdc (beNat (crc16Check (beBytes 16 e2)).2) = false) ∧ (entStart (beNat (crc16Check (beBytes 16 e2)).2) ≤ 388799) ∧ (w4.flag UPB_PROF_VALID (sideOff Side.b + 32 * entProf (beNat (crc16Check (beBytes 16 e2)).2)) = true) ∧ (1 ≤ entSize (beNat (crc16Check (beBytes 16 e2)).2))) ∧
    /- clause 5 -/ ((w5.frameUsable Side.b = true) ∧ ((w5.line Side.b).mapAt + 1 < (w5.line Side.b).mapN) ∧ (w5.drixis Side.b = true) ∧ (w5.lineMarked Side.b (mapStart + 16 * (w5.line Side.b).mapAt) 16 = false) ∧ ((w5.line Side.b).mapHeld = false) ∧ (crc16Check (w5.infoAt Side.b (mapStart + 16 * (w5.line Side.b).mapAt) 16) = (Hec.bad, beBytes 16 bad)) ∧ (bad < 2 ^ 128) ∧ (w5.entryTaken Side.b bad = some 300) ∧ (entStart bad = 1048575)) ∧
    /- clause 6 -/ ((List.find? (fun b => !b.asm) (w6.line Side.b).store = some w7)) ∧
    /- clause 7 -/ ((List.find? (fun b => !b.asm) (w8.line Side.b).store = none)) ∧
    /- clause 8 -/ (((w9.line Side.b).sending = none) ∧ (Option.any (w9.benWindow Side.b) (w9.line Side.b).store.head? = false) ∧ (w9.flag UPB_BRIDLE_STAT_FAULT_HOLD (sideOff Side.b) = false) ∧ (w9.txOff = false) ∧ (w9.rogue Side.b = false) ∧ ((w10.line Side.b).sending = none) ∧ (Option.any (w10.benWindow Side.b) (w10.line Side.b).store.head? = false) ∧ (w10.flag UPB_BRIDLE_STAT_FAULT_HOLD (sideOff Side.b) = true ∨ w10.rogue Side.b = true) ∧ ((w11.line Side.b).sending = none) ∧ (Option.any (w11.benWindow Side.b) (w11.line Side.b).store.head? = false) ∧ (w11.flag UPB_BRIDLE_STAT_FAULT_HOLD (sideOff Side.b) = false) ∧ (w11.rogue Side.b = false) ∧ (w11.txOff = true)) ∧
    /- clause 10 -/ (((w12.line Side.b).sending = none) ∧ ((w12.line Side.b).store = w13 :: w14) ∧ (w13.asm = true) ∧ (w13.t0 / 128 ≤ w12.tick + w12.lead Side.b + 1) ∧ (w12.tick + w12.lead Side.b ≤ w13.t0 / 128 + 1) ∧ (w12.tick ≤ w12.burstEnd Side.b w13 + 1) ∧ (w12.flag UPB_BRIDLE_STAT_FAULT_HOLD (sideOff Side.b) = false) ∧ (w12.rogue Side.b = false) ∧ (w12.mayTransmit Side.b = true) ∧ (w12.txOff = false) ∧ (w12.txf Side.b = false) ∧ ((w15.line Side.b).sending = none) ∧ ((w15.line Side.b).store = w13 :: w14) ∧ (w13.t0 / 128 ≤ w15.tick + w15.lead Side.b + 1) ∧ (w15.tick + w15.lead Side.b ≤ w13.t0 / 128 + 1) ∧ (w15.tick ≤ w15.burstEnd Side.b w13 + 1) ∧ (w15.flag UPB_BRIDLE_STAT_FAULT_HOLD (sideOff Side.b) = false) ∧ (w15.rogue Side.b = false) ∧ (w15.mayTransmit Side.b = false ∨ w15.txOff = true) ∧ ((w16.line Side.b).sending = none) ∧ ((w16.line Side.b).store = w13 :: w14) ∧ (w13.t0 / 128 ≤ w16.tick + w16.lead Side.b + 1) ∧ (w16.tick + w16.lead Side.b ≤ w13.t0 / 128 + 1) ∧ (w16.tick ≤ w16.burstEnd Side.b w13 + 1) ∧ (w16.flag UPB_BRIDLE_STAT_FAULT_HOLD (sideOff Side.b) = false) ∧ (w16.rogue Side.b = false) ∧ (w16.mayTransmit Side.b = true) ∧ (w16.txOff = false) ∧ (w16.txf Side.b = true) ∧ ((w17.line Side.b).sending = none) ∧ ((w17.line Side.b).store = w13 :: w14) ∧ (w13.t0 / 128 ≤ w17.tick + w17.lead Side.b + 1) ∧ (w17.tick + w17.lead Side.b ≤ w13.t0 / 128 + 1) ∧ (w17.tick ≤ w17.burstEnd Side.b w13 + 1) ∧ (w17.flag UPB_BRIDLE_STAT_FAULT_HOLD (sideOff Side.b) = true ∨ w17.rogue Side.b = true)) ∧
    /- clause 11 -/ ((Reach w18 (Req.team 2) (4219200 + sideOff Side.b)) ∧ (w18.f UPB_CFG_MSG_OWNER (sideOff Side.b) = reqCode (Req.team 2)) ∧ (UPB_MSG_PUSH_PUSH.of 1 = 1) ∧ ((w18.line Side.b).msgs.length < 16) ∧ (Reach w19 (Req.team 2) (4219200 + sideOff Side.b)) ∧ (w19.f UPB_CFG_MSG_OWNER (sideOff Side.b) = reqCode (Req.team 2)) ∧ (16 ≤ (w19.line Side.b).msgs.length)) ∧
    /- clause 12 -/ ((Reach w20 (Req.team 2) (4219200 + sideOff Side.b)) ∧ (w20.f UPB_CFG_MSG_OWNER (sideOff Side.b) = reqCode (Req.team 2)) ∧ (UPB_MSG_PUSH_PUSH.of 0 = 0)) ∧
    /- clause 13 -/ ((Reach w20 (Req.team 2) (4218912 + sideOff Side.b)) ∧ (w20.f UPB_CFG_MSG_OWNER (sideOff Side.b) = reqCode (Req.team 2)) ∧ (Reach w20 Req.host (4218912 + sideOff Side.b)) ∧ (w20.f UPB_CFG_MSG_OWNER (sideOff Side.b) ≠ reqCode Req.host)) ∧
    /- clause 3 -/ ((w21.frameUsable Side.b = true) ∧ ((w21.line Side.b).mapAt + 1 < (w21.line Side.b).mapN) ∧ (w21.drixis Side.b = true) ∧ (w21.lineMarked Side.b (mapStart + 16 * (w21.line Side.b).mapAt) 16 = false) ∧ ((w21.line Side.b).mapHeld = true)) ∧
    /- clause 9 -/ ((w22.line Side.b).sending = none) ∧ ((w22.line Side.b).store = w13 :: w14) ∧ (w22.benWindow Side.b w13 = true) ∧ (w13.t0 / 128 + 1 < w22.tick + w22.lead Side.b) := by
  refine ⟨?_, ?_, ?_, ?_, ?_, ?_, ?rest⟩
  case rest => refine ⟨?_, ?_, ?_, ?_, ?_, ?_, ?_, ?_⟩ <;> decide +kernel
  all_goals decide +kernel

theorem test_met_Activation :
    /- clause 0 -/ ((Reach w23 Req.host (4219272 + sideOff Side.b))) ∧
    /- clause 1 -/ ((Reach w8 Req.groom (4219272 + sideOff Side.b)) ∧ (Req.groom ≠ Req.host)) ∧
    /- clause 3 -/ ((Reach w23 Req.host (4219268 + sideOff Side.b)) ∧ (UPB_BRIDLE_STAT_ROGUE.of (wd [(UPB_BRIDLE_STAT_ROGUE, 1)]) = 1) ∧ (w23.unlockStage Side.b = 2) ∧ (Reach w24 Req.host (4219268 + sideOff Side.b)) ∧ (w24.unlockStage Side.b ≠ 2)) ∧
    /- clause 4 -/ ((Reach w8 Req.host (4219268 + sideOff Side.b)) ∧ (Req.host ≠ Req.host ∨ UPB_BRIDLE_STAT_ROGUE.of 0 = 0)) ∧
    /- clause 5 -/ ((Reach w25 Req.host (4218884 + sideOff Side.b)) ∧ (w25.f UPB_CFG_MSG_OWNER (sideOff Side.b) = reqCode Req.host) ∧ (w25.actState Side.b ≠ 1 ∨ 65533 < w25.f UPB_TID_TID (sideOff Side.b)) ∧ (w25.actState Side.b ≠ 2) ∧ (w25.actState Side.b ≠ 4) ∧ (w25.actState Side.b ≠ 5) ∧ (Reach w26 Req.host (4218884 + sideOff Side.b)) ∧ (w26.f UPB_CFG_MSG_OWNER (sideOff Side.b) = reqCode Req.host) ∧ (w26.actState Side.b = 1) ∧ (w26.f UPB_TID_TID (sideOff Side.b) ≤ 65533) ∧ (Reach w27 Req.host (4218884 + sideOff Side.b)) ∧ (w27.f UPB_CFG_MSG_OWNER (sideOff Side.b) = reqCode Req.host) ∧ (w27.actState Side.b = 2) ∧ (w27.to1Due Side.b = false) ∧ (Reach w28 Req.host (4218884 + sideOff Side.b)) ∧ (w28.f UPB_CFG_MSG_OWNER (sideOff Side.b) = reqCode Req.host) ∧ (w28.actState Side.b = 2 ∨ w28.actState Side.b = 3) ∧ (Reach w29 Req.host (4218884 + sideOff Side.b)) ∧ (w29.f UPB_CFG_MSG_OWNER (sideOff Side.b) = reqCode Req.host) ∧ (w29.actState Side.b = 5) ∧ (w28.actState Side.b = 2) ∧ ((w28.line Side.b).to1 ≠ 0) ∧ ((w28.line Side.b).to1 - 1 + w28.f UPB_TMR_TO1 (sideOff Side.b) * 777600 ≤ w28.tick) ∧ (Reach w30 Req.host (4218884 + sideOff Side.b)) ∧ (w30.f UPB_CFG_MSG_OWNER (sideOff Side.b) = reqCode Req.host) ∧ (w30.actState Side.b = 4) ∧ (w30.f UPB_ACT_RETURN (sideOff Side.b) = 5)) ∧
    /- clause 6 -/ ((w31.actState Side.b = 0) ∧ (w31.dsValid Side.b = true) ∧ (w31.anyProfile Side.b = true) ∧ (w31.f PWR_STATE_STATE ≠ 2)) ∧
    /- clause 7 -/ ((w32.actState Side.b ≠ 0 ∨ w32.dsValid Side.b = false ∨ w32.anyProfile Side.b = false ∨ w32.f PWR_STATE_STATE = 2)) ∧
    /- clause 8 -/ (w27.actState Side.b = 2) ∧ ((w27.line Side.b).to1 ≠ 0) := by
  refine ⟨?_, ?_, ?_, ?_, ?_, ?_, ?_, ?_⟩ <;> decide +kernel

end K4

namespace K6

def O := 0x200000
def rl := fs all [(LIN_MODE_RX_EN,O,1),(LIN_MODE_TX_EN,O,1),(LIN_DSP_STAT_ADC_CAL,O,1),(LIN_DSP_STAT_CONV,O,1),(LIN_DSP_STAT_CDR_LOCK,O,1),(LIN_DSP_STAT_SD,O,1)]
def sy := ln (fs rl [(DSF_STAT_STATE,O,2),(DSF_STAT_DS_VALID,O,1),(DSF_STAT_LOF,O,0),(DSF_STAT_LOS,O,0)]) .b fun l => {l with sfcPred := 100, curOk := true, payEnd := 5000}
def pa := fs sy [(PRT_CFG_MODE,0,1),(LIN_MODE_RX_EN,0,1),(DSF_STAT_STATE,0,2),(DSF_STAT_DS_VALID,0,1),(UPB_ACT_STATE,0,3),(UPB_ACT_STATE,O,3),(DSF_STAT_LOF,0,0),(DSF_STAT_LOS,0,0)]
def fr (sq : Nat) : Frame := {data := [1,2,3], src := 1, port := 77, seq := sq, handle := 3}
def ro (held : List HeldFrame) (ex : Option Nat) (f : Frame) : State := 
  let s := fs (pa.xPush 2 f) [(PRT_CFG_MODE,0,2),(LIN_MODE_MODE,0,1),(LIN_MODE_MODE,O,1),(DSF_PID_VALID,O+4*5,1),(DSF_PID_PORT_ID,O+4*5,77),(DSF_PID_SEQ_EN,O+4*5,1),(DSF_PID_VALID,4*5,1),(DSF_PID_PORT_ID,4*5,77)]
  s.modPrt fun p => {p with held := held, expect := match ex with | some n => [(77,n+1)] | none => []}
def w1 : State := pa
def w2 : State := fs pa [(LIN_MODE_TX_EN,O,0)]
def w3 : State := fs pa [(PRT_CFG_REVERT,0,0)]
def w4 : State := pa.modPrt (fun p => {p with autoTick := pa.tick + 1})
def w5 : State := fs pa [(PRT_STAT_LOCKED,0,1)]
def w6 : State := fs rl [(PRT_STAT_LOCKED,0,1)]
def w7 : State := fs (pa.modPrt fun p => {p with due := true, causesB := [0], wtr := 9}) [(UPB_ACT_STATE,O,4),(PRT_STAT_ACTIVE,0,1),(PRT_CFG_REVERT,0,1),(PRT_CFG_HOME,0,1)]
def w8 : State := pa
def w9 : State := (fs pa [(PRT_CFG_REVERT,0,1),(PRT_STAT_ACTIVE,0,1)]).modPrt fun p => {p with wtr := 3}
def w10 : State := ro [] (some 0xFFFFFF) (fr 0xFFFFFF)
def w11 : Frame := fr 0xFFFFFF
def w12 : State := ro [⟨fr 12,3⟩] (some 10) (fr 9)
def w13 : Frame := fr 9
def w14 : State := ro [⟨fr 13,3⟩] (some 10) (fr 12)
def w15 : Frame := fr 12
def w16 : State := ro [⟨fr 13,3⟩,⟨fr 12,4⟩,⟨fr 15,4⟩] (some 10) (fr 12)
def w17 : Fin 1048576 := 77
def w18 : State := ro [⟨fr 13,3⟩] (some 14) (fr 12)
def w19 : HeldFrame := ⟨fr 13,3⟩

theorem test_met_Protection :
    /- clause 0 -/ ((Reach w1 Req.host 8388608) ∧ (w1.pairingRefused 1048322 = true) ∧ (Reach w2 Req.host 8388608) ∧ (w2.pairingRefused 0 = false) ∧ (PRT_CFG_MODE.of 0 ≠ w2.prtMode)) ∧
    /- clause 1 -/ ((Reach w3 Req.host 8388612) ∧ (w3.prtMode = 1) ∧ (w3.flag PRT_STAT_LOCKED = false) ∧ (w3.eligible (sideOther w3.active) = true) ∧ (w3.flag PRT_CFG_REVERT = false) ∧ (w3.prt.autoTick ≠ w3.tick + 1) ∧ (w3.autoDue = false)) ∧
    /- clause 2 -/ ((Reach w4 Req.host 8388612) ∧ (w4.prtMode ≠ 1 ∨ w4.flag PRT_STAT_LOCKED = true ∨ w4.eligible (sideOther w4.active) = false ∨ w4.prt.autoTick = w4.tick + 1 ∨ w4.autoDue = true)) ∧
    /- clause 3 -/ ((Reach w1 Req.host 8388612) ∧ (w1.prtMode = 1) ∧ (w1.flag PRT_STAT_LOCKED = false) ∧ (Reach w5 Req.host 8388612) ∧ (w5.prtMode = 1) ∧ (w5.flag PRT_STAT_LOCKED = true)) ∧
    /- clause 4 -/ ((Reach w6 Req.host 8388612) ∧ (w6.prtMode ≠ 1)) ∧
    /- clause 5 -/ ((w7.pending = []) ∧ (w7.autoDue = true) ∧ (w7.causesOf w7.active ≠ [])) ∧
    /- clause 6 -/ (w8.prt.wtr = 0 ∨ w8.prt.autoTick = w8.tick + 1 ∨ w8.autoDue = true ∨ w8.eligible w8.home = false) ∧ (w9.prt.wtr ≠ 0) ∧ (w9.prt.autoTick ≠ w9.tick + 1) ∧ (w9.autoDue = false) ∧ (w9.eligible w9.home = true) := by
  refine ⟨?_, ?_, ?_, ?_, ?_, ?_, ?_⟩ <;> decide +kernel

theorem test_met_ReorderStore :
    /- clause 0 -/ ((w1.dsHead Side.b false = none)) ∧
    /- clause 1 -/ ((w10.dsHead Side.b false = some w11) ∧ (w10.roFrame Side.b w11 = true) ∧ (w10.prt.held = []) ∧ (w10.roExpect w11.port = none ∨ w10.roExpect w11.port = some w11.seq)) ∧
    /- clause 2 -/ ((w12.dsHead Side.b false = some w13) ∧ (w12.roFrame Side.b w13 = true) ∧ (w12.roExpect w13.port = some 10) ∧ (2 ^ 23 ≤ State.roDist w13.seq 10)) ∧
    /- clause 3 -/ ((w14.dsHead Side.b false = some w15) ∧ (w14.roFrame Side.b w15 = true) ∧ (w14.roExpect w15.port = some 10) ∧ (0 < State.roDist w15.seq 10) ∧ (State.roDist w15.seq 10 < 2 ^ 23) ∧ (w14.prt.held.length < 16384) ∧ (((w14.roHeld w15.port).any fun h => h.frame.seq == w15.seq) = false) ∧ (w15.handle ≠ 0)) ∧
    /- clause 4 -/ ((w16.roExpect ↑w17 = some 10) ∧ (w16.roLowest (↑w17) 10 = some 2) ∧ (∀ h ∈ w16.prt.held, h.frame.seq < 2 ^ 24)) ∧
    /- clause 5 -/ (w18.prt.held = [w19]) ∧ (w19.frame.port = ↑w17) ∧ (w18.roExpect ↑w17 = some 14) ∧ (14 < 2 ^ 24) ∧ (w19.frame.seq < 2 ^ 24) := by
  refine ⟨?_, ?_, ?_, ?_, ?_, ?_⟩ <;> decide +kernel

end K6

namespace K8

def cs := fs all [(CLS_CFG_VER_OWNER,0,1),(CLS_CFG_TC_MODE,0,0),(CLS_CFG_EM_MODE,0,0),(CLS_VER_STAT_STAGE_READY,0,1),(CLS_CFG_TC_EN,0,1),(CLS_CFG_EM_EN,0,1)]
def stg := rs cs ((List.range 10).map fun k => (bankKey .host (0xA00200+4*k), BitVec.ofNat 32 (k*77777+1)))
def iem := (stg.emBuckets 2 0).1 * 8 + 3
def tv := fs all [(CLS_CFG_VER_OWNER,0,0x13),(CLS_VER_STAT_OLD_LIVE,0,0),(CLS_VER_STAT_STAGE_READY,0,1),(CLS_INFL_CUR_COUNT,0,0)]
def w1 : State := fs stg [(CLS_CFG_TC_MODE,0,1),(CLS_CFG_EM_MODE,0,1)]
def w2 : Fin 8 := 2
def w3 : Fin 262144 := 5
def w4 : State := fs stg [(CLS_CFG_TC_MODE,0,1),(CLS_CFG_EM_MODE,0,1),(CLS_VER_STAT_STAGE_READY,0,0)]
def w5 : Fin 8 := 3
def w6 : Fin 262144 := 5
def w7 : State := {stg with tc := [(5,{key := 7, hits:=5}),(6,{hits:=5})]}
def w8 : State := {stg with em := [(5,{valid:=true}),(6,{prof:=5})]}
def w9 : State := {stg with em := [(iem,{prof:=2,act:=9})]}
def w10 : Fin 262144 := (Fin.ofNat _ iem)
def w11 : EmEntry := {prof:=2,act:=9}
def w12 : State := {stg with em := [(iem+8,{prof:=2,act:=9})]}
def w13 : Fin 262144 := (Fin.ofNat _ (iem+8))
def w14 : State := {stg with tc := [(5,{key := 7#320 <<< 300, valid := false, mask := 3#320 <<< 160, act := 0x123456789ABCDEF0, hits:=5}),(6,{hits:=5})]}
def w15 : State := fs {stg with em := [(5,{key := 7#320 <<< 200, valid := true, act := 0x123456789ABCDEF0, prof:=4}),(6,{prof:=5})]} [(CLS_CFG_EM_MODE,0,1)]
def w16 : State := stg
def w17 : Fin 8 := 7
def w18 : Fin 8 := 2
def w19 : State := rs stg [(bankKey .host 0xA00294, 0x80000000)]
def w20 : Instr := .clsHash .host 3
def w21 : Fin 262144 := 9
def w22 : State := {stg with mem := {stg.mem with held := [97]}}
def w23 : Instr := .clsClearvalid .host true false 9
def w24 : State := {(fs stg [(CLS_CFG_TC_EN,0,0),(CLS_CFG_EM_EN,0,0)]) with tc := [(5,{key := 7})]}
def w25 : State := fs tv [(CLS_VER_STAT_CUR,0,255),(CLS_INFL_CUR_COUNT,0,6)]
def w26 : State := tv
def w27 : State := fs tv [(CLS_VER_STAT_STAGE_READY,0,0)]
def w28 : State := fs tv [(CLS_VER_STAT_OLD_LIVE,0,1),(CLS_INFL_OLD_COUNT,0,0)]
def w29 : State := fs tv [(CLS_INFL_OLD_COUNT,0,3)]
def w30 : State := {(fs all [(CLS_VER_STAT_SYNC_BUSY,0,1),(CLS_CFG_TC_MODE,0,1),(CLS_CFG_EM_MODE,0,0),(CLS_CFG_TC_EN,0,1)]) with verCopy := 1, tc := [(5,{key := 7#320 <<< 300,hits:=5}),(2^18+6,{hits:=5,key:=3})]}
def w31 : State := fs all [(CLS_VER_STAT_SYNC_BUSY,0,1),(CLS_CFG_TC_MODE,0,1),(CLS_CFG_EM_MODE,0,1)]
def w32 : State := {(fs all [(CLS_VER_STAT_SYNC_BUSY,0,1),(CLS_CFG_TC_MODE,0,0),(CLS_CFG_EM_MODE,0,1),(CLS_CFG_EM_EN,0,1)]) with em := [(5,{}),(2^18+6,{key := 9})]}
def w33 : State := fs all [(CLS_VER_STAT_OLD_LIVE,0,1),(CLS_VER_CFG_DRAIN_TMO,0,1)]
def w34 : State := {all with drainTold := true}

theorem test_met_StagingCommands :
    /- clause 0 -/ ((ClsFree w1 Req.host) ∧
    (Reach w1 Req.host 10486416) ∧ (w1.changeRefused Req.host true true (↑w2) (↑w3) true = 0) ∧ (w1.changeRefused Req.host false true (↑w2) (↑w3) true = 0)) ∧
    /- clause 1 -/ ((ClsFree w4 Req.host) ∧
    (Reach w4 Req.host 10486416) ∧ (w4.changeRefused Req.host true true (↑w5) (↑w6) true = 0 + 1)) ∧
    /- clause 2 -/ ((ClsFree w7 Req.host) ∧
    (Reach w7 Req.host 10486416) ∧ (w7.changeRefused Req.host false false 0 (↑w3) false = 0)) ∧
    /- clause 3 -/ ((ClsFree w8 Req.host) ∧
    (Reach w8 Req.host 10486416) ∧ (w8.changeRefused Req.host true false 0 (↑w3) false = 0)) ∧
    /- clause 4 -/ ((ClsFree w1 (Req.team 3)) ∧
    (Reach w1 (Req.team 3) 10486416) ∧ (w1.changeRefused (Req.team 3) true true 0 (↑w6) false = 5 + 1)) ∧
    /- clause 5 -/ ((ClsFree w9 Req.host) ∧
    (ClsFree w12 Req.host) ∧
    (Reach w9 Req.host 10486416) ∧ (w9.changeRefused Req.host true false 0 (↑w10) false = 0) ∧ (w9.emAt (w9.cmdCopy true false) ↑w10 = w11) ∧ (1 ≤ w11.prof) ∧ (w11.prof ≤ 4) ∧ (↑w10 / 8 = (w9.emBuckets w11.prof w11.key).1 ∨ ↑w10 / 8 = (w9.emBuckets w11.prof w11.key).2) ∧ (w11.key &&& ~~~w9.emMask w11.prof = 0) ∧ (Reach w12 Req.host 10486416) ∧ (w12.changeRefused Req.host true false 0 (↑w13) false = 0) ∧ (w12.emAt (w12.cmdCopy true false) ↑w13 = w11) ∧ (↑w13 / 8 ≠ (w12.emBuckets w11.prof w11.key).1) ∧ (↑w13 / 8 ≠ (w12.emBuckets w11.prof w11.key).2)) ∧
    /- clause 6 -/ ((ClsFree w14 (Req.team 2)) ∧
    (Reach w14 (Req.team 2) 10486416) ∧ (↑w3 < w14.tabSize false) ∧ (false = true → w14.tcVersioned = true)) ∧
    /- clause 7 -/ ((ClsFree w15 (Req.team 2)) ∧
    (Reach w15 (Req.team 2) 10486416) ∧ (↑w3 < w15.tabSize true) ∧ (true = true → w15.emVersioned = true)) ∧
    /- clause 8 -/ ((ClsFree w16 (Req.team 1)) ∧
    (ClsFree w16 Req.host) ∧
    (Reach w16 (Req.team 1) 10486416) ∧ (↑w17 = 0 ∨ 4 < ↑w17) ∧ (Reach w16 Req.host 10486416) ∧ (1 ≤ ↑w18) ∧ (↑w18 ≤ 4)) ∧
    /- clause 9 -/ ((Reach w19 Req.host 10486416) ∧ (w20 ∈ [Instr.clsWrite Req.host true false w5 w21, Instr.clsSetvalid Req.host true false w21, Instr.clsClearvalid Req.host true false w21, Instr.clsRead Req.host true false w21, Instr.clsHash Req.host w5]) ∧ (bitOf (BitVec.toNat (w19.reg (bankKey Req.host 10486420))) 31 = true) ∧ (Reach w22 Req.host 10486416) ∧ (w23 ∈ [Instr.clsWrite Req.host true false w5 w21, Instr.clsSetvalid Req.host true false w21, Instr.clsClearvalid Req.host true false w21, Instr.clsRead Req.host true false w21, Instr.clsHash Req.host w5]) ∧ (bitOf (BitVec.toNat (w22.reg (bankKey Req.host 10486420))) 31 = false) ∧ (w22.groupHeld 96 = true ∨ w22.groupHeld 97 = true)) ∧
    /- clause 10 -/ (Reach w16 Req.host 10485760) ∧ (w16.flag CLS_CFG_TC_EN = true) ∧ (w16.flag CLS_CFG_EM_EN = true) ∧ (Reach w24 (Req.team 1) 10485760) ∧ (w24.flag CLS_CFG_TC_EN = false) ∧ (Reach w24 Req.host 10485760) ∧ (CLS_CFG_TC_MODE.of 4294967295 ≠ w24.f CLS_CFG_TC_MODE) ∧ (w24.flag CLS_CFG_EM_EN = false) ∧ (CLS_CFG_EM_MODE.of 4294967295 ≠ w24.f CLS_CFG_EM_MODE) ∧ (Req.team 1 ≠ Req.host) := by
  and_intros <;> first
    | decide +kernel
    | exact clsFree_of (by decide +kernel)

theorem test_met_TableVersions :
    /- clause 0 -/ ((Reach w25 (Req.team 3) 10486528) ∧ (w25.verOwner (Req.team 3) = true) ∧ (w25.flag CLS_VER_STAT_OLD_LIVE = false) ∧ (w25.flag CLS_VER_STAT_STAGE_READY = true) ∧ (Reach w26 (Req.team 3) 10486528) ∧ (w26.verOwner (Req.team 3) = true) ∧ (w26.flag CLS_VER_STAT_OLD_LIVE = false) ∧ (w26.flag CLS_VER_STAT_STAGE_READY = true) ∧ (w26.f CLS_INFL_CUR_COUNT = 0)) ∧
    /- clause 1 -/ ((Reach w26 Req.host 10486528) ∧ (w26.verOwner Req.host = false)) ∧
    /- clause 2 -/ ((Reach w27 (Req.team 3) 10486528) ∧ (w27.verOwner (Req.team 3) = true) ∧ (w27.flag CLS_VER_STAT_OLD_LIVE = true ∨ w27.flag CLS_VER_STAT_STAGE_READY = false)) ∧
    /- clause 3 -/ ((w28.flag CLS_VER_STAT_OLD_LIVE = true) ∧ (w28.f CLS_INFL_OLD_COUNT = 0) ∧ (w29.f CLS_INFL_OLD_COUNT ≠ 0)) ∧
    /- clause 4 -/ ((w30.flag CLS_VER_STAT_SYNC_BUSY = true) ∧ (w30.emVersioned = false) ∧ (w31.flag CLS_VER_STAT_SYNC_BUSY = true) ∧ (w31.tcVersioned = true) ∧ (w31.verCopy ≤ 1) ∧ (swf (fun x => { }) w31.tc = true) ∧ (w32.flag CLS_VER_STAT_SYNC_BUSY = true) ∧ (w32.tcVersioned = false) ∧ (w31.emVersioned = true) ∧ (swf (fun x => { }) w31.em = true)) ∧
    /- clause 5 -/ (w33.flag CLS_VER_STAT_OLD_LIVE = true) ∧ (w33.f CLS_VER_CFG_DRAIN_TMO ≠ 0) ∧ (w33.drainTold = false) ∧ (w34.drainTold = true) := by
  refine ⟨?_, ?_, ?_, ?_, ?_, ?_⟩ <;> decide +kernel

end K8

namespace K9

def f0 : Frame := {data := (List.range 300).map fun k => BitVec.ofNat 8 k, src := 2, port := 5, seq := 7, handle := 3, arrival := 99}
def cl := fs all [(CLS_CFG_TC_EN,0,0),(CLS_CFG_EM_EN,0,0),(PRT_CFG_MODE,0,0)]
def cx (i : Nat) (f : Frame) := fs (cl.xPush i f) [(XNG_STAT_REFUSING,0x20*i,0)]
def fullp : State := let s := cx 4 {f0 with handle := 0}; fs s [(MEM_PAD_FREE_CELLS,0,1)]
def dsp := fs all [(CRS_DISP_VALID,0,1),(CRS_DISP_TEAMS,0,0x8),(CRS_TEAM_STAT_STATE,0x30000,4),(CRS_ENTRY_VALID,0x30000,1),(CRS_ENTRY_ENTRY,0x30000,0x123),(CRS_TEAM_STAT_QUAR,0x30000,1)]
def ds1 := {dsp with dispOther := [f0,{f0 with seq := 1}]}
def w1 : State := cl
def w2 : Fin 4 := 3
def w3 : State := cx 4 {f0 with exp := true}
def w4 : State := cx 2 {f0 with msg := true}
def w5 : Fin 4 := 1
def w6 : Frame := {f0 with msg := true}
def w7 : State := cx 4 {f0 with err := true}
def w8 : Fin 4 := 2
def w9 : Frame := {f0 with err := true}
def w10 : State := fullp
def w11 : Frame := {f0 with handle := 0}
def w12 : State := {dsp with mem := {dsp.mem with held := [99]}}
def w13 : State := fs ds1 [(CRS_TEAM_STAT_STATE,0x30000,4),(CRS_DISP_TEAMS,0,0x8),(CRS_ENTRY_VALID,0x30000,0)]
def w14 : State := {dsp with dispExp := [{f0 with exp := true, data := [0x32]}, f0]}
def w15 : Frame := {f0 with exp := true,data := [0x32]}
def w16 : State := ds1
def w17 : Frame := f0
def w18 : List Frame := [{f0 with seq := 1}]
def w19 : State := {ds1 with threads := [(3*64+8,{busy := true})]}
def w20 : State := {dsp with regs := (fs dsp [(CRS_TEAM_STAT_STATE,0x30000,3)]).regs, dispOther := [f0,{f0 with seq := 1}]}
def w21 : Frame := f0

theorem test_met_Classification :
    /- clause 0 -/ ((w1.groupHeld 96 = true ∨ w1.groupHeld 97 = true ∨ w1.dispRoom false = false ∨ w1.clsOffer (↑w2) false = none)) ∧
    /- clause 1 -/ ((w3.clsExpWaits = true)) ∧
    /- clause 2 -/ (w4.groupHeld 96 = false) ∧ (w4.groupHeld 97 = false) ∧ (w4.dispRoom false = true) ∧ (false = true ∧ ↑w5 < 3 ∨ w4.clsExpWaits = false) ∧ (w4.clsOffer (↑w5) false = some w6) ∧ (w6.err = false) ∧ (w6.handle ≠ 0) ∧ (w7.groupHeld 96 = false) ∧ (w7.groupHeld 97 = false) ∧ (w7.dispRoom false = true) ∧ (false = true ∧ ↑w8 < 3 ∨ w7.clsExpWaits = false) ∧ (w7.clsOffer (↑w8) false = some w9) ∧ (w9.err = true) ∧ (w10.groupHeld 96 = false) ∧ (w10.groupHeld 97 = false) ∧ (w10.dispRoom false = true) ∧ (false = true ∧ ↑w8 < 3 ∨ w10.clsExpWaits = false) ∧ (w10.clsOffer (↑w8) false = some w11) ∧ (w11.err = false) ∧ (w11.handle = 0) ∧ (w10.padMay w11.exp (max 1 (ceilDiv w11.data.length 256)) = false) := by
  refine ⟨?_, ?_, ?_⟩ <;> decide +kernel

theorem test_met_Dispatch :
    /- clause 0 -/ ((w12.groupHeld 99 = true)) ∧
    /- clause 1 -/ ((w13.dispPick w13.dispExp = none) ∧ (true = true ∨ w13.dispExp ≠ [] ∨ Option.any w13.dispCan w13.dispOther.head? = false)) ∧
    /- clause 2 -/ ((w14.groupHeld 99 = false) ∧ (w14.dispPick w14.dispExp = some w15)) ∧
    /- clause 3 -/ ((w16.groupHeld 99 = false) ∧ (w16.dispExp = []) ∧ (w16.dispOther = w17 :: w18) ∧ (w16.dispCan w17 = true)) ∧
    /- clause 4 -/ ((w19.groupHeld 99 = false) ∧ (w19.dispPick w19.dispExp = some w17 ∨ false = false ∧ w19.dispExp = [] ∧ w19.dispOther.head? = some w17) ∧ (w19.place w17 = some (3, 9))) ∧
    /- clause 5 -/ ((w20.groupHeld 99 = false) ∧ (w20.dispPick w20.dispExp = some w21 ∨ false = false ∧ w20.dispExp = [] ∧ w20.dispOther.head? = some w21) ∧ (w20.hasTeam w21 = false)) ∧
    /- clause 6 -/ (w16.place w17 = some (3, 8)) := by
  refine ⟨?_, ?_, ?_, ?_, ?_, ?_, ?_⟩ <;> decide +kernel

end K9

namespace K10

def id0 : Tid := ⟨3, 5, 2⟩
def gz : SMap (BitVec 64) := (List.range 31).map fun i => (i+1, BitVec.ofNat 64 (lcg (lcg (lcg (i+77)))))
def lm : SMap Byte := ((List.range 500).map (fun i => (29*2^15+0x2000+i, BitVec.ofNat 8 (i*7+1)))).filter (·.2 != 0)
def sm : SMap Byte := ((List.range 300).map (fun i => (3*2^19+i, BitVec.ofNat 8 (i*5+129)))).filter (·.2 != 0)
def prog (w : Nat) (g : SMap (BitVec 64)) : State :=
  let s := fs all [(CRS_SAMP_CFG_EN,0x30000,0),(CRS_TFLT_INFO_VALID,0x30000,0),(CRS_TEAM_CFG_WDOG,0x30000,9)]
  { s with istore := [(3*2^15+4, BitVec.ofNat 32 w)], lmem := lm, smem := sm, threads := [(tidKey id0, {busy := true, pc := istoreBase + 16, steps := 9, frame := some {data := [1,2,3], exp := false}, g := g})] }
def R (op rd ra rb w fn : Nat) : Nat := op*2^26+rd*2^21+ra*2^16+rb*2^11+w*2^10+fn
def w1 : State := prog (R 0 0 1 2 0 0) gz
def w2 : Tid := id0
def w3 : IsaFact := {lat := 5}
def w4 : State := prog (R 0 0 1 2 0 1) gz
def w5 : State := prog (R 0 0 1 2 0 2) gz
def w6 : State := prog (R 0 0 1 2 0 3) gz
def w7 : State := prog (R 0 0 1 2 0 4) gz
def w8 : State := prog (R 0 0 1 2 0 5) gz
def w9 : State := prog (R 0 0 1 2 0 6) gz
def w10 : State := prog (R 0 0 1 2 0 7) gz
def w11 : State := prog (R 0 0 1 2 0 8) gz
def w12 : State := prog (R 0 0 1 2 0 9) gz
def w13 : State := prog (R 0 0 1 2 0 10) gz
def w14 : State := prog (R 0 0 1 2 0 11) gz
def w15 : State := prog (R 0 0 1 2 0 12) gz
def w16 : State := prog (R 0 0 1 2 0 13) gz
def w17 : State := prog (R 0 0 1 2 0 14) gz
def w18 : State := prog (R 0 0 1 2 0 15) gz

theorem test_met_AluResults :
    /- clause 0 -/ ((Issues w1 w2 w3 IsaOp.add (R 0 0 1 2 0 0))) ∧
    /- clause 1 -/ ((Issues w4 w2 w3 IsaOp.sub (R 0 0 1 2 0 1))) ∧
    /- clause 2 -/ ((Issues w5 w2 w3 IsaOp.and (R 0 0 1 2 0 2))) ∧
    /- clause 3 -/ ((Issues w6 w2 w3 IsaOp.or (R 0 0 1 2 0 3))) ∧
    /- clause 4 -/ ((Issues w7 w2 w3 IsaOp.xor (R 0 0 1 2 0 4))) ∧
    /- clause 5 -/ ((Issues w8 w2 w3 IsaOp.shl (R 0 0 1 2 0 5))) ∧
    /- clause 6 -/ ((Issues w9 w2 w3 IsaOp.shr (R 0 0 1 2 0 6))) ∧
    /- clause 7 -/ ((Issues w10 w2 w3 IsaOp.sra (R 0 0 1 2 0 7))) ∧
    /- clause 8 -/ ((Issues w11 w2 w3 IsaOp.mul (R 0 0 1 2 0 8))) ∧
    /- clause 9 -/ ((Issues w12 w2 w3 IsaOp.mulhu (R 0 0 1 2 0 9))) ∧
    /- clause 10 -/ ((Issues w13 w2 w3 IsaOp.slt (R 0 0 1 2 0 10))) ∧
    /- clause 11 -/ ((Issues w14 w2 w3 IsaOp.sltu (R 0 0 1 2 0 11))) ∧
    /- clause 12 -/ ((Issues w15 w2 w3 IsaOp.rotr (R 0 0 1 2 0 12))) ∧
    /- clause 13 -/ ((Issues w16 w2 w3 IsaOp.clz (R 0 0 1 2 0 13))) ∧
    /- clause 14 -/ ((Issues w17 w2 w3 IsaOp.popc (R 0 0 1 2 0 14))) ∧
    /- clause 15 -/ (Issues w18 w2 w3 IsaOp.bswap (R 0 0 1 2 0 15)) := by
  and_intros <;> first
    | decide +kernel
    | exact issues_of (by decide +kernel)

end K10

namespace K10b

def id0 : Tid := ⟨3, 5, 2⟩
def gz : SMap (BitVec 64) := (List.range 31).map fun i => (i+1, BitVec.ofNat 64 (lcg (lcg (lcg (i+77)))))
def lm : SMap Byte := ((List.range 500).map (fun i => (29*2^15+0x2000+i, BitVec.ofNat 8 (i*7+1)))).filter (·.2 != 0)
def sm : SMap Byte := ((List.range 300).map (fun i => (3*2^19+i, BitVec.ofNat 8 (i*5+129)))).filter (·.2 != 0)
def prog (w : Nat) (g : SMap (BitVec 64)) : State :=
  let s := fs all [(CRS_SAMP_CFG_EN,0x30000,0),(CRS_TFLT_INFO_VALID,0x30000,0),(CRS_TEAM_CFG_WDOG,0x30000,9)]
  { s with istore := [(3*2^15+4, BitVec.ofNat 32 w)], lmem := lm, smem := sm, threads := [(tidKey id0, {busy := true, pc := istoreBase + 16, steps := 9, frame := some {data := [1,2,3], exp := false}, g := g})] }
def I (op rd ra imm : Nat) : Nat := op*2^26+rd*2^21+ra*2^16+imm
def w1 : State := prog (I 1 3 1 65535) gz
def w2 : Tid := id0
def w3 : IsaFact := {}
def w4 : State := prog (I 2 3 1 65535) gz
def w5 : State := prog (I 3 3 1 65535) gz
def w6 : State := prog (I 4 3 1 65535) gz
def w7 : State := prog (I 5 3 1 479) gz
def w8 : State := prog (I 6 3 0 65535) gz
def w9 : State := prog (I 7 3 1 64512) gz
def w10 : State := prog (I 7 3 1 64513) gz
def w11 : State := prog (I 7 3 1 64514) gz

theorem test_met_ImmediateResults :
    /- clause 0 -/ ((Issues w1 w2 w3 IsaOp.addi (I 1 3 1 65535))) ∧
    /- clause 1 -/ ((Issues w4 w2 w3 IsaOp.andi (I 2 3 1 65535))) ∧
    /- clause 2 -/ ((Issues w5 w2 w3 IsaOp.ori (I 3 3 1 65535))) ∧
    /- clause 3 -/ ((Issues w6 w2 w3 IsaOp.xori (I 4 3 1 65535))) ∧
    /- clause 4 -/ ((Issues w7 w2 w3 IsaOp.shiftImm (I 5 3 1 479))) ∧
    /- clause 5 -/ ((Issues w8 w2 w3 IsaOp.lui (I 6 3 0 65535))) ∧
    /- clause 6 -/ ((Issues w9 w2 w3 IsaOp.extu (I 7 3 1 64512))) ∧
    /- clause 7 -/ ((Issues w10 w2 w3 IsaOp.exts (I 7 3 1 64513))) ∧
    /- clause 8 -/ (Issues w11 w2 w3 IsaOp.ins (I 7 3 1 64514)) := by
  and_intros <;> first
    | decide +kernel
    | exact issues_of (by decide +kernel)

end K10b

namespace K11

def id0 : Tid := ⟨3, 5, 2⟩
def gz : SMap (BitVec 64) := (List.range 31).map fun i => (i+1, BitVec.ofNat 64 (lcg (lcg (lcg (i+77)))))
def lm : SMap Byte := ((List.range 500).map (fun i => (29*2^15+0x2000+i, BitVec.ofNat 8 (i*7+1)))).filter (·.2 != 0)
def sm : SMap Byte := ((List.range 300).map (fun i => (3*2^19+i, BitVec.ofNat 8 (i*5+129)))).filter (·.2 != 0)
def prog (w : Nat) (g : SMap (BitVec 64)) : State :=
  let s := fs all [(CRS_SAMP_CFG_EN,0x30000,0),(CRS_TFLT_INFO_VALID,0x30000,0),(CRS_TEAM_CFG_WDOG,0x30000,9)]
  { s with istore := [(3*2^15+4, BitVec.ofNat 32 w)], lmem := lm, smem := sm, turns := [(29, {next := 1, step := 5})], threads := [(tidKey id0 - 1, {busy := true, wait := 9, pc := istoreBase}), (tidKey id0, {busy := true, wait := 7, pc := istoreBase + 16, steps := 9, frame := some {data := [1,2,3], exp := false}, g := g})] }
def R (op rd ra rb w fn : Nat) : Nat := op*2^26+rd*2^21+ra*2^16+rb*2^11+w*2^10+fn
def I (op rd ra imm : Nat) : Nat := op*2^26+rd*2^21+ra*2^16+imm
def g2 (l : List (Nat × Nat)) : SMap (BitVec 64) := l.map fun e => (e.1, BitVec.ofNat 64 e.2)
def w1 : State := prog (I 8 3 1 65535) (g2 [(1,1572864),(3,18446744073709551615)])
def w2 : Tid := id0
def w3 : IsaFact := {lat := 7}
def w4 : Nat × Nat := (1,524287)
def w5 : State := prog (I 10 3 1 65532) (g2 [(1,1572864),(3,18446744073709551615)])
def w6 : Nat × Nat := (1,524284)
def w7 : State := prog (I 12 3 1 65535) (g2 [(1,1572864),(3,18446744073709551615)])
def w8 : State := prog (I 14 3 1 65532) (g2 [(1,1572864),(3,18446744073709551615)])
def w9 : State := prog (I 22 3 1 65528) (g2 [(1,1572864),(3,18446744073709551615)])
def w10 : Nat × Nat := (1,524280)
def w11 : State := prog (I 16 3 1 65535) (g2 [(1,1572864),(3,18364758544493064720)])
def w12 : State := prog (I 17 3 1 4094) (g2 [(1,0),(3,18364758544493064720)])
def w13 : Nat × Nat := (0,12286)
def w14 : State := prog (I 17 3 1 65534) (g2 [(1,1572864),(3,18364758544493064720)])
def w15 : Nat × Nat := (1,524286)
def w16 : State := prog (I 18 3 1 65532) (g2 [(1,1572864),(3,18364758544493064720)])
def w17 : State := prog (I 19 3 1 65528) (g2 [(1,1572864),(3,18364758544493064720)])
def w18 : State := prog (I 24 3 1 4094) (g2 [(1,0),(3,18364758544493064720)])
def w19 : State := prog (I 24 3 1 65534) (g2 [(1,1572864),(3,18364758544493064720)])
def w20 : State := prog (I 25 3 1 65532) (g2 [(1,1572864),(3,18364758544493064720)])
def w21 : State := prog (I 26 3 1 65528) (g2 [(1,1572864),(3,18364758544493064720)])
def w22 : State := prog (R 0x1C 3 1 2 0 0) (g2 [(1,1048832),(2,18446744073709551615),(3,0xC4BFBAB5B0ABA6A1)])
def w23 : State := prog (R 0x1C 3 1 2 0 2) (g2 [(1,1048832),(2,18446744073709551615),(3,0xC4BFBAB5B0ABA6A1)])
def w24 : State := prog (I 33 3 1 32768) (g2 [(1,1),(3,1)])
def w25 : State := prog (I 34 3 1 32768) (g2 [(1,9223372036854775807),(3,9223372036854775808)])
def w26 : State := prog (I 36 3 1 32768) (g2 [(1,18446744073709551615),(3,0)])
def w27 : State := prog (I 37 3 1 32768) (g2 [(1,9223372036854775807),(3,9223372036854775808)])
def w28 : State := prog (R 0x30 0 0 0 0 2) gz
def w29 : State := prog (R 0x30 0 0 0 0 4) gz
def w30 : State := prog (R 0x30 0 0 0 0 3) gz
def w31 : State := prog (R 0x30 0 0 19 0 5) gz
def w32 : State := prog (I 0x0A 3 1 0) (g2 [(1,50331644),(3,9)])
noncomputable def w33 : State := getN (exec (.registerRead (.team 3) 33554428 .answers) (((prog (I 0x0A 3 1 0) (g2 [(1,50331644),(3,9)]))).issued (tidKey id0)))
def w34 : State := prog (I 12 3 1 0) (g2 [(1,327680),(3,9)])
def w35 : State := prog (I 14 3 1 0) (g2 [(1,327680),(3,9)])
def w36 : State := prog (I 25 3 1 0) (g2 [(1,327680),(3,9)])
def w37 : State := prog (R 0x1C 3 1 2 0 1) (g2 [(1,18446744073709551608),(3,9)])
def w38 : State := prog 0xFFFFFFFF gz
def w39 : Tid := id0
def w40 : State := {(prog 0xFFFFFFFF gz) with threads := [(tidKey id0,{busy := true, pc := 0x12345678})]}

theorem test_met_LoadResults :
    /- clause 0 -/ ((Issues w1 w2 w3 IsaOp.lb (I 8 3 1 65535)) ∧
    (thrArea (tidKey w2) (loadAddr w1 w2 (I 8 3 1 65535)) 1 = some w4)) ∧
    /- clause 2 -/ ((Issues w5 w2 w3 IsaOp.lw (I 10 3 1 65532)) ∧
    (thrArea (tidKey w2) (loadAddr w5 w2 (I 10 3 1 65532)) 4 = some w6)) ∧
    /- clause 4 -/ ((Issues w7 w2 w3 IsaOp.lbs (I 12 3 1 65535)) ∧
    (thrArea (tidKey w2) (loadAddr w7 w2 (I 12 3 1 65535)) 1 = some w4)) ∧
    /- clause 6 -/ ((Issues w8 w2 w3 IsaOp.lws (I 14 3 1 65532)) ∧
    (thrArea (tidKey w2) (loadAddr w8 w2 (I 14 3 1 65532)) 4 = some w6)) ∧
    /- clause 9 -/ (Issues w9 w2 w3 IsaOp.ldbe (I 22 3 1 65528)) ∧
    (thrArea (tidKey w2) (loadAddr w9 w2 (I 22 3 1 65528)) 8 = some w10) := ⟨⟨issues_of (by decide +kernel), by decide +kernel⟩,
   ⟨issues_of (by decide +kernel), by decide +kernel⟩,
   ⟨issues_of (by decide +kernel), by decide +kernel⟩,
   ⟨issues_of (by decide +kernel), by decide +kernel⟩,
   issues_of (by decide +kernel),
   by decide +kernel⟩

theorem test_met_StoreResults :
    /- clause 0 -/ ((Issues w11 w2 w3 IsaOp.sb (I 16 3 1 65535)) ∧
    (thrArea (tidKey w2) (loadAddr w11 w2 (I 16 3 1 65535)) 1 = some w4) ∧ (w4.1 ≠ 2) ∧ (w4.1 = 1)) ∧
    /- clause 1 -/ ((Issues w12 w2 w3 IsaOp.sh (I 17 3 1 4094)) ∧
    (Issues w14 w2 w3 IsaOp.sh (I 17 3 1 65534)) ∧
    (thrArea (tidKey w2) (loadAddr w12 w2 (I 17 3 1 4094)) 2 = some w13) ∧ (w13.1 ≠ 2) ∧ (w13.1 = 0) ∧ (thrArea (tidKey w2) (loadAddr w14 w2 (I 17 3 1 65534)) 2 = some w15) ∧ (w15.1 ≠ 2) ∧ (w15.1 = 1)) ∧
    /- clause 2 -/ ((Issues w16 w2 w3 IsaOp.sw (I 18 3 1 65532)) ∧
    (thrArea (tidKey w2) (loadAddr w16 w2 (I 18 3 1 65532)) 4 = some w6) ∧ (w6.1 ≠ 2) ∧ (w6.1 = 1)) ∧
    /- clause 3 -/ ((Issues w17 w2 w3 IsaOp.sd (I 19 3 1 65528)) ∧
    (thrArea (tidKey w2) (loadAddr w17 w2 (I 19 3 1 65528)) 8 = some w10) ∧ (w10.1 ≠ 2) ∧ (w10.1 = 1)) ∧
    /- clause 4 -/ ((Issues w18 w2 w3 IsaOp.shbe (I 24 3 1 4094)) ∧
    (Issues w19 w2 w3 IsaOp.shbe (I 24 3 1 65534)) ∧
    (thrArea (tidKey w2) (loadAddr w18 w2 (I 24 3 1 4094)) 2 = some w13) ∧ (w13.1 ≠ 2) ∧ (w13.1 = 0) ∧ (thrArea (tidKey w2) (loadAddr w19 w2 (I 24 3 1 65534)) 2 = some w15) ∧ (w15.1 ≠ 2) ∧ (w15.1 = 1)) ∧
    /- clause 5 -/ ((Issues w20 w2 w3 IsaOp.swbe (I 25 3 1 65532)) ∧
    (thrArea (tidKey w2) (loadAddr w20 w2 (I 25 3 1 65532)) 4 = some w6) ∧ (w6.1 ≠ 2) ∧ (w6.1 = 1)) ∧
    /- clause 6 -/ (Issues w21 w2 w3 IsaOp.sdbe (I 26 3 1 65528)) ∧
    (thrArea (tidKey w2) (loadAddr w21 w2 (I 26 3 1 65528)) 8 = some w10) ∧ (w10.1 ≠ 2) ∧ (w10.1 = 1) := by
  and_intros <;> first
    | decide +kernel
    | exact issues_of (by decide +kernel)

theorem test_met_AtomicResults :
    /- clause 0 -/ ((Issues w22 w2 w3 IsaOp.amoAdd (R 28 3 1 2 0 0)) ∧
    ((w22.g (tidKey w2) (isaRa (R 28 3 1 2 0 0))).toNat = 1048576 + 256) ∧ (256 + 8 ≤ 524288) ∧ (256 % 8 = 0)) ∧
    /- clause 2 -/ (Issues w23 w2 w3 IsaOp.amoCas (R 28 3 1 2 0 2)) ∧
    ((w23.g (tidKey w2) (isaRa (R 28 3 1 2 0 2))).toNat = 1048576 + 256) ∧ (256 + 8 ≤ 524288) ∧ (256 % 8 = 0) := ⟨⟨issues_of (by decide +kernel), by decide +kernel⟩,
   issues_of (by decide +kernel),
   by decide +kernel⟩

theorem test_met_BranchResults :
    /- clause 1 -/ ((Issues w24 w2 w3 IsaOp.bne (I 33 3 1 32768)) ∧
    (¬(fun x y => x ≠ y) (w24.g (tidKey w2) (isaRd (I 33 3 1 32768))) (w24.g (tidKey w2) (isaRa (I 33 3 1 32768))))) ∧
    /- clause 2 -/ ((Issues w25 w2 w3 IsaOp.blt (I 34 3 1 32768)) ∧
    ((fun x y => x.toInt < y.toInt) (w25.g (tidKey w2) (isaRd (I 34 3 1 32768))) (w25.g (tidKey w2) (isaRa (I 34 3 1 32768))))) ∧
    /- clause 4 -/ ((Issues w26 w2 w3 IsaOp.bltu (I 36 3 1 32768)) ∧
    ((fun x y => x.toNat < y.toNat) (w26.g (tidKey w2) (isaRd (I 36 3 1 32768))) (w26.g (tidKey w2) (isaRa (I 36 3 1 32768))))) ∧
    /- clause 5 -/ (Issues w27 w2 w3 IsaOp.bgeu (I 37 3 1 32768)) ∧
    ((fun x y => y.toNat ≤ x.toNat) (w27.g (tidKey w2) (isaRd (I 37 3 1 32768))) (w27.g (tidKey w2) (isaRa (I 37 3 1 32768)))) := ⟨⟨issues_of (by decide +kernel), by decide +kernel⟩,
   ⟨issues_of (by decide +kernel), by decide +kernel⟩,
   ⟨issues_of (by decide +kernel), by decide +kernel⟩,
   issues_of (by decide +kernel),
   by decide +kernel⟩

theorem test_met_SystemResults :
    /- clause 4 -/ ((Issues w28 w2 w3 IsaOp.yield (R 48 0 0 0 0 2))) ∧
    /- clause 5 -/ ((Issues w29 w2 w3 IsaOp.fence (R 48 0 0 0 0 4))) ∧
    /- clause 6 -/ ((Issues w30 w2 w3 IsaOp.done (R 48 0 0 0 0 3))) ∧
    /- clause 7 -/ (Issues w31 w2 w3 IsaOp.trap (R 48 0 0 19 0 5)) ∧
    ((w31.thread (tidKey w2)).init = false) ∧ (w31.flag CRS_TFLT_INFO_VALID (65536 * ↑w2.team) = false) := ⟨issues_of (by decide +kernel),
   issues_of (by decide +kernel),
   issues_of (by decide +kernel),
   issues_of (by decide +kernel),
   by decide +kernel⟩

theorem test_met_AddressMap :
    /- clause 0 -/ ((Issues w32 w2 w3 IsaOp.lw (I 10 3 1 0)) ∧
    (exec (Instr.registerRead (Req.team w2.team) (loadAddr w32 w2 (I 10 3 1 0) - 16777216) (if w3.silent = true then ReadFact.silent else ReadFact.answers)) (w32.issued (tidKey w2)) = Host.Outcome.next w33) ∧
    (inWindow (loadAddr w32 w2 (I 10 3 1 0)) = true) ∧ (w33.flag CRS_SAMP_CFG_EN (65536 * ↑w2.team) = false)) ∧
    /- clause 6 -/ ((Issues w34 w2 w3 IsaOp.lbs (I 12 3 1 0)) ∧
    (FaultClear w34 w2) ∧
    (false = true → inWindow (loadAddr w34 w2 (I 12 3 1 0)) = false) ∧ (thrArea (tidKey w2) (loadAddr w34 w2 (I 12 3 1 0)) 1 = none ∨ false = true ∧ Option.map Prod.fst (thrArea (tidKey w2) (loadAddr w34 w2 (I 12 3 1 0)) 1) = some 2)) ∧
    /- clause 8 -/ ((Issues w35 w2 w3 IsaOp.lws (I 14 3 1 0)) ∧
    (FaultClear w35 w2) ∧
    (false = true → inWindow (loadAddr w35 w2 (I 14 3 1 0)) = false) ∧ (thrArea (tidKey w2) (loadAddr w35 w2 (I 14 3 1 0)) 4 = none ∨ false = true ∧ Option.map Prod.fst (thrArea (tidKey w2) (loadAddr w35 w2 (I 14 3 1 0)) 4) = some 2)) ∧
    /- clause 17 -/ ((Issues w36 w2 w3 IsaOp.swbe (I 25 3 1 0)) ∧
    (FaultClear w36 w2) ∧
    (false = true → inWindow (loadAddr w36 w2 (I 25 3 1 0)) = false) ∧ (thrArea (tidKey w2) (loadAddr w36 w2 (I 25 3 1 0)) 4 = none ∨ true = true ∧ Option.map Prod.fst (thrArea (tidKey w2) (loadAddr w36 w2 (I 25 3 1 0)) 4) = some 2)) ∧
    /- clause 20 -/ ((Issues w37 w2 w3 IsaOp.amoSwap (R 28 3 1 2 0 1)) ∧
    (FaultClear w37 w2) ∧
    ((w37.g (tidKey w2) (isaRa (R 28 3 1 2 0 1))).toNat = 18446744073709551608) ∧ (18446744073709551608 < 1048576 ∨ 1572864 < 18446744073709551608 + 8 ∨ 18446744073709551608 % 8 ≠ 0)) ∧
    /- clause 22 -/ ((FaultClear w38 w39) ∧
    ((w38.thread (tidKey w39)).busy = true) ∧ (w38.turnOf (tidKey w39 / 8) = some (tidKey w39 % 8)) ∧ (w38.regionUp 2 = true) ∧ (w38.groupHeld (64 + 2 * ↑w39.team) = false) ∧ (w38.groupHeld (65 + 2 * ↑w39.team) = false) ∧ (istoreBase ≤ (w38.thread (tidKey w39)).pc) ∧ ((w38.thread (tidKey w39)).pc < istoreBase + istoreSize) ∧ (isaDecode (BitVec.toNat (w38.istoreWord (↑w39.team) (w38.threadIndex (tidKey w39)))) = none) ∧ (w38.wdogDue (tidKey w39) = false) ∧ (w38.budgetDue (tidKey w39) = false) ∧ (w38.flag CRS_SAMP_CFG_EN (65536 * ↑w39.team) = false)) ∧
    /- clause 23 -/ (FaultClear w40 w39) ∧
    ((w40.thread (tidKey w39)).busy = true) ∧ (w40.turnOf (tidKey w39 / 8) = some (tidKey w39 % 8)) ∧ (w40.regionUp 2 = true) ∧ (w40.groupHeld (64 + 2 * ↑w39.team) = false) ∧ (w40.groupHeld (65 + 2 * ↑w39.team) = false) ∧ ((w40.thread (tidKey w39)).pc < istoreBase ∨ istoreBase + istoreSize ≤ (w40.thread (tidKey w39)).pc) := by
  and_intros <;> first
    | decide +kernel
    | exact issues_of (by decide +kernel)
    | exact getN_eq (by decide +kernel)
    | exact faultClear_of (by decide +kernel)

end K11

namespace K11s

def id0 : Tid := ⟨3, 5, 2⟩
def gz : SMap (BitVec 64) := (List.range 31).map fun i => (i+1, BitVec.ofNat 64 (lcg (lcg (lcg (i+77)))))
def lm : SMap Byte := ((List.range 500).map (fun i => (29*2^15+0x2000+i, BitVec.ofNat 8 (i*7+1)))).filter (·.2 != 0)
def sm : SMap Byte := ((List.range 300).map (fun i => (3*2^19+i, BitVec.ofNat 8 (i*5+129)))).filter (·.2 != 0)
def prog (w : Nat) (g : SMap (BitVec 64)) : State :=
  let s := fs all [(CRS_SAMP_CFG_EN,0x30000,0),(CRS_TFLT_INFO_VALID,0x30000,0),(CRS_TEAM_CFG_WDOG,0x30000,9)]
  { s with istore := [(3*2^15+4, BitVec.ofNat 32 w)], lmem := lm, smem := sm, turns := [(29, {next := 1, step := 5})], threads := [(tidKey id0 - 1, {busy := true, wait := 9, pc := istoreBase}), (tidKey id0, {busy := true, wait := 7, pc := istoreBase + 16, steps := 9, frame := some {data := [1,2,3], exp := false}, g := g})] }
def R (op rd ra rb w fn : Nat) : Nat := op*2^26+rd*2^21+ra*2^16+rb*2^11+w*2^10+fn
def I (op rd ra imm : Nat) : Nat := op*2^26+rd*2^21+ra*2^16+imm
def g2 (l : List (Nat × Nat)) : SMap (BitVec 64) := l.map fun e => (e.1, BitVec.ofNat 64 e.2)
def two (a b : Bool) (n wa wb : Nat) : State := { turns := [(29, {next := n, expNext := 1, step := 5})], threads := [(8*29+1, {busy := true, wait := wa, frame := some {exp := a}}), (8*29+5, {busy := true, wait := wb, frame := some {exp := b}})] }
def w1 : State := prog (I 9 3 1 4094) (g2 [(1,0),(3,18446744073709551615)])
def w2 : Tid := id0
def w3 : IsaFact := {}
def w4 : Nat × Nat := (0,12286)
def w5 : State := prog (I 11 3 1 16) (g2 [(1,2097152),(3,18446744073709551615)])
def w6 : Nat × Nat := (2,16)
def w7 : State := prog (I 13 3 1 65535) (g2 [(1,1048593),(3,18446744073709551615)])
def w8 : Nat × Nat := (1,16)
def w9 : State := prog (I 20 3 1 3) (g2 [(1,73733),(3,18446744073709551615)])
def w10 : Nat × Nat := (0,8200)
def w11 : State := prog (I 21 3 1 65532) (g2 [(1,1572864),(3,18446744073709551615)])
def w12 : Nat × Nat := (1,524284)
def w13 : State := prog (I 16 3 1 398) (g2 [(1,0),(3,18364758544493064720)])
def w14 : Nat × Nat := (0,8590)
def w15 : State := prog (I 18 3 1 3) (g2 [(1,73733),(3,18364758544493064720)])
def w16 : State := prog (I 19 3 1 398) (g2 [(1,0),(3,18364758544493064720)])
def w17 : State := prog (I 25 3 1 3) (g2 [(1,73733),(3,18364758544493064720)])
def w18 : State := prog (I 26 3 1 398) (g2 [(1,0),(3,18364758544493064720)])
def w19 : State := prog (R 0x1C 3 1 2 0 1) (g2 [(1,1048584),(2,77),(3,18364758544493064720)])
def w20 : State := prog (I 32 3 1 1) (g2 [(1,1),(3,1)])
def w21 : State := prog (I 32 3 1 1) (g2 [(1,9223372036854775807),(3,9223372036854775808)])
def w22 : State := prog (I 33 3 1 1) (g2 [(1,0),(3,18446744073709551615)])
def w23 : State := prog (I 34 3 1 1) (g2 [(1,18446744073709551615),(3,0)])
def w24 : State := prog (I 35 3 1 1) (g2 [(1,1),(3,1)])
def w25 : State := prog (I 35 3 1 1) (g2 [(1,9223372036854775807),(3,9223372036854775808)])
def w26 : State := prog (I 36 3 1 1) (g2 [(1,0),(3,18446744073709551615)])
def w27 : State := prog (I 37 3 1 1) (g2 [(1,18446744073709551615),(3,0)])
def w28 : State := prog (40*2^26+1) gz
def w29 : State := prog (I 41 3 1 32768) gz
def w30 : State := prog (R 0x30 3 0 6 0 0) gz
def w31 : State := prog (I 0x12 3 1 4096) (g2 [(1,17825792),(3,0x1234567)])
noncomputable def w32 : State := getN (exec (.registerWrite (.team 3) 1052672 0x1234567 false) (((prog (I 0x12 3 1 4096) (g2 [(1,17825792),(3,0x1234567)]))).issued (tidKey id0)))
def w33 : State := prog (I 8 3 1 0) (g2 [(1,1572864),(3,9)])
def w34 : State := prog (I 9 3 1 0) (g2 [(1,2228223),(3,9)])
def w35 : State := prog (I 10 3 1 0) (g2 [(1,16777218),(3,9)])
def w36 : State := prog (I 11 3 1 0) (g2 [(1,18446744073709551615),(3,9)])
def w37 : State := prog (I 13 3 1 0) (g2 [(1,327680),(3,9)])
def w38 : State := prog (I 20 3 1 0) (g2 [(1,4095),(3,9)])
def w39 : State := prog (I 21 3 1 0) (g2 [(1,98301),(3,9)])
def w40 : State := prog (I 22 3 1 0) (g2 [(1,1572857),(3,9)])
def w41 : State := prog (I 16 3 1 0) (g2 [(1,2228224),(3,9)])
def w42 : State := prog (I 17 3 1 0) (g2 [(1,16777216),(3,9)])
def w43 : State := prog (I 18 3 1 0) (g2 [(1,18446744073709551615),(3,9)])
def w44 : State := prog (I 19 3 1 0) (g2 [(1,2097152),(3,9)])
def w45 : State := prog (I 24 3 1 0) (g2 [(1,327680),(3,9)])
def w46 : State := prog (I 26 3 1 0) (g2 [(1,4089),(3,9)])
def w47 : State := prog (R 0x1C 3 1 2 0 0) (g2 [(1,1048568),(3,9)])
def w48 : State := prog (R 0x1C 3 1 2 0 2) (g2 [(1,1048577),(3,9)])
def w49 : State := two false false 2 4 9
def w50 : State := two false false 2 4 3
def w51 : State := ({} : State)
def w52 : Tid := ⟨3, 5, 1⟩

theorem test_met_LoadResults_t11s :
    /- clause 1 -/ ((Issues w1 w2 w3 IsaOp.lh (I 9 3 1 4094)) ∧
    (thrArea (tidKey w2) (loadAddr w1 w2 (I 9 3 1 4094)) 2 = some w4)) ∧
    /- clause 3 -/ ((Issues w5 w2 w3 IsaOp.ld (I 11 3 1 16)) ∧
    (thrArea (tidKey w2) (loadAddr w5 w2 (I 11 3 1 16)) 8 = some w6)) ∧
    /- clause 5 -/ ((Issues w7 w2 w3 IsaOp.lhs (I 13 3 1 65535)) ∧
    (thrArea (tidKey w2) (loadAddr w7 w2 (I 13 3 1 65535)) 2 = some w8)) ∧
    /- clause 7 -/ ((Issues w9 w2 w3 IsaOp.lhbe (I 20 3 1 3)) ∧
    (thrArea (tidKey w2) (loadAddr w9 w2 (I 20 3 1 3)) 2 = some w10)) ∧
    /- clause 8 -/ (Issues w11 w2 w3 IsaOp.lwbe (I 21 3 1 65532)) ∧
    (thrArea (tidKey w2) (loadAddr w11 w2 (I 21 3 1 65532)) 4 = some w12) := ⟨⟨issues_of (by decide +kernel), by decide +kernel⟩,
   ⟨issues_of (by decide +kernel), by decide +kernel⟩,
   ⟨issues_of (by decide +kernel), by decide +kernel⟩,
   ⟨issues_of (by decide +kernel), by decide +kernel⟩,
   issues_of (by decide +kernel),
   by decide +kernel⟩

theorem test_met_StoreResults_t11s :
    /- clause 0 -/ ((Issues w13 w2 w3 IsaOp.sb (I 16 3 1 398)) ∧
    (thrArea (tidKey w2) (loadAddr w13 w2 (I 16 3 1 398)) 1 = some w14) ∧ (w14.1 ≠ 2) ∧ (w14.1 = 0)) ∧
    /- clause 2 -/ ((Issues w15 w2 w3 IsaOp.sw (I 18 3 1 3)) ∧
    (thrArea (tidKey w2) (loadAddr w15 w2 (I 18 3 1 3)) 4 = some w10) ∧ (w10.1 ≠ 2) ∧ (w10.1 = 0)) ∧
    /- clause 3 -/ ((Issues w16 w2 w3 IsaOp.sd (I 19 3 1 398)) ∧
    (thrArea (tidKey w2) (loadAddr w16 w2 (I 19 3 1 398)) 8 = some w14) ∧ (w14.1 ≠ 2) ∧ (w14.1 = 0)) ∧
    /- clause 5 -/ ((Issues w17 w2 w3 IsaOp.swbe (I 25 3 1 3)) ∧
    (thrArea (tidKey w2) (loadAddr w17 w2 (I 25 3 1 3)) 4 = some w10) ∧ (w10.1 ≠ 2) ∧ (w10.1 = 0)) ∧
    /- clause 6 -/ (Issues w18 w2 w3 IsaOp.sdbe (I 26 3 1 398)) ∧
    (thrArea (tidKey w2) (loadAddr w18 w2 (I 26 3 1 398)) 8 = some w14) ∧ (w14.1 ≠ 2) ∧ (w14.1 = 0) := ⟨⟨issues_of (by decide +kernel), by decide +kernel⟩,
   ⟨issues_of (by decide +kernel), by decide +kernel⟩,
   ⟨issues_of (by decide +kernel), by decide +kernel⟩,
   ⟨issues_of (by decide +kernel), by decide +kernel⟩,
   issues_of (by decide +kernel),
   by decide +kernel⟩

theorem test_met_AtomicResults_t11s :
    /- clause 1 -/ (Issues w19 w2 w3 IsaOp.amoSwap (R 28 3 1 2 0 1)) ∧
    ((w19.g (tidKey w2) (isaRa (R 28 3 1 2 0 1))).toNat = 1048576 + 8) ∧ (8 + 8 ≤ 524288) ∧ (8 % 8 = 0) := ⟨issues_of (by decide +kernel),
   by decide +kernel⟩

theorem test_met_BranchResults_t11s :
    /- clause 0 -/ ((Issues w20 w2 w3 IsaOp.beq (I 32 3 1 1)) ∧
    (Issues w21 w2 w3 IsaOp.beq (I 32 3 1 1)) ∧
    ((fun x y => x = y) (w20.g (tidKey w2) (isaRd (I 32 3 1 1))) (w20.g (tidKey w2) (isaRa (I 32 3 1 1)))) ∧ (¬(fun x y => x = y) (w21.g (tidKey w2) (isaRd (I 32 3 1 1))) (w21.g (tidKey w2) (isaRa (I 32 3 1 1))))) ∧
    /- clause 1 -/ ((Issues w22 w2 w3 IsaOp.bne (I 33 3 1 1)) ∧
    ((fun x y => x ≠ y) (w22.g (tidKey w2) (isaRd (I 33 3 1 1))) (w22.g (tidKey w2) (isaRa (I 33 3 1 1))))) ∧
    /- clause 2 -/ ((Issues w23 w2 w3 IsaOp.blt (I 34 3 1 1)) ∧
    (¬(fun x y => x.toInt < y.toInt) (w23.g (tidKey w2) (isaRd (I 34 3 1 1))) (w23.g (tidKey w2) (isaRa (I 34 3 1 1))))) ∧
    /- clause 3 -/ ((Issues w24 w2 w3 IsaOp.bge (I 35 3 1 1)) ∧
    (Issues w25 w2 w3 IsaOp.bge (I 35 3 1 1)) ∧
    ((fun x y => y.toInt ≤ x.toInt) (w24.g (tidKey w2) (isaRd (I 35 3 1 1))) (w24.g (tidKey w2) (isaRa (I 35 3 1 1)))) ∧ (¬(fun x y => y.toInt ≤ x.toInt) (w25.g (tidKey w2) (isaRd (I 35 3 1 1))) (w25.g (tidKey w2) (isaRa (I 35 3 1 1))))) ∧
    /- clause 4 -/ ((Issues w26 w2 w3 IsaOp.bltu (I 36 3 1 1)) ∧
    (¬(fun x y => x.toNat < y.toNat) (w26.g (tidKey w2) (isaRd (I 36 3 1 1))) (w26.g (tidKey w2) (isaRa (I 36 3 1 1))))) ∧
    /- clause 5 -/ ((Issues w27 w2 w3 IsaOp.bgeu (I 37 3 1 1)) ∧
    (¬(fun x y => y.toNat ≤ x.toNat) (w27.g (tidKey w2) (isaRd (I 37 3 1 1))) (w27.g (tidKey w2) (isaRa (I 37 3 1 1))))) ∧
    /- clause 6 -/ ((Issues w28 w2 w3 IsaOp.jal (40 * 2 ^ 26 + 1))) ∧
    /- clause 7 -/ (Issues w29 w2 w3 IsaOp.jalr (I 41 3 1 32768)) := by
  and_intros <;> first
    | decide +kernel
    | exact issues_of (by decide +kernel)

theorem test_met_SystemResults_t11s :
    /- clause 3 -/ ((Issues w30 w2 w3 IsaOp.srd (R 48 3 0 6 0 0))) ∧
    /- clause 0 -/ ((∃ n < 8, w49.threadRuns 29 n = true)) ∧
    /- clause 1 -/ ((w50.turnOf 29 = some 5)) ∧
    /- clause 2 -/ (w51.turnOf (tidKey w52 / 8) ≠ some (tidKey w52 % 8)) := ⟨issues_of (by decide +kernel),
   by decide +kernel,
   by decide +kernel,
   by decide +kernel⟩

theorem test_met_AddressMap_t11s :
    /- clause 1 -/ ((Issues w31 w2 w3 IsaOp.sw (I 18 3 1 4096)) ∧
    (exec (Instr.registerWrite (Req.team w2.team) (loadAddr w31 w2 (I 18 3 1 4096) - 16777216) (BitVec.setWidth 32 (w31.g (tidKey w2) (isaRd (I 18 3 1 4096)))) w3.silent) (w31.issued (tidKey w2)) = Host.Outcome.next w32) ∧
    (inWindow (loadAddr w31 w2 (I 18 3 1 4096)) = true) ∧ (w32.flag CRS_SAMP_CFG_EN (65536 * ↑w2.team) = false)) ∧
    /- clause 2 -/ ((Issues w33 w2 w3 IsaOp.lb (I 8 3 1 0)) ∧
    (FaultClear w33 w2) ∧
    (false = true → inWindow (loadAddr w33 w2 (I 8 3 1 0)) = false) ∧ (thrArea (tidKey w2) (loadAddr w33 w2 (I 8 3 1 0)) 1 = none ∨ false = true ∧ Option.map Prod.fst (thrArea (tidKey w2) (loadAddr w33 w2 (I 8 3 1 0)) 1) = some 2)) ∧
    /- clause 3 -/ ((Issues w34 w2 w3 IsaOp.lh (I 9 3 1 0)) ∧
    (FaultClear w34 w2) ∧
    (false = true → inWindow (loadAddr w34 w2 (I 9 3 1 0)) = false) ∧ (thrArea (tidKey w2) (loadAddr w34 w2 (I 9 3 1 0)) 2 = none ∨ false = true ∧ Option.map Prod.fst (thrArea (tidKey w2) (loadAddr w34 w2 (I 9 3 1 0)) 2) = some 2)) ∧
    /- clause 4 -/ ((Issues w35 w2 w3 IsaOp.lw (I 10 3 1 0)) ∧
    (FaultClear w35 w2) ∧
    (true = true → inWindow (loadAddr w35 w2 (I 10 3 1 0)) = false) ∧ (thrArea (tidKey w2) (loadAddr w35 w2 (I 10 3 1 0)) 4 = none ∨ false = true ∧ Option.map Prod.fst (thrArea (tidKey w2) (loadAddr w35 w2 (I 10 3 1 0)) 4) = some 2)) ∧
    /- clause 5 -/ ((Issues w36 w2 w3 IsaOp.ld (I 11 3 1 0)) ∧
    (FaultClear w36 w2) ∧
    (false = true → inWindow (loadAddr w36 w2 (I 11 3 1 0)) = false) ∧ (thrArea (tidKey w2) (loadAddr w36 w2 (I 11 3 1 0)) 8 = none ∨ false = true ∧ Option.map Prod.fst (thrArea (tidKey w2) (loadAddr w36 w2 (I 11 3 1 0)) 8) = some 2)) ∧
    /- clause 7 -/ ((Issues w37 w2 w3 IsaOp.lhs (I 13 3 1 0)) ∧
    (FaultClear w37 w2) ∧
    (false = true → inWindow (loadAddr w37 w2 (I 13 3 1 0)) = false) ∧ (thrArea (tidKey w2) (loadAddr w37 w2 (I 13 3 1 0)) 2 = none ∨ false = true ∧ Option.map Prod.fst (thrArea (tidKey w2) (loadAddr w37 w2 (I 13 3 1 0)) 2) = some 2)) ∧
    /- clause 9 -/ ((Issues w38 w2 w3 IsaOp.lhbe (I 20 3 1 0)) ∧
    (FaultClear w38 w2) ∧
    (false = true → inWindow (loadAddr w38 w2 (I 20 3 1 0)) = false) ∧ (thrArea (tidKey w2) (loadAddr w38 w2 (I 20 3 1 0)) 2 = none ∨ false = true ∧ Option.map Prod.fst (thrArea (tidKey w2) (loadAddr w38 w2 (I 20 3 1 0)) 2) = some 2)) ∧
    /- clause 10 -/ ((Issues w39 w2 w3 IsaOp.lwbe (I 21 3 1 0)) ∧
    (FaultClear w39 w2) ∧
    (false = true → inWindow (loadAddr w39 w2 (I 21 3 1 0)) = false) ∧ (thrArea (tidKey w2) (loadAddr w39 w2 (I 21 3 1 0)) 4 = none ∨ false = true ∧ Option.map Prod.fst (thrArea (tidKey w2) (loadAddr w39 w2 (I 21 3 1 0)) 4) = some 2)) ∧
    /- clause 11 -/ ((Issues w40 w2 w3 IsaOp.ldbe (I 22 3 1 0)) ∧
    (FaultClear w40 w2) ∧
    (false = true → inWindow (loadAddr w40 w2 (I 22 3 1 0)) = false) ∧ (thrArea (tidKey w2) (loadAddr w40 w2 (I 22 3 1 0)) 8 = none ∨ false = true ∧ Option.map Prod.fst (thrArea (tidKey w2) (loadAddr w40 w2 (I 22 3 1 0)) 8) = some 2)) ∧
    /- clause 12 -/ ((Issues w41 w2 w3 IsaOp.sb (I 16 3 1 0)) ∧
    (FaultClear w41 w2) ∧
    (false = true → inWindow (loadAddr w41 w2 (I 16 3 1 0)) = false) ∧ (thrArea (tidKey w2) (loadAddr w41 w2 (I 16 3 1 0)) 1 = none ∨ true = true ∧ Option.map Prod.fst (thrArea (tidKey w2) (loadAddr w41 w2 (I 16 3 1 0)) 1) = some 2)) ∧
    /- clause 13 -/ ((Issues w42 w2 w3 IsaOp.sh (I 17 3 1 0)) ∧
    (FaultClear w42 w2) ∧
    (false = true → inWindow (loadAddr w42 w2 (I 17 3 1 0)) = false) ∧ (thrArea (tidKey w2) (loadAddr w42 w2 (I 17 3 1 0)) 2 = none ∨ true = true ∧ Option.map Prod.fst (thrArea (tidKey w2) (loadAddr w42 w2 (I 17 3 1 0)) 2) = some 2)) ∧
    /- clause 14 -/ ((Issues w43 w2 w3 IsaOp.sw (I 18 3 1 0)) ∧
    (FaultClear w43 w2) ∧
    (true = true → inWindow (loadAddr w43 w2 (I 18 3 1 0)) = false) ∧ (thrArea (tidKey w2) (loadAddr w43 w2 (I 18 3 1 0)) 4 = none ∨ true = true ∧ Option.map Prod.fst (thrArea (tidKey w2) (loadAddr w43 w2 (I 18 3 1 0)) 4) = some 2)) ∧
    /- clause 15 -/ ((Issues w44 w2 w3 IsaOp.sd (I 19 3 1 0)) ∧
    (FaultClear w44 w2) ∧
    (false = true → inWindow (loadAddr w44 w2 (I 19 3 1 0)) = false) ∧ (thrArea (tidKey w2) (loadAddr w44 w2 (I 19 3 1 0)) 8 = none ∨ true = true ∧ Option.map Prod.fst (thrArea (tidKey w2) (loadAddr w44 w2 (I 19 3 1 0)) 8) = some 2)) ∧
    /- clause 16 -/ ((Issues w45 w2 w3 IsaOp.shbe (I 24 3 1 0)) ∧
    (FaultClear w45 w2) ∧
    (false = true → inWindow (loadAddr w45 w2 (I 24 3 1 0)) = false) ∧ (thrArea (tidKey w2) (loadAddr w45 w2 (I 24 3 1 0)) 2 = none ∨ true = true ∧ Option.map Prod.fst (thrArea (tidKey w2) (loadAddr w45 w2 (I 24 3 1 0)) 2) = some 2)) ∧
    /- clause 18 -/ ((Issues w46 w2 w3 IsaOp.sdbe (I 26 3 1 0)) ∧
    (FaultClear w46 w2) ∧
    (false = true → inWindow (loadAddr w46 w2 (I 26 3 1 0)) = false) ∧ (thrArea (tidKey w2) (loadAddr w46 w2 (I 26 3 1 0)) 8 = none ∨ true = true ∧ Option.map Prod.fst (thrArea (tidKey w2) (loadAddr w46 w2 (I 26 3 1 0)) 8) = some 2)) ∧
    /- clause 19 -/ ((Issues w47 w2 w3 IsaOp.amoAdd (R 28 3 1 2 0 0)) ∧
    (FaultClear w47 w2) ∧
    ((w47.g (tidKey w2) (isaRa (R 28 3 1 2 0 0))).toNat = 1048568) ∧ (1048568 < 1048576 ∨ 1572864 < 1048568 + 8 ∨ 1048568 % 8 ≠ 0)) ∧
    /- clause 21 -/ (Issues w48 w2 w3 IsaOp.amoCas (R 28 3 1 2 0 2)) ∧
    (FaultClear w48 w2) ∧
    ((w48.g (tidKey w2) (isaRa (R 28 3 1 2 0 2))).toNat = 1048577) ∧ (1048577 < 1048576 ∨ 1572864 < 1048577 + 8 ∨ 1048577 % 8 ≠ 0) := by
  and_intros <;> first
    | decide +kernel
    | exact issues_of (by decide +kernel)
    | exact getN_eq (by decide +kernel)
    | exact faultClear_of (by decide +kernel)

end K11s

namespace K12s

def id0 : Tid := ⟨3, 5, 2⟩
def K := tidKey id0
def lm : SMap Byte := ((List.range 500).map (fun i => (29*2^15+0x2000+i, BitVec.ofNat 8 (if i = 0x18C then 0x48 else if i = 0x18D then 0 else i*7+1)))).filter (·.2 != 0)
def sm : SMap Byte := ((List.range 300).map (fun i => (3*2^19+i, BitVec.ofNat 8 (i*5+129)))).filter (·.2 != 0)
def fr0 : Frame := {data := (List.range 700).map fun i => BitVec.ofNat 8 (i*3), src := 2, handle := 4, seq := 9, pass := 1}
def prog (w : Nat) (g : SMap (BitVec 64)) : State :=
  let s := fs all [(CRS_SAMP_CFG_EN,0x30000,0),(CRS_TFLT_INFO_VALID,0x30000,0),(CRS_TEAM_CFG_WDOG,0x30000,9)]
  { s with istore := [(3*2^15+4, BitVec.ofNat 32 w)], lmem := lm, smem := sm, turns := [(29, {next := 1, step := 5})], threads := [(tidKey id0 - 1, {busy := true, wait := 9, pc := istoreBase}), (tidKey id0, {busy := true, wait := 7, pc := istoreBase + 16, steps := 9, frame := some fr0, g := g})] }
def g2 (l : List (Nat × Nat)) : SMap (BitVec 64) := l.map fun e => (e.1, BitVec.ofNat 64 e.2)
def C (rd ra acc : Nat) : Nat := 0x3C*2^26+rd*2^21+ra*2^16+acc*256
def kk (s:State) : State := fs ({s with sec := {s.sec with keys := [(9,[1,2,3,4,5,6,7,8,9,10,11,12,13,14,15,16])]}}) [(SEC_SLOT_STATE,36,2),(SEC_ENT_STAT_FAIL,0,0)]
def full (s:State) : State := {s with sec := {s.sec with calls := (List.range 64).map fun i => {seq := i, thread := 700}}}
def c0 : CmacCall := { thread := K, word := C 5 8 8, slot := 9, padded := true, data := [1,2,3], seq := 77 }
def cs : State := let s := kk (prog (C 5 8 8) (g2 [(8,1048576),(9,16),(10,9)])); {s with sec := {s.sec with calls := [c0]}, threads := s.threads.map fun e => if e.1 = K then (e.1, {e.2 with call := some 77}) else e}
def w1 : State := kk (prog (C 5 8 8) (g2 [(8,1048592),(9,48),(10,9)]))
def w2 : Tid := id0
def w3 : IsaFact := {}
def w4 : Nat × Nat := (1,16)
def w5 : State := full (prog (C 5 8 8) (g2 [(8,1048592),(9,48),(10,9)]))
def w6 : State := cs
def w7 : CmacCall := c0
def w8 : State := prog (C 29 28 2) (g2 [(28,64),(29,1),(30,1099511627779),(31,3)])
def w9 : Nat × Nat := (0,0x2040)
def w10 : State := prog (C 8 8 4) (g2 [(8,262143),(9,5),(10,18446744073709551615)])
def w11 : State := prog (C 28 28 6) (g2 [(28,2)])
def w12 : State := prog (C 5 8 7) (g2 [(8,200),(9,300),(10,7)])
def w13 : Frame := fr0
def w14 : State := prog (C 0 8 8) (g2 [(8,1572863),(10,63)])
def w15 : State := ((fun (s:State) => rs s [(0xE60000+32*7,1),(0xE60000+32*5,0),(0xE60000+32*5+4,77),(0xE60000+32*5+8,99)]) (prog (C 5 8 3) (g2 [(8,7),(9,64),(10,2)])))
def w16 : State := ((fun (s:State) => fs s [(CLS_CFG_TC_EN,0,0),(CLS_CFG_EM_EN,0,0)]) (prog (C 5 8 1) (g2 [(8,1048576),(9,34)])))
def w17 : Nat × Nat := (1,0)
def w18 : State := prog (C 5 8 10) (g2 [(8,256),(9,1048576),(10,444)])
def w19 : Frame := fr0
def w20 : State := prog (C 5 8 10) (g2 [(8,300),(9,256),(10,200)])
def w21 : Nat × Nat := (0,0x2100)
def w22 : State := ((fun (s:State) => {s with threads := s.threads.map fun e => (e.1,{e.2 with copies := 16})}) (prog (C 5 8 5) (g2 [(8,327685),(9,7),(10,9),(11,3)])))
def w23 : State := prog (C 5 8 5) (g2 [(8,589829),(9,1099511627776),(10,9),(11,3)])

theorem test_met_CallValues :
    /- clause 6 -/ ((Issues w1 w2 w3 IsaOp.cmac (C 5 8 8)) ∧
    (Issues w5 w2 w3 IsaOp.cmac (C 5 8 8)) ∧
    (1 ≤ callArg w1 w2 (C 5 8 8) 1) ∧ (callArg w1 w2 (C 5 8 8) 1 % 16 = 0) ∧ (callArg w1 w2 (C 5 8 8) 2 < 64) ∧ (thrArea (tidKey w2) (callArg w1 w2 (C 5 8 8) 0) (callArg w1 w2 (C 5 8 8) 1) = some w4) ∧ (w4.1 = 1) ∧ (w1.cmacLoad < 64) ∧ (w1.flag SEC_ENT_STAT_FAIL = false) ∧ (w1.keyEmpty (callArg w1 w2 (C 5 8 8) 2) = false) ∧ (1 ≤ callArg w5 w2 (C 5 8 8) 1) ∧ (callArg w5 w2 (C 5 8 8) 1 % 16 = 0) ∧ (callArg w5 w2 (C 5 8 8) 2 < 64) ∧ (thrArea (tidKey w2) (callArg w5 w2 (C 5 8 8) 0) (callArg w5 w2 (C 5 8 8) 1) = some w4) ∧ (64 ≤ w5.cmacLoad)) ∧
    /- clause 7 -/ ((w6.sec.calls = [w7]) ∧ (w6.jobs = []) ∧ (w7.thread = tidKey w2) ∧ ((w6.thread (tidKey w2)).busy = true) ∧ ((w6.thread (tidKey w2)).call = some w7.seq) ∧ (w7.data ≠ []) ∧ (w6.flag SEC_ENT_STAT_FAIL = false) ∧ (w6.keyEmpty w7.slot = false)) ∧
    /- clause 0 -/ ((Issues w8 w2 w3 IsaOp.hash (C 29 28 2)) ∧
    (callArg w8 w2 (C 29 28 2) 1 = 1) ∧ (1 ≤ 1) ∧ (1 ≤ 64) ∧ (thrArea (tidKey w2) (callArg w8 w2 (C 29 28 2) 0) 1 = some w9)) ∧
    /- clause 2 -/ ((Issues w10 w2 w3 IsaOp.count (C 8 8 4)) ∧
    (callArg w10 w2 (C 8 8 4) 0 < 262144)) ∧
    /- clause 3 -/ ((Issues w11 w2 w3 IsaOp.time (C 28 28 6))) ∧
    /- clause 4 -/ ((Issues w12 w2 w3 IsaOp.csum (C 5 8 7)) ∧
    ((w12.thread (tidKey w2)).frame = some w13) ∧ (w12.badHead (tidKey w2) w13 = false) ∧ (callArg w12 w2 (C 5 8 7) 0 + callArg w12 w2 (C 5 8 7) 1 ≤ w13.data.length + 64 - w12.winStart (tidKey w2))) ∧
    /- clause 5 -/ ((Issues w14 w2 w3 IsaOp.cmac (C 0 8 8)) ∧
    (callArg w14 w2 (C 0 8 8) 1 = 0) ∧ (callArg w14 w2 (C 0 8 8) 2 < 64) ∧ (1048576 ≤ callArg w14 w2 (C 0 8 8) 0) ∧ (callArg w14 w2 (C 0 8 8) 0 < 1572864)) ∧
    /- clause 8 -/ ((Issues w15 w2 w3 IsaOp.police (C 5 8 3)) ∧
    (callArg w15 w2 (C 5 8 3) 0 < 4096) ∧ (callArg w15 w2 (C 5 8 3) 1 ≤ 65535) ∧ (callArg w15 w2 (C 5 8 3) 2 % 4 ≠ 3)) ∧
    /- clause 9 -/ (Issues w16 w2 w3 IsaOp.clsLookup (C 5 8 1)) ∧
    (thrArea (tidKey w2) (callArg w16 w2 (C 5 8 1) 0) 40 = some w17) ∧ (callArg w16 w2 (C 5 8 1) 1 % 8 ≤ 3) ∧ (callArg w16 w2 (C 5 8 1) 1 / 8 % 8 ≤ 4) ∧ (w16.flag CLS_CFG_TC_EN = false) ∧ (w16.flag CLS_CFG_EM_EN = false) ∧ (w3.tabUnc = []) := by
  and_intros <;> first
    | decide +kernel
    | exact issues_of (by decide +kernel)

theorem test_met_FrameCalls :
    /- clause 2 -/ ((Issues w18 w2 w3 IsaOp.frd (C 5 8 10)) ∧
    (Issues w20 w2 w3 IsaOp.frd (C 5 8 10)) ∧
    ((w18.thread (tidKey w2)).frame = some w19) ∧ (256 ≤ callArg w18 w2 (C 5 8 10) 0) ∧ (callArg w18 w2 (C 5 8 10) 2 ≤ 2048) ∧ (1 ≤ callArg w18 w2 (C 5 8 10) 2) ∧ (callArg w18 w2 (C 5 8 10) 0 + callArg w18 w2 (C 5 8 10) 2 ≤ w19.data.length) ∧ (thrArea (tidKey w2) (callArg w18 w2 (C 5 8 10) 1) (callArg w18 w2 (C 5 8 10) 2) = some w17) ∧ (w17.1 ≠ 2) ∧ (w17.1 = 1) ∧ ((w20.thread (tidKey w2)).frame = some w19) ∧ (256 ≤ callArg w20 w2 (C 5 8 10) 0) ∧ (callArg w20 w2 (C 5 8 10) 2 ≤ 2048) ∧ (1 ≤ callArg w20 w2 (C 5 8 10) 2) ∧ (callArg w20 w2 (C 5 8 10) 0 + callArg w20 w2 (C 5 8 10) 2 ≤ w19.data.length) ∧ (thrArea (tidKey w2) (callArg w20 w2 (C 5 8 10) 1) (callArg w20 w2 (C 5 8 10) 2) = some w21) ∧ (w21.1 ≠ 2) ∧ (w21.1 = 0)) ∧
    /- clause 4 -/ ((Issues w22 w2 w3 IsaOp.enq (C 5 8 5)) ∧
    ((w22.thread (tidKey w2)).frame = some w13) ∧ (w22.badHead (tidKey w2) w13 = false) ∧ (1 ≤ bitsOf (callArg w22 w2 (C 5 8 5) 0) 16 2) ∧ (bitsOf (callArg w22 w2 (C 5 8 5) 0) 0 12 < qsetCount (bitsOf (callArg w22 w2 (C 5 8 5) 0) 16 2)) ∧ (bitsOf (callArg w22 w2 (C 5 8 5) 0) 20 2 ≠ 3) ∧ (launchFar w22 (callArg w22 w2 (C 5 8 5) 0) (callArg w22 w2 (C 5 8 5) 1) = false)) ∧
    /- clause 5 -/ (Issues w23 w2 w3 IsaOp.enq (C 5 8 5)) ∧
    ((w23.thread (tidKey w2)).frame = some w13) ∧ (launchFar w23 (callArg w23 w2 (C 5 8 5) 0) (callArg w23 w2 (C 5 8 5) 1) = true) ∧ (1 ≤ bitsOf (callArg w23 w2 (C 5 8 5) 0) 16 2) ∧ (bitsOf (callArg w23 w2 (C 5 8 5) 0) 0 12 < qsetCount (bitsOf (callArg w23 w2 (C 5 8 5) 0) 16 2)) ∧ (bitsOf (callArg w23 w2 (C 5 8 5) 0) 20 2 ≠ 3) := ⟨⟨issues_of (by decide +kernel), issues_of (by decide +kernel), by decide +kernel⟩,
   ⟨issues_of (by decide +kernel), by decide +kernel⟩,
   issues_of (by decide +kernel),
   by decide +kernel⟩

end K12s

namespace K13

def n3 : Fin 16 := 3
def tsx (v : Nat) : State := fs all [(CRS_TEAM_STAT_STATE,0x30000,v),(CRS_TFLT_INFO_VALID,0x30000,0),(CRS_TEAM_STAT_QUAR,0x30000,0)]
def mem3 (s : State) : State := {s with istore := [(2*2^15+4,5),(3*2^15,7),(3*2^15+32767,9),(4*2^15,3)], smem := [(2*2^19+2^19-1,4),(3*2^19,8),(4*2^19-1,8),(4*2^19,4)], lmem := [(23*2^15,3),(24*2^15,3),(31*2^15+32767,4),(32*2^15,4)], threads := [(64*3+9,{busy := false}),(64*3+8,{busy := true}),(5,{busy := true})]}
def idle3 (s : State) : State := {s with threads := [(64*3+9,{busy := false}),(64*2+8,{busy := true})]}
def hok (s : State) : State := fs s [(HIF_STAT_BME,0,1)] 
def id0 : Tid := ⟨3, 5, 2⟩
def thw : State := let s := fs (tsx 4) [(CRS_TEAM_CFG_WDOG,0x30000,1)]; {s with threads := [(tidKey id0, {busy := true, pc := istoreBase + 16, steps := 64, prog := 5, frame := some {data := [1,2],exp := true, ver := some 3}})]}
def w1 : State := tsx 4
def w2 : Fin 16 := n3
def w3 : State := tsx 0
def w4 : State := tsx 7
def w5 : State := tsx 5
def w6 : State := idle3 (tsx 1)
def w7 : State := mem3 (tsx 0)
def w8 : State := mem3 (tsx 4)
def w9 : State := hok (mem3 (tsx 3))
def w10 : Fin 16 := n3
def w11 : State := {(tsx 3) with teams := [(3,{initEntry := 77})]}
def w12 : State := {(tsx 7) with teams := [(3,{initEntry := 77})]}
def w13 : State := {(tsx 7) with teams := [(3,{initEntry := 77, runCmd := true})]}
def w14 : State := {(tsx 7) with threads := [(192,{busy := true})]}
def w15 : State := tsx 2
def w16 : State := thw
def w17 : Tid := id0
def w18 : State := fs thw [(CRS_ENTRY_EXP_BUDGET,0x30000+20,64)]
def w19 : Tid := id0
def w20 : Frame := {data := [1,2],exp := true, ver := some 3}
def w21 : State := {thw with teams := [(3,{unc := [(5,thw.tick),(4,thw.tick),(5,thw.tick),(5,thw.tick)]})]}
def w22 : Fin 8 := 5

theorem test_met_TeamLoading :
    /- clause 0 -/ ((Reach w1 Req.host (12582944 + 65536 * ↑w2)) ∧ (w1.teamState ↑w2 = 4) ∧ (Reach w3 Req.host (12582944 + 65536 * ↑w2)) ∧ (w3.teamState ↑w2 = 0 ∨ w3.teamState ↑w2 = 3) ∧ (Reach w4 Req.host (12582944 + 65536 * ↑w2)) ∧ (w4.teamState ↑w2 = 7) ∧ (Reach w5 Req.host (12582944 + 65536 * ↑w2)) ∧ (w5.teamState ↑w2 = 1 ∨ w5.teamState ↑w2 = 2 ∨ w5.teamState ↑w2 = 5 ∨ w5.teamState ↑w2 = 6)) ∧
    /- clause 1 -/ ((w6.teamState ↑w2 = 1) ∧ ((List.any w6.threads fun e => e.1 / 64 == ↑w2 && e.2.busy) = false)) ∧
    /- clause 2 -/ ((Reach w7 Req.host (12582944 + 65536 * ↑w2)) ∧ (w7.teamState ↑w2 = 0 ∨ w7.teamState ↑w2 = 3) ∧ (Reach w8 Req.host (12582944 + 65536 * ↑w2)) ∧ (w8.teamState ↑w2 ≠ 0) ∧ (w8.teamState ↑w2 ≠ 3)) ∧
    /- clause 3 -/ ((w9.teamState ↑w10 ≠ 2 ∨ w9.hostOk = false)) ∧
    /- clause 8 -/ ((Reach w11 Req.host (12582944 + 65536 * ↑w2)) ∧ (w11.teamState ↑w2 = 3) ∧ (Reach w5 Req.host (12582944 + 65536 * ↑w2)) ∧ (w5.teamState ↑w2 = 1 ∨ w5.teamState ↑w2 = 5 ∨ w5.teamState ↑w2 = 6) ∧ (Reach w1 Req.host (12582944 + 65536 * ↑w2)) ∧ (w1.teamState ↑w2 = 0 ∨ w1.teamState ↑w2 = 2 ∨ w1.teamState ↑w2 = 4 ∨ w1.teamState ↑w2 = 7)) ∧
    /- clause 9 -/ ((w12.teamState ↑w2 = 7) ∧ ((w12.thread (64 * ↑w2)).busy = false) ∧ ((w12.team ↑w2).drainAfterInit = false) ∧ (w13.teamState ↑w2 = 7) ∧ ((w13.thread (64 * ↑w2)).busy = false) ∧ ((w13.team ↑w2).drainAfterInit = false) ∧ ((w13.team ↑w2).runCmd = true)) ∧
    /- clause 10 -/ ((w14.teamState ↑w2 ≠ 7 ∨ (w14.thread (64 * ↑w2)).busy = true)) ∧
    /- clause 11 -/ (Reach w15 Req.host (12582944 + 65536 * ↑w10)) ∧ (BitVec.toNat 6#32 % 8 = 3 ∨ BitVec.toNat 6#32 % 8 = 5 ∨ BitVec.toNat 6#32 % 8 = 6 ∨ BitVec.toNat 6#32 % 8 = 7) := by
  refine ⟨?_, ?_, ?_, ?_, ?_, ?_, ?_, ?_⟩ <;> decide +kernel

theorem test_met_TeamLimits :
    /- clause 0 -/ ((w16.wdogDue (tidKey w17) = true) ∧ ((w16.thread (tidKey w17)).init = false) ∧ (w16.flag CRS_TFLT_INFO_VALID (65536 * ↑w17.team) = false)) ∧
    /- clause 1 -/ ((w18.budgetDue (tidKey w19) = true) ∧ ((w18.thread (tidKey w19)).frame = some w20)) ∧
    /- clause 2 -/ ((w21.quarCause (↑w10) (↑w22) false = true) ∧ (bitOf (w21.f CRS_TEAM_STAT_QUAR (65536 * ↑w10)) ↑w22 = false) ∧ (5 ≤ w21.working ↑w10) ∧ ((w21.thread (64 * ↑w10)).init = false)) ∧
    /- clause 4 -/ (Reach w16 Req.host (12582980 + 65536 * ↑w10)) ∧ (CRS_SAMP_STAT_FULL.of (wd [(CRS_SAMP_STAT_FULL, 1), (CRS_SAMP_STAT_CODE, 9)]) = 1) := by
  refine ⟨?_, ?_, ?_, ?_⟩ <;> decide +kernel

end K13

namespace K14

def qf (i : Nat) : Frame := {data := (List.range 100).map fun k => BitVec.ofNat 8 (k+i), seq := i, handle := i+1, ver := some 4}
def nd (q cls : Nat) (s : State) : State := fs s [(SCH_Q_CFG_EN,16*q,1),(SCH_Q_CFG_NODE,16*q,0),(SCH_Q_CFG_SH_EN,16*q,0),(SCH_Q_CFG_CLASS,16*q,cls),(SCH_Q_CFG_CG,16*q,3),(SCH_CG_CFG_EN,4*(8*nodeOf q 0+3),1),(SCH_CG_CFG_SH_EN,4*(8*nodeOf q 0+3),0),(SCH_NODE_CFG_SH_EN,4*nodeOf q 0,0)]
def lk (p : Nat) (s : State) : State := fs s [(CLI_PORT_STAT_LINK,0x1000*p,1),(HIF_HQ_EN,0,1),(HIF_HQ_RING,0,5),(HIF_RING_CFG_EN,0x40*5,1),(HIF_RING_CFG_TYPE,0x40*5,1),(XNG_STAT_REFUSING,0x20*7,0),(XNG_STAT_REFUSING,0x20*5,0)]
def qe (c : Nat) : State := {(nd 4096 c (nd 6144 c (lk 0 all))) with queues := [(4096,{frames := [{qf 1 with exp := true}, qf 2]}),(6144,{frames := [{qf 3 with exp := true}]})], rings := [(5,{taken := 8})]}
def sl (s : State) (n : Nat) := s.select s.takeNow n
def sp : State := {all with queues := [(4096,{frames := [qf 1, {qf 2 with spilled := true, back := true}, {qf 3 with spilled := true}, {qf 4 with spilled := true}]}),(6144,{frames := [qf 3]})]}
def jd (f : Frame) : Frame := {f with judged := true}
def sp1 : State := {all with queues := [(4096,{frames := [jd (qf 1), jd {qf 2 with spilled := true, back := true}, {qf 3 with spilled := true}, {qf 4 with spilled := true}]}),(6144,{frames := [qf 3]})]}
def sp2 (b : List Frame) : State := {all with queues := [(4096,{frames := {qf 3 with spilled := true} :: b}),(6144,{frames := [qf 3]})]}
def gt (l : List (Fld × Nat × Nat)) : State := fs all ([(SCH_GCL_CTRL_PENDING,32*9,0),(SCH_GCL_LEN_LEN,32*9,1),(SCH_GCL_CYCLE_NS,32*9,1000000000),(SCH_GCL_BASE_NS_NS,32*9,999999999),(SCH_GCL_BASE_S_LO_S,32*9,4),(GLB_RES_OWNER_FEATURE,4*6,0)] ++ l)
def gr : State := {(fs all [(SCH_GCL_CTRL_RUN,32*9,1)]) with gates := [(9,{start := 77, cycle := 1000, len := 3}),(10,{start := 5})], tm := {tod := 243*65536*123456789}}
def smp : State := let s := fs all [(SCH_SAMP_CFG_EN,0,1),(SCH_SAMP_CFG_CAP,0,0)]; {(fs {s with regs := s.regs.filter fun e => !(0xE20000 ≤ e.1 && e.1 < 0xE20000 + 16*6272)} [(SCH_Q_CFG_EN,16*4100,1),(SCH_Q_CFG_SAMP,16*4100,1)]) with queues := [(4100,{frames := [qf 2, qf 5]})]}
def w1 : Fin 521 := 511
def w2 : Fin 521 := 512
def w3 : State := qe 7
def w4 : Frame := (sl (qe 7) 512).1.getD {}
def w5 : State := (sl (qe 7) 512).2
def w6 : State := sp2 [qf 5]
def w7 : Frame := {qf 3 with spilled := true}
def w8 : Fin 6272 := 4096
def w9 : List Frame := []
def w10 : List Frame := [qf 5]
def w11 : State := sp1
def w12 : List Frame := [jd (qf 1), jd {qf 2 with spilled := true, back := true}]
def w13 : List Frame := [{qf 4 with spilled := true}]
def w14 : State := sp2 []
def w15 : State := fs sp [(XNG_STAT_REFUSING,0x20*8,1)]
def w16 : State := fs all [(SCH_Q_CFG_EN,16*6271,0)]
def w17 : Fin 6272 := 6271
def w18 : Fin 4 := 3
def w19 : State := fs all [(SCH_Q_CFG_EN,16*6271,1)]
def w20 : State := fs all [(SCH_Q_CFG_EN,16*100,0),(SCH_Q_CFG1_HELD,16*100,0)]
def w21 : Fin 6272 := 100
def w22 : State := fs all [(SCH_SHP_CBS_DEPTH,32*7,77)]
def w23 : State := gt []
def w24 : Fin 520 := 9
def w25 : State := gt [(SCH_GCL_CTRL_PENDING,32*9,1)]
def w26 : State := {gr with gates := [(9,{start := 77, cycle := 0, len := 3}),(10,{start := 5})]}
def w27 : Fin 520 := 9
def w28 : State := fs smp [(SCH_SAMP_STAT_WP,0,4095)]

theorem test_met_Scheduling :
    /- clause 0 -/ ((↑w1 < 512)) ∧
    /- clause 1 -/ ((512 ≤ ↑w2) ∧ (5 = if ↑w2 < 520 then 5 else 7) ∧ (w3.groupHeld 98 = false) ∧ (w3.xRoom 5 true 1 = true) ∧ (w3.xRoom 5 false 1 = true) ∧ (↑w2 = 520 ∨ w3.portServes (↑w2 - 512) = true) ∧ (w3.select w3.takeNow ↑w2 = (some w4, w5))) ∧
    /- clause 2 -/ ((∀ g ∈ w9, g.judged = true ∧ Sound w6 (↑w8) g) ∧
    (∀ g ∈ w12, g.judged = true ∧ Sound w11 (↑w8) g) ∧
    (∀ g ∈ w9, g.judged = true ∧ Sound w14 (↑w8) g) ∧
    (w6.xOpen 8 = true) ∧ (w6.padMay false (ceilDiv w7.body 256) = true) ∧ ((List.any w6.queues fun e => e.2.frames.any Frame.unsent) = false) ∧ ((w6.que ↑w8).frames = w9 ++ w7 :: w10) ∧ (∀ g ∈ w9, g.spilled = false ∨ g.back = true) ∧ (w7.spilled = true) ∧ (w7.back = false) ∧ (w7.unsent = false) ∧ (w7.flip = 0) ∧ (w7.lost = false) ∧ (w7.launch = none) ∧ (w6.tooLong (↑w8) w7.data.length = false) ∧ (w11.xOpen 8 = true) ∧ (w11.padMay false (ceilDiv w7.body 256) = true) ∧ ((List.any w11.queues fun e => e.2.frames.any Frame.unsent) = false) ∧ ((w11.que ↑w8).frames = w12 ++ w7 :: w13) ∧ (∀ g ∈ w12, g.spilled = false ∨ g.back = true) ∧ (w11.tooLong (↑w8) w7.data.length = false) ∧ (w12 ≠ []) ∧ (w14.xOpen 8 = true) ∧ (w14.padMay false (ceilDiv w7.body 256) = true) ∧ ((List.any w14.queues fun e => e.2.frames.any Frame.unsent) = false) ∧ ((w14.que ↑w8).frames = w9 ++ w7 :: w9) ∧ (w14.tooLong (↑w8) w7.data.length = false) ∧ (w9 = [])) ∧
    /- clause 3 -/ ((w15.xOpen 8 = false) ∧ ((List.any w15.queues fun e => e.2.frames.any Frame.unsent) = false)) ∧
    /- clause 4 -/ ((Reach w16 Req.host (14811140 + 16 * ↑w17))) ∧
    /- clause 5 -/ ((2 ≤ ↑w18) ∧ (Reach w19 Req.host (14811136 + 16 * ↑w17 + 4 * ↑w18))) ∧
    /- clause 6 -/ ((Reach w20 (Req.team 2) (14811136 + 16 * ↑w21)) ∧ (w20.flag SCH_Q_CFG_EN (16 * ↑w21) = false) ∧ (w20.flag SCH_Q_CFG1_HELD (16 * ↑w21) = false) ∧ (SCH_Q_CFG_EN.of 2147483646 = 0 ∨ 4096 ≤ ↑w21)) ∧
    /- clause 7 -/ ((Reach w19 Req.host (14811136 + 16 * ↑w17)) ∧ (w19.flag SCH_Q_CFG_EN (16 * ↑w17) = true)) ∧
    /- clause 8 -/ ((7 < 1024) ∧ (Reach w22 Req.host (15007744 + 32 * 7))) ∧
    /- clause 9 -/ ((Reach w23 Req.host (15269908 + 32 * ↑w24)) ∧ (SCH_GCL_CTRL_COMMIT.of (wd [(SCH_GCL_CTRL_COMMIT, 1), (SCH_GCL_CTRL_COMP, 2)]) = 1) ∧ (w23.gatePending ↑w24 = false) ∧ (1 ≤ w23.f SCH_GCL_LEN_LEN (32 * ↑w24)) ∧ (w23.f SCH_GCL_LEN_LEN (32 * ↑w24) ≤ 1024) ∧ (1 ≤ w23.f SCH_GCL_CYCLE_NS (32 * ↑w24)) ∧ (w23.f SCH_GCL_CYCLE_NS (32 * ↑w24) ≤ 1000000000) ∧ (w23.f SCH_GCL_BASE_NS_NS (32 * ↑w24) < 1000000000) ∧ (w23.resFree (4 + SCH_GCL_CTRL_COMP.of (wd [(SCH_GCL_CTRL_COMMIT, 1), (SCH_GCL_CTRL_COMP, 2)])) = true) ∧ (w23.todNs + 10000 ≤ w23.gateBase ↑w24) ∧ (Reach w25 Req.host (15269908 + 32 * ↑w24)) ∧ (w25.gatePending ↑w24 = true)) ∧
    /- clause 10 -/ ((w26.gateRuns ↑w27 = true) ∧ ((w26.gate ↑w27).start ≤ w26.todNs)) ∧
    /- clause 11 -/ (w28.flag SCH_SAMP_CFG_EN = true) ∧ (w28.sampleQueues = [4100]) ∧ (w28.flag SCH_SAMP_CFG_CAP = false) := by
  and_intros <;> first
    | decide +kernel
    | exact (by simp only [Sound]; decide +kernel)

end K14

namespace K15

def ow := fs all [(TIM_CFG_OWNER,0,0x13),(TIM_TODM_4_NSEC,0x20,999999999),(TIM_TODM_0_SFC,0x20,101),(TIM_TODM_1_SFC,0x20,0)]
def ap := wd [(TIM_TODM_CTRL_APPLY,1)]
def tmx (s : State) (g : TimeSt → TimeSt) := s.modTm g
def tm1 : TodMsg := {sfc := 100, sec := 5, nsec := 7, teqd := 2^40}
def h2 := fs (tmx ow (fun t => {t with boundsB := [{sfc := 101},{sfc := 100, stamp := 9, eqd := 5}], heldTodB := some tm1})) [(TIM_CFG_SRC,0,0),(TIM_DLY_DRX,4,5),(TIM_DLY_DTX,4,6)]
def jb := fs (tmx ow (fun t => {t with jobs := [.message .a 5000000000 (16*77)]})) [(TIM_CFG_SRC,0,0),(TIM_STAT_STATE,0,0)]
def px (k : Nat) : State := {(fs ow [(TIM_CFG_SRC,0,4),(TIM_STAT_STATE,0,1),(TIM_THR_TOD_TMO,0,3)]).modTm (fun t => {t with extEdge := [(1,1001)]}) with tick := k}
def tk := {tmx ow (fun t => {t with tod := 12345678901234567890123}) with tick := 2^36}
def pp := tmx (fs all [(TIM_PPS_CFG_EN,16,0),(GLB_RES_OWNER_FEATURE,4,0)]) fun t => {t with tod := 98765432109876543210123}
def w1 : State := fs ow [(TIM_TODM_4_NSEC,0x20,1000000000)]
def w2 : State := tmx ow (fun t => {t with boundsB := [{sfc := 100}], boundsA := [{sfc := 7}]})
def w3 : State := h2
def w4 : TodMsg := tm1
def w5 : Bound := {sfc := 100, stamp := 9, eqd := 5}
def w6 : State := h2.modTm (fun t => {t with heldTodB := some {tm1 with teqd := 0}})
def w7 : TodMsg := {tm1 with teqd := 0}
def w8 : State := fs jb [(TIM_STAT_STATE,0,1)]
def w9 : Int := 5000000000
def w10 : State := jb
def w11 : State := fs (tmx ow (fun t => {t with tod := 55, slew := 5})) [(TIM_SET_NS_NS,0,999999999)]
def w12 : State := tmx ow (fun t => {t with tod := 55, slew := 5, todSet := some (65536*123456789012), jobs := []})
def w13 : State := fs ow [(TIM_CFG_SRC,0,4),(TIM_STAT_STATE,0,0)]
def w14 : State := {(fs ow [(TIM_CFG_SRC,0,1),(TIM_STAT_STATE,0,2),(TIM_THR_TOD_TMO,0,3)]).modTm (fun t => {t with lastTod := 5}) with tick := 3*777600000+5}
def w15 : State := {(fs ow [(TIM_CFG_SRC,0,1),(TIM_STAT_STATE,0,1),(TIM_THR_TOD_TMO,0,3)]).modTm (fun t => {t with lastTod := 5}) with tick := 3*777600000+4}
def w16 : State := px (777677760+1000)
def w17 : State := px (777677760+999)
def w18 : State := tmx (fs tk [(TIM_STAT_STATE,0,2)]) (fun t => {t with lastSecTod := 2})
def w19 : State := tmx (fs tk [(TIM_STAT_STATE,0,1)]) (fun t => {t with lastSec := 2^36-777599999})
def w20 : State := tmx (fs tk [(TIM_STAT_STATE,0,2)]) (fun t => {t with lastSecTod := 2^40})
def w21 : State := tmx (fs ow [(TIM_STAT_SLEWING,0,1)]) (fun t => {t with slew := 0})
def w22 : State := pp
def w23 : Fin 2 := 1
def w24 : State := fs pp [(GLB_RES_OWNER_FEATURE,4,2)]
def w25 : State := fs pp [(TIM_PPS_CFG_EN,16,1),(TIM_PPS_CFG_FEATURE,16,1),(TIM_STAT_STATE,0,2),(TIM_PPS_OFS_OFFSET,16,0)]
def w26 : Fin 2 := 1
def w27 : State := fs pp [(TIM_CAP_CFG_EN,0x20,0),(GLB_RES_OWNER_FEATURE,12,0)]
def w28 : State := (fs pp [(TIM_CAP_CFG_EDGE,0x20,0),(GLB_RES_OWNER_FEATURE,12,4)]).setTsQueue 9 {entries := [[1]], gap := true}
def w29 : State := fs pp [(GLB_RES_OWNER_FEATURE,4*7,0)]
def w30 : Fin 8 := 3
def w31 : State := (fs pp [(GLB_RES_OWNER_FEATURE,4*7,7),(TIM_CMP_CTRL_ARM,48,1)])
def w32 : Fin 8 := 3
def w33 : State := (fs pp [(GLB_RES_OWNER_FEATURE,4*7,7),(TIM_CMP_CTRL_ARM,48,1),(TIM_CMP_NS_NS,48,5),(TIM_CMP_S_LO_SEC,48,1),(TIM_CMP_S_HI_SEC,48,0)]).setCmpFlag 3 1

theorem test_met_TimeOfDay :
    /- clause 0 -/ ((Reach w1 (Req.team 3) (16777500 + 32 * sideNo Side.b)) ∧ (w1.f TIM_CFG_OWNER = reqCode (Req.team 3)) ∧ (TIM_TODM_CTRL_APPLY.of ap = 1) ∧ (1000000000 ≤ (w1.stagedTod Side.b).nsec)) ∧
    /- clause 1 -/ ((Reach w2 (Req.team 3) (16777500 + 32 * sideNo Side.b)) ∧ (w2.f TIM_CFG_OWNER = reqCode (Req.team 3)) ∧ (TIM_TODM_CTRL_APPLY.of ap = 1) ∧ ((w2.stagedTod Side.b).nsec < 1000000000) ∧ (((w2.bounds Side.b).headD { }).sfc < 2 ^ 51) ∧ (w2.heldTod Side.b = none) ∧ ((w2.stagedTod Side.b).sfc = (((w2.bounds Side.b).headD { }).sfc + 1) % 2 ^ 51)) ∧
    /- clause 2 -/ ((w3.heldTod Side.b = some w4) ∧ (List.find? (fun b => b.sfc == w4.sfc) (w3.bounds Side.b) = some w5) ∧ (0 < w3.todRtd Side.b w4 w5) ∧ (w6.heldTod Side.b = some w7) ∧ (List.find? (fun b => b.sfc == w7.sfc) (w6.bounds Side.b) = some w5) ∧ (w6.todRtd Side.b w7 w5 ≤ 0)) ∧
    /- clause 3 -/ ((w8.pending = []) ∧ (w8.regionUp 7 = true) ∧ (w8.tm.todSet = none) ∧ (w8.tm.jobs = [TodJob.message Side.a w9 (16 * 77)]) ∧ (w10.pending = []) ∧ (w10.regionUp 7 = true) ∧ (w10.tm.todSet = none) ∧ (w10.tm.jobs = [TodJob.message Side.a w9 (16 * 77)]) ∧ (w10.refSide = some Side.a) ∧ (w10.timState = 0)) ∧
    /- clause 4 -/ ((Reach w11 Req.host 16777228) ∧ (TIM_CTRL_SET.of (wd [(TIM_CTRL_SET, 1)]) = 1) ∧ (w11.f TIM_SET_NS_NS < 1000000000)) ∧
    /- clause 5 -/ ((w12.pending = []) ∧ (w12.regionUp 7 = true) ∧ (w12.tm.todSet = some (65536 * 123456789012)) ∧ (w12.tm.jobs = [])) ∧
    /- clause 6 -/ ((Reach w13 Req.host 16777216) ∧ (TIM_CFG_SRC.of (wd [(TIM_CFG_SRC, 4), (TIM_CFG_OWNER, 32), (TIM_CFG_GAIN, 3), (TIM_CFG_LOCK_NS, 9)]) = w13.f TIM_CFG_SRC) ∧ (w13.timSrc < 5) ∧ (w13.timState ≠ 3) ∧ (∀ (x : Side), w13.refSide = some x → w13.flag DSF_STAT_LOS (sideOff x) = false ∧ w13.flag DSF_STAT_LOF (sideOff x) = false)) ∧
    /- clause 7 -/ ((w14.f TIM_THR_TOD_TMO ≠ 0) ∧ (w14.refSide.isSome = true) ∧ (w14.timState = 1 ∨ w14.timState = 2) ∧ (w14.tm.lastTod + w14.f TIM_THR_TOD_TMO * 777600000 ≤ w14.tick) ∧ (w15.f TIM_THR_TOD_TMO ≠ 0) ∧ (w15.refSide.isSome = true) ∧ (w15.timState = 1 ∨ w15.timState = 2) ∧ (w15.tick < w15.tm.lastTod + w15.f TIM_THR_TOD_TMO * 777600000)) ∧
    /- clause 8 -/ ((w16.refInput = some 1) ∧ (w16.timState = 1 ∨ w16.timState = 2) ∧ (w16.extLast 1 + 777677760 ≤ w16.tick) ∧ (w17.refInput = some 1) ∧ (w17.timState = 1 ∨ w17.timState = 2) ∧ (w17.tick < w17.extLast 1 + 777677760)) ∧
    /- clause 9 -/ ((w18.secTickDue = true)) ∧
    /- clause 10 -/ ((w19.timState ≠ 2) ∧ (w19.tm.secWait = false) ∧ (w19.tm.secDue = false) ∧ (w19.tick < w19.tm.lastSec + 777600000)) ∧
    /- clause 11 -/ ((w20.timState = 2) ∧ (w20.tm.secDue = false) ∧ (w20.tm.tod / 243 / 65536 / 1000000000 ≤ w20.tm.lastSecTod)) ∧
    /- clause 12 -/ (w21.tm.slew = 0) := by
  refine ⟨?_, ?_, ?_, ?_, ?_, ?_, ?rest⟩
  case rest => refine ⟨?_, ?_, ?_, ?_, ?_, ?_, ?_⟩ <;> decide +kernel
  all_goals decide +kernel

theorem test_met_PpsCaptureCompare :
    /- clause 0 -/ ((Reach w22 Req.host (16777728 + 16 * ↑w23)) ∧ (TIM_PPS_CFG_EN.of (wd [(TIM_PPS_CFG_EN, 1), (TIM_PPS_CFG_FEATURE, 0)]) = 1) ∧ (TIM_PPS_CFG_FEATURE.of (wd [(TIM_PPS_CFG_EN, 1), (TIM_PPS_CFG_FEATURE, 0)]) ≤ 1) ∧ (w22.flag TIM_PPS_CFG_EN (16 * ↑w23) = false) ∧ (w22.resFree ↑w23 = true)) ∧
    /- clause 1 -/ ((Reach w24 Req.host (16777728 + 16 * ↑w23)) ∧ (TIM_PPS_CFG_EN.of (wd [(TIM_PPS_CFG_EN, 1), (TIM_PPS_CFG_FEATURE, 2)]) = 1) ∧ (w24.flag TIM_PPS_CFG_EN (16 * ↑w23) = false) ∧ (w24.resFree ↑w23 = false)) ∧
    /- clause 2 -/ ((w25.ppsDue ↑w26 = true) ∧ (w25.ppsFeature ↑w26 = 1)) ∧
    /- clause 3 -/ ((Reach w27 (Req.team 7) (16777792 + 32 * ↑w23)) ∧ (TIM_CAP_CFG_EN.of (wd [(TIM_CAP_CFG_EN, 1), (TIM_CAP_CFG_EDGE, 3)]) = 1) ∧ (w27.flag TIM_CAP_CFG_EN (32 * ↑w23) = false) ∧ (w27.resFree (2 + ↑w23) = true)) ∧
    /- clause 4 -/ ((w28.edgeChosen (↑w23) false = true) ∧ (w28.resFeature (2 + ↑w23) = 4) ∧ ((w28.tsQueue (8 + ↑w23)).entries.length < 16)) ∧
    /- clause 5 -/ ((Reach w29 (Req.team 7) (16777996 + 16 * ↑w30)) ∧ (TIM_CMP_CTRL_ARM.of (wd [(TIM_CMP_CTRL_ARM, 1)]) = 1) ∧ (w29.resFree (4 + ↑w30) = true)) ∧
    /- clause 6 -/ (w31.flag TIM_CMP_CTRL_ARM (16 * ↑w32) = true) ∧ (w31.cmpDue ↑w32 = true) ∧ (w31.resFeature (4 + ↑w32) = 7) ∧ (w33.flag TIM_CMP_CTRL_ARM (16 * ↑w32) = true) ∧ (w33.cmpDue ↑w32 = true) ∧ (w33.resFeature (4 + ↑w32) = 7) ∧ (w33.cmpFlag ↑w32 = 1) := by
  refine ⟨?_, ?_, ?_, ?_, ?_, ?_, ?_⟩ <;> decide +kernel

end K15

namespace K16

def P := 0x2000
def cfg (l : List (Fld × Nat × Nat)) : State := fs all ([(CLI_CFG_MODE,0,3),(CLI_CFG_LANE_RATE,0,1),(CLI_PORT_CFG_EN,P,1),(CLI_PORT_STAT_LINK,P,1),(XNG_STAT_REFUSING,0x20*4,0),(XNG_STAT_REFUSING,0x20*5,0)] ++ l)
def fc (i : Nat) (x : Bool) : Frame := {data := (List.range 100).map fun k => BitVec.ofNat 8 (k+i), handle := i+2, exp := x}
def withTx (s : State) : State := s.modCli fun c => {c with txExp := [(2,[fc 1 true])], tx := [(2,[fc 2 false]),(3,[fc 4 false])], mac := [(2,some {frame := fc 5 false, n := 104}),(3,some {frame := fc 6 false})], cut := [(2,some {frame := fc 7 false})]}
def fcs (d : List Byte) : List Byte := d ++ leBytes 4 (crc32 d)
def eth (n : Nat) : List Byte := fcs ((List.range n).map fun k => if k < 6 then 0xFF#8 else BitVec.ofNat 8 (k*3))
def rxc (l : List (Fld × Nat × Nat)) : State := cfg ([(CLI_PORT_CFG_BCAST,P,1),(CLI_PORT_CFG_RX_EXP,P,0),(CLI_PORT_CFG_MAX_LEN,P,2000)] ++ l)
def mfr (n : Nat) : List Byte := let d := (eth n).take n; d ++ mCrc d
def cb (a : List Byte) (n : Nat) : List Byte := let b := (List.range n).map fun k => BitVec.ofNat 8 (7*k+1); b ++ mCrc (a ++ b)
def act (s : State) : State := fs s [(CLI_PMP_STAT_ACTIVE,P,1)]
def opn (nx : Nat) : RxOpen := {bytes := (eth 64).take 64, count := 2, next := nx, start := 5, accepted := true}
def tx1 (l : List (Fld × Nat × Nat)) : State := (rxc l).modCli fun c => {c with txExp := [(2,[fc 1 true])]}
def fin : State := {((rxc []).modCli fun c => {c with mac := [(2,some {frame := fc 5 false, n := 104})]}) with tick := 77777}
def big : Frame := {data := (List.range 1500).map fun k => BitVec.ofNat 8 (k*5), handle := 9}
def pmx : MacTx := {frame := big, n := 1504, whole := true, pre := true, start := 0}
def pm7 (l : List (Fld × Nat × Nat)) : State := let s := rxc ([(CLI_PMP_STAT_ACTIVE,P,1)] ++ l); {(s.modCli fun c => {c with mac := [(2,some pmx)], txExp := [(2,[fc 9 true])]}) with tick := 5}
def w1 : State := cfg []
def w2 : State := cfg [(CLI_PORT_CFG_EN,P,0),(CLI_CFG_MODE,0,4)]
def w3 : Fin 8 := 2
def w4 : State := cfg [(CLI_CFG_MODE,0,4),(CLI_PORT_CFG_FEC,P,0)]
def w5 : State := withTx (cfg [(CLI_PORT_CFG_FEC,P,0)])
def w6 : State := cfg [(CLI_PORT_STAT_LINK,P,0),(CLI_PORT_CFG_FEC,P,0)]
def w7 : State := cfg [(CLI_PORT_STAT_LINK,P,0),(CLI_CFG_MODE,0,4)]
def w8 : State := cfg [(CLI_PORT_STAT_LINK,P,0)]
def w9 : State := withTx (cfg [])
def w10 : State := rxc [(CLI_PORT_CFG_RX_EXP,P,1)]
def w11 : List Byte := eth 60
def w12 : State := act (rxc [(CLI_PORT_CFG_RX_EXP,P,1),(SCH_XPOL_CFG_EN,16*522,0)])
def w13 : State := rxc [(CLI_PMP_STAT_VSTATE,P,2)]
def w14 : List Byte := []
def w15 : State := (rxc []).setXing 4 {other := [{data := List.replicate (64*2048) 1, port := 2, src := 2}], exp := [{data := List.replicate (64*2048) 1, port := 3, src := 2}]}
def w16 : State := act (rxc [])
def w17 : List Byte := mfr 64
def w18 : State := (act (rxc [])).setOpen 2 (some (opn 3))
def w19 : Fin 4 := 1
def w20 : Fin 4 := 1
def w21 : RxOpen := opn 3
def w22 : Fin 4 := 2
def w23 : List Byte := cb (opn 3).bytes 100
def w24 : State := rxc []
def w25 : Fin 16 := 15
def w26 : State := rxc [(CLI_CFG_MODE,0,1)]
def w27 : Fin 8 := 7
def w28 : State := tx1 [(CLI_PMP_STAT_ACTIVE,P,1)]
def w29 : Frame := fc 1 true
def w30 : State := fin.modCli fun c => {c with tx := [(2,[fc 8 false])], txExp := [(2,[fc 9 true])]}
def w31 : MacTx := {frame := fc 5 false, n := 104}
def w32 : State := {pm7 [] with tick := 20}
def w33 : MacTx := pmx
def w34 : State := rxc [(CLI_PMP_CFG_PMP_EN,P,1),(CLI_PMP_CFG_VERIFY,P,1)]
def w35 : State := rxc [(CLI_PORT_STAT_LINK,P,0),(CLI_PMP_CFG_PMP_EN,P,0),(CLI_PMP_CFG_VERIFY,P,1)]
def w36 : Fin 8 := 2
def w37 : State := rxc [(CLI_PMP_STAT_VSTATE,P,3)]
def w38 : State := (rxc [(CLI_PMP_STAT_VSTATE,P,2)]).modCli (fun c => {c with tries := [(2,3)]})

theorem test_met_ClientLinks :
    /- clause 0 -/ ((Reach w1 (Req.team 4) 17825792) ∧ (CLI_CFG_MODE.of (wd [(CLI_CFG_MODE, 3), (CLI_CFG_LANE_RATE, 1)]) ≤ 4) ∧ (CLI_CFG_MODE.of (wd [(CLI_CFG_MODE, 3), (CLI_CFG_LANE_RATE, 1)]) = w1.f CLI_CFG_MODE ∧ CLI_CFG_LANE_RATE.of (wd [(CLI_CFG_MODE, 3), (CLI_CFG_LANE_RATE, 1)]) = w1.f CLI_CFG_LANE_RATE ∨ ∀ p < 8, w1.portEn p = false) ∧ (CLI_CFG_MODE.of (wd [(CLI_CFG_MODE, 3), (CLI_CFG_LANE_RATE, 1)]) ≠ 4) ∧ (5 ≤ CLI_CFG_MODE.of (wd [(CLI_CFG_MODE, 5), (CLI_CFG_LANE_RATE, 1)]) ∨ CLI_CFG_MODE.of (wd [(CLI_CFG_MODE, 5), (CLI_CFG_LANE_RATE, 1)]) ≠ w1.f CLI_CFG_MODE ∧ ∃ p < 8, w1.portEn p = true)) ∧
    /- clause 1 -/ ((Reach w2 Req.host (17891328 + 4096 * ↑w3)) ∧ (CLI_PORT_CFG_EN.of (wd [(CLI_PORT_CFG_EN, 1), (CLI_PORT_CFG_FEC, 1), (CLI_PORT_CFG_MAX_LEN, 500)]) = 1) ∧ (w2.portIs ↑w3 = true) ∧ (w2.portEn ↑w3 = false) ∧ (Reach w4 Req.host (17891328 + 4096 * ↑w3)) ∧ (w4.portIs ↑w3 = true) ∧ (w4.portEn ↑w3 = true) ∧ (w4.f CLI_CFG_MODE = 4) ∧ (CLI_PORT_CFG_FEC.of (wd [(CLI_PORT_CFG_EN, 1), (CLI_PORT_CFG_FEC, 1), (CLI_PORT_CFG_MAX_LEN, 500)]) ≠ w4.f CLI_PORT_CFG_FEC (4096 * ↑w3))) ∧
    /- clause 2 -/ ((Reach w5 Req.host (17891328 + 4096 * ↑w3)) ∧ (CLI_PORT_CFG_EN.of 0 = 0) ∧ (w5.portIs ↑w3 = true) ∧ (w5.portEn ↑w3 = true) ∧ (w5.f CLI_CFG_MODE ≠ 4) ∧ (w5.flag CLI_PORT_CFG_FEC (4096 * ↑w3) = false) ∧ (w5.portLink ↑w3 = true) ∧ (Reach w6 Req.host (17891328 + 4096 * ↑w3)) ∧ (CLI_PORT_CFG_EN.of 1073741823 = 0) ∧ (w6.portIs ↑w3 = true) ∧ (w6.portEn ↑w3 = true) ∧ (w6.f CLI_CFG_MODE ≠ 4) ∧ (w6.flag CLI_PORT_CFG_FEC (4096 * ↑w3) = false) ∧ (w6.portLink ↑w3 = false)) ∧
    /- clause 3 -/ ((w7.portIs ↑w3 = true) ∧ (w7.portEn ↑w3 = true) ∧ (w7.regionUp 3 = true) ∧ (w7.portLink ↑w3 = false) ∧ (w1.portEn ↑w3 = false ∨ w1.portLink ↑w3 = true)) ∧
    /- clause 4 -/ (w8.portIs ↑w3 = true) ∧ (w8.portEn ↑w3 = true) ∧ (w8.regionUp 3 = true) ∧ (w8.portLink ↑w3 = false) ∧ (w9.portIs ↑w3 = true) ∧ (w9.portEn ↑w3 = true) ∧ (w9.regionUp 3 = true) ∧ (w9.portLink ↑w3 = true) := by
  refine ⟨?_, ?_, ?_, ?_, ?_⟩ <;> decide +kernel

theorem test_met_ClientTraffic :
    /- clause 0 -/ ((w8.portLink ↑w3 = false)) ∧
    /- clause 1 -/ ((w10.portIs ↑w3 = true) ∧ (w10.portLink ↑w3 = true) ∧ (w10.regionUp 3 = true) ∧ (64 ≤ w11.length) ∧ (w11.length ≤ w10.maxLen ↑w3) ∧ (beAt w11 12 2 ≠ 34824) ∧ (leNat (List.drop (w11.length - 4) w11) = crc32 (List.take (w11.length - 4) w11)) ∧ (w10.daAccepted (↑w3) w11 (w10.daTime (w10.tick * 16 - 5)) = true) ∧ (w10.cli.rx = []) ∧ (w10.rxStored ↑w3 + ceilDiv (w11.length - 4) 64 ≤ 1024) ∧ (w10.rxExpress (↑w3) true (List.take (w11.length - 4) w11) = false) ∧ (w10.xRoom 4 false (w11.length - 4) = true) ∧ (w12.portIs ↑w3 = true) ∧ (w12.portLink ↑w3 = true) ∧ (w12.regionUp 3 = true) ∧ (w11.length ≤ w12.maxLen ↑w3) ∧ (w12.daAccepted (↑w3) w11 (w12.daTime (w12.tick * 16 - 5)) = true) ∧ (w12.cli.rx = []) ∧ (w12.rxStored ↑w3 + ceilDiv (w11.length - 4) 64 ≤ 1024) ∧ (w12.rxExpress (↑w3) true (List.take (w11.length - 4) w11) = true) ∧ (w12.flag SCH_XPOL_CFG_EN (16 * (520 + ↑w3)) = false) ∧ (w12.xRoom 4 true (w11.length - 4) = true)) ∧
    /- clause 2 -/ ((w13.portIs ↑w3 = true) ∧ (w13.portLink ↑w3 = true) ∧ (w13.regionUp 3 = true) ∧ (w13.cli.rx = []) ∧ (w13.rxStored ↑w3 + ceilDiv w14.length 64 < 1024) ∧ (w13.f CLI_PMP_STAT_VSTATE (4096 * ↑w3) = 2) ∧ (w15.portIs ↑w3 = true) ∧ (w15.portLink ↑w3 = true) ∧ (w15.regionUp 3 = true) ∧ (w15.cli.rx = []) ∧ (w15.rxStored ↑w3 = 1024) ∧ (w15.rxAhead true = 0) ∧ (w15.rxAhead false = 0)) ∧
    /- clause 3 -/ ((w16.portIs ↑w3 = true) ∧ (w16.portLink ↑w3 = true) ∧ (w16.regionUp 3 = true) ∧ (w16.pmpActive ↑w3 = true) ∧ (w16.openOf ↑w3 = none) ∧ (moreFollow w17 = true) ∧ (w18.portIs ↑w3 = true) ∧ (w18.portLink ↑w3 = true) ∧ (w18.regionUp 3 = true) ∧ (w18.pmpActive ↑w3 = true) ∧ (Option.all (fun o => o.count != ↑w19 || o.next != ↑w20) (w18.openOf ↑w3) = true) ∧ (w18.openOf ↑w3 = some w21) ∧ (w21.count = ↑w22) ∧ (w21.next < 4) ∧ (moreFollow (w21.bytes ++ w23) = true)) ∧
    /- clause 4 -/ ((Reach w24 Req.host (17891396 + 4096 * ↑w3 + 8 * ↑w25)) ∧ (w24.portIs ↑w3 = true) ∧ (Reach w26 Req.host (17891396 + 4096 * ↑w27 + 8 * ↑w25)) ∧ (w26.portIs ↑w27 = false)) ∧
    /- clause 5 -/ ((w28.portIs ↑w3 = true) ∧ (w28.regionUp 3 = true) ∧ ((w28.xing 5).exp = []) ∧ ((w28.xing 5).other = []) ∧ (w28.macOf ↑w3 = none) ∧ (w28.portLink ↑w3 = true) ∧ (sget (fun x => 0) w28.cli.free ↑w3 ≤ w28.portNow) ∧ (w28.txExpOf ↑w3 = [w29]) ∧ (w29.exp = true) ∧ (w29.launch = none) ∧ (w29.flip = 0) ∧ (State.wireLen w29.data ≤ w28.maxLen ↑w3) ∧ (w28.txOf ↑w3 = [])) ∧
    /- clause 6 -/ ((w30.portIs ↑w3 = true) ∧ (w30.regionUp 3 = true) ∧ (w30.macOf ↑w3 = some w31) ∧ (w31.whole = true) ∧ (w30.macFin w31 ≤ w30.portNow)) ∧
    /- clause 7 -/ ((w32.portIs ↑w3 = true) ∧ (w32.regionUp 3 = true) ∧ ((w32.xing 5).exp = []) ∧ ((w32.xing 5).other = []) ∧ (w32.macOf ↑w3 = some w33) ∧ (w32.portNow < w32.macFin w33) ∧ (w33.pre = true) ∧ (w33.fixed = false) ∧ (w33.due = none) ∧ (w32.pmpActive ↑w3 = true) ∧ (w32.gateAlways (512 + ↑w3) (w32.qClass w33.frame.outQ) = true) ∧ ((w32.gate (512 + ↑w3)).pending = none) ∧ (w32.expressWaits ↑w3 = true) ∧ (max (w32.minFrag ↑w3) (ceilDiv (w32.portNow - w33.start) w32.portByte - 8) + 64 ≤ State.wireLen w33.frame.data - w33.off)) ∧
    /- clause 8 -/ ((Reach w34 Req.host (17891344 + 4096 * ↑w3)) ∧ (w34.portIs ↑w3 = true) ∧ (3238002687 &&& 3221225472#32 = w34.reg (17891344 + 4096 * ↑w3) &&& 3221225472#32) ∧ (Reach w35 Req.host (17891344 + 4096 * ↑w3)) ∧ (w35.portIs ↑w3 = true) ∧ (3238002687 &&& 3221225472#32 ≠ w35.reg (17891344 + 4096 * ↑w3) &&& 3221225472#32)) ∧
    /- clause 9 -/ (w13.f CLI_PMP_STAT_VSTATE (4096 * ↑w36) = 2) ∧ (sget (fun x => 0) w13.cli.tries ↑w36 < 3) ∧ (w37.f CLI_PMP_STAT_VSTATE (4096 * ↑w36) ≠ 2) ∧ (w38.f CLI_PMP_STAT_VSTATE (4096 * ↑w36) = 2) ∧ (3 ≤ sget (fun x => 0) w38.cli.tries ↑w36) := by
  refine ⟨?_, ?_, ?_, ?_, ?_, ?_, ?rest⟩
  case rest => refine ⟨?_, ?_, ?_, ?_⟩ <;> decide +kernel
  all_goals decide +kernel

end K16

namespace K17

def R5 := 0x40*5
def onh (s : State) : State := on s [6]
def hst (l : List (Fld × Nat × Nat)) : State := onh (fs (rs all [(0x9008+R5,0x10000),(0x900C+R5,1),(0x9010+R5,0x20000),(0x9014+R5,1)]) ([(HIF_RING_SIZE_SIZE,R5,64),(HIF_RING_CFG_EN,R5,0),(HIF_RING_ERR_DISABLING,R5,0),(HIF_RING_ERR_STOPPED,R5,0),(HIF_STAT_BME,0,1),(GLB_RST_STAT_BUSY,0,0)] ++ l))
def run (ty : Nat) (l : List (Fld × Nat × Nat)) : State := {(hst ([(HIF_RING_CFG_EN,R5,1),(HIF_RING_CFG_TYPE,R5,ty)] ++ l)) with rings := [(5,{taken := 9, done := 5}),(6,{taken := 4})]}
def dtx (n : Nat) : Desc := {w0 := 0x1000, w1 := 5, w2 := BitVec.ofNat 32 n, w3 := 0x77}
def pay (n : Nat) : List Byte := (List.range n).map fun k => BitVec.ofNat 8 (k*3+1)
def hqf : Frame := {data := pay 70, outQ := 6144+3, src := 1, exp := true, handle := 4}
def hqs (l : List (Fld × Nat × Nat)) : State := {(run 1 ([(HIF_HQ_EN,12,1),(HIF_HQ_RING,12,5)] ++ l)) with xings := [(7,{other := [{data := [1], outQ := 6150}, hqf, hqf]})]}
def hqu (s : State) : State := ((s.hostTake 3).map (·.2)).getD s
def ev (l : List (Fld × Nat × Nat)) : State := onh (fs (rs all [(0x100000,0x1000),(0x100004,3)]) ([(EVT_RING_SIZE_SIZE,0,64),(EVT_RING_CFG_EN,0,0),(HIF_STAT_BME,0,1),(GLB_RST_STAT_BUSY,0,0)] ++ l))
def er (l : List (Fld × Nat × Nat)) : State := ev ([(EVT_RING_CFG_EN,0,1),(EVT_SRC_EN,4*300,1),(EVT_SRC_VEC,4*300,7)] ++ l)
def vx (l : List (Nat × Word)) : State := {(rs (ev []) ([(0xF0000+16*9,0x4000),(0xF0000+16*9+4,1),(0xF0000+16*9+8,77),(0xF0000+16*9+12,0)] ++ l)) with vecs := [(9,{causes := 3}),(10,{causes := 3})], hostMem := [(0x100004000,7),(0x100004004,7)]}
def full6 : State := {(fs (run 0 []) [(XNG_STAT_REFUSING,0x20*6,0)]) with xings := [(6,{other := List.replicate 512 {}})]}
def w1 : State := {(hst []) with rings := [(4,{taken := 3}),(5,{taken := 9, done := 8})]}
def w2 : Fin 64 := 5
def w3 : State := hst [(HIF_RING_CFG_EN,0x40*63,1),(HIF_RING_CFG_TYPE,0x40*63,3)]
def w4 : State := run 2 []
def w5 : State := {(run 0 [(HIF_RING_ERR_DISABLING,R5,1)]) with jobs := []}
def w6 : State := run 0 [(HIF_RING_IDX_PI,R5,3)]
def w7 : State := run 0 [(HIF_RING_ERR_STOPPED,R5,1)]
def w8 : State := fs (run 0 []) [(XNG_STAT_REFUSING,0x20*6,0)]
def w9 : Desc := dtx 100
def w10 : Desc := dtx 16381
def w11 : State := full6
def w12 : State := hqs []
def w13 : Fin 128 := 3
def w14 : Desc := dtx 2048
def w15 : Frame := hqf
def w16 : State := hqu (hqs [])
def w17 : State := {(run 2 [(HIF_RING_CFG_VEC,R5,9)]) with hostMem := [(5,7),(0x100020000+32*5-1,4),(0x100020000+32*5,4),(0x100020000+32*6,4)]}
def w18 : Desc := {w0 := 0x1000, w2 := 77}
def w19 : State := ev []
def w20 : State := rs (ev []) [(0x100000,0x1001)]
def w21 : State := ev [(EVT_RING_CFG_EN,0,1)]
def w22 : State := ev [(EVT_RING_CFG_EN,0,0)]
def w23 : Fin 512 := 509
def w24 : Fin 512 := 511
def w25 : Fin 512 := 12
def w26 : State := {(ev []) with lastRaise := [(12*2^20, (ev []).tick + 1)], aer := 1}
def w27 : Fin 512 := 32
def w28 : Fin 512 := 300
def w29 : State := er [(EVT_RING_PI_PI,0,60),(EVT_RING_CI_CI,0,61)]
def w30 : State := er [(EVT_RING_PI_PI,0,60),(EVT_RING_CI_CI,0,50),(HIF_VEC_COUNT,28,5),(HIF_VEC_HOLDOFF,28,9)]
def w31 : State := {(vx [(0xF0000+16*9+12,0)]) with vecs := [(9,{causes := 3, since := 5})], tick := 6}.setF HIF_VEC_HOLDOFF (4*9) 9
def w32 : Fin 64 := 9
def w33 : State := vx []
def w34 : State := vx [(0xF0000+16*9+12,1)]
def w35 : State := {(vx [(0xF0000+16*9+12,1)]) with vecs := [(9,{held := true}),(10,{causes := 3})]}
def w36 : Fin 64 := 15
def w37 : State := fs (ev []) [(GLB_RST_STAT_BUSY,0,1),(GLB_RST_STAT_LAST,0,2)]
def w38 : State := {(run 0 []) with d3hot := true}
def w39 : State := {(run 0 []) with vecs := [(9,{held := true})], evLost := 5}
def w40 : State := run 0 []
def w41 : HostResetCause := .flr
def w42 : State := run 0 []

theorem test_met_Rings :
    /- clause 0 -/ ((Reach w1 Req.host (36864 + 64 * ↑w2)) ∧ (w1.flag HIF_RING_CFG_EN (64 * ↑w2) = false) ∧ (w1.flag HIF_RING_ERR_DISABLING (64 * ↑w2) = false) ∧ (w1.ringCheck (↑w2) (HIF_RING_CFG_TYPE.of (wd [(HIF_RING_CFG_EN, 1), (HIF_RING_CFG_TYPE, 3)])) = 0) ∧ (Reach w3 Req.host (36864 + 64 * ↑w2)) ∧ (w3.flag HIF_RING_CFG_EN (64 * ↑w2) = false) ∧ (w3.flag HIF_RING_ERR_DISABLING (64 * ↑w2) = false) ∧ (w3.ringCheck (↑w2) (HIF_RING_CFG_TYPE.of (wd [(HIF_RING_CFG_EN, 1), (HIF_RING_CFG_TYPE, 3)])) = 2 + 1)) ∧
    /- clause 1 -/ ((Reach w4 Req.host (36864 + 64 * ↑w2)) ∧ (w4.flag HIF_RING_CFG_EN (64 * ↑w2) = true)) ∧
    /- clause 2 -/ ((w5.flag HIF_RING_ERR_DISABLING (64 * ↑w2) = true) ∧ (w5.hostOk = true) ∧ ((w5.jobs.any fun j => j.waiting) = false) ∧ ((w5.ring ↑w2).done ≤ (w5.ring ↑w2).taken)) ∧
    /- clause 3 -/ ((w6.warmBusy = false) ∧ (w6.flag HIF_RING_CFG_EN (64 * ↑w2) = true) ∧ (w6.flag HIF_RING_ERR_STOPPED (64 * ↑w2) = false) ∧ (bitsOf (BitVec.toNat 327683#32) 16 6 = ↑w2) ∧ (bitsOf (BitVec.toNat 327683#32) 0 16 < w6.ringN ↑w2)) ∧
    /- clause 4 -/ ((w7.warmBusy = false) ∧ (w7.flag HIF_RING_CFG_EN (64 * ↑w2) = false ∨ w7.flag HIF_RING_ERR_STOPPED (64 * ↑w2) = true)) ∧
    /- clause 5 -/ ((w8.ringReady (↑w2) 0 = true) ∧ (w8.txSend = none) ∧ (w8.txWaiting = []) ∧ ((w8.ring ↑w2).fetched = []) ∧ (w9.seg = false) ∧ (1 ≤ w9.txLen) ∧ (w9.txLen ≤ 16380) ∧ (w9.addr + w9.txLen ≤ 2 ^ 64) ∧ (w8.xRoom 6 false w9.txLen = true) ∧ (w10.seg = false) ∧ (16380 < w10.txLen) ∧ (w10.addr + w10.txLen ≤ 2 ^ 64) ∧ (w11.ringReady (↑w2) 0 = true) ∧ (w11.txSend = none) ∧ (w11.txWaiting = []) ∧ ((w11.ring ↑w2).fetched = []) ∧ (w11.xRoom 6 false w9.txLen = false)) ∧
    /- clause 6 -/ ((w12.ringReady (w12.f HIF_HQ_RING (4 * ↑w13)) 1 = true) ∧ (w12.flag HIF_HQ_EN (4 * ↑w13) = true) ∧ (1 ≤ w14.bufLen) ∧ (w14.addr + w14.bufLen ≤ 2 ^ 64) ∧ (w12.hostTake ↑w13 = some (w15, w16)) ∧ (w15.data.length ≤ w14.bufLen) ∧ (w15.flip = 0)) ∧
    /- clause 7 -/ ((w4.flag HIF_RING_CFG_EN (64 * ↑w2) = true) ∧ (w4.flag HIF_RING_ERR_STOPPED (64 * ↑w2) = false)) ∧
    /- clause 8 -/ (w17.ringReady (↑w2) 2 = true) ∧ (State.jobWraps w18 = false) ∧ (w18.op = 0) ∧ (w17.jobs = []) := by
  refine ⟨?_, ?_, ?_, ?_, ?_, ?_, ?_, ?_, ?_⟩ <;> decide +kernel

theorem test_met_EventsAndHostReset :
    /- clause 0 -/ ((Reach w19 Req.host 1048588) ∧ (w19.flag EVT_RING_CFG_EN = false) ∧ (w19.evtCheck = 0) ∧ (w19.pwr.held = []) ∧ (w19.pwr.heldLost = 0) ∧ (Reach w20 Req.host 1048588) ∧ (w20.flag EVT_RING_CFG_EN = false) ∧ (w20.evtCheck = 1 + 1)) ∧
    /- clause 1 -/ ((Reach w21 Req.host 1048588)) ∧
    /- clause 2 -/ ((Reach w22 Req.host 1048596) ∧ (w22.evLost = 0) ∧ (EVT_RING_CI_CI.of 6 < w22.evtN) ∧ (Reach w21 Req.host 1048596) ∧ (w21.evLost = 0) ∧ (w21.evtN ≤ EVT_RING_CI_CI.of 64)) ∧
    /- clause 3 -/ ((State.evtUsed ↑w23 = true) ∧ (↑w23 ≠ 5) ∧ (↑w23 ≠ 12) ∧ (15 ≤ 15) ∧ (State.evtUsed ↑w24 = false) ∧ (↑w25 = 12) ∧ (1 ≤ 1) ∧ (sget (fun x => 0) w19.lastRaise (12 * 2 ^ 20) = 0) ∧ (sget (fun x => 0) w26.lastRaise (12 * 2 ^ 20) = w26.tick + 1)) ∧
    /- clause 4 -/ ((State.evtUsed ↑w27 = true) ∧ (↑w27 ≠ 5) ∧ (↑w27 ≠ 9) ∧ (↑w27 ≠ 12) ∧ (15 < 1000)) ∧
    /- clause 5 -/ ((State.evtUsed ↑w28 = true) ∧ (↑w28 ≠ 12) ∧ ((w29.region 6).on = true) ∧ (w29.flag EVT_SRC_EN (4 * ↑w28) = true) ∧ (w29.flag EVT_RING_CFG_EN = true) ∧ (w29.evLost = 0) ∧ (w29.evtRoom = false) ∧ ((w30.region 6).on = true) ∧ (w30.flag EVT_SRC_EN (4 * ↑w28) = true) ∧ (w30.flag EVT_RING_CFG_EN = true) ∧ (w30.evLost = 0) ∧ (w30.evtRoom = true) ∧ (w30.evtN ≤ 65536) ∧ (w30.f EVT_RING_PI_PI + 1 < w30.evtN) ∧ ((w30.vec (w30.f EVT_SRC_VEC (4 * ↑w28))).causes + 1 < max 1 (w30.f HIF_VEC_COUNT (4 * w30.f EVT_SRC_VEC (4 * ↑w28)))) ∧ (1 ≤ w30.f HIF_VEC_HOLDOFF (4 * w30.f EVT_SRC_VEC (4 * ↑w28)))) ∧
    /- clause 6 -/ (((w31.vec ↑w32).causes ≠ 0) ∧ ((w31.tick - (w31.vec ↑w32).since) * 10 < w31.f HIF_VEC_HOLDOFF (4 * ↑w32) * 7776)) ∧
    /- clause 7 -/ (((w33.vec ↑w32).causes ≠ 0) ∧ (w33.hostOk = true) ∧ (w33.f HIF_VEC_HOLDOFF (4 * ↑w32) * 7776 ≤ (w33.tick - (w33.vec ↑w32).since) * 10) ∧ (w33.vecMasked ↑w32 = false) ∧ ((w34.vec ↑w32).causes ≠ 0) ∧ (w34.hostOk = true) ∧ (w34.f HIF_VEC_HOLDOFF (4 * ↑w32) * 7776 ≤ (w34.tick - (w34.vec ↑w32).since) * 10) ∧ (w34.vecMasked ↑w32 = true)) ∧
    /- clause 8 -/ ((w35.warmBusy = false) ∧ (w35.hostOk = true) ∧ ((w35.vec ↑w32).held = true) ∧ (w19.warmBusy = false) ∧ (w19.hostOk = true) ∧ ((w19.vec ↑w36).held = false) ∧ (w37.warmBusy = true)) ∧
    /- clause 9 -/ ((3 < 16) ∧ (16 < 32)) ∧
    /- clause 10 -/ ((w38.d3hot = false ∨ true = true)) ∧
    /- clause 11 -/ ((w39.d3hot = false) ∧ (w40.d3hot = false) ∧ ((List.any w40.vecs fun e => e.2.held) = false) ∧ (w40.evLost = 0) ∧ (w40.jobs = []) ∧ (w40.txWaiting = [])) ∧
    /- clause 12 -/ ((w38.d3hot = true)) ∧
    /- clause 13 -/ ((∀ (v : Word), w41 ≠ HostResetCause.glbRst v)) ∧
    /- clause 14 -/ (GLB_RST_KEY.of (wd [(GLB_RST_KEY, 31292), (GLB_RST_HOST, 1)]) = 31292) ∧ (GLB_RST_WARM.of (wd [(GLB_RST_KEY, 31292), (GLB_RST_HOST, 1)]) = 0) ∧ (GLB_RST_HOST.of (wd [(GLB_RST_KEY, 31292), (GLB_RST_HOST, 1)]) = 1) ∧ (w42.flag GLB_RST_STAT_BUSY = false) := by
  and_intros <;> first
    | exact (by intro v h; cases h)
    | decide +kernel

end K17

namespace K18

def noch := fs all [(MEM_CH_CFG_EN,0,0),(MEM_CH_CFG_EN,4,0),(MEM_CH_CFG_EN,8,0),(MEM_CH_CFG_EN,12,0)]
def trn : State := fs (noch.modMem fun m => {m with training := 0b0101}) [(MEM_CH_CFG_EN,8,1),(MEM_CH_CFG_EN,0,1)]
def dn : State := (fs {trn with dram := [(5,6),(6,7)]} [(MEM_CH_STAT_UP,8,1),(MEM_CH_STAT_UP,0,1)]).modMem fun m => {m with flips := [(4,5),(10,3)]}
def spu (k : Nat) (v : Word) (s : State) : State := s.setReg (0x1200040 + 4 * k) (v &&& (if k = 0 then 0xFFF00000#32 else if k = 1 then 0xFFFFFFFF#32 else 0x3FFFF#32))
def er (l : List (Fld × Nat × Nat)) : State := fs all l
def mm (k : Nat) : State := er [(MEM_MODE_MODE,0,k),(MEM_MODE_AREA_REFUSED,0,1),(MEM_MODE_FLIP_REFUSED,0,1)]
def R5 := 0x40*5
def onh (s : State) : State := on s [6]
def hst (l : List (Fld × Nat × Nat)) : State := onh (fs (rs all [(0x9008+R5,0x10000),(0x900C+R5,1),(0x9010+R5,0x20000),(0x9014+R5,1)]) ([(HIF_RING_SIZE_SIZE,R5,64),(HIF_RING_ERR_DISABLING,R5,0),(HIF_RING_ERR_STOPPED,R5,0),(HIF_STAT_BME,0,1),(GLB_RST_STAT_BUSY,0,0)] ++ l))
def run (ty : Nat) (l : List (Fld × Nat × Nat)) : State := {(hst ([(HIF_RING_CFG_EN,R5,1),(HIF_RING_CFG_TYPE,R5,ty)] ++ l)) with rings := [(5,{taken := 9, done := 5}),(6,{taken := 4})]}
def jb : Job := {ring := 5, op := 1, unit := 1, addr := 128, len := 64, tag := 4}
def w1 : State := fs all [(MEM_CH_CFG_EN,8,1)]
def w2 : Fin 4 := 2
def w3 : State := noch
def w4 : State := fs trn [(MEM_CH_STAT_STEST_FAIL,8,1),(MEM_CH_STAT_UP,8,1)]
def w5 : State := {fs trn [(MEM_CH_CFG_DENSITY,8,3)] with dram := [(5,6)]}
def w6 : State := trn
def w7 : Fin 4 := 3
def w8 : State := fs dn [(CAP_CFG_EN,0,1)]
def w9 : Fin 4 := 2
def w10 : State := fs dn [(CAP_CFG_EN,0,0),(MEM_CH_STAT_UP,8,0)]
def w11 : State := fs noch [(CAP_CFG_EN,0,0)]
def w12 : Fin 3 := 0
def w13 : State := spu 0 0xFFFFFFFF (fs noch [(CAP_CFG_EN,0,0)])
def w14 : Fin 3 := 2
def w15 : State := spu 2 0 (fs noch [(CAP_CFG_EN,0,0)])
def w16 : State := er [(MEM_RMP_CFG_AUTO,0,0)]
def w17 : Fin 128 := 77
def w18 : State := rs (er [(MEM_RMP_CFG_AUTO,0,1)]) [(State.mapReg true 77 0, 0x10000000)]
def w19 : State := er []
def w20 : State := er [(MEM_FLIP_CFG_ARM,0,1),(MEM_FLIP_CFG_KIND,0,1),(MEM_FLIP_CFG_TARGET,0,77)] |> (rs · [(0x1200094,0),(0x1200098,0),(0x120009C,0)])
def w21 : State := er [(MEM_RMP_VALID,0xC0+4*9,0)]
def w22 : Fin 16 := 9
def w23 : State := er [(MEM_RMP_VALID,0xC0+4*9,1)]
def w24 : State := rs all [(0x1202000+0x20*100+4*7,0)]
def w25 : Fin 128 := 100
def w26 : Fin 8 := 7
def w27 : State := rs all [(0x1202000+0x20*100+4*7,0x80000005)]
def w28 : State := mm 1
def w29 : State := mm 0
def w30 : State := run 2 []
def w31 : Fin 64 := 5
def w32 : Desc := {w2 := 64, w6 := 0x101}
def w33 : Desc := {w0 := 64, w2 := 64, w6 := 0xF01}
def w34 : Desc := {w0 := 64, w2 := 0, w6 := 0x101}
def w35 : State := {(run 2 []) with jobs := [jb]}
def w36 : Job := jb
def w37 : State := {(run 2 []) with jobs := [{jb with op := 2}]}

theorem test_met_DramChannels :
    /- clause 0 -/ ((Reach w1 Req.host (18874384 + 4 * ↑w2)) ∧ (w1.flag MEM_CH_CFG_EN (4 * ↑w2) = true) ∧ (Reach w3 (Req.team 3) (18874384 + 4 * ↑w2)) ∧ (w3.flag MEM_CH_CFG_EN (4 * ↑w2) = false) ∧ (MEM_CH_CFG_DENSITY.of (wd [(MEM_CH_CFG_DENSITY, 3)]) = 3) ∧ (∀ k < 4, w3.flag MEM_CH_CFG_EN (4 * k) = false) ∧ (MEM_CH_CFG_DENSITY.of (wd [(MEM_CH_CFG_DENSITY, 2), (MEM_CH_CFG_WIDTH, 1)]) ≠ 3) ∧ ((MEM_CH_CFG_RANKS.of (wd [(MEM_CH_CFG_DENSITY, 2), (MEM_CH_CFG_WIDTH, 1)]) + 1) * (64 / if MEM_CH_CFG_WIDTH.of (wd [(MEM_CH_CFG_DENSITY, 2), (MEM_CH_CFG_WIDTH, 1)]) = 1 then 8 else 4) * State.chDensity (MEM_CH_CFG_DENSITY.of (wd [(MEM_CH_CFG_DENSITY, 2), (MEM_CH_CFG_WIDTH, 1)])) / 8 ≤ 32)) ∧
    /- clause 1 -/ ((w4.training ↑w2 = true) ∧ (w4.chRefused ↑w2 = false) ∧ (w4.flag MEM_CH_STAT_UP (4 * ↑w2) = true ∨ w4.flag MEM_CH_STAT_STEST_FAIL (4 * ↑w2) = true) ∧ (w5.training ↑w2 = true) ∧ (w5.chRefused ↑w2 = true)) ∧
    /- clause 2 -/ ((w6.training ↑w7 = false)) ∧
    /- clause 3 -/ ((w8.flag MEM_CH_STAT_UP (4 * ↑w9) = true) ∧ (w8.scrubsOpen = []) ∧ (w8.flag CAP_CFG_EN = true) ∧ (w10.flag MEM_CH_STAT_UP (4 * ↑w9) = false)) ∧
    /- clause 4 -/ (Reach w11 Req.host (18874432 + 4 * ↑w12)) ∧ (w11.flag CAP_CFG_EN = false) ∧ (w13 = w11.setReg (18874432 + 4 * ↑w12) (4294967295 &&& if ↑w12 = 0 then 4293918720#32 else if ↑w12 = 1 then 4294967295#32 else 262143#32)) ∧ (w11.spillHeld = true ∨ w13.dramTop < w13.spillBase + w13.spillBytes) ∧ (Reach w11 Req.host (18874432 + 4 * ↑w14)) ∧ (w15 = w11.setReg (18874432 + 4 * ↑w14) (0 &&& if ↑w14 = 0 then 4293918720#32 else if ↑w14 = 1 then 4294967295#32 else 262143#32)) ∧ (w11.spillHeld = false) ∧ (w15.spillBase + w15.spillBytes ≤ w15.dramTop) := by
  refine ⟨?_, ?_, ?_, ?_, ?_⟩ <;> decide +kernel

theorem test_met_MemoryRepair :
    /- clause 0 -/ ((w16.flipArmed true ↑w17 = false) ∧ (w16.flag MEM_RMP_CFG_AUTO = false) ∧ (w18.flipArmed true ↑w17 = false) ∧ (w18.flag MEM_RMP_CFG_AUTO = true) ∧ (0 < 8) ∧ (∀ i < 0, bitOf (BitVec.toNat (w18.reg (State.mapReg true (↑w17) i))) 31 = true) ∧ (bitOf (BitVec.toNat (w18.reg (State.mapReg true (↑w17) 0))) 31 = false)) ∧
    /- clause 1 -/ ((w19.flipArmed false (w19.dramLine (2 ^ 35 + 9)).1 = false)) ∧
    /- clause 2 -/ ((w20.flipArmed true ↑w17 = true) ∧ (State.maskVerdict true w20.flipMask = 0)) ∧
    /- clause 3 -/ ((Reach w21 Req.host (18878464 + 64 * ↑w7 + 4 * ↑w22)) ∧ (MEM_RMP_VALID.of 4294967295 = 1) ∧ (w21.flag MEM_RMP_VALID (64 * ↑w7 + 4 * ↑w22) = false) ∧ (w21.flipArmed false ↑w7 = false) ∧ (∀ i < 16, i ≠ ↑w22 → bitOf (BitVec.toNat (w21.reg (State.mapReg false (↑w7) i))) 31 = false) ∧ (Reach w23 Req.host (18878464 + 64 * ↑w7 + 4 * ↑w22)) ∧ (MEM_RMP_VALID.of 2147483647 = 0)) ∧
    /- clause 4 -/ ((Reach w24 (Req.team 4) (18882560 + 32 * ↑w25 + 4 * ↑w26)) ∧ (bitOf (BitVec.toNat 4294967295#32) 31 = true) ∧ (bitOf (BitVec.toNat (w24.reg (18882560 + 32 * ↑w25 + 4 * ↑w26))) 31 = false) ∧ (Reach w27 (Req.team 4) (18882560 + 32 * ↑w25 + 4 * ↑w26)) ∧ (bitOf (BitVec.toNat 2147483647#32) 31 = false)) ∧
    /- clause 5 -/ ((Reach w28 Req.host 18874368)) ∧
    /- clause 6 -/ ((127 < 128) ∧ (15 < 16) ∧ (Reach w29 Req.host 18874368) ∧ (w29.f MEM_MODE_MODE = 0) ∧ (MEM_MODE_MODE.of 1 = 1) ∧ (48 ≤ 127) ∧ (3 < 128) ∧ (3 < 4)) ∧
    /- clause 7 -/ ((Reach w28 (Req.team 3) 18874512) ∧ (w28.f MEM_MODE_MODE = 1) ∧ (Reach w29 (Req.team 3) 18874512) ∧ (w29.f MEM_MODE_MODE ≠ 1)) ∧
    /- clause 8 -/ ((w30.ringReady (↑w31) 2 = true) ∧ (w32.op = 1) ∧ (State.jobWraps w32 = false) ∧ (w30.jobs = []) ∧ (w32.unit = 1) ∧ (w32.addr + w32.jobLen ≤ padBytes) ∧ (1 ≤ w32.jobLen) ∧ (w33.op = 1) ∧ (State.jobWraps w33 = false) ∧ (1 < w33.unit) ∧ (w34.op = 1) ∧ (State.jobWraps w34 = false) ∧ (w34.unit = 1) ∧ (w34.addr ≤ padBytes) ∧ (w34.jobLen = 0)) ∧
    /- clause 9 -/ ((w35.jobs = [w36]) ∧ (w36.op = 1) ∧ (w36.res = none) ∧ (w36.waiting = false) ∧ (w36.unit = 1) ∧ (1 ≤ w36.len) ∧ (w35.hostOk = true)) ∧
    /- clause 10 -/ ((w37.jobs.any fun j => j.res.isNone && j.op == 1) = false) := by
  refine ⟨?_, ?_, ?_, ?_, ?_, ?_, ?rest⟩
  case rest => refine ⟨?_, ?_, ?_, ?_, ?_⟩ <;> decide +kernel
  all_goals decide +kernel

end K18

namespace K19

def hstage : SMap Word := (List.range 8).map fun k => (reqCode .host*16+k, BitVec.ofNat 32 (0x01020304 * (k+1)))
def kx (l : List (Fld × Nat × Nat)) : State := (fs all ([(SEC_CFG_OWNER,0,reqCode .host),(SEC_ENT_STAT_FAIL,0,0)] ++ l)).modSec fun c => {c with keys := [(3,List.replicate 16 5),(9,List.replicate 32 7)], stage := hstage}
def nol (s : State) : State := {s with regs := s.regs.filter fun e => !(decide (0x1310000 ≤ e.1) && decide (e.1 < 0x1320000))}
def v1 := wd [(SEC_UNW_CMD_KEK,3),(SEC_UNW_CMD_DEST,20)]
def ks2 (l : List (Fld × Nat × Nat)) := nol (kx ([(SEC_SLOT_STATE,12,1),(SEC_SLOT_STATE,36,2),(SEC_SLOT_STATE,80,0)]++l))
def u0 : Unw := {req := reqCode .host, kek := 3, dest := 20, data := List.replicate 8 0}
def hx (s : List Nat) : List Byte := s.map (BitVec.ofNat 8)
def kk : List Byte := (List.range 16).map (BitVec.ofNat 8)
def wr : List Byte := hx [0x1F,0xA6,0x8B,0x0A,0x81,0x12,0xB4,0x47,0xAE,0xF3,0x4B,0xD8,0xFB,0x5A,0x7B,0x82,0x9D,0x3E,0x86,0x23,0x71,0xD2,0xCF,0xE5]
def u1 : Unw := {req := reqCode .host, kek := 3, dest := 20, data := wr}
def ks3 : State := (ks2 []).modSec (fun c => {c with keys := [(3,kk),(9,List.replicate 32 7)], unw := [u1]})
def R5 := 0x40*5
def onh (s : State) : State := on s [6]
def hst (l : List (Fld × Nat × Nat)) : State := onh (fs (rs (ks2 []) [(0x9008+R5,0x10000),(0x900C+R5,1),(0x9010+R5,0x20000),(0x9014+R5,1)]) ([(HIF_RING_SIZE_SIZE,R5,64),(HIF_RING_ERR_DISABLING,R5,0),(HIF_RING_ERR_STOPPED,R5,0),(HIF_STAT_BME,0,1),(GLB_RST_STAT_BUSY,0,0)] ++ l))
def run (ty : Nat) (l : List (Fld × Nat × Nat)) : State := {(hst ([(HIF_RING_CFG_EN,R5,1),(HIF_RING_CFG_TYPE,R5,ty)] ++ l)) with rings := [(5,{taken := 9, done := 5}),(6,{taken := 4})]}
def d3 (op n a : Nat) : Desc := {w0 := 4096, w2 := BitVec.ofNat 32 n, w3 := 77, w4 := BitVec.ofNat 32 a, w6 := BitVec.ofNat 32 op}
def jb : Job := {ring := 5, op := 3, addr := 128, len := 32, tag := 4, arg0 := 3}
def jb4 : Job := {ring := 5, op := 4, addr := 128, len := 8, tag := 4, arg0 := 3+256*20}
def kek : List Byte := List.replicate 16 5
def ck (l : List (Fld × Nat × Nat)) (u : Nat) : State := fs (ks2 []) ([(CHK_CFG_WIDTH,u*256,32),(CHK_CFG_REFIN,u*256,0),(CHK_CFG_NBYTES,u*256,4),(CHK_SCAN_CTRL_BUSY,u*256,0)] ++ l)
def ckn (l : List (Fld × Nat × Nat)) (u : Nat) : State := ck ([(CHK_SCAN_ADDR_LO_ADDR,u*256,64),(CHK_SCAN_ADDR_HI_ADDR,u*256,0),(CHK_SCAN_LEN_LEN,u*256,100)]++l) u
def wr0 : List Byte := List.replicate 8 0xA6
def kst : State := {(run 2 [(SEC_SLOT_STATE,80,0)]).modSec (fun c => {c with keys := [(3,kek)], unw := [{u0 with data := wr0}]}) with jobs := []}
def w1 : State := nol (kx [])
def w2 : Fin 64 := 40
def w3 : State := kx [(SEC_CFG_OWNER,0,3)]
def w4 : State := ks3
def w5 : Fin 64 := 20
def w6 : Fin 64 := 9
def w7 : State := fs (kx []) [(SEC_DKEY_VALID,0,1),(SEC_DKEY_SLOT1,0,9)]
def w8 : State := ks2 []
def w9 : State := ks2 [(SEC_SLOT_STATE,80,1)]
def w10 : State := (ks2 []).modSec (fun c => {c with unw := [u0]})
def w11 : Unw := u0
def w12 : State := kst
def w13 : Unw := {u0 with data := wr0}
def w14 : List Byte := ([] : List Byte)
def w15 : State := kx []
def w16 : State := kx [(SEC_ENT_STAT_FAIL,0,1),(SEC_ENT_STAT_RESTART,0,0)]
def w17 : State := run 2 []
def w18 : Fin 64 := 5
def w19 : Desc := d3 3 32 3
def w20 : Desc := d3 3 0 3
def w21 : State := {run 2 [] with jobs := [jb]}
def w22 : Job := jb
def w23 : Desc := d3 4 40 (3+256*20)
def w24 : State := {kst.modSec (fun c => {c with unw := []}) with jobs := [jb4]}
def w25 : Job := jb4
def w26 : List Byte := wr0
def w27 : List Byte := []
def w28 : State := ck [(CHK_SCAN_CTRL_BUSY,512,1)] 2
def w29 : Fin 4 := 2
def w30 : State := ck [(CHK_CFG_NBYTES,0,2),(CHK_CFG_WIDTH,0,63)] 0
def w31 : Fin 4 := 0
def w32 : State := ckn [] 1
def w33 : Fin 4 := 1
def w34 : State := ckn [(CHK_SCAN_ADDR_HI_ADDR,256,0xFFFFFFFF),(CHK_SCAN_ADDR_LO_ADDR,256,0xFFFFFFFF)] 1
def w35 : State := run 2 [(CHK_SCAN_CTRL_BUSY,512,0)]
def w36 : Desc := d3 (2+512) 77 0
def w37 : State := ck [] 1
def w38 : State := fs (ckn [(CHK_SCAN_CTRL_BUSY,256,1),(CHK_SCAN_CTRL_SRC,256,0)] 1) [(HIF_STAT_BME,0,0)]
def w39 : State := ckn [(CHK_SCAN_CTRL_BUSY,256,1),(CHK_SCAN_CTRL_SRC,256,0),(HIF_STAT_BME,0,1)] 1

theorem test_met_KeySlots :
    /- clause 0 -/ ((Reach w1 Req.host 19922992) ∧ (w1.secOwner Req.host = true) ∧ (w1.slotUse ↑w2 = none)) ∧
    /- clause 1 -/ ((Reach w3 Req.host 19922992) ∧ (w3.secOwner Req.host = false)) ∧
    /- clause 2 -/ ((Reach w4 Req.host 19922992) ∧ (w4.secOwner Req.host = true) ∧ (w4.slotUse ↑w5 = some 2)) ∧
    /- clause 3 -/ ((Reach w1 Req.host 19922992) ∧ (w1.secOwner Req.host = true) ∧ (w1.slotUse ↑w6 = none)) ∧
    /- clause 4 -/ ((Reach w7 Req.host 19922992) ∧ (w7.secOwner Req.host = true)) ∧
    /- clause 5 -/ ((Reach w8 Req.host 19923048) ∧ (w8.secOwner Req.host = true) ∧ ((w8.sec.unw.any fun u => u.req == reqCode Req.host) = false) ∧ (w8.unwrapRefused (SEC_UNW_CMD_KEK.of v1) (SEC_UNW_CMD_DEST.of v1) = 0) ∧ (Reach w9 Req.host 19923048) ∧ (w9.secOwner Req.host = true) ∧ ((w9.sec.unw.any fun u => u.req == reqCode Req.host) = false) ∧ (w9.unwrapRefused (SEC_UNW_CMD_KEK.of v1) (SEC_UNW_CMD_DEST.of v1) = 19 + 1)) ∧
    /- clause 6 -/ ((List.find? (fun u => u.req == reqCode Req.host) w10.sec.unw = some w11) ∧ (w10.flag SEC_ENT_STAT_FAIL = false) ∧ (keyUnwrap (w10.keyOf w11.kek) w11.data = none) ∧ (List.find? (fun u => u.req == reqCode Req.host) w12.sec.unw = some w13) ∧ (w12.flag SEC_ENT_STAT_FAIL = false) ∧ (keyUnwrap (w12.keyOf w13.kek) w13.data = some w14)) ∧
    /- clause 7 -/ ((Reach w15 Req.host (19923456 + 16 * sideNo Side.b)) ∧ (w15.secOwner Req.host = true)) ∧
    /- clause 9 -/ (Reach w15 Req.host 19922948) ∧ (true = true) ∧ (Reach w16 Req.host 19922948) ∧ (false = false) := by
  refine ⟨?_, ?_, ?_, ?_, ?_, ?_, ?_, ?_, ?_⟩ <;> decide +kernel

theorem test_met_CheckJobs :
    /- clause 0 -/ ((w17.ringReady (↑w18) 2 = true) ∧ (w19.op = 3) ∧ (State.jobWraps w19 = false) ∧ (w19.jobLen % 16 = 0) ∧ (1 ≤ w19.jobLen) ∧ (w17.flag SEC_ENT_STAT_FAIL = false) ∧ (w17.keyEmpty (w19.arg0 % 64) = false) ∧ (w17.jobs = []) ∧ (w17.sec.calls.length < 64)) ∧
    /- clause 1 -/ ((w17.ringReady (↑w18) 2 = true) ∧ (w20.op = 3) ∧ (State.jobWraps w20 = false) ∧ (w20.jobLen = 0) ∧ (w17.jobs = [])) ∧
    /- clause 2 -/ ((w21.jobs = [w22]) ∧ (w22.op = 3) ∧ (w22.res = none) ∧ (w22.waiting = false) ∧ (1 ≤ w22.len) ∧ (w21.hostOk = true) ∧ (w21.flag SEC_ENT_STAT_FAIL = false) ∧ (w21.keyEmpty (w22.arg0 % 64) = false) ∧ (w21.sec.calls = [])) ∧
    /- clause 3 -/ ((w17.ringReady (↑w18) 2 = true) ∧ (w23.op = 4) ∧ (State.jobWraps w23 = false) ∧ (w23.jobLen = 24 ∨ w23.jobLen = 40) ∧ (w17.unwrapRefused (w23.arg0 % 64) (bitsOf w23.arg0 8 6) = 0) ∧ (w17.jobs = []) ∧ (w17.sec.calls.length < 64)) ∧
    /- clause 4 -/ ((w24.jobs = [w25]) ∧ (w25.op = 4) ∧ (w25.res = none) ∧ (w25.waiting = false) ∧ (w24.hostOk = true) ∧ (w24.flag SEC_ENT_STAT_FAIL = false) ∧ (keyUnwrap (w24.keyOf (w25.arg0 % 64)) (bytesAt w26 0 w25.len) = some w27)) ∧
    /- clause 5 -/ ((Reach w28 Req.host (19955752 + 256 * ↑w29)) ∧ (w28.chkBusy ↑w29 = true) ∧ (Reach w30 (Req.team 4) (19955752 + 256 * ↑w31)) ∧ (w30.chkBusy ↑w31 = false) ∧ (w30.flag CHK_CFG_REFIN (State.chkI ↑w31) = false) ∧ (1 ≤ w30.f CHK_CFG_NBYTES (State.chkI ↑w31)) ∧ (w30.f CHK_CFG_NBYTES (State.chkI ↑w31) ≤ 4)) ∧
    /- clause 6 -/ ((Reach w32 Req.host (19955772 + 256 * ↑w33)) ∧ (w32.chkBusy ↑w33 = false) ∧ (w32.chkRangeBad (CHK_SCAN_CTRL_SRC.of 0 != 0) (w32.f CHK_SCAN_ADDR_LO_ADDR (State.chkI ↑w33) + 2 ^ 32 * w32.f CHK_SCAN_ADDR_HI_ADDR (State.chkI ↑w33)) (w32.f CHK_SCAN_LEN_LEN (State.chkI ↑w33)) = false) ∧ (false = false) ∧ (1 ≤ w32.f CHK_SCAN_LEN_LEN (State.chkI ↑w33)) ∧ (Reach w34 Req.host (19955772 + 256 * ↑w33)) ∧ (w34.chkBusy ↑w33 = false) ∧ (w34.chkRangeBad (CHK_SCAN_CTRL_SRC.of 0 != 0) (w34.f CHK_SCAN_ADDR_LO_ADDR (State.chkI ↑w33) + 2 ^ 32 * w34.f CHK_SCAN_ADDR_HI_ADDR (State.chkI ↑w33)) (w34.f CHK_SCAN_LEN_LEN (State.chkI ↑w33)) = true) ∧ (true = true)) ∧
    /- clause 7 -/ ((w35.ringReady (↑w18) 2 = true) ∧ (w36.op = 2) ∧ (w36.unit ≤ 3) ∧ (bitOf w36.arg0 0 = false) ∧ (State.jobWraps w36 = false) ∧ (w35.chkBusy w36.unit = false) ∧ (1 ≤ w36.jobLen) ∧ (w35.jobs = [])) ∧
    /- clause 8 -/ ((w37.chkBusy ↑w33 = false)) ∧
    /- clause 9 -/ ((w38.hostOk = false) ∧ (w38.flag CHK_SCAN_CTRL_SRC (State.chkI ↑w33) = false) ∧ (w38.jobs = [])) ∧
    /- clause 10 -/ (w39.chkBusy ↑w33 = true) ∧ (w39.jobs = []) ∧ (w39.flag CHK_SCAN_CTRL_SRC (State.chkI ↑w33) = false) ∧ (w39.hostOk = true) ∧ (0 < w39.f CHK_SCAN_LEN_LEN (State.chkI ↑w33)) := by
  refine ⟨?_, ?_, ?_, ?_, ?_, ?_, ?rest⟩
  case rest => refine ⟨?_, ?_, ?_, ?_, ?_⟩ <;> decide +kernel
  all_goals decide +kernel

end K19

namespace K21

def ps (n : Nat) (l : List (Fld × Nat × Nat)) : State := fs all ([(PWR_STATE_STATE,0,n),(PWR_CFG_OWNER,0,reqCode .host),(FAR_STAT_BUSY,0,0),(GLB_RST_STAT_BUSY,0,0)] ++ l)
def now : List (Fld × Nat × Nat) := [(GRM_WAKE_CFG_EN,0,0)]
def tr (p t : Nat) : State := (ps p []).modPwr fun x => {x with target := some t, prev := p}
def trn (p n : Nat) (l : List (Fld × Nat × Nat)) : State := (ps p l).modPwr fun x => {x with target := some n, prev := p}
def off (s : State) (l : List Nat) : State := l.foldl (fun s r => s.setRegion r {}) s
def w1 : State := ps 4 [(PWR_CFG_OWNER,0,3)]
def w2 : State := ps 4 now
def w3 : State := ps 1 now
def w4 : State := ps 4 [(GRM_WAKE_CFG_EN,0,4),(GRM_WAKE_CFG_WN_EDGE,0,0)]
def w5 : State := (ps 4 now).modPwr (fun p => {p with target := some 2})
def w6 : State := ps 3 now
def w7 : State := ps 1 [(PWR_CFG_OWNER,0,3)]
def w8 : State := ps 2 []
def w9 : State := (ps 1 now).modPwr (fun p => {p with loss := 1})
def w10 : State := ps 1 [(GRM_WAKE_CFG_EN,0,4),(GRM_WAKE_CFG_WN_EDGE,0,0)]
def w11 : State := ps 3 []
def w12 : State := ps 4 []
def w13 : State := tr 1 2
def w14 : State := (tr 4 2).modPwr (fun x => {x with wakeAfter := true})
def w15 : State := (tr 4 1).modPwr (fun x => {x with wakeAfter := true})
def w16 : State := on (fs {} [(PWR_STATE_STATE,0,4)]) []
def w17 : Option Nat := none
def w18 : State := (ps 2 [(GRM_WAKE_CFG_EN,0,2),(GRM_WAKE_CFG_LANES,0,2),(GRM_WAKE_REC_COUNT,0,0)])
def w19 : State := ps 1 [(GRM_WAKE_CFG_EN,0,2),(GRM_WAKE_CFG_LANES,0,2)]
def w20 : State := trn 3 2 [(GRM_WAKE_CFG_EN,0,0x3F),(GRM_WAKE_CFG_LANES,0,3)]
def w21 : State := (ps 1 [(GRM_WAKE_CFG_EN,0,8),(GRM_WAKE_TIMER_MS,0,9)]).modPwr (fun p => {p with entered := 7, cycle := 225000})
def w22 : State := (ps 3 [(GRM_WAKE_CFG_EN,0,0x3F),(GRM_WAKE_TIMER_MS,0,9)]).modPwr (fun p => {p with entered := 7, cycle := 225007})
def w23 : State := ps 4 []
def w24 : State := (off (ps 2 []) [0,1,2,3,4,5,6]).modPwr fun p => {p with loss := 2}
def w25 : State := off (ps 2 []) [0,2,3,4,5,6]
def w26 : State := (off (ps 2 []) [0,1,2,3,4,5,6]).modPwr fun p => {p with winStart := 5, cycle := 4}
def w27 : State := (off (ps 2 []) [1,2,3,4,5,6]).modPwr fun p => {p with winStart := 5, cycle := 4 + 3125*65536*8}

theorem test_met_PowerStates :
    /- clause 0 -/ ((Reach w1 Req.host 2097152) ∧ (reqCode Req.host ≠ w1.f PWR_CFG_OWNER) ∧ (Req.host ≠ Req.groom) ∧ (Reach w2 Req.host 2097152) ∧ (reqCode Req.host = w2.f PWR_CFG_OWNER ∨ Req.host = Req.groom) ∧ (w2.pwrState ≠ 1) ∧ (w2.pwr.target = none) ∧ (w2.pwr.loss = 0) ∧ (w2.farBusy = false) ∧ (w2.pwr.failed = false ∨ 1 < w2.pwrState) ∧ (w2.wakeLevel 1 0 false = false) ∧ (Reach w3 Req.host 2097152) ∧ (reqCode Req.host = w3.f PWR_CFG_OWNER ∨ Req.host = Req.groom) ∧ (w3.pwrState = 1) ∧ (Reach w4 Req.host 2097152) ∧ (reqCode Req.host = w4.f PWR_CFG_OWNER ∨ Req.host = Req.groom) ∧ (w4.pwrState ≠ 1) ∧ (w4.pwr.target = none) ∧ (w4.pwr.loss = 0) ∧ (w4.farBusy = false) ∧ (w4.pwr.failed = false ∨ 1 < w4.pwrState) ∧ (w4.wakeLevel 1 0 true = true) ∧ (Reach w5 Req.host 2097152) ∧ (reqCode Req.host = w5.f PWR_CFG_OWNER ∨ Req.host = Req.groom) ∧ (w5.pwrState ≠ 1) ∧ (w5.pwr.target.isSome = true ∨ w5.pwr.loss ≠ 0 ∨ w5.pwr.failed = true ∧ w5.pwrState < 1)) ∧
    /- clause 1 -/ ((Reach w6 Req.groom 2097152) ∧ (reqCode Req.groom = w6.f PWR_CFG_OWNER ∨ Req.groom = Req.groom) ∧ (w6.pwrState ≠ 2) ∧ (w6.pwr.target = none) ∧ (w6.pwr.loss = 0) ∧ (w6.farBusy = false) ∧ (w6.pwr.failed = false ∨ 2 < w6.pwrState) ∧ (w6.wakeLevel 2 0 false = false) ∧ (Reach w7 Req.host 2097152) ∧ (reqCode Req.host ≠ w7.f PWR_CFG_OWNER) ∧ (Req.host ≠ Req.groom) ∧ (Reach w8 Req.host 2097152) ∧ (reqCode Req.host = w8.f PWR_CFG_OWNER ∨ Req.host = Req.groom) ∧ (w8.pwrState = 2) ∧ (Reach w9 Req.host 2097152) ∧ (reqCode Req.host = w9.f PWR_CFG_OWNER ∨ Req.host = Req.groom) ∧ (w9.pwrState ≠ 2) ∧ (w9.pwr.target.isSome = true ∨ w9.pwr.loss ≠ 0 ∨ w9.pwr.failed = true ∧ w9.pwrState < 2) ∧ (Reach w10 Req.host 2097152) ∧ (reqCode Req.host = w10.f PWR_CFG_OWNER ∨ Req.host = Req.groom) ∧ (w10.pwrState ≠ 2) ∧ (w10.pwr.target = none) ∧ (w10.pwr.loss = 0) ∧ (w10.farBusy = false) ∧ (w10.pwr.failed = false ∨ 2 < w10.pwrState) ∧ (w10.wakeLevel 2 0 true = true)) ∧
    /- clause 2 -/ ((Reach w3 Req.host 2097152) ∧ (reqCode Req.host = w3.f PWR_CFG_OWNER ∨ Req.host = Req.groom) ∧ (w3.pwrState ≠ 3) ∧ (w3.pwr.target = none) ∧ (w3.pwr.loss = 0) ∧ (w3.farBusy = false) ∧ (w3.pwr.failed = false ∨ 3 < w3.pwrState) ∧ (w3.wakeLevel 3 2 true = false) ∧ (Reach w7 Req.host 2097152) ∧ (reqCode Req.host ≠ w7.f PWR_CFG_OWNER) ∧ (Req.host ≠ Req.groom) ∧ (Reach w11 Req.host 2097152) ∧ (reqCode Req.host = w11.f PWR_CFG_OWNER ∨ Req.host = Req.groom) ∧ (w11.pwrState = 3) ∧ (Reach w9 Req.host 2097152) ∧ (reqCode Req.host = w9.f PWR_CFG_OWNER ∨ Req.host = Req.groom) ∧ (w9.pwrState ≠ 3) ∧ (w9.pwr.target.isSome = true ∨ w9.pwr.loss ≠ 0 ∨ w9.pwr.failed = true ∧ w9.pwrState < 3) ∧ (Reach w10 Req.host 2097152) ∧ (reqCode Req.host = w10.f PWR_CFG_OWNER ∨ Req.host = Req.groom) ∧ (w10.pwrState ≠ 3) ∧ (w10.pwr.target = none) ∧ (w10.pwr.loss = 0) ∧ (w10.farBusy = false) ∧ (w10.pwr.failed = false ∨ 3 < w10.pwrState) ∧ (w10.wakeLevel 3 0 true = true)) ∧
    /- clause 3 -/ ((Reach w12 Req.host 2097152) ∧ (reqCode Req.host = w12.f PWR_CFG_OWNER ∨ Req.host = Req.groom) ∧ (w12.pwrState = 4) ∧ (Reach w10 Req.host 2097152) ∧ (reqCode Req.host = w10.f PWR_CFG_OWNER ∨ Req.host = Req.groom) ∧ (w10.pwrState ≠ 4) ∧ (w10.pwr.target = none) ∧ (w10.pwr.loss = 0) ∧ (w10.farBusy = false) ∧ (w10.pwr.failed = false ∨ 4 < w10.pwrState) ∧ (w10.wakeLevel 4 0 true = false) ∧ (Reach w7 Req.host 2097152) ∧ (reqCode Req.host ≠ w7.f PWR_CFG_OWNER) ∧ (Req.host ≠ Req.groom) ∧ (Reach w9 Req.host 2097152) ∧ (reqCode Req.host = w9.f PWR_CFG_OWNER ∨ Req.host = Req.groom) ∧ (w9.pwrState ≠ 4) ∧ (w9.pwr.target.isSome = true ∨ w9.pwr.loss ≠ 0 ∨ w9.pwr.failed = true ∧ w9.pwrState < 4)) ∧
    /- clause 4 -/ ((w12.pwr.target = none)) ∧
    /- clause 5 -/ ((w13.pwr.target = some 2) ∧ (w13.pwr.tries ≠ 1) ∧ (2 ≤ 4) ∧ (w13.pwr.wakeAfter = false) ∧ (w14.pwr.target = some 2) ∧ (w14.pwr.tries ≠ 1) ∧ (1 ≤ 2) ∧ (2 ≤ 2) ∧ (2 < w14.pwr.prev) ∧ (w14.f GRM_RAIL_PG = w14.f GRM_RAIL_EN) ∧ (w15.pwr.target = some 1) ∧ (w15.pwr.tries ≠ 1) ∧ (1 ≤ 4) ∧ (1 = 1) ∧ (1 < w15.pwr.prev)) ∧
    /- clause 6 -/ ((Reach w16 Req.groom 2097160) ∧ (w16.pwrState = 4) ∧ (w16.pwr.target = none) ∧ (w16.pwr.loss = 0) ∧ (Reach w8 Req.groom 2097160) ∧ (w8.pwrState ≠ 4 ∨ w8.pwr.target.isSome = true ∨ w8.pwr.loss ≠ 0)) ∧
    /- clause 7 -/ ((State.wakeBlind w17 = false) ∧ (w18.pwr.loss = 0) ∧ (w18.pwr.target = none) ∧ (w18.pwr.failed = false) ∧ (1 ≤ w18.pwrState) ∧ (w18.pwrState ≤ 3) ∧ (2 = w18.wakeSeen w18.pwrState 2 true false false) ∧ (1 = min (w18.f GRM_WAKE_REC_COUNT + 1) 65535) ∧ (2 ≠ 0) ∧ (w19.pwr.loss = 0) ∧ (w19.pwr.target = none) ∧ (w19.pwr.failed = false) ∧ (1 ≤ w19.pwrState) ∧ (w19.pwrState ≤ 3) ∧ (0 = w19.wakeSeen w19.pwrState 1 true false false) ∧ (1 = min (w19.f GRM_WAKE_REC_COUNT + 1) 65535) ∧ (0 = 0)) ∧
    /- clause 8 -/ ((w20.pwr.loss = 0) ∧ (w20.pwr.target = some 2) ∧ (2 < w20.pwr.prev) ∧ (w20.pwr.wakeAfter = false) ∧ (w20.wakeSeen 2 2 true false false ≠ 0)) ∧
    /- clause 9 -/ ((2 < 3)) ∧
    /- clause 10 -/ ((w21.pwr.cycle < w21.pwr.entered + 25000 * w21.f GRM_WAKE_TIMER_MS)) ∧
    /- clause 11 -/ ((w22.pwr.entered + 25000 * w22.f GRM_WAKE_TIMER_MS ≤ w22.pwr.cycle) ∧ (w22.pwr.loss = 0) ∧ (w22.pwr.target = none) ∧ (w22.pwr.failed = false) ∧ (1 ≤ w22.pwrState) ∧ (w22.pwrState ≤ 3) ∧ (bitOf (w22.f GRM_WAKE_CFG_EN) 3 = true) ∧ (w22.f GRM_WAKE_TIMER_MS ≠ 0)) ∧
    /- clause 12 -/ (w23.pwrState ≠ 2) ∧ (w24.pwr.cycle < w24.pwr.winStart - 1 + 3125 * w24.dozeN) ∧ (w25.pwrState = 2) ∧ (w25.pwr.target = none) ∧ (w25.pwr.loss = 0) ∧ ((w25.region (sideNo w25.dozeSide)).on = false) ∧ (w25.pwr.winStart = 0 ∨ w25.pwr.winStart - 1 + 3125 * w25.dozeM ≤ w25.pwr.cycle) ∧ (w26.pwrState = 2) ∧ (w26.pwr.target = none) ∧ ((w26.region (sideNo w26.dozeSide)).on = false) ∧ (1 ≤ w26.pwr.winStart) ∧ (w26.pwr.cycle < w26.pwr.winStart - 1 + 3125 * w26.dozeM) ∧ (w24.pwr.loss ≠ 0) ∧ (w27.pwrState = 2) ∧ ((w27.region 1).on = false) ∧ ((w27.region 0).on = true) ∧ (w27.pwr.winStart - 1 + 3125 * w27.dozeN ≤ w27.pwr.cycle) := by
  refine ⟨?_, ?_, ?_, ?_, ?_, ?_, ?rest⟩
  case rest => refine ⟨?_, ?_, ?_, ?_, ?_, ?_, ?_⟩ <;> decide +kernel
  all_goals decide +kernel

end K21

namespace K22

def ps (n : Nat) (l : List (Fld × Nat × Nat)) : State := fs all ([(PWR_STATE_STATE,0,n),(PWR_CFG_OWNER,0,reqCode .host),(FAR_STAT_BUSY,0,0),(GLB_RST_STAT_BUSY,0,0)] ++ l)
def tr (p t : Nat) (g : PwrSt → PwrSt) : State := (ps p []).modPwr fun x => g {x with target := some t, prev := p}
def full (s : State) : State := {s with threads := [(3,{pc := 8})], rings := [(1,{taken := 3})], dram := [(9,9)], hostMem := [(4,4)], counters := [(0x700000,5)], tick := 77, pending := [.vddAonLoss]}
def cold (n : Nat) (l : List (Fld × Nat × Nat)) : State := (ps 0 l).modPwr fun p => {p with tries := n, loss := 0}
def mon := ps 4 [(GRM_MON_CFG_EN,16,1),(GRM_MON_CFG_POL,16,0),(GRM_MON_CFG_SUPPLY,16,1),(GRM_MON_CFG_HI,16,500)]
def ls (n : Nat) : State := full ((ps 4 []).modPwr fun p => {p with loss := n})
def img (b : Bool) := (ps 4 []).modPwr fun p => {p with imgLoad := b}
def imh : State := on (fs (img true) [(HIF_STAT_BME,0,1),(GLB_RST_STAT_BUSY,0,0)]) [6]
def w1 : State := full (ps 4 [])
def w2 : State := full (ps 4 [(GLB_RST_STAT_WARM_COUNT,0,255)])
def w3 : State := full (ps 4 [(GLB_RST_STAT_WARM_COUNT,0,4)])
def w4 : State := full (ps 4 [(GLB_RST_STAT_BUSY,0,1),(GLB_RST_STAT_LAST,0,2)])
def w5 : State := full (ps 4 [(GLB_RST_STAT_BUSY,0,1),(GLB_RST_STAT_LAST,0,1)])
def w6 : State := tr 1 2 id
def w7 : Fin 9 := 5
def w8 : State := tr 2 4 id
def w9 : Fin 9 := 0
def w10 : State := (fs (tr 1 4 id) [(GRM_RAIL_EN,0,0)])
def w11 : State := (fs (tr 1 4 fun p => {p with tries := 2}) [(GRM_RAIL_EN,0,0)])
def w12 : State := cold 2 [(GRM_RAIL_EN,0,3)]
def w13 : Fin 9 := 4
def w14 : Fin 9 := 2
def w15 : State := tr 1 2 (fun p => {p with tries := 1, tryMask := 5})
def w16 : State := tr 1 2 (fun p => {p with tries := 1, tryMask := 0})
def w17 : State := ps 4 [(GRM_RAIL_EN,0,0x1FB),(GLB_FLT_CAUSE_VALID,0,0)]
def w18 : Fin 9 := 3
def w19 : State := ps 3 [(GRM_RAIL_EN,0,0x1FB),(GLB_FLT_CAUSE_VALID,0,0)]
def w20 : Fin 9 := 8
def w21 : State := {(ps 4 []) with regions := []}
def w22 : Fin 4 := 1
def w23 : State := (ps 4 []).modPwr (fun p => {p with pll := 5})
def w24 : Fin 4 := 2
def w25 : State := (ps 4 []).modPwr (fun p => {p with pll := 5})
def w26 : State := (ps 4 []).modPwr (fun p => {p with pll := 7})
def w27 : State := ps 4 []
def w28 : Fin 16 := 3
def w29 : State := ps 1 []
def w30 : State := ps 1 []
def w31 : State := (ps 1 []).modPwr fun p => {p with vWait := true}
def w32 : Fin 8 := 5
def w33 : State := ps 4 [(GRM_MON_CFG_EN,40,0)]
def w34 : State := fs mon [(FAR_STAT_BUSY,0,1)]
def w35 : Fin 4096 := 501
def w36 : State := ps 3 []
def w37 : State := tr 1 2 id
def w38 : State := (ps 2 []).modPwr fun p => {p with loss := 1}
def w39 : State := ls 0
def w40 : State := ls 1
def w41 : State := ls 1
def w42 : State := fs (ls 2) [(GRM_SAVE_STAT_READY,0,1)]
def w43 : Fin 4096 := 1
def w44 : State := fs (ls 2) [(GRM_SAVE_STAT_READY,0,1),(GRM_HU_REQ_EREQ,0,0)]
def w45 : Fin 4096 := 4095
def w46 : State := ls 2
def w47 : State := fs (ls 3) [(GRM_SAVE_STAT_SLOT,0,0)]
def w48 : State := ls 3
def w49 : State := ls 4
def w50 : State := img false
def w51 : State := img true
def w52 : State := imh

theorem test_met_ResetsAndSupplies :
    /- clause 0 -/ ((w1.pwr.flash = []) ∧ (w1.pwr.fuses = [])) ∧
    /- clause 2 -/ ((Reach w2 Req.host 16) ∧ (Req.host ≠ Req.host ∨ GLB_RST_KEY.of 2050752513 ≠ 31292 ∨ GLB_RST_WARM.of 2050752513 = 0 ∨ w2.flag GLB_RST_STAT_BUSY = true) ∧ (Reach w3 Req.host 16) ∧ (Req.host = Req.host) ∧ (GLB_RST_KEY.of (wd [(GLB_RST_KEY, 31292), (GLB_RST_WARM, 1)]) = 31292) ∧ (GLB_RST_WARM.of (wd [(GLB_RST_KEY, 31292), (GLB_RST_WARM, 1)]) = 1) ∧ (w3.flag GLB_RST_STAT_BUSY = false)) ∧
    /- clause 3 -/ ((w1.flag GLB_RST_STAT_BUSY = false) ∧ (w4.flag GLB_RST_STAT_BUSY = true) ∧ (w4.f GLB_RST_STAT_LAST = 2) ∧ (w5.flag GLB_RST_STAT_BUSY = true) ∧ (w5.f GLB_RST_STAT_LAST ≠ 2)) ∧
    /- clause 4 -/ ((w6.pwr.loss = 0) ∧ (w6.pwr.target = some 2) ∧ (w6.pwr.prev < 2) ∧ (w6.pwr.prev ≠ 3) ∧ (w6.pwrState ≠ 0) ∧ (false = false) ∧ (bitOf (stateRails 2) ↑w7 = false ∨ bitOf (w6.f GRM_RAIL_EN) ↑w7 = true) ∧ (w8.pwr.loss = 0) ∧ (w8.pwr.target = some 4) ∧ (w8.pwr.prev < 4) ∧ (w8.pwr.prev ≠ 3) ∧ (w8.pwrState ≠ 0) ∧ (true = true) ∧ (w9 = 0) ∧ ((w8.region 7).on = true) ∧ (w10.pwr.loss = 0) ∧ (w10.pwr.target = some 4) ∧ (w10.pwr.prev < 4) ∧ (w10.pwr.prev ≠ 3) ∧ (w10.pwrState ≠ 0) ∧ (w10.pwr.tries = 0) ∧ (w10.pwr.tryMask = 0) ∧ (w10.mayFail false (↑w9) (if false = true then 5 else 1) = true) ∧ (w11.pwr.loss = 0) ∧ (w11.pwr.target = some 4) ∧ (w11.pwr.prev < 4) ∧ (w11.pwr.prev ≠ 3) ∧ (w11.pwrState ≠ 0) ∧ (w11.pwr.tries = 2) ∧ (w11.mayFail false (↑w9) (if false = true then 5 else 1) = true)) ∧
    /- clause 5 -/ ((w12.pwrState = 0) ∧ (w12.pwr.loss = 0) ∧ (w12.pwr.tries = 2) ∧ (false = false) ∧ (bitOf (w12.f GRM_RAIL_EN) ↑w13 = false) ∧ (false = true → ↑w13 < 2 ∧ bitOf (w12.f GRM_RAIL_EN) 0 = false ∧ bitOf (w12.f GRM_RAIL_EN) 1 = false) ∧ (true = true) ∧ (w14 ≠ 0)) ∧
    /- clause 6 -/ ((w15.pwr.loss ≠ 0 ∧ w15.pwr.loss ≠ 4 ∨ w15.pwr.tries = 1)) ∧
    /- clause 7 -/ ((w16.pwr.tries = 1) ∧ (w16.pwr.tryMask = 0)) ∧
    /- clause 8 -/ ((bitOf (w17.f GRM_RAIL_EN) ↑w14 = false) ∧ (bitOf (w17.f GRM_RAIL_EN) ↑w18 = true) ∧ (w17.pwrState = 4) ∧ (w17.flag GLB_FLT_CAUSE_VALID = false) ∧ (bitOf (w19.f GRM_RAIL_EN) ↑w20 = true) ∧ (w19.pwrState ≠ 4)) ∧
    /- clause 9 -/ ((bitOf w21.pwr.pll ↑w22 = false) ∧ (bitOf w23.pwr.pll ↑w24 = true) ∧ ((w21.region (State.pllRegion ↑w22)).on = false)) ∧
    /- clause 10 -/ ((w25.region 3).on = true) ∧ (bitOf w25.pwr.pll 1 = false) ∧ ((w26.region 3).on = true) ∧ (bitOf w26.pwr.pll 1 = true) := by
  refine ⟨?_, ?_, ?_, ?_, ?_, ?_, ?rest⟩
  case rest => refine ⟨?_, ?_, ?_, ?_⟩ <;> decide +kernel
  all_goals decide +kernel

theorem test_met_SupplyLossAndGroom :
    /- clause 0 -/ ((Reach w27 (Req.team w28) 2097224)) ∧
    /- clause 1 -/ ((Reach w29 Req.groom 2097224) ∧ (Req.groom = Req.host ∨ Req.groom = Req.groom) ∧ (w29.pwr.target = none) ∧ (w29.farBusy = false)) ∧
    /- clause 2 -/ ((w30.pwr.vWait = false) ∧ (w31.pwr.vWait = true)) ∧
    /- clause 3 -/ ((↑w32 = 4 ∨ ↑w32 = 5) ∧ (sget (fun x => 0) w33.pwr.mon ↑w32 = 0) ∧ (w33.flag GRM_MON_CFG_EN (8 * ↑w32) = false) ∧ (bitOf w33.pwr.cond ↑w32 = false)) ∧
    /- clause 4 -/ ((sget (fun x => 0) w34.pwr.mon 2 = 0) ∧ (w34.flag GRM_MON_CFG_EN 16 = true) ∧ (w34.flag GRM_MON_CFG_POL 16 = false) ∧ (w34.flag GRM_MON_CFG_SUPPLY 16 = true) ∧ (w34.f GRM_MON_CFG_HI 16 < ↑w35) ∧ (w34.pwr.loss = 0)) ∧
    /- clause 5 -/ ((w36.pwr.loss = 0) ∧ (w36.farBusy = false) ∧ (w36.pwrState = 3 ∨ w36.pwrState = 4) ∧ (w37.pwr.loss = 0) ∧ (w37.farBusy = false) ∧ (w37.pwrState < 3) ∧ (w38.pwr.loss ≠ 0)) ∧
    /- clause 6 -/ ((w39.pwr.loss ≠ 1) ∧ (w40.pwr.loss = 1) ∧ (w40.f GRM_RAIL_PG = w40.f GRM_RAIL_EN)) ∧
    /- clause 7 -/ ((w41.pwr.loss ≠ 2) ∧ (w42.pwr.loss = 2) ∧ (w42.holdSuff ↑w43 = false ∨ w42.flag GRM_SAVE_STAT_READY = false) ∧ (w44.pwr.loss = 2) ∧ (w44.holdSuff ↑w45 = true) ∧ (w44.flag GRM_SAVE_STAT_READY = true)) ∧
    /- clause 8 -/ ((w46.pwr.loss ≠ 3)) ∧
    /- clause 9 -/ ((w47.pwr.loss = 3) ∧ (w47.f GRM_SAVE_STAT_SLOT = 0) ∧ (w47.slotRec 0 = none)) ∧
    /- clause 10 -/ ((w48.pwr.loss ≠ 4) ∧ (w49.pwr.loss = 4)) ∧
    /- clause 11 -/ ((Reach w50 (Req.team 3) 2097680) ∧ (Req.team 3 ≠ Req.host ∨ GRM_LOAD_CMD_LOAD.of 1 = 0) ∧ (Reach w50 Req.host 2097680) ∧ (Req.host = Req.host) ∧ (GRM_LOAD_CMD_LOAD.of 4294967295 ≠ 0) ∧ (w50.pwr.target = none) ∧ (w50.pwr.imgLoad = false) ∧ (Reach w51 Req.host 2097680) ∧ (w51.pwr.imgLoad = true)) ∧
    /- clause 12 -/ ((w51.pwr.imgLoad = false ∨ w51.hostOk = false)) ∧
    /- clause 13 -/ (w52.pwr.imgLoad = true) ∧ (w52.hostOk = true) := by
  refine ⟨?_, ?_, ?_, ?_, ?_, ?_, ?rest⟩
  case rest => refine ⟨?_, ?_, ?_, ?_, ?_, ?_, ?_, ?_⟩ <;> decide +kernel
  all_goals decide +kernel

end K22

namespace K23

def cs (l : List (Fld × Nat × Nat)) : State := fs all ([(CAP_CFG_EN,0,0),(CAP_SIZE_MIB,0,4),(CAP_BASE_LO_ADDR,0,2^20),(CAP_BASE_HI_ADDR,0,0),(MEM_CH_STAT_UP,0,1),(MEM_CH_STAT_UP,4,1),(MEM_CH_STAT_SIZE_GB,0,4),(MEM_CH_STAT_SIZE_GB,4,4),(MEM_CH_CFG_DENSITY,0,1),(MEM_FLIP_CFG_ARM,0,0)] ++ l)
def rec1 : CapRec := {typ := 1, seq := 5, tick := 99, info := 3, olen := 70, aux := 9, payload := [1,2,3,4,5,6,7,8,9,10,11,12,13,14,15,16,17,18,19,20,21,22,23,24,25,26,27,28,29,30,31,32,33], offered := 3}
def cb (l : List (Fld × Nat × Nat)) (b : List CapRec) (lap : Bool) : State := (rs (cs ([(CAP_CFG_EN,0,1)]++l)) [(0x1400018,96),(0x140001C,0),(0x1400020,0),(0x1400024,0)]).modCp fun c => {c with capBuf := b, capLap := lap, snaps := []}
def tk (n : Nat) (s : State) : State := {s with tick := n}
def rd (a b : Word) (l : List (Fld × Nat × Nat)) : State := {rs (cb l [rec1] false) [(0x1400080,a),(0x1400084,0),(0x1400088,0x1000),(0x140008C,0),(0x1400090,b)] with hostMem := [(0x1001,9),(5,5)], dram := [(2^20+65,7),(2^20+64,7),(2^20+95,7),(2^20+192,7)]}
def rdh (a b : Word) (l : List (Fld × Nat × Nat)) : State := on (fs (rd a b l) [(HIF_STAT_BME,0,1),(GLB_RST_STAT_BUSY,0,0)]) [6]
def rdb (d : Nat) : State := (fs (rdh 64 96 [(CAP_RD_CTRL_BUSY,0,1)]) [(XNG_STAT_REFUSING,0x20*9,0),(XNG_STAT_REFUSING,0x20*8,0)]).modCp fun c => {c with capRd := (2^20,64,96,d)}
def R5 := 0x40*5
def onh (s : State) : State := on s [6]
def hst (l : List (Fld × Nat × Nat)) : State := onh (fs (rs all [(0x9008+R5,0x10000),(0x900C+R5,1),(0x9010+R5,0x20000),(0x9014+R5,1)]) ([(HIF_RING_SIZE_SIZE,R5,64),(HIF_RING_ERR_DISABLING,R5,0),(HIF_RING_ERR_STOPPED,R5,0),(HIF_STAT_BME,0,1),(GLB_RST_STAT_BUSY,0,0)] ++ l))
def run (ty : Nat) (l : List (Fld × Nat × Nat)) : State := {(hst ([(HIF_RING_CFG_EN,R5,1),(HIF_RING_CFG_TYPE,R5,ty)] ++ l)) with rings := [(5,{taken := 9, done := 5}),(6,{taken := 4})], counters := [(0x700000,5),(0x1600000,9)], tick := 12345}
def stb (k : Nat) (l : List (Fld × Nat × Nat)) : State := (run 3 ([(STB_CFG_EN,0,1),(STB_CFG_PERIOD,0,10)]++l)).modCp fun c => {c with snaps := List.replicate k {seq := 4}, userPage := none}
def sn (k : Nat) (n : Nat) (l : List (Fld × Nat × Nat)) : State := tk n (on ((stb k l).modCp fun c => {c with snapNow := true, stbStart := 7}) [7])
def w1 : State := cs []
def w2 : State := cs [(CAP_SIZE_MIB,0,0)]
def w3 : State := rs (cb [] [rec1, {typ:=2}] false) [(0x1400018,4*2^20-128)]
def w4 : CapRec := rec1
def w5 : List CapRec := [{typ:=2}]
def w6 : State := cb [(CAP_STAT_FULL,0,1)] [rec1,{typ:=2}] true
def w7 : State := (cb [] [rec1] true).modCp fun c => {c with capNext := 10^40}
def w8 : State := tk 38880 (cb [] [{typ:=2},{typ:=3,seq:=4},{typ:=3,seq:=4}] true)
def w9 : CapRec := {typ:=3,seq:=4}
def w10 : State := tk 38879 (cb [] [{typ:=2},{typ:=3,seq:=4},{typ:=3,seq:=4}] true)
def w11 : State := cb [(CAP_STAT_FULL,0,1)] [rec1] true
def w12 : State := rd 64 96 [(CAP_RD_CTRL_BUSY,0,0)]
def w13 : State := rd 63 0 [(CAP_RD_CTRL_BUSY,0,0),(CAP_SIZE_MIB,0,0)]
def w14 : State := fs (rdb 5) [(XNG_STAT_REFUSING,0x20*8,1)]
def w15 : State := rdb (2^64-1)
def w16 : State := stb 0 []
def w17 : State := sn 1 99 []
def w18 : State := sn 1 (7+777600*2) [(STB_CFG_PERIOD,0,1)]
def w19 : State := sn 2 (7+7776000) []
def w20 : State := sn 1 (7+7776000) [(STB_CFG_PERIOD,0,0)]
def w21 : State := {(stb 2 []) with hostMem := [(4096,1)]}
def w22 : Fin 64 := 5
def w23 : Desc := {w0 := 4096, w2 := 20000}
def w24 : Snap := {seq := 4}
def w25 : List Snap := [{seq := 4}]
def w26 : State := stb 0 [(STB_CMP_ARM_ARM,0,0)]
def w27 : State := fs (stb 0 [(STB_CMP_ARM_ARM,0,0)]) [(GLB_RES_OWNER_FEATURE,4*5,3)]
def w28 : State := stb 0 [(STB_UPAGE_UEN,0,1)]

theorem test_met_Capture :
    /- clause 0 -/ ((Reach w1 (Req.team 4) 20971520) ∧ (w1.flag CAP_CFG_EN = false) ∧ (w1.capBad = false) ∧ (Reach w2 (Req.team 4) 20971520) ∧ (w2.flag CAP_CFG_EN = false) ∧ (w2.capBad = true)) ∧
    /- clause 1 -/ ((w3.cp.capBuf = w4 :: w5) ∧ (w4.typ ≠ 3) ∧ (w4.typ ≠ 6) ∧ (w3.xOpen 9 = true) ∧ (w3.capThrottled = false) ∧ (w3.flag CAP_STAT_FULL = false) ∧ (w3.cp.capLap = false) ∧ (w3.capWp + w4.size < w3.capBytes) ∧ (w3.flag MEM_FLIP_CFG_ARM = false)) ∧
    /- clause 2 -/ ((w6.cp.capBuf = w4 :: w5) ∧ (w6.flag CAP_STAT_FULL = true) ∧ (w6.xOpen 9 = true) ∧ (w6.capThrottled = false)) ∧
    /- clause 3 -/ ((w7.cp.capBuf = [] ∨ w7.xOpen 9 = false ∨ w7.capThrottled = true)) ∧
    /- clause 4 -/ ((List.find? (fun r => r.typ == 3 && decide (r.offered + 38880 ≤ w8.tick)) w8.cp.capBuf = some w9)) ∧
    /- clause 5 -/ ((∀ r ∈ w10.cp.capBuf, r.typ = 3 → w10.tick < r.offered + 38880)) ∧
    /- clause 6 -/ ((Reach w11 (Req.team 2) 20971536) ∧ (w11.flag CAP_STAT_FULL = true)) ∧
    /- clause 7 -/ ((Reach w12 Req.host 20971668) ∧ (w12.flag CAP_RD_CTRL_BUSY = false) ∧ (w12.capRdOfs % 32 = 0) ∧ (w12.capRdLen % 32 = 0) ∧ (1 ≤ w12.capRdLen) ∧ (w12.capRdOfs + w12.capRdLen ≤ w12.capBytes) ∧ (Reach w13 Req.host 20971668) ∧ (w13.flag CAP_RD_CTRL_BUSY = false) ∧ (w13.capBytes < w13.capRdOfs + w13.capRdLen)) ∧
    /- clause 8 -/ ((w14.flag CAP_RD_CTRL_BUSY = false ∨ w14.hostOk = false ∨ w14.xOpen 8 = false ∨ w14.xOpen 9 = false)) ∧
    /- clause 9 -/ (w15.flag CAP_RD_CTRL_BUSY = true) ∧ (w15.hostOk = true) ∧ (w15.xOpen 8 = true) ∧ (w15.xOpen 9 = true) ∧ (w15.cp.capRd = (2 ^ 20, 64, 96, 2 ^ 64 - 1)) ∧ (96 < 2 ^ 32) ∧ (w15.heldFails ((2 ^ 20 + 64) / 8) ((2 ^ 20 + 64 + 96 - 1) / 8) = []) := by
  refine ⟨?_, ?_, ?_, ?_, ?_, ?_, ?rest⟩
  case rest => refine ⟨?_, ?_, ?_, ?_⟩ <;> decide +kernel
  all_goals decide +kernel

theorem test_met_Snapshots :
    /- clause 0 -/ ((Reach w16 (Req.team 5) 20975620) ∧ (STB_CTRL_NOW.of 4294967295 = 1)) ∧
    /- clause 1 -/ ((w17.pending = []) ∧ (w17.regionUp 7 = true) ∧ (w17.cp.snapNow = true) ∧ (w17.flag STB_CFG_EN = true) ∧ (∀ p ∈ w17.cp.userPage, p.tick ≠ (w17.tick + 1) % 2 ^ 64) ∧ (w17.cp.snaps.length < 2) ∧ (w17.snapRing = true)) ∧
    /- clause 2 -/ ((w18.flag STB_CFG_EN = true) ∧ (∀ p ∈ w18.cp.userPage, p.tick ≠ w18.tick) ∧ (1 ≤ w18.f STB_CFG_PERIOD) ∧ (w18.cp.stbStart < w18.tick) ∧ ((w18.tick - w18.cp.stbStart) % w18.stbPeriod = 0) ∧ (w18.cp.snaps.length < 2) ∧ (w18.snapRing = true) ∧ (w19.flag STB_CFG_EN = true) ∧ (∀ p ∈ w19.cp.userPage, p.tick ≠ w19.tick) ∧ (1 ≤ w19.f STB_CFG_PERIOD) ∧ (w19.cp.stbStart < w19.tick) ∧ ((w19.tick - w19.cp.stbStart) % w19.stbPeriod = 0) ∧ (2 ≤ w19.cp.snaps.length)) ∧
    /- clause 3 -/ ((w20.f STB_CFG_PERIOD = 0 ∨ (w20.tick - w20.cp.stbStart) % w20.stbPeriod ≠ 0)) ∧
    /- clause 4 -/ ((w21.ringReady (↑w22) 3 = true) ∧ (16448 ≤ w23.bufLen) ∧ (w23.addr + w23.bufLen ≤ 2 ^ 64) ∧ (w21.cp.snaps = w24 :: w25)) ∧
    /- clause 5 -/ ((Reach w26 (Req.team 4) 20975624) ∧ (w26.flag STB_CMP_ARM_ARM = false) ∧ (STB_CMP_ARM_ARM.of 2147483649 = 1) ∧ (w26.resFree (4 + STB_CMP_ARM_COMP.of 2147483649) = true) ∧ (Reach w27 (Req.team 4) 20975624) ∧ (w27.flag STB_CMP_ARM_ARM = false) ∧ (STB_CMP_ARM_ARM.of (wd [(STB_CMP_ARM_ARM, 1), (STB_CMP_ARM_COMP, 1)]) = 1) ∧ (w27.resFree (4 + STB_CMP_ARM_COMP.of (wd [(STB_CMP_ARM_ARM, 1), (STB_CMP_ARM_COMP, 1)])) = false)) ∧
    /- clause 6 -/ ((Reach w28 Req.host 20975636) ∧ (STB_UPAGE_UEN.of 0 ≠ w28.f STB_UPAGE_UEN)) ∧
    /- clause 7 -/ (Reach w16 (Req.team 4) 20975636) ∧ (Req.team 4 ≠ Req.host) := by
  refine ⟨?_, ?_, ?_, ?_, ?_, ?_, ?_, ?_⟩ <;> decide +kernel

end K23

namespace K24

def fr (l : List (Fld × Nat × Nat)) : State := (fs all ([(FAR_STAT_BUSY,0,0),(FAR_FUSE_STAT_BUSY,0,0),(GRM_MON_FILT,0x18,2560),(FAR_CFG_ALLOW_ERASE,0,1),(FAR_STAT_CLEAR_LOCK,0,0),(GLB_RST_STAT_BUSY,0,0)] ++ (List.range 16).map (fun t => (CRS_LOAD_CFG_AUTH,0x10000*t,0)) ++ l)).modSec fun c => {c with keys := [(3,List.replicate 16 5)]}
def cmd (k r i : Nat) : Word := wd [(FAR_CMD_START,1),(FAR_CMD_KIND,k),(FAR_CMD_REGION,r),(FAR_CMD_INDEX,i)]
def cc (k r i : Nat) (s : State) (a : Bool) : Nat := s.farCause k r i true a
def f0 := fr [(CRS_TEAM_STAT_STATE,0x50000,3),(CRS_TEAM_CFG_EXPRESS,0x50000,0)]
def f3 := fr [(MEM_CH_STAT_UP,4,1),(MEM_MODE_MODE,0,2)]
def fb (ph : Nat) (l : List (Fld × Nat × Nat)) (g : FarSt → FarSt) : State := (fr ([(FAR_STAT_BUSY,0,1),(FAR_STAT_PHASE,0,ph)]++l)).modFar fun x => g {x with kind := 0, index := 5, before := 3}
def w1 : State := fr []
def w2 : State := f0
def w3 : State := fr [(FAR_STAT_BUSY,0,1)]
def w4 : State := f3
def w5 : State := fr []
def w6 : State := {fb 1 [] id with threads := [(5*64+3,{busy := true})]}
def w7 : State := {fb 1 [] id with threads := [(5*64+3,{pc:=8}),(6*64,{busy:=true})], smem := [(5*2^19+4,7)]}
def w8 : State := rs (fb 4 [] id) [(0x1500018,0x9ABCDEF0),(0x150001C,0x12345678)]
def w9 : State := fb 5 [] id
def w10 : State := fb 5 [(FAR_CFG_AUTO_REMAP,0,0),(FAR_MBIST_LOG_VALID,0,0)] id
def w11 : Fin 128 := 75
def w12 : State := fb 5 [] (fun x => {x with kind := 3, index := 1})
def w13 : State := {fb 6 [] (fun x => {x with memBad := true}) with threads := [(5*64+3,{pc:=8}),(6*64,{busy:=true})]}
def w14 : State := fr [(MEM_MODE_MODE,0,0)]
def w15 : State := fr [(MEM_MODE_MODE,0,1)]
def w16 : State := rs ((fr [(FAR_FUSE_STAT_BUSY,0,1)]).modPwr fun p => {p with fuses := List.replicate 255 (3,4)}) [(State.mapReg true 3 0,0xC0000009),(State.mapReg true 3 1,0xC0000008)]

theorem test_met_FarrierTests :
    /- clause 0 -/ ((Reach w1 (Req.team 3) 22020100) ∧ (Req.team 3 ≠ Req.host) ∧ (Reach w1 Req.host 22020100) ∧ (Req.host = Req.host) ∧ (FAR_CMD_START.of 2147483647 = 0)) ∧
    /- clause 1 -/ ((Reach w2 Req.host 22020100) ∧ (FAR_CMD_START.of (cmd 0 2 5) = 1) ∧ (0 = FAR_CMD_KIND.of (cmd 0 2 5)) ∧ (2 = FAR_CMD_REGION.of (cmd 0 2 5)) ∧ (5 = FAR_CMD_INDEX.of (cmd 0 2 5)) ∧ (0 ≠ 1) ∧ (cc 0 2 5 f0 true = w2.farCause 0 2 5 true true) ∧ (cc 0 2 5 f0 true = 0) ∧ (0 = 0) ∧ (Reach w3 Req.host 22020100) ∧ (FAR_CMD_START.of (cmd 3 2 1) = 1) ∧ (3 = FAR_CMD_KIND.of (cmd 3 2 1)) ∧ (2 = FAR_CMD_REGION.of (cmd 3 2 1)) ∧ (1 = FAR_CMD_INDEX.of (cmd 3 2 1)) ∧ (3 ≠ 1) ∧ (1 = w3.farCause 3 2 1 true true) ∧ (1 ≠ 0) ∧ (Reach w4 Req.host 22020100) ∧ (cc 3 2 1 f3 true = w4.farCause 3 2 1 true true) ∧ (cc 3 2 1 f3 true = 0) ∧ (3 = 3)) ∧
    /- clause 2 -/ ((w5.farBusy = false)) ∧
    /- clause 3 -/ ((w6.farBusy = true) ∧ (w6.far.kind = 0) ∧ (w6.farPhase = 1) ∧ ((List.any w6.threads fun e => e.1 / 64 == w6.far.index && e.2.busy) = true) ∧ (w7.farBusy = true) ∧ (w7.far.kind = 0) ∧ (w7.farPhase = 1) ∧ ((List.any w7.threads fun e => e.1 / 64 == w7.far.index && e.2.busy) = false) ∧ (w7.far.ended = false)) ∧
    /- clause 4 -/ ((w8.farBusy = true) ∧ (w8.farPhase = 4)) ∧
    /- clause 5 -/ ((w9.farBusy = true) ∧ (w9.farPhase = 5) ∧ (w9.far.kind = 0) ∧ (w10.farBusy = true) ∧ (w10.farPhase = 5) ∧ (w10.far.kind = 0) ∧ (↑w11 / 2 = 32 + w10.far.index) ∧ (2 ^ 20 - 1 < 2 ^ 20) ∧ (w10.flag FAR_CFG_AUTO_REMAP = false) ∧ (w10.flag FAR_MBIST_LOG_VALID = false) ∧ (w12.farBusy = true) ∧ (w12.farPhase = 5) ∧ (w12.far.kind = 3) ∧ (w12.far.logicBad = false) ∧ (w12.far.memBad = false)) ∧
    /- clause 6 -/ ((w13.farBusy = true) ∧ (w13.farPhase = 6) ∧ (w13.far.kind = 0) ∧ (w13.far.index < 16) ∧ (w13.far.ended = false) ∧ (w13.far.logicBad = true ∨ w13.far.memBad = true)) ∧
    /- clause 7 -/ ((Reach w1 (Req.team 3) 22020608) ∧ (Req.team 3 ≠ Req.host ∨ FAR_FUSE_CMD_KEY.of 1587609601 ≠ 24225 ∨ FAR_FUSE_CMD_BURN.of 1587609601 = 0 ∨ w1.flag FAR_FUSE_STAT_BUSY = true) ∧ (Reach w14 Req.host 22020608) ∧ (Req.host = Req.host) ∧ (FAR_FUSE_CMD_KEY.of 1587609601 = 24225) ∧ (FAR_FUSE_CMD_BURN.of 1587609601 = 1) ∧ (w14.flag FAR_FUSE_STAT_BUSY = false) ∧ (w14.f MEM_MODE_MODE = 0 ∨ w14.f MEM_MODE_MODE = 2) ∧ (Reach w15 Req.host 22020608) ∧ (w15.flag FAR_FUSE_STAT_BUSY = false) ∧ (w15.f MEM_MODE_MODE ≠ 0) ∧ (w15.f MEM_MODE_MODE ≠ 2)) ∧
    /- clause 8 -/ (w5.flag FAR_FUSE_STAT_BUSY = false) ∧ (w16.flag FAR_FUSE_STAT_BUSY = true) ∧ (w16.pwr.fuses.length ≤ 256) := by
  refine ⟨?_, ?_, ?_, ?_, ?_, ?_, ?_, ?_, ?_⟩ <;> decide +kernel

end K24

end Sys2Proof.Tests
end

section
/-! SUPPORT. What a step keeps, from what each command and the tick keep: the invariant, the queue and the fuses. -/

namespace Sys2Proof.Machine

/-- Every command answers a next state, and leaves the parts it does not name: the operations' own laws, command by command. -/
theorem exec_answers (c : Instr) (s : State) : Answers (touches c) s (exec c s) := by
  cases c with
  | registerWrite q addr v silent => exact execRegisterWrite_keeps q addr v silent s
  | counterLoRead q addr => exact execCounterLoRead_keeps q addr s
  | readClear q addr => exact execReadClear_keeps q addr s
  | cellFault cell region block inst src info resolved quarOk xngs => exact execCellFault_keeps cell region block inst src info resolved quarOk xngs s
  | blockResetTimeout region block inst info => exact execBlockResetTimeout_keeps region block inst info s
  | faultRecordClear q v => exact execFaultRecordClear_keeps q v s
  | gaitWindowEnd trips => exact execGaitWindowEnd_keeps trips s
  | crossingResync i1 => exact execCrossingResync_keeps i1 s
  | crossingTimeout x part => exact execCrossingTimeout_keeps x part s
  | crossingRefusalEnd i1 => exact execCrossingRefusalEnd_keeps i1 s
  | receiverStart q x v => exact execReceiverStart_keeps q x v s
  | receiverStop q x v => exact execReceiverStop_keeps q x v s
  | lineModeSet q x v => exact execLineModeSet_keeps q x v s
  | txEnable q x on => exact execTxEnable_keeps q x on s
  | adcCalibrationDone x => exact execAdcCalibrationDone_keeps x s
  | cdrLockGained x => exact execCdrLockGained_keeps x s
  | cdrLockLost x => exact execCdrLockLost_keeps x s
  | adaptationConverged x steps thresholds => exact execAdaptationConverged_keeps x steps thresholds s
  | signalDetectChange x pp => exact execSignalDetectChange_keeps x pp s
  | codewordDecode x idx codes bits iters unc => exact execCodewordDecode_keeps x idx codes bits iters unc s
  | txfChange x level => exact execTxfChange_keeps x level s
  | peqLoad q x v => exact execPeqLoad_keeps q x v s
  | peqDecisionPoint x => exact execPeqDecisionPoint_keeps x s
  | rxpCalCommit q x k v => exact execRxpCalCommit_keeps q x k v s
  | i2cTransactionStart q x v => exact execI2cTransactionStart_keeps q x v s
  | i2cTransactionDone x result bytes => exact execI2cTransactionDone_keeps x result bytes s
  | i2cBus1Enable q x v => exact execI2cBus1Enable_keeps q x v s
  | downstreamFrame x f => exact execDownstreamFrame_keeps x f s
  | psyncMatch x pos f => exact execPsyncMatch_keeps x pos f s
  | encapFrameReceive x ghec => exact execEncapFrameReceive_keeps x ghec s
  | mgmtMessageReceive x => exact execMgmtMessageReceive_keeps x s
  | losDeclare x => exact execLosDeclare_keeps x s
  | losClear x => exact execLosClear_keeps x s
  | rangingHoldExpire x => exact execRangingHoldExpire_keeps x s
  | pmLatch x => exact execPmLatch_keeps x s
  | odcInsertMultiframe x second bytes => exact execOdcInsertMultiframe_keeps x second bytes s
  | odc2InputEnable q x v => exact execOdc2InputEnable_keeps q x v s
  | bwmapEntryReceive x ghec delay => exact execBwmapEntryReceive_keeps x ghec delay s
  | burstAssemblyStart x bad => exact execBurstAssemblyStart_keeps x bad s
  | burstTransmit x => exact execBurstTransmit_keeps x s
  | bridleUnlockStage q x v => exact execBridleUnlockStage_keeps q x v s
  | bridleUnlockTimeout x => exact execBridleUnlockTimeout_keeps x s
  | rogueClear q x v => exact execRogueClear_keeps q x v s
  | upstreamMessagePush q x v => exact execUpstreamMessagePush_keeps q x v s
  | eqdWrite q x v => exact execEqdWrite_keeps q x v s
  | upbAssignTid q x => exact execUpbAssignTid_keeps q x s
  | upbRanged q x => exact execUpbRanged_keeps q x s
  | upbDeactivate q x => exact execUpbDeactivate_keeps q x s
  | upbDisable q x => exact execUpbDisable_keeps q x s
  | upbEnable q x => exact execUpbEnable_keeps q x s
  | upbSerialNumberEnter x => exact execUpbSerialNumberEnter_keeps x s
  | to1Expire x => exact execTo1Expire_keeps x s
  | pairingConfigWrite q v => exact execPairingConfigWrite_keeps q v s
  | prtManual q => exact execPrtManual_keeps q s
  | prtLock q => exact execPrtLock_keeps q s
  | prtUnlock q => exact execPrtUnlock_keeps q s
  | wtrExpire => exact execWtrExpire_keeps s
  | reorderArrival x exp => exact execReorderArrival_keeps x exp s
  | reorderWindowExpire port => exact execReorderWindowExpire_keeps port s
  | harnessFrameBoundary => exact execHarnessFrameBoundary_keeps s
  | harnessAlign => exact execHarnessAlign_keeps s
  | harRealign q => exact execHarRealign_keeps q s
  | swapDs q => exact execSwapDs_keeps q s
  | swapUs q => exact execSwapUs_keeps q s
  | cktForce q => exact execCktForce_keeps q s
  | pageSwap => exact execPageSwap_keeps s
  | cmStandbyWrite q us h v => exact execCmStandbyWrite_keeps q us h v s
  | harnessEnable q v => exact execHarnessEnable_keeps q v s
  | harnessRxckDetect => exact execHarnessRxckDetect_keeps s
  | laneBlockLock n => exact execLaneBlockLock_keeps n s
  | harnessTxTrainEnd => exact execHarnessTxTrainEnd_keeps s
  | laneAlign n lane skew => exact execLaneAlign_keeps n lane skew s
  | laneLockLoss n alignment => exact execLaneLockLoss_keeps n alignment s
  | laneRetrainTimeout n => exact execLaneRetrainTimeout_keeps n s
  | harRetrain q => exact execHarRetrain_keeps q s
  | harnessRxckLoss => exact execHarnessRxckLoss_keeps s
  | rowSlip n drop row => exact execRowSlip_keeps n drop row s
  | eyeScanStart q v => exact execEyeScanStart_keeps q v s
  | eyeScanDone points => exact execEyeScanDone_keeps points s
  | frameClassify x exp unc => exact execFrameClassify_keeps x exp unc s
  | clsWrite q exact copy prof index => exact execClsWrite_keeps q exact copy prof index s
  | clsSetvalid q exact copy index => exact execClsSetvalid_keeps q exact copy index s
  | clsClearvalid q exact copy index => exact execClsClearvalid_keeps q exact copy index s
  | clsRead q exact copy index => exact execClsRead_keeps q exact copy index s
  | clsHash q prof => exact execClsHash_keeps q prof s
  | clsModeChange q v => exact execClsModeChange_keeps q v s
  | clsCommit q => exact execClsCommit_keeps q s
  | clsVersionDrained => exact execClsVersionDrained_keeps s
  | clsStageCopyDone => exact execClsStageCopyDone_keeps s
  | clsDrainTimeout => exact execClsDrainTimeout_keeps s
  | frameDispatch exp => exact execFrameDispatch_keeps exp s
  | isaAdd t e => exact execIsaAdd_keeps t e s
  | isaSub t e => exact execIsaSub_keeps t e s
  | isaAnd t e => exact execIsaAnd_keeps t e s
  | isaOr t e => exact execIsaOr_keeps t e s
  | isaXor t e => exact execIsaXor_keeps t e s
  | isaShl t e => exact execIsaShl_keeps t e s
  | isaShr t e => exact execIsaShr_keeps t e s
  | isaSra t e => exact execIsaSra_keeps t e s
  | isaMul t e => exact execIsaMul_keeps t e s
  | isaMulhu t e => exact execIsaMulhu_keeps t e s
  | isaSlt t e => exact execIsaSlt_keeps t e s
  | isaSltu t e => exact execIsaSltu_keeps t e s
  | isaRotr t e => exact execIsaRotr_keeps t e s
  | isaClz t e => exact execIsaClz_keeps t e s
  | isaPopc t e => exact execIsaPopc_keeps t e s
  | isaBswap t e => exact execIsaBswap_keeps t e s
  | isaAddi t e => exact execIsaAddi_keeps t e s
  | isaAndi t e => exact execIsaAndi_keeps t e s
  | isaOri t e => exact execIsaOri_keeps t e s
  | isaXori t e => exact execIsaXori_keeps t e s
  | isaShiftImmediate t e => exact execIsaShiftImmediate_keeps t e s
  | isaLui t e => exact execIsaLui_keeps t e s
  | isaExtu t e => exact execIsaExtu_keeps t e s
  | isaExts t e => exact execIsaExts_keeps t e s
  | isaIns t e => exact execIsaIns_keeps t e s
  | isaLb t e => exact execIsaLb_keeps t e s
  | isaLh t e => exact execIsaLh_keeps t e s
  | isaLw t e => exact execIsaLw_keeps t e s
  | isaLd t e => exact execIsaLd_keeps t e s
  | isaLbs t e => exact execIsaLbs_keeps t e s
  | isaLhs t e => exact execIsaLhs_keeps t e s
  | isaLws t e => exact execIsaLws_keeps t e s
  | isaSb t e => exact execIsaSb_keeps t e s
  | isaSh t e => exact execIsaSh_keeps t e s
  | isaSw t e => exact execIsaSw_keeps t e s
  | isaSd t e => exact execIsaSd_keeps t e s
  | isaLhbe t e => exact execIsaLhbe_keeps t e s
  | isaLwbe t e => exact execIsaLwbe_keeps t e s
  | isaLdbe t e => exact execIsaLdbe_keeps t e s
  | isaShbe t e => exact execIsaShbe_keeps t e s
  | isaSwbe t e => exact execIsaSwbe_keeps t e s
  | isaSdbe t e => exact execIsaSdbe_keeps t e s
  | isaAmoAdd t e => exact execIsaAmoAdd_keeps t e s
  | isaAmoSwap t e => exact execIsaAmoSwap_keeps t e s
  | isaAmoCas t e => exact execIsaAmoCas_keeps t e s
  | isaBeq t e => exact execIsaBeq_keeps t e s
  | isaBne t e => exact execIsaBne_keeps t e s
  | isaBlt t e => exact execIsaBlt_keeps t e s
  | isaBge t e => exact execIsaBge_keeps t e s
  | isaBltu t e => exact execIsaBltu_keeps t e s
  | isaBgeu t e => exact execIsaBgeu_keeps t e s
  | isaJal t e => exact execIsaJal_keeps t e s
  | isaJalr t e => exact execIsaJalr_keeps t e s
  | isaSrd t e => exact execIsaSrd_keeps t e s
  | isaYield t e => exact execIsaYield_keeps t e s
  | isaDone t e => exact execIsaDone_keeps t e s
  | isaFence t e => exact execIsaFence_keeps t e s
  | isaTrap t e => exact execIsaTrap_keeps t e s
  | callClsLookup t e => exact execCallClsLookup_keeps t e s
  | callHash t e => exact execCallHash_keeps t e s
  | callPolice t e => exact execCallPolice_keeps t e s
  | callCount t e => exact execCallCount_keeps t e s
  | callEnq t e => exact execCallEnq_keeps t e s
  | callTime t e => exact execCallTime_keeps t e s
  | callCsum t e => exact execCallCsum_keeps t e s
  | callCmac t e => exact execCallCmac_keeps t e s
  | callRecirc t e => exact execCallRecirc_keeps t e s
  | callFrd t e => exact execCallFrd_keeps t e s
  | callFwr t e => exact execCallFwr_keeps t e s
  | callDrop t e => exact execCallDrop_keeps t e s
  | watchdogExpire t => exact execWatchdogExpire_keeps t s
  | expressBudgetExceeded t => exact execExpressBudgetExceeded_keeps t s
  | courserQuarantine t c handshake => exact execCourserQuarantine_keeps t c handshake s
  | teamReset t => exact execTeamReset_keeps t s
  | samplerRestart q t v => exact execSamplerRestart_keeps q t v s
  | teamDrain q t => exact execTeamDrain_keeps q t s
  | teamDrainDone t => exact execTeamDrainDone_keeps t s
  | teamLoad q t => exact execTeamLoad_keeps q t s
  | teamLoadEnd t first second => exact execTeamLoadEnd_keeps t first second s
  | teamRun q t => exact execTeamRun_keeps q t s
  | teamInitDone t => exact execTeamInitDone_keeps t s
  | loadCmdMulti q t v => exact execLoadCmdMulti_keeps q t v s
  | schedulerSelect node => exact execSchedulerSelect_keeps node s
  | spillReadbackDone queue unc => exact execSpillReadbackDone_keeps queue unc s
  | queueConfigWrite q queue word v => exact execQueueConfigWrite_keeps q queue word v s
  | bucketConfigWrite q addr v => exact execBucketConfigWrite_keeps q addr v s
  | gateCommit q g v => exact execGateCommit_keeps q g v s
  | gateEntryAdvance g => exact execGateEntryAdvance_keeps g s
  | queueSampleSweep overrun => exact execQueueSampleSweep_keeps overrun s
  | todApply q x v => exact execTodApply_keeps q x v s
  | todHeldCompute x => exact execTodHeldCompute_keeps x s
  | todSet q v => exact execTodSet_keeps q v s
  | timeSourceWrite q v => exact execTimeSourceWrite_keeps q v s
  | todMessageTimeout => exact execTodMessageTimeout_keeps s
  | extPpsMissing => exact execExtPpsMissing_keeps s
  | secondTick => exact execSecondTick_keeps s
  | todNsRead q => exact execTodNsRead_keeps q s
  | tsqPop q k => exact execTsqPop_keeps q k s
  | ppsEnable q n v => exact execPpsEnable_keeps q n v s
  | ppsEdge n => exact execPpsEdge_keeps n s
  | eventCaptureEnable q n v => exact execEventCaptureEnable_keeps q n v s
  | eventCaptureEdge n falling phase => exact execEventCaptureEdge_keeps n falling phase s
  | captureQueuePop q n => exact execCaptureQueuePop_keeps q n s
  | comparatorArm q n v => exact execComparatorArm_keeps q n v s
  | comparatorFire n => exact execComparatorFire_keeps n s
  | clientLayoutWrite q v => exact execClientLayoutWrite_keeps q v s
  | portEnable q p v => exact execPortEnable_keeps q p v s
  | portDisable q p v smd rx first => exact execPortDisable_keeps q p v smd rx first s
  | linkUp p rxLat txLat => exact execLinkUp_keeps p rxLat txLat s
  | linkDown p lf rf pcs smd rx first => exact execLinkDown_keeps p lf rf pcs smd rx first s
  | clientFrameReceive p bytes first smd pcsErr abort corr unc => exact execClientFrameReceive_keeps p bytes first smd pcsErr abort corr unc s
  | ucastCommit q p n v => exact execUcastCommit_keeps q p n v s
  | clientFrameTransmit p ue => exact execClientFrameTransmit_keeps p ue s
  | pmpEnable q p v => exact execPmpEnable_keeps q p v s
  | verifyTimeout p => exact execVerifyTimeout_keeps p s
  | busMasterChange bme d3hot => exact execBusMasterChange_keeps bme d3hot s
  | coldPowerUp => exact execColdPowerUp_keeps s
  | warmReset q v => exact execWarmReset_keeps q v s
  | hostReset q cause => exact execHostReset_keeps q cause s
  | resetEnd => exact execResetEnd_keeps s
  | ringEnable q r v => exact execRingEnable_keeps q r v s
  | ringDisable q r v => exact execRingDisable_keeps q r v s
  | ringDisableDone r descs => exact execRingDisableDone_keeps r descs s
  | doorbell page offset width v => exact execDoorbell_keeps page offset width v s
  | txDescriptor r d bytes rd => exact execTxDescriptor_keeps r d bytes rd s
  | hostQueueDeliver hq d ue => exact execHostQueueDeliver_keeps hq d ue s
  | descriptorFetchError r timeout => exact execDescriptorFetchError_keeps r timeout s
  | jobNop r d => exact execJobNop_keeps r d s
  | scrubJob r d => exact execScrubJob_keeps r d s
  | scrubJobEnd fails stopped => exact execScrubJobEnd_keeps fails stopped s
  | checkScanJob r d => exact execCheckScanJob_keeps r d s
  | checkScanEnd u data stop timeout => exact execCheckScanEnd_keeps u data stop timeout s
  | cmacJob r d => exact execCmacJob_keeps r d s
  | cmacDone data rd => exact execCmacDone_keeps data rd s
  | unwrapJob r d => exact execUnwrapJob_keeps r d s
  | unwrapDone q data rd => exact execUnwrapDone_keeps q data rd s
  | eventRingEnable q v => exact execEventRingEnable_keeps q v s
  | eventRingDisable q v => exact execEventRingDisable_keeps q v s
  | eventRingCiWrite q v => exact execEventRingCiWrite_keeps q v s
  | eventRaise src level inst info pulses => exact execEventRaise_keeps src level inst info pulses s
  | msixHoldoffExpire v => exact execMsixHoldoffExpire_keeps v s
  | msixUnmask v => exact execMsixUnmask_keeps v s
  | pcieLinkChange up speed width => exact execPcieLinkChange_keeps up speed width s
  | dramChannelEnable q c v => exact execDramChannelEnable_keeps q c v s
  | dramTrainingEnd c fail => exact execDramTrainingEnd_keeps c fail s
  | dramChannelDown c => exact execDramChannelDown_keeps c s
  | spillAreaWrite q k v => exact execSpillAreaWrite_keeps q k v s
  | eccWriteBack chip group addr cls req synd cancelled hard => exact execEccWriteBack_keeps chip group addr cls req synd cancelled hard s
  | remapEntryWrite q c e v => exact execRemapEntryWrite_keeps q c e v s
  | spareEntryWrite q g e v => exact execSpareEntryWrite_keeps q g e v s
  | memModeWrite q v fails => exact execMemModeWrite_keeps q v fails s
  | flipArm q v => exact execFlipArm_keeps q v s
  | keyLoad q slot size256 => exact execKeyLoad_keeps q slot size256 s
  | keyErase q slot => exact execKeyErase_keeps q slot s
  | forceErase q slot => exact execForceErase_keeps q slot s
  | unwrapStart q v => exact execUnwrapStart_keeps q v s
  | keySwitchArm q x v => exact execKeySwitchArm_keeps q x v s
  | entropyHealthFail repetition adaptive => exact execEntropyHealthFail_keeps repetition adaptive s
  | entropyRestart q passed => exact execEntropyRestart_keeps q passed s
  | checkFeed q u v => exact execCheckFeed_keeps q u v s
  | checkScanStart q u v => exact execCheckScanStart_keeps q u v s
  | railFail pll index skew => exact execRailFail_keeps pll index skew s
  | powerRetry fails => exact execPowerRetry_keeps fails s
  | powerGoodLost rail => exact execPowerGoodLost_keeps rail s
  | pllLockLost i1 => exact execPllLockLost_keeps i1 s
  | powerSleep q energy wakeN => exact execPowerSleep_keeps q energy wakeN s
  | powerDoze q energy wakeN => exact execPowerDoze_keeps q energy wakeN s
  | powerListen q energy wakeN => exact execPowerListen_keeps q energy wakeN s
  | powerRun q energy wakeN => exact execPowerRun_keeps q energy wakeN s
  | powerTransitionEnd fails => exact execPowerTransitionEnd_keeps fails s
  | runMaskWrite q v fails => exact execRunMaskWrite_keeps q v fails s
  | pwrWake energy wakeN doorbell since => exact execPwrWake_keeps energy wakeN doorbell since s
  | dozeWindowOpen => exact execDozeWindowOpen_keeps s
  | dozeWindowClose => exact execDozeWindowClose_keeps s
  | wakeTimerExpire committed => exact execWakeTimerExpire_keeps committed s
  | vcoreSet q v => exact execVcoreSet_keeps q v s
  | vcoreVerifyTimeout => exact execVcoreVerifyTimeout_keeps s
  | monitorSample k code => exact execMonitorSample_keeps k code s
  | supplyLossDeclare => exact execSupplyLossDeclare_keeps s
  | dgHoldExpire => exact execDgHoldExpire_keeps s
  | energyCheck code => exact execEnergyCheck_keeps code s
  | stateSaveEnd ok => exact execStateSaveEnd_keeps ok s
  | pfailRelease => exact execPfailRelease_keeps s
  | groomImageLoad q v => exact execGroomImageLoad_keeps q v s
  | groomImageLoadEnd first second => exact execGroomImageLoadEnd_keeps first second s
  | captureEnable q v => exact execCaptureEnable_keeps q v s
  | captureRecordWrite => exact execCaptureRecordWrite_keeps s
  | captureCopyStale => exact execCaptureCopyStale_keeps s
  | captureResume q v => exact execCaptureResume_keeps q v s
  | captureReadoutStart q v => exact execCaptureReadoutStart_keeps q v s
  | captureReadoutEnd ue => exact execCaptureReadoutEnd_keeps ue s
  | stbNow q v => exact execStbNow_keeps q v s
  | snapshotPeriod => exact execSnapshotPeriod_keeps s
  | snapshotWriteEnd r d => exact execSnapshotWriteEnd_keeps r d s
  | studbookComparatorArm q v => exact execStudbookComparatorArm_keeps q v s
  | userPageWrite q v => exact execUserPageWrite_keeps q v s
  | farrierStart q v refOk clearOk => exact execFarrierStart_keeps q v refOk clearOk s
  | farrierTeamIdle clearOk uncs => exact execFarrierTeamIdle_keeps clearOk uncs s
  | logicBistDone sig => exact execLogicBistDone_keeps sig s
  | memoryBistDone fails xngs => exact execMemoryBistDone_keeps fails xngs s
  | farrierRestoreDone => exact execFarrierRestoreDone_keeps s
  | fuseBurn q v => exact execFuseBurn_keeps q v s
  | fuseBurnEnd => exact execFuseBurnEnd_keeps s
  | harnessRowReceive n row => exact execHarnessRowReceive_keeps n row s
  | pllLockReturn i1 => exact execPllLockReturn_keeps i1 s
  | vddAonLoss => exact execVddAonLoss_keeps s
  | registerRead q addr fact => exact execRegisterRead_keeps q addr fact s
  | todSlewEnd => exact execTodSlewEnd_keeps s

/-! ### Steps -/

theorem step_of_pending_nil {s : State} (h : s.pending = []) : step s = .next s.tickOp := by simp only [step, h]

theorem step_of_pending_cons {s : State} {c : Instr} {r : List Instr} (h : s.pending = c :: r) :
    step s = exec c { s with pending := r } := by simp only [step, h]

theorem tickOp_inv {s : State} (h : s.Inv) : s.tickOp.Inv := by
  have free : ∀ k, Free (fun _ => False) k := fun _ => ⟨id⟩
  exact (tickOp_keeps (K := fun _ => False) (Keeps.refl s)).inv h

/-- The invariant does not speak of the waiting commands. -/
theorem State.Inv.withPending {s : State} (h : s.Inv) (r : List Instr) : State.Inv { s with pending := r } :=
  ⟨h.tick, h.tod, h.counters, h.mem⟩

theorem exec_inv {c : Instr} {s t : State} (h : s.Inv) (e : exec c s = .next t) : t.Inv := by
  obtain ⟨u, hu, keeps⟩ := exec_answers c s
  obtain rfl : u = t := Host.Outcome.next.inj (hu.symm.trans e)
  exact keeps.inv h

/-- Settles O6: a step is a command's effect or a tick, and each keeps the invariant. -/
theorem stepKeepsInvariant : Obligations.StepKeepsInvariant := by
  intro s t inv e
  cases p : s.pending with
  | nil =>
    obtain rfl : s.tickOp = t := Host.Outcome.next.inj ((step_of_pending_nil p).symm.trans e)
    exact tickOp_inv inv
  | cons c r => exact exec_inv (inv.withPending r) ((step_of_pending_cons p).symm.trans e)

/-- Settles O3: every command answers a next state that keeps the queue and the fuses. -/
theorem everyCommandCompletes : Obligations.EveryCommandCompletes := by
  intro c s
  obtain ⟨t, e, keeps⟩ := exec_answers c s
  exact ⟨t, e, keeps.pending, keeps.grade⟩

/-- The invariant holds after reset: no table lists anything. -/
theorem State.reset_inv : State.reset.Inv :=
  ⟨by decide, by decide, fun _ => by simp [State.counter, State.reset, sget], by decide⟩

theorem State.reset_region_on (r : Nat) :
    (State.reset.region r).on = (decide (r = 6) || decide (r = 7) || decide (r = 8)) := rfl

/-- Settles O5: reset leaves every table empty, so that each register reads as the Reset column of its table. -/
theorem resetState : Obligations.ResetState := by
  refine ⟨State.reset_inv, rfl, rfl, fun _ => rfl, State.reset_region_on, ?power, ?mode, ?fault, ?keys, ?teams, ?resources⟩
  case power => decide
  case mode => decide
  case fault => decide
  case keys => decide
  case teams => decide
  case resources => decide

end Sys2Proof.Machine
end

section
/-! SUPPORT. Reads of the identity registers, and the states in which a register write and a register read do what the
statements about them leave out. -/

namespace Sys2Proof.Machine

/-! ### The identity registers (R2) -/

/-- A read that reaches its register completes with the register's word. -/
theorem registerRead_of_reach {s : State} {q : Req} {a : Nat} (h : Reach s q a) (ha : a < bar4) :
    exec (.registerRead q a .answers) s = .next { (s.regRead q a).2 with rd := some (s.regRead q a).1 } := by
  obtain ⟨up, warm, there⟩ := h
  have calm : ¬ (s.warmBusy = true ∧ 0x8000 ≤ a) := by simpa using warm
  show Host.Outcome.next (s.readOp q a .answers) = _
  simp only [State.readOp, State.busRead, if_pos up, if_neg (Nat.not_le.mpr ha), if_neg calm, there]

/-- GLB_ID and GLB_PARAM lie in one block below the registers a warm reset holds back. -/
theorem Reach.glbParam {s : State} {q : Req} (h : Reach s q 0) : Reach s q 4 := h

theorem regRead_glbId (s : State) (q : Req) : s.regRead q 0 =
    (match s.grade with | .fb => 0x46019840#32 | .fbi => 0x46119840#32 | .fbx => 0x46419840#32, s) := by
  have single : s.pairValue q 0 = none := rfl
  have narrow : cntWidth 0 ≠ 32 := by decide
  have live : s.liveWord q 0 =
      some (match s.grade with | .fb => 0x46019840 | .fbi => 0x46119840 | .fbx => 0x46419840) := rfl
  simp only [State.regRead, single, narrow, live]
  cases s.grade <;> rfl

theorem regRead_glbParam (s : State) (q : Req) : s.regRead q 4 =
    (match s.grade with | .fb => 0x04446086#32 | .fbi => 0x04446086#32 | .fbx => 0x00446086#32, s) := by
  have single : s.pairValue q 4 = none := rfl
  have lower : s.pairValue q (4 - 4) = none := rfl
  have narrow : cntWidth 4 ≠ 32 := by decide
  have live : s.liveWord q 4 = some (match s.grade with | .fbx => 0x00446086 | _ => 0x04446086) := rfl
  simp only [State.regRead, single, lower, narrow, live]
  cases s.grade <;> rfl

/-- Settles O7: the two words are computed from the ordering code, and the read changes nothing else. -/
theorem identityRegisters : Obligations.IdentityRegisters := by
  intro s q h
  refine ⟨⟨_, registerRead_of_reach h (by decide), ?id⟩, ⟨_, registerRead_of_reach h.glbParam (by decide), ?param⟩⟩
  case id => exact congrArg (fun r => some r.1) (regRead_glbId s q)
  case param => exact congrArg (fun r => some r.1) (regRead_glbParam s q)

/-! ### A write of an MSI-X vector's control word (R338) -/

/-- Vector 0 is masked, as reset leaves it, and holds a message; bus mastering is off. -/
def heldVectorState : State := { vecs := [(0, { held := true })] }

/-- Unmasking the vector lets the message go, which with bus mastering off sets its pending bit. -/
theorem heldVectorState_unmask : ∃ t, exec (.registerWrite .host 0xF000C 0 false) heldVectorState = .next t ∧
    t.reg msixPba = 1 := ⟨_, rfl, by decide⟩

/-- Refutes O11: its second clause says that a write outside `ownRanges` stores a word and does no more, but `ownRanges` leaves
out the MSI-X table at 0xF0000. A write that unmasks vector 0 while it holds a message also writes the pending-bit array. -/
theorem not_registerWrites : ¬ Obligations.RegisterWrites := by
  intro h
  obtain ⟨-, stored, -⟩ := h
  obtain ⟨w, e, -⟩ := stored heldVectorState .host 0xF000C 0
    { base := 0xF000C, n1 := 64, s1 := 0x10, reset := 1, rw := 1, host := true } (by decide) (by decide) (by decide) (by decide) (fun _ => rfl)
  obtain ⟨t, u, pending⟩ := heldVectorState_unmask
  obtain rfl : t = heldVectorState.setReg 0xF000C w := Host.Outcome.next.inj (u.symm.trans e)
  have kept : (heldVectorState.setReg 0xF000C w).reg msixPba = 0 := State.reg_setReg_ne _ (by decide) w
  exact absurd (pending.symm.trans kept) (by decide)

/-! ### The upper half a read keeps (R10) -/

/-- Shadows are keyed by 64 * requester code + block, so that a block number past 63 names another requester's shadow. -/
theorem State.shadow_host_eq_groom (s : State) (b : Nat) : s.shadow .host (31 * 64 + b) = s.shadow .groom b := by
  have key : reqCode .host * 64 + (31 * 64 + b) = reqCode .groom * 64 + b := by simp only [reqCode]; omega
  simp only [State.shadow, key]

/-- The tick counter, whose pair the Groom can read, has a 1 in its upper half. -/
def upperHalfState : State := { tick := 2 ^ 32 }

/-- Refutes O12: its clause on 64-bit pairs says that every shadow but the one of this requester and block stays, for block
numbers without bound. When the Groom reads the tick counter, its shadow of block 10 becomes 1, and that is also the host's
shadow of "block" 31 * 64 + 10, which was 0. -/
theorem not_registerReads : ¬ Obligations.RegisterReads := by
  intro h
  obtain ⟨-, -, -, -, -, -, -, -, -, -, pair, -⟩ := h
  obtain ⟨t, -, -, upper, -, -, others⟩ := pair upperHalfState .groom 0x1000010 (2 ^ 32)
    (by decide) (by decide) (by decide) (by decide) rfl
  have groom : t.shadow .groom 10 = 1 := upper
  have host : t.shadow .host (31 * 64 + 10) = 0 := (others .host (31 * 64 + 10)).resolve_left (by decide)
  rw [State.shadow_host_eq_groom, groom] at host
  exact absurd host (by decide)

end Sys2Proof.Machine
end

section
/-! SUPPORT. Bridle's unlock sequence and the activation of a line side (R122 to R128): which registers each operation writes,
what it leaves of the side, and what each command of UPB_ACT comes to. -/

namespace Sys2Proof.Machine

/-! ### Writes that reach their block -/

/-- A write that reaches its block takes effect (R318, R320). -/
theorem State.guardW_of_reach {s : State} {q : Req} {a : Nat} (h : Reach s q a) (k : State → State) : s.guardW q a k = k s := by
  obtain ⟨up, warm, there⟩ := h
  simp only [State.guardW, up, warm, there, Bool.not_true, Bool.or_self, Bool.false_eq_true, if_false]

theorem State.guardHostW_of_reach {s : State} {q : Req} {a : Nat} (h : Reach s q a) (k : State → State) :
    s.guardHostW q a k = if q = .host then k s else s :=
  State.guardW_of_reach h _

/-! ### The registers an operation writes -/

/-- From `s` to `t` no register outside `ks` changes. -/
def RegsWithin (ks : List Nat) (s t : State) : Prop := ∀ k, k ∉ ks → t.reg k = s.reg k

section
variable {s t u : State} {ks ls : List Nat}

theorem RegsWithin.refl (s : State) : RegsWithin [] s s := fun _ _ => rfl

theorem RegsWithin.trans (h : RegsWithin ks s t) (j : RegsWithin ls t u) : RegsWithin (ks ++ ls) s u := fun k hk => by
  rw [List.mem_append, not_or] at hk
  exact (j k hk.2).trans (h k hk.1)

theorem RegsWithin.mono (h : RegsWithin ks s t) (sub : ks ⊆ ls) : RegsWithin ls s t := fun k hk => h k fun m => hk (sub m)

theorem RegsWithin.f (h : RegsWithin ks s t) (F : Fld) (i : Nat) (hk : F.addr + i ∉ ks) : t.f F i = s.f F i :=
  congrArg F.of (h _ hk)

theorem RegsWithin.flag (h : RegsWithin ks s t) (F : Fld) (i : Nat) (hk : F.addr + i ∉ ks) : t.flag F i = s.flag F i :=
  congrArg (· != 0) (h.f F i hk)

end

theorem State.regsWithin_setReg (s : State) (k : Nat) (v : Word) : RegsWithin [k] s (s.setReg k v) :=
  fun _ hj => s.reg_setReg_ne (fun e => hj (List.mem_singleton.mpr e.symm)) v

theorem State.regsWithin_setF (s : State) (F : Fld) (i v : Nat) : RegsWithin [F.addr + i] s (s.setF F i v) :=
  s.regsWithin_setReg _ _

theorem State.regsWithin_setFlag (s : State) (F : Fld) (i : Nat) (b : Bool) : RegsWithin [F.addr + i] s (s.setFlag F i b) :=
  s.regsWithin_setF F i _

theorem State.regsWithin_modLine (s : State) (x : Side) (g : Line → Line) : RegsWithin [] s (s.modLine x g) :=
  fun k _ => s.reg_modLine x g k

/-- The registers of one line event: the raise count of its source, and those of the event ring. -/
def lineEventKeys (x : Side) (off : Nat) : List Nat := (0x102000 + 4 * (sideEvt x + off)) :: ringKeys

theorem State.regsWithin_lineEvent (s : State) (x : Side) (off info level : Nat) :
    RegsWithin (lineEventKeys x off) s (s.lineEvent x off info level) := fun k hk =>
  (Quiet.raise (P := (lineEventKeys x off).contains) (sideEvt x + off) level 0 info
    (fun _ m => List.contains_iff_mem.mpr (.tail _ m)) (List.contains_iff_mem.mpr (.head _))).regs k (by simpa using hk)

/-- Only the eligibility bits of PRT_STAT change when the protection control looks at the sides (R137). -/
theorem State.regsWithin_prtEval (s : State) : RegsWithin [0x800008] s s.prtEval :=
  ((s.regsWithin_setFlag F.PRT_STAT_ELIG_A 0 _).trans (State.regsWithin_setFlag _ F.PRT_STAT_ELIG_B 0 _)).mono (by decide)

theorem State.regsWithin_actGo (s : State) (x : Side) (new cause : Nat) :
    RegsWithin ((0x406004 + sideOff x) :: lineEventKeys x 20) s (s.actGo x new cause) := by
  unfold State.actGo
  extract_lets old
  split
  · exact (RegsWithin.refl s).mono (List.nil_subset _)
  · exact (s.regsWithin_setF F.UPB_ACT_STATE (sideOff x) new).trans (State.regsWithin_lineEvent _ x 20 _ 1)

theorem State.regsWithin_eqdZero (s : State) (x : Side) : RegsWithin [0x406020 + sideOff x, 0x406024 + sideOff x] s (s.eqdZero x) :=
  ((s.regsWithin_setReg (0x406020 + sideOff x) 0).trans (State.regsWithin_modLine _ x _)).trans (State.regsWithin_setReg _ _ _)

theorem State.regsWithin_faultSettle (s : State) (x : Side) : RegsWithin [0x406184 + sideOff x] s (s.faultSettle x) := by
  unfold State.faultSettle
  extract_lets l
  split
  · exact (s.regsWithin_setFlag F.UPB_BRIDLE_STAT_FAULT_HOLD (sideOff x) true).trans (State.regsWithin_modLine _ x _)
  · exact (RegsWithin.refl s).mono (List.nil_subset _)

/-! ### Fields after a write -/

theorem State.f_setF_self (s : State) (F : Fld) (i v : Nat) (h : F.lo + F.w ≤ 32) : (s.setF F i v).f F i = v % 2 ^ F.w := by
  simp only [State.setF, State.f, State.reg_setReg_self, Fld.of_put F _ v h]

theorem State.flag_setFlag_self (s : State) (F : Fld) (i : Nat) (b : Bool) (h : F.lo + F.w ≤ 32) (w : F.w = 1) :
    (s.setFlag F i b).flag F i = b := by
  simp only [State.flag, State.setFlag, State.f_setF_self s F i _ h, w]
  cases b <;> rfl

/-- Two fields of one register that share no bit. -/
theorem State.f_setF_beside (s : State) {F G : Fld} (i v : Nat) (same : G.addr = F.addr) (h : G.lo + G.w ≤ 32)
    (apart : F.lo + F.w ≤ G.lo ∨ G.lo + G.w ≤ F.lo) : (s.setF G i v).f F i = s.f F i := by
  simp only [State.setF, State.f, same, State.reg_setReg_self, Fld.of_put_ne F G _ v h apart]

/-! ### The line side under these operations -/

@[simp] theorem State.line_modPrt (s : State) (g : PrtSt → PrtSt) (x : Side) : (s.modPrt g).line x = s.line x := by
  cases x <;> rfl

@[simp] theorem State.line_setF (s : State) (F : Fld) (i v : Nat) (x : Side) : (s.setF F i v).line x = s.line x :=
  s.line_setReg _ _ x

@[simp] theorem State.line_setFlag (s : State) (F : Fld) (i : Nat) (b : Bool) (x : Side) :
    (s.setFlag F i b).line x = s.line x := s.line_setReg _ _ x

@[simp] theorem State.line_lineEvent (s : State) (x y : Side) (off info level : Nat) :
    (s.lineEvent x off info level).line y = s.line y := by
  cases y
  · exact s.raise_lineA _ _ _ _
  · exact s.raise_lineB _ _ _ _

@[simp] theorem State.line_prtEval (s : State) (x : Side) : s.prtEval.line x = s.line x := by
  simp only [State.prtEval, State.line_modPrt, State.line_setFlag]

@[simp] theorem State.line_actGo (s : State) (x y : Side) (new cause : Nat) : (s.actGo x new cause).line y = s.line y := by
  simp only [State.actGo]
  split
  · rfl
  · simp only [State.line_lineEvent, State.line_setF]

theorem State.line_eqdZero (s : State) (x : Side) : (s.eqdZero x).line x = { s.line x with eqdEff := 0 } := by
  simp only [State.eqdZero, State.eqdShow, State.line_setReg, State.modLine_line, if_true]

/-- A side whose parts `K` keeps is the same. -/
theorem Keeps.line {K : Comp → Prop} {s t : State} (h : Keeps K s t) (x : Side) (hx : K (.line x)) : t.line x = s.line x := by
  cases x <;> exact h.comp _ hx

theorem State.modLine_modLine (s : State) (x : Side) (g h : Line → Line) :
    (s.modLine x g).modLine x h = s.modLine x fun l => h (g l) := by
  cases x <;> rfl

/-! ### Bursts given back to the burst buffer -/

/-- Only the burst buffer of a side changes: its frames partly sent and those waiting. -/
def Rebuffered (x : Side) (s t : State) : Prop :=
  ∃ p b, t = s.modLine x fun l => { l with partials := p, buffered := b }

theorem Rebuffered.refl (x : Side) (s : State) : Rebuffered x s s :=
  ⟨(s.line x).partials, (s.line x).buffered, by cases x <;> rfl⟩

theorem Rebuffered.trans {x : Side} {s t u : State} (h : Rebuffered x s t) (j : Rebuffered x t u) : Rebuffered x s u := by
  obtain ⟨p, b, rfl⟩ := h
  obtain ⟨p', b', rfl⟩ := j
  exact ⟨p', b', s.modLine_modLine x _ _⟩

theorem State.rebuffered_setPartial (s : State) (x : Side) (key : Nat) (p : Option Partial) :
    Rebuffered x s (s.setPartial x key p) :=
  ⟨sset (fun _ => none) (s.line x).partials key p, (s.line x).buffered, by cases x <;> rfl⟩

theorem State.rebuffered_setBuffered (s : State) (x : Side) (key : Nat) (ps : List Partial) :
    Rebuffered x s (s.setBuffered x key ps) :=
  ⟨(s.line x).partials, sset (fun _ => []) (s.line x).buffered key ps, by cases x <;> rfl⟩

theorem State.rebuffered_unassemble (s : State) (x : Side) (seen : List Nat) (as : List Alloc) :
    Rebuffered x s (s.unassemble x seen as) := by
  induction as generalizing s seen with
  | nil => exact .refl x s
  | cons a as ih =>
    unfold State.unassemble
    extract_lets s1
    have h1 : Rebuffered x s s1 := by
      show Rebuffered x s (if _ then _ else _)
      split
      · exact .refl x s
      · exact s.rebuffered_setPartial x _ _
    split
    · exact ih s seen
    · exact (h1.trans (s1.rebuffered_setBuffered x _ _)).trans (ih _ _)

theorem State.rebuffered_unsend (s : State) (x : Side) (w : Nat) (as : List Alloc) : Rebuffered x s (s.unsend x w as) := by
  induction as generalizing s with
  | nil => exact .refl x s
  | cons a as ih =>
    unfold State.unsend
    split
    · exact ih s
    · next p ps _ =>
      extract_lets s1 back
      have h1 : Rebuffered x s s1 := by
        show Rebuffered x s (if _ then _ else _)
        split <;> exact s.rebuffered_setPartial x _ _
      exact (h1.trans (s1.rebuffered_setBuffered x _ _)).trans (ih _)

theorem State.regsWithin_storeEmpty (s : State) (x : Side) : RegsWithin [0x406184 + sideOff x] s (s.storeEmpty x) := by
  obtain ⟨p, b, e⟩ := s.rebuffered_unassemble x [] (s.asmAllocs x)
  unfold State.storeEmpty
  rw [e]
  exact ((s.regsWithin_modLine x _).trans (State.regsWithin_modLine _ x _)).trans (State.regsWithin_faultSettle _ x)

/-- What grants, the burst on the line and the activation's timers show of a side: grant store, burst, TO1 and EqD in effect. -/
def Line.upstream (l : Line) : List Burst × Option Burst × Nat × Nat := (l.store, l.sending, l.to1, l.eqdEff)

theorem Rebuffered.upstream {x : Side} {s t : State} (h : Rebuffered x s t) : (t.line x).upstream = (s.line x).upstream := by
  obtain ⟨p, b, rfl⟩ := h
  rw [State.modLine_line, if_pos rfl]
  rfl

/-- The grant store is empty; the burst on the line, TO1 and EqD are as they were. -/
theorem State.upstream_storeEmpty (s : State) (x : Side) :
    ((s.storeEmpty x).line x).upstream = ([], (s.line x).sending, (s.line x).to1, (s.line x).eqdEff) := by
  have kept := (s.rebuffered_unassemble x [] (s.asmAllocs x)).upstream
  simp only [Line.upstream, Prod.mk.injEq] at kept
  obtain ⟨-, sending, to1, eqd⟩ := kept
  simp only [State.storeEmpty, State.faultSettle]
  split <;> simp only [Line.upstream, State.modLine_line, State.line_setFlag, if_true, sending, to1, eqd]

/-! ### The burst on the line is stopped (R120) -/

theorem State.line_foldl_txLeft (s : State) (x : Side) (ts : List TxStamp) :
    (ts.foldl (fun s t => s.txLeft x t) s).line x = s.line x := by
  have counters : Free (Off [.counters, .regs, .report, .time]) .counters := free_off (by decide)
  have regs : Free (Off [.counters, .regs, .report, .time]) .regs := free_off (by decide)
  have report : Free (Off [.counters, .regs, .report, .time]) .report := free_off (by decide)
  have time : Free (Off [.counters, .regs, .report, .time]) .time := free_off (by decide)
  exact (keeps_foldl (K := Off [.counters, .regs, .report, .time]) ts (Keeps.refl s) fun _ t h => txLeft_keeps h x t).line x
    (by simp [Off])

theorem State.line_capOffer (s : State) (r : CapRec) (x : Side) : (s.capOffer r).line x = s.line x := by
  have capture : Free (Off [.capture, .counters, .paddock, .regs, .report]) .capture := free_off (by decide)
  have counters : Free (Off [.capture, .counters, .paddock, .regs, .report]) .counters := free_off (by decide)
  have paddock : Free (Off [.capture, .counters, .paddock, .regs, .report]) .paddock := free_off (by decide)
  have regs : Free (Off [.capture, .counters, .paddock, .regs, .report]) .regs := free_off (by decide)
  have report : Free (Off [.capture, .counters, .paddock, .regs, .report]) .report := free_off (by decide)
  exact (capOffer_keeps (K := Off [.capture, .counters, .paddock, .regs, .report]) (Keeps.refl s) r).line x (by simp [Off])

theorem State.upstream_benSet (s : State) (x : Side) (b : Bool) : ((s.benSet x b).line x).upstream = (s.line x).upstream := by
  simp only [State.benSet, State.benShow]
  split <;> simp only [State.modLine_line, State.line_setFlag, if_true, Line.upstream]

theorem State.peqEnd_of_store_nil {s : State} {x : Side} (h : (s.line x).store = []) : s.peqEnd x = s := by
  simp only [State.peqEnd, h]

/-- With no grant left, a burst's end leaves nothing on the line and TO1 as it was. -/
theorem State.upstream_burstDone {s : State} {x : Side} (h : (s.line x).store = []) (b : Burst) (stopped : Bool) :
    ((s.burstDone x b stopped).line x).upstream = ([], none, (s.line x).to1, (s.line x).eqdEff) := by
  unfold State.burstDone
  extract_lets i s0 gone s1 hdr s2
  have h0 : (s0.line x).upstream = ([], none, (s.line x).to1, (s.line x).eqdEff) := by
    have kept := s.upstream_benSet x false
    simp only [Line.upstream, Prod.mk.injEq] at kept
    obtain ⟨store, -, to1, eqd⟩ := kept
    simp only [s0, State.modLine_line, if_true, Line.upstream, store, to1, eqd, h]
  have left : (gone.foldl (fun s t => s.txLeft x t) s0).line x = s0.line x := s0.line_foldl_txLeft x gone
  have h1 : s1.line x = s0.line x := by
    have none : ((gone.foldl (fun s t => s.txLeft x t) s0).line x).store = [] := left ▸ congrArg (·.1) h0
    simpa only [s1, State.peqEnd_of_store_nil none] using left
  have h2 : s2.line x = s0.line x := by
    simp only [s2]
    split
    · exact (State.line_capOffer ..).trans h1
    · exact h1
  split
  · rw [h2, h0]
  · split
    · rw [State.modLine_line, if_pos rfl, h2]; exact h0
    · rw [State.modLine_line, if_pos rfl, State.line_setFlag, h2]; exact h0

theorem State.upstream_stopBurst {s : State} {x : Side} (h : (s.line x).store = []) :
    ((s.stopBurst x).line x).upstream = ([], none, (s.line x).to1, (s.line x).eqdEff) := by
  unfold State.stopBurst
  split
  · next idle => simp only [Line.upstream, h, idle]
  · next b _ =>
    extract_lets out first n s1
    obtain ⟨p, c, e⟩ := (s1.bump (usCnt x 12) n).rebuffered_unsend x (s.wordsOut x b) b.allocs
    rw [e, State.upstream_burstDone (by simp [s1, h])]
    simp [s1]

/-! ### Activation states (R125) -/

/-- The state is the new one, also when it was so before. -/
theorem State.actState_actGo (s : State) (x : Side) {new : Nat} (h : new < 8) (cause : Nat) :
    (s.actGo x new cause).actState x = new := by
  simp only [State.actGo]
  split
  · assumption
  · have := (State.regsWithin_lineEvent (s.setF F.UPB_ACT_STATE (sideOff x) new) x 20
      (new + 16 * s.actState x + 256 * cause) 1).f F.UPB_ACT_STATE (sideOff x) (by cases x <;> decide)
    exact this.trans ((s.f_setF_self F.UPB_ACT_STATE (sideOff x) new (by decide)).trans (Nat.mod_eq_of_lt h))

@[simp] theorem State.f_prtEval_of_ne (s : State) (F : Fld) (i : Nat) (h : F.addr + i ≠ 0x800008) : s.prtEval.f F i = s.f F i :=
  s.regsWithin_prtEval.f F i fun m => h (List.mem_singleton.mp m)

@[simp] theorem State.actState_prtEval (s : State) (x : Side) : s.prtEval.actState x = s.actState x :=
  s.f_prtEval_of_ne _ _ (by cases x <;> decide)

/-- STATE and RETURN share UPB_ACT. -/
theorem State.actState_setReturn (s : State) (x : Side) (v : Nat) :
    (s.setF F.UPB_ACT_RETURN (sideOff x) v).actState x = s.actState x :=
  s.f_setF_beside (F := F.UPB_ACT_STATE) (G := F.UPB_ACT_RETURN) _ v rfl (by decide) (by decide)

/-! ### A refused command (R126) -/

theorem State.actState_lineEvent (s : State) (x : Side) (off info level : Nat) (h : off < 64) :
    (s.lineEvent x off info level).actState x = s.actState x :=
  (s.regsWithin_lineEvent x off info level).f _ _ (by
    cases x <;> simp [lineEventKeys, ringKeys, sideEvt, sideOff, F.UPB_ACT_STATE] <;> omega)

theorem State.actState_actRefuse (s : State) (x : Side) (cmd : Nat) : (s.actRefuse x cmd).actState x = s.actState x :=
  s.actState_lineEvent x 27 _ 1 (by decide)

/-- Register of the raise count of event offset 27. -/
def refuseCount (x : Side) : Nat := 0x102000 + 4 * (sideEvt x + 27)

theorem State.reg_actRefuse_count (s : State) (x : Side) (cmd : Nat) :
    (s.actRefuse x cmd).reg (refuseCount x) = s.reg (refuseCount x) + 1 :=
  (s.raised (sideEvt x + 27) 1 0 _ (by cases x <;> decide) (by cases x <;> decide)).1

theorem State.reg_prtEval_count (s : State) (x : Side) : s.prtEval.reg (refuseCount x) = s.reg (refuseCount x) :=
  s.regsWithin_prtEval _ (by cases x <;> decide)

/-! ### The effects of DEACTIVATE (R126) -/

/-- VALID of each of these allocation entries is cleared. -/
def State.allocClear (s : State) (as : List Nat) : State := as.foldl (fun s a => s.setReg a (s.reg a &&& 0x7FFFFFFF#32)) s

/-- DSF_TID is no longer valid. -/
def State.tidOff (s : State) (x : Side) : State := s.setFlag F.DSF_TID_VALID (sideOff x) false

/-- No allocation entry of the side is valid. -/
def State.allocsOff (s : State) (x : Side) : State := s.allocClear (s.allocValids x)

theorem State.deactivate_eq (s : State) (x : Side) : s.deactivate x =
    ((((s.tidOff x).allocsOff x).eqdZero x).storeEmpty x).modLine x fun l => { l with to1 := 0 } := rfl

theorem State.reg_allocClear (s : State) (as : List Nat) (k : Nat) :
    (s.allocClear as).reg k = if k ∈ as then s.reg k &&& 0x7FFFFFFF#32 else s.reg k := by
  induction as generalizing s with
  | nil => rfl
  | cons a as ih =>
    refine (ih _).trans ?_
    by_cases e : a = k
    · subst e
      simp [BitVec.and_assoc]
    · simp [State.reg_setReg_ne _ e, Ne.symm e]

@[simp] theorem State.line_allocClear (s : State) (as : List Nat) (x : Side) : (s.allocClear as).line x = s.line x := by
  induction as generalizing s with
  | nil => rfl
  | cons a as ih => exact (ih _).trans (s.line_setReg _ _ x)

@[simp] theorem State.line_tidOff (s : State) (x y : Side) : (s.tidOff x).line y = s.line y := s.line_setFlag _ _ _ y

@[simp] theorem State.line_allocsOff (s : State) (x y : Side) : (s.allocsOff x).line y = s.line y := s.line_allocClear _ y

theorem State.regsWithin_allocClear (s : State) (as : List Nat) : RegsWithin as s (s.allocClear as) := fun k hk => by
  rw [State.reg_allocClear, if_neg hk]

/-- A register reads what it lists, or its reset value. -/
theorem sget_mem_or_default {V : Type} (d : Nat → V) (m : SMap V) (k : Nat) : (k, sget d m k) ∈ m ∨ sget d m k = d k := by
  induction m with
  | nil => exact .inr rfl
  | cons e m ih =>
    obtain ⟨j, v⟩ := e
    by_cases h : j = k
    · subst h
      simp [sget]
    · rcases ih with mem | eq
      · exact .inl (by simp only [sget, if_neg h]; exact .tail _ mem)
      · exact .inr (by simp only [sget, if_neg h]; exact eq)

theorem State.not_mem_allocValids {s : State} {x : Side} {k : Nat} (h : k < 0x407000 + sideOff x) : k ∉ s.allocValids x := by
  simp only [State.allocValids, List.mem_map, List.mem_filter, Bool.and_eq_true, decide_eq_true_eq, not_exists, not_and]
  rintro e ⟨-, ⟨low, -⟩, -⟩ rfl
  omega

/-- An entry of the allocation table is listed when its VALID bit is 1, unless that is its reset value. -/
theorem State.mem_allocValids {s : State} {x : Side} {k : Nat} (low : 0x407000 + sideOff x ≤ k) (high : k < 0x407800 + sideOff x)
    (reset : F.UPB_ALLOC_VALID.of (regDefault k) = 0) (valid : F.UPB_ALLOC_VALID.of (s.reg k) ≠ 0) : k ∈ s.allocValids x := by
  rcases sget_mem_or_default regDefault s.regs k with mem | eq
  · have bit : F.UPB_ALLOC_VALID.of (s.reg k) < 2 := Nat.mod_lt _ (by decide)
    have one : F.UPB_ALLOC_VALID.of (sget regDefault s.regs k) = 1 := Nat.le_antisymm (Nat.le_of_lt_succ bit)
      (Nat.pos_of_ne_zero valid)
    exact List.mem_map.mpr ⟨_, List.mem_filter.mpr ⟨mem, by simpa [low, high] using one⟩, rfl⟩
  · exact absurd ((congrArg F.UPB_ALLOC_VALID.of eq).trans reset) valid

/-- No register of the burst-builder block has bit 31 set after reset. -/
theorem regReset_lt_of_burstBuilder {a : Nat} (low : 0x406000 ≤ canonAddr a) (high : canonAddr a < 0x600000) :
    (regReset a).toNat < 2 ^ 31 := by
  have rows : ∀ r ∈ rowsUpb, r.reset < 2 ^ 31 := by decide
  have table : rowsAt (canonAddr a) = rowsUpb := by
    simp only [rowsAt]
    repeat rw [if_neg (by omega)]
    rw [if_pos high]
  have plain : resetOverride a = none := by
    have : 0x406000 ≤ a := by
      simp only [canonAddr] at low
      split at low <;> omega
    have : a < 0x800000 := by
      simp only [canonAddr] at high
      split at high <;> omega
    simp only [resetOverride]
    repeat rw [if_neg (by omega)]
  rw [regReset, plain, Option.getD_none, regRow, table, BitVec.toNat_ofNat]
  refine Nat.lt_of_le_of_lt (Nat.mod_le _ _) ?_
  split
  · next r found => exact rows r (List.mem_of_find?_eq_some found)
  · decide

/-- VALID is bit 31. -/
theorem allocValid_of_lt {w : Word} (h : w.toNat < 2 ^ 31) : F.UPB_ALLOC_VALID.of w = 0 :=
  (congrArg (· % 2 ^ 1) (Nat.div_eq_of_lt h)).trans (Nat.zero_mod _)

theorem regDefault_alloc_invalid (x : Side) {n : Nat} (h : n < 512) :
    F.UPB_ALLOC_VALID.of (regDefault (0x407000 + sideOff x + 4 * n)) = 0 := by
  have there : canonAddr (0x407000 + sideOff x + 4 * n) = 0x407000 + 4 * n := by
    cases x with
    | a => exact if_neg (by simp only [sideOff]; omega)
    | b => exact (if_pos (by simp only [sideOff]; omega)).trans (by simp only [sideOff]; omega)
  have small := regReset_lt_of_burstBuilder (a := 0x407000 + sideOff x + 4 * n) (by omega) (by omega)
  have key : (0x407000 + sideOff x + 4 * n) % 2 ^ 25 = 0x407000 + sideOff x + 4 * n :=
    Nat.mod_eq_of_lt (by cases x <;> simp only [sideOff] <;> omega)
  rw [regDefault, key]
  exact allocValid_of_lt small

theorem allocValid_of_cleared (w : Word) : F.UPB_ALLOC_VALID.of (w &&& 0x7FFFFFFF#32) = 0 := by
  refine allocValid_of_lt ?_
  rw [BitVec.toNat_and]
  exact Nat.and_lt_two_pow _ (by decide)

theorem State.regsWithin_deactivate (s : State) (x : Side) :
    RegsWithin ((s.tidOff x).allocValids x ++ [0x406020 + sideOff x, 0x406024 + sideOff x, 0x406184 + sideOff x])
      (s.tidOff x) (s.deactivate x) := by
  rw [State.deactivate_eq]
  refine ((((State.regsWithin_allocClear _ _).trans (State.regsWithin_eqdZero _ x)).trans (State.regsWithin_storeEmpty _ x)).trans
    (State.regsWithin_modLine _ x _)).mono ?_
  simp only [List.append_assoc, List.append_nil]
  exact List.Subset.refl _

/-- Of the registers below the burst builder's, DEACTIVATE changes DSF_TID only. -/
theorem State.reg_deactivate_below (s : State) (x : Side) {k : Nat} (h : k < 0x406000 + sideOff x) :
    (s.deactivate x).reg k = (s.tidOff x).reg k := by
  refine s.regsWithin_deactivate x k fun m => ?_
  rcases List.mem_append.mp m with valid | other
  · exact State.not_mem_allocValids (by omega) valid
  · simp only [List.mem_cons, List.not_mem_nil, or_false] at other
    omega

theorem State.allocValid_allocsOff (s : State) (x : Side) {n : Nat} (h : n < 512) :
    F.UPB_ALLOC_VALID.of ((s.allocsOff x).reg (0x407000 + sideOff x + 4 * n)) = 0 := by
  rw [State.allocsOff, State.reg_allocClear]
  split
  · exact allocValid_of_cleared _
  · next out =>
    refine Decidable.byContradiction fun valid => ?_
    exact out (State.mem_allocValids (by omega) (by omega) (regDefault_alloc_invalid x h) valid)

theorem State.upstream_deactivate (s : State) (x : Side) :
    ((s.deactivate x).line x).upstream = ([], (s.line x).sending, 0, 0) := by
  have emptied := State.upstream_storeEmpty (((s.tidOff x).allocsOff x).eqdZero x) x
  simp only [State.line_eqdZero, State.line_allocsOff, State.line_tidOff, Line.upstream, Prod.mk.injEq] at emptied
  obtain ⟨store, sending, -, eqd⟩ := emptied
  simp only [State.deactivate_eq, State.modLine_line, if_true, Line.upstream, store, sending, eqd]

theorem State.tidValid_deactivate (s : State) (x : Side) : (s.deactivate x).flag F.DSF_TID_VALID (sideOff x) = false := by
  have same := s.reg_deactivate_below x (k := F.DSF_TID_VALID.addr + sideOff x) (by cases x <;> decide)
  rw [State.flag, State.f, same]
  exact s.flag_setFlag_self F.DSF_TID_VALID (sideOff x) false (by decide) rfl

theorem State.allocValid_deactivate (s : State) (x : Side) {n : Nat} (h : n < 512) :
    (s.deactivate x).flag F.UPB_ALLOC_VALID (sideOff x + 4 * n) = false := by
  have rest : (s.deactivate x).reg (0x407000 + sideOff x + 4 * n) =
      ((s.tidOff x).allocsOff x).reg (0x407000 + sideOff x + 4 * n) := by
    rw [State.deactivate_eq]
    refine (((State.regsWithin_eqdZero _ x).trans (State.regsWithin_storeEmpty _ x)).trans (State.regsWithin_modLine _ x _)) _ ?_
    simp only [List.append_nil, List.cons_append, List.nil_append, List.mem_cons, List.not_mem_nil, or_false]
    omega
  have zero := (congrArg F.UPB_ALLOC_VALID.of rest).trans (State.allocValid_allocsOff _ x h)
  rw [State.flag, State.f, ← Nat.add_assoc]
  exact bne_eq_false_iff_eq.mpr zero

/-- The effects of DEACTIVATE on a side (R126). -/
structure Deactivated (x : Side) (t : State) : Prop where
  tid : t.flag F.DSF_TID_VALID (sideOff x) = false
  store : (t.line x).store = []
  eqd : (t.line x).eqdEff = 0
  to1 : (t.line x).to1 = 0
  alloc : ∀ n, n < 512 → t.flag F.UPB_ALLOC_VALID (sideOff x + 4 * n) = false

theorem State.deactivate_deactivated (s : State) (x : Side) : Deactivated x (s.deactivate x) := by
  have upstream := s.upstream_deactivate x
  simp only [Line.upstream, Prod.mk.injEq] at upstream
  obtain ⟨store, -, to1, eqd⟩ := upstream
  exact ⟨s.tidValid_deactivate x, store, eqd, to1, fun _ h => s.allocValid_deactivate x h⟩

/-- Operations that leave the line, DSF_TID and the allocation table keep the effects of DEACTIVATE. -/
theorem Deactivated.of_regsWithin {x : Side} {s t : State} {ks : List Nat} (h : Deactivated x s) (w : RegsWithin ks s t)
    (line : t.line x = s.line x)
    (off : ∀ k ∈ ks, k ≠ 0x401004 + sideOff x ∧ ¬ (0x407000 + sideOff x ≤ k ∧ k < 0x407800 + sideOff x)) :
    Deactivated x t where
  tid := (w.flag F.DSF_TID_VALID _ fun m => (off _ m).1 rfl).trans h.tid
  store := line ▸ h.store
  eqd := line ▸ h.eqd
  to1 := line ▸ h.to1
  alloc n hn := (w.flag F.UPB_ALLOC_VALID _ fun m => (off _ m).2 (by
    simp only [F.UPB_ALLOC_VALID]; omega)).trans (h.alloc n hn)

/-- The registers of line events lie far below those of the lines. -/
theorem lt_of_mem_lineEventKeys {x : Side} {off k : Nat} (h : off < 64) (m : k ∈ lineEventKeys x off) : k < 0x200000 := by
  have base : sideEvt x ≤ 128 := by cases x <;> decide
  simp only [lineEventKeys, ringKeys, List.mem_cons, List.not_mem_nil, or_false] at m
  omega

theorem Deactivated.actGo {x : Side} {s : State} (h : Deactivated x s) (new cause : Nat) : Deactivated x (s.actGo x new cause) := by
  refine h.of_regsWithin (s.regsWithin_actGo x new cause) (s.line_actGo x x new cause) fun k m => ?_
  rcases List.mem_cons.mp m with rfl | event
  · omega
  · have := lt_of_mem_lineEventKeys (by decide) event
    omega

theorem Deactivated.lineEvent {x : Side} {s : State} (h : Deactivated x s) {off : Nat} (ho : off < 64) (info level : Nat) :
    Deactivated x (s.lineEvent x off info level) := by
  refine h.of_regsWithin (s.regsWithin_lineEvent x off info level) (s.line_lineEvent x x off info level) fun k m => ?_
  have := lt_of_mem_lineEventKeys ho m
  omega

theorem Deactivated.prtEval {x : Side} {s : State} (h : Deactivated x s) : Deactivated x s.prtEval := by
  refine h.of_regsWithin s.regsWithin_prtEval (s.line_prtEval x) fun k m => ?_
  obtain rfl := List.mem_singleton.mp m
  cases x <;> decide

/-! ### The commands of UPB_ACT (R126) -/

/-- A command by the requester MSG_OWNER names is judged (R126). -/
theorem State.actWrite_of_reach {s : State} {q : Req} {x : Side} (h : Reach s q (0x406004 + sideOff x))
    (own : s.f F.UPB_CFG_MSG_OWNER (sideOff x) = reqCode q) (cmd : Nat) : s.actWrite q x cmd = s.actCmd x cmd := by
  rw [State.actWrite, State.guardW_of_reach h, State.msgOwnerWrite, State.ownerWrite, if_pos own.symm]

section
variable {s : State} {x : Side}

/-- ASSIGN_TID copies the ID, starts TO1, and has EqD 0 in effect at once (the model's choice, log 66). -/
theorem State.actAssign_accepted (h : s.actState x = 1) (tid : s.f F.UPB_TID_TID (sideOff x) ≤ 0xFFFD) :
    (s.actCmd x 1).actState x = 2 ∧ (s.actCmd x 1).f F.DSF_TID_TID (sideOff x) = s.f F.UPB_TID_TID (sideOff x) ∧
      (s.actCmd x 1).flag F.DSF_TID_VALID (sideOff x) = true ∧ ((s.actCmd x 1).line x).eqdEff = 0 ∧
      ((s.actCmd x 1).line x).to1 = s.tick + 1 := by
  let named := (s.setF F.DSF_TID_TID (sideOff x) (s.f F.UPB_TID_TID (sideOff x))).setFlag F.DSF_TID_VALID (sideOff x) true
  have eq : s.actCmd x 1 = (((named.eqdZero x).modLine x fun l => { l with to1 := s.tick + 1 }).actGo x 2 0).prtEval := by
    show (s.actAssign x).prtEval = _
    rw [State.actAssign, if_neg (by omega)]
  have rest := (((named.regsWithin_eqdZero x).trans (State.regsWithin_modLine _ x fun l => { l with to1 := s.tick + 1 })).trans
    (State.regsWithin_actGo _ x 2 0)).trans (State.regsWithin_prtEval _)
  rw [eq]
  refine ⟨?state, ?id, ?valid, ?eqd, ?to1⟩
  case state => rw [State.actState_prtEval, State.actState_actGo _ x (by decide)]
  case id =>
    refine (rest.f F.DSF_TID_TID _ (by cases x <;> decide)).trans ?_
    refine (State.f_setF_beside (F := F.DSF_TID_TID) (G := F.DSF_TID_VALID) _ _ _ rfl (by decide) (by decide)).trans ?_
    exact (s.f_setF_self _ _ _ (by decide)).trans (Nat.mod_eq_of_lt (s.f_lt _ _))
  case valid =>
    exact (rest.flag F.DSF_TID_VALID _ (by cases x <;> decide)).trans (State.flag_setFlag_self _ _ _ _ (by decide) rfl)
  case eqd => simp only [State.line_prtEval, State.line_actGo, State.modLine_line, if_true, State.line_eqdZero]
  case to1 => simp only [State.line_prtEval, State.line_actGo, State.modLine_line, if_true]

theorem State.actAssign_refused (h : s.actState x ≠ 1 ∨ 0xFFFD < s.f F.UPB_TID_TID (sideOff x)) :
    (s.actCmd x 1).actState x = s.actState x ∧ (s.actCmd x 1).reg (refuseCount x) = s.reg (refuseCount x) + 1 := by
  have eq : s.actCmd x 1 = (s.actRefuse x 1).prtEval := by
    show (s.actAssign x).prtEval = _
    rw [State.actAssign, if_pos h]
  rw [eq, State.actState_prtEval, State.reg_prtEval_count]
  exact ⟨s.actState_actRefuse x 1, s.reg_actRefuse_count x 1⟩

theorem State.actRanged_accepted (h : s.actState x = 2) (due : s.to1Due x = false) :
    (s.actCmd x 2).actState x = 3 ∧ ((s.actCmd x 2).line x).to1 = 0 := by
  have eq : s.actCmd x 2 = ((s.modLine x fun l => { l with to1 := 0 }).actGo x 3 0).prtEval := by
    show (s.actRanged x).prtEval = _
    simp only [State.actRanged, due, Bool.false_eq_true, if_false, h, ne_eq, not_true]
  rw [eq]
  refine ⟨?state, ?to1⟩
  case state => rw [State.actState_prtEval, State.actState_actGo _ x (by decide)]
  case to1 => simp only [State.line_prtEval, State.line_actGo, State.modLine_line, if_true]

/-- Expiry of TO1 in ranging: DEACTIVATE's effects, and serial number (R128). -/
theorem State.to1Expire_ranging (h : s.actState x = 2) (run : (s.line x).to1 ≠ 0) :
    (s.to1Expire x).actState x = 1 ∧ Deactivated x (s.to1Expire x) := by
  rw [State.to1Expire, if_pos ⟨h, run⟩]
  refine ⟨?state, ((s.deactivate_deactivated x).actGo 1 4 |>.lineEvent (by decide) 0 1).prtEval⟩
  case state => rw [State.actState_prtEval, State.actState_lineEvent _ x 25 0 1 (by decide), State.actState_actGo _ x (by decide)]

/-- Expiry of TO1 raises no event 27. -/
theorem State.reg_to1Expire_count : (s.to1Expire x).reg (refuseCount x) = s.reg (refuseCount x) := by
  rw [State.to1Expire]
  split
  · rw [State.reg_prtEval_count, State.regsWithin_lineEvent _ x 25 0 1 _ (by cases x <;> decide),
      State.regsWithin_actGo _ x 1 4 _ (by cases x <;> decide), s.reg_deactivate_below x (by cases x <;> decide)]
    exact s.regsWithin_setFlag F.DSF_TID_VALID (sideOff x) false _ (by cases x <;> decide)
  · rfl

theorem State.actRanged_expired (h : s.actState x = 2) (run : (s.line x).to1 ≠ 0) (due : s.to1Due x = true) :
    (s.actCmd x 2).actState x = 1 ∧ ((s.actCmd x 2).line x).to1 = 0 ∧
      (s.actCmd x 2).reg (refuseCount x) = s.reg (refuseCount x) + 1 := by
  obtain ⟨serial, effects⟩ := State.to1Expire_ranging h run
  have eq : s.actCmd x 2 = ((s.to1Expire x).actRefuse x 2).prtEval := by
    show (s.actRanged x).prtEval = _
    simp [State.actRanged, due, serial]
  rw [eq, State.actState_prtEval, State.line_prtEval, State.reg_prtEval_count, State.actState_actRefuse,
    State.reg_actRefuse_count, State.reg_to1Expire_count]
  exact ⟨serial, (congrArg Line.to1 ((s.to1Expire x).line_lineEvent x x 27 _ 1)).trans effects.to1, rfl⟩

theorem State.actRanged_refused (h : s.actState x ≠ 2) : (s.actCmd x 2).actState x = s.actState x := by
  have idle : s.to1Expire x = s := if_neg fun c => h c.1
  have eq : s.actCmd x 2 = (s.actRefuse x 2).prtEval := by
    show (s.actRanged x).prtEval = _
    simp [State.actRanged, idle, h]
  rw [eq, State.actState_prtEval, State.actState_actRefuse]

theorem State.actDeactivate_accepted (h : s.actState x = 2 ∨ s.actState x = 3) :
    (s.actCmd x 3).actState x = 1 ∧ Deactivated x (s.actCmd x 3) := by
  have eq : s.actCmd x 3 = ((s.deactivate x).actGo x 1 0).prtEval := by
    show (s.actDeactivate x).prtEval = _
    rw [State.actDeactivate, if_neg (by omega)]
  rw [eq]
  refine ⟨?state, ((s.deactivate_deactivated x).actGo 1 0).prtEval⟩
  case state => rw [State.actState_prtEval, State.actState_actGo _ x (by decide)]

theorem State.actDisable_stops (loss : s.actState x ≠ 4) (stop : s.actState x ≠ 5) :
    (s.actCmd x 4).actState x = 5 ∧ ((s.actCmd x 4).line x).store = [] ∧ ((s.actCmd x 4).line x).sending = none ∧
      ((s.actCmd x 4).line x).to1 = 0 := by
  have eq : s.actCmd x 4 = ((((s.storeEmpty x).modLine x fun l => { l with to1 := 0 }).stopBurst x).actGo x 5 0).prtEval := by
    show (s.actDisable x).prtEval = _
    unfold State.actDisable
    split
    · next is5 => exact absurd is5 stop
    · next is4 => exact absurd is4 loss
    · rfl
  have emptied : ((s.storeEmpty x).line x).store = [] := congrArg (·.1) (s.upstream_storeEmpty x)
  have stopped := State.upstream_stopBurst (s := (s.storeEmpty x).modLine x fun l => { l with to1 := 0 }) (x := x)
    (by rw [State.modLine_line, if_pos rfl, emptied])
  simp only [Line.upstream, Prod.mk.injEq, State.modLine_line, if_true] at stopped
  obtain ⟨store, sending, to1, -⟩ := stopped
  rw [eq, State.actState_prtEval, State.actState_actGo _ x (by decide), State.line_prtEval, State.line_actGo]
  exact ⟨rfl, store, sending, to1⟩

/-- In intermittent loss, DISABLE makes emergency stop the return state. -/
theorem State.actDisable_inLoss (h : s.actState x = 4) :
    (s.actCmd x 4).actState x = 4 ∧ (s.actCmd x 4).f F.UPB_ACT_RETURN (sideOff x) = 5 ∧ ((s.actCmd x 4).line x).store = [] := by
  have eq : s.actCmd x 4 = ((s.storeEmpty x).setF F.UPB_ACT_RETURN (sideOff x) 5).prtEval := by
    show (s.actDisable x).prtEval = _
    simp only [State.actDisable, h]
  rw [eq, State.actState_prtEval, State.line_prtEval, State.line_setF]
  refine ⟨?state, ?ret, congrArg (·.1) (s.upstream_storeEmpty x)⟩
  case state =>
    refine (State.actState_setReturn _ x 5).trans ?_
    exact ((s.regsWithin_storeEmpty x).f F.UPB_ACT_STATE _ (by cases x <;> decide)).trans h
  case ret =>
    rw [State.f_prtEval_of_ne _ F.UPB_ACT_RETURN _ (by cases x <;> decide)]
    exact State.f_setF_self _ F.UPB_ACT_RETURN _ 5 (by decide)

theorem State.actEnable_fromStop (h : s.actState x = 5) : (s.actCmd x 5).actState x = 0 := by
  have eq : s.actCmd x 5 = (s.actGo x 0 0).prtEval := by
    show (s.actEnable x).prtEval = _
    simp only [State.actEnable, h]
  rw [eq, State.actState_prtEval, State.actState_actGo _ x (by decide)]

theorem State.actEnable_inLoss (h : s.actState x = 4) (ret : s.f F.UPB_ACT_RETURN (sideOff x) = 5) :
    (s.actCmd x 5).actState x = 4 ∧ (s.actCmd x 5).f F.UPB_ACT_RETURN (sideOff x) = 0 := by
  have eq : s.actCmd x 5 = (s.setF F.UPB_ACT_RETURN (sideOff x) 0).prtEval := by
    show (s.actEnable x).prtEval = _
    simp only [State.actEnable, h, ret, if_true]
  rw [eq, State.actState_prtEval]
  refine ⟨?state, ?ret⟩
  case state => exact (s.actState_setReturn x 0).trans h
  case ret =>
    rw [State.f_prtEval_of_ne _ F.UPB_ACT_RETURN _ (by cases x <;> decide)]
    exact s.f_setF_self F.UPB_ACT_RETURN _ 0 (by decide)

/-! ### Serial number (R125) -/

theorem State.dsValid_actGo_prtEval (s : State) (x : Side) (new cause : Nat) :
    (s.actGo x new cause).prtEval.dsValid x = s.dsValid x :=
  ((s.regsWithin_actGo x new cause).trans (State.regsWithin_prtEval _)).flag F.DSF_STAT_DS_VALID _ (by cases x <;> decide)

/-! ### Bridle's unlock sequence (R123) -/

/-- A stage of the sequence changes UPB_BRIDLE_STAT only. -/
theorem State.only_setStage (s : State) (x : Side) (v : Nat) :
    Only [F.UPB_BRIDLE_STAT_ROGUE.addr + sideOff x] [] s (s.setF F.UPB_BRIDLE_STAT_UNLOCK_STAGE (sideOff x) v) :=
  ⟨fun k m _ => s.regsWithin_setF F.UPB_BRIDLE_STAT_UNLOCK_STAGE (sideOff x) v k m, fun _ _ _ => rfl⟩

theorem State.rogue_setStage (s : State) (x : Side) (v : Nat) :
    (s.setF F.UPB_BRIDLE_STAT_UNLOCK_STAGE (sideOff x) v).rogue x = s.rogue x :=
  congrArg (· != 0) (s.f_setF_beside (F := F.UPB_BRIDLE_STAT_ROGUE) _ v rfl (by decide) (by decide))

theorem State.unlockStage_setStage (s : State) (x : Side) {v : Nat} (h : v < 4) :
    (s.setF F.UPB_BRIDLE_STAT_UNLOCK_STAGE (sideOff x) v).unlockStage x = v :=
  (s.f_setF_self _ _ _ (by decide)).trans (Nat.mod_eq_of_lt h)

/-- The value of step 1 starts the sequence from any stage (the model's choice, log 71). -/
theorem State.unlockStage_unlockWrite (s : State) (x : Side) (v : Word) : (s.unlockWrite x v).unlockStage x =
    if v = 0x0000B1D1#32 then 1 else if s.unlockStage x = 1 ∧ v = 0x0000E5C0#32 then 2 else 0 := by
  have next : (if v = 0x0000E5C0#32 && s.unlockStage x = 1 then 2 else 0) =
      if s.unlockStage x = 1 ∧ v = 0x0000E5C0#32 then 2 else 0 := by
    simp only [Bool.and_eq_true, decide_eq_true_eq, and_comm]
  rw [State.unlockWrite, next]
  refine s.unlockStage_setStage x ?_
  split
  · decide
  · split <;> decide

/-- The latch goes at stage 2, whether it was set or not, and the sequence with it. -/
theorem State.rogueClearOp_unlocked {v : Word} (one : F.UPB_BRIDLE_STAT_ROGUE.of v = 1) (stage : s.unlockStage x = 2) :
    (s.rogueClearOp x v).rogue x = false ∧ (s.rogueClearOp x v).unlockStage x = 0 := by
  let s1 := (s.setFlag F.UPB_BRIDLE_STAT_ROGUE (sideOff x) false).setF F.UPB_BRIDLE_STAT_UNLOCK_STAGE (sideOff x) 0
  have eq : s.rogueClearOp x v = (if s.rogue x then s1.lineEvent x 22 0 else s1).prtEval := by
    simp only [State.rogueClearOp, one, stage, s1]
    rfl
  have event : RegsWithin (lineEventKeys x 22) s1 (if s.rogue x then s1.lineEvent x 22 0 else s1) := by
    split
    · exact s1.regsWithin_lineEvent x 22 0 1
    · exact (RegsWithin.refl s1).mono (List.nil_subset _)
  have rest := event.trans (State.regsWithin_prtEval _)
  rw [eq]
  constructor
  · refine (rest.flag F.UPB_BRIDLE_STAT_ROGUE _ (by cases x <;> decide)).trans ((State.rogue_setStage _ x 0).trans ?_)
    exact s.flag_setFlag_self _ _ false (by decide) rfl
  · exact (rest.f F.UPB_BRIDLE_STAT_UNLOCK_STAGE _ (by cases x <;> decide)).trans (State.unlockStage_setStage _ x (by decide))

theorem State.rogueClearOp_locked {v : Word} (h : F.UPB_BRIDLE_STAT_ROGUE.of v = 0 ∨ s.unlockStage x ≠ 2) :
    s.rogueClearOp x v = s := by
  rw [State.rogueClearOp, if_pos (by simpa using h)]

end

/-- Settles O22: each write of the sequence and each command is the operation of its lemma, once the write reaches its block. -/
theorem activation : Obligations.Activation := by
  refine ⟨?unlock, ?unlockOther, ?timeout, ?clear, ?clearOther, ?commands, ?serial, ?notSerial, ?to1⟩
  case unlock =>
    intro s x v reach
    refine ⟨_, congrArg Host.Outcome.next (State.guardHostW_of_reach reach _), ?_⟩
    rw [if_pos rfl]
    exact ⟨s.only_setStage x _, s.rogue_setStage x _, s.unlockStage_unlockWrite x v⟩
  case unlockOther =>
    intro s q x v reach other
    exact congrArg Host.Outcome.next ((State.guardHostW_of_reach reach _).trans (if_neg other))
  case timeout =>
    intro s x
    exact ⟨_, rfl, s.unlockStage_setStage x (by decide), s.rogue_setStage x 0, s.only_setStage x _⟩
  case clear =>
    intro s x v reach one
    have op := (State.guardHostW_of_reach reach fun s => s.rogueClearOp x v).trans (if_pos rfl)
    exact ⟨fun stage => ⟨_, congrArg Host.Outcome.next op, State.rogueClearOp_unlocked one stage⟩,
      fun stage => congrArg Host.Outcome.next (op.trans (State.rogueClearOp_locked (.inr stage)))⟩
  case clearOther =>
    intro s q x v reach h
    refine congrArg Host.Outcome.next ((State.guardHostW_of_reach reach _).trans ?_)
    split
    · next host => exact State.rogueClearOp_locked (.inl (h.resolve_left fun other => other host))
    · rfl
  case commands =>
    intro s q x reach own
    have cmd (n : Nat) : Host.Outcome.next (s.actWrite q x n) = (.next (s.actCmd x n) : Host.Outcome State Fault Refusal) :=
      congrArg Host.Outcome.next (State.actWrite_of_reach reach own n)
    refine ⟨?assign, ?assignRefused, ?ranged, ?rangedExpired, ?rangedRefused, ?deactivate, ?disable, ?disableInLoss, ?enable,
      ?enableInLoss⟩
    case assign => exact fun st tid => ⟨_, cmd 1, State.actAssign_accepted st tid⟩
    case assignRefused => exact fun h => ⟨_, cmd 1, State.actAssign_refused h⟩
    case ranged => exact fun st due => ⟨_, cmd 2, State.actRanged_accepted st due⟩
    case rangedExpired =>
      exact fun st run past => ⟨_, cmd 2, State.actRanged_expired st run (by simp [State.to1Due, run, past])⟩
    case rangedRefused => exact fun st => ⟨_, cmd 2, State.actRanged_refused st⟩
    case deactivate =>
      intro st
      obtain ⟨serial, ⟨tid, store, eqd, to1, alloc⟩⟩ := State.actDeactivate_accepted st
      exact ⟨_, cmd 3, serial, tid, store, eqd, to1, alloc⟩
    case disable => exact fun loss stop => ⟨_, cmd 4, State.actDisable_stops loss stop⟩
    case disableInLoss => exact fun st => ⟨_, cmd 4, State.actDisable_inLoss st⟩
    case enable => exact fun st => ⟨_, cmd 5, State.actEnable_fromStop st⟩
    case enableInLoss => exact fun st ret => ⟨_, cmd 5, State.actEnable_inLoss st ret⟩
  case serial =>
    intro s x initial valid profile awake
    refine ⟨_, congrArg Host.Outcome.next (if_pos ⟨initial, valid, profile, awake⟩), ?_, ?_⟩
    · rw [State.actState_prtEval, State.actState_actGo _ x (by decide)]
    · rw [State.dsValid_actGo_prtEval, valid]
  case notSerial =>
    intro s x h
    refine congrArg Host.Outcome.next (if_neg ?_)
    rintro ⟨initial, valid, profile, awake⟩
    simp [initial, valid, profile, awake] at h
  case to1 =>
    intro s x st run
    obtain ⟨serial, ⟨tid, store, -, to1, -⟩⟩ := State.to1Expire_ranging st run
    exact ⟨_, rfl, serial, tid, store, to1⟩

end Sys2Proof.Machine
end

section
/-! SUPPORT. The reorder store (R150 to R152): what an arriving frame and the end of a window come to. -/

namespace Sys2Proof.Machine

/-! ### Distances and expected values -/

theorem State.roDist_self (n : Nat) : State.roDist n n = 0 := by
  simp only [State.roDist]; omega

/-- A value is its distance beyond the one it is measured from. -/
theorem State.add_roDist {n : Nat} (h : n < 2 ^ 24) (e : Nat) : (e + State.roDist n e) % 2 ^ 24 = n := by
  simp only [State.roDist]; omega

theorem State.roExpect_setExpect_self (s : State) (port e : Nat) : (s.setExpect port e).roExpect port = some (e % 2 ^ 24) := by
  simp only [State.setExpect, State.roExpect, State.modPrt, sget_sset, if_true]

/-! ### What the operations leave -/

section
variable (s : State)

@[simp] theorem State.prt_roShow : s.roShow.prt = s.prt := rfl
@[simp] theorem State.counters_roShow : s.roShow.counters = s.counters := rfl
@[simp] theorem State.xings_roShow : s.roShow.xings = s.xings := rfl
@[simp] theorem State.counter_roShow (a : Nat) : s.roShow.counter a = s.counter a := rfl
@[simp] theorem State.roExpect_roShow (port : Nat) : s.roShow.roExpect port = s.roExpect port := rfl

theorem State.occ_roShow (h : s.prt.held.length < 2 ^ 15) : s.roShow.f F.PRT_RO_OCC_HELD = s.prt.held.length :=
  (s.f_setF_self F.PRT_RO_OCC_HELD 0 _ (by decide)).trans (Nat.mod_eq_of_lt h)

@[simp] theorem State.prt_dsTake (x : Side) (e : Bool) : (s.dsTake x e).prt = s.prt := rfl
@[simp] theorem State.counters_dsTake (x : Side) (e : Bool) : (s.dsTake x e).counters = s.counters := rfl
@[simp] theorem State.counter_dsTake (x : Side) (e : Bool) (a : Nat) : (s.dsTake x e).counter a = s.counter a := rfl

@[simp] theorem State.roHeld_bump (a n port : Nat) : (s.bump a n).roHeld port = s.roHeld port := rfl

@[simp] theorem State.out_setExpect (port e : Nat) : (s.setExpect port e).prt.out = s.prt.out := rfl
@[simp] theorem State.held_setExpect (port e : Nat) : (s.setExpect port e).prt.held = s.prt.held := rfl
@[simp] theorem State.counters_setExpect (port e : Nat) : (s.setExpect port e).counters = s.counters := rfl
@[simp] theorem State.counter_setExpect (port e a : Nat) : (s.setExpect port e).counter a = s.counter a := rfl
@[simp] theorem State.xings_setExpect (port e : Nat) : (s.setExpect port e).xings = s.xings := rfl

@[simp] theorem State.out_roPass (f : Frame) : (s.roPass f).prt.out = s.prt.out ++ [f] := rfl
@[simp] theorem State.held_roPass (f : Frame) : (s.roPass f).prt.held = s.prt.held := rfl
@[simp] theorem State.counters_roPass (f : Frame) : (s.roPass f).counters = s.counters := rfl
@[simp] theorem State.counter_roPass (f : Frame) (a : Nat) : (s.roPass f).counter a = s.counter a := rfl
@[simp] theorem State.xings_roPass (f : Frame) : (s.roPass f).xings = s.xings := rfl

/-- Delivering held frames changes the store alone. -/
theorem State.roDrain_comp (port n e : Nat) (k : Comp) (h : k ∉ [.pairing]) : Same k s (s.roDrain port n e) := by
  have pairing : Free (Off [.pairing]) .pairing := free_off (by decide)
  exact (roDrain_keeps (K := Off [.pairing]) (Keeps.refl s) port n e).comp k h

theorem State.counter_roDrain (port n e a : Nat) : (s.roDrain port n e).counter a = s.counter a :=
  congrArg (sget (fun _ => 0) · a) (s.roDrain_comp port n e .counters (by decide))

end

/-! ### Delivery (R151) -/

theorem State.roDrain_of_find {s : State} {port n e : Nat} {h : HeldFrame}
    (found : (s.roHeld port).find? (fun h => h.frame.seq == e) = some h) : s.roDrain port (n + 1) e =
      ((s.modPrt fun p => { p with held := p.held.erase h }).roPass h.frame).roDrain port n ((e + 1) % 2 ^ 24) := by
  simp only [State.roDrain, found]

theorem State.roDrain_of_held_nil {s : State} (h : s.prt.held = []) (port n e : Nat) : s.roDrain port n e = s.setExpect port e := by
  cases n with
  | zero => rfl
  | succ n => simp [State.roDrain, State.roHeld, h]

/-- Frames are delivered behind those delivered before. -/
theorem State.out_roDrain (s : State) (port n e : Nat) : ∃ l, (s.roDrain port n e).prt.out = s.prt.out ++ l := by
  induction n generalizing s e with
  | zero => exact ⟨[], (List.append_nil _).symm⟩
  | succ n ih =>
    rw [State.roDrain]
    split
    · exact ⟨[], (List.append_nil _).symm⟩
    · next h _ =>
      obtain ⟨l, out⟩ := ih ((s.modPrt _).roPass h.frame) _
      exact ⟨h.frame :: l, out.trans (by simp [State.modPrt])⟩

/-- A held frame that has the expected value is delivered first. -/
theorem State.out_roDrain_of_find {s : State} {port n e : Nat} {h : HeldFrame}
    (found : (s.roHeld port).find? (fun h => h.frame.seq == e) = some h) :
    ∃ l, (s.roDrain port (n + 1) e).prt.out = s.prt.out ++ h.frame :: l := by
  rw [State.roDrain_of_find found]
  obtain ⟨l, out⟩ := State.out_roDrain ((s.modPrt _).roPass h.frame) port n _
  exact ⟨l, out.trans (by simp [State.modPrt])⟩

/-! ### An arriving frame (R151) -/

section
variable {s : State} {f : Frame}

theorem exec_reorderArrival {x : Side} {e : Bool} (head : s.dsHead x e = some f) (ro : s.roFrame x f = true) :
    exec (.reorderArrival x e) s = .next ((s.dsTake x e).roArrive f).roShow := by
  show Host.Outcome.next _ = _
  simp only [head, ro, if_true]

theorem State.roArrive_expected (h : s.roExpect f.port = none ∨ s.roExpect f.port = some f.seq) :
    s.roArrive f = s.roDeliver f.port f := by
  have e : (s.roExpect f.port).getD f.seq = f.seq := by
    rcases h with h | h <;> rw [h] <;> rfl
  simp only [State.roArrive, e, State.roDist_self, if_true]

variable {n : Nat}

theorem State.roArrive_behind (h : s.roExpect f.port = some n) (late : 2 ^ 23 ≤ State.roDist f.seq n) :
    s.roArrive f = s.bump (prtCnt 2) := by
  have apart : ¬ State.roDist f.seq n = 0 := by omega
  have behind : ¬ State.roDist f.seq n < 2 ^ 23 := by omega
  simp only [State.roArrive, h, Option.getD_some, apart, behind, if_false, decide_false, Bool.false_and, Bool.false_eq_true]

/-- A frame ahead of the expected value that has its cells already is held. -/
theorem State.roArrive_ahead (h : s.roExpect f.port = some n) (pos : 0 < State.roDist f.seq n)
    (ahead : State.roDist f.seq n < 2 ^ 23) (room : s.prt.held.length < 16384)
    (new : ((s.roHeld f.port).any fun h => h.frame.seq == f.seq) = false) (stored : f.handle ≠ 0) :
    s.roArrive f = (s.modPrt fun p => { p with held := p.held ++ [{ frame := f, tick := s.tick }] }).bump (prtCnt 0) := by
  have apart : ¬ State.roDist f.seq n = 0 := by omega
  have space : ¬ s.prt.held.length ≥ 16384 := by omega
  have arrive : s.padArrive f = (some f, s) := if_pos stored
  simp only [State.roArrive, h, Option.getD_some, apart, ahead, new, space, arrive, if_false, if_true, decide_true,
    Bool.not_false, Bool.and_self]

end

/-! ### The end of a window (R152) -/

section
variable {s : State} {port e d : Nat}

theorem State.roExpire_of_lowest (expect : s.roExpect port = some e) (lowest : s.roLowest port e = some d) :
    s.roExpire port = (s.bump (prtCnt 1) d).roDrain port s.prt.held.length ((e + d) % 2 ^ 24) := by
  simp only [State.roExpire, expect, Option.getD_some, lowest, State.bumpIf, Option.isSome_some, if_true]

/-- The lowest held value belongs to a held frame of the port ID, the first one that delivery from there finds. -/
theorem State.find_of_roLowest (lowest : s.roLowest port e = some d) (small : ∀ h ∈ s.prt.held, h.frame.seq < 2 ^ 24) :
    ∃ h ∈ s.prt.held, (s.roHeld port).find? (fun h => h.frame.seq == (e + d) % 2 ^ 24) = some h ∧ h.frame.port = port ∧
      State.roDist h.frame.seq e = d := by
  obtain ⟨low, mem, dist⟩ := List.mem_map.mp (List.min?_mem lowest)
  have seq : low.frame.seq = (e + d) % 2 ^ 24 := by
    rw [← dist, State.add_roDist (small low (List.mem_filter.mp mem).1) e]
  obtain ⟨h, found⟩ := Option.isSome_iff_exists.mp
    (List.find?_isSome (p := fun h => h.frame.seq == (e + d) % 2 ^ 24).mpr ⟨low, mem, by simp [seq]⟩)
  obtain ⟨held, port⟩ := List.mem_filter.mp (List.mem_of_find?_eq_some found)
  have same : h.frame.seq = low.frame.seq := by
    rw [seq]; simpa using List.find?_some found
  exact ⟨h, held, found, beq_iff_eq.mp port, same ▸ dist⟩

/-- The gap counts as lost, and the lowest held frame is delivered first. -/
theorem State.roExpire_delivers (expect : s.roExpect port = some e) (lowest : s.roLowest port e = some d)
    (small : ∀ h ∈ s.prt.held, h.frame.seq < 2 ^ 24) :
    ∃ f l, (s.roExpire port).prt.out = s.prt.out ++ f :: l ∧ f.port = port ∧ State.roDist f.seq e = d ∧
      (s.roExpire port).counter (prtCnt 1) = (s.counter (prtCnt 1) + d) % 2 ^ 64 := by
  obtain ⟨h, held, found, at', dist⟩ := State.find_of_roLowest lowest small
  obtain ⟨n, length⟩ := Nat.exists_eq_succ_of_ne_zero (Nat.ne_of_gt (List.length_pos_of_mem held))
  obtain ⟨l, out⟩ := State.out_roDrain_of_find (s := s.bump (prtCnt 1) d) (n := n) found
  rw [State.roExpire_of_lowest expect lowest, State.counter_roDrain, State.counter_bump, if_pos rfl, length]
  exact ⟨h.frame, l, out, at', dist, rfl⟩

theorem State.roExpire_eq_of_lone {h : HeldFrame} (held : s.prt.held = [h]) (at' : h.frame.port = port)
    (expect : s.roExpect port = some e) (small : h.frame.seq < 2 ^ 24) (dist : State.roDist h.frame.seq e = d) :
    s.roExpire port = (((s.bump (prtCnt 1) d).modPrt fun p => { p with held := [] }).roPass
      h.frame).setExpect port ((h.frame.seq + 1) % 2 ^ 24) := by
  have mine : s.roHeld port = [h] := by simp [State.roHeld, held, at']
  have lowest : s.roLowest port e = some d := by simp [State.roLowest, mine, dist]
  have seq : (e + d) % 2 ^ 24 = h.frame.seq := dist ▸ State.add_roDist small e
  have found : ((s.bump (prtCnt 1) d).roHeld port).find? (fun h' => h'.frame.seq == h.frame.seq) = some h := by
    rw [State.roHeld_bump, mine]; simp
  have emptied : (s.bump (prtCnt 1) d).modPrt (fun p => { p with held := p.held.erase h }) =
      (s.bump (prtCnt 1) d).modPrt fun p => { p with held := [] } := by
    simp [State.modPrt, held]
  rw [State.roExpire_of_lowest expect lowest, seq, held, List.length_singleton, State.roDrain_of_find found, emptied,
    State.roDrain]

/-- The only held frame is delivered, the store is empty, and the next value is expected. -/
theorem State.roExpire_lone {h : HeldFrame} (held : s.prt.held = [h]) (at' : h.frame.port = port)
    (expect : s.roExpect port = some e) (small : h.frame.seq < 2 ^ 24) (dist : State.roDist h.frame.seq e = d) :
    (s.roExpire port).prt.out = s.prt.out ++ [h.frame] ∧ (s.roExpire port).prt.held = [] ∧
      (s.roExpire port).roExpect port = some ((h.frame.seq + 1) % 2 ^ 24) ∧
      (s.roExpire port).counter (prtCnt 1) = (s.counter (prtCnt 1) + d) % 2 ^ 64 := by
  rw [State.roExpire_eq_of_lone held at' expect small dist]
  refine ⟨?_, ?_, ?_, ?_⟩
  · rw [State.out_setExpect, State.out_roPass]; rfl
  · rw [State.held_setExpect, State.held_roPass]; rfl
  · rw [State.roExpect_setExpect_self, Nat.mod_mod]
  · rw [State.counter_setExpect, State.counter_roPass, State.counter_modPrt, State.counter_bump, if_pos rfl]

end

/-- Settles O24: each clause is what `roArrive` or `roExpire` comes to in its case. -/
theorem reorderStore : Obligations.ReorderStore := by
  refine ⟨?empty, ?expected, ?behind, ?ahead, ?gap, ?lone⟩
  case empty =>
    intro s x e head
    show Host.Outcome.next _ = _
    simp only [head]
  case expected =>
    intro s x e f head ro held expect
    refine ⟨_, exec_reorderArrival head ro, ?_⟩
    have alone : ((s.dsTake x e).roPass f).prt.held = [] := held
    rw [State.roArrive_expected (s := s.dsTake x e) expect, State.roDeliver, State.roDrain_of_held_nil alone]
    refine ⟨?_, held, ?_, ?_, ?_⟩
    · rw [State.prt_roShow, State.out_setExpect, State.out_roPass, State.prt_dsTake]
    · rw [State.roExpect_roShow, State.roExpect_setExpect_self, Nat.mod_mod]
    · rw [State.counters_roShow, State.counters_setExpect, State.counters_roPass, State.counters_dsTake]
    · rw [State.xings_roShow, State.xings_setExpect, State.xings_roPass]
  case behind =>
    intro s x e f n head ro expect late
    refine ⟨_, exec_reorderArrival head ro, ?_⟩
    rw [State.roArrive_behind (s := s.dsTake x e) expect late]
    refine ⟨?_, ?_, ?_⟩
    · rw [State.prt_roShow, State.bump_prt, State.prt_dsTake]
    · rw [State.xings_roShow, State.bump_xings]
    · rw [State.counter_roShow, State.counter_bump, if_pos rfl, State.counter_dsTake]
  case ahead =>
    intro s x e f n head ro expect pos ahead room new stored
    refine ⟨_, exec_reorderArrival head ro, ?_⟩
    rw [State.roArrive_ahead (s := s.dsTake x e) expect pos ahead room new stored]
    refine ⟨rfl, rfl, expect, ?_, ?_⟩
    · rw [State.occ_roShow]
      · simp [State.modPrt]
      · simp [State.modPrt]; omega
    · rw [State.counter_roShow, State.counter_bump, if_pos rfl, State.counter_modPrt, State.counter_dsTake]
  case gap =>
    intro s p e d expect lowest small
    obtain ⟨f, l, out, port, dist, lost⟩ := State.roExpire_delivers expect lowest small
    exact ⟨_, f, l, rfl, out, port, dist, lost⟩
  case lone =>
    intro s p h e held port expect _ small
    obtain ⟨out, empty, next, lost⟩ := State.roExpire_lone held port expect small rfl
    have occ : (s.roExpire p.val).roShow.f F.PRT_RO_OCC_HELD = 0 :=
      (State.occ_roShow _ (empty ▸ Nat.two_pow_pos 15)).trans (congrArg List.length empty)
    exact ⟨_, rfl, out, empty, next, occ, lost⟩

end Sys2Proof.Machine
end

section
/-! SUPPORT. A state in which an automatic switch (R139) moves the time reference (R146). -/

namespace Sys2Proof.Machine

/-- Protection mode, side A active and not in operation, which the protection control has not acted on yet; side B is eligible,
and TIM_CFG.SRC = 2, so that the time reference follows the active side. -/
def referenceFollowsState : State :=
  (((((({ prt := { due := true, causesA := [2] } } : State).setF F.PRT_CFG_MODE 0 1).setF F.TIM_CFG_SRC 0 2).setF
    F.UPB_ACT_STATE (sideOff .b) 3).setFlag F.DSF_STAT_DS_VALID (sideOff .b) true).setFlag F.DSF_STAT_LOF (sideOff .b) false)

/-- The tick switches to side B, which moves the reference; a moved reference has the protection control judge the sides again
(`timLost`), so that a decision is due once more. -/
theorem referenceFollowsState_due : referenceFollowsState.tickOp.prt.due = true := by decide +kernel

/-- Refutes O23: its clause on the automatic switch says that no decision of the protection control is due after the tick, for
every source of time. Where the time reference moves with the switch (SRC = 2), one is. -/
theorem not_protection : ¬ Obligations.Protection := by
  rintro ⟨-, -, -, -, -, automatic, -⟩
  obtain ⟨t, stepped, -, -, due, -⟩ := automatic referenceFollowsState rfl (by decide) (by decide)
  obtain rfl : referenceFollowsState.tickOp = t := Host.Outcome.next.inj ((step_of_pending_nil rfl).symm.trans stepped)
  exact Bool.false_ne_true (due.symm.trans referenceFollowsState_due)

end Sys2Proof.Machine
end

section
/-! SUPPORT. The circuit pages (R159, R168, R170): what a write of a standby entry, a request to swap and the exchange of the
pages come to. -/

namespace Sys2Proof.Machine

/-! ### What an operation leaves, put together -/

section
variable {s t u : State} {ks ls cs ds : List Nat}

theorem Only.refl (s : State) : Only [] [] s s := ⟨fun _ _ _ => rfl, fun _ _ _ => rfl⟩

theorem Only.trans (h : Only ks cs s t) (j : Only ls ds t u) : Only (ks ++ ls) (cs ++ ds) s u where
  regs k hk e := by
    rw [List.mem_append, not_or] at hk
    exact (j.regs k hk.2 e).trans (h.regs k hk.1 e)
  counters a ha e := by
    rw [List.mem_append, not_or] at ha
    exact (j.counters a ha.2 e).trans (h.counters a ha.1 e)

theorem Only.mono (h : Only ks cs s t) (regs : ks ⊆ ls) (counters : cs ⊆ ds) : Only ls ds s t :=
  ⟨fun k hk => h.regs k fun m => hk (regs m), fun a ha => h.counters a fun m => ha (counters m)⟩

theorem Only.flag (h : Only ks cs s t) (F : Fld) (hk : F.addr ∉ ks) (he : evtKey F.addr = false) : t.flag F = s.flag F :=
  congrArg (fun w => F.of w != 0) (h.regs F.addr hk he)

/-- Writes of the registers `ks` alone. -/
theorem RegsWithin.only (h : RegsWithin ks s t) (counters : t.counters = s.counters) : Only ks [] s t :=
  ⟨fun k hk _ => h k hk, fun a _ _ => congrArg (sget (fun _ => 0) · a) counters⟩

theorem State.only_setReg (s : State) (k : Nat) (v : Word) : Only [k] [] s (s.setReg k v) := (s.regsWithin_setReg k v).only rfl

theorem State.only_setF (s : State) (F : Fld) (i v : Nat) : Only [F.addr + i] [] s (s.setF F i v) := s.only_setReg _ _

theorem State.only_setFlag (s : State) (F : Fld) (i : Nat) (b : Bool) : Only [F.addr + i] [] s (s.setFlag F i b) :=
  s.only_setReg _ _

theorem State.only_bump (s : State) (a n : Nat) : Only [] [a] s (s.bump a n) :=
  ⟨fun _ _ _ => rfl, fun b hb _ => by rw [State.counter_bump, if_neg fun e => hb (List.mem_singleton.mpr e.symm)]⟩

theorem State.only_modHar (s : State) (g : HarSt → HarSt) : Only [] [] s (s.modHar g) := ⟨fun _ _ _ => rfl, fun _ _ _ => rfl⟩

theorem State.only_raise (s : State) {src : Nat} (h : src < 512) (level inst info : Nat) :
    Only [] [] s (s.raise src level inst info) :=
  ⟨fun k _ => s.reg_raise src level inst info k h, fun a _ => s.counter_raise src level inst info a h⟩

/-- An event raised after writes that leave its raise count, its severity and the entry's other parts. -/
theorem Raised.of_regsWithin {src level inst info : Nat} (h : Raised t u src level inst info) (w : RegsWithin ks s t)
    (count : 0x102000 + 4 * src ∉ ks) (severity : 0x101000 + 4 * src ∉ ks) (phase : t.evPhase = s.evPhase)
    (tick : t.tick = s.tick) : Raised s u src level inst info := by
  obtain ⟨counted, last⟩ := h
  have entry : evtEntry t src level inst info = evtEntry s src level inst info := by
    simp only [evtEntry, State.evtWord0, phase, tick, w.f F.EVT_SRC_SEV (4 * src) severity]
  exact ⟨counted.trans (congrArg (· + 1) (w _ count)), last.trans (congrArg some entry)⟩

theorem State.flag_raise (s : State) {src : Nat} (h : src < 512) (level inst info : Nat) {F : Fld}
    (hk : evtKey F.addr = false) : (s.raise src level inst info).flag F = s.flag F := (s.only_raise h level inst info).flag F List.not_mem_nil hk

theorem State.flag_bump (s : State) (a n : Nat) (F : Fld) (i : Nat) : (s.bump a n).flag F i = s.flag F i := rfl

/-- Two flags of one register. -/
theorem State.flag_setFlag_beside (s : State) {F G : Fld} (b : Bool) (same : G.addr = F.addr) (h : G.lo + G.w ≤ 32)
    (apart : F.lo + F.w ≤ G.lo ∨ G.lo + G.w ≤ F.lo) : (s.setFlag G 0 b).flag F = s.flag F :=
  congrArg (· != 0) (s.f_setF_beside 0 _ same h apart)

end

/-! ### Writes into the circuit block (R180) -/

section
variable {s : State} {q : Req} {a : Nat} (k : State → State)

theorem State.guardW_harW_of_reach (h : Reach s q a) (g : s.grade ≠ .fbx) : (s.guardW q a fun s => s.harW k) = k s :=
  (State.guardW_of_reach h _).trans (if_neg g)

theorem State.guardW_harW_of_fbx (h : Reach s q a) (g : s.grade = .fbx) : (s.guardW q a fun s => s.harW k) = s :=
  (State.guardW_of_reach h _).trans (if_pos g)

end

/-! ### Standby entries and requests to swap (R168, R170) -/

/-- PEND of a direction. -/
def pendFld (us : Bool) : Fld := if us then F.CKT_STAT_PEND_US else F.CKT_STAT_PEND_DS

/-- First registers of a direction's standby page and of its active page. -/
def standbyBase (us : Bool) : Nat := if us then 0x920000 else 0x910000
def activeBase (us : Bool) : Nat := if us then 0x940000 else 0x930000

theorem pendFld_addr (us : Bool) : (pendFld us).addr = 0x900008 := by cases us <;> rfl

theorem le_standbyBase (us : Bool) : 0x910000 ≤ standbyBase us := by cases us <;> decide

theorem evtKey_standby (us : Bool) {h : Nat} (hh : h < 3776) : evtKey (standbyBase us + 4 * h) = false := by
  cases us <;> simp [evtKey, standbyBase] <;> omega

section
variable {s : State} {us : Bool} {h : Nat}

theorem State.cmWrite_of_pending (pend : s.flag (pendFld us) = true) (v : Word) :
    s.cmWrite us h v = (s.setFlag F.CKT_STAT_BUSY_WR 0 true).raise 225 1 0 (h + (if us then 4096 else 0)) := if_pos pend

theorem State.cmWrite_of_not_pending (pend : s.flag (pendFld us) = false) (v : Word) :
    s.cmWrite us h v = s.setReg (standbyBase us + 4 * h) (v &&& 0xE0000FFF#32) := if_neg (by simpa [pendFld] using pend)

/-- A discarded write: BUSY_WR and event 225, and nothing else; PEND of both directions stays. -/
theorem State.cmWrite_discarded (pend : s.flag (pendFld us) = true) (v : Word) :
    (s.cmWrite us h v).flag F.CKT_STAT_BUSY_WR = true ∧ Only [0x900008] [] s (s.cmWrite us h v) ∧
      Raised s (s.cmWrite us h v) 225 1 0 (h + (if us then 4096 else 0)) ∧
      ∀ d, (s.cmWrite us h v).flag (pendFld d) = s.flag (pendFld d) := by
  rw [State.cmWrite_of_pending pend]
  refine ⟨?busy, ?only, ?raised, fun d => ?pend⟩
  case busy =>
    rw [State.flag_raise _ (by decide) _ _ _ (by decide)]
    exact s.flag_setFlag_self F.CKT_STAT_BUSY_WR 0 true (by decide) rfl
  case only => exact (s.only_setFlag F.CKT_STAT_BUSY_WR 0 true).trans (State.only_raise _ (by decide) _ _ _)
  case raised =>
    exact (State.raised _ 225 1 0 _ (by decide) (by decide)).of_regsWithin (s.regsWithin_setFlag F.CKT_STAT_BUSY_WR 0 true)
      (by decide) (by decide) rfl rfl
  case pend =>
    rw [State.flag_raise _ (by decide) _ _ _ (by cases d <;> decide)]
    exact s.flag_setFlag_beside true (pendFld_addr d).symm (by decide) (by cases d <;> decide)

theorem State.swapRequest_of_pending (pend : s.flag (pendFld us) = true) : s.swapRequest us = s := if_pos pend

variable {q : Req}

theorem exec_cmStandbyWrite {e : Fin 3776} (r : Reach s q (standbyBase us + 4 * e.val)) (g : s.grade ≠ .fbx) (v : Word) :
    exec (.cmStandbyWrite q us e v) s = .next (s.cmWrite us e.val v) :=
  congrArg Host.Outcome.next (State.guardW_harW_of_reach _ r g)

/-- A write of a standby entry of a direction whose swap is pending is discarded (R170). -/
theorem cmStandbyWrite_discarded {e : Fin 3776} (r : Reach s q (standbyBase us + 4 * e.val)) (g : s.grade ≠ .fbx)
    (pend : s.flag (pendFld us) = true) (v : Word) :
    ∃ t, exec (.cmStandbyWrite q us e v) s = .next t ∧
      t.reg (standbyBase us + 4 * e.val) = s.reg (standbyBase us + 4 * e.val) ∧
      t.flag F.CKT_STAT_BUSY_WR = true ∧ t.flag (pendFld us) = true ∧ Only [0x900008] [] s t ∧
      Raised s t 225 1 0 (e.val + (if us then 4096 else 0)) := by
  obtain ⟨busy, only, raised, kept⟩ := State.cmWrite_discarded (h := e.val) pend v
  refine ⟨_, exec_cmStandbyWrite r g v, ?_, busy, (kept us).trans pend, only, raised⟩
  refine only.regs _ (fun m => ?_) (evtKey_standby us e.isLt)
  have := List.mem_singleton.mp m
  have := le_standbyBase us
  omega

end

/-- CKT_CTRL's SWAP bit of a direction. -/
def swapInstr (q : Req) (us : Bool) : Instr := if us then .swapUs q else .swapDs q

theorem exec_swapInstr {s : State} {q : Req} (r : Reach s q 0x900004) (g : s.grade ≠ .fbx) (us : Bool) :
    exec (swapInstr q us) s = .next (s.swapRequest us) := by
  cases us <;> exact congrArg Host.Outcome.next (State.guardW_harW_of_reach _ r g)

theorem exec_swapInstr_of_fbx {s : State} {q : Req} (r : Reach s q 0x900004) (g : s.grade = .fbx) (us : Bool) :
    exec (swapInstr q us) s = .next s := by
  cases us <;> exact congrArg Host.Outcome.next (State.guardW_harW_of_fbx _ r g)

/-- A request to swap pages that are to be swapped already changes nothing, on every grade (R170, R180). -/
theorem swapInstr_of_pending {s : State} {q : Req} {us : Bool} (r : Reach s q 0x900004) (pend : s.flag (pendFld us) = true) :
    exec (swapInstr q us) s = .next s := by
  by_cases g : s.grade = .fbx
  · exact exec_swapInstr_of_fbx r g us
  · rw [exec_swapInstr r g, State.swapRequest_of_pending pend]

/-- Settles O9: a write of a standby entry is `cmWrite`, a request `swapRequest`, each in its pending case. -/
theorem pendingPages : Obligations.PendingPages := by
  refine ⟨fun s q h v g => ⟨fun r pend => ?down, fun r pend => ?up⟩,
    fun s q r => ⟨fun pend => ?requestDown, fun pend => ?requestUp⟩⟩
  case down => exact cmStandbyWrite_discarded (us := false) r g pend v
  case up => exact cmStandbyWrite_discarded (us := true) r g pend v
  case requestDown => exact swapInstr_of_pending (us := false) r pend
  case requestUp => exact swapInstr_of_pending (us := true) r pend

end Sys2Proof.Machine
end

section
/-! SUPPORT. The exchange of the circuit pages (R168), entry by entry. -/

namespace Sys2Proof.Machine

/-! ### Writing a page's entries -/

/-- Write the entries of a page at `base`. -/
def State.writePage (s : State) (base : Nat) (p : List (Nat × Word)) : State :=
  p.foldl (fun s e => s.setReg (base + 4 * e.1) e.2) s

/-- The same entries, unmapped. -/
def blankPage (p : List (Nat × Word)) : List (Nat × Word) := p.map fun e => (e.1, 0)

/-- The slots of a page's entries are Harness slots. -/
def PageBound (p : List (Nat × Word)) : Prop := ∀ j ∈ p.map Prod.fst, j < 3776

theorem map_fst_blankPage (p : List (Nat × Word)) : (blankPage p).map Prod.fst = p.map Prod.fst := List.map_map

theorem PageBound.blankPage {p : List (Nat × Word)} (h : PageBound p) : PageBound (blankPage p) := fun j m =>
  h j (map_fst_blankPage p ▸ m)

section
variable {s : State} {base : Nat} {p : List (Nat × Word)}

theorem State.reg_writePage_of_ne {k : Nat} (out : ∀ j ∈ p.map Prod.fst, base + 4 * j ≠ k) :
    (s.writePage base p).reg k = s.reg k := by
  induction p generalizing s with
  | nil => rfl
  | cons e p ih =>
    obtain ⟨first, rest⟩ := List.forall_mem_cons.mp out
    exact (ih rest).trans (s.reg_setReg_ne first e.2)

theorem State.reg_writePage_outside {k : Nat} (bound : PageBound p) (out : k < base ∨ base + 4 * 3776 ≤ k) :
    (s.writePage base p).reg k = s.reg k :=
  State.reg_writePage_of_ne fun j m => by
    have := bound j m
    omega

/-- Of entries with distinct slots each is read back, and where there is none the register reads as before. -/
theorem State.reg_writePage {d : Nat → Word} {h : Nat} (distinct : (p.map Prod.fst).Nodup)
    (before : s.reg (base + 4 * h) = d h) :
    (s.writePage base p).reg (base + 4 * h) = sget d p h := by
  induction p generalizing s with
  | nil => exact before
  | cons e p ih =>
    obtain ⟨j, v⟩ := e
    obtain ⟨new, distinct⟩ := List.nodup_cons.mp distinct
    by_cases at' : j = h
    · subst at'
      have out : ∀ i ∈ p.map Prod.fst, base + 4 * i ≠ base + 4 * j := fun i m same => new (by
        obtain rfl : i = j := by omega
        exact m)
      refine (State.reg_writePage_of_ne out).trans ?_
      rw [State.reg_setReg_self, sget, if_pos rfl]
    · refine (ih (s := s.setReg _ _) distinct ?_).trans (by rw [sget, if_neg at'])
      exact (s.reg_setReg_ne (by omega) v).trans before

/-- Where a page lists what the registers hold, its blank entries clear them. -/
theorem sget_blankPage {d : Nat → Word} {h : Nat} (held : d h = sget (fun _ => 0) p h) : sget d (blankPage p) h = 0 := by
  induction p with
  | nil => exact held
  | cons e p ih =>
    obtain ⟨j, v⟩ := e
    show (if j = h then 0 else sget d (blankPage p) h) = 0
    split
    · rfl
    · next away => exact ih (held.trans (by rw [sget, if_neg away]))

end

/-! ### What a page lists (R159) -/

/-- The connection-memory pages read 0 after reset. -/
theorem regDefault_circuitPage {a : Nat} (low : 0x910000 ≤ a) (high : a < 0x950000) : regDefault a = 0 := by
  have there : canonAddr a = a := if_neg (by omega)
  have table : rowsAt a = rowsCkt := by
    simp only [rowsAt]
    repeat rw [if_neg (by omega)]
    rw [if_pos (by omega)]
  have plain : resetOverride a = none := by
    simp only [resetOverride, there]
    repeat rw [if_neg (by omega)]
  have config : ¬ (rowsCkt.head (by decide)).has a = true := by
    simp [RegRow.has, rowsCkt]
    omega
  have rows : ∀ r ∈ rowsCkt.tail, r.reset = 0 := by decide
  have found : rowsCkt.find? (·.has a) = rowsCkt.tail.find? (·.has a) := List.find?_cons_of_neg config
  rw [regDefault, Nat.mod_eq_of_lt (by omega), regReset, plain, Option.getD_none, regRow, there, table, found]
  split
  · next r found => exact congrArg (BitVec.ofNat 32) (rows r (List.mem_of_find?_eq_some found))
  · rfl

/-- The registers of the pages that are listed are entries of connection memory. -/
def State.PagesAligned (s : State) : Prop := ∀ e ∈ s.regs, 0x910000 ≤ e.1 → e.1 < 0x950000 → e.1 % 4 = 0

/-- The keys of a table in canonical form rise. -/
theorem pairwise_lt_of_swfFrom {V : Type} [DecidableEq V] {d : Nat → V} {lo : Nat} {m : SMap V} (h : swfFrom d lo m = true) :
    (∀ e ∈ m, lo ≤ e.1) ∧ m.Pairwise fun a b => a.1 < b.1 := by
  induction m generalizing lo with
  | nil => exact ⟨nofun, .nil⟩
  | cons e m ih =>
    simp only [swfFrom, Bool.and_eq_true, decide_eq_true_eq] at h
    obtain ⟨⟨low, -⟩, rest⟩ := h
    obtain ⟨above, rising⟩ := ih rest
    exact ⟨List.forall_mem_cons.mpr ⟨low, fun a m => by have := above a m; omega⟩, .cons above rising⟩

section
variable {s : State} {base : Nat}

theorem State.cmPage_bound (s : State) (base : Nat) : PageBound (s.cmPage base) := by
  intro j m
  simp only [State.cmPage, List.map_map, List.mem_map, List.mem_filter, Bool.and_eq_true, decide_eq_true_eq] at m
  obtain ⟨e, ⟨-, low, high⟩, rfl⟩ := m
  simp only [Function.comp_apply]
  omega

theorem State.cmPage_distinct (canonical : swf regDefault s.regs = true) (aligned : s.PagesAligned) (four : base % 4 = 0)
    (low : 0x910000 ≤ base) (high : base + 4 * 3776 ≤ 0x950000) : ((s.cmPage base).map Prod.fst).Nodup := by
  obtain ⟨-, rising⟩ := pairwise_lt_of_swfFrom canonical
  simp only [State.cmPage, List.map_map, List.Nodup, List.pairwise_map]
  refine (rising.filter _).imp_of_mem fun {a b} ma mb less => ?_
  simp only [List.mem_filter, Bool.and_eq_true, decide_eq_true_eq] at ma mb
  obtain ⟨listedA, lowA, highA⟩ := ma
  obtain ⟨listedB, lowB, highB⟩ := mb
  have fourA := aligned a listedA (by omega) (by omega)
  have fourB := aligned b listedB (by omega) (by omega)
  simp only [Function.comp_apply]
  omega

/-- A page lists what its registers hold. -/
theorem State.sget_cmPage (aligned : s.PagesAligned) (four : base % 4 = 0) (low : 0x910000 ≤ base)
    (high : base + 4 * 3776 ≤ 0x950000) {h : Nat} (hh : h < 3776) :
    sget (fun _ => 0) (s.cmPage base) h = s.reg (base + 4 * h) := by
  unfold State.PagesAligned at aligned
  unfold State.cmPage State.reg
  generalize s.regs = m at aligned ⊢
  induction m with
  | nil => exact (regDefault_circuitPage (by omega) (by omega)).symm
  | cons e m ih =>
    obtain ⟨k, v⟩ := e
    obtain ⟨first, rest⟩ := List.forall_mem_cons.mp aligned
    rw [List.filter_cons]
    split
    · next inside =>
      simp only [Bool.and_eq_true, decide_eq_true_eq] at inside
      have fourK := first (by omega) (by simp only; omega)
      simp only [List.map_cons, sget]
      by_cases at' : k = base + 4 * h
      · rw [if_pos at', if_pos (by omega)]
      · rw [if_neg at', if_neg (by simp only at fourK; omega)]
        exact ih rest
    · next outside =>
      simp only [Bool.and_eq_true, decide_eq_true_eq] at outside
      rw [sget, if_neg (by omega)]
      exact ih rest

end

/-! ### The exchange (R168) -/

/-- The exchange clears the entries of both pages and then writes each page's at the other. -/
theorem State.pageExchange_eq (s : State) (us : Bool) : s.pageExchange us =
    (((s.writePage (standbyBase us) (blankPage (s.cmPage (standbyBase us)))).writePage (activeBase us)
      (blankPage (s.cmPage (activeBase us)))).writePage (standbyBase us) (s.cmPage (activeBase us))).writePage (activeBase us)
      (s.cmPage (standbyBase us)) := by
  simp only [State.writePage, blankPage, List.foldl_map]
  rfl

/-- An address of neither page of a direction. -/
def OffPages (us : Bool) (k : Nat) : Prop :=
  (k < standbyBase us ∨ standbyBase us + 4 * 3776 ≤ k) ∧ (k < activeBase us ∨ activeBase us + 4 * 3776 ≤ k)

theorem offPages_of_lt (us : Bool) {k : Nat} (h : k < 0x910000) : OffPages us k := by
  cases us <;> exact ⟨.inl (Nat.lt_of_lt_of_le h (by decide)), .inl (Nat.lt_of_lt_of_le h (by decide))⟩

theorem State.reg_pageExchange_of_offPages (s : State) {us : Bool} {k : Nat} (off : OffPages us k) :
    (s.pageExchange us).reg k = s.reg k := by
  obtain ⟨standby, active⟩ := off
  rw [State.pageExchange_eq, State.reg_writePage_outside (s.cmPage_bound _) active,
    State.reg_writePage_outside (s.cmPage_bound _) standby, State.reg_writePage_outside (s.cmPage_bound _).blankPage active,
    State.reg_writePage_outside (s.cmPage_bound _).blankPage standby]

/-- Each entry of the standby page moves to the active one and the other way round. -/
theorem State.reg_pageExchange {s : State} (canonical : swf regDefault s.regs = true) (aligned : s.PagesAligned) (us : Bool)
    {h : Nat} (hh : h < 3776) :
    (s.pageExchange us).reg (activeBase us + 4 * h) = s.reg (standbyBase us + 4 * h) ∧
      (s.pageExchange us).reg (standbyBase us + 4 * h) = s.reg (activeBase us + 4 * h) := by
  obtain ⟨standby, active, apart⟩ :
      (standbyBase us % 4 = 0 ∧ 0x910000 ≤ standbyBase us ∧ standbyBase us + 4 * 3776 ≤ 0x950000) ∧
      (activeBase us % 4 = 0 ∧ 0x910000 ≤ activeBase us ∧ activeBase us + 4 * 3776 ≤ 0x950000) ∧
      standbyBase us + 4 * 3776 ≤ activeBase us := by
    cases us <;> decide
  obtain ⟨fourS, lowS, highS⟩ := standby
  obtain ⟨fourA, lowA, highA⟩ := active
  rw [State.pageExchange_eq]
  generalize standbyBase us = sb at *
  generalize activeBase us = ac at *
  have heldS := State.sget_cmPage aligned fourS lowS highS hh
  have heldA := State.sget_cmPage aligned fourA lowA highA hh
  have distinctS := State.cmPage_distinct canonical aligned fourS lowS highS
  have distinctA := State.cmPage_distinct canonical aligned fourA lowA highA
  have boundS := s.cmPage_bound sb
  have boundA := s.cmPage_bound ac
  generalize s.cmPage sb = ps at *
  generalize s.cmPage ac = pa at *
  have offS : ac + 4 * h < sb ∨ sb + 4 * 3776 ≤ ac + 4 * h := by omega
  have offA : sb + 4 * h < ac ∨ ac + 4 * 3776 ≤ sb + 4 * h := by omega
  have clearS : ((s.writePage sb (blankPage ps)).writePage ac (blankPage pa)).reg (sb + 4 * h) = 0 := by
    rw [State.reg_writePage_outside boundA.blankPage offA,
      State.reg_writePage (d := fun h => s.reg (sb + 4 * h)) (map_fst_blankPage ps ▸ distinctS) rfl, sget_blankPage heldS.symm]
  have clearA : ((s.writePage sb (blankPage ps)).writePage ac (blankPage pa)).reg (ac + 4 * h) = 0 := by
    rw [State.reg_writePage (d := fun h => s.reg (ac + 4 * h)) (map_fst_blankPage pa ▸ distinctA)
      (State.reg_writePage_outside boundS.blankPage offS), sget_blankPage heldA.symm]
  constructor
  · rw [State.reg_writePage (d := fun _ => 0) distinctS ((State.reg_writePage_outside boundA offS).trans clearA), heldS]
  · rw [State.reg_writePage_outside boundS offA, State.reg_writePage (d := fun _ => 0) distinctA clearS, heldA]

theorem State.pageExchange_comp (s : State) (us : Bool) (k : Comp) (h : k ∉ [.regs]) : Same k s (s.pageExchange us) := by
  have regs : Free (Off [.regs]) .regs := free_off (by decide)
  exact (pageExchange_keeps (K := Off [.regs]) (Keeps.refl s) us).comp k h

@[simp] theorem State.har_pageExchange (s : State) (us : Bool) : (s.pageExchange us).har = s.har :=
  s.pageExchange_comp us .circuits (by decide)

@[simp] theorem State.counters_pageExchange (s : State) (us : Bool) : (s.pageExchange us).counters = s.counters :=
  s.pageExchange_comp us .counters (by decide)

end Sys2Proof.Machine
end

section
/-! SUPPORT. Page swaps taken at a multiframe boundary of the reference side or at a Harness boundary (R168, R169). -/

namespace Sys2Proof.Machine

/-! ### One direction -/

/-- A swap taken in a direction: the page in force until then is kept, the new one is in effect from the boundary at tick
`b`, and no request waits. -/
def State.swapNoted (s : State) (us : Bool) (b : Nat) : State := s.modHar fun h =>
  if us then { h with usOld := s.cmPage 0x940000, usSwap := b, reqUs := 0, deferUs := false }
  else { h with dsOld := s.cmPage 0x930000, dsSwap := b, reqDs := 0, deferDs := false }

/-- One direction of a taken swap: beside what is noted, the pages are exchanged, PEND clears and SWAPS counts. -/
def State.swapOne (s : State) (us : Bool) (b : Nat) : State :=
  (((s.swapNoted us b).pageExchange us).setFlag (pendFld us) 0 false).bump (cktCnt 8)

section
variable (s : State) (us : Bool) (b : Nat)

@[simp] theorem State.har_swapOne : (s.swapOne us b).har = (s.swapNoted us b).har := by
  simp only [State.swapOne, State.setFlag, State.setF, State.bump_har, State.setReg_har, State.har_pageExchange]

theorem State.counter_swapOne : (s.swapOne us b).counter (cktCnt 8) = (s.counter (cktCnt 8) + 1) % 2 ^ 64 := by
  rw [State.swapOne, State.counter_bump, if_pos rfl, State.setFlag, State.setF, State.counter_setReg, State.counter,
    State.counters_pageExchange]
  rfl

theorem State.reg_swapOne_of_ne {k : Nat} (h : k ≠ 0x900008) :
    (s.swapOne us b).reg k = ((s.swapNoted us b).pageExchange us).reg k :=
  State.reg_setReg_ne _ (by cases us <;> exact h.symm) _

/-- Beside CKT_STAT a taken swap writes the pages of its direction. -/
theorem State.reg_swapOne_of_offPages {k : Nat} (h : k ≠ 0x900008) (off : OffPages us k) : (s.swapOne us b).reg k = s.reg k :=
  (s.reg_swapOne_of_ne us b h).trans ((s.swapNoted us b).reg_pageExchange_of_offPages off)

theorem State.pend_swapOne_self : (s.swapOne us b).flag (pendFld us) = false :=
  State.flag_setFlag_self _ (pendFld us) 0 false (by cases us <;> decide) (by cases us <;> rfl)

theorem State.pend_swapOne_other : (s.swapOne us b).flag (pendFld !us) = s.flag (pendFld !us) := by
  have stat : ((s.swapNoted us b).pageExchange us).flag (pendFld !us) = s.flag (pendFld !us) := by
    rw [State.flag, State.f, State.reg_pageExchange_of_offPages _ (offPages_of_lt us (by cases us <;> decide))]
    rfl
  rw [State.swapOne, State.flag_bump, State.flag_setFlag_beside _ false (by cases us <;> rfl) (by cases us <;> decide)
    (by cases us <;> decide), stat]

end

/-! ### Both directions -/

/-- The swaps of the directions that are taken. -/
def State.swapPages (s : State) (ds us : Bool) (bd bu : Nat) : State :=
  let s1 := if ds then s.swapOne false bd else s
  if us then s1.swapOne true bu else s1

/-- A taken swap raises event 224, and before it event 226 where entries of the new upstream page feed one line slot (R161). -/
theorem State.swapTake_cases (s : State) (ds us forced : Bool) (bd bu : Nat) :
    (∃ info, s.swapTake ds us forced bd bu = (s.swapPages ds us bd bu).raise 224 1 0 info) ∨
    ∃ dups info, s.swapTake ds us forced bd bu =
      (((s.swapPages ds us bd bu).setFlag F.CKT_STAT_DUP 0 true).raise 226 1 0 dups).raise 224 1 0 info := by
  unfold State.swapTake
  extract_lets late s1 s2 dups s3
  have pages : s2 = s.swapPages ds us bd bu := rfl
  by_cases none : dups.isEmpty = true
  · have e : s3 = s.swapPages ds us bd bu := (if_pos none).trans pages
    rw [e]
    exact .inl ⟨_, rfl⟩
  · have e : s3 = ((s.swapPages ds us bd bu).setFlag F.CKT_STAT_DUP 0 true).raise 226 1 0 _ :=
      (if_neg none).trans (by rw [pages])
    rw [e]
    exact .inr ⟨_, _, rfl⟩

section
variable (s : State) (ds us forced : Bool) (bd bu : Nat)

@[simp] theorem State.har_swapTake : (s.swapTake ds us forced bd bu).har = (s.swapPages ds us bd bu).har := by
  rcases s.swapTake_cases ds us forced bd bu with ⟨info, e⟩ | ⟨dups, info, e⟩
  · rw [e, State.raise_har]
  · rw [e, State.raise_har, State.raise_har]
    rfl

theorem State.pend_swapTake (d : Bool) :
    (s.swapTake ds us forced bd bu).flag (pendFld d) = (s.swapPages ds us bd bu).flag (pendFld d) := by
  have calm : evtKey (pendFld d).addr = false := by cases d <;> decide
  rcases s.swapTake_cases ds us forced bd bu with ⟨info, e⟩ | ⟨dups, info, e⟩
  · rw [e, State.flag_raise _ (by decide) _ _ _ calm]
  · rw [e, State.flag_raise _ (by decide) _ _ _ calm, State.flag_raise _ (by decide) _ _ _ calm]
    exact State.flag_setFlag_beside _ true (pendFld_addr d).symm (by decide) (by cases d <;> decide)

/-- No swap of a direction that is taken stays pending. -/
theorem State.pendDs_swapTake (h : ds = true) : (s.swapTake ds us forced bd bu).flag F.CKT_STAT_PEND_DS = false := by
  subst h
  refine (s.pend_swapTake true us forced bd bu false).trans ?_
  cases us with
  | false => exact s.pend_swapOne_self false bd
  | true => exact (State.pend_swapOne_other _ true bu).trans (s.pend_swapOne_self false bd)

theorem State.pendUs_swapTake (h : us = true) : (s.swapTake ds us forced bd bu).flag F.CKT_STAT_PEND_US = false := by
  subst h
  exact (s.pend_swapTake ds true forced bd bu true).trans (State.pend_swapOne_self _ true bu)

end

/-! ### The multiframe boundary (R168) -/

section
variable {s : State}

theorem exec_pageSwap (align : s.mfAlign s.harRef = true) (boundary : s.f F.DSF_STAT_MFI (sideOff s.harRef) = 0) :
    exec .pageSwap s = .next (s.swapBoundary (s.line s.harRef).curTick) :=
  congrArg Host.Outcome.next (if_pos (by rw [align, boundary]; rfl))

/-- A downstream swap alone that has waited 2.000 µs is taken. -/
theorem State.swapBoundary_downstream {b : Nat} (pend : s.flag F.CKT_STAT_PEND_DS = true) (free : s.har.forceDs = false)
    (idle : s.flag F.CKT_STAT_PEND_US = false) (waited : s.har.reqDs * 10 + 15552 ≤ (b + 1) * 10) :
    ∃ g info, s.swapBoundary b = ((s.modHar g).swapOne false b).raise 224 1 0 info := by
  simp only [State.swapBoundary, pend, free, idle, waited, Bool.not_false, Bool.and_self, Bool.false_and, Bool.or_false,
    decide_true, if_true]
  exact ⟨_, _, rfl⟩

end

/-- Settles O26: the boundary takes the downstream swap, whose exchange moves each entry and leaves the upstream pages. -/
theorem pageExchange : Obligations.PageExchange := by
  intro s mem aligned align boundary pend free idle waited
  obtain ⟨g, info, takes⟩ := State.swapBoundary_downstream pend free idle waited
  have canonical : swf regDefault s.regs = true := by
    simp only [State.memOk, Bool.and_eq_true] at mem
    obtain ⟨⟨⟨⟨⟨⟨regs, -⟩, -⟩, -⟩, -⟩, -⟩, -⟩ := mem
    exact regs
  refine ⟨_, exec_pageSwap align boundary, ?_⟩
  rw [takes]
  have page {k : Nat} (low : 0x910000 ≤ k) (high : k < 0x950000) :
      (((s.modHar g).swapOne false (s.line s.harRef).curTick).raise 224 1 0 info).reg k =
        (((s.modHar g).swapNoted false (s.line s.harRef).curTick).pageExchange false).reg k :=
    (State.reg_raise _ _ _ _ _ _ (by decide) (by simp [evtKey]; omega)).trans (State.reg_swapOne_of_ne _ _ _ (by omega))
  refine ⟨?pend, ?req, ?swaps, fun h hh => ?downstream, fun h hh => ?upstream⟩
  case pend =>
    rw [State.flag_raise _ (by decide) _ _ _ (by decide)]
    exact State.pend_swapOne_self _ false _
  case req => rw [State.raise_har, State.har_swapOne]; rfl
  case swaps => rw [State.counter_raise _ _ _ _ _ _ (by decide) (by decide), State.counter_swapOne, State.counter_modHar]
  case downstream =>
    rw [page (by omega) (by omega), page (by omega) (by omega)]
    exact State.reg_pageExchange (s := (s.modHar g).swapNoted false _) canonical aligned false hh
  case upstream =>
    have off {k : Nat} (up : 0x920000 ≤ k ∧ k < 0x930000 ∨ 0x940000 ≤ k) : OffPages false k := by
      simp only [OffPages, standbyBase, activeBase, Bool.false_eq_true, if_false]; omega
    rw [page (by omega) (by omega), page (by omega) (by omega), State.reg_pageExchange_of_offPages _ (off (by omega)),
      State.reg_pageExchange_of_offPages _ (off (by omega))]
    exact ⟨rfl, rfl⟩

end Sys2Proof.Machine
end

section
/-! SUPPORT. A Harness frame boundary, an alignment and the commands of CKT_CTRL (R163 to R166, R168, R169, R180). -/

namespace Sys2Proof.Machine

/-! ### What a boundary's operations leave of the circuit part -/

/-- What the boundary itself and the upstream copy use: the boundary to come, an alignment's, the receive frames, the copies
and a FORCE that waits. -/
def HarSt.frames (h : HarSt) : HarSt :=
  { boundary := h.boundary, alignAt := h.alignAt, rxDone := h.rxDone, copies := h.copies,
    forceDs := h.forceDs, forceUs := h.forceUs }

section
variable (s : State) (x : Side) (h : Nat)

theorem State.harTxEnd_cases : ∃ g, s.harTxEnd h = s.modHar g ∧ (g s.har).frames = s.har.frames := by
  unfold State.harTxEnd
  extract_lets b k
  split
  · exact ⟨id, rfl, rfl⟩
  · exact ⟨_, rfl, by simp only [HarSt.frames]⟩

theorem State.frames_swapNoted (us : Bool) (b : Nat) : (s.swapNoted us b).har.frames = s.har.frames := by
  cases us <;> rfl

theorem State.frames_swapPages (ds us : Bool) (bd bu : Nat) : (s.swapPages ds us bd bu).har.frames = s.har.frames := by
  cases ds <;> cases us <;>
    simp only [State.swapPages, State.har_swapOne, State.frames_swapNoted, Bool.false_eq_true, if_true, if_false]

/-- An association: CKT_LAT of the side, and FRAME_SLIP where a frame is repeated or skipped (R165). -/
theorem State.associate_cases : ∃ t : State, t.har.frames = s.har.frames ∧ Only [0x900010 + 4 * sideNo x] [] s t ∧
    (s.associate x h = t ∨ ∃ info, s.associate x h = (t.bump (cktCnt (5 + sideNo x))).raise 232 1 0 info) := by
  unfold State.associate
  extract_lets r s1 s2
  obtain ⟨frames, noted⟩ : s1.har.frames = s.har.frames ∧ Only [] [] s s1 := by
    cases x <;> exact ⟨rfl, s.only_modHar _⟩
  obtain ⟨har, shown⟩ : s2.har = s1.har ∧ Only [0x900010 + 4 * sideNo x] [] s1 s2 := by
    cases associated : r.1 with
    | some c =>
      simp only [s2, associated]
      exact ⟨rfl, s1.only_setReg _ _⟩
    | none =>
      simp only [s2, associated]
      exact ⟨rfl, s1.only_setFlag F.CKT_LAT_VALID _ false⟩
  refine ⟨s2, (congrArg HarSt.frames har).trans frames, noted.trans shown, ?_⟩
  split
  · exact .inr ⟨_, rfl⟩
  · exact .inl rfl

theorem State.frames_associate : (s.associate x h).har.frames = s.har.frames := by
  obtain ⟨t, frames, -, e | ⟨info, e⟩⟩ := s.associate_cases x h
  · rw [e, frames]
  · rw [e, State.raise_har, State.bump_har, frames]

theorem State.only_associate : Only [0x900010 + 4 * sideNo x] [cktCnt (5 + sideNo x)] s (s.associate x h) := by
  obtain ⟨t, -, only, e | ⟨info, e⟩⟩ := s.associate_cases x h
  · rw [e]
    exact only.mono (List.Subset.refl _) (List.nil_subset _)
  · rw [e]
    exact ((only.trans (t.only_bump _ 1)).trans (State.only_raise _ (by decide) _ _ _)).mono (by simp) (by simp)

theorem State.dsFillCount_cases : ∃ (t : State) (a b : Nat), t.har = s.har ∧ Only [] [] s t ∧
    s.dsFillCount h = (t.bump (cktCnt 0) a).bump (cktCnt 1) b := by
  unfold State.dsFillCount
  extract_lets page fills a b none3 r s1
  refine ⟨s1, _, _, ?_, ?_, rfl⟩
  · simp only [s1]; split <;> rfl
  · simp only [s1]; split
    · exact .refl s
    · exact ⟨fun _ _ _ => rfl, fun _ _ _ => rfl⟩

theorem State.har_dsFillCount : (s.dsFillCount h).har = s.har := by
  obtain ⟨t, a, b, har, -, e⟩ := s.dsFillCount_cases h
  rw [e, State.bump_har, State.bump_har, har]

theorem State.only_dsFillCount : Only [] [cktCnt 0, cktCnt 1] s (s.dsFillCount h) := by
  obtain ⟨t, a, b, -, only, e⟩ := s.dsFillCount_cases h
  rw [e]
  exact (only.trans (t.only_bump _ a)).trans (State.only_bump _ _ b)

/-! ### The upstream copy (R166) -/

/-- Without a receive frame completed since the last copy, the copy repeats that one's bytes as fill. -/
def State.usRepeated : State := s.modHar fun t => { t with
  copies := ({ tick := h, rows := (s.har.copies.head?.map UsCopy.rows).getD [], again := true } :: t.copies).take 8 }

/-- The copy of receive frame `d`. -/
def State.usTaken (d : UsCopy) : State :=
  (s.modHar fun t => { t with copies := ({ tick := h, rows := d.rows } :: t.copies).take 8, rxDone := [] }).setF
    F.HAR_RX_PHASE_PHASE 0 (h - d.tick)

variable {s} in
theorem State.usCopy_of_none (empty : s.har.rxDone = []) :
    s.usCopy h = ((s.usRepeated h).bump (cktCnt 7)).raise 232 1 0 4 := by
  simp only [State.usCopy, empty, List.getLast?_nil]
  rfl

variable {s} in
theorem State.usCopy_of_one {d : UsCopy} (one : s.har.rxDone = [d]) : s.usCopy h = s.usTaken h d := by
  simp only [State.usCopy, one, List.getLast?_singleton]
  rfl

variable {s} in
theorem State.usCopy_of_more {d e : UsCopy} {l : List UsCopy} (more : s.har.rxDone = d :: e :: l) :
    ∃ c, s.usCopy h = ((s.usTaken h c).bump (cktCnt 7)).raise 232 1 0 6 := by
  have last : s.har.rxDone.getLast? = some ((e :: l).getLast (by simp)) := by rw [more]; rfl
  have two : 2 ≤ s.har.rxDone.length := by rw [more]; simp
  simp only [State.usCopy, last, decide_eq_true two, if_true]
  exact ⟨_, rfl⟩

variable {s} in
/-- A repeated copy counts as a slip. -/
theorem State.usCopy_repeats (empty : s.har.rxDone = []) : ∃ c, (s.usCopy h).har.copies = (c :: s.har.copies).take 8 ∧
    c.tick = h ∧ c.again = true ∧ (s.usCopy h).counter (cktCnt 7) = (s.counter (cktCnt 7) + 1) % 2 ^ 64 := by
  rw [State.usCopy_of_none h empty, State.raise_har, State.counter_raise _ _ _ _ _ _ (by decide) (by decide),
    State.counter_bump, if_pos rfl]
  exact ⟨_, rfl, rfl, rfl, rfl⟩

variable {s} in
/-- The copy of the one receive frame completed is no slip. -/
theorem State.usCopy_takes {d : UsCopy} (one : s.har.rxDone = [d]) : ∃ c, (s.usCopy h).har.copies = (c :: s.har.copies).take 8 ∧
    c.tick = h ∧ c.rows = d.rows ∧ c.again = false ∧ (s.usCopy h).har.rxDone = [] ∧
    (s.usCopy h).counter (cktCnt 7) = s.counter (cktCnt 7) := by
  rw [State.usCopy_of_one h one]
  exact ⟨_, rfl, rfl, rfl, rfl, rfl, rfl⟩

/-- The upstream copy changes the copies and the receive frames, HAR_RX_PHASE and US_SLIP. -/
theorem State.usCopy_leaves : (∃ cs ds, (s.usCopy h).har.frames = { s.har.frames with copies := cs, rxDone := ds }) ∧
    Only [0x980030] [cktCnt 7] s (s.usCopy h) := by
  have repeated : Only [] [] s (s.usRepeated h) := s.only_modHar _
  have taken (d : UsCopy) : Only [0x980030] [] s (s.usTaken h d) :=
    (s.only_modHar _).trans (State.only_setF _ F.HAR_RX_PHASE_PHASE 0 _)
  match done : s.har.rxDone with
  | [] =>
    rw [State.usCopy_of_none h done]
    refine ⟨⟨_, _, by rw [State.raise_har]; rfl⟩, ?_⟩
    exact ((repeated.trans (State.only_bump _ _ 1)).trans (State.only_raise _ (by decide) _ _ _)).mono (List.nil_subset _)
      (List.Subset.refl _)
  | [d] =>
    rw [State.usCopy_of_one h done]
    exact ⟨⟨_, _, rfl⟩, (taken d).mono (List.Subset.refl _) (List.nil_subset _)⟩
  | d :: e :: l =>
    obtain ⟨c, eq⟩ := State.usCopy_of_more h done
    rw [eq]
    refine ⟨⟨_, _, by rw [State.raise_har]; rfl⟩, ?_⟩
    exact ((taken c).trans (State.only_bump _ _ 1)).trans (State.only_raise _ (by decide) _ _ _)

/-! ### The boundary (R163 to R166, R169) -/

/-- The boundary to come is set, and FORCE is taken. -/
def State.harTurn : State := (s.harTxEnd h).modHar fun t => { t with
  boundary := if h < s.har.alignAt then min (h + 97200) s.har.alignAt else h + 97200
  alignAt := if h < s.har.alignAt then s.har.alignAt else 0
  assocA := if s.har.alignAt = h then none else t.assocA, assocB := if s.har.alignAt = h then none else t.assocB
  againA := if s.har.alignAt = h then false else t.againA, againB := if s.har.alignAt = h then false else t.againB
  forceDs := false, forceUs := false, txStart := if s.flag F.HAR_STAT_TX_TRAIN then 0 else h }

/-- The boundary with the forced swaps taken (R169). -/
def State.harSwapped : State :=
  if s.har.forceDs || s.har.forceUs then (s.harTurn h).swapTake s.har.forceDs s.har.forceUs true 0 h else s.harTurn h

/-- The boundary up to the upstream copy: the associations are chosen and the fill counted. -/
def State.harCounted : State := (((s.harSwapped h).associate .a h).associate .b h).dsFillCount h

theorem State.harBoundary_eq : s.harBoundary h = (s.harCounted h).usCopy h := rfl

/-- What the boundary at tick `h` leaves of them before the upstream copy. -/
def HarSt.turned (t : HarSt) : HarSt := { t.frames with
  boundary := if h < t.alignAt then min (h + 97200) t.alignAt else h + 97200
  alignAt := if h < t.alignAt then t.alignAt else 0
  forceDs := false, forceUs := false }

theorem State.frames_harTurn : (s.harTurn h).har.frames = s.har.turned h := by
  obtain ⟨g, e, same⟩ := s.harTxEnd_cases h
  have done : (g s.har).rxDone = s.har.rxDone := (congrArg HarSt.rxDone same :)
  have copies : (g s.har).copies = s.har.copies := (congrArg HarSt.copies same :)
  simp only [State.harTurn, e, State.modHar_har, HarSt.frames, HarSt.turned, done, copies]

theorem State.only_harTurn : Only [] [] s (s.harTurn h) := by
  obtain ⟨g, e, -⟩ := s.harTxEnd_cases h
  rw [State.harTurn, e]
  exact (s.only_modHar g).trans (State.only_modHar _ _)

theorem State.frames_harCounted : (s.harCounted h).har.frames = s.har.turned h := by
  have swapped : (s.harSwapped h).har.frames = (s.harTurn h).har.frames := by
    unfold State.harSwapped
    split
    · rw [State.har_swapTake, State.frames_swapPages]
    · rfl
  rw [State.harCounted, State.har_dsFillCount, State.frames_associate, State.frames_associate, swapped, State.frames_harTurn]

theorem State.only_harCounted :
    Only [0x900010, 0x900014] [cktCnt 5, cktCnt 6, cktCnt 0, cktCnt 1] (s.harSwapped h) (s.harCounted h) :=
  ((State.only_associate _ .a h).trans (State.only_associate _ .b h)).trans (State.only_dsFillCount _ h)

variable {s} in
/-- No slip has counted yet where no swap is forced. -/
theorem State.slips_harCounted (ds : s.har.forceDs = false) (us : s.har.forceUs = false) :
    (s.harCounted h).counter (cktCnt 7) = s.counter (cktCnt 7) := by
  have swapped : s.harSwapped h = s.harTurn h := if_neg (by simp [ds, us])
  exact ((s.only_harCounted h).counters _ (by decide) (by decide)).trans
    (by rw [swapped]; exact (s.only_harTurn h).counters _ (by decide) (by decide))

theorem State.frames_harBoundary :
    ∃ cs ds, (s.harBoundary h).har.frames = { s.har.turned h with copies := cs, rxDone := ds } := by
  obtain ⟨⟨cs, ds, e⟩, -⟩ := (s.harCounted h).usCopy_leaves h
  exact ⟨cs, ds, by rw [State.harBoundary_eq, e, State.frames_harCounted]⟩

/-- No forced swap stays pending. -/
theorem State.pend_harBoundary (us : Bool) (forced : (if us then s.har.forceUs else s.har.forceDs) = true) :
    (s.harBoundary h).flag (pendFld us) = false := by
  have calm : evtKey (pendFld us).addr = false := by cases us <;> decide
  have later : (s.harBoundary h).flag (pendFld us) = (s.harSwapped h).flag (pendFld us) :=
    ((s.only_harCounted h).trans ((s.harCounted h).usCopy_leaves h).2).flag _ (by cases us <;> decide) calm
  rw [later]
  cases us with
  | false =>
    replace forced : s.har.forceDs = true := forced
    rw [State.harSwapped, if_pos (by simp [forced])]
    exact State.pendDs_swapTake _ _ _ _ _ _ forced
  | true =>
    replace forced : s.har.forceUs = true := forced
    rw [State.harSwapped, if_pos (by simp [forced])]
    exact State.pendUs_swapTake _ _ _ _ _ _ forced

end

theorem exec_harnessFrameBoundary {s : State} (en : s.harEn = true) (up : s.regionUp 4 = true) :
    exec .harnessFrameBoundary s = .next (s.harBoundary (if s.har.boundary = 0 then s.tick else s.har.boundary)) :=
  congrArg Host.Outcome.next (if_pos (by rw [en, up]; rfl))

/-! ### Alignment (R163) -/

theorem exec_harnessAlign {s : State} (want : s.har.wantAlign = true) (en : s.harEn = true) (valid : s.dsValid s.harRef = true) :
    exec .harnessAlign s = .next (s.harPlace (s.line s.harRef).curTick s.har.laterAlign) :=
  congrArg Host.Outcome.next (if_pos (by rw [want, en, valid]; rfl))

section
variable (s : State) (b : Nat) (later : Bool)

theorem State.har_harPlace : (s.harPlace b later).har = { s.har with
    alignAt := b + 101088, wantAlign := false, laterAlign := false,
    boundary := if s.har.boundary = 0 then b + 101088 else min s.har.boundary (b + 101088) } := by
  rw [State.harPlace, State.raise_har]
  rfl

/-- An alignment shows ALIGNED and raises event 234, which names the reference side. -/
theorem State.harPlace_reports :
    (s.harPlace b later).flag F.CKT_STAT_ALIGNED = true ∧ Only [0x900008] [] s (s.harPlace b later) ∧
    Raised s (s.harPlace b later) 234 1 0 (sideNo s.harRef + (if later then 2 else 0)) := by
  unfold State.harPlace
  extract_lets x s1
  have noted : RegsWithin [0x900008] s (s1.setFlag F.CKT_STAT_ALIGNED 0 true) := s1.regsWithin_setFlag F.CKT_STAT_ALIGNED 0 true
  refine ⟨?aligned, (noted.only rfl).trans (State.only_raise _ (by decide) _ _ _),
    (State.raised _ 234 1 0 _ (by decide) (by decide)).of_regsWithin noted (by decide) (by decide) rfl rfl⟩
  rw [State.flag_raise _ (by decide) _ _ _ (by decide)]
  exact s1.flag_setFlag_self F.CKT_STAT_ALIGNED 0 true (by decide) rfl

end

/-! ### Requests of CKT_CTRL (R168, R170) -/

/-- A request where none is pending sets PEND of its direction and notes its tick. -/
theorem State.swapRequest_new {s : State} {us : Bool} (idle : s.flag (pendFld us) = false) :
    (s.swapRequest us).flag (pendFld us) = true ∧ (s.swapRequest us).flag (pendFld !us) = s.flag (pendFld !us) ∧
      Only [0x900008] [] s (s.swapRequest us) ∧
      (if us then (s.swapRequest us).har.reqUs else (s.swapRequest us).har.reqDs) = s.tick + 1 := by
  have e : s.swapRequest us = (s.setFlag (pendFld us) 0 true).modHar fun h =>
      if us then { h with reqUs := s.tick + 1, deferUs := false } else { h with reqDs := s.tick + 1, deferDs := false } :=
    if_neg (by simpa [pendFld] using idle)
  rw [e]
  have within : (pendFld us).lo + (pendFld us).w ≤ 32 := by cases us <;> decide
  refine ⟨?self, ?other, ?only, ?req⟩
  case self => exact s.flag_setFlag_self (pendFld us) 0 true within (by cases us <;> rfl)
  case other => exact s.flag_setFlag_beside true (by cases us <;> rfl) within (by cases us <;> decide)
  case only =>
    have stat := s.only_setFlag (pendFld us) 0 true
    rw [pendFld_addr] at stat
    exact stat.trans (State.only_modHar _ _)
  case req => cases us <;> rfl

theorem swapInstr_new {s : State} {q : Req} {us : Bool} (r : Reach s q 0x900004) (g : s.grade ≠ .fbx)
    (idle : s.flag (pendFld us) = false) : ∃ t, exec (swapInstr q us) s = .next t ∧ t.flag (pendFld us) = true ∧
      (if us then t.har.reqUs else t.har.reqDs) = s.tick + 1 ∧ t.flag (pendFld !us) = s.flag (pendFld !us) ∧
      Only [0x900008] [] s t := by
  obtain ⟨self, other, only, req⟩ := State.swapRequest_new idle
  exact ⟨_, exec_swapInstr r g us, self, req, other, only⟩

/-- Settles O25: each clause is what its command's operation comes to, on FX9840-FBX and elsewhere. -/
theorem circuits : Obligations.Circuits := by
  refine ⟨?disabled, ?copy, ?boundary, ?align, ?control, ?fbx, ?standby⟩
  case disabled =>
    intro s off
    exact congrArg Host.Outcome.next (if_neg (by simp [off]))
  case copy =>
    intro s h en up ds us at' pos
    have run : exec .harnessFrameBoundary s = .next ((s.harCounted h).usCopy h) := by
      rw [exec_harnessFrameBoundary en up, if_neg (at' ▸ pos), at', State.harBoundary_eq]
    have before := s.frames_harCounted h
    have done : (s.harCounted h).har.rxDone = s.har.rxDone := (congrArg HarSt.rxDone before :)
    have copies : (s.harCounted h).har.copies = s.har.copies := (congrArg HarSt.copies before :)
    have slips := State.slips_harCounted h ds us
    refine ⟨fun empty => ?repeats, fun c one => ?takes⟩
    case repeats =>
      obtain ⟨cs, rs, frames⟩ := s.frames_harBoundary h
      obtain ⟨c, added, tick, again, slip⟩ := State.usCopy_repeats h (done.trans empty)
      rw [copies] at added
      rw [slips] at slip
      exact ⟨_, c, run, (congrArg HarSt.boundary frames :), (congrArg HarSt.alignAt frames :), added, tick, again, slip⟩
    case takes =>
      obtain ⟨d, added, tick, rows, again, taken, slip⟩ := State.usCopy_takes h (done.trans one)
      rw [copies] at added
      rw [slips] at slip
      exact ⟨_, d, run, added, tick, rows, again, taken, slip⟩
  case boundary =>
    intro s en up
    obtain ⟨cs, rs, frames⟩ := s.frames_harBoundary (if s.har.boundary = 0 then s.tick else s.har.boundary)
    refine ⟨_, exec_harnessFrameBoundary en up, (congrArg HarSt.forceDs frames :), (congrArg HarSt.forceUs frames :), ?_,
      s.pend_harBoundary _ false, s.pend_harBoundary _ true⟩
    intro none
    refine (congrArg HarSt.boundary frames :).trans (if_neg ?_)
    rw [none]
    exact Nat.not_lt_zero _
  case align =>
    intro s want en valid
    obtain ⟨aligned, only, raised⟩ := s.harPlace_reports (s.line s.harRef).curTick s.har.laterAlign
    refine ⟨_, exec_harnessAlign want en valid, ?_, ?_, ?_, aligned, only, raised⟩ <;> rw [State.har_harPlace]
  case control =>
    intro s q r g
    exact ⟨⟨_, congrArg Host.Outcome.next (State.guardW_harW_of_reach _ r g), rfl, rfl, rfl⟩,
      swapInstr_new (us := false) r g, swapInstr_of_pending (us := false) r,
      swapInstr_new (us := true) r g, swapInstr_of_pending (us := true) r,
      ⟨_, congrArg Host.Outcome.next (State.guardW_harW_of_reach _ r g), rfl, rfl, rfl⟩⟩
  case fbx =>
    intro s q r g
    exact ⟨congrArg Host.Outcome.next (State.guardW_harW_of_fbx _ r g), exec_swapInstr_of_fbx r g false,
      exec_swapInstr_of_fbx r g true, congrArg Host.Outcome.next (State.guardW_harW_of_fbx _ r g)⟩
  case standby =>
    intro s q us h v r g
    refine ⟨fun idle => ⟨_, exec_cmStandbyWrite r g v, ?_⟩, fun pend => ?_⟩
    · rw [State.cmWrite_of_not_pending idle]
      exact ⟨s.reg_setReg_self _ _, s.only_setReg _ _⟩
    · obtain ⟨busy, only, raised, -⟩ := State.cmWrite_discarded (h := h.val) pend v
      exact ⟨_, exec_cmStandbyWrite r g v, busy, only, raised⟩

end Sys2Proof.Machine
end
